-- ==== Sys2Proof/Word.lean ====
section
/-! DEFINITION. The word types of the SZ9 and nothing else: a 64-bit register word, a byte, a 32-bit instruction word, a
128-byte line, the 32 threads' 64-bit words of one V register or queue entry, and the 256 byte-position bits that go
with them (R16, R33, R142). -/

namespace Sys2Proof

/-- A 64-bit register word. -/
abbrev Word := BitVec 64

/-- A byte of memory. -/
abbrev Byte := BitVec 8

/-- A 128-byte line, the byte at the lowest address in bits [7:0] (R6). -/
abbrev Line := BitVec 1024

/-- The 64-bit words of 32 threads: thread t holds bits [64t + 63 : 64t]. -/
abbrev Row := BitVec 2048

/-- One bit per byte position of a Row: byte 8t + j belongs to thread t (R142). -/
abbrev ByteMask := BitVec 256

/-- One bit per thread of a group. -/
abbrev Mask := BitVec 32

end Sys2Proof
end

