-- ==== Sys2Proof/Syntax.lean ====
section
/-! DEFINITION. The instructions of the SZ9: one constructor per row of spec/opcode_table.json.

The encoded instructions come first (the compute stream's, the access stream's, the Weir's), then the machine
operations. An encoded instruction carries the fields the table gives its word, under the table's field names (s is the
switch marker of R27). A machine operation that has no word (the table gives it no fields) carries the
arguments that say which unit, line, group or packet it concerns; they are the choices R1 leaves to the
module, made plain data. -/

namespace Sys2Proof

/-- What one event of a granted matrix pass does: it reads one granule alone (the granules of one pass may come from different points in the writes' order,
R192), or it completes the pass (R308). `slot` is the entry of the cluster's reservation table. -/
inductive PassStep where
  | read (slot line : Nat)
  | complete (slot : Nat)
  deriving DecidableEq, Repr

/-- One constructor per row of the opcode table. -/
inductive Instr where
  /- The compute stream (R32, R36). -/
  | nop (s : BitVec 1)
  | bra (s : BitVec 1) (o : BitVec 24)
  | brc (s : BitVec 1) (r : BitVec 4) (c : BitVec 3) (o : BitVec 17)
  | brd (s : BitVec 1) (p : BitVec 3) (n : BitVec 1) (o : BitVec 20)
  | jmpi (s : BitVec 1) (a : BitVec 6)
  | call (s : BitVec 1) (o : BitVec 24)
  | ret (s : BitVec 1)
  | modei (s : BitVec 1) (i : BitVec 20)
  | moder (s : BitVec 1) (a : BitVec 6)
  | bar (s : BitVec 1) (a : BitVec 6)
  | syncs (s : BitVec 1) (a : BitVec 6)
  | gbar (s : BitVec 1)
  | waitc (s : BitVec 1) (a : BitVec 6) (b : BitVec 6)
  | waitm (s : BitVec 1) (a : BitVec 6) (b : BitVec 6)
  | sleep (s : BitVec 1) (a : BitVec 6) (i : BitVec 12)
  | yield (s : BitVec 1)
  | launch (s : BitVec 1) (d : BitVec 6) (a : BitVec 6) (b : BitVec 6)
  | joinc (s : BitVec 1) (a : BitVec 6)
  | exit (s : BitVec 1)
  | trap (s : BitVec 1) (i : BitVec 20)
  | tret (s : BitVec 1)
  | gets (s : BitVec 1) (d : BitVec 6) (i : BitVec 12)
  | puts (s : BitVec 1) (a : BitVec 6) (i : BitVec 12)
  | clockCycle (s : BitVec 1) (d : BitVec 6)
  | clockHubcyc (s : BitVec 1) (d : BitVec 6)
  | clockPtpns (s : BitVec 1) (d : BitVec 6)
  | gset (s : BitVec 1) (d : BitVec 6) (a : BitVec 6) (b : BitVec 6) (f : BitVec 6)
  | bkpt (s : BitVec 1) (i : BitVec 20)
  | add (s : BitVec 1) (d : BitVec 6) (a : BitVec 6) (b : BitVec 6)
  | sub (s : BitVec 1) (d : BitVec 6) (a : BitVec 6) (b : BitVec 6)
  | mul (s : BitVec 1) (d : BitVec 6) (a : BitVec 6) (b : BitVec 6)
  | mulh (s : BitVec 1) (d : BitVec 6) (a : BitVec 6) (b : BitVec 6)
  | min (s : BitVec 1) (d : BitVec 6) (a : BitVec 6) (b : BitVec 6)
  | max (s : BitVec 1) (d : BitVec 6) (a : BitVec 6) (b : BitVec 6)
  | and (s : BitVec 1) (d : BitVec 6) (a : BitVec 6) (b : BitVec 6)
  | or (s : BitVec 1) (d : BitVec 6) (a : BitVec 6) (b : BitVec 6)
  | xor (s : BitVec 1) (d : BitVec 6) (a : BitVec 6) (b : BitVec 6)
  | andn (s : BitVec 1) (d : BitVec 6) (a : BitVec 6) (b : BitVec 6)
  | shl (s : BitVec 1) (d : BitVec 6) (a : BitVec 6) (b : BitVec 6)
  | shr (s : BitVec 1) (d : BitVec 6) (a : BitVec 6) (b : BitVec 6)
  | rot (s : BitVec 1) (d : BitVec 6) (a : BitVec 6) (b : BitVec 6)
  | addc (s : BitVec 1) (d : BitVec 6) (a : BitVec 6) (b : BitVec 6)
  | subb (s : BitVec 1) (d : BitVec 6) (a : BitVec 6) (b : BitVec 6)
  | absd (s : BitVec 1) (d : BitVec 6) (a : BitVec 6) (b : BitVec 6)
  | neg (s : BitVec 1) (d : BitVec 6) (a : BitVec 6)
  | abs (s : BitVec 1) (d : BitVec 6) (a : BitVec 6)
  | not (s : BitVec 1) (d : BitVec 6) (a : BitVec 6)
  | clz (s : BitVec 1) (d : BitVec 6) (a : BitVec 6)
  | ctz (s : BitVec 1) (d : BitVec 6) (a : BitVec 6)
  | popc (s : BitVec 1) (d : BitVec 6) (a : BitVec 6)
  | brev (s : BitVec 1) (d : BitVec 6) (a : BitVec 6)
  | mad (s : BitVec 1) (d : BitVec 6) (a : BitVec 6) (b : BitVec 6) (c : BitVec 6)
  | bfe (s : BitVec 1) (d : BitVec 6) (a : BitVec 6) (b : BitVec 6) (c : BitVec 6)
  | bfi (s : BitVec 1) (d : BitVec 6) (a : BitVec 6) (b : BitVec 6) (c : BitVec 6)
  | addi (s : BitVec 1) (d : BitVec 6) (a : BitVec 6) (i : BitVec 12)
  | shi (s : BitVec 1) (d : BitVec 6) (a : BitVec 6) (k : BitVec 2) (n : BitVec 6)
  | lit (s : BitVec 1) (d : BitVec 6) (h : BitVec 2) (i : BitVec 16)
  | cmp (s : BitVec 1) (d : BitVec 6) (a : BitVec 6) (b : BitVec 6) (c : BitVec 6)
  | sel (s : BitVec 1) (d : BitVec 6) (a : BitVec 6) (b : BitVec 6) (c : BitVec 6)
  | pand (s : BitVec 1) (d : BitVec 6) (a : BitVec 6) (b : BitVec 6)
  | por (s : BitVec 1) (d : BitVec 6) (a : BitVec 6) (b : BitVec 6)
  | pxor (s : BitVec 1) (d : BitVec 6) (a : BitVec 6) (b : BitVec 6)
  | pnot (s : BitVec 1) (d : BitVec 6) (a : BitVec 6)
  | pmov (s : BitVec 1) (d : BitVec 6) (a : BitVec 6) (b : BitVec 6)
  | pset (s : BitVec 1) (d : BitVec 6) (a : BitVec 6)
  | pget (s : BitVec 1) (d : BitVec 6) (a : BitVec 6)
  | mov (s : BitVec 1) (d : BitVec 6) (a : BitVec 6)
  | bcst (s : BitVec 1) (d : BitVec 6) (a : BitVec 6) (b : BitVec 6)
  | vtos (s : BitVec 1) (d : BitVec 6) (a : BitVec 6) (b : BitVec 6)
  | stov (s : BitVec 1) (d : BitVec 6) (a : BitVec 6) (b : BitVec 6)
  | fadd (s : BitVec 1) (d : BitVec 6) (a : BitVec 6) (b : BitVec 6)
  | fsub (s : BitVec 1) (d : BitVec 6) (a : BitVec 6) (b : BitVec 6)
  | fmul (s : BitVec 1) (d : BitVec 6) (a : BitVec 6) (b : BitVec 6)
  | fmin (s : BitVec 1) (d : BitVec 6) (a : BitVec 6) (b : BitVec 6)
  | fmax (s : BitVec 1) (d : BitVec 6) (a : BitVec 6) (b : BitVec 6)
  | fcpys (s : BitVec 1) (d : BitVec 6) (a : BitVec 6) (b : BitVec 6)
  | fabs (s : BitVec 1) (d : BitVec 6) (a : BitVec 6)
  | fneg (s : BitVec 1) (d : BitVec 6) (a : BitVec 6)
  | frnd (s : BitVec 1) (d : BitVec 6) (a : BitVec 6)
  | fclass (s : BitVec 1) (d : BitVec 6) (a : BitVec 6)
  | fma (s : BitVec 1) (d : BitVec 6) (a : BitVec 6) (b : BitVec 6) (c : BitVec 6)
  | fms (s : BitVec 1) (d : BitVec 6) (a : BitVec 6) (b : BitVec 6) (c : BitVec 6)
  | fnma (s : BitVec 1) (d : BitVec 6) (a : BitVec 6) (b : BitVec 6) (c : BitVec 6)
  | fnms (s : BitVec 1) (d : BitVec 6) (a : BitVec 6) (b : BitVec 6) (c : BitVec 6)
  | frcp (s : BitVec 1) (d : BitVec 6) (a : BitVec 6)
  | frsq (s : BitVec 1) (d : BitVec 6) (a : BitVec 6)
  | fsqrt (s : BitVec 1) (d : BitVec 6) (a : BitVec 6)
  | fexp2 (s : BitVec 1) (d : BitVec 6) (a : BitVec 6)
  | flog2 (s : BitVec 1) (d : BitVec 6) (a : BitVec 6)
  | fsin (s : BitVec 1) (d : BitVec 6) (a : BitVec 6)
  | fcos (s : BitVec 1) (d : BitVec 6) (a : BitVec 6)
  | ftanh (s : BitVec 1) (d : BitVec 6) (a : BitVec 6)
  | fdiv (s : BitVec 1) (d : BitVec 6) (a : BitVec 6) (b : BitVec 6)
  | cvt (s : BitVec 1) (d : BitVec 6) (a : BitVec 6)
  | cvts (s : BitVec 1) (d : BitVec 6) (a : BitVec 6) (b : BitVec 6)
  | pack (s : BitVec 1) (d : BitVec 6) (a : BitVec 6) (b : BitVec 6)
  | unpk (s : BitVec 1) (d : BitVec 6) (a : BitVec 6) (b : BitVec 6)
  | qnt (s : BitVec 1) (d : BitVec 6) (a : BitVec 6) (b : BitVec 6) (q : BitVec 2) (k : BitVec 3)
  | dqnt (s : BitVec 1) (d : BitVec 6) (a : BitVec 6) (b : BitVec 6) (q : BitVec 2) (k : BitVec 3)
  | sadd (s : BitVec 1) (d : BitVec 6) (a : BitVec 6) (b : BitVec 6)
  | ssub (s : BitVec 1) (d : BitVec 6) (a : BitVec 6) (b : BitVec 6)
  | smul (s : BitVec 1) (d : BitVec 6) (a : BitVec 6) (b : BitVec 6)
  | smulh (s : BitVec 1) (d : BitVec 6) (a : BitVec 6) (b : BitVec 6)
  | smin (s : BitVec 1) (d : BitVec 6) (a : BitVec 6) (b : BitVec 6)
  | smax (s : BitVec 1) (d : BitVec 6) (a : BitVec 6) (b : BitVec 6)
  | sand (s : BitVec 1) (d : BitVec 6) (a : BitVec 6) (b : BitVec 6)
  | sor (s : BitVec 1) (d : BitVec 6) (a : BitVec 6) (b : BitVec 6)
  | sxor (s : BitVec 1) (d : BitVec 6) (a : BitVec 6) (b : BitVec 6)
  | sandn (s : BitVec 1) (d : BitVec 6) (a : BitVec 6) (b : BitVec 6)
  | sshl (s : BitVec 1) (d : BitVec 6) (a : BitVec 6) (b : BitVec 6)
  | sshr (s : BitVec 1) (d : BitVec 6) (a : BitVec 6) (b : BitVec 6)
  | srot (s : BitVec 1) (d : BitVec 6) (a : BitVec 6) (b : BitVec 6)
  | saddi (s : BitVec 1) (d : BitVec 6) (a : BitVec 6) (i : BitVec 12)
  | slit (s : BitVec 1) (d : BitVec 6) (h : BitVec 2) (i : BitVec 16)
  | xchx (s : BitVec 1) (d : BitVec 6) (a : BitVec 6) (b : BitVec 6)
  | xchu (s : BitVec 1) (d : BitVec 6) (a : BitVec 6) (b : BitVec 6)
  | xchd (s : BitVec 1) (d : BitVec 6) (a : BitVec 6) (b : BitVec 6)
  | xchxk (s : BitVec 1) (d : BitVec 6) (a : BitVec 6) (b : BitVec 6)
  | xchuk (s : BitVec 1) (d : BitVec 6) (a : BitVec 6) (b : BitVec 6)
  | xchdk (s : BitVec 1) (d : BitVec 6) (a : BitVec 6) (b : BitVec 6)
  | xchi (s : BitVec 1) (d : BitVec 6) (a : BitVec 6) (b : BitVec 6)
  | xbc (s : BitVec 1) (d : BitVec 6) (a : BitVec 6) (b : BitVec 6)
  | voteAny (s : BitVec 1) (d : BitVec 6) (a : BitVec 6) (b : BitVec 6)
  | voteAll (s : BitVec 1) (d : BitVec 6) (a : BitVec 6) (b : BitVec 6)
  | voteEq (s : BitVec 1) (d : BitVec 6) (a : BitVec 6) (b : BitVec 6)
  | voteBallot (s : BitVec 1) (d : BitVec 6) (a : BitVec 6) (b : BitVec 6)
  | voteElect (s : BitVec 1) (d : BitVec 6)
  | voteMatch (s : BitVec 1) (d : BitVec 6) (a : BitVec 6)
  | redu (s : BitVec 1) (d : BitVec 6) (a : BitVec 6) (b : BitVec 6) (f : BitVec 6)
  | scan (s : BitVec 1) (d : BitVec 6) (a : BitVec 6) (b : BitVec 6) (f : BitVec 6)
  | cpt (s : BitVec 1) (d : BitVec 6) (a : BitVec 6) (b : BitVec 6)
  | tbind (s : BitVec 1) (t : BitVec 3) (r : BitVec 4)
  | tzero (s : BitVec 1) (t : BitVec 3) (r : BitVec 4)
  | tzeroAll (s : BitVec 1) (t : BitVec 3)
  | mma (s : BitVec 1) (t : BitVec 3) (a : BitVec 6) (b : BitVec 6) (r : BitVec 4) (k : BitVec 5)
  | mmak (s : BitVec 1) (t : BitVec 3) (a : BitVec 6) (b : BitVec 6) (r : BitVec 4) (k : BitVec 5)
  | mmat (s : BitVec 1) (t : BitVec 3) (a : BitVec 6) (b : BitVec 6) (r : BitVec 4) (k : BitVec 5)
  | mmas (s : BitVec 1) (t : BitVec 3) (a : BitVec 6) (b : BitVec 6) (r : BitVec 4) (k : BitVec 5)
  | trdRow (s : BitVec 1) (t : BitVec 3) (r : BitVec 4) (i : BitVec 8) (v : BitVec 6)
  | trdCol (s : BitVec 1) (t : BitVec 3) (r : BitVec 4) (i : BitVec 8) (v : BitVec 6)
  | twrRow (s : BitVec 1) (t : BitVec 3) (r : BitVec 4) (i : BitVec 8) (v : BitVec 6)
  | twrCol (s : BitVec 1) (t : BitVec 3) (r : BitVec 4) (i : BitVec 8) (v : BitVec 6)
  | tmove (s : BitVec 1) (t : BitVec 3) (r : BitVec 4) (u : BitVec 3)
  | tmoveAdd (s : BitVec 1) (t : BitVec 3) (r : BitVec 4) (u : BitVec 3)
  | tfree (s : BitVec 1) (t : BitVec 3)
  | twait (s : BitVec 1) (t : BitVec 3)
  | twaitAll (s : BitVec 1)
  /- The access stream (R37, R39). -/
  | anop (s : BitVec 1)
  | abr (s : BitVec 1) (o : BitVec 24)
  | abeq (s : BitVec 1) (a : BitVec 5) (b : BitVec 5) (o : BitVec 11)
  | abne (s : BitVec 1) (a : BitVec 5) (b : BitVec 5) (o : BitVec 11)
  | ablt (s : BitVec 1) (a : BitVec 5) (b : BitVec 5) (o : BitVec 11)
  | abge (s : BitVec 1) (a : BitVec 5) (b : BitVec 5) (o : BitVec 11)
  | abltn (s : BitVec 1) (a : BitVec 5) (b : BitVec 5) (o : BitVec 11)
  | abgen (s : BitVec 1) (a : BitVec 5) (b : BitVec 5) (o : BitVec 11)
  | aloop (s : BitVec 1) (a : BitVec 5) (o : BitVec 19)
  | ajmpi (s : BitVec 1) (a : BitVec 5)
  | aend (s : BitVec 1)
  | aadd (s : BitVec 1) (d : BitVec 5) (a : BitVec 5) (b : BitVec 5)
  | asub (s : BitVec 1) (d : BitVec 5) (a : BitVec 5) (b : BitVec 5)
  | amul (s : BitVec 1) (d : BitVec 5) (a : BitVec 5) (b : BitVec 5)
  | amulh (s : BitVec 1) (d : BitVec 5) (a : BitVec 5) (b : BitVec 5)
  | aand (s : BitVec 1) (d : BitVec 5) (a : BitVec 5) (b : BitVec 5)
  | aor (s : BitVec 1) (d : BitVec 5) (a : BitVec 5) (b : BitVec 5)
  | axor (s : BitVec 1) (d : BitVec 5) (a : BitVec 5) (b : BitVec 5)
  | ashl (s : BitVec 1) (d : BitVec 5) (a : BitVec 5) (b : BitVec 5)
  | ashr (s : BitVec 1) (d : BitVec 5) (a : BitVec 5) (b : BitVec 5)
  | asra (s : BitVec 1) (d : BitVec 5) (a : BitVec 5) (b : BitVec 5)
  | amin (s : BitVec 1) (d : BitVec 5) (a : BitVec 5) (b : BitVec 5)
  | amax (s : BitVec 1) (d : BitVec 5) (a : BitVec 5) (b : BitVec 5)
  | aminn (s : BitVec 1) (d : BitVec 5) (a : BitVec 5) (b : BitVec 5)
  | amaxn (s : BitVec 1) (d : BitVec 5) (a : BitVec 5) (b : BitVec 5)
  | aaddi (s : BitVec 1) (d : BitVec 5) (a : BitVec 5) (i : BitVec 14)
  | ali (s : BitVec 1) (d : BitVec 5) (i : BitVec 16)
  | alim (s : BitVec 1) (d : BitVec 5) (i : BitVec 16)
  | alit (s : BitVec 1) (d : BitVec 5) (i : BitVec 16)
  | aliq (s : BitVec 1) (d : BitVec 5) (i : BitVec 16)
  | apop (s : BitVec 1) (d : BitVec 5) (t : BitVec 5)
  | apopK (s : BitVec 1) (d : BitVec 5) (t : BitVec 5)
  | apush (s : BitVec 1) (d : BitVec 5) (a : BitVec 5)
  | rtick (s : BitVec 1)
  | setd (s : BitVec 1) (d : BitVec 5) (a : BitVec 5) (i : BitVec 14)
  | agets (s : BitVec 1) (d : BitVec 5) (i : BitVec 14)
  | vdefGlob (s : BitVec 1) (d : BitVec 5) (a : BitVec 5)
  | vdefCore (s : BitVec 1) (d : BitVec 5) (a : BitVec 5)
  | vset (s : BitVec 1) (d : BitVec 5) (a : BitVec 5) (f : BitVec 9)
  | vget (s : BitVec 1) (d : BitVec 5) (b : BitVec 5) (f : BitVec 9)
  | ldt (s : BitVec 1) (q : BitVec 3) (v : BitVec 5) (a : BitVec 5) (d : BitVec 3) (g : BitVec 3) (e : BitVec 1) (c : BitVec 2)
  | ldg (s : BitVec 1) (q : BitVec 3) (v : BitVec 5) (a : BitVec 5) (d : BitVec 3) (g : BitVec 3) (e : BitVec 1) (c : BitVec 2)
  | lda (s : BitVec 1) (x : BitVec 1) (v : BitVec 5) (a : BitVec 5) (d : BitVec 3) (g : BitVec 3) (e : BitVec 1) (c : BitVec 2)
  | ldp (s : BitVec 1) (q : BitVec 3) (v : BitVec 5) (a : BitVec 5) (d : BitVec 3) (g : BitVec 3) (e : BitVec 1) (c : BitVec 2)
  | stt (s : BitVec 1) (v : BitVec 5) (a : BitVec 5) (d : BitVec 3) (g : BitVec 3) (e : BitVec 1) (c : BitVec 2)
  | stg (s : BitVec 1) (v : BitVec 5) (a : BitVec 5) (d : BitVec 3) (g : BitVec 3) (e : BitVec 1) (c : BitVec 2)
  | sta (s : BitVec 1) (v : BitVec 5) (a : BitVec 5) (d : BitVec 3) (g : BitVec 3) (e : BitVec 1) (c : BitVec 2)
  | pref (s : BitVec 1) (v : BitVec 5) (a : BitVec 5) (d : BitVec 3) (g : BitVec 3) (e : BitVec 1) (c : BitVec 2)
  | atom (s : BitVec 1) (q : BitVec 3) (v : BitVec 5) (a : BitVec 5) (o : BitVec 3) (c : BitVec 3) (p : BitVec 5)
  | atoma (s : BitVec 1) (d : BitVec 5) (a : BitVec 5) (b : BitVec 5) (p : BitVec 4) (o : BitVec 2) (c : BitVec 3)
  | fence (s : BitVec 1) (c : BitVec 3) (k : BitVec 3)
  | xfence (s : BitVec 1) (f : BitVec 7) (t : BitVec 7) (c : BitVec 3)
  | cpy (s : BitVec 1) (d : BitVec 5) (c : BitVec 5) (g : BitVec 3) (e : BitVec 1)
  | hand (s : BitVec 1) (d : BitVec 5) (c : BitVec 5) (g : BitVec 3) (e : BitVec 1)
  | xfer (s : BitVec 1) (d : BitVec 5) (c : BitVec 5) (g : BitVec 3) (e : BitVec 1) (h : BitVec 2) (p : BitVec 8)
  | xmc (s : BitVec 1) (d : BitVec 5) (c : BitVec 5) (g : BitVec 3) (e : BitVec 1) (h : BitVec 2) (p : BitVec 8)
  | ctrset (s : BitVec 1) (a : BitVec 5) (b : BitVec 5)
  | ctrsetT (s : BitVec 1) (a : BitVec 5) (b : BitVec 5)
  | ctradd (s : BitVec 1) (a : BitVec 5) (b : BitVec 5)
  | ctrget (s : BitVec 1) (d : BitVec 5) (a : BitVec 5)
  | ctrgetT (s : BitVec 1) (d : BitVec 5) (a : BitVec 5)
  | awaitc (s : BitVec 1) (a : BitVec 5) (b : BitVec 5)
  | awaitcT (s : BitVec 1) (a : BitVec 5)
  /- The Weir (R384 to R390). -/
  | wadd (v : BitVec 1) (d : BitVec 4) (a : BitVec 4) (b : BitVec 4) (x : BitVec 1)
  | waddI (v : BitVec 1) (d : BitVec 4) (a : BitVec 4) (i : BitVec 14)
  | wsub (v : BitVec 1) (d : BitVec 4) (a : BitVec 4) (b : BitVec 4) (x : BitVec 1)
  | wsubI (v : BitVec 1) (d : BitVec 4) (a : BitVec 4) (i : BitVec 14)
  | wmul (v : BitVec 1) (d : BitVec 4) (a : BitVec 4) (b : BitVec 4) (x : BitVec 1)
  | wmulI (v : BitVec 1) (d : BitVec 4) (a : BitVec 4) (i : BitVec 14)
  | wand (v : BitVec 1) (d : BitVec 4) (a : BitVec 4) (b : BitVec 4) (x : BitVec 1)
  | wandI (v : BitVec 1) (d : BitVec 4) (a : BitVec 4) (i : BitVec 14)
  | wor (v : BitVec 1) (d : BitVec 4) (a : BitVec 4) (b : BitVec 4) (x : BitVec 1)
  | worI (v : BitVec 1) (d : BitVec 4) (a : BitVec 4) (i : BitVec 14)
  | wxor (v : BitVec 1) (d : BitVec 4) (a : BitVec 4) (b : BitVec 4) (x : BitVec 1)
  | wxorI (v : BitVec 1) (d : BitVec 4) (a : BitVec 4) (i : BitVec 14)
  | wshl (v : BitVec 1) (d : BitVec 4) (a : BitVec 4) (b : BitVec 4) (x : BitVec 1)
  | wshlI (v : BitVec 1) (d : BitVec 4) (a : BitVec 4) (i : BitVec 14)
  | wshr (v : BitVec 1) (d : BitVec 4) (a : BitVec 4) (b : BitVec 4) (x : BitVec 1)
  | wshrI (v : BitVec 1) (d : BitVec 4) (a : BitVec 4) (i : BitVec 14)
  | wmin (v : BitVec 1) (d : BitVec 4) (a : BitVec 4) (b : BitVec 4) (x : BitVec 1)
  | wminI (v : BitVec 1) (d : BitVec 4) (a : BitVec 4) (i : BitVec 14)
  | wmax (v : BitVec 1) (d : BitVec 4) (a : BitVec 4) (b : BitVec 4) (x : BitVec 1)
  | wmaxI (v : BitVec 1) (d : BitVec 4) (a : BitVec 4) (i : BitVec 14)
  | wcmp (v : BitVec 1) (c : BitVec 3) (d : BitVec 4) (a : BitVec 4) (b : BitVec 4) (x : BitVec 1)
  | wsel (v : BitVec 1) (d : BitVec 4) (a : BitVec 4) (b : BitVec 4) (c : BitVec 4)
  | wmovW (d : BitVec 4) (a : BitVec 4)
  | wmovX (d : BitVec 4) (a : BitVec 4)
  | wmovWx (d : BitVec 4) (a : BitVec 4)
  | wmovXl (d : BitVec 4) (a : BitVec 4) (l : BitVec 3)
  | wmovWl (d : BitVec 4) (a : BitVec 4) (l : BitVec 3)
  | wli (v : BitVec 1) (d : BitVec 4) (i : BitVec 16)
  | wliH (v : BitVec 1) (d : BitVec 4) (i : BitVec 16)
  | whdr (r : BitVec 4) (f : BitVec 5)
  | whdrW (r : BitVec 4)
  | wseth (r : BitVec 4) (f : BitVec 5)
  | wldp (w : BitVec 4) (c : BitVec 3)
  | wldpX (w : BitVec 4) (x : BitVec 3) (c : BitVec 3)
  | wstp (w : BitVec 4) (c : BitVec 3)
  | wstpX (w : BitVec 4) (x : BitVec 3) (c : BitVec 3)
  | wldf (w : BitVec 4) (x : BitVec 3) (i : BitVec 16)
  | wstf (w : BitVec 4) (x : BitVec 3) (i : BitVec 16)
  | watf (p : BitVec 4) (d : BitVec 3) (a : BitVec 3) (b : BitVec 3) (i : BitVec 11)
  | whash (d : BitVec 3) (a : BitVec 4) (n : BitVec 3)
  | whashLk (d : BitVec 3) (a : BitVec 4)
  | wrep (n : BitVec 4) (l : BitVec 6)
  | wbr (o : BitVec 8)
  | wbrCc (c : BitVec 3) (a : BitVec 3) (o : BitVec 8)
  | wdup (a : BitVec 3)
  | wtrap (c : BitVec 12) (a : BitVec 3)
  | wfwd
  | wdrop
  | wend
  /- Machine operations: no word of their own. -/
  | moduleReset
  | create
  | destroy
  | preempt
  | resume
  | oscount
  | ctlcas (port v : Nat)
  | ctlsemLeaseExpiry
  | reset
  | modeset
  | fwupdate
  | slate (res owner ofs : Nat)
  | freeze
  | thaw
  | attest
  | domset
  | domclr
  | peerset
  | peerclr
  | peertmo
  | devno
  | unitret
  | unitrst (pass : Bool)
  | dierst (pass : Bool)
  | load
  | unload
  | flowrd
  | flowwr
  | checkpoint (res owner ofs : Nat)
  | restore (man : Nat) (data : List Nat)
  | arm
  | go
  | stop
  | replayThaw
  | reelctlWrite (port token v : Nat)
  | rsvctlWrite (port token v : Nat)
  | cutWrite (port token i v : Nat)
  | errclsWrite (port token v : Nat)
  | watchFilterWrite (port reg v : Nat)
  | trctlWrite (die v : Nat)
  | trrpWrite (die v : Nat)
  | drconsWrite (v : Nat)
  | ltolWrite (port v : Nat)
  | registerWrite (port off v : Nat)
  | mgmtRead (src sport len req : Nat)
  | mgmtWrite (src sport len req : Nat)
  | mgmtBlockRead (src sport len req : Nat)
  | ptpMessage (offset : Int)
  | ptpMasterTimeout
  | gridAccept (i : Nat)
  | workgroupPlace (ctx grid cl : Nat)
  | placementWaitExpiry (ctx grid : Nat)
  | workSteal (ctx grid thief : Nat) (dies : Bool)
  | gateOpen (ctx grid : Nat)
  | workgroupPark (ctx serial : Nat)
  | workgroupUnpark (ctx serial : Nat)
  | elderReport (ctx : Nat)
  | bufferedAtomicApply (ctx grid : Nat)
  | doneAdd (ctx grid : Nat)
  | gbarRelease (ctx grid : Nat)
  | waitcRelease (gid slot : Nat)
  | awaitcRelease (gid : Nat)
  | waitmRelease (gid slot : Nat)
  | joincRelease (gid slot : Nat)
  | sleepExpiry (gid slot : Nat)
  | watchdogExpiry (gid : Nat)
  | trapEntry (gid : Nat)
  | asyncResultReturn (gid id : Nat) (acc : Bool)
  | pageFaultResult (c i : Nat)
  | loadLinePerform (gid id va : Nat)
  | storeLinePerform (gid id va : Nat)
  | atomicLinePerform (gid id va : Nat)
  | loadDataArrival (gid id : Nat)
  | spillwayPerform (q i : Nat)
  | fenceComplete (gid : Nat)
  | xfenceComplete (gid : Nat)
  | scTicketGrant (gid id : Nat)
  | directoryGrant (holder line half : Nat) (excl : Bool) (c : Nat)
  | directoryRevoke (holder line half : Nat)
  | ptsJump (core : Nat)
  | l1AgeingStep (core : Nat)
  | l2AgeingStep (die : Nat)
  | scrubberVisit (die : Nat)
  | pageMigration (c page newPa : Nat)
  | biasFlip (c page : Nat) (toHost : Bool)
  | hostAccess (agent dev pa n : Nat) (wr : Bool) (data : Nat)
  | copyLine (gid id line : Nat) (rd : Bool)
  | matrixGrant (cl slot : Nat)
  | matrixPassComplete (cl : Nat) (ev : PassStep)
  | fabricPacketSend (gid id line : Nat) (rd : Bool)
  | packetArrival (port : Nat) (hdr : BitVec 256) (pay : Nat)
  | arrivalAddition (src chan : Nat) (redir : Bool)
  | packetAck (dev chan seq fault addr : Nat) (one : Bool)
  | skipNotice (hdr : BitVec 256)
  | deadPeerTimeout (dev : Nat)
  | conversionMatch (i : Nat) (subs : List (Nat × BitVec 1024 × Nat × Nat))
  | conversionComplete (i : Nat) (data : List (Nat × List Nat))
  | weirPacket (port i : Nat)
  | switchWeirRecord (dom cls port slot code detail time : Nat) (hdr : BitVec 256)
  | saveHandlerComplete (ctx serial : Nat)
  | restoreHandlerComplete (ctx serial : Nat)
  | eccEvent (kind x y z : Nat) (uncorrected : Bool)
  | patrolScrub (line : Nat)
  | dieLoss (die : Nat)
  | dieQuiesceAck (die : Nat) (lost : List Nat)
  | dieQuiesceTimeout (die : Nat) (lost : List Nat) (refresh : Bool)
  | takeAgeExpiry (ctx rid : Nat)
  | reelPlace
  | drainCopy
  | cutPointReached (c rid : Nat)
  | podFreeze
  | replayDivergence (c rid i : Nat)
  | replayEndOfLog (c : Nat)
  | censusFlush (gid slot : Nat)
  | powerStateEntry (dev : Nat)
  | powerWake (dev : Nat)
  | digestClaim (src digest ofs epoch dirpa dirlog2 : Nat)
  | shardMirror (src ofs n data : Nat)
  | shardFetch (src digest epoch ofs : Nat)
  | digestRelease (src digest epoch dirpa dirlog2 : Nat)
  | claimReplyTimeout
  | fabricLinkFailure (port : Nat)
  | throttleStart
  | throttleEnd
  deriving DecidableEq, Repr

end Sys2Proof
end

