-- ==== Sys2Proof/Decode.lean ====
section
/-! DEFINITION. Decoding of the three instruction sets and, after it, their encoder.

One 32-bit word decodes differently in the compute stream, the access stream and a Weir (R27). The decoders
accept exactly the words the opcode table's match and mask give a row, and refuse every other word; a value that
an instruction's own description forbids in one of its fields is refused when the word issues (R29,
Machine/Legal.lean). -/

namespace Sys2Proof

/-- Bits [lo + n - 1 : lo] of a word (R8). -/
def fld (w : BitVec 32) (lo n : Nat) : BitVec n := w.extractLsb' lo n

/-- Major 0x0: NOP. -/
def decodeComp00 (w : BitVec 32) : Option Instr :=
  if fld w 0 24 = 0x0#24 then some (.nop (fld w 31 1)) else
  none
/-- Major 0x1: BRA. -/
def decodeComp01 (w : BitVec 32) : Option Instr :=
  some (.bra (fld w 31 1) (fld w 0 24))
/-- Major 0x2: BRC. -/
def decodeComp02 (w : BitVec 32) : Option Instr :=
  some (.brc (fld w 31 1) (fld w 20 4) (fld w 17 3) (fld w 0 17))
/-- Major 0x3: BRD. -/
def decodeComp03 (w : BitVec 32) : Option Instr :=
  some (.brd (fld w 31 1) (fld w 21 3) (fld w 20 1) (fld w 0 20))
/-- Major 0x4: JMPI. -/
def decodeComp04 (w : BitVec 32) : Option Instr :=
  if fld w 18 6 = 0x0#6 ∧ fld w 0 12 = 0x0#12 then some (.jmpi (fld w 31 1) (fld w 12 6)) else
  none
/-- Major 0x5: CALL. -/
def decodeComp05 (w : BitVec 32) : Option Instr :=
  some (.call (fld w 31 1) (fld w 0 24))
/-- Major 0x6: RET. -/
def decodeComp06 (w : BitVec 32) : Option Instr :=
  if fld w 0 24 = 0x0#24 then some (.ret (fld w 31 1)) else
  none
/-- Major 0x7: MODEI. -/
def decodeComp07 (w : BitVec 32) : Option Instr :=
  if fld w 20 4 = 0x0#4 then some (.modei (fld w 31 1) (fld w 0 20)) else
  none
/-- Major 0x8: MODER. -/
def decodeComp08 (w : BitVec 32) : Option Instr :=
  if fld w 18 6 = 0x0#6 ∧ fld w 0 12 = 0x0#12 then some (.moder (fld w 31 1) (fld w 12 6)) else
  none
/-- Major 0x9: BAR. -/
def decodeComp09 (w : BitVec 32) : Option Instr :=
  if fld w 18 6 = 0x0#6 ∧ fld w 0 12 = 0x0#12 then some (.bar (fld w 31 1) (fld w 12 6)) else
  none
/-- Major 0xa: SYNCS. -/
def decodeComp0A (w : BitVec 32) : Option Instr :=
  if fld w 18 6 = 0x0#6 ∧ fld w 0 12 = 0x0#12 then some (.syncs (fld w 31 1) (fld w 12 6)) else
  none
/-- Major 0xb: GBAR. -/
def decodeComp0B (w : BitVec 32) : Option Instr :=
  if fld w 0 24 = 0x0#24 then some (.gbar (fld w 31 1)) else
  none
/-- Major 0xc: WAITC. -/
def decodeComp0C (w : BitVec 32) : Option Instr :=
  if fld w 18 6 = 0x0#6 ∧ fld w 0 6 = 0x0#6 then some (.waitc (fld w 31 1) (fld w 12 6) (fld w 6 6)) else
  none
/-- Major 0xd: WAITM. -/
def decodeComp0D (w : BitVec 32) : Option Instr :=
  if fld w 18 6 = 0x0#6 ∧ fld w 0 6 = 0x0#6 then some (.waitm (fld w 31 1) (fld w 12 6) (fld w 6 6)) else
  none
/-- Major 0xe: SLEEP. -/
def decodeComp0E (w : BitVec 32) : Option Instr :=
  if fld w 18 6 = 0x0#6 then some (.sleep (fld w 31 1) (fld w 12 6) (fld w 0 12)) else
  none
/-- Major 0xf: YIELD. -/
def decodeComp0F (w : BitVec 32) : Option Instr :=
  if fld w 0 24 = 0x0#24 then some (.yield (fld w 31 1)) else
  none
/-- Major 0x10: LAUNCH. -/
def decodeComp10 (w : BitVec 32) : Option Instr :=
  if fld w 0 6 = 0x0#6 then some (.launch (fld w 31 1) (fld w 18 6) (fld w 12 6) (fld w 6 6)) else
  none
/-- Major 0x11: JOINC. -/
def decodeComp11 (w : BitVec 32) : Option Instr :=
  if fld w 18 6 = 0x0#6 ∧ fld w 0 12 = 0x0#12 then some (.joinc (fld w 31 1) (fld w 12 6)) else
  none
/-- Major 0x12: EXIT. -/
def decodeComp12 (w : BitVec 32) : Option Instr :=
  if fld w 0 24 = 0x0#24 then some (.exit (fld w 31 1)) else
  none
/-- Major 0x13: TRAP. -/
def decodeComp13 (w : BitVec 32) : Option Instr :=
  if fld w 20 4 = 0x0#4 then some (.trap (fld w 31 1) (fld w 0 20)) else
  none
/-- Major 0x14: TRET. -/
def decodeComp14 (w : BitVec 32) : Option Instr :=
  if fld w 0 24 = 0x0#24 then some (.tret (fld w 31 1)) else
  none
/-- Major 0x15: GETS. -/
def decodeComp15 (w : BitVec 32) : Option Instr :=
  if fld w 12 6 = 0x0#6 then some (.gets (fld w 31 1) (fld w 18 6) (fld w 0 12)) else
  none
/-- Major 0x16: PUTS. -/
def decodeComp16 (w : BitVec 32) : Option Instr :=
  if fld w 18 6 = 0x0#6 then some (.puts (fld w 31 1) (fld w 12 6) (fld w 0 12)) else
  none
/-- Major 0x17: CLOCK_CYCLE, CLOCK_HUBCYC, CLOCK_PTPNS. -/
def decodeComp17 (w : BitVec 32) : Option Instr :=
  if fld w 0 18 = 0x0#18 then some (.clockCycle (fld w 31 1) (fld w 18 6)) else
  if fld w 0 18 = 0x1#18 then some (.clockHubcyc (fld w 31 1) (fld w 18 6)) else
  if fld w 0 18 = 0x2#18 then some (.clockPtpns (fld w 31 1) (fld w 18 6)) else
  none
/-- Major 0x18: GSET. -/
def decodeComp18 (w : BitVec 32) : Option Instr :=
  some (.gset (fld w 31 1) (fld w 18 6) (fld w 12 6) (fld w 6 6) (fld w 0 6))
/-- Major 0x19: BKPT. -/
def decodeComp19 (w : BitVec 32) : Option Instr :=
  if fld w 20 4 = 0x0#4 then some (.bkpt (fld w 31 1) (fld w 0 20)) else
  none
/-- Major 0x20: ADD, SUB, MUL, MULH, MIN, MAX, AND, OR, XOR, ANDN, SHL, SHR, ROT, ADDC, SUBB, ABSD. -/
def decodeComp20 (w : BitVec 32) : Option Instr :=
  if fld w 0 6 = 0x0#6 then some (.add (fld w 31 1) (fld w 18 6) (fld w 12 6) (fld w 6 6)) else
  if fld w 0 6 = 0x1#6 then some (.sub (fld w 31 1) (fld w 18 6) (fld w 12 6) (fld w 6 6)) else
  if fld w 0 6 = 0x2#6 then some (.mul (fld w 31 1) (fld w 18 6) (fld w 12 6) (fld w 6 6)) else
  if fld w 0 6 = 0x3#6 then some (.mulh (fld w 31 1) (fld w 18 6) (fld w 12 6) (fld w 6 6)) else
  if fld w 0 6 = 0x4#6 then some (.min (fld w 31 1) (fld w 18 6) (fld w 12 6) (fld w 6 6)) else
  if fld w 0 6 = 0x5#6 then some (.max (fld w 31 1) (fld w 18 6) (fld w 12 6) (fld w 6 6)) else
  if fld w 0 6 = 0x6#6 then some (.and (fld w 31 1) (fld w 18 6) (fld w 12 6) (fld w 6 6)) else
  if fld w 0 6 = 0x7#6 then some (.or (fld w 31 1) (fld w 18 6) (fld w 12 6) (fld w 6 6)) else
  if fld w 0 6 = 0x8#6 then some (.xor (fld w 31 1) (fld w 18 6) (fld w 12 6) (fld w 6 6)) else
  if fld w 0 6 = 0x9#6 then some (.andn (fld w 31 1) (fld w 18 6) (fld w 12 6) (fld w 6 6)) else
  if fld w 0 6 = 0xa#6 then some (.shl (fld w 31 1) (fld w 18 6) (fld w 12 6) (fld w 6 6)) else
  if fld w 0 6 = 0xb#6 then some (.shr (fld w 31 1) (fld w 18 6) (fld w 12 6) (fld w 6 6)) else
  if fld w 0 6 = 0xc#6 then some (.rot (fld w 31 1) (fld w 18 6) (fld w 12 6) (fld w 6 6)) else
  if fld w 0 6 = 0xd#6 then some (.addc (fld w 31 1) (fld w 18 6) (fld w 12 6) (fld w 6 6)) else
  if fld w 0 6 = 0xe#6 then some (.subb (fld w 31 1) (fld w 18 6) (fld w 12 6) (fld w 6 6)) else
  if fld w 0 6 = 0xf#6 then some (.absd (fld w 31 1) (fld w 18 6) (fld w 12 6) (fld w 6 6)) else
  none
/-- Major 0x21: NEG, ABS, NOT, CLZ, CTZ, POPC, BREV. -/
def decodeComp21 (w : BitVec 32) : Option Instr :=
  if fld w 0 12 = 0x0#12 then some (.neg (fld w 31 1) (fld w 18 6) (fld w 12 6)) else
  if fld w 0 12 = 0x1#12 then some (.abs (fld w 31 1) (fld w 18 6) (fld w 12 6)) else
  if fld w 0 12 = 0x2#12 then some (.not (fld w 31 1) (fld w 18 6) (fld w 12 6)) else
  if fld w 0 12 = 0x3#12 then some (.clz (fld w 31 1) (fld w 18 6) (fld w 12 6)) else
  if fld w 0 12 = 0x4#12 then some (.ctz (fld w 31 1) (fld w 18 6) (fld w 12 6)) else
  if fld w 0 12 = 0x5#12 then some (.popc (fld w 31 1) (fld w 18 6) (fld w 12 6)) else
  if fld w 0 12 = 0x6#12 then some (.brev (fld w 31 1) (fld w 18 6) (fld w 12 6)) else
  none
/-- Major 0x22: MAD. -/
def decodeComp22 (w : BitVec 32) : Option Instr :=
  some (.mad (fld w 31 1) (fld w 18 6) (fld w 12 6) (fld w 6 6) (fld w 0 6))
/-- Major 0x23: BFE. -/
def decodeComp23 (w : BitVec 32) : Option Instr :=
  some (.bfe (fld w 31 1) (fld w 18 6) (fld w 12 6) (fld w 6 6) (fld w 0 6))
/-- Major 0x24: BFI. -/
def decodeComp24 (w : BitVec 32) : Option Instr :=
  some (.bfi (fld w 31 1) (fld w 18 6) (fld w 12 6) (fld w 6 6) (fld w 0 6))
/-- Major 0x25: ADDI. -/
def decodeComp25 (w : BitVec 32) : Option Instr :=
  some (.addi (fld w 31 1) (fld w 18 6) (fld w 12 6) (fld w 0 12))
/-- Major 0x26: SHI. -/
def decodeComp26 (w : BitVec 32) : Option Instr :=
  if fld w 6 4 = 0x0#4 then some (.shi (fld w 31 1) (fld w 18 6) (fld w 12 6) (fld w 10 2) (fld w 0 6)) else
  none
/-- Major 0x27: LIT. -/
def decodeComp27 (w : BitVec 32) : Option Instr :=
  some (.lit (fld w 31 1) (fld w 18 6) (fld w 16 2) (fld w 0 16))
/-- Major 0x28: CMP. -/
def decodeComp28 (w : BitVec 32) : Option Instr :=
  some (.cmp (fld w 31 1) (fld w 18 6) (fld w 12 6) (fld w 6 6) (fld w 0 6))
/-- Major 0x29: SEL. -/
def decodeComp29 (w : BitVec 32) : Option Instr :=
  some (.sel (fld w 31 1) (fld w 18 6) (fld w 12 6) (fld w 6 6) (fld w 0 6))
/-- Major 0x2a: PAND, POR, PXOR, PNOT, PMOV, PSET, PGET. -/
def decodeComp2A (w : BitVec 32) : Option Instr :=
  if fld w 0 6 = 0x0#6 then some (.pand (fld w 31 1) (fld w 18 6) (fld w 12 6) (fld w 6 6)) else
  if fld w 0 6 = 0x1#6 then some (.por (fld w 31 1) (fld w 18 6) (fld w 12 6) (fld w 6 6)) else
  if fld w 0 6 = 0x2#6 then some (.pxor (fld w 31 1) (fld w 18 6) (fld w 12 6) (fld w 6 6)) else
  if fld w 6 6 = 0x0#6 ∧ fld w 0 6 = 0x3#6 then some (.pnot (fld w 31 1) (fld w 18 6) (fld w 12 6)) else
  if fld w 0 6 = 0x4#6 then some (.pmov (fld w 31 1) (fld w 18 6) (fld w 12 6) (fld w 6 6)) else
  if fld w 6 6 = 0x0#6 ∧ fld w 0 6 = 0x5#6 then some (.pset (fld w 31 1) (fld w 18 6) (fld w 12 6)) else
  if fld w 6 6 = 0x0#6 ∧ fld w 0 6 = 0x6#6 then some (.pget (fld w 31 1) (fld w 18 6) (fld w 12 6)) else
  none
/-- Major 0x2b: MOV, BCST, VTOS, STOV. -/
def decodeComp2B (w : BitVec 32) : Option Instr :=
  if fld w 6 6 = 0x0#6 ∧ fld w 0 6 = 0x0#6 then some (.mov (fld w 31 1) (fld w 18 6) (fld w 12 6)) else
  if fld w 0 6 = 0x1#6 then some (.bcst (fld w 31 1) (fld w 18 6) (fld w 12 6) (fld w 6 6)) else
  if fld w 0 6 = 0x2#6 then some (.vtos (fld w 31 1) (fld w 18 6) (fld w 12 6) (fld w 6 6)) else
  if fld w 0 6 = 0x3#6 then some (.stov (fld w 31 1) (fld w 18 6) (fld w 12 6) (fld w 6 6)) else
  none
/-- Major 0x30: FADD, FSUB, FMUL, FMIN, FMAX, FCPYS. -/
def decodeComp30 (w : BitVec 32) : Option Instr :=
  if fld w 0 6 = 0x0#6 then some (.fadd (fld w 31 1) (fld w 18 6) (fld w 12 6) (fld w 6 6)) else
  if fld w 0 6 = 0x1#6 then some (.fsub (fld w 31 1) (fld w 18 6) (fld w 12 6) (fld w 6 6)) else
  if fld w 0 6 = 0x2#6 then some (.fmul (fld w 31 1) (fld w 18 6) (fld w 12 6) (fld w 6 6)) else
  if fld w 0 6 = 0x3#6 then some (.fmin (fld w 31 1) (fld w 18 6) (fld w 12 6) (fld w 6 6)) else
  if fld w 0 6 = 0x4#6 then some (.fmax (fld w 31 1) (fld w 18 6) (fld w 12 6) (fld w 6 6)) else
  if fld w 0 6 = 0x5#6 then some (.fcpys (fld w 31 1) (fld w 18 6) (fld w 12 6) (fld w 6 6)) else
  none
/-- Major 0x31: FABS, FNEG, FRND, FCLASS. -/
def decodeComp31 (w : BitVec 32) : Option Instr :=
  if fld w 0 12 = 0x0#12 then some (.fabs (fld w 31 1) (fld w 18 6) (fld w 12 6)) else
  if fld w 0 12 = 0x1#12 then some (.fneg (fld w 31 1) (fld w 18 6) (fld w 12 6)) else
  if fld w 0 12 = 0x2#12 then some (.frnd (fld w 31 1) (fld w 18 6) (fld w 12 6)) else
  if fld w 0 12 = 0x3#12 then some (.fclass (fld w 31 1) (fld w 18 6) (fld w 12 6)) else
  none
/-- Major 0x32: FMA. -/
def decodeComp32 (w : BitVec 32) : Option Instr :=
  some (.fma (fld w 31 1) (fld w 18 6) (fld w 12 6) (fld w 6 6) (fld w 0 6))
/-- Major 0x33: FMS. -/
def decodeComp33 (w : BitVec 32) : Option Instr :=
  some (.fms (fld w 31 1) (fld w 18 6) (fld w 12 6) (fld w 6 6) (fld w 0 6))
/-- Major 0x34: FNMA. -/
def decodeComp34 (w : BitVec 32) : Option Instr :=
  some (.fnma (fld w 31 1) (fld w 18 6) (fld w 12 6) (fld w 6 6) (fld w 0 6))
/-- Major 0x35: FNMS. -/
def decodeComp35 (w : BitVec 32) : Option Instr :=
  some (.fnms (fld w 31 1) (fld w 18 6) (fld w 12 6) (fld w 6 6) (fld w 0 6))
/-- Major 0x36: FRCP, FRSQ, FSQRT, FEXP2, FLOG2, FSIN, FCOS, FTANH, FDIV. -/
def decodeComp36 (w : BitVec 32) : Option Instr :=
  if fld w 6 6 = 0x0#6 ∧ fld w 0 6 = 0x0#6 then some (.frcp (fld w 31 1) (fld w 18 6) (fld w 12 6)) else
  if fld w 6 6 = 0x0#6 ∧ fld w 0 6 = 0x1#6 then some (.frsq (fld w 31 1) (fld w 18 6) (fld w 12 6)) else
  if fld w 6 6 = 0x0#6 ∧ fld w 0 6 = 0x2#6 then some (.fsqrt (fld w 31 1) (fld w 18 6) (fld w 12 6)) else
  if fld w 6 6 = 0x0#6 ∧ fld w 0 6 = 0x3#6 then some (.fexp2 (fld w 31 1) (fld w 18 6) (fld w 12 6)) else
  if fld w 6 6 = 0x0#6 ∧ fld w 0 6 = 0x4#6 then some (.flog2 (fld w 31 1) (fld w 18 6) (fld w 12 6)) else
  if fld w 6 6 = 0x0#6 ∧ fld w 0 6 = 0x5#6 then some (.fsin (fld w 31 1) (fld w 18 6) (fld w 12 6)) else
  if fld w 6 6 = 0x0#6 ∧ fld w 0 6 = 0x6#6 then some (.fcos (fld w 31 1) (fld w 18 6) (fld w 12 6)) else
  if fld w 6 6 = 0x0#6 ∧ fld w 0 6 = 0x7#6 then some (.ftanh (fld w 31 1) (fld w 18 6) (fld w 12 6)) else
  if fld w 0 6 = 0x8#6 then some (.fdiv (fld w 31 1) (fld w 18 6) (fld w 12 6) (fld w 6 6)) else
  none
/-- Major 0x37: CVT, CVTS. -/
def decodeComp37 (w : BitVec 32) : Option Instr :=
  if fld w 6 6 = 0x0#6 ∧ fld w 0 6 = 0x0#6 then some (.cvt (fld w 31 1) (fld w 18 6) (fld w 12 6)) else
  if fld w 0 6 = 0x1#6 then some (.cvts (fld w 31 1) (fld w 18 6) (fld w 12 6) (fld w 6 6)) else
  none
/-- Major 0x38: PACK. -/
def decodeComp38 (w : BitVec 32) : Option Instr :=
  if fld w 0 6 = 0x0#6 then some (.pack (fld w 31 1) (fld w 18 6) (fld w 12 6) (fld w 6 6)) else
  none
/-- Major 0x39: UNPK. -/
def decodeComp39 (w : BitVec 32) : Option Instr :=
  if fld w 0 6 = 0x0#6 then some (.unpk (fld w 31 1) (fld w 18 6) (fld w 12 6) (fld w 6 6)) else
  none
/-- Major 0x3a: QNT. -/
def decodeComp3A (w : BitVec 32) : Option Instr :=
  if fld w 5 1 = 0x0#1 then some (.qnt (fld w 31 1) (fld w 18 6) (fld w 12 6) (fld w 6 6) (fld w 3 2) (fld w 0 3)) else
  none
/-- Major 0x3b: DQNT. -/
def decodeComp3B (w : BitVec 32) : Option Instr :=
  if fld w 5 1 = 0x0#1 then some (.dqnt (fld w 31 1) (fld w 18 6) (fld w 12 6) (fld w 6 6) (fld w 3 2) (fld w 0 3)) else
  none
/-- Major 0x40: SADD, SSUB, SMUL, SMULH, SMIN, SMAX, SAND, SOR, SXOR, SANDN, SSHL, SSHR, SROT. -/
def decodeComp40 (w : BitVec 32) : Option Instr :=
  if fld w 0 6 = 0x0#6 then some (.sadd (fld w 31 1) (fld w 18 6) (fld w 12 6) (fld w 6 6)) else
  if fld w 0 6 = 0x1#6 then some (.ssub (fld w 31 1) (fld w 18 6) (fld w 12 6) (fld w 6 6)) else
  if fld w 0 6 = 0x2#6 then some (.smul (fld w 31 1) (fld w 18 6) (fld w 12 6) (fld w 6 6)) else
  if fld w 0 6 = 0x3#6 then some (.smulh (fld w 31 1) (fld w 18 6) (fld w 12 6) (fld w 6 6)) else
  if fld w 0 6 = 0x4#6 then some (.smin (fld w 31 1) (fld w 18 6) (fld w 12 6) (fld w 6 6)) else
  if fld w 0 6 = 0x5#6 then some (.smax (fld w 31 1) (fld w 18 6) (fld w 12 6) (fld w 6 6)) else
  if fld w 0 6 = 0x6#6 then some (.sand (fld w 31 1) (fld w 18 6) (fld w 12 6) (fld w 6 6)) else
  if fld w 0 6 = 0x7#6 then some (.sor (fld w 31 1) (fld w 18 6) (fld w 12 6) (fld w 6 6)) else
  if fld w 0 6 = 0x8#6 then some (.sxor (fld w 31 1) (fld w 18 6) (fld w 12 6) (fld w 6 6)) else
  if fld w 0 6 = 0x9#6 then some (.sandn (fld w 31 1) (fld w 18 6) (fld w 12 6) (fld w 6 6)) else
  if fld w 0 6 = 0xa#6 then some (.sshl (fld w 31 1) (fld w 18 6) (fld w 12 6) (fld w 6 6)) else
  if fld w 0 6 = 0xb#6 then some (.sshr (fld w 31 1) (fld w 18 6) (fld w 12 6) (fld w 6 6)) else
  if fld w 0 6 = 0xc#6 then some (.srot (fld w 31 1) (fld w 18 6) (fld w 12 6) (fld w 6 6)) else
  none
/-- Major 0x41: SADDI. -/
def decodeComp41 (w : BitVec 32) : Option Instr :=
  some (.saddi (fld w 31 1) (fld w 18 6) (fld w 12 6) (fld w 0 12))
/-- Major 0x42: SLIT. -/
def decodeComp42 (w : BitVec 32) : Option Instr :=
  some (.slit (fld w 31 1) (fld w 18 6) (fld w 16 2) (fld w 0 16))
/-- Major 0x48: XCHX, XCHU, XCHD. -/
def decodeComp48 (w : BitVec 32) : Option Instr :=
  if fld w 0 6 = 0x0#6 then some (.xchx (fld w 31 1) (fld w 18 6) (fld w 12 6) (fld w 6 6)) else
  if fld w 0 6 = 0x1#6 then some (.xchu (fld w 31 1) (fld w 18 6) (fld w 12 6) (fld w 6 6)) else
  if fld w 0 6 = 0x2#6 then some (.xchd (fld w 31 1) (fld w 18 6) (fld w 12 6) (fld w 6 6)) else
  none
/-- Major 0x49: XCHXK, XCHUK, XCHDK. -/
def decodeComp49 (w : BitVec 32) : Option Instr :=
  if fld w 0 6 = 0x0#6 then some (.xchxk (fld w 31 1) (fld w 18 6) (fld w 12 6) (fld w 6 6)) else
  if fld w 0 6 = 0x1#6 then some (.xchuk (fld w 31 1) (fld w 18 6) (fld w 12 6) (fld w 6 6)) else
  if fld w 0 6 = 0x2#6 then some (.xchdk (fld w 31 1) (fld w 18 6) (fld w 12 6) (fld w 6 6)) else
  none
/-- Major 0x4a: XCHI. -/
def decodeComp4A (w : BitVec 32) : Option Instr :=
  if fld w 0 6 = 0x0#6 then some (.xchi (fld w 31 1) (fld w 18 6) (fld w 12 6) (fld w 6 6)) else
  none
/-- Major 0x4b: XBC. -/
def decodeComp4B (w : BitVec 32) : Option Instr :=
  if fld w 0 6 = 0x0#6 then some (.xbc (fld w 31 1) (fld w 18 6) (fld w 12 6) (fld w 6 6)) else
  none
/-- Major 0x4c: VOTE_ANY, VOTE_ALL, VOTE_EQ, VOTE_BALLOT, VOTE_ELECT, VOTE_MATCH. -/
def decodeComp4C (w : BitVec 32) : Option Instr :=
  if fld w 0 6 = 0x0#6 then some (.voteAny (fld w 31 1) (fld w 18 6) (fld w 12 6) (fld w 6 6)) else
  if fld w 0 6 = 0x1#6 then some (.voteAll (fld w 31 1) (fld w 18 6) (fld w 12 6) (fld w 6 6)) else
  if fld w 0 6 = 0x2#6 then some (.voteEq (fld w 31 1) (fld w 18 6) (fld w 12 6) (fld w 6 6)) else
  if fld w 0 6 = 0x3#6 then some (.voteBallot (fld w 31 1) (fld w 18 6) (fld w 12 6) (fld w 6 6)) else
  if fld w 12 6 = 0x0#6 ∧ fld w 6 6 = 0x0#6 ∧ fld w 0 6 = 0x4#6 then some (.voteElect (fld w 31 1) (fld w 18 6)) else
  if fld w 6 6 = 0x0#6 ∧ fld w 0 6 = 0x5#6 then some (.voteMatch (fld w 31 1) (fld w 18 6) (fld w 12 6)) else
  none
/-- Major 0x4d: REDU. -/
def decodeComp4D (w : BitVec 32) : Option Instr :=
  some (.redu (fld w 31 1) (fld w 18 6) (fld w 12 6) (fld w 6 6) (fld w 0 6))
/-- Major 0x4e: SCAN. -/
def decodeComp4E (w : BitVec 32) : Option Instr :=
  some (.scan (fld w 31 1) (fld w 18 6) (fld w 12 6) (fld w 6 6) (fld w 0 6))
/-- Major 0x4f: CPT. -/
def decodeComp4F (w : BitVec 32) : Option Instr :=
  if fld w 0 6 = 0x0#6 then some (.cpt (fld w 31 1) (fld w 18 6) (fld w 12 6) (fld w 6 6)) else
  none
/-- Major 0x50: TBIND. -/
def decodeComp50 (w : BitVec 32) : Option Instr :=
  if fld w 20 1 = 0x0#1 ∧ fld w 0 16 = 0x0#16 then some (.tbind (fld w 31 1) (fld w 21 3) (fld w 16 4)) else
  none
/-- Major 0x51: TZERO, TZERO_ALL. -/
def decodeComp51 (w : BitVec 32) : Option Instr :=
  if fld w 20 1 = 0x0#1 ∧ fld w 0 16 = 0x0#16 then some (.tzero (fld w 31 1) (fld w 21 3) (fld w 16 4)) else
  if fld w 20 1 = 0x1#1 ∧ fld w 16 4 = 0x0#4 ∧ fld w 0 16 = 0x0#16 then some (.tzeroAll (fld w 31 1) (fld w 21 3)) else
  none
/-- Major 0x52: MMA. -/
def decodeComp52 (w : BitVec 32) : Option Instr :=
  some (.mma (fld w 31 1) (fld w 21 3) (fld w 15 6) (fld w 9 6) (fld w 5 4) (fld w 0 5))
/-- Major 0x53: MMAK. -/
def decodeComp53 (w : BitVec 32) : Option Instr :=
  some (.mmak (fld w 31 1) (fld w 21 3) (fld w 15 6) (fld w 9 6) (fld w 5 4) (fld w 0 5))
/-- Major 0x54: MMAT. -/
def decodeComp54 (w : BitVec 32) : Option Instr :=
  some (.mmat (fld w 31 1) (fld w 21 3) (fld w 15 6) (fld w 9 6) (fld w 5 4) (fld w 0 5))
/-- Major 0x55: MMAS. -/
def decodeComp55 (w : BitVec 32) : Option Instr :=
  some (.mmas (fld w 31 1) (fld w 21 3) (fld w 15 6) (fld w 9 6) (fld w 5 4) (fld w 0 5))
/-- Major 0x56: TRD_ROW, TRD_COL. -/
def decodeComp56 (w : BitVec 32) : Option Instr :=
  if fld w 20 1 = 0x0#1 ∧ fld w 6 2 = 0x0#2 then some (.trdRow (fld w 31 1) (fld w 21 3) (fld w 16 4) (fld w 8 8) (fld w 0 6)) else
  if fld w 20 1 = 0x1#1 ∧ fld w 6 2 = 0x0#2 then some (.trdCol (fld w 31 1) (fld w 21 3) (fld w 16 4) (fld w 8 8) (fld w 0 6)) else
  none
/-- Major 0x57: TWR_ROW, TWR_COL. -/
def decodeComp57 (w : BitVec 32) : Option Instr :=
  if fld w 20 1 = 0x0#1 ∧ fld w 6 2 = 0x0#2 then some (.twrRow (fld w 31 1) (fld w 21 3) (fld w 16 4) (fld w 8 8) (fld w 0 6)) else
  if fld w 20 1 = 0x1#1 ∧ fld w 6 2 = 0x0#2 then some (.twrCol (fld w 31 1) (fld w 21 3) (fld w 16 4) (fld w 8 8) (fld w 0 6)) else
  none
/-- Major 0x58: TMOVE, TMOVE_ADD. -/
def decodeComp58 (w : BitVec 32) : Option Instr :=
  if fld w 20 1 = 0x0#1 ∧ fld w 11 5 = 0x0#5 ∧ fld w 0 8 = 0x0#8 then some (.tmove (fld w 31 1) (fld w 21 3) (fld w 16 4) (fld w 8 3)) else
  if fld w 20 1 = 0x1#1 ∧ fld w 11 5 = 0x0#5 ∧ fld w 0 8 = 0x0#8 then some (.tmoveAdd (fld w 31 1) (fld w 21 3) (fld w 16 4) (fld w 8 3)) else
  none
/-- Major 0x59: TFREE. -/
def decodeComp59 (w : BitVec 32) : Option Instr :=
  if fld w 0 21 = 0x0#21 then some (.tfree (fld w 31 1) (fld w 21 3)) else
  none
/-- Major 0x5a: TWAIT, TWAIT_ALL. -/
def decodeComp5A (w : BitVec 32) : Option Instr :=
  if fld w 0 21 = 0x0#21 then some (.twait (fld w 31 1) (fld w 21 3)) else
  if fld w 21 3 = 0x0#3 ∧ fld w 0 21 = 0x100000#21 then some (.twaitAll (fld w 31 1)) else
  none

/-- A word read under its Major. -/
def decodeCompAt (n : Nat) (w : BitVec 32) : Option Instr :=
  match n with
  | 0x0 => decodeComp00 w
  | 0x1 => decodeComp01 w
  | 0x2 => decodeComp02 w
  | 0x3 => decodeComp03 w
  | 0x4 => decodeComp04 w
  | 0x5 => decodeComp05 w
  | 0x6 => decodeComp06 w
  | 0x7 => decodeComp07 w
  | 0x8 => decodeComp08 w
  | 0x9 => decodeComp09 w
  | 0xa => decodeComp0A w
  | 0xb => decodeComp0B w
  | 0xc => decodeComp0C w
  | 0xd => decodeComp0D w
  | 0xe => decodeComp0E w
  | 0xf => decodeComp0F w
  | 0x10 => decodeComp10 w
  | 0x11 => decodeComp11 w
  | 0x12 => decodeComp12 w
  | 0x13 => decodeComp13 w
  | 0x14 => decodeComp14 w
  | 0x15 => decodeComp15 w
  | 0x16 => decodeComp16 w
  | 0x17 => decodeComp17 w
  | 0x18 => decodeComp18 w
  | 0x19 => decodeComp19 w
  | 0x20 => decodeComp20 w
  | 0x21 => decodeComp21 w
  | 0x22 => decodeComp22 w
  | 0x23 => decodeComp23 w
  | 0x24 => decodeComp24 w
  | 0x25 => decodeComp25 w
  | 0x26 => decodeComp26 w
  | 0x27 => decodeComp27 w
  | 0x28 => decodeComp28 w
  | 0x29 => decodeComp29 w
  | 0x2a => decodeComp2A w
  | 0x2b => decodeComp2B w
  | 0x30 => decodeComp30 w
  | 0x31 => decodeComp31 w
  | 0x32 => decodeComp32 w
  | 0x33 => decodeComp33 w
  | 0x34 => decodeComp34 w
  | 0x35 => decodeComp35 w
  | 0x36 => decodeComp36 w
  | 0x37 => decodeComp37 w
  | 0x38 => decodeComp38 w
  | 0x39 => decodeComp39 w
  | 0x3a => decodeComp3A w
  | 0x3b => decodeComp3B w
  | 0x40 => decodeComp40 w
  | 0x41 => decodeComp41 w
  | 0x42 => decodeComp42 w
  | 0x48 => decodeComp48 w
  | 0x49 => decodeComp49 w
  | 0x4a => decodeComp4A w
  | 0x4b => decodeComp4B w
  | 0x4c => decodeComp4C w
  | 0x4d => decodeComp4D w
  | 0x4e => decodeComp4E w
  | 0x4f => decodeComp4F w
  | 0x50 => decodeComp50 w
  | 0x51 => decodeComp51 w
  | 0x52 => decodeComp52 w
  | 0x53 => decodeComp53 w
  | 0x54 => decodeComp54 w
  | 0x55 => decodeComp55 w
  | 0x56 => decodeComp56 w
  | 0x57 => decodeComp57 w
  | 0x58 => decodeComp58 w
  | 0x59 => decodeComp59 w
  | 0x5a => decodeComp5A w
  | _ => none

/-- The compute stream's decoder (R32). -/
def decodeComp (w : BitVec 32) : Option Instr := decodeCompAt (fld w 24 7).toNat w

/-- Major 0x0: ANOP. -/
def decodeAcc00 (w : BitVec 32) : Option Instr :=
  if fld w 0 24 = 0x0#24 then some (.anop (fld w 31 1)) else
  none
/-- Major 0x1: ABR. -/
def decodeAcc01 (w : BitVec 32) : Option Instr :=
  some (.abr (fld w 31 1) (fld w 0 24))
/-- Major 0x2: ABEQ, ABNE, ABLT, ABGE, ABLTN, ABGEN. -/
def decodeAcc02 (w : BitVec 32) : Option Instr :=
  if fld w 11 3 = 0x0#3 then some (.abeq (fld w 31 1) (fld w 19 5) (fld w 14 5) (fld w 0 11)) else
  if fld w 11 3 = 0x1#3 then some (.abne (fld w 31 1) (fld w 19 5) (fld w 14 5) (fld w 0 11)) else
  if fld w 11 3 = 0x2#3 then some (.ablt (fld w 31 1) (fld w 19 5) (fld w 14 5) (fld w 0 11)) else
  if fld w 11 3 = 0x3#3 then some (.abge (fld w 31 1) (fld w 19 5) (fld w 14 5) (fld w 0 11)) else
  if fld w 11 3 = 0x4#3 then some (.abltn (fld w 31 1) (fld w 19 5) (fld w 14 5) (fld w 0 11)) else
  if fld w 11 3 = 0x5#3 then some (.abgen (fld w 31 1) (fld w 19 5) (fld w 14 5) (fld w 0 11)) else
  none
/-- Major 0x3: ALOOP. -/
def decodeAcc03 (w : BitVec 32) : Option Instr :=
  some (.aloop (fld w 31 1) (fld w 19 5) (fld w 0 19))
/-- Major 0x4: AJMPI. -/
def decodeAcc04 (w : BitVec 32) : Option Instr :=
  if fld w 19 5 = 0x0#5 ∧ fld w 0 14 = 0x0#14 then some (.ajmpi (fld w 31 1) (fld w 14 5)) else
  none
/-- Major 0x5: AEND. -/
def decodeAcc05 (w : BitVec 32) : Option Instr :=
  if fld w 0 24 = 0x0#24 then some (.aend (fld w 31 1)) else
  none
/-- Major 0x6: AADD, ASUB, AMUL, AMULH, AAND, AOR, AXOR, ASHL, ASHR, ASRA, AMIN, AMAX, AMINN, AMAXN. -/
def decodeAcc06 (w : BitVec 32) : Option Instr :=
  if fld w 0 9 = 0x0#9 then some (.aadd (fld w 31 1) (fld w 19 5) (fld w 14 5) (fld w 9 5)) else
  if fld w 0 9 = 0x1#9 then some (.asub (fld w 31 1) (fld w 19 5) (fld w 14 5) (fld w 9 5)) else
  if fld w 0 9 = 0x2#9 then some (.amul (fld w 31 1) (fld w 19 5) (fld w 14 5) (fld w 9 5)) else
  if fld w 0 9 = 0x3#9 then some (.amulh (fld w 31 1) (fld w 19 5) (fld w 14 5) (fld w 9 5)) else
  if fld w 0 9 = 0x4#9 then some (.aand (fld w 31 1) (fld w 19 5) (fld w 14 5) (fld w 9 5)) else
  if fld w 0 9 = 0x5#9 then some (.aor (fld w 31 1) (fld w 19 5) (fld w 14 5) (fld w 9 5)) else
  if fld w 0 9 = 0x6#9 then some (.axor (fld w 31 1) (fld w 19 5) (fld w 14 5) (fld w 9 5)) else
  if fld w 0 9 = 0x7#9 then some (.ashl (fld w 31 1) (fld w 19 5) (fld w 14 5) (fld w 9 5)) else
  if fld w 0 9 = 0x8#9 then some (.ashr (fld w 31 1) (fld w 19 5) (fld w 14 5) (fld w 9 5)) else
  if fld w 0 9 = 0x9#9 then some (.asra (fld w 31 1) (fld w 19 5) (fld w 14 5) (fld w 9 5)) else
  if fld w 0 9 = 0xa#9 then some (.amin (fld w 31 1) (fld w 19 5) (fld w 14 5) (fld w 9 5)) else
  if fld w 0 9 = 0xb#9 then some (.amax (fld w 31 1) (fld w 19 5) (fld w 14 5) (fld w 9 5)) else
  if fld w 0 9 = 0xc#9 then some (.aminn (fld w 31 1) (fld w 19 5) (fld w 14 5) (fld w 9 5)) else
  if fld w 0 9 = 0xd#9 then some (.amaxn (fld w 31 1) (fld w 19 5) (fld w 14 5) (fld w 9 5)) else
  none
/-- Major 0x7: AADDI. -/
def decodeAcc07 (w : BitVec 32) : Option Instr :=
  some (.aaddi (fld w 31 1) (fld w 19 5) (fld w 14 5) (fld w 0 14))
/-- Major 0x8: ALI, ALIM, ALIT, ALIQ. -/
def decodeAcc08 (w : BitVec 32) : Option Instr :=
  if fld w 16 3 = 0x0#3 then some (.ali (fld w 31 1) (fld w 19 5) (fld w 0 16)) else
  if fld w 16 3 = 0x1#3 then some (.alim (fld w 31 1) (fld w 19 5) (fld w 0 16)) else
  if fld w 16 3 = 0x2#3 then some (.alit (fld w 31 1) (fld w 19 5) (fld w 0 16)) else
  if fld w 16 3 = 0x3#3 then some (.aliq (fld w 31 1) (fld w 19 5) (fld w 0 16)) else
  none
/-- Major 0x9: APOP, APOP_K. -/
def decodeAcc09 (w : BitVec 32) : Option Instr :=
  if fld w 5 14 = 0x0#14 then some (.apop (fld w 31 1) (fld w 19 5) (fld w 0 5)) else
  if fld w 5 14 = 0x1#14 then some (.apopK (fld w 31 1) (fld w 19 5) (fld w 0 5)) else
  none
/-- Major 0xa: APUSH. -/
def decodeAcc0A (w : BitVec 32) : Option Instr :=
  if fld w 0 14 = 0x0#14 then some (.apush (fld w 31 1) (fld w 19 5) (fld w 14 5)) else
  none
/-- Major 0xb: RTICK. -/
def decodeAcc0B (w : BitVec 32) : Option Instr :=
  if fld w 0 24 = 0x0#24 then some (.rtick (fld w 31 1)) else
  none
/-- Major 0xc: SETD. -/
def decodeAcc0C (w : BitVec 32) : Option Instr :=
  some (.setd (fld w 31 1) (fld w 19 5) (fld w 14 5) (fld w 0 14))
/-- Major 0xd: AGETS. -/
def decodeAcc0D (w : BitVec 32) : Option Instr :=
  if fld w 14 5 = 0x0#5 then some (.agets (fld w 31 1) (fld w 19 5) (fld w 0 14)) else
  none
/-- Major 0x10: VDEF_GLOB, VDEF_CORE. -/
def decodeAcc10 (w : BitVec 32) : Option Instr :=
  if fld w 0 14 = 0x0#14 then some (.vdefGlob (fld w 31 1) (fld w 19 5) (fld w 14 5)) else
  if fld w 0 14 = 0x1#14 then some (.vdefCore (fld w 31 1) (fld w 19 5) (fld w 14 5)) else
  none
/-- Major 0x11: VSET. -/
def decodeAcc11 (w : BitVec 32) : Option Instr :=
  if fld w 9 5 = 0x0#5 then some (.vset (fld w 31 1) (fld w 19 5) (fld w 14 5) (fld w 0 9)) else
  none
/-- Major 0x12: VGET. -/
def decodeAcc12 (w : BitVec 32) : Option Instr :=
  if fld w 14 5 = 0x0#5 then some (.vget (fld w 31 1) (fld w 19 5) (fld w 9 5) (fld w 0 9)) else
  none
/-- Major 0x18: LDT. -/
def decodeAcc18 (w : BitVec 32) : Option Instr :=
  if fld w 0 2 = 0x0#2 then some (.ldt (fld w 31 1) (fld w 21 3) (fld w 16 5) (fld w 11 5) (fld w 8 3) (fld w 5 3) (fld w 4 1) (fld w 2 2)) else
  none
/-- Major 0x19: LDG. -/
def decodeAcc19 (w : BitVec 32) : Option Instr :=
  if fld w 0 2 = 0x0#2 then some (.ldg (fld w 31 1) (fld w 21 3) (fld w 16 5) (fld w 11 5) (fld w 8 3) (fld w 5 3) (fld w 4 1) (fld w 2 2)) else
  none
/-- Major 0x1a: LDA. -/
def decodeAcc1A (w : BitVec 32) : Option Instr :=
  if fld w 22 2 = 0x0#2 ∧ fld w 0 2 = 0x0#2 then some (.lda (fld w 31 1) (fld w 21 1) (fld w 16 5) (fld w 11 5) (fld w 8 3) (fld w 5 3) (fld w 4 1) (fld w 2 2)) else
  none
/-- Major 0x1b: LDP. -/
def decodeAcc1B (w : BitVec 32) : Option Instr :=
  if fld w 0 2 = 0x0#2 then some (.ldp (fld w 31 1) (fld w 21 3) (fld w 16 5) (fld w 11 5) (fld w 8 3) (fld w 5 3) (fld w 4 1) (fld w 2 2)) else
  none
/-- Major 0x1c: STT. -/
def decodeAcc1C (w : BitVec 32) : Option Instr :=
  if fld w 21 3 = 0x0#3 ∧ fld w 0 2 = 0x0#2 then some (.stt (fld w 31 1) (fld w 16 5) (fld w 11 5) (fld w 8 3) (fld w 5 3) (fld w 4 1) (fld w 2 2)) else
  none
/-- Major 0x1d: STG. -/
def decodeAcc1D (w : BitVec 32) : Option Instr :=
  if fld w 21 3 = 0x0#3 ∧ fld w 0 2 = 0x0#2 then some (.stg (fld w 31 1) (fld w 16 5) (fld w 11 5) (fld w 8 3) (fld w 5 3) (fld w 4 1) (fld w 2 2)) else
  none
/-- Major 0x1e: STA. -/
def decodeAcc1E (w : BitVec 32) : Option Instr :=
  if fld w 21 3 = 0x0#3 ∧ fld w 0 2 = 0x0#2 then some (.sta (fld w 31 1) (fld w 16 5) (fld w 11 5) (fld w 8 3) (fld w 5 3) (fld w 4 1) (fld w 2 2)) else
  none
/-- Major 0x1f: PREF. -/
def decodeAcc1F (w : BitVec 32) : Option Instr :=
  if fld w 21 3 = 0x0#3 ∧ fld w 0 2 = 0x0#2 then some (.pref (fld w 31 1) (fld w 16 5) (fld w 11 5) (fld w 8 3) (fld w 5 3) (fld w 4 1) (fld w 2 2)) else
  none
/-- Major 0x20: ATOM. -/
def decodeAcc20 (w : BitVec 32) : Option Instr :=
  some (.atom (fld w 31 1) (fld w 21 3) (fld w 16 5) (fld w 11 5) (fld w 8 3) (fld w 5 3) (fld w 0 5))
/-- Major 0x21: ATOMA. -/
def decodeAcc21 (w : BitVec 32) : Option Instr :=
  some (.atoma (fld w 31 1) (fld w 19 5) (fld w 14 5) (fld w 9 5) (fld w 5 4) (fld w 3 2) (fld w 0 3))
/-- Major 0x22: FENCE. -/
def decodeAcc22 (w : BitVec 32) : Option Instr :=
  if fld w 0 18 = 0x0#18 then some (.fence (fld w 31 1) (fld w 21 3) (fld w 18 3)) else
  none
/-- Major 0x23: XFENCE. -/
def decodeAcc23 (w : BitVec 32) : Option Instr :=
  if fld w 23 1 = 0x0#1 ∧ fld w 15 1 = 0x0#1 ∧ fld w 0 5 = 0x0#5 then some (.xfence (fld w 31 1) (fld w 16 7) (fld w 8 7) (fld w 5 3)) else
  none
/-- Major 0x28: CPY. -/
def decodeAcc28 (w : BitVec 32) : Option Instr :=
  if fld w 0 10 = 0x0#10 then some (.cpy (fld w 31 1) (fld w 19 5) (fld w 14 5) (fld w 11 3) (fld w 10 1)) else
  none
/-- Major 0x29: HAND. -/
def decodeAcc29 (w : BitVec 32) : Option Instr :=
  if fld w 0 10 = 0x0#10 then some (.hand (fld w 31 1) (fld w 19 5) (fld w 14 5) (fld w 11 3) (fld w 10 1)) else
  none
/-- Major 0x2a: XFER. -/
def decodeAcc2A (w : BitVec 32) : Option Instr :=
  some (.xfer (fld w 31 1) (fld w 19 5) (fld w 14 5) (fld w 11 3) (fld w 10 1) (fld w 8 2) (fld w 0 8))
/-- Major 0x2b: XMC. -/
def decodeAcc2B (w : BitVec 32) : Option Instr :=
  some (.xmc (fld w 31 1) (fld w 19 5) (fld w 14 5) (fld w 11 3) (fld w 10 1) (fld w 8 2) (fld w 0 8))
/-- Major 0x2c: CTRSET, CTRSET_T. -/
def decodeAcc2C (w : BitVec 32) : Option Instr :=
  if fld w 19 5 = 0x0#5 ∧ fld w 0 9 = 0x0#9 then some (.ctrset (fld w 31 1) (fld w 14 5) (fld w 9 5)) else
  if fld w 19 5 = 0x0#5 ∧ fld w 0 9 = 0x1#9 then some (.ctrsetT (fld w 31 1) (fld w 14 5) (fld w 9 5)) else
  none
/-- Major 0x2d: CTRADD. -/
def decodeAcc2D (w : BitVec 32) : Option Instr :=
  if fld w 19 5 = 0x0#5 ∧ fld w 0 9 = 0x0#9 then some (.ctradd (fld w 31 1) (fld w 14 5) (fld w 9 5)) else
  none
/-- Major 0x2e: CTRGET, CTRGET_T. -/
def decodeAcc2E (w : BitVec 32) : Option Instr :=
  if fld w 0 14 = 0x0#14 then some (.ctrget (fld w 31 1) (fld w 19 5) (fld w 14 5)) else
  if fld w 0 14 = 0x1#14 then some (.ctrgetT (fld w 31 1) (fld w 19 5) (fld w 14 5)) else
  none
/-- Major 0x2f: AWAITC, AWAITC_T. -/
def decodeAcc2F (w : BitVec 32) : Option Instr :=
  if fld w 19 5 = 0x0#5 ∧ fld w 0 9 = 0x0#9 then some (.awaitc (fld w 31 1) (fld w 14 5) (fld w 9 5)) else
  if fld w 19 5 = 0x0#5 ∧ fld w 9 5 = 0x0#5 ∧ fld w 0 9 = 0x1#9 then some (.awaitcT (fld w 31 1) (fld w 14 5)) else
  none

/-- A word read under its Major. -/
def decodeAccAt (n : Nat) (w : BitVec 32) : Option Instr :=
  match n with
  | 0x0 => decodeAcc00 w
  | 0x1 => decodeAcc01 w
  | 0x2 => decodeAcc02 w
  | 0x3 => decodeAcc03 w
  | 0x4 => decodeAcc04 w
  | 0x5 => decodeAcc05 w
  | 0x6 => decodeAcc06 w
  | 0x7 => decodeAcc07 w
  | 0x8 => decodeAcc08 w
  | 0x9 => decodeAcc09 w
  | 0xa => decodeAcc0A w
  | 0xb => decodeAcc0B w
  | 0xc => decodeAcc0C w
  | 0xd => decodeAcc0D w
  | 0x10 => decodeAcc10 w
  | 0x11 => decodeAcc11 w
  | 0x12 => decodeAcc12 w
  | 0x18 => decodeAcc18 w
  | 0x19 => decodeAcc19 w
  | 0x1a => decodeAcc1A w
  | 0x1b => decodeAcc1B w
  | 0x1c => decodeAcc1C w
  | 0x1d => decodeAcc1D w
  | 0x1e => decodeAcc1E w
  | 0x1f => decodeAcc1F w
  | 0x20 => decodeAcc20 w
  | 0x21 => decodeAcc21 w
  | 0x22 => decodeAcc22 w
  | 0x23 => decodeAcc23 w
  | 0x28 => decodeAcc28 w
  | 0x29 => decodeAcc29 w
  | 0x2a => decodeAcc2A w
  | 0x2b => decodeAcc2B w
  | 0x2c => decodeAcc2C w
  | 0x2d => decodeAcc2D w
  | 0x2e => decodeAcc2E w
  | 0x2f => decodeAcc2F w
  | _ => none

/-- The access stream's decoder (R46). -/
def decodeAcc (w : BitVec 32) : Option Instr := decodeAccAt (fld w 24 7).toNat w

/-- OP 0x1: WADD, WADD_I. -/
def decodeWeir01 (w : BitVec 32) : Option Instr :=
  if fld w 22 1 = 0x0#1 ∧ fld w 0 9 = 0x0#9 then some (.wadd (fld w 23 1) (fld w 18 4) (fld w 14 4) (fld w 10 4) (fld w 9 1)) else
  if fld w 22 1 = 0x1#1 then some (.waddI (fld w 23 1) (fld w 18 4) (fld w 14 4) (fld w 0 14)) else
  none
/-- OP 0x2: WSUB, WSUB_I. -/
def decodeWeir02 (w : BitVec 32) : Option Instr :=
  if fld w 22 1 = 0x0#1 ∧ fld w 0 9 = 0x0#9 then some (.wsub (fld w 23 1) (fld w 18 4) (fld w 14 4) (fld w 10 4) (fld w 9 1)) else
  if fld w 22 1 = 0x1#1 then some (.wsubI (fld w 23 1) (fld w 18 4) (fld w 14 4) (fld w 0 14)) else
  none
/-- OP 0x3: WMUL, WMUL_I. -/
def decodeWeir03 (w : BitVec 32) : Option Instr :=
  if fld w 22 1 = 0x0#1 ∧ fld w 0 9 = 0x0#9 then some (.wmul (fld w 23 1) (fld w 18 4) (fld w 14 4) (fld w 10 4) (fld w 9 1)) else
  if fld w 22 1 = 0x1#1 then some (.wmulI (fld w 23 1) (fld w 18 4) (fld w 14 4) (fld w 0 14)) else
  none
/-- OP 0x4: WAND, WAND_I. -/
def decodeWeir04 (w : BitVec 32) : Option Instr :=
  if fld w 22 1 = 0x0#1 ∧ fld w 0 9 = 0x0#9 then some (.wand (fld w 23 1) (fld w 18 4) (fld w 14 4) (fld w 10 4) (fld w 9 1)) else
  if fld w 22 1 = 0x1#1 then some (.wandI (fld w 23 1) (fld w 18 4) (fld w 14 4) (fld w 0 14)) else
  none
/-- OP 0x5: WOR, WOR_I. -/
def decodeWeir05 (w : BitVec 32) : Option Instr :=
  if fld w 22 1 = 0x0#1 ∧ fld w 0 9 = 0x0#9 then some (.wor (fld w 23 1) (fld w 18 4) (fld w 14 4) (fld w 10 4) (fld w 9 1)) else
  if fld w 22 1 = 0x1#1 then some (.worI (fld w 23 1) (fld w 18 4) (fld w 14 4) (fld w 0 14)) else
  none
/-- OP 0x6: WXOR, WXOR_I. -/
def decodeWeir06 (w : BitVec 32) : Option Instr :=
  if fld w 22 1 = 0x0#1 ∧ fld w 0 9 = 0x0#9 then some (.wxor (fld w 23 1) (fld w 18 4) (fld w 14 4) (fld w 10 4) (fld w 9 1)) else
  if fld w 22 1 = 0x1#1 then some (.wxorI (fld w 23 1) (fld w 18 4) (fld w 14 4) (fld w 0 14)) else
  none
/-- OP 0x7: WSHL, WSHL_I. -/
def decodeWeir07 (w : BitVec 32) : Option Instr :=
  if fld w 22 1 = 0x0#1 ∧ fld w 0 9 = 0x0#9 then some (.wshl (fld w 23 1) (fld w 18 4) (fld w 14 4) (fld w 10 4) (fld w 9 1)) else
  if fld w 22 1 = 0x1#1 then some (.wshlI (fld w 23 1) (fld w 18 4) (fld w 14 4) (fld w 0 14)) else
  none
/-- OP 0x8: WSHR, WSHR_I. -/
def decodeWeir08 (w : BitVec 32) : Option Instr :=
  if fld w 22 1 = 0x0#1 ∧ fld w 0 9 = 0x0#9 then some (.wshr (fld w 23 1) (fld w 18 4) (fld w 14 4) (fld w 10 4) (fld w 9 1)) else
  if fld w 22 1 = 0x1#1 then some (.wshrI (fld w 23 1) (fld w 18 4) (fld w 14 4) (fld w 0 14)) else
  none
/-- OP 0x9: WMIN, WMIN_I. -/
def decodeWeir09 (w : BitVec 32) : Option Instr :=
  if fld w 22 1 = 0x0#1 ∧ fld w 0 9 = 0x0#9 then some (.wmin (fld w 23 1) (fld w 18 4) (fld w 14 4) (fld w 10 4) (fld w 9 1)) else
  if fld w 22 1 = 0x1#1 then some (.wminI (fld w 23 1) (fld w 18 4) (fld w 14 4) (fld w 0 14)) else
  none
/-- OP 0xa: WMAX, WMAX_I. -/
def decodeWeir0A (w : BitVec 32) : Option Instr :=
  if fld w 22 1 = 0x0#1 ∧ fld w 0 9 = 0x0#9 then some (.wmax (fld w 23 1) (fld w 18 4) (fld w 14 4) (fld w 10 4) (fld w 9 1)) else
  if fld w 22 1 = 0x1#1 then some (.wmaxI (fld w 23 1) (fld w 18 4) (fld w 14 4) (fld w 0 14)) else
  none
/-- OP 0xb: WCMP. -/
def decodeWeir0B (w : BitVec 32) : Option Instr :=
  if fld w 0 7 = 0x0#7 then some (.wcmp (fld w 23 1) (fld w 20 3) (fld w 16 4) (fld w 12 4) (fld w 8 4) (fld w 7 1)) else
  none
/-- OP 0xc: WSEL. -/
def decodeWeir0C (w : BitVec 32) : Option Instr :=
  if fld w 0 7 = 0x0#7 then some (.wsel (fld w 23 1) (fld w 19 4) (fld w 15 4) (fld w 11 4) (fld w 7 4)) else
  none
/-- OP 0xd: WMOV_W, WMOV_X, WMOV_WX, WMOV_XL, WMOV_WL. -/
def decodeWeir0D (w : BitVec 32) : Option Instr :=
  if fld w 23 1 = 0x0#1 ∧ fld w 12 3 = 0x0#3 ∧ fld w 9 3 = 0x0#3 ∧ fld w 0 9 = 0x0#9 then some (.wmovW (fld w 19 4) (fld w 15 4)) else
  if fld w 23 1 = 0x0#1 ∧ fld w 12 3 = 0x1#3 ∧ fld w 9 3 = 0x0#3 ∧ fld w 0 9 = 0x0#9 then some (.wmovX (fld w 19 4) (fld w 15 4)) else
  if fld w 23 1 = 0x0#1 ∧ fld w 12 3 = 0x2#3 ∧ fld w 9 3 = 0x0#3 ∧ fld w 0 9 = 0x0#9 then some (.wmovWx (fld w 19 4) (fld w 15 4)) else
  if fld w 23 1 = 0x0#1 ∧ fld w 12 3 = 0x3#3 ∧ fld w 0 9 = 0x0#9 then some (.wmovXl (fld w 19 4) (fld w 15 4) (fld w 9 3)) else
  if fld w 23 1 = 0x0#1 ∧ fld w 12 3 = 0x4#3 ∧ fld w 0 9 = 0x0#9 then some (.wmovWl (fld w 19 4) (fld w 15 4) (fld w 9 3)) else
  none
/-- OP 0xe: WLI, WLI_H. -/
def decodeWeir0E (w : BitVec 32) : Option Instr :=
  if fld w 16 3 = 0x0#3 then some (.wli (fld w 23 1) (fld w 19 4) (fld w 0 16)) else
  if fld w 16 3 = 0x4#3 then some (.wliH (fld w 23 1) (fld w 19 4) (fld w 0 16)) else
  none
/-- OP 0x10: WHDR, WHDR_W. -/
def decodeWeir10 (w : BitVec 32) : Option Instr :=
  if fld w 23 1 = 0x0#1 ∧ fld w 0 14 = 0x0#14 then some (.whdr (fld w 19 4) (fld w 14 5)) else
  if fld w 23 1 = 0x1#1 ∧ fld w 14 5 = 0x0#5 ∧ fld w 0 14 = 0x0#14 then some (.whdrW (fld w 19 4)) else
  none
/-- OP 0x11: WSETH. -/
def decodeWeir11 (w : BitVec 32) : Option Instr :=
  if fld w 23 1 = 0x0#1 ∧ fld w 0 14 = 0x0#14 then some (.wseth (fld w 19 4) (fld w 14 5)) else
  none
/-- OP 0x12: WLDP, WLDP_X. -/
def decodeWeir12 (w : BitVec 32) : Option Instr :=
  if fld w 23 1 = 0x0#1 ∧ fld w 16 3 = 0x0#3 ∧ fld w 3 13 = 0x0#13 then some (.wldp (fld w 19 4) (fld w 0 3)) else
  if fld w 23 1 = 0x1#1 ∧ fld w 3 13 = 0x0#13 then some (.wldpX (fld w 19 4) (fld w 16 3) (fld w 0 3)) else
  none
/-- OP 0x13: WSTP, WSTP_X. -/
noncomputable def decodeWeir13 (w : BitVec 32) : Option Instr :=
  if fld w 23 1 = 0x0#1 ∧ fld w 16 3 = 0x0#3 ∧ fld w 3 13 = 0x0#13 then some (.wstp (fld w 19 4) (fld w 0 3)) else
  if fld w 23 1 = 0x1#1 ∧ fld w 3 13 = 0x0#13 then some (.wstpX (fld w 19 4) (fld w 16 3) (fld w 0 3)) else
  none
/-- OP 0x14: WLDF. -/
noncomputable def decodeWeir14 (w : BitVec 32) : Option Instr :=
  if fld w 23 1 = 0x0#1 then some (.wldf (fld w 19 4) (fld w 16 3) (fld w 0 16)) else
  none
/-- OP 0x15: WSTF. -/
noncomputable def decodeWeir15 (w : BitVec 32) : Option Instr :=
  if fld w 23 1 = 0x0#1 then some (.wstf (fld w 19 4) (fld w 16 3) (fld w 0 16)) else
  none
/-- OP 0x16: WATF. -/
noncomputable def decodeWeir16 (w : BitVec 32) : Option Instr :=
  some (.watf (fld w 20 4) (fld w 17 3) (fld w 14 3) (fld w 11 3) (fld w 0 11))
/-- OP 0x17: WHASH, WHASH_LK. -/
noncomputable def decodeWeir17 (w : BitVec 32) : Option Instr :=
  if fld w 23 1 = 0x0#1 ∧ fld w 0 13 = 0x0#13 then some (.whash (fld w 20 3) (fld w 16 4) (fld w 13 3)) else
  if fld w 23 1 = 0x1#1 ∧ fld w 13 3 = 0x0#3 ∧ fld w 0 13 = 0x0#13 then some (.whashLk (fld w 20 3) (fld w 16 4)) else
  none
/-- OP 0x18: WREP. -/
noncomputable def decodeWeir18 (w : BitVec 32) : Option Instr :=
  if fld w 0 14 = 0x0#14 then some (.wrep (fld w 20 4) (fld w 14 6)) else
  none
/-- OP 0x19: WBR, WBR_CC. -/
noncomputable def decodeWeir19 (w : BitVec 32) : Option Instr :=
  if fld w 21 3 = 0x0#3 ∧ fld w 18 3 = 0x0#3 ∧ fld w 8 10 = 0x0#10 then some (.wbr (fld w 0 8)) else
  if fld w 8 10 = 0x0#10 then some (.wbrCc (fld w 21 3) (fld w 18 3) (fld w 0 8)) else
  none
/-- OP 0x1a: WFWD. -/
def decodeWeir1A (w : BitVec 32) : Option Instr :=
  if fld w 0 24 = 0x0#24 then some (.wfwd) else
  none
/-- OP 0x1b: WDUP. -/
noncomputable def decodeWeir1B (w : BitVec 32) : Option Instr :=
  if fld w 0 21 = 0x0#21 then some (.wdup (fld w 21 3)) else
  none
/-- OP 0x1c: WDROP. -/
def decodeWeir1C (w : BitVec 32) : Option Instr :=
  if fld w 0 24 = 0x0#24 then some (.wdrop) else
  none
/-- OP 0x1d: WTRAP. -/
noncomputable def decodeWeir1D (w : BitVec 32) : Option Instr :=
  if fld w 0 9 = 0x0#9 then some (.wtrap (fld w 12 12) (fld w 9 3)) else
  none
/-- OP 0x1e: WEND. -/
def decodeWeir1E (w : BitVec 32) : Option Instr :=
  if fld w 0 24 = 0x0#24 then some (.wend) else
  none

/-- A word read under its OP. -/
noncomputable def decodeWeirAt (n : Nat) (w : BitVec 32) : Option Instr :=
  match n with
  | 0x1 => decodeWeir01 w
  | 0x2 => decodeWeir02 w
  | 0x3 => decodeWeir03 w
  | 0x4 => decodeWeir04 w
  | 0x5 => decodeWeir05 w
  | 0x6 => decodeWeir06 w
  | 0x7 => decodeWeir07 w
  | 0x8 => decodeWeir08 w
  | 0x9 => decodeWeir09 w
  | 0xa => decodeWeir0A w
  | 0xb => decodeWeir0B w
  | 0xc => decodeWeir0C w
  | 0xd => decodeWeir0D w
  | 0xe => decodeWeir0E w
  | 0x10 => decodeWeir10 w
  | 0x11 => decodeWeir11 w
  | 0x12 => decodeWeir12 w
  | 0x13 => decodeWeir13 w
  | 0x14 => decodeWeir14 w
  | 0x15 => decodeWeir15 w
  | 0x16 => decodeWeir16 w
  | 0x17 => decodeWeir17 w
  | 0x18 => decodeWeir18 w
  | 0x19 => decodeWeir19 w
  | 0x1a => decodeWeir1A w
  | 0x1b => decodeWeir1B w
  | 0x1c => decodeWeir1C w
  | 0x1d => decodeWeir1D w
  | 0x1e => decodeWeir1E w
  | _ => none

/-- The Weir's decoder (R384). -/
noncomputable def decodeWeir (w : BitVec 32) : Option Instr := decodeWeirAt (fld w 24 8).toNat w

/-- The three instruction sets. -/
inductive ISet where
  | comp | acc | weir | event
  deriving DecidableEq, Repr

/-- The word of an instruction in its own set (R48, R384): none for a machine operation, which has no word. -/
def encode (i : Instr) : Option (BitVec 32) :=
  match i with
  | .nop s => some (s ++ 0x0#31)
  | .bra s o => some (s ++ 0x1#7 ++ o)
  | .brc s r c o => some (s ++ 0x2#7 ++ r ++ c ++ o)
  | .brd s p n o => some (s ++ 0x3#7 ++ p ++ n ++ o)
  | .jmpi s a => some (s ++ 0x100#13 ++ a ++ 0x0#12)
  | .call s o => some (s ++ 0x5#7 ++ o)
  | .ret s => some (s ++ 0x6000000#31)
  | .modei s i => some (s ++ 0x70#11 ++ i)
  | .moder s a => some (s ++ 0x200#13 ++ a ++ 0x0#12)
  | .bar s a => some (s ++ 0x240#13 ++ a ++ 0x0#12)
  | .syncs s a => some (s ++ 0x280#13 ++ a ++ 0x0#12)
  | .gbar s => some (s ++ 0xb000000#31)
  | .waitc s a b => some (s ++ 0x300#13 ++ a ++ b ++ 0x0#6)
  | .waitm s a b => some (s ++ 0x340#13 ++ a ++ b ++ 0x0#6)
  | .sleep s a i => some (s ++ 0x380#13 ++ a ++ i)
  | .yield s => some (s ++ 0xf000000#31)
  | .launch s d a b => some (s ++ 0x10#7 ++ d ++ a ++ b ++ 0x0#6)
  | .joinc s a => some (s ++ 0x440#13 ++ a ++ 0x0#12)
  | .exit s => some (s ++ 0x12000000#31)
  | .trap s i => some (s ++ 0x130#11 ++ i)
  | .tret s => some (s ++ 0x14000000#31)
  | .gets s d i => some (s ++ 0x15#7 ++ d ++ 0x0#6 ++ i)
  | .puts s a i => some (s ++ 0x580#13 ++ a ++ i)
  | .clockCycle s d => some (s ++ 0x17#7 ++ d ++ 0x0#18)
  | .clockHubcyc s d => some (s ++ 0x17#7 ++ d ++ 0x1#18)
  | .clockPtpns s d => some (s ++ 0x17#7 ++ d ++ 0x2#18)
  | .gset s d a b f => some (s ++ 0x18#7 ++ d ++ a ++ b ++ f)
  | .bkpt s i => some (s ++ 0x190#11 ++ i)
  | .add s d a b => some (s ++ 0x20#7 ++ d ++ a ++ b ++ 0x0#6)
  | .sub s d a b => some (s ++ 0x20#7 ++ d ++ a ++ b ++ 0x1#6)
  | .mul s d a b => some (s ++ 0x20#7 ++ d ++ a ++ b ++ 0x2#6)
  | .mulh s d a b => some (s ++ 0x20#7 ++ d ++ a ++ b ++ 0x3#6)
  | .min s d a b => some (s ++ 0x20#7 ++ d ++ a ++ b ++ 0x4#6)
  | .max s d a b => some (s ++ 0x20#7 ++ d ++ a ++ b ++ 0x5#6)
  | .and s d a b => some (s ++ 0x20#7 ++ d ++ a ++ b ++ 0x6#6)
  | .or s d a b => some (s ++ 0x20#7 ++ d ++ a ++ b ++ 0x7#6)
  | .xor s d a b => some (s ++ 0x20#7 ++ d ++ a ++ b ++ 0x8#6)
  | .andn s d a b => some (s ++ 0x20#7 ++ d ++ a ++ b ++ 0x9#6)
  | .shl s d a b => some (s ++ 0x20#7 ++ d ++ a ++ b ++ 0xa#6)
  | .shr s d a b => some (s ++ 0x20#7 ++ d ++ a ++ b ++ 0xb#6)
  | .rot s d a b => some (s ++ 0x20#7 ++ d ++ a ++ b ++ 0xc#6)
  | .addc s d a b => some (s ++ 0x20#7 ++ d ++ a ++ b ++ 0xd#6)
  | .subb s d a b => some (s ++ 0x20#7 ++ d ++ a ++ b ++ 0xe#6)
  | .absd s d a b => some (s ++ 0x20#7 ++ d ++ a ++ b ++ 0xf#6)
  | .neg s d a => some (s ++ 0x21#7 ++ d ++ a ++ 0x0#12)
  | .abs s d a => some (s ++ 0x21#7 ++ d ++ a ++ 0x1#12)
  | .not s d a => some (s ++ 0x21#7 ++ d ++ a ++ 0x2#12)
  | .clz s d a => some (s ++ 0x21#7 ++ d ++ a ++ 0x3#12)
  | .ctz s d a => some (s ++ 0x21#7 ++ d ++ a ++ 0x4#12)
  | .popc s d a => some (s ++ 0x21#7 ++ d ++ a ++ 0x5#12)
  | .brev s d a => some (s ++ 0x21#7 ++ d ++ a ++ 0x6#12)
  | .mad s d a b c => some (s ++ 0x22#7 ++ d ++ a ++ b ++ c)
  | .bfe s d a b c => some (s ++ 0x23#7 ++ d ++ a ++ b ++ c)
  | .bfi s d a b c => some (s ++ 0x24#7 ++ d ++ a ++ b ++ c)
  | .addi s d a i => some (s ++ 0x25#7 ++ d ++ a ++ i)
  | .shi s d a k n => some (s ++ 0x26#7 ++ d ++ a ++ k ++ 0x0#4 ++ n)
  | .lit s d h i => some (s ++ 0x27#7 ++ d ++ h ++ i)
  | .cmp s d a b c => some (s ++ 0x28#7 ++ d ++ a ++ b ++ c)
  | .sel s d a b c => some (s ++ 0x29#7 ++ d ++ a ++ b ++ c)
  | .pand s d a b => some (s ++ 0x2a#7 ++ d ++ a ++ b ++ 0x0#6)
  | .por s d a b => some (s ++ 0x2a#7 ++ d ++ a ++ b ++ 0x1#6)
  | .pxor s d a b => some (s ++ 0x2a#7 ++ d ++ a ++ b ++ 0x2#6)
  | .pnot s d a => some (s ++ 0x2a#7 ++ d ++ a ++ 0x3#12)
  | .pmov s d a b => some (s ++ 0x2a#7 ++ d ++ a ++ b ++ 0x4#6)
  | .pset s d a => some (s ++ 0x2a#7 ++ d ++ a ++ 0x5#12)
  | .pget s d a => some (s ++ 0x2a#7 ++ d ++ a ++ 0x6#12)
  | .mov s d a => some (s ++ 0x2b#7 ++ d ++ a ++ 0x0#12)
  | .bcst s d a b => some (s ++ 0x2b#7 ++ d ++ a ++ b ++ 0x1#6)
  | .vtos s d a b => some (s ++ 0x2b#7 ++ d ++ a ++ b ++ 0x2#6)
  | .stov s d a b => some (s ++ 0x2b#7 ++ d ++ a ++ b ++ 0x3#6)
  | .fadd s d a b => some (s ++ 0x30#7 ++ d ++ a ++ b ++ 0x0#6)
  | .fsub s d a b => some (s ++ 0x30#7 ++ d ++ a ++ b ++ 0x1#6)
  | .fmul s d a b => some (s ++ 0x30#7 ++ d ++ a ++ b ++ 0x2#6)
  | .fmin s d a b => some (s ++ 0x30#7 ++ d ++ a ++ b ++ 0x3#6)
  | .fmax s d a b => some (s ++ 0x30#7 ++ d ++ a ++ b ++ 0x4#6)
  | .fcpys s d a b => some (s ++ 0x30#7 ++ d ++ a ++ b ++ 0x5#6)
  | .fabs s d a => some (s ++ 0x31#7 ++ d ++ a ++ 0x0#12)
  | .fneg s d a => some (s ++ 0x31#7 ++ d ++ a ++ 0x1#12)
  | .frnd s d a => some (s ++ 0x31#7 ++ d ++ a ++ 0x2#12)
  | .fclass s d a => some (s ++ 0x31#7 ++ d ++ a ++ 0x3#12)
  | .fma s d a b c => some (s ++ 0x32#7 ++ d ++ a ++ b ++ c)
  | .fms s d a b c => some (s ++ 0x33#7 ++ d ++ a ++ b ++ c)
  | .fnma s d a b c => some (s ++ 0x34#7 ++ d ++ a ++ b ++ c)
  | .fnms s d a b c => some (s ++ 0x35#7 ++ d ++ a ++ b ++ c)
  | .frcp s d a => some (s ++ 0x36#7 ++ d ++ a ++ 0x0#12)
  | .frsq s d a => some (s ++ 0x36#7 ++ d ++ a ++ 0x1#12)
  | .fsqrt s d a => some (s ++ 0x36#7 ++ d ++ a ++ 0x2#12)
  | .fexp2 s d a => some (s ++ 0x36#7 ++ d ++ a ++ 0x3#12)
  | .flog2 s d a => some (s ++ 0x36#7 ++ d ++ a ++ 0x4#12)
  | .fsin s d a => some (s ++ 0x36#7 ++ d ++ a ++ 0x5#12)
  | .fcos s d a => some (s ++ 0x36#7 ++ d ++ a ++ 0x6#12)
  | .ftanh s d a => some (s ++ 0x36#7 ++ d ++ a ++ 0x7#12)
  | .fdiv s d a b => some (s ++ 0x36#7 ++ d ++ a ++ b ++ 0x8#6)
  | .cvt s d a => some (s ++ 0x37#7 ++ d ++ a ++ 0x0#12)
  | .cvts s d a b => some (s ++ 0x37#7 ++ d ++ a ++ b ++ 0x1#6)
  | .pack s d a b => some (s ++ 0x38#7 ++ d ++ a ++ b ++ 0x0#6)
  | .unpk s d a b => some (s ++ 0x39#7 ++ d ++ a ++ b ++ 0x0#6)
  | .qnt s d a b q k => some (s ++ 0x3a#7 ++ d ++ a ++ b ++ 0x0#1 ++ q ++ k)
  | .dqnt s d a b q k => some (s ++ 0x3b#7 ++ d ++ a ++ b ++ 0x0#1 ++ q ++ k)
  | .sadd s d a b => some (s ++ 0x40#7 ++ d ++ a ++ b ++ 0x0#6)
  | .ssub s d a b => some (s ++ 0x40#7 ++ d ++ a ++ b ++ 0x1#6)
  | .smul s d a b => some (s ++ 0x40#7 ++ d ++ a ++ b ++ 0x2#6)
  | .smulh s d a b => some (s ++ 0x40#7 ++ d ++ a ++ b ++ 0x3#6)
  | .smin s d a b => some (s ++ 0x40#7 ++ d ++ a ++ b ++ 0x4#6)
  | .smax s d a b => some (s ++ 0x40#7 ++ d ++ a ++ b ++ 0x5#6)
  | .sand s d a b => some (s ++ 0x40#7 ++ d ++ a ++ b ++ 0x6#6)
  | .sor s d a b => some (s ++ 0x40#7 ++ d ++ a ++ b ++ 0x7#6)
  | .sxor s d a b => some (s ++ 0x40#7 ++ d ++ a ++ b ++ 0x8#6)
  | .sandn s d a b => some (s ++ 0x40#7 ++ d ++ a ++ b ++ 0x9#6)
  | .sshl s d a b => some (s ++ 0x40#7 ++ d ++ a ++ b ++ 0xa#6)
  | .sshr s d a b => some (s ++ 0x40#7 ++ d ++ a ++ b ++ 0xb#6)
  | .srot s d a b => some (s ++ 0x40#7 ++ d ++ a ++ b ++ 0xc#6)
  | .saddi s d a i => some (s ++ 0x41#7 ++ d ++ a ++ i)
  | .slit s d h i => some (s ++ 0x42#7 ++ d ++ h ++ i)
  | .xchx s d a b => some (s ++ 0x48#7 ++ d ++ a ++ b ++ 0x0#6)
  | .xchu s d a b => some (s ++ 0x48#7 ++ d ++ a ++ b ++ 0x1#6)
  | .xchd s d a b => some (s ++ 0x48#7 ++ d ++ a ++ b ++ 0x2#6)
  | .xchxk s d a b => some (s ++ 0x49#7 ++ d ++ a ++ b ++ 0x0#6)
  | .xchuk s d a b => some (s ++ 0x49#7 ++ d ++ a ++ b ++ 0x1#6)
  | .xchdk s d a b => some (s ++ 0x49#7 ++ d ++ a ++ b ++ 0x2#6)
  | .xchi s d a b => some (s ++ 0x4a#7 ++ d ++ a ++ b ++ 0x0#6)
  | .xbc s d a b => some (s ++ 0x4b#7 ++ d ++ a ++ b ++ 0x0#6)
  | .voteAny s d a b => some (s ++ 0x4c#7 ++ d ++ a ++ b ++ 0x0#6)
  | .voteAll s d a b => some (s ++ 0x4c#7 ++ d ++ a ++ b ++ 0x1#6)
  | .voteEq s d a b => some (s ++ 0x4c#7 ++ d ++ a ++ b ++ 0x2#6)
  | .voteBallot s d a b => some (s ++ 0x4c#7 ++ d ++ a ++ b ++ 0x3#6)
  | .voteElect s d => some (s ++ 0x4c#7 ++ d ++ 0x4#18)
  | .voteMatch s d a => some (s ++ 0x4c#7 ++ d ++ a ++ 0x5#12)
  | .redu s d a b f => some (s ++ 0x4d#7 ++ d ++ a ++ b ++ f)
  | .scan s d a b f => some (s ++ 0x4e#7 ++ d ++ a ++ b ++ f)
  | .cpt s d a b => some (s ++ 0x4f#7 ++ d ++ a ++ b ++ 0x0#6)
  | .tbind s t r => some (s ++ 0x50#7 ++ t ++ 0x0#1 ++ r ++ 0x0#16)
  | .tzero s t r => some (s ++ 0x51#7 ++ t ++ 0x0#1 ++ r ++ 0x0#16)
  | .tzeroAll s t => some (s ++ 0x51#7 ++ t ++ 0x100000#21)
  | .mma s t a b r k => some (s ++ 0x52#7 ++ t ++ a ++ b ++ r ++ k)
  | .mmak s t a b r k => some (s ++ 0x53#7 ++ t ++ a ++ b ++ r ++ k)
  | .mmat s t a b r k => some (s ++ 0x54#7 ++ t ++ a ++ b ++ r ++ k)
  | .mmas s t a b r k => some (s ++ 0x55#7 ++ t ++ a ++ b ++ r ++ k)
  | .trdRow s t r i v => some (s ++ 0x56#7 ++ t ++ 0x0#1 ++ r ++ i ++ 0x0#2 ++ v)
  | .trdCol s t r i v => some (s ++ 0x56#7 ++ t ++ 0x1#1 ++ r ++ i ++ 0x0#2 ++ v)
  | .twrRow s t r i v => some (s ++ 0x57#7 ++ t ++ 0x0#1 ++ r ++ i ++ 0x0#2 ++ v)
  | .twrCol s t r i v => some (s ++ 0x57#7 ++ t ++ 0x1#1 ++ r ++ i ++ 0x0#2 ++ v)
  | .tmove s t r u => some (s ++ 0x58#7 ++ t ++ 0x0#1 ++ r ++ 0x0#5 ++ u ++ 0x0#8)
  | .tmoveAdd s t r u => some (s ++ 0x58#7 ++ t ++ 0x1#1 ++ r ++ 0x0#5 ++ u ++ 0x0#8)
  | .tfree s t => some (s ++ 0x59#7 ++ t ++ 0x0#21)
  | .twait s t => some (s ++ 0x5a#7 ++ t ++ 0x0#21)
  | .twaitAll s => some (s ++ 0x5a100000#31)
  | .anop s => some (s ++ 0x0#31)
  | .abr s o => some (s ++ 0x1#7 ++ o)
  | .abeq s a b o => some (s ++ 0x2#7 ++ a ++ b ++ 0x0#3 ++ o)
  | .abne s a b o => some (s ++ 0x2#7 ++ a ++ b ++ 0x1#3 ++ o)
  | .ablt s a b o => some (s ++ 0x2#7 ++ a ++ b ++ 0x2#3 ++ o)
  | .abge s a b o => some (s ++ 0x2#7 ++ a ++ b ++ 0x3#3 ++ o)
  | .abltn s a b o => some (s ++ 0x2#7 ++ a ++ b ++ 0x4#3 ++ o)
  | .abgen s a b o => some (s ++ 0x2#7 ++ a ++ b ++ 0x5#3 ++ o)
  | .aloop s a o => some (s ++ 0x3#7 ++ a ++ o)
  | .ajmpi s a => some (s ++ 0x80#12 ++ a ++ 0x0#14)
  | .aend s => some (s ++ 0x5000000#31)
  | .aadd s d a b => some (s ++ 0x6#7 ++ d ++ a ++ b ++ 0x0#9)
  | .asub s d a b => some (s ++ 0x6#7 ++ d ++ a ++ b ++ 0x1#9)
  | .amul s d a b => some (s ++ 0x6#7 ++ d ++ a ++ b ++ 0x2#9)
  | .amulh s d a b => some (s ++ 0x6#7 ++ d ++ a ++ b ++ 0x3#9)
  | .aand s d a b => some (s ++ 0x6#7 ++ d ++ a ++ b ++ 0x4#9)
  | .aor s d a b => some (s ++ 0x6#7 ++ d ++ a ++ b ++ 0x5#9)
  | .axor s d a b => some (s ++ 0x6#7 ++ d ++ a ++ b ++ 0x6#9)
  | .ashl s d a b => some (s ++ 0x6#7 ++ d ++ a ++ b ++ 0x7#9)
  | .ashr s d a b => some (s ++ 0x6#7 ++ d ++ a ++ b ++ 0x8#9)
  | .asra s d a b => some (s ++ 0x6#7 ++ d ++ a ++ b ++ 0x9#9)
  | .amin s d a b => some (s ++ 0x6#7 ++ d ++ a ++ b ++ 0xa#9)
  | .amax s d a b => some (s ++ 0x6#7 ++ d ++ a ++ b ++ 0xb#9)
  | .aminn s d a b => some (s ++ 0x6#7 ++ d ++ a ++ b ++ 0xc#9)
  | .amaxn s d a b => some (s ++ 0x6#7 ++ d ++ a ++ b ++ 0xd#9)
  | .aaddi s d a i => some (s ++ 0x7#7 ++ d ++ a ++ i)
  | .ali s d i => some (s ++ 0x8#7 ++ d ++ 0x0#3 ++ i)
  | .alim s d i => some (s ++ 0x8#7 ++ d ++ 0x1#3 ++ i)
  | .alit s d i => some (s ++ 0x8#7 ++ d ++ 0x2#3 ++ i)
  | .aliq s d i => some (s ++ 0x8#7 ++ d ++ 0x3#3 ++ i)
  | .apop s d t => some (s ++ 0x9#7 ++ d ++ 0x0#14 ++ t)
  | .apopK s d t => some (s ++ 0x9#7 ++ d ++ 0x1#14 ++ t)
  | .apush s d a => some (s ++ 0xa#7 ++ d ++ a ++ 0x0#14)
  | .rtick s => some (s ++ 0xb000000#31)
  | .setd s d a i => some (s ++ 0xc#7 ++ d ++ a ++ i)
  | .agets s d i => some (s ++ 0xd#7 ++ d ++ 0x0#5 ++ i)
  | .vdefGlob s d a => some (s ++ 0x10#7 ++ d ++ a ++ 0x0#14)
  | .vdefCore s d a => some (s ++ 0x10#7 ++ d ++ a ++ 0x1#14)
  | .vset s d a f => some (s ++ 0x11#7 ++ d ++ a ++ 0x0#5 ++ f)
  | .vget s d b f => some (s ++ 0x12#7 ++ d ++ 0x0#5 ++ b ++ f)
  | .ldt s q v a d g e c => some (s ++ 0x18#7 ++ q ++ v ++ a ++ d ++ g ++ e ++ c ++ 0x0#2)
  | .ldg s q v a d g e c => some (s ++ 0x19#7 ++ q ++ v ++ a ++ d ++ g ++ e ++ c ++ 0x0#2)
  | .lda s x v a d g e c => some (s ++ 0x68#9 ++ x ++ v ++ a ++ d ++ g ++ e ++ c ++ 0x0#2)
  | .ldp s q v a d g e c => some (s ++ 0x1b#7 ++ q ++ v ++ a ++ d ++ g ++ e ++ c ++ 0x0#2)
  | .stt s v a d g e c => some (s ++ 0xe0#10 ++ v ++ a ++ d ++ g ++ e ++ c ++ 0x0#2)
  | .stg s v a d g e c => some (s ++ 0xe8#10 ++ v ++ a ++ d ++ g ++ e ++ c ++ 0x0#2)
  | .sta s v a d g e c => some (s ++ 0xf0#10 ++ v ++ a ++ d ++ g ++ e ++ c ++ 0x0#2)
  | .pref s v a d g e c => some (s ++ 0xf8#10 ++ v ++ a ++ d ++ g ++ e ++ c ++ 0x0#2)
  | .atom s q v a o c p => some (s ++ 0x20#7 ++ q ++ v ++ a ++ o ++ c ++ p)
  | .atoma s d a b p o c => some (s ++ 0x21#7 ++ d ++ a ++ b ++ p ++ o ++ c)
  | .fence s c k => some (s ++ 0x22#7 ++ c ++ k ++ 0x0#18)
  | .xfence s f t c => some (s ++ 0x46#8 ++ f ++ 0x0#1 ++ t ++ c ++ 0x0#5)
  | .cpy s d c g e => some (s ++ 0x28#7 ++ d ++ c ++ g ++ e ++ 0x0#10)
  | .hand s d c g e => some (s ++ 0x29#7 ++ d ++ c ++ g ++ e ++ 0x0#10)
  | .xfer s d c g e h p => some (s ++ 0x2a#7 ++ d ++ c ++ g ++ e ++ h ++ p)
  | .xmc s d c g e h p => some (s ++ 0x2b#7 ++ d ++ c ++ g ++ e ++ h ++ p)
  | .ctrset s a b => some (s ++ 0x580#12 ++ a ++ b ++ 0x0#9)
  | .ctrsetT s a b => some (s ++ 0x580#12 ++ a ++ b ++ 0x1#9)
  | .ctradd s a b => some (s ++ 0x5a0#12 ++ a ++ b ++ 0x0#9)
  | .ctrget s d a => some (s ++ 0x2e#7 ++ d ++ a ++ 0x0#14)
  | .ctrgetT s d a => some (s ++ 0x2e#7 ++ d ++ a ++ 0x1#14)
  | .awaitc s a b => some (s ++ 0x5e0#12 ++ a ++ b ++ 0x0#9)
  | .awaitcT s a => some (s ++ 0x5e0#12 ++ a ++ 0x1#14)
  | .wadd v d a b x => some (0x1#8 ++ v ++ 0x0#1 ++ d ++ a ++ b ++ x ++ 0x0#9)
  | .waddI v d a i => some (0x1#8 ++ v ++ 0x1#1 ++ d ++ a ++ i)
  | .wsub v d a b x => some (0x2#8 ++ v ++ 0x0#1 ++ d ++ a ++ b ++ x ++ 0x0#9)
  | .wsubI v d a i => some (0x2#8 ++ v ++ 0x1#1 ++ d ++ a ++ i)
  | .wmul v d a b x => some (0x3#8 ++ v ++ 0x0#1 ++ d ++ a ++ b ++ x ++ 0x0#9)
  | .wmulI v d a i => some (0x3#8 ++ v ++ 0x1#1 ++ d ++ a ++ i)
  | .wand v d a b x => some (0x4#8 ++ v ++ 0x0#1 ++ d ++ a ++ b ++ x ++ 0x0#9)
  | .wandI v d a i => some (0x4#8 ++ v ++ 0x1#1 ++ d ++ a ++ i)
  | .wor v d a b x => some (0x5#8 ++ v ++ 0x0#1 ++ d ++ a ++ b ++ x ++ 0x0#9)
  | .worI v d a i => some (0x5#8 ++ v ++ 0x1#1 ++ d ++ a ++ i)
  | .wxor v d a b x => some (0x6#8 ++ v ++ 0x0#1 ++ d ++ a ++ b ++ x ++ 0x0#9)
  | .wxorI v d a i => some (0x6#8 ++ v ++ 0x1#1 ++ d ++ a ++ i)
  | .wshl v d a b x => some (0x7#8 ++ v ++ 0x0#1 ++ d ++ a ++ b ++ x ++ 0x0#9)
  | .wshlI v d a i => some (0x7#8 ++ v ++ 0x1#1 ++ d ++ a ++ i)
  | .wshr v d a b x => some (0x8#8 ++ v ++ 0x0#1 ++ d ++ a ++ b ++ x ++ 0x0#9)
  | .wshrI v d a i => some (0x8#8 ++ v ++ 0x1#1 ++ d ++ a ++ i)
  | .wmin v d a b x => some (0x9#8 ++ v ++ 0x0#1 ++ d ++ a ++ b ++ x ++ 0x0#9)
  | .wminI v d a i => some (0x9#8 ++ v ++ 0x1#1 ++ d ++ a ++ i)
  | .wmax v d a b x => some (0xa#8 ++ v ++ 0x0#1 ++ d ++ a ++ b ++ x ++ 0x0#9)
  | .wmaxI v d a i => some (0xa#8 ++ v ++ 0x1#1 ++ d ++ a ++ i)
  | .wcmp v c d a b x => some (0xb#8 ++ v ++ c ++ d ++ a ++ b ++ x ++ 0x0#7)
  | .wsel v d a b c => some (0xc#8 ++ v ++ d ++ a ++ b ++ c ++ 0x0#7)
  | .wmovW d a => some (0x1a#9 ++ d ++ a ++ 0x0#15)
  | .wmovX d a => some (0x1a#9 ++ d ++ a ++ 0x1000#15)
  | .wmovWx d a => some (0x1a#9 ++ d ++ a ++ 0x2000#15)
  | .wmovXl d a l => some (0x1a#9 ++ d ++ a ++ 0x3#3 ++ l ++ 0x0#9)
  | .wmovWl d a l => some (0x1a#9 ++ d ++ a ++ 0x4#3 ++ l ++ 0x0#9)
  | .wli v d i => some (0xe#8 ++ v ++ d ++ 0x0#3 ++ i)
  | .wliH v d i => some (0xe#8 ++ v ++ d ++ 0x4#3 ++ i)
  | .whdr r f => some (0x20#9 ++ r ++ f ++ 0x0#14)
  | .whdrW r => some (0x21#9 ++ r ++ 0x0#19)
  | .wseth r f => some (0x22#9 ++ r ++ f ++ 0x0#14)
  | .wldp w c => some (0x24#9 ++ w ++ 0x0#16 ++ c)
  | .wldpX w x c => some (0x25#9 ++ w ++ x ++ 0x0#13 ++ c)
  | .wstp w c => some (0x26#9 ++ w ++ 0x0#16 ++ c)
  | .wstpX w x c => some (0x27#9 ++ w ++ x ++ 0x0#13 ++ c)
  | .wldf w x i => some (0x28#9 ++ w ++ x ++ i)
  | .wstf w x i => some (0x2a#9 ++ w ++ x ++ i)
  | .watf p d a b i => some (0x16#8 ++ p ++ d ++ a ++ b ++ i)
  | .whash d a n => some (0x2e#9 ++ d ++ a ++ n ++ 0x0#13)
  | .whashLk d a => some (0x2f#9 ++ d ++ a ++ 0x0#16)
  | .wrep n l => some (0x18#8 ++ n ++ l ++ 0x0#14)
  | .wbr o => some (0x190000#24 ++ o)
  | .wbrCc c a o => some (0x19#8 ++ c ++ a ++ 0x0#10 ++ o)
  | .wdup a => some (0x1b#8 ++ a ++ 0x0#21)
  | .wtrap c a => some (0x1d#8 ++ c ++ a ++ 0x0#9)
  | .wfwd  => some (0x1a000000#32)
  | .wdrop  => some (0x1c000000#32)
  | .wend  => some (0x1e000000#32)
  | .moduleReset => none
  | .create => none
  | .destroy => none
  | .preempt => none
  | .resume => none
  | .oscount => none
  | .ctlcas _ _ => none
  | .ctlsemLeaseExpiry => none
  | .reset => none
  | .modeset => none
  | .fwupdate => none
  | .slate _ _ _ => none
  | .freeze => none
  | .thaw => none
  | .attest => none
  | .domset => none
  | .domclr => none
  | .peerset => none
  | .peerclr => none
  | .peertmo => none
  | .devno => none
  | .unitret => none
  | .unitrst _ => none
  | .dierst _ => none
  | .load => none
  | .unload => none
  | .flowrd => none
  | .flowwr => none
  | .checkpoint _ _ _ => none
  | .restore _ _ => none
  | .arm => none
  | .go => none
  | .stop => none
  | .replayThaw => none
  | .reelctlWrite _ _ _ => none
  | .rsvctlWrite _ _ _ => none
  | .cutWrite _ _ _ _ => none
  | .errclsWrite _ _ _ => none
  | .watchFilterWrite _ _ _ => none
  | .trctlWrite _ _ => none
  | .trrpWrite _ _ => none
  | .drconsWrite _ => none
  | .ltolWrite _ _ => none
  | .registerWrite _ _ _ => none
  | .mgmtRead _ _ _ _ => none
  | .mgmtWrite _ _ _ _ => none
  | .mgmtBlockRead _ _ _ _ => none
  | .ptpMessage _ => none
  | .ptpMasterTimeout => none
  | .gridAccept _ => none
  | .workgroupPlace _ _ _ => none
  | .placementWaitExpiry _ _ => none
  | .workSteal _ _ _ _ => none
  | .gateOpen _ _ => none
  | .workgroupPark _ _ => none
  | .workgroupUnpark _ _ => none
  | .elderReport _ => none
  | .bufferedAtomicApply _ _ => none
  | .doneAdd _ _ => none
  | .gbarRelease _ _ => none
  | .waitcRelease _ _ => none
  | .awaitcRelease _ => none
  | .waitmRelease _ _ => none
  | .joincRelease _ _ => none
  | .sleepExpiry _ _ => none
  | .watchdogExpiry _ => none
  | .trapEntry _ => none
  | .asyncResultReturn _ _ _ => none
  | .pageFaultResult _ _ => none
  | .loadLinePerform _ _ _ => none
  | .storeLinePerform _ _ _ => none
  | .atomicLinePerform _ _ _ => none
  | .loadDataArrival _ _ => none
  | .spillwayPerform _ _ => none
  | .fenceComplete _ => none
  | .xfenceComplete _ => none
  | .scTicketGrant _ _ => none
  | .directoryGrant _ _ _ _ _ => none
  | .directoryRevoke _ _ _ => none
  | .ptsJump _ => none
  | .l1AgeingStep _ => none
  | .l2AgeingStep _ => none
  | .scrubberVisit _ => none
  | .pageMigration _ _ _ => none
  | .biasFlip _ _ _ => none
  | .hostAccess _ _ _ _ _ _ => none
  | .copyLine _ _ _ _ => none
  | .matrixGrant _ _ => none
  | .matrixPassComplete _ _ => none
  | .fabricPacketSend _ _ _ _ => none
  | .packetArrival _ _ _ => none
  | .arrivalAddition _ _ _ => none
  | .packetAck _ _ _ _ _ _ => none
  | .skipNotice _ => none
  | .deadPeerTimeout _ => none
  | .conversionMatch _ _ => none
  | .conversionComplete _ _ => none
  | .weirPacket _ _ => none
  | .switchWeirRecord _ _ _ _ _ _ _ _ => none
  | .saveHandlerComplete _ _ => none
  | .restoreHandlerComplete _ _ => none
  | .eccEvent _ _ _ _ _ => none
  | .patrolScrub _ => none
  | .dieLoss _ => none
  | .dieQuiesceAck _ _ => none
  | .dieQuiesceTimeout _ _ _ => none
  | .takeAgeExpiry _ _ => none
  | .reelPlace => none
  | .drainCopy => none
  | .cutPointReached _ _ => none
  | .podFreeze => none
  | .replayDivergence _ _ _ => none
  | .replayEndOfLog _ => none
  | .censusFlush _ _ => none
  | .powerStateEntry _ => none
  | .powerWake _ => none
  | .digestClaim _ _ _ _ _ _ => none
  | .shardMirror _ _ _ _ => none
  | .shardFetch _ _ _ _ => none
  | .digestRelease _ _ _ _ _ => none
  | .claimReplyTimeout => none
  | .fabricLinkFailure _ => none
  | .throttleStart => none
  | .throttleEnd => none

/-- Which instruction set a constructor belongs to. -/
def isetOf (i : Instr) : ISet :=
  match i with
  | .nop _ => .comp
  | .bra _ _ => .comp
  | .brc _ _ _ _ => .comp
  | .brd _ _ _ _ => .comp
  | .jmpi _ _ => .comp
  | .call _ _ => .comp
  | .ret _ => .comp
  | .modei _ _ => .comp
  | .moder _ _ => .comp
  | .bar _ _ => .comp
  | .syncs _ _ => .comp
  | .gbar _ => .comp
  | .waitc _ _ _ => .comp
  | .waitm _ _ _ => .comp
  | .sleep _ _ _ => .comp
  | .yield _ => .comp
  | .launch _ _ _ _ => .comp
  | .joinc _ _ => .comp
  | .exit _ => .comp
  | .trap _ _ => .comp
  | .tret _ => .comp
  | .gets _ _ _ => .comp
  | .puts _ _ _ => .comp
  | .clockCycle _ _ => .comp
  | .clockHubcyc _ _ => .comp
  | .clockPtpns _ _ => .comp
  | .gset _ _ _ _ _ => .comp
  | .bkpt _ _ => .comp
  | .add _ _ _ _ => .comp
  | .sub _ _ _ _ => .comp
  | .mul _ _ _ _ => .comp
  | .mulh _ _ _ _ => .comp
  | .min _ _ _ _ => .comp
  | .max _ _ _ _ => .comp
  | .and _ _ _ _ => .comp
  | .or _ _ _ _ => .comp
  | .xor _ _ _ _ => .comp
  | .andn _ _ _ _ => .comp
  | .shl _ _ _ _ => .comp
  | .shr _ _ _ _ => .comp
  | .rot _ _ _ _ => .comp
  | .addc _ _ _ _ => .comp
  | .subb _ _ _ _ => .comp
  | .absd _ _ _ _ => .comp
  | .neg _ _ _ => .comp
  | .abs _ _ _ => .comp
  | .not _ _ _ => .comp
  | .clz _ _ _ => .comp
  | .ctz _ _ _ => .comp
  | .popc _ _ _ => .comp
  | .brev _ _ _ => .comp
  | .mad _ _ _ _ _ => .comp
  | .bfe _ _ _ _ _ => .comp
  | .bfi _ _ _ _ _ => .comp
  | .addi _ _ _ _ => .comp
  | .shi _ _ _ _ _ => .comp
  | .lit _ _ _ _ => .comp
  | .cmp _ _ _ _ _ => .comp
  | .sel _ _ _ _ _ => .comp
  | .pand _ _ _ _ => .comp
  | .por _ _ _ _ => .comp
  | .pxor _ _ _ _ => .comp
  | .pnot _ _ _ => .comp
  | .pmov _ _ _ _ => .comp
  | .pset _ _ _ => .comp
  | .pget _ _ _ => .comp
  | .mov _ _ _ => .comp
  | .bcst _ _ _ _ => .comp
  | .vtos _ _ _ _ => .comp
  | .stov _ _ _ _ => .comp
  | .fadd _ _ _ _ => .comp
  | .fsub _ _ _ _ => .comp
  | .fmul _ _ _ _ => .comp
  | .fmin _ _ _ _ => .comp
  | .fmax _ _ _ _ => .comp
  | .fcpys _ _ _ _ => .comp
  | .fabs _ _ _ => .comp
  | .fneg _ _ _ => .comp
  | .frnd _ _ _ => .comp
  | .fclass _ _ _ => .comp
  | .fma _ _ _ _ _ => .comp
  | .fms _ _ _ _ _ => .comp
  | .fnma _ _ _ _ _ => .comp
  | .fnms _ _ _ _ _ => .comp
  | .frcp _ _ _ => .comp
  | .frsq _ _ _ => .comp
  | .fsqrt _ _ _ => .comp
  | .fexp2 _ _ _ => .comp
  | .flog2 _ _ _ => .comp
  | .fsin _ _ _ => .comp
  | .fcos _ _ _ => .comp
  | .ftanh _ _ _ => .comp
  | .fdiv _ _ _ _ => .comp
  | .cvt _ _ _ => .comp
  | .cvts _ _ _ _ => .comp
  | .pack _ _ _ _ => .comp
  | .unpk _ _ _ _ => .comp
  | .qnt _ _ _ _ _ _ => .comp
  | .dqnt _ _ _ _ _ _ => .comp
  | .sadd _ _ _ _ => .comp
  | .ssub _ _ _ _ => .comp
  | .smul _ _ _ _ => .comp
  | .smulh _ _ _ _ => .comp
  | .smin _ _ _ _ => .comp
  | .smax _ _ _ _ => .comp
  | .sand _ _ _ _ => .comp
  | .sor _ _ _ _ => .comp
  | .sxor _ _ _ _ => .comp
  | .sandn _ _ _ _ => .comp
  | .sshl _ _ _ _ => .comp
  | .sshr _ _ _ _ => .comp
  | .srot _ _ _ _ => .comp
  | .saddi _ _ _ _ => .comp
  | .slit _ _ _ _ => .comp
  | .xchx _ _ _ _ => .comp
  | .xchu _ _ _ _ => .comp
  | .xchd _ _ _ _ => .comp
  | .xchxk _ _ _ _ => .comp
  | .xchuk _ _ _ _ => .comp
  | .xchdk _ _ _ _ => .comp
  | .xchi _ _ _ _ => .comp
  | .xbc _ _ _ _ => .comp
  | .voteAny _ _ _ _ => .comp
  | .voteAll _ _ _ _ => .comp
  | .voteEq _ _ _ _ => .comp
  | .voteBallot _ _ _ _ => .comp
  | .voteElect _ _ => .comp
  | .voteMatch _ _ _ => .comp
  | .redu _ _ _ _ _ => .comp
  | .scan _ _ _ _ _ => .comp
  | .cpt _ _ _ _ => .comp
  | .tbind _ _ _ => .comp
  | .tzero _ _ _ => .comp
  | .tzeroAll _ _ => .comp
  | .mma _ _ _ _ _ _ => .comp
  | .mmak _ _ _ _ _ _ => .comp
  | .mmat _ _ _ _ _ _ => .comp
  | .mmas _ _ _ _ _ _ => .comp
  | .trdRow _ _ _ _ _ => .comp
  | .trdCol _ _ _ _ _ => .comp
  | .twrRow _ _ _ _ _ => .comp
  | .twrCol _ _ _ _ _ => .comp
  | .tmove _ _ _ _ => .comp
  | .tmoveAdd _ _ _ _ => .comp
  | .tfree _ _ => .comp
  | .twait _ _ => .comp
  | .twaitAll _ => .comp
  | .anop _ => .acc
  | .abr _ _ => .acc
  | .abeq _ _ _ _ => .acc
  | .abne _ _ _ _ => .acc
  | .ablt _ _ _ _ => .acc
  | .abge _ _ _ _ => .acc
  | .abltn _ _ _ _ => .acc
  | .abgen _ _ _ _ => .acc
  | .aloop _ _ _ => .acc
  | .ajmpi _ _ => .acc
  | .aend _ => .acc
  | .aadd _ _ _ _ => .acc
  | .asub _ _ _ _ => .acc
  | .amul _ _ _ _ => .acc
  | .amulh _ _ _ _ => .acc
  | .aand _ _ _ _ => .acc
  | .aor _ _ _ _ => .acc
  | .axor _ _ _ _ => .acc
  | .ashl _ _ _ _ => .acc
  | .ashr _ _ _ _ => .acc
  | .asra _ _ _ _ => .acc
  | .amin _ _ _ _ => .acc
  | .amax _ _ _ _ => .acc
  | .aminn _ _ _ _ => .acc
  | .amaxn _ _ _ _ => .acc
  | .aaddi _ _ _ _ => .acc
  | .ali _ _ _ => .acc
  | .alim _ _ _ => .acc
  | .alit _ _ _ => .acc
  | .aliq _ _ _ => .acc
  | .apop _ _ _ => .acc
  | .apopK _ _ _ => .acc
  | .apush _ _ _ => .acc
  | .rtick _ => .acc
  | .setd _ _ _ _ => .acc
  | .agets _ _ _ => .acc
  | .vdefGlob _ _ _ => .acc
  | .vdefCore _ _ _ => .acc
  | .vset _ _ _ _ => .acc
  | .vget _ _ _ _ => .acc
  | .ldt _ _ _ _ _ _ _ _ => .acc
  | .ldg _ _ _ _ _ _ _ _ => .acc
  | .lda _ _ _ _ _ _ _ _ => .acc
  | .ldp _ _ _ _ _ _ _ _ => .acc
  | .stt _ _ _ _ _ _ _ => .acc
  | .stg _ _ _ _ _ _ _ => .acc
  | .sta _ _ _ _ _ _ _ => .acc
  | .pref _ _ _ _ _ _ _ => .acc
  | .atom _ _ _ _ _ _ _ => .acc
  | .atoma _ _ _ _ _ _ _ => .acc
  | .fence _ _ _ => .acc
  | .xfence _ _ _ _ => .acc
  | .cpy _ _ _ _ _ => .acc
  | .hand _ _ _ _ _ => .acc
  | .xfer _ _ _ _ _ _ _ => .acc
  | .xmc _ _ _ _ _ _ _ => .acc
  | .ctrset _ _ _ => .acc
  | .ctrsetT _ _ _ => .acc
  | .ctradd _ _ _ => .acc
  | .ctrget _ _ _ => .acc
  | .ctrgetT _ _ _ => .acc
  | .awaitc _ _ _ => .acc
  | .awaitcT _ _ => .acc
  | .wadd _ _ _ _ _ => .weir
  | .waddI _ _ _ _ => .weir
  | .wsub _ _ _ _ _ => .weir
  | .wsubI _ _ _ _ => .weir
  | .wmul _ _ _ _ _ => .weir
  | .wmulI _ _ _ _ => .weir
  | .wand _ _ _ _ _ => .weir
  | .wandI _ _ _ _ => .weir
  | .wor _ _ _ _ _ => .weir
  | .worI _ _ _ _ => .weir
  | .wxor _ _ _ _ _ => .weir
  | .wxorI _ _ _ _ => .weir
  | .wshl _ _ _ _ _ => .weir
  | .wshlI _ _ _ _ => .weir
  | .wshr _ _ _ _ _ => .weir
  | .wshrI _ _ _ _ => .weir
  | .wmin _ _ _ _ _ => .weir
  | .wminI _ _ _ _ => .weir
  | .wmax _ _ _ _ _ => .weir
  | .wmaxI _ _ _ _ => .weir
  | .wcmp _ _ _ _ _ _ => .weir
  | .wsel _ _ _ _ _ => .weir
  | .wmovW _ _ => .weir
  | .wmovX _ _ => .weir
  | .wmovWx _ _ => .weir
  | .wmovXl _ _ _ => .weir
  | .wmovWl _ _ _ => .weir
  | .wli _ _ _ => .weir
  | .wliH _ _ _ => .weir
  | .whdr _ _ => .weir
  | .whdrW _ => .weir
  | .wseth _ _ => .weir
  | .wldp _ _ => .weir
  | .wldpX _ _ _ => .weir
  | .wstp _ _ => .weir
  | .wstpX _ _ _ => .weir
  | .wldf _ _ _ => .weir
  | .wstf _ _ _ => .weir
  | .watf _ _ _ _ _ => .weir
  | .whash _ _ _ => .weir
  | .whashLk _ _ => .weir
  | .wrep _ _ => .weir
  | .wbr _ => .weir
  | .wbrCc _ _ _ => .weir
  | .wdup _ => .weir
  | .wtrap _ _ => .weir
  | .wfwd => .weir
  | .wdrop => .weir
  | .wend => .weir
  | .moduleReset => .event
  | .create => .event
  | .destroy => .event
  | .preempt => .event
  | .resume => .event
  | .oscount => .event
  | .ctlcas _ _ => .event
  | .ctlsemLeaseExpiry => .event
  | .reset => .event
  | .modeset => .event
  | .fwupdate => .event
  | .slate _ _ _ => .event
  | .freeze => .event
  | .thaw => .event
  | .attest => .event
  | .domset => .event
  | .domclr => .event
  | .peerset => .event
  | .peerclr => .event
  | .peertmo => .event
  | .devno => .event
  | .unitret => .event
  | .unitrst _ => .event
  | .dierst _ => .event
  | .load => .event
  | .unload => .event
  | .flowrd => .event
  | .flowwr => .event
  | .checkpoint _ _ _ => .event
  | .restore _ _ => .event
  | .arm => .event
  | .go => .event
  | .stop => .event
  | .replayThaw => .event
  | .reelctlWrite _ _ _ => .event
  | .rsvctlWrite _ _ _ => .event
  | .cutWrite _ _ _ _ => .event
  | .errclsWrite _ _ _ => .event
  | .watchFilterWrite _ _ _ => .event
  | .trctlWrite _ _ => .event
  | .trrpWrite _ _ => .event
  | .drconsWrite _ => .event
  | .ltolWrite _ _ => .event
  | .registerWrite _ _ _ => .event
  | .mgmtRead _ _ _ _ => .event
  | .mgmtWrite _ _ _ _ => .event
  | .mgmtBlockRead _ _ _ _ => .event
  | .ptpMessage _ => .event
  | .ptpMasterTimeout => .event
  | .gridAccept _ => .event
  | .workgroupPlace _ _ _ => .event
  | .placementWaitExpiry _ _ => .event
  | .workSteal _ _ _ _ => .event
  | .gateOpen _ _ => .event
  | .workgroupPark _ _ => .event
  | .workgroupUnpark _ _ => .event
  | .elderReport _ => .event
  | .bufferedAtomicApply _ _ => .event
  | .doneAdd _ _ => .event
  | .gbarRelease _ _ => .event
  | .waitcRelease _ _ => .event
  | .awaitcRelease _ => .event
  | .waitmRelease _ _ => .event
  | .joincRelease _ _ => .event
  | .sleepExpiry _ _ => .event
  | .watchdogExpiry _ => .event
  | .trapEntry _ => .event
  | .asyncResultReturn _ _ _ => .event
  | .pageFaultResult _ _ => .event
  | .loadLinePerform _ _ _ => .event
  | .storeLinePerform _ _ _ => .event
  | .atomicLinePerform _ _ _ => .event
  | .loadDataArrival _ _ => .event
  | .spillwayPerform _ _ => .event
  | .fenceComplete _ => .event
  | .xfenceComplete _ => .event
  | .scTicketGrant _ _ => .event
  | .directoryGrant _ _ _ _ _ => .event
  | .directoryRevoke _ _ _ => .event
  | .ptsJump _ => .event
  | .l1AgeingStep _ => .event
  | .l2AgeingStep _ => .event
  | .scrubberVisit _ => .event
  | .pageMigration _ _ _ => .event
  | .biasFlip _ _ _ => .event
  | .hostAccess _ _ _ _ _ _ => .event
  | .copyLine _ _ _ _ => .event
  | .matrixGrant _ _ => .event
  | .matrixPassComplete _ _ => .event
  | .fabricPacketSend _ _ _ _ => .event
  | .packetArrival _ _ _ => .event
  | .arrivalAddition _ _ _ => .event
  | .packetAck _ _ _ _ _ _ => .event
  | .skipNotice _ => .event
  | .deadPeerTimeout _ => .event
  | .conversionMatch _ _ => .event
  | .conversionComplete _ _ => .event
  | .weirPacket _ _ => .event
  | .switchWeirRecord _ _ _ _ _ _ _ _ => .event
  | .saveHandlerComplete _ _ => .event
  | .restoreHandlerComplete _ _ => .event
  | .eccEvent _ _ _ _ _ => .event
  | .patrolScrub _ => .event
  | .dieLoss _ => .event
  | .dieQuiesceAck _ _ => .event
  | .dieQuiesceTimeout _ _ _ => .event
  | .takeAgeExpiry _ _ => .event
  | .reelPlace => .event
  | .drainCopy => .event
  | .cutPointReached _ _ => .event
  | .podFreeze => .event
  | .replayDivergence _ _ _ => .event
  | .replayEndOfLog _ => .event
  | .censusFlush _ _ => .event
  | .powerStateEntry _ => .event
  | .powerWake _ => .event
  | .digestClaim _ _ _ _ _ _ => .event
  | .shardMirror _ _ _ _ => .event
  | .shardFetch _ _ _ _ => .event
  | .digestRelease _ _ _ _ _ => .event
  | .claimReplyTimeout => .event
  | .fabricLinkFailure _ => .event
  | .throttleStart => .event
  | .throttleEnd => .event

/-- The decoder of one instruction set. -/
noncomputable def decodeIn (k : ISet) (w : BitVec 32) : Option Instr :=
  match k with
  | .comp => decodeComp w
  | .acc => decodeAcc w
  | .weir => decodeWeir w
  | .event => none

/-- Four bytes of memory, lowest address first, as a word (R6, R28). -/
def wordOfBytes (b0 b1 b2 b3 : BitVec 8) : BitVec 32 := b3 ++ b2 ++ b1 ++ b0

/-- The bytes of a word, lowest address first (R6, R28). -/
def bytesOfWord (w : BitVec 32) : List (BitVec 8) :=
  [w.extractLsb' 0 8, w.extractLsb' 8 8, w.extractLsb' 16 8, w.extractLsb' 24 8]

/-- Decoding, total on any bytes: the instruction at the head of a byte string in one instruction set, with the
bytes after it. Fewer than four bytes, and a word no row of the set's map takes, are refused. -/
noncomputable def decodeBytes (k : ISet) (bs : List (BitVec 8)) : Option (Instr × List (BitVec 8)) :=
  match bs with
  | b0 :: b1 :: b2 :: b3 :: rest => (decodeIn k (wordOfBytes b0 b1 b2 b3)).map fun i => (i, rest)
  | _ => none

/-- The bytes of an instruction: none for a machine operation. -/
def encodeBytes (i : Instr) : List (BitVec 8) :=
  match encode i with
  | some w => bytesOfWord w
  | none => []

/-- The instruction set a bare word is read in when nothing says which stream holds it: the compute stream's map,
then the access stream's, then the Weir's. DESIGN CHOICE (log entry 14). -/
noncomputable def isetOfWord (w : BitVec 32) : ISet :=
  if (decodeComp w).isSome then .comp else if (decodeAcc w).isSome then .acc else .weir

/-- The instruction the decoder reads from an instruction of the opcode table whose bits are `w`. -/
noncomputable def decodeTableWord (nbits w : Nat) : Option Instr :=
  if nbits = 32 then
    (decodeBytes (isetOfWord (BitVec.ofNat 32 w)) (bytesOfWord (BitVec.ofNat 32 w))).map Prod.fst
  else none

end Sys2Proof
end

