-- ==== Sys2Proof/Config.lean ====
section
/-! DEFINITION. What one SZ9 module fixes and the manual leaves open: the free values, which have no body, so that nothing can
evaluate them and no statement can rest on a value of theirs. Each is named in the assumption log. -/

namespace Sys2Proof.Config

/-- The k-th value the manual leaves open (R1, R3): a fresh one for each k, read through the counter State.free (log entry 3). -/
opaque freeNat : Nat → Nat

/-- The hash of the memory translation table, of a CTXID and a virtual page (R334), taken modulo 2^23 (log entry 89). -/
opaque mttHash : Nat → Nat → Nat

/-- Whether the k-th issue, or the k-th passing of time, counts in the census under the setting that a CENSUSCTL write has replaced, while a core may still hold it (R447, log
entry 42). -/
opaque censusOld : Nat → Bool

/-- The modulus of the identity key pair the security block generated at manufacture (R359). -/
opaque identityModulus : Nat

/-- The private exponent of the identity key pair, which never leaves the block (R359). -/
opaque identityExponent : Nat

/-- The bytes of the certificate of the identity public key that the block's non-volatile store holds (R359). -/
opaque deviceCertificate : Nat

/-- The modulus in the certificate the host supplies for another device, by its device number (R464). -/
opaque certifiedModulus : Nat → Nat

/-- The fused SHA-512 digest of Kwarrikan's firmware key (R360). -/
opaque firmwareKeyDigest : Nat

/-- The stages that a firmware image holds, where the manual gives no layout: of each the bytes under its signature, the signature, the modulus of the key it is to be
verified with, and its security version (R360, log entry 16). -/
opaque imageStages : Nat → List (List Nat × Nat × Nat × Nat)

/-- The signed firmware settings that an image carries, none where it carries none: the capture enable, the device's own address, the permitted management sources,
and the PTP domain number (R368, R443, R449, log entry 100). -/
opaque imageSettings : Nat → Option (Bool × Nat × List Nat × Nat)

/-- How many spare rows the module's HBM4E has, which the manual does not say (R415, log entry 58). -/
opaque spareHbmRows : Nat

end Sys2Proof.Config
end

