-- ==== Sys2Proof/Machine/Numbers.lean ====
section
/-! DEFINITION. Number formats and rounding (R243 to R254), the exact arithmetic behind them, and the correctly rounded
functions of the SFU (R281). Values are exact: a finite number is m × 2^e, and a number that is not one is a lower neighbour
m × 2^e with a mark that the value lies strictly between it and (m + 1) × 2^e. -/

namespace Sys2Proof.Machine

/-- STAT flags (R43). -/
abbrev Flags := BitVec 8

/-- STAT.IV, invalid operation. -/
def fIV : Flags := 1#8
/-- STAT.DZ, division by zero. -/
def fDZ : Flags := 2#8
/-- STAT.OF, overflow. -/
def fOF : Flags := 4#8
/-- STAT.UF, underflow. -/
def fUF : Flags := 8#8
/-- STAT.NX, inexact. -/
def fNX : Flags := 16#8
/-- STAT.SQ, an integer result saturated. -/
def fSQ : Flags := 32#8
/-- STAT.TN, a T2 code 0b10 was read. -/
def fTN : Flags := 64#8
/-- STAT.OOB, an element of a view access was out of bounds. -/
def fOOB : Flags := 128#8

/-- A result's bits and the flags it raises. -/
structure NumRes where
  bits : Nat
  flags : Flags
  deriving DecidableEq, Repr

/-- The types MODE.ET and MODE.ET2 name (R40). -/
inductive ETy where
  | i8 | n8 | i16 | n16 | i32 | n32 | i64 | n64 | f16 | bf16 | f32 | f64 | f8n | f8w | i4 | t2
  deriving DecidableEq, Repr

/-- The type a 4-bit code names (R40). -/
def etyOf (c : Nat) : ETy :=
  match c with
  | 0 => .i8 | 1 => .n8 | 2 => .i16 | 3 => .n16 | 4 => .i32 | 5 => .n32 | 6 => .i64 | 7 => .n64
  | 8 => .f16 | 9 => .bf16 | 10 => .f32 | 11 => .f64 | 12 => .f8n | 13 => .f8w | 14 => .i4 | _ => .t2

/-- Width in bits (R266). -/
def ETy.width (t : ETy) : Nat :=
  match t with
  | .t2 => 2 | .i4 => 4 | .i8 => 8 | .n8 => 8 | .f8n => 8 | .f8w => 8
  | .i16 => 16 | .n16 => 16 | .f16 => 16 | .bf16 => 16
  | .i32 => 32 | .n32 => 32 | .f32 => 32
  | .i64 => 64 | .n64 => 64 | .f64 => 64

/-- Sub-elements per 64-bit register (R243). -/
def ETy.k (t : ETy) : Nat := 64 / t.width

/-- A floating-point type. -/
def ETy.isFloat (t : ETy) : Bool :=
  match t with
  | .f16 | .bf16 | .f32 | .f64 | .f8n | .f8w => true
  | _ => false

/-- F16, BF16, F32 or F64: the float types the float majors accept (R266: codes 8 to 11). -/
def ETy.isFp (t : ETy) : Bool :=
  match t with
  | .f16 | .bf16 | .f32 | .f64 => true
  | _ => false

/-- Codes 0 to 7 (R266). -/
def ETy.isWordInt (t : ETy) : Bool :=
  match t with
  | .i8 | .n8 | .i16 | .n16 | .i32 | .n32 | .i64 | .n64 => true
  | _ => false

/-- An unsigned integer type. -/
def ETy.isN (t : ETy) : Bool :=
  match t with
  | .n8 | .n16 | .n32 | .n64 => true
  | _ => false

/-- The integer a w-bit pattern stands for in two's complement. -/
def sgn (w : Nat) (x : Nat) : Int :=
  if 2 ^ w ≤ 2 * (x % 2 ^ w) then (x % 2 ^ w : Nat) - (2 : Int) ^ w else (x % 2 ^ w : Nat)

/-- The low w bits of an integer (R8). -/
def low (w : Nat) (x : Int) : Nat := (x % (2 : Int) ^ w).toNat

/-- An integer sub-element read in its type, with TN for a T2 code 0b10 (R243, R245). -/
def readInt (t : ETy) (x : Nat) : Int × Flags :=
  match t with
  | .t2 => (if x % 4 = 1 then 1 else if x % 4 = 3 then -1 else 0, if x % 4 = 2 then fTN else 0#8)
  | _ => (if t.isN then ((x % 2 ^ t.width : Nat) : Int) else sgn t.width x, 0#8)

/-- The least value of an integer type. -/
def ETy.lo (t : ETy) : Int :=
  match t with
  | .t2 => -1
  | _ => if t.isN then 0 else -((2 : Int) ^ (t.width - 1))

/-- The greatest value of an integer type. -/
def ETy.hi (t : ETy) : Int :=
  match t with
  | .t2 => 1
  | _ => if t.isN then (2 : Int) ^ t.width - 1 else (2 : Int) ^ (t.width - 1) - 1

/-- saturate(x, ty) of R8. -/
def clampI (t : ETy) (x : Int) : Int := max t.lo (min t.hi x)

/-- An exact integer stored in an integer type: wrapped, or saturated with SQ (R244); T2 always clamps (R245). -/
def storeInt (t : ETy) (sat : Bool) (r : Int) : NumRes :=
  let c := clampI t r
  match t with
  | .t2 => ⟨low 2 c, if c = r then 0#8 else fSQ⟩
  | _ => if sat then ⟨low t.width c, if c = r then 0#8 else fSQ⟩ else ⟨low t.width r, 0#8⟩

/-- A rounding mode (R250). -/
inductive Rm where
  | rne | rtz | rdn | rup | rna
  deriving DecidableEq, Repr

/-- The mode a MODE.RM code names; codes 5 to 7 cannot stand in MODE (R41). -/
def rmOf (c : Nat) : Rm :=
  match c with
  | 0 => .rne | 1 => .rtz | 2 => .rdn | 3 => .rup | _ => .rna

/-- A floating-point format (R246): fraction bits, bias, the code of the largest finite magnitude. -/
structure Fmt where
  ty : ETy
  w : Nat
  f : Nat
  bias : Int
  maxEnc : Nat
  nan : Nat
  deriving DecidableEq, Repr

/-- The format of a floating-point type (R246, R247); F32 where the type is not one. -/
def fmtOf (t : ETy) : Fmt :=
  match t with
  | .f64 => ⟨.f64, 64, 52, 1023, 0x7FEFFFFFFFFFFFFF, 0x7FF8000000000000⟩
  | .f16 => ⟨.f16, 16, 10, 15, 0x7BFF, 0x7E00⟩
  | .bf16 => ⟨.bf16, 16, 7, 127, 0x7F7F, 0x7FC0⟩
  | .f8n => ⟨.f8n, 8, 3, 7, 0x7F, 0x80⟩
  | .f8w => ⟨.f8w, 8, 2, 15, 0x7B, 0x7E⟩
  | _ => ⟨.f32, 32, 23, 127, 0x7F7FFFFF, 0x7FC00000⟩

/-- The sign bit of a magnitude. -/
def signed (fm : Fmt) (neg : Bool) (mag : Nat) : Nat := if neg then 2 ^ (fm.w - 1) + mag else mag

/-- A zero of a sign; F8N has only +0 (R248). -/
def zeroOf (fm : Fmt) (neg : Bool) : Nat := if fm.ty = .f8n then 0 else signed fm neg 0

/-- An infinity of a sign, for the formats that have one (R247); ±480 in F8N (R253). -/
def infOf (fm : Fmt) (neg : Bool) : Nat :=
  if fm.ty = .f8n then signed fm neg 0x7F else signed fm neg (fm.maxEnc + 1)

/-- An operand's value (R246 to R248). -/
inductive FVal where
  | nan (sig : Bool)
  | inf (neg : Bool)
  | fin (neg : Bool) (mag : Nat) (exp : Int)
  deriving DecidableEq, Repr

/-- Reading a sub-element in a floating-point type; a BF16 subnormal reads as the zero of its sign (R248). -/
def readF (fm : Fmt) (x : Nat) : FVal :=
  let x := x % 2 ^ fm.w
  let neg := decide (2 ^ (fm.w - 1) ≤ x)
  let m := x % 2 ^ (fm.w - 1)
  let e := m / 2 ^ fm.f
  let fr := m % 2 ^ fm.f
  if fm.ty = .f8n ∧ x = 0x80 then .nan false
  else if fm.ty ≠ .f8n ∧ fm.maxEnc < m then
    if fr = 0 then .inf neg else .nan (decide (2 * fr < 2 ^ fm.f))
  else if e = 0 then
    if fm.ty = .bf16 then .fin neg 0 0 else .fin neg fr (1 - fm.bias - fm.f)
  else .fin neg (2 ^ fm.f + fr) ((e : Int) - fm.bias - fm.f)

/-- overflow_result of R253. -/
def overflowOf (fm : Fmt) (rm : Rm) (neg : Bool) : Nat :=
  if fm.ty = .f8n then signed fm neg 0x7F
  else match rm with
    | .rne => infOf fm neg
    | .rna => infOf fm neg
    | .rtz => signed fm neg fm.maxEnc
    | .rdn => if neg then infOf fm true else signed fm false fm.maxEnc
    | .rup => if neg then signed fm true fm.maxEnc else infOf fm false

/-- 2^e scaled up: m × 2^e for e ≥ 0, m div 2^(−e) below. -/
def shiftI (m : Nat) (e : Int) : Nat := if 0 ≤ e then m * 2 ^ e.toNat else m / 2 ^ (-e).toNat

/-- Whether a magnitude between two grid points goes to the upper one: `odd` tells the lower point's last bit, `c` compares the
part above it with half a grid step, `ex` says the value lies on the lower point. -/
def goesUp (rm : Rm) (neg odd ex : Bool) (c : Ordering) : Bool :=
  if ex then false else
  match rm with
  | .rne => match c with
    | .lt => false
    | .gt => true
    | .eq => odd
  | .rna => match c with
    | .lt => false
    | _ => true
  | .rtz => false
  | .rdn => neg
  | .rup => !neg

/-- round(x, fmt, rm) of R251 for a non-zero x with |x| = mag × 2^exp, or, when `sticky`, strictly between mag × 2^exp and
(mag + 1) × 2^exp with mag at least two bits longer than the format's precision. -/
def roundMag (fm : Fmt) (rm : Rm) (neg : Bool) (mag : Nat) (exp : Int) (sticky : Bool) : NumRes :=
  let emin : Int := 1 - fm.bias
  let e : Int := max ((Nat.log2 mag : Int) + exp) emin
  let q : Int := e - fm.f
  let sh : Int := q - exp
  let units := shiftI mag (-sh)
  let rem := if 0 < sh then mag % 2 ^ sh.toNat else 0
  let half := if 0 < sh then 2 ^ (sh.toNat - 1) else 1
  let ex := decide (rem = 0) && !sticky
  let c : Ordering := if rem < half then .lt else if rem = half ∧ !sticky then .eq else .gt
  let up := goesUp rm neg (decide (units % 2 = 1)) ex c
  let enc := ((e + fm.bias - 1).toNat) * 2 ^ fm.f + (if up then units + 1 else units)
  if fm.maxEnc < enc then ⟨overflowOf fm rm neg, fOF ||| fNX⟩
  else
    let nx := if ex then 0#8 else fNX
    let uf := if !ex && decide (enc < 2 ^ fm.f) then fUF else 0#8
    if fm.ty = .bf16 ∧ enc ≠ 0 ∧ enc < 2 ^ fm.f then ⟨signed fm neg 0, fUF ||| fNX⟩
    else if enc = 0 then ⟨zeroOf fm neg, nx ||| uf⟩
    else ⟨signed fm neg enc, nx ||| uf⟩

/-- The rounded value of the exact number m × 2^e, or a zero of the sign given where it is 0. -/
def roundZ (fm : Fmt) (rm : Rm) (m : Int) (e : Int) (zneg : Bool) : NumRes :=
  if m = 0 then ⟨zeroOf fm zneg, 0#8⟩ else roundMag fm rm (decide (m < 0)) m.natAbs e false

/-- The canonical NaN of a format, with IV where the flag is asked for (R247). -/
def nanRes (fm : Fmt) (iv : Bool) : NumRes := ⟨fm.nan, if iv then fIV else 0#8⟩

/-- A signalling NaN. -/
def FVal.sig (v : FVal) : Bool :=
  match v with
  | .nan s => s
  | _ => false

/-- A NaN. -/
def FVal.isNan (v : FVal) : Bool :=
  match v with
  | .nan _ => true
  | _ => false

/-- An infinity. -/
def FVal.isInf (v : FVal) : Bool :=
  match v with
  | .inf _ => true
  | _ => false

/-- A zero. -/
def FVal.isZero (v : FVal) : Bool :=
  match v with
  | .fin _ m _ => decide (m = 0)
  | _ => false

/-- The sign of a number that is not a NaN. -/
def FVal.neg (v : FVal) : Bool :=
  match v with
  | .nan _ => false
  | .inf n => n
  | .fin n _ _ => n

/-- The signed mantissa of a finite value. -/
def FVal.man (v : FVal) : Int :=
  match v with
  | .fin n m _ => if n then -(m : Int) else m
  | _ => 0

/-- The exponent of a finite value. -/
def FVal.ex (v : FVal) : Int :=
  match v with
  | .fin _ _ e => e
  | _ => 0

/-- The value with its sign turned. -/
def FVal.flip (v : FVal) : FVal :=
  match v with
  | .nan s => .nan s
  | .inf n => .inf (!n)
  | .fin n m e => .fin (!n) m e

/-- An exact dyadic number m × 2^e. -/
structure Dy where
  m : Int
  e : Int
  deriving DecidableEq, Repr

/-- Exact sum. -/
def Dy.add (a b : Dy) : Dy :=
  let e := min a.e b.e
  ⟨a.m * 2 ^ (a.e - e).toNat + b.m * 2 ^ (b.e - e).toNat, e⟩

/-- Exact product. -/
def Dy.mul (a b : Dy) : Dy := ⟨a.m * b.m, a.e + b.e⟩

/-- The exact value of a finite operand. -/
def FVal.dy (v : FVal) : Dy := ⟨v.man, v.ex⟩

/-- The sign of an exact zero sum of two operands (R252). -/
def zeroSumNeg (rm : Rm) (n1 n2 : Bool) : Bool := if n1 = n2 then n1 else decide (rm = .rdn)

/-- round(a + b) for operands that may be special (R247, R252, R278). -/
def addF (fm : Fmt) (rm : Rm) (a b : FVal) : NumRes :=
  if a.isNan || b.isNan then nanRes fm (a.sig || b.sig)
  else if a.isInf && b.isInf then
    if a.neg = b.neg then ⟨infOf fm a.neg, 0#8⟩ else nanRes fm true
  else if a.isInf then ⟨infOf fm a.neg, 0#8⟩
  else if b.isInf then ⟨infOf fm b.neg, 0#8⟩
  else
    let r := a.dy.add b.dy
    roundZ fm rm r.m r.e (zeroSumNeg rm a.neg b.neg)

/-- round(a × b) (R278). -/
def mulF (fm : Fmt) (rm : Rm) (a b : FVal) : NumRes :=
  if a.isNan || b.isNan then nanRes fm (a.sig || b.sig)
  else if a.isInf || b.isInf then
    if a.isZero || b.isZero then nanRes fm true else ⟨infOf fm (a.neg != b.neg), 0#8⟩
  else
    let r := a.dy.mul b.dy
    roundZ fm rm r.m r.e (a.neg != b.neg)

/-- round(a × b + c), rounded once (R256, R280). A product 0 × ∞ sets IV and gives the NaN even beside a quiet NaN addend. -/
def fmaF (fm : Fmt) (rm : Rm) (a b c : FVal) : NumRes :=
  let bad := (a.isInf && b.isZero) || (a.isZero && b.isInf)
  if a.isNan || b.isNan || c.isNan || bad then nanRes fm (a.sig || b.sig || c.sig || bad)
  else
    let pn := a.neg != b.neg
    if a.isInf || b.isInf then
      if c.isInf && c.neg != pn then nanRes fm true else ⟨infOf fm pn, 0#8⟩
    else if c.isInf then ⟨infOf fm c.neg, 0#8⟩
    else
      let r := (a.dy.mul b.dy).add c.dy
      roundZ fm rm r.m r.e (zeroSumNeg rm pn c.neg)

/-- a < b for values that are not NaNs; −0 = +0. -/
def ltF (a b : FVal) : Bool :=
  match a, b with
  | .inf na, .inf nb => na && !nb
  | .inf na, _ => na
  | _, .inf nb => !nb
  | _, _ =>
    let d := a.dy.add ⟨-b.man, b.ex⟩
    decide (d.m < 0)

/-- a = b for values that are not NaNs; −0 = +0. -/
def eqF (a b : FVal) : Bool :=
  match a, b with
  | .inf na, .inf nb => na == nb
  | .inf _, _ => false
  | _, .inf _ => false
  | _, _ =>
    let d := a.dy.add ⟨-b.man, b.ex⟩
    decide (d.m = 0)

/-- The encoding of a value already in the format. -/
def encF (fm : Fmt) (v : FVal) : Nat :=
  match v with
  | .nan _ => fm.nan
  | .inf n => infOf fm n
  | .fin n m e => if m = 0 then zeroOf fm n else (roundMag fm .rtz n m e false).bits

/-- minimumNumber or maximumNumber (R247); −0 lies below +0 (R278). -/
def minmaxF (fm : Fmt) (isMax : Bool) (a b : FVal) : NumRes :=
  let fl := if a.sig || b.sig then fIV else 0#8
  if a.isNan && b.isNan then ⟨fm.nan, fl⟩
  else if a.isNan then ⟨encF fm b, fl⟩
  else if b.isNan then ⟨encF fm a, fl⟩
  else
    let aLess := ltF a b || (eqF a b && a.neg && !b.neg)
    ⟨encF fm (if aLess != isMax then a else b), fl⟩

/-- Integer square root: the largest r with r² ≤ n, found bit by bit from bit `i` down. -/
def isqrtFrom (n r : Nat) (i : Nat) : Nat :=
  match i with
  | 0 => if (r + 1) * (r + 1) ≤ n then r + 1 else r
  | k + 1 =>
    let r' := r + 2 ^ (k + 1)
    isqrtFrom n (if r' * r' ≤ n then r' else r) k

/-- Integer square root. -/
def isqrt (n : Nat) : Nat := isqrtFrom n 0 (Nat.log2 n / 2 + 1)

/-- round(a / b) (R281, R255). -/
def divF (fm : Fmt) (rm : Rm) (a b : FVal) : NumRes :=
  let neg := a.neg != b.neg
  if a.isNan || b.isNan then nanRes fm (a.sig || b.sig)
  else if (a.isInf && b.isInf) || (a.isZero && b.isZero) then nanRes fm true
  else if a.isInf then ⟨infOf fm neg, 0#8⟩
  else if b.isInf then ⟨zeroOf fm neg, 0#8⟩
  else if b.isZero then ⟨infOf fm neg, fDZ⟩
  else if a.isZero then ⟨zeroOf fm neg, 0#8⟩
  else
    let ma := a.man.natAbs
    let mb := b.man.natAbs
    let k := fm.f + 4 + Nat.log2 mb
    roundMag fm rm neg (ma * 2 ^ k / mb) (a.ex - b.ex - k) (decide (ma * 2 ^ k % mb ≠ 0))

/-- round(√a) (R281). -/
def sqrtF (fm : Fmt) (rm : Rm) (a : FVal) : NumRes :=
  if a.isNan then nanRes fm a.sig
  else if a.isZero then ⟨zeroOf fm a.neg, 0#8⟩
  else if a.neg then nanRes fm true
  else if a.isInf then ⟨infOf fm false, 0#8⟩
  else
    let k0 := 2 * fm.f + 10
    let k := if (a.ex - k0) % 2 = 0 then k0 else k0 + 1
    let n := a.man.natAbs * 2 ^ k
    let r := isqrt n
    roundMag fm rm false r ((a.ex - k) / 2) (decide (r * r ≠ n))

/-- round(1/√a) (R281). -/
def rsqF (fm : Fmt) (rm : Rm) (a : FVal) : NumRes :=
  if a.isNan then nanRes fm a.sig
  else if a.isZero then ⟨infOf fm a.neg, fDZ⟩
  else if a.neg then nanRes fm true
  else if a.isInf then ⟨zeroOf fm false, 0#8⟩
  else
    let m := a.man.natAbs
    let k0 := 2 * fm.f + 12 + Nat.log2 m
    let k := if (a.ex + k0) % 2 = 0 then k0 else k0 + 1
    let r := isqrt (2 ^ k / m)
    roundMag fm rm false r ((-a.ex - k) / 2) (decide (r * r * m ≠ 2 ^ k))

/-! Fixed point for the transcendental functions: an integer x stands for x / 2^p. -/

/-- Product of two fixed-point numbers. -/
def fxMul (p : Nat) (a b : Int) : Int := a * b / 2 ^ p

/-- Quotient of two fixed-point numbers. -/
def fxDiv (p : Nat) (a b : Int) : Int := a * 2 ^ p / b

/-- Terms of a power series: term n+1 is term n × y / (coefficient of n), summed. -/
def fxSeries (p : Nat) (y : Int) (coef : Nat → Int) (n : Nat) (i : Nat) (t acc : Int) : Int :=
  match n with
  | 0 => acc + t
  | k + 1 => fxSeries p y coef k (i + 1) (fxMul p t y / coef i) (acc + t)

/-- e^y for |y| ≤ 1. -/
def fxExp (p : Nat) (y : Int) : Int := fxSeries p y (fun i => ((i + 1 : Nat) : Int)) (p / 3 + 12) 0 (2 ^ p) 0

/-- Sum of z^(2i+1) / (2i+1), signs alternating when `alt`. -/
def fxOdd (p : Nat) (z2 : Int) (alt : Bool) (n : Nat) (i : Nat) (zp acc : Int) : Int :=
  match n with
  | 0 => acc
  | k + 1 =>
    let t := zp / ((2 * i + 1 : Nat) : Int)
    fxOdd p z2 alt k (i + 1) (fxMul p zp z2) (if alt && decide (i % 2 = 1) then acc - t else acc + t)

/-- arctan(1/n). -/
def fxAtanInv (p n : Nat) : Int :=
  let z : Int := 2 ^ p / (n : Int)
  fxOdd p (fxMul p z z) true (p / 4 + 6) 0 z 0

/-- π, by Machin's formula. -/
def fxPi (p : Nat) : Int := 16 * fxAtanInv p 5 - 4 * fxAtanInv p 239

/-- ln m for m in [1, 2], by the series of the inverse hyperbolic tangent. -/
def fxLn (p : Nat) (m : Int) : Int :=
  let z := fxDiv p (m - 2 ^ p) (m + 2 ^ p)
  2 * fxOdd p (fxMul p z z) false (p / 3 + 6) 0 z 0

/-- ln 2. -/
def fxLn2 (p : Nat) : Int := fxLn p (2 * 2 ^ p)

/-- sin r for |r| ≤ 1. -/
def fxSin (p : Nat) (r : Int) : Int :=
  fxSeries p (-(fxMul p r r)) (fun i => (((2 * i + 2) * (2 * i + 3) : Nat) : Int)) (p / 3 + 8) 0 r 0

/-- cos r for |r| ≤ 1. -/
def fxCos (p : Nat) (r : Int) : Int :=
  fxSeries p (-(fxMul p r r)) (fun i => (((2 * i + 1) * (2 * i + 2) : Nat) : Int)) (p / 3 + 8) 0 (2 ^ p) 0

/-- The rounded value of a number known to lie within `err` of v / 2^p, where every number of that interval rounds alike. -/
def roundNear (fm : Fmt) (rm : Rm) (v : Int) (p : Nat) (sc : Int) (err : Int) : Option NumRes :=
  let lo := v - err
  let hi := v + err
  if lo ≤ 0 ∧ 0 ≤ hi then none
  else
    let neg := decide (v < 0)
    let a := (if neg then -hi else lo).toNat
    let b := (if neg then -lo else hi).toNat
    let ra := roundMag fm rm neg a (sc - p) true
    let rb := roundMag fm rm neg b (sc - p) true
    if ra = rb ∧ fm.f + 4 ≤ Nat.log2 a then some ra else none

/-- A value rounded once from its evaluation at p fraction bits, an integer, the exponent it is scaled by and a bound of its error: at twice the precision as long
as that leaves the rounding open (R281). No value but a representable one lies on a boundary, so that some precision decides; the count of doublings is only what makes the
recursion structural (log entry 18). -/
def decideAt (fm : Fmt) (rm : Rm) (ev : Nat → Int × Int × Int) (p fuel : Nat) : NumRes :=
  let r := ev p
  match fuel with
  | 0 => roundMag fm rm (decide (r.1 < 0)) r.1.natAbs (r.2.1 - p) true
  | n + 1 => match roundNear fm rm r.1 p r.2.1 r.2.2 with
    | some x => x
    | none => decideAt fm rm ev (2 * p) n

/-- The doublings of `decideAt`. -/
def doublings : Nat := 40

/-- The error bound of every fixed-point evaluation below, in units of its last place. -/
def fxErr (p : Nat) : Int := 64 * ((p : Int) + 64)

/-- A number just below (or above) m × 2^e in magnitude, nearer to it than any rounding can tell. -/
def nearly (fm : Fmt) (rm : Rm) (neg above : Bool) (m : Nat) (e : Int) : NumRes :=
  let k := fm.f + 4
  roundMag fm rm neg (if above then m * 2 ^ k else m * 2 ^ k - 1) (e - k) true

/-- A finite value as fixed point. -/
def FVal.fx (v : FVal) (p : Nat) : Int := if 0 ≤ v.ex + p then v.man * 2 ^ (v.ex + p).toNat else v.man / 2 ^ (-(v.ex + p)).toNat

/-- floor(log2 |v|) of a finite non-zero value. -/
def FVal.lg (v : FVal) : Int := (Nat.log2 v.man.natAbs : Int) + v.ex

/-- round(2^a) (R281). -/
def exp2F (fm : Fmt) (rm : Rm) (a : FVal) : NumRes :=
  match a with
  | .nan s => nanRes fm s
  | .inf n => if n then ⟨zeroOf fm false, 0#8⟩ else ⟨infOf fm false, 0#8⟩
  | .fin _ _ _ =>
    if a.isZero then roundMag fm rm false 1 0 false
    else if a.lg < -(fm.f + 4 : Int) then nearly fm rm false (!a.neg) 1 0
    else if 14 < a.lg then
      if a.neg then roundMag fm rm false (2 ^ (fm.f + 4)) (-40000) true else roundMag fm rm false (2 ^ (fm.f + 4)) 40000 true
    else if 0 ≤ a.ex ∨ a.man.natAbs % 2 ^ (-a.ex).toNat = 0 then
      roundMag fm rm false 1 (a.fx 0) false
    else
      decideAt fm rm (fun p =>
        let x := a.fx p
        (fxExp p (fxMul p (x % 2 ^ p) (fxLn2 p)), x / 2 ^ p, fxErr p)) (4 * fm.f + 120) doublings

/-- round(log2 a) (R281). -/
def log2F (fm : Fmt) (rm : Rm) (a : FVal) : NumRes :=
  if a.isNan then nanRes fm a.sig
  else if a.isZero then ⟨infOf fm true, fDZ⟩
  else if a.neg then nanRes fm true
  else if a.isInf then ⟨infOf fm false, 0#8⟩
  else
    let m := a.man.natAbs
    let l := Nat.log2 m
    let e := a.lg
    if m = 2 ^ l then roundZ fm rm e 0 false
    else
      decideAt fm rm (fun p => (e * 2 ^ p + fxDiv p (fxLn p ((m : Int) * 2 ^ p / 2 ^ l)) (fxLn2 p), 0, fxErr p)) (4 * fm.f + 120) doublings

/-- sin or cos of a finite value that is not tiny, by reduction modulo π/2 at p fraction bits. -/
def sincosAt (isCos : Bool) (a : FVal) (p : Nat) : Int × Int × Int :=
  let x := a.fx p
  let h := fxPi p / 2
  let n := (2 * x + h) / (2 * h)
  let r := x - n * h
  let j := (n + (if isCos then 1 else 0)) % 4
  let s := if j % 2 = 0 then fxSin p r else fxCos p r
  let v := if 2 ≤ j then -s else s
  let big : Int := 2 ^ (max 0 (a.lg + 2)).toNat
  (v, 0, fxErr p * big)

/-- round(sin a) or round(cos a), a in radians (R281). -/
def sincosF (fm : Fmt) (rm : Rm) (isCos : Bool) (a : FVal) : NumRes :=
  match a with
  | .nan s => nanRes fm s
  | .inf _ => nanRes fm true
  | .fin neg m e =>
    if m = 0 then (if isCos then roundMag fm rm false 1 0 false else ⟨zeroOf fm neg, 0#8⟩)
    else if a.lg < -(fm.f + 4 : Int) then
      if isCos then nearly fm rm false false 1 0 else nearly fm rm neg false m e
    else
      decideAt fm rm (sincosAt isCos a) (4 * fm.f + 160 + (max 0 a.lg).toNat) doublings

/-- round(tanh a) (R281). -/
def tanhF (fm : Fmt) (rm : Rm) (a : FVal) : NumRes :=
  match a with
  | .nan s => nanRes fm s
  | .inf n => roundMag fm rm n 1 0 false
  | .fin neg m e =>
    if m = 0 then ⟨zeroOf fm neg, 0#8⟩
    else if a.lg < -(fm.f + 4 : Int) then nearly fm rm neg false m e
    else if 6 ≤ a.lg then nearly fm rm neg false 1 0
    else
      decideAt fm rm (fun p =>
        let y := 2 * (FVal.fin false m e).fx p
        let l2 := fxLn2 p
        let n := y / l2
        let fr := y - n * l2
        let t := fxExp p (-fr) / 2 ^ n.toNat
        let v := fxDiv p (2 ^ p - t) (2 ^ p + t)
        (if neg then -v else v, 0, fxErr p)) (4 * fm.f + 160) doublings

/-- A finite value rounded to an integer by a rounding mode, with whether it was one (R254, R279). -/
def toIntZ (rm : Rm) (m : Int) (e : Int) : Int × Bool :=
  if 0 ≤ e then (m * 2 ^ e.toNat, true)
  else
    let d : Nat := 2 ^ (-e).toNat
    let u := m.natAbs / d
    let rem := m.natAbs % d
    let c : Ordering := if 2 * rem < d then .lt else if 2 * rem = d then .eq else .gt
    let up := goesUp rm (decide (m < 0)) (decide (u % 2 = 1)) (decide (rem = 0)) c
    let r : Int := if up then u + 1 else u
    (if m < 0 then -r else r, decide (rem = 0))

/-- FRND: rounding to an integral value in the same format (R279). -/
def rndF (fm : Fmt) (rm : Rm) (a : FVal) : NumRes :=
  match a with
  | .nan s => nanRes fm s
  | .inf n => ⟨infOf fm n, 0#8⟩
  | .fin n m e =>
    let (r, ex) := toIntZ rm (if n then -(m : Int) else m) e
    if r = 0 then ⟨zeroOf fm n, if ex then 0#8 else fNX⟩
    else ⟨(roundMag fm .rtz n r.natAbs 0 false).bits, if ex then 0#8 else fNX⟩

/-- FCLASS (R279). -/
def classF (fm : Fmt) (a : FVal) : Nat :=
  match a with
  | .nan s => if s then 256 else 512
  | .inf n => if n then 1 else 128
  | .fin n m e =>
    if m = 0 then (if n then 8 else 16)
    else if (Nat.log2 m : Int) + e < 1 - fm.bias then (if n then 4 else 32)
    else if n then 2 else 64

/-- A float converted to an integer type (R254): out of range and NaN set IV, an inexact value in range NX. T2 takes R245. -/
def floatToInt (t : ETy) (rm : Rm) (a : FVal) : NumRes :=
  match a with
  | .nan _ => ⟨0, fIV⟩
  | .inf n => ⟨low t.width (if n then t.lo else t.hi), fIV⟩
  | .fin n m e =>
    let (r, ex) := toIntZ rm (if n then -(m : Int) else m) e
    let c := clampI t r
    if c ≠ r then ⟨low t.width c, fIV⟩ else ⟨low t.width r, if ex then 0#8 else fNX⟩

/-- A float value stored in a floating-point type (R251, R253, R282). -/
def floatToFloat (fm : Fmt) (rm : Rm) (a : FVal) : NumRes :=
  match a with
  | .nan s => nanRes fm s
  | .inf n => ⟨infOf fm n, if fm.ty = .f8n then fIV else 0#8⟩
  | .fin n m e => if m = 0 then ⟨zeroOf fm n, 0#8⟩ else roundMag fm rm n m e false

/-- One element of type `src` converted to type `dst`, scaled by 2^n (R282): CVT and PACK take n = 0. -/
def convElem (src dst : ETy) (rm : Rm) (sat : Bool) (n : Int) (x : Nat) : NumRes :=
  if src.isFloat then
    let a := match readF (fmtOf src) x with
      | .fin ng m e => FVal.fin ng m (e + n)
      | v => v
    if dst.isFloat then floatToFloat (fmtOf dst) rm a else floatToInt dst rm a
  else
    let (v, fl) := readInt src x
    let r := if dst.isFloat then roundZ (fmtOf dst) rm v n false else storeInt dst sat v
    ⟨r.bits, r.flags ||| fl⟩

/-- SC16 (R249): a NaN scale, or the exact value of a scale. -/
def readSc (x : Nat) : Option Dy :=
  let e := x / 128 % 256
  if 32768 ≤ x % 65536 ∨ e = 255 then none
  else if e = 0 then some ⟨0, 0⟩
  else some ⟨((128 + x % 128 : Nat) : Int), (e : Int) - 127 - 7⟩

/-- The smallest SC16 value at or above the positive rational a / b × 2^e, with the clamps of R261; whether the largest SC16 was
taken in place of a larger value. -/
def scUp (a b : Nat) (e : Int) : Nat × Bool :=
  let k := Nat.log2 b + 12
  let q := a * 2 ^ k / b
  let st := decide (a * 2 ^ k % b ≠ 0)
  let l := Nat.log2 q
  let sh := l - 7
  let top := q / 2 ^ sh
  let up := st || decide (q % 2 ^ sh ≠ 0)
  let m := if up then top + 1 else top
  let ex : Int := (l : Int) + e - k
  let (m, ex) := if m = 256 then (128, ex + 1) else (m, ex)
  if ex < -126 then (0x0080, false)
  else if 127 < ex then (0x7F7F, true)
  else (((ex + 127).toNat) * 128 + (m - 128), false)

/-- round(x / s) to a target type, dividing exactly first (R261, R284). -/
def quotTo (dst : ETy) (rm : Rm) (x : Dy) (neg : Bool) (s : Dy) : NumRes :=
  if dst.isFloat then
    let fm := fmtOf dst
    if x.m = 0 then ⟨zeroOf fm neg, 0#8⟩
    else
      let mb := s.m.natAbs
      let ma := x.m.natAbs
      let k := fm.f + 4 + Nat.log2 mb
      roundMag fm rm (decide (x.m < 0)) (ma * 2 ^ k / mb) (x.e - s.e - k) (decide (ma * 2 ^ k % mb ≠ 0))
  else
    -- an integer target: the exact quotient, rounded to an integer by RM (R254), then stored
    let e := x.e - s.e
    let num := if 0 ≤ e then x.m.natAbs * 2 ^ e.toNat else x.m.natAbs
    let den := if 0 ≤ e then s.m.natAbs else s.m.natAbs * 2 ^ (-e).toNat
    let u := num / den
    let rem := num % den
    let c : Ordering := if 2 * rem < den then .lt else if 2 * rem = den then .eq else .gt
    let up := goesUp rm (decide (x.m < 0)) (decide (u % 2 = 1)) (decide (rem = 0)) c
    let r : Int := if up then u + 1 else u
    let r := if x.m < 0 then -r else r
    let cl := clampI dst r
    if cl ≠ r then ⟨low dst.width cl, fIV⟩
    else ⟨low dst.width r, if rem = 0 then 0#8 else fNX⟩

end Sys2Proof.Machine
end

