-- ==== Sys2Proof/Machine/Maps.lean ====
section
/-! DEFINITION. The two containers the state is made of: a map from numbers to values held as a list in rising key order,
and the byte memory in its one canonical form. Both are plain data, so that equal contents are equal lists. -/

namespace Sys2Proof.Machine

/-- An element put before the first one it does not come after. -/
def insertBy {α : Type} (r : α → α → Bool) (x : α) (l : List α) : List α :=
  match l with
  | [] => [x]
  | y :: t => if r x y then x :: y :: t else y :: insertBy r x t

/-- A list in order; equal elements stay in the order they stood in. -/
def orderBy {α : Type} (l : List α) (r : α → α → Bool) : List α := l.foldr (insertBy r) []

/-- A finite map from numbers to values, keys strictly rising. -/
abbrev FMap (α : Type) := List (Nat × α)

/-- The value at a key. -/
def mget {α : Type} (m : FMap α) (k : Nat) : Option α :=
  match m with
  | [] => none
  | (j, a) :: r => if j = k then some a else mget r k

/-- The value at a key, or a default where the key is not listed. -/
def mgetD {α : Type} (m : FMap α) (k : Nat) (d : α) : α := (mget m k).getD d

/-- The map without a key. -/
def merase {α : Type} (m : FMap α) (k : Nat) : FMap α :=
  match m with
  | [] => []
  | (j, a) :: r => if j = k then merase r k else (j, a) :: merase r k

/-- The map with an entry put in before the first larger key. -/
def minsert {α : Type} (m : FMap α) (k : Nat) (v : α) : FMap α :=
  match m with
  | [] => [(k, v)]
  | (j, a) :: r => if k < j then (k, v) :: (j, a) :: r else (j, a) :: minsert r k v

/-- The map with a key set to a value. -/
def mset {α : Type} (m : FMap α) (k : Nat) (v : α) : FMap α := minsert (merase m k) k v

/-- A change at one key, where it is listed. -/
def mupd {α : Type} (m : FMap α) (k : Nat) (f : α → α) : FMap α :=
  match mget m k with
  | some a => mset m k (f a)
  | none => m

/-- A change at every key. -/
def mmap {α : Type} (m : FMap α) (f : Nat → α → α) : FMap α := m.map fun e => (e.1, f e.1 e.2)

/-- The map with a key set, where the default value is never listed. -/
def mput {α : Type} [DecidableEq α] (m : FMap α) (k : Nat) (v d : α) : FMap α :=
  if v = d then merase m k else mset m k v

/-- Keys strictly rising, all above a bound. -/
def mrising {α : Type} (lo : Nat) (m : FMap α) : Bool :=
  match m with
  | [] => true
  | (j, _) :: r => decide (lo ≤ j) && mrising (j + 1) r

/-- Byte memory: (address, byte) pairs, addresses strictly rising, no byte 0 listed. An address that is not listed reads as 0
(DESIGN CHOICE, unsafe: log entry 1). -/
abbrev Memory := List Host.Cell

/-- The byte at an address. -/
def Memory.get (m : Memory) (a : Nat) : Byte := mgetD m a 0#8

/-- Memory with one byte stored: storing what an unlisted address reads as removes the entry. -/
def Memory.set (m : Memory) (a : Nat) (b : Byte) : Memory := mput m a b 0#8

/-- The canonical form: addresses strictly rising and no listed byte is 0. -/
def Memory.wf (m : Memory) : Bool := mrising 0 m && m.all fun c => c.2 != 0#8

/-- `n` bytes from an address, lowest address in bits [7:0] (R6). -/
def Memory.read (m : Memory) (a : Nat) (n : Nat) : Nat :=
  match n with
  | 0 => 0
  | k + 1 => (m.get a).toNat + 256 * Memory.read m (a + 1) k

/-- Memory with the low `n` bytes of `v` stored from an address up, those of them a byte mask names (bit i for byte i). -/
def Memory.writeMask (m : Memory) (a : Nat) (n : Nat) (mask v : Nat) : Memory :=
  match n with
  | 0 => m
  | k + 1 =>
    let m' := if mask % 2 = 1 then m.set a (BitVec.ofNat 8 v) else m
    Memory.writeMask m' (a + 1) k (mask / 2) (v / 256)

/-- Memory with the low `n` bytes of `v` stored from an address up (R6). -/
def Memory.write (m : Memory) (a : Nat) (n : Nat) (v : Nat) : Memory := m.writeMask a n (2 ^ n - 1) v

/-- Memory with an address range emptied (its bytes read as 0 again). -/
def Memory.clear (m : Memory) (a : Nat) (n : Nat) : Memory :=
  m.filter fun c => decide (c.1 < a) || decide (a + n ≤ c.1)

/-- The first value of a list that satisfies a test. -/
def firstSome {α β : Type} (f : α → Option β) (l : List α) : Option β :=
  match l with
  | [] => none
  | a :: r => match f a with
    | some b => some b
    | none => firstSome f r

/-- The list with the entry at one index changed. -/
def lupd {α : Type} (l : List α) (n : Nat) (f : α → α) : List α :=
  match l, n with
  | [], _ => []
  | a :: r, 0 => f a :: r
  | a :: r, n + 1 => a :: lupd r n f

end Sys2Proof.Machine
end

