-- ==== Sys2Proof/Machine/State.lean ====
section
/-! DEFINITION. The state of one SZ9 package: everything the manual gives the machine, as plain data, and the state after module
reset. Fields marked "the model's own" hold no architected state; they are the choices the manual leaves to the module (R1) and the
bookkeeping a step needs, and the assumption log names each. -/

namespace Sys2Proof.Machine

/-- Trap causes (R45). -/
inductive Cause where
  | illegalOp | modeInvalid | viewFault | bounds | pageFault | prot | watch | misalign | maskMismatch | splitOverflow
  | launchDepth | queueError | peerDead | dieLost | barrierBroken | placement | watchdog | eccUncorr | weirEvent | swTrap | bkpt
  deriving DecidableEq, Repr

/-- A trap: its cause, TINFO[63:33] and TADDR (R44, R407), and whether it ends an access to a declined page, which is logged though it is precise (R343). -/
structure Trap where
  cause : Cause
  detail : Nat := 0
  addr : Nat := 0
  declined : Bool := false
  deriving DecidableEq, Repr

/-- The four kinds of delivery (R407). -/
inductive TrapKind where
  | precise | deferred | waiter | async
  deriving DecidableEq, Repr

/-- A trap that waits to be taken (R408), or that is being entered: its kind, the stream it belongs to (true: access), the slot of the
split it concerns. -/
structure Pend where
  trap : Trap
  kind : TrapKind
  acc : Bool := false
  slot : Nat := 0
  deriving DecidableEq, Repr

/-- One queue entry (R141, R142): 32 threads' words, their byte enables, whether its data has arrived, the reservation it belongs to, and
which threads' words are poisoned and by which unit (R414, R415). -/
structure QEntry where
  data : Row := 0
  en : ByteMask := 0
  ready : Bool := true
  resv : Nat := 0
  poison : Mask := 0
  unit : Nat := 1
  deriving DecidableEq, Repr

/-- What a write-back entry writes at its commit (R30). -/
inductive WbDest where
  | v (r : Nat)      -- a V register
  | s (r : Nat)      -- an S register
  | a (r : Nat)      -- an A register
  | sq | xq          -- the reserved entry of a store queue (R290)
  | none             -- the result is discarded (ZERO, A0)
  deriving DecidableEq, Repr

/-- One entry of a write-back buffer (R30): the value, the bits of it that are written, each thread's flags, whether the result
has returned, and the threads it still stands for. -/
structure Wb where
  dest : WbDest
  data : Row := 0
  bits : Row := 0
  en : ByteMask := 0
  flags : List (BitVec 8) := []
  returned : Bool := false
  id : Nat := 0
  poison : Bool := false
  unit : Nat := 1
  mask : Mask := 0xFFFFFFFF#32
  deriving DecidableEq, Repr

/-- What holds a split (R63). `waitc` and `waitm` name the byte address of the counter or word at its home. -/
inductive SWait where
  | ready
  | bar | syncs | gbar
  | waitc (addr : Nat) (useTarget : Bool) (target : Nat)
  | waitm (va : Nat) (pa : Nat) (value : Nat)
  | joinAll
  | joinOne (grid : Nat)
  | sleep (left : Nat)
  | flush                               -- a census FLUSH in progress (R448)
  | freed (kind : Nat)                  -- its condition has held; the release is on its way (R65): 0 BAR, 1 SYNCS, 2 GBAR, 3 WAITC,
                                        -- 4 WAITM, 5 JOINC, 6 SLEEP
  | twait (upto : Nat)                  -- stalled in TWAIT for the group's matrix entries below this number (R316); runnable
  | launch                              -- held until the distributor accepts or refuses (R108); runnable
  | paged (page : Nat) (t : Trap)       -- fault-held: a WAITM, LAUNCH or fetch translation, and the trap a decline raises (R340)
  | trapped                             -- its wait has ended in a trap that the group takes once it can (R407, R408)
  deriving DecidableEq, Repr

/-- One split: a PC, a mask and its waiting state (R57). -/
structure Split where
  pc : Word
  mask : Mask
  wait : SWait := .ready
  deriving DecidableEq, Repr

/-- A guard slot (R88): resolutions not yet taken, oldest first, and the guarded commands not yet resolved, by issue number. -/
structure Guard where
  res : List Bool := []
  cmds : List Nat := []
  deriving DecidableEq, Repr

/-- A tile handle's binding (R301 to R303): the binding word, and the workgroups of its team, member 0 first. -/
structure Tile where
  word : Nat
  members : List Nat
  deriving DecidableEq, Repr

/-- What holds an access stream (R63, R167, R168, R174, R126, R153). -/
inductive AWait where
  | ready
  | counter (addr : Nat) (useTarget : Bool) (target : Nat)
  | freed                                -- AWAITC's condition has held; the release is on its way (R65)
  | fence (kind scope : Nat) (upto : Nat)
  | xfence (fm tm scope : Nat) (upto : Nat)
  | paged (page : Nat) (t : Trap)        -- fault-held at the instruction (R159), and the trap a decline raises (R340)
  | vdef (slot : Nat) (acc : Nat)        -- until the slot is defined (R153)
  | conv (slot : Nat)                    -- until the view's conversion completes (R126, R236)
  | ldp (view : BitVec 1024) (page : Option (Nat × Trap) := none)   -- its conversion has completed: LDP loads through the view as that left it (R237), and the page that holds the load
  | trapped                              -- its wait has ended in a trap that the group takes once it can (R407, R408)
  deriving DecidableEq, Repr

/-- The kinds of memory access (R155, R163, R164, R153). -/
inductive AKind where
  | load | gather | lda (sx : Bool) | store | scatter | sta | pref | atom | atoma | vdef
  deriving DecidableEq, Repr

/-- One element of a line of an access: its byte offset in the line, its queue position, its operands, how many of its bytes an earlier line holds (R128,
R129), and whether its operation is enabled (R163). -/
structure Elem where
  off : Nat
  pos : Nat
  val : Nat := 0
  val2 : Nat := 0
  skip : Nat := 0
  on : Bool := true
  deriving DecidableEq, Repr

/-- One line request of an access (R129): its space, its virtual (or space) line address, the flat address its bytes live at, its elements,
and whether it has been performed. `seen` is the widest scope of a release that a store line not yet at its home has been ordered for (R182, R202), and `bound` names
the groups that have acquired it, each with its first access after the acquire (R183, R185). -/
structure LineReq where
  va : Nat
  pa : Nat
  elems : List Elem
  glob : Bool
  cls : Nat := 0
  host : Bool := false
  tracked : Bool := false
  done : Bool := false
  spilled : Bool := false
  seen : Option Nat := none
  bound : List (Nat × Nat) := []
  deriving DecidableEq, Repr

/-- An access that has issued and is not yet complete (R158). `bad` names the threads whose operand words are poisoned, `poison` those of its result (R414). -/
structure Access where
  id : Nat
  kind : AKind
  esize : Nat
  slot : Nat
  lines : List LineReq
  lq : Option Nat := none
  areg : Nat := 0
  op : Nat := 0
  order : Nat := 0
  scope : Nat := 0
  guard : Option Nat := none
  resolved : Bool := true
  checked : Bool := true
  ticket : Option Nat := none
  res : Row := 0
  bad : Mask := 0
  poison : Mask := 0
  unit : Nat := 3
  pc : Word := 0
  icnt : Nat := 0
  dist : Option Nat := none
  coord : List Int := []
  deriving DecidableEq, Repr

/-- What trap entry keeps of a group (R410): the queues, MODE, S15 and A31, which of the two is poisoned (R414), the guard pairings, where each stream stopped, and the trap
being handled. -/
structure Frame where
  lq : FMap (List QEntry)
  sq : List QEntry
  xq : List QEntry
  mode : BitVec 32
  s15 : Word
  a31 : Word
  bad : List Nat := []
  guards : FMap Guard
  apc : Word
  aend : Bool
  await : AWait
  why : Pend
  deriving DecidableEq, Repr

/-- One group (R16, R57, R112). V, P, S, A and D registers hold 0 where they are not listed. -/
structure Group where
  wg : Nat
  gi : Nat := 0
  present : Mask := 0xFFFFFFFF#32
  exited : Mask := 0
  v : FMap Row := []
  p : FMap ByteMask := []
  s : FMap Word := []
  a : FMap Word := []
  d : FMap (BitVec 16) := []
  mode : BitVec 32 := 0x000A000A#32
  stat : BitVec 8 := 0
  guards : FMap Guard := []
  tiles : FMap Tile := []
  lq : FMap (List QEntry) := []
  sq : List QEntry := []
  xq : List QEntry := []
  wbC : List Wb := []
  wbA : List Wb := []
  splits : FMap Split := []
  pending : List (Word × Mask) := []
  elder : Nat := 0
  parked : Option Nat := none    -- the slot whose marked word waits for the held entries (R60)
  apc : Word := 0
  aend : Bool := false
  await : AWait := .ready
  spilling : Bool := false       -- held until the rest of an access's lines enter the spillway (R160)
  astall : Bool := false         -- its last attempt to issue found a queue, the marker or an engine in the way (R90)
  memq : List Access := []
  /- the trap registers and the handler (R44, R410, R411) -/
  tcause : Nat := 0
  tpc : Nat := 0
  tinfo : Nat := 0
  taddr : Nat := 0
  tlevel : Bool := false
  handler : Option Split := none
  frame : Option Frame := none
  entering : Option Pend := none
  saver : Bool := false
  pend : List Pend := []
  syncsMask : Option Mask := none
  syncsArrived : Mask := 0
  syncsBroken : Bool := false
  watchdog : Nat := 0
  yielded : Option Nat := none
  /- bookkeeping: instruction counts (R420), issue times for R85, the next reservation, poisoned registers (R414) -/
  icntC : Nat := 0
  icntA : Nat := 0
  lastC : Nat := 0
  lastA : Nat := 0
  nextId : Nat := 1
  poison : List Nat := []
  cycles : Nat := 0
  amark : Nat := 0
  deriving DecidableEq, Repr

/-- Who issues: a group and the slot of its split: 0 to 3, 4 for the access stream, 5 for the trap handler's split (the model's own). -/
structure Issuer where
  group : Nat := 0
  slot : Nat := 0
  deriving DecidableEq, Repr

/-- A cached copy of a line in one core's L1 (R136, R199, R200). -/
structure L1Copy where
  data : Line
  wts : Nat := 0
  rts : Nat := 0
  age : Nat := 0
  rank : Nat := 32
  steps : Nat := 0
  overdue : Bool := false
  tenant : Nat := 0
  way : Nat := 0
  deriving DecidableEq, Repr

/-- The times, rank and tenant of a line in one die's L2 (R136, R199). `fresh` stands until the access that filled it is performed (R135); way 16 is a line
performed without allocation (R139). -/
structure L2Line where
  wts : Nat := 0
  rts : Nat := 0
  dirty : Bool := false
  rank : Nat := 4
  steps : Nat := 0
  overdue : Bool := false
  tenant : Nat := 0
  way : Nat := 0
  nread : Nat := 0
  fresh : Bool := false
  deriving DecidableEq, Repr

/-- A directory entry (R206): the dies that hold the line, whether one holds it exclusively, the two host halves (0 none, 1 shared, 2 owned) with the
agent that was granted each last (9 the hub cores, 10 the CXL host; R422), and the translation
sharers; dies are numbered as R11, bit 0 of `trs` the hub's translation cache (R335). -/
structure DirEntry where
  dies : BitVec 9 := 0
  excl : Bool := false
  half0 : Nat := 0
  half1 : Nat := 0
  agent0 : Nat := 0
  agent1 : Nat := 0
  pt : Bool := false
  trs : BitVec 9 := 0
  grants : Nat := 0
  deriving DecidableEq, Repr

/-- A translation cache (R333): a front end's, by its quad; a cluster's; a compute die's; the hub's; and the memory translation table (R334). -/
inductive TlbPlace where
  | quad (q : Nat) | cluster (cl : Nat) | die (d : Nat) | hub | table
  deriving DecidableEq, Repr

/-- One translation cache entry (R326, R333, R335): the cache that holds it, its context, its page, the leaf as read, the
table level it came from, and the lines the walk read. -/
structure TlbEntry where
  place : TlbPlace
  ctx : Nat
  page : Nat
  pte : Word
  level : Nat
  entryAt : Nat
  lines : List Nat
  deriving DecidableEq, Repr

/-- One line of one access in a quad's spillway (R160): its context, the issuing group and its workgroup, and the access with that line alone: view slot,
coordinates, bytes and mask, operation, order, scope, distance and class. -/
structure Spill where
  ctx : Nat
  group : Nat
  wg : Nat
  access : Access
  deriving DecidableEq, Repr

/-- The line a spillway entry holds. -/
def Spill.line (e : Spill) : LineReq := e.access.lines.headD { va := 0, pa := 0, elems := [], glob := true }

/-- A core (R13, R16, R18, R84, R196, R199). `l1` is keyed by line address, and `icode`, the instruction cache, likewise, the line filled last first; `busy` counts
the issues of each pipe since time last passed, for the census (R446). -/
structure Core where
  pts : Nat := 0
  l1 : FMap L1Copy := []
  icode : List (Nat × Line) := []
  elder : FMap Nat := []
  census : FMap Nat := []
  busy : FMap Nat := []
  deriving DecidableEq, Repr

/-- The kinds of matrix entry (R312 to R315). -/
inductive MKind where
  | mul | zero | zeroAll | trd (col : Bool) | twr (col : Bool) | move (add : Bool)
  deriving DecidableEq, Repr

/-- An accumulator cell or the first cell of a window: its workgroup, the row within that workgroup's allocation, and the column (R302). -/
structure CellRef where
  wg : Nat
  row : Nat
  col : Nat
  deriving DecidableEq, Repr

/-- A CLUS view as an entry keeps it: the descriptor, the origin of its two dimensions, and the flat address of its allocation (R310,
R311). -/
structure TileRef where
  desc : BitVec 1024 := 0
  o0 : Int := 0
  o1 : Int := 0
  base : Nat := 0
  deriving DecidableEq, Repr

/-- One reservation table entry (R87, R306). `stile` is the source handle of a TMOVE (R315), `turn` the place of its grant among all engines' grants (R317). -/
structure ResEntry where
  id : Nat
  slot : Nat := 0
  group : Nat
  wg : Nat
  ctx : Nat
  tile : Nat
  stile : Option Nat := none
  kind : MKind
  mask : Mask := 0
  f32 : Bool := true
  win : CellRef := ⟨0, 0, 0⟩
  swin : CellRef := ⟨0, 0, 0⟩
  rows : Nat := 32
  cols : Nat := 32
  cells : List (Option CellRef) := []
  a : List Row := []
  b : List Row := []
  btile : Option TileRef := none
  af : Nat := 0
  bf : Nat := 0
  shape : Nat := 0
  bl : Nat := 0
  aks : Nat := 0
  bks : Nat := 0
  snap : FMap (BitVec 1024 × BitVec 128) := []
  scA : TileRef := {}
  scB : TileRef := {}
  data : Row := 0
  wb : Option Nat := none
  prio : Nat := 0
  trap : Bool := false
  posted : Nat := 0
  granted : Bool := false
  turn : Nat := 0
  deriving DecidableEq, Repr

/-- Flags a matrix pass raised, to reach a group at its next marked instruction after the pass (R255). -/
structure MFlags where
  group : Nat
  flags : BitVec 8
  deriving DecidableEq, Repr

/-- The kinds of engine command (R169, R172, R224). -/
inductive EKind where
  | cpy | hand | xfer | xmc
  deriving DecidableEq, Repr

/-- One engine command (R169, R225): the two descriptors and origins as read at issue, the counts, and how far it has come. -/
structure EngCmd where
  id : Nat
  kind : EKind
  group : Nat
  wg : Nat
  ctx : Nat
  src : BitVec 1024
  dst : BitVec 1024
  so : List Int
  dor : List Int
  counts : List Nat
  counter : Option Nat := none
  ctr : Nat := 0
  guard : Option Nat := none
  resolved : Bool := true
  owed : Nat := 0
  added : Nat := 0
  started : Bool := false
  finished : Bool := false
  dests : List Nat := []
  chan : Nat := 0
  step : Nat := 0
  user : Nat := 0
  sent : Nat := 0
  trap : Bool := false
  paged : Option (Nat × Trap) := none
  snap : FMap (Line × BitVec 128) := []
  deriving DecidableEq, Repr

/-- A cluster (R13): its matrix engine's reservation table, its two engines' queues, the flags of passes performed, and
the splits stalled on a full table, oldest first, each by its group, slot and PC (R87). -/
structure Cluster where
  res : List ResEntry := []
  copyQ : List EngCmd := []
  fabQ : List EngCmd := []
  mflags : List MFlags := []
  nextId : Nat := 1
  acnt : FMap Nat := []
  postQ : List (Nat × Nat × Word) := []
  deriving DecidableEq, Repr

/-- An event that has come to a page blocked at its home (R195, R214): the context and virtual page, and the group, the access or command, and the line. -/
structure MoveWait where
  ctx : Nat
  page : Nat
  group : Nat
  id : Nat
  va : Nat
  deriving DecidableEq, Repr

/-- What has become of a die (R416). -/
inductive DieState where
  | up | quiescing | fenced
  deriving DecidableEq, Repr

/-- A trace record as a unit forms it (R451). -/
structure TraceRec where
  time : Nat
  cls : Nat
  pin : Bool
  unlocked : Bool
  replay : Bool
  ctx : Nat
  loc : Nat
  pay : Nat
  deriving DecidableEq, Repr

/-- A die (R11, R138, R199, R416, R453); die 0 is the hub. `cycles` counts the cycles in which its cores' clock ran (R119). `l2` is keyed by line address; `ring`
gives the number of the record that stands in each slot of the trace ring, whose bytes lie in HBM4E. -/
structure Die where
  cycles : Nat := 0
  maxT : Nat := 0
  floor : Nat := 0
  l2 : FMap L2Line := []
  overst : FMap Nat := []
  state : DieState := .up
  acked : Bool := false
  quietAt : Nat := 0
  selfRefresh : Bool := false
  scrub : Nat := 0
  passBase : Nat := 0
  trctl : Nat := 0x1FF
  trwp : Nat := 0
  trrp : Nat := 0
  trlost : Nat := 0
  trpos : Nat := 0
  trDropped : Nat := 0
  ring : FMap Nat := []
  deriving DecidableEq, Repr

/-- One buffered atomic (R262): the flat or virtual element address, whether it is a GLOB virtual address, the operation and the operand, and whether that is poisoned
(R414). -/
structure AtomEntry where
  wtid : Nat
  seq : Nat
  addr : Nat
  glob : Bool
  early : Bool
  op : Nat
  esize : Nat
  val : Nat
  bad : Bool := false
  deriving DecidableEq, Repr

/-- Where a workgroup stands (R52, R73, R352). -/
inductive WgState where
  | placed | saving | saved | restoring | lost
  deriving DecidableEq, Repr

/-- A workgroup (R16, R49, R52, R99, R134). Keyed by context × 2^39 + serial. `kept` holds the program's view slots, WRC, TICKP and cycles since its last RTICK while a save or
restore handler runs on its own (R112, R353). -/
structure Workgroup where
  ctx : Nat
  grid : Nat
  lin : Nat := 0
  serial : Nat := 0
  n : Nat := 32
  depth : Nat := 0
  core : Nat := 0
  slots : List Nat := []
  coreBase : Nat := 0
  coreSize : Nat := 0
  clusBase : Nat := 0
  clusSize : Nat := 0
  accBase : Nat := 0
  accRows : Nat := 0
  tableBase : Nat := 0
  keeper : Nat := 0
  views : FMap (BitVec 1024) := []
  wrc : Nat := 0
  tickp : Nat := 0x10000
  tickCyc : Nat := 0
  barMask : Option (BitVec 16) := none
  barArrived : BitVec 16 := 0
  barBroken : Bool := false
  children : List Nat := []
  state : WgState := .placed
  parked : Bool := false
  saved : FMap Group := []
  savedAcc : Nat := 0
  savedSpill : List Spill := []
  savedCmds : List EngCmd := []
  savedFlags : List (Nat × BitVec 8) := []
  savedBad : List Nat := []
  handlerSlot : Option Nat := none
  kept : Option (FMap (BitVec 1024) × Nat × Nat × Nat) := none
  heldAdds : List (Nat × Nat) := []
  arrivals : List (BitVec 256) := []
  abuf : List AtomEntry := []
  abufChunks : Nat := 0
  atomSeq : Nat := 0
  deriving DecidableEq, Repr

/-- A grid descriptor as LAUNCH read it (R109). -/
structure Desc where
  cpc : Nat := 0
  apc : Nat := 0
  x : Nat := 1
  y : Nat := 1
  z : Nat := 1
  n : Nat := 32
  flags : Nat := 0
  keeper : Nat := 0
  params : List Nat := []
  views : FMap (BitVec 1024) := []
  core : Nat := 0
  clus : Nat := 0
  acc : Nat := 0
  deriving DecidableEq, Repr

/-- An accepted grid (R51, R71, R74, R80, R81). `ranges` holds, for each cluster, its runs [lo, hi) of unplaced linear indices; `openAt` the
clock since which they have waited, `expired` that this has passed the bound of R82. Keyed by context × 2^32 + GRID. -/
structure Grid where
  ctx : Nat
  gid : Nat
  base : Nat
  desc : Desc
  depth : Nat := 0
  tag : Nat := 0
  doneAt : Nat := 0
  parent : Option Nat := none
  gates : List (Nat × Nat) := []
  openGate : Bool := false
  gateHeld : Bool := false
  ranges : FMap (List (Nat × Nat)) := []
  openAt : Nat := 0
  expired : Bool := false
  retired : Nat := 0
  broken : Bool := false
  root : Bool := false
  gbar : List Nat := []
  ended : Bool := false
  pendAtoms : List (Nat × Nat × List AtomEntry) := []
  chunks : Nat := 0
  deriving DecidableEq, Repr

/-- A context's condition (R352, R412). -/
inductive CtxState where
  | running | preempting | preempted | resuming | faulted | destroying
  deriving DecidableEq, Repr

/-- One watch filter entry (R341, R444). -/
structure WatchEntry where
  lo : Nat := 0
  hi : Nat := 0
  mask : Nat := 0
  kind : Nat := 0
  deriving DecidableEq, Repr

/-- A page fault the device has handed to the host (R338, R339): its index in the queue, the address of its entry, the page, the word of DETAIL, and the group that
faulted first with its stream, none for a hub unit. -/
structure PageFault where
  index : Nat
  entry : Nat := 0
  page : Nat
  detail : Nat
  asker : Option (Nat × Bool) := none
  deriving DecidableEq, Repr

/-- An open or closed take of one recorder and context (R420, R421): the device whose reel it goes to (R428), the first record's cycle, LTIME, and the records, newest first. -/
structure Take where
  rid : Nat
  tidx : Nat
  cycle : Nat
  ltime : Nat
  flags : Nat
  epoch : Nat
  ctx : Nat
  die : Nat
  dev : Nat := 0
  recs : List (List Nat) := []
  deriving DecidableEq, Repr

/-- A device's reel (R428): the counts WP, DP, OP, LOST and SL, and the takes that stand in it, oldest first: where each starts, the bytes it occupies, its recorder. -/
structure Reel where
  wp : Nat := 0
  dp : Nat := 0
  op : Nat := 0
  lost : Nat := 0
  slate : Nat := 0
  takes : List (Nat × Nat × Nat) := []
  deriving DecidableEq, Repr

/-- The replay of a context (R435, R436): each recorder's remaining records and the take each belongs to, when each unit last moved on, the TIDX each
recorder comes to next, one more than the latest take each has begun to obey (R439), the CTXID the takes name, the port that armed it, when it began, and whether
what runs now stands outside the log (R440). -/
structure Replay where
  epoch : Nat
  state : Nat := 1
  logs : FMap (List (Nat × List Nat)) := []
  wait : FMap Nat := []
  next : FMap Nat := []
  taken : FMap Nat := []
  src : Nat := 0
  port : Nat := 1
  begun : Nat := 0
  off : Bool := false
  deriving DecidableEq, Repr

/-- A context (R348, R349). `censusWas` is the setting that the last CENSUSCTL write has replaced, at the clock `censusAt` (R447). Keyed by CTXID. `share` counts the workgroups the distributor has handed out to it (R80; the model's own). -/
structure Ctx where
  dev : Nat := 0
  det : Nat := 0
  lease : Nat := 16
  wdog : Nat := 32
  domain : Option Nat := none
  weight : Nat := 1
  share : Nat := 0
  oslimit : Nat := 1024
  dieb : Nat := 0
  dieBase : FMap Nat := []
  troot : Nat := 0
  lqhdr : Nat := 0
  fqhdr : Nat := 0
  savec : Nat := 0
  savea : Nat := 0
  restc : Nat := 0
  resta : Nat := 0
  savemem : Nat := 0
  floors : Nat := 0
  ceils : Nat := 0
  abuf : Nat := 0
  area : Nat := 0
  areaSize : Nat := 0
  serial : Nat := 0
  nextGrid : Nat := 0
  state : CtxState := .running
  censusEn : Bool := false
  censusWas : Bool := false
  censusAt : Nat := 0
  bins : List (Nat × Nat) := []
  watch : FMap WatchEntry := []
  watchHeld : List (Nat × Nat × Nat) := []
  faults : List PageFault := []
  halted : List Nat := []
  fqHalted : Bool := false
  epoch : Option Nat := none
  takes : FMap Take := []
  tidx : FMap Nat := []
  acnt : FMap Nat := []
  replay : Option Replay := none
  stands : Option Nat := none
  crec : Nat := 0
  image : Nat := 0
  deriving DecidableEq, Repr

/-- A fabric packet (R217): its 256 header bits, its payload, which payload bytes are poisoned (R414), the port it is queued at (R219), 36 for none, and at its
destination the addresses from which its payload has been performed, line by line (R177, R220). -/
structure Packet where
  hdr : BitVec 256
  pay : Nat := 0
  bad : Nat := 0
  port : Nat := 36
  done : List Nat := []
  deriving DecidableEq, Repr

/-- A fabric domain's tables on this device (R216, R367). -/
structure Domain where
  set : BitVec 4096 := 0
  groups : FMap (BitVec 4096) := []
  meshes : FMap (List Nat × List Nat) := []
  evhdr : Nat := 0
  deriving DecidableEq, Repr

/-- A conversion (R234 to R238): its number, the group held in its LDP, the domain whose mesh it names, the axis, the required byte and reduction type, the
devices of the axis group in coordinate order, this device's coordinate, the view as submitted, the lines of this device's shard read so far, its result once all are,
and the addresses in CBUF from which that is written. -/
structure Conv where
  num : Nat
  dom : Nat
  ctx : Nat
  group : Nat
  wg : Nat
  slot : Nat
  mesh : Nat
  axis : Nat
  toByte : Nat
  rtype : Nat
  step : Nat
  devs : List Nat
  me : Nat
  view : BitVec 1024
  matched : Bool := false
  snap : FMap Nat := []
  result : Option (List Nat) := none
  wrote : List Nat := []
  deriving DecidableEq, Repr

/-- A packet sent and not yet acknowledged (R221, R231), with the bytes of its whole transfer (R233). -/
structure Unacked where
  pkt : Packet
  bytes : Nat := 0
  sent : Nat
  group : Nat
  wg : Nat
  deriving DecidableEq, Repr

/-- An event record that the hub has formed and has still to write (R380, R381): its domain, its fields, the recorder that logs its time (R398), the packet's
header, the event header line once that is read, and whether the record itself is written (R177). -/
structure EventRec where
  dom : Nat
  cls : Nat
  port : Nat
  slot : Nat
  code : Nat
  detail : Nat
  rid : Nat
  time : Nat
  hdr : BitVec 256
  head : Option Nat := none
  wrote : Bool := false
  deriving DecidableEq, Repr

/-- What an arrived packet of a triple still owes (R220): its sequence number, its header, whether it makes a counter addition, and whether it has been
acknowledged while that addition is held (R221, R223). -/
structure Arrived where
  seq : Nat
  hdr : BitVec 256
  adds : Bool
  acked : Bool := false
  deriving DecidableEq, Repr

/-- The receiving side of one triple (R220, R221, R228): the next SEQ whose addition is due, those that have landed, the packets held for a page,
the sequence numbers rejected, those of first and last packets seen, and of the transfer whose packets are being passed the bytes so far and whether any made
an addition (R233). -/
structure Triple where
  due : Nat := 0
  landed : List Arrived := []
  held : List Packet := []
  rejects : List Nat := []
  firsts : List Nat := []
  lasts : List Nat := []
  bytes : Nat := 0
  added : Bool := false
  deriving DecidableEq, Repr

/-- A Weir slot (R370 to R373): its descriptor's fields, where its flow partition starts, and its kernel. -/
structure WeirSlot where
  domain : Nat
  egress : Bool
  drops : Bool
  lklog2 : Nat
  lkbase : Nat
  flowsz : Nat
  base : Nat
  code : List (BitVec 32)
  halted : Bool := false
  deriving DecidableEq, Repr

/-- A Weir kernel that is processing a packet (R375, R376): the slot, the arrival port (0xFF at egress), the original DST, pc, the registers, the packet
as it stands, the cycles spent, the queued copies with the destination each names, and the WREP in progress: first word, last word, passes left. -/
structure WeirRun where
  slot : Nat
  port : Nat
  orig : Nat
  pc : Nat := 0
  w : FMap (BitVec 256) := []
  x : FMap (BitVec 32) := []
  pkt : Packet
  cyc : Nat := 0
  copies : List (Nat × Packet) := []
  rep : Option (Nat × Nat × Nat) := none
  deriving DecidableEq, Repr

/-- A Weir processor (R369 to R371): its slots, the run in process, and the packets that wait, each with its slot and arrival port. -/
structure Weir where
  slots : FMap WeirSlot := []
  run : Option WeirRun := none
  queue : List (Nat × Nat × Packet) := []
  deriving DecidableEq, Repr

/-- What a context area shard of a checkpoint stands for (R457, R434; the model's own: log entry 20): the context's saved workgroups, grids and counts, and
its Weir slots by port and slot with their flow bytes, and the fabric additions held for it, in order. -/
structure AreaImage where
  ctx : Ctx
  wgs : FMap Workgroup
  grids : FMap Grid
  weirs : List (Nat × Nat × WeirSlot × Nat) := []
  adds : List Arrived := []
  deriving DecidableEq, Repr

/-- A LAUNCH that the distributor has not yet answered (R108 to R111): where its split waits, its result register, the descriptor as read, what
already refuses it, and the list entry's TAG and DONE. -/
structure LaunchReq where
  group : Nat
  slot : Nat
  dreg : Nat
  ctx : Nat
  desc : Desc
  reason : Nat := 0
  gates : List (Nat × Nat) := []
  parent : Option Nat := none
  depth : Nat := 0
  tag : Nat := 0
  doneAt : Nat := 0
  deriving DecidableEq, Repr

/-- One entry of a checkpoint in progress (R458, R461): the shard's address, whether another device holds it, the holder, its offset there, its digest, and
how its claim stands: 0 to be claimed, 1 won and written, 2 lost and awaited, 3 settled. -/
structure CkEntry where
  va : Nat
  loc : Nat := 0
  holder : Nat := 0
  ofs : Nat := 0
  digest : Nat := 0
  claim : Nat := 0
  deriving DecidableEq, Repr

/-- A checkpoint in progress (R459 to R461): its descriptor's fields, its entries, and how far it has come. -/
structure Ckpt where
  ctx : Nat
  base : Nat
  size : Nat
  epoch : Nat
  buddy : Nat
  dirdev : Nat
  dirpa : Nat
  dirlog2 : Nat
  entries : List CkEntry := []
  digest : Nat := 0
  since : Nat := 0
  resume : Bool := false
  asked : Bool := false
  man : Nat := 0
  next : Nat := 0
  code : Nat := 0
  deriving DecidableEq, Repr

/-- A queued control command: the port it came from, its word and the argument register at the write (R351, R364); how far a command of several steps has
come, and its checkpoint. -/
structure Cmd where
  port : Nat
  word : Word
  arg : Word := 0
  phase : Nat := 0
  ck : Option Ckpt := none
  deriving DecidableEq, Repr

/-- The banked registers of one control port (R363). -/
structure Port where
  ctlarg : Word := 0
  ctlcode : Nat := 0
  ltol : Nat := 0
  ctxcode : Nat := 0
  ctxid : Nat := 0
  wstat : Word := 0
  ckstat : Word := 0
  repstat : Word := 0
  wfctx : Nat := 0
  wfent : Nat := 0
  deriving DecidableEq, Repr

/-- A datagram of the management port (R368): where it comes from and where it goes, each an address and a UDP port, and its fields. -/
structure Datagram where
  srcAddr : Nat
  srcPort : Nat
  dstAddr : Nat
  dstPort : Nat
  words : List Nat
  deriving DecidableEq, Repr

/-- One cut register (R439). -/
structure Cut where
  en : Bool := false
  act : Nat := 0
  group : Nat := 0
  rid : Nat := 0
  tidx : Nat := 0
  deriving DecidableEq, Repr

/-- The event a step performs. `event` is one machine operation; the others let a unit issue, or time pass (the model's own; log entry 2). -/
inductive Turn where
  | event (i : Instr)
  | pipe (core pipe : Nat)
  | frontEnd (core quad : Nat)
  | weir (port : Nat)
  | tick (n : Nat)
  deriving DecidableEq, Repr

/-- The state of one package. -/
structure State where
  /- memory: every byte of every space at its flat address (log entry 6) -/
  mem : Memory := []
  poisoned : List Nat := []
  cachePoison : List Nat := []
  uBytes : FMap Nat := []
  /- compute -/
  groups : FMap Group := []
  workgroups : FMap Workgroup := []
  grids : FMap Grid := []
  launches : List LaunchReq := []
  ctxs : FMap Ctx := []
  cores : FMap Core := []
  clusters : FMap Cluster := []
  dies : FMap Die := []
  spillways : FMap (List Spill) := []
  /- coherence and translation -/
  dir : FMap DirEntry := []
  l3 : List (Nat × Bool) := []
  moveQ : List MoveWait := []
  tlb : List TlbEntry := []
  ticket : Nat := 0
  /- fabric -/
  devno : Nat := 0
  peertmo : Nat := 2000
  dead : BitVec 4096 := 0
  domains : FMap Domain := []
  dropcnt : Nat := 0
  seqOut : FMap Nat := []
  unacked : FMap (List Unacked) := []
  triples : FMap Triple := []
  outbox : List Packet := []
  convs : List Conv := []
  convNum : FMap Nat := []
  weirs : FMap Weir := []
  redirs : List Arrived := []
  redirHeld : List Packet := []
  landing : List Packet := []
  eventQ : List EventRec := []
  downPorts : List Nat := []
  /- control space -/
  mode : Nat := 0
  pool : Nat := 64
  ctlPort : Nat := 0
  ctlToken : Nat := 0
  ctlLease : Nat := 0
  ports : FMap Port := []
  ctlQ : List Cmd := []
  ctxQ : List Cmd := []
  wQ : List Cmd := []
  ckQ : List Cmd := []
  repQ : List Cmd := []
  errWindow : Nat := 1000
  errThresh : Nat := 3
  errEvents : List (Nat × Nat) := []
  cuts : FMap Cut := []
  /- recording -/
  reelSize : Nat := 65536
  reelDrain : Nat := 0
  reelMode : Nat := 1
  reels : FMap Reel := []
  closedTakes : List Take := []
  images : FMap AreaImage := []
  manifests : List Ckpt := []
  drBase : Nat := 0
  drSize : Nat := 0
  drCons : Nat := 0
  drProd : Nat := 0
  /- non-volatile store of the security block (R26, R360, R443) -/
  retiredPipes : List Nat := []
  retiring : List Nat := []
  retiredRows : Nat := 0
  retiredWays : List (Nat × Nat × Nat) := []
  retiredHbm : Nat := 0
  retiredPages : List Nat := []
  spareRows : Nat := 0
  laneDrops : Nat := 0
  captureEn : Bool := false
  serialNo : Nat := 0
  rowsDue : List Nat := []
  fwStages : List (Nat × Nat) := []
  fwBanks : FMap Nat := []
  fwActive : Nat := 0
  fwPending : Bool := false
  fwFuse : Nat := 0
  recovery : Bool := false
  mgmtAddr : Nat := 0
  mgmtSources : List Nat := []
  mgmtSeen : FMap (Nat × List Nat) := []
  mgmtOut : List Datagram := []
  /- clocks, power, freeze -/
  clock : Nat := 0
  hubcyc : Nat := 0
  tai : Nat := 0
  ptpLocked : Bool := false
  ptpSince : Nat := 0
  ptpSlew : Int := 0
  ptpRem : Nat := 0
  ptpDomain : Nat := 0
  throttled : Bool := false
  cxlHost : Bool := true
  frozen : Bool := false
  power : FMap Nat := []
  idleFor : FMap Nat := []
  signals : List Nat := []
  /- the model's own: what happens next, who issues, the free values' counter -/
  agenda : List Turn := []
  cursor : Turn := .tick 1
  issuer : Issuer := {}
  free : Nat := 0
  issueNo : Nat := 0
  taiRem : Nat := 0
  deriving DecidableEq, Repr

/-- Module reset (R26): no context, caches and queues empty, every register at the value its rule gives. A value no rule gives is the field's
own default, 0 or empty (log entry 8). The non-volatile store holds no retirement record (log entry 10). -/
def State.reset : State := {}

/-- Why a step stops with a fault. -/
inductive Fault where
  /-- An issue meaning was run with no group or split named as its issuer: no instruction is about to issue there. Safe: `step` never
  does this; it is the answer to a question the manual does not ask. -/
  | noIssuer
  deriving DecidableEq, Repr

/-- Why a step is refused. -/
inductive Refusal where
  /-- The instruction has no meaning in this model yet; raised by exec's arm alone. Safe: nothing follows from it. -/
  | notModelled (mnemonic : String)
  deriving DecidableEq, Repr

end Sys2Proof.Machine
end

