-- ==== Sys2Proof/Machine/Operands.lean ====
section
/-! DEFINITION. Operand forms: how the fields of a compute word name sources and destinations (R33, R34, R264, R265), which
sub-elements are enabled (R42), and how a result reaches a register, a queue or a write-back entry (R30, R142). -/

namespace Sys2Proof.Machine

/-! Rows: 32 threads of 64 bits. -/

/-- Sub-element p of width w of a row (R6, R288). -/
def elemAt (row : Row) (w p : Nat) : Nat := row.toNat / 2 ^ (w * p) % 2 ^ w

/-- Thread t's 64-bit word of a row. -/
def laneAt (row : Row) (t : Nat) : Word := row.extractLsb' (64 * t) 64

/-- A list of width-w values packed, the first lowest. -/
def packN (w : Nat) (l : List Nat) : Nat :=
  match l with
  | [] => 0
  | x :: r => x % 2 ^ w + 2 ^ w * packN w r

/-- One 64-bit word per thread, packed. -/
def rowOf (f : Nat → Nat) : Row := BitVec.ofNat 2048 (packN 64 ((List.range 32).map f))

/-- The same 64 bits in every thread. -/
def splat (x : Word) : Row := rowOf fun _ => x.toNat

/-- All 64 bits of each thread of a mask. -/
def expandT (m : Mask) : Row := rowOf fun t => if m.getLsbD t then 2 ^ 64 - 1 else 0

/-- The threads with some bit set in a row. -/
def threadsOf (r : Row) : Mask :=
  BitVec.ofNat 32 (packN 1 ((List.range 32).map fun t => if laneAt r t = 0 then 0 else 1))

/-- The threads all of whose 64 bits are set in a row. -/
def fullThreads (r : Row) : Mask :=
  BitVec.ofNat 32 (packN 1 ((List.range 32).map fun t => if laneAt r t = BitVec.allOnes 64 then 1 else 0))

/-- The bytes with some bit set in a row (R142). -/
def bytesOf (r : Row) : ByteMask :=
  BitVec.ofNat 256 (packN 1 ((List.range 256).map fun b => if r.extractLsb' (8 * b) 8 = 0#8 then 0 else 1))

/-- `old` with the bits of `new` that `bits` names. -/
def mergeRow (old new bits : Row) : Row := (old &&& ~~~bits) ||| (new &&& bits)

/-- The lowest-numbered thread of a mask. -/
def lowThread (m : Mask) : Option Nat := (List.range 32).find? fun t => m.getLsbD t

/-- Number of threads of a mask. -/
def popMask (m : Mask) : Nat := ((List.range 32).filter fun t => m.getLsbD t).length

/-! Registers. -/

/-- V register r of every thread. -/
def Group.getV (g : Group) (r : Nat) : Row := mgetD g.v r 0
/-- P register r of every thread: thread t holds bits [8t + 7 : 8t]. -/
def Group.getP (g : Group) (r : Nat) : ByteMask := mgetD g.p r 0
/-- S register r. -/
def Group.getS (g : Group) (r : Nat) : Word := mgetD g.s r 0
/-- A register r; A0 reads 0 (R16). -/
def Group.getA (g : Group) (r : Nat) : Word := if r = 0 then 0 else mgetD g.a r 0
/-- D register r; D0 reads 0 (R16). -/
def Group.getD (g : Group) (r : Nat) : BitVec 16 := if r = 0 then 0 else mgetD g.d r 0
/-- The entries of LQn, oldest first. -/
def Group.getLq (g : Group) (n : Nat) : List QEntry := mgetD g.lq n []

/-- Keys of poisoned registers (R414). -/
def pkV (r t : Nat) : Nat := 32 * r + t
/-- Key of a poisoned S register. -/
def pkS (r : Nat) : Nat := 1024 + r
/-- Key of a poisoned A register. -/
def pkA (r : Nat) : Nat := 1056 + r
/-- Key of a poisoned D register. -/
def pkD (r : Nat) : Nat := 1088 + r
/-- Key of a poisoned P register of a thread. -/
def pkP (r t : Nat) : Nat := 2048 + 32 * r + t

/-- A held entry without the threads of `m`; none where it then stands for no thread. -/
def Wb.without (e : Wb) (m : Mask) : Option Wb :=
  if e.mask &&& ~~~m = 0 then none
  else some { e with bits := e.bits &&& ~~~(expandT m), en := e.en &&& ~~~(bytesOf (expandT m)), mask := e.mask &&& ~~~m
                     flags := (List.range 32).map fun t => if m.getLsbD t then 0#8 else e.flags.getD t 0#8 }

/-- The entries of a write-back buffer once a synchronous instruction has written `dest` in the threads of `m`: an entry for it is discarded in
those threads, and leaves the buffer with its last one (R30). -/
def dropWb (es : List Wb) (dest : WbDest) (m : Mask) : List Wb :=
  es.filterMap fun e => if e.dest = dest then e.without m else some e

/-- A V register written by a synchronous instruction in the bits given. -/
def Group.putV (g : Group) (r : Nat) (data bits : Row) : Group :=
  { g with v := mput g.v r (mergeRow (g.getV r) data bits) 0
           wbC := dropWb g.wbC (.v r) (threadsOf bits)
           poison := g.poison.filter fun k => !((List.range 32).any fun t => (fullThreads bits).getLsbD t && k == pkV r t) }

/-- A P register written in the bits given. -/
def Group.putP (g : Group) (r : Nat) (data bits : ByteMask) : Group :=
  { g with p := mput g.p r ((g.getP r &&& ~~~bits) ||| (data &&& bits)) 0
           poison := g.poison.filter fun k => !((List.range 32).any fun t => decide (bits.extractLsb' (8 * t) 8 = 0xFF#8) && k == pkP r t) }

/-- An S register written by a synchronous instruction: a held entry for it is discarded (R30). -/
def Group.putS (g : Group) (r : Nat) (x : Word) : Group :=
  { g with s := mput g.s r x 0, wbC := g.wbC.filter fun e => decide (e.dest ≠ .s r)
           poison := g.poison.filter (· != pkS r) }

/-- An A register written by a synchronous instruction; a write to A0 is discarded (R16), a held entry for the register too (R30). -/
def Group.putA (g : Group) (r : Nat) (x : Word) : Group :=
  if r = 0 then g else
  { g with a := mput g.a r x 0, wbA := g.wbA.filter fun e => decide (e.dest ≠ .a r)
           poison := g.poison.filter (· != pkA r) }

/-- A D register written; a write to D0 is discarded (R16). -/
def Group.putD (g : Group) (r : Nat) (x : BitVec 16) : Group :=
  if r = 0 then g else { g with d := mput g.d r x 0, poison := g.poison.filter (· != pkD r) }

/-- The entries of LQn set. -/
def Group.putLq (g : Group) (n : Nat) (es : List QEntry) : Group := { g with lq := mput g.lq n es [] }

/-- The queue with its first entry of a reservation filled. -/
def fillQ (es : List QEntry) (id : Nat) (data : Row) (en : ByteMask) (poison : Mask) : List QEntry :=
  es.map fun e => if e.resv = id ∧ !e.ready then { e with data := data, en := en, ready := true, poison := poison } else e

/-- The poisoned registers after a commit of one with the keys of what it has written whole: poisoned data keeps them poisoned (R414). -/
def Group.cleaned (g : Group) (whole : List Nat) (bad : Bool) : List Nat :=
  (if bad then whole else []) ++ g.poison.filter fun k => !(decide (k ∈ whole))

/-- One write-back entry committed: the value to the destination for the threads it still stands for, and its flags (R30). -/
def commitOne (g : Group) (e : Wb) : Group :=
  let st := g.stat ||| e.flags.foldl (· ||| ·) 0#8
  match e.dest with
  | .v r => { g with v := mput g.v r (mergeRow (g.getV r) e.data e.bits) 0, stat := st
                     poison := g.cleaned (((List.range 32).filter fun t => (fullThreads e.bits).getLsbD t).map (pkV r)) e.poison }
  | .s r => { g with s := mput g.s r (laneAt e.data 0) 0, stat := st, poison := g.cleaned [pkS r] e.poison }
  | .a r => { g with a := mput g.a r (laneAt e.data 0) 0, stat := st, poison := g.cleaned [pkA r] e.poison }
  | .sq => { g with sq := fillQ g.sq e.id e.data e.en 0, stat := st }
  | .xq => { g with xq := fillQ g.xq e.id e.data e.en 0, stat := st }
  | .none => { g with stat := st }

/-- The compute stream's write-back buffer committed, in issue order. -/
def commitC (g : Group) : Group := { g.wbC.foldl commitOne g with wbC := [] }

/-- The access stream's write-back buffer committed, in issue order. -/
def commitA (g : Group) : Group := { g.wbA.foldl commitOne g with wbA := [] }

/-- Every held entry of a buffer has returned. -/
def allReturned (es : List Wb) : Bool := es.all fun e => e.returned

/-! MODE (R40). -/

/-- MODE.ET. -/
def Group.et (g : Group) : ETy := etyOf (g.mode.extractLsb' 0 4).toNat
/-- MODE.ET2. -/
def Group.et2 (g : Group) : ETy := etyOf (g.mode.extractLsb' 16 4).toNat
/-- MODE.RM. -/
def Group.rm (g : Group) : Rm := rmOf (g.mode.extractLsb' 4 3).toNat
/-- MODE.SAT. -/
def Group.sat (g : Group) : Bool := g.mode.getLsbD 7
/-- MODE.GE. -/
def Group.ge (g : Group) : Bool := g.mode.getLsbD 8
/-- MODE.GP. -/
def Group.gp (g : Group) : Nat := (g.mode.extractLsb' 9 3).toNat
/-- MODE.GN. -/
def Group.gn (g : Group) : Bool := g.mode.getLsbD 12

/-- enabled(t, s) for sub-elements of width w (R42). -/
def Group.enabled (g : Group) (w t s : Nat) : Bool :=
  !g.ge || ((g.getP g.gp).getLsbD (8 * t + s * w / 8) != g.gn)

/-- The live threads of a group (R52). -/
def Group.live (g : Group) : Mask := g.present &&& ~~~g.exited

/-- The compute stream has ended: every present thread has exited (R114). -/
def Group.cend (g : Group) : Bool := decide (g.live = 0)

/-! Sources. -/

/-- An LQ number an operand field names (R33). -/
def lqOf (f : BitVec 6) : Option Nat := if 32 ≤ f.toNat ∧ f.toNat ≤ 35 then some (f.toNat - 32) else none

/-- The LQs the source fields of one instruction name, each once (R34). -/
def lqsOf (fs : List (BitVec 6)) : List Nat := (fs.filterMap lqOf).eraseDups

/-- The row a source field gives under sub-element width w (R33): an LQ gives its head entry. -/
def Group.src (g : Group) (w : Nat) (f : BitVec 6) : Row :=
  let n := f.toNat
  if n < 32 then g.getV n
  else if n < 36 then match g.getLq (n - 32) with
    | [] => 0
    | e :: _ => e.data
  else if n = 40 then rowOf fun t => packN w (List.replicate (64 / w) t)
  else if n = 41 then rowOf fun t => packN w (List.replicate (64 / w) (32 * g.gi + t))
  else if n = 42 then rowOf fun t => packN w ((List.range (64 / w)).map fun s => t * (64 / w) + s)
  else if 48 ≤ n then splat (g.getS (n - 48))
  else 0

/-- The uniform 64-bit value of an operand field that names an S register or ZERO (R34, R93). -/
def Group.srcS (g : Group) (f : BitVec 6) : Word := if 48 ≤ f.toNat then g.getS (f.toNat - 48) else 0

/-! Results. -/

/-- The results of one instruction: for each thread, for each sub-element it computes, the value where it writes one. -/
abbrev Lanes := List (List (Option NumRes))

/-- The results over the enabled sub-elements of the active threads (R264). -/
def lanesOf (mask : Mask) (k : Nat) (en : Nat → Nat → Bool) (f : Nat → Nat → NumRes) : Lanes :=
  (List.range 32).map fun t =>
    if mask.getLsbD t then (List.range k).map fun s => if en t s then some (f t s) else none else []

/-- What an instruction writes: a row, which bits of it are written, which bytes a queue entry enables, each thread's flags, and the threads it computes
for. -/
structure Out where
  data : Row
  bits : Row
  en : ByteMask
  flags : List Flags
  threads : Mask
  deriving DecidableEq, Repr

/-- The results packed at width w (R6, R265). -/
def outOf (w : Nat) (l : Lanes) : Out :=
  let data : Row := BitVec.ofNat 2048 (packN 64 (l.map fun th => packN w (th.map fun o => (o.map NumRes.bits).getD 0)))
  let bits : Row := BitVec.ofNat 2048 (packN 64 (l.map fun th => packN w (th.map fun o => if o.isSome then 2 ^ w - 1 else 0)))
  ⟨data &&& bits, bits, bytesOf bits, l.map fun th => th.foldl (fun acc o => acc ||| (o.map NumRes.flags).getD 0#8) 0#8,
    BitVec.ofNat 32 (packN 1 (l.map fun th => if th.isEmpty then 0 else 1))⟩

/-- A 64-bit result in every active thread, no flag (R34: LIT, PGET, VOTE and the like). -/
def outThreads (mask : Mask) (f : Nat → Nat) : Out :=
  outOf 64 (lanesOf mask 1 (fun _ _ => true) fun t _ => ⟨f t, 0#8⟩)

/-- The union of the flags of a result. -/
def Out.allFlags (o : Out) : Flags := o.flags.foldl (· ||| ·) 0#8

/-- A synchronous result written to a destination field (R33, R265), with its flags (R255). -/
def Group.writeOut (g : Group) (d : BitVec 6) (o : Out) : Group :=
  let g := { g with stat := g.stat ||| o.allFlags }
  let n := d.toNat
  if n < 32 then g.putV n o.data o.bits
  else if n = 36 then { g with sq := g.sq ++ [{ data := o.data, en := o.en }] }
  else if n = 37 then { g with xq := g.xq ++ [{ data := o.data, en := o.en }] }
  else g

/-- An asynchronous result put into the compute stream's write-back buffer; a queue destination reserves its entry (R30, R290). -/
def Group.holdOut (g : Group) (d : BitVec 6) (o : Out) : Group :=
  let n := d.toNat
  let id := g.nextId
  let dest : WbDest := if n < 32 then .v n else if n = 36 then .sq else if n = 37 then .xq else .none
  let e : Wb := { dest := dest, data := o.data, bits := o.bits, en := o.en, flags := o.flags, id := id, mask := o.threads }
  let g := { g with wbC := g.wbC ++ [e], nextId := id + 1 }
  if n = 36 then { g with sq := g.sq ++ [{ ready := false, resv := id }] }
  else if n = 37 then { g with xq := g.xq ++ [{ ready := false, resv := id }] }
  else g

/-- An asynchronous S result (GETS, CLOCK). -/
def Group.holdS (g : Group) (r : Nat) (x : Word) : Group :=
  { g with wbC := g.wbC ++ [{ dest := .s r, data := x.setWidth 2048, id := g.nextId }], nextId := g.nextId + 1 }

/-- An asynchronous A result that is already known (AGETS, CTRGET); A0 discards it (R143). -/
def Group.holdA (g : Group) (r : Nat) (x : Word) : Group :=
  { g with wbA := g.wbA ++ [{ dest := if r = 0 then .none else .a r, data := x.setWidth 2048, id := g.nextId }], nextId := g.nextId + 1 }

/-- The pop of one entry of each LQ of a list (R34). -/
def Group.popLqs (g : Group) (ns : List Nat) : Group := ns.foldl (fun g n => g.putLq n ((g.getLq n).drop 1)) g

/-- The answer of a group-level body: the group it leaves, or a precise trap. -/
inductive GEff where
  | done (g : Group)
  | trap (t : Trap)
  deriving DecidableEq, Repr

/-- ILLEGAL_OP with a detail (R407). -/
def illegal (d : Nat := 0) : Trap := { cause := .illegalOp, detail := d }

end Sys2Proof.Machine
end

