-- ==== Sys2Proof/Machine/Flags.lean ====
section
/-! DEFINITION. STAT and its flags (R43, R255): reading and writing the register, and the flag rules of the operations that raise
them from operands and not from a rounding (compares, minima, sign operations). -/

namespace Sys2Proof.Machine

/-- Flags raised: sticky, none is ever cleared (R43). -/
def Group.raise (g : Group) (f : Flags) : Group := { g with stat := g.stat ||| f }

/-- STAT replaced whole (PUTS, R118). -/
def Group.setStat (g : Group) (f : Flags) : Group := { g with stat := f }

/-- IV where some operand is a signalling NaN (R247, R255). -/
def ivSig (vs : List FVal) : Flags := if vs.any FVal.sig then fIV else 0#8

/-- IV where some operand is a NaN of either kind (ordered compares, R274). -/
def ivNan (vs : List FVal) : Flags := if vs.any FVal.isNan then fIV else 0#8

/-- The result and the flags of a floating-point compare, by function code (R274). -/
def cmpF (fn : Nat) (a b : FVal) : Bool × Flags :=
  let un := a.isNan || b.isNan
  match fn with
  | 0 => (!un && eqF a b, ivSig [a, b])
  | 1 => (un || !eqF a b, ivSig [a, b])
  | 2 => (!un && ltF a b, ivNan [a, b])
  | 3 => (!un && (ltF a b || eqF a b), ivNan [a, b])
  | 4 => (!un && ltF b a, ivNan [a, b])
  | 5 => (!un && (ltF b a || eqF a b), ivNan [a, b])
  | 6 => (un, ivSig [a, b])
  | _ => (!un, ivSig [a, b])

/-- The result of an integer compare, by function code; no flag (R274). -/
def cmpI (fn : Nat) (a b : Int) : Bool :=
  match fn with
  | 0 => decide (a = b)
  | 1 => decide (a ≠ b)
  | 2 => decide (a < b)
  | 3 => decide (a ≤ b)
  | 4 => decide (b < a)
  | _ => decide (b ≤ a)

/-- The flags of SQ and TN a T2 or saturating store raises are those of `storeInt` and `readInt`; this joins the flags of two sources and a
result. -/
def joinFlags (r : NumRes) (f1 f2 : Flags) : NumRes := ⟨r.bits, r.flags ||| f1 ||| f2⟩

end Sys2Proof.Machine
end

