-- ==== Sys2Proof/Machine/Legal.lean ====
section
/-! DEFINITION. Operand legality: which values of a word's fields an instruction accepts whatever the state (R29, R33, R34, R38, R93 and
the instruction's own description). A word that breaks one raises ILLEGAL_OP where it would issue. Limits that depend on MODE or on a
register are checked by the instruction's own meaning. -/

namespace Sys2Proof.Machine

/-- A source field of C3, C4 or CI (R33). -/
def srcOk (f : BitVec 6) : Bool :=
  decide (f.toNat < 36) || decide (f.toNat = 38) || decide (f.toNat = 40) || decide (f.toNat = 41) || decide (f.toNat = 42)
    || decide (48 ≤ f.toNat)

/-- A destination field of a per-thread instruction (R33, R34): a V register, SQ, XQ or ZERO. -/
def dstOk (f : BitVec 6) : Bool := decide (f.toNat < 32) || decide (f.toNat = 36) || decide (f.toNat = 37) || decide (f.toNat = 38)

/-- The field names V0 to V31. -/
def isV (f : BitVec 6) : Bool := decide (f.toNat < 32)

/-- The field names S0 to S15. -/
def isS (f : BitVec 6) : Bool := decide (48 ≤ f.toNat)

/-- The field names ZERO. -/
def isZ (f : BitVec 6) : Bool := decide (f.toNat = 38)

/-- An S register or ZERO. -/
def isSZ (f : BitVec 6) : Bool := isS f || isZ f

/-- A plain number below 8: a P register, a bit or a guard slot. -/
def lt8 (f : BitVec 6) : Bool := decide (f.toNat < 8)

/-- An access scope (R38). -/
def scopeOk (x : Nat) : Bool := decide (x ≤ 5)

/-- An atomic operation code (R38). -/
def atomOpOk (x : Nat) : Bool := decide (x ≤ 12)

/-- With ge = 0 the guard slot must be 0 (R155, R169). -/
def guardOk (g : BitVec 3) (e : BitVec 1) : Bool := decide (e = 1#1) || decide (g = 0#3)

/-- A source field that an asynchronous SFU instruction may write to: V or ZERO (R267). -/
def sfuDst (d : BitVec 6) : Bool := isV d || isZ d

/-- The block code of QNT and DQNT: c[2:0] is 1 to 4 (R284). -/
def qntOk (d a b : BitVec 6) (k : BitVec 3) : Bool :=
  isV d && isV a && isV b && decide (1 ≤ k.toNat) && decide (k.toNat ≤ 4)

end Sys2Proof.Machine
end

