-- ==== Sys2Proof/Machine/Place.lean ====
section
/-! DEFINITION. Where things are: the numbering of units (R11 to R14), the devices of each package mode (R344), physical addresses and the
reserved part of a device (R20, R346, R472), and the one flat byte address every place of the package has in the model's memory
(log entry 6): HBM4E stack s at s·2^36, host memory at 2^56, a DIE scratchpad at 2^60 + die·2^32, a CLUS scratchpad at 2^61 + cluster·2^24,
a CORE scratchpad at 2^62 + core·2^20, a core's private slices at 2^63 + core·2^20, the BPM at 2^64, Weir flow state at 2^65 + port·2^20,
and accumulator cells at 2^66 + cluster·2^20. -/

namespace Sys2Proof.Machine

/-- Bits [hi:lo] of a number. -/
def bits (x hi lo : Nat) : Nat := x / 2 ^ lo % 2 ^ (hi + 1 - lo)

/-- The line that holds a byte. -/
def lineOf (a : Nat) : Nat := a / 128 * 128

/-- The die of a cluster (R13). -/
def clusterDie (cl : Nat) : Nat := if cl < 192 then 1 + cl / 48 else 5 + (cl - 192) / 120

/-- The number of a cluster within its die (R13). -/
def clusterInDie (cl : Nat) : Nat := if cl < 192 then cl % 48 else (cl - 192) % 120

/-- The clusters of a die (R11, R13). -/
def clustersOf (die : Nat) : Nat := if die = 0 then 0 else if die ≤ 4 then 48 else if die ≤ 8 then 120 else 0

/-- The lowest cluster of a die (R13). -/
def firstCluster (die : Nat) : Nat := if die ≤ 4 then 48 * (die - 1) else 192 + 120 * (die - 5)

/-- An M-die (R11). -/
def isMdie (die : Nat) : Bool := decide (1 ≤ die) && decide (die ≤ 4)

/-- A group's number in the model: 128 × core + group slot (R13). -/
def gidOf (core slot : Nat) : Nat := 128 * core + slot

/-- The core of a group. -/
def gCore (gid : Nat) : Nat := gid / 128
/-- The cluster of a group. -/
def gCluster (gid : Nat) : Nat := gid / 512
/-- The die of a group. -/
def gDie (gid : Nat) : Nat := clusterDie (gCluster gid)

/-- The location word of thread t of a group (R14). -/
def locOf (gid t : Nat) : Nat :=
  let cl := gCluster gid
  let slot := gid % 128
  clusterDie cl * 2 ^ 28 + cl * 2 ^ 18 + gCore gid % 4 * 2 ^ 16 + slot / 32 * 2 ^ 14 + slot / 2 % 16 * 2 ^ 10 + slot % 2 * 2 ^ 9 + t * 16

/-- The number of devices of a package mode (R344). -/
def devCount (mode : Nat) : Nat := if mode = 0 then 1 else if mode = 1 then 2 else 8

/-- The dies of a device (R344). -/
def devDies (mode dev : Nat) : List Nat :=
  if mode = 0 then [1, 2, 3, 4, 5, 6, 7, 8]
  else if mode = 1 then (if dev = 0 then [1, 2, 5, 6] else [3, 4, 7, 8])
  else [dev + 1]

/-- The device of a die (R344). -/
def dieDev (mode die : Nat) : Nat :=
  if mode = 0 then 0 else if mode = 1 then (if die = 1 ∨ die = 2 ∨ die = 5 ∨ die = 6 then 0 else 1) else die - 1

/-- The stacks of a device, in the order s_0, s_1, … (R344). -/
def devStacks (mode dev : Nat) : List Nat :=
  if mode = 0 then List.range 16
  else if mode = 1 then (List.range 8).map (8 * dev + ·)
  else (List.range 4).map (4 * (dev % 4) + ·)

/-- A device's memory in bytes (R344). -/
def devBytes (mode : Nat) : Nat := if mode = 0 then 2 ^ 40 else if mode = 1 then 2 ^ 39 else 2 ^ 37

/-- The flat address of a device physical address (R346). -/
def flatHbm (mode dev pa : Nat) : Nat :=
  let ss := devStacks mode dev
  let g := pa / 4096
  let off := g / ss.length * 4096 + pa % 4096
  ss.getD (g % ss.length) 0 * 2 ^ 36 + (if mode = 2 ∧ dev < 4 then off + 2 ^ 35 else off)

/-- The lowest reserved physical address of each device (R20, R472). -/
def State.rsvlo (st : State) : Nat :=
  devBytes st.mode - 65536 * st.reelSize - 2 ^ 30 - 2 ^ 28 - st.pool * 2 ^ 30

/-- The physical address of a reel's first byte, on each device (R20, R428). -/
def State.reelBase (st : State) : Nat := devBytes st.mode - 65536 * st.reelSize

/-- The flat address of a 56-bit physical address of a leaf (R328, R346). -/
def State.flatPa (st : State) (dev pa : Nat) : Nat :=
  if pa / 2 ^ 55 % 2 = 1 then 2 ^ 56 + pa % 2 ^ 55 else flatHbm st.mode dev (pa % 2 ^ 40)

/-- The flat address of a slot of a die's trace ring (R453), in the system region of its device, below the reel and the translation table (R20). Where in the region
the rings lie is not given: die d's stands 16 MiB × d above its start (DESIGN CHOICE: log entry 22). -/
def State.ringAt (st : State) (die pos : Nat) : Nat :=
  st.flatPa (if die = 0 then 0 else dieDev st.mode die) (st.reelBase - 2 ^ 30 - 2 ^ 28 + 2 ^ 24 * die + 32 * pos)

/-- The physical address by which a leaf of a device names a flat address of GLOB (R328, R346); none where no leaf of the device can. -/
def State.physOf (st : State) (dev a : Nat) : Option Nat :=
  if 2 ^ 56 ≤ a then some (2 ^ 55 + (a - 2 ^ 56))
  else
    let ss := devStacks st.mode dev
    let half := if st.mode = 2 then 2 ^ 35 else 2 ^ 36
    let base := if st.mode = 2 ∧ dev < 4 then 2 ^ 35 else 0
    let o := a % 2 ^ 36
    match (List.range ss.length).find? fun i => decide (ss.getD i 0 = a / 2 ^ 36) with
    | some i => if base ≤ o ∧ o < base + half then some (((o - base) / 4096 * ss.length + i) * 4096 + o % 4096) else none
    | none => none

/-- Flat address of a byte of a die scratchpad. -/
def flatDie (die off : Nat) : Nat := 2 ^ 60 + die * 2 ^ 32 + off
/-- Flat address of a byte of a cluster-shared scratchpad. -/
def flatClus (cl off : Nat) : Nat := 2 ^ 61 + cl * 2 ^ 24 + off
/-- Flat address of a byte of a core scratchpad. -/
def flatCore (core off : Nat) : Nat := 2 ^ 62 + core * 2 ^ 20 + off
/-- Flat address of a byte of a thread's private slice: 64 bytes per thread of the group slot. -/
def flatPriv (gid t off : Nat) : Nat := 2 ^ 63 + gCore gid * 2 ^ 20 + gid % 128 * 2048 + t * 64 + off
/-- Flat address of a byte of the board persistence module. -/
def flatBpm (off : Nat) : Nat := 2 ^ 64 + off
/-- Flat address of a byte of a port's Weir flow state. -/
def flatFlow (port off : Nat) : Nat := 2 ^ 65 + port * 2 ^ 20 + off
/-- Flat address of an accumulator cell. -/
def flatAcc (cl row col : Nat) : Nat := 2 ^ 66 + cl * 2 ^ 20 + row * 4096 + 4 * col

/-- A place of GLOB: HBM4E or host memory. -/
def isGlob (a : Nat) : Bool := decide (a < 2 ^ 60)

/-- The dies whose loss loses a flat address: a B-die for its stacks, through whose controllers every access to them passes (R22), in DIES also the M-die whose L2
homes the upper half of its pair's stacks (R347), a die for its own scratchpads (R416). -/
def State.ownerDies (st : State) (a : Nat) : List Nat :=
  if a < 2 ^ 40 then (5 + a / 2 ^ 36 / 4) :: (if st.mode = 2 ∧ a % 2 ^ 36 / 2 ^ 35 = 1 then [1 + a / 2 ^ 36 / 4] else [])
  else if 2 ^ 60 ≤ a ∧ a < 2 ^ 61 then [a / 2 ^ 32 % 16]
  else []

/-- A device's reel (R428). -/
def State.reel (st : State) (dev : Nat) : Reel := mgetD st.reels dev {}
/-- The reserved parts built again where they now lie (R20, R345, R428): the reels and the trace rings hold nothing, and no count of theirs falls. -/
def State.rebuilt (st : State) : State :=
  { st with reels := mmap st.reels fun _ r => { r with dp := r.wp, op := r.wp, takes := [] }
            dies := mmap st.dies fun _ (d : Die) => { d with ring := [], trpos := 0 } }
/-- The state with a device's reel changed. -/
def State.updReel (st : State) (dev : Nat) (f : Reel → Reel) : State := { st with reels := mset st.reels dev (f (st.reel dev)) }
/-- A die's record. -/
def State.die (st : State) (d : Nat) : Die := mgetD st.dies d {}
/-- A core's record: one with nothing of its own stands at its die's FLOOR (R204). -/
def State.core (st : State) (c : Nat) : Core := mgetD st.cores c { pts := (st.die (clusterDie (c / 4))).floor }
/-- Cycles in which a core's clock has run since module reset (R119): the cores of a die share one clock. -/
def State.coreCyc (st : State) (c : Nat) : Nat := (st.die (clusterDie (c / 4))).cycles
/-- A cluster's record. -/
def State.cluster (st : State) (c : Nat) : Cluster := mgetD st.clusters c {}
/-- The state with a die's record changed. -/
def State.updDie (st : State) (d : Nat) (f : Die → Die) : State := { st with dies := mset st.dies d (f (st.die d)) }
/-- The state with a core's record changed. -/
def State.updCore (st : State) (c : Nat) (f : Core → Core) : State := { st with cores := mset st.cores c (f (st.core c)) }
/-- The state with a cluster's record changed. -/
def State.updCluster (st : State) (c : Nat) (f : Cluster → Cluster) : State := { st with clusters := mset st.clusters c (f (st.cluster c)) }
/-- The state with a group's record replaced. -/
def State.putGroup (st : State) (gid : Nat) (g : Group) : State := { st with groups := mset st.groups gid g }
/-- The state with a group's record changed. -/
def State.updGroup (st : State) (gid : Nat) (f : Group → Group) : State := { st with groups := mupd st.groups gid f }
/-- The state with a workgroup's record changed. -/
def State.updWg (st : State) (w : Nat) (f : Workgroup → Workgroup) : State := { st with workgroups := mupd st.workgroups w f }
/-- The state with a context's record changed. -/
def State.updCtx (st : State) (c : Nat) (f : Ctx → Ctx) : State := { st with ctxs := mupd st.ctxs c f }
/-- The state with a grid's record changed. -/
def State.updGrid (st : State) (k : Nat) (f : Grid → Grid) : State := { st with grids := mupd st.grids k f }

/-- A workgroup's record of a group, or a record of nothing. -/
def State.wgOf (st : State) (g : Group) : Workgroup := mgetD st.workgroups g.wg { ctx := 0, grid := 0 }
/-- The context number of a group. -/
def State.ctxOf (st : State) (g : Group) : Nat := (st.wgOf g).ctx
/-- A context's record, or a record of nothing. -/
def State.ctx (st : State) (c : Nat) : Ctx := mgetD st.ctxs c {}
/-- The key of a grid: context × 2^32 + GRID. -/
def gridKey (ctx gid : Nat) : Nat := ctx * 2 ^ 32 + gid
/-- The key of a workgroup: context × 2^39 + serial. -/
def wgKey (ctx serial : Nat) : Nat := ctx * 2 ^ 39 + serial
/-- The grid of a workgroup, or a record of nothing. -/
def State.gridOf (st : State) (w : Workgroup) : Grid := mgetD st.grids (gridKey w.ctx w.grid) { ctx := 0, gid := 0, base := 0, desc := {} }

/-- The global identifier of thread 0 of a group (R51, R44). -/
def State.gtid0 (st : State) (g : Group) : Nat := ((st.wgOf g).serial * 16 + g.gi) * 32

/-- The groups of one workgroup, with their numbers, in order of group index. -/
def State.groupsOf (st : State) (w : Nat) : List (Nat × Group) := st.groups.filter fun e => e.2.wg = w

/-- The groups of one context. -/
def State.ctxGroups (st : State) (c : Nat) : List (Nat × Group) := st.groups.filter fun e => (st.ctxOf e.2) = c

end Sys2Proof.Machine
end

