-- ==== Sys2Proof/Machine/Record.lean ====
section
/-! DEFINITION. Recording and replay as one gate (R418 to R425): a decision a recorder logs passes the gate; a recording context appends
its record to the recorder's open take, a replaying context lets the decision pass only as its log says, and any other context
passes it unlogged. Trace records and the trace rings (R451 to R454) stand here too. -/

namespace Sys2Proof.Machine

/-- Words of a take's records, padding none (R422). -/
def takeWords (rs : List (List Nat)) : Nat := rs.foldl (fun n r => n + r.length) 0

/-- A SCHED record (R422, R423). -/
def recSched (arb unit choice : Nat) (serial : Option Nat) : List Nat :=
  let w0 := 1 * 2 ^ 60 + (if serial.isSome then 1 else 0) * 2 ^ 55 + arb * 2 ^ 51 + unit % 2048 * 2 ^ 40 + choice % 256 * 2 ^ 32 + 1
  match serial with
  | some n => [w0, n % 2 ^ 39]
  | none => [w0]

/-- A HOME record of a scratchpad (R422). -/
def recScratch (space port req : Nat) : List Nat := [3 * 2 ^ 60 + space * 2 ^ 53 + port % 256 * 2 ^ 45 + req % 256 * 2 ^ 37 + 1]

/-- A TRAP record (R422). -/
def recTrap (cause group : Nat) (acc : Bool) (icnt : Nat) : List Nat :=
  [7 * 2 ^ 60 + cause * 2 ^ 47 + group % 512 * 2 ^ 38 + (if acc then 1 else 0) * 2 ^ 37 + icnt % 2 ^ 37]

/-- A CDC record (R422). -/
def recCdc (src group : Nat) (acc : Bool) (icnt v : Nat) : List Nat :=
  [8 * 2 ^ 60 + 2 ^ 55 + src * 2 ^ 51 + group % 512 * 2 ^ 38 + (if acc then 1 else 0) * 2 ^ 37 + icnt % 2 ^ 37, v]

/-- A VALUE record (R422). -/
def recValue (group : Nat) (acc : Bool) (icnt line data : Nat) : List Nat :=
  [9 * 2 ^ 60 + 17 * 2 ^ 55 + group % 512 * 2 ^ 38 + (if acc then 1 else 0) * 2 ^ 37 + icnt % 2 ^ 37, line / 128 % 2 ^ 45]
    ++ (List.range 16).map fun i => data / 2 ^ (64 * i) % 2 ^ 64

/-- A SEQ record (R422). -/
def recSeq (kind ticket loc icnt : Nat) : List Nat := [5 * 2 ^ 60 + 2 ^ 55 + kind * 2 ^ 51 + ticket % 2 ^ 32, loc + icnt % 2 ^ 32 * 2 ^ 32]

/-- A MARK record (R422). -/
def recMark (kind arg : Nat) : List Nat := [10 * 2 ^ 60 + kind * 2 ^ 51 + arg % 2 ^ 32]

/-- A context that logs: RECORDED or STRICT, and not replaying (R418, R436). -/
def State.recording (st : State) (c : Nat) : Bool :=
  match mget st.ctxs c with
  | some x => decide (2 ≤ x.det) && x.replay.isNone
  | none => false

/-- The die of a recorder (R419): a cluster's or a die distributor's, 0 for the hub's. -/
def ridDie (rid : Nat) : Nat := if rid < 672 then clusterDie rid else if 711 ≤ rid ∧ rid ≤ 718 then rid - 710 else 0

/-- The cycle count a take header holds (R420). -/
def State.takeCycle (st : State) (rid : Nat) : Nat :=
  if rid < 672 then st.coreCyc (4 * rid)
  else if 711 ≤ rid ∧ rid ≤ 718 then st.coreCyc (4 * firstCluster (rid - 710))
  else st.hubcyc

/-- The open take of a recorder closed with the flags given; an empty one is never written (R421). -/
def State.closeTake (st : State) (c rid flags : Nat) : State :=
  match mget (st.ctx c).takes rid with
  | some t =>
    let st := st.updCtx c fun x => { x with takes := merase x.takes rid }
    if t.recs = [] then st else { st with closedTakes := st.closedTakes ++ [{ t with flags := t.flags ||| flags }] }
  | none => st

/-- Every open take of a context closed (R421). -/
def State.closeTakes (st : State) (c flags : Nat) : State := (st.ctx c).takes.foldl (fun s e => s.closeTake c e.1 flags) st

/-- The open take of a recorder, opened if there is none (R420, R421). -/
def State.openTake (st : State) (c rid : Nat) : State :=
  match mget (st.ctx c).takes rid with
  | some _ => st
  | none =>
    let n := mgetD (st.ctx c).tidx rid 0
    let t : Take := { rid := rid, tidx := n, cycle := st.takeCycle rid, ltime := (st.die (ridDie rid)).maxT
                      flags := if n = 0 then 1 else 0, epoch := (st.ctx c).epoch.getD 0, ctx := c, die := ridDie rid, dev := (st.ctx c).dev
                      recs := if n = 0 ∧ (st.ctx c).epoch.isSome then [recMark 0 ((st.ctx c).epoch.getD 0)] else [] }
    st.updCtx c fun x => { x with takes := mset x.takes rid (if ridDie rid = 0 then { t with ltime := 0 } else t), tidx := mset x.tidx rid (n + 1) }

/-- A record counts consecutive equal choices: SCHED of ARB 0 to 3 and 10, and scratchpad HOME (R422, R423). -/
def counts (r : List Nat) : Bool :=
  match r with
  | w :: _ =>
    let ty := w / 2 ^ 60
    let arb := bits w 54 51
    (decide (ty = 1) && (decide (arb ≤ 3) || decide (arb = 10))) || decide (ty = 3)
  | [] => false

/-- What names the unit of a counting record, all but its choice and RUN. -/
def unitKey (r : List Nat) : Nat :=
  match r with
  | w :: _ => if w / 2 ^ 60 = 3 then w / 2 ^ 45 else w / 2 ^ 40
  | [] => 0

/-- The records with a counting record joined to the unit's last one where that made the same choice (R423). -/
def joinRun (rs : List (List Nat)) (r : List Nat) : Option (List (List Nat)) :=
  match rs with
  | [] => none
  | q :: rest =>
    if counts q && unitKey q == unitKey r then
      match q, r with
      | w :: _, v :: _ => if w / 2 ^ 32 = v / 2 ^ 32 ∧ w % 2 ^ 32 < 2 ^ 32 - 1 then some ([w + 1] :: rest) else none
      | _, _ => none
    else (joinRun rest r).map (q :: ·)

/-- A record appended to a recorder's log (R421, R422). -/
def State.append (st : State) (c rid : Nat) (r : List Nat) : State :=
  let st := st.openTake c rid
  match mget (st.ctx c).takes rid with
  | none => st
  | some t =>
    match (if counts r then joinRun t.recs r else none) with
    | some rs => st.updCtx c fun x => { x with takes := mset x.takes rid { t with recs := rs } }
    | none =>
      if 4096 < 32 + 8 * (takeWords t.recs + r.length) then
        let st := (st.closeTake c rid 0).openTake c rid
        st.updCtx c fun x => { x with takes := mupd x.takes rid fun t => { t with recs := r :: t.recs } }
      else st.updCtx c fun x => { x with takes := mset x.takes rid { t with recs := r :: t.recs } }

/-- The first record of a log that a test selects. -/
def nextRec (l : List (Nat × List Nat)) (sel : List Nat → Bool) : Option (Nat × List Nat) := l.find? fun e => sel e.2

/-- The log with the first selected record used once: a counting record gives up one of its RUN (R423). -/
def useRec (l : List (Nat × List Nat)) (sel : List Nat → Bool) : List (Nat × List Nat) :=
  match l with
  | [] => []
  | e :: rest =>
    if sel e.2 then
      match e.2 with
      | [w] => if counts [w] && decide (1 < w % 2 ^ 32) then (e.1, [w - 1]) :: rest else rest
      | _ => rest
    else e :: useRec rest sel

/-- What a record places: its recorder, its type, and the unit, line, counter or stream whose decisions it orders (R424, R425). -/
def recUnit (rid : Nat) (r : List Nat) : Nat :=
  let w := r.headD 0
  let ty := w / 2 ^ 60
  let k := if ty = 1 then bits w 54 40 else if ty = 2 then bits w 52 48 else if ty = 3 then bits w 54 45 else if ty = 6 then (if bits w 54 53 = 0 then 0 else 1 + bits w 37 36)
    else if 7 ≤ ty then bits w 46 37 else 0
  (rid * 16 + ty) * 2 ^ 16 + k

/-- The record words of a take, first record first. -/
def Take.words (t : Take) : List Nat := t.recs.reverse.flatten

/-- LEN: header and records. -/
def Take.len (t : Take) : Nat := 32 + 8 * t.words.length

/-- A length rounded up to 128 bytes. -/
def up128 (n : Nat) : Nat := (n + 127) / 128 * 128

/-- Bytes of the reel. -/
def State.reelZ (st : State) : Nat := 65536 * st.reelSize

/-- The device whose reel a take goes to (R428): its context's, or device 0 where MODESET has taken that device away. -/
def State.takeDev (st : State) (t : Take) : Nat := if t.dev < devCount st.mode then t.dev else 0

/-- The oldest closed take that waits for a device's reel. -/
def State.nextTake (st : State) (dev : Nat) : Option Take := st.closedTakes.find? fun t => decide (st.takeDev t = dev)

/-- The recorders of a device stall: its next take waits for the drain in LOSSLESS mode (R429, R430). -/
def State.stalled (st : State) (dev : Nat) : Bool :=
  match st.nextTake dev with
  | none => false
  | some t =>
    let n := up128 t.len
    let r := st.reel dev
    let gap := st.reelZ - r.wp % st.reelZ
    decide (st.reelMode = 1) && decide (r.dp + st.reelZ < r.wp + (if gap < n then gap + n else n))

/-- A cut point armed at a take that a replaying recorder has not begun yet holds back what it would obey of that take and of later ones (R439). -/
def State.cutHere (st : State) (r : Replay) (rid tidx : Nat) : Bool :=
  st.cuts.any fun e => e.2.en && decide (e.2.rid = rid) && decide (mgetD r.taken rid 0 ≤ e.2.tidx) && decide (e.2.tidx ≤ tidx)

/-- The gate of R425: recording appends `mk`; replaying takes the recorder's next record that `sel` selects, where `ok` allows it, and
none stands for "wait"; otherwise, and outside the log (R440), the decision passes as `mk`; a recorder that stalls lets none pass (R430). The record obeyed comes back. -/
def State.gate (st : State) (c rid : Nat) (sel ok : List Nat → Bool) (mk : List Nat) : Option (State × List Nat) :=
  match mget st.ctxs c with
  | none => some (st, mk)
  | some x =>
    match x.replay with
    | some rp =>
      if rp.off then some (st, mk) else
      let l := mgetD rp.logs rid []
      match nextRec l sel with
      | none => none
      | some (ti, r) =>
        if ok r && !st.cutHere rp rid ti then
          some (st.updCtx c fun x => { x with replay := some { rp with
            logs := mset rp.logs rid (useRec l sel), wait := mset rp.wait (recUnit rid r) st.clock
            taken := mset rp.taken rid (max (mgetD rp.taken rid 0) (ti + 1)) } }, r)
        else none
    | none => if 2 ≤ x.det then (if st.stalled x.dev then none else some (st.append c rid mk, mk)) else some (st, mk)

/-- What follows stands outside the log of a context that replays, or inside it again (R440). -/
def State.logOff (st : State) (c : Nat) (off : Bool) : State :=
  if (st.ctx c).replay.isSome then st.updCtx c fun x => { x with replay := x.replay.map fun (r : Replay) => { r with off := off } } else st

/-- A scheduling choice of a unit (R423). -/
def State.sched (st : State) (c rid arb unit choice : Nat) (serial : Option Nat) : Option State :=
  let mk := recSched arb unit choice serial
  let same := fun (r : List Nat) => match r with
    | w :: _ => decide (w / 2 ^ 60 = 1) && decide (bits w 54 51 = arb) && decide (bits w 50 40 = unit % 2048)
    | [] => false
  (st.gate c rid same (fun r => decide (bits (r.headD 0) 39 32 = choice % 256) && decide (r.tail = mk.tail)) mk).map (·.1)

/-- The order of service at a scratchpad (R424). -/
def State.scratch (st : State) (c rid space port req : Nat) : Option State :=
  let mk := recScratch space port req
  let same := fun (r : List Nat) => match r with
    | w :: _ => decide (w / 2 ^ 60 = 3) && decide (bits w 54 53 = space) && decide (bits w 52 45 = port % 256)
    | [] => false
  (st.gate c rid same (fun r => decide (bits (r.headD 0) 44 37 = req % 256)) mk).map (·.1)

/-- The number a record gives a group: core × 128 + slot within the recorder's cluster (R424). -/
def recGroup (gid : Nat) : Nat := gid % 512

/-- A cut point holds back a TRAP, CDC or VALUE record that a stream's instruction `icnt` obeys (R439). -/
def State.cutStream (st : State) (c gid : Nat) (acc : Bool) (icnt : Nat) : Bool :=
  match (st.ctx c).replay with
  | none => false
  | some r => !r.off && (mgetD r.logs (gCluster gid) []).any fun e =>
      let w := e.2.headD 0
      decide (7 ≤ w / 2 ^ 60) && decide (w / 2 ^ 60 ≤ 9) && decide (bits w 46 38 = recGroup gid) && decide (bits w 37 37 = if acc then 1 else 0)
        && decide (w % 2 ^ 37 = icnt % 2 ^ 37) && st.cutHere r (gCluster gid) e.1

/-- A value that crosses a clock domain: logged as CDC, and on replay the logged value is the one returned (R425). -/
def State.cdc (st : State) (c gid : Nat) (acc : Bool) (icnt src v : Nat) : Option (State × Nat) :=
  let mk := recCdc src (recGroup gid) acc icnt v
  let same := fun (r : List Nat) => decide (r.headD 0 / 2 ^ 60 = 8) && decide (bits (r.headD 0) 46 37 = bits (mk.headD 0) 46 37)
  (st.gate c (gCluster gid) same (fun r => decide (r.headD 0 = mk.headD 0)) mk).map fun p => (p.1, p.2.getD 1 0)

/-- A deferred, waiter or asynchronous trap, a pre-emption, a parking or a restore (R408, R422). -/
def State.trapRec (st : State) (c gid : Nat) (acc : Bool) (icnt cause : Nat) : Option State :=
  let mk := recTrap cause (recGroup gid) acc icnt
  let same := fun (r : List Nat) => decide (r.headD 0 / 2 ^ 60 = 7) && decide (bits (r.headD 0) 46 37 = bits (mk.headD 0) 46 37)
  (st.gate c (gCluster gid) same (fun r => decide (r = mk)) mk).map (·.1)

/-- A request at the global sequencer: the ticket it takes (R190, R78, R239). -/
def State.seqTicket (st : State) (c kind loc icnt : Nat) : Option (State × Nat) :=
  let mk := recSeq kind st.ticket loc icnt
  let same := fun (r : List Nat) => decide (r.headD 0 / 2 ^ 60 = 5)
  (st.gate c 672 same (fun r => decide (bits (r.headD 0) 54 51 = kind) && decide (r.getD 1 0 = mk.getD 1 0)) mk).map fun p =>
    ({ p.1 with ticket := st.ticket + 1 }, st.ticket)

/-- A tracked load of a line whose U bit is set: the bytes it returns, logged, or as logged (R426). A replayed read with no VALUE record
of its own line and ICNT returns what memory holds; one whose record a cut point holds back is not performed (`State.cutStream`). -/
def State.value (st : State) (c gid : Nat) (acc : Bool) (icnt line data : Nat) : State × Nat :=
  let mk := recValue (recGroup gid) acc icnt line data
  match mget st.ctxs c with
  | none => (st, data)
  | some x =>
    match x.replay with
    | some rp =>
      if rp.off then (st, data) else
      let same := fun (r : List Nat) => decide (r.headD 0 = mk.headD 0) && decide (r.getD 1 0 = mk.getD 1 0)
      match st.gate c (gCluster gid) same (fun _ => true) mk with
      | some (st, r) => (st, (r.drop 2).foldr (fun w n => w + 2 ^ 64 * n) 0)
      | none => (st, data)
    | none =>
      if 2 ≤ x.det ∧ mgetD st.uBytes line 0 ≠ 0 then (st.append c (gCluster gid) mk, data) else (st, data)

/-! Trace rings. -/

/-- Slots of a trace ring (R453). -/
def ringSize : Nat := 524288

/-- A record's 32 bytes (R451). -/
def TraceRec.word (r : TraceRec) : Nat :=
  r.time % 2 ^ 64 + r.cls % 2 ^ 16 * 2 ^ 64 + ((if r.pin then 1 else 0) + (if r.unlocked then 2 else 0) + (if r.replay then 4 else 0)) * 2 ^ 80
    + r.ctx % 2 ^ 8 * 2 ^ 88 + r.loc % 2 ^ 32 * 2 ^ 96 + r.pay % 2 ^ 128 * 2 ^ 128

/-- The record in a slot has PIN. -/
def State.slotPinned (st : State) (die pos : Nat) : Bool := decide (st.mem.read (st.ringAt die pos + 10) 1 % 2 = 1)

/-- The slots of a ring that hold pinned records, each with its record's number. -/
def State.pinned (st : State) (die : Nat) : List (Nat × Nat) := (st.die die).ring.filter fun e => st.slotPinned die e.1

/-- A ring's oldest pinned record loses PIN. -/
def State.unpin (st : State) (die : Nat) : State :=
  match (st.pinned die).find? fun e => (st.pinned die).all fun q => decide (e.2 ≤ q.2) with
  | some e => { st with mem := st.mem.write (st.ringAt die e.1 + 10) 1 (st.mem.read (st.ringAt die e.1 + 10) 1 - 1) }
  | none => st

/-- The slot the next record goes to: pinned slots are skipped, and where more than 65,536 pinned records stand the oldest loses its PIN
when the skip reaches a pinned one (R453). -/
def State.ringSlot (fuel : Nat) (st : State) (die pos : Nat) : State × Nat :=
  match fuel with
  | 0 => (st, pos)
  | n + 1 =>
    let here := fun (s : State) => (mget (s.die die).ring pos).isSome && s.slotPinned die pos
    if here st then
      let st := if 65536 < (st.pinned die).length then st.unpin die else st
      if here st then State.ringSlot n st die ((pos + 1) % ringSize) else (st, pos)
    else (st, pos)

/-- One record written into a die's ring, an unread record it overwrites counted as lost (R453). -/
def State.ringPut (st : State) (die : Nat) (r : TraceRec) : State :=
  let (st, pos) := st.ringSlot ((st.die die).ring.length + 1) die (st.die die).trpos
  let d := st.die die
  let lost := (mget d.ring pos).any fun no => decide (d.trrp ≤ no)
  ({ st with mem := st.mem.write (st.ringAt die pos) 32 r.word }).updDie die fun d =>
    { d with ring := mset d.ring pos d.trwp, trwp := d.trwp + 1, trpos := (pos + 1) % ringSize
             trlost := if lost then d.trlost + 1 else d.trlost, trDropped := if lost then d.trDropped + 1 else d.trDropped }

/-- A trace record formed on a die: filtered by TRCTL, preceded by a DROPPED record where records were lost (R452 to R454). -/
def State.trace (st : State) (die cls : Nat) (ctx : Option Nat) (loc pay : Nat) : State :=
  let d := st.die die
  let pin := decide (cls = 3) || decide (cls = 8)
  if (d.trctl % 2 = 1 ∧ bits d.trctl (cls + 0) cls = 1) ∨ cls = 3 ∨ cls = 7 ∨ cls = 8 then
    let rp := match ctx with
      | some c => (st.ctx c).replay.isSome
      | none => false
    let r : TraceRec := { time := st.tai, cls := cls, pin := pin, unlocked := !st.ptpLocked, replay := rp, ctx := ctx.getD 255, loc := loc, pay := pay }
    let st := if d.trDropped = 0 then st else
      (st.updDie die fun d => { d with trDropped := 0 }).ringPut die
        { time := st.tai, cls := 7, pin := false, unlocked := !st.ptpLocked, replay := false, ctx := 255, loc := 0, pay := d.trDropped }
    st.ringPut die r
  else st

/-- A pinned FAULT record: the cause, a second cause or 0, and TINFO or TADDR (R452). -/
def State.faultRec (st : State) (die ctx loc c1 c2 info : Nat) : State := st.trace die 3 (some ctx) loc (c1 + 256 * c2 + 2 ^ 64 * info)

end Sys2Proof.Machine
end

