-- ==== Sys2Proof/Machine/Mem.lean ====
section
/-! DEFINITION. Bytes at their flat addresses: reads, and the one write every unit's store ends in. A write clears the poison of the units
it covers (R414), keeps the U bit's bytes (R426), drops the translations read from the lines it changes (R209, R335), and marks the
waits whose condition it makes hold (R103, R104, R74). -/

namespace Sys2Proof.Machine

/-- The poison unit that holds a byte: a line of GLOB, a cell of an accumulator (R320), an 8-byte word of a scratchpad (R414). -/
def poisonUnit (a : Nat) : Nat × Nat := if isGlob a then (lineOf a, 128) else if 2 ^ 66 ≤ a then (a / 4 * 4, 4) else (a / 8 * 8, 8)

/-- Some byte of a range lies in a poisoned unit. -/
def State.poisonedAt (st : State) (a n : Nat) : Bool :=
  st.poisoned.any fun u => decide (u < a + n) && decide (a < u + (poisonUnit u).2)

/-- The unit code of ECC_UNCORR for a place: a scratchpad, an accumulator, a cache line where the error was an L2's or L3's or the line is host memory's, else
HBM4E (R415). -/
def State.eccUnit (st : State) (a : Nat) : Nat :=
  if isGlob a then (if 2 ^ 40 ≤ a ∨ lineOf a ∈ st.cachePoison then 3 else 4) else if 2 ^ 66 ≤ a then 5 else 2

/-- A write of `n` bytes under a mask covers a whole unit. -/
def coversUnit (a n mask u : Nat) : Bool :=
  let sz := (poisonUnit u).2
  decide (a ≤ u) && decide (u + sz ≤ a + n) && decide (mask / 2 ^ (u - a) % 2 ^ sz = 2 ^ sz - 1)

/-- `n` bytes at a flat address (R6). -/
def State.read (st : State) (a n : Nat) : Nat := st.mem.read a n

/-- A counter's value has reached its target: the target field's or the one given (R103). -/
def State.reached (st : State) (addr : Nat) (useT : Bool) (target : Nat) : Bool :=
  decide ((if useT then st.read (addr + 8) 8 else target) ≤ st.read addr 8)

/-- Two byte ranges meet. -/
def meets (a n b m : Nat) : Bool := decide (a < b + m) && decide (b < a + n)

/-- A split's wait after a write to `a … a + n`: freed where its condition holds (R103, R104). -/
def State.wakeSplit (st : State) (a n : Nat) (s : Split) : Split :=
  match s.wait with
  | .waitc addr u t => if meets a n addr 16 && st.reached addr u t then { s with wait := .freed 3 } else s
  | .waitm _ pa v => if meets a n pa 8 && decide (st.read pa 8 ≠ v) then { s with wait := .freed 4 } else s
  | _ => s

/-- An access stream's wait after a write (R174). -/
def State.wakeAccess (st : State) (a n : Nat) (w : AWait) : AWait :=
  match w with
  | .counter addr u t => if meets a n addr 16 && st.reached addr u t then .freed else w
  | _ => w

/-- A group's waits after a write. -/
def State.wakeGroup (st : State) (a n : Nat) (g : Group) : Group :=
  { g with splits := mmap g.splits fun _ s => st.wakeSplit a n s
           handler := g.handler.map (st.wakeSplit a n)
           await := st.wakeAccess a n g.await
           frame := g.frame.map fun f => { f with await := st.wakeAccess a n f.await } }

/-- A grid's gate after a write: every pair has held at one time (R74). -/
def State.wakeGate (st : State) (g : Grid) : Grid :=
  if g.openGate || g.gateHeld then g
  else { g with gateHeld := g.gates.all fun p => decide (p.2 ≤ st.read p.1 8) }

/-- The waits of the package after a write to `a … a + n`. -/
def State.wake (st : State) (a n : Nat) : State :=
  { st with groups := mmap st.groups fun _ g => st.wakeGroup a n g, grids := mmap st.grids fun _ g => st.wakeGate g }

/-- The flat numbers of the 4 KiB granules of a table of 32 KiB at a physical address of a device (R325, R346). -/
def State.tableGranules (st : State) (dev base : Nat) : List Nat := (List.range 8).map fun k => st.flatPa dev (base + 4096 * k) / 4096

/-- The valid entries of a table, by index: those whose V bit is set, of which the low byte is listed. -/
def State.validIdx (st : State) (dev base : Nat) : List Nat :=
  (List.range 8).flatMap fun k =>
    let a := st.flatPa dev (base + 4096 * k)
    st.mem.filterMap fun c => if a ≤ c.1 ∧ c.1 < a + 4096 ∧ (c.1 - a) % 8 = 0 ∧ c.2.toNat % 2 = 1 then some (512 * k + (c.1 - a) / 8) else none

/-- A line lies in the root table of a context, or in a table that a valid entry of it names (R327, R329). -/
def State.upperTable (st : State) (x : Ctx) (line : Nat) : Bool :=
  decide (line / 4096 ∈ st.tableGranules x.dev x.troot)
    || (st.validIdx x.dev x.troot).any fun i =>
        decide (line / 4096 ∈ st.tableGranules x.dev (bits (st.read (st.flatPa x.dev (x.troot + 8 * i)) 8) 55 16 * 2 ^ 16))

/-- The contexts whose translations all go with a write to a line that a walk has read: those of which it holds an upper table (R335). -/
def State.swept (st : State) (line : Nat) : List Nat :=
  if (mgetD st.dir line {}).pt then (st.ctxs.filter fun e => st.upperTable e.2 line).map (·.1) else []

/-- The translations that stay after a write to a line of tables: an entry read from it goes; where the line held an upper table
of some entry, every entry of that context goes (R209, R335). -/
def dropTlb (tlb : List TlbEntry) (line : Nat) (swept : List Nat) : List TlbEntry :=
  let swept := swept ++ (tlb.filter fun e => decide (line ∈ e.lines) && (decide (e.level ≠ 1) || decide (line ≠ lineOf e.entryAt))).map (·.ctx)
  tlb.filter fun e => !(decide (e.ctx ∈ swept) || decide (line ∈ e.lines))

/-- A write of the low `n` bytes of `v`, those a mask names, at a flat address, by a device unit that sets A or D: no translation is dropped
(R332). -/
def State.writeQuiet (st : State) (a n mask v : Nat) : State :=
  let st := { st with mem := st.mem.writeMask a n mask v, poisoned := st.poisoned.filter fun u => !coversUnit a n mask u }
  st.wake a n

/-- The directory with a line's PT and TRS cleared, once its translations are dropped (R209). -/
def clearTable (dir : FMap DirEntry) (line : Nat) : FMap DirEntry :=
  match mget dir line with
  | some e => mput dir line { e with pt := false, trs := 0 } {}
  | none => dir

/-- A write of the low `n` bytes of `v`, those a mask names, at a flat address; the lines' L1 copies are not changed (R200). -/
def State.write (st : State) (a n mask v : Nat) : State :=
  let lo := lineOf a
  let hi := lineOf (a + n - 1)
  let (s1, s2) := if st.tlb = [] then ([], []) else (st.swept lo, st.swept hi)
  let st := st.writeQuiet a n mask v
  if isGlob a then { st with tlb := dropTlb (dropTlb st.tlb lo s1) hi s2, dir := clearTable (clearTable st.dir lo) hi } else st

/-- A whole write of `n` bytes. -/
def State.writeAll (st : State) (a n v : Nat) : State := st.write a n (2 ^ n - 1) v

/-- A unit poisoned (R414). -/
def State.poison (st : State) (a : Nat) : State :=
  if st.poisonedAt a 1 then st else { st with poisoned := (poisonUnit a).1 :: st.poisoned, cachePoison := st.cachePoison.filter fun l => decide (l ≠ lineOf a) }

/-- A line poisoned in a cache: its data there had the error (R413, R415). -/
def State.poisonCached (st : State) (a : Nat) : State :=
  if st.poisonedAt a 1 then st else { st.poison a with cachePoison := lineOf a :: st.cachePoison.filter fun l => decide (l ≠ lineOf a) }

/-- The U bytes of a line after a write of the bytes a 128-bit mask names: an untracked write adds them, a tracked write takes them away;
U is set while any stand (R426). -/
def State.markU (st : State) (line mask : Nat) (tracked : Bool) : State :=
  let old := mgetD st.uBytes line 0
  let new := if tracked then old &&& (2 ^ 128 - 1 - mask % 2 ^ 128) else old ||| mask % 2 ^ 128
  { st with uBytes := mput st.uBytes line new 0 }

/-- A write to GLOB by a hub core, a CXL host or the hub on the HOST path: it sets U (R426). -/
def State.hostStore (st : State) (a n v : Nat) : State :=
  let st := st.writeAll a n v
  if isGlob a then
    let m := 2 ^ n - 1
    let o := a % 128
    let st := st.markU (lineOf a) (m * 2 ^ o % 2 ^ 128) false
    if 128 < o + n then st.markU (lineOf a + 128) (m * 2 ^ o / 2 ^ 128) false else st
  else st

/-- A free value (R1, log entry 3), and the state with the counter moved on. -/
def State.freeValue (st : State) : Nat × State := (Config.freeNat st.free, { st with free := st.free + 1 })

end Sys2Proof.Machine
end

