-- ==== Sys2Proof/Machine/Walk.lean ====
section
/-! DEFINITION. Page tables (R325 to R329): who asks, the entries and what makes one malformed, the walk over the tables as memory holds them, and what a
context's leaves map. -/

namespace Sys2Proof.Machine

/-- What an access needs of its leaf (R330). -/
inductive Need where
  | r | w | rw | x
  deriving DecidableEq, Repr

/-- Who asks for a translation: a group's stream, an engine of a group's cluster for that group, or a unit of a die (0 the hub). -/
inductive Who where
  | stream (gid : Nat) (acc : Bool)
  | engine (gid : Nat)
  | unit (die : Nat)
  deriving DecidableEq, Repr

/-- The group and stream that ask, none for a hub unit. -/
def whoStream : Who → Option (Nat × Bool)
  | .stream gid acc => some (gid, acc)
  | .engine gid => some (gid, true)
  | .unit _ => none

/-- The die whose translation caches serve an asker. -/
def whoDie : Who → Nat
  | .stream gid _ => gDie gid
  | .engine gid => gDie gid
  | .unit d => d

/-- The location word of an asker; 0 for a hub unit (R338). -/
def whoLoc : Who → Nat
  | .stream gid _ => locOf gid 0
  | .engine gid => locOf gid 0
  | .unit _ => 0

/-- The leaf has a bit set. -/
def pteBit (p : Word) (i : Nat) : Bool := p.getLsbD i

/-- The permission a leaf gives meets a need (R330). -/
def permits (p : Word) (n : Need) : Bool :=
  match n with
  | .r => pteBit p 5
  | .w => pteBit p 6
  | .rw => pteBit p 5 && pteBit p 6
  | .x => pteBit p 7

/-- A table of 32 KiB at a physical address lies in the memory of the package mode's devices, or in host memory (R344, R346). -/
def State.tableIn (st : State) (pa : Nat) : Bool := decide (pa / 2 ^ 55 % 2 = 1) || decide (pa + 2 ^ 15 ≤ devBytes st.mode)

/-- A non-leaf entry is malformed: a reserved bit, LEAF at level 3, or a flag (R327, R328); its PA is aligned as it stands. A table that would lie outside the device's
memory counts as malformed too, as a leaf's page there does (DEDUCED: log entry 90). -/
def State.badTable (st : State) (e : Word) : Bool :=
  decide (bits e.toNat 63 56 ≠ 0) || decide (bits e.toNat 15 1 ≠ 0) || !st.tableIn (bits e.toNat 55 16 * 2 ^ 16)

/-- A leaf entry is malformed (R328): level 2 is a block of 256 MiB, level 1 a page of 64 KiB. -/
def State.badLeaf (st : State) (e : Word) (level : Nat) : Bool :=
  let n := e.toNat
  let pa := bits n 55 16 * 2 ^ 16
  let size := if level = 2 then 2 ^ 28 else 2 ^ 16
  decide (bits n 63 56 ≠ 0) || decide (bits n 3 1 ≠ 0) || !pteBit e 4 || (decide (level = 2) && decide (bits n 27 16 ≠ 0))
    || decide (bits n 15 14 = 3) || (pteBit e 6 && !pteBit e 5)
    || (if pteBit e 55 then !st.cxlHost || pteBit e 10
        else decide (bits n 54 40 ≠ 0) || decide (st.rsvlo < pa + size))

/-- How a translation ends: the leaf and its flat address of the byte asked for; the level whose entry was invalid or malformed; or a wait for the directory. -/
inductive Tr where
  | ok (leaf : Word) (pa : Nat) (st : State)
  | miss (level : Nat) (st : State)
  | malf (level : Nat) (st : State)
  | wait

/-- The flat address a leaf gives a virtual address (R329). -/
def State.leafPa (st : State) (dev : Nat) (leaf : Word) (level va : Nat) : Nat :=
  if level = 2 then st.flatPa dev (bits leaf.toNat 55 28 * 2 ^ 28 + va % 2 ^ 28)
  else st.flatPa dev (bits leaf.toNat 55 16 * 2 ^ 16 + va % 2 ^ 16)

/-- One 8-byte entry of a table at a device physical address (R329): its flat address and value. -/
def State.tableEntry (st : State) (dev base idx : Nat) : Nat × Word :=
  let a := st.flatPa dev (base + 8 * idx)
  (a, BitVec.ofNat 64 (st.read a 8))

/-- The walk of R329: the leaf, its level, its entry's flat address; or where it stopped; and the lines read. -/
inductive WalkEnd where
  | leaf (e : Word) (level at_ : Nat) (lines : List Nat)
  | miss (level : Nat) (lines : List Nat)
  | malf (level : Nat) (lines : List Nat)
  deriving DecidableEq, Repr

/-- The walk of R329, each entry read by `rd` from its flat address. -/
def State.walkBy (st : State) (rd : Nat → Word) (c va : Nat) : WalkEnd :=
  let x := st.ctx c
  let at_ := fun (base idx : Nat) => st.flatPa x.dev (base + 8 * idx)
  let a3 := at_ x.troot (bits va 51 40)
  let e3 := rd a3
  if !pteBit e3 0 then .miss 3 [lineOf a3]
  else if st.badTable e3 then .malf 3 [lineOf a3]
  else
    let a2 := at_ (bits e3.toNat 55 16 * 2 ^ 16) (bits va 39 28)
    let e2 := rd a2
    if !pteBit e2 0 then .miss 2 [lineOf a3, lineOf a2]
    else if pteBit e2 4 then (if st.badLeaf e2 2 then .malf 2 [lineOf a3, lineOf a2] else .leaf e2 2 a2 [lineOf a3, lineOf a2])
    else if st.badTable e2 then .malf 2 [lineOf a3, lineOf a2]
    else
      let a1 := at_ (bits e2.toNat 55 16 * 2 ^ 16) (bits va 27 16)
      let e1 := rd a1
      if !pteBit e1 0 then .miss 1 [lineOf a3, lineOf a2, lineOf a1]
      else if st.badLeaf e1 1 then .malf 1 [lineOf a3, lineOf a2, lineOf a1] else .leaf e1 1 a1 [lineOf a3, lineOf a2, lineOf a1]

/-- The walk of R329 over the tables as memory holds them. -/
def State.walk (st : State) (c va : Nat) : WalkEnd := st.walkBy (fun a => BitVec.ofNat 64 (st.read a 8)) c va

/-- The lines a walk has read. -/
def WalkEnd.lines (w : WalkEnd) : List Nat :=
  match w with
  | .leaf _ _ _ ls | .miss _ ls | .malf _ ls => ls

/-- The valid leaves of a context's tables: first virtual page, level, leaf (R327, R329). -/
def State.leaves (st : State) (c : Nat) : List (Nat × Nat × Word) :=
  match mget st.ctxs c with
  | none => []
  | some x =>
    let below := fun (e : Word) => bits e.toNat 55 16 * 2 ^ 16
    (st.validIdx x.dev x.troot).flatMap fun i3 =>
      let e3 := (st.tableEntry x.dev x.troot i3).2
      if st.badTable e3 then [] else
      (st.validIdx x.dev (below e3)).flatMap fun i2 =>
        let e2 := (st.tableEntry x.dev (below e3) i2).2
        if pteBit e2 4 then (if st.badLeaf e2 2 then [] else [((i3 * 4096 + i2) * 4096, 2, e2)])
        else if st.badTable e2 then []
        else (st.validIdx x.dev (below e2)).filterMap fun i1 =>
          let e1 := (st.tableEntry x.dev (below e2) i1).2
          if st.badLeaf e1 1 then none else some ((i3 * 4096 + i2) * 4096 + i1, 1, e1)

/-- A leaf maps the page or block that holds a flat address (R328). -/
def State.leafHolds (st : State) (dev : Nat) (leaf : Word) (level a : Nat) : Bool :=
  let lo := if level = 2 then 28 else 16
  (st.physOf dev a).any fun p => decide (bits p 55 lo = bits leaf.toNat 55 lo)

/-- Some leaf of a context with a bit set maps a flat address. -/
def State.mapsWith (st : State) (c i a : Nat) : Bool :=
  isGlob a && (st.leaves c).any fun l => pteBit l.2.2 i && st.leafHolds (st.ctx c).dev l.2.2 l.2.1 a

/-- Some page of a context holds a flat address. -/
def State.ctxMaps (st : State) (c a : Nat) : Bool := st.mapsWith c 0 a

/-- A flat address lies in the page of a cached translation: the page's sixteen 4 KiB granules stand apart (R346). -/
def State.entryHolds (st : State) (e : TlbEntry) (a : Nat) : Bool :=
  (List.range 16).any fun i => decide (st.leafPa (st.ctx e.ctx).dev e.pte e.level (e.page * 2 ^ 16 + 4096 * i) / 4096 = a / 4096)

/-- An access to a page whose leaf has MG = 1 waits at its old home (R195, R342). -/
def State.migrating (st : State) (a : Nat) : Bool := isGlob a && st.tlb.any fun e => pteBit e.pte 11 && st.entryHolds e a

end Sys2Proof.Machine
end

