-- ==== Sys2Proof/Machine/Yield.lean ====
section
/-! DEFINITION. Logical times (R199), and how a line passes between the dies' L2s, the host side and the L3 directory (R206, R207, R212): what a die does that gives
a line up, and the record of each directory event (R422, R425). -/

namespace Sys2Proof.Machine

/-! Logical time. -/

/-- a is earlier than b in the serial comparison of 24-bit times (R199). -/
def sLt (a b : Nat) : Bool :=
  let d := (b + 2 ^ 24 - a % 2 ^ 24) % 2 ^ 24
  decide (1 ≤ d) && decide (d < 2 ^ 23)

/-- The later of two times (R199). -/
def smax (a b : Nat) : Nat := if sLt a b then b else a

/-- A time advanced (R199). -/
def tAdd (a n : Nat) : Nat := (a + n) % 2 ^ 24

/-- A time set back. -/
def tSub (a n : Nat) : Nat := (a + 2 ^ 24 - n % 2 ^ 24) % 2 ^ 24

/-- MAXT raised, and FLOOR with it to stay within 2^21 (R201, R204). -/
def Die.raise (d : Die) (w : Nat) : Die :=
  let m := smax d.maxT w
  { d with maxT := m, floor := smax d.floor (tSub m (2 ^ 21)) }

/-! Giving a line up. -/

/-- A HOME record of an L2 event (R422). -/
def recHome (kind unit ltime acnt prev nread : Nat) : List Nat :=
  let two := decide (kind = 1) || decide (kind = 2)
  let w0 := 2 * 2 ^ 60 + (if two then 2 ^ 55 else 0) + kind * 2 ^ 53 + unit * 2 ^ 48 + ltime % 2 ^ 24 * 2 ^ 24 + acnt % 2 ^ 24
  if two then [w0, prev % 2 ^ 24 + nread % 2 ^ 24 * 2 ^ 24] else [w0]

/-- The contexts with groups on a core. -/
def State.coreCtxs (st : State) (core : Nat) : List Nat := ((st.groups.filter fun e => decide (gCore e.1 = core)).map fun e => st.ctxOf e.2).eraseDups

/-- The pts jumps a replaying context's log names next for a core (R425): a KIND 3 record is obeyed once its front end's count is reached. -/
def State.replayJumps (st : State) (core c : Nat) : State :=
  (List.range 4).foldl (fun st q =>
    let unit := core % 4 * 4 + q
    let n := mgetD (st.ctx c).acnt (core / 4 * 32 + unit) 0
    let sel := fun (r : List Nat) => decide (r.headD 0 / 2 ^ 60 = 2) && decide (bits (r.headD 0) 52 48 = unit)
    let ok := fun (r : List Nat) => decide (bits (r.headD 0) 54 53 = 3) && decide (bits (r.headD 0) 23 0 = n)
    match st.gate c (core / 4) sel ok [] with
    | some (st, r) => st.updCore core fun k => { k with pts := smax k.pts (bits (r.headD 0) 47 24) }
    | none => st) st

/-- A pts jump to FLOOR of one core (R204, R207): placed in the log of each recording context on it by the count of the core's first front end
(R210, R424). A core with a replaying context on it jumps as the log says instead (R425). -/
def State.jumpCore (st : State) (core f : Nat) : State :=
  let rs := (st.coreCtxs core).filter fun c => (st.ctx c).replay.any fun r => !r.off
  if rs ≠ [] then rs.foldl (fun st c => st.replayJumps core c) st
  else if sLt (st.core core).pts f then
    let unit := core % 4 * 4
    let st := (st.coreCtxs core).foldl (fun s c =>
      if s.recording c then s.append c (core / 4) (recHome 3 unit f (mgetD (s.ctx c).acnt (core / 4 * 32 + unit) 0) 0 0) else s) st
    st.updCore core fun k => { k with pts := f }
  else st

/-- Every core of a die jumps. -/
def State.jumpDie (st : State) (die f : Nat) : State :=
  ((st.cores.map (·.1)).filter fun c => decide (clusterDie (c / 4) = die)).foldl (fun s c => s.jumpCore c f) st

/-- The steps of a die that gives up a line (R207): FLOOR and MAXT past its lease, every core's pts at FLOOR or later, the copy gone. -/
def State.giveUp (st : State) (die line : Nat) : State :=
  let d := st.die die
  match mget d.l2 line with
  | none => st
  | some l =>
    let f := smax d.floor (tAdd l.rts 1)
    let st := st.updDie die fun d => { d with l2 := merase d.l2 line, floor := f, maxT := smax d.maxT f }
    st.jumpDie die f

/-- The directory's entry for a line. -/
def State.dirOf (st : State) (line : Nat) : DirEntry := mgetD st.dir line {}

/-- The lines of the L3 after one is used, the latest first: 1 GiB of them (R21), less the ways disabled (R415); a line that leaves is written back. -/
def State.touchL3 (st : State) (line : Nat) (dirty : Bool) : List (Nat × Bool) :=
  ((line, dirty || st.l3.any fun e => decide (e.1 = line) && e.2) :: st.l3.filter fun e => decide (e.1 ≠ line)).take
    (2 ^ 23 - (st.retiredWays.filter fun w => decide (w.1 = 0)).length)

/-- The directory's entry changed; an empty one is not listed (R206). The line passes through the L3. -/
def State.updDir (st : State) (line : Nat) (f : DirEntry → DirEntry) : State :=
  { st with dir := mput st.dir line (f (st.dirOf line)) {}, l3 := st.touchL3 line false }

/-- One bit of a die vector. -/
def dieBit (d : Nat) : BitVec 9 := BitVec.ofNat 9 (2 ^ d)

/-- A die gives a line up to the directory (R207), dirty data written back to the L3. -/
def State.yieldLine (st : State) (die line : Nat) : State :=
  let dirty := (mget (st.die die).l2 line).any fun l => l.dirty
  let st := (st.giveUp die line).updDir line fun e => { e with dies := e.dies &&& ~~~(dieBit die), excl := false }
  if dirty then { st with l3 := st.touchL3 line true } else st

/-- No access translated through an entry read from the line is still to be performed (R209), those to pages that a migration or a bias flip of the line's
leaf blocks apart: they are translated again at its end (R195, R214). -/
def State.tableQuietBut (st : State) (line : Nat) (blocked : Nat → Nat → Bool) : Bool :=
  let es := st.tlb.filter fun e => decide (line ∈ e.lines)
  es = [] || st.groups.all fun p => p.2.memq.all fun a => a.lines.all fun l =>
    let c := st.ctxOf p.2
    let page := l.va / 2 ^ 16 % 2 ^ 36
    l.done || l.spilled || !l.glob || blocked c page || !(es.any fun e => decide (e.ctx = c) && decide (e.page = page))

/-- No access translated through an entry read from the line is still to be performed (R209). -/
def State.tableQuiet (st : State) (line : Nat) : Bool := st.tableQuietBut line fun _ _ => false

/-- The contexts that record or replay and map a line's page with T = 1 (R342, R425). -/
def State.trackers (st : State) (line : Nat) : List Nat :=
  (st.ctxs.filter fun e => (decide (2 ≤ e.2.det) || e.2.replay.isSome) && st.mapsWith e.1 8 line).map (·.1)

/-- A directory event passed through the log of every context that tracks the line (R422, R425), the line's grant count moved on by a grant; none where a
replay's log names another event next. -/
def State.dirGate (st : State) (kind holder halves nread line : Nat) : Option State :=
  let cs := st.trackers line
  let mk := [4 * 2 ^ 60 + 2 ^ 55 + kind * 2 ^ 51 + holder * 2 ^ 47 + halves * 2 ^ 45 + nread % 2 ^ 13 * 2 ^ 32 + (st.dirOf line).grants % 2 ^ 32,
    line / 128 % 2 ^ 45]
  let sel := fun (r : List Nat) => decide (r.headD 0 / 2 ^ 60 = 4)
  let ok := fun (r : List Nat) => decide (bits (r.headD 0) 54 32 = bits (mk.headD 0) 54 32) && decide (r.tail = mk.tail)
  let st' := cs.foldl (fun (o : Option State) c => o.bind fun s => (s.gate c 673 sel ok mk).map (·.1)) (some st)
  if cs = [] ∨ kind = 3 then st' else st'.map fun s => s.updDir line fun e => { e with grants := e.grants + 1 }

/-- One half of an entry changed, and the agent that holds it, 0 for none. -/
def DirEntry.setHalf (e : DirEntry) (half v agent : Nat) : DirEntry :=
  if half = 0 then { e with half0 := v, agent0 := agent } else { e with half1 := v, agent1 := agent }

/-- The agent that was granted one half last (R422). -/
def DirEntry.agent (e : DirEntry) (half : Nat) : Nat := if half = 0 then e.agent0 else e.agent1

/-- How the host side holds one half. -/
def DirEntry.half (e : DirEntry) (half : Nat) : Nat := if half = 0 then e.half0 else e.half1

/-- A line revoked from one die (R207), logged with the tracked reads it performed (R425); none where the log says to wait. -/
def State.revokeDie (st : State) (die line : Nat) : Option State :=
  if (st.dirOf line).dies.getLsbD die then
    let n := ((mget (st.die die).l2 line).map fun l => l.nread % 2 ^ 13).getD 0
    (st.dirGate 3 die 3 n line).map fun st => st.yieldLine die line
  else some st

/-- A half recalled from the host side (R212), logged with the agent that holds it (R425). -/
def State.recallHalf (st : State) (line half : Nat) : Option State :=
  if (st.dirOf line).half half = 0 then some st
  else (st.dirGate 3 ((st.dirOf line).agent half) (half + 1) 0 line).map fun st => st.updDir line fun e => e.setHalf half 0 0

/-- A half that the host side owns recalled for a read; shared ones stay (R212). -/
def State.recallOwned (st : State) (line half : Nat) : Option State :=
  if (st.dirOf line).half half = 2 then st.recallHalf line half else some st

/-- An exclusive holder that gives up exclusivity for a read writes back and keeps a shared copy (R206). -/
def State.downgrade (st : State) (line : Nat) : State :=
  let e := st.dirOf line
  if e.excl then
    let st := (List.range 9).foldl (fun (s : State) d => if e.dies.getLsbD d then
      s.updDie d fun x => { x with l2 := mupd x.l2 line fun l => { l with dirty := false } } else s) st
    st.updDir line fun e => { e with excl := false }
  else st

/-- A line taken from every die and every host-side half by the hub (R473): each die runs the steps of R207; none where the log says to wait. -/
def State.takeLine (st : State) (line : Nat) : Option State :=
  ((List.range 9).foldl (fun (o : Option State) d => o.bind fun s => s.revokeDie d line) (some st)).bind fun s =>
    (s.recallHalf line 0).bind fun s => s.recallHalf line 1

/-- A line shared by the hub for a read (R473): an exclusive holder writes back and keeps a shared copy (R206); a half owned on the host side is
recalled. -/
def State.shareLine (st : State) (line : Nat) : Option State :=
  ((st.downgrade line).recallOwned line 0).bind fun s => s.recallOwned line 1

end Sys2Proof.Machine
end

