-- ==== Sys2Proof/Machine/Translate.lean ====
section
/-! DEFINITION. Translation of GLOB accesses: the walk, its checks, the accessed and dirty bits, the translation caches, watched pages
and the page-fault service's queue (R325 to R341). -/

namespace Sys2Proof.Machine

/-! Translation caches (R333, R334). -/

/-- The caches that serve an asker, in the order in which they are looked up (R333): the access stream's front end, its cluster, its die. -/
def whoCaches : Who → List TlbPlace
  | .stream gid true => [.quad (gid / 32), .cluster (gCluster gid), .die (gDie gid)]
  | .stream gid false => [.cluster (gCluster gid), .die (gDie gid)]
  | .engine gid => [.cluster (gCluster gid), .die (gDie gid)]
  | .unit d => [if d = 0 then .hub else .die d]

/-- The die of a translation cache, 0 for the hub and for the memory translation table. -/
def TlbPlace.home : TlbPlace → Nat
  | .quad q => clusterDie (q / 16)
  | .cluster cl => clusterDie cl
  | .die d => d
  | .hub => 0
  | .table => 0

/-- The ways of a set of a translation cache (R333, R334). -/
def TlbPlace.ways : TlbPlace → Nat
  | .quad _ => 64
  | .cluster _ => 8
  | .die _ => 16
  | .hub => 16
  | .table => 8

/-- The set of a translation cache, or the bucket of the memory translation table, that a page of a context falls into (R333, R334). Neither the caches' indexes
nor the table's hash is given: the page's low bits, and a free function (DESIGN CHOICE: log entry 89). -/
def TlbPlace.set (p : TlbPlace) (c page : Nat) : Nat :=
  match p with
  | .quad _ => 0
  | .cluster _ => page % 512
  | .die _ => page % 4096
  | .hub => page % 1024
  | .table => Config.mttHash c page % 2 ^ 23

/-- An entry put into its cache: where its set is full, the entry that was filled first leaves it (log entry 89). -/
def fillTlb (tlb : List TlbEntry) (e : TlbEntry) : List TlbEntry :=
  let mine := tlb.filter fun x => decide (x.place = e.place) && decide (e.place.set x.ctx x.page = e.place.set e.ctx e.page)
  let tlb := if mine.length < e.place.ways then tlb else match mine with
    | v :: _ => tlb.erase v
    | [] => tlb
  tlb ++ [e]

/-- The state with an entry put into each of some caches; a level-1 leaf alone goes into the memory translation table (R333, R334). -/
def State.fillCaches (st : State) (ps : List TlbPlace) (e : TlbEntry) : State :=
  { st with tlb := ps.foldl (fun tlb p => if p = .table ∧ e.level ≠ 1 then tlb else fillTlb tlb { e with place := p }) st.tlb }

/-- The flat address of a bucket line of the memory translation table (R20, R334). -/
def State.bucketAt (st : State) (c page : Nat) : Nat :=
  st.flatPa (st.ctx c).dev (st.reelBase - 2 ^ 30 + 128 * TlbPlace.table.set c page)

/-- The translation of a page that one cache holds (R326). -/
def State.inCache (st : State) (p : TlbPlace) (c page : Nat) : Option TlbEntry :=
  st.tlb.find? fun e => decide (e.place = p) && decide (e.ctx = c) && decide (e.page = page)

/-- The cached translation of a page for an asker: the first of its caches that holds one answers (R333). -/
def State.cached (st : State) (who : Who) (c page : Nat) : Option TlbEntry := firstSome (fun p => st.inCache p c page) (whoCaches who)

/-- The directory's note of a table line and of who caches a translation from it (R206, R209, R335). -/
def markTable (dir : FMap DirEntry) (lines : List Nat) (die : Nat) : FMap DirEntry :=
  lines.foldl (fun d l => mset d l
    (let e := mgetD d l {}
     { e with pt := true, trs := e.trs ||| BitVec.ofNat 9 (2 ^ die ||| 1) })) dir

/-- The stream to whose count an asker's logged reads belong (R424, R426): a group's stream; for an engine its group's access stream. -/
def State.whoCount (st : State) (who : Who) : Option (Nat × Bool × Nat) :=
  (whoStream who).map fun q => (q.1, q.2, let g := mgetD st.groups q.1 { wg := 0 }; if q.2 then g.icntA else g.icntC)

/-- A walk's read of an 8-byte entry (R426): on replay, where the log holds a VALUE record of its line for the asker, from those bytes. -/
def State.walkRead (st : State) (c : Nat) (who : Who) (a : Nat) : Word :=
  match st.whoCount who with
  | some (gid, acc, n) => BitVec.ofNat 64 ((st.value c gid acc n (lineOf a) (st.read (lineOf a) 128)).2 / 2 ^ (8 * (a % 128)))
  | none => BitVec.ofNat 64 (st.read a 8)

/-- VALUE records of a walk's reads of lines with U set (R426). -/
def State.walkValues (st : State) (c : Nat) (who : Who) (lines : List Nat) : State :=
  match st.whoCount who with
  | some (gid, acc, n) => lines.foldl (fun s l => (s.value c gid acc n l (s.read l 128)).1) st
  | none => st

/-- One bit of a table entry set by the device: an atomic OR at the directory, at which every holder gives the line up and a recording context's log takes its place
(R332, R343); none where it must wait. -/
def State.orEntry (st : State) (die a bit : Nat) : Option State :=
  ((st.takeLine (lineOf a)).bind fun s => s.dirGate 1 (if die = 0 then 11 else die) 3 0 (lineOf a)).map fun s => s.writeQuiet a 8 0xFF (s.read a 8 ||| bit)

/-- A translation of the page that holds `va` (R329, R333): the first cache that holds one answers and fills those before it; else the memory translation table's
entry, or a walk, which sets A, fills them all (R332, R334). Each walk makes its die and the hub sharers of the table lines it has read, and of the table's bucket
(R209, R335). -/
def State.translate (st : State) (c : Nat) (who : Who) (va : Nat) : Tr :=
  let die := whoDie who
  let page := va / 2 ^ 16 % 2 ^ 36
  let dev := (st.ctx c).dev
  let ps := whoCaches who
  match st.cached who c page with
  | some e => .ok e.pte (st.leafPa dev e.pte e.level va) (st.fillCaches ((ps.takeWhile fun p => decide (p ≠ e.place)).reverse) e)
  | none =>
    let probed : State := { st with dir := markTable st.dir [st.bucketAt c page] die }
    match st.inCache .table c page with
    | some e => .ok e.pte (st.leafPa dev e.pte e.level va) ({ probed with dir := markTable probed.dir e.lines die }.fillCaches ps.reverse e)
    | none =>
      if (st.whoCount who).any fun q => st.cutStream c q.1 q.2.1 q.2.2 then .wait else
      let w := st.walkBy (st.walkRead c who) c va
      let read : State := { probed.walkValues c who w.lines with dir := markTable probed.dir w.lines die }
      match w with
      | .miss l _ => .miss l read
      | .malf l _ => .malf l read
      | .leaf e level at_ lines =>
        let e' := e ||| 0x1000#64
        let ent : TlbEntry := { place := .table, ctx := c, page := page, pte := e', level := level, entryAt := at_, lines := lines }
        match (if pteBit e 12 then some read else read.orEntry die at_ 0x1000) with
        | none => .wait
        | some st => .ok e' (st.leafPa dev e' level va) ({ st with dir := markTable st.dir lines die }.fillCaches (.table :: ps.reverse) ent)

/-- The address of the leaf that a write must first set D in: where the entry, cached or, where that has left the caches, in the table, has D = 0 (R332). -/
def State.cleanLeaf (st : State) (c : Nat) (who : Who) (va : Nat) : Option Nat :=
  match st.cached who c (va / 2 ^ 16 % 2 ^ 36) with
  | some e => if pteBit e.pte 13 then none else some e.entryAt
  | none =>
    match st.walk c va with
    | .leaf e _ at_ _ => if pteBit e 13 then none else some at_
    | _ => none

/-- D set in the table before the first write through a leaf with D = 0 (R332); none where the directory must wait. -/
def State.setDirty (st : State) (c : Nat) (who : Who) (va : Nat) : Option State :=
  match st.cleanLeaf c who va with
  | none => some st
  | some a =>
    let page := va / 2 ^ 16 % 2 ^ 36
    (st.orEntry (whoDie who) a 0x2000).map fun st =>
      { st with tlb := st.tlb.map fun t => if t.place ∈ whoCaches who ∧ t.ctx = c ∧ t.page = page then { t with pte := t.pte ||| 0x2000#64 } else t }

/-! TINFO of translation traps (R337). -/

/-- The detail of PAGE_FAULT, PROT and WATCH, as TINFO[63:33]. -/
def trDetail (malf : Bool) (level path : Nat) (fetch wr rem dfr : Bool) (widx : Nat := 0) : Nat :=
  (if dfr then 1 else 0) + (if rem then 2 else 0) + (if wr then 4 else 0) + (if fetch then 8 else 0) + path * 16 + level * 128
    + (if malf then 512 else 0) + widx * 1024

/-- The outcome of a translation with its permission check: the leaf, the flat address and the state; a page the service must bring, with
the trap a decline raises; a PROT; or nothing yet, as the directory, the place's die or a migration holds it. -/
inductive Acc where
  | ok (leaf : Word) (pa : Nat) (st : State)
  | fault (page : Nat) (t : Trap) (st : State)
  | prot (t : Trap) (st : State)
  | wait

/-- The detail that another access to a declined page has: the level found there and what that access is (R337, R340). -/
def trAs (detail path : Nat) (wr dfr : Bool) : Nat := trDetail (detail.testBit 9) (bits detail 8 7) path false wr false dfr

/-- A translation checked against R328 and R330. `path` is the path code of R38. -/
def State.access (st : State) (c : Nat) (who : Who) (va : Nat) (n : Need) (path : Nat) (wr : Bool) : Acc :=
  let fetch := decide (n = .x)
  match st.translate c who va with
  | .miss l st => .fault (va / 2 ^ 16 % 2 ^ 36) { cause := .pageFault, detail := trDetail false l path fetch wr false false, addr := va } st
  | .malf l st => .prot { cause := .prot, detail := trDetail true l path fetch wr false false, addr := va } st
  | .wait => .wait
  | .ok leaf pa st =>
    if permits leaf n then .ok leaf pa st
    else .prot { cause := .prot, detail := trDetail false 0 path fetch wr false false, addr := va } st

/-- DIE_LOST for memory of a fenced die (R416, R407). -/
def State.lostTrap (st : State) (pa : Nat) : Option Trap :=
  ((st.ownerDies pa).find? fun d => decide ((st.die d).state = .fenced)).map fun d => { cause := .dieLost, detail := d }

/-- An access to a place is held: the die that owns it is quiescing (R416), or its page migrates (R195). -/
def State.quiescing (st : State) (pa : Nat) : Bool :=
  st.migrating pa || (st.ownerDies pa).any fun d => decide ((st.die d).state = .quiescing)

/-- A translation for an access that is performed at once: it waits where its place is held (R195, R342, R416), and a lost place is DIE_LOST. -/
def State.accessNow (st : State) (c : Nat) (who : Who) (va : Nat) (n : Need) (path : Nat) (wr : Bool) : Acc :=
  match st.access c who va n path wr with
  | .ok leaf pa st =>
    if st.quiescing pa then .wait
    else match st.lostTrap pa with
      | some t => .prot { t with addr := va } st
      | none => .ok leaf pa st
  | q => q

/-- A watch filter entry watches a byte against reads, writes or both (R341, R444). -/
def WatchEntry.hits (f : WatchEntry) (rd wr : Bool) (b : Nat) : Bool :=
  ((rd && f.kind % 2 == 1) || (wr && f.kind / 2 == 1)) && decide (f.lo ≤ b) && decide (b ≤ f.hi) && decide (f.mask / 2 ^ (b % 8) % 2 = 1)

/-- Bytes of an access on watched pages against the filter: the lowest entry that one of them hits, and the lowest byte that hits any (R337, R341). -/
def watchHit (w : FMap WatchEntry) (rd wr : Bool) (addrs : List Nat) : Option (Nat × Nat) :=
  match w.find? fun e => addrs.any (e.2.hits rd wr) with
  | none => none
  | some e => some (e.1, ((addrs.filter fun b => w.any fun e => e.2.hits rd wr b).min?).getD 0)

/-- The leaf allows a tracked access: T = 1 and a recording context (R342, R426). -/
def State.tracked (st : State) (c : Nat) (leaf : Word) : Bool := pteBit leaf 8 && (decide (2 ≤ (st.ctx c).det) || (st.ctx c).replay.isSome)

/-- A write through a leaf, of bytes in one line that the directory has taken: D set, the bytes stored, the U bit kept (R332, R426); none where it must wait. -/
def State.writeLeaf (st : State) (c : Nat) (who : Who) (va : Nat) (leaf : Word) (pa n mask v : Nat) : Option State :=
  (st.setDirty c who va).map fun st =>
    let st := st.write pa n mask v
    st.markU (lineOf pa) (mask * 2 ^ (pa % 128)) (st.tracked c leaf)

/-! The page-fault service (R338 to R340). -/

/-- How a read or write of the device's own through a context's tables ends: done; refused, as the page is missing, malformed or lacks the permission; or not yet. -/
inductive Own where
  | done (v : Nat) (st : State)
  | refused
  | wait

/-- A read of the device's own through a context's tables. -/
def State.vRead (st : State) (c : Nat) (who : Who) (va n : Nat) : Own :=
  match st.accessNow c who va .r 0 false with
  | .ok _ pa st => .done (st.read pa n) st
  | .wait => .wait
  | _ => .refused

/-- A write of the device's own through a context's tables, at the directory: every holder gives the line up, and one to a table line waits for the accesses translated
through it (R206, R209). -/
def State.vWrite (st : State) (c : Nat) (who : Who) (va n v : Nat) : Own :=
  match st.accessNow c who va .rw 0 true with
  | .ok leaf pa st =>
    match (if st.tableQuiet (lineOf pa) then st.takeLine (lineOf pa) else none).bind fun s => s.writeLeaf c who va leaf pa n (2 ^ n - 1) v with
    | some st => .done 0 st
    | none => .wait
  | .wait => .wait
  | _ => .refused

/-- A queue header: BASE, COUNT_LOG2, STATE, PRODUCE, CONSUME; none where malformed (R76). -/
def queueHeader (h : Nat) : Option (Nat × Nat × Nat × Nat × Nat) :=
  let base := bits h 63 0
  let n := bits h 95 64
  if h / 2 ^ 256 ≠ 0 ∨ base % 128 ≠ 0 ∨ n = 0 ∨ 16 < n then none
  else some (base, n, bits h 127 96, bits h 191 128, bits h 255 192)

/-- What the service does with a new fault: it is declined at once where the queue is halted, else its accesses are held. -/
structure Served where
  st : State
  declined : Bool

/-- The fault queue halted: STATE = 3 where the header can be written, a pinned FAULT record, and the fault declined (R339). -/
def State.haltFq (st : State) (c : Nat) (who : Who) (addr : Nat) : Served :=
  let hdr := (st.ctx c).fqhdr
  let st := match st.vWrite c who (hdr + 12) 4 3 with
    | .done _ st => st
    | _ => st
  ⟨st.faultRec (whoDie who) c (whoLoc who) 5 0 addr, true⟩

/-- An open fault whose entry's RESULT still reads 0, as far as it can be read (R339). -/
def State.unanswered (st : State) (c : Nat) (f : PageFault) : Bool :=
  match st.walk c (f.entry + 24) with
  | .leaf e level _ _ => decide (st.read (st.leafPa (st.ctx c).dev e level (f.entry + 24)) 4 = 0)
  | _ => true

/-- The page-fault service called for a page (R339): the fault joins an unanswered entry, takes a new one, waits for room or for the queue's lines, or is declined
because the queue is halted. `addr` is the faulting address. -/
def State.pageFault (st : State) (c : Nat) (who : Who) (page detail serial : Nat) (addr : Nat := page * 2 ^ 16) : Served :=
  let x := st.ctx c
  if x.faults.any fun f => decide (f.page = page) && st.unanswered c f then ⟨st, false⟩
  else
    match st.vRead c who x.fqhdr 128 with
    | .wait => ⟨st, false⟩
    | .refused => st.haltFq c who addr
    | .done h st =>
      match queueHeader h with
      | none => st.haltFq c who addr
      | some (base, n, state, produce, consume) =>
        if state = 3 then st.haltFq c who addr
        else if 2 ^ n ≤ (produce + 2 ^ 64 - consume) % 2 ^ 64 then ⟨st, false⟩
        else
          let ea := base + 128 * (produce % 2 ^ n)
          let word := page * 2 ^ 16 + detail % 2 ^ 32 * 2 ^ 64 + whoLoc who * 2 ^ 96 + serial * 2 ^ 128
          match st.vWrite c who ea 128 word with
          | .wait => ⟨st, false⟩
          | .refused => st.haltFq c who addr
          | .done _ st1 =>
            match st1.vWrite c who (x.fqhdr + 16) 8 ((produce + 1) % 2 ^ 64) with
            | .wait => ⟨st, false⟩
            | .refused => st1.haltFq c who addr
            | .done _ st =>
              let st := st.updCtx c fun x => { x with faults := x.faults ++ [{ index := produce, entry := ea, page := page, detail := detail, asker := whoStream who }] }
              ⟨{ st with signals := st.signals ++ [c] }, false⟩

end Sys2Proof.Machine
end

