-- ==== Sys2Proof/Machine/Ops.lean ====
section
/-! DEFINITION. Issue and traps. One operation issues a compute-stream instruction (`issueC`) and one an access-stream instruction
(`issueA`): the switch marker's commits, the checks in their order, the queue stalls, the instruction's own effect, and what every issue
does besides (PC, counts, the elder counter, the census). One operation takes a trap (`takeTrap`, `enterTrap`: R407 to R410), one leaves it
(`leaveTrap`: R411, R116), and one faults a context (`contextFault`: R412). -/

namespace Sys2Proof.Machine

/-- The answer of a meaning. -/
abbrev Ans := Host.Outcome State Fault Refusal

/-- What the issue of a compute-stream word checks before its effect: static legality (R29), its source fields and P registers, its queue
destination, the MODE test (R41), whether it obeys the guard, whether it is asynchronous (R30), whether the PC goes on to the next word,
whether it is YIELD, the source registers that no field names, the threads whose copy of a V register it reads, and the element width at which it obeys the guard. -/
structure IssueSpec where
  legal : Bool
  srcs : List (BitVec 6) := []
  dst : Option (BitVec 6) := none
  pregs : List Nat := []
  mode : Group → Bool := fun _ => true
  fits : Group → Bool := fun _ => true
  guarded : Bool := true
  async : Group → Split → Bool := fun _ _ => false
  adv : Bool := true
  yields : Bool := false
  more : Group → List (BitVec 6) := fun _ => []
  lanes : Group → Split → BitVec 6 → Mask := fun _ s _ => s.mask
  gwidth : Group → Nat := fun g => g.et.width

/-- The effect of one instruction on the state: done; a precise trap, with what the attempt has changed outside the instruction's own
effect; or not issued now. -/
inductive IEff where
  | done (st : State)
  | trap (t : Trap) (st : State)
  | hold (st : State)

/-! Causes. -/

/-- The code of a cause (R45). -/
def causeCode (c : Cause) : Nat :=
  match c with
  | .illegalOp => 1 | .modeInvalid => 2 | .viewFault => 3 | .bounds => 4 | .pageFault => 5 | .prot => 6 | .watch => 7 | .misalign => 8
  | .maskMismatch => 9 | .splitOverflow => 10 | .launchDepth => 11 | .queueError => 12 | .peerDead => 13 | .dieLost => 14
  | .barrierBroken => 15 | .placement => 16 | .watchdog => 17 | .eccUncorr => 18 | .weirEvent => 19 | .swTrap => 20 | .bkpt => 21

/-- TINFO of a trap: location word, stream, detail (R44). -/
def tinfoOf (gid : Nat) (acc : Bool) (detail : Nat) : Nat :=
  locOf gid 0 + (if acc then 2 ^ 32 else 0) + detail % 2 ^ 31 * 2 ^ 33

/-! Splits. -/

/-- The split in a slot: 0 to 3 of the table, 5 the handler's. -/
def Group.splitAt (g : Group) (slot : Nat) : Option Split := if slot = 5 then g.handler else mget g.splits slot

/-- The group with a slot's split replaced. -/
def Group.setSplit (g : Group) (slot : Nat) (s : Split) : Group :=
  if slot = 5 then { g with handler := some s } else { g with splits := mset g.splits slot s }

/-- The group with a slot's split changed, where it is occupied. -/
def Group.updSplit (g : Group) (slot : Nat) (f : Split → Split) : Group :=
  match g.splitAt slot with
  | some s => g.setSplit slot (f s)
  | none => g

/-- The lowest free slot of the split table. -/
def Group.freeSlot (g : Group) : Option Nat := (List.range 4).find? fun i => (mget g.splits i).isNone

/-- A split that can issue: ready, or stalled in TWAIT, which it issues again (R316). -/
def Split.issues (s : Split) : Bool :=
  match s.wait with
  | .ready | .twait _ => true
  | _ => false

/-- A split whose threads are runnable (R63): one that can issue, or one held in LAUNCH (R51) or by a census FLUSH (R448), which are none of R63's
waits. -/
def Split.runnable (s : Split) : Bool := s.issues || decide (s.wait = .launch) || decide (s.wait = .flush)

/-- Two splits at one PC, neither waiting, as one (R59). One stalled in TWAIT issues it again; two stalled in it wait for the entries of both. -/
def Split.join (a b : Split) : Split :=
  { a with mask := a.mask ||| b.mask
           wait := match a.wait, b.wait with
             | .twait m, .twait n => .twait (max m n)
             | _, _ => .ready }

/-- A stream that is about to issue: it waits for nothing, or is at the tile load of an LDP whose conversion has been made (R237). -/
def AWait.issues (w : AWait) : Bool :=
  match w with
  | .ready | .ldp _ none => true
  | _ => false

/-- A stream that stalls on a device resource where it cannot issue, or stands in an LDP (R90, R238). -/
def AWait.stalls (w : AWait) : Bool :=
  match w with
  | .ready | .ldp _ none | .conv _ => true
  | _ => false

/-- The page that holds a stream, and the trap that a decline raises (R159, R237, R340). -/
def AWait.page (w : AWait) : Option (Nat × Trap) :=
  match w with
  | .paged p t | .ldp _ (some (p, t)) => some (p, t)
  | _ => none

/-- A stream that its page held tries again. -/
def AWait.unpage (w : AWait) : AWait :=
  match w with
  | .paged _ _ => .ready
  | .ldp v (some _) => .ldp v
  | w => w

/-- A compute-stream fetch that missed its page holds the stream (R340): a split stands at a page whose trap has the FETCH bit of its detail (R337). -/
def Group.fetchHeld (g : Group) : Bool :=
  g.splits.any fun e => match e.2.wait with
    | .paged _ t => t.detail.testBit 3
    | _ => false

/-- Every thread of the group is held: by its access stream, in AWAITC, at a page fault or on a full spillway, or by a fetch that missed (R63, R340). -/
def Group.streamHeld (g : Group) : Bool :=
  (match g.await with
   | .counter _ _ _ | .freed | .paged _ _ | .ldp _ (some _) => true
   | _ => false) || g.spilling || (!g.tlevel && g.fetchHeld)

/-- The lowest-numbered runnable thread of the group, pending entries among them (R60, R63); at trap level its live threads run as the handler does. -/
def Group.lowRunnable (g : Group) : Option Nat :=
  if g.streamHeld then none
  else if g.tlevel then (if g.handler.any Split.runnable then lowThread g.live else none)
  else
    let ms := (g.splits.filter fun e => e.2.runnable).map (fun e => e.2.mask) ++ g.pending.map (·.2)
    lowThread (ms.foldl (· ||| ·) 0)

/-- The slot of the elder split: the split that holds the group's lowest-numbered runnable thread (R60). -/
def Group.elderSlot (g : Group) : Option Nat :=
  match g.lowRunnable with
  | none => none
  | some t => (g.splits.find? fun e => e.2.runnable && e.2.mask.getLsbD t).map (·.1)

/-- Pending entries moved into free slots, oldest first; an entry whose PC equals a slot's that does not wait joins it (R59). A split held in LAUNCH, in
PUTS or by a page has begun its instruction, and merges with nothing until it goes on. -/
def promote (fuel : Nat) (g : Group) : Group :=
  match fuel with
  | 0 => g
  | n + 1 =>
    match g.freeSlot, g.pending with
    | some i, (pc, m) :: rest =>
      let g := { g with pending := rest }
      match g.splits.find? fun e => decide (e.2.pc = pc) && e.2.issues with
      | some (j, s) => promote n { g with splits := mset g.splits j (s.join { pc := pc, mask := m }) }
      | none => promote n { g with splits := mset g.splits i { pc := pc, mask := m } }
    | _, _ => g

/-- The chosen split with every other occupied slot merged into it whose PC is equal and that does not wait; freed slots take pending
entries (R59). -/
def Group.mergeAt (g : Group) (slot : Nat) : Group :=
  match mget g.splits slot with
  | none => g
  | some s =>
    let joins := fun (e : Nat × Split) => decide (e.1 ≠ slot) && decide (e.2.pc = s.pc) && e.2.issues
    let others := g.splits.filter joins
    if others = [] then g else
      promote 8 { g with splits := mset (g.splits.filter fun e => !joins e) slot (others.foldl (fun a e => a.join e.2) s) }

/-! Logical time. -/

/-- A core's pts raised (R202), which raises its die's MAXT (R199). -/
def State.raisePts (st : State) (core t : Nat) : State :=
  let p := smax (st.core core).pts t
  (st.updCore core fun c => { c with pts := p }).updDie (clusterDie (core / 4)) fun d => d.raise p

/-- The issuer y lies in the scope instance of an operation of group x (R182). The engines and, at SYSTEM, the hub cores and the CXL host that an instance holds besides
issue no scoped operation of their own: what they see of a release is what it has brought to its point (`LineReq.narrow`). -/
def State.inScope (st : State) (scope x y : Nat) : Bool :=
  match scope with
  | 0 => decide (x = y)
  | 1 => (match mget st.groups x, mget st.groups y with
    | some a, some b => decide (a.wg = b.wg)
    | _, _ => false)
  | 2 => decide (gCluster x = gCluster y)
  | 3 => decide (gDie x = gDie y)
  | _ => decide (dieDev st.mode (gDie x) = dieDev st.mode (gDie y))

/-- Operations of two groups, each with its scope, are mutually scoped (R183). -/
def State.mutual (st : State) (x sx y sy : Nat) : Bool := st.inScope sx x y && st.inScope sy y x

/-- A group's acquire binds to it the lines that mutually scoped releases have ordered and that are not yet at their homes: its accesses from number `from_` on come after
them (R183, R185). -/
def State.bindSeen (st : State) (gid scope from_ : Nat) : State :=
  let bind := fun (i : Nat) (l : LineReq) => if !l.done && l.seen.any fun s => st.mutual i s gid scope then { l with bound := (gid, from_) :: l.bound } else l
  { st with groups := mmap st.groups fun i g => if i = gid then g else { g with memq := g.memq.map fun a => { a with lines := a.lines.map (bind i) } } }

/-- The acquire step of a scope (R202), for accesses from number `from_` on; at SYSTEM it takes in what the HOST path wrote (R191). -/
def State.acquireFrom (st : State) (gid scope from_ : Nat) : State :=
  let g := mgetD st.groups gid { wg := 0 }
  let st := (st.raisePts (gCore gid) g.amark).bindSeen gid scope from_
  if scope = 5 then st.raisePts (gCore gid) (st.die (gDie gid)).maxT else st

/-- The acquire step of a scope for what a group issues next. -/
def State.acquire (st : State) (gid scope : Nat) : State := st.acquireFrom gid scope (mgetD st.groups gid { wg := 0 }).nextId

/-! Traps. -/

/-- The context's fault (R412): the double fault logged for the stream that raised it, its issue stops, queued commands, conversions and spillway entries are discarded,
a pinned FAULT record with the causes and TINFO (R452), and a signal to the hub cores. -/
def State.contextFault (st : State) (gid c1 c2 : Nat) (acc : Bool := false) (detail : Nat := 0) : State :=
  let g := mgetD st.groups gid { wg := 0 }
  let c := st.ctxOf g
  let st := (st.trapRec c gid acc (if acc then g.icntA else g.icntC) c2).getD st
  let st := st.updCtx c fun x => { x with state := .faulted }
  let st := { st with
    clusters := mmap st.clusters fun _ x => { x with copyQ := x.copyQ.filter fun e => e.started || decide (e.ctx ≠ c)
                                                     fabQ := x.fabQ.filter fun e => e.started || decide (e.ctx ≠ c) }
    convs := st.convs.filter fun v => decide (v.ctx ≠ c)
    spillways := mmap st.spillways fun _ l => l.filter fun e => decide (e.ctx ≠ c)
    signals := st.signals ++ [c] }
  st.faultRec (gDie gid) c (locOf gid 0) c1 c2 (tinfoOf gid acc detail)

/-- Every held entry of a stream committed (R30), and the unit of one that was poisoned (R414). -/
def Group.commitWith (g : Group) (acc : Bool) : Group × Option Nat :=
  let es := if acc then g.wbA else g.wbC
  let bad := (es.find? fun e => e.poison).map (·.unit)
  let g := es.foldl commitOne g
  (if acc then { g with wbA := [] } else { g with wbC := [] }, bad)

/-- Whether the trap's own entry can proceed: held entries have returned, every reserved LQ entry is filled, and a VDEF that is reading has defined its slot,
before which the access stream issues nothing (R153, R410). -/
def Group.drained (g : Group) : Bool :=
  allReturned g.wbC && allReturned g.wbA && (g.lq.all fun e => e.2.all fun q => q.ready) && g.memq.all fun a => decide (a.kind ≠ .vdef)

/-- The vector block obeys R409. -/
def vectorOk (b : Nat) : Bool := decide (b % 4 = 0) && decide (b / 2 ^ 64 % 4 = 0) && decide (b / 2 ^ 192 = 0)

/-- The address a trap reports in TPC: the stream's own PC (R44, R407). -/
def Group.trapPc (g : Group) (p : Pend) : Nat :=
  if p.acc then g.apc.toNat else match g.splitAt p.slot with
    | some s => s.pc.toNat
    | none => 0

/-- Trap entry's last steps: the frame, the emptied queues, the trap registers, the handler split and access part (R410). -/
def Group.enter (g : Group) (gid : Nat) (p : Pend) (blk : Nat) : Group :=
  let hdata := BitVec.ofNat 64 (blk / 2 ^ 128)
  let fr : Frame := { lq := g.lq, sq := g.sq, xq := g.xq, mode := g.mode, s15 := g.getS 15, a31 := g.getA 31, bad := g.poison.filter fun k => decide (k = pkS 15) || decide (k = pkA 31), guards := g.guards
                      apc := g.apc, aend := g.aend, await := if p.acc then .ready else g.await, why := p }
  let g := if p.acc then g else g.updSplit p.slot fun s => { s with wait := .ready }
  let g := { g with
    frame := some fr, lq := [], sq := [], xq := [], guards := [], mode := 0x000A000A#32
    tcause := causeCode p.trap.cause, tpc := g.trapPc p % 2 ^ 52, tinfo := tinfoOf gid p.acc p.trap.detail, taddr := p.trap.addr % 2 ^ 52
    tlevel := true, watchdog := 0, parked := none
    handler := some { pc := BitVec.ofNat 64 blk, mask := if g.live = 0 then g.present else g.live }
    apc := BitVec.ofNat 64 (blk / 2 ^ 64), aend := false, await := .ready, astall := false, entering := none }
  (g.putS 15 hdata).putA 31 hdata

/-- Trap entry (R410), as far as it has come: it waits for held results and loads, then reads the vector block with an acquire and enters the handler, or
faults the context. -/
def State.enterTrap (st : State) (gid : Nat) : State :=
  match mget st.groups gid with
  | none => st
  | some g =>
    match g.entering with
    | none => st
    | some p =>
      if g.drained then
        let (g, b1) := g.commitWith false
        let (g, b2) := g.commitWith true
        let ecc := fun (acc : Bool) (u : Option Nat) => match u with
          | some u => [{ trap := { cause := .eccUncorr, detail := u }, kind := .async, acc := acc }]
          | none => ([] : List Pend)
        let g := { g with pend := g.pend ++ ecc false b1 ++ ecc true b2 }
        let c := st.ctxOf g
        match (st.putGroup gid g).accessNow c (.stream gid false) 0x10000 .r 0 false with
        | .wait => st
        | .ok leaf pa st =>
          let (st, blk) := if st.tracked c leaf then st.value c gid false g.icntC (lineOf pa) (st.read pa 128) else (st, st.read pa 128)
          if vectorOk blk then (st.acquire gid 5).updGroup gid fun g => g.enter gid p blk
          else st.contextFault gid (causeCode p.trap.cause) 0 p.acc p.trap.detail
        | .fault _ t st => st.contextFault gid (causeCode p.trap.cause) (causeCode t.cause) p.acc t.detail
        | .prot t st => st.contextFault gid (causeCode p.trap.cause) (causeCode t.cause) p.acc t.detail
      else st

/-- The launch queue that a root group watches (R75). -/
def Workgroup.queueOf (w : Workgroup) (g : Group) : Nat := 16 * w.lin + g.gi

/-- The virtual address of a launch queue's header (R76, R348). -/
def State.queueHdr (st : State) (c q : Nat) : Nat := (st.ctx c).lqhdr + 128 * q

/-- A launch queue halted (R76, R77): STATE = 3 where the header can be written; its root group takes no further entry. -/
def State.queueHalt (st : State) (gid : Nat) (g : Group) : State :=
  let w := st.wgOf g
  let q := w.queueOf g
  let st := match st.vWrite w.ctx (.stream gid false) (st.queueHdr w.ctx q + 12) 4 3 with
    | .done _ st => st
    | _ => st
  st.updCtx w.ctx fun x => if q ∈ x.halted then x else { x with halted := x.halted ++ [q] }

/-- A root group that cannot reach its queue's memory halts the queue and takes no trap (R77): with a pinned FAULT record. The context's handler is never
entered for queue work, so any other trap of a root group ends in the same way (DESIGN CHOICE: log entry 13). -/
def State.rootHalt (st : State) (gid : Nat) (g : Group) (t : Trap) : State :=
  (st.queueHalt gid g).faultRec (gDie gid) (st.ctxOf g) (locOf gid 0) (causeCode t.cause) 0 t.addr

/-- Two pending causes are one (R408). -/
def samePend (a b : Pend) : Bool :=
  decide (a.trap.cause = b.trap.cause) && decide (a.acc = b.acc) && (!(decide (a.kind = .waiter) || decide (a.kind = .precise)) || decide (a.slot = b.slot))

/-- The wait that a waiter's trap, or a precise one of an instruction that was held, ends (R407): the split's; for the access stream the trapped stream's own (slot 4),
kept in the frame while a handler runs, or that of the handler's access part (slot 5). -/
def Group.endWait (g : Group) (p : Pend) : Group :=
  if p.kind ≠ .waiter ∧ p.kind ≠ .precise then g
  else if p.acc then
    match (if p.slot = 5 then none else g.frame) with
    | some fr => { g with frame := some { fr with await := .trapped } }
    | none => { g with await := .trapped }
  else g.updSplit p.slot fun s => { s with wait := .trapped }

/-- A cause that stands until the group can take it (R408): a second instance of a pending cause joins the first. -/
def State.postTrap (st : State) (gid : Nat) (p : Pend) : State :=
  st.updGroup gid fun g => (if g.pend.any (samePend p) then g else { g with pend := g.pend ++ [p] }).endWait p

/-- A group in the handler of a cut point's breakpoint: what it issues stands outside the log (R440). -/
def Group.outside (g : Group) : Bool := g.frame.any fun f => decide (f.why.trap.cause = .bkpt) && decide (2 ^ 20 ≤ f.why.trap.detail)

/-- The code of the trap that a group's handler handles, 0 outside one (R412). -/
def Group.handled (g : Group) : Nat := (g.frame.map fun f => causeCode f.why.trap.cause).getD 0

/-- A trap that a group takes now (R407, R408): a root group's halts its queue (R77); at trap level, and in a save or restore handler, it faults the context (R412, R353); else
the group stops and enters its handler. A trap that is not precise passes the log first (R408), but for a cut point's (R439). -/
def State.takeTrap (st : State) (gid : Nat) (p : Pend) : State :=
  match mget st.groups gid with
  | none => st
  | some g =>
    if !g.saver && (st.gridOf (st.wgOf g)).root then st.rootHalt gid g p.trap
    else if g.tlevel || g.saver then st.contextFault gid g.handled (causeCode p.trap.cause) p.acc p.trap.detail
    else
      let c := st.ctxOf g
      let go := if (p.kind = .precise ∧ !p.trap.declined) ∨ (p.trap.cause = .bkpt ∧ 2 ^ 20 ≤ p.trap.detail) then some st
        else st.trapRec c gid p.acc (if p.acc then g.icntA else g.icntC) (causeCode p.trap.cause)
      match go with
      | none => if p.kind = .waiter ∨ p.trap.declined then st.postTrap gid p else st
      | some st => (st.updGroup gid fun g => { g with entering := some p }).enterTrap gid

/-- A trap that ends a wait or a held instruction (R407): taken at once, or kept while the group is in a handler or entering one, or has another cause to take first. -/
def State.standingTrap (st : State) (gid : Nat) (p : Pend) : State :=
  match mget st.groups gid with
  | none => st
  | some g =>
    if (if g.tlevel then decide (p.slot ≠ 5) else g.entering.isSome || decide (g.pend ≠ [])) then st.postTrap gid p
    else st.takeTrap gid p

/-- A trap for a split or stream held in a wait (R407). -/
def State.waiterTrap (st : State) (gid : Nat) (acc : Bool) (slot : Nat) (t : Trap) : State :=
  st.standingTrap gid { trap := t, kind := .waiter, acc := acc, slot := slot }

/-- The precise trap of an instruction held at a page that is declined (R159, R340): logged, as the host decides it (R343). -/
def State.declinedTrap (st : State) (gid : Nat) (acc : Bool) (slot : Nat) (t : Trap) : State :=
  st.standingTrap gid { trap := { t with declined := true }, kind := .precise, acc := acc, slot := slot }

/-- The pending causes a stream may take (R408): WATCHDOG stands for both streams. -/
def Group.pendsOf (g : Group) (acc : Bool) : List Pend :=
  if g.tlevel then [] else g.pend.filter fun p =>
    if p.kind = .deferred then acc
    else if p.trap.cause = .watchdog then true
    else p.acc == acc

/-- The pending cause a stream takes at an issue (R408): the precise one of an instruction that was held, a deferred one, then the lowest code. -/
def Group.duePend (g : Group) (acc : Bool) : Option Pend :=
  let mine := g.pendsOf acc
  match (mine.find? fun p => decide (p.kind = .precise)).or (mine.find? fun p => decide (p.kind = .deferred)) with
  | some p => some p
  | none =>
    match (mine.map fun p => causeCode p.trap.cause).min? with
    | some k => mine.find? fun p => decide (causeCode p.trap.cause = k)
    | none => none

/-- The TRAP record that a replaying stream's log names next (R425). -/
def State.nextTrapRec (st : State) (c gid : Nat) (acc : Bool) : Option Nat :=
  match (st.ctx c).replay with
  | none => none
  | some rp =>
    let mk := (recTrap 0 (recGroup gid) acc 0).headD 0
    ((mgetD rp.logs (gCluster gid) []).find? fun e => decide (e.2.headD 0 / 2 ^ 60 = 7) && decide (bits (e.2.headD 0) 46 37 = bits mk 46 37)).map fun e => e.2.headD 0

/-- What a stream does about traps at an issue: none where a replaying stream stands at the count its next TRAP record names and the cause has not yet come,
so that it waits; else the cause it takes, if any: on replay the logged one at its count, or a cut point's (R408, R425, R439). -/
def State.trapTurn (st : State) (gid : Nat) (g : Group) (acc : Bool) : Option (Option Pend) :=
  let c := st.ctxOf g
  if (st.ctx c).replay.any fun r => !r.off then
    match (g.pendsOf acc).find? fun p => (decide (p.trap.cause = .bkpt) && decide (2 ^ 20 ≤ p.trap.detail)) || (decide (p.kind = .precise) && !p.trap.declined) with
    | some p => some (some p)
    | none => match st.nextTrapRec c gid acc with
      | none => some none
      | some w =>
        if w % 2 ^ 37 = (if acc then g.icntA else g.icntC) then
          match (g.pendsOf acc).find? fun p => decide (causeCode p.trap.cause = bits w 54 47) with
          | some p => some (some p)
          | none => none
        else some none
  else some (g.duePend acc)

/-- The cause in which a wait, or an instruction that was held, has ended, and that a group outside a handler takes: the precise one first, then the lowest code (R407, R408); on
replay the one that its stream's log names (R425). -/
def State.endedWait (st : State) (gid : Nat) (g : Group) : Option Pend :=
  let mine := (g.pendsOf false ++ g.pendsOf true).filter fun p => decide (p.kind = .waiter) || decide (p.kind = .precise)
  if (st.ctx (st.ctxOf g)).replay.any fun r => !r.off then
    mine.find? fun p => match st.trapTurn gid g p.acc with
      | some (some q) => decide (q = p)
      | _ => false
  else
    (mine.find? fun p => decide (p.kind = .precise)).or
      ((mine.map fun p => causeCode p.trap.cause).min?.bind fun k => mine.find? fun p => decide (causeCode p.trap.cause = k))

/-- A pending cause taken at the issue of a stream (R408): the watchdog's counter resets with its trap (R91). -/
def State.takePend (st : State) (gid : Nat) (acc : Bool) (slot : Nat) (p : Pend) : State :=
  let p' := if p.kind = .waiter ∨ p.kind = .precise then p else { p with acc := acc, slot := slot }
  (st.updGroup gid fun g => { g with pend := g.pend.erase p, watchdog := if p.trap.cause = .watchdog then 0 else g.watchdog }).takeTrap gid p'

/-- The frame given back (R411, R116): queues, MODE, S15, A31, guard pairings and the other stream's place as they were kept; the trapped
stream goes on at TPC. The handler's own held entries commit first. -/
def Group.leave (g : Group) : Group :=
  match g.frame with
  | none => g
  | some fr =>
    let g := (g.commitWith false).1
    let g := (g.commitWith true).1
    let acc := fr.why.acc
    let tpc := BitVec.ofNat 64 g.tpc
    let g := (g.putS 15 fr.s15).putA 31 fr.a31
    let g := { g with
      poison := fr.bad ++ g.poison
      lq := fr.lq, sq := fr.sq, xq := fr.xq, mode := fr.mode, guards := fr.guards
      apc := if acc then tpc else fr.apc, aend := fr.aend, await := fr.await
      handler := none, frame := none, tlevel := false, tcause := 0 }
    if acc then g else { g with splits := mupd g.splits fr.why.slot fun s => { s with pc := tpc } }

/-! The census. -/

/-- The row an issue at a PC counts in: the lowest bin that holds it, else 64 (R446, R447). -/
def censusRow (bins : List (Nat × Nat)) (pc : Nat) : Nat :=
  match (List.range bins.length).find? fun i => match bins[i]? with
      | some (lo, hi) => decide (lo ≤ pc) && decide (pc ≤ hi)
      | none => false with
  | some i => i
  | none => 64

/-- One class's count raised: classes 0 active, 1 masked, 2 predicated off, 3 absent, 4 idle. -/
def addCount (m : FMap Nat) (c row cls n : Nat) : FMap Nat :=
  if n = 0 then m else mset m (c * 512 + row * 5 + cls) ((mgetD m (c * 512 + row * 5 + cls) 0 + n) % 2 ^ 64)

/-- The census counts for a context at a core: as CENSUSCTL says, but for 4,096 cycles after a write either as it says or as it said before, by a free choice `k` (R447,
log entry 42). -/
def State.censusOn (st : State) (c k : Nat) : Bool :=
  let x := st.ctx c
  if x.censusWas ≠ x.censusEn ∧ st.clock < x.censusAt + 4096 ∧ Config.censusOld k then x.censusWas else x.censusEn

/-- An issue noted for its pipe, where some context counts (R446). -/
def State.noteIssue (st : State) (gid : Nat) : State :=
  if st.ctxs.any fun e => e.2.censusEn || e.2.censusWas then
    st.updCore (gCore gid) fun k => { k with busy := mset k.busy (gid % 128 / 2) (mgetD k.busy (gid % 128 / 2) 0 + 1) }
  else st

/-- The census of one compute-stream issue (R446). -/
def State.census (st : State) (gid : Nat) (g : Group) (s : Split) (guarded : Bool) (w : Nat) : State :=
  let c := st.ctxOf g
  let st := st.noteIssue gid
  if st.censusOn c st.issueNo then
    let absent := popMask (~~~g.present)
    let masked := popMask (g.present &&& ~~~s.mask)
    let off := if guarded && g.ge then
        ((List.range 32).filter fun t => s.mask.getLsbD t && !(List.range (64 / w)).any fun i => g.enabled w t i).length
      else 0
    st.updCore (gCore gid) fun k =>
      let row := censusRow (st.ctx c).bins s.pc.toNat
      { k with census := addCount (addCount (addCount (addCount k.census c row 0 (popMask s.mask - off)) c row 1 masked) c row 2 off) c row 3 absent }
  else st

/-- A group may issue (R352 to R354, R436): while its context's replay, if any, runs; one of a running context whose workgroup is placed; while its context or
workgroup is switched, a save or restore handler, and a group at trap level until it waits. -/
def State.runs (st : State) (g : Group) : Bool :=
  let placed := decide ((st.wgOf g).state = .placed)
  let x := st.ctx (st.ctxOf g)
  if x.replay.any fun r => decide (r.state ≠ 2) then false else
  match x.state with
  | .running | .resuming => g.saver || placed
  | .preempting => g.saver || g.tlevel
  | _ => false

/-! Issue of the compute stream. -/

/-- A source register of the issue is poisoned (R414): the V register of a thread whose copy the instruction reads, a P register of an active thread, or an S
register. -/
def Group.badSource (g : Group) (s : Split) (sp : IssueSpec) : Bool :=
  if g.poison = [] then false else
  let ts := (List.range 32).filter fun t => s.mask.getLsbD t
  let reads := fun (f : BitVec 6) => (List.range 32).filter fun t => (sp.lanes g s f).getLsbD t
  ((sp.srcs ++ sp.more g).any fun f => (isV f && (reads f).any fun t => decide (pkV f.toNat t ∈ g.poison)) || (isS f && decide (pkS (f.toNat - 48) ∈ g.poison)))
    || ((sp.pregs ++ (if sp.guarded && g.ge then [g.gp] else [])).any fun r => ts.any fun t => decide (pkP r t ∈ g.poison))

/-- What a queue operand gives before the effect. -/
inductive Queue where
  | ok | stall | trap (t : Trap)

/-- The pops and the push of one issue (R34, R35, R158, R414): an empty queue or a full one stalls, or traps once the access stream has ended; a
poisoned head entry traps. -/
def Group.queues (g : Group) (sp : IssueSpec) : Queue :=
  let qs := lqsOf sp.srcs
  if qs.any fun n => (g.getLq n).isEmpty then (if g.aend then .trap { cause := .queueError } else .stall)
  else
    let full := match sp.dst with
      | some d => (decide (d.toNat = 36) && decide (2 ≤ g.sq.length)) || (decide (d.toNat = 37) && decide (4 ≤ g.xq.length))
      | none => false
    if full then (if g.aend then .trap { cause := .queueError } else .stall)
    else if qs.any fun n => match g.getLq n with
        | e :: _ => !e.ready
        | [] => true then .stall
    else match qs.findSome? fun n => match g.getLq n with
        | e :: _ => if e.poison ≠ 0 then some e.unit else none
        | [] => none with
      | some u => .trap { cause := .eccUncorr, detail := u }
      | none => .ok

/-- The flags that matrix passes left for a group at its next marked instruction (R255), taken. -/
def State.takeMflags (st : State) (gid : Nat) : State :=
  let cl := gCluster gid
  let fs := (st.cluster cl).mflags.filter fun f => decide (f.group = gid)
  if fs = [] then st else
    (st.updCluster cl fun k => { k with mflags := k.mflags.filter fun f => decide (f.group ≠ gid) }).updGroup gid fun g =>
      { g with stat := fs.foldl (fun a f => a ||| f.flags) g.stat }

/-- What every compute issue does beside its own effect: LQ pops (R56), the PC, counts (R424), the elder counter (R60), the time of the
issue (R85), the end of a YIELD (R106), the census. -/
def State.retireC (st : State) (gid slot : Nat) (g0 : Group) (s0 : Split) (sp : IssueSpec) : State :=
  let elder := if slot = 5 then g0.elder else if g0.elderSlot = some slot then 0 else min 15 (g0.elder + 1)
  let st := st.updGroup gid fun g =>
    let g := g.popLqs (lqsOf sp.srcs)
    let g := if sp.adv then g.updSplit slot fun s => { s with pc := s.pc + 4 } else g
    { g with icntC := if g0.outside then g.icntC else (g.icntC + 1) % 2 ^ 37, elder := elder, lastC := st.issueNo + 1, yielded := if sp.yields then some slot else none }
  ({ st with issueNo := st.issueNo + 1 }).census gid g0 s0 sp.guarded (sp.gwidth g0)

/-- The group whose parked word is about to issue, or has been given up (R30, R60). -/
def Group.unpark (g : Group) : Group := { g with parked := none }

/-- The issue of a compute-stream word for one split (R29, R30, R35, R407, R408): the marker's park and commits; the precise causes in
order; a pending cause; a stall; else the effect. While the marker parks the stream, no other split of the group issues (R60). -/
def State.issueAt (st : State) (gid slot : Nat) (g : Group) (s : Split) (m : BitVec 1) (sp : IssueSpec)
    (body : State → Group → Split → IEff) : State :=
  let must := decide (m = 1#1) || (decide (8 ≤ g.wbC.length) && sp.async g s)
  let turn := st.trapTurn gid g false
  if turn.isNone then st
  else if must && !allReturned g.wbC then st.updGroup gid fun g => { g with parked := some slot }
  else
    let (g, bad) := if must then g.commitWith false else (g, none)
    let g := g.unpark
    let st := st.putGroup gid g
    let st := if m = 1#1 then st.takeMflags gid else st
    let g := mgetD st.groups gid g
    let prec := fun (t : Trap) (st : State) => st.takeTrap gid { trap := t, kind := .precise, slot := slot }
    let run := fun (q : IEff) => match turn.getD none with
      | some p => if slot = 5 then (match q with
          | .done st' => st'.retireC gid slot g s sp
          | .trap t st' => prec t st'
          | .hold st' => st') else (match q with
          | .trap t st' => prec t st'
          | _ => st.takePend gid false slot p)
      | none => match q with
          | .done st' => st'.retireC gid slot g s sp
          | .trap t st' => prec t st'
          | .hold st' => st'
    match bad with
    | some u => prec { cause := .eccUncorr, detail := u } st
    | none =>
      if !sp.legal then prec (illegal) st
      else if !sp.mode g then prec { cause := .modeInvalid } st
      else if !sp.fits g then prec (illegal) st
      else if g.badSource s sp then prec { cause := .eccUncorr, detail := 1 } st
      else match g.queues sp with
        | .trap t => prec t st
        | .stall => run (.hold st)
        | .ok => run (body st g s)

/-- The issue of a compute-stream word for the issuer that `step` names. -/
def issueC (st : State) (m : BitVec 1) (sp : IssueSpec) (body : State → Group → Split → IEff) : Ans :=
  match mget st.groups st.issuer.group with
  | none => .fault .noIssuer
  | some g =>
    match g.splitAt st.issuer.slot with
    | none => .fault .noIssuer
    | some s => .next (st.issueAt st.issuer.group st.issuer.slot g s m sp body)

/-- The issue of an instruction that changes nothing but its own group. -/
def groupOp (st : State) (m : BitVec 1) (sp : IssueSpec) (f : Group → Split → GEff) : Ans :=
  issueC st m sp fun st g s => match f g s with
    | .done g' => .done (st.putGroup st.issuer.group g')
    | .trap t => .trap t st

/-! Issue of the access stream. -/

/-- What the issue of an access-stream word checks before its effect, and whether it is asynchronous and goes on to the next word. -/
structure AccSpec where
  legal : Bool
  async : Bool := false
  adv : Bool := true

/-- What every access-stream issue does beside its own effect. -/
def State.retireA (st : State) (gid : Nat) (sp : AccSpec) (out : Bool) : State :=
  let st := st.updGroup gid fun g =>
    { g with apc := if sp.adv then g.apc + 4 else g.apc, icntA := if out then g.icntA else (g.icntA + 1) % 2 ^ 37, lastA := st.issueNo + 1, yielded := none
             astall := false }
  { st with issueNo := st.issueNo + 1 }

/-- An access stream that a queue, the marker or an engine keeps from issuing (R90). -/
def State.stallA (st : State) (gid : Nat) : State := st.updGroup gid fun g => { g with astall := true }

/-- The issue of an access-stream word (R29, R30, R140, R408); a marked one takes the flags that matrix passes left (R255). -/
def State.issueAccess (st : State) (gid : Nat) (g : Group) (m : BitVec 1) (sp : AccSpec) (body : State → Group → IEff) : State :=
  let must := decide (m = 1#1) || (decide (8 ≤ g.wbA.length) && sp.async)
  let turn := st.trapTurn gid g true
  if turn.isNone then st
  else if must && !allReturned g.wbA then st.stallA gid
  else
    let (g, bad) := if must then g.commitWith true else (g, none)
    let st := st.putGroup gid g
    let st := if m = 1#1 then st.takeMflags gid else st
    let g := mgetD st.groups gid g
    let prec := fun (t : Trap) (st : State) => st.takeTrap gid { trap := t, kind := .precise, acc := true, slot := 4 }
    let fin := fun (q : IEff) => match q with
      | .done st' => st'.retireA gid sp g.outside
      | .trap t st' => prec t st'
      | .hold st' => st'.stallA gid
    match bad with
    | some u => prec { cause := .eccUncorr, detail := u } st
    | none =>
      if !sp.legal then prec (illegal) st
      else match body st g with
        | .trap t st' => prec t st'
        | q => match turn.getD none with
          | some p => st.takePend gid true 4 p
          | none => fin q

/-- The issue of an access-stream word for the issuer that `step` names: slot 4. -/
def issueA (st : State) (m : BitVec 1) (sp : AccSpec) (body : State → Group → IEff) : Ans :=
  match mget st.groups st.issuer.group with
  | none => .fault .noIssuer
  | some g => if st.issuer.slot = 4 then .next (st.issueAccess st.issuer.group g m sp body) else .fault .noIssuer

/-- An access-stream instruction that changes nothing but its own group. -/
def accessOp (st : State) (m : BitVec 1) (sp : AccSpec) (f : Group → GEff) : Ans :=
  issueA st m sp fun st g => match f g with
    | .done g' => .done (st.putGroup st.issuer.group g')
    | .trap t => .trap t st

end Sys2Proof.Machine
end

