-- ==== Sys2Proof/Machine/Integer.lean ====
section
/-! DEFINITION. Integer arithmetic, compares, selects, predicates and moves of the compute stream (R264 to R277). One meaning per
instruction, over shared element operations. -/

namespace Sys2Proof.Machine

/-- The elements of a one-source per-thread operation at width w (R264). -/
def elem1 (g : Group) (sp : Split) (w : Nat) (a : BitVec 6) (f : Nat → NumRes) : Out :=
  let ra := g.src w a
  outOf w (lanesOf sp.mask (64 / w) (g.enabled w) fun t s => f (elemAt ra w (t * (64 / w) + s)))

/-- The elements of a two-source per-thread operation at width w (R264). -/
def elem2 (g : Group) (sp : Split) (w : Nat) (a b : BitVec 6) (f : Nat → Nat → NumRes) : Out :=
  let ra := g.src w a
  let rb := g.src w b
  outOf w (lanesOf sp.mask (64 / w) (g.enabled w) fun t s =>
    f (elemAt ra w (t * (64 / w) + s)) (elemAt rb w (t * (64 / w) + s)))

/-- The elements of a three-source per-thread operation at width w (R264). -/
def elem3 (g : Group) (sp : Split) (w : Nat) (a b c : BitVec 6) (f : Nat → Nat → Nat → NumRes) : Out :=
  let ra := g.src w a
  let rb := g.src w b
  let rc := g.src w c
  outOf w (lanesOf sp.mask (64 / w) (g.enabled w) fun t s =>
    f (elemAt ra w (t * (64 / w) + s)) (elemAt rb w (t * (64 / w) + s)) (elemAt rc w (t * (64 / w) + s)))

/-- MODE.ET 0 to 7 or 14 (R266). -/
def intEt (g : Group) : Bool := g.et.isWordInt || decide (g.et = .i4)

/-- MODE.ET 0 to 7, 14 or 15 (R266). -/
def intT2Et (g : Group) : Bool := intEt g || decide (g.et = .t2)

/-- A two-source integer operation: `f` on the values in the type, stored by R244 or R245, with the flags of reading. -/
def intBin (t : ETy) (sat : Bool) (f : Int → Int → Int) (x y : Nat) : NumRes :=
  joinFlags (storeInt t sat (f (readInt t x).1 (readInt t y).1)) (readInt t x).2 (readInt t y).2

/-- An exact integer operation on values in the type: no store flag (R268). -/
def intExact (t : ETy) (f : Int → Int → Int) (x y : Nat) : NumRes :=
  ⟨low t.width (f (readInt t x).1 (readInt t y).1), (readInt t x).2 ||| (readInt t y).2⟩

/-- An operation on the bits of sub-elements (R268). -/
def bitBin (t : ETy) (f : Nat → Nat → Nat) (x y : Nat) : NumRes := ⟨f x y % 2 ^ t.width, 0#8⟩

/-- a rotated left by n bits within w (R268). -/
def rotl (w n x : Nat) : Nat := (x * 2 ^ (n % w) % 2 ^ w) + x % 2 ^ w / 2 ^ (w - n % w)

/-- SHL of R268: a × 2^(b mod w), stored by R244. -/
def shlRes (t : ETy) (sat : Bool) (x n : Nat) : NumRes := storeInt t sat ((readInt t x).1 * 2 ^ (n % t.width))

/-- SHR of R268: floor(a / 2^(b mod w)), arithmetic for I types. -/
def shrRes (t : ETy) (x n : Nat) : NumRes := ⟨low t.width ((readInt t x).1 / 2 ^ (n % t.width)), 0#8⟩

/-- ROT of R268. -/
def rotRes (t : ETy) (x n : Nat) : NumRes := ⟨rotl t.width n x, 0#8⟩

/-- Leading zero bits within w (R269). -/
def clz (w x : Nat) : Nat := if x % 2 ^ w = 0 then w else w - 1 - Nat.log2 (x % 2 ^ w)

/-- Trailing zero bits within w (R269). -/
def ctz (w x : Nat) : Nat := ((List.range w).find? fun i => x.testBit i).getD w

/-- 1 bits within w (R269). -/
def popc (w x : Nat) : Nat := ((List.range w).filter fun i => x.testBit i).length

/-- Bit i moved to bit w − 1 − i (R269). -/
def brevN (w x : Nat) : Nat := packN 1 ((List.range w).map fun i => if x.testBit (w - 1 - i) then 1 else 0)

/-- What a two-source per-thread integer instruction checks and reads. -/
def binSpec (d a b : BitVec 6) (mode : Group → Bool) : IssueSpec :=
  { legal := dstOk d && srcOk a && srcOk b, srcs := [a, b], dst := some d, mode := mode }

/-- What a one-source per-thread instruction checks and reads. -/
def unSpec (d a : BitVec 6) (mode : Group → Bool) : IssueSpec :=
  { legal := dstOk d && srcOk a, srcs := [a], dst := some d, mode := mode }

/-- A two-source element operation under MODE.ET, written to d. -/
def bin (g : Group) (sp : Split) (d a b : BitVec 6) (f : ETy → Bool → Nat → Nat → NumRes) : GEff :=
  .done (g.writeOut d (elem2 g sp g.et.width a b (f g.et g.sat)))

/-- A one-source element operation under MODE.ET, written to d. -/
def un (g : Group) (sp : Split) (d a : BitVec 6) (f : ETy → Bool → Nat → NumRes) : GEff :=
  .done (g.writeOut d (elem1 g sp g.et.width a (f g.et g.sat)))


/-- ADD: a + b (R268). -/
def execAdd (s : BitVec 1) (d a b : BitVec 6) (st : State) : Ans :=
  groupOp st s (binSpec d a b intT2Et) fun g sp => bin g sp d a b (fun t st => intBin t st (· + ·))

/-- SUB: a − b (R268). -/
def execSub (s : BitVec 1) (d a b : BitVec 6) (st : State) : Ans :=
  groupOp st s (binSpec d a b intT2Et) fun g sp => bin g sp d a b (fun t st => intBin t st (· - ·))

/-- MUL: a × b (R268). -/
def execMul (s : BitVec 1) (d a b : BitVec 6) (st : State) : Ans :=
  groupOp st s (binSpec d a b intEt) fun g sp => bin g sp d a b (fun t st => intBin t st (· * ·))

/-- MULH: floor(a × b / 2^w) (R268). -/
def execMulh (s : BitVec 1) (d a b : BitVec 6) (st : State) : Ans :=
  groupOp st s (binSpec d a b intEt) fun g sp => bin g sp d a b (fun t _ => intExact t fun x y => x * y / 2 ^ t.width)

/-- MIN: the lesser (R268). -/
def execMin (s : BitVec 1) (d a b : BitVec 6) (st : State) : Ans :=
  groupOp st s (binSpec d a b intT2Et) fun g sp => bin g sp d a b (fun t _ => intExact t min)

/-- MAX: the greater (R268). -/
def execMax (s : BitVec 1) (d a b : BitVec 6) (st : State) : Ans :=
  groupOp st s (binSpec d a b intT2Et) fun g sp => bin g sp d a b (fun t _ => intExact t max)

/-- AND: bitwise (R268). -/
def execAnd (s : BitVec 1) (d a b : BitVec 6) (st : State) : Ans :=
  groupOp st s (binSpec d a b intEt) fun g sp => bin g sp d a b (fun t _ => bitBin t (· &&& ·))

/-- OR: bitwise (R268). -/
def execOr (s : BitVec 1) (d a b : BitVec 6) (st : State) : Ans :=
  groupOp st s (binSpec d a b intEt) fun g sp => bin g sp d a b (fun t _ => bitBin t (· ||| ·))

/-- XOR: bitwise (R268). -/
def execXor (s : BitVec 1) (d a b : BitVec 6) (st : State) : Ans :=
  groupOp st s (binSpec d a b intEt) fun g sp => bin g sp d a b (fun t _ => bitBin t (· ^^^ ·))

/-- ANDN: a and not b (R268). -/
def execAndn (s : BitVec 1) (d a b : BitVec 6) (st : State) : Ans :=
  groupOp st s (binSpec d a b intEt) fun g sp => bin g sp d a b (fun t _ => bitBin t fun x y => x ^^^ (x &&& y))

/-- SHL: a × 2^(b mod w) (R268). -/
def execShl (s : BitVec 1) (d a b : BitVec 6) (st : State) : Ans :=
  groupOp st s (binSpec d a b intEt) fun g sp => bin g sp d a b (shlRes)

/-- SHR: floor(a / 2^(b mod w)) (R268). -/
def execShr (s : BitVec 1) (d a b : BitVec 6) (st : State) : Ans :=
  groupOp st s (binSpec d a b intEt) fun g sp => bin g sp d a b (fun t _ => shrRes t)

/-- ROT: a rotated left by b mod w (R268). -/
def execRot (s : BitVec 1) (d a b : BitVec 6) (st : State) : Ans :=
  groupOp st s (binSpec d a b intEt) fun g sp => bin g sp d a b (fun t _ => rotRes t)

/-- ADDC: the carry of a + b, read as unsigned (R268). -/
def execAddc (s : BitVec 1) (d a b : BitVec 6) (st : State) : Ans :=
  groupOp st s (binSpec d a b intEt) fun g sp => bin g sp d a b (fun t _ => bitBin t fun x y => (x + y) / 2 ^ t.width)

/-- SUBB: the borrow of a − b, read as unsigned (R268). -/
def execSubb (s : BitVec 1) (d a b : BitVec 6) (st : State) : Ans :=
  groupOp st s (binSpec d a b intEt) fun g sp => bin g sp d a b (fun t _ => bitBin t fun x y => if x < y then 1 else 0)

/-- ABSD: abs(a − b) (R268). -/
def execAbsd (s : BitVec 1) (d a b : BitVec 6) (st : State) : Ans :=
  groupOp st s (binSpec d a b intEt) fun g sp => bin g sp d a b (fun t st => intBin t st fun x y => ((x - y).natAbs : Int))

/-- NEG: −a (R269). -/
def execNeg (s : BitVec 1) (d a : BitVec 6) (st : State) : Ans :=
  groupOp st s (unSpec d a intT2Et) fun g sp => un g sp d a (fun t st x => intBin t st (fun a _ => -a) x 0)

/-- ABS: abs(a); an N source unchanged (R269). -/
def execAbs (s : BitVec 1) (d a : BitVec 6) (st : State) : Ans :=
  groupOp st s (unSpec d a intT2Et) fun g sp => un g sp d a (fun t st x => intBin t st (fun a _ => (a.natAbs : Int)) x 0)

/-- NOT: bitwise complement (R269). -/
def execNot (s : BitVec 1) (d a : BitVec 6) (st : State) : Ans :=
  groupOp st s (unSpec d a intEt) fun g sp => un g sp d a (fun t _ x => ⟨2 ^ t.width - 1 - x, 0#8⟩)

/-- CLZ: leading zeros (R269). -/
def execClz (s : BitVec 1) (d a : BitVec 6) (st : State) : Ans :=
  groupOp st s (unSpec d a intEt) fun g sp => un g sp d a (fun t _ x => ⟨clz t.width x % 2 ^ t.width, 0#8⟩)

/-- CTZ: trailing zeros (R269). -/
def execCtz (s : BitVec 1) (d a : BitVec 6) (st : State) : Ans :=
  groupOp st s (unSpec d a intEt) fun g sp => un g sp d a (fun t _ x => ⟨ctz t.width x % 2 ^ t.width, 0#8⟩)

/-- POPC: 1 bits (R269). -/
def execPopc (s : BitVec 1) (d a : BitVec 6) (st : State) : Ans :=
  groupOp st s (unSpec d a intEt) fun g sp => un g sp d a (fun t _ x => ⟨popc t.width x % 2 ^ t.width, 0#8⟩)

/-- BREV: bits reversed (R269). -/
def execBrev (s : BitVec 1) (d a : BitVec 6) (st : State) : Ans :=
  groupOp st s (unSpec d a intEt) fun g sp => un g sp d a (fun t _ x => ⟨brevN t.width x, 0#8⟩)

/-- MAD: a × b + c, exact, stored once by R244 (R270). -/
def execMad (s : BitVec 1) (d a b c : BitVec 6) (st : State) : Ans :=
  groupOp st s { legal := dstOk d && srcOk a && srcOk b && srcOk c, srcs := [a, b, c], dst := some d, mode := intEt } fun g sp =>
    .done (g.writeOut d (elem3 g sp g.et.width a b c fun x y z =>
      storeInt g.et g.sat ((readInt g.et x).1 * (readInt g.et y).1 + (readInt g.et z).1)))

/-- The place and length of a bit field (R271). -/
def fieldAt (w b c : Nat) : Nat × Nat := (b % w, min (c % (2 * w)) (w - b % w))

/-- BFE: a bit field extracted, zero-extended for N types and sign-extended for I types (R271). -/
def execBfe (s : BitVec 1) (d a b c : BitVec 6) (st : State) : Ans :=
  groupOp st s { legal := dstOk d && srcOk a && srcOk b && srcOk c, srcs := [a, b, c], dst := some d, mode := fun g => g.et.isWordInt } fun g sp =>
    .done (g.writeOut d (elem3 g sp g.et.width a b c fun x y z =>
      let (pos, len) := fieldAt g.et.width y z
      let v := x / 2 ^ pos % 2 ^ len
      ⟨if len = 0 then 0 else if g.et.isN then v else low g.et.width (sgn len v), 0#8⟩))

/-- BFI: a bit field of the old destination replaced (R271, R265). -/
def execBfi (s : BitVec 1) (d a b c : BitVec 6) (st : State) : Ans :=
  groupOp st s { legal := isV d && srcOk a && srcOk b && srcOk c, srcs := [d, a, b, c], dst := some d, mode := fun g => g.et.isWordInt } fun g sp =>
    let w := g.et.width
    let old := g.src w d
    let ra := g.src w a
    let rb := g.src w b
    let rc := g.src w c
    .done (g.writeOut d (outOf w (lanesOf sp.mask (64 / w) (g.enabled w) fun t i =>
      let p := t * (64 / w) + i
      let (pos, len) := fieldAt w (elemAt rb w p) (elemAt rc w p)
      let o := elemAt old w p
      ⟨o - o / 2 ^ pos % 2 ^ len * 2 ^ pos + elemAt ra w p % 2 ^ len * 2 ^ pos, 0#8⟩)))

/-- ADDI: a + sext(imm12, 12), stored by R244 (R272). -/
def execAddi (s : BitVec 1) (d a : BitVec 6) (i : BitVec 12) (st : State) : Ans :=
  groupOp st s (unSpec d a intEt) fun g sp => un g sp d a fun t sat x => storeInt t sat ((readInt t x).1 + sgn 12 i.toNat)

/-- SHI: a shift by an immediate below the width, 0 SHL, 1 SHR, 2 ROT (R272). -/
def execShi (s : BitVec 1) (d a : BitVec 6) (k : BitVec 2) (n : BitVec 6) (st : State) : Ans :=
  groupOp st s { unSpec d a intEt with legal := dstOk d && srcOk a && decide (k ≠ 3#2), fits := fun g => decide (n.toNat < g.et.width) } fun g sp =>
    un g sp d a fun t sat x =>
      if k = 0#2 then shlRes t sat x n.toNat else if k = 1#2 then shrRes t x n.toNat else rotRes t x n.toNat

/-- A 16-bit literal placed in quarter h of a 64-bit word (R273). -/
def litInto (old : Nat) (h : Nat) (imm : BitVec 16) : Nat :=
  if h = 0 then (imm.signExtend 64).toNat
  else old % 2 ^ 64 - old / 2 ^ (16 * h) % 2 ^ 16 * 2 ^ (16 * h) + imm.toNat * 2 ^ (16 * h)

/-- LIT: a 64-bit literal in every active thread, whatever ET and the guard (R273). -/
def execLit (s : BitVec 1) (d : BitVec 6) (h : BitVec 2) (i : BitVec 16) (st : State) : Ans :=
  groupOp st s { guarded := false, legal := if h = 0#2 then dstOk d else isV d, srcs := if h = 0#2 then [] else [d], dst := some d } fun g sp =>
    .done (g.writeOut d (outThreads sp.mask fun t => litInto (laneAt (g.src 64 d) t).toNat h.toNat i))

/-- The bits of a P register a compare writes (R274): each enabled sub-element's byte positions. -/
def cmpOut (g : Group) (sp : Split) (a b : BitVec 6) (f : Nat → Nat → Bool × Flags) : ByteMask × ByteMask × Flags :=
  let w := g.et.width
  let ra := g.src w a
  let rb := g.src w b
  let o := outOf w (lanesOf sp.mask (64 / w) (g.enabled w) fun t i =>
    let p := t * (64 / w) + i
    let r := f (elemAt ra w p) (elemAt rb w p)
    ⟨if r.1 then 2 ^ w - 1 else 0, r.2⟩)
  (bytesOf o.data, o.en, o.allFlags)

/-- CMP: an element compare written to the sub-element's byte bits of Pd (R274). -/
def execCmp (s : BitVec 1) (d a b f : BitVec 6) (st : State) : Ans :=
  groupOp st s { legal := lt8 d && srcOk a && srcOk b && decide (f.toNat < 8), srcs := [a, b],
                 mode := fun g => if f.toNat < 6 then g.et.isWordInt || g.et.isFp else g.et.isFp } fun g sp =>
    let r := cmpOut g sp a b fun x y =>
      if g.et.isFp then cmpF f.toNat (readF (fmtOf g.et) x) (readF (fmtOf g.et) y)
      else (cmpI f.toNat (readInt g.et x).1 (readInt g.et y).1, 0#8)
    .done ((g.putP d.toNat r.1 r.2.1).raise r.2.2)

/-- SEL: a's sub-element where the lowest byte's bit of Pc is 1, b's where it is 0 (R275). -/
def execSel (s : BitVec 1) (d a b c : BitVec 6) (st : State) : Ans :=
  groupOp st s { legal := dstOk d && srcOk a && srcOk b && lt8 c, srcs := [a, b], dst := some d, pregs := [c.toNat] } fun g sp =>
    let w := g.et.width
    let ra := g.src w a
    let rb := g.src w b
    let pc := g.getP c.toNat
    .done (g.writeOut d (outOf w (lanesOf sp.mask (64 / w) (g.enabled w) fun t i =>
      let p := t * (64 / w) + i
      ⟨if pc.getLsbD (8 * t + i * w / 8) then elemAt ra w p else elemAt rb w p, 0#8⟩)))

/-- All eight bits of each active thread's P register. -/
def pMaskOf (m : Mask) : ByteMask := bytesOf (expandT m)

/-- A whole P register written in every active thread (R276). -/
def plog (g : Group) (sp : Split) (d : BitVec 6) (v : ByteMask) : GEff := .done (g.putP d.toNat v (pMaskOf sp.mask))

/-- PAND (R276). -/
def execPand (s : BitVec 1) (d a b : BitVec 6) (st : State) : Ans :=
  groupOp st s { guarded := false, legal := lt8 d && lt8 a && lt8 b, pregs := [a.toNat, b.toNat] } fun g sp => plog g sp d (g.getP a.toNat &&& g.getP b.toNat)

/-- POR (R276). -/
def execPor (s : BitVec 1) (d a b : BitVec 6) (st : State) : Ans :=
  groupOp st s { guarded := false, legal := lt8 d && lt8 a && lt8 b, pregs := [a.toNat, b.toNat] } fun g sp => plog g sp d (g.getP a.toNat ||| g.getP b.toNat)

/-- PXOR (R276). -/
def execPxor (s : BitVec 1) (d a b : BitVec 6) (st : State) : Ans :=
  groupOp st s { guarded := false, legal := lt8 d && lt8 a && lt8 b, pregs := [a.toNat, b.toNat] } fun g sp => plog g sp d (g.getP a.toNat ^^^ g.getP b.toNat)

/-- PNOT (R276). -/
def execPnot (s : BitVec 1) (d a : BitVec 6) (st : State) : Ans :=
  groupOp st s { guarded := false, legal := lt8 d && lt8 a, pregs := [a.toNat] } fun g sp => plog g sp d (~~~(g.getP a.toNat))

/-- PMOV: every bit of Pd becomes bit i of Pa (R276). -/
def execPmov (s : BitVec 1) (d a b : BitVec 6) (st : State) : Ans :=
  groupOp st s { guarded := false, legal := lt8 d && lt8 a && lt8 b, pregs := [a.toNat] } fun g sp =>
    let pa := g.getP a.toNat
    plog g sp d (BitVec.ofNat 256 (packN 8 ((List.range 32).map fun t => if pa.getLsbD (8 * t + b.toNat) then 255 else 0)))

/-- PSET: Pd becomes the low byte of each thread's source (R276). -/
def execPset (s : BitVec 1) (d a : BitVec 6) (st : State) : Ans :=
  groupOp st s { guarded := false, legal := lt8 d && srcOk a, srcs := [a] } fun g sp =>
    let ra := g.src 64 a
    plog g sp d (BitVec.ofNat 256 (packN 8 ((List.range 32).map fun t => (laneAt ra t).toNat % 256)))

/-- PGET: Vd becomes Pa zero-extended (R276). -/
def execPget (s : BitVec 1) (d a : BitVec 6) (st : State) : Ans :=
  groupOp st s { guarded := false, legal := dstOk d && lt8 a, dst := some d, pregs := [a.toNat] } fun g sp =>
    .done (g.writeOut d (outThreads sp.mask fun t => ((g.getP a.toNat).extractLsb' (8 * t) 8).toNat))

/-- MOV: a copy under the guard at ET width (R277). -/
def execMov (s : BitVec 1) (d a : BitVec 6) (st : State) : Ans :=
  groupOp st s (unSpec d a fun _ => true) fun g sp => un g sp d a fun _ _ x => ⟨x, 0#8⟩

/-- BCST: one sub-element of each thread in all of its enabled sub-elements (R277). -/
def execBcst (s : BitVec 1) (d a b : BitVec 6) (st : State) : Ans :=
  groupOp st s { unSpec d a (fun _ => true) with fits := fun g => decide (b.toNat < 64 / g.et.width) } fun g sp =>
    let w := g.et.width
    let ra := g.src w a
    .done (g.writeOut d (outOf w (lanesOf sp.mask (64 / w) (g.enabled w) fun t _ => ⟨elemAt ra w (t * (64 / w) + b.toNat), 0#8⟩)))

/-- VTOS: thread t's 64-bit value in an S register (R277); an absent thread gives 0. -/
def execVtos (s : BitVec 1) (d a b : BitVec 6) (st : State) : Ans :=
  groupOp st s { guarded := false, legal := isS d && srcOk a && decide (b.toNat < 32), srcs := [a]
                 lanes := fun g _ _ => g.present &&& 1#32 <<< b.toNat } fun g _ =>
    .done (g.putS (d.toNat - 48) (if g.present.getLsbD b.toNat then laneAt (g.src g.et.width a) b.toNat else 0))

/-- STOV: thread t's V register becomes an S value when t is present and active (R277). -/
def execStov (s : BitVec 1) (d a b : BitVec 6) (st : State) : Ans :=
  groupOp st s { guarded := false, legal := isV d && isSZ a && decide (b.toNat < 32), srcs := [a] } fun g sp =>
    .done (g.writeOut d (outThreads (sp.mask &&& (1#32 <<< b.toNat)) fun _ => (g.srcS a).toNat))

end Sys2Proof.Machine
end

