-- ==== Sys2Proof/Machine/Uniform.lean ====
section
/-! DEFINITION. Uniform instructions: 64-bit S registers, once per issue, MODE ignored, no flag (R286, R287, R54). -/

namespace Sys2Proof.Machine

/-- What a two-source uniform instruction checks: S registers and ZERO only (R34). -/
def sopSpec (d a b : BitVec 6) : IssueSpec := { guarded := false, legal := isSZ d && isSZ a && isSZ b, srcs := [a, b] }

/-- An S result; ZERO discards it. -/
def Group.putSZ (g : Group) (d : BitVec 6) (x : Word) : Group := if isZ d then g else g.putS (d.toNat - 48) x

/-- A two-source uniform operation. -/
def sop (g : Group) (d a b : BitVec 6) (f : Word → Word → Word) : GEff := .done (g.putSZ d (f (g.srcS a) (g.srcS b)))

/-- Bits [127:64] of the signed product (R286, R144). -/
def mulHi (x y : Word) : Word := BitVec.ofInt 64 (x.toInt * y.toInt / 2 ^ 64)

/-- The lesser as signed values. -/
def sMin (x y : Word) : Word := if x.toInt ≤ y.toInt then x else y

/-- The greater as signed values. -/
def sMax (x y : Word) : Word := if x.toInt ≤ y.toInt then y else x

/-- SADD: x + y (R286). -/
def execSadd (s : BitVec 1) (d a b : BitVec 6) (st : State) : Ans :=
  groupOp st s (sopSpec d a b) fun g _ => sop g d a b fun x y => x + y

/-- SSUB: x − y (R286). -/
def execSsub (s : BitVec 1) (d a b : BitVec 6) (st : State) : Ans :=
  groupOp st s (sopSpec d a b) fun g _ => sop g d a b fun x y => x - y

/-- SMUL: bits [63:0] of the product (R286). -/
def execSmul (s : BitVec 1) (d a b : BitVec 6) (st : State) : Ans :=
  groupOp st s (sopSpec d a b) fun g _ => sop g d a b fun x y => x * y

/-- SMULH: bits [127:64] of the signed product (R286). -/
def execSmulh (s : BitVec 1) (d a b : BitVec 6) (st : State) : Ans :=
  groupOp st s (sopSpec d a b) fun g _ => sop g d a b fun x y => mulHi x y

/-- SMIN: signed minimum (R286). -/
def execSmin (s : BitVec 1) (d a b : BitVec 6) (st : State) : Ans :=
  groupOp st s (sopSpec d a b) fun g _ => sop g d a b fun x y => sMin x y

/-- SMAX: signed maximum (R286). -/
def execSmax (s : BitVec 1) (d a b : BitVec 6) (st : State) : Ans :=
  groupOp st s (sopSpec d a b) fun g _ => sop g d a b fun x y => sMax x y

/-- SAND: bitwise and (R286). -/
def execSand (s : BitVec 1) (d a b : BitVec 6) (st : State) : Ans :=
  groupOp st s (sopSpec d a b) fun g _ => sop g d a b fun x y => x &&& y

/-- SOR: bitwise or (R286). -/
def execSor (s : BitVec 1) (d a b : BitVec 6) (st : State) : Ans :=
  groupOp st s (sopSpec d a b) fun g _ => sop g d a b fun x y => x ||| y

/-- SXOR: bitwise exclusive or (R286). -/
def execSxor (s : BitVec 1) (d a b : BitVec 6) (st : State) : Ans :=
  groupOp st s (sopSpec d a b) fun g _ => sop g d a b fun x y => x ^^^ y

/-- SANDN: x and not y (R286). -/
def execSandn (s : BitVec 1) (d a b : BitVec 6) (st : State) : Ans :=
  groupOp st s (sopSpec d a b) fun g _ => sop g d a b fun x y => x &&& ~~~y

/-- SSHL: left shift by y[5:0] (R286). -/
def execSshl (s : BitVec 1) (d a b : BitVec 6) (st : State) : Ans :=
  groupOp st s (sopSpec d a b) fun g _ => sop g d a b fun x y => x <<< (y.toNat % 64)

/-- SSHR: arithmetic right shift by y[5:0] (R286). -/
def execSshr (s : BitVec 1) (d a b : BitVec 6) (st : State) : Ans :=
  groupOp st s (sopSpec d a b) fun g _ => sop g d a b fun x y => x.sshiftRight (y.toNat % 64)

/-- SROT: left rotation by y[5:0] (R286). -/
def execSrot (s : BitVec 1) (d a b : BitVec 6) (st : State) : Ans :=
  groupOp st s (sopSpec d a b) fun g _ => sop g d a b fun x y => x.rotateLeft (y.toNat % 64)

/-- SADDI: Sa + sext(imm12, 12) (R287). -/
def execSaddi (s : BitVec 1) (d a : BitVec 6) (i : BitVec 12) (st : State) : Ans :=
  groupOp st s (sopSpec d a a) fun g _ => sop g d a a fun x _ => x + i.signExtend 64

/-- SLIT: a literal in an S register (R287). -/
def execSlit (s : BitVec 1) (d : BitVec 6) (h : BitVec 2) (i : BitVec 16) (st : State) : Ans :=
  groupOp st s { sopSpec d d d with srcs := if h = 0#2 then [] else [d] } fun g _ => sop g d d d fun x _ => BitVec.ofNat 64 (litInto x.toNat h.toNat i)

end Sys2Proof.Machine
end

