-- ==== Sys2Proof/Machine/Coherence.lean ====
section
/-! DEFINITION. Timestamp coherence inside a die and the L3 directory between dies (R199 to R210): logical times, leases, the L1 and L2 lines
with their ranks, the permissions the directory gives, and the places accesses are performed at. The bytes of GLOB are held once; an L1
copy holds its own, older bytes while its lease lasts (log entry 5). -/

namespace Sys2Proof.Machine

/-- A page whose lines are reached at the L3: of host bias, or of host memory (R208, R213, R331). -/
def hostPage (leaf : Word) (pa : Nat) : Bool := pteBit leaf 10 || decide (2 ^ 56 ≤ pa)

/-! Ranks, ways and victims (R133 to R139). -/

/-- Sets of a cache: 256 in an L1, 32,768 or 65,536 in an L2 (log entry 11). -/
def l2Sets (die : Nat) : Nat := if isMdie die then 32768 else 65536

/-- The declared distance of an access as a RANK (R135). -/
def rankOf (tickp : Nat) (penalised : Bool) (d : Nat) : Nat :=
  if d = 0xFFFF then 255 else
    let d := if penalised then min 0xFFFE (4 * d) else d
    let cycles := (d * tickp + 255) / 256
    min 254 ((cycles + 255) / 256)

/-- The tenant's overstatement count on a die (R138). -/
def State.overstated (st : State) (die c : Nat) : Nat := mgetD (st.die die).overst c 0

/-- A tenant's overstatement count changed. -/
def State.setOverstated (st : State) (die c n : Nat) : State := st.updDie die fun d => { d with overst := mput d.overst c n 0 }

/-- A tenant is penalised on a die while its count exceeds its limit (R138). -/
def State.penalised (st : State) (die c : Nat) : Bool := decide ((st.ctx c).oslimit < st.overstated die c)

/-- A line's rank, ageing steps and tenant after an access that declares a rank or does not (R135, R138): `r` the rank where declared. -/
def hitRank (old : Nat) (r : Option Nat) : Nat := r.getD old

/-- An access of a tenant hits a line ranked 2 or less in an L1 (`lim` 2), or 0 in an L2: its count falls (R138). -/
def State.countHit (st : State) (die tenant owner rank lim : Nat) : State :=
  if tenant = owner ∧ rank ≤ lim then st.setOverstated die tenant (st.overstated die tenant - 1) else st

/-- The victim way among candidate lines (key, OVERDUE, RANK, tenant's count, way): OVERDUE lines first, then the highest RANK, then the
highest count, then the lowest way (R137). -/
def victim (cand : List (Nat × Bool × Nat × Nat × Nat)) : Option Nat :=
  let c1 : List (Nat × Bool × Nat × Nat × Nat) := if cand.any fun e => e.2.1 then cand.filter fun e => e.2.1
    else cand.filter fun e => decide (e.2.2.1 = (cand.map fun e => e.2.2.1).foldl max 0)
  let c2 : List (Nat × Bool × Nat × Nat × Nat) := c1.filter fun e => decide (e.2.2.2.1 = (c1.map fun e => e.2.2.2.1).foldl max 0)
  (c2.find? fun e => decide (some e.2.2.2.2 = (c2.map fun e => e.2.2.2.2).min?)).map (·.1)

/-- The lowest way of a set that no line holds. -/
def freeWay (used : List Nat) (n : Nat) : Option Nat := (List.range n).find? fun w => !(decide (w ∈ used))

/-- The ways of a cache's set that are retired (R415): a die's L2 by its number, a core's L1 by 16 + its number. -/
def State.deadWays (st : State) (cache set : Nat) : List Nat :=
  st.retiredWays.filterMap fun w => if w.1 = cache ∧ w.2.1 = set then some w.2.2 else none

/-- An L1 copy filled or replaced (R137). -/
def State.fillL1 (st : State) (core line : Nat) (cp : L1Copy) : State :=
  let k := st.core core
  match mget k.l1 line with
  | some old => st.updCore core fun k => { k with l1 := mset k.l1 line { cp with way := old.way } }
  | none =>
    let set := k.l1.filter fun e => decide (e.1 / 128 % 256 = line / 128 % 256)
    match freeWay (st.deadWays (16 + core) (line / 128 % 256) ++ set.map fun e => e.2.way) 8 with
    | some w => st.updCore core fun k => { k with l1 := mset k.l1 line { cp with way := w } }
    | none =>
      match victim (set.map fun e => (e.1, e.2.overdue, e.2.rank, st.overstated (clusterDie (core / 4)) e.2.tenant, e.2.way)) with
      | some v => st.updCore core fun k => { k with l1 := mset (merase k.l1 v) line { cp with way := ((mget k.l1 v).map fun e => e.way).getD 0 } }
      | none => st

/-- A line granted to a die's L2 with its first times, FLOOR (R207): `fresh`, and in no way of its set (way 16), until the access that fills it. -/
def State.fillL2 (st : State) (die line : Nat) : State :=
  match mget (st.die die).l2 line with
  | some _ => st
  | none => st.updDie die fun d => { d with l2 := mset d.l2 line { wts := d.floor, rts := d.floor, way := 16, fresh := true } }

/-- A granted line given its way by the access that fills it, with its first times, FLOOR (R207). The ways are limited first by the filling tenant's floors
and ceilings (R139), the victim given up (R137); with no way to choose, the line is performed without allocation (way 16, which belongs to no set). -/
def State.allocL2 (st : State) (die line c : Nat) : State :=
  let d := st.die die
  let n := l2Sets die
  let set := d.l2.filter fun e => decide (e.1 / 128 % n = line / 128 % n) && decide (e.2.way < 16)
  let x := st.ctx c
  let bit := fun (v dd : Nat) => v / 2 ^ (8 * (dd - 1)) % 256
  let held := fun (t : Nat) => (set.filter fun e => decide (e.2.tenant = t)).length
  let full := decide (bit x.ceils die ≤ held c)
  let way := if full then none else freeWay (st.deadWays die (line / 128 % n) ++ set.map fun e => e.2.way) 16
  let put := fun (st : State) (w : Nat) => st.updDie die fun d =>
    { d with l2 := mupd d.l2 line fun l => { l with wts := d.floor, rts := d.floor, tenant := c, way := w } }
  match way with
  | some w => put st w
  | none =>
    let own := set.filter fun e => decide (e.2.tenant = c)
    let cand := if full then own
      else
        let free := set.filter fun e => decide (e.2.tenant = c) || decide (bit (st.ctx e.2.tenant).floors die < held e.2.tenant)
        if free = [] then own else free
    match victim (cand.map fun e => (e.1, e.2.overdue, e.2.rank, st.overstated die e.2.tenant, e.2.way)) with
    | some v =>
      let w := ((mget d.l2 v).map fun e => e.way).getD 0
      put (st.yieldLine die v) w
    | none => put st 16

/-- The rank, ageing and tenant of an L2 line after an access (R135, R136): L2 ranks are RANK div 8; the access that fills it, undeclared, gives RANK 32. -/
def L2Line.touch (l : L2Line) (r : Option Nat) (c : Nat) : L2Line :=
  let r := if l.fresh then some (r.getD 32) else r
  { l with rank := (r.map (· / 8)).getD l.rank, steps := 0, overdue := false, tenant := if r.isSome then c else l.tenant, fresh := false }

/-- An access of a tenant comes to a line that a die's L2 holds: the access that fills it gives it its way (R135, R139), a later one hits it (R138). -/
def State.meetL2 (st : State) (die line c : Nat) : State :=
  match mget (st.die die).l2 line with
  | some l => if l.fresh then st.allocL2 die line c else st.countHit die c l.tenant l.rank 0
  | none => st

/-- A line's rank, ageing and tenant set by an access of a tenant that has come to it (R135, R136). -/
def State.touchL2 (st : State) (die line c : Nat) (r : Option Nat) : State :=
  st.updDie die fun d => { d with l2 := mupd d.l2 line fun l => l.touch r c }

/-- A line that was performed without allocation leaves the L2 behind its access (R139). -/
def State.passLine (st : State) (die line : Nat) : State :=
  if (mget (st.die die).l2 line).any fun l => decide (l.way = 16) then st.yieldLine die line else st

/-! Permissions. -/

/-- The die may read the line at its L2 (R206). -/
def State.mayRead (st : State) (die line : Nat) : Bool := (st.dirOf line).dies.getLsbD die && (mget (st.die die).l2 line).isSome

/-- The die may write the line at its L2 (R206, R209), and MAXT's advance stays within one scrubber pass (R205). -/
def State.mayWrite (st : State) (die line w : Nat) : Bool :=
  let e := st.dirOf line
  e.excl && e.dies.getLsbD die && (mget (st.die die).l2 line).isSome && st.tableQuiet line
    && decide ((smax (st.die die).maxT w + 2 ^ 24 - (st.die die).passBase) % 2 ^ 24 ≤ 2 ^ 21)

/-- The 64-byte halves of a line that a 128-bit byte mask touches: bit 0 the lower, bit 1 the upper. -/
def halvesOf (mask : Nat) : Nat := (if mask % 2 ^ 64 = 0 then 0 else 1) + (if mask / 2 ^ 64 % 2 ^ 64 = 0 then 0 else 2)

/-- Every half of a set of halves obeys a test of how the host side holds it. -/
def DirEntry.halves (e : DirEntry) (hs : Nat) (ok : Nat → Bool) : Bool := (decide (hs % 2 = 0) || ok e.half0) && (decide (hs / 2 = 0) || ok e.half1)

/-- An access to some halves of a line may be performed at the L3 as a read: no die holds the line exclusively, no host agent owns one of them (R206, R208). -/
def State.l3Read (st : State) (line hs : Nat) : Bool :=
  let e := st.dirOf line
  !e.excl && e.halves hs fun h => decide (h ≠ 2)

/-- An access to some halves of a line may be performed at the L3 as a write: no die holds the line, none of them is held on the host side (R208). -/
def State.l3Write (st : State) (line hs : Nat) : Bool :=
  let e := st.dirOf line
  decide (e.dies = 0) && e.halves hs (fun h => decide (h = 0)) && st.tableQuiet line

/-! Grants (R206, R208, R213). -/

/-- Some leaf of the line's page has BH = 1: no L2 holds the line (R213). -/
def State.hostBiased (st : State) (line : Nat) : Bool := st.ctxs.any fun e => st.mapsWith e.1 10 line

/-- A line a die's L2 may be given (R208, R213, R416). -/
def State.l2Line (st : State) (line : Nat) : Bool :=
  decide (line < 2 ^ 40) && decide (line % 128 = 0) && !st.quiescing line && (st.lostTrap line).isNone && !st.hostBiased line

/-- A line granted to a die (R206): shared once no other die holds it exclusively and no half is owned by a host agent; exclusive once no other die
holds it and each half is recalled. -/
def State.grantDie (st : State) (die line : Nat) (excl : Bool) : State :=
  let e := st.dirOf line
  let have_ := e.dies.getLsbD die && (mget (st.die die).l2 line).isSome && (!excl || e.excl)
  if !st.l2Line line || decide ((st.die die).state ≠ .up) || have_ then st
  else if excl then
    if e.dies &&& ~~~(dieBit die) ≠ 0 then st
    else match ((st.recallHalf line 0).bind fun s => s.recallHalf line 1).bind fun s => s.dirGate 1 die 3 0 line with
      | none => st
      | some st => (st.fillL2 die line).updDir line fun e => { e with dies := dieBit die, excl := true }
  else
    match (st.shareLine line).bind fun s => s.dirGate 0 die 3 0 line with
    | none => st
    | some st => (st.fillL2 die line).updDir line fun e => { e with dies := e.dies ||| dieBit die }

/-! HOME records (R422, R425). -/

/-- The next line event of a unit at an L2: counted, logged for a tracked page, and on replay allowed only as logged (R425). `ltime` is the
time the event takes; the time it is to take comes back. -/
def State.home (st : State) (c cl unit kind ltime prev nread : Nat) (tracked : Bool) : Option (State × Nat) :=
  let key := cl * 32 + unit
  let n := mgetD (st.ctx c).acnt key 0
  let step := fun (st : State) => if st.recording c || (st.ctx c).replay.any (fun r => !r.off) then
    st.updCtx c fun x => { x with acnt := mset x.acnt key ((n + 1) % 2 ^ 24) } else st
  if tracked then
    let mk := recHome kind unit ltime n prev nread
    let sel := fun (r : List Nat) => decide (r.headD 0 / 2 ^ 60 = 2) && decide (bits (r.headD 0) 52 48 = unit)
    let ok := fun (r : List Nat) => decide (bits (r.headD 0) 54 53 = kind) &&
      (if kind = 0 then decide (bits (r.headD 0) 47 24 = ltime) else decide (r.getD 1 0 = mk.getD 1 0))
    (st.gate c cl sel ok mk).map fun p => (step p.1, bits (p.2.headD 0) 47 24)
  else some (step st, ltime)

/-- A die's tracked access to a line performed at the L3 takes its place in the directory's order (R176, R208, R210): as the grant it stands for, shared for a
read and exclusive for a write, of the halves it touches (DEDUCED: log entry 82). None where the log says to wait. -/
def State.l3Gate (st : State) (wr tracked : Bool) (die hs line : Nat) : Option State :=
  if tracked then st.dirGate (if wr then 1 else 0) die hs 0 line else some st

/-! Performing a line. -/

/-- The unit number of a group's front end in its cluster (R424). -/
def feUnit (gid : Nat) : Nat := gCore gid % 4 * 4 + gid % 128 / 32

/-- The effective class of an access: 0 NORMAL, 1 BYPASS, 2 STREAM (R131, R331). -/
def effClass (cls : Nat) (leaf : Word) : Nat := max cls (bits leaf.toNat 15 14)

/-- The rank that a class gives an access that declares none: STREAM lines stand at RANK 255 (R131, R180). -/
def streamRank (cls : Nat) : Option Nat := if cls = 2 then some 255 else none

/-- An L1 copy with its rank and tenant: those declared; else those of the copy it takes the place of, or RANK 32 of the access that fills it (R135, R136). -/
def L1Copy.ranked (cp : L1Copy) (old : Option L1Copy) (rank : Option Nat) (c : Nat) : L1Copy :=
  { cp with rank := rank.getD ((old.map (·.rank)).getD 32), tenant := if rank.isSome then c else (old.map (·.tenant)).getD c }

/-- The L1 copy of a line after a NORMAL load at the L2: renewed where it stands at the line's wts, else filled (R135, R200). -/
def State.refillL1 (st : State) (core line c : Nat) (rank : Option Nat) (wts : Nat) (cp : L1Copy) : State :=
  st.fillL1 core line (cp.ranked ((mget (st.core core).l1 line).filter fun o => decide (o.wts = wts)) rank c)

/-- The issuing core's L1 copy after a NORMAL store (R201): one that stands there is hit (R135, R138). -/
def State.writeL1 (st : State) (core line c : Nat) (rank : Option Nat) (cp : L1Copy) : State :=
  let old := mget (st.core core).l1 line
  let st := match old with
    | some o => st.countHit (clusterDie (core / 4)) c o.tenant o.rank 2
    | none => st
  st.fillL1 core line (cp.ranked old rank c)

/-- The L1 copy that answers a NORMAL load: leased, young, and not of a tracked page of a recording or replayed context (R200). -/
def State.l1Hit (st : State) (core line cls : Nat) (viaL2 : Bool) : Option L1Copy :=
  if cls ≠ 0 ∨ viaL2 then none else
    match mget (st.core core).l1 line with
    | some cp => if !sLt cp.rts (st.core core).pts && decide (cp.age < 128) then some cp else none
    | none => none

/-- A hit of a tenant on an L1 copy (R135, R138): its rank as declared or as it was, its ageing at 0. -/
def State.hitL1 (st : State) (core line c : Nat) (rank : Option Nat) (cp : L1Copy) : State :=
  (st.countHit (clusterDie (core / 4)) c cp.tenant cp.rank 2).fillL1 core line
    { cp with rank := rank.getD cp.rank, steps := 0, overdue := false, tenant := if rank.isSome then c else cp.tenant }

/-- AMARK raised for a group's load (R199). -/
def State.mark (st : State) (gid t : Nat) : State := st.updGroup gid fun g => { g with amark := smax g.amark t }

/-- AMARK raised by data that carries no wts, from a shared scratchpad or from the L3: what was written before it on this die lies at MAXT or below, so an
acquire that follows leaves no older L1 copy (R185, R186; DEDUCED: log entry 83). -/
def State.markShared (st : State) (gid : Nat) : State := st.mark gid (st.die (gDie gid)).maxT

/-- A load of one GLOB line by a group (R200): the bytes, or none where the line must first be granted or the log says to wait. Where `host` names halves, the
line is in host memory or of host bias, and they are read at the L3 (R208, R213). -/
def State.loadLine (st : State) (gid c line cls : Nat) (tracked : Bool) (host : Option Nat) (rank : Option Nat) : Option (Nat × State) :=
  let core := gCore gid
  let die := gDie gid
  let viaL2 := tracked && (decide (2 ≤ (st.ctx c).det) || (st.ctx c).replay.isSome)
  match host with
  | some hs =>
    if st.l3Read line hs then (st.l3Gate false tracked die hs line).map fun st => (st.read line 128, st.markShared gid) else none
  | none =>
    match st.l1Hit core line cls viaL2 with
    | some cp => some (cp.data.toNat, (st.hitL1 core line c rank cp).mark gid cp.wts)
    | none =>
      if !st.mayRead die line then none else
      let st := st.meetL2 die line c
      match mget (st.die die).l2 line with
      | none => none
      | some l =>
        let lease := (st.ctx c).lease
        match st.home c (gCluster gid) (feUnit gid) 0 l.wts 0 0 tracked with
        | none => none
        | some (st, t) =>
          if viaL2 ∧ t ≠ l.wts then none else
          let rts := smax (smax l.rts (tAdd l.wts lease)) (tAdd (st.core core).pts lease)
          let data := st.read line 128
          let st := st.updDie die fun d => { d with l2 := mset d.l2 line { l.touch rank c with rts := rts, nread := if viaL2 then l.nread + 1 else l.nread } }
          let st := if cls = 0 then st.refillL1 core line c rank l.wts { data := BitVec.ofNat 1024 data, wts := l.wts, rts := rts } else st
          some (data, (st.passLine die line).mark gid l.wts)

/-- A line filled for a prefetch (R157): into the L2, and for NORMAL into the L1, at the declared rank; an L1 copy under lease is hit and stands (R138). Nothing is
returned, so AMARK and the log stand; none where the line must first be granted. -/
def State.prefLine (st : State) (gid c line cls : Nat) (rank : Option Nat) : Option State :=
  let core := gCore gid
  let die := gDie gid
  match st.l1Hit core line cls false with
  | some cp => some (st.hitL1 core line c rank cp)
  | none =>
    if !st.mayRead die line then none else
    let st := st.meetL2 die line c
    (mget (st.die die).l2 line).map fun l =>
      let lease := (st.ctx c).lease
      let rts := smax (smax l.rts (tAdd l.wts lease)) (tAdd (st.core core).pts lease)
      let st := st.updDie die fun d => { d with l2 := mset d.l2 line { l.touch rank c with rts := rts } }
      let st := if cls = 0 then st.refillL1 core line c rank l.wts { data := BitVec.ofNat 1024 (st.read line 128), wts := l.wts, rts := rts } else st
      st.passLine die line

/-- A line that a synchronous read of a group comes to on the CORE path (R104, R110): at its die's L2, which is granted it where it does not hold it, as an undeclared access
that hits it (R135), or at the L3 for a page of host memory or host bias (R331, R208), where it touches the halves `hs`. A WAITM's comparison (`rec`) takes its place in
HOME (R121); a LAUNCH's loads raise AMARK (R199, R200). None where the line or the log says to wait. -/
def State.syncLine (st : State) (gid c : Nat) (leaf : Word) (pa hs : Nat) (rec : Bool) : Option State :=
  let line := lineOf pa
  let die := gDie gid
  let log := rec && st.tracked c leaf
  if hostPage leaf pa then
    if st.l3Read line hs then (st.l3Gate false log die hs line).map fun st => if rec then st else st.markShared gid else none
  else
    let st := if st.mayRead die line then st else st.grantDie die line false
    if !st.mayRead die line then none else
    let st := st.meetL2 die line c
    match mget (st.die die).l2 line with
    | none => none
    | some l =>
      match st.home c (gCluster gid) (feUnit gid) 0 l.wts 0 0 log with
      | none => none
      | some (st, t) =>
        if log && decide (t ≠ l.wts) then none else
        let st := st.updDie die fun d => { d with l2 := mset d.l2 line { l.touch none c with nread := if log then l.nread + 1 else l.nread } }
        some (if rec then st.passLine die line else (st.passLine die line).mark gid l.wts)

/-- A write of bytes of one GLOB line at a die's L2 (R201): CORE path by a group (some gid), or an engine. None where the line must first be
granted, or the log says to wait. The bytes written are what `f` makes of the line; a line in host memory or of host bias is written at the L3 (R208, R213). -/
def State.storeLine (st : State) (die cl unit c line cls : Nat) (by_ : Option Nat) (tracked host : Bool) (rank : Option Nat) (atomic : Bool)
    (f : Nat → Nat × Nat) : Option (Nat × State) :=
  let old := st.read line 128
  let (mask, v) := f old
  if host then
    let hs := halvesOf mask
    if st.l3Write line hs then (st.l3Gate true tracked die hs line).map fun st =>
      let done := { (st.write line 128 mask v).markU line mask tracked with l3 := st.touchL3 line true }
      (old, match by_ with
        | some gid => if atomic then done.markShared gid else done
        | none => done)
    else none
  else
    let st := st.meetL2 die line c
    match mget (st.die die).l2 line with
    | none => none
    | some l =>
      let base := match by_ with
        | some gid => (st.core (gCore gid)).pts
        | none => (st.die die).floor
      let w := smax base (tAdd l.rts 1)
      if !st.mayWrite die line w then none else
      match st.home c cl unit (if atomic then 2 else 1) w l.wts l.nread tracked with
      | none => none
      | some (st, w) =>
        let st := (st.write line 128 mask v).markU line mask tracked
        let st := st.updDie die fun d => { d.raise w with l2 := mset d.l2 line { l.touch rank c with wts := w, rts := w, dirty := true, nread := 0 } }
        match by_ with
        | none => some (old, st.passLine die line)
        | some gid =>
          let core := gCore gid
          let st := st.updCore core fun k => { k with pts := smax k.pts w }
          if cls = 0 then
            some (old, (st.writeL1 core line c rank { data := BitVec.ofNat 1024 (st.read line 128), wts := w, rts := w }).passLine die line)
          else some (old, (st.updCore core fun k => { k with l1 := merase k.l1 line }).passLine die line)

end Sys2Proof.Machine
end

