-- ==== Sys2Proof/Machine/Views.lean ====
section
/-! DEFINITION. View descriptors: their fields, the checks of R125, tiles, swizzles, bounds, and the path from coordinates to element
addresses (R122 to R130). -/

namespace Sys2Proof.Machine

/-! Fields (R122 to R124). -/

/-- A field of a descriptor: `n` bits from bit `lo`. -/
def vf (d : BitVec 1024) (lo n : Nat) : Nat := (d.extractLsb' lo n).toNat

/-- BASE. -/
def vBase (d : BitVec 1024) : Nat := vf d 0 64
/-- CTL whole. -/
def vCtl (d : BitVec 1024) : Nat := vf d 64 64
/-- CTL.SPACE. -/
def vSpace (d : BitVec 1024) : Nat := vf d 64 3
/-- CTL.ESIZE. -/
def vEsizeCode (d : BitVec 1024) : Nat := vf d 68 3
/-- The element size in bytes. -/
def vEsize (d : BitVec 1024) : Nat := 2 ^ vEsizeCode d
/-- CTL.NDIM. -/
def vNdim (d : BitVec 1024) : Nat := vf d 71 4
/-- CTL.TILE. -/
def vTile (d : BitVec 1024) : Nat := vf d 75 5
/-- CTL.SWZ. -/
def vSwz (d : BitVec 1024) : Nat := vf d 80 4
/-- CTL.CLASS. -/
def vClass (d : BitVec 1024) : Nat := vf d 84 2
/-- CTL.VALID. -/
def vValid (d : BitVec 1024) : Bool := d.getLsbD 96
/-- CTL.STRICT. -/
def vStrict (d : BitVec 1024) : Bool := d.getLsbD 97
/-- CTL.RONLY. -/
def vRonly (d : BitVec 1024) : Bool := d.getLsbD 98
/-- CTL.CONVERTING. -/
def vConverting (d : BitVec 1024) : Bool := d.getLsbD 99
/-- CTL.DDIST. -/
def vDdist (d : BitVec 1024) : Nat := vf d 112 16
/-- PLACE. -/
def vPlace (d : BitVec 1024) : Nat := vf d 128 32
/-- SWZARG. -/
def vSwzarg (d : BitVec 1024) : Nat := vf d 160 32
/-- CBUF. -/
def vCbuf (d : BitVec 1024) : Nat := vf d 192 64
/-- EXT_i. -/
def vExt (d : BitVec 1024) (i : Nat) : Nat := vf d (256 + 64 * i) 32
/-- STR_i as its raw bits. -/
def vStrRaw (d : BitVec 1024) (i : Nat) : Nat := vf d (288 + 64 * i) 32
/-- STR_i as a signed number of elements. -/
def vStr (d : BitVec 1024) (i : Nat) : Int := (d.extractLsb' (288 + 64 * i) 32).toInt
/-- MESH. -/
def vMesh (d : BitVec 1024) : Nat := vf d 768 64

/-- A descriptor with `n` bits from bit `lo` set to a value. -/
def vSet (d : BitVec 1024) (lo n v : Nat) : BitVec 1024 :=
  let m := BitVec.ofNat 1024 ((2 ^ n - 1) * 2 ^ lo)
  (d &&& ~~~m) ||| BitVec.ofNat 1024 (v % 2 ^ n * 2 ^ lo)

/-- One axis byte of PLACE: KIND, DIM, ROP (R124). -/
def placeByte (p a : Nat) : Nat := p / 2 ^ (8 * a) % 256

/-- An axis byte keeps the rules of R124. -/
def placeByteOk (ndim b : Nat) : Bool :=
  let kind := b % 4
  let dim := b / 4 % 8
  let rop := b / 32 % 2
  decide (b / 64 = 0) && (decide (kind = 1) || decide (dim = 0)) && (decide (kind = 3) || decide (rop = 0)) && (decide (kind ≠ 1) || decide (dim < ndim))

/-- n of R127: the tile's log2 of element positions. -/
def tileN (esizeCode : Nat) : Nat := 8 - esizeCode

/-- TILE is allowed for ESIZE and NDIM (R127). -/
def tileOk (d : BitVec 1024) : Bool :=
  let n := tileN (vEsizeCode d)
  let c := vTile d
  if vNdim d = 1 then decide (c = n) || decide (c = 16 + n) else decide (c ≤ n) || (decide (16 ≤ c) && decide (c ≤ 16 + n))

/-- SWZ and SWZARG keep check 6 (R125, R128). -/
def swzOk (d : BitVec 1024) : Bool :=
  let a := vSwzarg d
  let f := a % 32
  let w := a / 32 % 8 + 1
  let g := a / 256 % 32
  decide (vSwz d ≤ 2) &&
    (if vSwz d = 0 then decide (a = 0)
     else decide (vSpace d ≠ 0) && decide (vSpace d ≠ 4) && decide (a / 2 ^ 13 = 0) && decide (f + w ≤ g) && decide (g + w ≤ 31))

/-- The code of the first failing check of 1 to 11 (R125), 0 where the descriptor is well formed. -/
def viewCheck (d : BitVec 1024) : Nat :=
  if !vValid d then 1
  else if 4 < vSpace d then 2
  else if 3 < vEsizeCode d then 3
  else if vNdim d = 0 ∨ 8 < vNdim d then 4
  else if !tileOk d then 5
  else if !swzOk d then 6
  else if 2 < vClass d then 7
  else if vBase d % vEsize d ≠ 0 ∨ (vSpace d = 0 ∧ 2 ^ 52 ≤ vBase d) then 8
  else if vf d 67 1 ≠ 0 ∨ vf d 86 10 ≠ 0 ∨ vf d 100 12 ≠ 0 ∨ vMesh d / 256 ≠ 0 ∨ vf d 832 192 ≠ 0 ∨
      (List.range 8).any (fun i => decide (vNdim d ≤ i) && (decide (vExt d i ≠ 0) || decide (vStrRaw d i ≠ 0))) then 9
  else if (List.range 4).any (fun a => !placeByteOk (vNdim d) (placeByte (vPlace d) a)) ∨ (vSpace d ≠ 0 ∧ vPlace d ≠ 0) then 10
  else if vCbuf d % 128 ≠ 0 ∨ 2 ^ 52 ≤ vCbuf d then 11
  else 0

/-- A descriptor as a slot takes it in from memory (R123): CONVERTING is read-only, so the bit that memory holds is not taken. -/
def asDefined (d : BitVec 1024) : BitVec 1024 := vSet d 99 1 0

/-- VIEW_FAULT with a slot and a check code (R125). -/
def viewFault (slot code : Nat) : Trap := { cause := .viewFault, detail := slot + 32 * code }

/-- A view slot of a workgroup; a slot never written is empty (R122, R126). -/
def Workgroup.view (w : Workgroup) (slot : Nat) : BitVec 1024 := mgetD w.views slot 0

/-! Tiles and coordinates (R127, R129). -/

/-- The tile offsets (i0, i1) of element position p (R127). -/
def tileOffset (d : BitVec 1024) (p : Nat) : Nat × Nat :=
  let n := tileN (vEsizeCode d)
  let c := vTile d
  if c < 16 then (p % 2 ^ c, p / 2 ^ c)
  else if vNdim d = 1 then (p, 0)
  else (p / 2 ^ (n - (c - 16)), p % 2 ^ (n - (c - 16)))

/-- The swizzle of a byte offset (R128). -/
def swizzle (d : BitVec 1024) (x : Nat) : Nat :=
  if vSwz d = 0 then x else
    let a := vSwzarg d
    let lo := a % 32
    let w := a / 32 % 8 + 1
    let f := x / 2 ^ lo % 2 ^ w
    let g := x / 2 ^ (a / 256 % 32) % 2 ^ w
    let f' := if vSwz d = 1 then f ^^^ g else (f + g) % 2 ^ w
    x - f * 2 ^ lo + f' * 2 ^ lo

/-- The lowest dimension whose coordinate is out of bounds (R129, R130). -/
def oobDim (d : BitVec 1024) (c : List Int) : Option Nat :=
  (List.range (vNdim d)).find? fun i => decide (c.getD i 0 < 0) || decide ((vExt d i : Int) ≤ c.getD i 0)

/-- The address of an element, exact, before the checks of its space (R129): none where it is negative under a swizzle, which lies in no
allocation. -/
def elemAddr (d : BitVec 1024) (c : List Int) : Int :=
  let x : Int := (vBase d : Int) + (vEsize d : Int) * ((List.range (vNdim d)).foldl (fun s i => s + c.getD i 0 * vStr d i) 0)
  if vSwz d = 0 then x else if x < 0 then x else (swizzle d x.toNat : Int)

/-- One participating element of an access: its position, its thread (for PRIV), its coordinates and operands, and whether its operation is enabled (R163). -/
structure Part where
  p : Nat
  thread : Nat := 0
  coord : List Int
  val : Nat := 0
  val2 : Nat := 0
  on : Bool := true

/-- An element in bounds: its part and its address in its space. -/
structure Hit where
  part : Part
  addr : Nat

/-- What the bounds and address checks of R129 and R130 leave: the elements in bounds and whether some was out of bounds, or a trap. -/
inductive Reach where
  | ok (hits : List Hit) (oob : Bool)
  | trap (t : Trap)

/-- A translation or protection trap of a write (R337): WR set. -/
def Trap.asWrite (t : Trap) : Trap := if t.cause = .pageFault ∨ t.cause = .prot then { t with detail := t.detail ||| 4 } else t

/-- The address of the lowest byte of the elements in bounds, as TADDR holds it (R337): of a space without virtual addresses, its byte offset in the space
(DESIGN CHOICE: log entry 91). -/
def lowByte (d : BitVec 1024) (parts : List Part) : Nat :=
  ((((parts.filter fun e : Part => (oobDim d e.coord).isNone).map fun e : Part => elemAddr d e.coord).min?.getD 0) % 2 ^ 52).toNat

/-- The bytes of an allocation a space gives an issuer, from offset 0 (R129, R353). -/
def State.spaceBytes (st : State) (g : Group) (space : Nat) : Nat :=
  let w := st.wgOf g
  match space with
  | 1 => (st.ctx w.ctx).dieb
  | 2 => w.clusSize
  | 3 => w.coreSize
  | _ => if g.saver then 64 * w.n else 64

/-- The flat address of a byte offset in a space of an issuer (R19, R155, R353). -/
def State.spaceFlat (st : State) (gid : Nat) (g : Group) (space thread x : Nat) : Nat :=
  let w := st.wgOf g
  match space with
  | 1 => flatDie (gDie gid) (mgetD (st.ctx w.ctx).dieBase (gDie gid) 0 + x)
  | 2 => flatClus (gCluster gid) (w.clusBase + x)
  | 3 => flatCore (gCore gid) (w.coreBase + x)
  | _ =>
    if g.saver then
      let wt := x / 64
      flatPriv (gidOf (gCore gid) (w.slots.getD (wt / 32) 0)) (wt % 32) (x % 64)
    else flatPriv gid thread x

/-- The bounds and address checks of an access through a view (R129, R130). -/
def State.reach (st : State) (g : Group) (d : BitVec 1024) (parts : List Part) : Reach :=
  let bad := parts.filterMap fun e => (oobDim d e.coord).map fun i => (e.p, i)
  match (if vStrict d then bad.head? else none) with
  | some (p, i) => .trap { cause := .bounds, detail := p + 256 * i }
  | none =>
    let ins := parts.filter fun e => (oobDim d e.coord).isNone
    let at_ := ins.map fun e => (e, elemAddr d e.coord)
    if vSpace d = 0 then
      let out := (at_.map (·.2)).filter fun x => decide (x < 0) || decide ((2 ^ 52 : Int) ≤ x)
      match out.min? with
      | some x => .trap { cause := .pageFault, addr := (x % 2 ^ 52).toNat }
      | none => .ok (at_.map fun e => ⟨e.1, e.2.toNat⟩) (bad ≠ [])
    else
      let lim : Int := st.spaceBytes g (vSpace d)
      let out := at_.filter fun e => decide (e.2 < 0) || decide (lim < e.2 + (vEsize d : Int))
      if out ≠ [] then .trap { cause := .prot, addr := lowByte d (out.map (·.1)) }
      else .ok (at_.map fun e => ⟨e.1, e.2.toNat⟩) (bad ≠ [])

/-- The elements of a prefetch whose lines are not skipped (R157): in bounds, and inside GLOB; other spaces have no line to fill. -/
def prefHits (d : BitVec 1024) (parts : List Part) : List Hit :=
  if vSpace d ≠ 0 then [] else
    (parts.filter fun e => (oobDim d e.coord).isNone).filterMap fun e =>
      let x := elemAddr d e.coord
      if x < 0 ∨ (2 ^ 52 : Int) ≤ x then none else some ⟨e, x.toNat⟩

/-- The coordinates at a coordinate base, one register per dimension (R129). -/
def Group.coords (g : Group) (d : BitVec 1024) (cb : Nat) : List Int :=
  (List.range (vNdim d)).map fun i => (g.getA (cb + i)).toInt

/-- The index vectors of a box, dimension 0 fastest. -/
def boxOf (counts : List Nat) : List (List Nat) :=
  match counts with
  | [] => [[]]
  | c :: r => (boxOf r).flatMap fun t => (List.range c).map fun j => j :: t

/-- The number of elements of a box. -/
def boxSize (counts : List Nat) : Nat := counts.foldl (· * ·) 1

/-- Coordinates moved by offsets along dimensions 0 and 1. -/
def moveCoord (c : List Int) (i0 i1 : Int) : List Int :=
  match c with
  | [] => []
  | [a] => [a + i0]
  | a :: b :: r => (a + i0) :: (b + i1) :: r

/-- The parts of a tile access (R127, R129). -/
def tileParts (d : BitVec 1024) (c : List Int) (use : Nat → Bool) (v v2 : Nat → Nat) : List Part :=
  let k := 8 / vEsize d
  ((List.range (32 * k)).filter use).map fun p =>
    let o := tileOffset d p
    { p := p, thread := p / k, coord := moveCoord c o.1 o.2, val := v p, val2 := v2 p }

/-- The parts of a gather or scatter: one per thread (R156). -/
def gatherParts (d : BitVec 1024) (c : List Int) (xq : Row) (use : Nat → Bool) (v : Nat → Nat) : List Part :=
  ((List.range 32).filter use).map fun t =>
    let w := laneAt xq t
    let o : Int × Int := if vNdim d = 1 then (w.toInt, 0) else ((w.extractLsb' 0 32).toInt, (w.extractLsb' 32 32).toInt)
    { p := t, thread := t, coord := moveCoord c o.1 o.2, val := v t }

/-- A slot's descriptor checked for an access at a coordinate base: codes 1 to 11, then 12 (R125). -/
def checkedDesc (d : BitVec 1024) (slot cb : Nat) : Trap ⊕ BitVec 1024 :=
  let c := viewCheck d
  if c ≠ 0 then .inl (viewFault slot c)
  else if 31 < cb + vNdim d - 1 then .inl (viewFault slot 12)
  else .inr d

/-- The view a slot holds, checked for an access. -/
def Workgroup.checkedView (w : Workgroup) (slot cb : Nat) : Trap ⊕ BitVec 1024 := checkedDesc (w.view slot) slot cb

end Sys2Proof.Machine
end

