-- ==== Sys2Proof/Machine/Scalar.lean ====
section
/-! DEFINITION. The access stream's scalar instructions: branches, A-register arithmetic, queue transfers, the reuse clock, distances and
state registers (R144 to R151, R134, R44). -/

namespace Sys2Proof.Machine

/-! Branches. -/

/-- The trap of a target with bits [63:52] not 0: PAGE_FAULT at the jump, TADDR the target (R28). -/
def farTrap (x : Word) : Option Trap := if 2 ^ 52 ≤ x.toNat then some { cause := .pageFault, addr := x.toNat } else none

/-- The trap of a register jump's target (R28): MISALIGN, or PAGE_FAULT. -/
def jumpTrap (x : Word) : Option Trap := if x.toNat % 4 ≠ 0 then some { cause := .misalign } else farTrap x

/-- A taken or untaken conditional branch. -/
def condPc (pc : Word) (t : Bool) (o : Word) : Word := if t then pc + 4 * o else pc + 4

/-- The trap of a branch: of its target, where it is taken (R28). -/
def branchTrap (pc : Word) (t : Bool) (o : Word) : Option Trap := if t then farTrap (pc + 4 * o) else none

/-- The access stream moved by a branch (R145). -/
def Group.abranch (g : Group) (t : Bool) (o : Word) : GEff :=
  match branchTrap g.apc t o with
  | some r => .trap r
  | none => .done { g with apc := condPc g.apc t o }

/-- A branch of the access stream, taken where a test of the group holds (R145). -/
def abranch (st : State) (s : BitVec 1) (o : Word) (t : Group → Bool) : Ans :=
  accessOp st s { legal := true, adv := false } fun g => g.abranch (t g) o

/-- ANOP: does nothing (R145). -/
def execAnop (s : BitVec 1) (st : State) : Ans := accessOp st s { legal := true } fun g => .done g

/-- ABR (R145). -/
def execAbr (s : BitVec 1) (o : BitVec 24) (st : State) : Ans := abranch st s (o.signExtend 64) fun _ => true

/-- ABEQ (R145). -/
def execAbeq (s : BitVec 1) (a b : BitVec 5) (o : BitVec 11) (st : State) : Ans :=
  abranch st s (o.signExtend 64) fun g => g.getA a.toNat == g.getA b.toNat

/-- ABNE (R145). -/
def execAbne (s : BitVec 1) (a b : BitVec 5) (o : BitVec 11) (st : State) : Ans :=
  abranch st s (o.signExtend 64) fun g => g.getA a.toNat != g.getA b.toNat

/-- ABLT: signed (R145). -/
def execAblt (s : BitVec 1) (a b : BitVec 5) (o : BitVec 11) (st : State) : Ans :=
  abranch st s (o.signExtend 64) fun g => (g.getA a.toNat).slt (g.getA b.toNat)

/-- ABGE: signed (R145). -/
def execAbge (s : BitVec 1) (a b : BitVec 5) (o : BitVec 11) (st : State) : Ans :=
  abranch st s (o.signExtend 64) fun g => !(g.getA a.toNat).slt (g.getA b.toNat)

/-- ABLTN: unsigned (R145). -/
def execAbltn (s : BitVec 1) (a b : BitVec 5) (o : BitVec 11) (st : State) : Ans :=
  abranch st s (o.signExtend 64) fun g => (g.getA a.toNat).ult (g.getA b.toNat)

/-- ABGEN: unsigned (R145). -/
def execAbgen (s : BitVec 1) (a b : BitVec 5) (o : BitVec 11) (st : State) : Ans :=
  abranch st s (o.signExtend 64) fun g => !(g.getA a.toNat).ult (g.getA b.toNat)

/-- ALOOP: decrements and branches while the result is not 0; a = 0 is illegal (R145). -/
def execAloop (s : BitVec 1) (a : BitVec 5) (o : BitVec 19) (st : State) : Ans :=
  accessOp st s { legal := decide (a ≠ 0#5), adv := false } fun g =>
    let x := g.getA a.toNat - 1
    (g.putA a.toNat x).abranch (x != 0) (o.signExtend 64)

/-- AJMPI: the target is checked as R28 states (R145). -/
def execAjmpi (s : BitVec 1) (a : BitVec 5) (st : State) : Ans :=
  accessOp st s { legal := true, adv := false } fun g => match jumpTrap (g.getA a.toNat) with
    | some t => .trap t
    | none => .done { g with apc := g.getA a.toNat }

/-! Arithmetic on A registers (R144). -/

/-- A two-source A-register operation. -/
def aop (st : State) (s : BitVec 1) (d a b : BitVec 5) (f : Word → Word → Word) : Ans :=
  accessOp st s { legal := true } fun g => .done (g.putA d.toNat (f (g.getA a.toNat) (g.getA b.toNat)))

/-- AADD (R144). -/
def execAadd (s : BitVec 1) (d a b : BitVec 5) (st : State) : Ans := aop st s d a b fun x y => x + y
/-- ASUB (R144). -/
def execAsub (s : BitVec 1) (d a b : BitVec 5) (st : State) : Ans := aop st s d a b fun x y => x - y
/-- AMUL (R144). -/
def execAmul (s : BitVec 1) (d a b : BitVec 5) (st : State) : Ans := aop st s d a b fun x y => x * y
/-- AMULH: bits [127:64] of the signed product (R144). -/
def execAmulh (s : BitVec 1) (d a b : BitVec 5) (st : State) : Ans := aop st s d a b fun x y => mulHi x y
/-- AAND (R144). -/
def execAand (s : BitVec 1) (d a b : BitVec 5) (st : State) : Ans := aop st s d a b fun x y => x &&& y
/-- AOR (R144). -/
def execAor (s : BitVec 1) (d a b : BitVec 5) (st : State) : Ans := aop st s d a b fun x y => x ||| y
/-- AXOR (R144). -/
def execAxor (s : BitVec 1) (d a b : BitVec 5) (st : State) : Ans := aop st s d a b fun x y => x ^^^ y
/-- ASHL by Ab[5:0] (R144). -/
def execAshl (s : BitVec 1) (d a b : BitVec 5) (st : State) : Ans := aop st s d a b fun x y => x <<< (y.toNat % 64)
/-- ASHR, filling zeros (R144). -/
def execAshr (s : BitVec 1) (d a b : BitVec 5) (st : State) : Ans := aop st s d a b fun x y => x >>> (y.toNat % 64)
/-- ASRA, filling the sign (R144). -/
def execAsra (s : BitVec 1) (d a b : BitVec 5) (st : State) : Ans := aop st s d a b fun x y => x.sshiftRight (y.toNat % 64)
/-- AMIN: signed (R144). -/
def execAmin (s : BitVec 1) (d a b : BitVec 5) (st : State) : Ans := aop st s d a b fun x y => sMin x y
/-- AMAX: signed (R144). -/
def execAmax (s : BitVec 1) (d a b : BitVec 5) (st : State) : Ans := aop st s d a b fun x y => sMax x y
/-- AMINN: unsigned (R144). -/
def execAminn (s : BitVec 1) (d a b : BitVec 5) (st : State) : Ans := aop st s d a b fun x y => if x.toNat ≤ y.toNat then x else y
/-- AMAXN: unsigned (R144). -/
def execAmaxn (s : BitVec 1) (d a b : BitVec 5) (st : State) : Ans := aop st s d a b fun x y => if x.toNat ≤ y.toNat then y else x

/-- AADDI: Aa + sext(imm14) (R144). -/
def execAaddi (s : BitVec 1) (d a : BitVec 5) (i : BitVec 14) (st : State) : Ans :=
  accessOp st s { legal := true } fun g => .done (g.putA d.toNat (g.getA a.toNat + i.signExtend 64))

/-- ALI: sext(imm16) (R144). -/
def execAli (s : BitVec 1) (d : BitVec 5) (i : BitVec 16) (st : State) : Ans :=
  accessOp st s { legal := true } fun g => .done (g.putA d.toNat (i.signExtend 64))

/-- A 16-bit quarter of a word replaced. -/
def setQuarter (x : Word) (part : Nat) (i : BitVec 16) : Word :=
  (x &&& ~~~(0xFFFF#64 <<< (16 * part))) ||| (i.setWidth 64 <<< (16 * part))

/-- ALIM: bits [31:16] (R144). -/
def execAlim (s : BitVec 1) (d : BitVec 5) (i : BitVec 16) (st : State) : Ans :=
  accessOp st s { legal := true } fun g => .done (g.putA d.toNat (setQuarter (g.getA d.toNat) 1 i))
/-- ALIT: bits [47:32] (R144). -/
def execAlit (s : BitVec 1) (d : BitVec 5) (i : BitVec 16) (st : State) : Ans :=
  accessOp st s { legal := true } fun g => .done (g.putA d.toNat (setQuarter (g.getA d.toNat) 2 i))
/-- ALIQ: bits [63:48] (R144). -/
def execAliq (s : BitVec 1) (d : BitVec 5) (i : BitVec 16) (st : State) : Ans :=
  accessOp st s { legal := true } fun g => .done (g.putA d.toNat (setQuarter (g.getA d.toNat) 3 i))

/-! Queues (R147, R148). -/

/-- The head of XQ for APOP: an empty queue, or a head still reserved, stalls; an empty one traps once the compute stream has ended. -/
def apop (st : State) (s : BitVec 1) (d t : BitVec 5) (keep : Bool) : Ans :=
  issueA st s { legal := true } fun st g => match g.xq with
    | [] => if g.cend then .trap { cause := .queueError } st else .hold st
    | e :: rest =>
      if !e.ready then .hold st
      else if e.poison.getLsbD t.toNat then .trap { cause := .eccUncorr, detail := e.unit } st
      else .done (st.putGroup st.issuer.group ({ g with xq := if keep then g.xq else rest }.putA d.toNat (laneAt e.data t.toNat)))

/-- APOP: thread t's word of the XQ head, popped (R147). -/
def execApop (s : BitVec 1) (d t : BitVec 5) (st : State) : Ans := apop st s d t false

/-- APOP.K: the entry stays (R147). -/
def execApopK (s : BitVec 1) (d t : BitVec 5) (st : State) : Ans := apop st s d t true

/-- APUSH: one LQ entry holding Aa in every thread (R148); it stalls on a full LQ, and its entry is discarded once the compute stream has
ended (R141). -/
def execApush (s : BitVec 1) (d a : BitVec 5) (st : State) : Ans :=
  issueA st s { legal := decide (d.toNat < 4) } fun st g =>
    if g.cend then .done st
    else if 2 ≤ (g.getLq d.toNat).length then .hold st
    else .done (st.putGroup st.issuer.group
      (g.putLq d.toNat (g.getLq d.toNat ++ [{ data := splat (g.getA a.toNat), en := BitVec.allOnes 256, resv := g.nextId }])))

/-! The reuse clock and distances. -/

/-- TICKP after a keeper's RTICK, c cycles after its last (R134). -/
def tickpNext (tickp c : Nat) : Nat := min (2 ^ 32 - 256) (max 256 (tickp - tickp / 8 + min (2 ^ 24 - 1) c * 256 / 8))

/-- RTICK: the keeper's workgroup clock and TICKP (R149, R134). -/
def execRtick (s : BitVec 1) (st : State) : Ans :=
  issueA st s { legal := true } fun st g =>
    if g.gi = (st.wgOf g).keeper then
      .done (st.updWg g.wg fun w => { w with wrc := (w.wrc + 1) % 2 ^ 32, tickp := tickpNext w.tickp w.tickCyc, tickCyc := 0 })
    else .done st

/-- A distance clamped to 0 … 0xFFFF (R150). -/
def clampDist (x : Int) : BitVec 16 := if x < 0 then 0#16 else if 0xFFFF < x then 0xFFFF#16 else BitVec.ofInt 16 x

/-- SETD: Aa + sext(imm14) as a signed 64-bit value, clamped (R150). -/
def execSetd (s : BitVec 1) (d a : BitVec 5) (i : BitVec 14) (st : State) : Ans :=
  accessOp st s { legal := decide (d.toNat < 8) } fun g => .done (g.putD d.toNat (clampDist (g.getA a.toNat + i.signExtend 64).toInt))

/-! State registers (R44). -/

/-- The value of state register n for a group, before any CDC record (R44). -/
def State.stateReg (st : State) (gid : Nat) (g : Group) (n : Nat) : Nat :=
  let w := st.wgOf g
  let gr := st.gridOf w
  match n with
  | 0 => st.gtid0 g
  | 1 => w.lin % gr.desc.x + w.lin / gr.desc.x % gr.desc.y * 2 ^ 21 + w.lin / gr.desc.x / gr.desc.y * 2 ^ 42
  | 2 => w.grid
  | 3 => w.depth
  | 4 => g.stat.toNat
  | 5 => g.tcause
  | 6 => g.tpc
  | 7 => g.tinfo
  | 8 => g.taddr
  | 9 => if g.tlevel then 1 else 0
  | 10 => w.wrc
  | 11 => w.tickp
  | 12 => (st.core (gCore gid)).pts
  | 13 => (st.ctx w.ctx).lease
  | 14 => w.ctx
  | 15 => (st.ctx w.ctx).det
  | _ => if (st.ctx w.ctx).censusEn then 1 else 0

/-- A state register sampled by a stream: TICKP and PTS pass the CDC log (R44, R151). -/
def State.sampleReg (st : State) (gid : Nat) (g : Group) (acc : Bool) (n : Nat) : Option (State × Nat) :=
  let v := st.stateReg gid g n
  if n = 11 ∨ n = 12 then st.cdc (st.ctxOf g) gid acc (if acc then g.icntA else g.icntC) (if n = 11 then 3 else 4) v else some (st, v)

/-- AGETS: state register n, asynchronous (R151, R143). -/
def execAgets (s : BitVec 1) (d : BitVec 5) (i : BitVec 14) (st : State) : Ans :=
  issueA st s { legal := decide (i.toNat ≤ 16), async := true } fun st g =>
    match st.sampleReg st.issuer.group g true i.toNat with
    | none => .hold st
    | some (st, v) => .done (st.updGroup st.issuer.group fun g => g.holdA d.toNat (BitVec.ofNat 64 v))

end Sys2Proof.Machine
end

