-- ==== Sys2Proof/Machine/Access.lean ====
section
/-! DEFINITION. Memory accesses at issue: loads, gathers, stores, scatters, prefetches and atomics become line requests that the memory
unit performs later, in any order the rules allow (R155 to R166, R129). Faults, the spillway and guarded accesses are settled here too. -/

namespace Sys2Proof.Machine

/-! Atomic operations (R165). -/

/-- A value of `n` bytes as a signed number. -/
def sgnB (n x : Nat) : Int := sgn (8 * n) (x % 2 ^ (8 * n))

/-- An atomic operation's new element (R165). -/
def atomNew (op n old v v2 : Nat) : Nat :=
  let w := 8 * n
  let fm := fmtOf (if n = 8 then .f64 else .f32)
  match op with
  | 0 => (old + v) % 2 ^ w
  | 1 => (addF fm .rne (readF fm old) (readF fm (v % 2 ^ w))).bits
  | 2 => if sgnB n v < sgnB n old then v % 2 ^ w else old
  | 3 => if sgnB n old < sgnB n v then v % 2 ^ w else old
  | 4 => min old (v % 2 ^ w)
  | 5 => max old (v % 2 ^ w)
  | 6 => (minmaxF fm false (readF fm old) (readF fm (v % 2 ^ w))).bits
  | 7 => (minmaxF fm true (readF fm old) (readF fm (v % 2 ^ w))).bits
  | 8 => old &&& v % 2 ^ w
  | 9 => old ||| v % 2 ^ w
  | 10 => old ^^^ v % 2 ^ w
  | 11 => v % 2 ^ w
  | _ => if old = v % 2 ^ w then v2 % 2 ^ w else old

/-- The element sizes an atomic operation allows (R165). -/
def atomSizeOk (op n : Nat) : Bool := if op = 1 ∨ op = 6 ∨ op = 7 then decide (n = 4) || decide (n = 8) else true

/-- A floating-point atomic that ORDERED and STRICT buffer (R166). -/
def bufferedOp (det op : Nat) : Bool := (decide (det = 1) || decide (det = 3)) && (decide (op = 1) || decide (op = 6) || decide (op = 7))

/-! Lines. -/

/-- An element of `n` bytes at an address as one line holds it: none where they do not meet. Its bytes in an earlier line are skipped, and those in a later line
lie past the end. -/
def elemIn (h : Hit) (a n l : Nat) : Option Elem :=
  if a + n ≤ l ∨ l + 128 ≤ a then none
  else some { off := a - l, pos := h.part.p, val := h.part.val, val2 := h.part.val2, skip := l - a, on := h.part.on }

/-- The line requests of the elements in bounds, of `n` bytes: one per aligned 128-byte line, ascending (R129); `flat` gives a space's bytes their place. An
element that a swizzle puts across two lines lies in both, but for an atomic, which performs it whole in the first (R163). -/
def lineReqs (glob : Bool) (cls n : Nat) (atom : Bool) (hits : List Hit) (flat : Hit → Nat) : List LineReq :=
  let at_ := fun (h : Hit) => if glob then h.addr else flat h
  let ls := orderBy ((hits.flatMap fun h => if atom then [lineOf (at_ h)] else [lineOf (at_ h), lineOf (at_ h + n - 1)]).eraseDups) (· ≤ ·)
  ls.map fun l =>
    { va := l, pa := if glob then 0 else l, glob := glob, cls := cls
      elems := hits.filterMap fun h => if atom && decide (lineOf (at_ h) ≠ l) then none else elemIn h (at_ h) n l }

/-- How many bytes of an element of `n` bytes a line holds. -/
def Elem.len (e : Elem) (n : Nat) : Nat := min (n - e.skip) (128 - e.off)

/-- The lowest element byte of a line. -/
def LineReq.low (l : LineReq) : Nat := l.va + ((l.elems.map (·.off)).min?.getD 0)

/-- The byte of every element of a line whose operation is enabled (R341). -/
def LineReq.bytes (l : LineReq) (n : Nat) : List Nat := (l.elems.filter fun e => e.on).flatMap fun e => (List.range (e.len n)).map fun i => l.va + e.off + i

/-- The halves of a line that its elements touch (R208). -/
def LineReq.halves (l : LineReq) (n : Nat) : Nat :=
  let bs := l.elems.map fun e => (e.off, e.len n)
  (if bs.any fun b => decide (b.1 < 64) then 1 else 0) + (if bs.any fun b => decide (64 < b.1 + b.2) then 2 else 0)

/-- The lines of an access after translation: those ready, those whose page is missing with the trap a decline raises, the first trap, the element bytes on watched
pages, and whether a line's translation must wait. -/
structure Checked where
  st : State
  good : List LineReq := []
  missing : List (LineReq × Nat × Trap) := []
  trap : Option Trap := none
  watched : List Nat := []
  wait : Bool := false

/-- One line of an access translated and checked (R158, R330, R416). -/
def checkLine (c : Nat) (who : Who) (esize : Nat) (n : Need) (wr : Bool) (k : Checked) (l : LineReq) : Checked :=
  if !l.glob then
    match k.st.lostTrap l.pa with
    | some t => { k with trap := k.trap.or (some t) }
    | none => { k with good := k.good ++ [l] }
  else
    match k.st.access c who l.low n 0 wr with
    | .wait => { k with wait := true }
    | .fault page t st => { k with st := st, missing := k.missing ++ [(l, page, t)] }
    | .prot t st => { k with st := st, trap := k.trap.or (some t) }
    | .ok leaf pa st =>
      let line := lineOf pa
      let l' := { l with pa := line, cls := effClass l.cls leaf, host := hostPage leaf line, tracked := st.tracked c leaf }
      let k := if pteBit leaf 9 then { k with watched := k.watched ++ l.bytes esize } else k
      match st.lostTrap line with
      | some t => { k with st := st, trap := k.trap.or (some { t with addr := l.low }) }
      | none => { k with st := st, good := k.good ++ [l'] }

/-- The watch filter asked for the whole access (R341): WIDX the lowest entry that any of its bytes hits, TADDR the lowest byte that hits one (R337); where a line
traps as well, the one at the lower address stands (DESIGN CHOICE: log entry 17). -/
def Checked.watch (k : Checked) (c : Nat) (rd wr : Bool) : Checked :=
  match watchHit (k.st.ctx c).watch rd wr k.watched with
  | none => k
  | some (i, b) =>
    let t : Trap := { cause := .watch, detail := trDetail false 0 0 false wr false false i, addr := b }
    { k with trap := match k.trap with
      | some u => some (if u.addr < b then u else t)
      | none => some t }

/-- Every line of an access translated before any is performed (R158). -/
def State.checkLines (st : State) (c : Nat) (who : Who) (esize : Nat) (n : Need) (rd wr : Bool) (ls : List LineReq) : Checked :=
  (ls.foldl (checkLine c who esize n wr) { st := st }).watch c rd wr

/-- The permission, and the watch kinds, of an access (R330, R341). -/
def kindNeed (k : AKind) : Need × Bool × Bool :=
  match k with
  | .load | .gather | .lda _ | .pref | .vdef => (.r, true, false)
  | .store | .scatter | .sta => (.w, false, true)
  | .atom | .atoma => (.rw, true, true)

/-- A load-like access returns a value and is held by a missing page; the rest retire into the spillway (R159). -/
def Access.returns (a : Access) : Bool :=
  match a.kind with
  | .load | .gather | .lda _ | .vdef | .atoma => true
  | .atom => a.lq.isSome
  | _ => false

/-! Pages blocked at their home (R195). -/

/-- A queued event is still to come: its access, command or spillway entry stands. -/
def State.moveLive (st : State) (m : MoveWait) : Bool :=
  (match mget st.groups m.group with
    | some g => g.memq.any fun a => decide (a.id = m.id) && a.lines.any fun l => decide (l.va = m.va) && !l.done
    | none => false)
  || (let k := st.cluster (gCluster m.group)
      (k.copyQ ++ k.fabQ).any fun e => decide (e.group = m.group) && decide (e.id = m.id))
  || st.spillways.any fun q => q.2.any fun e => decide (e.group = m.group) && decide (e.access.id = m.id) && decide (e.line.va = m.va)

/-- The event is performed next at a page that a migration has moved, or none waits there (R195). -/
def State.moveTurn (st : State) (m : MoveWait) : Bool :=
  match st.moveQ.find? fun x => decide (x.ctx = m.ctx) && decide (x.page = m.page) && st.moveLive x with
  | some x => decide (x = m)
  | none => true

/-- An event that comes to a blocked page joins the queue of the old home, once (R195). -/
def State.moveCome (st : State) (m : MoveWait) : State := if m ∈ st.moveQ then st else { st with moveQ := st.moveQ ++ [m] }

/-- An event that is performed leaves the queue, with those that will not come any more. -/
def State.moveGone (st : State) (m : MoveWait) : State :=
  if st.moveQ = [] then st else { st with moveQ := st.moveQ.filter fun x => decide (x ≠ m) && st.moveLive x }

/-! The spillway (R160 to R162). -/

/-- The quad of a group: 4 × core + quad. -/
def quadOf (gid : Nat) : Nat := gid / 32

/-- A quad's spillway. -/
def State.spillway (st : State) (q : Nat) : List Spill := mgetD st.spillways q []

/-- A deferred trap for a group (R162): kept once per cause. -/
def State.defer (st : State) (gid : Nat) (t : Trap) : State :=
  st.postTrap gid { trap := { t with detail := if t.cause = .dieLost then t.detail else t.detail ||| 1 }, kind := .deferred, acc := true, slot := 4 }

/-- A cause that stands for one group of a workgroup: a saved group keeps it with its state, also while a save or restore handler runs in its place. -/
def State.postTo (st : State) (w gi : Nat) (p : Pend) : State :=
  match (mget st.workgroups w).bind fun wg => mget wg.saved gi with
  | some g => if g.pend.any (samePend p) then st else
      st.updWg w fun x => { x with saved := mupd x.saved gi fun g => { g with pend := g.pend ++ [p] } }
  | none => match (st.groupsOf w).find? fun e => decide (e.2.gi = gi) with
    | some e => st.postTrap e.1 p
    | none => st

/-- A cause that stands for a group of a workgroup, named by the slot it holds or held. -/
def State.postAt (st : State) (gid w : Nat) (p : Pend) : State :=
  st.postTo w ((mgetD st.workgroups w { ctx := 0, grid := 0 }).slots.findIdx fun s => decide (s = gid % 128)) p

/-- A deferred trap for a group that may be saved. -/
def State.deferAt (st : State) (gid w : Nat) (t : Trap) : State :=
  st.postAt gid w { trap := { t with detail := if t.cause = .dieLost then t.detail else t.detail ||| 1 }, kind := .deferred, acc := true, slot := 4 }

/-- The page-fault service called for a group's access stream, with the trap that a decline raises. -/
def State.askPage (st : State) (c gid page : Nat) (t : Trap) : Served :=
  st.pageFault c (.stream gid true) page t.detail ((mget st.groups gid).map (fun g => (st.wgOf g).serial) |>.getD 0) t.addr

/-- A line of a store put into its quad's spillway, where there is room (R160). The answer says whether it is settled. -/
def State.spillIn (st : State) (c gid : Nat) (a : Access) (l : LineReq) : State × Bool :=
  let q := quadOf gid
  if 64 ≤ (st.spillway q).length then (st, false)
  else
    let e : Spill := { ctx := c, group := gid, wg := ((mget st.groups gid).map (·.wg)).getD 0, access := { a with lines := [l] } }
    ({ st with spillways := mset st.spillways q (st.spillway q ++ [e]) }, true)

/-- An untranslated line of a store put into its quad's spillway, as far as there is room; a declined page discards it, with the deferred
trap (R159, R160, R162). The answer says whether it is settled. -/
def State.spillLine (st : State) (c gid : Nat) (a : Access) (l : LineReq) (t : Trap) : State × Bool :=
  let r := st.askPage c gid (l.va / 2 ^ 16 % 2 ^ 36) t
  if r.declined then (r.st.defer gid { t with addr := l.va }, true) else r.st.spillIn c gid a l

/-- The untranslated lines of a store, ascending, into the spillway; what does not fit stays with the access (R160). -/
def State.spillLines (st : State) (c gid : Nat) (a : Access) (ms : List (LineReq × Nat × Trap)) : State × List LineReq :=
  ms.foldl (fun (acc : State × List LineReq) m =>
    if acc.2 ≠ [] then (acc.1, acc.2 ++ [{ m.1 with spilled := true }])
    else
      let r := acc.1.spillLine c gid a m.1 m.2.2
      (r.1, if r.2 then [] else [{ m.1 with spilled := true }])) (st, [])

/-! Guards on the access side (R88, R89). -/

/-- A guarded command paired with its resolution: resolved with a value, or waiting; none where eight already wait. Once the compute stream has ended no
command waits, so that the stall of a ninth never meets that end (R88, R114). -/
def Group.pair (g : Group) (slot id : Nat) : Option (Group × Option Bool) :=
  let s := mgetD g.guards slot {}
  match s.res with
  | r :: rest => some ({ g with guards := mput g.guards slot { s with res := rest } {} }, some r)
  | [] =>
    if g.cend then some (g, some false)
    else if 8 ≤ s.cmds.length then none
    else some ({ g with guards := mput g.guards slot { s with cmds := s.cmds ++ [id] } {} }, none)

/-! Issue. -/

/-- The LQ reservation of a load (R141): one, and none once the compute stream has ended. -/
def Group.reserveLq (g : Group) (lq : Option Nat) (id : Nat) : Group :=
  match lq with
  | some n => if g.cend || (g.getLq n).any fun e => !e.ready && decide (e.resv = id) then g else g.putLq n (g.getLq n ++ [{ ready := false, resv := id }])
  | none => g

/-- An access holds its LQ reservation. -/
def Group.reserved (g : Group) (a : Access) : Bool := a.lq.any fun n => (g.getLq n).any fun e => !e.ready && decide (e.resv = a.id)

/-- An LQ has no room for another reservation (R141). -/
def Group.lqFull (g : Group) (lq : Option Nat) : Bool :=
  match lq with
  | some n => !g.cend && decide (2 ≤ (g.getLq n).length)
  | none => false

/-- The write-back entry of an access that writes an A register (R143). -/
def Group.reserveA (g : Group) (a : Access) : Group :=
  match a.kind with
  | .lda _ | .atoma => { g with wbA := g.wbA ++ [{ dest := if a.areg = 0 then .none else .a a.areg, id := a.id }] }
  | _ => g

/-- An access put behind the group's others in the memory unit. -/
def Group.enqueue (g : Group) (a : Access) : Group := { g with memq := g.memq ++ [a], nextId := a.id + 1 }

/-- STAT.OOB raised for a group where an element was out of bounds (R130, R255). -/
def State.flagOob (st : State) (gid : Nat) (oob : Bool) : State := if oob then st.updGroup gid fun g => g.raise fOOB else st

/-- An access joins the memory unit: its queue entries popped, its LQ entry and write-back entry reserved. -/
def State.joined (st : State) (gid : Nat) (a : Access) (pops : Group → Group) (wb : Bool) : State :=
  st.updGroup gid fun g =>
    let g := ((pops g).reserveLq a.lq a.id).enqueue a
    if wb then g.reserveA a else g

/-- The group with an access's lines given; one that has none left is done with (R159). -/
def Group.setLines (g : Group) (id : Nat) (ls : List LineReq) : Group :=
  if ls = [] then { g with memq := g.memq.filter fun b => decide (b.id ≠ id) }
  else { g with memq := g.memq.map fun b => if b.id = id then { b with lines := ls } else b }

/-- A store joins the memory unit with its untranslated lines in the spillway: those that find room settle there, the rest stay with it and hold the
stream (R159, R160). -/
def State.joinedSpilling (st : State) (gid c : Nat) (a : Access) (pops : Group → Group) (wb : Bool) (good : List LineReq) (ms : List (LineReq × Nat × Trap)) : State :=
  let (st, rest) := (st.joined gid a pops wb).spillLines c gid a ms
  st.updGroup gid fun g => { g.setLines a.id (good ++ rest) with spilling := decide (rest ≠ []) }

/-- A checked unguarded access issued (R158, R159): it traps, is held at the instruction for a page, or joins the memory unit with its
untranslated stores in the spillway. `pops` takes the queue entries it names. -/
def State.issueLines (st : State) (gid c : Nat) (a : Access) (pops : Group → Group) (wb : Bool) : IEff :=
  let (n, rd, wr) := kindNeed a.kind
  let k := st.checkLines c (.stream gid true) a.esize n rd wr a.lines
  if k.wait then .hold k.st
  else if a.kind = .pref then .done (k.st.joined gid { a with lines := k.good } pops wb)
  else match k.trap with
  | some t => .trap t k.st
  | none =>
    match k.missing with
    | [] => .done (k.st.joined gid { a with lines := k.good } pops wb)
    | (_, page, t) :: _ =>
      if a.returns then
        let r := k.st.askPage c gid page t
        if r.declined then .trap { t with declined := true } r.st
        else .hold (r.st.updGroup gid fun g => { g with await := .paged page t })
      else .done (k.st.joinedSpilling gid c a pops wb k.good k.missing)

/-- An access issued, guarded or not (R89, R157, R158): a guarded one is translated only when it has resolved true; one that resolves false is
discarded, its queue entries popped. -/
def State.issueMem (st : State) (gid : Nat) (g : Group) (a : Access) (pops : Group → Group) (wb oob : Bool) : IEff :=
  let c := st.ctxOf g
  let flag := fun (q : IEff) => match q with
    | .done st => .done (st.flagOob gid oob)
    | q => q
  match a.guard with
  | none => flag (st.issueLines gid c a pops wb)
  | some slot =>
    match g.pair slot a.id with
    | none => .hold st
    | some (g, some false) => flag (.done (st.putGroup gid { pops g with nextId := a.id + 1 }))
    | some (g, r) =>
      let a := { a with resolved := r.isSome, checked := false }
      let g := (pops g).enqueue a
      flag (.done (st.putGroup gid (if wb then g.reserveA a else g)))

/-- The declared distance of an access (R133): Dn, or DDIST for D0. -/
def Group.dist (g : Group) (d : BitVec 1024) (dreg : Nat) : Option Nat :=
  if dreg ≠ 0 then some (g.getD dreg).toNat else if vDdist d ≠ 0 then some (vDdist d) else none

/-- The class of an access before the page raises it: 0 NORMAL, 1 BYPASS, 2 STREAM (R131). -/
def accClass (d : BitVec 1024) (c : Nat) : Nat := if c ≠ 0 then c - 1 else vClass d

/-- The fields of an AM word every access shares (R155). -/
structure Am where
  slot : Nat
  cb : Nat
  dreg : Nat
  guard : Option Nat
  cls : Nat

/-- The AM fields of a word. -/
def amOf (v a : BitVec 5) (d g : BitVec 3) (e : BitVec 1) (c : BitVec 2) : Am :=
  { slot := v.toNat, cb := a.toNat, dreg := d.toNat, guard := if e = 1#1 then some g.toNat else none, cls := c.toNat }

/-- An access from its view and its parts (R129): the view's traps, then the bounds; `k` makes the rest of the issue, and `wr` says that it writes. -/
def State.through (st : State) (g : Group) (view : Trap ⊕ BitVec 1024) (after : BitVec 1024 → Option Trap)
    (parts : BitVec 1024 → List Part) (wr : Bool) (k : BitVec 1024 → List Hit → Bool → IEff) : IEff :=
  match view with
  | .inl t => .trap t st
  | .inr d =>
    match after d with
    | some t => .trap t st
    | none => match st.reach g d (parts d) with
      | .trap t => .trap (if wr then t.asWrite else t) st
      | .ok hits oob => k d hits oob

/-- An access through the view that a slot holds. -/
def State.viaView (st : State) (g : Group) (slot cb : Nat) (after : BitVec 1024 → Option Trap)
    (parts : BitVec 1024 → List Part) (wr : Bool) (k : BitVec 1024 → List Hit → Bool → IEff) : IEff :=
  st.through g ((st.wgOf g).checkedView slot cb) after parts wr k

/-- The access record of an AM instruction. -/
def mkAccess (g : Group) (d : BitVec 1024) (m : Am) (kind : AKind) (lq : Option Nat) (areg : Nat) (lines : List LineReq) : Access :=
  { id := g.nextId, kind := kind, esize := vEsize d, slot := m.slot, lines := lines, lq := lq, areg := areg, guard := m.guard, pc := g.apc, icnt := if g.outside then 2 ^ 37 else g.icntA
    dist := g.dist d m.dreg, coord := g.coords d m.cb }

/-- The line requests of an access through a view. -/
def State.viewLines (st : State) (gid : Nat) (g : Group) (d : BitVec 1024) (cls : Nat) (hits : List Hit) : List LineReq :=
  lineReqs (decide (vSpace d = 0)) cls (vEsize d) false hits fun h => st.spaceFlat gid g (vSpace d) h.part.thread h.addr

/-- The line requests of an atomic through a view. -/
def State.atomLines (st : State) (gid : Nat) (g : Group) (d : BitVec 1024) (hits : List Hit) : List LineReq :=
  lineReqs (decide (vSpace d = 0)) (vClass d) (vEsize d) true hits fun h => st.spaceFlat gid g (vSpace d) h.part.thread h.addr

/-- Every element position of a tile, for a load or a prefetch (R129). -/
def wholeTile (d : BitVec 1024) (c : List Int) : List Part := tileParts d c (fun _ => true) (fun _ => 0) fun _ => 0

/-- A store's view must not be RONLY (R155). -/
def ronly (d : BitVec 1024) : Option Trap := if vRonly d then some { cause := .prot, detail := trDetail false 0 0 false true false false } else none

/-- The PROT of a write of elements through a RONLY view, with its address (R155, R337). -/
def ronlyAt (d : BitVec 1024) (parts : List Part) : Option Trap := (ronly d).map fun t => { t with addr := lowByte d parts }

/-- The threads of a single element whose A register is poisoned (R414). -/
def Group.badA (g : Group) (r : Nat) : Mask := if pkA r ∈ g.poison then 1#32 else 0#32

/-- A tile loaded into one LQ entry through a view (R155). -/
def State.tileLoad (st : State) (gid : Nat) (gr : Group) (m : Am) (q : Nat) (view : Trap ⊕ BitVec 1024) : IEff :=
  st.through gr view (fun _ => none) (fun dv => wholeTile dv (gr.coords dv m.cb)) false fun dv hits oob =>
    if m.guard.isNone && gr.lqFull (some q) then .hold st
    else st.issueMem gid gr (mkAccess gr dv m .load (some q) 0 (st.viewLines gid gr dv (accClass dv m.cls) hits)) id false oob

/-- LDT: a tile into one LQ entry (R155). -/
def execLdt (s : BitVec 1) (q : BitVec 3) (v a : BitVec 5) (d g : BitVec 3) (e : BitVec 1) (c : BitVec 2) (st : State) : Ans :=
  issueA st s { legal := decide (q.toNat < 4) && guardOk g e } fun st gr =>
    let m := amOf v a d g e c
    st.tileLoad st.issuer.group gr m q.toNat ((st.wgOf gr).checkedView m.slot m.cb)

/-- PREF: the lines of a tile, nothing returned (R157). After the view and slot checks it takes no trap: what is out of bounds is skipped, under STRICT too,
without which STAT.OOB is set (R130). -/
def execPref (s : BitVec 1) (v a : BitVec 5) (d g : BitVec 3) (e : BitVec 1) (c : BitVec 2) (st : State) : Ans :=
  issueA st s { legal := guardOk g e } fun st gr =>
    let m := amOf v a d g e c
    let gid := st.issuer.group
    match (st.wgOf gr).checkedView m.slot m.cb with
    | .inl t => .trap t st
    | .inr dv =>
      let parts := wholeTile dv (gr.coords dv m.cb)
      let oob := !vStrict dv && parts.any fun p => (oobDim dv p.coord).isSome
      st.issueMem gid gr (mkAccess gr dv m .pref none 0 (st.viewLines gid gr dv (accClass dv m.cls) (prefHits dv parts))) id false oob

/-- An empty XQ or SQ, or a head still reserved, at the access side (R141). -/
def emptyQ (g : Group) (l : List QEntry) (n : Nat) (st : State) : Option IEff :=
  if l.length < n then (if g.cend then some (.trap { cause := .queueError } st) else some (.hold st))
  else if (l.take n).any fun e => !e.ready then some (.hold st) else none

/-- The byte that enables thread t's word of an entry is set (R142). -/
def QEntry.threadOn (e : QEntry) (t : Nat) : Bool := e.en.getLsbD (8 * t)

/-- LDG: a gather by the XQ head (R155, R156). -/
def execLdg (s : BitVec 1) (q : BitVec 3) (v a : BitVec 5) (d g : BitVec 3) (e : BitVec 1) (c : BitVec 2) (st : State) : Ans :=
  issueA st s { legal := decide (q.toNat < 4) && guardOk g e } fun st gr =>
    let m := amOf v a d g e c
    let gid := st.issuer.group
    let lq := some q.toNat
    match (st.wgOf gr).checkedView m.slot m.cb with
    | .inl t => .trap t st
    | .inr dv =>
      match emptyQ gr gr.xq 1 st with
      | some r => r
      | none =>
        let x := gr.xq.headD {}
        match st.reach gr dv (gatherParts dv (gr.coords dv m.cb) x.data x.threadOn fun _ => 0) with
        | .trap t => .trap t st
        | .ok hits oob =>
          if m.guard.isNone && gr.lqFull lq then .hold st
          else st.issueMem gid gr (mkAccess gr dv m .gather lq 0 (st.viewLines gid gr dv (accClass dv m.cls) hits)) (fun g => { g with xq := g.xq.drop 1 }) false oob

/-- The one element at the coordinates (R155): through PRIV, of thread 0's slice. -/
def onePart (g : Group) (d : BitVec 1024) (cb val val2 : Nat) : List Part := [{ p := 0, coord := g.coords d cb, val := val, val2 := val2 }]

/-- LDA: one element into A[cb], asynchronous; cb = 0 is illegal (R155, R143). -/
def execLda (s x : BitVec 1) (v a : BitVec 5) (d g : BitVec 3) (e : BitVec 1) (c : BitVec 2) (st : State) : Ans :=
  issueA st s { legal := decide (a ≠ 0#5) && guardOk g e, async := true } fun st gr =>
    let m := amOf v a d g e c
    let gid := st.issuer.group
    st.viaView gr m.slot m.cb (fun _ => none) (fun dv => onePart gr dv m.cb 0 0) false fun dv hits oob =>
      st.issueMem gid gr (mkAccess gr dv m (.lda (x == 1#1)) none m.cb (st.viewLines gid gr dv (accClass dv m.cls) hits)) id true oob

/-- The SQ element at position p is enabled: the byte that holds its lowest address (R142). -/
def sqOn (e : QEntry) (esize p : Nat) : Bool := e.en.getLsbD (esize * p)

/-- STT: a tile from one SQ entry (R155). -/
def execStt (s : BitVec 1) (v a : BitVec 5) (d g : BitVec 3) (e : BitVec 1) (c : BitVec 2) (st : State) : Ans :=
  issueA st s { legal := guardOk g e } fun st gr =>
    let m := amOf v a d g e c
    let gid := st.issuer.group
    match (st.wgOf gr).checkedView m.slot m.cb with
    | .inl t => .trap t st
    | .inr dv =>
      let q := gr.sq.headD {}
      let n := vEsize dv
      let parts := tileParts dv (gr.coords dv m.cb) (sqOn q n) (elemAt q.data (8 * n)) fun _ => 0
      match ronlyAt dv parts with
      | some t => .trap t st
      | none => match emptyQ gr gr.sq 1 st with
        | some r => r
        | none =>
          match st.reach gr dv parts with
          | .trap t => .trap t.asWrite st
          | .ok hits oob =>
            st.issueMem gid gr { mkAccess gr dv m .store none 0 (st.viewLines gid gr dv (accClass dv m.cls) hits) with bad := q.poison }
              (fun g => { g with sq := g.sq.drop 1 }) false oob

/-- STG: a scatter by the XQ head of the SQ head's words (R155, R156). -/
def execStg (s : BitVec 1) (v a : BitVec 5) (d g : BitVec 3) (e : BitVec 1) (c : BitVec 2) (st : State) : Ans :=
  issueA st s { legal := guardOk g e } fun st gr =>
    let m := amOf v a d g e c
    let gid := st.issuer.group
    match (st.wgOf gr).checkedView m.slot m.cb with
    | .inl t => .trap t st
    | .inr dv =>
      let x := gr.xq.headD {}
      let q := gr.sq.headD {}
      let parts := gatherParts dv (gr.coords dv m.cb) x.data (fun t => x.threadOn t && q.threadOn t) fun t => (laneAt q.data t).toNat % 2 ^ (8 * vEsize dv)
      match ronlyAt dv parts with
      | some t => .trap t st
      | none => match (emptyQ gr gr.xq 1 st).or (emptyQ gr gr.sq 1 st) with
        | some r => r
        | none =>
          match st.reach gr dv parts with
          | .trap t => .trap t.asWrite st
          | .ok hits oob =>
            st.issueMem gid gr { mkAccess gr dv m .scatter none 0 (st.viewLines gid gr dv (accClass dv m.cls) hits) with bad := q.poison }
              (fun g => { g with xq := g.xq.drop 1, sq := g.sq.drop 1 }) false oob

/-- STA: one element from A[cb + NDIM]; cb + NDIM past A31 fails with code 12 (R155). -/
def execSta (s : BitVec 1) (v a : BitVec 5) (d g : BitVec 3) (e : BitVec 1) (c : BitVec 2) (st : State) : Ans :=
  issueA st s { legal := guardOk g e } fun st gr =>
    let m := amOf v a d g e c
    let gid := st.issuer.group
    st.viaView gr m.slot m.cb
      (fun dv => if 31 < m.cb + vNdim dv then some (viewFault m.slot 12) else ronlyAt dv (onePart gr dv m.cb 0 0))
      (fun dv => onePart gr dv m.cb ((gr.getA (m.cb + vNdim dv)).toNat % 2 ^ (8 * vEsize dv)) 0) true fun dv hits oob =>
        st.issueMem gid gr { mkAccess gr dv m .sta none 0 (st.viewLines gid gr dv (accClass dv m.cls) hits) with bad := gr.badA (m.cb + vNdim dv) } id false oob

/-! Atomics. -/

/-- The entries a buffered atomic appends (R262): ascending WTID, then ascending sub-element position; GLOB elements by virtual address. -/
def State.atomEntries (st : State) (gid : Nat) (g : Group) (d : BitVec 1024) (op : Nat) (hits : List Hit) (bad : Nat → Bool) : List AtomEntry :=
  hits.map fun h =>
    { wtid := 32 * g.gi + h.part.thread, seq := 0, addr := if vSpace d = 0 then h.addr else st.spaceFlat gid g (vSpace d) h.part.thread h.addr
      glob := decide (vSpace d = 0), early := decide (2 ≤ vSpace d), op := op, esize := vEsize d, val := h.part.val, bad := bad h.part.p }

/-- The buffer with entries put after those of the same or a lower WTID (R262). -/
def insertAtoms (b es : List AtomEntry) : List AtomEntry :=
  es.foldl (fun b e => (b.filter fun x => decide (x.wtid ≤ e.wtid)) ++ [e] ++ b.filter fun x => decide (e.wtid < x.wtid)) b

/-- Chunks of 4,096 entries taken from a context's pool (R262): what its workgroups hold, and what its retired ones took, which stay taken until the grid's
entries have been applied at its end. -/
def State.chunksTaken (st : State) (c : Nat) : Nat :=
  (st.workgroups.filter fun e => decide (e.2.ctx = c)).foldl (fun n e => n + e.2.abufChunks) 0
    + (st.grids.filter fun e => decide (e.2.ctx = c)).foldl (fun n e => n + e.2.chunks) 0

/-- A buffered atomic appended, or QUEUE_ERROR 5 where the buffer or the pool is full (R262), or there is no pool (R349). -/
def State.bufferAtoms (st : State) (w : Nat) (c : Nat) (es : List AtomEntry) : Option State :=
  match mget st.workgroups w with
  | none => some st
  | some wg =>
    let n := wg.abuf.length + es.length
    let need := (n + 4095) / 4096
    let extra := need - wg.abufChunks
    if (st.ctx c).abuf = 0 ∨ 65536 < n ∨ (st.ctx c).abuf / 4096 < st.chunksTaken c + extra then none
    else some (st.updWg w fun x => { x with abuf := insertAtoms x.abuf es, abufChunks := max x.abufChunks need })

/-- The order codes that acquire, and those that release (R184). -/
def acquires (o : Nat) : Bool := decide (o = 1) || decide (o = 3) || decide (o = 4)
/-- The order codes that release. -/
def releases (o : Nat) : Bool := decide (o = 2) || decide (o = 3) || decide (o = 4)

/-- ATOM: one atomic operation per enabled element of a tile (R163, R166); every position takes part in the bounds and address checks (R129). -/
def execAtom (s : BitVec 1) (q : BitVec 3) (v a : BitVec 5) (o c : BitVec 3) (p : BitVec 5) (st : State) : Ans :=
  issueA st s { legal := (decide (q.toNat < 4) || decide (q.toNat = 7)) && decide (o.toNat ≤ 4) && scopeOk c.toNat && atomOpOk p.toNat
                         && !(decide (o.toNat = 4) && decide (c.toNat = 5)) } fun st gr =>
    let gid := st.issuer.group
    let op := p.toNat
    let det := (st.ctx (st.ctxOf gr)).det
    let lq := if q.toNat < 4 then some q.toNat else none
    if bufferedOp det op && lq.isSome then .trap (illegal 4) st
    else match (st.wgOf gr).checkedView v.toNat a.toNat with
    | .inl t => .trap t st
    | .inr dv =>
      let n := vEsize dv
      if !atomSizeOk op n then .trap (viewFault v.toNat 13) st
      else match ronlyAt dv (wholeTile dv (gr.coords dv a.toNat)) with
      | some t => .trap t st
      | none =>
        let need := if op = 12 then 2 else 1
        match emptyQ gr gr.sq need st with
        | some r => r
        | none =>
          let e1 := gr.sq.headD {}
          let e2 := gr.sq.getD 1 {}
          match st.reach gr dv ((tileParts dv (gr.coords dv a.toNat) (fun _ => true) (elemAt e1.data (8 * n)) (elemAt e2.data (8 * n))).map fun p =>
              { p with on := sqOn e1 n p.p }) with
          | .trap t => .trap t.asWrite st
          | .ok hits oob =>
            let bad := if need = 2 then e1.poison ||| e2.poison else e1.poison
            let pops := fun (g : Group) => { g with sq := g.sq.drop need }
            if bufferedOp det op then
              match st.bufferAtoms gr.wg (st.ctxOf gr) (st.atomEntries gid gr dv op (hits.filter fun h => h.part.on) fun p => bad.getLsbD (n * p / 8)) with
              | none => .trap { cause := .queueError, detail := 5 } st
              | some st => .done ((st.updGroup gid pops).flagOob gid oob)
            else if gr.lqFull lq then .hold st
            else
              let m : Am := { slot := v.toNat, cb := a.toNat, dreg := 0, guard := none, cls := 0 }
              let acc := { mkAccess gr dv m .atom lq 0 (st.atomLines gid gr dv hits) with op := op, order := o.toNat, scope := c.toNat, bad := bad }
              st.issueMem gid gr acc pops false oob

/-- ATOMA: one atomic operation on the element at the coordinates, the old value into Ad, asynchronous (R164, R166). -/
def execAtoma (s : BitVec 1) (d a b : BitVec 5) (p : BitVec 4) (o : BitVec 2) (c : BitVec 3) (st : State) : Ans :=
  issueA st s { legal := scopeOk c.toNat && atomOpOk p.toNat && !(decide (p.toNat = 12) && decide (d.toNat = 31)), async := true } fun st gr =>
    let gid := st.issuer.group
    let op := p.toNat
    let x := (gr.getA d.toNat).toNat
    let y := (gr.getA (d.toNat + 1)).toNat
    st.viaView gr b.toNat a.toNat
      (fun dv => if !atomSizeOk op (vEsize dv) then some (viewFault b.toNat 13) else ronlyAt dv (onePart gr dv a.toNat 0 0))
      (fun dv => onePart gr dv a.toNat (x % 2 ^ (8 * vEsize dv)) (y % 2 ^ (8 * vEsize dv))) true fun dv hits oob =>
        let bad := gr.badA d.toNat ||| if op = 12 then gr.badA (d.toNat + 1) else 0#32
        if bufferedOp (st.ctx (st.ctxOf gr)).det op then
          match st.bufferAtoms gr.wg (st.ctxOf gr) (st.atomEntries gid gr dv op hits fun _ => bad ≠ 0#32) with
          | none => .trap { cause := .queueError, detail := 5 } st
          | some st => .done (st.flagOob gid oob)
        else
          let m : Am := { slot := b.toNat, cb := a.toNat, dreg := 0, guard := none, cls := 0 }
          let acc := { mkAccess gr dv m .atoma none d.toNat (st.atomLines gid gr dv hits) with op := op, order := o.toNat, scope := c.toNat, bad := bad }
          st.issueMem gid gr acc id true oob

/-! Defining views (R152 to R154). -/

/-- A defining instruction waits while its slot's view is CONVERTING (R126). -/
def State.slotBusy (st : State) (g : Group) (slot : Nat) : Bool := vConverting ((st.wgOf g).view slot)

/-- A descriptor read from one line, to define a slot at its arrival; the stream issues nothing until then (R153). -/
def State.startVdef (st : State) (gid : Nat) (slot id : Nat) (l : LineReq) (pc : Word) : IEff :=
  .hold (st.updGroup gid fun g =>
    { g.enqueue { id := id, kind := .vdef, esize := 128, slot := slot, lines := [l], pc := pc, icnt := if g.outside then 2 ^ 37 else g.icntA } with await := .vdef slot id })

/-- VDEF.GLOB: the descriptor at a GLOB address (R153). -/
def execVdefGlob (s : BitVec 1) (d a : BitVec 5) (st : State) : Ans :=
  issueA st s { legal := true } fun st g =>
    let gid := st.issuer.group
    let x := (g.getA a.toNat).toNat
    if st.slotBusy g d.toNat then .hold st
    else if x % 128 ≠ 0 then .trap { cause := .misalign } st
    else if 2 ^ 52 ≤ x then .trap { cause := .pageFault, addr := x % 2 ^ 52 } st
    else
      let c := st.ctxOf g
      let l : LineReq := { va := x, pa := 0, glob := true, elems := [{ off := 0, pos := 0 }] }
      let k := st.checkLines c (.stream gid true) 128 .r true false [l]
      match k.trap with
      | some t => .trap t k.st
      | none => match k.missing, k.good with
        | (_, page, t) :: _, _ =>
          let r := k.st.askPage c gid page t
          if r.declined then .trap { t with declined := true } r.st else .hold (r.st.updGroup gid fun g => { g with await := .paged page t })
        | [], l' :: _ => k.st.startVdef gid d.toNat g.nextId l' g.apc
        | [], [] => .hold k.st

/-- VDEF.CORE: the descriptor at an offset of the CORE allocation (R153). -/
def execVdefCore (s : BitVec 1) (d a : BitVec 5) (st : State) : Ans :=
  issueA st s { legal := true } fun st g =>
    let gid := st.issuer.group
    let x := (g.getA a.toNat).toNat
    if st.slotBusy g d.toNat then .hold st
    else if x % 128 ≠ 0 then .trap { cause := .misalign } st
    else if st.spaceBytes g 3 < x + 128 then .trap { cause := .prot } st
    else
      let f := st.spaceFlat gid g 3 0 x
      st.startVdef gid d.toNat g.nextId { va := f, pa := f, glob := false, elems := [{ off := 0, pos := 0 }] } g.apc

/-- The RW bits of CTL (R123). -/
def ctlRw : Nat := 0xFFFF0007003FFFF7

/-- The descriptor after a VSET of one field, or the check code that refuses it (R154). -/
def vsetField (d : BitVec 1024) (f : Nat) (x : Word) : Nat ⊕ BitVec 1024 :=
  let n := x.toNat
  let narrow := fun (lo : Nat) => if 2 ^ 32 ≤ n then Sum.inl 9 else Sum.inr (vSet d lo 32 n)
  if f = 2 ∧ n = 0 then .inr 0
  else if !vValid d then .inl 1
  else if f = 0 then .inr (vSet d 0 64 n)
  else if f = 1 then .inr (vSet d 0 64 (vBase d + n))
  else if f = 2 then .inr (vSet d 64 64 ((vCtl d &&& (2 ^ 64 - 1 - ctlRw)) ||| (n &&& ctlRw)))
  else if f = 3 then narrow 128
  else if f = 4 then narrow 160
  else if f = 5 then .inr (vSet d 192 64 n)
  else if f = 6 then .inr (vSet d 768 64 n)
  else if f < 16 then narrow (256 + 64 * (f - 8))
  else narrow (288 + 64 * (f - 16))

/-- A field number of VSET and VGET (R154). -/
def vfieldOk (f : Nat) : Bool := decide (f ≤ 6) || (decide (8 ≤ f) && decide (f < 24))

/-- VSET: one field of a valid slot, refused where the descriptor would fail a check; CTL := 0 empties the slot (R154, R125). -/
def execVset (s : BitVec 1) (d a : BitVec 5) (f : BitVec 9) (st : State) : Ans :=
  issueA st s { legal := vfieldOk f.toNat } fun st g =>
    let slot := d.toNat
    if st.slotBusy g slot then .hold st
    else match vsetField ((st.wgOf g).view slot) f.toNat (g.getA a.toNat) with
      | .inl c => .trap (viewFault slot c) st
      | .inr dv =>
        if (f.toNat = 2 ∧ g.getA a.toNat = 0) ∨ viewCheck dv = 0 then .done (st.updWg g.wg fun w => { w with views := mput w.views slot dv 0 })
        else .trap (viewFault slot (viewCheck dv)) st

/-- A field of a slot as VGET reads it (R154). -/
def vgetField (d : BitVec 1024) (f : Nat) : Nat :=
  if f = 0 then vBase d
  else if f = 2 then vCtl d
  else if f = 3 then vPlace d
  else if f = 4 then vSwzarg d
  else if f = 5 then vCbuf d
  else if f = 6 then vMesh d
  else if f < 16 then vExt d (f - 8)
  else vStrRaw d (f - 16)

/-- VGET: one field of a slot, synchronous (R152, R154). -/
def execVget (s : BitVec 1) (d b : BitVec 5) (f : BitVec 9) (st : State) : Ans :=
  issueA st s { legal := vfieldOk f.toNat && decide (f.toNat ≠ 1) } fun st g =>
    .done (st.putGroup st.issuer.group (g.putA d.toNat (BitVec.ofNat 64 (vgetField ((st.wgOf g).view b.toNat) f.toNat))))

end Sys2Proof.Machine
end

