-- ==== Sys2Proof/Machine/Lifecycle.lean ====
section
/-! DEFINITION. The ends of things: barrier episodes, the end of a compute stream, groups leaving their pipes, workgroups retiring and grids
completing (R52, R68 to R72, R114, R262, R263). -/

namespace Sys2Proof.Machine

/-! Barriers (R69, R70). -/

/-- A group of a workgroup no longer counts as live: it has left, or every present thread has exited (R69). -/
def State.memberGone (st : State) (w gi : Nat) : Bool :=
  match (st.groupsOf w).find? fun e => decide (e.2.gi = gi) && !e.2.saver with
  | some e => e.2.cend
  | none => true

/-- Every split of a group that waits in one way goes on in another (R69). -/
def Group.release (g : Group) (old new : SWait) : Group :=
  let f := fun (s : Split) => if s.wait = old then { s with wait := new } else s
  { g with splits := mmap g.splits fun _ s => f s, handler := g.handler.map f }

/-- The workgroup's barrier after an arrival or an exit: complete, or idle again after a broken episode, once every member has arrived or
exited (R69). -/
def State.barCheck (st : State) (w : Nat) : State :=
  match mget st.workgroups w with
  | none => st
  | some wg =>
    match wg.barMask with
    | none => st
    | some m =>
      if (List.range 16).all fun i => !m.getLsbD i || wg.barArrived.getLsbD i || st.memberGone w i then
        let st := st.updWg w fun x => { x with barMask := none, barArrived := 0, barBroken := false }
        if wg.barBroken then st
        else { st with groups := mmap st.groups fun _ g => if g.wg = w then g.release .bar (.freed 0) else g }
      else st

/-- The group's barrier after an arrival or an exit (R69). -/
def Group.syncsCheck (g : Group) : Group :=
  match g.syncsMask with
  | none => g
  | some m =>
    if m &&& ~~~(g.syncsArrived ||| g.exited) = 0 then
      let b := g.syncsBroken
      let g := { g with syncsMask := none, syncsArrived := 0, syncsBroken := false }
      if b then g else g.release .syncs (.freed 1)
    else g

/-- Every live group of a COOP grid has arrived at GBAR: the hub barrier unit releases them (R70, R100). -/
def State.gbarCheck (st : State) (gk : Nat) : State :=
  match mget st.grids gk with
  | none => st
  | some gr =>
    if gr.gbar = [] then st else
      let mine := st.groups.filter fun e => decide (gridKey (st.wgOf e.2).ctx (st.wgOf e.2).grid = gk) && !e.2.saver
      let here := st.workgroups.all fun e => !decide (gridKey e.2.ctx e.2.grid = gk) || (decide (e.2.state = .placed) && !e.2.parked)
      if !gr.broken && here && mine.all fun e => e.2.cend || decide (e.1 ∈ gr.gbar) then
        let st := st.updGrid gk fun x => { x with gbar := [] }
        { st with groups := mmap st.groups fun i g => if i ∈ gr.gbar then g.release .gbar (.freed 2) else g }
      else st

/-! Ends. -/

/-- A command named by its number, resolved true or discarded (R88, R89): an access or an engine command of the group. -/
def State.resolve (st : State) (gid id : Nat) (b : Bool) : State :=
  let st := st.updGroup gid fun g =>
    if b then { g with memq := g.memq.map fun a => if a.id = id then { a with resolved := true } else a }
    else { g with memq := g.memq.filter fun a => decide (a.id ≠ id)
                  wbA := g.wbA.filter fun e => !(decide (e.id = id) && g.memq.any fun a => decide (a.id = id)) }
  let f := fun (q : List EngCmd) =>
    if b then q.map fun e => if e.group = gid ∧ e.guard = some id then { e with resolved := true } else e
    else q.filter fun e => !(decide (e.group = gid) && decide (e.guard = some id))
  st.updCluster (gCluster gid) fun k => { k with copyQ := f k.copyQ, fabQ := f k.fabQ }

/-- The group's compute stream has ended: unresolved guarded commands resolve false, LQ entries still to arrive are discarded (R114); resolutions already
given wait for the commands they are for (R88). -/
def State.computeEnd (st : State) (gid : Nat) : State :=
  match mget st.groups gid with
  | none => st
  | some g =>
    let ids := g.guards.flatMap fun e => e.2.cmds
    let st := ids.foldl (fun s i => s.resolve gid i false) st
    st.updGroup gid fun g => { g with
      guards := g.guards.filterMap fun e => if e.2.res = [] then none else some (e.1, { e.2 with cmds := [] })
      lq := g.lq.map fun e => (e.1, e.2.filter fun q => q.ready) }

/-- The group has left nothing to do (R114): both streams ended, no handler, no access outstanding, and its engines have taken every command it issued:
the copy and fabric engines have begun them. -/
def State.groupDone (st : State) (gid : Nat) (g : Group) : Bool :=
  let k := st.cluster (gCluster gid)
  g.cend && g.aend && !g.tlevel && g.entering.isNone && g.memq.isEmpty
    && (k.copyQ ++ k.fabQ).all (fun e => decide (e.group ≠ gid) || decide (e.wg ≠ g.wg) || e.started)
    && (st.spillway (quadOf gid)).all (fun e => decide (e.group ≠ gid) || decide (e.wg ≠ g.wg))

/-- A place written by an operation that has read poison is poisoned (R414). -/
def State.soil (st : State) (bad : Bool) (a : Nat) : State := if bad then st.poison a else st

/-- The buffered entries for a workgroup's own spaces applied at its end, in kept order (R263). -/
def State.applyEarly (st : State) (es : List AtomEntry) : State :=
  es.foldl (fun s e => (s.writeAll e.addr e.esize (atomNew e.op e.esize (s.read e.addr e.esize) e.val 0)).soil (e.bad || s.poisonedAt e.addr e.esize) e.addr) st

/-- A grid that has ended and owes nothing more is gone; a list grid first owes its DONE addition (R79). -/
def State.dropGrid (st : State) (gk : Nat) : State :=
  match mget st.grids gk with
  | some g => if g.ended && decide (g.doneAt = 0) then { st with grids := merase st.grids gk } else st
  | none => st

/-- A grid's completion (R52, R107): its RETIRE record, its chunks back in the pool (R262), and its parent's waits in JOINC. -/
def State.gridEnd (st : State) (gk : Nat) : State :=
  match mget st.grids gk with
  | none => st
  | some g =>
    let st := st.trace 0 2 (some g.ctx) 0 (g.tag + g.gid * 2 ^ 64)
    let st := st.updGrid gk fun x => { x with ended := true, chunks := 0 }
    let st := match g.parent with
      | none => st
      | some w =>
        let st := st.updWg w fun x => { x with children := x.children.filter fun i => decide (i ≠ g.gid) }
        let left := (mgetD st.workgroups w { ctx := 0, grid := 0 }).children
        { st with groups := mmap st.groups fun _ q => if q.wg = w then
            (let q := q.release (.joinOne g.gid) (.freed 5)
             if left = [] then q.release .joinAll (.freed 5) else q) else q }
    st.dropGrid gk

/-- The workgroups of a grid, retired ones included, are all there are: X·Y·Z (R52). -/
def Grid.total (g : Grid) : Nat := g.desc.x * g.desc.y * g.desc.z

/-- No engine works for a workgroup any more: no command of it is queued and no matrix entry of it stands. -/
def State.enginesDone (st : State) (w : Nat) : Bool :=
  st.clusters.all fun k => (k.2.copyQ ++ k.2.fabQ).all (fun e => decide (e.wg ≠ w)) && k.2.res.all fun e => decide (e.wg ≠ w)

/-- A workgroup retires once its groups have left and its child grids have completed (R52, R72), and, as its allocations are still in use till then and its
grid's DONE comes after every event of the grid (R79, R184), the engines have finished what it gave them (DEDUCED: log entry 81). Its own buffered atomics are
applied and its allocations freed; with the last one its grid ends, unless buffered atomics are still to apply or the grid is broken (R263, R417). -/
def State.retireWg (fuel : Nat) (st : State) (w : Nat) : State :=
  match fuel with
  | 0 => st
  | n + 1 =>
    match mget st.workgroups w with
    | none => st
    | some wg =>
      if (st.groupsOf w).isEmpty && wg.children.isEmpty && decide (wg.state = .placed) && wg.saved.isEmpty && !wg.parked && st.enginesDone w then
        let gk := gridKey wg.ctx wg.grid
        let st := st.applyEarly (wg.abuf.filter fun e => e.early)
        let late := wg.abuf.filter fun e => !e.early
        let st := { st with workgroups := merase st.workgroups w }
        let st := st.updGrid gk fun g => { g with
          retired := g.retired + 1, chunks := g.chunks + wg.abufChunks
          pendAtoms := if late = [] then g.pendAtoms else mset g.pendAtoms wg.lin (wg.serial, late) }
        match mget st.grids gk with
        | none => st
        | some g =>
          if g.retired = g.total ∧ g.pendAtoms = [] ∧ !g.broken then
            let st := st.gridEnd gk
            match g.parent with
            | some p => st.retireWg n p
            | none => st
          else st
      else st

/-- A group off its pipe: the flags of passes that have not reached it are gone with its STAT (R255). -/
def State.leavePipe (st : State) (gid : Nat) : State :=
  ({ st with groups := merase st.groups gid }).updCluster (gCluster gid) fun k => { k with mflags := k.mflags.filter fun f => decide (f.group ≠ gid) }

/-- A group that has nothing more to do leaves its pipe, and its workgroup may retire (R114, R52). -/
def State.settle (st : State) (gid : Nat) : State :=
  match mget st.groups gid with
  | none => st
  | some g => if !g.saver && st.groupDone gid g then (st.leavePipe gid).retireWg 12 g.wg else st

/-- What an engine has done for a group of a workgroup may let the group leave, and the workgroup retire. -/
def State.settleWg (st : State) (gid w : Nat) : State := (st.settle gid).retireWg 12 w

end Sys2Proof.Machine
end

