-- ==== Sys2Proof/Machine/Perform.lean ====
section
/-! DEFINITION. The memory unit's events: a line of an access performed, a load's data arriving, a spillway entry performed, fences and SC
tickets (R129, R141, R158 to R168, R178 to R192, R200 to R202). An event that cannot happen in the state leaves it as it is (log entry 19). -/

namespace Sys2Proof.Machine

/-- An access of a group by its number. -/
def Group.accessOf (g : Group) (id : Nat) : Option Access := g.memq.find? fun a => decide (a.id = id)

/-- The group with one access changed. -/
def Group.updAccess (g : Group) (id : Nat) (f : Access → Access) : Group :=
  { g with memq := g.memq.map fun a => if a.id = id then f a else a }

/-- The group without an access. -/
def Group.dropAccess (g : Group) (id : Nat) : Group := { g with memq := g.memq.filter fun a => decide (a.id ≠ id) }

/-- The group without an access that performs nothing (R158, R159): its LQ reservation and its write-back entry go with it (R141). -/
def Group.forget (g : Group) (a : Access) : Group :=
  { (match a.lq with
      | some n => g.putLq n ((g.getLq n).filter fun e => e.ready || decide (e.resv ≠ a.id))
      | none => g).dropAccess a.id with wbA := g.wbA.filter fun e => decide (e.id ≠ a.id) }

/-- Two lines of accesses touch a common byte (R181). -/
def shareByte (n m : Nat) (a b : LineReq) : Bool :=
  a.elems.any fun e => b.elems.any fun f => meets (a.pa + e.off) n (b.pa + f.off) m

/-- Some entry of the group is in its quad's spillway. -/
def State.spilledBy (st : State) (gid wg : Nat) (p : Spill → Bool) : Bool :=
  (st.spillway (quadOf gid)).any fun e => decide (e.group = gid) && decide (e.wg = wg) && p e

/-- A line of virtual addresses may hold elements of a view: the range its elements lie in meets it. -/
def inView (d : BitVec 1024) (va : Nat) : Bool :=
  let span := (List.range (vNdim d)).foldl (fun (s : Int × Int) i =>
    let x := ((vExt d i : Int) - 1) * vStr d i
    if x < 0 then (s.1 + x, s.2) else (s.1, s.2 + x)) (0, 0)
  let lo : Int := vBase d + vEsize d * span.1
  let hi : Int := vBase d + vEsize d * (span.2 + 1)
  decide (lo < (va : Int) + 128) && decide ((va : Int) < hi)

/-- The flat address of a virtual address of a context, where its tables map it. -/
def State.placeOf (st : State) (c va : Nat) : Option Nat :=
  match st.walk c va with
  | .leaf e level _ _ => some (st.leafPa (st.ctx c).dev e level va)
  | _ => none

/-- No event still waits at the page that holds a place, of those that came to it while a migration blocked it (R195). -/
def State.moveFreeAt (st : State) (pa : Nat) : Bool :=
  !st.moveQ.any fun m => st.moveLive m &&
    (List.range 16).any fun i => (st.placeOf m.ctx (m.page * 2 ^ 16 + 4096 * i)).any fun a => decide (a / 4096 = pa / 4096)

/-- The flat addresses of the elements of a view on its device (R194). -/
def State.viewPlaces (st : State) (c : Nat) (d : BitVec 1024) : List Nat :=
  (boxOf ((List.range (vNdim d)).map (vExt d))).filterMap fun j => st.placeOf c (elemAddr d (j.map fun x => (x : Int))).toNat

/-- A line of a store by a context meets a view's bytes, whatever page names them; where no page does, its address tells (R194). -/
def State.storeMeets (st : State) (c n : Nat) (d : BitVec 1024) (l : LineReq) : Bool :=
  let ps := st.viewPlaces c d
  l.glob && l.elems.any fun e => match st.placeOf c (l.va + e.off) with
    | some a => ps.any fun p => meets a (e.len n) p (vEsize d)
    | none => inView d l.va

/-- A store to bytes that a converting view covers is held, whatever page of the device names them (R194). -/
def State.convHolds (st : State) (n : Nat) (l : LineReq) : Bool :=
  l.glob && st.convs.any fun v =>
    let ps := st.viewPlaces v.ctx v.view
    l.elems.any fun e => ps.any fun p => meets (l.pa + e.off) (e.len n) p (vEsize v.view)

/-! Scopes (R182 to R184). -/

/-- A store line for which a release of a scope does not wait at its home (R182, R202): GLOB at GROUP or WG scope, whose point is the core's L1; a scratchpad at a
scope narrower than its sharers. -/
def LineReq.narrow (l : LineReq) (scope : Nat) : Bool :=
  if l.glob then decide (scope ≤ 1)
  else if l.pa < 2 ^ 61 then decide (scope < 3)
  else if l.pa < 2 ^ 62 then decide (scope < 2)
  else decide (l.pa < 2 ^ 63) && decide (scope < 1)

/-- A line is bound to a group for its accesses from some number at `upto` or below on (`State.bindSeen`). -/
def LineReq.boundTo (m : LineReq) (gid upto : Nat) : Bool := m.bound.any fun b => decide (b.1 = gid) && decide (b.2 ≤ upto)

/-- A line of access `id` waits for a store that its group has acquired before it: released by another group, mutually scoped with the acquire, not yet at its home,
and touching a common byte (R183, R185). -/
def State.heldBack (st : State) (gid id n : Nat) (l : LineReq) : Bool :=
  st.groups.any fun e => decide (e.1 ≠ gid) && e.2.memq.any fun b => b.lines.any fun m =>
    !m.done && m.boundTo gid id && decide (m.glob = l.glob) && shareByte n b.esize l m

/-- A group's accesses before `upto` are ordered at the point of a scope, its spillway entries included (R167, R184, R202): performed at their homes, but for the
stores the scope lets pass. What this group has acquired from others counts with them, so that order is carried on (R185). -/
def State.releaseDone (st : State) (gid : Nat) (g : Group) (scope upto : Nat) : Bool :=
  let passes := fun (a : Access) (l : LineReq) => (match a.kind with
      | .store | .scatter | .sta => true
      | _ => false) && !l.spilled && l.narrow scope && !st.heldBack gid a.id a.esize l
  (g.memq.all fun a => decide (upto ≤ a.id) || (a.resolved && a.checked && a.lines.all fun l => l.done || passes a l))
    && !(st.spilledBy gid g.wg fun e => decide (e.access.id < upto))
    && st.groups.all fun e => decide (e.1 = gid) || e.2.memq.all fun b => b.lines.all fun m =>
      m.done || m.narrow scope || !m.boundTo gid upto

/-- A release has been given: the stores it passed, and those this group had acquired and passes on, are ordered at its scope (R185, R202). -/
def State.published (st : State) (gid scope upto : Nat) : State :=
  if 4 ≤ scope then st else
  let wider := fun (l : LineReq) => if l.done || !l.narrow scope then l else { l with seen := some (max scope (l.seen.getD 0)) }
  let own := fun (a : Access) => if a.id < upto ∧ (kindNeed a.kind).1 = .w then { a with lines := a.lines.map wider } else a
  let theirs := fun (a : Access) => { a with lines := a.lines.map fun l => if l.boundTo gid upto then wider l else l }
  { st with groups := mmap st.groups fun i g => { g with memq := g.memq.map fun a => if i = gid then own a else theirs a } }

/-- A release step ends (R184, R202): what it has ordered is published, and the core's pts passes AMARK, so that no write that follows it stands earlier than a value its
group has read (R186; DEDUCED: log entry 95). -/
def State.released (st : State) (gid scope upto : Nat) : State :=
  (st.published gid scope upto).raisePts (gCore gid) (mgetD st.groups gid { wg := 0 }).amark

/-- Every earlier event of the group that must come first is performed (R181, R89, R161, R184), and what other groups released to it at a common byte. -/
def State.inTurn (st : State) (gid : Nat) (g : Group) (a : Access) (l : LineReq) : Bool :=
  let earlier := g.memq.filter fun b => decide (b.id < a.id)
  earlier.all (fun b => b.resolved && b.checked && !acquires b.order
      && b.lines.all fun m => m.done || m.spilled || !(decide (m.glob = l.glob) && shareByte a.esize b.esize l m))
    && !(st.spilledBy gid g.wg fun e => decide (e.access.id < a.id) && acquires e.access.order)
    && (!(releases a.order) || st.releaseDone gid g a.scope a.id)
    && (!(decide (a.order = 4)) || a.ticket.isSome)
    && !st.heldBack gid a.id a.esize l

/-- No conversion holds a line (R194), and the die that owns its place is up (R416). -/
def State.placeFree (st : State) (a : Access) (l : LineReq) : Bool :=
  !(decide ((kindNeed a.kind).1 ≠ .r) && st.convHolds a.esize l)
    && (st.ownerDies l.pa).all fun d => decide ((st.die d).state = .up)

/-- The place of a line's event in a page's queue (R195). -/
def State.moveOf (st : State) (gid : Nat) (g : Group) (a : Access) (l : LineReq) : MoveWait :=
  { ctx := st.ctxOf g, page := l.va / 2 ^ 16 % 2 ^ 36, group := gid, id := a.id, va := l.va }

/-- A line of an access has come to its home: every earlier access of the group that must come first is done (R181, R89, R161, R184), its
SC ticket is granted (R190), its view does not convert (R194), and no die holds it in quiescence (R416). -/
def State.hasCome (st : State) (gid : Nat) (g : Group) (a : Access) (l : LineReq) : Bool :=
  a.resolved && a.checked && !l.done && !l.spilled && st.inTurn gid g a l
    && !(l.glob && st.spilledBy gid g.wg fun e => decide (e.access.id < a.id) && decide (e.line.va / 2 ^ 16 = l.va / 2 ^ 16)) && st.placeFree a l

/-- A context's recorders stall (R430). -/
def State.recStalls (st : State) (c : Nat) : Bool := st.recording c && st.stalled (st.ctx c).dev

/-- A line that has come may be performed: its page is not blocked, what came to the page before it while it was blocked is done (R195), and its recorder does not
stall (R430). -/
def State.mayPerform (st : State) (gid : Nat) (g : Group) (a : Access) (l : LineReq) : Bool :=
  st.hasCome gid g a l && !st.migrating l.pa && (!l.glob || st.moveTurn (st.moveOf gid g a l)) && !st.recStalls (st.ctxOf g)

/-! Bytes of a line. -/

/-- The mask and the value of a line's bytes that a store's elements write: on a shared byte the element with the higher position stands
(R129). -/
def storeBytes (n : Nat) (es : List Elem) : Nat × Nat :=
  (orderBy es fun a b => decide (a.pos ≤ b.pos)).foldl (fun acc e =>
    let k := e.len n
    let field := (2 ^ (8 * k) - 1) * 2 ^ (8 * e.off)
    (acc.1 ||| (2 ^ k - 1) * 2 ^ e.off, (acc.2 &&& (2 ^ 1024 - 1 - field)) ||| (e.val / 2 ^ (8 * e.skip) % 2 ^ (8 * k) * 2 ^ (8 * e.off)))) (0, 0)

/-- An atomic line (R163): its enabled elements in ascending position; the mask, the new bytes, and each position's old value. -/
def atomBytes (op n : Nat) (es : List Elem) (old : Nat) : Nat × Nat × List (Nat × Nat) :=
  (orderBy (es.filter fun e => e.on) fun a b => decide (a.pos ≤ b.pos)).foldl (fun acc e =>
    let cur := acc.2.1 / 2 ^ (8 * e.off) % 2 ^ (8 * n)
    let new := atomNew op n cur e.val e.val2
    let field := (2 ^ (8 * n) - 1) * 2 ^ (8 * e.off)
    let keep := 2 ^ (8 * 256)
    (acc.1 ||| (2 ^ n - 1) * 2 ^ e.off, (acc.2.1 &&& (keep - 1 - field)) ||| (new * 2 ^ (8 * e.off)), acc.2.2 ++ [(e.pos, cur)])) (0, old, [])

/-- Where a returned element stands in the result: position p of a tile, thread t's lane of a gather, the low bits of one element (R155). -/
def resultBit (k : AKind) (n pos : Nat) : Nat :=
  match k with
  | .gather => 64 * pos
  | .lda _ | .atoma | .vdef => 0
  | _ => 8 * n * pos

/-- The access's result with elements put in (R155, R157). -/
def Access.put (a : Access) (vals : List (Nat × Nat)) (bad : Bool) : Access :=
  let width := if a.kind = .vdef then 1024 else 8 * a.esize
  let r := vals.foldl (fun (r : Row) v => r ||| BitVec.ofNat 2048 (v.2 % 2 ^ width * 2 ^ resultBit a.kind a.esize v.1)) a.res
  let ts := if bad then vals.foldl (fun (m : Mask) v => m ||| BitVec.ofNat 32 (2 ^ (resultBit a.kind a.esize v.1 / 64))) a.poison else a.poison
  { a with res := r, poison := ts }

/-- The elements' values, as far as a line's bytes hold them. -/
def readElems (n : Nat) (es : List Elem) (data : Nat) : List (Nat × Nat) :=
  es.map fun e => (e.pos, data / 2 ^ (8 * e.off) % 2 ^ (8 * e.len n) * 2 ^ (8 * e.skip))

/-- The rank a declared distance gives (R135): STREAM lines stand at RANK 255 (R131, R180), but an atomic's class decides nothing here (R131). -/
def State.rankFor (st : State) (gid : Nat) (g : Group) (a : Access) (cls : Nat) : Option Nat :=
  if cls = 2 ∧ a.kind ≠ .atom ∧ a.kind ≠ .atoma then some 255 else a.dist.map (rankOf (st.wgOf g).tickp (st.penalised (gDie gid) (st.ctxOf g)))

/-- AMARK after a read of a scratchpad that other cores reach, DIE or CLUS (R185). -/
def State.markScratch (st : State) (gid pa : Nat) : State := if pa < 2 ^ 62 then st.markShared gid else st

/-- The scratchpad order record of a line outside GLOB (R424): REQ the front end, PORT the cluster's, the core's, or for DIE the cluster
within its die. -/
def State.scratchAt (st : State) (c gid pa : Nat) : Option State :=
  let cl := gCluster gid
  if pa < 2 ^ 61 then st.scratch c (710 + gDie gid) 1 (clusterInDie cl) (feUnit gid)
  else if pa < 2 ^ 62 then st.scratch c cl 2 0 (feUnit gid)
  else st.scratch c cl 3 (1 + gCore gid % 4) (feUnit gid)

/-- D set in the leaf of a page before a line of an access writes to it (R332); none where the directory must wait. -/
def State.dirtied (st : State) (c gid : Nat) (a : Access) (l : LineReq) : Option State :=
  if l.glob && decide ((kindNeed a.kind).1 ≠ .r) then st.setDirty c (.stream gid true) l.va else some st

/-- The poison a line's elements leave where they are written (R414): that of their operands, and for an atomic that of the values it has read, as `old` held them. -/
def State.taint (st old : State) (a : Access) (l : LineReq) : State :=
  if a.bad = 0 ∧ old.poisoned = [] then st else
    l.elems.foldl (fun s e =>
      let reads := decide ((kindNeed a.kind).1 = .rw) && e.on && old.poisonedAt (l.pa + e.off) (e.len a.esize)
      s.soil (e.on && a.bad.getLsbD (resultBit a.kind a.esize e.pos / 64) || reads) (l.pa + e.off)) st

/-- What performing one line of an access gives: the state, and the access with the line done and its result. -/
def State.serveLine (st : State) (gid : Nat) (g : Group) (a : Access) (l : LineReq) : Option (State × Access) :=
  let c := st.ctxOf g
  let n := a.esize
  let bad := l.elems.any fun e => e.on && st.poisonedAt (l.pa + e.off) (e.len n)
  let mark := fun (a : Access) => { a with lines := a.lines.map fun m => if m.va = l.va then { m with done := true } else m
                                           unit := if bad then st.eccUnit l.pa else a.unit }
  let rank := st.rankFor gid g a l.cls
  match a.kind with
  | .load | .gather | .lda _ | .vdef =>
    if l.glob then
      if l.tracked && st.cutStream c gid true a.icnt then none
      else match st.loadLine gid c l.pa l.cls l.tracked (if l.host then some (l.halves n) else none) rank with
      | none => none
      | some (data, st) =>
        let (st, data) := if l.tracked then st.value c gid true a.icnt l.pa data else (st, data)
        some (st, (mark a).put (readElems n l.elems data) bad)
    else
      (st.scratchAt c gid l.pa).map fun st =>
        (st.markScratch gid l.pa, (mark a).put (readElems n l.elems (st.read l.pa 128)) bad)
  | .pref => if l.glob && !l.host then (st.prefLine gid c l.pa l.cls rank).map fun st => (st, mark a) else some (st, mark a)
  | .store | .scatter | .sta =>
    let (m, v) := storeBytes n l.elems
    if l.glob then
      (st.storeLine (gDie gid) (gCluster gid) (feUnit gid) c l.pa l.cls (some gid) l.tracked l.host rank false
        (fun _ => (m, v))).map fun r => (r.2.taint st a l, mark a)
    else
      (st.scratchAt c gid l.pa).map fun s => ((s.write l.pa 128 m v).taint st a l, mark a)
  | .atom | .atoma =>
    if l.glob then
      (st.storeLine (gDie gid) (gCluster gid) (feUnit gid) c l.pa l.cls (some gid) l.tracked l.host rank true
        (fun old => let r := atomBytes a.op n l.elems old; (r.1, r.2.1))).map fun r =>
          (r.2.taint st a l, (mark a).put (atomBytes a.op n l.elems r.1).2.2 bad)
    else
      (st.scratchAt c gid l.pa).map fun s =>
        let old := s.read l.pa 256
        let r := atomBytes a.op n l.elems old
        (((s.write l.pa 256 r.1 r.2.1).taint st a l).markScratch gid l.pa, (mark a).put r.2.2 bad)

/-- An atomic without a result that has read poison (R414): ECC_UNCORR in its group, which no queue entry or register carries; it has retired, so the trap is taken at
the group's next access-stream issue (DESIGN CHOICE: log entry 92). -/
def State.atomEcc (st : State) (gid w : Nat) (a : Access) : State :=
  if a.kind = .atom ∧ a.lq = none ∧ a.poison ||| a.bad ≠ 0 then
    st.postAt gid w { trap := { cause := .eccUncorr, detail := a.unit }, kind := .async, acc := true, slot := 4 }
  else st

/-- A guarded access that resolved true, translated and checked now (R158): deferred traps, a held load, or its lines ready. -/
def State.checkAccess (st : State) (gid : Nat) (g : Group) (a : Access) : State :=
  let c := st.ctxOf g
  let (n, rd, wr) := kindNeed a.kind
  let k := st.checkLines c (.stream gid true) a.esize n rd wr (a.lines.filter fun l => !l.done)
  let drop := fun (st : State) => st.updGroup gid fun g => g.forget a
  let ready := fun (st : State) (ls : List LineReq) => st.updGroup gid fun g =>
    (g.reserveLq a.lq a.id).updAccess a.id fun b => { b with lines := (a.lines.filter fun l => l.done) ++ ls, checked := true }
  if k.wait then k.st
  else if a.kind = .pref then ready k.st k.good
  else match k.trap with
  | some t => (drop k.st).defer gid t
  | none =>
    match k.missing with
    | [] => if g.lqFull a.lq && !g.reserved a then st else ready k.st k.good
    | (_, page, t) :: _ =>
      if a.returns then
        let r := k.st.askPage c gid page t
        if r.declined then (drop r.st).defer gid t else r.st
      else
        let (st, rest) := k.st.spillLines c gid a k.missing
        (ready st []).updGroup gid fun g => { g.setLines a.id ((a.lines.filter fun l => l.done) ++ k.good ++ rest) with spilling := g.spilling || decide (rest ≠ []) }

/-- An atomic without a result whose last line is performed takes its acquire step (R184, R202). -/
def State.atomDone (st : State) (gid : Nat) (a : Access) : State :=
  match mget st.groups gid with
  | none => st
  | some g =>
    if acquires a.order && (g.accessOf a.id).isNone && !st.spilledBy gid g.wg fun e => decide (e.access.id = a.id) then st.acquireFrom gid a.scope (a.id + 1) else st

/-- One line of an access of a group performed, where the event's kind is the access's (R158); one that a cut point's handler issued stands outside the log
(R440). -/
def State.performLine (st : State) (gid id va : Nat) (kinds : AKind → Bool) : State :=
  match mget st.groups gid with
  | none => st
  | some g => match g.accessOf id with
    | none => st
    | some a =>
      let off := decide (a.icnt = 2 ^ 37)
      let c := st.ctxOf g
      let back := fun (s : State) => if off then s.logOff c false else s
      let st := if off then st.logOff c true else st
      if !kinds a.kind || !a.resolved then back st
      else if !a.checked then back (if g.memq.all fun b => decide (a.id ≤ b.id) || (b.resolved && b.checked) then st.checkAccess gid g a else st)
      else match a.lines.find? fun l => decide (l.va = va) with
        | none => back st
        | some l =>
          let m := st.moveOf gid g a l
          if st.mayPerform gid g a l then
            match st.dirtied c gid a l with
            | none => back st
            | some st =>
              match (if releases a.order then st.released gid a.scope a.id else st).serveLine gid g a l with
              | none => back st
              | some (st, a') =>
                let done := (a'.lines.all fun m => m.done) && !a'.returns && decide (a'.kind ≠ .pref)
                let st := (back st).updGroup gid fun g => if done then g.dropAccess id else g.updAccess id fun _ => a'
                ((if done then (st.atomDone gid a).atomEcc gid g.wg a' else st).moveGone m).settle gid
          else if l.glob && st.migrating l.pa && st.hasCome gid g a l then (back st).moveCome m
          else back st

/-- A load kind. -/
def isLoad (k : AKind) : Bool :=
  match k with
  | .load | .gather | .lda _ | .pref | .vdef => true
  | _ => false

/-- A store kind. -/
def isStore (k : AKind) : Bool :=
  match k with
  | .store | .scatter | .sta => true
  | _ => false

/-- An atomic kind. -/
def isAtom (k : AKind) : Bool :=
  match k with
  | .atom | .atoma => true
  | _ => false

/-- LOAD_LINE_PERFORM: one line of a load, at the L1 under lease, at the L2 or at a scratchpad (R200). -/
def execLoadLinePerform (gid id va : Nat) (st : State) : Ans := .next (st.performLine gid id va isLoad)

/-- STORE_LINE_PERFORM: one line of a store (R201). -/
def execStoreLinePerform (gid id va : Nat) (st : State) : Ans := .next (st.performLine gid id va isStore)

/-- ATOMIC_LINE_PERFORM: the operations of one line, as one step at its home (R163). -/
def execAtomicLinePerform (gid id va : Nat) (st : State) : Ans := .next (st.performLine gid id va isAtom)

/-- The result of an access arrived: the LQ entry, the write-back entry, or the view slot it defines (R141, R143, R153). A VDEF whose descriptor fails while the
group enters its handler for the other stream's trap issues again after it. -/
def State.arrive (st : State) (gid : Nat) (a : Access) : State :=
  let fill := fun (g0 : Group) =>
    let g : Group := match a.lq with
      | some n =>
        let es := (g0.getLq n).map fun (e : QEntry) => if e.resv = a.id ∧ !e.ready then
          { e with data := a.res, en := BitVec.allOnes 256, ready := true, poison := a.poison, unit := a.unit } else e
        g0.putLq n es
      | none => g0
    let x : Word := a.res.setWidth 64
    let v := match a.kind with
      | .lda true => BitVec.ofInt 64 (sgnB a.esize x.toNat)
      | _ => x
    { g.dropAccess a.id with
      wbA := g.wbA.map fun (e : Wb) => if e.id = a.id then { e with data := v.setWidth 2048, returned := true, poison := decide (a.poison ≠ 0), unit := a.unit } else e }
  let st := st.updGroup gid fill
  let st := if acquires a.order then st.acquireFrom gid a.scope (a.id + 1) else st
  match a.kind with
  | .vdef =>
    let g := mgetD st.groups gid { wg := 0 }
    let d : BitVec 1024 := asDefined (a.res.setWidth 1024)
    let st := st.updGroup gid fun g => { g with await := .ready }
    if viewCheck d ≠ 0 ∧ g.entering.isSome then st
    else if viewCheck d = 0 then
      (st.updWg g.wg fun w => { w with views := mput w.views a.slot d 0 }).retireA gid { legal := true } (decide (a.icnt = 2 ^ 37))
    else st.takeTrap gid { trap := viewFault a.slot (viewCheck d), kind := .precise, acc := true, slot := 4 }
  | _ => st.settle gid

/-- LOAD_DATA_ARRIVAL: every line of the access is done and its data arrives (R141, R157). A VDEF waits while the view in its slot converts (R126). -/
def execLoadDataArrival (gid id : Nat) (st : State) : Ans :=
  .next (match mget st.groups gid with
    | none => st
    | some g => match g.accessOf id with
      | none => st
      | some a =>
        let busy := decide (a.kind = .vdef) && st.slotBusy g a.slot
        if a.resolved && a.checked && !busy && (a.lines.all fun m => m.done) then st.arrive gid a else st)

/-- A held entry whose value a matrix entry has still to bring (R314). -/
def State.matrixOwes (st : State) (gid id : Nat) : Bool :=
  st.clusters.any fun k => k.2.res.any fun e => decide (e.group = gid) && decide (e.wb = some id)

/-- ASYNC_RESULT_RETURN: a held entry's result returns to its buffer (R30); the entries of loads and of TRD return with their data. -/
def execAsyncResultReturn (gid id : Nat) (acc : Bool) (st : State) : Ans :=
  .next (st.updGroup gid fun g =>
    let f := fun (e : Wb) => if e.id = id ∧ !(g.memq.any fun a => decide (a.id = id)) ∧ !st.matrixOwes gid id then { e with returned := true } else e
    if acc then { g with wbA := g.wbA.map f } else { g with wbC := g.wbC.map f })

/-! The spillway. -/

/-- Lines that wait for room enter a quad's spillway, group by group (R160). -/
def State.refill (st : State) (q : Nat) : State :=
  (st.groups.filter fun e => decide (quadOf e.1 = q) && e.2.spilling).foldl (fun st e =>
    let gid := e.1
    let c := st.ctxOf e.2
    let st := e.2.memq.foldl (fun st a =>
      (a.lines.filter fun l => l.spilled).foldl (fun st l =>
        let l := { l with spilled := false }
        let r := match st.access c (.stream gid true) l.low (kindNeed a.kind).1 0 true with
          | .fault _ t st => st.spillLine c gid a l t
          | .ok _ _ st | .prot _ st => st.spillIn c gid a l
          | .wait => (st, false)
        if r.2 then r.1.updGroup gid fun g => g.updAccess a.id fun b => { b with lines := b.lines.filter fun m => decide (m.va ≠ l.va) } else st) st) st
    st.updGroup gid fun g =>
      if g.memq.any fun a => a.lines.any fun l => l.spilled then g
      else { g with spilling := false
                    memq := g.memq.filter fun a => !(a.lines.isEmpty && !a.returns && a.checked && a.resolved && decide (a.kind ≠ .pref)) }) st

/-- Spillway entries discarded, their groups' deferred trap with the lowest discarded line address (R162, R417). -/
def State.discardSpills (st : State) (which : Spill → Bool) (cause : Cause) (detail : Nat) : State :=
  let gone := st.spillways.flatMap fun e => e.2.filter which
  let st := { st with spillways := mmap st.spillways fun _ l => l.filter fun x => !which x }
  let st := ((gone.map (·.group)).eraseDups).foldl (fun st gid =>
    let low := ((gone.filter fun x => decide (x.group = gid)).map fun x => x.line.va).min?.getD 0
    (st.defer gid { cause := cause, detail := detail, addr := low }).settle gid) st
  ((gone.map fun x => quadOf x.group).eraseDups).foldl State.refill st

/-- Every spillway entry of a context on a page discarded (R162). -/
def State.discardSpill (st : State) (c page : Nat) (cause : Cause) (detail : Nat) : State :=
  st.discardSpills (fun x => decide (x.ctx = c) && decide (x.line.va / 2 ^ 16 % 2 ^ 36 = page)) cause detail

/-- A spillway entry that has found a trap is discarded: with every entry of its page (R162), or, for a lost place, with those that lie on lost dies (R417). -/
def State.refuseSpill (st : State) (e : Spill) (t : Trap) : State :=
  let page := e.line.va / 2 ^ 16 % 2 ^ 36
  if t.cause = .dieLost then
    st.discardSpills (fun x => decide (x.ctx = e.ctx) && decide (x.line.va / 2 ^ 16 % 2 ^ 36 = page)
      && (st.placeOf x.ctx x.line.va).any fun a => (st.lostTrap a).isSome) t.cause t.detail
  else st.discardSpill e.ctx page t.cause t.detail

/-- SPILLWAY_PERFORM: an entry whose page is translated and whose older entries are done is performed as its line, with its own order and scope, after the group's
accesses that must come first (R160, R161, R181). -/
def execSpillwayPerform (q i : Nat) (st : State) : Ans :=
  .next (match (st.spillway q)[i]? with
    | none => st
    | some e =>
      let older := ((st.spillway q).take i).any fun x => decide (x.group = e.group) && decide (x.wg = e.wg)
      let off := match (st.ctx e.ctx).state with
        | .running | .preempting | .resuming => false
        | _ => true
      if older || off then st else
      let (n, rd, wr) := kindNeed e.access.kind
      let k := st.checkLines e.ctx (.stream e.group true) e.access.esize n rd wr [e.line]
      match k.trap, k.good with
      | some t, _ => k.st.refuseSpill e t
      | none, l :: _ =>
        let g := mgetD k.st.groups e.group { wg := e.wg }
        let a := { e.access with lines := [l] }
        let m := k.st.moveOf e.group g a l
        let come := k.st.inTurn e.group g a l && k.st.placeFree a l
        if come && k.st.migrating l.pa then k.st.moveCome m
        else match (if come && k.st.moveTurn m && !k.st.recStalls e.ctx then k.st.dirtied e.ctx e.group a l else none) with
        | none => st
        | some s =>
          match (if releases a.order then s.released e.group a.scope a.id else s).serveLine e.group g a l with
          | none => s
          | some (st, a') =>
            let st := { st with spillways := mset st.spillways q ((st.spillway q).eraseIdx i) }
            ((((st.atomDone e.group a).atomEcc e.group e.wg a').moveGone m).refill q).settle e.group
      | none, [] => k.st)

/-! Fences (R167, R168, R190, R202). -/

/-- FENCE: the access stream issues nothing after it until it completes (R167); SC with SYSTEM is illegal (R38). -/
def execFence (s : BitVec 1) (c k : BitVec 3) (st : State) : Ans :=
  issueA st s { legal := scopeOk c.toNat && decide (k.toNat ≤ 3) && !(decide (k.toNat = 3) && decide (c.toNat = 5)), adv := false } fun st g =>
    .done (st.putGroup st.issuer.group { g with await := .fence k.toNat c.toNat g.nextId })

/-- XFENCE: masks of paths, neither empty, bit 7 clear (R168, R38). -/
def execXfence (s : BitVec 1) (f t : BitVec 7) (c : BitVec 3) (st : State) : Ans :=
  issueA st s { legal := scopeOk c.toNat && decide (f ≠ 0#7) && decide (t ≠ 0#7), adv := false } fun st g =>
    .done (st.putGroup st.issuer.group { g with await := .xfence f.toNat t.toNat c.toNat g.nextId })

/-- The group's earlier loads and atomics with a result have returned (R167). -/
def acquireReady (g : Group) (upto : Nat) : Bool := g.memq.all fun a => decide (upto ≤ a.id) || !a.returns

/-- FENCE_COMPLETE: its release and acquire conditions hold, and the group has nothing left in the spillway (R161); the acquire step is taken (R167, R202). An SC
fence first takes its ticket. -/
def execFenceComplete (gid : Nat) (st : State) : Ans :=
  .next (match mget st.groups gid with
    | none => st
    | some g => match g.await with
      | .fence k scope upto =>
        let rel := decide (k = 1) || decide (k = 2)
        let acq := decide (k = 0) || decide (k = 2)
        if decide (k = 3) || (rel && !st.releaseDone gid g scope upto) || (acq && !acquireReady g upto) || st.spilledBy gid g.wg (fun _ => true) then st
        else
          let st := if rel then st.released gid scope upto else st
          let st := if acq then st.acquire gid scope else st
          st.updGroup gid fun g => { g with await := .ready, apc := g.apc + 4 }
      | _ => st)

/-- SC_TICKET_GRANT: after the release step, which is published with it, the sequencer grants the next ticket; pts passes AMARK and the die's MAXT, and an atomic comes
after what mutually scoped predecessors have released (R190, R202). The
request is the group's SC fence, or its SC atomic `id`, of which lines may be in the spillway. -/
def execScTicketGrant (gid id : Nat) (st : State) : Ans :=
  .next (match mget st.groups gid with
    | none => st
    | some g =>
      let give := fun (k : State → State) => match st.seqTicket (st.ctxOf g) 0 (locOf gid 0) g.icntA with
        | none => st
        | some (st, _) => k ((st.raisePts (gCore gid) g.amark).raisePts (gCore gid) ((st.die (gDie gid)).maxT))
      match g.await with
      | .fence 3 scope upto =>
        if st.releaseDone gid g scope upto then give fun st => (st.released gid scope upto).updGroup gid fun g => { g with await := .fence 2 scope upto } else st
      | _ =>
        let q := quadOf gid
        let mine := fun (e : Spill) => decide (e.group = gid) && decide (e.wg = g.wg) && decide (e.access.id = id)
        match (g.accessOf id).or (((st.spillway q).find? mine).map (·.access)) with
        | some a =>
          if a.order = 4 ∧ a.ticket = none ∧ st.releaseDone gid g a.scope id then
            give fun st' =>
              let st' := ((st'.released gid a.scope id).bindSeen gid a.scope id).updGroup gid fun g => g.updAccess id fun a => { a with ticket := some st.ticket }
              { st' with spillways := mupd st'.spillways q fun l => l.map fun e => if mine e then { e with access := { e.access with ticket := some st.ticket } } else e }
          else st
        | none => st)

/-- A group's commands on the paths of a mask are performed, at a scope: CORE accesses, COPY and FABRIC commands, matrix entries at whichever engine of the team they stand;
and in any case its spillway entries (R161, R168). -/
def State.pathsDone (st : State) (gid : Nat) (g : Group) (m scope upto : Nat) : Bool :=
  let k := st.cluster (gCluster gid)
  (m % 2 = 0 || st.releaseDone gid g scope upto) && (m / 2 % 2 = 0 || k.copyQ.all fun e => decide (e.group ≠ gid) || e.finished)
    && (m / 4 % 2 = 0 || st.clusters.all fun e => e.2.res.all fun r => decide (r.group ≠ gid))
    && (m / 8 % 2 = 0 || k.fabQ.all fun e => decide (e.group ≠ gid) || e.finished) && !st.spilledBy gid g.wg fun _ => true

/-- XFENCE_COMPLETE: the from-paths are performed, at the widest scope where a path other than CORE is among the to-paths, as its events are performed past the core's L1
(R168, R182, R230; DEDUCED: log entry 96); with CORE among the to-paths pts passes the die's MAXT (R202). -/
def execXfenceComplete (gid : Nat) (st : State) : Ans :=
  .next (match mget st.groups gid with
    | none => st
    | some g => match g.await with
      | .xfence f t scope upto =>
        if st.pathsDone gid g f (if t / 2 = 0 then scope else 5) upto then
          let st := if f % 2 = 1 then st.published gid scope upto else st
          let st := if t % 2 = 1 then st.raisePts (gCore gid) (st.die (gDie gid)).maxT else st
          st.updGroup gid fun g => { g with await := .ready, apc := g.apc + 4 }
        else st
      | _ => st)

end Sys2Proof.Machine
end

