-- ==== Sys2Proof/Machine/Control.lean ====
section
/-! DEFINITION. Control, synchronisation and system instructions of the compute stream, majors 0x00 to 0x19 (R92 to R120), with the
barriers (R67 to R70) and the checks of LAUNCH (R108 to R112). -/

namespace Sys2Proof.Machine

/-- What a control instruction checks: it ignores the guard (R92). -/
def ctlSpec (legal : Bool) : IssueSpec := { legal := legal, guarded := false }

/-- A control instruction that sets its split's PC itself. -/
def pcSpec (legal : Bool) : IssueSpec := { legal := legal, guarded := false, adv := false }

/-- The issuing split with its PC set. -/
def State.goto (st : State) (pc : Word) : State :=
  st.updGroup st.issuer.group fun g => g.updSplit st.issuer.slot fun s => { s with pc := pc }

/-- The issuing split put into a wait: its PC stays at the instruction (R59). -/
def State.waitAs (st : State) (w : SWait) : State :=
  st.updGroup st.issuer.group fun g => g.updSplit st.issuer.slot fun s => { s with wait := w }

/-- A branch of the issuing split (R28, R94). -/
def State.branch (st : State) (pc : Word) (t : Bool) (o : Word) : IEff :=
  match branchTrap pc t o with
  | some r => .trap r st
  | none => .done (st.goto (condPc pc t o))

/-- An instruction that R411 forbids at trap level. -/
def notInHandler (st : State) (k : IEff) : IEff := if st.issuer.slot = 5 then .trap illegal st else k

/-! Branches, jumps and calls (R94 to R97). -/

/-- NOP: does nothing (R36). -/
def execNop (s : BitVec 1) (st : State) : Ans := issueC st s (ctlSpec true) fun st _ _ => .done st

/-- BRA (R94). -/
def execBra (s : BitVec 1) (o : BitVec 24) (st : State) : Ans :=
  issueC st s (pcSpec true) fun st _ sp => st.branch sp.pc true (o.signExtend 64)

/-- The condition of BRC on a signed S register (R94). -/
def brcCond (c : Nat) (x : Int) : Bool :=
  match c with
  | 0 => decide (x = 0)
  | 1 => decide (x ≠ 0)
  | 2 => decide (x < 0)
  | 3 => decide (0 ≤ x)
  | 4 => decide (0 < x)
  | _ => decide (x ≤ 0)

/-- BRC: conditions 6 and 7 are reserved (R94, R36). -/
def execBrc (s : BitVec 1) (r : BitVec 4) (c : BitVec 3) (o : BitVec 17) (st : State) : Ans :=
  issueC st s { pcSpec (decide (c.toNat < 6)) with srcs := [BitVec.ofNat 6 (48 + r.toNat)] } fun st g sp =>
    st.branch sp.pc (brcCond c.toNat (g.getS r.toNat).toInt) (o.signExtend 64)

/-- A split divided: the first side stays in its slot, the others take the lowest free slot or join the pending list (R58, R96); none where
both are full. -/
def Group.divide (g : Group) (slot : Nat) (sides : List (Word × Mask)) : Option Group :=
  match sides with
  | [] => some g
  | (pc, m) :: rest =>
    let free := ((List.range 4).filter fun i => (mget g.splits i).isNone).length
    if free + (8 - g.pending.length) < rest.length then none
    else
      let g := g.updSplit slot fun s => { s with pc := pc, mask := m }
      some (rest.foldl (fun g x => match g.freeSlot with
        | some i => { g with splits := mset g.splits i { pc := x.1, mask := x.2 } }
        | none => { g with pending := g.pending ++ [x] }) g)

/-- The threads of a mask that satisfy a test. -/
def maskOf (m : Mask) (f : Nat → Bool) : Mask :=
  BitVec.ofNat 32 (packN 1 ((List.range 32).map fun t => if m.getLsbD t && f t then 1 else 0))

/-- BRD: divides the split by bit 0 of Pn exclusive-ored with neg (R95, R58). -/
def execBrd (s : BitVec 1) (p : BitVec 3) (n : BitVec 1) (o : BitVec 20) (st : State) : Ans :=
  issueC st s { pcSpec true with pregs := [p.toNat] } fun st g sp =>
    notInHandler st <|
      let row := g.getP p.toNat
      let tk := maskOf sp.mask fun t => row.getLsbD (8 * t) != (n == 1#1)
      let target := sp.pc + 4 * o.signExtend 64
      if tk = sp.mask ∨ tk = 0 then st.branch sp.pc (decide (tk ≠ 0)) (o.signExtend 64)
      else if let some r := farTrap target then .trap r st
      else match g.divide st.issuer.slot [(target, tk), (sp.pc + 4, sp.mask &&& ~~~tk)] with
        | some g => .done (st.putGroup st.issuer.group g)
        | none => .trap { cause := .splitOverflow } st

/-- The distinct values of a V register over a mask, ascending (R96). -/
def distinct (row : Row) (m : Mask) : List Nat :=
  orderBy (((List.range 32).filter fun t => m.getLsbD t).map fun t => (laneAt row t).toNat).eraseDups (· ≤ ·)

/-- JMPI: an S target moves the split; a V operand divides it, one side per distinct target (R94, R96, R28). -/
def execJmpi (s : BitVec 1) (a : BitVec 6) (st : State) : Ans :=
  issueC st s { pcSpec (isV a || isS a) with srcs := [a] } fun st g sp =>
    if isS a then
      match jumpTrap (g.srcS a) with
      | some t => .trap t st
      | none => .done (st.goto (g.srcS a))
    else notInHandler st <|
      let row := g.getV a.toNat
      let tg := distinct row sp.mask
      if tg.any fun x => decide (x % 4 ≠ 0) then .trap { cause := .misalign } st
      else match tg.find? fun x => decide (2 ^ 52 ≤ x) with
        | some x => .trap { cause := .pageFault, addr := x } st
        | none =>
          match g.divide st.issuer.slot (tg.map fun x => (BitVec.ofNat 64 x, maskOf sp.mask fun t => decide ((laneAt row t).toNat = x))) with
          | some g => .done (st.putGroup st.issuer.group g)
          | none => .trap { cause := .splitOverflow } st

/-- CALL: pc + 4 into V31 of every active thread, then the branch (R97). -/
def execCall (s : BitVec 1) (o : BitVec 24) (st : State) : Ans :=
  issueC st s (pcSpec true) fun st g sp =>
    match farTrap (sp.pc + 4 * o.signExtend 64) with
    | some r => .trap r st
    | none => .done ((st.putGroup st.issuer.group (g.putV 31 (splat (sp.pc + 4)) (expandT sp.mask))).goto (sp.pc + 4 * o.signExtend 64))

/-- RET: to the common V31, or ILLEGAL_OP 1 where the threads differ (R97). -/
def execRet (s : BitVec 1) (st : State) : Ans :=
  issueC st s { pcSpec true with srcs := [31#6] } fun st g sp =>
    match distinct (g.getV 31) sp.mask with
    | [x] => match jumpTrap (BitVec.ofNat 64 x) with
      | some t => .trap t st
      | none => .done (st.goto (BitVec.ofNat 64 x))
    | _ => .trap (illegal 1) st

/-! MODE (R41, R98). -/

/-- A MODE value with no reserved bit set and a rounding mode of 0 to 4 (R40, R41). -/
def modeOk (m : BitVec 32) : Bool :=
  decide (m.extractLsb' 20 12 = 0#12) && decide (m.extractLsb' 13 3 = 0#3) && decide ((m.extractLsb' 4 3).toNat < 5)

/-- MODE written, or ILLEGAL_OP (R41). -/
def setMode (g : Group) (m : BitVec 32) : GEff := if modeOk m then .done { g with mode := m } else .trap illegal

/-- MODEI: MODE[19:0] from imm20 (R41). -/
def execModei (s : BitVec 1) (i : BitVec 20) (st : State) : Ans := groupOp st s (ctlSpec true) fun g _ => setMode g (i.setWidth 32)

/-- MODER: MODE from bits [31:0] of an S register (R41). -/
def execModer (s : BitVec 1) (a : BitVec 6) (st : State) : Ans :=
  groupOp st s { ctlSpec (isS a) with srcs := [a] } fun g _ => setMode g ((g.srcS a).setWidth 32)

/-! Barriers. -/

/-- MASK_MISMATCH with its detail (R407). -/
def mismatch (d : Nat) : Trap := { cause := .maskMismatch, detail := d }

/-- The number of groups of a workgroup (R49). -/
def Workgroup.groups (w : Workgroup) : Nat := (w.n + 31) / 32

/-- Every split that waits in BAR in the groups that have arrived takes MASK_MISMATCH (R69). -/
def State.breakBar (st : State) (w : Nat) : State :=
  (st.groupsOf w).foldl (fun st e =>
    let here := e.2.splits.filter fun x => decide (x.2.wait = .bar)
    let st := here.foldl (fun st x => st.waiterTrap e.1 false x.1 (mismatch 0)) st
    if e.2.handler.any fun h => decide (h.wait = .bar) then st.waiterTrap e.1 false 5 (mismatch 0) else st) st

/-- BAR: an arrival at the workgroup's barrier (R67 to R69). -/
def execBar (s : BitVec 1) (a : BitVec 6) (st : State) : Ans :=
  issueC st s { pcSpec (isS a) with srcs := [a] } fun st g sp =>
    let x := g.srcS a
    let w := st.wgOf g
    let m : BitVec 16 := x.setWidth 16
    if sp.mask ≠ g.live ∨ 2 ^ w.groups ≤ x.toNat ∨ !m.getLsbD g.gi then .trap (mismatch 0) st
    else
      let me : BitVec 16 := BitVec.ofNat 16 (2 ^ g.gi)
      match w.barMask with
      | none => .done (((st.updWg g.wg fun w => { w with barMask := some m, barArrived := me, barBroken := false }).waitAs .bar).barCheck g.wg)
      | some k =>
        if w.barBroken then .trap (mismatch 0) ((st.updWg g.wg fun w => { w with barArrived := w.barArrived ||| me }).barCheck g.wg)
        else if k = m then .done (((st.updWg g.wg fun w => { w with barArrived := w.barArrived ||| me }).waitAs .bar).barCheck g.wg)
        else .trap (mismatch 0)
          (((st.updWg g.wg fun w => { w with barBroken := true, barArrived := w.barArrived ||| (me &&& k) }).breakBar g.wg).barCheck g.wg)

/-- SYNCS: an arrival at the group's barrier (R67 to R69). A disagreeing arrival traps alone; the waiting splits go on with their PCs
unchanged. -/
def execSyncs (s : BitVec 1) (a : BitVec 6) (st : State) : Ans :=
  issueC st s { pcSpec (isS a) with srcs := [a] } fun st g sp =>
    let gid := st.issuer.group
    let x := g.srcS a
    let m : Mask := x.setWidth 32
    if 2 ^ 32 ≤ x.toNat ∨ sp.mask &&& ~~~m ≠ 0 ∨ m &&& ~~~g.present ≠ 0 then .trap (mismatch 0) st
    else match g.syncsMask with
      | none =>
        .done ((st.waitAs .syncs).updGroup gid fun g => ({ g with syncsMask := some m, syncsArrived := sp.mask, syncsBroken := false }).syncsCheck)
      | some k =>
        let arrive := fun (g : Group) => { g with syncsArrived := g.syncsArrived ||| sp.mask }
        if g.syncsBroken then .trap (mismatch 0) (st.updGroup gid fun g => (arrive g).syncsCheck)
        else if k = m then .done ((st.waitAs .syncs).updGroup gid fun g => (arrive g).syncsCheck)
        else .trap (mismatch 0) (st.updGroup gid fun g => (({ arrive g with syncsBroken := true }).release .syncs .ready).syncsCheck)

/-- A wait that begins in a broken grid, or for one (R407, R417): BARRIER_BROKEN, as of a wait; in a handler it faults the context at once (R412). -/
def State.brokenWait (st : State) (detail : Nat) : State :=
  let i := st.issuer
  let p : Pend := { trap := { cause := .barrierBroken, detail := detail }, kind := .waiter, slot := i.slot }
  if i.slot = 5 then st.takeTrap i.group p else st.postTrap i.group p

/-- GBAR: an arrival at the hub's barrier of a COOP grid (R70, R100). -/
def execGbar (s : BitVec 1) (st : State) : Ans :=
  issueC st s (pcSpec true) fun st g sp =>
    let w := st.wgOf g
    let gr := st.gridOf w
    let gk := gridKey w.ctx w.grid
    if gr.desc.flags % 2 = 0 then .trap (mismatch 1) st
    else if sp.mask ≠ g.live then .trap (mismatch 2) st
    else if gr.broken then .done ((st.waitAs .gbar).brokenWait 1)
    else .done (((st.waitAs .gbar).updGrid gk fun x => { x with gbar := x.gbar ++ [st.issuer.group] }).gbarCheck gk)

/-! Waits. -/

/-- A counter reference checked (R101, R102): the counter's flat address, or its trap. -/
def State.counterAt (st : State) (gid : Nat) (g : Group) (x : Word) : Trap ⊕ Nat :=
  let n := x.toNat
  let space := bits n 31 29
  let off := bits n 28 0
  if 2 ^ 32 ≤ n ∨ (space ≠ 2 ∧ space ≠ 3) then .inl { cause := .viewFault }
  else if off % 16 ≠ 0 then .inl { cause := .misalign }
  else if st.spaceBytes g space < off + 16 then .inl { cause := .bounds }
  else .inr (st.spaceFlat gid g space 0 off)

/-- WAITC: holds the split until the counter reaches its target (R103). -/
def execWaitc (s : BitVec 1) (a b : BitVec 6) (st : State) : Ans :=
  issueC st s { pcSpec (isS a && isSZ b) with srcs := [a, b] } fun st g sp =>
    match st.counterAt st.issuer.group g (g.srcS a) with
    | .inl t => .trap t st
    | .inr p =>
      let t := (g.srcS b).toNat
      if st.reached p (isZ b) t then .done (st.goto (sp.pc + 4)) else .done (st.waitAs (.waitc p (isZ b) t))

/-- The translation of a WAITM or LAUNCH read (R104, R110): watched pages count for WAITM alone. -/
def State.syncRead (st : State) (gid : Nat) (g : Group) (va n : Nat) (watch : Bool) : Acc :=
  match st.accessNow (st.ctxOf g) (.stream gid false) va .r 0 false with
  | .ok leaf pa st =>
    match (if watch && pteBit leaf 9 then watchHit (st.ctx (st.ctxOf g)).watch true false ((List.range n).map (va + ·)) else none) with
    | some (i, b) => .prot { cause := .watch, detail := trDetail false 0 0 false false false false i, addr := b } st
    | none => .ok leaf pa st
  | q => q

/-- A split held for the page-fault service, or its trap where the service declines at once (R104, R110, R339). -/
def State.pageHold (st : State) (gid : Nat) (g : Group) (page : Nat) (t : Trap) : IEff :=
  let r := st.pageFault (st.ctxOf g) (.stream gid false) page t.detail (st.wgOf g).serial t.addr
  if r.declined then .trap { t with declined := true } r.st else .hold (r.st.waitAs (.paged page t))

/-- WAITM: holds the split while the word equals the value; the comparison and the registration are one step at the home (R104), which the line must first have come
to (`State.syncLine`). -/
def execWaitm (s : BitVec 1) (a b : BitVec 6) (st : State) : Ans :=
  issueC st s { pcSpec (isS a && isSZ b) with srcs := [a, b] } fun st g sp =>
    let gid := st.issuer.group
    let va := (g.srcS a).toNat
    if va % 8 ≠ 0 then .trap { cause := .misalign } st
    else if 2 ^ 52 ≤ va then .trap { cause := .pageFault, addr := va } st
    else match st.syncRead gid g va 8 true with
      | .wait => .hold st
      | .prot t st => .trap t st
      | .fault page t st => st.pageHold gid g page t
      | .ok leaf pa st =>
        match st.syncLine gid (st.ctxOf g) leaf pa (1 + pa % 128 / 64) true with
        | none => .hold st
        | some st =>
          let v := (g.srcS b).toNat
          if st.read pa 8 = v then .done (st.waitAs (.waitm va pa v)) else .done (st.goto (sp.pc + 4))

/-- SLEEP: n = Sa[31:0] + 64 × imm12 counted cycles (R105). -/
def execSleep (s : BitVec 1) (a : BitVec 6) (i : BitVec 12) (st : State) : Ans :=
  issueC st s { pcSpec (isSZ a) with srcs := [a] } fun st g _ =>
    .done (st.waitAs (.sleep ((g.srcS a).toNat % 2 ^ 32 + 64 * i.toNat)))

/-- YIELD: no architected effect; the group and the split rank below others for one choice (R106). -/
def execYield (s : BitVec 1) (st : State) : Ans :=
  issueC st s { ctlSpec true with yields := true } fun st _ _ => .done st

/-- JOINC: until the child grids named have completed (R107). With ZERO these are the grids the workgroup has launched when it is released, those launched
after the JOINC issued among them (DESIGN CHOICE: log entry 79). -/
def execJoinc (s : BitVec 1) (a : BitVec 6) (st : State) : Ans :=
  issueC st s { pcSpec (isSZ a) with srcs := [a] } fun st g sp =>
    let w := st.wgOf g
    let broken := fun (id : Nat) => match mget st.grids (gridKey w.ctx id) with
      | some x => x.broken
      | none => false
    if isZ a then
      if w.children = [] then .done (st.goto (sp.pc + 4))
      else .done (if w.children.any broken then (st.waitAs .joinAll).brokenWait 2 else st.waitAs .joinAll)
    else
      let id := (g.srcS a).toNat % 2 ^ 32
      if id ∈ w.children then .done (if broken id then (st.waitAs (.joinOne id)).brokenWait 2 else st.waitAs (.joinOne id))
      else .done (st.goto (sp.pc + 4))

/-! LAUNCH. -/

/-- `n` lines of GLOB from a 128-byte-aligned address, read with R; or the first line's fault. A stream reads each at its die's L2, or the L3 (R110), and its read of a
tracked line logs a VALUE record where U is set: R426 gives one to each such read, LAUNCH's among them, though R121's list of records does not name it (DEDUCED: log entry 80). -/
def State.readLines (st : State) (c : Nat) (who : Who) (va n : Nat) : Acc × Nat :=
  match n with
  | 0 => (.ok 0 0 st, 0)
  | k + 1 =>
    match st.accessNow c who va .r 0 false with
    | .ok leaf pa st =>
      match (match who with
        | .stream gid _ => st.syncLine gid c leaf pa 3 false
        | _ => some st) with
      | none => (.wait, 0)
      | some st =>
        let raw := st.read pa 128
        let (st, v) := match st.whoCount who with
          | some (gid, acc, n) => if st.tracked c leaf then st.value c gid acc n (lineOf pa) raw else (st, raw)
          | none => (st, raw)
        match State.readLines st c who (va + 128) k with
        | (.ok l p st, rest) => (.ok l p st, v + 2 ^ 1024 * rest)
        | q => q
    | q => (q, 0)

/-- The fields of a descriptor line (R109). -/
def descOf (d : Nat) : Desc :=
  { cpc := bits d 63 0, apc := bits d 127 64, x := bits d 159 128, y := bits d 191 160, z := bits d 223 192, n := bits d 239 224
    flags := bits d 247 240, keeper := bits d 255 248, core := bits d 415 384, clus := bits d 447 416, acc := bits d 463 448 }

/-- The dies of a device that a die class names (R81, R109), of those that are up: a class all of whose dies are lost names none (DESIGN CHOICE: log entry 78). -/
def State.eligible (st : State) (dev cls : Nat) : List Nat :=
  (devDies st.mode dev).filter fun d => (decide (cls = 0) || (if cls = 1 then isMdie d else decide (cls = 2) && !isMdie d)) && decide ((st.die d).state = .up)

/-- Rows of 1,024 accumulator cells of a die's engines (R16). -/
def accRowsOf (die : Nat) : Nat := if isMdie die then 256 else 64

/-- Pipes of a core that are not retired (R15). -/
def State.pipesOf (st : State) (core : Nat) : Nat := 64 - (st.retiredPipes.filter fun p => decide (p / 64 = core)).length

/-- Some core of a die has slots for a number of groups (R15, R17). -/
def State.seats (st : State) (die n : Nat) : Bool :=
  (List.range (4 * clustersOf die)).any fun i => decide (n ≤ 2 * st.pipesOf (4 * firstCluster die + i))

/-- How many workgroups of a shape one cluster can hold at once (R17, R18). -/
def State.clusterRoom (st : State) (cl : Nat) (d : Desc) : Nat :=
  let g := (d.n + 31) / 32
  let perCore := fun (core : Nat) => min (min 32 (2 * st.pipesOf core / g)) (524288 / (d.core + 4096))
  let byCore := (List.range 4).foldl (fun n i => n + perCore (4 * cl + i)) 0
  let byClus := if d.clus = 0 then byCore else 2 ^ 21 / d.clus
  let byAcc := if d.acc = 0 then byCore else accRowsOf (clusterDie cl) / d.acc
  min byCore (min byClus byAcc)

/-- How many workgroups of a shape a list of dies can hold at once. -/
def State.room (st : State) (dies : List Nat) (d : Desc) : Nat :=
  dies.foldl (fun n die => n + (List.range (clustersOf die)).foldl (fun m i => m + st.clusterRoom (firstCluster die + i) d) 0) 0

/-- The gate pairs of a descriptor: counter reference and target; a reference of 0 marks a pair unused (R109). -/
def gatePairs (d : Nat) : List (Word × Nat) :=
  ((List.range 4).map fun i => (BitVec.ofNat 64 (d / 2 ^ (512 + 128 * i)), bits d (639 + 128 * i) (576 + 128 * i))).filter fun p => decide (p.1 ≠ 0#64)

/-- The refusal code of a descriptor, 0 where the grid is acceptable (R111); `gateOk` says that every gate reference passes R102. -/
def State.refusal (st : State) (dev : Nat) (raw : Nat) (gateOk : Bool) : Nat :=
  let d := descOf raw
  let params := bits raw 319 256
  let views := bits raw 383 320
  let cls := d.flags / 8 % 4
  let dim := fun (n : Nat) => decide (1 ≤ n) && decide (n ≤ 2 ^ 21)
  let dies := st.eligible dev cls
  if !(dim d.x && dim d.y && dim d.z) ∨ 2 ^ 36 < d.x * d.y * d.z ∨ d.n = 0 ∨ 512 < d.n then 1
  else if cls = 3 ∨ dies = [] then 2
  else if 520192 < d.core ∨ 2 ^ 21 < d.clus ∨ dies.any (fun die => decide (accRowsOf die < d.acc) || !st.seats die ((d.n + 31) / 32)) then 3
  else if bits raw 511 464 ≠ 0 ∨ d.flags / 32 ≠ 0 ∨ d.cpc % 4 ≠ 0 ∨ d.apc % 4 ≠ 0 ∨ params % 8 ≠ 0 ∨ views % 128 ≠ 0 ∨ d.core % 128 ≠ 0 ∨
      d.clus % 128 ≠ 0 ∨ (d.n + 31) / 32 ≤ d.keeper then 4
  else if !gateOk then 5
  else if d.flags % 2 = 1 ∧ st.room dies d < d.x * d.y * d.z then 6
  else 0

/-- What LAUNCH's reads give: the descriptor with its parameters and views, and its refusal code; a page to bring; a trap; or nothing yet. -/
inductive LaunchRead where
  | ok (st : State) (d : Desc) (reason : Nat) (gates : List (Word × Nat))
  | fault (page : Nat) (t : Trap) (st : State)
  | prot (t : Trap) (st : State)
  | wait

/-- The reads of LAUNCH: acquire loads at SYSTEM scope of the descriptor and, where it is acceptable, of its parameter block and view table
(R109, R110). Where an address has bits [63:52] set, which the spec gives no outcome, they are ignored (DESIGN CHOICE: log entry 93). -/
def State.readLaunch (st : State) (c : Nat) (who : Who) (va : Nat) (gateOk : List (Word × Nat) → Bool) : LaunchRead :=
  match st.readLines c who va 1 with
  | (.wait, _) => .wait
  | (.fault p t st, _) => .fault p t st
  | (.prot t st, _) => .prot t st
  | (.ok _ _ st, raw) =>
    let gs := gatePairs raw
    let r := st.refusal (st.ctx c).dev raw (gateOk gs)
    let d := descOf raw
    if r ≠ 0 then .ok st d r gs
    else
      let params := bits raw 319 256
      let views := bits raw 383 320
      let p := if params = 0 then (Acc.ok 0 0 st, 0) else st.readLines c who (lineOf params) (if params % 128 = 0 then 1 else 2)
      match p with
      | (.wait, _) => .wait
      | (.fault p t st, _) => .fault p t st
      | (.prot t st, _) => .prot t st
      | (.ok _ _ st, pv) =>
        match (if views = 0 then (Acc.ok 0 0 st, 0) else st.readLines c who views 32) with
        | (.wait, _) => .wait
        | (.fault p t st, _) => .fault p t st
        | (.prot t st, _) => .prot t st
        | (.ok _ _ st, vv) =>
          let block := pv / 2 ^ (8 * (params % 128))
          .ok st { d with params := if params = 0 then [] else (List.range 16).map fun i => block / 2 ^ (64 * i) % 2 ^ 64
                          views := ((List.range 32).map fun i => (i, asDefined (BitVec.ofNat 1024 (vv / 2 ^ (1024 * i))))).filter fun e => decide (e.2 ≠ 0) } 0 gs

/-- The leader of a workgroup: its lowest-numbered group that holds a live thread (R71). -/
def State.leader (st : State) (w : Nat) : Option Nat :=
  let es := (st.groupsOf w).filter fun e => !e.2.cend && !e.2.saver
  match (es.map fun e => e.2.gi).min? with
  | some k => (es.find? fun e => decide (e.2.gi = k)).map (·.1)
  | none => none

/-- Every gate reference of a descriptor passes R102 for the group that launches it (R111). -/
def State.gatesPass (st : State) (gid : Nat) (g : Group) (gs : List (Word × Nat)) : Bool :=
  gs.all fun p => match st.counterAt gid g p.1 with
    | .inl _ => false
    | .inr _ => true

/-- The gates' counters and targets (R109). -/
def State.gatesOf (st : State) (gid : Nat) (g : Group) (gs : List (Word × Nat)) : List (Nat × Nat) :=
  gs.filterMap fun p => match st.counterAt gid g p.1 with
    | .inl _ => none
    | .inr f => some (f, p.2)

/-- The request of a LAUNCH before its descriptor is read: the list form's grid has no parent (R79). -/
def State.launchBase (st : State) (g : Group) (d : BitVec 6) (list : Bool) : LaunchReq :=
  { group := st.issuer.group, slot := st.issuer.slot, dreg := d.toNat - 48, ctx := (st.wgOf g).ctx, desc := {}
    depth := if list then 0 else (st.wgOf g).depth + 1, parent := if list then none else some g.wg }

/-- A request left for the distributor, the split held for its answer (R111). -/
def State.request (st : State) (r : LaunchReq) : State := ({ st with launches := st.launches ++ [r] }).waitAs .launch

/-- LAUNCH: the descriptor is read and the split waits for the distributor's answer (R108 to R111, R71, R202); the list form takes none of the
reads' traps and is refused with 7 (R110). Its read of the entry at Sb is one of the root group's accesses to its queue: where it cannot be made the queue
halts (R77). -/
def execLaunch (s : BitVec 1) (d a b : BitVec 6) (st : State) : Ans :=
  issueC st s { pcSpec (isS d && isS a && isSZ b) with srcs := [a, b] } fun st g _ =>
    let gid := st.issuer.group
    let w := st.wgOf g
    let list := isS b
    let va := (g.srcS a).toNat
    let base := st.launchBase g d list
    if list && !(st.gridOf w).root then .trap { cause := .prot } st
    else if !list && decide (st.leader g.wg ≠ some gid) then .trap (mismatch 3) st
    else if !list && decide (9 ≤ w.depth) then .trap { cause := .launchDepth } st
    else if va % 128 ≠ 0 then (if list then .done (st.request { base with reason := 7 }) else .trap { cause := .misalign } st)
    else if 2 ^ 52 ≤ va then (if list then .done (st.request { base with reason := 7 }) else .trap { cause := .pageFault, addr := va } st)
    else
      let who := Who.stream gid false
      match st.readLaunch w.ctx who va (st.gatesPass gid g) with
      | .wait => .hold st
      | .prot t st => if list then .done (st.request { base with reason := 7 }) else .trap t st
      | .fault page t st =>
        if list then
          (let r := st.pageFault w.ctx who page t.detail w.serial t.addr
           if r.declined then .done (r.st.request { base with reason := 7 })
           else .hold (({ r.st with launches := r.st.launches ++ [{ base with reason := 7 }] }).waitAs (.paged page t)))
        else st.pageHold gid g page t
      | .ok st desc reason gs =>
        let gates := st.gatesOf gid g gs
        let req := { base with desc := desc, reason := reason, gates := gates }
        let st1 := st.acquire gid 5
        if !list then .done (st1.request req)
        else match st1.readLines w.ctx who (g.srcS b).toNat 1 with
          | (.wait, _) => .hold st
          | (.prot t st, _) => .trap t st
          | (.fault page t st, _) => st.pageHold gid g page t
          | (.ok _ _ st1, e) => .done (st1.request { req with tag := bits e 127 64, doneAt := bits e 191 128 })

/-! Exit, traps and state access. -/

/-- A held entry that belongs to no thread: its destination is an S or an A register. -/
def Wb.shared (e : Wb) : Bool :=
  match e.dest with
  | .s _ | .a _ => true
  | _ => false

/-- Held results of exited threads discarded (R114); a store queue's place reserved for one that stands for no thread any more is given up. -/
def Group.dropThreads (g : Group) (m : Mask) : Group :=
  let es := g.wbC.filterMap fun e => if e.shared then some e else e.without m
  let stays := fun (q : QEntry) => q.ready || es.any fun e => decide (e.id = q.resv)
  { g with wbC := es, sq := g.sq.filter stays, xq := g.xq.filter stays }

/-- EXIT: ends the split's threads; its slot frees; the barriers count them as arrived; the compute stream may end, and the group leave
(R114, R69). -/
def execExit (s : BitVec 1) (st : State) : Ans :=
  issueC st s (pcSpec true) fun st g sp =>
    notInHandler st <|
      let gid := st.issuer.group
      let w := st.wgOf g
      let st := st.putGroup gid (promote 8 { g.dropThreads sp.mask with
        splits := merase g.splits st.issuer.slot, exited := g.exited ||| sp.mask }).syncsCheck
      let st := if (mgetD st.groups gid g).cend then st.computeEnd gid else st
      .done (((st.barCheck g.wg).gbarCheck (gridKey w.ctx w.grid)).settle gid)

/-- TRAP: SW_TRAP with its code (R115). -/
def execTrap (s : BitVec 1) (i : BitVec 20) (st : State) : Ans :=
  issueC st s (ctlSpec true) fun st _ _ => .trap { cause := .swTrap, detail := i.toNat } st

/-- BKPT with its tag (R115). -/
def execBkpt (s : BitVec 1) (i : BitVec 20) (st : State) : Ans :=
  issueC st s (ctlSpec true) fun st _ _ => .trap { cause := .bkpt, detail := i.toNat } st

/-- TRET: legal at trap level alone; it waits for the handler's access part, then leaves (R116, R411); what
the part still holds commits, a poisoned A register with its trap (R414). -/
def execTret (s : BitVec 1) (st : State) : Ans :=
  issueC st s (pcSpec true) fun st g _ =>
    if !g.tlevel || decide (st.issuer.slot ≠ 5) then .trap illegal st
    else if !g.aend || !allReturned g.wbC || !allReturned g.wbA then .hold st
    else match g.wbA.find? fun e => e.poison with
      | some e => .hold (st.takeTrap st.issuer.group { trap := { cause := .eccUncorr, detail := e.unit }, kind := .precise, acc := true, slot := 4 })
      | none => .done ((st.putGroup st.issuer.group g.leave).settle st.issuer.group)

/-- GETS: state register n, asynchronous (R117, R44). -/
def execGets (s : BitVec 1) (d : BitVec 6) (i : BitVec 12) (st : State) : Ans :=
  issueC st s { ctlSpec (isS d && decide (i.toNat ≤ 16)) with async := fun _ _ => true } fun st g _ =>
    match st.sampleReg st.issuer.group g false i.toNat with
    | none => .hold st
    | some (st, v) => .done (st.updGroup st.issuer.group fun g => g.holdS (d.toNat - 48) (BitVec.ofNat 64 v))

/-- The width of a state register PUTS writes (R44). -/
def putsWidth (n : Nat) : Nat := if n = 4 ∨ n = 5 then 8 else if n = 6 ∨ n = 8 then 52 else if n = 7 then 64 else 32

/-- The census bins of a context as its table holds them, none where the page is missing; the census is not recorded (R447, R448). -/
def State.readBins (st : State) (c : Nat) (who : Who) : State × List (Nat × Nat) :=
  match st.accessNow c who 0x11000 .r 0 false with
  | .ok _ pa st =>
    let v := st.read pa 1024
    (st, (List.range 64).map fun i => (bits v (128 * i + 63) (128 * i), bits v (128 * i + 127) (128 * i + 64)))
  | .fault _ _ st | .prot _ st => (st, [])
  | .wait => (st, [])

/-- Every core of a device takes the bins, the same for all, with an acquire at SYSTEM scope (R447, R191). -/
def State.takeBins (st : State) (c gid : Nat) (b : List (Nat × Nat)) : State :=
  let mine := fun (k : Nat) => decide (clusterDie (k / 4) ∈ devDies st.mode (st.ctx c).dev)
  let st := (st.updCtx c fun x => { x with bins := b }).raisePts (gCore gid) (st.die (gDie gid)).maxT
  (st.cores.filter fun e => mine e.1).foldl (fun s e => s.raisePts e.1 (s.die (clusterDie (e.1 / 4))).maxT) st

/-- CENSUSCTL written (R447): EN rising reads the bins, CLEAR clears every core's counts, FLUSH holds the split. What is issued in the next 4,096 cycles may count under
the setting that stood before (`State.censusOn`; log entry 42). -/
def State.censusCtl (st : State) (c gid : Nat) (v : Nat) : State :=
  let on := decide (v % 2 = 1)
  let mine := fun (k : Nat) => decide (k / 512 = c)
  let st := if on && !(st.ctx c).censusEn then (let r := st.readBins c (.stream gid false); r.1.takeBins c gid r.2) else st
  let st := if v / 2 % 2 = 1 then { st with cores := mmap st.cores fun _ x => { x with census := x.census.filter fun e => !mine e.1 } } else st
  st.updCtx c fun x => if x.censusEn = on then x else { x with censusEn := on, censusWas := x.censusEn, censusAt := st.clock }

/-- PUTS: the registers R44 lets it write, the trap-level ones at trap level only (R118). It writes bits [w − 1:0] of the source; that the higher
bits, which must be 0 (R44), are ignored where they are not is DEDUCED from R5 (log entry 73). -/
def execPuts (s : BitVec 1) (a : BitVec 6) (i : BitVec 12) (st : State) : Ans :=
  issueC st s { pcSpec (isS a && decide (i.toNat ≤ 16)) with srcs := [a] } fun st g sp =>
    let gid := st.issuer.group
    let n := i.toNat
    let v := (g.srcS a).toNat % 2 ^ putsWidth n
    let ok := decide (n = 4) || ((decide (n = 5) || decide (n = 6) || decide (n = 7) || decide (n = 8) || decide (n = 16)) && g.tlevel)
    if !ok || (decide (n = 6) && decide (v % 4 ≠ 0)) then .trap illegal st
    else
      let set := fun (f : Group → Group) => IEff.done ((st.updGroup gid f).goto (sp.pc + 4))
      match n with
      | 4 => set fun g => g.setStat (BitVec.ofNat 8 v)
      | 5 => set fun g => { g with tcause := v }
      | 6 => set fun g => { g with tpc := v }
      | 7 => set fun g => { g with tinfo := v }
      | 8 => set fun g => { g with taddr := v }
      | _ =>
        let st := st.censusCtl (st.ctxOf g) gid v
        if v / 4 % 2 = 1 then .done (st.waitAs .flush) else .done (st.goto (sp.pc + 4))

/-- A clock read into an S register, asynchronous, logged as CDC (R119). -/
def clockRead (s : BitVec 1) (d : BitVec 6) (src : Nat) (v : State → Nat) (st : State) : Ans :=
  issueC st s { ctlSpec (isS d) with async := fun _ _ => true } fun st g _ =>
    match st.cdc (st.ctxOf g) st.issuer.group false g.icntC src (v st) with
    | none => .hold st
    | some (st, x) => .done (st.updGroup st.issuer.group fun g => g.holdS (d.toNat - 48) (BitVec.ofNat 64 x))

/-- CLOCK.CYCLE (R119). -/
def execClockCycle (s : BitVec 1) (d : BitVec 6) (st : State) : Ans := clockRead s d 0 (fun st => st.coreCyc (gCore st.issuer.group)) st
/-- CLOCK.HUBCYC (R119). -/
def execClockHubcyc (s : BitVec 1) (d : BitVec 6) (st : State) : Ans := clockRead s d 1 (fun st => st.hubcyc) st
/-- CLOCK.PTPNS (R119, R449). -/
def execClockPtpns (s : BitVec 1) (d : BitVec 6) (st : State) : Ans := clockRead s d 2 (fun st => st.tai) st

/-- The resolution of a GSET over the active threads (R120). -/
def gsetValue (f : Nat) (row : ByteMask) (m : Mask) (b : Nat) : Bool :=
  let on := maskOf m fun t => row.getLsbD (8 * t + b)
  match f with
  | 0 => decide (on ≠ 0)
  | 1 => decide (on = m)
  | 2 => decide (on = 0)
  | 3 => true
  | _ => false

/-- GSET: one resolution for guard slot d, paired with its command or kept (R120, R88). -/
def execGset (s : BitVec 1) (d a b f : BitVec 6) (st : State) : Ans :=
  issueC st s { ctlSpec (lt8 d && lt8 a && lt8 b && decide (f.toNat ≤ 4) && (decide (f.toNat < 3) || (decide (a = 0#6) && decide (b = 0#6)))) with
      pregs := if f.toNat < 3 then [a.toNat] else [] } fun st g sp =>
    let gid := st.issuer.group
    let v := gsetValue f.toNat (g.getP a.toNat) sp.mask b.toNat
    let k := mgetD g.guards d.toNat {}
    match k.cmds with
    | id :: rest =>
      .done ((st.updGroup gid fun g => { g with guards := mput g.guards d.toNat { k with cmds := rest } {} }).resolve gid id v)
    | [] =>
      if 8 ≤ k.res.length then (if g.aend then .trap { cause := .queueError } st else .hold st)
      else .done (st.updGroup gid fun g => { g with guards := mput g.guards d.toNat { k with res := k.res ++ [v] } {} })

/-- AEND: ends the access stream, or in a handler its access part (R146, R411). The group may then leave (R114). -/
def execAend (s : BitVec 1) (st : State) : Ans :=
  issueA st s { legal := true, adv := false } fun st g =>
    .done ((st.putGroup st.issuer.group { g with aend := true }).settle st.issuer.group)

end Sys2Proof.Machine
end

