-- ==== Sys2Proof/Machine/Engines.lean ====
section
/-! DEFINITION. Arrival counters (R101 to R103, R173, R174) and the copy engine: CPY and HAND at issue, and their lines performed one by one
(R169 to R172, R192). -/

namespace Sys2Proof.Machine

/-! Counters. -/

/-- A counter's value raised at its home, in one step, which evaluates the waits on it (R103, R173). -/
def State.addCounter (st : State) (a n : Nat) : State := st.writeAll a 8 ((st.read a 8 + n) % 2 ^ 64)

/-- A counter instruction: its reference checked (R102), then its effect at the counter's home. -/
def counterOp (st : State) (m : BitVec 1) (sp : AccSpec) (a : BitVec 5) (f : State → Group → Nat → IEff) : Ans :=
  issueA st m sp fun st g =>
    match st.counterAt st.issuer.group g (g.getA a.toNat) with
    | .inl t => .trap t st
    | .inr p => f st g p

/-- CTRSET: value := Ab (R173). -/
def execCtrset (s : BitVec 1) (a b : BitVec 5) (st : State) : Ans :=
  counterOp st s { legal := true } a fun st g p => .done (st.writeAll p 8 (g.getA b.toNat).toNat)

/-- CTRSET.T: target := Ab (R173). -/
def execCtrsetT (s : BitVec 1) (a b : BitVec 5) (st : State) : Ans :=
  counterOp st s { legal := true } a fun st g p => .done (st.writeAll (p + 8) 8 (g.getA b.toNat).toNat)

/-- CTRADD: value := value + Ab, modulo 2^64 (R173). -/
def execCtradd (s : BitVec 1) (a b : BitVec 5) (st : State) : Ans :=
  counterOp st s { legal := true } a fun st g p => .done (st.addCounter p (g.getA b.toNat).toNat)

/-- A counter's word read into Ad, asynchronously, logged as CDC (R173, R176). -/
def counterGet (st : State) (m : BitVec 1) (d a : BitVec 5) (off src : Nat) : Ans :=
  counterOp st m { legal := true, async := true } a fun st g p =>
    match st.cdc (st.ctxOf g) st.issuer.group true g.icntA src (st.read (p + off) 8) with
    | none => .hold st
    | some (st, v) => .done (st.updGroup st.issuer.group fun g => g.holdA d.toNat (BitVec.ofNat 64 v))

/-- CTRGET: the value (R173). -/
def execCtrget (s : BitVec 1) (d a : BitVec 5) (st : State) : Ans := counterGet st s d a 0 5
/-- CTRGET.T: the target (R173). -/
def execCtrgetT (s : BitVec 1) (d a : BitVec 5) (st : State) : Ans := counterGet st s d a 8 6

/-- AWAITC: evaluated at the home at issue; where it does not hold the stream waits at the instruction (R174). -/
def awaitCounter (st : State) (m : BitVec 1) (a : BitVec 5) (useT : Bool) (target : Group → Nat) : Ans :=
  counterOp st m { legal := true, adv := false } a fun st g p =>
    let t := target g
    .done (st.updGroup st.issuer.group fun g =>
      if st.reached p useT t then { g with apc := g.apc + 4 } else { g with await := .counter p useT t })

/-- AWAITC Aa, Ab: until value ≥ Ab, unsigned (R173, R174). -/
def execAwaitc (s : BitVec 1) (a b : BitVec 5) (st : State) : Ans := awaitCounter st s a false fun g => (g.getA b.toNat).toNat
/-- AWAITC.T: until value ≥ target (R173, R174). -/
def execAwaitcT (s : BitVec 1) (a : BitVec 5) (st : State) : Ans := awaitCounter st s a true fun _ => 0

/-! Commands of the engines: reading and checking (R169, R170, R225, R226). -/

/-- The coordinates of a box vector in a view of `n` dimensions: dimensions beyond the box stand at 0 (R169). -/
def boxCoord (n : Nat) (o : List Int) (j : List Nat) : List Int :=
  (List.range n).map fun i => if i < o.length then o.getD i 0 + ((j.getD i 0 : Nat) : Int) else 0

/-- A command as its registers give it (R169, R225). -/
structure CmdRead where
  w0 : Nat
  nd : Nat
  src : BitVec 1024
  dst : BitVec 1024
  so : List Int
  dor : List Int
  counts : List Nat
  user : Nat

/-- The count registers of a command: 0 means 65,536 (R169). -/
def Group.countsAt (g : Group) (r n : Nat) : List Nat :=
  (List.range (4 * n)).map fun j =>
    let c := bits (g.getA (r + j / 4)).toNat (16 * (j % 4) + 15) (16 * (j % 4))
    if c = 0 then 65536 else c

/-- Bits [31:0] or [63:32] of a word, signed. -/
def halfS (w : Word) (hi : Bool) : Int := (w.extractLsb' (if hi then 32 else 0) 32).toInt

/-- Checks 1 and 2 of R170 and R226: both slots by R125, then the command's registers. `more` is the number of registers after the counts, as
a function of A[db]; `bad` adds the engine's own code-12 failures. -/
def State.readCmd (st : State) (g : Group) (db : Nat) (more : Nat → Nat) (bad : Nat → Nat → Bool) : Trap ⊕ CmdRead :=
  let w0 := (g.getA db).toNat
  let ss := w0 % 32
  let ds := w0 / 32 % 32
  let src := (st.wgOf g).view ss
  let dst := (st.wgOf g).view ds
  let nd := w0 / 1024 % 16
  let nc := if 4 < nd then 2 else 1
  let last := db + nd + nc + more w0
  let counts := g.countsAt (db + 1 + nd) nc
  if viewCheck src ≠ 0 then .inl (viewFault ss (viewCheck src))
  else if viewCheck dst ≠ 0 then .inl (viewFault ds (viewCheck dst))
  else if nd = 0 ∨ 8 < nd ∨ 31 < last ∨ (counts.drop nd).any (fun c => decide (c ≠ 1)) ∨ bad w0 last then .inl (viewFault ss 12)
  else .inr { w0 := w0, nd := nd, src := src, dst := dst, counts := counts.take nd, user := (g.getA last).toNat
              so := (List.range nd).map fun i => halfS (g.getA (db + 1 + i)) false
              dor := (List.range nd).map fun i => halfS (g.getA (db + 1 + i)) true }

/-- The code-13 failures that concern both views (R170, R226). -/
def CmdRead.clash (k : CmdRead) : Bool :=
  decide (vNdim k.src < k.nd) || decide (vNdim k.dst < k.nd) || decide (vEsizeCode k.src ≠ vEsizeCode k.dst)

/-- The box elements of one side as parts: the position is the element's number in the box, its low 8 bits in a BOUNDS detail (R130). -/
def sideParts (d : BitVec 1024) (o : List Int) (counts : List Nat) : List Part :=
  (boxOf counts).zipIdx.map fun e => { p := e.2 % 256, coord := boxCoord (vNdim d) o e.1 }

/-- The bounds of both sides, then their addresses (R170 check 6, R129): the trap, or whether some element is out of bounds. -/
def State.reachBoth (st : State) (g : Group) (k : CmdRead) : Trap ⊕ Bool :=
  let a := st.reach g k.src (sideParts k.src k.so k.counts)
  let b := st.reach g k.dst (sideParts k.dst k.dor k.counts)
  match a, b with
  | .trap t, .trap u => .inl (if t.cause ≠ .bounds ∧ u.cause = .bounds then u else t)
  | .trap t, _ => .inl t
  | _, .trap u => .inl u
  | .ok _ x, .ok _ y => .inr (x || y)

/-- A command queued at an engine, after its guard paired (R88, R89): `put` adds it to the queue. -/
def State.queueCmd (st : State) (g : Group) (guard : Option Nat) (oob : Bool) (cmd : EngCmd) (put : EngCmd → Cluster → Cluster) : IEff :=
  let gid := st.issuer.group
  let fin := fun (st : State) => IEff.done (st.flagOob gid oob)
  let add := fun (st : State) (g : Group) (c : EngCmd) => fin ((st.putGroup gid { g with nextId := cmd.id + 1 }).updCluster (gCluster gid) (put c))
  match guard with
  | none => add st g cmd
  | some slot =>
    match g.pair slot cmd.id with
    | none => .hold st
    | some (g, some false) => fin (st.putGroup gid { g with nextId := cmd.id + 1 })
    | some (g, r) => add st g { cmd with guard := some cmd.id, resolved := r.isSome }

/-! CPY and HAND. -/

/-- The die a HAND's destination lies on: the other die of the pair (R12, R172). -/
def pairDie (die : Nat) : Nat := if die ≤ 4 then die + 4 else die - 4

/-- The checks of CPY and HAND in their order (R169, R170, R172): the trap, or the command with whether an element is out of bounds. -/
def State.copyCheck (st : State) (g : Group) (hand : Bool) (db ctr : Nat) : Trap ⊕ (EngCmd × Bool) :=
  let gid := st.issuer.group
  match st.readCmd g db (fun _ => 0) (fun w0 _ => decide (w0 / 2 ^ 14 ≠ 0)) with
  | .inl t => .inl t
  | .inr k =>
    let ss := k.w0 % 32
    let ds := k.w0 / 32 % 32
    if k.clash ∨ vSpace k.src = 4 then .inl (viewFault ss 13)
    else if vSpace k.dst = 4 ∨ (hand ∧ vSpace k.dst ≠ 1) then .inl (viewFault ds 13)
    else if vRonly k.dst ∨ (hand ∧ dieDev st.mode (gDie gid) ≠ dieDev st.mode (pairDie (gDie gid))) then .inl { cause := .prot }
    else
      let ref := if ctr = 0 then .inr none else match st.counterAt gid g (g.getA ctr) with
        | .inl t => Sum.inl t
        | .inr p => .inr (some p)
      match ref with
      | .inl t => .inl t
      | .inr c =>
        match st.reachBoth g k with
        | .inl t => .inl t
        | .inr oob =>
          .inr ({ id := g.nextId, kind := if hand then .hand else .cpy, group := gid, wg := g.wg, ctx := st.ctxOf g, src := k.src, dst := k.dst
                  so := k.so, dor := k.dor, counts := k.counts, counter := c, trap := g.tlevel }, oob)

/-- CPY and HAND at issue: checked, then queued at the copy engine. -/
def copyIssue (st : State) (g : Group) (hand : Bool) (db ctr : Nat) (guard : Option Nat) : IEff :=
  match st.copyCheck g hand db ctr with
  | .inl t => .trap t st
  | .inr (cmd, oob) => st.queueCmd g guard oob cmd fun c k => { k with copyQ := k.copyQ ++ [c] }

/-- CPY (R169, R170). -/
def execCpy (s : BitVec 1) (d c : BitVec 5) (g : BitVec 3) (e : BitVec 1) (st : State) : Ans :=
  issueA st s { legal := guardOk g e } fun st gr => copyIssue st gr false d.toNat c.toNat (if e = 1#1 then some g.toNat else none)

/-- HAND (R172). -/
def execHand (s : BitVec 1) (d c : BitVec 5) (g : BitVec 3) (e : BitVec 1) (st : State) : Ans :=
  issueA st s { legal := guardOk g e } fun st gr => copyIssue st gr true d.toNat c.toNat (if e = 1#1 then some g.toNat else none)

/-! The copy engine. -/

/-- The space address of an element of a view, none where it is out of bounds. -/
def elemOf (d : BitVec 1024) (o : List Int) (j : List Nat) : Option Nat :=
  let c := boxCoord (vNdim d) o j
  if (oobDim d c).isSome then none else some (elemAddr d c).toNat

/-- Source and destination addresses of every element of a command, in walking order. -/
def EngCmd.pairs (e : EngCmd) : List (Option Nat × Option Nat) := (boxOf e.counts).map fun j => (elemOf e.src e.so j, elemOf e.dst e.dor j)

/-- The bytes of a command's box, dropped elements included (R170). -/
def EngCmd.total (e : EngCmd) : Nat := boxSize e.counts * vEsize e.src

/-- The place of a space address for a command's group, by line: GLOB keeps the virtual address; HAND's destination lies on the paired die. -/
def State.engAddr (st : State) (e : EngCmd) (dst : Bool) (x : Nat) : Nat :=
  let d := if dst then e.dst else e.src
  let g := mgetD st.groups e.group { wg := e.wg }
  if vSpace d = 0 then x
  else if dst ∧ e.kind = .hand then
    let die := pairDie (gDie e.group)
    flatDie die (mgetD (st.ctx e.ctx).dieBase die 0 + x)
  else st.spaceFlat e.group g (vSpace d) 0 x

/-- The record of a scratchpad event of an engine (R424): REQ 16 copy, 17 fabric; a HAND write is REQ 0 at PORT 255 of the paired die. -/
def State.scratchEng (st : State) (c gid unit pa : Nat) (handed : Bool) : Option State :=
  let cl := gCluster gid
  if handed then st.scratch c (710 + pairDie (gDie gid)) 1 255 0
  else if pa < 2 ^ 61 then st.scratch c (710 + gDie gid) 1 (clusterInDie cl) unit
  else if pa < 2 ^ 62 then st.scratch c cl 2 0 unit
  else st.scratch c cl 3 (1 + pa % 2 ^ 62 / 2 ^ 20 % 4) unit

/-- An engine's read of one GLOB line at its die's L2, or at the L3 for a host line (R192, R208, R213): an undeclared access of its context, which hits the line or
has filled it (R133, R135, R138), in the class `cls` (R131, R331). -/
def State.engineRead (st : State) (die cl unit c line cls : Nat) (tracked host : Bool) : Option (Nat × State) :=
  if host then (if st.l3Read line 3 then (st.l3Gate false tracked die 3 line).map fun st => (st.read line 128, st) else none)
  else if !st.mayRead die line then none else
    let st := st.meetL2 die line c
    match mget (st.die die).l2 line with
    | none => none
    | some l =>
      match st.home c cl unit 0 l.wts 0 0 tracked with
      | none => none
      | some (st, t) =>
        if tracked ∧ t ≠ l.wts then none
        else
          let st := st.updDie die fun d => { d with l2 := mset d.l2 line { l.touch (streamRank cls) c with nread := if tracked then l.nread + 1 else l.nread } }
          some (st.read line 128, st.passLine die line)

/-- The byte positions of a line that are poisoned. -/
def State.poisonMask (st : State) (line : Nat) : BitVec 128 :=
  if st.poisoned = [] then 0 else BitVec.ofNat 128 (packN 1 ((List.range 128).map fun i => if st.poisonedAt (line + i) 1 then 1 else 0))

/-- How an engine's access to one line ends: done; not now; not now, with D set in the table first (R332); the page is missing; or no permission. -/
inductive EngEnd where
  | done (st : State)
  | wait (st : State)
  | later (st : State)
  | miss (st : State) (page : Nat) (t : Trap)
  | prot (st : State) (t : Trap)

/-- The place of an engine's line in a page's queue (R195). -/
def EngCmd.moveOf (e : EngCmd) (va : Nat) : MoveWait := { ctx := e.ctx, page := va / 2 ^ 16 % 2 ^ 36, group := e.group, id := e.id, va := va }

/-- An engine's line of GLOB waits: its page is blocked, where it queues, or a die quiesces, or another event comes before it at a moved page (R195, R416). -/
def State.engWaits (st : State) (e : EngCmd) (va pa : Nat) : Option State :=
  if st.migrating pa then some (st.moveCome (e.moveOf va))
  else if st.quiescing pa || !st.moveTurn (e.moveOf va) then some st
  else none

/-- A command replaced in its cluster's queues. -/
def State.putCmd (st : State) (e : EngCmd) : State :=
  let f := fun (q : List EngCmd) => q.map fun x => if x.group = e.group ∧ x.id = e.id then e else x
  st.updCluster (gCluster e.group) fun k => { k with copyQ := f k.copyQ, fabQ := f k.fabQ }

/-- A command gone from its cluster's queues. -/
def State.dropCmd (st : State) (e : EngCmd) : State :=
  let f := fun (q : List EngCmd) => q.filter fun x => !(decide (x.group = e.group) && decide (x.id = e.id))
  st.updCluster (gCluster e.group) fun k => { k with copyQ := f k.copyQ, fabQ := f k.fabQ }

/-- One source line of a command read into its snapshot (R170, R192): `line` is virtual for GLOB, flat elsewhere; `low` the lowest element
byte. The command with the snapshot comes back. -/
def State.snapLine (st : State) (e : EngCmd) (path unit line low : Nat) : EngEnd × EngCmd :=
  match mget e.snap line with
  | some _ => (.done st, e)
  | none =>
    let keep := fun (st : State) (pa v : Nat) => { e with snap := mset e.snap line (BitVec.ofNat 1024 v, st.poisonMask pa) }
    if vSpace e.src = 0 then
      match st.access e.ctx (.engine e.group) low .r path false with
      | .wait => (.wait st, e)
      | .fault page t st => (.miss st page t, e)
      | .prot t st => (.prot st t, e)
      | .ok leaf pa st =>
        let l := lineOf pa
        match st.engWaits e low pa with
        | some st => (.wait st, e)
        | none =>
        match st.lostTrap pa with
        | some t => (.prot st { t with addr := low }, e)
        | none =>
        match st.engineRead (gDie e.group) (gCluster e.group) unit e.ctx l (effClass (vClass e.src) leaf) (st.tracked e.ctx leaf) (hostPage leaf l) with
        | none => (.wait st, e)
        | some (v, st) => (.done (st.moveGone (e.moveOf low)), keep st l v)
    else match st.scratchEng e.ctx e.group unit line false with
      | none => (.wait st, e)
      | some st => (.done st, keep st line (st.read line 128))

/-- The source lines of some elements, each with its lowest element address, ascending. -/
def srcLines (as : List Nat) : List (Nat × Nat) :=
  (orderBy (as.map lineOf).eraseDups (· ≤ ·)).map fun l => (l, ((as.filter fun a => decide (lineOf a = l)).min?).getD l)

/-- Source lines read until one cannot be (R170, R171). -/
def State.snapLines (st : State) (e : EngCmd) (path unit : Nat) (ls : List (Nat × Nat)) : EngEnd × EngCmd :=
  match ls with
  | [] => (.done st, e)
  | l :: r =>
    match st.snapLine e path unit l.1 l.2 with
    | (.done st, e) => State.snapLines st e path unit r
    | q => q

/-- An element's bytes from the snapshot: 0 where it is out of bounds (R170, R226), with whether a byte of it is poisoned. One that a swizzle puts across two lines
is taken from both. -/
def EngCmd.elem (e : EngCmd) (a : Option Nat) : Nat × Bool :=
  match a with
  | none => (0, false)
  | some a =>
    let n := vEsize e.src
    let lo := mgetD e.snap (lineOf a) (0, 0)
    let hi := mgetD e.snap (lineOf a + 128) (0, 0)
    let d := lo.1.toNat + hi.1.toNat * 2 ^ 1024
    let m := lo.2.toNat + hi.2.toNat * 2 ^ 128
    (d / 2 ^ (8 * (a % 128)) % 2 ^ (8 * n), decide (m / 2 ^ (a % 128) % 2 ^ n ≠ 0))

/-- One destination line of a command written: its elements in walking order, the later one on a shared byte (R170). Bytes for a lost die are discarded, with
a deferred DIE_LOST (R417). -/
def State.copyWrite (st : State) (e : EngCmd) (line : Nat) (es : List (Option Nat × Nat)) : EngEnd :=
  let n := vEsize e.dst
  let vals := es.map fun p => (p.2 - line, e.elem p.1)
  let (mask, v) := storeBytes n (es.zipIdx.map fun q => { off := q.1.2 - line, pos := q.2, val := (e.elem q.1.1).1, skip := line - q.1.2 })
  let soil := fun (st : State) (pa : Nat) => vals.foldl (fun s q => if q.2.2 then s.poison (pa + q.1) else s) st
  if vSpace e.dst = 0 then
    let low := line + ((vals.map (·.1)).min?).getD 0
    match st.access e.ctx (.engine e.group) low .w 1 true with
    | .wait => .wait st
    | .fault page t st => .miss st page t
    | .prot t st => .prot st t
    | .ok leaf pa st =>
      let l := lineOf pa
      match st.engWaits e low pa with
      | some st => .wait st
      | none =>
      match st.lostTrap pa with
      | some t => .done (st.defer e.group { t with addr := low })
      | none =>
      let cls := effClass (vClass e.dst) leaf
      let clean := (st.cleanLeaf e.ctx (.engine e.group) low).isSome
      match st.setDirty e.ctx (.engine e.group) low with
      | none => .wait st
      | some st =>
      match st.storeLine (gDie e.group) (gCluster e.group) 16 e.ctx l cls none (st.tracked e.ctx leaf) (hostPage leaf l) (streamRank cls) false
          (fun _ => (mask, v)) with
      | none => if clean then .later st else .wait st
      | some (_, st) => .done ((soil st l).moveGone (e.moveOf low))
  else match st.scratchEng e.ctx e.group 16 line (decide (e.kind = .hand)) with
    | none => .wait st
    | some st =>
      if st.quiescing line then .wait st else
      match st.lostTrap line with
      | some t => .done (st.defer e.group { t with addr := line % 2 ^ 32 })
      | none => .done (soil (st.write line 128 mask v) line)

/-- The additions of a queue's commands as far as issue order lets them go (R170): a command's owed bytes are added once no earlier command of its
group names the same counter; finished commands that owe nothing leave. -/
def State.payOwed (st : State) (cl : Nat) : State :=
  let step := fun (acc : State × List EngCmd) (e : EngCmd) =>
    match e.counter with
    | some a =>
      if e.owed ≠ 0 ∧ !acc.2.any (fun x => decide (x.group = e.group) && decide (x.counter = some a)) then
        (acc.1.addCounter a e.owed, if e.finished then acc.2 else acc.2 ++ [{ e with owed := 0, added := e.added + e.owed }])
      else (acc.1, if e.finished && decide (e.owed = 0) then acc.2 else acc.2 ++ [e])
    | none => (acc.1, if e.finished then acc.2 else acc.2 ++ [e])
  let r := (st.cluster cl).copyQ.foldl step (st, [])
  r.1.updCluster cl fun k => { k with copyQ := r.2 }

/-- A command ends at a line it may not move (R171): the rest is not moved, its counter receives no further addition, and the group takes the
deferred trap. -/
def State.failCmd (st : State) (e : EngCmd) (t : Trap) : State :=
  (((st.dropCmd e).payOwed (gCluster e.group)).defer e.group t).settleWg e.group e.wg

/-- A command that an engine can serve now: resolved, not held for a page, its group's earlier commands begun and none of them held so (R89, R170, R171); a
new one only on a die that is up, for a context that runs (R352, R412, R416). -/
def State.canServe (st : State) (q : List EngCmd) (e : EngCmd) : Bool :=
  let before := (q.takeWhile fun x => !(decide (x.group = e.group) && decide (x.id = e.id))).filter fun x => decide (x.group = e.group)
  e.resolved && e.paged.isNone && before.all (fun x => x.started && x.paged.isNone)
    && (e.started || (decide ((st.die (gDie e.group)).state = .up) && (match mget st.groups e.group with
        | some g => st.runs g
        | none => decide ((st.ctx e.ctx).state = .running))))

/-- A command that may be served now: one begun, or the head that comes next, those of groups at trap level ahead, then the oldest (R86, R89); on replay the log names
the head (R425). -/
def State.mayServe (st : State) (q : List EngCmd) (e : EngCmd) : Bool :=
  let ahead := fun (x : EngCmd) => !x.started && st.canServe q x
  let before := q.takeWhile fun x => !(decide (x.group = e.group) && decide (x.id = e.id))
  st.canServe q e && (e.started || ((st.ctx e.ctx).replay.any fun r => !r.off) || !((q.any fun x => x.trap && !e.trap && ahead x) || before.any fun x => (x.trap || !e.trap) && ahead x))

/-- A command begun: the head choice logged (R89, R423). -/
def State.startCmd (st : State) (e : EngCmd) (fabric : Bool) : Option (State × EngCmd) :=
  if e.started then some (st, e) else
    (st.sched e.ctx (gCluster e.group) 10 ((if fabric then 1 else 0) + gCore e.group % 4 * 2) (e.group % 128) none).map fun st =>
      (st, { e with started := true })

/-- What an engine's line gave its command: a page to bring holds it; a declined page or a missing permission ends it (R171, R227). -/
def State.endLine (st0 : State) (e : EngCmd) (r : EngEnd) (k : State → EngCmd → State) : State :=
  match r with
  | .done st => k st { e with paged := none }
  | .wait st => { st0 with moveQ := st.moveQ }
  | .later st => st.putCmd e
  | .prot st t => st.failCmd e t
  | .miss st page t =>
    let r := st.askPage e.ctx e.group page t
    if r.declined then r.st.failCmd e t else r.st.putCmd { e with paged := some (page, t) }

/-- A copy's element addresses: source and destination, none where out of bounds (R170). -/
def State.copyPairs (st : State) (e : EngCmd) : List (Option Nat × Option Nat) :=
  e.pairs.map fun p => (p.1.map (st.engAddr e false), p.2.map (st.engAddr e true))

/-- The lines that elements of `n` bytes lie in, by an address in each. -/
def spread (n : Nat) (as : List Nat) : List Nat := as.flatMap fun a => if lineOf (a + n - 1) = lineOf a then [a] else [a, lineOf a + 128]

/-- The destination lines a copy has still to write. -/
def EngCmd.todo (e : EngCmd) (ps : List (Option Nat × Option Nat)) : List Nat :=
  ((spread (vEsize e.dst) (ps.filterMap (·.2))).map lineOf).eraseDups.filter fun l => !(decide (l ∈ e.dests))

/-- The elements of `n` bytes of a copy that a destination line takes, in whole or in part. -/
def copyInto (n : Nat) (ps : List (Option Nat × Option Nat)) (line : Nat) : List (Option Nat × Nat) :=
  ps.filterMap fun p => match p.2 with
    | some d => if lineOf d = line ∨ lineOf (d + n - 1) = line then some (p.1, d) else none
    | none => none

/-- The bytes of a copy's elements that a destination line takes. -/
def copyBytes (n : Nat) (es : List (Option Nat × Nat)) (line : Nat) : Nat :=
  es.foldl (fun k p => k + (min (p.2 + n) (line + 128) - max p.2 line)) 0

/-- The source lines a copy reads of one line's elements of `n` bytes. -/
def copyReads (n : Nat) (ps : List (Option Nat × Option Nat)) (line : Nat) : List (Nat × Nat) :=
  srcLines ((spread n (ps.filterMap fun p => match p.1, p.2 with
    | some a, some _ => some a
    | _, _ => none)).filter fun a => decide (lineOf a = line))

/-- A copy ended: the counter receives the rest of its box, and its group may retire (R170). -/
def State.endCopy (st : State) (gid : Nat) (e : EngCmd) : State :=
  ((st.putCmd { e with finished := true, owed := e.total - e.added }).payOwed (gCluster gid)).settleWg gid e.wg

/-- A destination line of a copy written: the `n` bytes it stored are owed to the counter; the last one ends it (R170). -/
def State.copied (st : State) (gid : Nat) (e : EngCmd) (line n : Nat) (last : Bool) : State :=
  let e := { e with dests := line :: e.dests, owed := e.owed + n }
  if last then st.endCopy gid e else (st.putCmd e).payOwed (gCluster gid)

/-- COPY_LINE: one line of a CPY or HAND of a group: with `rd` a source line read; else a destination line written, the source lines it needs read
first if they have not been. After the last line the counter receives the rest of the box (R170). -/
def execCopyLine (gid id line : Nat) (rd : Bool) (st : State) : Ans :=
  let q := (st.cluster (gCluster gid)).copyQ
  .next (match q.find? fun x => decide (x.group = gid) && decide (x.id = id) with
    | none => st
    | some e =>
      if !st.mayServe q e || e.finished then st else
      match st.startCmd e false with
      | none => st
      | some (st1, e) =>
        let ps := st1.copyPairs e
        if rd then
          let r := st1.snapLines e 1 16 (copyReads (vEsize e.src) ps line)
          st.endLine r.2 r.1 fun st e => st.putCmd e
        else if e.todo ps = [] then st1.endCopy gid e
        else if line ∈ e.todo ps then
          let es := copyInto (vEsize e.dst) ps line
          match st1.snapLines e 1 16 (srcLines (spread (vEsize e.src) (es.filterMap (·.1)))) with
          | (.done st2, e') => st.endLine e' (st2.copyWrite e' line es) fun st x =>
              st.copied gid x line (copyBytes (vEsize e.dst) es line) (decide (e.todo ps = [line]))
          | (r, e) => st.endLine e r fun st e => st.putCmd e
        else st)

end Sys2Proof.Machine
end

