-- ==== Sys2Proof/Machine/Matrix.lean ====
section
/-! DEFINITION. The matrix engine: tile handles, the instructions that post entries, the grant of a pass, and what a pass, a read, a write or a move
of cells does when it is performed (R299 to R320, R87, R258 to R260). -/

namespace Sys2Proof.Machine

/-! Handles and windows (R301 to R304). -/

/-- Rows of a bound region (R301). -/
def Tile.nr (t : Tile) : Nat := 32 * (bits t.word 11 8 + 1)
/-- Columns of a bound region (R301). -/
def Tile.nc (t : Tile) : Nat := 32 * (bits t.word 16 12 + 1)
/-- Rows of each member's part (R302). -/
def Tile.part (t : Tile) : Nat := t.nr / 2 ^ bits t.word 18 17
/-- The cells are F32 (R301). -/
def Tile.isF32 (t : Tile) : Bool := decide (bits t.word 19 19 = 0)

/-- The cell of a region at a row and column (R302). -/
def Tile.cell (t : Tile) (r c : Nat) : CellRef :=
  { wg := t.members.getD (r / t.part) 0, row := bits t.word 7 0 + r % t.part, col := c }

/-- The window word's check (R304): its first cell, or the trap. -/
def Tile.window (t : Tile) (w : Nat) : Trap ⊕ CellRef :=
  let r := w % 2 ^ 16
  let c := w / 2 ^ 16 % 2 ^ 16
  if r % 32 ≠ 0 ∨ c % 32 ≠ 0 then .inl { cause := .misalign }
  else if t.nr ≤ r ∨ t.nc ≤ c then .inl { cause := .bounds }
  else .inr (t.cell r c)

/-- The team block of a workgroup (R302). -/
def teamOf (lin n : Nat) : List Nat := (List.range n).map fun i => lin / n * n + i

/-- The workgroups of the team that a TBIND word names, by their serials (R51, R302, R303). -/
def State.teamKeys (st : State) (g : Group) (x : Nat) : List Nat :=
  (teamOf (st.wgOf g).lin (2 ^ bits x 18 17)).map fun i => wgKey (st.wgOf g).ctx (((st.gridOf (st.wgOf g)).base + i) % 2 ^ 39)

/-- The dies on which the placed members of a list of workgroups stand. -/
def State.teamDies (st : State) (keys : List Nat) : List Nat :=
  (keys.filterMap fun k => match mget st.workgroups k with
    | some m => if m.state = .placed ∧ !m.parked then some (clusterDie (m.core / 4)) else none
    | none => none).eraseDups

/-- The trap a TBIND takes, none where it binds (R303): of its word, the handle, the parts, the grid, the team and the rows, in that order. -/
def State.tbindTrap (st : State) (g : Group) (t x : Nat) : Option Trap :=
  let w := st.wgOf g
  let gr := st.gridOf w
  let n := 2 ^ bits x 18 17
  let nr := 32 * (bits x 11 8 + 1)
  if x / 2 ^ 20 ≠ 0 then some (illegal 1)
  else if (mget g.tiles t).isSome then some (illegal 3)
  else if nr / n % 32 ≠ 0 ∨ nr / n = 0 then some (illegal 2)
  else if 1 < n ∧ gr.desc.flags % 2 = 0 then some (mismatch 5)
  else if gr.total < w.lin / n * n + n ∨ 1 < (st.teamDies (st.teamKeys g x)).length then some (mismatch 6)
  else if gr.desc.acc < bits x 7 0 + nr / n then some { cause := .bounds }
  else none

/-- TBIND (R303). -/
def execTbind (s : BitVec 1) (t : BitVec 3) (r : BitVec 4) (st : State) : Ans :=
  issueC st s { ctlSpec true with srcs := [BitVec.ofNat 6 (48 + r.toNat)] } fun st g _ =>
    let x := (g.getS r.toNat).toNat
    match st.tbindTrap g t.toNat x with
    | some tr => .trap tr st
    | none => .done (st.putGroup st.issuer.group { g with tiles := mset g.tiles t.toNat { word := x, members := st.teamKeys g x } })

/-- TFREE: unbinds the handle; entries keep their binding (R316). -/
def execTfree (s : BitVec 1) (t : BitVec 3) (st : State) : Ans :=
  groupOp st s (ctlSpec true) fun g _ => .done { g with tiles := merase g.tiles t.toNat }

/-! Posting entries (R87). -/

/-- A workgroup's ACC rows can be reached: it is placed and not parked (R319). -/
def State.reachable (st : State) (w : Nat) : Bool :=
  match mget st.workgroups w with
  | some m => decide (m.state = .placed) && !m.parked
  | none => false

/-- The cluster whose engine takes an entry: the member's, or the poster's while the member is not placed (R302, R319). -/
def State.engineOf (st : State) (gid w : Nat) : Nat :=
  if st.reachable w then (mgetD st.workgroups w { ctx := 0, grid := 0 }).core / 4 else gCluster gid

/-- The lowest free slot of a reservation table. -/
def freeRes (r : List ResEntry) : Option Nat := (List.range 32).find? fun i => !r.any fun e => decide (e.slot = i)

/-- A split that stalled on a full table still stands there. -/
def State.stillPosting (st : State) (p : Nat × Nat × Word) : Bool :=
  match mget st.groups p.1 with
  | none => false
  | some g => st.runs g && g.entering.isNone && (g.tlevel == decide (p.2.1 = 5)) && (g.splitAt p.2.1).any fun s => s.issues && decide (s.pc = p.2.2)

/-- The stalled split that takes the next freed entry of an engine's table: one at trap level first (R86), then the oldest (R87). -/
def State.nextPost (st : State) (cl : Nat) : Option (Nat × Nat × Word) :=
  let q := (st.cluster cl).postQ.filter st.stillPosting
  (q.find? fun p => decide (p.2.1 = 5)).or q.head?

/-- Entries posted, each to its engine, or none where a table is full or another split has stalled on it for longer (R87). -/
def State.post (st : State) (me : Nat × Nat × Word) (es : List (Nat × ResEntry)) : Option State :=
  match es with
  | [] => some st
  | (cl, e) :: r =>
    match freeRes (st.cluster cl).res with
    | none => none
    | some i =>
      if (st.nextPost cl).all fun p => decide (p = me) then
        (st.updCluster cl fun k => { k with res := k.res ++ [{ e with slot := i, posted := st.coreCyc (4 * cl) }] }).post me r
      else none

/-- A split's place among those stalled on the tables of some engines: taken, or kept where it has one already; or given up. -/
def State.postWaits (st : State) (me : Nat × Nat × Word) (cls : List Nat) (on : Bool) : State :=
  cls.foldl (fun st cl => st.updCluster cl fun k =>
    { k with postQ := if on then (if me ∈ k.postQ then k.postQ else k.postQ.filter st.stillPosting ++ [me]) else k.postQ.filter fun p => decide (p ≠ me) }) st

/-- An entry of the issuing group with the fields every kind shares. -/
def State.entryOf (st : State) (g : Group) (t : Nat) (tl : Tile) (kind : MKind) (m : Mask) : ResEntry :=
  { id := g.nextId, group := st.issuer.group, wg := g.wg, ctx := st.ctxOf g, tile := t, kind := kind, mask := m, f32 := tl.isF32
    prio := (st.gridOf (st.wgOf g)).desc.flags / 2 % 4, trap := g.tlevel }

/-- The issuing group after its entries have been posted: the next number, what else the issue does to it, and OOB where an element was out of
bounds (R311, R314). -/
def State.posted (st : State) (f : Group → Group) (oob : Bool) : State :=
  st.updGroup st.issuer.group fun g =>
    let g := f { g with nextId := g.nextId + 1 }
    if oob then g.raise fOOB else g

/-- The issuing split as it stands among those stalled on a table: its group, its slot and its PC. -/
def State.poster (st : State) : Nat × Nat × Word :=
  (st.issuer.group, st.issuer.slot, ((mget st.groups st.issuer.group).bind fun g => (g.splitAt st.issuer.slot).map fun s => s.pc).getD 0)

/-- Entries of the issuing split posted, its places among the stalled given up; none where a table is full or another split's turn comes first (R87). -/
def State.postHere (st : State) (es : List (Nat × ResEntry)) : Option State :=
  (st.post st.poster es).map fun x => x.postWaits st.poster (es.map (·.1)) false

/-- The end of an issue that posts: the entries join their tables, or the split stalls before any copy is taken (R312). -/
def postAll (st : State) (es : List (Nat × ResEntry)) (f : Group → Group) (oob : Bool) : IEff :=
  match st.postHere es with
  | none => .hold (st.postWaits st.poster (es.map (·.1)) true)
  | some x => .done (x.posted f oob)

/-- A handle of the issuing group, or ILLEGAL_OP 3 (R312). -/
def withTile (st : State) (g : Group) (t : Nat) (k : Tile → IEff) : IEff :=
  match mget g.tiles t with
  | some tl => k tl
  | none => .trap (illegal 3) st

/-- A window of a handle, or its trap (R304). -/
def withWindow (st : State) (tl : Tile) (w : Nat) (k : CellRef → IEff) : IEff :=
  match tl.window w with
  | .inl t => .trap t st
  | .inr c => k c

/-- The S registers an instruction reads, as source fields. -/
def sRegs (r n : Nat) : List (BitVec 6) := (List.range n).map fun i => BitVec.ofNat 6 (48 + (r + i) % 16)
/-- Eight consecutive V registers, as source fields. -/
def vRegs (a : BitVec 6) : List (BitVec 6) := (List.range 8).map fun i => BitVec.ofNat 6 (a.toNat + i)

/-- What a matrix instruction of the compute stream checks: it ignores the guard (R306). -/
def mSpec (legal : Bool) (srcs : List (BitVec 6)) : IssueSpec := { legal := legal, guarded := false, srcs := srcs }

/-- TZERO: writes 0 to the window's rows in the row mask (R313). -/
def execTzero (s : BitVec 1) (t : BitVec 3) (r : BitVec 4) (st : State) : Ans :=
  issueC st s (mSpec true (sRegs r.toNat 1)) fun st g sp =>
    withTile st g t.toNat fun tl => withWindow st tl ((g.getS r.toNat).toNat / 2 ^ 32) fun c =>
      postAll st [(st.engineOf st.issuer.group c.wg, { st.entryOf g t.toNat tl .zero sp.mask with win := c })] id false

/-- TZERO.ALL: one entry for each member, writing its whole part (R313). -/
def execTzeroAll (s : BitVec 1) (t : BitVec 3) (st : State) : Ans :=
  issueC st s (mSpec true []) fun st g sp =>
    withTile st g t.toNat fun tl =>
      postAll st (tl.members.map fun w => (st.engineOf st.issuer.group w,
        { st.entryOf g t.toNat tl .zeroAll sp.mask with win := { wg := w, row := bits tl.word 7 0, col := 0 }, rows := tl.part, cols := tl.nc })) id false

/-! The multiplies (R305 to R312). -/

/-- Elements along k of a shape (R305). -/
def shapeK (k : Nat) : Nat := 32 * 2 ^ k
/-- Element width of a shape's A operand (R305). -/
def shapeW (k : Nat) : Nat := 16 / 2 ^ k

/-- The formats and the cell type agree for a shape (R307). -/
def typesOk (k : Nat) (a b : ETy) (f32 : Bool) : Bool :=
  let in_ := fun (l : List ETy) => decide (a ∈ l) && decide (b ∈ l)
  match k with
  | 0 => in_ [.f16, .bf16] && f32
  | 1 => (in_ [.f8n, .f8w] && f32) || in_ [.i8, .n8]
  | 2 => in_ [.i4]
  | _ => false

/-- A format block (R309). -/
structure FormatBlock where
  bsv : Nat
  asv : Nat
  acc : Nat
  bl : Nat
  bf : Nat
  af : Nat
  bidx : Nat
  bks : Nat
  aidx : Nat
  aks : Nat

/-- The format block of two words. -/
def blockOf (x y : Nat) : FormatBlock :=
  { bsv := bits x 25 21, asv := bits x 20 16, acc := bits x 15 12, bl := bits x 11 8, bf := bits x 7 4, af := bits x 3 0
    bidx := bits y 63 48, bks := bits y 47 32, aidx := bits y 31 16, aks := bits y 15 0 }

/-- The format block's fields are legal (R309, ILLEGAL_OP 1). -/
def blockOk (x y : Nat) : Bool :=
  let b := blockOf x y
  decide (bits x 31 26 = 0) && decide (b.bl ≤ 4) && (decide (b.acc = 4) || decide (b.acc = 10))
    && (decide (b.bl ≠ 0) || (decide (b.asv = 0) && decide (b.bsv = 0) && decide (y = 0)))

/-- MMAS's formats and ACC (R309). -/
def mmasTypes (k : Nat) (b : FormatBlock) (f32 : Bool) : Bool :=
  decide ((b.acc = 10) = f32) &&
    (if b.bl = 0 then typesOk k (etyOf b.af) (etyOf b.bf) f32
     else
       let ok := fun (t : ETy) => decide (t ∈ [ETy.f8n, .f8w, .i8, .i4]) && decide (t.width = shapeW k)
       decide (b.acc = 10) && ok (etyOf b.af) && ok (etyOf b.bf))

/-- MMAT's formats and ACC (R309). -/
def mmatTypes (b : FormatBlock) (f32 : Bool) : Bool :=
  decide ((b.acc = 10) = f32) && decide (b.af = 15) && decide (b.bf = 0) && (decide (b.bl = 0) || decide (b.acc = 10))

/-- Block length of a BL code: 32, 64, 128 or 256 (R309). -/
def blockLenOf (bl : Nat) : Nat := 32 * 2 ^ (bl - 1)

/-- A CLUS view as an entry keeps it, from its slot's checks and the bounds of the coordinates it will read (R310, R311): the reference and whether
some element is out of bounds, or the trap. Positions in a BOUNDS detail count the coordinates in the order given. -/
def State.tileRef (st : State) (g : Group) (slot ec : Nat) (o0 o1 : Int) (coords : List (List Int)) : Trap ⊕ (TileRef × Bool) :=
  let d := (st.wgOf g).view slot
  if viewCheck d ≠ 0 then .inl (viewFault slot (viewCheck d))
  else if vSpace d ≠ 2 ∨ vEsizeCode d ≠ ec ∨ vNdim d ≠ 2 then .inl (viewFault slot 13)
  else match st.reach g d (coords.zipIdx.map fun e => { p := e.2 % 256, coord := e.1 }) with
    | .trap t => .inl t
    | .ok _ oob => .inr ({ desc := d, o0 := o0, o1 := o1, base := st.spaceFlat st.issuer.group g 2 0 0 }, oob)

/-- The coordinates a pass reads of its B tile (R311). -/
def btileCoords (k : Nat) (n0 k0 : Int) : List (List Int) :=
  (List.range (shapeK k)).flatMap fun q => (List.range 32).map fun j => [n0 + (j : Int), k0 + (q : Int)]

/-- The coordinates a pass reads of a scale view (R310): the blocks its k range meets, for the lines in use. -/
def scaleCoords (k ks l idx : Nat) (use : List Nat) : List (List Int) :=
  let b0 := ks / l
  let b1 := (ks + shapeK k - 1) / l
  use.flatMap fun i => (List.range (b1 + 1 - b0)).map fun b => [((b0 + b : Nat) : Int), ((idx + i : Nat) : Int)]

/-- The B tile of an entry at issue, where it has one. -/
def State.btileRef (st : State) (g : Group) (k : Nat) (slot : Option Nat) (nk : Word) : Trap ⊕ (Option TileRef × Bool) :=
  match slot with
  | none => .inr (none, false)
  | some v =>
    let n0 := halfS nk true
    let k0 := halfS nk false
    match st.tileRef g v (if k = 0 then 1 else 0) n0 k0 (btileCoords k n0 k0) with
    | .inl t => .inl t
    | .inr (r, oob) => .inr (some r, oob)

/-- The two scale views of an entry at issue (R310). -/
def State.scaleRefs (st : State) (g : Group) (k : Nat) (b : FormatBlock) (m : Mask) : Trap ⊕ (TileRef × TileRef × Bool) :=
  if b.bl = 0 then .inr ({}, {}, false)
  else
    let l := blockLenOf b.bl
    match st.tileRef g b.asv 1 0 b.aidx (scaleCoords k b.aks l b.aidx ((List.range 32).filter fun t => m.getLsbD t)) with
    | .inl t => .inl t
    | .inr (ra, oa) =>
      match st.tileRef g b.bsv 1 0 b.bidx (scaleCoords k b.bks l b.bidx (List.range 32)) with
      | .inl t => .inl t
      | .inr (rb, ob) => .inr (ra, rb, oa || ob)

/-- Thread t's word of a row, 0 for a thread outside a mask. -/
def keepThreads (r : Row) (m : Mask) : Row := r &&& expandT m

/-- The entry a multiply posts: the copies of its registers, its formats, its tile and scales (R312). -/
def State.mulEntry (st : State) (g : Group) (sp : Split) (t k : Nat) (a : BitVec 6) (breg : Option (BitVec 6)) (blk : FormatBlock) (tl : Tile)
    (c : CellRef) (ra rb : TileRef) (bt : Option TileRef) : ResEntry :=
  { st.entryOf g t tl .mul sp.mask with
    win := c, shape := k, af := blk.af, bf := blk.bf, bl := blk.bl, aks := blk.aks, bks := blk.bks, scA := ra, scB := rb, btile := bt
    a := (List.range 8).map fun i => keepThreads (g.getV (a.toNat + i)) sp.mask
    b := match breg with
      | some b => (List.range 8).map fun i => keepThreads (g.getV (b.toNat + i)) g.present
      | none => [] }

/-- A multiply at issue, from the checks of R312 on: handle, window, views and bounds, types, then the post. `breg` is the B register base, `slot`
the B view, `nk` the tile's origin, `blk` the format block. -/
def mulIssue (st : State) (g : Group) (sp : Split) (t k : Nat) (a : BitVec 6) (breg : Option (BitVec 6)) (slot : Option Nat) (nk : Word)
    (win : Nat) (blk : FormatBlock) (types : Bool → Bool) : IEff :=
  withTile st g t fun tl => withWindow st tl win fun c =>
    match st.scaleRefs g k blk sp.mask with
    | .inl tr => .trap tr st
    | .inr (ra, rb, o1) =>
      match st.btileRef g k slot nk with
      | .inl tr => .trap tr st
      | .inr (bt, o2) =>
        if !types tl.isF32 then .trap { cause := .modeInvalid } st
        else postAll st [(st.engineOf st.issuer.group c.wg, st.mulEntry g sp t k a breg blk tl c ra rb bt)] id (o1 || o2)

/-- A register base of a multiply (R305). -/
def baseOk (f : BitVec 6) : Bool := decide (f.toNat ≤ 24)

/-- The block that stands for MODE's formats (R307). -/
def modeBlock (g : Group) : FormatBlock :=
  { blockOf 0 0 with af := (g.mode.extractLsb' 0 4).toNat, bf := (g.mode.extractLsb' 16 4).toNat }

/-- The threads whose copies a multiply reads: of its B registers every present thread's, of the rest the active threads' (R306). -/
def bLanes (b : BitVec 6) (g : Group) (s : Split) (f : BitVec 6) : Mask := if f ∈ vRegs b then g.present else s.mask

/-- MMA: both operands in registers, formats from MODE (R312). -/
def execMma (s : BitVec 1) (t : BitVec 3) (a b : BitVec 6) (r : BitVec 4) (k : BitVec 5) (st : State) : Ans :=
  issueC st s { mSpec (baseOk a && baseOk b && decide (k.toNat < 3)) (vRegs a ++ vRegs b ++ sRegs r.toNat 1) with lanes := bLanes b } fun st g sp =>
    let x := (g.getS r.toNat).toNat
    if x % 2 ^ 32 ≠ 0 then .trap illegal st
    else mulIssue st g sp t.toNat k.toNat a (some b) none 0 (x / 2 ^ 32) (modeBlock g) fun f => typesOk k.toNat g.et g.et2 f

/-- MMAK: B from a CLUS tile, formats from MODE (R311, R312). -/
def execMmak (s : BitVec 1) (t : BitVec 3) (a b : BitVec 6) (r : BitVec 4) (k : BitVec 5) (st : State) : Ans :=
  issueC st s (mSpec (baseOk a && decide (b.toNat < 32) && decide (k.toNat < 2) && decide (r.toNat ≤ 14)) (vRegs a ++ sRegs r.toNat 2)) fun st g sp =>
    let x := (g.getS r.toNat).toNat
    if x % 2 ^ 32 ≠ 0 then .trap illegal st
    else mulIssue st g sp t.toNat k.toNat a none (some b.toNat) (g.getS (r.toNat + 1)) (x / 2 ^ 32) (modeBlock g) fun f => typesOk k.toNat g.et g.et2 f

/-- MMAT: ternary A against an I8 CLUS tile, by a format block (R309, R311, R312). -/
def execMmat (s : BitVec 1) (t : BitVec 3) (a b : BitVec 6) (r : BitVec 4) (k : BitVec 5) (st : State) : Ans :=
  issueC st s (mSpec (baseOk a && decide (b.toNat < 32) && decide (k.toNat = 3) && decide (r.toNat < 14)) (vRegs a ++ sRegs r.toNat 3)) fun st g sp =>
    let x := (g.getS r.toNat).toNat
    let y := (g.getS (r.toNat + 1)).toNat
    if !blockOk (x % 2 ^ 32) y then .trap (illegal 1) st
    else mulIssue st g sp t.toNat 3 a none (some b.toNat) (g.getS (r.toNat + 2)) (x / 2 ^ 32) (blockOf x y) fun f => mmatTypes (blockOf x y) f

/-- MMAS: both operands in registers, by a format block (R309, R310, R312). -/
def execMmas (s : BitVec 1) (t : BitVec 3) (a b : BitVec 6) (r : BitVec 4) (k : BitVec 5) (st : State) : Ans :=
  issueC st s { mSpec (baseOk a && baseOk b && decide (k.toNat < 3) && decide (r.toNat ≠ 15)) (vRegs a ++ vRegs b ++ sRegs r.toNat 2) with lanes := bLanes b } fun st g sp =>
    let x := (g.getS r.toNat).toNat
    let y := (g.getS (r.toNat + 1)).toNat
    if !blockOk (x % 2 ^ 32) y then .trap (illegal 1) st
    else mulIssue st g sp t.toNat k.toNat a (some b) none 0 (x / 2 ^ 32) (blockOf x y) fun f => mmasTypes k.toNat (blockOf x y) f

/-! Slices and moves (R314, R315). -/

/-- The 64 cells of a slice, none where they lie beyond the region, or the trap (R314). -/
def sliceOf (tl : Tile) (col : Bool) (x : Word) (imm : Nat) : Trap ⊕ List (Option CellRef) :=
  let i := x.toNat % 2 ^ 32 + imm
  let o := x.toNat / 2 ^ 32
  let (n, m) := if col then (tl.nc, tl.nr) else (tl.nr, tl.nc)
  if n ≤ i then .inl { cause := .bounds }
  else if o % 32 ≠ 0 then .inl { cause := .misalign }
  else if m ≤ o then .inl { cause := .bounds }
  else .inr ((List.range 64).map fun p => if m ≤ o + p then none else some (if col then tl.cell (o + p) i else tl.cell i (o + p)))

/-- TRD at issue: its entry, and its place in the write-back buffer (R314). Where a .COL slice spans two members' parts, the engine of its first cell in range takes the
entry (DESIGN CHOICE: log entry 94). -/
def trdIssue (st : State) (s : BitVec 1) (t : BitVec 3) (r : BitVec 4) (i : BitVec 8) (v : BitVec 6) (col : Bool) : Ans :=
  issueC st s { mSpec (isV v) (sRegs r.toNat 1) with async := fun _ _ => true } fun st g sp =>
    withTile st g t.toNat fun tl =>
      match sliceOf tl col (g.getS r.toNat) i.toNat with
      | .inl tr => .trap tr st
      | .inr cs =>
        let e := { st.entryOf g t.toNat tl (.trd col) sp.mask with cells := cs, wb := some g.nextId }
        let hold := fun (q : Group) => { q with wbC := q.wbC ++ [{ dest := .v v.toNat, bits := expandT sp.mask, id := g.nextId, mask := sp.mask }] }
        postAll st [(st.engineOf st.issuer.group ((cs.findSome? id).map (·.wg) |>.getD 0), e)] hold (cs.any fun c => c.isNone)

/-- TRD.ROW (R314). -/
def execTrdRow (s : BitVec 1) (t : BitVec 3) (r : BitVec 4) (i : BitVec 8) (v : BitVec 6) (st : State) : Ans := trdIssue st s t r i v false
/-- TRD.COL (R314). -/
def execTrdCol (s : BitVec 1) (t : BitVec 3) (r : BitVec 4) (i : BitVec 8) (v : BitVec 6) (st : State) : Ans := trdIssue st s t r i v true

/-- TWR at issue: the V register copied from the active threads (R314); its engine as for TRD. -/
def twrIssue (st : State) (s : BitVec 1) (t : BitVec 3) (r : BitVec 4) (i : BitVec 8) (v : BitVec 6) (col : Bool) : Ans :=
  issueC st s (mSpec (isV v) (v :: sRegs r.toNat 1)) fun st g sp =>
    withTile st g t.toNat fun tl =>
      match sliceOf tl col (g.getS r.toNat) i.toNat with
      | .inl tr => .trap tr st
      | .inr cs =>
        let e := { st.entryOf g t.toNat tl (.twr col) sp.mask with cells := cs, data := g.getV v.toNat }
        postAll st [(st.engineOf st.issuer.group ((cs.findSome? id).map (·.wg) |>.getD 0), e)] id (cs.any fun c => c.isNone)

/-- TWR.ROW (R314). -/
def execTwrRow (s : BitVec 1) (t : BitVec 3) (r : BitVec 4) (i : BitVec 8) (v : BitVec 6) (st : State) : Ans := twrIssue st s t r i v false
/-- TWR.COL (R314). -/
def execTwrCol (s : BitVec 1) (t : BitVec 3) (r : BitVec 4) (i : BitVec 8) (v : BitVec 6) (st : State) : Ans := twrIssue st s t r i v true

/-- TMOVE at issue: both handles, both windows, equal cell types (R315). -/
def tmoveIssue (st : State) (s : BitVec 1) (t : BitVec 3) (r : BitVec 4) (u : BitVec 3) (add : Bool) : Ans :=
  issueC st s (mSpec true (sRegs r.toNat 1)) fun st g sp =>
    let x := (g.getS r.toNat).toNat
    withTile st g t.toNat fun td => withTile st g u.toNat fun ts =>
      withWindow st td (x / 2 ^ 32) fun cd => withWindow st ts (x % 2 ^ 32) fun cs =>
        if td.isF32 ≠ ts.isF32 then .trap { cause := .modeInvalid } st
        else postAll st [(st.engineOf st.issuer.group cd.wg, { st.entryOf g t.toNat td (.move add) sp.mask with win := cd, swin := cs, stile := some u.toNat })] id false

/-- TMOVE (R315). -/
def execTmove (s : BitVec 1) (t : BitVec 3) (r : BitVec 4) (u : BitVec 3) (st : State) : Ans := tmoveIssue st s t r u false
/-- TMOVE.ADD (R315). -/
def execTmoveAdd (s : BitVec 1) (t : BitVec 3) (r : BitVec 4) (u : BitVec 3) (st : State) : Ans := tmoveIssue st s t r u true

/-- TWAIT: the split stalls until the entries the group posted before it that name one handle, a TMOVE's source among them, or all, are performed (R316). -/
def twaitIssue (st : State) (s : BitVec 1) (tile : Option Nat) : Ans :=
  issueC st s (pcSpec true) fun st g sp =>
    let gid := st.issuer.group
    let upto := match sp.wait with
      | .twait n => n
      | _ => g.nextId
    let open_ := st.clusters.any fun k => k.2.res.any fun e =>
      decide (e.group = gid) && decide (e.wg = g.wg) && decide (e.id < upto) && (match tile with
        | some t => decide (e.tile = t) || decide (e.stile = some t)
        | none => true)
    if open_ then .hold (st.waitAs (.twait upto)) else .done ((st.waitAs .ready).goto (sp.pc + 4))

/-- TWAIT Tt (R316). -/
def execTwait (s : BitVec 1) (t : BitVec 3) (st : State) : Ans := twaitIssue st s (some t.toNat)
/-- TWAIT.ALL (R316). -/
def execTwaitAll (s : BitVec 1) (st : State) : Ans := twaitIssue st s none

/-! Performing an entry. -/

/-- The flat address of a cell; none while its workgroup is not placed. -/
def State.cellAt (st : State) (c : CellRef) : Option Nat :=
  if st.reachable c.wg then
    let w := mgetD st.workgroups c.wg { ctx := 0, grid := 0 }
    some (flatAcc (w.core / 4) (w.accBase + c.row) c.col)
  else none

/-- The cells of a window or part, row by row. -/
def windowCells (c : CellRef) (rows cols : Nat) : List CellRef :=
  (List.range rows).flatMap fun i => (List.range cols).map fun j => { c with row := c.row + i, col := c.col + j }

/-- Every cell an entry reads or writes. -/
def ResEntry.touches (e : ResEntry) : List CellRef :=
  match e.kind with
  | .trd _ | .twr _ => e.cells.filterMap fun c => c
  | .move _ => windowCells e.win 32 32 ++ windowCells e.swin 32 32
  | _ => windowCells e.win e.rows e.cols

/-- The value of an element as an operand, with TN for a T2 code 0b10 (R243 to R248). -/
def elemVal (t : ETy) (x : Nat) : FVal × Flags :=
  if t.isFloat then (readF (fmtOf t) x, 0#8)
  else
    let r := readInt t x
    (.fin (decide (r.1 < 0)) r.1.natAbs 0, r.2)

/-- An exact sum in progress (R258, R308): the finite part, whether a NaN, IV, either infinity has come in, and whether every term is −0. -/
structure Sum where
  dy : Dy := ⟨0, 0⟩
  nan : Bool := false
  iv : Bool := false
  pinf : Bool := false
  ninf : Bool := false
  neg0 : Bool := true

/-- One term added. -/
def Sum.add (s : Sum) (v : FVal) : Sum :=
  match v with
  | .nan sg => { s with nan := true, iv := s.iv || sg, neg0 := false }
  | .inf n => if n then { s with ninf := true, neg0 := false } else { s with pinf := true, neg0 := false }
  | .fin n m e => if m = 0 then { s with neg0 := s.neg0 && n } else { s with dy := s.dy.add ⟨if n then -(m : Int) else m, e⟩, neg0 := false }

/-- The exact product of two operands as a term; 0 × ∞ is a NaN that sets IV (R308). A zero product of two integers has no sign (R252). -/
def prodVal (ints : Bool) (a b : FVal) : FVal :=
  match a, b with
  | .fin n m e, .fin n' m' e' => .fin ((n != n') && !(ints && decide (m * m' = 0))) (m * m') (e + e')
  | _, _ =>
    if a.isNan || b.isNan then .nan (a.sig || b.sig)
    else if a.isZero || b.isZero then .nan true else .inf (a.neg != b.neg)

/-- The sum of products over some k indices. -/
def dotOf (ints : Bool) (a b : List FVal) (qs : List Nat) : Sum :=
  qs.foldl (fun s q => s.add (prodVal ints (a.getD q (.fin false 0 0)) (b.getD q (.fin false 0 0)))) {}

/-- One part's contribution (R260): a zero scale gives +0; a NaN scale, a NaN or opposite infinities a NaN with IV. -/
def partVal (sa sb : Option Dy) (s : Sum) : FVal :=
  if (sa.any fun x => decide (x.m = 0)) || (sb.any fun x => decide (x.m = 0)) then .fin false 0 0
  else match sa, sb with
    | some x, some y =>
      if s.nan || (s.pinf && s.ninf) then .nan true
      else if s.pinf then .inf false
      else if s.ninf then .inf true
      else
        let v := (x.mul y).mul s.dy
        .fin (if v.m = 0 then s.neg0 else decide (v.m < 0)) v.m.natAbs v.e
    | _, _ => .nan true

/-- The cell after the sum of its old value and the terms (R308, R251, R252): F32, rounded once by RNE. -/
def cellF (s : Sum) : NumRes :=
  let fm := fmtOf .f32
  if s.nan || (s.pinf && s.ninf) then nanRes fm (s.iv || (s.pinf && s.ninf))
  else if s.pinf then ⟨infOf fm false, 0#8⟩
  else if s.ninf then ⟨infOf fm true, 0#8⟩
  else roundZ fm .rne s.dy.m s.dy.e s.neg0

/-- A tile element's flat address; none where it is out of bounds (R311). -/
def TileRef.addr (r : TileRef) (x y : Int) : Option Nat :=
  if (oobDim r.desc [x, y]).isSome then none else some (r.base + (elemAddr r.desc [x, y]).toNat)

/-- Elements of one thread's row or column out of eight registers (R305). -/
def regElems (rs : List Row) (w k t : Nat) : List Nat :=
  (List.range k).map fun q => (laneAt (rs.getD (q / (64 / w)) 0) t).toNat / 2 ^ (w * (q % (64 / w))) % 2 ^ w

/-- The runs of k indices that share both blocks (R260). -/
def partsOf (k l aks bks : Nat) : List (List Nat) :=
  let key := fun (q : Nat) => ((aks + q) / l, (bks + q) / l)
  (((List.range k).map key).eraseDups).map fun x => (List.range k).filter fun q => decide (key q = x)

/-- The flat addresses of tiles and scales a pass reads: B's, A's scales', B's scales' (R310, R311). -/
def ResEntry.reads (e : ResEntry) : List Nat :=
  let k := shapeK e.shape
  let bt := match e.btile with
    | some r => (List.range k).flatMap fun q => (List.range 32).filterMap fun j => r.addr (r.o0 + (j : Int)) (r.o1 + (q : Int))
    | none => []
  if e.bl = 0 then bt else
    let l := blockLenOf e.bl
    let sc := fun (r : TileRef) (ks : Nat) (use : List Nat) =>
      (scaleCoords e.shape ks l r.o1.toNat use).filterMap fun c => r.addr (c.getD 0 0) (c.getD 1 0)
    bt ++ sc e.scA e.aks ((List.range 32).filter fun t => e.mask.getLsbD t) ++ sc e.scB e.bks (List.range 32)

/-- A pass's read of `n` bytes of a tile, from the snapshot it has of their granule (R192). -/
def ResEntry.granule (e : ResEntry) (a n : Nat) : Nat := (mgetD e.snap (lineOf a) (0, 0)).1.toNat / 2 ^ (8 * (a % 128)) % 2 ^ (8 * n)

/-- A byte that a pass has read is poisoned (R320). -/
def ResEntry.soiled (e : ResEntry) (a : Nat) : Bool := (mgetD e.snap (lineOf a) (0, 0)).2.getLsbD (a % 128)

/-- The new cells of a multiply's window, with the pass's flags (R308): each with its address. -/
def State.mulCells (st : State) (e : ResEntry) : List (Nat × Nat) × Flags :=
  let k := shapeK e.shape
  let ta := etyOf e.af
  let tb := etyOf e.bf
  let l := blockLenOf e.bl
  let wb := tb.width
  let bad := e.reads.any e.soiled
  let col := fun (j : Nat) => match e.btile with
    | some r => (List.range k).map fun q => match r.addr (r.o0 + (j : Int)) (r.o1 + (q : Int)) with
        | some a => e.granule a (wb / 8) % 2 ^ wb
        | none => 0
    | none => regElems e.b wb k j
  let cols := (List.range 32).map fun j => (col j).map (elemVal tb)
  let rows := (List.range 32).map fun i => if e.mask.getLsbD i then (regElems e.a ta.width k i).map (elemVal ta) else []
  let parts := if e.bl = 0 then [List.range k] else partsOf k l e.aks e.bks
  let scale := fun (r : TileRef) (ks i q : Nat) => match r.addr (((ks + q) / l : Nat) : Int) (r.o1 + (i : Int)) with
    | some a => readSc (e.granule a 2)
    | none => some ⟨0, 0⟩
  let fl := fun (es : List (FVal × Flags)) (qs : List Nat) => qs.foldl (fun f q => f ||| ((es[q]?).map (·.2)).getD 0#8) 0#8
  let cell := fun (i j : Nat) =>
    let c : CellRef := { e.win with row := e.win.row + i, col := e.win.col + j }
    match st.cellAt c with
    | none => none
    | some ad =>
      let old := st.read ad 4
      let ra := rows.getD i []
      let rb := cols.getD j []
      let av := ra.map (·.1)
      let bv := rb.map (·.1)
      let sums := parts.map fun qs => (qs, dotOf (!ta.isFloat && !tb.isFloat) av bv qs)
      let terms := sums.map fun p =>
        if e.bl = 0 then (p.2, fl ra p.1)
        else
          let sa := scale e.scA e.aks i (p.1.headD 0)
          let sb := scale e.scB e.bks j (p.1.headD 0)
          let v := partVal sa sb p.2
          let z := (sa.any fun x => decide (x.m = 0)) || (sb.any fun x => decide (x.m = 0))
          (({} : Sum).add v, if z then 0#8 else fl ra p.1)
      let flags := terms.foldl (fun f p => f ||| p.2) 0#8
      let tot := terms.foldl (fun (s : Sum) p =>
        { dy := s.dy.add p.1.dy, nan := s.nan || p.1.nan, iv := s.iv || p.1.iv, pinf := s.pinf || p.1.pinf, ninf := s.ninf || p.1.ninf, neg0 := s.neg0 && p.1.neg0 })
        (({} : Sum).add (if e.f32 then readF (fmtOf .f32) old else .fin false 0 0))
      if e.f32 then
        let r := cellF tot
        some (ad, r.bits, r.flags ||| flags)
      else some (ad, low 32 ((old : Int) + tot.dy.m), flags)
  let cs := ((List.range 32).filter fun i => e.mask.getLsbD i).flatMap fun i => (List.range 32).filterMap fun j => cell i j
  (cs.map fun c => (c.1, if bad || st.poisonedAt c.1 4 then 2 ^ 32 + c.2.1 else c.2.1), cs.foldl (fun f c => f ||| c.2.2) 0#8)

/-- Cells written; a value with bit 32 set is poisoned (R320). -/
def State.writeCells (st : State) (cs : List (Nat × Nat)) : State :=
  cs.foldl (fun s c => let s := s.writeAll c.1 4 (c.2 % 2 ^ 32); if c.2 / 2 ^ 32 = 1 then s.poison c.1 else s) st

/-- A cell's bits, with bit 32 set where it is poisoned. -/
def State.readCell (st : State) (c : CellRef) : Nat :=
  match st.cellAt c with
  | some a => st.read a 4 + (if st.poisonedAt a 4 then 2 ^ 32 else 0)
  | none => 0

/-- What performing an entry makes of the state, with the flags a pass raises (R308, R313 to R315). -/
def State.performEntry (st : State) (e : ResEntry) : State × Flags :=
  let inRow := fun (i : Nat) => e.mask.getLsbD i
  match e.kind with
  | .mul =>
    let r := st.mulCells e
    (st.writeCells r.1, r.2)
  | .zero => (st.writeCells ((windowCells e.win 32 32).zipIdx.filterMap fun p => if inRow (p.2 / 32) then (st.cellAt p.1).map (·, 0) else none), 0#8)
  | .zeroAll => (st.writeCells ((windowCells e.win e.rows e.cols).filterMap fun c => (st.cellAt c).map (·, 0)), 0#8)
  | .trd _ =>
    let vs := e.cells.map fun c => match c with
      | some c => st.readCell c
      | none => 0
    let data : Row := BitVec.ofNat 2048 (packN 32 (vs.map (· % 2 ^ 32)))
    let bad := vs.zipIdx.any fun p => decide (2 ^ 32 ≤ p.1) && inRow (p.2 / 2)
    let fill := fun (w : Wb) => if e.wb = some w.id then { w with data := data, returned := true, poison := bad, unit := 5 } else w
    (st.updGroup e.group fun g => { g with wbC := g.wbC.map fill }, 0#8)
  | .twr _ =>
    (st.writeCells (e.cells.zipIdx.filterMap fun p => match p.1 with
      | some c => if inRow (p.2 / 2) then (st.cellAt c).map (·, elemAt e.data 32 p.2) else none
      | none => none), 0#8)
  | .move add =>
    let src := (windowCells e.swin 32 32).map st.readCell
    let dst := windowCells e.win 32 32
    let fm := fmtOf .f32
    let new := (dst.zip src).zipIdx.filterMap fun p =>
      if inRow (p.2 / 32) then
        match st.cellAt p.1.1 with
        | none => none
        | some a =>
          let old := st.readCell p.1.1
          let s := p.1.2 % 2 ^ 32
          let r : NumRes := if !add then ⟨s, 0#8⟩
            else if e.f32 then addF fm .rne (readF fm (old % 2 ^ 32)) (readF fm s) else ⟨(old % 2 ^ 32 + s) % 2 ^ 32, 0#8⟩
          let bad := decide (2 ^ 32 ≤ p.1.2) || (add && decide (2 ^ 32 ≤ old))
          some (a, r.bits + (if bad then 2 ^ 32 else 0), r.flags)
      else none
    (st.writeCells (new.map fun c => (c.1, c.2.1)), new.foldl (fun f c => f ||| c.2.2) 0#8)

/-! The arbiter (R87, R317). -/

/-- An entry may be granted: every cell's workgroup is placed, and no earlier entry of its group waits on the same engine or shares a cell with
it (R317, R319). -/
def State.mayGrant (st : State) (cl : Nat) (e : ResEntry) : Bool :=
  let ts := e.touches
  ts.all (fun c => st.reachable c.wg) && st.clusters.all fun k => k.2.res.all fun x =>
    !(decide (x.group = e.group) && decide (x.wg = e.wg) && decide (x.id < e.id)) || (decide (k.1 ≠ cl) && !x.touches.any fun c => decide (c ∈ ts))

/-- The rank of an entry at the arbiter, smallest first (R87); entries stand in the table in posting order. -/
def rankKey (now : Nat) (e : ResEntry) : Nat :=
  let old := decide (4096 < now - e.posted)
  (if e.trap then 0 else 8) + (if old then 0 else 4) + (if old then 0 else 3 - e.prio)

/-- The entry the arbiter grants next: the first with the smallest key. -/
def State.nextGrant (st : State) (cl : Nat) : Option ResEntry :=
  let now := st.coreCyc (4 * cl)
  let es := (st.cluster cl).res.filter fun e => st.mayGrant cl e
  es.find? fun e => es.all fun x => decide (rankKey now e ≤ rankKey now x)

/-- The place of the next grant among those of all engines (R317). -/
def State.grantPlace (st : State) : Nat := 1 + ((st.clusters.flatMap fun k => k.2.res.map fun e => e.turn).max?.getD 0)

/-- A granted entry is performed after those granted before it, on whichever engine, that share a cell with it (R317). -/
def State.inGrantOrder (st : State) (e : ResEntry) : Bool :=
  st.clusters.all fun k => k.2.res.all fun x => !(x.granted && decide (x.turn < e.turn)) || !x.touches.any fun c => decide (c ∈ e.touches)

/-- MATRIX_GRANT: an idle engine grants its pass to the entry that ranks first; on replay to the logged one (R87, R423). -/
def execMatrixGrant (cl slot : Nat) (st : State) : Ans :=
  .next (let k := st.cluster cl
    match k.res.find? fun e => decide (e.slot = slot) with
    | none => st
    | some e =>
      if (k.res.any fun x => x.granted) || !st.mayGrant cl e then st
      else if (st.ctx e.ctx).replay.isNone && decide (st.nextGrant cl ≠ some e) then st
      else match st.sched e.ctx cl 3 0 slot none with
        | none => st
        | some st => st.updCluster cl fun k => { k with res := k.res.map fun x => if x.slot = slot then { x with granted := true, turn := st.grantPlace } else x })

/-- Granules read by a pass, each once, as they then are, and logged among the writes to it (R192, R320); none where the log says to wait. -/
def State.passReads (st : State) (e : ResEntry) (ls : List Nat) : Option (State × ResEntry) :=
  ls.foldl (fun (o : Option (State × ResEntry)) l => o.bind fun r =>
    if (mget r.2.snap l).isSome then some r else
      (r.1.scratch e.ctx (gCluster e.group) 2 0 18).map fun s => (s, { r.2 with snap := mset r.2.snap l (BitVec.ofNat 1024 (s.read l 128), s.poisonMask l) })) (some (st, e))

/-- The granted entry at `slot` of the cluster's reservation table. -/
def Cluster.grantedAt (k : Cluster) (slot : Nat) : Option ResEntry := k.res.find? fun e => decide (e.slot = slot) && e.granted

/-- The lines a matrix entry reads, each once, ascending. -/
def ResEntry.lines (e : ResEntry) : List Nat := orderBy (e.reads.map lineOf).eraseDups (· ≤ ·)

/-- The granted entry is performed as a whole and leaves the table, the granules it has not read yet read first; its flags wait for the group's next marked
instruction (R308, R317, R320, R255). -/
def State.completePass (st : State) (cl : Nat) (e : ResEntry) : State :=
  match st.passReads e e.lines with
  | none => st
  | some (st, e) =>
    let (st, f) := st.performEntry e
    let st := st.updCluster cl fun k => { k with res := k.res.filter fun x => decide (x.slot ≠ e.slot) }
    let here := (mget st.groups e.group).any fun g => decide (g.wg = e.wg)
    let st := if f = 0 ∨ !here then st else st.updCluster (gCluster e.group) fun k => { k with mflags := k.mflags ++ [{ group := e.group, flags := f }] }
    st.settleWg e.group e.wg

/-- MATRIX_PASS_COMPLETE: a granted entry completes, in the order of the grants where entries share a cell (R317), or it reads one granule alone: the granules of one pass may come from different points in the writes'
order (R308, R192). -/
def execMatrixPassComplete (cl : Nat) (ev : PassStep) (st : State) : Ans :=
  .next (match ev with
    | .read slot line =>
      match (st.cluster cl).grantedAt slot with
      | none => st
      | some e =>
        match st.passReads e (e.lines.filter fun l => decide (l = line)) with
        | none => st
        | some (st, e) => st.updCluster cl fun k => { k with res := k.res.map fun x => if x.slot = slot then e else x }
    | .complete slot =>
      match (st.cluster cl).grantedAt slot with
      | none => st
      | some e => if st.inGrantOrder e then st.completePass cl e else st)

end Sys2Proof.Machine
end

