-- ==== Sys2Proof/Machine/Fabric.lean ====
section
/-! DEFINITION. The scale-up fabric: XFER and XMC, packets and their delivery, remote counters, event records, dead peers, and the placement of
distributed tensors (R215 to R239, R379 to R381, R473). -/

namespace Sys2Proof.Machine

/-! Packet headers (R217). -/

/-- A header field: `n` bits from bit `lo`. -/
def pf (h : BitVec 256) (lo n : Nat) : Nat := (h.extractLsb' lo n).toNat
/-- A header with a field set. -/
def pSet (h : BitVec 256) (lo n v : Nat) : BitVec 256 :=
  (h &&& ~~~(BitVec.ofNat 256 ((2 ^ n - 1) * 2 ^ lo))) ||| BitVec.ofNat 256 (v % 2 ^ n * 2 ^ lo)

/-- DST. -/
def pDst (h : BitVec 256) : Nat := pf h 0 12
/-- KIND. -/
def pKind (h : BitVec 256) : Nat := pf h 12 4
/-- SRC. -/
def pSrc (h : BitVec 256) : Nat := pf h 16 12
/-- CHAN. -/
def pChan (h : BitVec 256) : Nat := pf h 28 2
/-- FIRST. -/
def pFirst (h : BitVec 256) : Bool := h.getLsbD 30
/-- LAST. -/
def pLast (h : BitVec 256) : Bool := h.getLsbD 31
/-- DOMAIN. -/
def pDom (h : BitVec 256) : Nat := pf h 32 16
/-- SEQ. -/
def pSeq (h : BitVec 256) : Nat := pf h 48 32
/-- LEN. -/
def pLen (h : BitVec 256) : Nat := pf h 80 9
/-- REDIR. -/
def pRedir (h : BitVec 256) : Bool := h.getLsbD 89
/-- STEP. -/
def pStep (h : BitVec 256) : Nat := pf h 96 8
/-- DADDR. -/
def pDaddr (h : BitVec 256) : Nat := pf h 104 56
/-- CTR. -/
def pCtr (h : BitVec 256) : Nat := pf h 160 64
/-- USER. -/
def pUser (h : BitVec 256) : Nat := pf h 224 32

/-- A header of its fields (R217). -/
def mkHdr (dst kind src chan : Nat) (first last : Bool) (dom seq len step daddr ctr user : Nat) : BitVec 256 :=
  BitVec.ofNat 256 (dst % 2 ^ 12 + kind % 16 * 2 ^ 12 + src % 2 ^ 12 * 2 ^ 16 + chan % 4 * 2 ^ 28 + (if first then 2 ^ 30 else 0) + (if last then 2 ^ 31 else 0)
    + dom % 2 ^ 16 * 2 ^ 32 + seq % 2 ^ 32 * 2 ^ 48 + len % 2 ^ 9 * 2 ^ 80 + step % 256 * 2 ^ 96 + daddr % 2 ^ 56 * 2 ^ 104 + ctr % 2 ^ 64 * 2 ^ 160
    + user % 2 ^ 32 * 2 ^ 224)

/-! Domains (R216). -/

/-- The context of a domain on this device. -/
def State.ctxOfDomain (st : State) (dom : Nat) : Option Nat := (st.ctxs.find? fun e => decide (e.2.domain = some dom)).map (·.1)

/-- A domain's tables. -/
def State.domain (st : State) (dom : Nat) : Domain := mgetD st.domains dom {}

/-- The hub's drop count raised (R216, R379, R381). -/
def State.dropped (st : State) : State := { st with dropcnt := st.dropcnt + 1 }

/-! XFER and XMC at issue (R222, R224 to R226). -/

/-- The CTR field of a remote counter reference (R222). -/
def packCtr (ref serial : Nat) : Nat :=
  2 ^ 63 + (if bits ref 31 29 = 3 then 2 ^ 62 else 0) + bits ref 20 4 * 2 ^ 39 + serial % 2 ^ 39

/-- The members a command sends to: the device of XFER, the members of XMC's group; PROT where the domain does not allow them (R226). -/
def State.members (st : State) (dom : Option Nat) (xmc : Bool) (w0 : Nat) : Option (List Nat) :=
  match dom with
  | none => none
  | some k =>
    match mget st.domains k with
    | none => none
    | some d =>
      let ms := if xmc then (let s := mgetD d.groups (bits w0 21 14) 0#4096; (List.range 4096).filter fun i => s.getLsbD i) else [bits w0 25 14]
      if ms = [] ∨ ms.any fun m => !d.set.getLsbD m then none else some ms

/-- The checks of XFER and XMC in their order (R224 to R226): the trap, or the command with whether an element is out of bounds. -/
def State.xferCheck (st : State) (g : Group) (xmc : Bool) (db ctr chan step : Nat) : Trap ⊕ (EngCmd × Bool) :=
  let gid := st.issuer.group
  let ref := (g.getA ctr).toNat
  let ser := (g.getA (ctr + 1)).toNat
  let bad := fun (w0 last : Nat) =>
    decide (ctr = 31) || decide (w0 / 2 ^ 27 ≠ 0) || (xmc && decide (bits w0 25 22 ≠ 0)) || (decide (bits w0 26 26 = 1) && decide (2 ^ 32 ≤ (g.getA last).toNat))
      || (decide (ctr ≠ 0) && (decide (2 ^ 39 ≤ ser) || decide (bits ref 28 21 ≠ 0)))
  match st.readCmd g db (fun w0 => bits w0 26 26) bad with
  | .inl t => .inl t
  | .inr k =>
    let ss := k.w0 % 32
    let ds := k.w0 / 32 % 32
    if k.clash ∨ vSpace k.src = 4 then .inl (viewFault ss 13)
    else if vSpace k.dst ≠ 0 then .inl (viewFault ds 13)
    else if vRonly k.dst then .inl { cause := .prot }
    else match st.members (st.ctx (st.ctxOf g)).domain xmc k.w0 with
    | none => .inl { cause := .prot }
    | some ms =>
      match ms.find? fun m => st.dead.getLsbD m with
      | some m => .inl { cause := .peerDead, detail := m }
      | none =>
        if ctr ≠ 0 ∧ (2 ^ 32 ≤ ref ∨ (bits ref 31 29 ≠ 2 ∧ bits ref 31 29 ≠ 3)) then .inl { cause := .viewFault }
        else if ctr ≠ 0 ∧ ref % 16 ≠ 0 then .inl { cause := .misalign }
        else match st.reachBoth g k with
        | .inl t => .inl t
        | .inr oob =>
          .inr ({ id := g.nextId, kind := if xmc then .xmc else .xfer, group := gid, wg := g.wg, ctx := st.ctxOf g, src := k.src, dst := k.dst
                  so := k.so, dor := k.dor, counts := k.counts, ctr := if ctr = 0 then 0 else packCtr ref ser, dests := ms, chan := chan, step := step
                  user := if bits k.w0 26 26 = 1 then k.user else 0, trap := g.tlevel }, oob)

/-- XFER and XMC at issue: checked, then queued at the fabric engine. -/
def xferIssue (st : State) (g : Group) (xmc : Bool) (db ctr : Nat) (guard : Option Nat) (chan step : Nat) : IEff :=
  match st.xferCheck g xmc db ctr chan step with
  | .inl t => .trap t st
  | .inr (cmd, oob) => st.queueCmd g guard oob cmd fun c k => { k with fabQ := k.fabQ ++ [c] }

/-- XFER (R224 to R226). -/
def execXfer (s : BitVec 1) (d c : BitVec 5) (g : BitVec 3) (e : BitVec 1) (h : BitVec 2) (p : BitVec 8) (st : State) : Ans :=
  issueA st s { legal := guardOk g e } fun st gr =>
    xferIssue st gr false d.toNat c.toNat (if e = 1#1 then some g.toNat else none) h.toNat p.toNat

/-- XMC (R224 to R226). -/
def execXmc (s : BitVec 1) (d c : BitVec 5) (g : BitVec 3) (e : BitVec 1) (h : BitVec 2) (p : BitVec 8) (st : State) : Ans :=
  issueA st s { legal := guardOk g e } fun st gr =>
    xferIssue st gr true d.toNat c.toNat (if e = 1#1 then some g.toNat else none) h.toNat p.toNat

/-! Sending (R219, R227, R370). -/

/-- The bytes queued at a port (R219). -/
def State.queuedAt (st : State) (port : Nat) : Nat := ((st.outbox.filter fun q => decide (q.port = port)).map fun q => 32 + pLen q.hdr).sum

/-- The live port with the fewest bytes queued, ties going to the lower; 36 where none is live (R219). -/
def State.portFor (st : State) : Nat :=
  let live := (List.range 36).filter fun p => decide (p ∉ st.downPorts)
  ((live.map st.queuedAt).min?.bind fun m => live.find? fun p => decide (st.queuedAt p = m)).getD 36

/-- A packet leaves for the planes through a port, or turns at the hub where it is for this device (R219, R226). -/
def State.leave (st : State) (p : Packet) : State :=
  { st with outbox := st.outbox ++ [{ p with port := if pDst p.hdr = st.devno then 36 else st.portFor }] }

/-- A list of packets without the first `k` that a port holds. -/
def dropPort (port k : Nat) (l : List Packet) : List Packet :=
  match l with
  | [] => []
  | q :: r => if q.port = port ∧ k ≠ 0 then dropPort port (k - 1) r else q :: dropPort port k r

/-- The packets at the heads of the ports' queues go out on their links: how many in the time that passes is free (timing). -/
def State.drainPorts (st : State) : State :=
  (List.range 36).foldl (fun st p =>
    let n := st.outbox.countP fun q => decide (q.port = p)
    if n = 0 then st else { st with outbox := dropPort p (Config.freeNat st.free % (n + 1)) st.outbox, free := st.free + 1 }) st

/-- The slot that processes a packet of a domain at an attach point: its port and number (R370). -/
def State.weirFor (st : State) (dom : Nat) (egress : Bool) : Option (Nat × Nat) :=
  firstSome (fun e => (e.2.slots.find? fun s => decide (s.2.domain = dom) && s.2.egress == egress).map fun s => (e.1, s.1)) st.weirs

/-- A packet put behind the others at a Weir (R371). -/
def State.toWeir (st : State) (port slot from_ : Nat) (p : Packet) : State :=
  let w := mgetD st.weirs port {}
  { st with weirs := mset st.weirs port { w with queue := w.queue ++ [(slot, from_, p)] } }

/-- A packet sent by this device: through the domain's egress Weir where one is attached (R370), else out. -/
def State.send (st : State) (p : Packet) : State :=
  match (if pKind p.hdr ≤ 1 then st.weirFor (pDom p.hdr) true else none) with
  | some (port, slot) => st.toWeir port slot 0xFF p
  | none => st.leave p

/-- A packet sent with the next sequence number of its triple, and timed until it is acknowledged; one for a dead device is forgotten (R217, R227, R231,
R232). -/
def State.sendTimed (st : State) (p : Packet) (bytes group wg : Nat) : State :=
  let key := pDst p.hdr * 4 + pChan p.hdr
  let seq := mgetD st.seqOut key 0
  let p := { p with hdr := pSet p.hdr 48 32 seq }
  let st := { st with seqOut := mset st.seqOut key ((seq + 1) % 2 ^ 32) }
  (if st.dead.getLsbD (pDst p.hdr) then st
    else { st with unacked := mset st.unacked key (mgetD st.unacked key [] ++ [({ pkt := p, bytes := bytes, sent := st.tai, group := group, wg := wg } : Unacked)]) }).send p

/-- A packet of the hub's own (KIND 2 and 4), which no group sent (R217, R231). -/
def State.hubSend (st : State) (p : Packet) : State := st.sendTimed p 0 0 (2 ^ 64)

/-- A trace payload of a collective record (R452). -/
def collPay (step chan kind peer bytes : Nat) : Nat := step + chan * 2 ^ 8 + kind * 2 ^ 16 + peer % 2 ^ 16 * 2 ^ 32 + bytes % 2 ^ 64 * 2 ^ 64

/-- One destination run of a transfer: its address, and its source elements in order (R227). -/
structure RunOf where
  addr : Nat
  srcs : List (Option Nat)

/-- The runs of a box (R227): a run ends where the next destination byte is not adjacent or a 256-byte boundary falls. -/
def runsOf (n : Nat) (ps : List (Option Nat × Nat)) : List RunOf :=
  (ps.foldl (fun (acc : List RunOf) p =>
    match acc with
    | r :: rest => if p.2 = r.addr + r.srcs.length * n ∧ p.2 % 256 ≠ 0 then { r with srcs := r.srcs ++ [p.1] } :: rest else ⟨p.2, [p.1]⟩ :: acc
    | [] => [⟨p.2, [p.1]⟩]) []).reverse

/-- A command's element addresses: its source elements, none out of bounds, each with its destination element's (R225, R226). -/
def State.fabPairs (st : State) (e : EngCmd) : List (Option Nat × Nat) := e.pairs.filterMap fun p => p.2.map fun d => (p.1.map (st.engAddr e false), d)

/-- A command whose source lines have all been read is finished with them. -/
def EngCmd.noteRead (e : EngCmd) (lines : List (Nat × Nat)) : EngCmd := { e with finished := lines.all fun l => (mget e.snap l.1).isSome }

/-- The packet a command's run makes: its `i`-th of `n` runs to a destination (R227, R216). -/
def State.runPacket (st : State) (e : EngCmd) (r : RunOf) (dst i n : Nat) : Packet :=
  let w := vEsize e.src
  let vals := r.srcs.map e.elem
  { hdr := mkHdr dst (if e.kind = .xmc then 1 else 0) st.devno e.chan (decide (i = 0)) (decide (i + 1 = n)) ((st.ctx e.ctx).domain.getD 0) 0 (r.srcs.length * w) e.step
      r.addr e.ctr e.user
    pay := packN (8 * w) (vals.map (·.1))
    bad := packN w (vals.map fun v => if v.2 then 2 ^ w - 1 else 0) }

/-- A command's next packet sent, and the start of a collective traced with the first (R227, R233, R452). -/
def State.sendRun (st : State) (gid : Nat) (e : EngCmd) (r : RunOf) (n : Nat) : State :=
  let dst := e.dests.getD (e.sent / n) 0
  let i := e.sent % n
  let st := if e.step ≠ 0 ∧ i = 0 then
      st.trace (gDie gid) 5 (some e.ctx) (locOf gid 0) (collPay e.step e.chan (if e.kind = .xmc then 1 else 0) dst e.total) else st
  st.sendTimed (st.runPacket e r dst i n) e.total gid e.wg

/-- FABRIC_PACKET_SEND: the engine reads source lines of a command, and sends its next packet; with `rd` it reads one source line alone (R227). -/
def execFabricPacketSend (gid id line : Nat) (rd : Bool) (st : State) : Ans :=
  let q := (st.cluster (gCluster gid)).fabQ
  .next (match q.find? fun x => decide (x.group = gid) && decide (x.id = id) with
    | none => st
    | some e =>
      if !st.mayServe q e then st else
      match st.startCmd e true with
      | none => st
      | some (st1, e) =>
        let ps := st1.fabPairs e
        let rs := runsOf (vEsize e.src) ps
        let lines := srcLines (spread (vEsize e.src) (ps.filterMap (·.1)))
        if rd then
          let r := st1.snapLines e 3 17 (lines.filter fun l => decide (l.1 = line))
          st.endLine r.2 r.1 fun st e => st.putCmd (e.noteRead lines)
        else
          match rs[e.sent % rs.length]? with
          | none => (st1.dropCmd e).settleWg gid e.wg
          | some r =>
            let q := st1.snapLines e 3 17 (srcLines (spread (vEsize e.src) (r.srcs.filterMap fun x => x)))
            st.endLine q.2 q.1 fun st e =>
              let st := st.sendRun gid e r rs.length
              let e := { e with sent := e.sent + 1 }.noteRead lines
              if e.sent = rs.length * e.dests.length then (st.dropCmd e).settleWg gid e.wg else st.putCmd e)

/-! The hub's accesses at a destination (R473). -/

/-- One write of the hub within one line, through a context's tables: the line is taken from every holder and the bytes are written at the L3. -/
def State.hubWrite (st : State) (c va n mask v path : Nat) : EngEnd :=
  match st.access c (.unit 0) va .w path true with
  | .wait => .wait st
  | .fault page t st => .miss st page t
  | .prot t st => .prot st t
  | .ok leaf pa st0 =>
    let line := lineOf pa
    if st0.quiescing pa || !st0.moveFreeAt pa || !st0.tableQuiet line then .wait st
    else match st0.lostTrap pa with
    | some t => .prot st { t with addr := va }
    | none =>
      match ((st0.takeLine line).bind fun s => s.dirGate 1 11 3 0 line).bind fun s => s.writeLeaf c (.unit 0) va leaf pa n mask v with
      | none => .wait st
      | some st1 => .done st1

/-- A write of the hub of any length, line by line. -/
def State.hubWrites (st : State) (fuel c va n mask v path : Nat) : EngEnd :=
  match fuel with
  | 0 => .done st
  | k + 1 =>
    let m := min n (128 - va % 128)
    if n = 0 then .done st else
    match st.hubWrite c va m (mask % 2 ^ m) (v % 2 ^ (8 * m)) path with
    | .done st => st.hubWrites k c (va + m) (n - m) (mask / 2 ^ m) (v / 2 ^ (8 * m)) path
    | r => r

/-- A read of the hub within one line, through a context's tables. -/
def State.hubRead (st : State) (c va n path : Nat) : EngEnd × Nat :=
  match st.access c (.unit 0) va .r path false with
  | .wait => (.wait st, 0)
  | .fault page t st => (.miss st page t, 0)
  | .prot t st => (.prot st t, 0)
  | .ok _ pa st0 =>
    if st0.quiescing pa || !st0.moveFreeAt pa then (.wait st, 0)
    else match st0.lostTrap pa with
    | some t => (.prot st { t with addr := va }, 0)
    | none =>
      match (st0.shareLine (lineOf pa)).bind fun s => s.dirGate 0 11 3 0 (lineOf pa) with
      | none => (.wait st, 0)
      | some st1 => (.done st1, st1.read pa n)

/-! Remote counters (R222, R223). -/

/-- The counter a CTR field names: its workgroup and byte offset, where the workgroup is live, placed or saved, and the offset lies inside its allocation. -/
def State.remoteCtr (st : State) (c ctr : Nat) : Option (Nat × Workgroup × Nat) :=
  let key := wgKey c (ctr % 2 ^ 39)
  match mget st.workgroups key with
  | none => none
  | some w =>
    let off := bits ctr 55 39 * 16
    if w.state = .lost ∨ (if ctr / 2 ^ 62 % 2 = 1 then w.coreSize else w.clusSize) < off + 16 then none else some (key, w, off)

/-- A workgroup that is placed: neither pre-empted nor parked, nor on the way there or back (R223). -/
def Workgroup.standing (w : Workgroup) : Bool := decide (w.state = .placed) && !w.parked

/-- An addition made at the home of a counter of a placed workgroup (R223). -/
def State.addAt (st : State) (w : Workgroup) (ctr off n : Nat) : State :=
  st.addCounter (if ctr / 2 ^ 62 % 2 = 1 then flatCore w.core (w.coreBase + off) else flatClus (w.core / 4) (w.clusBase + off)) n

/-- The addition of an event record (R381): at its home where the workgroup is placed, held at the hub while it is not (R223). -/
def State.remoteAdd (st : State) (key : Nat) (w : Workgroup) (ctr off n : Nat) : State :=
  if w.standing then st.addAt w ctr off n else st.updWg key fun w => { w with heldAdds := w.heldAdds ++ [(ctr, n)] }

/-! Event records (R379 to R381). -/

/-- The event header's fields, none where it is malformed (R379): BASE, n, FLAGS, PRODUCE, CONSUME, LOST, CTR, SERIAL. -/
def eventHeader (h : Nat) : Option (Nat × Nat × Nat × Nat × Nat × Nat × Nat × Nat) :=
  let base := bits h 63 0
  let n := bits h 95 64
  if h / 2 ^ 448 ≠ 0 ∨ base % 128 ≠ 0 ∨ n = 0 ∨ 16 < n ∨ bits h 127 102 ≠ 0 ∨ bits h 447 423 ≠ 0 then none
  else some (base, n, bits h 127 96, bits h 191 128, bits h 255 192, bits h 319 256, bits h 383 320, bits h 422 384)

/-- WEIR_EVENT for a group of a live workgroup (R381, R390): one trap for the records that wait. -/
def State.weirEvent (st : State) (c serial gi i : Nat) : State :=
  st.postTo (wgKey c serial) gi { trap := { cause := .weirEvent, detail := i % 2 ^ 31 }, kind := .async }

/-- The 64 bytes of an event record with its TIME (R380). -/
def EventRec.word (e : EventRec) (time : Nat) : Nat :=
  e.cls + e.port % 256 * 2 ^ 16 + e.slot % 256 * 2 ^ 24 + e.code % 2 ^ 32 * 2 ^ 32 + e.detail % 2 ^ 64 * 2 ^ 64 + time % 2 ^ 64 * 2 ^ 128 + e.hdr.toNat * 2 ^ 256

/-- What follows a written event record (R381): the addition of 64 and the trap that the header's FLAGS ask for. -/
def State.eventTold (st : State) (c flags ctr serial produce : Nat) : State :=
  let okRef := decide (ctr < 2 ^ 32) && (decide (bits ctr 31 29 = 2) || decide (bits ctr 31 29 = 3)) && decide (ctr % 16 = 0) && decide (bits ctr 28 21 = 0)
  let pc := packCtr ctr serial
  let st := if flags % 2 = 1 then
      (match (if okRef then st.remoteCtr c pc else none) with
       | some (key, w, off) => st.remoteAdd key w pc off 64
       | none => st.dropped)
    else st
  if flags / 2 % 2 = 1 then st.weirEvent c serial (flags / 4 % 16) produce else st

/-- How a line of an event record's writing ends: what follows it; a line that may not be written drops the record, counted (R381); none where it must wait. -/
def EngEnd.event (r : EngEnd) (k : State → State) : Option State :=
  match r with
  | .done st => some (k st)
  | .wait _ | .later _ => none
  | .miss st _ _ | .prot st _ => some st.dropped

/-- The header line of an event record read, shared at the directory (R379, R381, R473): the record waits with it, or is dropped and counted. -/
def State.readHead (st : State) (c ev : Nat) (e : EventRec) : Option State :=
  match (if ev = 0 ∨ ev % 128 ≠ 0 then Acc.prot { cause := .prot } st else st.access c (.unit 0) ev .rw 4 true) with
  | .wait => none
  | .ok _ _ st1 =>
    let r := st1.hubRead c ev 128 4
    r.1.event fun st => if (eventHeader r.2).isNone then st.dropped else { st with eventQ := { e with head := some r.2 } :: st.eventQ }
  | _ => some st.dropped

/-- The next of an event record's memory events (R177, R381): its header line read; then LOST, or the record; then PRODUCE, with what follows it. TIME passes the log as a
CDC record of a port's recorder (R398). The record leaves the queue with its last one. None where a line or the log has it wait. -/
def State.writeEvent (st : State) (e : EventRec) : Option State :=
  match st.ctxOfDomain e.dom with
  | none => some st.dropped
  | some c =>
    let ev := (st.domain e.dom).evhdr
    match e.head with
    | none => st.readHead c ev e
    | some hd =>
      match eventHeader hd with
      | none => some st.dropped
      | some (base, n, flags, produce, consume, lost, ctr, serial) =>
        if e.wrote then
          (st.hubWrites 4 c (ev + 16) 8 255 ((produce + 1) % 2 ^ 64) 4).event fun st => st.eventTold c flags ctr serial produce
        else if 2 ^ n ≤ (produce + 2 ^ 64 - consume) % 2 ^ 64 then
          (st.hubWrites 4 c (ev + 32) 8 255 ((lost + 1) % 2 ^ 64) 4).event fun st => st
        else
          let mk := [8 * 2 ^ 60 + 2 ^ 55 + 7 * 2 ^ 51 + produce % 2 ^ 37, e.time]
          (st.gate c e.rid (fun r => decide (r.headD 0 / 2 ^ 60 = 8)) (fun _ => true) mk).bind fun r =>
            (r.1.hubWrites 4 c (base + 64 * (produce % 2 ^ n)) 64 (2 ^ 64 - 1) (e.word (r.2.getD 1 0)) 4).event fun st =>
              { st with eventQ := { e with wrote := true } :: st.eventQ }

/-- The oldest event record that waits has its next memory events, as many as it may of those given. -/
def State.drainEvents (fuel : Nat) (st : State) : State :=
  match fuel, st.eventQ with
  | n + 1, e :: rest => match ({ st with eventQ := rest }).writeEvent e with
    | some st => State.drainEvents n st
    | none => st
  | _, _ => st

/-- Some of the memory events that the event records still need, how many in the time that passes is free (timing). -/
def State.someEvents (st : State) : State :=
  if st.eventQ = [] then st else State.drainEvents (Config.freeNat st.free % (3 * st.eventQ.length + 1)) { st with free := st.free + 1 }

/-- An event record formed at a time (R381): written behind those that still wait, as time passes. -/
def State.eventRecordAt (st : State) (dom cls port slot code detail rid formed : Nat) (h : BitVec 256) : State :=
  { st with eventQ := st.eventQ ++ [{ dom := dom, cls := cls, port := port, slot := slot, code := code, detail := detail, rid := rid, time := formed, hdr := h }] }

/-- An event record the hub forms now: its home port's recorder logs the time, port 0's where it has none (R398). -/
def State.eventRecord (st : State) (dom cls port slot code detail : Nat) (h : BitVec 256) : State :=
  st.eventRecordAt dom cls port slot code detail (674 + (if port < 36 then port else 0)) st.tai h

/-! Delivery (R220, R221, R228). -/

/-- a does not come after b among 32-bit sequence numbers. -/
def seqLe (a b : Nat) : Bool := decide ((b + 2 ^ 32 - a % 2 ^ 32) % 2 ^ 32 < 2 ^ 31)

/-- An acknowledgement of a triple up to a sequence number, or of one redirected packet, with the fault it reports (R221, R228; its layout is the
model's own). -/
def State.ackTo (st : State) (h : BitVec 256) (seq : Nat) (fault addr : Nat) : State :=
  let a := mkHdr (pSrc h) 3 st.devno (pChan h) false false (pDom h) seq 0 0 addr 0 fault
  st.leave { hdr := if pRedir h then pSet a 89 1 1 else a }

/-- A triple moved past the packet whose turn it is: the bytes of its transfer counted, and what earlier transfers' packets no longer tell forgotten (R220,
R228, R233). -/
def Triple.pass (t : Triple) (a : Arrived) : Triple :=
  let due := (t.due + 1) % 2 ^ 32
  let gone := fun (q : Nat) => !seqLe due q
  let rejects := t.rejects.filter fun q => !((t.lasts.any fun l => seqLe q l && gone l) || t.firsts.any fun f => seqLe q f && decide (f ≠ q) && seqLe f due)
  { t with due := due, landed := t.landed.filter (fun b => decide (b.seq ≠ a.seq)), rejects := rejects
           firsts := t.firsts.filter (fun q => decide (rejects ≠ []) || !gone q), lasts := t.lasts.filter (fun q => decide (rejects ≠ []) || !gone q)
           bytes := (if pFirst a.hdr then 0 else t.bytes) + pLen a.hdr, added := (!pFirst a.hdr && t.added) || a.adds }

/-- The packet whose turn it is in its triple has been passed, its addition made or none to make: acknowledged, and at its transfer's last packet the end of the
collective traced where an addition was made (R221, R233). -/
def State.passed (st : State) (key : Nat) (a : Arrived) : State :=
  let t := (mgetD st.triples key {}).pass a
  let st := { st with triples := mset st.triples key t }
  let h := a.hdr
  let st := if pStep h ≠ 0 ∧ pLast h ∧ t.added then
      st.trace 0 6 (st.ctxOfDomain (pDom h)) 0 (collPay (pStep h) (pChan h) (pKind h % 2) (pSrc h) t.bytes) else st
  if a.acked then st else st.ackTo h a.seq 0 0

/-- The triple's additions moved on past the landed packets that add nothing (R220), acknowledged. -/
def State.advance (fuel : Nat) (st : State) (key : Nat) : State :=
  match fuel with
  | 0 => st
  | k + 1 =>
    let t := mgetD st.triples key {}
    match t.landed.find? fun a => decide (a.seq = t.due) with
    | some a => if a.adds then st else State.advance k (st.passed key a) key
    | none => st

/-- The triple of a packet. -/
def tripleOf (h : BitVec 256) : Nat := pSrc h * 4 + pChan h

/-- A packet counted as delivered: it takes its place in its triple's order, with its addition or without one; a redirected one stands in no order
(R220). -/
def State.delivered (st : State) (h : BitVec 256) (adds : Bool) : State :=
  let key := tripleOf h
  if pRedir h then (if adds then { st with redirs := st.redirs ++ [{ seq := pSeq h, hdr := h, adds := true }] } else st.ackTo h (pSeq h) 0 0)
  else
    let t := mgetD st.triples key {}
    let st := { st with triples := mset st.triples key { t with landed := t.landed ++ [({ seq := pSeq h, hdr := h, adds := adds } : Arrived)] } }
    st.advance (t.landed.length + 1) key

/-- What an acknowledgement reports of a refused packet: the cause code, and the LEVEL and MALF bits of R337 that the destination found, or the lost die's
number (its layout is the model's own). -/
def faultWord (t : Trap) : Nat := causeCode t.cause + 32 * (if t.cause = .dieLost then t.detail else bits t.detail 9 7)

/-- A packet refused at its page, and the rest of its transfer with it (R228): no addition, a FAULT record, and the fault told to the source before the
packet is acknowledged. -/
def State.refuse (st : State) (p : Packet) (f : Trap) : State :=
  let key := tripleOf p.hdr
  let t : Triple := mgetD st.triples key {}
  let st := if pRedir p.hdr then st else { st with triples := mset st.triples key { t with rejects := t.rejects ++ [pSeq p.hdr] } }
  let st := st.eventRecord (pDom p.hdr) 17 0xFF 0xFF 0 f.addr p.hdr
  (st.ackTo (pSet p.hdr 89 1 1) (pSeq p.hdr) (faultWord f) f.addr).delivered p.hdr false

/-- A packet belongs to a transfer already refused (R228): a lower packet of its triple was, and the transfer of that one does not end before it: no LAST from there
on, no FIRST after it up to this one. None while packets between them, which would tell, have still to arrive. -/
def Triple.refused (t : Triple) (seq : Nat) : Option Bool :=
  let stops := fun (q : Nat) => (t.lasts.any fun l => seqLe q l && seqLe l seq && decide (l ≠ seq)) || t.firsts.any fun f => seqLe q f && seqLe f seq && decide (f ≠ q)
  let mine := t.rejects.filter fun q => seqLe q seq && decide (q ≠ seq) && !stops q
  let known := fun (q : Nat) =>
    let lo := if seqLe q t.due then t.due else (q + 1) % 2 ^ 32
    decide ((t.landed.filter fun a => seqLe lo a.seq && seqLe a.seq seq && decide (a.seq ≠ seq)).length = (seq + 2 ^ 32 - lo) % 2 ^ 32)
  if mine = [] then some false else if mine.any known then some true else none

/-- A packet put among those its triple holds, in the order of their sequence numbers (R228). -/
def Triple.hold (t : Triple) (p : Packet) : Triple :=
  let before := fun (q : Packet) => seqLe (pSeq q.hdr) (pSeq p.hdr)
  { t with held := t.held.filter before ++ (p :: t.held.filter fun q => !before q) }

/-- A packet held for a page (R228): its triple's later packets behind it; a redirected one, which stands in no order, alone. -/
def State.holdPacket (st : State) (p : Packet) : State :=
  if pRedir p.hdr then { st with redirHeld := st.redirHeld ++ [p] }
  else { st with triples := mset st.triples (tripleOf p.hdr) ((mgetD st.triples (tripleOf p.hdr) {}).hold p) }

/-- The aligned 128-byte pieces of a run: the address and length of each (R177). -/
def linePieces (va n : Nat) : List (Nat × Nat) :=
  ((List.range ((va % 128 + n + 127) / 128)).map fun i =>
    let lo := max va (lineOf va + 128 * i)
    (lo, min (va + n) (lineOf va + 128 * (i + 1)) - lo)).filter fun p => decide (p.2 ≠ 0)

/-- The pieces of a packet's payload that are still to be performed. -/
def Packet.todo (p : Packet) : List (Nat × Nat) := (linePieces (pDaddr p.hdr) (pLen p.hdr)).filter fun q => !(decide (q.1 ∈ p.done))

/-- Every page of a run may be written through a context's tables. -/
def State.mayLand (st : State) (c : Nat) (ps : List (Nat × Nat)) : EngEnd :=
  match ps with
  | [] => .done st
  | q :: r =>
    match st.access c (.unit 0) q.1 .w 3 true with
    | .wait => .wait st
    | .fault page t st => .miss st page t
    | .prot t st => .prot st t
    | .ok _ _ st => st.mayLand c r

/-- What a page that a packet meets does to it (R228): refused where it is declined or may not be written, held where the service must bring it. -/
def State.landed (c : Nat) (p : Packet) (r : EngEnd) (k : State → Option State) : Option State :=
  match r with
  | .wait _ | .later _ => none
  | .prot st t => some (st.refuse p t)
  | .miss st page t =>
    let s := st.pageFault c (.unit 0) page t.detail 0 t.addr
    some (if s.declined then s.st.refuse p t else s.st.holdPacket p)
  | .done st => k st

/-- The whole payload has been performed: the packet takes its place in its triple's order, with its addition where the counter is found (R220, R223). -/
def State.arrived (st : State) (h : BitVec 256) : State :=
  let v := decide (2 ^ 63 ≤ pCtr h)
  match (if v then st.remoteCtr ((st.ctxOfDomain (pDom h)).getD 0) (pCtr h) else none) with
  | some _ => st.delivered h true
  | none => (if v then st.eventRecord (pDom h) 16 0xFF 0xFF 0 0 h else st).delivered h false

/-- One line of a packet's payload performed at the L3, whichever is free; after the last the packet has arrived (R177, R220, R473). None where the step must
wait. -/
def State.landLine (st : State) (c : Nat) (p : Packet) : Option State :=
  match p.todo[Config.freeNat st.free % p.todo.length]? with
  | none => some (st.arrived p.hdr)
  | some (va, n) =>
    let off := va - pDaddr p.hdr
    State.landed c p (st.hubWrite c va n (2 ^ n - 1) (p.pay / 2 ^ (8 * off) % 2 ^ (8 * n)) 3) fun st =>
      let st := (List.range n).foldl (fun s i => if p.bad / 2 ^ (off + i) % 2 = 1 then
          (match s.access c (.unit 0) (va + i) .w 3 true with
           | .ok _ pa s => s.poison pa
           | _ => s) else s) { st with free := st.free + 1 }
      some (if p.todo.length = 1 then st.arrived p.hdr else { st with landing := st.landing ++ [{ p with done := va :: p.done }] })

/-- A packet translated, and the first line of its payload performed through the FABRIC path at the L3 (R220, R228); none where the step must wait. -/
def State.land (st : State) (p : Packet) : Option State :=
  let h := p.hdr
  let note := fun (b : Bool) (l : List Nat) => if b && !(decide (pSeq h ∈ l)) then l ++ [pSeq h] else l
  let st := if pRedir h then st else
    (let t : Triple := mgetD st.triples (tripleOf h) {}
     { st with triples := mput st.triples (tripleOf h) { t with firsts := note (pFirst h) t.firsts, lasts := note (pLast h) t.lasts } {} })
  let t := mgetD st.triples (tripleOf h) {}
  match st.ctxOfDomain (pDom h) with
  | none => some (st.dropped.delivered h false)
  | some c =>
    if !pRedir h && t.held.any fun q => seqLe (pSeq q.hdr) (pSeq h) then some (st.holdPacket p)
    else match (if pRedir h then some false else t.refused (pSeq h)) with
    | none => none
    | some true => some (st.delivered h false)
    | some false =>
      let va := pDaddr h
      let wide : Trap := { cause := .pageFault, detail := trDetail false 0 3 false true false false, addr := va % 2 ^ 52 }
      State.landed c p (if pLen h ≠ 0 ∧ 2 ^ 52 < va + pLen h then EngEnd.prot st wide else st.mayLand c p.todo) fun st => st.landLine c p

/-- The packets a triple holds for a page tried again, in order, once the service has answered (R228). -/
def State.retryHeld (st : State) (key : Nat) : State :=
  let t := mgetD st.triples key {}
  let st := { st with triples := mset st.triples key { t with held := [] } }
  t.held.foldl (fun s p => (s.land p).getD (s.holdPacket p)) st

/-- The redirected packets held for a page tried again (R220, R228). -/
def State.retryRedirs (st : State) : State := st.redirHeld.foldl (fun s p => (s.land p).getD (s.holdPacket p)) { st with redirHeld := [] }

/-- A packet with no payload whose domain has no context here is counted as dropped (R216). -/
def State.undomained (st : State) (h : BitVec 256) : State := if (st.ctxOfDomain (pDom h)).isNone then st.dropped else st

/-- A packet to a context that replays is held at ingress where its source is outside the replaying set, which is the domain's device set, as all of a job's devices replay
together (R436, R437; DEDUCED: log entry 60). -/
def State.ingressHeld (st : State) (h : BitVec 256) : Bool :=
  match st.ctxOfDomain (pDom h) with
  | some c => (st.ctx c).replay.any (fun r => !r.off) && !(st.domain (pDom h)).set.getLsbD (pSrc h)
  | none => false

/-- PACKET_ARRIVAL: a packet for this device at a port; one of this device's own turns at the hub. It is dropped where its source is dead or its KIND is
reserved; the domain's ingress Weir sees it first (R217, R220, R232, R370). One from outside a replaying set waits (R436). -/
def execPacketArrival (port : Nat) (hdr : BitVec 256) (pay : Nat) (st : State) : Ans :=
  let p : Packet := { hdr := hdr, pay := pay % 2 ^ (8 * pLen hdr) }
  let own := decide (pSrc hdr = st.devno) && !pRedir hdr
  let mine := st.outbox.find? fun q => decide (q.hdr = hdr)
  let p := match mine with
    | some q => if own then q else p
    | none => p
  .next (if pDst hdr ≠ st.devno ∨ 256 < pLen hdr ∨ 36 ≤ port ∨ port ∈ st.downPorts ∨ st.ingressHeld hdr then st
    else match st.landing.find? fun q => decide (q.hdr = hdr) with
    | some q => (({ st with landing := st.landing.filter fun x => decide (x.hdr ≠ hdr) } : State).landLine ((st.ctxOfDomain (pDom hdr)).getD 0) q).getD st
    | none =>
      if own && mine.isNone then st
      else
        let st0 := if own then { st with outbox := st.outbox.filter fun q => decide (q.hdr ≠ hdr) } else st
        if st.dead.getLsbD (pSrc hdr) then st0
        else if 6 ≤ pKind hdr then st0.dropped
        else match pKind hdr with
        | 0 | 1 =>
          match st0.weirFor (pDom hdr) false with
          | some (home, slot) => st0.toWeir home slot port p
          | none => (st0.land p).getD st
        | 2 | 4 => (st0.undomained hdr).delivered hdr false
        | _ => st)

/-- SKIP_NOTICE: a skip notice counts the withdrawn packet as delivered for its triple, adds nothing and is acknowledged (R377). -/
def execSkipNotice (hdr : BitVec 256) (st : State) : Ans :=
  let own := decide (pSrc hdr = st.devno)
  .next (if pDst hdr ≠ st.devno ∨ pKind hdr ≠ 5 ∨ st.dead.getLsbD (pSrc hdr) ∨ st.ingressHeld hdr then st
    else if own ∧ !st.outbox.any fun q => decide (q.hdr = hdr) then st
    else (({ st with outbox := if own then st.outbox.filter fun q => decide (q.hdr ≠ hdr) else st.outbox } : State).undomained hdr).delivered (pSet hdr 89 1 0) false)

/-- An ARRIVAL record of a counter addition (R422). -/
def recArrival (h : BitVec 256) : List Nat :=
  [6 * 2 ^ 60 + 2 ^ 55 + pSrc h * 2 ^ 41 + pChan h * 2 ^ 39 + (if pRedir h then 2 ^ 38 else 0) + pSeq h, bits (pCtr h) 55 39 * 2 ^ 47 + pCtr h % 2 ^ 39]

/-- One counter addition applied or discarded, in logged order where the context records (R220, R223, R239); none while its workgroup is pre-empted or parked, as
the addition then stands at the hub, and all later ones of its triple behind it. -/
def State.applyArrival (st : State) (h : BitVec 256) : Option State :=
  match st.ctxOfDomain (pDom h) with
  | none => some st
  | some c =>
    match st.remoteCtr c (pCtr h) with
    | none => some (st.eventRecord (pDom h) 16 0xFF 0xFF 0 0 h)
    | some (key, w, off) =>
      if !w.standing then none else
      let mk := recArrival h
      let sel := fun (r : List Nat) => decide (r.headD 0 / 2 ^ 60 = 6) && decide (bits (r.headD 0) 54 53 = 0)
      (st.gate c (w.core / 4) sel (fun r => decide (r = mk)) mk).map fun r =>
        (r.1.addAt w (pCtr h) off (pLen h)).updWg key fun w => { w with arrivals := w.arrivals.filter fun a => decide (a ≠ h) }

/-- An addition that is held at the hub, as its workgroup is pre-empted or parked (R223). -/
def State.holdsAdd (st : State) (h : BitVec 256) : Bool :=
  match (st.ctxOfDomain (pDom h)).bind fun c => st.remoteCtr c (pCtr h) with
  | some (_, w, _) => !w.standing
  | none => false

/-- The packets of a triple that have landed, one behind the other, from a SEQ on. -/
def Triple.run (fuel : Nat) (t : Triple) (seq : Nat) : List Arrived :=
  match fuel with
  | 0 => []
  | k + 1 =>
    match t.landed.find? fun a => decide (a.seq = seq) with
    | some a => a :: t.run k ((seq + 1) % 2 ^ 32)
    | none => []

/-- A triple whose due addition is held: the packets behind it that have landed are acknowledged meanwhile, in one acknowledgement, as R221 bounds only how late
one leaves and a held addition must let no dead-peer bound run out (R231, R434; DEDUCED: log entry 88). -/
def State.ackHeld (st : State) (key : Nat) : State :=
  let t := mgetD st.triples key {}
  let run := t.run (t.landed.length + 1) t.due
  match run.getLast? with
  | some a =>
    if a.acked then st
    else
      let seqs := run.map (·.seq)
      ({ st with triples := mset st.triples key { t with landed := t.landed.map fun x => if x.seq ∈ seqs then { x with acked := true } else x } } : State).ackTo a.hdr a.seq 0 0
  | none => st

/-- The first redirected packet whose addition is held and that has not been acknowledged is. -/
def State.ackRedir (st : State) : State :=
  match st.redirs.find? fun a => !a.acked && st.holdsAdd a.hdr with
  | some a => ({ st with redirs := st.redirs.map fun x => if x = a then { x with acked := true } else x } : State).ackTo a.hdr a.seq 0 0
  | none => st

/-- ARRIVAL_ADDITION: the addition of a triple that is due, once every lower SEQ's has been applied; or, with `redir`, the oldest addition of a redirected
packet that may be applied, which stands in no order (R220, R223). One that is held is acknowledged in its stead. -/
def execArrivalAddition (src chan : Nat) (redir : Bool) (st : State) : Ans :=
  .next (if redir then
      match firstSome (fun (p : Arrived) => (st.applyArrival p.hdr).map fun s => (p, s)) st.redirs with
      | none => st.ackRedir
      | some (p, s) =>
        let s := { s with redirs := s.redirs.erase p }
        let h := p.hdr
        let s := if pStep h ≠ 0 ∧ pLast h then s.trace 0 6 (s.ctxOfDomain (pDom h)) 0 (collPay (pStep h) (pChan h) (pKind h % 2) (pSrc h) (pLen h)) else s
        if p.acked then s else s.ackTo h (pSeq h) 0 0
    else
      let key := src * 4 + chan
      let t := mgetD st.triples key {}
      match t.landed.find? fun a => decide (a.seq = t.due) with
      | none => st
      | some a => match st.applyArrival a.hdr with
        | none => if st.holdsAdd a.hdr then st.ackHeld key else st
        | some st => (st.passed key a).advance (t.landed.length + 1) key)

/-- The additions of a triple that only await their turns, each one's before it being there, from the one that is due on; an addition to a workgroup that is not
placed ends them (R223). -/
def State.dueAdds (fuel : Nat) (st : State) (t : Triple) (seq : Nat) : List (BitVec 256) :=
  match fuel with
  | 0 => []
  | k + 1 =>
    match t.landed.find? fun a => decide (a.seq = seq) with
    | none => []
    | some a =>
      let here := match (st.ctxOfDomain (pDom a.hdr)).bind fun c => st.remoteCtr c (pCtr a.hdr) with
        | some (_, w, _) => w.standing
        | none => true
      if a.adds && !here then [] else (if a.adds then [a.hdr] else []) ++ st.dueAdds k t ((seq + 1) % 2 ^ 32)

/-- The additions that stood at the hub while a workgroup was pre-empted or parked, and that it must receive before it issues (R223). -/
def State.heldArrivals (st : State) (key : Nat) : List (BitVec 256) :=
  ((st.triples.flatMap fun e => st.dueAdds (e.2.landed.length + 1) e.2 e.2.due) ++ st.redirs.map (·.hdr)).filter fun h =>
    (((st.ctxOfDomain (pDom h)).bind fun c => st.remoteCtr c (pCtr h)).map (·.1)) = some key

/-! Acknowledgement and dead peers (R221, R228, R231 to R233). -/

/-- The group of this device that issued a packet, and its workgroup: those of the packet as it was sent to its first destination (R228). -/
def State.senderOf (st : State) (orig : Nat) (h : BitVec 256) : Nat × Nat :=
  match (mgetD st.unacked (orig * 4 + pChan h) []).find? fun u => decide (pSrc h = st.devno) && decide (pSeq u.pkt.hdr = pSeq h) && !pRedir u.pkt.hdr with
  | some u => (u.group, u.wg)
  | none => (0, 2 ^ 64)

/-- The hub times a packet that a Weir sends in the place of one for `orig` as its own (R376, R231), and keeps the group that is told of a fault (R228); one for a dead device
is forgotten (R232). -/
def State.relay (st : State) (orig : Nat) (p : Packet) : State :=
  let key := pDst p.hdr * 4 + pChan p.hdr
  let (g, w) := st.senderOf orig p.hdr
  if st.dead.getLsbD (pDst p.hdr) then st else
  { st with unacked := mset st.unacked key (mgetD st.unacked key [] ++ [({ pkt := p, sent := st.tai, group := g, wg := w } : Unacked)]) }

/-- An acknowledgement covers a packet: its own where it is for one, else every earlier one's that was not redirected (R220). -/
def Unacked.covered (u : Unacked) (seq fault : Nat) (one : Bool) : Bool :=
  if one then decide (pSeq u.pkt.hdr = seq) && (pRedir u.pkt.hdr || decide (fault ≠ 0)) else !pRedir u.pkt.hdr && seqLe (pSeq u.pkt.hdr) seq

/-- The trap a group takes where the destination refused its packet: deferred, with REM set and the destination's address, or DIE_LOST with the
die's number (R228, R337, R417). -/
def remoteTrap (fault addr : Nat) : Trap :=
  if fault % 32 = 14 then { cause := .dieLost, detail := fault / 32, addr := addr % 2 ^ 52 }
  else { cause := if fault % 32 = 6 then .prot else .pageFault, detail := trDetail (fault.testBit 7) (bits fault 6 5) 3 false true true true
         addr := addr % 2 ^ 52 }

/-- What a packet's acknowledgement does at its sender: a fault is told to the group that sent it, and the end of a collective is traced (R228, R452). -/
def State.acknowledged (st : State) (dev fault addr : Nat) (u : Unacked) : State :=
  let s := if fault ≠ 0 then st.deferAt u.group u.wg (remoteTrap fault addr) else st
  let h := u.pkt.hdr
  if pStep h ≠ 0 ∧ pLast h ∧ fault = 0 ∧ u.wg ≠ 2 ^ 64 ∧ !pRedir h then s.trace 0 6 (s.ctxOfDomain (pDom h)) 0 (collPay (pStep h) (pChan h) (pKind h % 2) dev u.bytes) else s

/-- PACKET_ACK: an acknowledgement from a device reaches this one's hub: cumulative, or of one packet (`one`); `fault` is what the destination reports of
that packet (`faultWord`), 0 for nothing. Those of one triple arrive in the order in which they left. -/
def execPacketAck (dev chan seq fault addr : Nat) (one : Bool) (st : State) : Ans :=
  let key := dev * 4 + chan
  let told := fun (q : Packet) => decide (pSeq q.hdr = seq) && (pRedir q.hdr == one) && decide (pUser q.hdr = fault) && decide (pDaddr q.hdr = addr)
  let own := st.outbox.find? fun q => decide (pKind q.hdr = 3) && decide (pDst q.hdr = dev) && decide (pChan q.hdr = chan)
  .next (if st.dead.getLsbD dev ∨ (dev = st.devno ∧ !own.any told) then st
    else
      let us := mgetD st.unacked key []
      let out := if dev = st.devno then st.outbox.filter fun q => decide (some q ≠ own) else st.outbox
      let st := (us.filter fun u => u.covered seq fault one).foldl (fun s u => s.acknowledged dev fault addr u) { st with outbox := out }
      if fault ≠ 0 then st else { st with unacked := mput st.unacked key (us.filter fun u => !u.covered seq fault one) [] })

/-- A converting view given back (R238): CONVERTING clears, the rest of the descriptor stays; the conversion is gone. -/
def State.endConv (st : State) (v : Conv) (d : BitVec 1024) : State :=
  let st := { st with convs := st.convs.filter fun x => decide (x ≠ v) }
  st.updWg v.wg fun w => { w with views := mput w.views v.slot (vSet d 99 1 0) 0 }

/-- A stream is held in an LDP. -/
def AWait.converts (w : AWait) : Bool :=
  match w with
  | .conv _ => true
  | _ => false

/-- A group held in an LDP goes on: its stream, or the one its frame holds, does what comes next. -/
def State.freeConv (st : State) (gid : Nat) (w : AWait) : State :=
  let f := fun (x : AWait) => if x.converts then w else x
  st.updGroup gid fun g => { g with await := f g.await, frame := g.frame.map fun fr => { fr with await := f fr.await } }

/-- A conversion that ends without effect (R232, R238): the view as it was, and the group held in the LDP takes a trap, a waiter's or a precise one (R407). -/
def State.abandonConv (st : State) (v : Conv) (k : TrapKind) (t : Trap) : State :=
  let st := st.endConv v ((mgetD st.workgroups v.wg { ctx := 0, grid := 0 }).view v.slot)
  let slot := match mget st.groups v.group with
    | some g => if g.tlevel && g.await.converts then 5 else 4
    | none => 4
  (st.freeConv v.group .ready).standingTrap v.group { trap := t, kind := k, acc := true, slot := slot }

/-- A group's waits of a kind end in a trap (R232, R407): its splits', its handler's, its access stream's and the one its frame holds. -/
def State.waitersTrap (st : State) (gid : Nat) (g : Group) (sw : SWait → Bool) (aw : AWait → Bool) (t : Trap) : State :=
  let all : List (Nat × Split) := g.splits ++ g.handler.toList.map fun s => (5, s)
  let here := (all.filter fun p => sw p.2.wait).map (·.1)
  let st := here.foldl (fun s i => s.waiterTrap gid false i t) st
  let st := if aw g.await then st.waiterTrap gid true (if g.tlevel then 5 else 4) t else st
  if g.frame.any fun f => aw f.await then st.waiterTrap gid true 4 t else st

/-- What a conversion does (R234). -/
inductive ConvAct where
  | gather | reduce | scatter | slice
  deriving DecidableEq, Repr

/-- The action that changes one axis byte into another, none where R234 allows none. -/
def convAct (ndim from_ to_ : Nat) : Option ConvAct :=
  if !placeByteOk ndim to_ then none
  else match from_ % 4, to_ % 4 with
    | 1, 2 => some .gather
    | 3, 2 => some .reduce
    | 3, 1 => some .scatter
    | 2, 1 => some .slice
    | _, _ => none

/-- The dimension a conversion of an axis byte concerns. -/
def convDim (from_ to_ : Nat) : Nat := if from_ % 4 = 1 then from_ / 4 % 8 else to_ / 4 % 8

/-- The dimension a conversion splits or joins (R236, R237). -/
def Conv.dim (v : Conv) : Nat := convDim (placeByte (vPlace v.view) v.axis) v.toByte

/-- What a conversion does (R236). -/
def Conv.act (v : Conv) : Option ConvAct := convAct (vNdim v.view) (placeByte (vPlace v.view) v.axis) v.toByte

/-- That dimension's extent after it. -/
def Conv.newExt (v : Conv) : Nat :=
  let e := vExt v.view v.dim
  match v.act with
  | some .gather => v.devs.length * e
  | some .scatter => e / v.devs.length
  | _ => e

/-- The bytes of its dense result. -/
def Conv.bytes (v : Conv) : Nat :=
  boxSize (((List.range (vNdim v.view)).map (vExt v.view)).set v.dim v.newExt) * vEsize v.view

/-- The bytes of a dense result in CBUF after an abandoned conversion: undefined, so free values, where the buffer may be written (R238). -/
def State.spoilCbuf (st : State) (v : Conv) (n : Nat) : State :=
  match ({ st with free := st.free + 1 } : State).hubWrites (n / 128 + 2) v.ctx (vCbuf v.view) n (2 ^ n - 1) (Config.freeNat st.free % 2 ^ (8 * n)) 3 with
  | .done st => st
  | _ => st

/-- The dead-peer bit of a device set (R232): its unacknowledged packets are forgotten, conversions that include it are abandoned, and the groups that wait
on a counter or in such an LDP take PEER_DEAD. -/
def State.setDead (st : State) (n : Nat) : State :=
  if st.dead.getLsbD n then st else
  let st := { st with dead := st.dead ||| BitVec.ofNat 4096 (2 ^ n), unacked := st.unacked.filter fun e => decide (e.1 / 4 ≠ n) }
  let t : Trap := { cause := .peerDead, detail := n }
  let st := (st.convs.filter fun v => decide (n ∈ v.devs)).foldl (fun s v => (s.spoilCbuf v v.bytes).abandonConv v .waiter t) st
  let doms := (st.domains.filter fun d => d.2.set.getLsbD n).map (·.1)
  let sw := fun (w : SWait) => match w with
    | .waitc _ _ _ => true
    | _ => false
  let aw := fun (w : AWait) => match w with
    | .counter _ _ _ => true
    | _ => false
  let stands := fun (g : Group) =>
    (((g.splits ++ g.handler.toList.map fun s => (5, s)).filter fun (p : Nat × Split) => sw p.2.wait).map fun (p : Nat × Split) => ({ trap := t, kind := .waiter, slot := p.1 } : Pend))
      ++ (if aw g.await then [({ trap := t, kind := .waiter, acc := true, slot := if g.tlevel then 5 else 4 } : Pend)] else [])
      ++ (if g.frame.any fun f => aw f.await then [({ trap := t, kind := .waiter, acc := true, slot := 4 } : Pend)] else [])
  let named := fun (c : Nat) => (st.ctx c).domain.any fun d => decide (d ∈ doms)
  let st := { st with workgroups := mmap st.workgroups fun _ w => if named w.ctx then
      { w with saved := mmap w.saved fun _ g => (stands g).foldl (fun g p => (if g.pend.any (samePend p) then g else { g with pend := g.pend ++ [p] }).endWait p) g } else w }
  st.groups.foldl (fun s e => if named (s.ctxOf e.2) then s.waitersTrap e.1 e.2 sw aw t else s) st

/-- DEAD_PEER_TIMEOUT: a packet to a device has stood unacknowledged for the timeout (R231), by device time (DESIGN CHOICE: log entry 101). -/
def execDeadPeerTimeout (dev : Nat) (st : State) : Ans :=
  .next (if (List.range 4).any fun ch => (mgetD st.unacked (dev * 4 + ch) []).any fun u => decide (u.sent + 1000 * st.peertmo ≤ st.tai) then st.setDead dev
    else st)

/-- FABRIC_LINK_FAILURE: a port whose link has failed stops being live (R413, R219). -/
def execFabricLinkFailure (port : Nat) (st : State) : Ans :=
  .next (if port < 36 ∧ port ∉ st.downPorts then { st with downPorts := st.downPorts ++ [port] } else st)

/-! LDP (R234 to R238). -/

/-- RTYPE is accepted for a reduction, or 0 without one (R235, R237). -/
def rtypeOk (act : ConvAct) (rop rtype esize : Nat) : Bool :=
  let t := etyOf rtype
  match act with
  | .reduce | .scatter =>
    (decide (t ∈ [ETy.i32, .i64, .f16, .bf16, .f32, .f64]) || (decide (rop = 1) && decide (t ∈ [ETy.n32, .n64]))) && decide (t.width = 8 * esize)
  | _ => decide (rtype = 0)

/-- The devices of the axis group that holds a device, in coordinate order, and the device's coordinate (R233, R234). -/
def axisGroup (m : List Nat × List Nat) (axis dev : Nat) : Option (List Nat × Nat) :=
  match m.2.findIdx? fun d => decide (d = dev) with
  | none => none
  | some i =>
    let s := m.1.getD axis 1
    let stride := (m.1.take axis).foldl (· * ·) 1
    let c := i / stride % s
    some ((List.range s).map fun k => m.2.getD (i - c * stride + k * stride) 0, c)

/-- PLACEMENT with a detail (R237). -/
def placement (d : Nat) : Trap := { cause := .placement, detail := d }

/-- A view after a local slice (R236). -/
def sliceView (d : BitVec 1024) (axis byte c s : Nat) : BitVec 1024 :=
  let j := byte / 4 % 8
  let e := vExt d j / s
  let base : Int := (vBase d : Int) + vEsize d * (c * e : Nat) * vStr d j
  vSet (vSet (vSet d 0 64 (low 64 base)) (256 + 64 * j) 32 e) (128 + 8 * axis) 8 byte

/-- The group's own stores to a view's bytes are performed (R194, R237). -/
def State.storesDone (st : State) (gid : Nat) (g : Group) (d : BitVec 1024) : Bool :=
  let c := st.ctxOf g
  (g.memq.all fun a => decide ((kindNeed a.kind).1 = .r) || (a.resolved && a.lines.all fun l => l.done || !st.storeMeets c a.esize d l))
    && !st.spilledBy gid g.wg fun e => st.storeMeets c e.access.esize d e.line

/-- A number of conversions: those of a domain's mesh and axis (R238). -/
def convKey (dom mesh axis : Nat) : Nat := (dom * 256 + mesh) * 4 + axis

/-- A conversion's submission sent to another device of its axis group (R238; KIND 2). Its packet carries no address and no payload: their layout, and the
packets that carry the shards, are not given (DESIGN CHOICE: log entry 22). -/
def State.convPacket (st : State) (dom step dst : Nat) : Packet := { hdr := mkHdr dst 2 st.devno 0 true true dom 0 0 step 0 0 0 }

/-- A conversion submitted to the placement unit (R194, R237, R238): numbered, CONVERTING set, the other devices told, the stream held. None where the log
says to wait. -/
def State.submitConv (st : State) (gid : Nat) (g : Group) (cv : Conv) : Option State :=
  (st.seqTicket cv.ctx 2 (locOf gid 0) g.icntA).map fun r =>
    let key := convKey cv.dom cv.mesh cv.axis
    let num := mgetD r.1.convNum key 0
    let st := { r.1 with convs := r.1.convs ++ [{ cv with num := num }], convNum := mset r.1.convNum key (num + 1) }
    let st := (cv.devs.filter fun (n : Nat) => decide (n ≠ r.1.devno)).foldl (fun s n => s.hubSend (s.convPacket cv.dom cv.step n)) st
    (st.updWg cv.wg fun w => { w with views := mput w.views cv.slot (vSet cv.view 99 1 1) 0 }).updGroup gid fun g => { g with await := .conv cv.slot }

/-- The tile load of an LDP whose conversion has been made: LDT on the view as that left it (R237). Where it cannot issue yet it keeps that view, and the page that holds it. -/
def State.convLoad (st : State) (gid : Nat) (gr : Group) (m : Am) (q : Nat) (dv : BitVec 1024) : IEff :=
  let st := st.updGroup gid fun g => { g with await := .ready }
  match st.tileLoad gid { gr with await := .ready } m q (checkedDesc dv m.slot m.cb) with
  | .hold st => .hold (st.updGroup gid fun g => { g with await := .ldp dv g.await.page })
  | r => r

/-- The view that an LDP's conversion has left, where the stream stands at an LDP whose conversion has been made (R237). -/
def AWait.made : AWait → Option (BitVec 1024)
  | .ldp dv none => some dv
  | _ => none

/-- The guard of an LDP: what its GSET has given, false where the compute stream has ended without it, none while it is not known (R89, R237). -/
def Group.ldpGuard (g : Group) (guard : Option Nat) : Option Bool :=
  match guard with
  | none => some true
  | some i => match (mgetD g.guards i {}).res with
    | r :: _ => some r
    | [] => if g.cend then some false else none

/-- LDP: LDT preceded by the conversion it needs (R237). A guard is taken by the tile load; a conversion waits for it (log entry 48).
Where several devices of the axis group are dead, PEER_DEAD names the first in coordinate order (R232; DESIGN CHOICE: log entry 104). -/
def execLdp (s : BitVec 1) (q : BitVec 3) (v a : BitVec 5) (d g : BitVec 3) (e : BitVec 1) (c : BitVec 2) (st : State) : Ans :=
  issueA st s { legal := decide (q.toNat < 4) && guardOk g e } fun st gr =>
    let gid := st.issuer.group
    let m := amOf v a d g e c
    match gr.await.made with
    | some dv => st.convLoad gid gr m q.toNat dv
    | none =>
    match (st.wgOf gr).checkedView m.slot m.cb with
    | .inl t => .trap t st
    | .inr dv =>
      let load := st.tileLoad gid gr m q.toNat (.inr dv)
      let req := (gr.getA (m.cb + vNdim dv)).toNat
      if 31 < m.cb + vNdim dv ∨ 2 ^ 44 ≤ req then .trap (viewFault m.slot 12) st
      else if vConverting dv then .hold st
      else
        match (st.ctx (st.ctxOf gr)).domain with
        | none => .trap { cause := .prot } st
        | some dom =>
          match (List.range 4).filter fun i => decide (placeByte (vPlace dv) i ≠ placeByte (req % 2 ^ 32) i) with
          | [] => load
          | [i] =>
            let from_ := placeByte (vPlace dv) i
            let to_ := placeByte (req % 2 ^ 32) i
            let mesh := if vMesh dv / 256 = 0 then mget (st.domain dom).meshes (vMesh dv) else none
            let grp := mesh.bind fun ms => axisGroup ms i st.devno
            let ext := vExt dv (convDim from_ to_)
            let rtype := bits req 35 32
            match convAct (vNdim dv) from_ to_ with
            | none => .trap (placement 1) st
            | some act =>
              if (act = .scatter ∨ act = .slice) ∧ (grp.any fun p => decide (ext % p.1.length ≠ 0)) then .trap (placement 4) st
              else if !rtypeOk act (from_ / 32 % 2) rtype (vEsize dv) then .trap (placement 6) st
              else match grp with
              | none => .trap (placement 7) st
              | some (devs, me) =>
                match (if act = .slice then none else devs.find? fun n => decide (n ≠ st.devno) && st.dead.getLsbD n) with
                | some n => .trap { cause := .peerDead, detail := n } st
                | none =>
                  match gr.ldpGuard m.guard with
                  | none => .hold st
                  | some false => load
                  | some true =>
                    if act = .slice then
                      let sv := sliceView dv i to_ me devs.length
                      (st.updWg gr.wg fun w => { w with views := mput w.views m.slot sv 0 }).convLoad gid gr m q.toNat sv
                    else if !st.storesDone gid gr dv then .hold st
                    else .hold ((st.submitConv gid gr
                      { num := 0, dom := dom, ctx := st.ctxOf gr, group := gid, wg := gr.wg, slot := m.slot, mesh := vMesh dv, axis := i, toByte := to_
                        rtype := rtype, step := bits req 43 36, devs := devs, me := me, view := dv }).getD st)
          | _ => .trap (placement 2) st

/-- Two devices' requests agree (R238): ESIZE, NDIM, every EXT, the axis bytes, RTYPE. -/
def convAgrees (v : Conv) (s : Nat × BitVec 1024 × Nat × Nat) : Bool :=
  let d := s.2.1
  decide (vEsizeCode d = vEsizeCode v.view) && decide (vNdim d = vNdim v.view) && (List.range 8).all (fun i => decide (vExt d i = vExt v.view i))
    && decide (placeByte (vPlace d) v.axis = placeByte (vPlace v.view) v.axis) && decide (s.2.2.1 = v.toByte) && decide (s.2.2.2 = v.rtype)

/-- CONVERSION_MATCH: every other device of the axis group has submitted its k-th conversion, each given with its device number, descriptor, required byte and
RTYPE; the collective starts, or every group takes PLACEMENT 3 (R238). COLL_START carries the bytes of this device's shard, COLL_END those of the result (R233; DESIGN CHOICE: log entry 105). -/
def execConversionMatch (i : Nat) (subs : List (Nat × BitVec 1024 × Nat × Nat)) (st : State) : Ans :=
  .next (match st.convs[i]? with
    | none => st
    | some v =>
      if v.matched || (st.convs.take i).any (fun u => !u.matched && decide (convKey u.dom u.mesh u.axis = convKey v.dom v.mesh v.axis))
          || !v.devs.all (fun n => decide (n = st.devno) || subs.any fun s => decide (s.1 = n)) then st
      else if (subs.filter fun s => decide (s.1 ∈ v.devs) && decide (s.1 ≠ st.devno)).all (convAgrees v) then
        let st := { st with convs := st.convs.map fun u => if u = v then { u with matched := true } else u }
        if v.step ≠ 0 then st.trace 0 5 (some v.ctx) 0 (collPay v.step 0 2 v.axis (boxSize ((List.range (vNdim v.view)).map (vExt v.view)) * vEsize v.view)) else st
      else st.abandonConv v .precise (placement 3))

/-- The addresses of this device's shard, in dense order (R236). -/
def Conv.addrs (v : Conv) : List Nat :=
  (boxOf ((List.range (vNdim v.view)).map (vExt v.view))).map fun j => (elemAddr v.view (j.map fun x => (x : Int))).toNat

/-- The lines of this device's shard that the placement unit has still to read (R177, R194). -/
def Conv.toRead (v : Conv) : List Nat := ((spread (vEsize v.view) v.addrs).map lineOf).eraseDups.filter fun l => (mget v.snap l).isNone

/-- The elements of this device's shard, from the lines read, in dense order (R194, R236). -/
def Conv.dense (v : Conv) : List Nat :=
  let n := vEsize v.view
  v.addrs.map fun a => (mgetD v.snap (lineOf a) 0 + mgetD v.snap (lineOf a + 128) 0 * 2 ^ 1024) / 2 ^ (8 * (a % 128)) % 2 ^ (8 * n)

/-- One reduction step (R235): ADD or MAX of the element type, floating steps rounded by RNE. -/
def reduceStep (rop rtype a b : Nat) : Nat :=
  let t := etyOf rtype
  let w := t.width
  if t.isFloat then
    let fm := fmtOf t
    (if rop = 0 then addF fm .rne (readF fm a) (readF fm b) else minmaxF fm true (readF fm a) (readF fm b)).bits
  else if rop = 0 then (a + b) % 2 ^ w
  else if (readInt t a).1 < (readInt t b).1 then b else a

/-- A dense index of a box. -/
def denseIdx (counts j : List Nat) : Nat :=
  ((counts.zip j).foldl (fun (acc : Nat × Nat) p => (acc.1 + p.2 * acc.2, acc.2 * p.1)) (0, 1)).1

/-- The view a gather or reduction leaves (R236). -/
def convView (d : BitVec 1024) (axis byte j newExt : Nat) : BitVec 1024 :=
  let d1 := vSet (vSet (vSet d 0 64 (vCbuf d)) 192 64 0) (256 + 64 * j) 32 newExt
  let d2 := (List.range (vNdim d)).foldl (fun x i => vSet x (288 + 64 * i) 32 (boxSize ((List.range i).map (vExt d1)))) d1
  vSet d2 (128 + 8 * axis) 8 byte

/-- The dense elements a conversion leaves here, from every device's, by coordinate (R237). -/
def Conv.out (v : Conv) (shard : Nat → List Nat) : List Nat :=
  let d := v.view
  let exts := (List.range (vNdim d)).map (vExt d)
  let e := vExt d v.dim
  (boxOf (exts.set v.dim v.newExt)).map fun ix =>
    let p := ix.getD v.dim 0
    match v.act with
    | some .gather => (shard (p / e)).getD (denseIdx exts (ix.set v.dim (p % e))) 0
    | a =>
      let full := denseIdx exts (if a = some .scatter then ix.set v.dim (p + v.me * v.newExt) else ix)
      let xs := (List.range v.devs.length).map fun k => (shard k).getD full 0
      xs.tail.foldl (reduceStep (placeByte (vPlace d) v.axis / 32 % 2) v.rtype) (xs.headD 0)

/-- The shard of coordinate `k`: this device's own, or what that device sent. -/
def Conv.shard (v : Conv) (own : List Nat) (data : List (Nat × List Nat)) (k : Nat) : List Nat :=
  if k = v.me then own else ((data.find? fun p => decide (p.1 = k)).map (·.2)).getD []

/-- A conversion written: the view rewritten, its slot free, the core's pts raised, the LDP's load to come (R235, R237). -/
def State.converted (st : State) (v : Conv) : State :=
  let dv := convView v.view v.axis v.toByte v.dim v.newExt
  let st := st.endConv v dv
  let st := (st.raisePts (gCore v.group) (st.die (gDie v.group)).maxT).freeConv v.group (.ldp dv)
  if v.step ≠ 0 then st.trace 0 6 (some v.ctx) 0 (collPay v.step 0 2 v.axis v.bytes) else st

/-- The pieces of CBUF that a conversion has still to write. -/
def Conv.todo (v : Conv) : List (Nat × Nat) := (linePieces (vCbuf v.view) v.bytes).filter fun p => !(decide (p.1 ∈ v.wrote))

/-- A conversion abandoned for a page it may not use: TADDR is the lowest byte there that it still had to read, or to write (R337; log entry 49). -/
def State.failConv (st : State) (v : Conv) (page : Nat) (t : Trap) : State :=
  let d := v.view
  let as := if v.result.isSome then v.todo.map fun p => max p.1 (page * 2 ^ 16) else spread (vEsize d) v.addrs
  st.abandonConv v .precise { t with addr := ((as.filter fun a => decide (a / 2 ^ 16 = page)).min?).getD t.addr, declined := decide (t.cause = .pageFault) }

/-- What a line of a conversion's reads or writes gave: a page to bring holds the conversion; one declined or without permission abandons it (the model's
choice). -/
def Conv.settle (v : Conv) (st0 : State) (r : EngEnd) (k : State → State) : State :=
  match r with
  | .done st => k st
  | .wait _ | .later _ => st0
  | .prot st t => st.failConv v (t.addr / 2 ^ 16) t
  | .miss st page t =>
    let q := st.pageFault v.ctx (.unit 0) page t.detail 0 t.addr
    if q.declined then q.st.failConv v page t else q.st

/-- A conversion with what it holds changed. -/
def State.updConv (st : State) (v : Conv) (f : Conv → Conv) : State := { st with convs := st.convs.map fun u => if u = v then f u else u }

/-- CONVERSION_COMPLETE: one part of what a matched conversion does (R177, R235 to R237). First the lines of this device's shard are read, one by one in a free order; then,
with the other devices' shards, by coordinate, as dense elements, the result is there. Then the lines of CBUF, likewise; with the last, in one step, the view is
rewritten, CONVERTING cleared, and the issuing core's pts raised. -/
def execConversionComplete (i : Nat) (data : List (Nat × List Nat)) (st : State) : Ans :=
  .next (match st.convs[i]? with
    | none => st
    | some v =>
      let d := v.view
      if !v.matched then st else
      match v.result with
      | none =>
        match v.toRead[Config.freeNat st.free % v.toRead.length]? with
        | some l =>
          let r := st.hubRead v.ctx l 128 3
          v.settle st r.1 fun st => ({ st with free := st.free + 1 } : State).updConv v fun u => { u with snap := mset u.snap l r.2 }
        | none =>
          if (List.range v.devs.length).all (fun k => decide (k = v.me) || data.any fun p => decide (p.1 = k)) then
            st.updConv v fun u => { u with result := some (v.out (v.shard v.dense data)) }
          else st
      | some out =>
        match v.todo[Config.freeNat st.free % v.todo.length]? with
        | none => st.converted v
        | some (va, n) =>
          let x := packN (8 * vEsize d) out / 2 ^ (8 * (va - vCbuf d)) % 2 ^ (8 * n)
          v.settle st (st.hubWrite v.ctx va n (2 ^ n - 1) x 3) fun st =>
            let st := { st with free := st.free + 1 }
            if v.todo.length = 1 then st.converted v else st.updConv v fun u => { u with wrote := va :: u.wrote })

end Sys2Proof.Machine
end

