-- ==== Sys2Proof/Machine/Weir.lean ====
section
/-! DEFINITION. Weir processors (R369 to R399): the instructions of a kernel, its end and what becomes of the packet and its copies, the loader and its
checks, and the commands on a slot. A kernel instruction acts on the run of the port whose turn it is (`cursor`). -/

namespace Sys2Proof.Machine

/-! A kernel in process (R375). -/

/-- What follows one kernel instruction: the next word, another word, the kernel's end by forwarding or dropping, or end_error with a class and CODE. -/
inductive WNext where
  | go
  | jump (pc : Nat)
  | fin (fwd : Bool)
  | err (cls code : Nat)
  deriving DecidableEq, Repr

/-- The effect of one kernel instruction. -/
structure WOut where
  st : State
  run : WeirRun
  next : WNext := .go

/-- A W register. -/
def WeirRun.getW (r : WeirRun) (i : Nat) : BitVec 256 := mgetD r.w i 0#256
/-- An X register. -/
def WeirRun.getX (r : WeirRun) (i : Nat) : BitVec 32 := mgetD r.x i 0#32
/-- A W register written. -/
def WeirRun.putW (r : WeirRun) (i : Nat) (v : BitVec 256) : WeirRun := { r with w := mset r.w i v }
/-- An X register written. -/
def WeirRun.putX (r : WeirRun) (i : Nat) (v : BitVec 32) : WeirRun := { r with x := mset r.x i v }

/-- Lane i of a W register. -/
def wlane (v : BitVec 256) (i : Nat) : BitVec 32 := v.extractLsb' (32 * i) 32
/-- A W register of 8 lanes (R369). -/
def wlanes (f : Nat → BitVec 32) : BitVec 256 := BitVec.ofNat 256 (packN 32 ((List.range 8).map fun i => (f i).toNat))

/-- The pc moved on, around a WREP body where one is in progress (R393). -/
def WeirRun.advance (r : WeirRun) : WeirRun :=
  match r.rep with
  | some (first, last, left) =>
    if r.pc = last then (if 1 < left then { r with pc := first, rep := some (first, last, left - 1) } else { r with pc := last + 1, rep := none })
    else { r with pc := r.pc + 1 }
  | none => { r with pc := r.pc + 1 }

/-- A Weir's record changed. -/
def State.updWeir (st : State) (port : Nat) (f : Weir → Weir) : State := { st with weirs := mset st.weirs port (f (mgetD st.weirs port {})) }

/-- A packet that a Weir sends away: REDIR = 1, timed as the hub's own (R376). An ingress slot's packet passes the domain's egress slot as any packet the
device sends (R370). -/
def State.sendOn (st : State) (egress : Bool) (orig : Nat) (p : Packet) : State :=
  let q := { p with hdr := pSet p.hdr 89 1 1 }
  let st := st.relay orig q
  if egress then st.leave q else st.send q

/-- A DST other than orig is denied: outside the domain's device set, or dead (R376). -/
def State.denied (st : State) (dom dst : Nat) : Bool := !(st.domain dom).set.getLsbD dst || st.dead.getLsbD dst

/-- The queued copies sent, each denied one recorded and discarded; a copy for this device at ingress is delivered here (R376, R395). -/
def State.sendCopies (st : State) (port sl : Nat) (egress : Bool) (orig : Nat) (cs : List (Nat × Packet)) : Option State :=
  match cs with
  | [] => some st
  | (x, p) :: rest =>
    let dom := pDom p.hdr
    let q := { p with hdr := pSet p.hdr 0 12 x }
    let st' := if 2 ^ 12 ≤ x ∨ (x ≠ orig ∧ st.denied dom x) then some (st.eventRecord dom 4 port sl (x % 2 ^ 12) 0 q.hdr)
      else if x = st.devno ∧ !egress then st.land { q with hdr := pSet q.hdr 89 1 1 }
      else some (st.sendOn egress orig q)
    match st' with
    | some st => st.sendCopies port sl egress orig rest
    | none => none

/-- A skip notice of a packet withdrawn at egress (R377). -/
def skipNotice (h : BitVec 256) (orig : Nat) : Packet :=
  { hdr := pSet (mkHdr orig 5 (pSrc h) (pChan h) false false (pDom h) (pSeq h) 0 0 0 0 0) 89 1 (if pRedir h then 1 else 0) }

/-- The kernel's end (R375, R376): the packet and its copies disposed of; none where the packet's delivery must wait. -/
def State.endWeir (st : State) (port : Nat) (s : WeirSlot) (r : WeirRun) (e : WNext) : Option State :=
  let h := r.pkt.hdr
  let dom := pDom h
  let st := st.updWeir port fun w => { w with run := none }
  let away := decide (pDst h ≠ r.orig)
  let tooFar := fun (fwd : Bool) => pRedir h && (decide (r.copies ≠ []) || (fwd && away))
  let (fwd, copies, st) := match e with
    | .fin fwd => if tooFar fwd then (false, [], st.eventRecord dom 6 port r.slot 0 0 h) else (fwd, r.copies, st)
    | .err cls code => (false, [], st.eventRecord dom cls port r.slot code 0 h)
    | _ => (false, [], st)
  let bad := fwd && away && st.denied dom (pDst h)
  let st := if bad then st.eventRecord dom 4 port r.slot (pDst h) 0 h else st
  let fwd := fwd && !bad
  let own := if s.egress then
      if !fwd then some (st.leave (skipNotice h r.orig))
      else if away then some ((st.sendOn true r.orig r.pkt).leave (skipNotice h r.orig))
      else some (st.leave r.pkt)
    else
      if !fwd then some (st.delivered h false)
      else if away then some ((st.delivered h false).sendOn false r.orig r.pkt)
      else st.land r.pkt
  own.bind fun st => st.sendCopies port r.slot s.egress r.orig copies

/-- One kernel instruction of a cost on the run of the port whose turn it is (R375). -/
def weirOp (cost : Nat) (st : State) (body : Nat → WeirSlot → State → WeirRun → WOut) : Ans :=
  match st.cursor with
  | .weir port =>
    match (mgetD st.weirs port {}).run with
    | none => .fault .noIssuer
    | some r0 =>
      match mget (mgetD st.weirs port {}).slots r0.slot with
      | none => .fault .noIssuer
      | some s =>
        let r := { r0 with cyc := r0.cyc + cost }
        if 256 < r.cyc then .next ((st.endWeir port s r (.err 2 0)).getD st)
        else
          let o := body port s st r
          let put := fun (r : WeirRun) => o.st.updWeir port fun w => { w with run := some r }
          .next (match o.next with
            | .go => put o.run.advance
            | .jump pc => put { o.run with pc := pc }
            | e => (o.st.endWeir port s o.run e).getD st)
  | _ => .fault .noIssuer

/-- A kernel instruction that changes its registers alone. -/
def weirReg (st : State) (f : WeirRun → WeirRun) : Ans := weirOp 1 st fun _ _ st r => { st := st, run := f r }

/-! ALU instructions (R384 to R388). -/

/-- An ALU result, on lanes or on X registers: `b` gives the second operand in each lane. -/
def weirAlu (f : BitVec 32 → BitVec 32 → BitVec 32) (v : BitVec 1) (d a : BitVec 4) (b : WeirRun → Nat → BitVec 32) (r : WeirRun) : WeirRun :=
  if v = 1#1 then r.putX d.toNat (f (r.getX a.toNat) (b r 0)) else r.putW d.toNat (wlanes fun i => f (wlane (r.getW a.toNat) i) (b r i))

/-- The operand b in register form: a register of d's kind, or with BX the X register in every lane. -/
def weirB (v : BitVec 1) (b : BitVec 4) (x : BitVec 1) (r : WeirRun) (i : Nat) : BitVec 32 :=
  if v = 1#1 ∨ x = 1#1 then r.getX b.toNat else wlane (r.getW b.toNat) i

/-- The operand b in immediate form. -/
def weirI (i : BitVec 14) (_ : WeirRun) (_ : Nat) : BitVec 32 := i.signExtend 32

/-- Unsigned minimum and maximum. -/
def wmin (a b : BitVec 32) : BitVec 32 := if a ≤ b then a else b
/-- Unsigned maximum. -/
def wmax (a b : BitVec 32) : BitVec 32 := if a ≤ b then b else a
/-- Shifts by b[4:0]. -/
def wshl (a b : BitVec 32) : BitVec 32 := a <<< (b.toNat % 32)
/-- Right shift filling zeros. -/
def wshr (a b : BitVec 32) : BitVec 32 := a >>> (b.toNat % 32)

/-- WADD, register form (R384). -/
def execWadd (v : BitVec 1) (d a b : BitVec 4) (x : BitVec 1) (st : State) : Ans := weirReg st (weirAlu (· + ·) v d a (weirB v b x))
/-- WADD, immediate form (R384). -/
def execWaddI (v : BitVec 1) (d a : BitVec 4) (i : BitVec 14) (st : State) : Ans := weirReg st (weirAlu (· + ·) v d a (weirI i))
/-- WSUB, register form (R384). -/
def execWsub (v : BitVec 1) (d a b : BitVec 4) (x : BitVec 1) (st : State) : Ans := weirReg st (weirAlu (· - ·) v d a (weirB v b x))
/-- WSUB, immediate form (R384). -/
def execWsubI (v : BitVec 1) (d a : BitVec 4) (i : BitVec 14) (st : State) : Ans := weirReg st (weirAlu (· - ·) v d a (weirI i))
/-- WMUL, register form (R384). -/
def execWmul (v : BitVec 1) (d a b : BitVec 4) (x : BitVec 1) (st : State) : Ans := weirReg st (weirAlu (· * ·) v d a (weirB v b x))
/-- WMUL, immediate form (R384). -/
def execWmulI (v : BitVec 1) (d a : BitVec 4) (i : BitVec 14) (st : State) : Ans := weirReg st (weirAlu (· * ·) v d a (weirI i))
/-- WAND, register form (R384). -/
def execWand (v : BitVec 1) (d a b : BitVec 4) (x : BitVec 1) (st : State) : Ans := weirReg st (weirAlu (· &&& ·) v d a (weirB v b x))
/-- WAND, immediate form (R384). -/
def execWandI (v : BitVec 1) (d a : BitVec 4) (i : BitVec 14) (st : State) : Ans := weirReg st (weirAlu (· &&& ·) v d a (weirI i))
/-- WOR, register form (R384). -/
def execWor (v : BitVec 1) (d a b : BitVec 4) (x : BitVec 1) (st : State) : Ans := weirReg st (weirAlu (· ||| ·) v d a (weirB v b x))
/-- WOR, immediate form (R384). -/
def execWorI (v : BitVec 1) (d a : BitVec 4) (i : BitVec 14) (st : State) : Ans := weirReg st (weirAlu (· ||| ·) v d a (weirI i))
/-- WXOR, register form (R384). -/
def execWxor (v : BitVec 1) (d a b : BitVec 4) (x : BitVec 1) (st : State) : Ans := weirReg st (weirAlu (· ^^^ ·) v d a (weirB v b x))
/-- WXOR, immediate form (R384). -/
def execWxorI (v : BitVec 1) (d a : BitVec 4) (i : BitVec 14) (st : State) : Ans := weirReg st (weirAlu (· ^^^ ·) v d a (weirI i))
/-- WSHL, register form (R384). -/
def execWshl (v : BitVec 1) (d a b : BitVec 4) (x : BitVec 1) (st : State) : Ans := weirReg st (weirAlu wshl v d a (weirB v b x))
/-- WSHL, immediate form (R384). -/
def execWshlI (v : BitVec 1) (d a : BitVec 4) (i : BitVec 14) (st : State) : Ans := weirReg st (weirAlu wshl v d a (weirI i))
/-- WSHR, register form (R384). -/
def execWshr (v : BitVec 1) (d a b : BitVec 4) (x : BitVec 1) (st : State) : Ans := weirReg st (weirAlu wshr v d a (weirB v b x))
/-- WSHR, immediate form (R384). -/
def execWshrI (v : BitVec 1) (d a : BitVec 4) (i : BitVec 14) (st : State) : Ans := weirReg st (weirAlu wshr v d a (weirI i))
/-- WMIN, register form (R384). -/
def execWmin (v : BitVec 1) (d a b : BitVec 4) (x : BitVec 1) (st : State) : Ans := weirReg st (weirAlu wmin v d a (weirB v b x))
/-- WMIN, immediate form (R384). -/
def execWminI (v : BitVec 1) (d a : BitVec 4) (i : BitVec 14) (st : State) : Ans := weirReg st (weirAlu wmin v d a (weirI i))
/-- WMAX, register form (R384). -/
def execWmax (v : BitVec 1) (d a b : BitVec 4) (x : BitVec 1) (st : State) : Ans := weirReg st (weirAlu wmax v d a (weirB v b x))
/-- WMAX, immediate form (R384). -/
def execWmaxI (v : BitVec 1) (d a : BitVec 4) (i : BitVec 14) (st : State) : Ans := weirReg st (weirAlu wmax v d a (weirI i))

/-- The conditions of WCMP (R385). -/
def weirCond (c : Nat) (a b : BitVec 32) : Bool :=
  match c with
  | 0 => decide (a = b)
  | 1 => decide (a ≠ b)
  | 2 => a.slt b
  | 3 => a.sle b
  | 4 => a.ult b
  | _ => a.ule b

/-- WCMP: all ones or zero (R385). -/
def execWcmp (v : BitVec 1) (c : BitVec 3) (d a b : BitVec 4) (x : BitVec 1) (st : State) : Ans :=
  weirReg st (weirAlu (fun p q => if weirCond c.toNat p q then BitVec.allOnes 32 else 0#32) v d a (weirB v b x))

/-- WSEL: a where c is not 0, else b (R386). -/
def execWsel (v : BitVec 1) (d a b c : BitVec 4) (st : State) : Ans :=
  weirReg st fun r =>
    if v = 1#1 then r.putX d.toNat (if r.getX c.toNat ≠ 0 then r.getX a.toNat else r.getX b.toNat)
    else r.putW d.toNat (wlanes fun i => if wlane (r.getW c.toNat) i ≠ 0 then wlane (r.getW a.toNat) i else wlane (r.getW b.toNat) i)

/-- WMOV Wd, Wa (R387). -/
def execWmovW (d a : BitVec 4) (st : State) : Ans := weirReg st fun r => r.putW d.toNat (r.getW a.toNat)
/-- WMOV Xd, Xa (R387). -/
def execWmovX (d a : BitVec 4) (st : State) : Ans := weirReg st fun r => r.putX d.toNat (r.getX a.toNat)
/-- WMOV Wd, Xa (R387). -/
def execWmovWx (d a : BitVec 4) (st : State) : Ans := weirReg st fun r => r.putW d.toNat (wlanes fun _ => r.getX a.toNat)
/-- WMOV Xd, Wa, #l (R387). -/
def execWmovXl (d a : BitVec 4) (l : BitVec 3) (st : State) : Ans := weirReg st fun r => r.putX d.toNat (wlane (r.getW a.toNat) l.toNat)
/-- WMOV Wd, Xa, #l (R387). -/
def execWmovWl (d a : BitVec 4) (l : BitVec 3) (st : State) : Ans :=
  weirReg st fun r => r.putW d.toNat (wlanes fun i => if i = l.toNat then r.getX a.toNat else wlane (r.getW d.toNat) i)

/-- WLI: the sign-extended literal (R388). -/
def execWli (v : BitVec 1) (d : BitVec 4) (i : BitVec 16) (st : State) : Ans :=
  weirReg st fun r => if v = 1#1 then r.putX d.toNat (i.signExtend 32) else r.putW d.toNat (wlanes fun _ => i.signExtend 32)

/-- WLI.H: the upper half (R388). -/
def execWliH (v : BitVec 1) (d : BitVec 4) (i : BitVec 16) (st : State) : Ans :=
  weirReg st fun r =>
    let f := fun (x : BitVec 32) => i ++ x.extractLsb' 0 16
    if v = 1#1 then r.putX d.toNat (f (r.getX d.toNat)) else r.putW d.toNat (wlanes fun j => f (wlane (r.getW d.toNat) j))

/-! Header and payload (R378, R389, R390). -/

/-- A header field by its code (R378); PORT and SELF are not in the header. -/
def weirField (st : State) (r : WeirRun) (f : Nat) : Nat :=
  let h := r.pkt.hdr
  match f with
  | 0 => pDst h
  | 1 => pKind h
  | 2 => pSrc h
  | 3 => pChan h
  | 4 => if pFirst h then 1 else 0
  | 5 => if pLast h then 1 else 0
  | 6 => pDom h
  | 7 => pSeq h
  | 8 => pLen h
  | 9 => if pRedir h then 1 else 0
  | 10 => pStep h
  | 11 => pDaddr h % 2 ^ 32
  | 12 => pDaddr h / 2 ^ 32
  | 13 => pCtr h % 2 ^ 32
  | 14 => pCtr h / 2 ^ 32
  | 15 => pUser h
  | 16 => r.port
  | 17 => st.devno
  | _ => 0

/-- The fields WSETH writes: first bit, width in the header, and width a value may have (R378). -/
def weirWritable (f : Nat) : Option (Nat × Nat × Nat) :=
  match f with
  | 0 => some (0, 12, 12)
  | 11 => some (104, 32, 32)
  | 12 => some (136, 24, 20)
  | 13 => some (160, 32, 32)
  | 14 => some (192, 32, 32)
  | 15 => some (224, 32, 32)
  | _ => none

/-- WHDR Xd, field (R389). -/
def execWhdr (r : BitVec 4) (f : BitVec 5) (st : State) : Ans :=
  weirReg st fun k => k.putX r.toNat (BitVec.ofNat 32 (weirField st k f.toNat))

/-- WHDR Wd: the whole header (R389). -/
def execWhdrW (r : BitVec 4) (st : State) : Ans := weirReg st fun k => k.putW r.toNat k.pkt.hdr

/-- WSETH: a writable field, or end_error(FIELD) (R378, R389). The loader lets no other field through (R373). -/
def execWseth (r : BitVec 4) (f : BitVec 5) (st : State) : Ans :=
  weirOp 1 st fun _ _ st k =>
    let v := (k.getX r.toNat).toNat
    match weirWritable f.toNat with
    | none => { st := st, run := k }
    | some (lo, n, m) =>
      if 2 ^ m ≤ v then { st := st, run := k, next := .err 7 0 }
      else { st := st, run := { k with pkt := { k.pkt with hdr := pSet k.pkt.hdr lo n v } } }

/-- Payload chunk k: bytes at or beyond LEN read as 0 (R390). -/
def chunk (p : Packet) (k : Nat) : BitVec 256 := BitVec.ofNat 256 (p.pay % 2 ^ (8 * pLen p.hdr) / 2 ^ (256 * k))

/-- A chunk stored: bytes at or beyond LEN are discarded; stored bytes are not poisoned (R390, R414). -/
def putChunk (p : Packet) (k : Nat) (v : BitVec 256) : Packet :=
  let n := min 32 (pLen p.hdr - 32 * k)
  let m := (2 ^ (8 * n) - 1) * 2 ^ (256 * k)
  { p with pay := p.pay - p.pay / 2 ^ (256 * k) % 2 ^ (8 * n) * 2 ^ (256 * k) + v.toNat % 2 ^ (8 * n) * 2 ^ (256 * k)
           bad := if m = 0 then p.bad else p.bad - p.bad / 2 ^ (32 * k) % 2 ^ n * 2 ^ (32 * k) }

/-- WLDP Wd, #c (R390). -/
def execWldp (w : BitVec 4) (c : BitVec 3) (st : State) : Ans := weirReg st fun r => r.putW w.toNat (chunk r.pkt c.toNat)
/-- WLDP Wd, Xi, #c (R390). -/
def execWldpX (w : BitVec 4) (x c : BitVec 3) (st : State) : Ans :=
  weirReg st fun r =>
    let k := c.toNat + (r.getX x.toNat).toNat
    r.putW w.toNat (if k < 8 then chunk r.pkt k else 0)
/-- WSTP #c, Wa (R390). -/
def execWstp (w : BitVec 4) (c : BitVec 3) (st : State) : Ans := weirReg st fun r => { r with pkt := putChunk r.pkt c.toNat (r.getW w.toNat) }
/-- WSTP Xi, #c, Wa (R390). -/
def execWstpX (w : BitVec 4) (x c : BitVec 3) (st : State) : Ans :=
  weirReg st fun r =>
    let k := c.toNat + (r.getX x.toNat).toNat
    if k < 8 then { r with pkt := putChunk r.pkt k (r.getW w.toNat) } else r

/-! Flow state (R391, R392). -/

/-- A flow access of `n` bytes at offset `o`: FLOW_RANGE outside the slot's partition; FLOW_ECC, which halts the slot, where it reads poison. -/
def flowAt (port : Nat) (s : WeirSlot) (st : State) (r : WeirRun) (o n code : Nat) (reads : Bool) (k : Nat → WOut) : WOut :=
  let a := flatFlow port (s.base + o)
  if s.flowsz < o + n then { st := st, run := r, next := .err 3 (code % 2 ^ 32) }
  else if reads && st.poisonedAt a n then
    { st := st.updWeir port fun w => { w with slots := mupd w.slots r.slot fun s => { s with halted := true } }, run := r, next := .err 8 0 }
  else k a

/-- WLDF Wd, Xa, #u (R391). -/
def execWldf (w : BitVec 4) (x : BitVec 3) (i : BitVec 16) (st : State) : Ans :=
  weirOp 2 st fun port s st r =>
    let u := (r.getX x.toNat).toNat + i.toNat
    flowAt port s st r (32 * u) 32 u true fun a => { st := st, run := r.putW w.toNat (BitVec.ofNat 256 (st.read a 32)) }

/-- WSTF Xa, #u, Wb (R391). -/
def execWstf (w : BitVec 4) (x : BitVec 3) (i : BitVec 16) (st : State) : Ans :=
  weirOp 2 st fun port s st r =>
    let u := (r.getX x.toNat).toNat + i.toNat
    flowAt port s st r (32 * u) 32 u false fun a => { st := st.writeAll a 32 (r.getW w.toNat).toNat, run := r }

/-- The operations of WATF (R391). -/
def watfNew (op : Nat) (old b d : BitVec 32) : BitVec 32 :=
  match op with
  | 0 => old + b
  | 1 => wmin old b
  | 2 => wmax old b
  | 3 => old &&& b
  | 4 => old ||| b
  | 5 => b
  | 6 => if old = d then b else old
  | _ => old

/-- WATF: one indivisible operation on a flow word (R391). -/
def execWatf (p : BitVec 4) (d a b : BitVec 3) (i : BitVec 11) (st : State) : Ans :=
  weirOp 2 st fun port s st r =>
    let j := (r.getX a.toNat).toNat + i.toNat
    flowAt port s st r (4 * j) 4 j true fun ad =>
      let old := BitVec.ofNat 32 (st.read ad 4)
      { st := st.writeAll ad 4 (watfNew p.toNat old (r.getX b.toNat) (r.getX d.toNat)).toNat, run := r.putX d.toNat old }

/-- One bit of the reflected CRC-32C (R392). -/
def crcBit (c : Nat) : Nat := if c % 2 = 1 then Nat.xor (c / 2) 0x82F63B78 else c / 2
/-- One byte of it. -/
def crcByte (c b : Nat) : Nat := (List.range 8).foldl (fun c _ => crcBit c) (Nat.xor c b)
/-- CRC-32C of a list of bytes (R392). -/
def crc32c (bs : List Nat) : Nat := Nat.xor (bs.foldl crcByte 0xFFFFFFFF) 0xFFFFFFFF
/-- The low `n` bytes of a number. -/
def bytesLe (n v : Nat) : List Nat := (List.range n).map fun i => v / 256 ^ i % 256

/-- WHASH Xd, Wa, #n (R392). -/
def execWhash (d : BitVec 3) (a : BitVec 4) (n : BitVec 3) (st : State) : Ans :=
  weirOp 4 st fun _ _ st r => { st := st, run := r.putX d.toNat (BitVec.ofNat 32 (crc32c (bytesLe (4 * (n.toNat + 1)) (r.getW a.toNat).toNat))) }

/-- The value of a key in a lookup unit, all ones where it is not found (R392). -/
def lookup (unit key : Nat) : Nat :=
  if key = 0xFFFFFFFF then 0xFFFFFFFF
  else match (List.range 4).find? fun j => decide (bits unit (64 * j + 31) (64 * j) = key) with
    | some j => bits unit (64 * j + 63) (64 * j + 32)
    | none => 0xFFFFFFFF

/-- WHASH.LK Xd, Wa (R392). -/
def execWhashLk (d : BitVec 3) (a : BitVec 4) (st : State) : Ans :=
  weirOp 8 st fun port s st r =>
    let key := (wlane (r.getW a.toNat) 0).toNat
    let u := s.lkbase + crc32c (bytesLe 4 key) % 2 ^ s.lklog2
    flowAt port s st r (32 * u) 32 u true fun ad => { st := st, run := r.putX d.toNat (BitVec.ofNat 32 (lookup (st.read ad 32) key)) }

/-! Control (R393 to R395). -/

/-- WREP #n, #len (R393). -/
def execWrep (n : BitVec 4) (l : BitVec 6) (st : State) : Ans :=
  weirOp 1 st fun _ _ st r => { st := st, run := { r with rep := some (r.pc + 1, r.pc + 1 + l.toNat, n.toNat + 1) }, next := .jump (r.pc + 1) }

/-- WBR label (R394). -/
def execWbr (o : BitVec 8) (st : State) : Ans := weirOp 1 st fun _ _ st r => { st := st, run := r, next := .jump (r.pc + o.toNat) }

/-- WBR.cc Xa, label (R394). -/
def execWbrCc (c a : BitVec 3) (o : BitVec 8) (st : State) : Ans :=
  weirOp 1 st fun _ _ st r =>
    let x := (r.getX a.toNat).toInt
    let t := match c.toNat with
      | 1 => decide (x = 0)
      | 2 => decide (x ≠ 0)
      | 3 => decide (x < 0)
      | _ => decide (0 ≤ x)
    { st := st, run := r, next := if t then .jump (r.pc + o.toNat) else .go }

/-- WFWD: ends, forward (R395). -/
def execWfwd (st : State) : Ans := weirOp 1 st fun _ _ st r => { st := st, run := r, next := .fin true }
/-- WDROP: ends, drop (R395). -/
def execWdrop (st : State) : Ans := weirOp 1 st fun _ _ st r => { st := st, run := r, next := .fin false }
/-- WEND: ends by DEFACT (R395). -/
def execWend (st : State) : Ans := weirOp 1 st fun _ s st r => { st := st, run := r, next := .fin (!s.drops) }

/-- WDUP Xa: a queued copy of the packet as it stands; a fourth ends the kernel (R395). -/
def execWdup (a : BitVec 3) (st : State) : Ans :=
  weirOp 2 st fun _ _ st r =>
    if 3 ≤ r.copies.length then { st := st, run := r, next := .err 5 0 }
    else { st := st, run := { r with copies := r.copies ++ [((r.getX a.toNat).toNat, r.pkt)] } }

/-- WTRAP #code, Xa: one WTRAP record, and the kernel goes on (R395). -/
def execWtrap (c : BitVec 12) (a : BitVec 3) (st : State) : Ans :=
  weirOp 2 st fun port _ st r =>
    { st := st.eventRecord (pDom r.pkt.hdr) 1 port r.slot c.toNat (r.getX a.toNat).toNat r.pkt.hdr, run := r }

/-! The order in which packets and commands reach a Weir (R371, R398). -/

/-- An ARRIVAL record of a Weir packet or command (R422). -/
def recWeir (kind slot : Nat) (h : BitVec 256) (low : Nat) : List Nat :=
  [6 * 2 ^ 60 + kind * 2 ^ 53 + pSrc h * 2 ^ 41 + pChan h * 2 ^ 39 + (if pRedir h then 2 ^ 38 else 0) + slot * 2 ^ 36 + low % 2 ^ 32]

/-- A packet or command of a slot passes the log of its port's recorder (R398). -/
def State.weirGate (st : State) (port slot dom : Nat) (mk : List Nat) : Option State :=
  match st.ctxOfDomain dom with
  | none => some st
  | some c =>
    let sel := fun (r : List Nat) => decide (r.headD 0 / 2 ^ 60 = 6) && decide (bits (r.headD 0) 54 53 ≠ 0) && decide (bits (r.headD 0) 37 36 = slot)
    (st.gate c (674 + port) sel (fun r => decide (r = mk)) mk).map (·.1)

/-- A domain's context replays. -/
def State.replays (st : State) (dom : Nat) : Bool :=
  match st.ctxOfDomain dom with
  | some c => (st.ctx c).replay.isSome
  | none => false

/-- WEIR_PACKET: the Weir takes its next packet: the oldest, or on replay the logged one. A halted slot drops it; one unloaded since, or loaded anew for
another domain or attach point, lets it pass (R370, R374); else its kernel starts with W and X at 0 (R371, R375, R391). -/
def execWeirPacket (port i : Nat) (st : State) : Ans :=
  let w := mgetD st.weirs port {}
  .next (match w.run, w.queue[i]? with
    | none, some (slot, from_, p) =>
      let mine := (mget w.slots slot).filter fun s => decide (s.domain = pDom p.hdr) && s.egress == decide (from_ = 0xFF)
      if !(w.queue.take i).all fun e => st.replays (pDom e.2.2.hdr) then st
      else
        let st1 := st.updWeir port fun w => { w with queue := w.queue.eraseIdx i }
        match mine with
        | none => if from_ = 0xFF then st1.leave p else (st1.land p).getD st
        | some s =>
          match st1.weirGate port slot s.domain (recWeir 1 slot p.hdr (pSeq p.hdr)) with
          | none => st
          | some st1 =>
            let r : WeirRun := { slot := slot, port := from_, orig := pDst p.hdr, pkt := p }
            if s.halted then
              (if s.egress then st1.leave (skipNotice p.hdr r.orig) else st1.delivered p.hdr false)
            else st1.updWeir port fun w => { w with run := some r }
    | _, _ => st)

/-! The loader's checks (R373). -/

/-- Code 5: an unassigned OP, bit 31, a rejected field value or a bit that must be 0 (R382 to R395). -/
def weirBad5 (w : Nat) : Bool :=
  let f := fun (hi lo : Nat) => bits w hi lo
  let v := f 23 23 = 1
  let nz := fun (hi lo : Nat) => decide (f hi lo ≠ 0)
  let x8 := fun (n : Nat) => decide (8 ≤ n)
  let regs := fun (bx b z : Nat) (rs : List Nat) => decide (z ≠ 0) || (decide v && (decide (bx ≠ 0) || rs.any x8)) || (decide (¬v) && decide (bx ≠ 0) && x8 b)
  if 2 ^ 31 ≤ w then true else
  match f 30 24 with
  | 0x01 | 0x02 | 0x03 | 0x04 | 0x05 | 0x06 | 0x07 | 0x08 | 0x09 | 0x0A =>
    if f 22 22 = 1 then regs 0 0 0 [f 21 18, f 17 14] else regs (f 9 9) (f 13 10) (f 8 0) [f 21 18, f 17 14, f 13 10]
  | 0x0B => decide (5 < f 22 20) || regs (f 7 7) (f 11 8) (f 6 0) [f 19 16, f 15 12, f 11 8]
  | 0x0C => nz 6 0 || (decide v && [f 22 19, f 18 15, f 14 11, f 10 7].any x8)
  | 0x0D =>
    let fn := f 14 12
    decide v || nz 8 0 || decide (4 < fn) || (decide (fn ≤ 2) && nz 11 9) || (decide (fn = 1 ∨ fn = 3) && x8 (f 22 19))
      || (decide (fn = 1 ∨ fn = 2 ∨ fn = 4) && x8 (f 18 15))
  | 0x0E => nz 17 16 || (decide v && x8 (f 22 19))
  | 0x10 => nz 13 0 || (if v then nz 18 14 else x8 (f 22 19) || decide (17 < f 18 14))
  | 0x11 => nz 13 0 || decide v || x8 (f 22 19) || decide (17 < f 18 14)
  | 0x12 | 0x13 => nz 15 3 || (decide (¬v) && nz 18 16)
  | 0x14 | 0x15 => decide v
  | 0x16 => decide (7 < f 23 20) || (decide (f 23 20 = 7) && nz 13 11)
  | 0x17 => nz 12 0 || (decide v && nz 15 13)
  | 0x18 => nz 13 0
  | 0x19 => nz 17 8 || decide (4 < f 23 21) || (decide (f 23 21 = 0) && nz 20 18)
  | 0x1A | 0x1C | 0x1E => nz 23 0
  | 0x1B => nz 20 0
  | 0x1D => nz 8 0
  | _ => true

/-- The opcode of a Weir word. -/
def wop (w : Nat) : Nat := bits w 30 24

/-- The WREPs whose bodies hold each word, a nested one's and one's that passes the WEND among them (R373, R393). -/
def weirBodies (ws : List Nat) : List (List Nat) :=
  let reps := ws.zipIdx.filter fun e => decide (wop e.1 = 0x18) && !weirBad5 e.1
  (List.range ws.length).map fun k => (reps.filter fun e => decide (e.2 < k) && decide (k ≤ e.2 + bits e.1 19 14 + 1)).map (·.2)

/-- The first failing check of word i: its code, 0 where none fails (R373). -/
def weirWordCode (ws : List Nat) (bodies : List (List Nat)) (lk i w : Nat) : Nat :=
  let n := ws.length
  let body := fun (k : Nat) => (bodies.getD k [])
  if weirBad5 w then 5
  else if wop w = 0x19 ∧ (bits w 7 0 = 0 ∨ n ≤ i + bits w 7 0 ∨ body (i + bits w 7 0) ≠ body i) then 6
  else if wop w = 0x18 ∧ (body i ≠ [] ∨ n ≤ i + bits w 19 14 + 2) then 7
  else if wop w = 0x11 ∧ (weirWritable (bits w 18 14)).isNone then 8
  else if wop w = 0x1E ∧ i + 1 ≠ n then 9
  else if wop w = 0x17 ∧ bits w 23 23 = 1 ∧ lk = 0 then 10
  else 0

/-- The kernel words checked: code and WORD (R373). -/
def weirCheck (ws : List Nat) (lk : Nat) : Nat × Nat :=
  let b := weirBodies ws
  match ws.zipIdx.find? fun e => decide (weirWordCode ws b lk e.2 e.1 ≠ 0) with
  | some (w, i) => (weirWordCode ws b lk i w, i)
  | none => if wop (ws.getLastD 0) = 0x1E then (0, 0) else (9, ws.length - 1)

/-- The cost of a word (R375). -/
def weirCost (w : Nat) : Nat :=
  match wop w with
  | 0x14 | 0x15 | 0x16 | 0x1B | 0x1D => 2
  | 0x17 => if bits w 23 23 = 1 then 8 else 4
  | _ => 1

/-- The longest path from a word: through to the end of its range, and to an ending instruction within it. -/
structure WPath where
  thru : Option Nat
  ends : Option Nat
  deriving DecidableEq, Repr

/-- The later of two costs. -/
def omax (a b : Option Nat) : Option Nat :=
  match a, b with
  | some x, some y => some (max x y)
  | some x, none => some x
  | none, y => y

/-- The longest path from a word, given those of the words after it: `body` gives a WREP's body, and the path after it. -/
def weirPath (w : Nat) (after : List WPath) (body : Nat → WPath) : WPath :=
  let c := weirCost w
  let next := after.headD ⟨some 0, none⟩
  let plus := fun (p : WPath) => (⟨p.thru.map (c + ·), p.ends.map (c + ·)⟩ : WPath)
  match wop w with
  | 0x1A | 0x1C | 0x1E => ⟨none, some c⟩
  | 0x18 =>
    let n := bits w 23 20 + 1
    let len := bits w 19 14 + 1
    let b := body len
    let rest := after.getD len ⟨some 0, none⟩
    match b.thru with
    | none => ⟨none, b.ends.map (c + ·)⟩
    | some t => ⟨rest.thru.map (c + n * t + ·), omax (rest.ends.map (c + n * t + ·)) (b.ends.map (c + (n - 1) * t + ·))⟩
  | 0x19 =>
    let tk := after.getD (bits w 7 0 - 1) ⟨some 0, none⟩
    if bits w 23 21 = 0 then plus tk else ⟨omax (plus tk).thru (plus next).thru, omax (plus tk).ends (plus next).ends⟩
  | _ => plus next

/-- The paths from every word of a range to its end, no WREP in it. -/
def bodyPaths (ws : List Nat) : List WPath := ws.foldr (fun w acc => weirPath w acc (fun _ => ⟨some 0, none⟩) :: acc) []

/-- WCET: the longest path of a kernel (R373). -/
def weirWcet (ws : List Nat) : Nat :=
  let ps := (List.range ws.length).foldr (fun i acc =>
    weirPath (ws.getD i 0) acc (fun len => (bodyPaths ((ws.drop (i + 1)).take len)).headD ⟨some 0, none⟩) :: acc) []
  ((ps.headD ⟨none, none⟩).ends).getD 0

/-! Weir commands (R372 to R374). -/

/-- The flat address of a byte of device physical memory named by a control command (log entry 7). -/
def State.devFlat (st : State) (pa : Nat) : Nat := st.flatPa 0 (pa % 2 ^ 40)

/-- `n` bytes at a device's physical address, line by line, as 4 KiB granules lie on different stacks (R346); of device 0 where none is named (log entry 7). -/
def State.devRead (st : State) (n pa : Nat) (dev : Nat := 0) : Nat :=
  match n with
  | 0 => 0
  | k + 1 => st.read (st.flatPa dev pa) 1 + 256 * State.devRead st k (pa + 1) dev

/-- A write on the HOST path at physical addresses, to lines the directory has taken: U is set (R206, R374, R426). -/
def State.hostWrite (st : State) (n pa v : Nat) (dev : Nat := 0) : State :=
  match n with
  | 0 => st
  | k + 1 => State.hostWrite (st.hostStore (st.flatPa dev pa) 1 (v % 256)) k (pa + 1) (v / 256) dev

/-- The lines that hold `n` bytes from a physical address on. -/
def State.devLines (st : State) (n pa : Nat) : List Nat :=
  if n = 0 then [] else (List.range ((pa % 128 + n - 1) / 128 + 1)).map fun i => lineOf (st.flatPa 0 (pa / 128 * 128 + 128 * i))

/-- A write on the HOST path once every line it touches has been taken at the directory; none where one must wait (R206, R425). -/
def State.hostPut (st : State) (n pa v : Nat) : Option State :=
  ((st.devLines n pa).foldl (fun (o : Option State) l => o.bind fun s => if s.tableQuiet l then s.takeLine l else none) (some st)).map fun s => s.hostWrite n pa v

/-- A read on the HOST path once every line it touches has been shared at the directory (R206). -/
def State.hostGet (st : State) (n pa : Nat) : Option (State × Nat) :=
  ((st.devLines n pa).foldl (fun (o : Option State) l => o.bind fun s => s.shareLine l) (some st)).map fun s => (s, s.devRead n pa)

/-- The head of the Weir commands, with its descriptor and whether its word is well formed (R372). -/
def State.weirHead (st : State) : Option (Cmd × Bool × Nat) :=
  match st.wQ with
  | [] => none
  | c :: _ =>
    let v := c.word.toNat
    let ok := decide (v / 2 ^ 40 = 0) && decide (v % 128 = 0)
    some (c, ok, if ok then st.devRead 128 v else 0)

/-- The head command ended with its status (R372). -/
def State.weirDone (st : State) (c : Cmd) (word wcet code : Nat) : State :=
  { st with wQ := st.wQ.tail
            ports := mset st.ports c.port { mgetD st.ports c.port {} with
              wstat := BitVec.ofNat 64 (word % 256 * 2 ^ 40 + min wcet (2 ^ 24 - 1) * 2 ^ 16 + code) } }

/-- The fields every Weir command checks with code 1 (R373). -/
def weirBad1 (d : Nat) : Bool :=
  !(decide (1 ≤ bits d 7 0) && decide (bits d 7 0 ≤ 4)) || decide (35 < bits d 15 8) || decide (3 < bits d 23 16) || decide (1 < bits d 31 24)
    || decide (1 < bits d 39 32) || decide (d / 2 ^ 352 ≠ 0)

/-- The slot that LOAD's descriptor and kernel words make (R373). -/
def weirSlotOf (d : Nat) (ws : List Nat) : WeirSlot :=
  { domain := bits d 63 48, egress := decide (bits d 31 24 = 1), drops := decide (bits d 39 32 = 1), lklog2 := bits d 47 40, lkbase := bits d 351 320
    flowsz := bits d 95 64, base := 262144 * bits d 23 16, code := ws.map (BitVec.ofNat 32) }

/-- A slot loaded, its flow state 0 and free of poison (R373). -/
def State.weirLoad (st : State) (port sl : Nat) (s : WeirSlot) : State :=
  ({ st with mem := st.mem.clear (flatFlow port s.base) 262144
             poisoned := st.poisoned.filter fun u => decide (u < flatFlow port s.base) || decide (flatFlow port s.base + 262144 ≤ u) } : State).updWeir port
    fun w => { w with slots := mset w.slots sl s }

/-- LOAD: the checks of R373 in their order, then the kernel is in its slot and its flow state is 0. A command word or OPC that is no command's is refused
here. -/
def execLoad (st : State) : Ans :=
  .next (match st.weirHead with
    | none => st
    | some (c, ok, d) =>
      if ok ∧ !weirBad1 d ∧ bits d 7 0 ≠ 1 then st
      else
        let port := bits d 15 8
        let sl := bits d 23 16
        let w := mgetD st.weirs port {}
        let egress := decide (bits d 31 24 = 1)
        let dom := bits d 63 48
        let flowsz := bits d 95 64
        let nw := bits d 127 96
        let code := bits d 191 128
        let lk := bits d 47 40
        let lkbase := bits d 351 320
        let used := w.slots.foldl (fun n e => n + e.2.flowsz) 0
        if !ok ∨ weirBad1 d ∨ code % 4 ≠ 0 ∨ (mget w.slots sl).isSome then st.weirDone c 0 0 1
        else if (st.ctxOfDomain dom).isNone ∨ (st.weirFor dom egress).isSome then st.weirDone c 0 0 2
        else if flowsz % 4096 ≠ 0 ∨ flowsz < 4096 ∨ 262144 < flowsz ∨ 13 < lk ∨ 262144 < used + flowsz ∨ (lk ≠ 0 ∧ flowsz < 32 * lkbase + 32 * 2 ^ lk) then
          st.weirDone c 0 0 3
        else if nw = 0 ∨ 128 < nw then st.weirDone c 0 0 4
        else
          let ws := (List.range nw).map fun i => st.devRead 4 (code + 4 * i)
          match weirCheck ws lk with
          | (0, _) =>
            if w.run.isSome then st
            else match st.weirGate port sl dom (recWeir 2 sl 0 1) with
              | none => st
              | some st => (st.weirLoad port sl (weirSlotOf d ws)).weirDone c 0 (weirWcet ws) 0
          | (k, i) => st.weirDone c i 0 k)

/-- A command on a loaded slot (R374): its OPC, whether it moves bytes, and its effect between two packets; none where its lines must wait. -/
def State.weirCmd (st : State) (opc : Nat) (moves : Bool) (f : State → Nat → Nat → WeirSlot → Nat → Option State) : State :=
  match st.weirHead with
  | none => st
  | some (c, ok, d) =>
    if !ok ∨ weirBad1 d ∨ bits d 7 0 ≠ opc then st
    else
      let port := bits d 15 8
      let sl := bits d 23 16
      let w := mgetD st.weirs port {}
      let fofs := bits d 287 256
      let flen := bits d 319 288
      match mget w.slots sl with
      | none => st.weirDone c 0 0 3
      | some s =>
        if moves && (decide (fofs % 32 ≠ 0) || decide (flen % 32 ≠ 0) || decide (s.flowsz < fofs + flen)) then st.weirDone c 0 0 3
        else if w.run.isSome then st
        else match st.weirGate port sl s.domain (recWeir 2 sl 0 opc) with
          | none => st
          | some st1 => ((f st1 port sl s d).map fun s => s.weirDone c 0 0 0).getD st

/-- UNLOAD: the slot is free, its flow state lost (R374). -/
def execUnload (st : State) : Ans :=
  .next (st.weirCmd 2 false fun st port sl _ _ => some (st.updWeir port fun w => { w with slots := merase w.slots sl }))

/-- FLOWRD: flow bytes into the host buffer on the HOST path (R374). -/
def execFlowrd (st : State) : Ans :=
  .next (st.weirCmd 3 true fun st port _ s d =>
    st.hostPut (bits d 319 288) (bits d 255 192) (st.read (flatFlow port (s.base + bits d 287 256)) (bits d 319 288)))

/-- FLOWWR: host bytes into flow state, on the HOST path (R374). -/
def execFlowwr (st : State) : Ans :=
  .next (st.weirCmd 4 true fun st port _ s d =>
    (st.hostGet (bits d 319 288) (bits d 255 192)).map fun r => r.1.writeAll (flatFlow port (s.base + bits d 287 256)) (bits d 319 288) r.2)

/-- SWITCH_WEIR_RECORD: a switch Weir's record, arrived as a SYS packet, is written into the domain's event view (R399). -/
def execSwitchWeirRecord (dom cls port slot code detail time : Nat) (hdr : BitVec 256) (st : State) : Ans :=
  .next (st.eventRecordAt dom cls port slot code detail 674 time hdr)

end Sys2Proof.Machine
end

