-- ==== Sys2Proof/Machine/Waits.lean ====
section
/-! DEFINITION. Waits, traps and the page-fault service as events: releases (R65, R69, R100, R103 to R107, R174), the watchdog (R90, R91), trap entry (R410),
the census flush (R448), and the host's answers to page faults (R339, R340). -/

namespace Sys2Proof.Machine

/-! Releases. -/

/-- The log's word for a release (R423): unit and choice of a stream of a group. -/
def State.releaseGate (st : State) (gid choice : Nat) (g : Group) : Option State :=
  st.sched (st.ctxOf g) (gCluster gid) 9 (gid % 512) choice none

/-- A wait that ends now lets its group go on: in a context that is being pre-empted a handler that has waited is saved waiting (R352). -/
def State.wakes (st : State) (g : Group) : Bool := g.saver || decide ((st.ctx (st.ctxOf g)).state ≠ .preempting)

/-- A split whose wait of one kind has ended goes on at the next instruction; the watchdog starts again (R65, R90). -/
def State.releaseSplit (st : State) (kind gid slot : Nat) : State :=
  match mget st.groups gid with
  | none => st
  | some g =>
    match g.splitAt slot with
    | some s =>
      if s.wait = .freed kind ∧ st.wakes g then
        match st.releaseGate gid slot g with
        | some st => st.updGroup gid fun g => { g.updSplit slot (fun s => { s with wait := .ready, pc := s.pc + 4 }) with watchdog := 0 }
        | none => st
      else st
    | none => st

/-- Every split of a list of groups whose wait of one kind has ended. -/
def State.releaseAll (st : State) (kinds : List Nat) (gids : List Nat) : State :=
  gids.foldl (fun st gid => [0, 1, 2, 3, 5].foldl (fun st slot => kinds.foldl (fun st k => st.releaseSplit k gid slot) st) st) st

/-- BAR and SYNCS splits whose episode is complete resume (R65, R69); as time passes. -/
def State.releaseBarriers (st : State) : State :=
  st.releaseAll [0, 1] ((st.groups.filter fun e => (e.2.splits.any fun s => decide (s.2.wait = .freed 0) || decide (s.2.wait = .freed 1))
    || e.2.handler.any fun s => decide (s.wait = .freed 0) || decide (s.wait = .freed 1)).map (·.1))

/-- GBAR_RELEASE: the hub barrier unit releases every group of a grid whose episode is complete (R100). -/
def execGbarRelease (ctx grid : Nat) (st : State) : Ans :=
  .next (st.releaseAll [2] ((st.groups.filter fun e => decide (gridKey (st.wgOf e.2).ctx (st.wgOf e.2).grid = gridKey ctx grid)).map (·.1)))

/-- WAITC_RELEASE (R103). -/
def execWaitcRelease (gid slot : Nat) (st : State) : Ans := .next (st.releaseSplit 3 gid slot)
/-- WAITM_RELEASE (R104). -/
def execWaitmRelease (gid slot : Nat) (st : State) : Ans := .next (st.releaseSplit 4 gid slot)
/-- JOINC_RELEASE (R107). -/
def execJoincRelease (gid slot : Nat) (st : State) : Ans := .next (st.releaseSplit 5 gid slot)

/-- SLEEP_EXPIRY: the counted cycles have passed (R105). -/
def execSleepExpiry (gid slot : Nat) (st : State) : Ans :=
  let st := st.updGroup gid fun g => g.updSplit slot fun s => if s.wait = .sleep 0 then { s with wait := .freed 6 } else s
  .next (st.releaseSplit 6 gid slot)

/-- AWAITC_RELEASE: the access stream goes on after its AWAITC (R174). -/
def execAwaitcRelease (gid : Nat) (st : State) : Ans :=
  .next (match mget st.groups gid with
    | none => st
    | some g =>
      if g.await = .freed ∧ st.wakes g then
        match st.releaseGate gid 4 g with
        | some st => st.updGroup gid fun g => { g with await := .ready, apc := g.apc + 4, watchdog := 0 }
        | none => st
      else st)

/-! The watchdog and trap entry. -/

/-- WATCHDOG_EXPIRY: the counter has reached the context's limit: a pending WATCHDOG, or a double fault at trap level (R91, R412). -/
def execWatchdogExpiry (gid : Nat) (st : State) : Ans :=
  .next (match mget st.groups gid with
    | none => st
    | some g =>
      if g.watchdog < 2 ^ (st.ctx (st.ctxOf g)).wdog then st
      else if g.tlevel then st.contextFault gid g.handled 17
      else st.postTrap gid { trap := { cause := .watchdog }, kind := .async })

/-- TRAP_ENTRY: a group that has stopped for a trap enters its handler once its held results and loads have arrived (R410); else the trap in which a wait has ended, and that stood
behind another, is taken (R407, R408). -/
def execTrapEntry (gid : Nat) (st : State) : Ans :=
  .next (match mget st.groups gid with
    | none => st
    | some g =>
      if g.entering.isSome then st.enterTrap gid
      else match st.endedWait gid g with
        | some p => st.takePend gid p.acc p.slot p
        | none => st)

/-! The census flush. -/

/-- The hub adds a count to one word of a census table, at its physical address, on the HOST path (R448); none where the line must wait. -/
def State.censusAdd (st : State) (a n : Nat) : Option State := (st.takeLine (lineOf a)).map fun s => s.hostStore a 8 ((s.read a 8 + n) % 2 ^ 64)

/-- The counts of a context at every core cleared (R447). -/
def State.censusClear (st : State) (c : Nat) : State :=
  { st with cores := mmap st.cores fun _ k => { k with census := k.census.filter fun e => decide (e.1 / 512 ≠ c) } }

/-- Every core's counts of a context added into its table and cleared; a table page without W discards them with one FAULT record (R447, R448); none where a line must wait. -/
def State.censusFlush (st : State) (c : Nat) : Option State :=
  let counts := st.cores.flatMap fun k => k.2.census.filter fun e => decide (e.1 / 512 = c)
  if counts = [] then some st else
  match st.accessNow c (.unit 0) 0x11000 .w 4 true with
  | .wait => none
  | .fault _ t st | .prot t st => some ((st.faultRec 0 c 0 (causeCode t.cause) 0 0x11000).censusClear c)
  | .ok _ pa st =>
    if !st.moveFreeAt pa then none else
    (counts.foldl (fun (o : Option State) e => o.bind fun s => s.censusAdd (pa + 1024 + 40 * (e.1 % 512 / 5) + 8 * (e.1 % 5)) e.2)
      (st.setDirty c (.unit 0) 0x11000)).map fun s => s.censusClear c

/-- CENSUS_FLUSH: the hub flushes for a split held in PUTS, and releases it (R448). -/
def execCensusFlush (gid slot : Nat) (st : State) : Ans :=
  .next (match mget st.groups gid with
    | none => st
    | some g =>
      match g.splitAt slot with
      | some s =>
        if s.wait = .flush then
          ((st.censusFlush (st.ctxOf g)).map fun s => s.updGroup gid fun g => g.updSplit slot fun s => { s with wait := .ready, pc := s.pc + 4 }).getD st
        else st
      | none => st)

/-! The page-fault service's answers (R339, R340). -/

/-- A wait that a page holds. -/
def heldOn (page : Nat) (w : SWait) : Option Trap :=
  match w with
  | .paged p t => if p = page then some t else none
  | _ => none

/-- An access stream that a page holds. -/
def aheldOn (page : Nat) (w : AWait) : Option Trap := (w.page.filter fun p => decide (p.1 = page)).map (·.2)

/-- Every access a page of a context held tries again (R339): splits, streams, engine commands, and packets from the fabric. -/
def State.pageMapped (st : State) (c page : Nat) : State :=
  let free := fun (s : Split) => if (heldOn page s.wait).isSome then { s with wait := .ready } else s
  let afree := fun (w : AWait) => if (aheldOn page w).isSome then w.unpage else w
  let mine := fun (g : Group) => decide (st.ctxOf g = c) && st.wakes g
  let gone := fun (r : LaunchReq) => decide (r.ctx = c) && decide (r.reason = 7) && (match mget st.groups r.group with
    | some g => mine g && (g.splitAt r.slot).any fun s => (heldOn page s.wait).isSome
    | none => false)
  let cmd := fun (e : EngCmd) => if e.ctx = c ∧ (e.paged.any fun p => decide (p.1 = page)) then { e with paged := none } else e
  let grp := fun (g : Group) => if mine g then
      { g with splits := mmap g.splits fun _ s => free s, handler := g.handler.map free, await := afree g.await
               frame := g.frame.map fun f => { f with await := afree f.await } }
    else g
  let launches := st.launches.filter fun r => !gone r
  let groups := mmap st.groups fun _ g => grp g
  let clusters := mmap st.clusters fun _ k => { k with copyQ := k.copyQ.map cmd, fabQ := k.fabQ.map cmd }
  let st := { st with launches := launches, groups := groups, clusters := clusters }
  ((st.triples.filter fun e => decide (e.2.held ≠ [])).foldl (fun s e => s.retryHeld e.1) st).retryRedirs

/-- The virtual pages a conversion's CBUF run and elements lie on include a page. -/
def convMeets (v : Conv) (page : Nat) : Bool :=
  let d := v.view
  (v.todo.any fun p => decide (p.1 / 2 ^ 16 = page)) || ((List.range (2 ^ 16 / 128)).any fun i => inView d (page * 2 ^ 16 + 128 * i))

/-- The first late entry of each grid's buffered atomics that a declined page held is dropped, with a FAULT record (R263). -/
def State.dropAtoms (st : State) (c page : Nat) : State :=
  st.grids.foldl (fun st e =>
    let g := e.2
    match g.pendAtoms with
    | (l, w, a :: rest) :: more =>
      if g.ctx = c ∧ g.retired = g.total ∧ a.glob ∧ a.addr / 2 ^ 16 % 2 ^ 36 = page then
        (st.updGrid e.1 fun g => { g with pendAtoms := if rest = [] then more else (l, w, rest) :: more }).faultRec 0 c 0 5 0 a.addr
      else st
    | _ => st) st

/-- A declined page ends its accesses (R340). -/
def State.pageDeclined (st : State) (c page detail : Nat) : State :=
  let mine := st.groups.filter fun e => decide (st.ctxOf e.2 = c)
  /- splits and streams held at an instruction -/
  let st := mine.foldl (fun st e =>
    let gid := e.1
    let root := (st.gridOf (st.wgOf e.2)).root
    let here : List (Nat × Split) := e.2.splits ++ (e.2.handler.toList.map fun s => (5, s))
    let st := (here.filterMap fun (p : Nat × Split) => (heldOn page p.2.wait).map fun t => (p.1, t)).foldl (fun st (p : Nat × Trap) =>
      if root then
        (if st.launches.any fun r => decide (r.group = gid) && decide (r.slot = p.1) && decide (r.reason = 7) then
          st.updGroup gid fun g => g.updSplit p.1 fun s => { s with wait := .launch }
         else (st.updGroup gid fun g => g.updSplit p.1 fun s => { s with wait := .ready }).rootHalt gid e.2 p.2)
      else st.declinedTrap gid false p.1 p.2) st
    let st := match aheldOn page e.2.await with
      | some t => if root then (st.updGroup gid fun g => { g with await := g.await.unpage }).rootHalt gid e.2 t else st.declinedTrap gid true (if e.2.tlevel then 5 else 4) t
      | none => st
    let st := match e.2.frame.bind fun f => aheldOn page f.await with
      | some t => st.declinedTrap gid true 4 t
      | none => st
    /- the guarded load that waits for the page after resolving true -/
    match e.2.memq.find? fun a => !(a.resolved && a.checked) with
    | some a =>
      if !a.resolved || !a.returns then st else
      let k := st.checkLines c (.stream gid true) a.esize (kindNeed a.kind).1 false false a.lines
      if k.missing.any fun m => decide (m.2.1 = page) then
        (st.updGroup gid fun g => g.forget a).defer gid
          { cause := .pageFault, detail := trAs detail 0 (kindNeed a.kind).2.2 true, addr := ((k.missing.map fun m => m.1.low).min?).getD 0 }
      else st
    | none => st) st
  let st := st.discardSpill c page .pageFault (trAs detail 0 true true)
  /- engine commands -/
  let held := fun (e : EngCmd) => decide (e.ctx = c) && e.paged.any fun p => decide (p.1 = page)
  let cmds := st.clusters.flatMap fun k => (k.2.copyQ ++ k.2.fabQ).filter held
  let st := cmds.foldl (fun st e => match e.paged with
    | some (_, t) => st.failCmd e t
    | none => st) st
  /- packets held at the destination -/
  let meets := fun (st : State) (p : Packet) => decide (st.ctxOfDomain (pDom p.hdr) = some c) && p.todo.any fun q => decide (q.1 / 2 ^ 16 = page)
  let low := fun (p : Packet) => (p.todo.find? fun q => decide (q.1 / 2 ^ 16 = page)).elim (pDaddr p.hdr) (·.1)
  let st := (st.triples.filter fun e => decide (e.2.held ≠ [])).foldl (fun st e =>
    match e.2.held with
    | p :: rest =>
      if meets st p then
        let t : Triple := { mgetD st.triples e.1 {} with held := rest }
        (({ st with triples := mset st.triples e.1 t }).refuse p { cause := .pageFault, detail := detail, addr := low p }).retryHeld e.1
      else st
    | [] => st) st
  let rest : State := { st with redirHeld := st.redirHeld.filter fun p => !(meets st p) }
  let st := ((st.redirHeld.filter (meets st)).foldl (fun (s : State) p => s.refuse p { cause := .pageFault, detail := detail, addr := low p }) rest).retryRedirs
  /- conversions -/
  let cv := st.convs.filter fun v => decide (v.ctx = c) && v.matched && convMeets v page
  let st := cv.foldl (fun s v => s.failConv v page { cause := .pageFault, detail := trAs detail 3 v.result.isSome false, addr := page * 2 ^ 16 }) st
  st.dropAtoms c page

/-- Every page that holds an access of a context asks the service again, where it has no entry: room in the queue may have come (R339). Packets are tried again; conversions and
buffered atomics ask at their own events. -/
def State.askAgain (st : State) (c : Nat) : State :=
  let mine := st.groups.filter fun e => decide (st.ctxOf e.2 = c)
  let asks := (mine.flatMap fun e =>
      (((e.2.splits.map (·.2)) ++ e.2.handler.toList).filterMap fun s => match s.wait with
        | .paged p t => some (Who.stream e.1 false, p, t, (st.wgOf e.2).serial)
        | _ => none) ++ ((e.2.await :: (e.2.frame.map (·.await)).toList).filterMap fun w =>
          w.page.map fun q => (Who.stream e.1 true, q.1, q.2, (st.wgOf e.2).serial)))
    ++ (st.clusters.flatMap fun k => (k.2.copyQ ++ k.2.fabQ).filterMap fun e => if e.ctx = c then e.paged.map fun p =>
        (Who.engine e.group, p.1, p.2, (mgetD st.workgroups e.wg { ctx := 0, grid := 0 }).serial) else none)
    ++ (st.spillways.flatMap fun q => q.2.filterMap fun x => if x.ctx = c then (match st.access c (.stream x.group true) x.line.va .w 0 true with
        | .fault p t _ => some (Who.stream x.group true, p, t, (mgetD st.workgroups x.wg { ctx := 0, grid := 0 }).serial)
        | _ => none) else none)
  let st := asks.foldl (fun st a =>
    let r := st.pageFault c a.1 a.2.1 a.2.2.1.detail a.2.2.2 a.2.2.1.addr
    if r.declined then r.st.pageDeclined c a.2.1 a.2.2.1.detail else r.st) st
  ((st.triples.filter fun e => decide (e.2.held ≠ [])).foldl (fun s e => s.retryHeld e.1) st).retryRedirs

/-- The RESULT word of a fault entry, read: it counts as a tracked load of the group that faulted first (R426), at the instruction at which that group is
held (DEDUCED: log entry 87). None while it must wait, its recorder's stall among the reasons (R430), or where the page is gone. -/
def State.resultRead (st : State) (c : Nat) (f : PageFault) : Option (Nat × State) :=
  let cut := f.asker.any fun q => let g := mgetD st.groups q.1 { wg := 0 }; st.cutStream c q.1 q.2 (if q.2 then g.icntA else g.icntC)
  if st.recStalls c || cut then none else
  match st.accessNow c (.unit 0) (f.entry + 24) .r 0 false with
  | .ok leaf pa st =>
    let data := st.read (lineOf pa) 128
    let (st, data) := match f.asker with
      | some (gid, acc) => if st.tracked c leaf then
          (let g := mgetD st.groups gid { wg := 0 }
           st.value c gid acc (if acc then g.icntA else g.icntC) (lineOf pa) data)
        else (st, data)
      | none => (st, data)
    some (data / 2 ^ (8 * (pa % 128)) % 2 ^ 32, st)
  | _ => none

/-- PAGE_FAULT_RESULT: the RESULT word of a context's i-th open fault entry is read: mapped, the held accesses translate again; declined, they end (R339,
R340). With no such entry the held accesses only ask again. -/
def execPageFaultResult (c i : Nat) (st : State) : Ans :=
  .next (match (st.ctx c).faults[i]? with
    | none => st.askAgain c
    | some f =>
      match st.resultRead c f with
      | none => st
      | some (r, st1) =>
        let st2 := st1.updCtx c fun x => { x with faults := x.faults.filter fun q => decide (q.index ≠ f.index) }
        if r = 1 then (st2.pageMapped c f.page).askAgain c
        else if r = 2 then (st2.pageDeclined c f.page f.detail).askAgain c
        else st.askAgain c)

end Sys2Proof.Machine
end

