-- ==== Sys2Proof/Machine/Distributor.lean ====
section
/-! DEFINITION. The distributor (R51, R52, R74, R78 to R84, R108 to R113): acceptance, division, stealing, gates, placement, the elder flag, and what a
grid still owes at its end (R79, R263). -/

namespace Sys2Proof.Machine

/-! Runs of linear indices. -/

/-- How many indices a list of runs holds. -/
def runCount (l : List (Nat × Nat)) : Nat := l.foldl (fun n r => n + (r.2 - r.1)) 0

/-- The first `n` indices of a list of runs, and the rest. -/
def runTake (n : Nat) (l : List (Nat × Nat)) : List (Nat × Nat) × List (Nat × Nat) :=
  match l with
  | [] => ([], [])
  | (a, b) :: r =>
    if n = 0 then ([], (a, b) :: r)
    else if b - a ≤ n then ((a, b) :: (runTake (n - (b - a)) r).1, (runTake (n - (b - a)) r).2)
    else ([(a, a + n)], (a + n, b) :: r)

/-- Runs handed out in order, a count to each receiver; a receiver of none is not listed. -/
def runDeal (l : List (Nat × Nat)) (who : List (Nat × Nat)) : FMap (List (Nat × Nat)) :=
  match who with
  | [] => []
  | (k, n) :: r =>
    let p := runTake n l
    if n = 0 then runDeal p.2 r else mset (runDeal p.2 r) k p.1

/-- W workgroups over receivers of weights c_i (R81): the floors, and one more each to the lowest. -/
def shares (w : Nat) (who : List (Nat × Nat)) : List (Nat × Nat) :=
  let c := who.foldl (fun n e => n + e.2) 0
  let base := who.map fun e => (e.1, w * e.2 / c)
  let rest := w - base.foldl (fun n e => n + e.2) 0
  base.zipIdx.map fun e => (e.1.1, e.1.2 + if e.2 < rest then 1 else 0)

/-- A die's runs over its clusters (R81). -/
def dealDie (die : Nat) (l : List (Nat × Nat)) : FMap (List (Nat × Nat)) :=
  runDeal l (shares (runCount l) ((List.range (clustersOf die)).map fun i => (firstCluster die + i, 1)))

/-- A grid's workgroups over the clusters of its eligible dies (R81). -/
def dealGrid (dies : List Nat) (w : Nat) : FMap (List (Nat × Nat)) :=
  let per := runDeal [(0, w)] (shares w (dies.map fun d => (d, clustersOf d)))
  per.foldl (fun m e => (dealDie e.1 e.2).foldl (fun m x => mset m x.1 x.2) m) []

/-! Acceptance. -/

/-- The oldest live workgroup's distance behind a serial, 0 where there is none. -/
def State.oldest (st : State) (c next : Nat) : Nat :=
  ((st.workgroups.filter fun e => decide (e.2.ctx = c)).map fun e => (next + 2 ^ 39 - e.2.serial) % 2 ^ 39).foldl max 0

/-- A grid entered in the distributor's tables with its serials and identifier (R51, R81, R108). -/
def State.enterGrid (st : State) (c : Nat) (d : Desc) (depth tag doneAt : Nat) (parent : Option Nat) (gates : List (Nat × Nat)) (root : Bool) : State × Nat :=
  let x := st.ctx c
  let n := d.x * d.y * d.z
  let id := x.nextGrid
  let g : Grid := { ctx := c, gid := id, base := x.serial, desc := d, depth := depth, tag := tag, doneAt := doneAt, parent := parent, gates := gates
                    openGate := gates.isEmpty, ranges := dealGrid (st.eligible x.dev (d.flags / 8 % 4)) n, openAt := st.clock, root := root }
  let st := { st with grids := mset st.grids (gridKey c id) (st.wakeGate g) }
  (st.updCtx c fun x => { x with serial := (x.serial + n) % 2 ^ 39, nextGrid := (x.nextGrid + 1) % 2 ^ 32 }, id)

/-- A block of `n` serials would end 2^38 or more serials beyond the oldest live workgroup (R51). Where a block ends is the model's choice: at the serial
behind its last one (DESIGN CHOICE: log entry 75). -/
def State.blockFar (st : State) (c n : Nat) : Bool :=
  let next := (st.ctx c).serial
  decide (st.oldest c next ≠ 0) && decide (2 ^ 38 ≤ st.oldest c next + n)

/-- A store that happens before what a group does now is still to come to its home: one that another group has released to it, or one that a release of its own has
ordered (R182, R185). -/
def State.owesBefore (st : State) (gid : Nat) : Bool :=
  st.groups.any fun e => e.2.memq.any fun a => a.lines.any fun l =>
    !l.done && (if e.1 = gid then l.seen.isSome else l.bound.any fun b => decide (b.1 = gid))

/-- GRID_ACCEPT: the chip distributor answers the i-th held LAUNCH: a refusal; or acceptance in ticket order, once its block of serials fits behind the oldest
live workgroup and what happens before the LAUNCH is done, so that it comes before every event of the grid (R51, R78, R108, R111, R113, R191). -/
def execGridAccept (i : Nat) (st : State) : Ans :=
  .next (match st.launches[i]? with
    | none => st
    | some r =>
      match (mget st.groups r.group).bind fun g => (g.splitAt r.slot).map fun s => (g, s) with
      | none => st
      | some (g, s) =>
        if s.wait ≠ .launch then st else
        let answer := fun (st : State) (v : Nat) =>
          { st.updGroup r.group (fun g => (g.putS r.dreg (BitVec.ofNat 64 v)).updSplit r.slot fun s => { s with wait := .ready, pc := s.pc + 4 }) with
              launches := st.launches.eraseIdx i }
        if r.reason ≠ 0 then answer st (r.reason * 2 ^ 56)
        else
          if st.blockFar r.ctx (r.desc.x * r.desc.y * r.desc.z) || st.owesBefore r.group then st
          else match st.seqTicket r.ctx 1 (locOf r.group 0) g.icntC with
            | none => st
            | some (st, _) =>
              let (st, id) := st.enterGrid r.ctx r.desc r.depth r.tag r.doneAt r.parent r.gates false
              let st := match r.parent with
                | some w => st.updWg w fun w => { w with children := w.children ++ [id] }
                | none => st
              answer (st.trace 0 1 (some r.ctx) 0 (r.tag + id * 2 ^ 64 + r.depth * 2 ^ 96)) id)

/-- GATE_OPEN: every pair has held at one time; the gate stays open (R74). -/
def execGateOpen (ctx grid : Nat) (st : State) : Ans :=
  .next (match mget st.grids (gridKey ctx grid) with
    | none => st
    | some g =>
      if g.gateHeld && !g.openGate then
        match st.sched ctx 710 6 0 0 (some g.base) with
        | some st => st.updGrid (gridKey ctx grid) fun g => { g with openGate := true, openAt := st.clock }
        | none => st
      else st)

/-- PLACEMENT_WAIT_EXPIRY: a grid's workgroups have waited unplaced for 65,536 cycles (R82). -/
def execPlacementWaitExpiry (ctx grid : Nat) (st : State) : Ans :=
  .next (st.updGrid (gridKey ctx grid) fun g =>
    if g.openGate && decide (g.ranges ≠ []) && decide (g.openAt + 65536 ≤ st.clock) then { g with expired := true } else g)

/-! Stealing (R83). -/

/-- The sibling with the most unplaced workgroups, the lower index on a tie; none with fewer than two. -/
def stealFrom (who : List (Nat × Nat)) : Option (Nat × Nat) :=
  let m := (who.map (·.2)).foldl max 0
  if m < 2 then none else who.find? fun e => decide (e.2 = m)

/-- The unplaced workgroups of a grid on a cluster, and on a die. -/
def Grid.left (g : Grid) (cl : Nat) : Nat := runCount (mgetD g.ranges cl [])
/-- On a die. -/
def Grid.leftDie (g : Grid) (die : Nat) : Nat := (List.range (clustersOf die)).foldl (fun n i => n + g.left (firstCluster die + i)) 0

/-- The clusters of a die, in global numbers. -/
def dieClusters (die : Nat) : List Nat := (List.range (clustersOf die)).map (firstCluster die + ·)

/-- A grid's unplaced workgroups on a die, as runs in ascending index. -/
def Grid.dieRuns (g : Grid) (die : Nat) : List (Nat × Nat) :=
  orderBy ((dieClusters die).flatMap fun c => mgetD g.ranges c []) fun a b => decide (a.1 ≤ b.1)

/-- A grid's ranges with those runs alone on a die that another one takes the rest from. -/
def Grid.keeping (g : Grid) (die : Nat) (keep : List (Nat × Nat)) : FMap (List (Nat × Nat)) :=
  (dieClusters die).foldl (fun m c =>
    let l := (mgetD g.ranges c []).filterMap fun (r : Nat × Nat) =>
      let lo : Nat := r.1
      let hi : Nat := (keep.filterMap fun k => if k.1 ≤ lo ∧ lo < k.2 then some (min k.2 r.2) else none).foldl max lo
      if lo < hi then some (lo, hi) else none
    mput m c l []) g.ranges

/-- WORK_STEAL: a cluster without work of a grid takes the upper half of its fullest sibling's; with `dies` a die without work takes that of the fullest
die of the grid and divides it (R83). -/
def execWorkSteal (ctx grid thief : Nat) (dies : Bool) (st : State) : Ans :=
  .next (match mget st.grids (gridKey ctx grid) with
    | none => st
    | some g =>
      let elig := st.eligible (st.ctx ctx).dev (g.desc.flags / 8 % 4)
      let put := fun (st : State) (rs : FMap (List (Nat × Nat))) => st.updGrid (gridKey ctx grid) fun g => { g with ranges := rs }
      let serial := fun (l : List (Nat × Nat)) => some ((g.base + (l.headD (0, 0)).1) % 2 ^ 39)
      if dies then
        if thief ∉ elig ∨ g.leftDie thief ≠ 0 then st
        else match stealFrom ((elig.filter fun d => decide (d ≠ thief)).map fun d => (d, g.leftDie d)) with
          | none => st
          | some (v, u) =>
            match runTake (u - u / 2) (g.dieRuns v) with
            | (keep, take) =>
              match st.sched ctx 710 5 v thief (serial take) with
              | none => st
              | some st => put st ((dealDie thief take).foldl (fun m e => mset m e.1 e.2) (g.keeping v keep))
      else
        let die := clusterDie thief
        if die ∉ elig ∨ g.left thief ≠ 0 then st
        else match stealFrom ((dieClusters die).filterMap fun c => if c = thief then none else some (c, g.left c)) with
          | none => st
          | some (v, u) =>
            match runTake (u - u / 2) (mgetD g.ranges v []) with
            | (keep, take) =>
              match st.sched ctx (710 + die) 5 (clusterInDie v) (clusterInDie thief) (serial take) with
              | none => st
              | some st => put st (mset (mput g.ranges v keep []) thief take))

/-! Placement (R17, R82, R112). -/

/-- Where a workgroup is to stand: its core, group slots, and the bases of its allocations. -/
structure Spot where
  core : Nat
  slots : List Nat
  coreBase : Nat
  clusBase : Nat
  accBase : Nat

/-- A workgroup holds its core's resources. -/
def Workgroup.holds (w : Workgroup) : Bool :=
  match w.state with
  | .placed | .saving | .restoring => true
  | _ => false

/-- The lowest base where `size` units fit beside the used ranges, below a limit (first fit: log entry 11). -/
def firstFit (used : List (Nat × Nat)) (size limit : Nat) : Option Nat :=
  let cand := orderBy (0 :: used.map fun u => u.1 + u.2) (· ≤ ·)
  cand.find? fun c => decide (c + size ≤ limit) && used.all fun u => decide (size = 0) || decide (u.2 = 0) || !meets c size u.1 u.2

/-- A place for a workgroup of a shape on a core, all or nothing (R17, R18): its view table and CORE bytes lie together. -/
def State.findSpot (st : State) (core : Nat) (d : Desc) : Option Spot :=
  let cl := core / 4
  let die := clusterDie cl
  let here := (st.workgroups.filter fun e => e.2.holds && decide (e.2.core = core)).map (·.2)
  let near := (st.workgroups.filter fun e => e.2.holds && decide (e.2.core / 4 = cl)).map (·.2)
  let need := (d.n + 31) / 32
  let busy := here.flatMap (·.slots)
  let free := (List.range 128).filter fun s => !(decide (s ∈ busy)) && !(decide (core * 64 + s / 2 ∈ st.retiredPipes)) && !(decide (core * 64 + s / 2 ∈ st.retiring))
  if (st.die die).state ≠ .up ∨ 32 ≤ here.length ∨ free.length < need then none
  else
    match firstFit (here.map fun w => (w.tableBase, w.coreSize + 4096)) (d.core + 4096) 524288,
          firstFit (near.map fun w => (w.clusBase, w.clusSize)) d.clus (2 ^ 21),
          firstFit (near.map fun w => (w.accBase, w.accRows)) d.acc (accRowsOf die) with
    | some c, some l, some a => some { core := core, slots := free.take need, coreBase := c + 4096, clusBase := l, accBase := a }
    | _, _, _ => none

/-- A place on a cluster: its cores are tried in ascending order (R82). -/
def State.findCluster (st : State) (cl : Nat) (d : Desc) : Option Spot := firstSome (fun i => st.findSpot (4 * cl + i) d) (List.range 4)

/-- Memory whose contents are undefined when it is given (R112): free values (log entry 3). -/
def State.scramble (st : State) (a n : Nat) : State :=
  if n = 0 then st else
    let (v, st) := st.freeValue
    st.writeAll a n v

/-- A group as LAUNCH starts it (R57, R112). AMARK, for which R112 and R199 give no value before a load has returned, stands at the core's pts, so that an
acquire then raises nothing (DESIGN CHOICE: log entry 76). -/
def newGroup (w gi n pts : Nat) (d : Desc) : Group :=
  let m : Mask := BitVec.ofNat 32 (2 ^ (min 32 (n - 32 * gi)) - 1)
  let ps := d.params.zipIdx.filterMap fun e => if e.1 = 0 then none else some (e.2, BitVec.ofNat 64 e.1)
  { wg := w, gi := gi, present := m, s := ps, a := ps.map fun e => (e.1 + 1, e.2), splits := [(0, { pc := BitVec.ofNat 64 d.cpc, mask := m })]
    apc := BitVec.ofNat 64 d.apc, amark := pts }

/-- A workgroup of a grid placed at a spot (R17, R112), its accumulator cells 0 (R300). LAUNCH acceptance orders what happened before it before every event of the grid (R191), and a fetch finds
code that an XFENCE to CODE made visible before (R196): so the core's pts passes the die's MAXT, as at a restore (R203), and its instruction cache is emptied
(DEDUCED: log entry 83). -/
def State.placeAt (st : State) (g : Grid) (lin : Nat) (p : Spot) : State :=
  let serial := (g.base + lin) % 2 ^ 39
  let key := wgKey g.ctx serial
  let d := g.desc
  let w : Workgroup := { ctx := g.ctx, grid := g.gid, lin := lin, serial := serial, n := d.n, depth := g.depth, core := p.core, slots := p.slots
                         coreBase := p.coreBase, coreSize := d.core, clusBase := p.clusBase, clusSize := d.clus, accBase := p.accBase, accRows := d.acc
                         tableBase := p.coreBase - 4096, keeper := d.keeper, views := d.views }
  let st := ({ st with workgroups := mset st.workgroups key w } : State).updCore p.core fun k => { k with icode := [] }
  let st := st.raisePts p.core (st.die (clusterDie (p.core / 4))).maxT
  let st := (st.scramble (flatCore p.core p.coreBase) d.core).scramble (flatClus (p.core / 4) p.clusBase) d.clus
  let st := if d.acc = 0 then st else st.writeAll (flatAcc (p.core / 4) p.accBase 0) (4096 * d.acc) 0
  p.slots.zipIdx.foldl (fun st e =>
    let gid := gidOf p.core e.1
    (st.scramble (flatPriv gid 0 0) 2048).putGroup gid (newGroup key e.2 d.n (st.core p.core).pts d)) st

/-- The rank of a grid in its context's order (R80): true where the first goes before the second. -/
def Grid.before (a b : Grid) : Bool :=
  let pa := a.desc.flags / 2 % 4
  let pb := b.desc.flags / 2 % 4
  decide (b.depth < a.depth) || (decide (a.depth = b.depth) && (decide (pb < pa) || (decide (pa = pb) && decide (a.base < b.base))))

/-- A grid whose workgroups the distributor may place (R74, R82, R352, R417). -/
def State.placeable (st : State) (g : Grid) : Bool :=
  g.openGate && !g.broken && !g.ended && decide ((st.ctx g.ctx).state = .running)

/-- A COOP grid, which is placed whole (R82). -/
def Grid.coop (g : Grid) : Bool := decide (g.desc.flags % 2 = 1)

/-- One workgroup of a grid placed on a cluster: its lowest core that fits, or on replay the one the log names (R82, R425). -/
def State.placeOn (st : State) (g : Grid) (lin cl : Nat) : Option State :=
  firstSome (fun i => (st.findSpot (4 * cl + i) g.desc).bind fun p =>
    (st.sched g.ctx cl 4 i 0 (some ((g.base + lin) % 2 ^ 39))).map fun st => st.placeAt g lin p) (List.range 4)

/-- A COOP grid placed whole, its workgroups in ascending index, each on the lowest core of its cluster that fits; none where one does not (R66, R82). -/
def State.placeCoop (st : State) (g : Grid) : Option State :=
  let todo := g.ranges.flatMap fun e => e.2.flatMap fun r => (List.range (r.2 - r.1)).map fun i => (r.1 + i, e.1)
  let todo := orderBy todo fun a b => decide (a.1 ≤ b.1)
  todo.foldl (fun o t => o.bind fun st => st.placeOn g t.1 t.2) (some st)

/-- A grid has a workgroup that fits now, R82's reservations for others apart: a runnable placement (R80; DESIGN CHOICE: log entry 77). -/
def State.runnablePlacement (st : State) (g : Grid) : Bool :=
  st.placeable g && (if g.coop then decide (g.ranges ≠ []) && (st.placeCoop g).isSome else g.ranges.any fun e => (st.findCluster e.1 g.desc).isSome)

/-- The context is not the next to be served (R80): another context of the device with a runnable placement has been handed fewer workgroups for its
weight. The workgroup as the unit of a share is the model's choice (DESIGN CHOICE: log entry 77). -/
def State.ahead (st : State) (c : Nat) : Bool :=
  let x := st.ctx c
  st.ctxs.any fun e => decide (e.1 ≠ c) && decide (e.2.dev = x.dev) && decide (e.2.share * x.weight < x.share * e.2.weight)
    && st.grids.any fun g => decide (g.2.ctx = e.1) && st.runnablePlacement g.2

/-- A placement handed out to a context, of a workgroup or of a COOP grid whole, counts one to its share; a context without a runnable placement gains no claim meanwhile (R80;
DESIGN CHOICE: log entry 77). -/
def State.addShare (st : State) (c : Nat) : State :=
  let x := st.ctx c
  { st with ctxs := mmap st.ctxs fun k y =>
      if k = c then { y with share := y.share + 1 }
      else if y.dev = x.dev ∧ !(st.grids.any fun g => decide (g.2.ctx = k) && st.runnablePlacement g.2) then
        { y with share := max y.share ((x.share + 1) * y.weight / x.weight) }
      else y }

/-- A waiting workgroup of another context keeps what is freed on a cluster from a grid (R82): of a COOP grid that does not fit, or of one that has waited
65,536 cycles; between two that wait, the one that has waited longer. -/
def State.reserves (st : State) (cl : Nat) (x g : Grid) : Bool :=
  st.placeable x && decide (x.ctx ≠ g.ctx) && decide (x.left cl ≠ 0)
    && (if x.coop then (st.placeCoop x).isNone else x.expired && (st.findCluster cl x.desc).isNone)
    && (!(g.coop || g.expired) || decide (x.openAt < g.openAt) || (decide (x.openAt = g.openAt) && decide (x.ctx < g.ctx)))

/-- WORKGROUP_PLACE: a cluster distributor places the lowest unplaced workgroup of a grid's range, unless one of a higher-ranked grid of the context fits, or
reserves what is freed, or another context is to be served first; a COOP grid is placed whole (R80, R82). -/
def execWorkgroupPlace (ctx grid cl : Nat) (st : State) : Ans :=
  let key := gridKey ctx grid
  .next (match mget st.grids key with
    | none => st
    | some g =>
      let above := (st.grids.filter fun e => decide (e.2.ctx = ctx) && decide (e.1 ≠ key) && st.placeable e.2 && e.2.before g && decide (e.2.left cl ≠ 0)).map (·.2)
      if !st.placeable g || decide (g.left cl = 0) then st
      else if above.any fun x => x.coop || x.expired || (st.findCluster cl x.desc).isSome then st
      else if st.ahead ctx || st.grids.any fun e => st.reserves cl e.2 g then st
      else if g.coop then
        match st.placeCoop g with
        | some st => (st.addShare ctx).updGrid key fun g => { g with ranges := [], expired := false }
        | none => st
      else
        let rs := mgetD g.ranges cl []
        let rest := mput g.ranges cl (runTake 1 rs).2 []
        match st.placeOn g (rs.headD (0, 0)).1 cl with
        | none => st
        | some st => (st.addShare ctx).updGrid key fun g => { g with ranges := rest, expired := g.expired && decide (rest ≠ []) })

/-! The elder flag (R84). -/

/-- a is lower than b among 48-bit global identifiers (R51). -/
def gtidLt (a b : Nat) : Bool :=
  let d := (b + 2 ^ 48 - a % 2 ^ 48) % 2 ^ 48
  decide (1 ≤ d) && decide (d < 2 ^ 47)

/-- The lowest runnable identifier of a group (R51, R63). -/
def State.lowGtid (st : State) (g : Group) : Option Nat := g.lowRunnable.map fun t => (st.gtid0 g + t) % 2 ^ 48

/-- ELDER_REPORT: the cores report, and the context's elder flag moves to the group that holds its lowest runnable thread (R84). -/
def execElderReport (ctx : Nat) (st : State) : Ans :=
  let cand := (st.groups.filter fun e => decide (st.ctxOf e.2 = ctx) && !e.2.saver).filterMap fun e => (st.lowGtid e.2).map fun t => (e.1, t)
  let best := cand.foldl (fun (b : Option (Nat × Nat)) e => match b with
    | some x => if gtidLt e.2 x.2 then some e else b
    | none => some e) none
  let st := { st with cores := mmap st.cores fun _ k => { k with elder := merase k.elder ctx } }
  .next (match best with
    | some (gid, _) => st.updCore (gCore gid) fun k => { k with elder := mset k.elder ctx gid }
    | none => st)

/-! What a grid owes at its end. -/

/-- A hub unit's read and write of one element at its line's home (R79, R263): none where the line cannot be taken now. The line's revocations are logged as any
are (R425); the access itself where its rule says so: DONE takes its place in HOME (R79), the application of buffered atomics keeps no record (R263). A poisoned operand or old
value poisons the result (R414). -/
def State.hubAtomic (st : State) (c va n : Nat) (need : Need) (logged bad : Bool) (f : Nat → Nat) : EngEnd :=
  match st.access c (.unit 0) va need 0 true with
  | .wait => .wait st
  | .fault page t st => .miss st page t
  | .prot t st => .prot st t
  | .ok leaf pa st0 =>
    if st0.quiescing pa || !st0.moveFreeAt pa || !st0.tableQuiet (lineOf pa) then .wait st
    else match st0.lostTrap pa with
    | some t => .prot st { t with addr := va }
    | none =>
      match ((st0.takeLine (lineOf pa)).bind fun s => if logged then s.dirGate 1 11 3 0 (lineOf pa) else some s).bind fun s =>
          (s.writeLeaf c (.unit 0) va leaf pa n (2 ^ n - 1) (f (s.read pa n))).map fun s' => s'.soil (bad || s.poisonedAt pa n) pa with
      | none => .wait st
      | some st1 => .done st1

/-- A grid whose workgroups have all retired and whose buffered atomics are done completes, and its parent may retire (R52, R263). -/
def State.finishGrid (st : State) (gk : Nat) : State :=
  match mget st.grids gk with
  | none => st
  | some g =>
    if g.retired = g.total ∧ g.pendAtoms = [] ∧ !g.broken ∧ !g.ended then
      let st := st.gridEnd gk
      match g.parent with
      | some p => st.retireWg 12 p
      | none => st
    else st

/-- BUFFERED_ATOMIC_APPLY: the next buffered entry of a grid whose last workgroup has retired, in kept order, as an atomic with RNE; an entry whose page is
declined or lacks permission is dropped with a FAULT record (R263). -/
def execBufferedAtomicApply (ctx grid : Nat) (st : State) : Ans :=
  let gk := gridKey ctx grid
  .next (match mget st.grids gk with
    | none => st
    | some g =>
      match g.pendAtoms with
      | (lin, serial, a :: rest) :: more =>
        if g.retired ≠ g.total then st else
        let next := fun (st : State) => (st.updGrid gk fun g => { g with pendAtoms := if rest = [] then more else (lin, serial, rest) :: more }).finishGrid gk
        let f := fun (old : Nat) => atomNew a.op a.esize old a.val 0
        let fault := fun (st : State) (t : Trap) => next (st.faultRec 0 ctx 0 (causeCode t.cause) 0 a.addr)
        if !a.glob then
          (match st.lostTrap a.addr with
           | some t => fault st t
           | none => next ((st.writeAll a.addr a.esize (f (st.read a.addr a.esize))).soil (a.bad || st.poisonedAt a.addr a.esize) a.addr))
        else match st.hubAtomic ctx a.addr a.esize .rw false a.bad f with
          | .done st => next st
          | .wait _ | .later _ => st
          | .prot st t => fault st t
          | .miss st page t =>
            let r := st.pageFault ctx (.unit 0) page t.detail serial t.addr
            if r.declined then fault r.st t else r.st
      | (_, _, []) :: more => (st.updGrid gk fun g => { g with pendAtoms := more }).finishGrid gk
      | [] => st.finishGrid gk)

/-- DONE_ADD: a completed list grid adds 1 to its DONE counter, or drops the addition with a FAULT record (R79): an address past 2^52 has no translation. A page with V = 0 drops it
at once: the page-fault service is not asked (DEDUCED: log entry 97). -/
def execDoneAdd (ctx grid : Nat) (st : State) : Ans :=
  let gk := gridKey ctx grid
  .next (match mget st.grids gk with
    | none => st
    | some g =>
      if !g.ended ∨ g.doneAt = 0 then st else
      let fin := fun (st : State) => (st.updGrid gk fun g => { g with doneAt := 0 }).dropGrid gk
      let fault := fun (st : State) (c : Cause) => fin (st.faultRec 0 ctx 0 (causeCode c) 0 g.doneAt)
      if g.doneAt % 16 ≠ 0 then fault st .misalign
      else if 2 ^ 52 ≤ g.doneAt then fault st .pageFault
      else match st.hubAtomic ctx g.doneAt 8 .w true false (fun v => (v + 1) % 2 ^ 64) with
        | .done st => fin st
        | .wait _ | .later _ => st
        | .prot st t => fault st t.cause
        | .miss st _ t => fault st t.cause)

end Sys2Proof.Machine
end

