-- ==== Sys2Proof/Machine/Directory.lean ====
section
/-! DEFINITION. The directory's and the caches' own events (R136, R195, R204 to R207, R211 to R214): grants, revokes, pts jumps, ageing, the scrubber,
page migrations, bias flips, and the host bridge. -/

namespace Sys2Proof.Machine

/-! Grants and revokes (R206, R207, R212). -/

/-- A half granted to a host-side agent (R212): exclusive once every die has given the whole line up. -/
def State.grantHalf (st : State) (agent line half : Nat) (excl : Bool) : State :=
  let e := st.dirOf line
  let cur := e.half half
  let want := if excl then 2 else 1
  if !isGlob line || decide (line % 128 ≠ 0) || decide (2 ≤ half) || decide (want ≤ cur) || (excl && decide (e.dies ≠ 0)) || st.quiescing line
      || (st.lostTrap line).isSome then st
  else match st.dirGate 2 agent (half + 1) 0 line with
    | none => st
    | some st => (st.downgrade line).updDir line fun e => e.setHalf half want agent

/-- DIRECTORY_GRANT: the directory grants a line to a die (1 to 8), or one half of it to the hub cores (9) or the CXL host (10), shared or exclusive
(R206, R212). The context that asked decides nothing here: the access that fills the line makes it its tenant's (R139). -/
def execDirectoryGrant (holder line half : Nat) (excl : Bool) (_c : Nat) (st : State) : Ans :=
  .next (if 1 ≤ holder ∧ holder ≤ 8 then st.grantDie holder line excl
    else if holder = 9 ∨ (holder = 10 ∧ st.cxlHost) then st.grantHalf holder line half excl
    else st)

/-- DIRECTORY_REVOKE: a holder gives a line, or a host-side agent a half of it, up and acknowledges (R207, R212). -/
def execDirectoryRevoke (holder line half : Nat) (st : State) : Ans :=
  .next ((if 1 ≤ holder ∧ holder ≤ 8 then st.revokeDie holder line
    else if half < 2 ∧ holder ≠ 0 ∧ holder = (st.dirOf line).agent half then st.recallHalf line half
    else none).getD st)

/-! Logical time (R204, R205, R425). -/

/-- PTS_JUMP: a core earlier than its die's FLOOR jumps to it (R204); with a replaying context on it, it jumps as the log says (R425). -/
def execPtsJump (core : Nat) (st : State) : Ans := .next (st.jumpCore core (st.die (clusterDie (core / 4))).floor)

/-! Ageing (R136, R138). -/

/-- A line's rank, steps and OVERDUE after one ageing step, and whether it became OVERDUE; `keep` is the rank that does not age. -/
def ageRank (keep rank steps : Nat) (overdue : Bool) : Nat × Nat × Bool × Bool :=
  if rank = keep then (rank, steps, overdue, false)
  else if rank ≠ 0 then (rank - 1, 0, overdue, false)
  else if overdue then (0, steps, true, false)
  else if steps + 1 = 4 then (0, 4, true, true)
  else (0, steps + 1, false, false)

/-- One more overdue line for a tenant's count, saturating (R138). -/
def State.countOverdue (st : State) (die tenant : Nat) : State := st.setOverstated die tenant (min 65535 (st.overstated die tenant + 1))

/-- L1_AGEING_STEP: every copy of a core ages by one step (R136, R200). -/
def execL1AgeingStep (core : Nat) (st : State) : Ans :=
  let die := clusterDie (core / 4)
  let due := (st.core core).l1.filter fun e => (ageRank 255 e.2.rank e.2.steps e.2.overdue).2.2.2
  let st := st.updCore core fun k => { k with l1 := mmap k.l1 fun _ (e : L1Copy) =>
    let a := ageRank 255 e.rank e.steps e.overdue
    { e with age := e.age + 1, rank := a.1, steps := a.2.1, overdue := a.2.2.1 } }
  .next (due.foldl (fun s e => s.countOverdue die e.2.tenant) st)

/-- L2_AGEING_STEP: every line of a die's L2 ages by one step (R136); one that no access has filled yet has no rank. -/
def execL2AgeingStep (die : Nat) (st : State) : Ans :=
  let due := (st.die die).l2.filter fun e => !e.2.fresh && (ageRank 31 e.2.rank e.2.steps e.2.overdue).2.2.2
  let st := st.updDie die fun d => { d with l2 := mmap d.l2 fun _ (e : L2Line) =>
    let a := ageRank 31 e.rank e.steps e.overdue
    if e.fresh then e else { e with rank := a.1, steps := a.2.1, overdue := a.2.2.1 } }
  .next (due.foldl (fun s e => s.countOverdue die e.2.tenant) st)

/-! The scrubber (R205). -/

/-- A time lies more than 2^21 behind another. -/
def farBehind (t now : Nat) : Bool :=
  let d := (now + 2 ^ 24 - t % 2 ^ 24) % 2 ^ 24
  decide (2 ^ 21 < d) && decide (d < 2 ^ 23)

/-- SCRUBBER_VISIT: the 32 lines of a die's next two L2 sets are checked, and the next set of each of its L1s; a pass ends after the last set, and MAXT's
allowance starts again (R205). -/
def execScrubberVisit (die : Nat) (st : State) : Ans :=
  let d := st.die die
  let n := l2Sets die
  let k := d.scrub % (n / 2)
  let st := st.updDie die fun d => { d with
    l2 := mmap d.l2 fun a (l : L2Line) =>
      if a / 128 % n / 2 = k ∧ farBehind l.wts d.floor then { l with wts := d.floor, rts := smax l.rts d.floor } else l
    scrub := (k + 1) % (n / 2), passBase := if k + 1 = n / 2 then d.maxT else d.passBase }
  let clean := fun (t : Nat) (m : FMap L1Copy) => m.filter fun e => !(decide (e.1 / 128 % 256 = k % 256) && farBehind e.2.rts t)
  let one := fun (c : Nat) (x : Core) => if clusterDie (c / 4) = die then { x with l1 := clean x.pts x.l1 } else x
  .next { st with cores := mmap st.cores one }

/-! Pages: migration and bias (R195, R214). -/

/-- The bytes a leaf of a level maps (R328). -/
def leafSize (level : Nat) : Nat := if level = 2 then 2 ^ 28 else 2 ^ 16

/-- The first virtual page a leaf of a level maps. -/
def leafBase (level page : Nat) : Nat := if level = 2 then page / 4096 * 4096 else page

/-- The 4 KiB granules of a leaf's memory, by their flat numbers. -/
def State.granules (st : State) (dev level : Nat) (leaf : Word) : List Nat :=
  (List.range (leafSize level / 4096)).map fun i => st.leafPa dev leaf level (4096 * i) / 4096

/-- Every line of some granules that a die holds is revoked; none where the log says to wait. -/
def State.revokeGranules (st : State) (gs : List Nat) : Option State :=
  let mine := st.dir.filter fun e => decide (e.1 / 4096 ∈ gs)
  mine.foldl (fun o e => (List.range 9).foldl (fun (o : Option State) d => o.bind fun s => s.revokeDie d e.1) o) (some st)

/-- Every half of some granules that the host side holds is recalled. -/
def State.recallGranules (st : State) (gs : List Nat) : Option State :=
  let mine := st.dir.filter fun e => decide (e.1 / 4096 ∈ gs)
  mine.foldl (fun o e => [0, 1].foldl (fun (o : Option State) h => o.bind fun s => s.recallHalf e.1 h) o) (some st)

/-- A leaf entry rewritten by the hub: a write to a table line, which drops the translations read from it and clears PT and TRS (R209, R335, R342). -/
def State.setLeaf (st : State) (at_ : Nat) (leaf : Word) : State := st.writeAll at_ 8 leaf.toNat

/-- The hub may rewrite a leaf: every access translated through an entry of its line has been performed, but for those to the leaf's own pages, which are blocked
and queued (R195, R209, R214). -/
def State.leafQuiet (st : State) (c at_ base n : Nat) : Bool :=
  st.tableQuietBut (lineOf at_) fun d page => decide (d = c) && decide (base ≤ page) && decide (page < base + n)

/-- The lines of accesses of a context to a range of pages that have not been performed, changed. -/
def State.patchLines (st : State) (c base n : Nat) (f : LineReq → LineReq) (w : Nat → Nat) : State :=
  let g := fun (l : LineReq) => if l.glob && !l.done && decide (base ≤ l.va / 2 ^ 16 % 2 ^ 36) && decide (l.va / 2 ^ 16 % 2 ^ 36 < base + n) then f l else l
  let s := fun (x : Split) => match x.wait with
    | .waitm va pa v => if base ≤ va / 2 ^ 16 % 2 ^ 36 ∧ va / 2 ^ 16 % 2 ^ 36 < base + n then { x with wait := .waitm va (w pa) v } else x
    | _ => x
  { st with groups := mmap st.groups fun _ gr => if st.ctxOf gr = c then
      { gr with memq := gr.memq.map fun a => { a with lines := a.lines.map g }, splits := mmap gr.splits fun _ x => s x, handler := gr.handler.map s }
    else gr }

/-- 4 KiB moved from one granule to another, with poison and untracked bytes (R195). -/
def State.moveGranule (st : State) (src dst : Nat) : State :=
  let bad := st.poisoned.filter fun u => decide (u / 4096 = src)
  let st := st.writeAll (4096 * dst) 4096 (st.read (4096 * src) 4096)
  let st := bad.foldl (fun s u => s.poison (u - 4096 * src + 4096 * dst)) st
  (List.range 32).foldl (fun s i => { s with uBytes := mput s.uBytes (4096 * dst + 128 * i) (mgetD s.uBytes (4096 * src + 128 * i) 0) 0 }) st

/-- Every granule of a page moved to its new place. -/
def State.moveGranules (st : State) (pairs : List (Nat × Nat)) : State := pairs.foldl (fun s p => s.moveGranule p.1 p.2) st

/-- Where an address of a moved granule lies now. -/
def movedTo (pairs : List (Nat × Nat)) (a : Nat) : Nat :=
  match pairs.find? fun p => decide (p.1 = a / 4096) with
  | some p => 4096 * p.2 + a % 4096
  | none => a

/-- PAGE_MIGRATION: with MG = 0 in the page's leaf, the old home blocks the page (MG is set); with MG = 1, every line moves to the new physical address, the
leaf names it with MG = 0, and the accesses that waited are performed there (R195). -/
def execPageMigration (c page newPa : Nat) (st : State) : Ans :=
  .next (match mget st.ctxs c, st.walk c (page * 2 ^ 16) with
    | some x, .leaf e level at_ _ =>
      if !st.leafQuiet c at_ (leafBase level page) (leafSize level / 2 ^ 16) then st
      else if !pteBit e 11 then
        let st := st.setLeaf at_ (e ||| 0x800#64)
        (match st.translate c (.unit 0) (page * 2 ^ 16) with
         | .ok _ _ st => st
         | _ => st)
      else
        let new : Word := BitVec.ofNat 64 (newPa / leafSize level * leafSize level + (e &&& 0xF7FF#64).toNat % 2 ^ 16)
        let old := st.granules x.dev level e
        let dst := st.granules x.dev level new
        if st.badLeaf new level || old.any fun g => st.quiescing (4096 * g) && !st.migrating (4096 * g) then st
        else if dst.any fun g => decide (g ∈ old) || st.dir.any fun d => decide (d.1 / 4096 = g) then st
        else match (st.revokeGranules old).bind fun s => s.recallGranules old with
          | none => st
          | some st =>
            ((st.moveGranules (old.zip dst)).setLeaf at_ new).patchLines c (leafBase level page) (leafSize level / 2 ^ 16)
              (fun l => { l with pa := movedTo (old.zip dst) l.pa }) (movedTo (old.zip dst))
    | _, _ => st)

/-- BIAS_FLIP: the hub flips a page to host bias, every line revoked from every die, or to device bias, every half recalled; the queued accesses go on
by the new bias (R214). -/
def execBiasFlip (c page : Nat) (toHost : Bool) (st : State) : Ans :=
  .next (match mget st.ctxs c, st.walk c (page * 2 ^ 16) with
    | some x, .leaf e level at_ _ =>
      let gs := st.granules x.dev level e
      if pteBit e 10 == toHost || pteBit e 55 || pteBit e 11 || !st.leafQuiet c at_ (leafBase level page) (leafSize level / 2 ^ 16)
          || gs.any fun g => st.quiescing (4096 * g) then st
      else match (if toHost then st.revokeGranules gs else st.recallGranules gs) with
        | none => st
        | some st =>
          let new := if toHost then e ||| 0x400#64 else e &&& ~~~0x400#64
          let st := if toHost then { st with l3 := st.l3.map fun l => if l.1 / 4096 ∈ gs then (l.1, false) else l } else st
          (st.setLeaf at_ new).patchLines c (leafBase level page) (leafSize level / 2 ^ 16) (fun l => { l with host := toHost }) id
    | _, _ => st)

/-! The host path (R24, R191, R208, R212, R213). -/

/-- A context whose pages take no HOST-path write now: it replays (R436), or a checkpoint of it runs (R460). -/
def State.hostHolds (st : State) (a : Nat) : Bool :=
  st.ctxs.any fun e => (e.2.replay.any (fun r => decide (r.state = 2) || decide (r.state = 3))
    || (st.ckQ ++ st.ctlQ).any fun m => m.ck.any fun k => decide (k.ctx = e.1) && decide (m.phase < 4)) && st.ctxMaps e.1 a

/-- A checkpoint or a slate of a context is under way (R434, R460). -/
def State.ckBusy (st : State) (c : Nat) : Bool := (st.ckQ ++ st.ctlQ).any fun m => m.ck.any fun k => decide (k.ctx = c) && decide (m.phase < 4)

/-- HOST_ACCESS: a hub core (9) or the CXL host (10) reads or writes up to 64 bytes of one half, of device memory or host memory, once the directory has
granted it the half (R212, R213): shared for a read, exclusively for a write. A read changes nothing of the package's state, whether or not the half is
granted yet. With device number 255 a hub core writes the BPM by its byte offset (R456; DESIGN CHOICE of that number: log entry 99). -/
def execHostAccess (agent dev pa n : Nat) (wr : Bool) (data : Nat) (st : State) : Ans :=
  let a := st.flatPa dev (pa % 2 ^ 56)
  let e := st.dirOf (lineOf a)
  let half := if a % 128 < 64 then e.half0 else e.half1
  .next (if agent = 9 ∧ dev = 255 then (if wr ∧ n ≤ 64 ∧ pa + n ≤ 2 ^ 41 then st.writeAll (flatBpm pa) n (data % 2 ^ (8 * n)) else st)
    else if !(decide (agent = 9) || (decide (agent = 10) && st.cxlHost)) || decide (n = 0) || decide (64 < a % 64 + n) || decide (devCount st.mode ≤ dev)
        || st.quiescing a || (st.lostTrap a).isSome || !st.moveFreeAt a then st
    else if !wr then st
    else if half ≠ 2 ∨ !st.tableQuiet (lineOf a) ∨ st.hostHolds a then st
    else st.hostStore a n (data % 2 ^ (8 * n)))

end Sys2Proof.Machine
end

