-- ==== Sys2Proof/Machine/Contexts.lean ====
section
/-! DEFINITION. Contexts (R348 to R355): creation and destruction, pre-emption, parking and restore with their handlers, and the overstatement count. -/

namespace Sys2Proof.Machine

/-! The commands of CTXCMD (R351). -/

/-- The head context command. -/
def State.ctxHead (st : State) : Option Cmd := st.ctxQ.head?

/-- OP of a context command. -/
def Cmd.op (c : Cmd) : Nat := bits c.word.toNat 57 54
/-- CTXID of a context, checkpoint or replay command. -/
def Cmd.id (c : Cmd) : Nat := bits c.word.toNat 63 58

/-- The head context command ended with its status (R351). -/
def State.ctxDone (st : State) (c : Cmd) (id code : Nat) : State :=
  { st with ctxQ := st.ctxQ.tail
            ports := mset st.ports c.port { mgetD st.ports c.port {} with ctxcode := code, ctxid := id } }

/-! CREATE (R348, R349). -/

/-- Byte d − 1 of a word. -/
def dieByte (v d : Nat) : Nat := v / 2 ^ (8 * (d - 1)) % 256

/-- The context area of a device's contexts: 1 MiB, 2 MiB a core, and the accumulators, in 64 KiB units (R349). -/
def ctxAreaBytes (mode dev : Nat) : Nat :=
  let n := (devDies mode dev).foldl (fun n d => n + clustersOf d * (8 * 2 ^ 20 + accRowsOf d * 4096)) (2 ^ 20)
  (n + 65535) / 65536 * 65536

/-- Bytes of DIE space of a die (R19). -/
def dieSpace (die : Nat) : Nat := if isMdie die then 2 ^ 28 else 2 ^ 26

/-- The contexts of a device. -/
def State.ctxsOf (st : State) (dev : Nat) : List (Nat × Ctx) := st.ctxs.filter fun e => decide (e.2.dev = dev)

/-- The launch queues of a device (R75). -/
def queuesOf (mode : Nat) : Nat := if mode = 0 then 64 else if mode = 1 then 32 else 8

/-- A creation record breaks a field's range, a reserved byte or an alignment (R348). The root table lies in the device's memory (DEDUCED: log entry 90), the queue headers in the
virtual space. -/
def recordBad (r mode : Nat) : Bool :=
  let dev := bits r 15 8
  let dies := devDies mode dev
  let head := decide (2 < bits r 7 0) || decide (3 < bits r 23 16) || decide (bits r 31 24 = 0) || decide (bits r 39 32 < 20) || decide (40 < bits r 39 32)
    || decide (1 < bits r 47 40) || decide (bits r 79 64 = 0) || decide (bits r 127 96 % 65536 ≠ 0)
  let addrs := decide (bits r 191 128 % 65536 ≠ 0) || decide (devBytes mode < bits r 191 128 + 2 ^ 15) || decide (bits r 255 192 % 128 ≠ 0)
    || decide (2 ^ 52 < bits r 255 192 + 128 * queuesOf mode)
    || decide (bits r 319 256 % 128 ≠ 0) || decide (2 ^ 52 ≤ bits r 319 256)
    || [320, 384, 448, 512].any fun i => decide (bits r (i + 63) i % 4 ≠ 0) || decide (2 ^ 52 ≤ bits r (i + 63) i)
  let ways := (List.range 8).any fun i =>
    let f := dieByte (bits r 703 640) (i + 1)
    let h := dieByte (bits r 767 704) (i + 1)
    decide (16 < h) || decide (16 < f) || (!(decide (i + 1 ∈ dies)) && (decide (f ≠ 0) || decide (h ≠ 16)))
  head || addrs || ways || decide (bits r 799 768 % 4096 ≠ 0) || decide (2 ^ 26 < bits r 799 768) || decide (bits r 1023 800 ≠ 0)

/-- Where DIE bytes of a new context lie on each die of its device; none where a die cannot hold them (R349). -/
def State.dieRoom (st : State) (dev n : Nat) : Option (FMap Nat) :=
  (devDies st.mode dev).foldl (fun o d => o.bind fun (m : FMap Nat) =>
    (firstFit (st.ctxs.filterMap fun e => (mget e.2.dieBase d).map fun b => (b, e.2.dieb)) n (dieSpace d)).map fun b => mset m d b) (some [])

/-- The root grid's descriptor (R75): COOP, priority 3, die class ANY. -/
def rootDesc (mode : Nat) : Desc :=
  { x := if mode = 0 then 4 else if mode = 1 then 2 else 1, n := if mode = 2 then 256 else 512, flags := 7 }

/-- The refusal code of a creation record, or the new context (R349): its CTXID and record. -/
def State.create (st : State) (r : Nat) : Nat ⊕ (Nat × Ctx) :=
  let mode := bits r 7 0
  let dev := bits r 15 8
  let dies := devDies st.mode dev
  let f := bits r 703 640
  let h := bits r 767 704
  let dom := if bits r 47 40 % 2 = 1 then some (bits r 63 48) else none
  let abuf := bits r 799 768
  let size := ctxAreaBytes st.mode dev + 16 * abuf
  match (List.range 64).find? fun i => (mget st.ctxs i).isNone with
  | none => .inl 1
  | some id =>
    if decide (mode = st.mode) && decide (dev < devCount st.mode) && recordBad r mode then .inl 2
    else if mode ≠ st.mode then (if 2 < mode then .inl 2 else .inl 3)
    else if devCount st.mode ≤ dev then .inl 3
    else if dies.any fun d => decide (dieByte h d < dieByte f d)
        || decide (15 < (st.ctxs.filter fun e => decide (e.2.dev = dev)).foldl (fun n e => n + dieByte e.2.floors d) (dieByte f d)) then .inl 4
    else if dom.isSome && (st.ctxsOf dev).any fun e => decide (e.2.domain = dom) then .inl 5
    else match firstFit ((st.ctxsOf dev).map fun e => (e.2.area, e.2.areaSize)) size (st.pool * 2 ^ 30), st.dieRoom dev (bits r 127 96) with
      | some a, some m =>
        .inr (id, { dev := dev, det := bits r 23 16, lease := bits r 31 24, wdog := bits r 39 32, domain := dom, weight := bits r 79 64
                    oslimit := bits r 95 80, dieb := bits r 127 96, dieBase := m, troot := bits r 191 128, lqhdr := bits r 255 192, fqhdr := bits r 319 256
                    savec := bits r 383 320, savea := bits r 447 384, restc := bits r 511 448, resta := bits r 575 512, savemem := bits r 639 576
                    floors := f, ceils := h, abuf := abuf, area := a, areaSize := size, crec := r })
      | _, _ => .inl 6

/-- CREATE: a context built from the creation record, its root grid started; or a refusal, with nothing reserved (R349). An unknown OP is refused here. -/
def execCreate (st : State) : Ans :=
  .next (match st.ctxHead with
    | none => st
    | some c =>
      if c.op = 0 ∨ 5 < c.op then st.ctxDone c c.id 15
      else if c.op ≠ 1 then st
      else match st.create (st.devRead 128 (bits c.word.toNat 32 0 * 128)) with
        | .inl k => st.ctxDone c 0 k
        | .inr (id, x) =>
          let st := { st with ctxs := mset st.ctxs id x, tlb := st.tlb.filter fun e => decide (e.ctx ≠ id) }
          let st := (List.range 9).foldl (fun s d => s.setOverstated d id 0) st
          (st.enterGrid id (rootDesc st.mode) 0 0 0 none [] true).1.ctxDone c id 0)

/-! Draining (R352, R175, R319, R238). -/

/-- A group's compute side stands at an instruction boundary with nothing under way: at trap level its handler waits (R352). -/
def Group.halted (g : Group) : Bool :=
  let free := fun (s : Split) => decide (s.wait ≠ .launch) && decide (s.wait ≠ .flush)
  g.entering.isNone && (!g.tlevel || g.handler.all fun s => !s.runnable && free s) && g.splits.all fun s => free s.2

/-- A page holds a guarded access that has resolved true, and that owes no write-back entry, for which pre-emption waits (R31): some line of it is not translated (R158, R159). -/
def State.faultHeld (st : State) (gid : Nat) (g : Group) (a : Access) : Bool :=
  a.resolved && !a.checked && g.wbA.all (fun e => decide (e.id ≠ a.id))
    && a.lines.any fun l => l.glob && (match st.access (st.ctxOf g) (.stream gid true) l.low (kindNeed a.kind).1 0 false with
    | .fault _ _ _ => true
    | _ => false)

/-- An access that pre-emption may save (R175): its guard is unresolved, a page holds it, or it is a store performed or in the spillway as far as there is room.
Others wait until they are performed; but behind an unresolved guard of the group they cannot be (R89), the guard's GSET does not come while the streams stand, and
they are saved with it and checked anew after restore (DESIGN CHOICE: log entry 84). -/
def State.savable (st : State) (gid : Nat) (g : Group) (a : Access) : Bool :=
  !a.resolved || st.faultHeld gid g a || (!a.returns && a.checked && a.lines.all fun l => l.done || l.spilled)
    || g.memq.any fun b => decide (b.id < a.id) && !b.resolved

/-- Everything of a group that pre-emption waits for is done (R352 step 2). -/
def State.groupQuiet (st : State) (gid : Nat) (g : Group) : Bool :=
  let stands := fun (e : Wb) => e.returned || g.memq.any fun a => decide (a.id = e.id) && st.savable gid g a
  let conv := (match g.await with
    | .vdef _ _ => false
    | _ => true) && !(st.convs.any fun v => decide (v.group = gid) && v.matched)
  g.halted && g.wbC.all (fun e => stands e) && g.wbA.all (fun e => stands e) && g.memq.all (fun a => st.savable gid g a) && conv

/-- Everything of a workgroup is done: its groups, the commands its engines have begun, every matrix entry it has posted, and what a team member has posted for its cells, but for an
entry that waits in that member's own engine (R319). -/
def State.wgQuiet (st : State) (key : Nat) : Bool :=
  (st.groupsOf key).all (fun e => st.groupQuiet e.1 e.2) && st.clusters.all fun k =>
    k.2.res.all (fun e => decide (e.wg ≠ key) && (!(e.touches.any fun c => decide (c.wg = key)) || (!e.granted && decide (k.1 = gCluster e.group)))) && (k.2.copyQ ++ k.2.fabQ).all fun e => decide (e.wg ≠ key) || !e.started

/-! Saving (R352 step 3, R175, R319). -/

/-- A split as it is saved: an instruction that a page or TWAIT holds issues again (R175, R316). -/
def saveSplit (s : Split) : Split :=
  match s.wait with
  | .paged _ _ | .twait _ => { s with wait := .ready }
  | _ => s

/-- A stream as it is saved: an access that a page or a conversion holds is withdrawn, and issues again after restore (R175, R238). -/
def saveAwait (w : AWait) : AWait :=
  match w with
  | .conv _ => .ready
  | w => w.unpage

/-- An access as it is saved: one with lines still to perform is translated and checked again after restore, when its pages may have moved. -/
def saveAccess (a : Access) : Access := { a with checked := a.checked && a.lines.all fun l => l.done || l.spilled || !l.glob }

/-- A group as it is saved. -/
def Group.toSave (g : Group) : Group :=
  { g with splits := mmap g.splits fun _ s => saveSplit s, handler := g.handler.map saveSplit, await := saveAwait g.await
           frame := g.frame.map fun f => { f with await := saveAwait f.await }, memq := g.memq.map saveAccess }

/-- A counter's place while its workgroup is saved: where no access reaches it (the model's own). -/
def offPlace (key off : Nat) (core : Bool) : Nat := 2 ^ 70 + key * 2 ^ 24 + (if core then 2 ^ 23 else 0) + off

/-- The place of a byte of a workgroup's CORE or CLUS allocation while it is saved. -/
def Workgroup.away (w : Workgroup) (key a : Nat) : Nat :=
  let c := flatCore w.core w.coreBase
  let l := flatClus (w.core / 4) w.clusBase
  if c ≤ a ∧ a < c + w.coreSize then offPlace key (a - c) true
  else if l ≤ a ∧ a < l + w.clusSize then offPlace key (a - l) false
  else a

/-- A byte of a workgroup's allocations after a move: named by its old place, or by its place while saved. -/
def Workgroup.moved (w : Workgroup) (key : Nat) (p : Spot) (a : Nat) : Nat :=
  let c := flatCore w.core w.coreBase
  let l := flatClus (w.core / 4) w.clusBase
  let oc := offPlace key 0 true
  let ol := offPlace key 0 false
  let priv := (w.slots.zip p.slots).find? fun s => decide (flatPriv (gidOf w.core s.1) 0 0 ≤ a) && decide (a < flatPriv (gidOf w.core s.1) 0 2048)
  if c ≤ a ∧ a < c + w.coreSize then flatCore p.core p.coreBase + (a - c)
  else if oc ≤ a ∧ a < oc + w.coreSize then flatCore p.core p.coreBase + (a - oc)
  else if l ≤ a ∧ a < l + w.clusSize then flatClus (p.core / 4) p.clusBase + (a - l)
  else if ol ≤ a ∧ a < ol + w.clusSize then flatClus (p.core / 4) p.clusBase + (a - ol)
  else match priv with
    | some s => flatPriv (gidOf p.core s.2) 0 (a - flatPriv (gidOf w.core s.1) 0 0)
    | none => a

/-- Gate pairs of every grid, their places renamed (R74). -/
def State.moveGates (st : State) (f : Nat → Nat) : State :=
  { st with grids := mmap st.grids fun _ g => if g.openGate then g else { g with gates := g.gates.map fun p => (f p.1, p.2) } }

/-- The name an arrived group of a saved workgroup has at the hub barrier unit (R70; the model's own). -/
def offGroup (key gi : Nat) : Nat := 2 ^ 20 + key * 16 + gi

/-- The arrivals of a grid renamed. -/
def State.moveArrivals (st : State) (gk : Nat) (f : Nat → Nat) : State := st.updGrid gk fun g => { g with gbar := g.gbar.map f }

/-- Unmatched conversions of a workgroup withdrawn, their numbers released (R238). -/
def State.withdrawConvs (st : State) (key : Nat) : State :=
  st.convs.foldl (fun s _ => match s.convs.find? fun v => decide (v.wg = key) with
    | none => s
    | some v =>
      let k := convKey v.dom v.mesh v.axis
      let s := s.endConv v ((mgetD s.workgroups v.wg { ctx := 0, grid := 0 }).view v.slot)
      { s with convNum := mset s.convNum k (mgetD s.convNum k 0 - 1)
               convs := s.convs.map fun x => if convKey x.dom x.mesh x.axis = k ∧ v.num < x.num then { x with num := x.num - 1 } else x }) st

/-- TRAP records of both streams of each group of a workgroup, for a pre-emption, a parking or a restore (R422, R425); none where a replay's log names
another count. -/
def State.switchRecs (st : State) (c : Nat) (gs : List (Nat × Group)) (cause : Nat) : Option State :=
  gs.foldl (fun o e => o.bind fun s => (s.trapRec c e.1 false e.2.icntC cause).bind fun s => s.trapRec c e.1 true e.2.icntA cause) (some st)

/-- The leader of a workgroup's saved groups: the lowest-numbered that holds a live thread (R71). -/
def leaderOf (gs : FMap Group) : Option (Nat × Group) := gs.find? fun e => e.2.live ≠ 0

/-- A save or restore handler's group (R353): what R112 gives, S0 to S4 and A1 to A5 set. -/
def handlerGroup (key gi cpc apc : Nat) (w : Workgroup) (savemem pts : Nat) : Group :=
  { newGroup key gi w.n pts { cpc := cpc, apc := apc, params := [w.serial, savemem, w.coreSize, w.clusSize, 64 * w.n] } with saver := true }

/-- A handler started in the leader's slot, with the view slots and WRC that R112 gives, the program's being kept meanwhile (R353); a workgroup without a live thread runs none. -/
def State.startHandler (st : State) (key : Nat) (save : Bool) : State :=
  match mget st.workgroups key with
  | none => st
  | some w =>
    let x := st.ctx w.ctx
    match leaderOf w.saved with
    | none => st.updWg key fun w => { w with handlerSlot := none }
    | some (gi, _) =>
      let gid := gidOf w.core (w.slots.getD gi 0)
      (st.putGroup gid (handlerGroup key gi (if save then x.savec else x.restc) (if save then x.savea else x.resta) w x.savemem (st.core w.core).pts)).updWg key fun w =>
        { w with handlerSlot := some gid, kept := some (w.kept.getD (w.views, w.wrc, w.tickp, w.tickCyc)), views := (st.gridOf w).desc.views, wrc := 0 }

/-- The microcode state of a drained workgroup saved, and its save handler started (R352 steps 3 and 4): cause 0x80 pre-emption, 0x81 parking. None where a
replay's log does not allow it yet. -/
def State.saveWg (st : State) (key cause : Nat) : Option State :=
  match mget st.workgroups key with
  | none => some st
  | some w =>
    let gs := st.groupsOf key
    match st.switchRecs w.ctx gs cause with
    | none => none
    | some st =>
      let cl := w.core / 4
      let base := flatAcc cl w.accBase 0
      let mine := fun (e : EngCmd) => decide (e.wg = key)
      let k := st.cluster cl
      let spills := st.spillways.flatMap fun q => q.2.filter fun e => decide (e.wg = key)
      let flags := k.mflags.filterMap fun f => (gs.find? fun e => decide (e.1 = f.group)).map fun e => (e.2.gi, f.flags)
      let bad := (st.poisoned.filter fun u => decide (base ≤ u) && decide (u < base + 4096 * w.accRows)).map (· - base)
      let saved := gs.foldl (fun (m : FMap Group) e => mset m e.2.gi e.2.toSave) []
      let gone := gs.map (·.1)
      let name := fun (i : Nat) => match gs.find? fun e => decide (e.1 = i) with
        | some e => offGroup key e.2.gi
        | none => i
      let st := (st.withdrawConvs key).trace (clusterDie cl) 4 (some w.ctx) ((gs.head?.map fun e => locOf e.1 0).getD 0) cause
      let st := { st with
        groups := st.groups.filter fun e => !(decide (e.1 ∈ gone))
        launches := st.launches.filter fun r => !(decide (r.group ∈ gone))
        spillways := mmap st.spillways fun _ l => l.filter fun e => decide (e.wg ≠ key)
        clusters := mset st.clusters cl { k with copyQ := k.copyQ.filter fun e => !mine e
                                                 fabQ := k.fabQ.filter fun e => !mine e
                                                 mflags := k.mflags.filter fun f => !(decide (f.group ∈ gone)) } }
      let st := (st.moveGates (w.away key)).moveArrivals (gridKey w.ctx w.grid) name
      let st := st.updWg key fun w => { w with
        state := .saving, saved := saved, savedAcc := st.read base (4096 * w.accRows), savedBad := bad, savedFlags := flags, savedSpill := spills
        savedCmds := k.copyQ.filter mine ++ k.fabQ.filter mine }
      some (st.startHandler key true)

/-- A workgroup with the view slots and the reuse clock that were saved for its program (R352 step 3, R354). -/
def Workgroup.giveBack (w : Workgroup) : Workgroup :=
  match w.kept with
  | none => w
  | some (v, c, t, y) => { w with views := v, wrc := c, tickp := t, tickCyc := y, kept := none }

/-- A saved workgroup leaves its core (R352 step 5). -/
def State.freeWg (st : State) (key : Nat) : State := st.updWg key fun w => { w.giveBack with state := .saved, handlerSlot := none }

/-- A handler has ended and its stores are performed at DEVICE scope (R353). -/
def State.handlerDone (st : State) (w : Workgroup) : Bool :=
  match w.handlerSlot with
  | none => true
  | some gid => match mget st.groups gid with
    | some g => g.saver && st.groupDone gid g
    | none => true

/-- SAVE_HANDLER_COMPLETE: the save handler of a workgroup has ended: it leaves its core (R353). -/
def execSaveHandlerComplete (ctx serial : Nat) (st : State) : Ans :=
  let key := wgKey ctx serial
  .next (match mget st.workgroups key with
    | some w =>
      if w.state = .saving ∧ st.handlerDone w then
        ({ st with groups := match w.handlerSlot with
            | some gid => merase st.groups gid
            | none => st.groups } : State).freeWg key
      else st
    | none => st)

/-- The workgroups of a context. -/
def State.wgsOf (st : State) (c : Nat) : FMap Workgroup := st.workgroups.filter fun e => decide (e.2.ctx = c)

/-- One step of a pre-emption (R352): issue stops; once everything is drained every workgroup is saved; once every handler has ended the counts are flushed
(R448) and the context is pre-empted. -/
def State.preemptGo (st : State) (c : Nat) : State :=
  match (st.ctx c).state with
  | .running => st.updCtx c fun x => { x with state := .preempting }
  | .preempting =>
    let ws := st.wgsOf c
    let here := ws.filter fun e => decide (e.2.state = .placed)
    if here ≠ [] then
      if here.all (fun e => st.wgQuiet e.1) && ws.all fun e => decide (e.2.state ≠ .restoring) then
        (here.foldl (fun o e => o.bind fun s => s.saveWg e.1 0x80) (some st)).getD st
      else st
    else if ws.all fun e => decide (e.2.state ≠ .saving) && decide (e.2.state ≠ .restoring) then
      ((st.censusFlush c).map fun s => s.updCtx c fun x => { x with state := .preempted }).getD st
    else st
  | _ => st

/-- PREEMPT: the head command stops a running context step by step (R352). -/
def execPreempt (st : State) : Ans :=
  .next (match st.ctxHead with
    | none => st
    | some c =>
      if c.op ≠ 3 then st
      else match mget st.ctxs c.id with
        | none => st.ctxDone c c.id 14
        | some x =>
          if c.phase = 0 then
            if x.state = .running then { st.preemptGo c.id with ctxQ := { c with phase := 1 } :: st.ctxQ.tail } else st.ctxDone c c.id 14
          else match x.state with
            | .preempting => st.preemptGo c.id
            | .preempted => st.ctxDone c c.id 0
            | _ => st.ctxDone c c.id 14)

/-! Restore (R354). -/

/-- A saved workgroup's state as a new place has it: places renamed in its waits, accesses, buffer and commands. -/
def Workgroup.relocate (w : Workgroup) (key : Nat) (p : Spot) : Workgroup :=
  let f := w.moved key p
  let sp := fun (s : Split) => match s.wait with
    | .waitc a u t => { s with wait := .waitc (f a) u t }
    | _ => s
  let aw := fun (a : AWait) => match a with
    | .counter a u t => .counter (f a) u t
    | _ => a
  let ln := fun (l : LineReq) => if l.glob then l else { l with va := f l.va, pa := f l.pa }
  let gr := fun (g : Group) => { g with
    splits := mmap g.splits fun _ s => sp s, handler := g.handler.map sp, await := aw g.await
    frame := g.frame.map fun x => { x with await := aw x.await }
    memq := g.memq.map fun a => { a with lines := a.lines.map ln } }
  let gid := fun (i : Nat) => match (w.slots.zip p.slots).find? fun s => decide (gidOf w.core s.1 = i) with
    | some s => gidOf p.core s.2
    | none => i
  { w with
    saved := mmap w.saved fun _ g => gr g
    abuf := w.abuf.map fun e => if e.early then { e with addr := f e.addr } else e
    savedCmds := w.savedCmds.map fun e => { e with group := gid e.group, paged := none, counter := e.counter.map f, ctr := if e.kind = .xfer ∨ e.kind = .xmc then e.ctr else f e.ctr }
    savedSpill := w.savedSpill.map fun e => { e with group := gid e.group }
    core := p.core, slots := p.slots, coreBase := p.coreBase, clusBase := p.clusBase, accBase := p.accBase, tableBase := p.coreBase - 4096 }

/-- A saved workgroup placed again (R354): its rows written back (R319), its other allocations undefined until the restore handler reloads them; a gate on one of its counters is
tested on what stands there meanwhile (DESIGN CHOICE: log entry 98). None where a replay's log does not allow it yet. -/
def State.restoreWg (st : State) (key : Nat) (p : Spot) : Option State :=
  match mget st.workgroups key with
  | none => some st
  | some w =>
    let cl := p.core / 4
    let gs := w.saved.map fun e => (gidOf p.core (p.slots.getD e.1 0), e.2)
    let old := fun (i : Nat) => match (w.slots.zip p.slots).find? fun s => decide (gidOf w.core s.1 = i) with
      | some s => gidOf p.core s.2
      | none => i
    match (st.sched w.ctx cl 8 (p.core % 4) 0 (some w.serial)).bind fun s => s.switchRecs w.ctx gs 0x82 with
    | none => none
    | some st =>
      let st := (st.scramble (flatCore p.core p.coreBase) w.coreSize).scramble (flatClus cl p.clusBase) w.clusSize
      let st := p.slots.foldl (fun s i => s.scramble (flatPriv (gidOf p.core i) 0 0) 2048) st
      let base := flatAcc cl p.accBase 0
      let st := st.writeAll base (4096 * w.accRows) w.savedAcc
      let st := w.savedBad.foldl (fun s u => s.poison (base + u)) st
      let st := { (st.moveGates (w.moved key p)) with unacked := mmap st.unacked fun _ l => l.map fun (u : Unacked) => if u.wg = key then { u with group := old u.group } else u }
      let st := (st.updWg key fun w => { w.relocate key p with state := .restoring }).updCore p.core fun k => { k with icode := [] }
      let st := st.trace (clusterDie cl) 4 (some w.ctx) ((gs.head?.map fun (e : Nat × Group) => locOf e.1 0).getD 0) 0x82
      some (st.startHandler key false)

/-- The child grids of a group's workgroup that have not completed (R72). -/
def State.childrenOf (st : State) (gid : Nat) : List Nat :=
  match mget st.groups gid with
  | some g => (st.wgOf g).children
  | none => []

/-- A restored WAITM compares and registers again at the place its page now has (R104, R354); a page that misses holds it, and one it may not read, or a lost place, ends it in its
trap (R417). None where the line, the place or the log has it wait. -/
def State.rewaitm (st : State) (c gid slot va v : Nat) : Option State :=
  let put := fun (st : State) (w : SWait) => st.updGroup gid fun g => g.updSplit slot fun s => { s with wait := w }
  match st.accessNow c (.stream gid false) va .r 0 false with
  | .wait => none
  | .ok leaf pa st => (st.syncLine gid c leaf pa (1 + pa % 128 / 64) true).map fun st => put st (if st.read pa 8 = v then .waitm va pa v else .freed 4)
  | .fault page t st =>
    let r := st.pageFault c (.stream gid false) page t.detail (((mget st.groups gid).map fun g => (st.wgOf g).serial).getD 0) t.addr
    some (if r.declined then r.st.declinedTrap gid false slot t else put r.st (.paged page t))
  | .prot t st => some (st.standingTrap gid { trap := t, kind := if t.cause = .dieLost then .waiter else .precise, slot := slot })

/-- The WAITMs of a restored group evaluated again. -/
def State.rewaitms (st : State) (c gid : Nat) : Option State :=
  match mget st.groups gid with
  | none => some st
  | some g => (g.splits ++ g.handler.toList.map fun s => (5, s)).foldl (fun (o : Option State) (p : Nat × Split) => o.bind fun s => match p.2.wait with
      | .waitm va _ v => s.rewaitm c gid p.1 va v
      | _ => some s) (some st)

/-- A restored split's wait on a counter or on grids evaluated again (R354). -/
def State.rewait (st : State) (gid : Nat) (s : Split) : Split :=
  match s.wait with
  | .waitc a u t => if st.reached a u t then { s with wait := .freed 3 } else s
  | .joinAll => if st.childrenOf gid = [] then { s with wait := .freed 5 } else s
  | .joinOne id => if id ∈ st.childrenOf gid then s else { s with wait := .freed 5 }
  | _ => s

/-- A restored stream's wait evaluated again. -/
def State.reawait (st : State) (w : AWait) : AWait :=
  match w with
  | .counter a u t => if st.reached a u t then .freed else w
  | _ => w

/-- The last steps of a restore (R203, R223, R175, R354): logical time, held additions, the spillway, queued commands, waits, the grid's barrier; then the
workgroup issues. None where a WAITM's line has it wait. The restored entries stand in the quad's spillway ahead of new ones, past its 64 if need be: R175 has them placed there, and new entries then
wait for room (DESIGN CHOICE: log entry 85). -/
def State.finishRestore (st : State) (key : Nat) : Option State :=
  match mget st.workgroups key with
  | none => some st
  | some w =>
    let cl := w.core / 4
    let m := (st.die (clusterDie cl)).maxT
    let st := st.raisePts w.core m
    let gid := fun (gi : Nat) => gidOf w.core (w.slots.getD gi 0)
    let st := w.saved.foldl (fun s e => s.putGroup (gid e.1) { e.2 with amark := m }) st
    let st := st.updWg key fun w =>
      { w.giveBack with state := .placed, parked := false, handlerSlot := none, saved := [], savedAcc := 0, savedBad := [], savedFlags := []
                        savedSpill := [], savedCmds := [], heldAdds := [] }
    let name := fun (i : Nat) => match w.saved.find? fun e => decide (offGroup key e.1 = i) with
      | some e => gid e.1
      | none => i
    let st := st.moveArrivals (gridKey w.ctx w.grid) name
    let st := st.updCluster cl fun k => { k with
      copyQ := k.copyQ ++ w.savedCmds.filter fun e => decide (e.kind = .cpy) || decide (e.kind = .hand)
      fabQ := k.fabQ ++ w.savedCmds.filter fun e => decide (e.kind = .xfer) || decide (e.kind = .xmc)
      mflags := k.mflags ++ w.savedFlags.map fun f => { group := gid f.1, flags := f.2 } }
    let qs := (w.savedSpill.map fun e => quadOf e.group).eraseDups
    let st := qs.foldl (fun (s : State) q => { s with spillways := mset s.spillways q ((w.savedSpill.filter fun e => decide (quadOf e.group = q)) ++ s.spillway q) }) st
    let st := w.heldAdds.foldl (fun s a => match mget s.workgroups key with
      | some x => s.remoteAdd key x a.1 (bits a.1 55 39 * 16) a.2
      | none => s) st
    let st := st.updWg key fun w => { w with arrivals := st.heldArrivals key }
    let st := (w.saved.map fun e => gid e.1).foldl (fun s i =>
      s.updGroup i fun g => { g with splits := mmap g.splits fun _ x => s.rewait i x, handler := g.handler.map (s.rewait i)
                                     await := s.reawait g.await, frame := g.frame.map fun f => { f with await := s.reawait f.await } }) st
    let st := ((w.saved.map fun e => quadOf (gid e.1)).eraseDups).foldl State.refill st
    ((w.saved.map fun e => gid e.1).foldl (fun (o : Option State) i => o.bind fun s => s.rewaitms w.ctx i) (some st)).map fun s =>
      s.gbarCheck (gridKey w.ctx w.grid)

/-- RESTORE_HANDLER_COMPLETE: the restore handler of a workgroup has ended: the core raises pts and the workgroup issues again (R354, R203). -/
def execRestoreHandlerComplete (ctx serial : Nat) (st : State) : Ans :=
  let key := wgKey ctx serial
  .next (match mget st.workgroups key with
    | some w =>
      if w.state = .restoring ∧ st.handlerDone w then
        ((({ st with groups := match w.handlerSlot with
            | some gid => merase st.groups gid
            | none => st.groups } : State).finishRestore key).map fun s => s.retireWg 12 key).getD st
      else st
    | none => st)

/-- The dies a workgroup may be restored on: its grid's class, and the die of the members of its teams that stand (R354, R302). -/
def State.restoreDies (st : State) (w : Workgroup) (key : Nat) : List Nat :=
  let cls := (st.gridOf w).desc.flags / 8 % 4
  let el := st.eligible (st.ctx w.ctx).dev cls
  let gs := (w.saved.map (·.2)) ++ (st.groups.map (·.2)) ++ st.workgroups.flatMap fun e => e.2.saved.map (·.2)
  let teams := gs.flatMap fun g => g.tiles.filterMap fun t => if key ∈ t.2.members then some t.2.members else none
  let dies := (teams.flatten.filterMap fun m => match mget st.workgroups m with
    | some x => if m ≠ key ∧ x.holds then some (clusterDie (x.core / 4)) else none
    | none => none)
  match dies.head? with
  | some d => el.filter fun e => decide (e = d)
  | none => el

/-- The free cores for a saved workgroup, the lowest core of the lowest cluster of the lowest die first (R17, R354; log entry 11). -/
def State.restoreSpots (st : State) (w : Workgroup) (key : Nat) : List Spot :=
  let d : Desc := { n := w.n, core := w.coreSize, clus := w.clusSize, acc := w.accRows }
  (st.restoreDies w key).flatMap fun die => (List.range (4 * clustersOf die)).filterMap fun i => st.findSpot (4 * firstCluster die + i) d

/-- One saved workgroup restored where a core fits, or on replay where the log names one (R425). -/
def State.restoreOne (st : State) (key : Nat) : Option State :=
  match mget st.workgroups key with
  | none => none
  | some w => firstSome (fun p => st.restoreWg key p) (st.restoreSpots w key)

/-- The workgroups that must be restored together with one (R354): those of a COOP grid. -/
def State.restoreSet (st : State) (key : Nat) : List Nat :=
  match mget st.workgroups key with
  | none => []
  | some w =>
    if (st.gridOf w).desc.flags % 2 = 1 then
      (st.workgroups.filter fun e => decide (e.2.ctx = w.ctx) && decide (e.2.grid = w.grid) && decide (e.2.state = .saved) && !e.2.parked).map (·.1)
    else [key]

/-- RESUME's placements, as far as cores allow now (R354): each saved workgroup that is not parked, in ascending serial. -/
def State.resumeGo (st : State) (c : Nat) : State :=
  let todo := (st.wgsOf c).filter fun e => decide (e.2.state = .saved) && !e.2.parked
  let st := todo.foldl (fun s e => if ((mget s.workgroups e.1).map (·.state)) = some .saved then
      (((s.restoreSet e.1).foldl (fun o k => o.bind fun s => s.restoreOne k) (some s)).getD s) else s) st
  if (st.wgsOf c).all fun e => decide (e.2.state = .placed) || decide (e.2.state = .lost) || e.2.parked then
    st.updCtx c fun x => if x.state = .resuming then { x with state := .running } else x
  else st

/-- A pre-empted context begins to resume (R354): held filter entries take effect at this restore (R445). -/
def State.resumeStart (st : State) (c : Nat) : State :=
  st.updCtx c fun x => { x with
    state := .resuming, stands := none, watchHeld := []
    watch := x.watchHeld.foldl (fun (m : FMap WatchEntry) h =>
      let e := mgetD m (h.1 / 4) {}
      let v := h.2.1
      mset m (h.1 / 4) (if h.1 % 4 = 0 then { e with lo := v % 2 ^ 52 } else if h.1 % 4 = 1 then { e with hi := v % 2 ^ 52 }
        else { e with mask := bits v 15 8, kind := v % 4 })) x.watch }

/-- RESUME: the head command switches a pre-empted context back in (R354). -/
def execResume (st : State) : Ans :=
  .next (match st.ctxHead with
    | none => st
    | some c =>
      if c.op ≠ 4 then st
      else match mget st.ctxs c.id with
        | none => st.ctxDone c c.id 14
        | some x =>
          if c.phase = 0 then
            if st.ckBusy c.id then st
            else if x.state = .preempted ∧ x.replay.isNone then
              { (st.resumeStart c.id).resumeGo c.id with ctxQ := { c with phase := 1 } :: st.ctxQ.tail }
            else st.ctxDone c c.id 14
          else match x.state with
            | .resuming => st.resumeGo c.id
            | .running => st.ctxDone c c.id 0
            | _ => st.ctxDone c c.id 14)

/-! Parking (R73). -/

/-- Every live group of a workgroup waits in JOINC (R73). -/
def State.allJoined (st : State) (key : Nat) : Bool :=
  let gs := (st.groupsOf key).filter fun e => e.2.live ≠ 0
  let joins := fun (s : Split) => match s.wait with
    | .joinAll | .joinOne _ => true
    | _ => false
  gs ≠ [] && gs.all fun e => !e.2.tlevel && e.2.pending = [] && e.2.splits.all fun s => joins s.2

/-- WORKGROUP_PARK: a workgroup that waits in JOINC is saved and leaves its core, once a child grid's workgroups have waited 65,536 cycles (R73). -/
def execWorkgroupPark (ctx serial : Nat) (st : State) : Ans :=
  let key := wgKey ctx serial
  .next (match mget st.workgroups key with
    | none => st
    | some w =>
      let waits := st.grids.any fun e => decide (e.2.ctx = ctx) && decide (0 < e.2.depth) && e.2.expired && decide (e.2.ranges ≠ [])
      if w.state = .placed ∧ !w.parked ∧ (st.ctx ctx).state = .running ∧ waits ∧ st.allJoined key ∧ st.wgQuiet key then
        match (st.sched ctx (w.core / 4) 7 (w.core % 4) 0 (some w.serial)).bind fun s => s.saveWg key 0x81 with
        | some st => st.updWg key fun w => { w with parked := true }
        | none => st
      else st)

/-- WORKGROUP_UNPARK: a parked workgroup whose child grids have completed is restored to a free core (R73). -/
def execWorkgroupUnpark (ctx serial : Nat) (st : State) : Ans :=
  let key := wgKey ctx serial
  .next (match mget st.workgroups key with
    | none => st
    | some w =>
      if w.state = .saved ∧ w.parked ∧ w.children = [] ∧ (st.ctx ctx).state = .running then (st.restoreOne key).getD st else st)

/-! DESTROY (R350). -/

/-- Nothing a context has begun is still under way (R350). -/
def State.ctxIdle (st : State) (c : Nat) : Bool :=
  (st.clusters.all fun k => (k.2.copyQ ++ k.2.fabQ).all (fun e => decide (e.ctx ≠ c)) && k.2.res.all fun e => decide (e.ctx ≠ c) || !e.granted)
    && (st.convs.all fun v => decide (v.ctx ≠ c))
    && (st.weirs.all fun e => match e.2.run with
      | some r => (mget e.2.slots r.slot).all fun s => decide (s.domain ≠ (st.ctx c).domain)
      | none => true)
    && (st.ctxGroups c).all fun e => e.2.memq.all fun a => !a.resolved || !a.checked || a.lines.all fun l => l.done || l.spilled

/-- What a context has queued and not begun discarded (R350, R412). -/
def State.discardQueued (st : State) (c : Nat) : State :=
  { st with
    clusters := mmap st.clusters fun _ k => { k with copyQ := k.copyQ.filter fun e => e.started || decide (e.ctx ≠ c)
                                                     fabQ := k.fabQ.filter fun e => e.started || decide (e.ctx ≠ c) }
    convs := st.convs.filter fun v => decide (v.ctx ≠ c) || v.matched
    spillways := mmap st.spillways fun _ l => l.filter fun e => decide (e.ctx ≠ c)
    workgroups := mmap st.workgroups fun _ w => if w.ctx = c then { w with heldAdds := [], savedSpill := [], savedCmds := [] } else w }

/-- The packets of a domain that have no context any more, held for a page or partly performed, are dropped and counted (R216, R350). -/
def State.dropHeld (st : State) (dom : Nat) : State :=
  let mine := fun (p : Packet) => decide (pDom p.hdr = dom)
  let st := (st.landing.filter mine).foldl (fun s p => s.dropped.delivered p.hdr false) { st with landing := st.landing.filter fun p => !mine p }
  ((st.triples.filter fun e => e.2.held.any mine).foldl (fun s e => s.retryHeld e.1) st).retryRedirs

/-- Every trace of a context taken away: lines, its takes closed, translations (R336), Weir slots (R374), groups, workgroups, grids and its record, and the packets held for it. -/
def State.eraseCtx (st : State) (c : Nat) : State :=
  let gids := (st.ctxGroups c).map (·.1)
  let dom := (st.ctx c).domain
  let lines := st.dies.flatMap fun d => (d.2.l2.filter fun l => decide (l.2.tenant = c)).map fun l => (d.1, l.1)
  let st := lines.foldl (fun s p => (s.giveUp p.1 p.2).updDir p.2 fun e => { e with dies := e.dies &&& ~~~(dieBit p.1), excl := false }) st
  let st := st.closeTakes c 4
  let st := { st with
    tlb := st.tlb.filter fun e => decide (e.ctx ≠ c)
    cores := mmap st.cores fun _ k => { k with l1 := k.l1.filter (fun e => decide (e.2.tenant ≠ c)), icode := k.icode.filter fun e => decide (e.1 / 2 ^ 52 ≠ c)
                                               elder := merase k.elder c
                                               census := k.census.filter fun e => decide (e.1 / 512 ≠ c) }
    clusters := mmap st.clusters fun _ k => { k with res := k.res.filter (fun e => decide (e.ctx ≠ c)), mflags := k.mflags.filter fun f => !(decide (f.group ∈ gids)) }
    groups := st.groups.filter fun e => !(decide (e.1 ∈ gids))
    launches := st.launches.filter fun r => decide (r.ctx ≠ c)
    moveQ := st.moveQ.filter fun m => decide (m.ctx ≠ c)
    weirs := mmap st.weirs fun _ w => { w with slots := w.slots.filter fun s => decide (s.2.domain ≠ (st.ctx c).domain) }
    workgroups := st.workgroups.filter fun e => decide (e.2.ctx ≠ c)
    grids := st.grids.filter fun e => decide (e.2.ctx ≠ c)
    ctxs := merase st.ctxs c }
  match dom with
  | some d => st.dropHeld d
  | none => st

/-- DESTROY: the context's issue stops, its queued work goes, and once what it began is done every part of it is freed (R350). -/
def execDestroy (st : State) : Ans :=
  .next (match st.ctxHead with
    | none => st
    | some c =>
      if c.op ≠ 2 then st
      else match mget st.ctxs c.id with
        | none => st.ctxDone c c.id 14
        | some x =>
          match x.state with
          | .preempting | .resuming => st
          | .preempted => if st.ckBusy c.id then st else (st.discardQueued c.id).updCtx c.id fun x => { x with state := .destroying }
          | .destroying => if st.ctxIdle c.id then (st.eraseCtx c.id).ctxDone c c.id 0 else st
          | _ => (st.discardQueued c.id).updCtx c.id fun x => { x with state := .destroying })

/-- OSCOUNT: the context's overstatement count on a die set (R351, R138); a faulted context takes DESTROY alone (R412). -/
def execOscount (st : State) : Ans :=
  .next (match st.ctxHead with
    | none => st
    | some c =>
      if c.op ≠ 5 then st
      else
        let die := bits c.word.toNat 53 50
        if (mget st.ctxs c.id).all (fun x => decide (x.state = .faulted)) || decide (die = 0) || decide (8 < die) then st.ctxDone c c.id 14
        else (st.setOverstated die c.id (bits c.word.toNat 49 34)).ctxDone c c.id 0)

end Sys2Proof.Machine
end

