-- ==== Sys2Proof/Machine/Capture.lean ====
section
/-! DEFINITION. The capture image (R442): the sections of the units of the package, each a head and its contents in the order R442 gives. Each field of a
section takes whole 64-bit words, the lowest bits first (UNVERIFIED: R442 gives the order and no widths; log entry 22). -/

namespace Sys2Proof.Machine

/-! A take's bytes (R420). -/

/-- A header's first 28 bytes. -/
def takeHead (rid len tidx cycle ltime flags epoch ctx die nrec : Nat) : Nat :=
  rid % 2 ^ 16 + len % 2 ^ 16 * 2 ^ 16 + tidx % 2 ^ 32 * 2 ^ 32 + cycle % 2 ^ 64 * 2 ^ 64 + ltime % 2 ^ 24 * 2 ^ 128 + flags % 256 * 2 ^ 152
    + epoch % 2 ^ 32 * 2 ^ 160 + ctx % 256 * 2 ^ 192 + die % 256 * 2 ^ 200 + nrec % 2 ^ 16 * 2 ^ 208

/-- A header with the CRC of its 28 bytes and the body (R420, R392). -/
def sealTake (head body n : Nat) : Nat := head + crc32c (bytesLe 28 head ++ bytesLe n body) * 2 ^ 224 + body * 2 ^ 256

/-- Words as one number, the first lowest. -/
def wordsNat (ws : List Nat) : Nat := ws.foldr (fun w n => w % 2 ^ 64 + 2 ^ 64 * n) 0

/-- A take as it is stored. -/
def Take.bytes (t : Take) : Nat :=
  sealTake (takeHead t.rid t.len t.tidx t.cycle t.ltime t.flags t.epoch t.ctx t.die t.recs.length) (wordsNat t.words) (8 * t.words.length)

/-! Fields as words. -/

/-- A section: its TYPE, its unit's location word, and its contents as 64-bit words. -/
structure Section where
  typ : Nat
  loc : Nat
  words : List Nat
  deriving DecidableEq, Repr

/-- A value as n words. -/
def wordsOf (n v : Nat) : List Nat := (List.range n).map fun i => v / 2 ^ (64 * i) % 2 ^ 64

/-- A Boolean as a word. -/
def flagWord (b : Bool) : Nat := if b then 1 else 0

/-- A map's values at the first n keys, as words. -/
def mapWords {α : Type} (m : FMap α) (n : Nat) (d : α) (f : α → List Nat) : List Nat := (List.range n).flatMap fun i => f (mgetD m i d)

/-- An integer as a word, in two's complement. -/
def intWord (i : Int) : Nat := (i % 2 ^ 64).toNat

/-- A number that may be absent: 0, or one more than it. -/
def optWord (o : Option Nat) : Nat := (o.map (· + 1)).getD 0

/-- A list as a count and its entries. -/
def listWords {α : Type} (l : List α) (f : α → List Nat) : List Nat := l.length :: l.flatMap f

/-- A queue's entries, in n places: 32 words of data, the byte enables, whether it is filled, and the threads whose words are poisoned. -/
def queueWords (q : List QEntry) (n : Nat) : List Nat := (List.range n).flatMap fun i =>
  let e := q.getD i { ready := false }
  wordsOf 32 e.data.toNat ++ wordsOf 4 e.en.toNat ++ [flagWord e.ready, e.poison.toNat]

/-- A guard (R16): 0 unresolved, 2 false, 3 true. -/
def guardWord (g : Guard) : Nat :=
  match g.res with
  | [] => 0
  | b :: _ => if b then 3 else 2

/-- The place a write-back entry names: its kind and register. -/
def WbDest.word (d : WbDest) : Nat :=
  match d with
  | .v r => 0x100 + r
  | .s r => 0x200 + r
  | .a r => 0x300 + r
  | .sq => 0x400
  | .xq => 0x500
  | .none => 0

/-- Write-back entries, in 8 places. -/
def wbWords (q : List Wb) : List Nat :=
  (List.range 8).flatMap fun i => match q[i]? with
    | some e => [e.dest.word, flagWord e.returned, e.mask.toNat, flagWord e.poison] ++ wordsOf 32 e.bits.toNat ++ wordsOf 4 e.en.toNat ++ wordsOf 32 e.data.toNat
    | none => List.replicate 72 0

/-- A split's PC and mask, in n places. -/
def splitWords (q : List (Word × Mask)) (n : Nat) : List Nat := (List.range n).flatMap fun i => match q[i]? with
  | some e => [e.1.toNat, e.2.toNat]
  | none => [0, 0]

/-- TYPE 1 (R442): the state of R16 held per group and per thread, threads ascending, the write-back entries, the trap registers, the watchdog and ICNT. -/
def Group.capture (gid : Nat) (g : Group) : Section :=
  let group := mapWords g.s 16 0 (fun w => [w.toNat]) ++ [g.mode.toNat, g.stat.toNat] ++ mapWords g.guards 8 {} (fun x => [guardWord x])
    ++ mapWords g.tiles 8 ⟨0, []⟩ (fun t => [t.word]) ++ (List.range 4).flatMap (fun i => queueWords (mgetD g.lq i []) 2) ++ queueWords g.sq 2 ++ queueWords g.xq 4
    ++ mapWords g.a 32 0 (fun w => [w.toNat]) ++ mapWords g.d 8 0 (fun w => [w.toNat]) ++ [g.apc.toNat]
    ++ splitWords (g.splits.map fun s => (s.2.pc, s.2.mask)) 4 ++ splitWords g.pending 8
  let threads := (List.range 32).flatMap fun t =>
    mapWords g.v 32 0 (fun r => [r.toNat / 2 ^ (64 * t) % 2 ^ 64]) ++ mapWords g.p 8 0 (fun r => [r.toNat / 2 ^ (8 * t) % 256])
  { typ := 1, loc := locOf gid 0
    words := group ++ threads ++ wbWords g.wbC ++ wbWords g.wbA
      ++ [flagWord g.tlevel, g.tcause, g.tpc, g.tinfo, g.taddr, g.watchdog, g.icntC, g.icntA] }

/-- TYPE 2 (R442): view slots, WRC, TICKP, barrier state and serial, at its first group's place. -/
def Workgroup.capture (w : Workgroup) : Section :=
  { typ := 2, loc := locOf (gidOf w.core (w.slots.headD 0)) 0
    words := mapWords w.views 32 0 (fun d => wordsOf 16 d.toNat) ++ [w.wrc, w.tickp]
      ++ [(w.barMask.getD 0).toNat, w.barArrived.toNat, flagWord w.barBroken, w.serial] }

/-- TYPE 3 (R442): pts, elder flags, L1 lines with their times, RANK and U, and the core scratchpad. -/
def State.coreSection (st : State) (core : Nat) : Section :=
  let k := mgetD st.cores core {}
  { typ := 3, loc := locOf (gidOf core 0) 0
    words := [k.pts] ++ (List.range 64).map (fun c => optWord (mget k.elder c))
      ++ (k.l1.flatMap fun l => [l.1, l.2.wts, l.2.rts, l.2.rank] ++ wordsOf 2 (mgetD st.uBytes l.1 0) ++ wordsOf 16 l.2.data.toNat)
      ++ (List.range 65536).map fun i => st.read (flatCore core (8 * i)) 8 }

/-- A matrix entry's kind (R312 to R315). -/
def MKind.word (k : MKind) : Nat :=
  match k with
  | .mul => 1
  | .zero => 2
  | .zeroAll => 3
  | .trd c => 4 + flagWord c
  | .twr c => 6 + flagWord c
  | .move a => 8 + flagWord a

/-- An accumulator cell. -/
def CellRef.words (c : CellRef) : List Nat := [c.wg, c.row, c.col]

/-- A CLUS view as an entry keeps it. -/
def TileRef.words (t : TileRef) : List Nat := wordsOf 16 t.desc.toNat ++ [intWord t.o0, intWord t.o1, t.base]

/-- A reservation table entry: its slot, who posted it, its kind, tiles, threads, windows, operands with their formats and scales, data, grant and snapshots. -/
def ResEntry.words (e : ResEntry) : List Nat :=
  [e.id, e.slot, e.group, e.wg, e.ctx, e.kind.word, e.tile, optWord e.stile, e.mask.toNat, flagWord e.f32] ++ e.win.words ++ e.swin.words ++ [e.rows, e.cols]
    ++ listWords e.cells (fun c => match c with
      | some c => 1 :: c.words
      | none => [0])
    ++ listWords e.a (fun r => wordsOf 32 r.toNat) ++ listWords e.b (fun r => wordsOf 32 r.toNat) ++ (e.btile.map fun t => 1 :: t.words).getD [0]
    ++ [e.af, e.bf, e.shape, e.bl, e.aks, e.bks] ++ e.scA.words ++ e.scB.words ++ wordsOf 32 e.data.toNat ++ [optWord e.wb, e.prio, flagWord e.trap, e.posted, flagWord e.granted, e.turn]
    ++ listWords e.snap fun s => s.1 :: wordsOf 16 s.2.1.toNat ++ wordsOf 2 s.2.2.toNat

/-- An engine command's kind. -/
def EKind.word (k : EKind) : Nat :=
  match k with
  | .cpy => 1
  | .hand => 2
  | .xfer => 3
  | .xmc => 4

/-- An engine command: who issued it, its kind, descriptors, origins and counts, its counter and guard, its destinations and packet fields, how far it has come, and the
lines it has read. -/
def EngCmd.words (e : EngCmd) : List Nat :=
  [e.id, e.kind.word, e.group, e.wg, e.ctx] ++ wordsOf 16 e.src.toNat ++ wordsOf 16 e.dst.toNat ++ listWords e.so (fun i => [intWord i]) ++ listWords e.dor (fun i => [intWord i])
    ++ listWords e.counts (fun n => [n]) ++ [optWord e.counter, e.ctr, optWord e.guard, flagWord e.resolved, e.owed, e.added, flagWord e.started, flagWord e.finished]
    ++ listWords e.dests (fun d => [d]) ++ [e.chan, e.step, e.user, e.sent, flagWord e.trap, optWord (e.paged.map (·.1))]
    ++ listWords e.snap fun s => s.1 :: wordsOf 16 s.2.1.toNat ++ wordsOf 2 s.2.2.toNat

/-- The kind of an access. -/
def AKind.word (k : AKind) : Nat :=
  match k with
  | .load => 1
  | .gather => 2
  | .lda s => 3 + flagWord s
  | .store => 5
  | .scatter => 6
  | .sta => 7
  | .pref => 8
  | .atom => 9
  | .atoma => 10
  | .vdef => 11

/-- An access line in a spillway (R160): the issuing group, the view slot, the coordinates, the line address, the 128 data bytes with their mask (for an atomic its
elements' operands), the operation with its order, scope and atomic op, and the distance and class. -/
def Spill.words (e : Spill) : List Nat :=
  let b := storeBytes e.access.esize e.line.elems
  [e.ctx, e.group, e.wg, e.access.slot] ++ listWords e.access.coord (fun i => [intWord i]) ++ [e.line.va] ++ wordsOf 16 b.2 ++ wordsOf 2 b.1
    ++ listWords e.line.elems (fun x => [x.off, x.pos, x.val, x.val2, x.skip, flagWord x.on])
    ++ [e.access.kind.word, e.access.order, e.access.scope, e.access.op, optWord e.access.dist, e.line.cls]

/-- A conversion as the placement unit holds it (R238): its number, where it comes from, the axis group, the layouts, and how far it has come. -/
def Conv.words (v : Conv) : List Nat :=
  [v.num, v.dom, v.ctx, v.group, v.wg, v.slot, v.mesh, v.axis, v.toByte, v.rtype, v.step] ++ listWords v.devs (fun d => [d]) ++ [v.me] ++ wordsOf 16 v.view.toNat
    ++ [flagWord v.matched] ++ listWords v.snap (fun s => [s.1, s.2]) ++ (v.result.map fun r => 1 :: listWords r fun x => [x]).getD [0] ++ listWords v.wrote fun a => [a]

/-- An open take: the header that it would have if it were closed now, and its records (R420). -/
def Take.open (t : Take) : List Nat := wordsOf 4 (t.bytes % 2 ^ 256) ++ t.words

/-- TYPE 4 (R442): the CLUS scratchpad, the reservation table, the accumulator memory, the engine queues, the spillways and the open takes. -/
def State.clusterSection (st : State) (cl : Nat) : Section :=
  let k := st.cluster cl
  { typ := 4, loc := locOf (gidOf (4 * cl) 0) 0
    words := (List.range (2 ^ 18)).map (fun i => st.read (flatClus cl (8 * i)) 8) ++ k.res.flatMap ResEntry.words
      ++ (List.range (accRowsOf (clusterDie cl) * 512)).map (fun i => st.read (flatAcc cl 0 0 + 8 * i) 8) ++ (k.copyQ ++ k.fabQ).flatMap EngCmd.words
      ++ (List.range 16).flatMap (fun q => (st.spillway (16 * cl + q)).flatMap Spill.words)
      ++ st.ctxs.flatMap fun x => match mget x.2.takes cl with
          | some t => t.open
          | none => [] }

/-- TYPE 5 (R442): L2 lines with their times and ranks, the DIE scratchpad, MAXT and FLOOR. -/
def State.dieSection (st : State) (die : Nat) : Section :=
  let d := st.die die
  { typ := 5, loc := die * 2 ^ 28
    words := (d.l2.flatMap fun l => [l.1, l.2.wts, l.2.rts, l.2.rank] ++ (List.range 16).map fun i => st.read (l.1 + 8 * i) 8)
      ++ (List.range (dieSpace die / 8)).map (fun i => st.read (flatDie die (8 * i)) 8) ++ [d.maxT, d.floor] }

/-- TYPE 6 (R442): L3 lines, directory entries, the sequencer, the placement unit and the dead-peer bitmap. -/
def State.hubSection (st : State) : Section :=
  { typ := 6, loc := 0
    words := (st.l3.flatMap fun l => [l.1, flagWord l.2] ++ (List.range 16).map fun i => st.read (l.1 + 8 * i) 8)
      ++ (st.dir.flatMap fun e => [e.1, e.2.dies.toNat, flagWord e.2.excl, e.2.half0, e.2.half1, flagWord e.2.pt, e.2.trs.toNat]) ++ [st.ticket]
      ++ listWords st.convs Conv.words ++ listWords st.convNum (fun e => [e.1, e.2])
      ++ wordsOf 64 st.dead.toNat }

/-- TYPE 7 (R442): a Weir's program memory, flow state and slot descriptors. -/
def State.weirSection (st : State) (port : Nat) : Section :=
  let w := mgetD st.weirs port {}
  { typ := 7, loc := 0
    words := (w.slots.flatMap fun s => s.2.code.map BitVec.toNat) ++ (w.slots.flatMap fun s => (List.range (s.2.flowsz / 8)).map fun i => st.read (flatFlow port s.2.base + 8 * i) 8)
      ++ w.slots.flatMap fun s => [s.1, s.2.domain, flagWord s.2.egress, flagWord s.2.drops, s.2.lklog2, s.2.lkbase, s.2.flowsz, s.2.base, flagWord s.2.halted] }

/-- Every section, in ascending location word, and of one location word by TYPE (R442). -/
def State.sections (st : State) : List Section :=
  let clusters := List.range 672
  let all := st.hubSection :: (List.range 36).map st.weirSection
    ++ st.groups.map (fun g => g.2.capture g.1) ++ st.workgroups.map (fun w => w.2.capture)
    ++ (clusters.flatMap fun cl => (List.range 4).map fun i => st.coreSection (4 * cl + i)) ++ clusters.map st.clusterSection ++ (List.range 8).map (fun d => st.dieSection (d + 1))
  all.mergeSort fun a b => decide (a.loc * 8 + a.typ ≤ b.loc * 8 + b.typ)

/-- A section with its 16-byte head: TYPE, 0, the location word and LEN, the bytes of its contents. -/
def Section.image (s : Section) : List Nat := [s.typ + s.loc * 2 ^ 32, 8 * s.words.length] ++ s.words

/-- The 256-byte header of the capture image, as the port's window shows it (R442). -/
def State.captureHead (st : State) (repstat : Nat) : Nat :=
  0x4943574B + 1 * 2 ^ 32 + st.devno * 2 ^ 64 + repstat * 2 ^ 128 + st.tai % 2 ^ 64 * 2 ^ 192 + st.hubcyc % 2 ^ 64 * 2 ^ 256
    + (List.range 8).foldl (fun n i => n + ((st.die (i + 1)).maxT + (st.die (i + 1)).floor * 2 ^ 32) * 2 ^ (320 + 64 * i)) 0

/-- A 64-bit word of the capture image (R442): the header, then the sections, then zeros. -/
def State.captureWord (st : State) (repstat off : Nat) : Nat :=
  if off < 256 then st.captureHead repstat / 2 ^ (8 * off) % 2 ^ 64 else (st.sections.flatMap Section.image).getD ((off - 256) / 8) 0 % 2 ^ 64

end Sys2Proof.Machine
end

