-- ==== Sys2Proof/Machine/Sha.lean ====
section
/-! DEFINITION. SHA-512 (FIPS 180-4), which names shards, manifests and firmware stages (R359 to R361, R457), and RSASSA-PSS over it (R359). The digest's
constants are the first 64 bits of the fractional parts of the square and cube roots of the first primes, computed here as that standard defines them
(PRESUMED: log entry 21). -/

namespace Sys2Proof.Machine.Sha

/-- The largest r of `b` bits with r^k ≤ n. -/
def root (k n b : Nat) : Nat := (List.range b).foldr (fun i r => if (r + 2 ^ i) ^ k ≤ n then r + 2 ^ i else r) 0

/-- Whether a number is prime. -/
def isPrime (n : Nat) : Bool := decide (2 ≤ n) && (List.range n).all fun d => decide (d < 2) || decide (n % d ≠ 0)

/-- The first 80 primes: those below 410. -/
def primes : List Nat := (List.range 410).filter isPrime

/-- The initial hash value. -/
def h0 : List (BitVec 64) := (primes.take 8).map fun p => BitVec.ofNat 64 (root 2 (p * 2 ^ 128) 72)

/-- The round constants. -/
def k : List (BitVec 64) := primes.map fun p => BitVec.ofNat 64 (root 3 (p * 2 ^ 192) 72)

/-- Rotation right. -/
def rotr (x : BitVec 64) (n : Nat) : BitVec 64 := x.rotateRight n

/-- One word of the message schedule from the sixteen before it, newest first. -/
def nextW (w : List (BitVec 64)) : BitVec 64 :=
  let a := w.getD 1 0
  let b := w.getD 14 0
  (rotr a 19 ^^^ rotr a 61 ^^^ (a >>> 6)) + w.getD 6 0 + (rotr b 1 ^^^ rotr b 8 ^^^ (b >>> 7)) + w.getD 15 0

/-- The schedule of a block: 80 words, oldest first. -/
def schedule (m : List (BitVec 64)) : List (BitVec 64) := ((List.range 64).foldl (fun w _ => nextW w :: w) m.reverse).reverse

/-- One round on the eight working words. -/
def round (s : List (BitVec 64)) (kw : BitVec 64) : List (BitVec 64) :=
  match s with
  | [a, b, c, d, e, f, g, h] =>
    let t1 := h + (rotr e 14 ^^^ rotr e 18 ^^^ rotr e 41) + ((e &&& f) ^^^ (~~~e &&& g)) + kw
    let t2 := (rotr a 28 ^^^ rotr a 34 ^^^ rotr a 39) + ((a &&& b) ^^^ (a &&& c) ^^^ (b &&& c))
    [t1 + t2, a, b, c, d + t1, e, f, g]
  | _ => s

/-- One block of sixteen words. -/
def block (h : List (BitVec 64)) (m : List (BitVec 64)) : List (BitVec 64) :=
  let s := ((schedule m).zip k).foldl (fun s p => round s (p.1 + p.2)) h
  (h.zip s).map fun p => p.1 + p.2

/-- Bytes as a big-endian word. -/
def beWord (bs : List Nat) : BitVec 64 := BitVec.ofNat 64 (bs.foldl (fun n b => n * 256 + b % 256) 0)

/-- A list cut into pieces of `n`, as many as the fuel allows. -/
def pieces {α : Type} (fuel n : Nat) (l : List α) : List (List α) :=
  match fuel with
  | 0 => []
  | f + 1 => if l.isEmpty then [] else l.take n :: pieces f n (l.drop n)

/-- The message with its padding. -/
def pad (m : List Nat) : List Nat :=
  let n := m.length
  let z := (239 - n % 128) % 128
  m ++ [0x80] ++ List.replicate z 0 ++ (List.range 16).map fun i => 8 * n / 256 ^ (15 - i) % 256

/-- The digest's 64 bytes, the first at the lowest place. -/
def sha512 (m : List Nat) : Nat :=
  let p := pad m
  let bs := pieces p.length 128 p
  let h := bs.foldl (fun h b => block h ((pieces 16 8 b).map beWord)) h0
  (h.flatMap fun w => (List.range 8).map fun i => w.toNat / 256 ^ (7 - i) % 256).foldr (fun b n => b + 256 * n) 0

/-- The bytes of a number, lowest first. -/
def bytes (n v : Nat) : List Nat := (List.range n).map fun i => v / 256 ^ i % 256

/-! RSASSA-PSS of PKCS #1 v2.2 with SHA-512, MGF1 with SHA-512 and a 64-byte salt, over RSA-4096 keys with public exponent 65,537 (R359). Octet strings
are lists of bytes, the first octet first; an encoded message has 512 octets and 4,095 bits (PRESUMED, as that standard defines it: log entry 21). -/

/-- A number as n octets, the most significant first. -/
def octets (n v : Nat) : List Nat := (bytes n v).reverse

/-- Octets as a number, the most significant first. -/
def octNat (m : List Nat) : Nat := m.foldl (fun n b => n * 256 + b % 256) 0

/-- The digest as octets. -/
def digest (m : List Nat) : List Nat := bytes 64 (sha512 m)

/-- MGF1: n octets from a seed. -/
def mgf1 (seed : List Nat) (n : Nat) : List Nat := ((List.range ((n + 63) / 64)).flatMap fun i => digest (seed ++ octets 4 i)).take n

/-- A data block under its mask, or the block a masked one hides. -/
def mask (h db : List Nat) : List Nat := (db.zip (mgf1 h 447)).map fun p => p.1 ^^^ p.2

/-- The octets with the first one's top bit clear: an encoded message has 4,095 bits. -/
def clearTop (m : List Nat) : List Nat :=
  match m with
  | [] => []
  | b :: r => b % 128 :: r

/-- The hash of a message's digest and a salt. -/
def pssHash (m salt : List Nat) : List Nat := digest (List.replicate 8 0 ++ digest m ++ salt)

/-- The encoded message. -/
def pssEncode (m salt : List Nat) : List Nat :=
  let h := pssHash m salt
  clearTop (mask h (List.replicate 382 0 ++ [1] ++ salt)) ++ h ++ [0xBC]

/-- An encoded message is consistent with a message. -/
def pssCheck (m em : List Nat) : Bool :=
  let h := (em.drop 447).take 64
  let db := clearTop (mask h (em.take 447))
  decide (em.length = 512) && decide (em.drop 511 = [0xBC]) && decide (em.headD 0 < 128) && decide (db.take 383 = List.replicate 382 0 ++ [1])
    && decide (pssHash m (db.drop 383) = h)

/-- b to the power e, of at most `n` bits, modulo `md`. -/
def powMod (n b e md : Nat) : Nat := (List.range n).foldr (fun i r => let r := r * r % md; if e.testBit i then r * b % md else r) (1 % md)

/-- The signature of a message under a key, its first octet at the lowest place. -/
def sign (modulus exponent : Nat) (m salt : List Nat) : Nat :=
  (octets 512 (powMod 4096 (octNat (pssEncode m salt)) exponent modulus)).foldr (fun b n => b + 256 * n) 0

/-- A signature of a message verifies under a public key with exponent 65,537. -/
def verify (modulus : Nat) (m : List Nat) (sig : Nat) : Bool :=
  let s := octNat (bytes 512 sig)
  decide (s < modulus) && pssCheck m (octets 512 (powMod 17 s 65537 modulus))

end Sys2Proof.Machine.Sha
end

