-- ==== Sys2Proof/Machine/Ports.lean ====
section
/-! DEFINITION. The control space (R356 to R358, R363, R364, R368): what each register reads, what a write of it does, CTLSEM, and the management port's
requests. Port 1 is the hub cores' system interface, port 2 the management port. -/

namespace Sys2Proof.Machine

/-- A port's banked registers. -/
def State.port (st : State) (p : Nat) : Port := mgetD st.ports p {}

/-- A port's banked registers changed. -/
def State.updPort (st : State) (p : Nat) (f : Port → Port) : State := { st with ports := mset st.ports p (f (st.port p)) }

/-- BUSY of a queue of commands, for a port. -/
def busyOf (q : List Cmd) (p : Nat) : Nat := if q.any fun c => decide (c.port = p) then 2 ^ 63 else 0

/-- A port is served: in recovery the management port alone (R356, R360). -/
def State.serves (st : State) (p : Nat) : Bool := decide (p = 2) || (decide (p = 1) && !st.recovery)

/-! CTLSEM (R357). -/

/-- Core cycles of the 5 s lease. -/
def leaseCycles : Nat := 5 * 940000000

/-- CTLCAS by a port: taken, renewed or released in one step, or no effect (R357). -/
def State.writeCas (st : State) (p v : Nat) : State :=
  if (st.ctlPort = 0 ∧ bits v 63 32 = 0) ∨ (st.ctlPort = p ∧ st.ctlToken = bits v 63 32) then
    if bits v 31 0 = 0 then { st with ctlPort := 0, ctlToken := 0, ctlLease := 0 }
    else { st with ctlPort := p, ctlToken := bits v 31 0, ctlLease := st.clock + leaseCycles }
  else st

/-- CTLCAS: a write of it by a port (R357). -/
def execCtlcas (port v : Nat) (st : State) : Ans := .next (if st.serves port then st.writeCas port v else st)

/-- A control operation of the holder is running (R357, R358). -/
def State.holderBusy (st : State) : Bool :=
  (st.ctlQ.head?.any fun c => decide (c.port = st.ctlPort) && decide (0 < c.phase)) || st.ckQ.head?.any fun c => decide (c.port = st.ctlPort) && decide (0 < c.phase)

/-- CTLSEM_LEASE_EXPIRY: 5 s after the last effective write CTLSEM is 0, unless a control operation of the holder runs (R357). -/
def execCtlsemLeaseExpiry (st : State) : Ans :=
  .next (if st.ctlPort ≠ 0 ∧ st.ctlLease ≤ st.clock ∧ !st.holderBusy then { st with ctlPort := 0, ctlToken := 0, ctlLease := 0 } else st)

/-- A register write that is a control operation is applied: its port holds CTLSEM, and a management request names the token (R364). -/
def State.mayCtl (st : State) (p token : Nat) : Bool := decide (p ≠ 0) && decide (st.ctlPort = p) && (decide (p = 1) || decide (st.ctlToken = token))

/-! Writes of registers with an effect of their own. -/

/-- REELCTL (R428): SIZE while no context exists, which moves the reserved parts (R20), DRAIN with DRPROD, MODE. -/
def State.writeReelctl (st : State) (v : Nat) : State :=
  let size := bits v 39 8
  let drain := bits v 7 6
  let mode := bits v 3 2
  let moves := decide (st.ctxs = []) && decide (1 ≤ size) && decide (size ≤ 262144) && decide (size ≠ st.reelSize)
  let st := if moves then ({ st with reelSize := size } : State).rebuilt else st
  { st with reelDrain := if drain = 3 then st.reelDrain else drain, drProd := 0
            reelMode := if mode = 1 ∨ mode = 2 then mode else st.reelMode }

/-- RSVCTL (R472): the pool size while no context exists, where it leaves 16 GiB below RSVLO. -/
def State.writeRsvctl (st : State) (v : Nat) : State :=
  let n := v % 65536
  if st.ctxs ≠ [] ∨ n = 0 ∨ 512 < n ∨ devBytes st.mode < 65536 * st.reelSize + 2 ^ 30 + 2 ^ 28 + n * 2 ^ 30 + 16 * 2 ^ 30 then st
  else { st with pool := n }

/-- A CUT register (R439). -/
def State.writeCut (st : State) (i v : Nat) : State :=
  let en := decide (bits v 63 63 = 1)
  let act := bits v 62 61
  if 16 ≤ i ∨ (en ∧ act = 2 ∧ 671 < bits v 47 32) then st
  else { st with cuts := mset st.cuts i { en := en && decide (act ≠ 3), act := act, group := bits v 60 52, rid := bits v 47 32, tidx := v % 2 ^ 32 } }

/-- ERRCLS (R415). -/
def State.writeErrcls (st : State) (v : Nat) : State :=
  { st with errWindow := if bits v 39 8 = 0 then st.errWindow else bits v 39 8, errThresh := if v % 256 < 2 then st.errThresh else v % 256 }

/-- A watch filter entry with one of its registers written: 0 WFLO, 1 WFHI, 2 WFCTL (R444). -/
def WatchEntry.put (e : WatchEntry) (reg v : Nat) : WatchEntry :=
  if reg = 0 then { e with lo := v % 2 ^ 52 } else if reg = 1 then { e with hi := v % 2 ^ 52 } else { e with mask := bits v 15 8, kind := v % 4 }

/-- WFLO, WFHI or WFCTL of the entry a port's WFSEL names (R444, R445): at once, or held for the next restore of a recording context. -/
def State.writeWatch (st : State) (p reg v : Nat) : State :=
  let q := st.port p
  match mget st.ctxs q.wfctx with
  | none => st
  | some x =>
    if 2 ≤ x.det then st.updCtx q.wfctx fun x => { x with watchHeld := x.watchHeld ++ [(4 * q.wfent + reg, v, 0)] }
    else st.updCtx q.wfctx fun x => { x with watch := mset x.watch q.wfent ((mgetD x.watch q.wfent {}).put reg v) }

/-! Power states, as LTOL decides them (R362). -/

/-- The exit latency of a power state, in µs. -/
def exitLatency (p : Nat) : Nat := match p with
  | 0 => 0
  | 1 => 2
  | 2 => 2000
  | _ => 80000

/-- Both ports' tolerances admit a state. -/
def State.admits (st : State) (p : Nat) : Bool := decide (exitLatency p ≤ min (st.port 1).ltol (st.port 2).ltol)

/-- Every context of a device is pre-empted, or none exists, and no command waits (R362). -/
def State.p2Ready (st : State) (dev : Nat) : Bool :=
  ((st.ctxsOf dev).all fun e => decide (e.2.state = .preempted)) && (st.ctlQ ++ st.ctxQ ++ st.wQ ++ st.ckQ ++ st.repQ).isEmpty

/-- Nothing of a device's contexts can run (R362). -/
def State.p1Idle (st : State) (dev : Nat) : Bool :=
  (st.ctxsOf dev).all fun e => (st.ctxGroups e.1).all (fun g => g.2.lowRunnable.isNone && g.2.entering.isNone)
    && st.clusters.all (fun k => (k.2.copyQ ++ k.2.fabQ).all (fun x => decide (x.ctx ≠ e.1)) && k.2.res.all fun x => decide (x.ctx ≠ e.1))
    && st.convs.all fun v => decide (v.ctx ≠ e.1)

/-- The entry condition of a state: P1 after 10 µs of idleness; P3 with every device and no context (R362). -/
def State.mayEnter (st : State) (dev p : Nat) : Bool :=
  if p = 0 then true
  else if p = 1 then (match mget st.idleFor dev with
    | some t => st.p1Idle dev && decide (t + 9400 ≤ st.clock)
    | none => false)
  else if p = 2 then st.p2Ready dev
  else decide (st.ctxs = []) && (List.range (devCount st.mode)).all fun d => st.p2Ready d

/-- The deepest state whose entry condition holds and whose exit latency both ports tolerate (R362). -/
def State.deepest (st : State) (dev : Nat) : Nat := ((List.range 4).filter fun p => st.mayEnter dev p && st.admits p).foldl max 0

/-- LTOL of a port (R362): a device in a state it no longer admits wakes into the deepest it admits; P3 is left by the whole package. -/
def State.writeLtol (st : State) (p v : Nat) : State :=
  let st := st.updPort p fun q => { q with ltol := v % 2 ^ 32 }
  { st with power := mmap st.power fun dev s => if st.admits s then s else st.deepest dev }

/-- A command wakes the devices in P1 and P2 (R362): which device it concerns is not known before it is carried out (DESIGN CHOICE: log entry 103). -/
def State.wakeAll (st : State) : State := { st with power := st.power.filter fun e => decide (2 < e.2) }

/-! The register map (R363). -/

/-- Retired units, as RETCNT counts them (R415). -/
def State.retcnt (st : State) : Nat :=
  st.retiredPipes.length % 65536 + st.retiredRows % 65536 * 2 ^ 16 + st.retiredWays.length % 65536 * 2 ^ 32 + st.retiredHbm % 65536 * 2 ^ 48

/-- PKGST (R363). -/
def State.pkgst (st : State) : Nat :=
  st.mode + (if st.captureEn then 4 else 0) + (if st.frozen then 8 else 0) + (if st.ctlPort ≠ 0 then 16 else 0)

/-- A CUT register's word. -/
def Cut.word (c : Cut) : Nat :=
  (if c.en then 2 ^ 63 else 0) + c.act % 4 * 2 ^ 61 + c.group % 512 * 2 ^ 52 + c.rid % 65536 * 2 ^ 32 + c.tidx % 2 ^ 32

/-- The index of an offset in an array of words. -/
def slotAt (off base n : Nat) : Option Nat := if base ≤ off ∧ off < base + 8 * n then some ((off - base) / 8) else none

/-- The map names an offset (R363). -/
def State.named (st : State) (off : Nat) : Bool :=
  decide (off ∈ [0x0, 0x8, 0x10, 0x18, 0x20, 0x28, 0x40, 0x48, 0x50, 0x58, 0x60, 0x68, 0x70, 0x78, 0x80, 0x88, 0x90, 0x98, 0x200, 0x208, 0x210, 0x218, 0x220,
      0x228, 0x230, 0x238, 0x240])
    || (slotAt off 0x100 10).isSome || (slotAt off 0x180 16).isSome || (slotAt off 0x400 36).isSome || (slotAt off 0x1000 64).isSome
    || (slotAt off 0x10000 st.retiredPages.length).isSome || (slotAt off 0x100000000 (2 ^ 29)).isSome

/-- What a register reads through a port (R363): an offset the map does not name reads 0, and a write-only register too (R4). -/
def State.regRead (st : State) (p off : Nat) : Nat :=
  let q := st.port p
  let wf := mgetD (st.ctx q.wfctx).watch q.wfent {}
  if off = 0x0 then st.ctlPort * 2 ^ 56 + st.ctlToken
  else if off = 0x18 then busyOf st.ctlQ p + q.ctlcode
  else if off = 0x20 then q.ctlarg.toNat
  else if off = 0x28 then q.ltol
  else if off = 0x48 then busyOf st.ctxQ p + q.ctxid * 2 ^ 16 + q.ctxcode
  else if off = 0x58 then busyOf st.wQ p + q.wstat.toNat % 2 ^ 63
  else if off = 0x68 then busyOf st.ckQ p + q.ckstat.toNat % 2 ^ 63
  else if off = 0x78 then q.repstat.toNat
  else if off = 0x80 then q.wfctx * 2 ^ 58 + q.wfent * 2 ^ 54
  else if off = 0x88 then wf.lo
  else if off = 0x90 then wf.hi
  else if off = 0x98 then wf.mask * 256 + wf.kind
  else if off = 0x100 then st.reelSize * 256 + st.reelDrain * 64 + st.reelMode * 4
  else if off = 0x108 then (st.reel 0).wp
  else if off = 0x110 then (st.reel 0).dp
  else if off = 0x118 then (st.reel 0).op
  else if off = 0x120 then (st.reel 0).lost
  else if off = 0x128 then (st.reel 0).slate
  else if off = 0x130 then st.drBase
  else if off = 0x138 then st.drSize
  else if off = 0x140 then st.drCons
  else if off = 0x148 then st.drProd
  else if off = 0x200 then st.errWindow * 256 + st.errThresh
  else if off = 0x208 then st.devno
  else if off = 0x210 then st.peertmo
  else if off = 0x218 then st.pkgst
  else if off = 0x220 then st.retcnt
  else if off = 0x228 then st.dropcnt
  else if off = 0x230 then st.retiredPages.length
  else if off = 0x238 then st.pool
  else if off = 0x240 then st.rsvlo
  else match slotAt off 0x180 16 with
  | some i => (mgetD st.cuts i {}).word
  | none => match slotAt off 0x400 36 with
  | some i =>
    let d := st.die (i / 4)
    if i % 4 = 0 then d.trctl else if i % 4 = 1 then d.trwp else if i % 4 = 2 then d.trrp else d.trlost
  | none => match slotAt off 0x1000 64 with
  | some i => st.dead.toNat / 2 ^ (64 * i) % 2 ^ 64
  | none => match slotAt off 0x10000 st.retiredPages.length with
  | some i => st.retiredPages.getD i 0
  | none => if st.frozen && st.captureEn && decide (st.ctlPort = p) then (match slotAt off 0x100000000 (2 ^ 29) with
      | some i => st.captureWord q.repstat.toNat (8 * i)
      | none => 0) else 0

/-- A command written to a port's queue (R351, R364, R372): ignored while the port's earlier command stands. -/
def pushCmd (q : List Cmd) (p v arg : Nat) : List Cmd :=
  if q.any fun c => decide (c.port = p) then q else q ++ [{ port := p, word := BitVec.ofNat 64 v, arg := BitVec.ofNat 64 arg }]

/-- A write of a register whose effect is its own fields or a command queued (R4, R363): those with events of their own are not among them. -/
def State.regWrite (st : State) (p off v : Nat) : State :=
  let v := v % 2 ^ 64
  let st := if off ∈ [0x10, 0x40, 0x50, 0x60, 0x70] then st.wakeAll else st
  if off = 0x10 then { st with ctlQ := pushCmd st.ctlQ p v (st.port p).ctlarg.toNat }
  else if off = 0x20 then st.updPort p fun q => { q with ctlarg := BitVec.ofNat 64 v }
  else if off = 0x40 then { st with ctxQ := pushCmd st.ctxQ p v 0 }
  else if off = 0x50 then { st with wQ := pushCmd st.wQ p v 0 }
  else if off = 0x60 then { st with ckQ := pushCmd st.ckQ p v 0 }
  else if off = 0x70 then { st with repQ := st.repQ ++ [{ port := p, word := BitVec.ofNat 64 v }] }
  else if off = 0x80 then st.updPort p fun q => { q with wfctx := bits v 63 58, wfent := bits v 57 54 }
  else if off = 0x130 then (if v % 4096 = 0 then { st with drBase := v } else st)
  else if off = 0x138 then (if v % 4096 = 0 then { st with drSize := v } else st)
  else st

/-- The register is a control operation when it is written (R364). -/
def ctlReg (off : Nat) : Bool := decide (off = 0x100) || decide (off = 0x238) || decide (off = 0x200) || (slotAt off 0x180 16).isSome

/-- A write of any register by a port; a control operation only as R364 allows. -/
def State.anyWrite (st : State) (p token off v : Nat) : State :=
  if ctlReg off && !st.mayCtl p token then st
  else if off = 0x8 then st.writeCas p v
  else if off = 0x28 then st.writeLtol p v
  else if off = 0x88 then st.writeWatch p 0 v
  else if off = 0x90 then st.writeWatch p 1 v
  else if off = 0x98 then st.writeWatch p 2 v
  else if off = 0x100 then st.writeReelctl v
  else if off = 0x140 then { st with drCons := v % 2 ^ 64 }
  else if off = 0x200 then st.writeErrcls v
  else if off = 0x238 then st.writeRsvctl v
  else match slotAt off 0x180 16 with
  | some i => st.writeCut i v
  | none => match slotAt off 0x400 36 with
  | some i => if i % 4 = 0 then st.updDie (i / 4) fun d => { d with trctl := v % 512 }
      else if i % 4 = 2 then st.updDie (i / 4) fun d => { d with trrp := v % 2 ^ 64 } else st
  | none => st.regWrite p off v

/-! Writes through a port. -/

/-- REELCTL_WRITE (R428, R364). -/
def execReelctlWrite (port token v : Nat) (st : State) : Ans := .next (if st.serves port && st.mayCtl port token then st.writeReelctl v else st)
/-- RSVCTL_WRITE (R472, R364). -/
def execRsvctlWrite (port token v : Nat) (st : State) : Ans := .next (if st.serves port && st.mayCtl port token then st.writeRsvctl v else st)
/-- CUT_WRITE (R439, R364). -/
def execCutWrite (port token i v : Nat) (st : State) : Ans := .next (if st.serves port && st.mayCtl port token then st.writeCut i v else st)
/-- ERRCLS_WRITE (R415, R364). -/
def execErrclsWrite (port token v : Nat) (st : State) : Ans := .next (if st.serves port && st.mayCtl port token then st.writeErrcls v else st)
/-- WATCH_FILTER_WRITE: WFLO, WFHI or WFCTL (R444, R445). -/
def execWatchFilterWrite (port reg v : Nat) (st : State) : Ans := .next (if st.serves port && decide (reg < 3) then st.writeWatch port reg v else st)
/-- TRCTL_WRITE (R453). -/
def execTrctlWrite (die v : Nat) (st : State) : Ans := .next (if die < 9 then st.updDie die fun d => { d with trctl := v % 512 } else st)
/-- TRRP_WRITE (R453). -/
def execTrrpWrite (die v : Nat) (st : State) : Ans := .next (if die < 9 then st.updDie die fun d => { d with trrp := v % 2 ^ 64 } else st)
/-- DRCONS_WRITE (R432). -/
def execDrconsWrite (v : Nat) (st : State) : Ans := .next { st with drCons := v % 2 ^ 64 }
/-- LTOL_WRITE (R362). -/
def execLtolWrite (port v : Nat) (st : State) : Ans := .next (if st.serves port then st.writeLtol port v else st)
/-- REGISTER_WRITE: a register with no event of its own (R4). -/
def execRegisterWrite (port off v : Nat) (st : State) : Ans := .next (if st.serves port then st.regWrite port off v else st)

/-! The management port (R368). -/

/-- The UDP port that control requests go to. -/
def mgmtUdpPort : Nat := 4862

/-- A request's header is well formed: MAGIC, VERSION, COUNT and length. -/
def mgmtOk (req len op : Nat) : Bool :=
  let n := bits req 127 96
  decide (bits req 15 0 = 0x434B) && decide (bits req 23 16 = 1) && (if op = 3 then decide (1 ≤ n) && decide (n ≤ 128) else decide (n = 1))
    && decide (len = if op = 2 then 32 else 24)

/-- A reply (R368): the header with OP + 0x80, STATUS, OFFSET and the words. -/
def mgmtReply (req status : Nat) (words : List Nat) : List Nat :=
  (req % 2 ^ 24 + (bits req 31 24 + 0x80) % 256 * 2 ^ 24 + bits req 127 32 * 2 ^ 32) :: status :: bits req 191 128 :: words

/-- A reply sent to the address and UDP port that the request came from (R368). -/
def State.mgmtSend (st : State) (src sport : Nat) (words : List Nat) : State :=
  { st with mgmtOut := st.mgmtOut ++ [{ srcAddr := st.mgmtAddr, srcPort := mgmtUdpPort, dstAddr := src, dstPort := sport % 65536, words := words }] }

/-- A request applied, and its reply kept and sent (R368); the kept replies go with a module reset that it made. -/
def State.mgmtApply (st : State) (src sport req : Nat) (f : State → Nat × List Nat × State) : State :=
  let (status, ws, st) := f st
  let r := mgmtReply req status ws
  { st with mgmtSeen := mset st.mgmtSeen (src * 65536 + sport % 65536) (bits req 63 32, r) }.mgmtSend src sport r

/-- A request that reaches UDP port 4,862 of the device's address, served (R368): dropped from a source that is not permitted; it ends P3 (R362); answered from the kept
reply where it repeats the last SEQ; else applied, and the reply kept. -/
def State.mgmtServe (st : State) (src sport req : Nat) (f : State → Nat × List Nat × State) : State :=
  if src ∉ st.mgmtSources then st else
  let st := { st with power := st.power.filter fun e => decide (e.2 < 3) }
  match mget st.mgmtSeen (src * 65536 + sport % 65536) with
  | some (s, r) => if s = bits req 63 32 then st.mgmtSend src sport r else st.mgmtApply src sport req f
  | none => st.mgmtApply src sport req f

/-- Words read from consecutive offsets, and the status. -/
def State.mgmtRead (st : State) (off n : Nat) : Nat × List Nat :=
  let offs := (List.range n).map fun i => off + 8 * i
  (if off % 8 ≠ 0 || offs.any fun o => !st.named o then 1 else 0, offs.map fun o => if o % 8 = 0 then st.regRead 2 o else 0)

/-- MGMT_READ: one register read (R368). A request of an unknown OP or another VERSION is answered as malformed here. -/
def execMgmtRead (src sport len req : Nat) (st : State) : Ans :=
  let op := bits req 31 24
  .next (if op = 2 ∨ op = 3 then st
    else st.mgmtServe src sport req fun st =>
      if op = 1 ∧ mgmtOk req len 1 then (let r := st.mgmtRead (bits req 191 128) 1; (r.1, r.2, st)) else (2, [], st))

/-- MGMT_WRITE: one register write (R368). -/
def execMgmtWrite (src sport len req : Nat) (st : State) : Ans :=
  .next (if bits req 31 24 ≠ 2 then st
    else st.mgmtServe src sport req fun st =>
      let off := bits req 191 128
      let token := bits req 95 64
      if !mgmtOk req len 2 then (2, [], st)
      else if off % 8 ≠ 0 || !st.named off then (1, [], st)
      else if ctlReg off && !st.mayCtl 2 token then (3, [], st)
      else (0, [], st.anyWrite 2 token off (bits req 255 192)))

/-- MGMT_BLOCK_READ: up to 128 consecutive words (R368). -/
def execMgmtBlockRead (src sport len req : Nat) (st : State) : Ans :=
  .next (if bits req 31 24 ≠ 3 then st
    else st.mgmtServe src sport req fun st =>
      if mgmtOk req len 3 then (let r := st.mgmtRead (bits req 191 128) (bits req 127 96); (r.1, r.2, st)) else (2, [], st))

end Sys2Proof.Machine
end

