-- ==== Sys2Proof/Machine/Service.lean ====
section
/-! DEFINITION. The general control operations (R358, R364 to R367), module reset (R26), firmware (R360), freezing (R441), device time (R449, R450), power
states (R362) and throttling (R64, R90). -/

namespace Sys2Proof.Machine

/-! The command queue (R364). -/

/-- OP of a general command. -/
def Cmd.ctlOp (c : Cmd) : Nat := bits c.word.toNat 63 56
/-- TOKEN. -/
def Cmd.token (c : Cmd) : Nat := bits c.word.toNat 55 24
/-- ARG0. -/
def Cmd.arg0 (c : Cmd) : Nat := c.word.toNat % 2 ^ 24

/-- The head general command ended with its code; the lease of a holder whose operation ran past it goes on for 5 s (R357). -/
def State.ctlDone (st : State) (c : Cmd) (code : Nat) : State :=
  let lease := if 0 < c.phase ∧ c.port = st.ctlPort ∧ st.ctlLease ≤ st.clock then st.clock + leaseCycles else st.ctlLease
  ({ st with ctlQ := st.ctlQ.tail, ctlLease := lease }).updPort c.port fun q => { q with ctlcode := code }

/-- The head general command, where it is one of an operation that may run: the port holds CTLSEM with the token, or the operation is under way; else it
ends with code 1 (R364). -/
def State.ctlOpAt (st : State) (op : Nat) (sem : Bool) (f : Cmd → State) : State :=
  match st.ctlQ with
  | [] => st
  | c :: _ =>
    if c.ctlOp ≠ op then st
    else if sem && decide (c.phase = 0) && !(decide (st.ctlPort = c.port) && decide (st.ctlToken = c.token)) then st.ctlDone c 1
    else f c

/-- The head command of several steps, moved on. -/
def State.ctlPhase (st : State) (c : Cmd) : State := { st with ctlQ := c :: st.ctlQ.tail }

/-! Reset and modes (R26, R345). -/

/-- A byte outlives module reset: host memory and the board's persistence module. -/
def survives (a : Nat) : Bool := (decide (2 ^ 56 ≤ a) && decide (a < 2 ^ 60)) || (decide (2 ^ 64 ≤ a) && decide (a < 2 ^ 65))

/-- A firmware stage verifies (R360): it is signed with the key whose digest is fused, and its security version is not below the fused counter. -/
def stageOk (fuse : Nat) (s : List Nat × Nat × Nat × Nat) : Bool :=
  decide (Sha.sha512 (Sha.bytes 512 s.2.2.1) = Config.firmwareKeyDigest) && Sha.verify s.2.2.1 s.1 s.2.1 && decide (fuse ≤ s.2.2.2 % 2 ^ 32)

/-- An image holds stages, and each verifies. -/
def imageOk (fuse img : Nat) : Bool := !(Config.imageStages img).isEmpty && (Config.imageStages img).all (stageOk fuse)

/-- The boot ROM starts the firmware (R360): the bank that FWUPDATE has written last, else the active one. Every stage is verified before it runs, and a failure leaves the
module in recovery; once it has booted the fused counter rises, and its signed settings hold (R368, R443, R449; log entry 100). A bank that nothing has written holds
the firmware of manufacture, of which the manual gives nothing (log entry 16). -/
def State.boot (st : State) : State :=
  let bank := if st.fwPending then 1 - st.fwActive else st.fwActive
  match mget st.fwBanks bank with
  | none => { st with recovery := st.fwStages.any fun s => decide (s.2 < st.fwFuse) }
  | some img =>
    if imageOk st.fwFuse img then
      let stages := (Config.imageStages img).map fun s => (Sha.sha512 s.1, s.2.2.2 % 2 ^ 32)
      let st := { st with recovery := false, fwActive := bank, fwPending := false, fwStages := stages, fwFuse := (stages.map (·.2)).foldl max st.fwFuse }
      match Config.imageSettings img with
      | some (cap, addr, srcs, dom) => { st with captureEn := cap, mgmtAddr := addr, mgmtSources := srcs.take 8, ptpDomain := dom % 256 }
      | none => st
    else { st with recovery := true }

/-- Module reset (R26): the state of reset, but for the non-volatile store, what stands outside the package's power, and the model's own counters; then the boot
ROM starts the firmware. -/
def State.moduleReset (st : State) : State :=
  ({ State.reset with
    mem := st.mem.filter fun c => survives c.1
    retiredPipes := st.retiredPipes, retiredRows := st.retiredRows + st.rowsDue.length, retiredWays := st.retiredWays, retiredHbm := st.retiredHbm
    retiredPages := st.retiredPages, spareRows := st.spareRows, laneDrops := st.laneDrops, captureEn := st.captureEn, serialNo := st.serialNo
    fwStages := st.fwStages, fwBanks := st.fwBanks, fwActive := st.fwActive, fwPending := st.fwPending, fwFuse := st.fwFuse, mgmtAddr := st.mgmtAddr
    mgmtSources := st.mgmtSources, ptpDomain := st.ptpDomain, images := st.images, cxlHost := st.cxlHost
    clock := st.clock, agenda := st.agenda, cursor := st.cursor, issuer := st.issuer, free := st.free, issueNo := st.issueNo } : State).boot

/-- MODULE_RESET: power-up or reset of the module (R26). -/
def execModuleReset (st : State) : Ans := .next st.moduleReset

/-- RESET, the control operation (R365). An unknown OP is refused here with code 15. -/
def execReset (st : State) : Ans :=
  .next (match st.ctlQ with
    | [] => st
    | c :: _ =>
      if c.ctlOp = 0 ∨ 16 < c.ctlOp then st.ctlDone c 15
      else st.ctlOpAt 1 true fun c => if c.arg0 ≠ 0 ∨ c.arg ≠ 0 then st.ctlDone c 2 else st.moduleReset)

/-- MODESET: every cache emptied, the mode changed, the pool at its size for the mode, the reserved regions built again for each new device (R20, R345, R472). -/
def execModeset (st : State) : Ans :=
  .next (st.ctlOpAt 2 true fun c =>
    if 2 < c.arg0 ∨ c.arg ≠ 0 then st.ctlDone c 2
    else if st.ctxs ≠ [] then st.ctlDone c 3
    else
      let cores := mmap st.cores fun _ k => { k with l1 := [] }
      let dies := mmap st.dies fun _ d => { d with l2 := [] }
      (({ st with cores := cores, dies := dies, dir := [], l3 := [], tlb := [], mode := c.arg0
                  pool := if c.arg0 = 0 then 64 else if c.arg0 = 1 then 32 else 8 } : State).rebuilt).ctlDone c 0)

/-- FWUPDATE: an image verified against the firmware key and the security counter, then written to the inactive bank (R360). -/
def execFwupdate (st : State) : Ans :=
  .next (st.ctlOpAt 3 true fun c =>
    let a := c.arg.toNat
    if c.arg0 = 0 ∨ a % 4096 ≠ 0 ∨ 2 ^ 40 ≤ a then st.ctlDone c 2
    else
      let img := st.devRead (4096 * c.arg0) a
      if imageOk st.fwFuse img then ({ st with fwBanks := mset st.fwBanks (1 - st.fwActive) img, fwPending := true }).ctlDone c 0 else st.ctlDone c 4)

/-! Freezing (R441, R443). -/

/-- FREEZE asserted: it acts only while capture is enabled (R443); every open take is closed (R421). -/
def State.freeze (st : State) : State :=
  if st.captureEn && !st.frozen then { (st.ctxs.foldl (fun s e => s.closeTakes e.1 2) st) with frozen := true } else st

/-- REPSTAT's word (R435). -/
def repWord (state rid tidx code : Nat) : Word := BitVec.ofNat 64 (state % 16 * 2 ^ 60 + rid % 2 ^ 16 * 2 ^ 44 + tidx % 2 ^ 32 * 2 ^ 12 + code % 2 ^ 12)

/-- A context's replay comes to a state, reported on the port that armed it (R435). -/
def State.repState (st : State) (c state rid tidx code : Nat) : State :=
  match (st.ctx c).replay with
  | none => st
  | some r => (st.updCtx c fun x => { x with replay := some { r with state := state } }).updPort r.port fun q => { q with repstat := repWord state rid tidx code }

/-- The recorder and the take that a context's replay has last reported. -/
def State.repAtTake (st : State) (c : Nat) : Nat × Nat :=
  let w := (st.port (((st.ctx c).replay.map (·.port)).getD 1)).repstat.toNat
  (bits w 59 44, bits w 43 12)

/-- The clocks released: a replay frozen at a cut point goes on, and REPSTAT says so (R435, R441). -/
def State.thaw (st : State) : State :=
  let st := st.ctxs.foldl (fun st e =>
    if e.2.replay.any fun r => decide (r.state = 3) then st.repState e.1 2 (st.repAtTake e.1).1 (st.repAtTake e.1).2 0 else st) st
  { st with frozen := false }

/-- FREEZE, the control operation (R365). -/
def execFreeze (st : State) : Ans :=
  .next (st.ctlOpAt 5 true fun c =>
    if c.arg0 ≠ 0 ∨ c.arg ≠ 0 then st.ctlDone c 2 else if !st.captureEn then st.ctlDone c 5 else st.freeze.ctlDone c 0)

/-- THAW, the control operation (R365). -/
def execThaw (st : State) : Ans :=
  .next (st.ctlOpAt 6 true fun c => if c.arg0 ≠ 0 ∨ c.arg ≠ 0 then st.ctlDone c 2 else if !st.frozen then st.ctlDone c 3 else st.thaw.ctlDone c 0)

/-! ATTEST (R361, R366). -/

/-- A number's n bytes signed with the device identity key, under a salt (R359). -/
def identitySign (n b salt : Nat) : Nat := Sha.sign Config.identityModulus Config.identityExponent (Sha.bytes n b) (Sha.bytes 64 salt)

/-- The attestation report's bytes before the signature, and their count. -/
def State.report (st : State) (nonce : Nat) : Nat × Nat :=
  let stages := st.fwStages.foldr (fun s n => s.1 % 2 ^ 512 + s.2 % 2 ^ 32 * 2 ^ 512 + 2 ^ 576 * n) 0
  let cert := Config.deviceCertificate
  let clen := (Nat.log2 cert + 8) / 8
  let cpad := (clen + 7) / 8 * 8
  let ns := st.fwStages.length
  let n := 64 + 72 * ns + 4 + cpad
  let retired := st.retiredPipes.length + st.retiredRows + st.retiredWays.length + st.retiredHbm
  let head := 0x5454414B + (n + 512) * 2 ^ 32 + nonce % 2 ^ 256 * 2 ^ 64 + st.serialNo % 2 ^ 128 * 2 ^ 320 + st.mode * 2 ^ 448
    + (if st.captureEn then 1 else 0) * 2 ^ 456 + ns % 2 ^ 16 * 2 ^ 464 + retired % 2 ^ 32 * 2 ^ 480
  (head + stages * 2 ^ 512 + (clen + cert * 2 ^ 32) * 2 ^ (512 + 576 * ns), n)

/-- ATTEST: a nonce read and a signed report written into the buffer (R366). -/
def execAttest (st : State) : Ans :=
  .next (st.ctlOpAt 7 false fun c =>
    let a := c.arg.toNat * 128
    if c.arg0 ≠ 0 ∨ 2 ^ 33 ≤ c.arg.toNat then st.ctlDone c 2
    else
      let (r, n) := st.report (st.devRead 32 a)
      if 4096 < 64 + n + 512 then st.ctlDone c 2
      else
        let (salt, st) := st.freeValue
        ((st.hostPut (n + 512) (a + 64) (r + identitySign n r salt * 2 ^ (8 * n))).map fun s => s.ctlDone c 0).getD st)

/-! Domains and peers (R216, R231, R365, R367). -/

/-- A mesh entry of a domain image (R367): its sizes and devices, none where it is malformed. -/
def State.meshAt (st : State) (a : Nat) (set : BitVec 4096) : Option (List Nat × List Nat) :=
  let h := st.devRead 16 a
  let s := (List.range 4).map fun i => bits h (16 * i + 15) (16 * i)
  let n := s.foldl (· * ·) 1
  if bits h 127 64 ≠ 0 ∨ s.any (fun x => decide (x = 0) || decide (4096 < x)) ∨ 4096 < n then none
  else
    let ds := (List.range n).map fun i => st.devRead 2 (a + 16 + 2 * i)
    if ds.any (fun d => decide (4096 ≤ d) || !set.getLsbD d) || decide (ds.eraseDups.length ≠ n) then none else some (s, ds)

/-- A domain image read and checked (R367): its number and tables, none where it is malformed. -/
def State.domainImage (st : State) (a : Nat) : Option (Nat × Domain) :=
  let h := st.devRead 64 a
  let nm := bits h 63 32
  let set := BitVec.ofNat 4096 (st.devRead 512 (a + 64))
  let gs := (List.range 256).map fun i => (i, BitVec.ofNat 4096 (st.devRead 512 (a + 576 + 512 * i)))
  let ofs := (List.range 256).map fun i => (i, st.devRead 4 (a + 131648 + 4 * i))
  let used := ofs.filter fun e => decide (e.2 ≠ 0)
  let top := (used.map fun e => e.1 + 1).foldl max 0
  if bits h 31 16 ≠ 0 ∨ h / 2 ^ 128 ≠ 0 ∨ 256 < nm ∨ top ≠ nm ∨ gs.any (fun g => g.2 &&& ~~~set ≠ 0)
      ∨ used.any fun e => decide (e.2 % 128 ≠ 0) || decide (e.2 < 132672) then none
  else
    let ms := used.map fun e => (e.1, st.meshAt (a + e.2) set)
    if ms.any fun e => e.2.isNone then none
    else some (bits h 15 0, { set := set, groups := gs.filter fun g => g.2 ≠ 0, meshes := ms.filterMap fun e => e.2.map fun m => (e.1, m), evhdr := bits h 127 64 })

/-- DOMSET: one domain's tables created or replaced (R367). -/
def execDomset (st : State) : Ans :=
  .next (st.ctlOpAt 8 true fun c =>
    if c.arg0 ≠ 0 ∨ 2 ^ 33 ≤ c.arg.toNat then st.ctlDone c 2
    else match st.domainImage (c.arg.toNat * 128) with
      | some (d, x) => ({ st with domains := mset st.domains d x }).ctlDone c 0
      | none => st.ctlDone c 2)

/-- DOMCLR: a domain's tables removed, while no context of it exists (R365). -/
def execDomclr (st : State) : Ans :=
  .next (st.ctlOpAt 9 true fun c =>
    if 65536 ≤ c.arg0 ∨ c.arg ≠ 0 then st.ctlDone c 2
    else if (st.ctxOfDomain c.arg0).isSome then st.ctlDone c 3
    else if (mget st.domains c.arg0).isNone then st.ctlDone c 14
    else ({ st with domains := merase st.domains c.arg0 }).ctlDone c 0)

/-- PEERSET: a dead-peer bit set (R231, R232). -/
def execPeerset (st : State) : Ans :=
  .next (st.ctlOpAt 10 true fun c => if 4096 ≤ c.arg0 ∨ c.arg ≠ 0 then st.ctlDone c 2 else (st.setDead c.arg0).ctlDone c 0)

/-- PEERCLR: a dead-peer bit cleared (R231). -/
def execPeerclr (st : State) : Ans :=
  .next (st.ctlOpAt 11 true fun c =>
    if 4096 ≤ c.arg0 ∨ c.arg ≠ 0 then st.ctlDone c 2 else ({ st with dead := st.dead &&& ~~~(BitVec.ofNat 4096 (2 ^ c.arg0)) }).ctlDone c 0)

/-- PEERTMO: the dead-peer timeout set (R231). -/
def execPeertmo (st : State) : Ans :=
  .next (st.ctlOpAt 12 true fun c =>
    let v := c.arg.toNat
    if c.arg0 ≠ 0 ∨ v < 100 ∨ 1000000 < v then st.ctlDone c 2 else ({ st with peertmo := v }).ctlDone c 0)

/-- DEVNO: the fabric device number set, while no context exists (R215). -/
def execDevno (st : State) : Ans :=
  .next (st.ctlOpAt 13 true fun c =>
    if 4096 ≤ c.arg0 ∨ c.arg ≠ 0 then st.ctlDone c 2 else if st.ctxs ≠ [] then st.ctlDone c 3 else ({ st with devno := c.arg0 }).ctlDone c 0)

/-! Units (R15, R415, R416). -/

/-- The pipe a location word names: 64 × core + pipe; a word with THREAD, SLOT or a reserved bit set, or more than 32 bits, is malformed (R14). -/
def pipeOfLoc (v : Nat) : Nat ⊕ Nat :=
  let cl := bits v 27 18
  if 2 ^ 32 ≤ v ∨ bits v 9 0 ≠ 0 then .inl 2
  else if 672 ≤ cl ∨ bits v 31 28 ≠ clusterDie cl then .inl 14
  else .inr ((4 * cl + bits v 17 16) * 64 + bits v 15 14 * 16 + bits v 13 10)

/-- A pipe has resident groups (R15): on it, or of a workgroup that is being saved or restored there. -/
def State.pipeBusy (st : State) (p : Nat) : Bool :=
  (st.groups.any fun e => decide (gCore e.1 = p / 64) && decide (e.1 % 128 / 2 = p % 64))
    || st.workgroups.any fun e => e.2.holds && !e.2.saved.isEmpty && decide (e.2.core = p / 64) && e.2.slots.any fun s => decide (s / 2 = p % 64)

/-- UNITRET: a pipe retired once its resident groups have left it (R15). -/
def execUnitret (st : State) : Ans :=
  .next (st.ctlOpAt 14 true fun c =>
    if c.arg0 ≠ 0 then st.ctlDone c 2
    else match pipeOfLoc c.arg.toNat with
      | .inl k => st.ctlDone c k
      | .inr p =>
        if p ∈ st.retiredPipes then st.ctlDone c (if c.phase = 0 then 3 else 0)
        else if st.pipeBusy p then ({ st with retiring := if p ∈ st.retiring then st.retiring else st.retiring ++ [p] }).ctlPhase { c with phase := 1 }
        else ({ st with retiring := st.retiring.filter fun q => decide (q ≠ p), retiredPipes := st.retiredPipes ++ [p] }).ctlDone c 0)

/-- UNITRST: a retired pipe tested and restored; `pass` is the firmware test's result (R365). -/
def execUnitrst (pass : Bool) (st : State) : Ans :=
  .next (st.ctlOpAt 15 true fun c =>
    if c.arg0 ≠ 0 then st.ctlDone c 2
    else match pipeOfLoc c.arg.toNat with
      | .inl k => st.ctlDone c k
      | .inr p =>
        if p ∉ st.retiredPipes then st.ctlDone c 3
        else if !pass then st.ctlDone c 4
        else ({ st with retiredPipes := st.retiredPipes.filter fun q => decide (q ≠ p) }).ctlDone c 0)

/-- The lines of a B-die's stacks (R11). -/
def stackLines (die : Nat) : List Nat := (List.range 4).flatMap fun j => (List.range (2 ^ 29)).map fun i => (4 * (die - 5) + j) * 2 ^ 36 + 128 * i

/-- DIERST: a fenced die tested and restored; a B-die whose stacks had not entered self-refresh comes back with every line poisoned (R416). -/
def execDierst (pass : Bool) (st : State) : Ans :=
  .next (st.ctlOpAt 16 true fun c =>
    if c.arg0 = 0 ∨ 8 < c.arg0 ∨ c.arg ≠ 0 then st.ctlDone c 2
    else
      let d := c.arg0
      if (st.die d).state ≠ .fenced then st.ctlDone c 3
      else if !pass then st.ctlDone c 4
      else
        let bad := if 5 ≤ d ∧ !(st.die d).selfRefresh then (stackLines d).filter fun u => !(decide (u ∈ st.poisoned)) else []
        ((({ st with poisoned := bad ++ st.poisoned }).scramble (flatDie d 0) (dieSpace d)).updDie d fun x => { x with state := .up, acked := false, selfRefresh := false, l2 := [] }).ctlDone c 0)

/-! Device time (R449, R450). -/

/-- PTP_MESSAGE: a message of the master of the clock's domain (`ptpDomain`; log entry 100), and the offset of device time from it in ns: an offset of at most 1 ms is slewed away, a larger one corrected in one
step, with a pinned TIMESTEP record (R449, R450). -/
def execPtpMessage (offset : Int) (st : State) : Ans :=
  let st := { st with ptpLocked := true, ptpSince := st.clock }
  .next (if -1000000 ≤ offset ∧ offset ≤ 1000000 then { st with ptpSlew := -offset }
    else
      let old := st.tai
      ({ st with tai := (((old : Int) - offset) % 2 ^ 64).toNat, ptpSlew := 0 }).trace 0 8 none 0 old)

/-- PTP_MASTER_TIMEOUT: 10 s without a master: the clock runs free and records are UNLOCKED (R450). -/
def execPtpMasterTimeout (st : State) : Ans :=
  .next (if st.ptpSince + 10 * 940000000 ≤ st.clock then { st with ptpLocked := false, ptpSlew := 0 } else st)

/-! Power states (R362) and throttling (R64, R90). -/

/-- POWER_STATE_ENTRY: a device enters the deepest state whose condition holds and whose exit latency both ports tolerate; P3 with the whole package (R362). -/
def execPowerStateEntry (dev : Nat) (st : State) : Ans :=
  .next (if devCount st.mode ≤ dev then st else
    let p := st.deepest dev
    if p = 3 then { st with power := (List.range (devCount st.mode)).map fun d => (d, 3) }
    else if mgetD st.power dev 0 < p then { st with power := mset st.power dev p } else st)

/-- POWER_WAKE: a store to a WAITM line, a counter update, a fabric arrival or a hub-core interrupt returns a device from P1 to P0; the deeper states are left by a
command, a lowered LTOL and a management request (R362). -/
def execPowerWake (dev : Nat) (st : State) : Ans :=
  .next (if mgetD st.power dev 0 = 1 then { st with power := merase st.power dev, idleFor := merase st.idleFor dev } else st)

/-- THROTTLE_START: from here only executed cycles count (R64). -/
def execThrottleStart (st : State) : Ans := .next { st with throttled := true }
/-- THROTTLE_END: every core cycle counts again (R90). -/
def execThrottleEnd (st : State) : Ans := .next { st with throttled := false }

end Sys2Proof.Machine
end

