-- ==== Sys2Proof/Machine/Faults.lean ====
section
/-! DEFINITION. Errors and lost dies (R413 to R417): error events with their windows and retirement, the patrol scrubber, and the quiescing and fencing of a
die with what each of its users then takes. -/

namespace Sys2Proof.Machine

/-! A context's fault without a group of its own (R412). -/

/-- The context's fault raised by the hub (R417): issue stops, queued work is discarded, a pinned FAULT record with the TINFO of its cause, and a signal. -/
def State.faultCtx (st : State) (c die loc c1 c2 info : Nat) : State :=
  let st := (st.discardQueued c).updCtx c fun x => { x with state := .faulted }
  ({ st with convs := st.convs.filter (fun v => decide (v.ctx ≠ c)), signals := st.signals ++ [c] }).faultRec die c loc c1 c2 info

/-! The sequence of a lost die (R416, R417). -/

/-- A die marked quiescing: it stops issue, and accesses to its memory are held (R416). A B-die's stacks are in self-refresh already where its device is in P2
(R22, R362). The hub die is lost at once, and what the package still does is the security block's and the management port's (log entry 102). -/
def State.loseDie (st : State) (die : Nat) : State :=
  if die = 0 then st.updDie 0 fun d => { d with state := .fenced }
  else if 1 ≤ die ∧ die ≤ 8 ∧ (st.die die).state = .up then
    st.updDie die fun d => { d with state := .quiescing, acked := false, quietAt := st.hubcyc
                                    selfRefresh := !isMdie die && decide (2 ≤ mgetD st.power (dieDev st.mode die) 0) }
  else st

/-- DIE_LOSS: a fatal error, a link failure, an over-temperature trip or a supply fault (R416). -/
def execDieLoss (die : Nat) (st : State) : Ans := .next (st.loseDie die)

/-- DIE_LOST with a die's number (R407). -/
def dieLost (die : Nat) : Trap := { cause := .dieLost, detail := die }

/-- TINFO of DIE_LOST where no stream of a group has raised it: location word 0 and the die's number (R407, R452). -/
def lostInfo (die : Nat) : Nat := die * 2 ^ 33

/-- The accesses of every group that were held for a lost die's memory end (R416): the access is gone, and its group takes DIE_LOST. -/
def State.failHeld (st : State) (die : Nat) : State :=
  st.groups.foldl (fun st e =>
    let bad := e.2.memq.filter fun a => a.checked && a.lines.any fun l => !l.done && !l.spilled && decide (die ∈ st.ownerDies l.pa)
    bad.foldl (fun st a =>
      let low := (a.lines.find? fun l => !l.done && decide (die ∈ st.ownerDies l.pa)).map (·.va)
      (st.updGroup e.1 fun g => g.forget a).defer e.1 { dieLost die with addr := low.getD 0 }) st) st

/-- Waits of other groups on words of a lost die's memory end in DIE_LOST (R417). -/
def State.failWaits (st : State) (die : Nat) : State :=
  let on := fun (s : Split) => match s.wait with
    | .waitm _ pa _ => decide (die ∈ st.ownerDies pa)
    | _ => false
  st.groups.foldl (fun st e =>
    let here : List (Nat × Split) := e.2.splits ++ e.2.handler.toList.map fun s => (5, s)
    (here.filter fun p => on p.2).foldl (fun st p => st.waiterTrap e.1 false p.1 (dieLost die)) st) st

/-- A grid that holds a lost workgroup is broken (R417): its unplaced workgroups go, a pinned FAULT record, and its GBAR and JOINC waiters take
BARRIER_BROKEN, those of a saved workgroup once it is restored. -/
def State.breakGrid (st : State) (gk die : Nat) : State :=
  match mget st.grids gk with
  | none => st
  | some g =>
    if g.broken then st else
    let st := (st.updGrid gk fun x => { x with broken := true, ranges := [], gbar := [], expired := false }).faultRec 0 g.ctx 0 14 0 (lostInfo die)
    let broken := fun (d : Nat) => ({ cause := .barrierBroken, detail := d } : Trap)
    let mine := st.groups.filter fun e => decide (gridKey (st.wgOf e.2).ctx (st.wgOf e.2).grid = gk)
    let slots := fun (g : Group) (p : SWait → Bool) =>
      ((g.splits ++ g.handler.toList.map fun s => (5, s)).filter fun (x : Nat × Split) => p x.2.wait).map fun (x : Nat × Split) => x.1
    let st := mine.foldl (fun st e => (slots e.2 fun w => decide (w = .gbar)).foldl (fun st i => st.waiterTrap e.1 false i (broken 1)) st) st
    let one := fun (d : Nat) (q : Group) (i : Nat) =>
      let t : Pend := { trap := broken d, kind := .waiter, slot := i }
      ({ q with pend := q.pend ++ [t] }).endWait t
    let saved := fun (st : State) (key d : Nat) (p : SWait → Bool) =>
      st.updWg key fun w => { w with saved := mmap w.saved fun _ q => (slots q p).foldl (one d) q }
    let st := (st.workgroups.filter fun e => decide (gridKey e.2.ctx e.2.grid = gk)).foldl (fun st e => saved st e.1 1 fun w => decide (w = .gbar)) st
    match g.parent with
    | none => st
    | some w =>
      let join := fun (x : SWait) => decide (x = .joinAll) || decide (x = .joinOne g.gid)
      saved ((st.groupsOf w).foldl (fun st e => (slots e.2 join).foldl (fun st i => st.waiterTrap e.1 false i (broken 2)) st) st) w 2 join

/-- The workgroups on a lost die are lost with everything of theirs there (R417). -/
def State.loseWgs (st : State) (die : Nat) : State :=
  let lost := st.workgroups.filter fun e => e.2.holds && decide (clusterDie (e.2.core / 4) = die)
  let gone := (st.groups.filter fun e => decide (gDie e.1 = die)).map (·.1)
  let out := fun (i : Nat) => decide (i ∈ gone)
  let st := { st with
    workgroups := mmap st.workgroups fun k w => if lost.any fun e => decide (e.1 = k) then { w with state := .lost, slots := [], saved := [] } else w
    groups := st.groups.filter fun e => !out e.1
    launches := st.launches.filter fun r => !out r.group
    convs := st.convs.filter fun v => !out v.group
    spillways := mmap st.spillways fun _ l => l.filter fun e => !out e.group
    clusters := st.clusters.filter fun e => decide (clusterDie e.1 ≠ die)
    cores := st.cores.filter fun e => decide (clusterDie (e.1 / 4) ≠ die) }
  let st := lost.foldl (fun st e => st.breakGrid (gridKey e.2.ctx e.2.grid) die) st
  let roots := ((lost.filter fun e => (st.gridOf e.2).root).map fun e => e.2.ctx).eraseDups
  roots.foldl (fun st c => st.faultCtx c 0 0 14 0 (lostInfo die)) st

/-- Link fencing (R416): the directory forgets the die; `lost` names lines it held exclusively and did not write back, which are poisoned; then every held
access and every waiter takes its trap (R417). -/
def State.fence (st : State) (die : Nat) (lost : List Nat) : State :=
  let dirty := lost.filter fun l => (st.dirOf l).excl && (st.dirOf l).dies.getLsbD die && (mget (st.die die).l2 l).any fun x => x.dirty
  let st := dirty.foldl State.poisonCached st
  let held := (st.dir.filter fun e => e.2.dies.getLsbD die || e.2.trs.getLsbD die).map (·.1)
  let st := held.foldl (fun (s : State) l => s.updDir l fun e =>
    { e with dies := e.dies &&& ~~~(dieBit die), excl := e.excl && !e.dies.getLsbD die, trs := e.trs &&& ~~~(dieBit die) }) st
  let st := ({ st with tlb := st.tlb.filter fun e => decide (e.place.home ≠ die) }).updDie die fun d => { d with state := .fenced, l2 := [] }
  let st : State := ((st.failHeld die).failWaits die).loseWgs die
  if st.mode = 2 then ((st.ctxsOf (die - 1)).filter fun e => decide (e.2.state ≠ .faulted)).foldl (fun s e => s.faultCtx e.1 0 0 14 0 (lostInfo die)) st else st

/-- DIE_QUIESCE_ACK: the die has written back what it could reach, put its stacks in self-refresh if it is a B-die, and acknowledges; it is fenced (R416). -/
def execDieQuiesceAck (die : Nat) (lost : List Nat) (st : State) : Ans :=
  .next (if (st.die die).state = .quiescing then (st.updDie die fun d => { d with acked := true, selfRefresh := !isMdie die }).fence die lost else st)

/-- DIE_QUIESCE_TIMEOUT: 10 ms of hub cycles without acknowledgement: fencing is forced. `refresh` says whether its stacks had entered self-refresh. -/
def execDieQuiesceTimeout (die : Nat) (lost : List Nat) (refresh : Bool) (st : State) : Ans :=
  .next (if (st.die die).state = .quiescing ∧ (st.die die).quietAt + 18800000 ≤ st.hubcyc then
      (st.updDie die fun d => { d with selfRefresh := d.selfRefresh || (refresh && !isMdie die) }).fence die lost
    else st)

/-! Errors (R413 to R415). -/

/-- What an error is found in (R413), and where. -/
inductive ErrAt where
  | hbm (row a : Nat)                     -- an HBM4E row, the line at a flat address
  | way (die way line : Nat)              -- a way of an L2 (die 1 to 8) or of the L3 (0)
  | sram (row a : Nat)                    -- a bonded SRAM row: a scratchpad word, an accumulator cell, Weir flow state
  | reg (gid key : Nat)                   -- a register of a group, by its poison key
  | queue (gid q i : Nat) (ts : Nat)      -- entry i of a queue of a group: 0 to 3 an LQ, 4 SQ, 5 XQ, 6 and 7 the write-back buffers; the threads' words of a mask
  | copy (core way line : Nat)            -- a way of an L1
  | code (core way line : Nat)            -- a way of an instruction cache
  | entry (die ctx page : Nat)            -- an entry of a translation cache
  | tag (die : Nat)                       -- L2 or L3 tags, the directory, distributor or sequencer state
  | lane (link lane : Nat)                -- a lane of a link
  deriving DecidableEq, Repr

/-- The event's kind and numbers as an error place; none for a kind that names nothing. -/
def errAt (kind x y z : Nat) : Option ErrAt :=
  match kind with
  | 0 => some (.hbm x y)
  | 1 => some (.way x y z)
  | 2 => some (.sram x y)
  | 3 => some (.reg x y)
  | 4 => some (.queue x (y % 8) (y / 8) z)
  | 5 => some (if y % 16 < 8 then .copy x (y % 8) z else .code x (y % 8) z)
  | 6 => some (.tag x)
  | 7 => some (.lane x y)
  | 8 => some (.entry x y z)
  | _ => none

/-- The unit whose events are counted (R415): HBM4E rows, cache ways of a set, SRAM rows, pipes and link lanes. Tags and translation caches are none that can be
retired. -/
def ErrAt.unit (e : ErrAt) : Nat :=
  match e with
  | .hbm r _ => 8 * r
  | .way d w l => 8 * ((d * 16 + w) * 2 ^ 24 + l / 128 % l2Sets d) + 1
  | .sram r _ => 8 * r + 2
  | .reg g _ | .queue g _ _ _ => 8 * (gCore g * 64 + g % 128 / 2) + 3
  | .copy c w l => 8 * ((c * 8 + w) * 256 + l / 128 % 256) + 4
  | .code c w l => 8 * (((4096 + c) * 8 + w) * 256 + l / 128 % 64) + 4
  | .entry d _ _ => 8 * d + 7
  | .tag d => 8 * d + 5
  | .lane n l => 8 * (n * 64 + l) + 6

/-- The device physical address bits [39:16] of the page that holds a flat HBM4E address (R346). -/
def State.pageOf (st : State) (a : Nat) : Nat :=
  let stack := a / 2 ^ 36
  let off := a % 2 ^ 36
  let dev := if st.mode = 0 then 0 else if st.mode = 1 then stack / 8 else if off / 2 ^ 35 = 1 then stack / 4 else 4 + stack / 4
  let ss := devStacks st.mode dev
  let o := if st.mode = 2 then off % 2 ^ 35 else off
  (o / 4096 * ss.length + (ss.findIdx fun s => decide (s = stack))) * 4096 / 65536

/-- A bonded SRAM row at a flat address belongs to a core: its scratchpad or private slices, its cluster's CLUS or accumulator memory, its die's DIE scratchpad. -/
def rowHas (a core : Nat) : Bool :=
  if a < 2 ^ 61 then decide (clusterDie (core / 4) = (a - 2 ^ 60) / 2 ^ 32)
  else if a < 2 ^ 62 then decide (core / 4 = (a - 2 ^ 61) / 2 ^ 24)
  else if a < 2 ^ 63 then decide (core = (a - 2 ^ 62) / 2 ^ 20)
  else if a < 2 ^ 64 then decide (core = (a - 2 ^ 63) / 2 ^ 20)
  else decide (2 ^ 66 ≤ a) && decide (core / 4 = (a - 2 ^ 66) / 2 ^ 20)

/-- No core that a row belongs to holds a group or a workgroup: its core is empty (R415). -/
def State.rowEmpty (st : State) (a : Nat) : Bool :=
  (st.groups.all fun e => !rowHas a (gCore e.1)) && st.workgroups.all fun e => !(e.2.holds && rowHas a e.2.core)

/-- The retirement of a unit whose fault is lasting (R415): an SRAM row and a pipe wait for what stands there to leave; an instruction cache is taken as 64 sets of 8
ways (log entry 58). -/
def State.retire (st : State) (e : ErrAt) : State :=
  match e with
  | .hbm _ a =>
    if st.spareRows < Config.spareHbmRows then { st with spareRows := st.spareRows + 1, retiredHbm := st.retiredHbm + 1 }
    else
      let p := st.pageOf a
      if p ∈ st.retiredPages ∨ 8192 ≤ st.retiredPages.length then st else { st with retiredPages := st.retiredPages ++ [p] }
  | .way 0 w l =>
    let set := l / 128 % l2Sets 0
    let st := { st with l3 := st.l3.filter fun e => decide (e.1 ≠ lineOf l) }
    if (0, set, w) ∈ st.retiredWays then st else { st with retiredWays := st.retiredWays ++ [(0, set, w)] }
  | .way d w l =>
    let set := l / 128 % l2Sets d
    let here := ((st.die d).l2.filter fun x => decide (x.1 / 128 % l2Sets d = set) && decide (x.2.way = w)).map (·.1)
    let st := here.foldl (fun (s : State) x => (s.giveUp d x).updDir x fun e => { e with dies := e.dies &&& ~~~(dieBit d), excl := false }) st
    if (d, set, w) ∈ st.retiredWays then st else { st with retiredWays := st.retiredWays ++ [(d, set, w)] }
  | .sram _ a => { st with rowsDue := st.rowsDue ++ [a] }
  | .reg g _ | .queue g _ _ _ =>
    let p := gCore g * 64 + g % 128 / 2
    if p ∈ st.retiredPipes ∨ p ∈ st.retiring then st else { st with retiring := st.retiring ++ [p] }
  | .lane _ _ => { st with laneDrops := st.laneDrops + 1 }
  | .copy c w l =>
    let set := l / 128 % 256
    let st := st.updCore c fun k => { k with l1 := k.l1.filter fun x => !(decide (x.1 / 128 % 256 = set) && decide (x.2.way = w)) }
    if (16 + c, set, w) ∈ st.retiredWays then st else { st with retiredWays := st.retiredWays ++ [(16 + c, set, w)] }
  | .code c w l =>
    let set := l / 128 % 64
    let st := st.updCore c fun k => { k with icode := k.icode.filter fun e => decide (lineOf (e.1 % 2 ^ 52) ≠ lineOf l) }
    if (4096 + c, set, w) ∈ st.retiredWays then st else { st with retiredWays := st.retiredWays ++ [(4096 + c, set, w)] }
  | .entry _ _ _ | .tag _ => st

/-- An error counted in its unit's window, the unit retired where the count makes the fault lasting (R415). -/
def State.countError (st : State) (e : ErrAt) : State :=
  let u := e.unit
  let evs := st.errEvents ++ [(u, st.clock)]
  let n := (evs.filter fun x => decide (x.1 = u) && decide (st.clock < x.2 + 940000 * st.errWindow)).length
  let st := { st with errEvents := evs }
  if st.errThresh ≤ n then st.retire e else st

/-- A Weir slot halts on an uncorrectable error of its flow state; a kernel of its that runs ends with FLOW_ECC (R391, R413). -/
def State.haltSlot (st : State) (port slot : Nat) : State :=
  let st := st.updWeir port fun w => { w with slots := mupd w.slots slot fun s => { s with halted := true } }
  match (mgetD st.weirs port {}).run, mget (mgetD st.weirs port {}).slots slot with
  | some r, some s => if r.slot = slot then (st.endWeir port s r (.err 8 0)).getD st else st
  | _, _ => st

/-- Entry i of a list of queue entries poisoned in some threads' words. -/
def poisonEntry (q : List QEntry) (i ts : Nat) : List QEntry :=
  q.zipIdx.map fun e => if e.2 = i then { e.1 with poison := e.1.poison ||| BitVec.ofNat 32 ts, unit := 1 } else e.1

/-- Entry i of a write-back buffer poisoned. -/
def poisonWb (q : List Wb) (i : Nat) : List Wb := q.zipIdx.map fun e => if e.2 = i then { e.1 with poison := true, unit := 1 } else e.1

/-- What an uncorrectable error leaves (R413): poison, a copy dropped, a halted Weir slot, or a lost die. -/
def State.spoil (st : State) (e : ErrAt) : State :=
  match e with
  | .hbm _ a => st.poison (lineOf a)
  | .way _ _ a => st.poisonCached (lineOf a)
  | .sram _ a =>
    if 2 ^ 65 ≤ a ∧ a < 2 ^ 66 then
      let port := (a - 2 ^ 65) / 2 ^ 20
      let off := (a - 2 ^ 65) % 2 ^ 20
      let mine := (mgetD st.weirs port {}).slots.filter fun e => decide (e.2.base ≤ off) && decide (off < e.2.base + e.2.flowsz)
      mine.foldl (fun st e => st.haltSlot port e.1) (st.poison a)
    else st.poison a
  | .reg g k => st.updGroup g fun g => if k ∈ g.poison then g else { g with poison := k :: g.poison }
  | .queue g n i ts => st.updGroup g fun g =>
    if n < 4 then g.putLq n (poisonEntry (g.getLq n) i ts)
    else if n = 4 then { g with sq := poisonEntry g.sq i ts }
    else if n = 5 then { g with xq := poisonEntry g.xq i ts }
    else if n = 6 then { g with wbC := poisonWb g.wbC i }
    else { g with wbA := poisonWb g.wbA i }
  | .copy c _ l => st.updCore c fun k => { k with l1 := merase k.l1 (lineOf l) }
  | .code c _ l => st.updCore c fun k => { k with icode := k.icode.filter fun e => decide (lineOf (e.1 % 2 ^ 52) ≠ lineOf l) }
  | .entry d c p => { st with tlb := st.tlb.filter fun e => !(decide (e.place.home = d) && decide (e.ctx = c) && decide (e.page = p)) }
  | .tag d => st.loseDie d
  | .lane _ _ => st

/-- ECC_EVENT: an error found on a unit, corrected or not, counted against its window (R413 to R415). -/
def execEccEvent (kind x y z : Nat) (uncorrected : Bool) (st : State) : Ans :=
  .next (match errAt kind x y z with
    | none => st
    | some e => (if uncorrected then st.spoil e else st).countError e)

/-- PATROL_SCRUB: a line read and, where it can be, corrected: nothing a program can read changes (R413); what the scrubber finds is an ECC_EVENT. -/
def execPatrolScrub (_line : Nat) (st : State) : Ans := .next st

/-- Pipes that wait to be retired are, once their resident groups have left them, and SRAM rows are remapped once their core is empty (R15, R415); as time passes. -/
def State.retireFree (st : State) : State :=
  { st with retiring := st.retiring.filter st.pipeBusy, retiredPipes := st.retiredPipes ++ st.retiring.filter fun p => !st.pipeBusy p
            rowsDue := st.rowsDue.filter fun a => !st.rowEmpty a, retiredRows := st.retiredRows + (st.rowsDue.filter st.rowEmpty).length }

end Sys2Proof.Machine
end

