-- ==== Sys2Proof/Machine/Reel.lean ====
section
/-! DEFINITION. The reel (R421, R428 to R432): a take's placement in the ring, what gives way to it, and the drain. -/

namespace Sys2Proof.Machine

/-! Age (R421). -/

/-- A recorder of the hub: its cycles are hub cycles, two to a core cycle (R419, R420). -/
def hubRecorder (rid : Nat) : Bool := decide (672 ≤ rid) && !(decide (711 ≤ rid) && decide (rid ≤ 718))

/-- TAKE_AGE_EXPIRY: a recorder's open take is 2^20 cycles old (2^21 hub cycles) and is closed (R421). -/
def execTakeAgeExpiry (ctx rid : Nat) (st : State) : Ans :=
  .next (match mget (st.ctx ctx).takes rid with
    | none => st
    | some t => if t.cycle + (if hubRecorder rid then 2 ^ 21 else 2 ^ 20) ≤ st.takeCycle rid then st.closeTake ctx rid 0 else st)

/-! Placing (R429 to R431). -/

/-- give_up_oldest (R431); none where nothing is left to give up. -/
def Reel.giveUpOldest (r : Reel) : Option Reel :=
  match r.takes with
  | [] => none
  | (start, n, _) :: rest =>
    let r := { r with takes := rest, op := start + n }
    some (if r.dp ≤ start then { r with lost := r.lost + 1, dp := start + n } else r)

/-- Room made for `n` bytes in a reel of `z` (R429): none where LOSSLESS must wait for the drain. -/
def Reel.makeRoom (fuel : Nat) (r : Reel) (lossless : Bool) (z n : Nat) : Option Reel :=
  if r.wp + n ≤ r.dp + z then some r
  else match fuel with
    | 0 => none
    | k + 1 => if lossless then none else r.giveUpOldest.bind fun r => Reel.makeRoom k r lossless z n

/-- The takes of the reel's list that stand whole, and OP at the oldest (R428): a drained take that is overwritten goes. -/
def Reel.trim (r : Reel) (z : Nat) : Reel :=
  let ts := r.takes.filter fun t => decide (r.wp ≤ t.1 + z)
  { r with takes := ts, op := ((ts.head?.map (·.1)).getD r.wp) }

/-- A reel after a take of `n` bytes is placed at WP (R428, R429). -/
def Reel.place (r : Reel) (z rid n : Nat) : Reel :=
  ({ r with wp := r.wp + n, takes := r.takes ++ [(r.wp, n, rid)], slate := if rid = 0xFFFE then r.wp else r.slate } : Reel).trim z

/-- place(t, n) (R429) on a device: none where it must wait. No cache holds a line of the reel, which no page reaches (R20). -/
def State.placeBytes (st : State) (dev rid n len v : Nat) : Option State :=
  let r := st.reel dev
  (r.makeRoom r.takes.length (decide (st.reelMode = 1)) st.reelZ n).map fun r =>
    (st.hostWrite len (st.reelBase + r.wp % st.reelZ) v dev).updReel dev fun _ => r.place st.reelZ rid n

/-- The pad take that fills the reel's end (R429): the header fields no rule gives are free values. -/
def State.padTake (st : State) (n : Nat) : State × Nat :=
  let (v, st) := st.freeValue
  (st, sealTake (takeHead 0xFFFF n v (v / 2 ^ 32) (v / 2 ^ 96) (v / 2 ^ 120 % 8) (v / 2 ^ 128) (v / 2 ^ 160) (v / 2 ^ 168) 0) 0 (n - 32))

/-- A pad take placed where a take of `n` bytes would span the reel's end; none where it must wait. -/
def State.padEnd (st : State) (dev n : Nat) : Option State :=
  let gap := st.reelZ - (st.reel dev).wp % st.reelZ
  if gap < n then (let p := st.padTake gap; p.1.placeBytes dev 0xFFFF gap gap p.2) else some st

/-- A take of `len` bytes put into a device's reel, and whether it went in; a pad that went in stays (R429). -/
def State.putReel (st : State) (dev rid len v : Nat) : State × Bool :=
  let n := up128 len
  match st.padEnd dev n with
  | none => (st, false)
  | some st => match st.placeBytes dev rid n len v with
    | none => (st, false)
    | some st => (st, true)

/-- The oldest closed take of a device placed in its reel: it leaves the closed takes where it went in (R429). -/
def State.placeNext (st : State) (dev : Nat) : State :=
  match st.nextTake dev with
  | none => st
  | some t => match st.putReel dev t.rid t.len t.bytes with
    | (st, true) => { st with closedTakes := st.closedTakes.erase t }
    | (st, false) => st

/-- REEL_PLACE: the hub writes the oldest closed take of each device into that device's reel; in LOSSLESS mode without room it stays, and the device's recorders
stall (R429, R430). -/
def execReelPlace (st : State) : Ans := .next ((List.range (devCount st.mode)).foldl State.placeNext st)

/-! The drain (R432). -/

/-- Bytes of a device's reel copied into the drain ring, one by one from a count on: to the BPM, or to host memory on the HOST path. -/
def State.ringWrite (st : State) (dev src k n : Nat) : State :=
  match n with
  | 0 => st
  | m + 1 =>
    let b := st.read (st.flatPa dev (st.reelBase + src % st.reelZ)) 1
    let off := st.drBase + k % st.drSize
    let st := if st.reelDrain = 1 then st.writeAll (flatBpm off) 1 b else st.hostStore (2 ^ 56 + off % 2 ^ 55) 1 b
    State.ringWrite st dev (src + 1) (k + 1) m

/-- A device's reel holds a take that has not been drained: where it starts and the bytes it occupies. -/
def State.undrained (st : State) (dev : Nat) : Option (Nat × Nat) :=
  ((st.reel dev).takes.find? fun t => decide (t.1 = (st.reel dev).dp)).map fun t => (t.1, t.2.1)

/-- The device whose reel the drain turns to: one with a take to drain, which of several is free (log entry 7). -/
def State.drainDev (st : State) : Option Nat :=
  let ds := (List.range (devCount st.mode)).filter fun d => (st.undrained d).isSome
  ds[Config.freeNat st.free % max 1 ds.length]?

/-- DRAIN_COPY: the next take of a device's reel copied unchanged into the drain ring where it has room; then DRPROD and that reel's DP rise (R432). -/
def execDrainCopy (st : State) : Ans :=
  .next (match st.drainDev.bind fun d => (st.undrained d).map fun t => (d, t) with
    | none => st
    | some (dev, start, n) =>
      if st.reelDrain = 0 ∨ st.drSize = 0 ∨ st.drSize + st.drCons < st.drProd + n then st
      else
        let st := ({ st with free := st.free + 1 } : State).ringWrite dev start st.drProd n
        { st with drProd := st.drProd + n }.updReel dev fun r => { r with dp := r.dp + n })

end Sys2Proof.Machine
end

