-- ==== Sys2Proof/Machine/Replay.lean ====
section
/-! DEFINITION. Replay (R435 to R441): the takes read back from the reel and checked, the commands of REPCMD, cut points, divergence and the log's end. -/

namespace Sys2Proof.Machine

/-! Takes in the reel (R420, R436). -/

/-- A take as the reel holds it: its header's fields, whether its CRC is right, and its records. -/
structure ReelTake where
  rid : Nat
  len : Nat
  tidx : Nat
  epoch : Nat
  ctx : Nat
  ok : Bool
  words : List Nat
  deriving DecidableEq, Repr

/-- A recorder identifier of R419, the slate's among them. -/
def isRid (r : Nat) : Bool := decide (r ≤ 718) || decide (r = 0xFFFE)

/-- The take at an offset of a device's reel; none where no header stands there. -/
def State.takeAt (st : State) (dev off : Nat) : Option ReelTake :=
  let h := st.devRead 32 (st.reelBase + off) dev
  let rid := bits h 15 0
  let len := bits h 31 16
  if (!isRid rid && decide (rid ≠ 0xFFFF)) || decide (len < 32) || decide (4096 < len) || decide (len % 8 ≠ 0) || decide (st.reelZ < off + len) then none
  else
    let body := st.devRead (len - 32) (st.reelBase + off + 32) dev
    some { rid := rid, len := len, tidx := bits h 63 32, epoch := bits h 191 160, ctx := bits h 199 192
           ok := decide (bits h 255 224 = crc32c (bytesLe 28 h ++ bytesLe (len - 32) body)), words := (List.range ((len - 32) / 8)).map fun i => bits body (64 * i + 63) (64 * i) }

/-- The takes from an offset on, at 128-byte boundaries. -/
def State.scanReel (fuel : Nat) (st : State) (dev off : Nat) : List ReelTake :=
  match fuel with
  | 0 => []
  | k + 1 => match st.takeAt dev off with
    | some t => if t.rid = 0xFFFF then State.scanReel k st dev (off + up128 t.len) else t :: State.scanReel k st dev (off + up128 t.len)
    | none => State.scanReel k st dev (off + 128)

/-- Every take of a device's reel, pads apart (R428, R436 step 2). -/
def State.reelAll (st : State) (dev : Nat) : List ReelTake := st.scanReel (st.reelZ / 128) dev 0

/-- The context that a slate names (R433). -/
def ReelTake.slateCtx (t : ReelTake) : Nat := bits (t.words.headD 0) 39 32

/-- The takes that concern the replay of the context a slate names: those of another context with a slate of its own there, which is replayed together with it, are not
among them (R427; log entry 59). -/
def takesOf (ts : List ReelTake) (src : Nat) : List ReelTake :=
  let others := (ts.filter fun t => decide (t.rid = 0xFFFE) && t.ok && decide (t.slateCtx ≠ src)).map ReelTake.slateCtx
  ts.filter fun t => decide (t.rid ≠ 0xFFFE) && !(decide (t.ctx ∈ others))

/-- A body cut into records (R422). -/
def splitRecs (fuel : Nat) (ws : List Nat) : List (List Nat) :=
  match fuel, ws with
  | k + 1, w :: rest => let n := bits w 59 55; (w :: rest.take n) :: splitRecs k (rest.drop n)
  | _, _ => []

/-- The records of a take. -/
def ReelTake.recs (t : ReelTake) : List (List Nat) := splitRecs t.words.length t.words

/-- The records a unit obeys: padding and MARK are passed over. -/
def ReelTake.obeyed (t : ReelTake) : List (List Nat) := t.recs.filter fun r => decide (r.headD 0 / 2 ^ 60 ≠ 0) && decide (r.headD 0 / 2 ^ 60 ≠ 10)

/-- The take error of a take, 0 for none (R438). -/
def ReelTake.error (t : ReelTake) (epoch ctx : Nat) : Nat :=
  let ty := fun (r : List Nat) => r.headD 0 / 2 ^ 60
  if !t.ok then 0x20 else if t.epoch ≠ epoch then 0x21 else if t.ctx ≠ ctx then 0x22
  else if t.recs.any fun r => decide (11 ≤ ty r) then 0x23
  else if t.recs.any fun r => decide (ty r = 1) && decide (11 ≤ bits (r.headD 0) 54 51) then 0x24 else 0

/-- A recorder's takes loaded from the one it comes to next, as far as they are there and right (R436). -/
def loadRid (ts : List ReelTake) (fuel rid : Nat) (r : Replay) : Replay :=
  match fuel with
  | 0 => r
  | k + 1 =>
    let n := mgetD r.next rid 0
    match ts.find? fun t => decide (t.rid = rid) && decide (t.tidx = n) with
    | none => r
    | some t =>
      if t.error r.epoch r.src ≠ 0 then r
      else loadRid ts k rid { r with logs := mset r.logs rid (mgetD r.logs rid [] ++ t.obeyed.map fun q => (n, q)), next := mset r.next rid (n + 1) }

/-- Every recorder's takes loaded. -/
def loadAll (ts : List ReelTake) (r : Replay) : Replay :=
  ((ts.map (·.rid)).eraseDups.filter fun i => decide (i ≠ 0xFFFE)).foldl (fun r i => loadRid ts ts.length i r) r

/-- The first take that stops ARM: a recorder's first take in error, or takes missing or out of order (R436, R438): code, RID, TIDX. -/
def armError (ts : List ReelTake) (epoch ctx : Nat) : Option (Nat × Nat × Nat) :=
  firstSome (fun i =>
    let mine := ts.filter fun t => decide (t.rid = i)
    match mine with
    | [] => none
    | t :: _ =>
      if t.error epoch ctx ≠ 0 then some (t.error epoch ctx, i, t.tidx)
      else match (mine.zipIdx.find? fun e => decide (e.1.tidx ≠ e.2)) with
        | some e => some (0x26, i, e.2)
        | none => none) ((ts.map (·.rid)).eraseDups.filter fun i => decide (i ≠ 0xFFFE))

/-- The take that a recorder with nothing left comes to next, where it is in error (R438): code, RID, TIDX. -/
def nextError (ts : List ReelTake) (r : Replay) : Option (Nat × Nat × Nat) :=
  firstSome (fun (t : ReelTake) =>
    if t.rid ≠ 0xFFFE ∧ mgetD r.logs t.rid [] = [] ∧ t.tidx = mgetD r.next t.rid 0 ∧ t.error r.epoch r.src ≠ 0 then some (t.error r.epoch r.src, t.rid, t.tidx)
    else none) ts

/-! REPSTAT (R435). -/

/-- The head replay command done: its port reports the word. -/
def State.repDone (st : State) (c : Cmd) (w : Word) : State := ({ st with repQ := st.repQ.tail }).updPort c.port fun q => { q with repstat := w }

/-- The head replay command refused: CODE alone changes. -/
def State.repCode (st : State) (c : Cmd) (code : Nat) : State :=
  st.repDone c (BitVec.ofNat 64 ((st.port c.port).repstat.toNat / 2 ^ 12 * 2 ^ 12 + code))

/-- A replay ends or stands, and the device asserts FREEZE (R436, R438, R439). -/
def State.repStop (st : State) (c state rid tidx code : Nat) : State := (st.repState c state rid tidx code).freeze

/-- The head replay command, where it is one of an OP. -/
def State.repAt (st : State) (op : Nat) (f : Cmd → State) : State :=
  match st.repQ with
  | [] => st
  | c :: _ => if c.op = op then f c else st

/-! ARM (R436). -/

/-- The state of a context area that a restored context came from. -/
def State.imageOf (st : State) (c : Nat) : Option AreaImage := mget st.images (st.ctx c).image

/-- The context's Weir slots loaded as its slate holds them, flow state included (R434, R436). -/
def State.loadWeirs (st : State) (c : Nat) : State :=
  match st.imageOf c with
  | none => st
  | some a => a.weirs.foldl (fun st e =>
      let s := e.2.2.1
      let st := st.updWeir e.1 fun w => { w with slots := mset w.slots e.2.1 s }
      st.writeAll (flatFlow e.1 s.base) s.flowsz e.2.2.2) st

/-- Grant counts of a context's lines start again with an epoch (R422). -/
def State.zeroGrants (st : State) (c : Nat) : State :=
  { st with dir := mmap st.dir fun a e => if e.grants ≠ 0 && st.ctxMaps c a then { e with grants := 0 } else e }

/-- The slate's times put in place (R436 step 3): MAXT and FLOOR of each die of the device. -/
def State.setTimes (st : State) (c : Nat) (slate : ReelTake) : State :=
  (devDies st.mode (st.ctx c).dev).foldl (fun s d =>
    let t := slate.words.getD ((120 - 32 + 4 * (d - 1)) / 8) 0 / (if d % 2 = 1 then 1 else 2 ^ 32) % 2 ^ 24
    s.updDie d fun x => { x with maxT := t, floor := t, passBase := t }) st

/-- ARM: the slate of the epoch found, that of the checkpoint the context was restored from where several stand, each recorder's takes checked, times, Weir slots and logs in place, the level the slate's; the context stays pre-empted
(R436, R438). An
unknown OP is refused here. -/
def execArm (st : State) : Ans :=
  .next (match st.repQ with
    | [] => st
    | c :: _ =>
      if c.op = 0 ∨ 4 < c.op then st.repCode c 15
      else st.repAt 1 fun c =>
        let epoch := c.word.toNat % 2 ^ 32
        match mget st.ctxs c.id with
        | none => st.repCode c 14
        | some x =>
          let live := x.replay.any fun r => decide (r.state ≤ 3)
          if x.state ≠ .preempted ∨ live then st.repCode c 14
          else
            let ts := st.reelAll x.dev
            let slates := ts.filter fun t => decide (t.rid = 0xFFFE) && decide (t.epoch = epoch)
            let own := slates.find? fun t => decide (wordsNat ((t.words.drop 3).take 8) = x.image)
            let none_ : Replay := { epoch := epoch, port := c.port, state := 6 }
            let fail := fun (e : Nat × Nat × Nat) =>
              ((st.updCtx c.id fun x => { x with replay := some none_ }).repDone c 0).repStop c.id 6 e.2.1 e.2.2 e.1
            match (if own.isSome then own else slates.head?) with
            | none => fail (0x25, 0xFFFE, 0)
            | some sl =>
              if !sl.ok then fail (0x20, 0xFFFE, 0)
              else
                let src := sl.slateCtx
                let mine := takesOf ts src
                match armError mine epoch src with
                | some e => fail e
                | none =>
                  let r := loadAll mine { epoch := epoch, src := src, port := c.port, begun := st.clock }
                  let st := (((st.closeTakes c.id 0).setTimes c.id sl).loadWeirs c.id).zeroGrants c.id
                  ((st.updCtx c.id fun x => { x with replay := some r, acnt := [], det := bits (sl.words.headD 0) 47 40 % 4 }).repDone c 0).repState c.id 1 0 0 0)

/-! GO, STOP and THAW (R435, R436, R441). -/

/-- GO: the armed context is resumed, and every unit obeys its log (R436 step 4). -/
def execGo (st : State) : Ans :=
  .next (st.repAt 2 fun c =>
    match mget st.ctxs c.id with
    | none => st.repCode c 14
    | some x =>
      let is := fun (n : Nat) => x.replay.any fun r => decide (r.state = n)
      if c.phase = 0 then
        if is 1 ∧ x.state = .preempted then
          let st := st.updCtx c.id fun x => { x with replay := x.replay.map fun (r : Replay) => { r with begun := st.clock, wait := [] } }
          let st := ((st.resumeStart c.id).repState c.id 2 0 0 0).resumeGo c.id
          { st with repQ := { c with phase := 1 } :: st.repQ.tail }
        else st.repCode c 14
      else if x.state = .resuming ∧ is 2 then st.resumeGo c.id
      else st.repDone c (st.port c.port).repstat)

/-- STOP: an armed, running or standing replay ends, and the device asserts FREEZE (R436 step 5). -/
def execStop (st : State) : Ans :=
  .next (st.repAt 3 fun c =>
    if (st.ctx c.id).replay.any fun r => decide (1 ≤ r.state) && decide (r.state ≤ 3) then
      let t := st.repAtTake c.id
      (st.repDone c (repWord 7 t.1 t.2 0)).repStop c.id 7 t.1 t.2 0
    else st.repCode c 14)

/-- REPLAY_THAW: a replay that stands at a cut point goes on (R435, R441). -/
def execReplayThaw (st : State) : Ans :=
  .next (st.repAt 4 fun c =>
    if (st.ctx c.id).replay.any fun r => decide (r.state = 3) then
      let t := st.repAtTake c.id
      ((st.repDone c (repWord 2 t.1 t.2 0)).repState c.id 2 t.1 t.2 0).thaw
    else st.repCode c 14)

/-! Cut points (R439). -/

/-- The log's first record of each unit: what the unit comes to next. -/
def unitHeads (rid : Nat) (l : List (Nat × List Nat)) : List (Nat × List Nat) :=
  l.foldl (fun hs e => if hs.any fun h => decide (recUnit rid h.2 = recUnit rid e.2) then hs else hs ++ [e]) []

/-- A SYS packet for the model's hub traffic (log entry 22): what it asks, and its numbers. -/
def State.sysPacket (st : State) (dst op daddr len pay : Nat) : Packet :=
  { hdr := mkHdr dst 4 st.devno 0 true true 0 0 len 0 daddr 0 op, pay := pay }

/-- A SYS packet to every other device of a context's domain that asserts FREEZE there (R439, ACT 1). -/
def State.freezePod (st : State) (c : Nat) : State :=
  match (st.ctx c).domain.bind fun d => mget st.domains d with
  | none => st
  | some d => ((List.range 4096).filter fun i => d.set.getLsbD i && decide (i ≠ st.devno)).foldl (fun s i => s.hubSend (s.sysPacket i 8 0 0 0)) st

/-- The armed cut points a replaying recorder has come to (R439): it has obeyed what its log holds of earlier takes, and begins the take each names. -/
def State.cutReached (st : State) (c rid : Nat) : List (Nat × Cut) :=
  match (st.ctx c).replay with
  | none => []
  | some r =>
    if r.state ≠ 2 then []
    else match (mgetD r.logs rid []).head? with
      | none => []
      | some (ti, _) => st.cuts.filter fun k => k.2.en && decide (k.2.rid = rid) && decide (mgetD r.taken rid 0 ≤ k.2.tidx) && decide (k.2.tidx ≤ ti)

/-- What one reached cut point does: the device freezes, the pod freezes, or the named group takes BKPT; a group that is not of the context acts as ACT 0 (R439). -/
def State.cutAct (st : State) (c rid i : Nat) (k : Cut) : State :=
  let gid := rid * 512 + k.group
  let mine : Bool := match mget st.groups gid with
    | some g => decide (st.ctxOf g = c)
    | none => false
  if k.act = 2 ∧ mine then st.postTrap gid { trap := { cause := .bkpt, detail := 2 ^ 20 + i }, kind := .async }
  else (if k.act = 1 then st.freezePod c else st).repStop c 3 rid k.tidx 0

/-- The takes up to a cut point's are begun. -/
def State.beginTake (st : State) (c rid tidx : Nat) : State :=
  st.updCtx c fun x => { x with replay := x.replay.map fun (r : Replay) => { r with taken := mset r.taken rid (max (mgetD r.taken rid 0) (tidx + 1)) } }

/-- CUT_POINT_REACHED: the recorder comes to the take of armed cut points, and each acts (R439). -/
def execCutPointReached (c rid : Nat) (st : State) : Ans :=
  .next ((st.cutReached c rid).foldl (fun st k => (st.beginTake c rid k.2.tidx).cutAct c rid k.1 k.2) st)

/-- POD_FREEZE: a SYS packet of a pod's cut point asserts FREEZE here (R439). -/
def execPodFreeze (st : State) : Ans := .next st.freeze

/-! Divergence and the log's end (R436, R438). -/

/-- The count a stream has reached. -/
def State.icnt (st : State) (gid : Nat) (acc : Bool) : Nat :=
  match mget st.groups gid with
  | some g => if acc then g.icntA else g.icntC
  | none => 0

/-- A record that can no longer be obeyed (R438): a TRAP or CDC whose count the stream has passed, a VALUE whose instruction has read every line. -/
def State.missed (st : State) (rid : Nat) (r : List Nat) : Bool :=
  let w := r.headD 0
  let ty := w / 2 ^ 60
  let gid := rid * 512 + bits w 46 38
  let acc := decide (bits w 37 37 = 1)
  let past := decide (w % 2 ^ 37 < st.icnt gid acc)
  if ty = 7 ∨ ty = 8 then past
  else if ty = 9 then past && !(acc && match mget st.groups gid with
    | some g => g.memq.any fun a => decide (a.icnt = w % 2 ^ 37) && a.lines.any fun l => !l.done
    | none => false)
  else false

/-- A Weir command waits whose OPC is not the one a port's log names next (R398, R438). -/
def State.opcDiffers (st : State) (rid : Nat) (r : List Nat) : Bool :=
  let w := r.headD 0
  match st.weirHead with
  | some (_, true, d) => decide (w / 2 ^ 60 = 6) && decide (bits w 54 53 = 2) && decide (rid = 674 + bits d 15 8) && decide (bits w 37 36 = bits d 23 16)
      && decide (w % 2 ^ 32 ≠ bits d 7 0)
  | _ => false

/-- REPLAY_DIVERGENCE: the i-th record of a recorder's log is its unit's next, and the unit has waited 2^24 cycles for it, has passed it, or is given another Weir command: replay stops
diverged, and the device freezes (R438). -/
def execReplayDivergence (c rid i : Nat) (st : State) : Ans :=
  .next (match (st.ctx c).replay with
    | none => st
    | some r =>
      let l := mgetD r.logs rid []
      match l[i]? with
      | none => st
      | some (ti, q) =>
        let first := (unitHeads rid l).any fun h => decide (h = (ti, q))
        let waits := decide (max r.begun (mgetD r.wait (recUnit rid q) 0) + 2 ^ 24 ≤ st.clock)
        if r.state = 2 && ((first && (waits || st.opcDiffers rid q)) || st.missed rid q) then st.repStop c 5 rid ti (q.headD 0 / 2 ^ 60) else st)

/-- Both streams of every group of a workgroup stand at a TRAP record of a switch's cause (R425). -/
def State.switchDue (st : State) (c key cause : Nat) : Bool :=
  (st.groupsOf key).all fun e => [false, true].all fun acc =>
    st.nextTrapRec c e.1 acc = some ((recTrap cause (recGroup e.1) acc (if acc then e.2.icntA else e.2.icntC)).headD 0)

/-- A switch that the log holds (R425): a running context is pre-empted where every workgroup stands at its pre-emption's records, and one pre-empted so goes
on where a log is left. -/
def State.replaySwitch (st : State) (c : Nat) : State :=
  let x := st.ctx c
  let ws := (st.wgsOf c).filter fun e => decide (e.2.state = .placed)
  match x.state with
  | .running => if ws ≠ [] ∧ ws.all fun e => st.switchDue c e.1 0x80 then st.preemptGo c else st
  | .preempting => st.preemptGo c
  | .preempted => (st.resumeStart c).resumeGo c
  | .resuming => st.resumeGo c
  | _ => st

/-- REPLAY_END_OF_LOG: takes streamed into the reel are taken up; a take in error stops the replay; once every recorder has come to its end the replay has
ended, and the device freezes; until then a pre-emption or restore that the logs hold is carried out (R425, R436 steps 2 and 5, R438). -/
def execReplayEndOfLog (c : Nat) (st : State) : Ans :=
  .next (match (st.ctx c).replay with
    | none => st
    | some r =>
      if r.state ≠ 2 then st
      else
        let ts := takesOf (st.reelAll (st.ctx c).dev) r.src
        let r' := loadAll ts r
        if r'.next ≠ r.next then st.updCtx c fun x => { x with replay := some r' }
        else match nextError ts r with
          | some e => st.repStop c 6 e.2.1 e.2.2 e.1
          | none => if r.logs.all fun e => decide (e.2 = []) then st.repStop c 4 0 0 0 else st.replaySwitch c)

end Sys2Proof.Machine
end

