-- ==== Sys2Proof/Machine/Checkpoint.lean ====
section
/-! DEFINITION. Checkpoints (R434, R456 to R465): shards and their digests, the manifest, the digest directory, the phases of CHECKPOINT and SLATE, the hub
traffic they send, and RESTORE. -/

namespace Sys2Proof.Machine

/-! The descriptor (R459). -/

/-- A checkpoint descriptor a SLATE refuses: a reserved byte, BPMBASE, the own half, DIRLOG2, DIRPA (R434, R459). -/
def ckBad (d : Nat) : Bool :=
  decide (bits d 63 0 % 4096 ≠ 0) || decide (bits d 287 256 < 10) || decide (24 < bits d 287 256) || decide (d / 2 ^ 288 ≠ 0)

/-- The region reaches past the own half (R456). -/
def ckPast (d : Nat) : Bool := decide (2 ^ 40 < bits d 63 0 + bits d 127 64)

/-- A checkpoint begun from its descriptor. -/
def ckOf (c d since : Nat) (resume : Bool) : Ckpt :=
  { ctx := c, base := bits d 63 0, size := bits d 127 64, epoch := bits d 159 128, buddy := bits d 175 160, dirdev := bits d 191 176, dirpa := bits d 255 192
    dirlog2 := bits d 287 256, since := since, resume := resume }

/-! Shards (R457). -/

/-- Bytes of a shard. -/
def shardSize : Nat := 2 ^ 22

/-- The shards of a context's GLOB space that hold a mapped page, ascending. -/
def State.shardsOf (st : State) (c : Nat) : List Nat :=
  orderBy ((st.leaves c).flatMap fun l => if l.2.1 = 2 then (List.range 64).map fun i => l.1 / 64 + i else [l.1 / 64]).eraseDups (· ≤ ·)

/-- The flat addresses of a page's 4 KiB granules; none where it is not mapped. -/
def State.pageGranules (st : State) (c page : Nat) : Option (List Nat) :=
  match st.walk c (page * 2 ^ 16) with
  | .leaf e level _ _ => some ((List.range 16).map fun i => st.leafPa (st.ctx c).dev e level (page * 2 ^ 16 + 4096 * i))
  | _ => none

/-- The bytes of a shard, unmapped pages as zeros. -/
def State.shardBytes (st : State) (c shard : Nat) : Nat :=
  (List.range 64).foldr (fun i n =>
    let v := match st.pageGranules c (64 * shard + i) with
      | some gs => gs.foldr (fun a m => st.read a 4096 + 2 ^ 32768 * m) 0
      | none => 0
    v + 2 ^ 524288 * n) 0

/-- A line of a shard is poisoned (R457). -/
def State.shardBad (st : State) (c shard : Nat) : Bool :=
  (List.range 64).any fun i => match st.pageGranules c (64 * shard + i) with
    | some gs => gs.any fun a => st.poisonedAt a 4096
    | none => false

/-- The digest of a shard's bytes. -/
def shardDigest (v : Nat) : Nat := Sha.sha512 (Sha.bytes shardSize v)

/-- The shards of a context area. -/
def Ctx.areaShards (x : Ctx) : List Nat := (List.range ((x.areaSize + shardSize - 1) / shardSize)).map fun i => 2 ^ 63 + x.area + shardSize * i

/-- Bytes of a context-area shard: free values, for how the area is laid out is the device's own (log entry 20). -/
def areaBytes (k va : Nat) : Nat := Config.freeNat (2 ^ 90 + k * 2 ^ 64 + va) % 2 ^ (8 * shardSize)

/-- What the context area of a stopped context holds (log entry 20). -/
def State.areaImage (st : State) (c : Nat) : AreaImage :=
  let weirs := st.weirs.flatMap fun e => (e.2.slots.filter fun s => decide (st.ctxOfDomain s.2.domain = some c)).map fun s =>
    (e.1, s.1, s.2, st.read (flatFlow e.1 s.2.base) s.2.flowsz)
  let adds := ((st.triples.flatMap fun e => e.2.run (e.2.landed.length + 1) e.2.due) ++ st.redirs).filter fun a =>
    a.adds && decide (st.ctxOfDomain (pDom a.hdr) = some c)
  { ctx := st.ctx c, wgs := st.wgsOf c, grids := st.grids.filter (fun e => decide (e.2.ctx = c)), weirs := weirs, adds := adds }

/-! The manifest (R458). -/

/-- Bytes of a manifest. -/
def manBytes (n : Nat) : Nat := 128 + 128 * n + 512

/-- An entry's 128 bytes. -/
def CkEntry.word (e : CkEntry) (self : Nat) : Nat :=
  e.va % 2 ^ 64 + e.loc % 2 ^ 16 * 2 ^ 64 + (if e.loc = 0 then self else e.holder) % 2 ^ 16 * 2 ^ 80 + e.ofs % 2 ^ 64 * 2 ^ 128 + e.digest % 2 ^ 512 * 2 ^ 192

/-- The manifest's bytes before the signature. -/
def State.manBody (st : State) (k : Ckpt) : Nat :=
  let crec := Sha.sha512 (Sha.bytes 128 (st.ctx k.ctx).crec)
  let head := 0x4E414D4B + k.epoch % 2 ^ 32 * 2 ^ 32 + st.devno * 2 ^ 64 + k.ctx % 256 * 2 ^ 80 + k.entries.length % 2 ^ 32 * 2 ^ 96 + crec % 2 ^ 512 * 2 ^ 128
  head + k.entries.foldr (fun e n => e.word st.devno + 2 ^ 1024 * n) 0 * 2 ^ 1024

/-- The whole manifest, signed with the device identity key under a salt (R359, R458). -/
def State.manifest (st : State) (k : Ckpt) (salt : Nat) : Nat :=
  let b := st.manBody k
  let n := manBytes k.entries.length - 512
  b + identitySign n b salt * 2 ^ (8 * n)

/-! The BPM (R456). -/

/-- Bytes written to the BPM. -/
def State.bpmWrite (st : State) (off n v : Nat) : State := st.writeAll (flatBpm off) n v

/-- Where the shard with index `i` goes: the manifest stands at BPMBASE, the shards after it (log entry 23). -/
def Ckpt.slot (k : Ckpt) (i : Nat) : Nat := k.base + manBytes k.entries.length + shardSize * i

/-! The digest directory (R461). -/

/-- How a claim ended: won, lost to an owner and its offset, or no entry. -/
inductive Claim where
  | won | lost (owner ofs : Nat) | full
  deriving DecidableEq, Repr

/-- A directory entry's 128 bytes. -/
def dirWord (digest owner state epoch ofs : Nat) : Nat :=
  digest % 2 ^ 512 + owner % 2 ^ 16 * 2 ^ 512 + state % 2 ^ 16 * 2 ^ 528 + epoch % 2 ^ 32 * 2 ^ 544 + ofs % 2 ^ 64 * 2 ^ 576

/-- The physical address of probe `i` of a digest. -/
def probeAt (digest dirpa dirlog2 i : Nat) : Nat := dirpa + 128 * ((digest % 2 ^ 64 % 2 ^ dirlog2 + i) % 2 ^ dirlog2)

/-- A digest-directory entry written at its home: the line is taken as any HOST-path write takes it, and the write does not wait for a replay's log. -/
def State.entryPut (st : State) (a v : Nat) : State := (st.hostPut 128 a v).getD (st.hostWrite 128 a v)

/-- The probe sequence at the directory's home, from probe `i` on: each compare-and-set in one step (R461). -/
def State.probe (fuel : Nat) (st : State) (self digest ofs epoch dirpa dirlog2 i : Nat) : State × Claim :=
  match fuel with
  | 0 => (st, .full)
  | f + 1 =>
    let a := probeAt digest dirpa dirlog2 i
    let e := st.devRead 128 a
    if bits e 543 528 = 0 ∨ bits e 575 544 ≠ epoch then (st.entryPut a (dirWord digest self 1 epoch ofs), .won)
    else if bits e 511 0 = digest then (st, .lost (bits e 527 512) (bits e 639 576))
    else State.probe f st self digest ofs epoch dirpa dirlog2 (i + 1)

/-- A claim applied (R461). -/
def State.claimHere (st : State) (self digest ofs epoch dirpa dirlog2 : Nat) : State × Claim := st.probe 8 self digest ofs epoch dirpa dirlog2 0

/-- The entry a digest has in an epoch: its address and word. -/
def State.dirEntryOf (st : State) (digest epoch dirpa dirlog2 : Nat) : Option (Nat × Nat) :=
  firstSome (fun i =>
    let a := probeAt digest dirpa dirlog2 i
    let e := st.devRead 128 a
    if bits e 543 528 ≠ 0 ∧ bits e 575 544 = epoch ∧ bits e 511 0 = digest then some (a, e) else none) (List.range 8)

/-- STATE 2 set by its owner, with a release (R461). -/
def State.releaseHere (st : State) (self digest epoch dirpa dirlog2 : Nat) : State :=
  match st.dirEntryOf digest epoch dirpa dirlog2 with
  | some (a, e) => if bits e 527 512 = self then st.entryPut a (dirWord digest self 2 epoch (bits e 639 576)) else st
  | none => st

/-- The entry of a digest stands at STATE 2. -/
def State.writtenHere (st : State) (digest epoch dirpa dirlog2 : Nat) : Bool :=
  (st.dirEntryOf digest epoch dirpa dirlog2).any fun e => decide (bits e.2 543 528 = 2)

/-! Hub traffic: SYS packets (KIND 4), whose payload's layout is the model's own (log entry 22). -/

/-- A SYS packet leaves. -/
def State.sysSend (st : State) (dst op daddr len pay : Nat) : State := st.hubSend (st.sysPacket dst op daddr len pay)

/-- Bytes sent in packets of at most 256. -/
def State.sysBytes (fuel : Nat) (st : State) (dst op ofs n v : Nat) : State :=
  match fuel with
  | 0 => st
  | f + 1 => if n = 0 then st else
      let m := min 256 n
      State.sysBytes f (st.sysSend dst op ofs m (v % 2 ^ (8 * m))) dst op (ofs + m) (n - m) (v / 2 ^ (8 * m))

/-- What a claim or a release carries: digest, offset and epoch, at the directory's address. -/
def claimPay (digest ofs epoch log2 : Nat) : Nat := digest + ofs * 2 ^ 512 + epoch * 2 ^ 576 + log2 * 2 ^ 608

/-- DIGEST_CLAIM: a claim reaches this directory's hub, which probes and replies (R461). -/
def execDigestClaim (src digest ofs epoch dirpa dirlog2 : Nat) (st : State) : Ans :=
  .next (if dirlog2 < 10 ∨ 24 < dirlog2 ∨ dirpa % 128 ≠ 0 ∨ st.dead.getLsbD src then st
    else
      let r := st.claimHere src (digest % 2 ^ 512) ofs (epoch % 2 ^ 32) dirpa dirlog2
      match r.2 with
      | .won => r.1.sysSend src 2 1 0 0
      | .lost o f => r.1.sysSend src 2 2 10 (o + f * 2 ^ 16)
      | .full => r.1.sysSend src 2 3 0 0)

/-- DIGEST_RELEASE: a winner's release reaches this directory's hub: the entry stands at STATE 2, and the release is answered (R461). -/
def execDigestRelease (src digest epoch dirpa dirlog2 : Nat) (st : State) : Ans :=
  .next (if dirlog2 < 10 ∨ 24 < dirlog2 ∨ st.dead.getLsbD src then st
    else (st.releaseHere src (digest % 2 ^ 512) (epoch % 2 ^ 32) dirpa dirlog2).sysSend src 4 0 0 0)

/-- SHARD_MIRROR: a buddy writes mirrored bytes into its mirror half, and acknowledges (R456, R460). -/
def execShardMirror (src ofs n data : Nat) (st : State) : Ans :=
  .next (if 2 ^ 40 < ofs + n ∨ st.dead.getLsbD src then st
    else (st.bpmWrite (2 ^ 40 + ofs) n (data % 2 ^ (8 * n))).sysSend src 6 ofs 0 0)

/-- The bytes of a digest that a standing context's current checkpoint names, where its memory still has them (R464). -/
def State.standingShard (st : State) (digest epoch : Nat) : Option Nat :=
  firstSome (fun (k : Ckpt) =>
    if k.epoch ≠ epoch ∨ (st.ctx k.ctx).stands ≠ some epoch then none
    else match k.entries.find? fun e => decide (e.digest = digest) && decide (e.va < 2 ^ 63) with
      | none => none
      | some e =>
        let v := st.shardBytes k.ctx (e.va / shardSize)
        if shardDigest v = digest then some v else none) st.manifests

/-- SHARD_FETCH: a holder serves a shard to a restoring device: from HBM where its context stands at that epoch and the digest agrees, else from its BPM
(R464). -/
def execShardFetch (src digest epoch ofs : Nat) (st : State) : Ans :=
  .next (if st.dead.getLsbD src ∨ 2 ^ 41 < ofs + shardSize then st
    else match st.standingShard digest epoch with
      | some v => st.sysBytes (shardSize / 256) src 7 ofs shardSize v
      | none => st.sysBytes (shardSize / 256) src 7 ofs shardSize (st.read (flatBpm ofs) shardSize))

/-! A checkpoint's steps (R434, R460, R461). A command's phase: 0 fresh, 1 stopping, 2 writing, 3 awaiting claims, 4 mirroring, or with a SLATE its take on the
way to the reel, 5 ending with its code, 6 ended. -/

/-- A checkpoint command with what it holds changed. -/
def Cmd.step (m : Cmd) (phase : Nat) (k : Ckpt) : Cmd := { m with phase := phase, ck := some k }

/-- The context's lines in the L2s written back (R460), or written back and given up everywhere (R434 step 4). -/
def State.flushLines (st : State) (c : Nat) (drop : Bool) : State :=
  let ls := (st.dir.filter fun e => decide (e.2.dies ≠ 0) && st.ctxMaps c e.1).map (·.1)
  if drop then
    let st := ls.foldl (fun s l => (List.range 9).foldl (fun (s : State) d => if (s.dirOf l).dies.getLsbD d then s.giveUp d l else s) s) st
    ls.foldl (fun s l => s.updDir l fun e => { e with dies := 0, excl := false, grants := 0 }) st
  else { st with dies := mmap st.dies fun _ d => { d with l2 := mmap d.l2 fun a l => if a ∈ ls then { l with dirty := false } else l } }

/-- Every packet a context sent has been acknowledged (R434 step 2). -/
def State.allAcked (st : State) (c : Nat) : Bool := st.unacked.all fun e => e.2.all fun u => decide (u.wg / 2 ^ 39 ≠ c)

/-- The shards of a stopped context, none of them claimed yet; its area's digests stand for its image. -/
def State.ckEntries (st : State) (k : Ckpt) : State × Ckpt :=
  let n := st.free
  let st := { st with free := n + 1 }
  let x := st.ctx k.ctx
  let mem := (st.shardsOf k.ctx).map fun s => ({ va := s * shardSize } : CkEntry)
  let area := x.areaShards.map fun va => ({ va := va, digest := shardDigest (areaBytes n va) } : CkEntry)
  let st := { st with images := match area.head? with
    | some e => mset st.images e.digest (st.areaImage k.ctx)
    | none => st.images }
  (st, { k with entries := mem ++ area, man := n })

/-- The command stops its context (R460 step 1, R434 steps 1 to 4), lists its shards and checks its region (R460 step 2). -/
def State.ckStop (st : State) (m : Cmd) (k : Ckpt) (slate : Bool) : State × Cmd :=
  match (st.ctx k.ctx).state with
  | .preempted =>
    if slate && !st.allAcked k.ctx then (st, m)
    else
      let st := if slate then (st.closeTakes k.ctx 0).flushLines k.ctx true else st.flushLines k.ctx false
      let r := st.ckEntries k
      let need := shardSize * r.2.entries.length + manBytes r.2.entries.length
      if k.size < need ∨ 2 ^ 40 < k.base + k.size then (st, m.step 5 { k with code := if slate then 2 else 6 })
      else (r.1, m.step 2 r.2)
  | .running | .preempting => (st.preemptGo k.ctx, m)
  | .resuming => (st, m)
  | _ => (st, m.step 5 { k with code := 14, resume := false })

/-- The entry at the checkpoint's place settled. -/
def Ckpt.setEntry (k : Ckpt) (i : Nat) (f : CkEntry → CkEntry) : Ckpt := { k with entries := lupd k.entries i f }

/-- The bytes and digest of an entry's shard. -/
def State.entryBytes (st : State) (k : Ckpt) (e : CkEntry) : Nat := if e.va < 2 ^ 63 then st.shardBytes k.ctx (e.va / shardSize) else areaBytes k.man e.va

/-- A shard written to this BPM, the entry LOC 0; with a won claim the release follows. -/
def State.ckWrite (st : State) (k : Ckpt) (i v digest : Nat) (won : Bool) : State × Ckpt :=
  let st := st.bpmWrite (k.slot i) shardSize v
  let k := k.setEntry i fun e => { e with loc := 0, ofs := k.slot i, digest := digest, claim := if won then 1 else 3 }
  if won && decide (k.dirdev = st.devno) then
    (st.releaseHere st.devno digest k.epoch k.dirpa k.dirlog2, { k.setEntry i (fun e => { e with claim := 3 }) with next := i + 1, asked := false })
  else if won then
    (st.sysSend k.dirdev 3 k.dirpa 77 (claimPay digest (k.slot i) k.epoch k.dirlog2), { k with asked := true, since := st.tai })
  else (st, { k with next := i + 1, asked := false })

/-- What a claim's end does with a shard (R461): the winner and one without an entry write it, a loser names its owner, unless that is dead. -/
def State.ckClaimed (st : State) (k : Ckpt) (i v digest : Nat) (r : Claim) : State × Ckpt :=
  match r with
  | .won => st.ckWrite k i v digest true
  | .full => st.ckWrite k i v digest false
  | .lost owner ofs =>
    if st.dead.getLsbD owner then st.ckWrite k i v digest false
    else (st, { k.setEntry i (fun e => { e with loc := 1, holder := owner, ofs := ofs, digest := digest, claim := 2 }) with next := i + 1, asked := false })

/-- The reply a directory's hub gave, as the event brings it: 1 won, 2 lost to an owner and its offset, 3 no entry. -/
def claimOf (res owner ofs : Nat) : Option Claim := match res with
  | 1 => some .won
  | 2 => some (.lost owner ofs)
  | 3 => some .full
  | _ => none

/-- The next shard (R460 step 2, R461): digested, claimed, and written or recorded as a reference; after the last the claims are awaited. -/
def State.ckShard (st : State) (m : Cmd) (k : Ckpt) (res owner ofs : Nat) : State × Cmd :=
  match k.entries[k.next]? with
  | none => (st, m.step 3 { k with next := 0, asked := false })
  | some e =>
    let i := k.next
    let go := fun (r : State × Ckpt) => (r.1, m.step 2 r.2)
    if e.claim = 1 then (if res = 4 then (st, m.step 2 { k.setEntry i (fun e => { e with claim := 3 }) with next := i + 1, asked := false }) else (st, m))
    else if e.va < 2 ^ 63 ∧ st.shardBad k.ctx (e.va / shardSize) then (st, m.step 5 { k with code := 5 })
    else
      let v := st.entryBytes k e
      let digest := shardDigest v
      if k.dirdev = 0xFFFF then go (st.ckWrite k i v digest false)
      else if k.dirdev = st.devno then
        let r := st.claimHere st.devno digest (k.slot i) k.epoch k.dirpa k.dirlog2
        go (r.1.ckClaimed k i v digest r.2)
      else if 4096 ≤ k.dirdev ∨ st.dead.getLsbD k.dirdev then (st, m.step 5 { k with code := 7 })
      else if !k.asked then
        (st.sysSend k.dirdev 1 k.dirpa 77 (claimPay digest (k.slot i) k.epoch k.dirlog2), m.step 2 { k with asked := true, since := st.tai })
      else match claimOf res owner ofs with
        | some r => go (st.ckClaimed k i v digest r)
        | none => (st, m)

/-- A referenced entry awaited (R461, R462): settled once its directory entry shows STATE 2; where its owner is dead, the shard is written here. -/
def State.ckAwait (st : State) (k : Ckpt) (i res ofs : Nat) (e : CkEntry) : State × Ckpt :=
  if st.dead.getLsbD e.holder then
    let v := st.entryBytes k e
    let r := st.ckWrite k i v e.digest false
    (r.1, { r.2 with next := k.next, asked := false })
  else if (k.dirdev = st.devno ∧ st.writtenHere e.digest k.epoch k.dirpa k.dirlog2) ∨ (k.dirdev ≠ st.devno ∧ res = 4 ∧ ofs = i) then
    (st, k.setEntry i fun e => { e with claim := 3 })
  else (st, k)

/-- Every claim settled: the manifest is signed, its salt a free value (R359), written, and kept (R460 step 3). -/
def State.ckSeal (st : State) (k : Ckpt) : State × Ckpt :=
  let (salt, st) := st.freeValue
  let v := st.manifest k salt
  let n := manBytes k.entries.length
  let st := st.bpmWrite k.base n v
  let k := { k with digest := Sha.sha512 (Sha.bytes n v), man := v, next := 0, asked := false }
  let st := { st with manifests := (st.manifests.filter fun (q : Ckpt) => decide (q.ctx ≠ k.ctx) || decide (q.epoch ≠ k.epoch)) ++ [k] }
  (st.updCtx k.ctx fun x => { x with stands := some k.epoch }, k)

/-- The claims (R460 step 3): every reference awaited, then the manifest. -/
def State.ckClaims (st : State) (m : Cmd) (k : Ckpt) (res ofs : Nat) : State × Cmd :=
  let todo := k.entries.zipIdx.filter fun e => decide (e.1.claim = 2)
  let r := todo.foldl (fun (p : State × Ckpt) e => p.1.ckAwait p.2 e.2 res ofs e.1) (st, k)
  if r.2.entries.all fun e => decide (e.claim = 3) then
    let r := r.1.ckSeal r.2
    (r.1, m.step 4 r.2)
  else (r.1, m.step 3 r.2)

/-- The context goes on, where the command stopped it (R434 step 7, R460 step 3): the state, and whether it does. -/
def State.ckResume (st : State) (k : Ckpt) : State × Bool :=
  if !k.resume then (st, true)
  else match (st.ctx k.ctx).state with
    | .preempted => ((st.resumeStart k.ctx).resumeGo k.ctx, false)
    | .resuming => (st.resumeGo k.ctx, false)
    | .preempting => (st.preemptGo k.ctx, false)
    | _ => (st, true)

/-- The items a mirror copies: offset, bytes and contents of each shard written here, then the manifest (R460 step 4). -/
def State.mirrorItems (st : State) (k : Ckpt) : List (Nat × Nat × Nat) :=
  (k.entries.filter fun e => decide (e.loc = 0)).map (fun e => (e.ofs, shardSize, st.read (flatBpm e.ofs) shardSize))
    ++ [(k.base, manBytes k.entries.length, k.man)]

/-- The mirror's next item sent, or acknowledged by the buddy (`res` 5); with none, or after the last, the command ends (R460 step 4). -/
def State.ckMirror (st : State) (m : Cmd) (k : Ckpt) (res : Nat) : State × Cmd :=
  let r := st.ckResume k
  let k := { k with resume := k.resume && !r.2 }
  let st := r.1
  if k.buddy = 0xFFFF then (st, m.step (if k.resume then 4 else 6) k)
  else if 4096 ≤ k.buddy ∨ st.dead.getLsbD k.buddy then (st, m.step 5 { k with code := 8 })
  else match (st.mirrorItems k)[k.next]? with
    | none => (st, m.step (if k.resume then 4 else 6) k)
    | some (ofs, n, v) =>
      if !k.asked then (st.sysBytes (n / 256 + 1) k.buddy 5 ofs n v, m.step 4 { k with asked := true, since := st.tai })
      else if res = 5 then (st, m.step 4 { k with next := k.next + 1, asked := false })
      else (st, m.step 4 k)

/-- CKSTAT of a running command: PHASE and SHARDS (R459). -/
def State.ckReport (st : State) (m : Cmd) : State :=
  match m.ck with
  | none => st
  | some k =>
    let phase := if m.phase ≤ 2 then 1 else if m.phase = 3 then 2 else if m.phase = 4 then 3 else (st.port m.port).ckstat.toNat / 2 ^ 60 % 8
    let shards := if m.phase = 2 then k.next else k.entries.length
    st.updPort m.port fun q => { q with ckstat := BitVec.ofNat 64 (phase * 2 ^ 60 + shards % 2 ^ 44 * 2 ^ 16) }

/-- The head checkpoint command ended: its code, PHASE 4 where it is done (R459, R460). -/
def State.ckDone (st : State) (m : Cmd) (code : Nat) : State :=
  let old := (st.port m.port).ckstat.toNat
  let phase := if code = 0 ∧ m.op = 1 then 4 else old / 2 ^ 60 % 8
  let lease := if m.port = st.ctlPort ∧ st.ctlLease ≤ st.clock then st.clock + leaseCycles else st.ctlLease
  ({ st with ckQ := st.ckQ.tail, ctlLease := if m.op = 1 ∧ 0 < m.phase then lease else st.ctlLease }).updPort m.port fun q =>
    { q with ckstat := BitVec.ofNat 64 (phase * 2 ^ 60 + old / 2 ^ 16 % 2 ^ 44 * 2 ^ 16 + code % 2 ^ 16) }

/-- The head checkpoint command moved on. -/
def State.ckPut (st : State) (m : Cmd) : State := ({ st with ckQ := m :: st.ckQ.tail }).ckReport m

/-- CHECKPOINT: the head command's next step (R460): `res`, `owner` and `ofs` bring what another device's hub answered: 1 won, 2 lost to an owner and its
offset, 3 no entry, 4 a release answered or STATE 2 at the entry with index `ofs`, 5 a mirror acknowledged. An unknown OP is refused here. -/
def execCheckpoint (res owner ofs : Nat) (st : State) : Ans :=
  .next (match st.ckQ with
    | [] => st
    | m :: _ =>
      if m.op = 0 ∨ 2 < m.op then st.ckDone m 15
      else if m.op ≠ 1 then st
      else match m.phase, m.ck with
        | 0, _ =>
          if st.ctlPort ≠ m.port then st.ckDone m 1
          else match mget st.ctxs m.id with
            | none => st.ckDone m 14
            | some x =>
              let d := st.devRead 128 (bits m.word.toNat 32 0 * 128)
              if x.state = .preempting ∨ x.state = .resuming ∨ st.ckBusy m.id then st
              else if x.state ≠ .running ∧ x.state ≠ .preempted then st.ckDone m 14
              else if ckBad d then (let v := st.freeValue; v.2.ckDone m v.1)
              else if ckPast d then st.ckDone m 6
              else st.ckPut (m.step 1 (ckOf m.id d st.tai (decide (x.state = .running))))
        | 1, some k => let r := st.ckStop m k false; r.1.ckPut r.2
        | 2, some k => let r := st.ckShard m k res owner ofs; r.1.ckPut r.2
        | 3, some k => let r := st.ckClaims m k res ofs; r.1.ckPut r.2
        | 4, some k =>
          let r := st.ckMirror m k res
          if r.2.phase = 6 then r.1.ckDone m 0 else r.1.ckPut r.2
        | _, some k => let r := st.ckResume k; if r.2 then r.1.ckDone m k.code else r.1
        | _, none => st.ckDone m 14)

/-! SLATE (R433, R434). -/

/-- A slate's body (R433) as words. -/
def State.slateWords (st : State) (c : Nat) (x : Ctx) (k : Ckpt) : List Nat :=
  let v := k.epoch % 2 ^ 32 + c % 256 * 2 ^ 32 + x.det % 256 * 2 ^ 40 + x.domain.getD 0xFFFF % 2 ^ 16 * 2 ^ 48 + st.devno % 2 ^ 16 * 2 ^ 64
    + st.tai % 2 ^ 64 * 2 ^ 128 + k.digest % 2 ^ 512 * 2 ^ 192
    + (List.range 8).foldl (fun n i => n + (st.die (i + 1)).maxT % 2 ^ 24 * 2 ^ (704 + 32 * i)) 0 + st.hubcyc % 2 ^ 64 * 2 ^ 960
  (List.range 28).map fun i => bits v (64 * i + 63) (64 * i)

/-- The slate queued for the reel behind the takes it closed, and the epoch opened: every TIDX and ACNT starts again (R434 step 6). -/
def State.openEpoch (st : State) (k : Ckpt) : State :=
  let c := k.ctx
  let t : Take := { rid := 0xFFFE, tidx := 0, cycle := st.hubcyc, ltime := 0, flags := 1, epoch := k.epoch, ctx := c, die := 0, dev := (st.ctx c).dev,
                    recs := [st.slateWords c (st.ctx c) k] }
  (({ st with closedTakes := st.closedTakes ++ [t] } : State).zeroGrants c).updCtx c fun x => { x with epoch := some k.epoch, tidx := [], acnt := [] }

/-- The slate has not reached the reel. -/
def State.slateWaits (st : State) (c : Nat) : Bool := st.closedTakes.any fun t => decide (t.rid = 0xFFFE) && decide (t.ctx = c)

/-- SLATE: the head general command's next step (R434); `res`, `owner` and `ofs` as CHECKPOINT's. -/
def execSlate (res owner ofs : Nat) (st : State) : Ans :=
  .next (st.ctlOpAt 4 true fun m =>
    let put := fun (r : State × Cmd) => r.1.ctlPhase r.2
    match m.phase, m.ck with
    | 0, _ =>
      let c := m.arg0
      let d := st.devRead 128 (m.arg.toNat * 128)
      if 64 ≤ c ∨ 2 ^ 33 ≤ m.arg.toNat then st.ctlDone m 2
      else if ckBad d || ckPast d then st.ctlDone m 2
      else match mget st.ctxs c with
        | none => st.ctlDone m 14
        | some x =>
          if !st.recording c || x.epoch.any fun e => decide (bits d 159 128 ≤ e) then st.ctlDone m 3
          else if x.state = .preempting ∨ x.state = .resuming ∨ st.ckBusy c then st
          else if x.state ≠ .running ∧ x.state ≠ .preempted then st.ctlDone m 3
          else st.ctlPhase (m.step 1 (ckOf c d st.tai true))
    | 1, some k => put (st.ckStop m k true)
    | 2, some k => put (st.ckShard m k res owner ofs)
    | 3, some k =>
      let r := st.ckClaims m k res ofs
      match r.2.phase, r.2.ck with
      | 4, some k => (r.1.openEpoch k).ctlPhase r.2
      | _, _ => put r
    | 4, some k => if st.slateWaits k.ctx then st else st.ctlPhase (m.step 5 k)
    | _, some k => let r := st.ckResume k; if r.2 then r.1.ctlDone m k.code else r.1
    | _, none => st.ctlDone m 14)

/-- CLAIM_REPLY_TIMEOUT: a claim or a release has had no reply within the dead-peer timeout: the directory counts as unreachable, and the checkpoint ends with
code 7 (R461). -/
def execClaimReplyTimeout (st : State) : Ans :=
  let late := fun (m : Cmd) => decide (m.phase = 2) && m.ck.any fun k => k.asked && decide (k.since + 1000 * st.peertmo ≤ st.tai)
  let fail := fun (m : Cmd) => { m with phase := 5, ck := m.ck.map fun k => { k with code := 7 } }
  .next (match st.ckQ, st.ctlQ with
    | m :: _, q => if late m then st.ckPut (fail m) else match q with
      | n :: _ => if late n then st.ctlPhase (fail n) else st
      | [] => st
    | [], n :: _ => if late n then st.ctlPhase (fail n) else st
    | [], [] => st)

/-! RESTORE (R464). -/

/-- A manifest's entries. -/
def manEntries (man : Nat) : List CkEntry :=
  (List.range (bits man 127 96)).map fun i =>
    let e := bits man (1024 * (i + 1) + 1023) (1024 * (i + 1))
    { va := bits e 63 0, loc := bits e 79 64, holder := bits e 95 80, ofs := bits e 191 128, digest := bits e 703 192 }

/-- A manifest carries MAGIC and a signature that verifies against the failed device's certificate (R458, R464). -/
def manValid (man : Nat) : Bool :=
  let n := manBytes (bits man 127 96) - 512
  decide (bits man 31 0 = 0x4E414D4B) && Sha.verify (Config.certifiedModulus (bits man 79 64)) (Sha.bytes n man) (bits man (8 * n + 4095) (8 * n))

/-- A key or place of one context renamed for another. -/
def rekey (c key : Nat) : Nat := wgKey c (key % 2 ^ 39)

/-- The place of a saved workgroup's counter renamed. -/
def rehome (c a : Nat) : Nat := if 2 ^ 70 ≤ a then 2 ^ 70 + rekey c ((a - 2 ^ 70) / 2 ^ 24) * 2 ^ 24 + a % 2 ^ 24 else a

/-- A saved group named for another context. -/
def Group.rename (g : Group) (c : Nat) : Group :=
  let sp := fun (s : Split) => match s.wait with
    | .waitc a u t => { s with wait := .waitc (rehome c a) u t }
    | _ => s
  let aw := fun (a : AWait) => match a with
    | .counter a u t => .counter (rehome c a) u t
    | _ => a
  { g with
    wg := rekey c g.wg, splits := mmap g.splits (fun _ s => sp s), handler := g.handler.map sp, await := aw g.await
    frame := g.frame.map fun x => { x with await := aw x.await }
    tiles := mmap g.tiles fun _ t => { t with members := t.members.map (rekey c) } }

/-- A saved workgroup named for another context. -/
def Workgroup.rename (w : Workgroup) (c : Nat) : Workgroup :=
  { w with ctx := c, saved := mmap w.saved fun _ g => g.rename c, savedSpill := w.savedSpill.map (fun e => { e with ctx := c, wg := rekey c e.wg })
           savedCmds := w.savedCmds.map fun e => { e with ctx := c, wg := rekey c e.wg } }

/-- A grid named for another context. -/
def Grid.rename (g : Grid) (c : Nat) : Grid :=
  { g with ctx := c, parent := g.parent.map (rekey c), gates := g.gates.map (fun p => (rehome c p.1, p.2))
           gbar := g.gbar.map fun i => if 2 ^ 20 ≤ i then 2 ^ 20 + rekey c ((i - 2 ^ 20) / 16) * 16 + i % 16 else i }

/-- A context area put into a new context (R464): its workgroups, grids and counts, and the fabric additions held for it (R434); the new creation record's fields
stay. -/
def State.install (st : State) (c digest epoch : Nat) (a : AreaImage) : State :=
  let wgs : List (Nat × Workgroup) := a.wgs.map fun (e : Nat × Workgroup) => (rekey c e.1, e.2.rename c)
  let gs : List (Nat × Grid) := a.grids.map fun (e : Nat × Grid) => (gridKey c (e.1 % 2 ^ 32), e.2.rename c)
  let st := { st with
    workgroups := wgs.foldl (fun (m : FMap Workgroup) (e : Nat × Workgroup) => mset m e.1 e.2) (st.workgroups.filter fun (e : Nat × Workgroup) => decide (e.2.ctx ≠ c))
    grids := gs.foldl (fun (m : FMap Grid) (e : Nat × Grid) => mset m e.1 e.2) (st.grids.filter fun (e : Nat × Grid) => decide (e.2.ctx ≠ c))
    redirs := st.redirs ++ a.adds.map fun (x : Arrived) => { x with acked := true } }
  st.updCtx c fun x => { x with
    serial := a.ctx.serial, nextGrid := a.ctx.nextGrid, censusEn := a.ctx.censusEn, bins := a.ctx.bins, watch := a.ctx.watch, watchHeld := a.ctx.watchHeld, faults := a.ctx.faults
    halted := a.ctx.halted, fqHalted := a.ctx.fqHalted, acnt := a.ctx.acnt, stands := some epoch, image := digest }

/-- A page's bytes written through the new context's tables. -/
def State.putPage (st : State) (c page v : Nat) : State :=
  match st.pageGranules c page with
  | some gs => gs.zipIdx.foldl (fun s e => s.writeAll e.1 4096 (v / 2 ^ (32768 * e.2) % 2 ^ 32768)) st
  | none => st

/-- A shard written at its address; every shard that no entry names reads as zero (R464). -/
def State.putShard (st : State) (c shard v : Nat) : State :=
  (List.range 64).foldl (fun s i => s.putPage c (64 * shard + i) (v / 2 ^ (524288 * i) % 2 ^ 524288)) st

/-- A manifest's entries, each with the bytes that arrived for it. -/
def manShards (man : Nat) (data : List Nat) : List (CkEntry × Nat) :=
  (manEntries man).zipIdx.map fun e => (e.1, data.getD e.2 0 % 2 ^ (8 * shardSize))

/-- The memory shards of a list written into a context's GLOB space. -/
def State.putShards (st : State) (c : Nat) (es : List (CkEntry × Nat)) : State :=
  (es.filter fun e => decide (e.1.va < 2 ^ 63)).foldl (fun s e => s.putShard c (e.1.va / shardSize) e.2) st

/-- The shards of a context's GLOB space that a list does not name, set to 0. -/
def State.zeroRest (st : State) (c : Nat) (es : List (CkEntry × Nat)) : State :=
  ((st.shardsOf c).filter fun s => !(es.any fun e => decide (e.1.va < 2 ^ 63) && decide (e.1.va / shardSize = s))).foldl (fun s i => s.putShard c i 0) st

/-- RESTORE: `man` is the manifest as the buddy's BPM holds it, `data` each entry's bytes as its source serves them (R464): the signature verified, every
digest verified, the shards written into the new context, which stays pre-empted. -/
def execRestore (man : Nat) (data : List Nat) (st : State) : Ans :=
  .next (match st.ckQ with
    | [] => st
    | m :: _ =>
      if m.op ≠ 2 then st
      else match mget st.ctxs m.id with
        | none => st.ckDone m 14
        | some x =>
          let got := manShards man data
          let area := ((manEntries man).find? fun e => decide (2 ^ 63 ≤ e.va)).bind fun e => (mget st.images e.digest).map fun a => (e.digest, a)
          if x.state ≠ .preempted ∨ st.ckBusy m.id then st.ckDone m 14
          else if !manValid man then st.ckDone m 8
          else
            let good := got.takeWhile fun e => decide (shardDigest e.2 = e.1.digest)
            let st := st.putShards m.id good
            if good.length ≠ got.length then st.ckDone m 8
            else match area with
              | none => st.ckDone m 8
              | some (digest, a) => ((st.zeroRest m.id got).install m.id digest (bits man 63 32) a).ckDone m 0)

end Sys2Proof.Machine
end

