-- ==== Sys2Proof/Machine/Convert.lean ====
section
/-! DEFINITION. Conversions, packing and quantisation of the compute stream (R282 to R285). -/

namespace Sys2Proof.Machine

/-- CVT: each element from ET to ET2 of the same width (R282). -/
def execCvt (s : BitVec 1) (d a : BitVec 6) (st : State) : Ans :=
  groupOp st s (unSpec d a fun g => decide (g.et.width = g.et2.width)) fun g sp =>
    .done (g.writeOut d (elem1 g sp g.et.width a fun x => convElem g.et g.et2 g.rm g.sat 0 x))

/-- CVTS: CVT of a × 2^n, n from bits [11:0] of an S register or ZERO (R282). -/
def execCvts (s : BitVec 1) (d a b : BitVec 6) (st : State) : Ans :=
  groupOp st s { unSpec d a (fun g => decide (g.et.width = g.et2.width) && (g.et.isFloat || g.et2.isFloat)) with
                 legal := dstOk d && srcOk a && isSZ b, srcs := [a, b] } fun g sp =>
    let n := sgn 12 (g.srcS b).toNat
    .done (g.writeOut d (elem1 g sp g.et.width a fun x => convElem g.et g.et2 g.rm g.sat n x))

/-- PACK: the source's elements narrowed into part p of the destination, the rest of it kept (R283). -/
def execPack (s : BitVec 1) (d a b : BitVec 6) (st : State) : Ans :=
  groupOp st s { legal := isV d && srcOk a, srcs := [a, d], dst := some d, mode := fun g => decide (g.et2.width < g.et.width)
                 fits := fun g => decide (b.toNat < g.et2.k / g.et.k), gwidth := fun g => g.et2.width } fun g sp =>
    let k1 := g.et.k
    let k2 := g.et2.k
    let p := b.toNat
    let ra := g.src g.et.width a
    .done (g.writeOut d (outOf g.et2.width (lanesOf sp.mask k2
      (fun t i => decide (p * k1 ≤ i) && decide (i < p * k1 + k1) && g.enabled g.et2.width t i)
      fun t i => convElem g.et g.et2 g.rm g.sat 0 (elemAt ra g.et.width (t * k1 + (i - p * k1))))))

/-- UNPK: part p of the source widened into every sub-element of the destination (R283). -/
def execUnpk (s : BitVec 1) (d a b : BitVec 6) (st : State) : Ans :=
  groupOp st s { unSpec d a (fun g => decide (g.et.width < g.et2.width)) with
                 fits := fun g => decide (b.toNat < g.et.k / g.et2.k), gwidth := fun g => g.et2.width } fun g sp =>
    let k1 := g.et.k
    let k2 := g.et2.k
    let p := b.toNat
    let ra := g.src g.et.width a
    .done (g.writeOut d (outOf g.et2.width (lanesOf sp.mask k2 (g.enabled g.et2.width)
      fun t i => convElem g.et g.et2 g.rm g.sat 0 (elemAt ra g.et.width (t * k1 + (p * k2 + i))))))

/-- The exact magnitude of the largest of some values (R261). -/
def maxMag (vs : List FVal) : Dy :=
  vs.foldl (fun acc v =>
    let m : Dy := ⟨(v.man.natAbs : Int), v.ex⟩
    if (acc.add ⟨-m.m, m.e⟩).m < 0 then m else acc) ⟨0, 0⟩

/-- The largest finite value of a quantised format (R261). -/
def qMax (t : ETy) : Nat :=
  match t with
  | .f8n => 480
  | .f8w => 57344
  | .i8 => 127
  | .i4 => 7
  | _ => 1

/-- The quantisation of R261 over the values of a block's enabled positions: the scale, its flags, and each element. -/
def quant (vs : List FVal) (dst : ETy) (rm : Rm) : NumRes × List NumRes :=
  let sg := ivSig vs
  if vs.any (fun v => v.isNan || v.isInf) then
    (⟨0x7FC0, fIV⟩, vs.map fun _ => ⟨if dst.isFloat then (fmtOf dst).nan else 0, 0#8⟩)
  else
    let a := maxMag vs
    if a.m = 0 then (⟨0x3F80, sg⟩, vs.map fun _ => ⟨0, 0#8⟩)
    else
      let s := scUp a.m.natAbs (qMax dst) a.e
      let sc := (readSc s.1).getD ⟨1, 0⟩
      (⟨s.1, if s.2 then fOF else 0#8⟩, vs.map fun v => quotTo dst rm v.dy v.neg sc)

/-- Elements per block of a block code 1 to 4 (R284). -/
def blockLen (k : BitVec 3) : Nat := 16 * 2 ^ k.toNat

/-- The registers of a block after its first (R284). -/
def blockRegs (a : BitVec 6) (n : Nat) : List (BitVec 6) := (List.range (min n 32)).map fun i => a + BitVec.ofNat 6 i

/-- The result placed at position j of a list of positions with results. -/
def resAt (js : List (Nat × NumRes)) (j : Nat) : Option NumRes := (js.find? fun e => e.1 = j).map (·.2)

/-- The register and block checks of QNT and DQNT (R284). -/
def qntShape (d a b : BitVec 6) (l k1 k2 : Nat) : Bool :=
  decide (k1 ≤ l) && decide (a.toNat + l / k1 ≤ 32) && decide (d.toNat + l / k2 ≤ 32)
    && !(decide (d.toNat ≤ b.toNat) && decide (b.toNat < d.toNat + l / k2))

/-- Sub-element writes of several consecutive V registers, from each thread's list of results by position (R284, R285). -/
def putBlock (g : Group) (mask : Mask) (d n k w : Nat) (f : Nat → Nat → Option NumRes) : Group :=
  (List.range n).foldl (fun g i =>
    let o := outOf w ((List.range 32).map fun t =>
      if mask.getLsbD t then (List.range k).map fun j => f t (i * k + j) else [])
    { (g.putV (d + i) o.data o.bits) with stat := g.stat ||| o.allFlags }) g

/-- What QNT leaves of the group: the scales in part `q` of b, and the elements of the blocks in d and on (R284, R261). -/
def qntResult (d a b : BitVec 6) (q : BitVec 2) (k : BitVec 3) (g : Group) (sp : Split) : Group :=
  let l := blockLen k
  let k1 := g.et.k
  let k2 := g.et2.k
  let w := g.et.width
  let rows := (List.range (l / k1)).map fun i => g.getV (a.toNat + i)
  let per := (List.range 32).map fun t =>
    if sp.mask.getLsbD t then
      let js := (List.range l).filter fun j => g.enabled w t (j % k1)
      let vs := js.map fun j => readF (fmtOf g.et) (elemAt (rows.getD (j / k1) 0) w (t * k1 + j % k1))
      let r := quant vs g.et2 g.rm
      (r.1, js.zip r.2)
    else (⟨0, 0#8⟩, [])
  let sc := outOf 16 (lanesOf sp.mask 4 (fun _ i => decide (i = q.toNat)) fun t _ => (per.getD t (⟨0, 0#8⟩, [])).1)
  let g1 := (g.putV b.toNat sc.data sc.bits).raise sc.allFlags
  putBlock g1 sp.mask d.toNat (l / k2) k2 g.et2.width fun t j => resAt (per.getD t (⟨0, 0#8⟩, [])).2 j

/-- QNT: a block of source values turned into one scale and the elements of a target format (R284, R261). -/
def execQnt (s : BitVec 1) (d a b : BitVec 6) (q : BitVec 2) (k : BitVec 3) (st : State) : Ans :=
  groupOp st s { legal := qntOk d a b k, srcs := [a], more := fun g => b :: blockRegs a (blockLen k / g.et.k),
                 mode := fun g => g.et.isFp && (match g.et2 with
                   | .i8 | .f8n | .f8w | .i4 | .t2 => true
                   | _ => false)
                 fits := fun g => qntShape d a b (blockLen k) g.et.k g.et2.k } fun g sp => .done (qntResult d a b q k g sp)

/-- An element of a quantised format times its scale, rounded once to the destination type (R261, R285). -/
def dequant (src dst : ETy) (rm : Rm) (scale x : Nat) : NumRes :=
  let fm := fmtOf dst
  let (v, fl) : FVal × Flags :=
    if src.isFloat then (readF (fmtOf src) x, 0#8)
    else
      let r := readInt src x
      (.fin (decide (r.1 < 0)) r.1.natAbs 0, r.2)
  match readSc scale with
  | none => ⟨fm.nan, fIV ||| fl ||| ivSig [v]⟩
  | some sc =>
    if sc.m = 0 then ⟨0, fl ||| ivSig [v]⟩
    else if v.isNan then ⟨fm.nan, fl ||| ivSig [v]⟩
    else if v.isInf then ⟨infOf fm v.neg, fl⟩
    else
      let r := roundZ fm rm (v.man * sc.m) (v.ex + sc.e) v.neg
      ⟨r.bits, r.flags ||| fl⟩

/-- What DQNT leaves of the group: the elements of the blocks in d and on, each times the scale in part `q` of b (R285). -/
def dqntResult (d a b : BitVec 6) (q : BitVec 2) (k : BitVec 3) (g : Group) (sp : Split) : Group :=
  let l := blockLen k
  let k1 := g.et.k
  let k2 := g.et2.k
  let w := g.et.width
  let rows := (List.range (l / k1)).map fun i => g.getV (a.toNat + i)
  let sc := g.getV b.toNat
  putBlock g sp.mask d.toNat (l / k2) k2 g.et2.width fun t j =>
    if g.enabled g.et2.width t (j % k2) then
      some (dequant g.et g.et2 g.rm (elemAt sc 16 (4 * t + q.toNat)) (elemAt (rows.getD (j / k1) 0) w (t * k1 + j % k1)))
    else none

/-- DQNT: the elements of a quantised block multiplied by its scale (R285). -/
def execDqnt (s : BitVec 1) (d a b : BitVec 6) (q : BitVec 2) (k : BitVec 3) (st : State) : Ans :=
  groupOp st s { legal := qntOk d a b k, srcs := [a, b], more := fun g => blockRegs a (blockLen k / g.et.k),
                 mode := fun g => g.et2.isFp && (match g.et with
                   | .i8 | .f8n | .f8w | .i4 | .t2 => true
                   | _ => false)
                 fits := fun g => qntShape d a b (blockLen k) g.et.k g.et2.k, gwidth := fun g => g.et2.width } fun g sp => .done (dqntResult d a b q k g sp)

end Sys2Proof.Machine
end

