-- ==== Sys2Proof/Machine/Exchange.lean ====
section
/-! DEFINITION. Cross-thread exchange, votes, reductions, scans and compaction (R288 to R298, R257). Whether one of them is asynchronous is
decided at issue from the positions it reads (R30). -/

namespace Sys2Proof.Machine

/-- The value read_pos takes at position q, and the thread it takes it from: none where it takes an S or ZERO value, where the position
lies in an absent thread, or where nothing is enabled and the identity 0 stands (R289, R30). -/
def readPos (g : Group) (mask : Mask) (x : BitVec 6) (row : Row) (w q : Nat) : Nat × Option Nat :=
  let k := 64 / w
  let t' := q / k
  let s' := q % k
  if isSZ x then (elemAt row w q, none)
  else if (lqOf x).isNone && !g.present.getLsbD t' then (0, none)
  else if !(g.present &&& mask).getLsbD t' then (elemAt row w q, some t')
  else match ((List.range (s' + 1)).reverse).find? (fun i => g.enabled w t' i) with
    | some i => (elemAt row w (t' * k + i), some t')
    | none => (0, none)

/-- Thread t' lies outside thread t's aligned block of four (R30). -/
def outside (t : Nat) (o : Option Nat) : Bool :=
  match o with
  | some t' => decide (t' / 4 ≠ t / 4)
  | none => false

/-- The element results of an exchange whose position (t, s) reads position `q t s`, or 0 where that is none. -/
def xchLanes (g : Group) (sp : Split) (a : BitVec 6) (q : Nat → Nat → Option Nat) : List (List (Option (Nat × Option Nat))) :=
  let w := g.et.width
  let row := g.src w a
  (List.range 32).map fun t =>
    if sp.mask.getLsbD t then
      (List.range (64 / w)).map fun s =>
        if g.enabled w t s then
          some (match q t s with
            | some p => readPos g sp.mask a row w p
            | none => (0, none))
        else none
    else []

/-- Whether an exchange reads outside some reader's block. -/
def xchAsync (l : List (List (Option (Nat × Option Nat)))) : Bool :=
  (l.zip (List.range 32)).any fun e => e.1.any fun o => match o with
    | some r => outside e.2 r.2
    | none => false

/-- The result of an exchange. -/
def xchOut (w : Nat) (l : List (List (Option (Nat × Option Nat)))) : Out :=
  outOf w (l.map fun th => th.map fun o => o.map fun r => (⟨r.1, 0#8⟩ : NumRes))

/-- An exchange's results written at once, or held where it is asynchronous (R290). -/
def xchInto (d : BitVec 6) (l : List (List (Option (Nat × Option Nat)))) (g : Group) : Group :=
  if xchAsync l then g.holdOut d (xchOut g.et.width l) else g.writeOut d (xchOut g.et.width l)

/-- An exchange. -/
def xch (g : Group) (sp : Split) (d a : BitVec 6) (q : Group → Nat → Nat → Option Nat) : GEff := .done (xchInto d (xchLanes g sp a (q g)) g)

/-- The threads whose copy of the source an exchange reads. -/
def xchReads (l : List (List (Option (Nat × Option Nat)))) : Mask :=
  l.foldl (fun m th => th.foldl (fun m o => match o.bind Prod.snd with
    | some t => m ||| 1#32 <<< t
    | none => m) m) 0

/-- What an exchange checks, reads, and how it decides to be asynchronous. -/
def xchSpec (legal : Bool) (d : BitVec 6) (a : BitVec 6) (srcs : List (BitVec 6)) (mode : Group → Bool) (q : Group → Nat → Nat → Option Nat) : IssueSpec :=
  { lanes := fun g sp f => (if f = a then xchReads (xchLanes g sp a (q g)) else 0) ||| (if f ∈ srcs.tail then sp.mask else 0)
    legal := dstOk d && srcOk a && legal, srcs := srcs, dst := some d, mode := mode, async := fun g sp => xchAsync (xchLanes g sp a (q g)) }

/-- The position read at distance n: `kind` 0 exclusive-or, 1 down from p, 2 up from p; a position outside the row reads its own (R291). -/
def atDist (kind n : Nat) (g : Group) (t s : Nat) : Option Nat :=
  let k := g.et.k
  let p := t * k + s
  let q : Int := if kind = 0 then ((p ^^^ n : Nat) : Int) else if kind = 1 then (p : Int) - n else ((p + n : Nat) : Int)
  some (if q < 0 ∨ (32 * k : Int) ≤ q then p else q.toNat)

/-- The position read at the distance that bits [9:0] of a uniform source give (R291). -/
def distAt (kind : Nat) (b : BitVec 6) (g : Group) : Nat → Nat → Option Nat := atDist kind ((g.srcS b).toNat % 1024) g

/-- XCHX: distance in bits [9:0] of an S register or ZERO (R291). -/
def execXchx (s : BitVec 1) (d a b : BitVec 6) (st : State) : Ans :=
  groupOp st s (xchSpec (isSZ b) d a [a, b] (fun _ => true) (distAt 0 b)) fun g sp => xch g sp d a (distAt 0 b)

/-- XCHU: distance in bits [9:0] of an S register or ZERO (R291). -/
def execXchu (s : BitVec 1) (d a b : BitVec 6) (st : State) : Ans :=
  groupOp st s (xchSpec (isSZ b) d a [a, b] (fun _ => true) (distAt 1 b)) fun g sp => xch g sp d a (distAt 1 b)

/-- XCHD: distance in bits [9:0] of an S register or ZERO (R291). -/
def execXchd (s : BitVec 1) (d a b : BitVec 6) (st : State) : Ans :=
  groupOp st s (xchSpec (isSZ b) d a [a, b] (fun _ => true) (distAt 2 b)) fun g sp => xch g sp d a (distAt 2 b)

/-- XCHXK: a plain distance 0 to 63 (R291). -/
def execXchxk (s : BitVec 1) (d a b : BitVec 6) (st : State) : Ans :=
  groupOp st s (xchSpec true d a [a] (fun _ => true) (atDist 0 b.toNat)) fun g sp => xch g sp d a (atDist 0 b.toNat)

/-- XCHUK: a plain distance 0 to 63 (R291). -/
def execXchuk (s : BitVec 1) (d a b : BitVec 6) (st : State) : Ans :=
  groupOp st s (xchSpec true d a [a] (fun _ => true) (atDist 1 b.toNat)) fun g sp => xch g sp d a (atDist 1 b.toNat)

/-- XCHDK: a plain distance 0 to 63 (R291). -/
def execXchdk (s : BitVec 1) (d a b : BitVec 6) (st : State) : Ans :=
  groupOp st s (xchSpec true d a [a] (fun _ => true) (atDist 2 b.toNat)) fun g sp => xch g sp d a (atDist 2 b.toNat)

/-- The position an index names: bits [9:5] the thread, bits [4:0] the sub-element; none where the sub-element is beyond the register
(R292, R293). -/
def atIndex (k i : Nat) : Option Nat := if k ≤ i % 32 then none else some (i / 32 % 32 * k + i % 32)

/-- The position that the source's own element at (t, i) names (R292). -/
def ownIndex (b : BitVec 6) (g : Group) (t i : Nat) : Option Nat :=
  atIndex g.et.k (elemAt (g.src g.et.width b) g.et.width (t * g.et.k + i))

/-- XCHI: one index per destination position (R292). -/
def execXchi (s : BitVec 1) (d a b : BitVec 6) (st : State) : Ans :=
  groupOp st s (xchSpec (srcOk b) d a [a, b] (fun g => decide (16 ≤ g.et.width)) (ownIndex b)) fun g sp => xch g sp d a (ownIndex b)

/-- The one position a broadcast reads (R293). -/
def oneIndex (b : BitVec 6) (g : Group) (_ _ : Nat) : Option Nat := atIndex g.et.k ((g.srcS b).toNat % 1024)

/-- XBC: one position broadcast (R293). -/
def execXbc (s : BitVec 1) (d a b : BitVec 6) (st : State) : Ans :=
  groupOp st s (xchSpec (isSZ b) d a [a, b] (fun _ => true) (oneIndex b)) fun g sp => xch g sp d a (oneIndex b)

/-- The active threads whose bit i of Pa is 1 (R294). -/
def ballot (g : Group) (sp : Split) (a i : Nat) : Nat :=
  packN 1 ((List.range 32).map fun t => if sp.mask.getLsbD t && (g.getP a).getLsbD (8 * t + i) then 1 else 0)

/-- What a vote over a P register checks. -/
def voteSpec (d a b : BitVec 6) : IssueSpec :=
  { guarded := false, legal := dstOk d && lt8 a && lt8 b, dst := some d, pregs := [a.toNat] }

/-- A vote result in every active thread (R294). -/
def vote (g : Group) (sp : Split) (d : BitVec 6) (f : Nat → Nat) : GEff := .done (g.writeOut d (outThreads sp.mask f))

/-- VOTE.ANY (R294). -/
def execVoteAny (s : BitVec 1) (d a b : BitVec 6) (st : State) : Ans :=
  groupOp st s (voteSpec d a b) fun g sp => vote g sp d fun _ => if ballot g sp a.toNat b.toNat = 0 then 0 else 1

/-- VOTE.ALL (R294). -/
def execVoteAll (s : BitVec 1) (d a b : BitVec 6) (st : State) : Ans :=
  groupOp st s (voteSpec d a b) fun g sp => vote g sp d fun _ => if ballot g sp a.toNat b.toNat = sp.mask.toNat then 1 else 0

/-- VOTE.EQ (R294). -/
def execVoteEq (s : BitVec 1) (d a b : BitVec 6) (st : State) : Ans :=
  groupOp st s (voteSpec d a b) fun g sp => vote g sp d fun _ =>
    let m := ballot g sp a.toNat b.toNat
    if m = 0 ∨ m = sp.mask.toNat then 1 else 0

/-- VOTE.BALLOT (R294). -/
def execVoteBallot (s : BitVec 1) (d a b : BitVec 6) (st : State) : Ans :=
  groupOp st s (voteSpec d a b) fun g sp => vote g sp d fun _ => ballot g sp a.toNat b.toNat

/-- VOTE.ELECT (R294). -/
def execVoteElect (s : BitVec 1) (d : BitVec 6) (st : State) : Ans :=
  groupOp st s { guarded := false, legal := dstOk d, dst := some d } fun g sp =>
    vote g sp d fun t => if lowThread sp.mask = some t then 1 else 0

/-- VOTE.MATCH (R294). -/
def execVoteMatch (s : BitVec 1) (d a : BitVec 6) (st : State) : Ans :=
  groupOp st s { guarded := false, legal := dstOk d && srcOk a, srcs := [a], dst := some d } fun g sp =>
    let row := g.src 64 a
    vote g sp d fun t => packN 1 ((List.range 32).map fun u => if sp.mask.getLsbD u && laneAt row u == laneAt row t then 1 else 0)

/-- Position (t, s) participates (R295). -/
def participates (g : Group) (sp : Split) (w t s : Nat) : Bool := sp.mask.getLsbD t && g.enabled w t s

/-- The values of a reduction or scan: a participating position's own, the identity elsewhere (R295). -/
def redVals (g : Group) (sp : Split) (w : Nat) (a b : BitVec 6) : List (List Nat) :=
  let row := g.src w a
  let idv := (g.srcS b).toNat % 2 ^ w
  let k := 64 / w
  (List.range 32).map fun t => (List.range k).map fun s =>
    if participates g sp w t s then elemAt row w (t * k + s) else idv

/-- The left-to-right prefixes of one thread's values, with the flags raised so far (R257 step 1). -/
def prefixes (f : Nat → Nat → NumRes) (acc : Nat) (fl : Flags) (l : List Nat) : List Nat × Flags :=
  match l with
  | [] => ([acc], fl)
  | x :: r =>
    let y := f acc x
    let p := prefixes f y.bits (fl ||| y.flags) r
    (acc :: p.1, p.2)

/-- One thread's prefixes. -/
def threadPrefix (f : Nat → Nat → NumRes) (l : List Nat) : List Nat × Flags :=
  match l with
  | [] => ([0], 0#8)
  | x :: r => prefixes f x 0#8 r

/-- One level of the tree of R257 step 2: v(t) becomes v(t) with v(t + d) for every t that is a multiple of 2d. -/
def redLevel (f : Nat → Nat → NumRes) (d : Nat) (v : List Nat) (fl : Flags) : List Nat × Flags :=
  let rs := (List.range 32).map fun t =>
    if t % (2 * d) = 0 then f (v.getD t 0) (v.getD (t + d) 0) else ⟨v.getD t 0, 0#8⟩
  (rs.map NumRes.bits, rs.foldl (fun acc r => acc ||| r.flags) fl)

/-- One level of R257 step 3: v(t) becomes v(t − d) with v(t) for every t at or above d, from the values before the step. -/
def scanLevel (f : Nat → Nat → NumRes) (d : Nat) (v : List Nat) (fl : Flags) : List Nat × Flags :=
  let rs := (List.range 32).map fun t =>
    if d ≤ t then f (v.getD (t - d) 0) (v.getD t 0) else ⟨v.getD t 0, 0#8⟩
  (rs.map NumRes.bits, rs.foldl (fun acc r => acc ||| r.flags) fl)

/-- The reduction of R257 over 32 threads' values. -/
def reduce (f : Nat → Nat → NumRes) (vals : List (List Nat)) : NumRes :=
  let ps := vals.map (threadPrefix f)
  let v0 := ps.map fun p => p.1.getLastD 0
  let fl0 := ps.foldl (fun acc p => acc ||| p.2) 0#8
  let r := [1, 2, 4, 8, 16].foldl (fun a d => redLevel f d a.1 a.2) (v0, fl0)
  ⟨r.1.getD 0 0, r.2⟩

/-- A scan's value at position 0, which no operation has formed: a NaN is the canonical one, a BF16 subnormal a zero (R247, R248). -/
def scanAlone (g : Group) (x : Nat) : NumRes :=
  if !g.et.isFp then ⟨x, 0#8⟩ else match readF (fmtOf g.et) x with
    | .nan s => nanRes (fmtOf g.et) s
    | v => ⟨encF (fmtOf g.et) v, 0#8⟩

/-- The inclusive prefixes of R257 over 32 threads' values, by thread and sub-element, with the flags raised. -/
def scanAll (f : Nat → Nat → NumRes) (vals : List (List Nat)) : List (List Nat) × Flags :=
  let ps := vals.map (threadPrefix f)
  let v0 := ps.map fun p => p.1.getLastD 0
  let fl0 := ps.foldl (fun acc p => acc ||| p.2) 0#8
  let r := [1, 2, 4, 8, 16].foldl (fun a d => scanLevel f d a.1 a.2) (v0, fl0)
  let rs := (List.range 32).map fun t =>
    ((ps.getD t ([], 0#8)).1).map fun x => if t = 0 then (⟨x, 0#8⟩ : NumRes) else f (r.1.getD (t - 1) 0) x
  (rs.map fun th => th.map NumRes.bits, rs.foldl (fun acc th => th.foldl (fun acc x => acc ||| x.flags) acc) r.2)

/-- The operation of a reduction: 0 addition, 1 minimum, 2 maximum, 3 and, 4 or, 5 exclusive or, 6 to 8 the floating-point three (R296). -/
def redOp (g : Group) (fn : Nat) (x y : Nat) : NumRes :=
  let t := g.et
  let fm := fmtOf t
  match fn with
  | 0 => intBin t g.sat (· + ·) x y
  | 1 => intExact t min x y
  | 2 => intExact t max x y
  | 3 => bitBin t (· &&& ·) x y
  | 4 => bitBin t (· ||| ·) x y
  | 5 => bitBin t (· ^^^ ·) x y
  | 6 => addF fm g.rm (readF fm x) (readF fm y)
  | 7 => minmaxF fm false (readF fm x) (readF fm y)
  | _ => minmaxF fm true (readF fm x) (readF fm y)

/-- The participating threads lie in more than one aligned block of four (R30). -/
def redAsync (g : Group) (sp : Split) : Bool :=
  let w := g.et.width
  let ts := (List.range 32).filter fun t => (List.range (64 / w)).any fun s => participates g sp w t s
  ts.any fun t => ts.any fun u => decide (t / 4 ≠ u / 4)

/-- A result with one flag set for the whole instruction (R296). -/
def withFlags (o : Out) (mask : Mask) (fl : Flags) : Out :=
  { o with flags := (List.range 32).map fun t => if mask.getLsbD t then fl else 0#8 }

/-- What a reduction, scan or compaction checks: b names the identity, in an S register or ZERO (R295). -/
def redSpec (d a b : BitVec 6) (fnOk : Bool) (mode : Group → Bool) (async : Group → Split → Bool) : IssueSpec :=
  { legal := dstOk d && srcOk a && isSZ b && fnOk, srcs := [a, b], dst := some d, mode := mode, async := async }

/-- REDU (R296). -/
def execRedu (s : BitVec 1) (d a b f : BitVec 6) (st : State) : Ans :=
  groupOp st s (redSpec d a b (decide (f.toNat ≤ 8)) (fun g => if f.toNat < 6 then intEt g else g.et.isFp) redAsync) fun g sp =>
    let w := g.et.width
    let r := reduce (redOp g f.toNat) (redVals g sp w a b)
    let o := withFlags (outOf w (lanesOf sp.mask (64 / w) (g.enabled w) fun _ _ => ⟨r.bits, 0#8⟩)) sp.mask r.flags
    .done (if redAsync g sp then g.holdOut d o else g.writeOut d o)

/-- The operation of a scan: addition, minimum or maximum, integer or floating point by MODE.ET (R297). -/
def scanFn (g : Group) (fn : Nat) : Nat → Nat → NumRes := redOp g (if g.et.isFp then 6 + fn / 2 else fn / 2)

/-- SCAN: the inclusive (even fn) or exclusive (odd fn) prefix at each participating position (R297). -/
def execScan (s : BitVec 1) (d a b f : BitVec 6) (st : State) : Ans :=
  groupOp st s (redSpec d a b (decide (f.toNat ≤ 5)) (fun g => intEt g || g.et.isFp) redAsync) fun g sp =>
    let w := g.et.width
    let k := 64 / w
    let r := scanAll (scanFn g f.toNat) (redVals g sp w a b)
    let idv := scanAlone g ((g.srcS b).toNat % 2 ^ w)
    let first := scanAlone g ((r.1.getD 0 []).getD 0 0)
    let at' := fun p => if p = 0 then first.bits else (r.1.getD (p / k) []).getD (p % k) 0
    let o := outOf w (lanesOf sp.mask k (g.enabled w) fun t i =>
      let p := t * k + i
      ⟨if f.toNat % 2 = 0 then at' p else if p = 0 then idv.bits else at' (p - 1), 0#8⟩)
    let o := withFlags o sp.mask (r.2 ||| first.flags ||| (if f.toNat % 2 = 0 then 0#8 else idv.flags))
    .done (if redAsync g sp then g.holdOut d o else g.writeOut d o)

/-- The selected values of a compaction, in ascending position, with the thread each stands in (R298). -/
def cptVals (g : Group) (sp : Split) (a : BitVec 6) : List (Nat × Nat) :=
  let w := g.et.width
  let k := 64 / w
  let row := g.src w a
  ((List.range (32 * k)).filter fun p => participates g sp w (p / k) (p % k)).map fun p => (elemAt row w p, p / k)

/-- The slots of a compaction: every position of every active thread, ascending (R298). -/
def cptSlots (g : Group) (sp : Split) : List Nat :=
  let k := g.et.k
  (List.range (32 * k)).filter fun p => sp.mask.getLsbD (p / k)

/-- Some value fills a slot outside its own thread's block (R30). -/
def cptAsync (g : Group) (sp : Split) (a : BitVec 6) : Bool :=
  ((cptSlots g sp).zip (cptVals g sp a)).any fun e => decide (e.1 / g.et.k / 4 ≠ e.2.2 / 4)

/-- CPT: the selected values packed into the slots in order, the identity after them (R298). -/
def execCpt (s : BitVec 1) (d a b : BitVec 6) (st : State) : Ans :=
  groupOp st s (redSpec d a b true (fun _ => true) fun g sp => cptAsync g sp a) fun g sp =>
    let w := g.et.width
    let k := 64 / w
    let vals := cptVals g sp a
    let slots := cptSlots g sp
    let idv := (g.srcS b).toNat % 2 ^ w
    let o := outOf w (lanesOf sp.mask k (fun _ _ => true) fun t i =>
      let j := (slots.filter fun p => decide (p < t * k + i)).length
      ⟨((vals.map Prod.fst).getD j idv), 0#8⟩)
    .done (if cptAsync g sp a then g.holdOut d o else g.writeOut d o)

end Sys2Proof.Machine
end

