-- ==== Sys2Proof/Machine/Float.lean ====
section
/-! DEFINITION. Floating-point arithmetic of the compute stream (R278 to R281): FOP, FUN, the FMA family and the SFU. One meaning per
instruction, over shared element operations; the SFU is asynchronous (R30, R267). -/

namespace Sys2Proof.Machine

/-- MODE.ET 8 to 11 (R266). -/
def fpEt (g : Group) : Bool := g.et.isFp

/-- A two-source floating-point operation under MODE.ET and MODE.RM. -/
def fbin (g : Group) (sp : Split) (d a b : BitVec 6) (f : Fmt → Rm → FVal → FVal → NumRes) : GEff :=
  let fm := fmtOf g.et
  .done (g.writeOut d (elem2 g sp g.et.width a b fun x y => f fm g.rm (readF fm x) (readF fm y)))

/-- A one-source floating-point operation under MODE.ET and MODE.RM. -/
def fun1 (g : Group) (sp : Split) (d a : BitVec 6) (f : Fmt → Rm → FVal → NumRes) : GEff :=
  let fm := fmtOf g.et
  .done (g.writeOut d (elem1 g sp g.et.width a fun x => f fm g.rm (readF fm x)))

/-- A four-operand floating-point operation: a × b + c with signs turned as asked, rounded once (R280). -/
def ftri (g : Group) (sp : Split) (d a b c : BitVec 6) (np nc : Bool) : GEff :=
  let fm := fmtOf g.et
  .done (g.writeOut d (elem3 g sp g.et.width a b c fun x y z =>
    let va := readF fm x
    let vc := readF fm z
    fmaF fm g.rm (if np then va.flip else va) (readF fm y) (if nc then vc.flip else vc)))

/-- The magnitude of a with the sign bit of b (R278). -/
def cpysF (fm : Fmt) (x y : Nat) : NumRes :=
  let a := readF fm x
  let n := decide (2 ^ (fm.w - 1) ≤ y % 2 ^ fm.w)
  let r := match a with
    | .nan _ => fm.nan
    | .inf _ => infOf fm n
    | .fin _ m e => encF fm (.fin n m e)
  ⟨r, ivSig [a, readF fm y]⟩

/-- What an SFU instruction checks and reads: a V or ZERO destination, since a queue destination is refused (R267). -/
def sfuSpec (d a : BitVec 6) : IssueSpec :=
  { legal := sfuDst d && srcOk a, srcs := [a], mode := fpEt, async := fun _ _ => true }

/-- An SFU result held in the write-back buffer (R281, R30). -/
def sfu (g : Group) (sp : Split) (d a : BitVec 6) (f : Fmt → Rm → FVal → NumRes) : GEff :=
  .done (g.holdOut d (elem1 g sp g.et.width a fun x => f (fmtOf g.et) g.rm (readF (fmtOf g.et) x)))

/-- FADD: round(a + b) (R278). -/
def execFadd (s : BitVec 1) (d a b : BitVec 6) (st : State) : Ans :=
  groupOp st s (binSpec d a b fpEt) fun g sp => fbin g sp d a b (addF)

/-- FSUB: round(a − b) (R278). -/
def execFsub (s : BitVec 1) (d a b : BitVec 6) (st : State) : Ans :=
  groupOp st s (binSpec d a b fpEt) fun g sp => fbin g sp d a b (fun fm rm x y => addF fm rm x y.flip)

/-- FMUL: round(a × b) (R278). -/
def execFmul (s : BitVec 1) (d a b : BitVec 6) (st : State) : Ans :=
  groupOp st s (binSpec d a b fpEt) fun g sp => fbin g sp d a b (mulF)

/-- FMIN: minimumNumber (R278). -/
def execFmin (s : BitVec 1) (d a b : BitVec 6) (st : State) : Ans :=
  groupOp st s (binSpec d a b fpEt) fun g sp => fbin g sp d a b (fun fm _ x y => minmaxF fm false x y)

/-- FMAX: maximumNumber (R278). -/
def execFmax (s : BitVec 1) (d a b : BitVec 6) (st : State) : Ans :=
  groupOp st s (binSpec d a b fpEt) fun g sp => fbin g sp d a b (fun fm _ x y => minmaxF fm true x y)

/-- FCPYS: the magnitude of a with the sign bit of b (R278). -/
def execFcpys (s : BitVec 1) (d a b : BitVec 6) (st : State) : Ans :=
  groupOp st s (binSpec d a b fpEt) fun g sp =>
    .done (g.writeOut d (elem2 g sp g.et.width a b fun x y => cpysF (fmtOf g.et) x y))

/-- FABS: abs(a) (R279). -/
def execFabs (s : BitVec 1) (d a : BitVec 6) (st : State) : Ans :=
  groupOp st s (unSpec d a fpEt) fun g sp => fun1 g sp d a (fun fm _ a => ⟨encF fm (if a.neg then a.flip else a), ivSig [a]⟩)

/-- FNEG: −a (R279). -/
def execFneg (s : BitVec 1) (d a : BitVec 6) (st : State) : Ans :=
  groupOp st s (unSpec d a fpEt) fun g sp => fun1 g sp d a (fun fm _ a => ⟨encF fm a.flip, ivSig [a]⟩)

/-- FRND: a rounded to an integral value by MODE.RM (R279). -/
def execFrnd (s : BitVec 1) (d a : BitVec 6) (st : State) : Ans :=
  groupOp st s (unSpec d a fpEt) fun g sp => fun1 g sp d a (rndF)

/-- FCLASS: the class mask of a; no flag (R279). -/
def execFclass (s : BitVec 1) (d a : BitVec 6) (st : State) : Ans :=
  groupOp st s (unSpec d a fpEt) fun g sp => fun1 g sp d a (fun fm _ a => ⟨classF fm a, 0#8⟩)

/-- FMA: a × b + c, rounded once (R280). -/
def execFma (s : BitVec 1) (d a b c : BitVec 6) (st : State) : Ans :=
  groupOp st s { legal := dstOk d && srcOk a && srcOk b && srcOk c, srcs := [a, b, c], dst := some d, mode := fpEt } fun g sp =>
    ftri g sp d a b c false false

/-- FMS: a × b − c, rounded once (R280). -/
def execFms (s : BitVec 1) (d a b c : BitVec 6) (st : State) : Ans :=
  groupOp st s { legal := dstOk d && srcOk a && srcOk b && srcOk c, srcs := [a, b, c], dst := some d, mode := fpEt } fun g sp =>
    ftri g sp d a b c false true

/-- FNMA: −(a × b) + c, rounded once (R280). -/
def execFnma (s : BitVec 1) (d a b c : BitVec 6) (st : State) : Ans :=
  groupOp st s { legal := dstOk d && srcOk a && srcOk b && srcOk c, srcs := [a, b, c], dst := some d, mode := fpEt } fun g sp =>
    ftri g sp d a b c true false

/-- FNMS: −(a × b) − c, rounded once (R280). -/
def execFnms (s : BitVec 1) (d a b c : BitVec 6) (st : State) : Ans :=
  groupOp st s { legal := dstOk d && srcOk a && srcOk b && srcOk c, srcs := [a, b, c], dst := some d, mode := fpEt } fun g sp =>
    ftri g sp d a b c true true

/-- FRCP: round(1/a) (R281). -/
def execFrcp (s : BitVec 1) (d a : BitVec 6) (st : State) : Ans :=
  groupOp st s (sfuSpec d a) fun g sp => sfu g sp d a (fun fm rm x => divF fm rm (.fin false 1 0) x)

/-- FRSQ: round(1/√a) (R281). -/
def execFrsq (s : BitVec 1) (d a : BitVec 6) (st : State) : Ans :=
  groupOp st s (sfuSpec d a) fun g sp => sfu g sp d a (fun fm rm x => rsqF fm rm x)

/-- FSQRT: round(√a) (R281). -/
def execFsqrt (s : BitVec 1) (d a : BitVec 6) (st : State) : Ans :=
  groupOp st s (sfuSpec d a) fun g sp => sfu g sp d a (fun fm rm x => sqrtF fm rm x)

/-- FEXP2: round(2^a) (R281). -/
def execFexp2 (s : BitVec 1) (d a : BitVec 6) (st : State) : Ans :=
  groupOp st s (sfuSpec d a) fun g sp => sfu g sp d a (exp2F)

/-- FLOG2: round(log2 a) (R281). -/
def execFlog2 (s : BitVec 1) (d a : BitVec 6) (st : State) : Ans :=
  groupOp st s (sfuSpec d a) fun g sp => sfu g sp d a (log2F)

/-- FSIN: round(sin a) (R281). -/
def execFsin (s : BitVec 1) (d a : BitVec 6) (st : State) : Ans :=
  groupOp st s (sfuSpec d a) fun g sp => sfu g sp d a (fun fm rm => sincosF fm rm false)

/-- FCOS: round(cos a) (R281). -/
def execFcos (s : BitVec 1) (d a : BitVec 6) (st : State) : Ans :=
  groupOp st s (sfuSpec d a) fun g sp => sfu g sp d a (fun fm rm => sincosF fm rm true)

/-- FTANH: round(tanh a) (R281). -/
def execFtanh (s : BitVec 1) (d a : BitVec 6) (st : State) : Ans :=
  groupOp st s (sfuSpec d a) fun g sp => sfu g sp d a (tanhF)

/-- FDIV: round(a / b) (R281). -/
def execFdiv (s : BitVec 1) (d a b : BitVec 6) (st : State) : Ans :=
  groupOp st s { sfuSpec d a with legal := sfuDst d && srcOk a && srcOk b, srcs := [a, b] } fun g sp =>
    let fm := fmtOf g.et
    .done (g.holdOut d (elem2 g sp g.et.width a b fun x y => divF fm g.rm (readF fm x) (readF fm y)))

end Sys2Proof.Machine
end

