-- ==== Sys2Proof/Machine/Dispatch.lean ====
section
/-! DEFINITION. One arm per instruction: each calls its meaning. -/

namespace Sys2Proof.Machine

/-- The meaning of an instruction or a machine operation in a state. -/
def exec (i : Instr) (s : State) : Host.Outcome State Fault Refusal :=
  match i with
  | .nop x_s => Sys2Proof.Machine.execNop x_s s
  | .bra x_s o => Sys2Proof.Machine.execBra x_s o s
  | .brc x_s r c o => Sys2Proof.Machine.execBrc x_s r c o s
  | .brd x_s p n o => Sys2Proof.Machine.execBrd x_s p n o s
  | .jmpi x_s a => Sys2Proof.Machine.execJmpi x_s a s
  | .call x_s o => Sys2Proof.Machine.execCall x_s o s
  | .ret x_s => Sys2Proof.Machine.execRet x_s s
  | .modei x_s x_i => Sys2Proof.Machine.execModei x_s x_i s
  | .moder x_s a => Sys2Proof.Machine.execModer x_s a s
  | .bar x_s a => Sys2Proof.Machine.execBar x_s a s
  | .syncs x_s a => Sys2Proof.Machine.execSyncs x_s a s
  | .gbar x_s => Sys2Proof.Machine.execGbar x_s s
  | .waitc x_s a b => Sys2Proof.Machine.execWaitc x_s a b s
  | .waitm x_s a b => Sys2Proof.Machine.execWaitm x_s a b s
  | .sleep x_s a x_i => Sys2Proof.Machine.execSleep x_s a x_i s
  | .yield x_s => Sys2Proof.Machine.execYield x_s s
  | .launch x_s d a b => Sys2Proof.Machine.execLaunch x_s d a b s
  | .joinc x_s a => Sys2Proof.Machine.execJoinc x_s a s
  | .exit x_s => Sys2Proof.Machine.execExit x_s s
  | .trap x_s x_i => Sys2Proof.Machine.execTrap x_s x_i s
  | .tret x_s => Sys2Proof.Machine.execTret x_s s
  | .gets x_s d x_i => Sys2Proof.Machine.execGets x_s d x_i s
  | .puts x_s a x_i => Sys2Proof.Machine.execPuts x_s a x_i s
  | .clockCycle x_s d => Sys2Proof.Machine.execClockCycle x_s d s
  | .clockHubcyc x_s d => Sys2Proof.Machine.execClockHubcyc x_s d s
  | .clockPtpns x_s d => Sys2Proof.Machine.execClockPtpns x_s d s
  | .gset x_s d a b f => Sys2Proof.Machine.execGset x_s d a b f s
  | .bkpt x_s x_i => Sys2Proof.Machine.execBkpt x_s x_i s
  | .add x_s d a b => Sys2Proof.Machine.execAdd x_s d a b s
  | .sub x_s d a b => Sys2Proof.Machine.execSub x_s d a b s
  | .mul x_s d a b => Sys2Proof.Machine.execMul x_s d a b s
  | .mulh x_s d a b => Sys2Proof.Machine.execMulh x_s d a b s
  | .min x_s d a b => Sys2Proof.Machine.execMin x_s d a b s
  | .max x_s d a b => Sys2Proof.Machine.execMax x_s d a b s
  | .and x_s d a b => Sys2Proof.Machine.execAnd x_s d a b s
  | .or x_s d a b => Sys2Proof.Machine.execOr x_s d a b s
  | .xor x_s d a b => Sys2Proof.Machine.execXor x_s d a b s
  | .andn x_s d a b => Sys2Proof.Machine.execAndn x_s d a b s
  | .shl x_s d a b => Sys2Proof.Machine.execShl x_s d a b s
  | .shr x_s d a b => Sys2Proof.Machine.execShr x_s d a b s
  | .rot x_s d a b => Sys2Proof.Machine.execRot x_s d a b s
  | .addc x_s d a b => Sys2Proof.Machine.execAddc x_s d a b s
  | .subb x_s d a b => Sys2Proof.Machine.execSubb x_s d a b s
  | .absd x_s d a b => Sys2Proof.Machine.execAbsd x_s d a b s
  | .neg x_s d a => Sys2Proof.Machine.execNeg x_s d a s
  | .abs x_s d a => Sys2Proof.Machine.execAbs x_s d a s
  | .not x_s d a => Sys2Proof.Machine.execNot x_s d a s
  | .clz x_s d a => Sys2Proof.Machine.execClz x_s d a s
  | .ctz x_s d a => Sys2Proof.Machine.execCtz x_s d a s
  | .popc x_s d a => Sys2Proof.Machine.execPopc x_s d a s
  | .brev x_s d a => Sys2Proof.Machine.execBrev x_s d a s
  | .mad x_s d a b c => Sys2Proof.Machine.execMad x_s d a b c s
  | .bfe x_s d a b c => Sys2Proof.Machine.execBfe x_s d a b c s
  | .bfi x_s d a b c => Sys2Proof.Machine.execBfi x_s d a b c s
  | .addi x_s d a x_i => Sys2Proof.Machine.execAddi x_s d a x_i s
  | .shi x_s d a k n => Sys2Proof.Machine.execShi x_s d a k n s
  | .lit x_s d h x_i => Sys2Proof.Machine.execLit x_s d h x_i s
  | .cmp x_s d a b c => Sys2Proof.Machine.execCmp x_s d a b c s
  | .sel x_s d a b c => Sys2Proof.Machine.execSel x_s d a b c s
  | .pand x_s d a b => Sys2Proof.Machine.execPand x_s d a b s
  | .por x_s d a b => Sys2Proof.Machine.execPor x_s d a b s
  | .pxor x_s d a b => Sys2Proof.Machine.execPxor x_s d a b s
  | .pnot x_s d a => Sys2Proof.Machine.execPnot x_s d a s
  | .pmov x_s d a b => Sys2Proof.Machine.execPmov x_s d a b s
  | .pset x_s d a => Sys2Proof.Machine.execPset x_s d a s
  | .pget x_s d a => Sys2Proof.Machine.execPget x_s d a s
  | .mov x_s d a => Sys2Proof.Machine.execMov x_s d a s
  | .bcst x_s d a b => Sys2Proof.Machine.execBcst x_s d a b s
  | .vtos x_s d a b => Sys2Proof.Machine.execVtos x_s d a b s
  | .stov x_s d a b => Sys2Proof.Machine.execStov x_s d a b s
  | .fadd x_s d a b => Sys2Proof.Machine.execFadd x_s d a b s
  | .fsub x_s d a b => Sys2Proof.Machine.execFsub x_s d a b s
  | .fmul x_s d a b => Sys2Proof.Machine.execFmul x_s d a b s
  | .fmin x_s d a b => Sys2Proof.Machine.execFmin x_s d a b s
  | .fmax x_s d a b => Sys2Proof.Machine.execFmax x_s d a b s
  | .fcpys x_s d a b => Sys2Proof.Machine.execFcpys x_s d a b s
  | .fabs x_s d a => Sys2Proof.Machine.execFabs x_s d a s
  | .fneg x_s d a => Sys2Proof.Machine.execFneg x_s d a s
  | .frnd x_s d a => Sys2Proof.Machine.execFrnd x_s d a s
  | .fclass x_s d a => Sys2Proof.Machine.execFclass x_s d a s
  | .fma x_s d a b c => Sys2Proof.Machine.execFma x_s d a b c s
  | .fms x_s d a b c => Sys2Proof.Machine.execFms x_s d a b c s
  | .fnma x_s d a b c => Sys2Proof.Machine.execFnma x_s d a b c s
  | .fnms x_s d a b c => Sys2Proof.Machine.execFnms x_s d a b c s
  | .frcp x_s d a => Sys2Proof.Machine.execFrcp x_s d a s
  | .frsq x_s d a => Sys2Proof.Machine.execFrsq x_s d a s
  | .fsqrt x_s d a => Sys2Proof.Machine.execFsqrt x_s d a s
  | .fexp2 x_s d a => Sys2Proof.Machine.execFexp2 x_s d a s
  | .flog2 x_s d a => Sys2Proof.Machine.execFlog2 x_s d a s
  | .fsin x_s d a => Sys2Proof.Machine.execFsin x_s d a s
  | .fcos x_s d a => Sys2Proof.Machine.execFcos x_s d a s
  | .ftanh x_s d a => Sys2Proof.Machine.execFtanh x_s d a s
  | .fdiv x_s d a b => Sys2Proof.Machine.execFdiv x_s d a b s
  | .cvt x_s d a => Sys2Proof.Machine.execCvt x_s d a s
  | .cvts x_s d a b => Sys2Proof.Machine.execCvts x_s d a b s
  | .pack x_s d a b => Sys2Proof.Machine.execPack x_s d a b s
  | .unpk x_s d a b => Sys2Proof.Machine.execUnpk x_s d a b s
  | .qnt x_s d a b q k => Sys2Proof.Machine.execQnt x_s d a b q k s
  | .dqnt x_s d a b q k => Sys2Proof.Machine.execDqnt x_s d a b q k s
  | .sadd x_s d a b => Sys2Proof.Machine.execSadd x_s d a b s
  | .ssub x_s d a b => Sys2Proof.Machine.execSsub x_s d a b s
  | .smul x_s d a b => Sys2Proof.Machine.execSmul x_s d a b s
  | .smulh x_s d a b => Sys2Proof.Machine.execSmulh x_s d a b s
  | .smin x_s d a b => Sys2Proof.Machine.execSmin x_s d a b s
  | .smax x_s d a b => Sys2Proof.Machine.execSmax x_s d a b s
  | .sand x_s d a b => Sys2Proof.Machine.execSand x_s d a b s
  | .sor x_s d a b => Sys2Proof.Machine.execSor x_s d a b s
  | .sxor x_s d a b => Sys2Proof.Machine.execSxor x_s d a b s
  | .sandn x_s d a b => Sys2Proof.Machine.execSandn x_s d a b s
  | .sshl x_s d a b => Sys2Proof.Machine.execSshl x_s d a b s
  | .sshr x_s d a b => Sys2Proof.Machine.execSshr x_s d a b s
  | .srot x_s d a b => Sys2Proof.Machine.execSrot x_s d a b s
  | .saddi x_s d a x_i => Sys2Proof.Machine.execSaddi x_s d a x_i s
  | .slit x_s d h x_i => Sys2Proof.Machine.execSlit x_s d h x_i s
  | .xchx x_s d a b => Sys2Proof.Machine.execXchx x_s d a b s
  | .xchu x_s d a b => Sys2Proof.Machine.execXchu x_s d a b s
  | .xchd x_s d a b => Sys2Proof.Machine.execXchd x_s d a b s
  | .xchxk x_s d a b => Sys2Proof.Machine.execXchxk x_s d a b s
  | .xchuk x_s d a b => Sys2Proof.Machine.execXchuk x_s d a b s
  | .xchdk x_s d a b => Sys2Proof.Machine.execXchdk x_s d a b s
  | .xchi x_s d a b => Sys2Proof.Machine.execXchi x_s d a b s
  | .xbc x_s d a b => Sys2Proof.Machine.execXbc x_s d a b s
  | .voteAny x_s d a b => Sys2Proof.Machine.execVoteAny x_s d a b s
  | .voteAll x_s d a b => Sys2Proof.Machine.execVoteAll x_s d a b s
  | .voteEq x_s d a b => Sys2Proof.Machine.execVoteEq x_s d a b s
  | .voteBallot x_s d a b => Sys2Proof.Machine.execVoteBallot x_s d a b s
  | .voteElect x_s d => Sys2Proof.Machine.execVoteElect x_s d s
  | .voteMatch x_s d a => Sys2Proof.Machine.execVoteMatch x_s d a s
  | .redu x_s d a b f => Sys2Proof.Machine.execRedu x_s d a b f s
  | .scan x_s d a b f => Sys2Proof.Machine.execScan x_s d a b f s
  | .cpt x_s d a b => Sys2Proof.Machine.execCpt x_s d a b s
  | .tbind x_s t r => Sys2Proof.Machine.execTbind x_s t r s
  | .tzero x_s t r => Sys2Proof.Machine.execTzero x_s t r s
  | .tzeroAll x_s t => Sys2Proof.Machine.execTzeroAll x_s t s
  | .mma x_s t a b r k => Sys2Proof.Machine.execMma x_s t a b r k s
  | .mmak x_s t a b r k => Sys2Proof.Machine.execMmak x_s t a b r k s
  | .mmat x_s t a b r k => Sys2Proof.Machine.execMmat x_s t a b r k s
  | .mmas x_s t a b r k => Sys2Proof.Machine.execMmas x_s t a b r k s
  | .trdRow x_s t r x_i v => Sys2Proof.Machine.execTrdRow x_s t r x_i v s
  | .trdCol x_s t r x_i v => Sys2Proof.Machine.execTrdCol x_s t r x_i v s
  | .twrRow x_s t r x_i v => Sys2Proof.Machine.execTwrRow x_s t r x_i v s
  | .twrCol x_s t r x_i v => Sys2Proof.Machine.execTwrCol x_s t r x_i v s
  | .tmove x_s t r u => Sys2Proof.Machine.execTmove x_s t r u s
  | .tmoveAdd x_s t r u => Sys2Proof.Machine.execTmoveAdd x_s t r u s
  | .tfree x_s t => Sys2Proof.Machine.execTfree x_s t s
  | .twait x_s t => Sys2Proof.Machine.execTwait x_s t s
  | .twaitAll x_s => Sys2Proof.Machine.execTwaitAll x_s s
  | .anop x_s => Sys2Proof.Machine.execAnop x_s s
  | .abr x_s o => Sys2Proof.Machine.execAbr x_s o s
  | .abeq x_s a b o => Sys2Proof.Machine.execAbeq x_s a b o s
  | .abne x_s a b o => Sys2Proof.Machine.execAbne x_s a b o s
  | .ablt x_s a b o => Sys2Proof.Machine.execAblt x_s a b o s
  | .abge x_s a b o => Sys2Proof.Machine.execAbge x_s a b o s
  | .abltn x_s a b o => Sys2Proof.Machine.execAbltn x_s a b o s
  | .abgen x_s a b o => Sys2Proof.Machine.execAbgen x_s a b o s
  | .aloop x_s a o => Sys2Proof.Machine.execAloop x_s a o s
  | .ajmpi x_s a => Sys2Proof.Machine.execAjmpi x_s a s
  | .aend x_s => Sys2Proof.Machine.execAend x_s s
  | .aadd x_s d a b => Sys2Proof.Machine.execAadd x_s d a b s
  | .asub x_s d a b => Sys2Proof.Machine.execAsub x_s d a b s
  | .amul x_s d a b => Sys2Proof.Machine.execAmul x_s d a b s
  | .amulh x_s d a b => Sys2Proof.Machine.execAmulh x_s d a b s
  | .aand x_s d a b => Sys2Proof.Machine.execAand x_s d a b s
  | .aor x_s d a b => Sys2Proof.Machine.execAor x_s d a b s
  | .axor x_s d a b => Sys2Proof.Machine.execAxor x_s d a b s
  | .ashl x_s d a b => Sys2Proof.Machine.execAshl x_s d a b s
  | .ashr x_s d a b => Sys2Proof.Machine.execAshr x_s d a b s
  | .asra x_s d a b => Sys2Proof.Machine.execAsra x_s d a b s
  | .amin x_s d a b => Sys2Proof.Machine.execAmin x_s d a b s
  | .amax x_s d a b => Sys2Proof.Machine.execAmax x_s d a b s
  | .aminn x_s d a b => Sys2Proof.Machine.execAminn x_s d a b s
  | .amaxn x_s d a b => Sys2Proof.Machine.execAmaxn x_s d a b s
  | .aaddi x_s d a x_i => Sys2Proof.Machine.execAaddi x_s d a x_i s
  | .ali x_s d x_i => Sys2Proof.Machine.execAli x_s d x_i s
  | .alim x_s d x_i => Sys2Proof.Machine.execAlim x_s d x_i s
  | .alit x_s d x_i => Sys2Proof.Machine.execAlit x_s d x_i s
  | .aliq x_s d x_i => Sys2Proof.Machine.execAliq x_s d x_i s
  | .apop x_s d t => Sys2Proof.Machine.execApop x_s d t s
  | .apopK x_s d t => Sys2Proof.Machine.execApopK x_s d t s
  | .apush x_s d a => Sys2Proof.Machine.execApush x_s d a s
  | .rtick x_s => Sys2Proof.Machine.execRtick x_s s
  | .setd x_s d a x_i => Sys2Proof.Machine.execSetd x_s d a x_i s
  | .agets x_s d x_i => Sys2Proof.Machine.execAgets x_s d x_i s
  | .vdefGlob x_s d a => Sys2Proof.Machine.execVdefGlob x_s d a s
  | .vdefCore x_s d a => Sys2Proof.Machine.execVdefCore x_s d a s
  | .vset x_s d a f => Sys2Proof.Machine.execVset x_s d a f s
  | .vget x_s d b f => Sys2Proof.Machine.execVget x_s d b f s
  | .ldt x_s q v a d g e c => Sys2Proof.Machine.execLdt x_s q v a d g e c s
  | .ldg x_s q v a d g e c => Sys2Proof.Machine.execLdg x_s q v a d g e c s
  | .lda x_s x v a d g e c => Sys2Proof.Machine.execLda x_s x v a d g e c s
  | .ldp x_s q v a d g e c => Sys2Proof.Machine.execLdp x_s q v a d g e c s
  | .stt x_s v a d g e c => Sys2Proof.Machine.execStt x_s v a d g e c s
  | .stg x_s v a d g e c => Sys2Proof.Machine.execStg x_s v a d g e c s
  | .sta x_s v a d g e c => Sys2Proof.Machine.execSta x_s v a d g e c s
  | .pref x_s v a d g e c => Sys2Proof.Machine.execPref x_s v a d g e c s
  | .atom x_s q v a o c p => Sys2Proof.Machine.execAtom x_s q v a o c p s
  | .atoma x_s d a b p o c => Sys2Proof.Machine.execAtoma x_s d a b p o c s
  | .fence x_s c k => Sys2Proof.Machine.execFence x_s c k s
  | .xfence x_s f t c => Sys2Proof.Machine.execXfence x_s f t c s
  | .cpy x_s d c g e => Sys2Proof.Machine.execCpy x_s d c g e s
  | .hand x_s d c g e => Sys2Proof.Machine.execHand x_s d c g e s
  | .xfer x_s d c g e h p => Sys2Proof.Machine.execXfer x_s d c g e h p s
  | .xmc x_s d c g e h p => Sys2Proof.Machine.execXmc x_s d c g e h p s
  | .ctrset x_s a b => Sys2Proof.Machine.execCtrset x_s a b s
  | .ctrsetT x_s a b => Sys2Proof.Machine.execCtrsetT x_s a b s
  | .ctradd x_s a b => Sys2Proof.Machine.execCtradd x_s a b s
  | .ctrget x_s d a => Sys2Proof.Machine.execCtrget x_s d a s
  | .ctrgetT x_s d a => Sys2Proof.Machine.execCtrgetT x_s d a s
  | .awaitc x_s a b => Sys2Proof.Machine.execAwaitc x_s a b s
  | .awaitcT x_s a => Sys2Proof.Machine.execAwaitcT x_s a s
  | .wadd v d a b x => Sys2Proof.Machine.execWadd v d a b x s
  | .waddI v d a x_i => Sys2Proof.Machine.execWaddI v d a x_i s
  | .wsub v d a b x => Sys2Proof.Machine.execWsub v d a b x s
  | .wsubI v d a x_i => Sys2Proof.Machine.execWsubI v d a x_i s
  | .wmul v d a b x => Sys2Proof.Machine.execWmul v d a b x s
  | .wmulI v d a x_i => Sys2Proof.Machine.execWmulI v d a x_i s
  | .wand v d a b x => Sys2Proof.Machine.execWand v d a b x s
  | .wandI v d a x_i => Sys2Proof.Machine.execWandI v d a x_i s
  | .wor v d a b x => Sys2Proof.Machine.execWor v d a b x s
  | .worI v d a x_i => Sys2Proof.Machine.execWorI v d a x_i s
  | .wxor v d a b x => Sys2Proof.Machine.execWxor v d a b x s
  | .wxorI v d a x_i => Sys2Proof.Machine.execWxorI v d a x_i s
  | .wshl v d a b x => Sys2Proof.Machine.execWshl v d a b x s
  | .wshlI v d a x_i => Sys2Proof.Machine.execWshlI v d a x_i s
  | .wshr v d a b x => Sys2Proof.Machine.execWshr v d a b x s
  | .wshrI v d a x_i => Sys2Proof.Machine.execWshrI v d a x_i s
  | .wmin v d a b x => Sys2Proof.Machine.execWmin v d a b x s
  | .wminI v d a x_i => Sys2Proof.Machine.execWminI v d a x_i s
  | .wmax v d a b x => Sys2Proof.Machine.execWmax v d a b x s
  | .wmaxI v d a x_i => Sys2Proof.Machine.execWmaxI v d a x_i s
  | .wcmp v c d a b x => Sys2Proof.Machine.execWcmp v c d a b x s
  | .wsel v d a b c => Sys2Proof.Machine.execWsel v d a b c s
  | .wmovW d a => Sys2Proof.Machine.execWmovW d a s
  | .wmovX d a => Sys2Proof.Machine.execWmovX d a s
  | .wmovWx d a => Sys2Proof.Machine.execWmovWx d a s
  | .wmovXl d a l => Sys2Proof.Machine.execWmovXl d a l s
  | .wmovWl d a l => Sys2Proof.Machine.execWmovWl d a l s
  | .wli v d x_i => Sys2Proof.Machine.execWli v d x_i s
  | .wliH v d x_i => Sys2Proof.Machine.execWliH v d x_i s
  | .whdr r f => Sys2Proof.Machine.execWhdr r f s
  | .whdrW r => Sys2Proof.Machine.execWhdrW r s
  | .wseth r f => Sys2Proof.Machine.execWseth r f s
  | .wldp w c => Sys2Proof.Machine.execWldp w c s
  | .wldpX w x c => Sys2Proof.Machine.execWldpX w x c s
  | .wstp w c => Sys2Proof.Machine.execWstp w c s
  | .wstpX w x c => Sys2Proof.Machine.execWstpX w x c s
  | .wldf w x x_i => Sys2Proof.Machine.execWldf w x x_i s
  | .wstf w x x_i => Sys2Proof.Machine.execWstf w x x_i s
  | .watf p d a b x_i => Sys2Proof.Machine.execWatf p d a b x_i s
  | .whash d a n => Sys2Proof.Machine.execWhash d a n s
  | .whashLk d a => Sys2Proof.Machine.execWhashLk d a s
  | .wrep n l => Sys2Proof.Machine.execWrep n l s
  | .wbr o => Sys2Proof.Machine.execWbr o s
  | .wbrCc c a o => Sys2Proof.Machine.execWbrCc c a o s
  | .wdup a => Sys2Proof.Machine.execWdup a s
  | .wtrap c a => Sys2Proof.Machine.execWtrap c a s
  | .wfwd => Sys2Proof.Machine.execWfwd s
  | .wdrop => Sys2Proof.Machine.execWdrop s
  | .wend => Sys2Proof.Machine.execWend s
  | .moduleReset => Sys2Proof.Machine.execModuleReset s
  | .create => Sys2Proof.Machine.execCreate s
  | .destroy => Sys2Proof.Machine.execDestroy s
  | .preempt => Sys2Proof.Machine.execPreempt s
  | .resume => Sys2Proof.Machine.execResume s
  | .oscount => Sys2Proof.Machine.execOscount s
  | .ctlcas port v => Sys2Proof.Machine.execCtlcas port v s
  | .ctlsemLeaseExpiry => Sys2Proof.Machine.execCtlsemLeaseExpiry s
  | .reset => Sys2Proof.Machine.execReset s
  | .modeset => Sys2Proof.Machine.execModeset s
  | .fwupdate => Sys2Proof.Machine.execFwupdate s
  | .slate res owner ofs => Sys2Proof.Machine.execSlate res owner ofs s
  | .freeze => Sys2Proof.Machine.execFreeze s
  | .thaw => Sys2Proof.Machine.execThaw s
  | .attest => Sys2Proof.Machine.execAttest s
  | .domset => Sys2Proof.Machine.execDomset s
  | .domclr => Sys2Proof.Machine.execDomclr s
  | .peerset => Sys2Proof.Machine.execPeerset s
  | .peerclr => Sys2Proof.Machine.execPeerclr s
  | .peertmo => Sys2Proof.Machine.execPeertmo s
  | .devno => Sys2Proof.Machine.execDevno s
  | .unitret => Sys2Proof.Machine.execUnitret s
  | .unitrst pass => Sys2Proof.Machine.execUnitrst pass s
  | .dierst pass => Sys2Proof.Machine.execDierst pass s
  | .load => Sys2Proof.Machine.execLoad s
  | .unload => Sys2Proof.Machine.execUnload s
  | .flowrd => Sys2Proof.Machine.execFlowrd s
  | .flowwr => Sys2Proof.Machine.execFlowwr s
  | .checkpoint res owner ofs => Sys2Proof.Machine.execCheckpoint res owner ofs s
  | .restore man data => Sys2Proof.Machine.execRestore man data s
  | .arm => Sys2Proof.Machine.execArm s
  | .go => Sys2Proof.Machine.execGo s
  | .stop => Sys2Proof.Machine.execStop s
  | .replayThaw => Sys2Proof.Machine.execReplayThaw s
  | .reelctlWrite port token v => Sys2Proof.Machine.execReelctlWrite port token v s
  | .rsvctlWrite port token v => Sys2Proof.Machine.execRsvctlWrite port token v s
  | .cutWrite port token x_i v => Sys2Proof.Machine.execCutWrite port token x_i v s
  | .errclsWrite port token v => Sys2Proof.Machine.execErrclsWrite port token v s
  | .watchFilterWrite port reg v => Sys2Proof.Machine.execWatchFilterWrite port reg v s
  | .trctlWrite die v => Sys2Proof.Machine.execTrctlWrite die v s
  | .trrpWrite die v => Sys2Proof.Machine.execTrrpWrite die v s
  | .drconsWrite v => Sys2Proof.Machine.execDrconsWrite v s
  | .ltolWrite port v => Sys2Proof.Machine.execLtolWrite port v s
  | .registerWrite port off v => Sys2Proof.Machine.execRegisterWrite port off v s
  | .mgmtRead src sport len req => Sys2Proof.Machine.execMgmtRead src sport len req s
  | .mgmtWrite src sport len req => Sys2Proof.Machine.execMgmtWrite src sport len req s
  | .mgmtBlockRead src sport len req => Sys2Proof.Machine.execMgmtBlockRead src sport len req s
  | .ptpMessage offset => Sys2Proof.Machine.execPtpMessage offset s
  | .ptpMasterTimeout => Sys2Proof.Machine.execPtpMasterTimeout s
  | .gridAccept x_i => Sys2Proof.Machine.execGridAccept x_i s
  | .workgroupPlace ctx grid cl => Sys2Proof.Machine.execWorkgroupPlace ctx grid cl s
  | .placementWaitExpiry ctx grid => Sys2Proof.Machine.execPlacementWaitExpiry ctx grid s
  | .workSteal ctx grid thief dies => Sys2Proof.Machine.execWorkSteal ctx grid thief dies s
  | .gateOpen ctx grid => Sys2Proof.Machine.execGateOpen ctx grid s
  | .workgroupPark ctx serial => Sys2Proof.Machine.execWorkgroupPark ctx serial s
  | .workgroupUnpark ctx serial => Sys2Proof.Machine.execWorkgroupUnpark ctx serial s
  | .elderReport ctx => Sys2Proof.Machine.execElderReport ctx s
  | .bufferedAtomicApply ctx grid => Sys2Proof.Machine.execBufferedAtomicApply ctx grid s
  | .doneAdd ctx grid => Sys2Proof.Machine.execDoneAdd ctx grid s
  | .gbarRelease ctx grid => Sys2Proof.Machine.execGbarRelease ctx grid s
  | .waitcRelease gid slot => Sys2Proof.Machine.execWaitcRelease gid slot s
  | .awaitcRelease gid => Sys2Proof.Machine.execAwaitcRelease gid s
  | .waitmRelease gid slot => Sys2Proof.Machine.execWaitmRelease gid slot s
  | .joincRelease gid slot => Sys2Proof.Machine.execJoincRelease gid slot s
  | .sleepExpiry gid slot => Sys2Proof.Machine.execSleepExpiry gid slot s
  | .watchdogExpiry gid => Sys2Proof.Machine.execWatchdogExpiry gid s
  | .trapEntry gid => Sys2Proof.Machine.execTrapEntry gid s
  | .asyncResultReturn gid id acc => Sys2Proof.Machine.execAsyncResultReturn gid id acc s
  | .pageFaultResult c x_i => Sys2Proof.Machine.execPageFaultResult c x_i s
  | .loadLinePerform gid id va => Sys2Proof.Machine.execLoadLinePerform gid id va s
  | .storeLinePerform gid id va => Sys2Proof.Machine.execStoreLinePerform gid id va s
  | .atomicLinePerform gid id va => Sys2Proof.Machine.execAtomicLinePerform gid id va s
  | .loadDataArrival gid id => Sys2Proof.Machine.execLoadDataArrival gid id s
  | .spillwayPerform q x_i => Sys2Proof.Machine.execSpillwayPerform q x_i s
  | .fenceComplete gid => Sys2Proof.Machine.execFenceComplete gid s
  | .xfenceComplete gid => Sys2Proof.Machine.execXfenceComplete gid s
  | .scTicketGrant gid id => Sys2Proof.Machine.execScTicketGrant gid id s
  | .directoryGrant holder line half excl c => Sys2Proof.Machine.execDirectoryGrant holder line half excl c s
  | .directoryRevoke holder line half => Sys2Proof.Machine.execDirectoryRevoke holder line half s
  | .ptsJump core => Sys2Proof.Machine.execPtsJump core s
  | .l1AgeingStep core => Sys2Proof.Machine.execL1AgeingStep core s
  | .l2AgeingStep die => Sys2Proof.Machine.execL2AgeingStep die s
  | .scrubberVisit die => Sys2Proof.Machine.execScrubberVisit die s
  | .pageMigration c page newPa => Sys2Proof.Machine.execPageMigration c page newPa s
  | .biasFlip c page toHost => Sys2Proof.Machine.execBiasFlip c page toHost s
  | .hostAccess agent dev pa n wr data => Sys2Proof.Machine.execHostAccess agent dev pa n wr data s
  | .copyLine gid id line rd => Sys2Proof.Machine.execCopyLine gid id line rd s
  | .matrixGrant cl slot => Sys2Proof.Machine.execMatrixGrant cl slot s
  | .matrixPassComplete cl ev => Sys2Proof.Machine.execMatrixPassComplete cl ev s
  | .fabricPacketSend gid id line rd => Sys2Proof.Machine.execFabricPacketSend gid id line rd s
  | .packetArrival port hdr pay => Sys2Proof.Machine.execPacketArrival port hdr pay s
  | .arrivalAddition src chan redir => Sys2Proof.Machine.execArrivalAddition src chan redir s
  | .packetAck dev chan seq fault addr one => Sys2Proof.Machine.execPacketAck dev chan seq fault addr one s
  | .skipNotice hdr => Sys2Proof.Machine.execSkipNotice hdr s
  | .deadPeerTimeout dev => Sys2Proof.Machine.execDeadPeerTimeout dev s
  | .conversionMatch x_i subs => Sys2Proof.Machine.execConversionMatch x_i subs s
  | .conversionComplete x_i data => Sys2Proof.Machine.execConversionComplete x_i data s
  | .weirPacket port x_i => Sys2Proof.Machine.execWeirPacket port x_i s
  | .switchWeirRecord dom cls port slot code detail time hdr => Sys2Proof.Machine.execSwitchWeirRecord dom cls port slot code detail time hdr s
  | .saveHandlerComplete ctx serial => Sys2Proof.Machine.execSaveHandlerComplete ctx serial s
  | .restoreHandlerComplete ctx serial => Sys2Proof.Machine.execRestoreHandlerComplete ctx serial s
  | .eccEvent kind x y z uncorrected => Sys2Proof.Machine.execEccEvent kind x y z uncorrected s
  | .patrolScrub line => Sys2Proof.Machine.execPatrolScrub line s
  | .dieLoss die => Sys2Proof.Machine.execDieLoss die s
  | .dieQuiesceAck die lost => Sys2Proof.Machine.execDieQuiesceAck die lost s
  | .dieQuiesceTimeout die lost refresh => Sys2Proof.Machine.execDieQuiesceTimeout die lost refresh s
  | .takeAgeExpiry ctx rid => Sys2Proof.Machine.execTakeAgeExpiry ctx rid s
  | .reelPlace => Sys2Proof.Machine.execReelPlace s
  | .drainCopy => Sys2Proof.Machine.execDrainCopy s
  | .cutPointReached c rid => Sys2Proof.Machine.execCutPointReached c rid s
  | .podFreeze => Sys2Proof.Machine.execPodFreeze s
  | .replayDivergence c rid x_i => Sys2Proof.Machine.execReplayDivergence c rid x_i s
  | .replayEndOfLog c => Sys2Proof.Machine.execReplayEndOfLog c s
  | .censusFlush gid slot => Sys2Proof.Machine.execCensusFlush gid slot s
  | .powerStateEntry dev => Sys2Proof.Machine.execPowerStateEntry dev s
  | .powerWake dev => Sys2Proof.Machine.execPowerWake dev s
  | .digestClaim src digest ofs epoch dirpa dirlog2 => Sys2Proof.Machine.execDigestClaim src digest ofs epoch dirpa dirlog2 s
  | .shardMirror src ofs n data => Sys2Proof.Machine.execShardMirror src ofs n data s
  | .shardFetch src digest epoch ofs => Sys2Proof.Machine.execShardFetch src digest epoch ofs s
  | .digestRelease src digest epoch dirpa dirlog2 => Sys2Proof.Machine.execDigestRelease src digest epoch dirpa dirlog2 s
  | .claimReplyTimeout => Sys2Proof.Machine.execClaimReplyTimeout s
  | .fabricLinkFailure port => Sys2Proof.Machine.execFabricLinkFailure port s
  | .throttleStart => Sys2Proof.Machine.execThrottleStart s
  | .throttleEnd => Sys2Proof.Machine.execThrottleEnd s

end Sys2Proof.Machine
end

