-- ==== Sys2Proof/Machine/Issue.lean ====
section
/-! DEFINITION. What a turn does: fetching a word (R28, R196), the choice of a pipe and of a front end (R59, R60, R85, R106), the issue of the word
chosen, one instruction of a Weir kernel, one machine operation, and the passing of time (R90, R105, R119, R134, R446, R449). -/

namespace Sys2Proof.Machine

/-! Fetch. -/

/-- How a fetch ends: the word; a precise trap; a page the service must bring; or a hold, as the line is not to be had now. -/
inductive Fetch where
  | word (w : BitVec 32) (st : State)
  | trap (t : Trap) (st : State)
  | fault (page : Nat) (t : Trap) (st : State)
  | hold

/-- A line of code filled into a core's instruction cache from memory. -/
def State.codeFill (st : State) (core c key line : Nat) : Nat × State :=
  let die := clusterDie (core / 4)
  let d : Line := BitVec.ofNat 1024 (st.read line 128)
  let st := if (mget (st.die die).l2 line).any fun l => !l.fresh then (st.meetL2 die line c).touchL2 die line c none else st
  let room := 512 - (st.retiredWays.filter fun w => decide (w.1 = 4096 + core)).length
  (d.toNat, st.updCore core fun k => { k with icode := ((key, d) :: k.icode.filter fun e => decide (e.1 ≠ key)).take room })

/-- A line of code as a core fetches it (R18, R196): the copy in its instruction cache, by context and virtual line, which stands for as long as the device likes, so that
a running group may come to new words of a line at any fetch; or the bytes as they now are, which the cache of 512 lines, less its retired ways (R415), takes in, the
line filled first leaving it. A
line that the die's L2 holds is hit there by an undeclared access, as no view gives a fetch a DDIST (R133, R135; log entry 62). -/
def State.codeLine (st : State) (core c key line : Nat) : Nat × State :=
  match (st.core core).icode.find? fun e => decide (e.1 = key) with
  | some e =>
    if BitVec.ofNat 1024 (st.read line 128) = e.2 then (e.2.toNat, st)
    else
      let (v, st) := st.freeValue
      if v % 2 = 0 then (e.2.toNat, st) else st.codeFill core c key line
  | none => st.codeFill core c key line

/-- One word read on the CODE path (R28, R196, R330, R340). -/
def State.fetch (st : State) (c gid : Nat) (acc : Bool) (pc : Word) : Fetch :=
  let va := pc.toNat
  if 2 ^ 52 ≤ va then .trap { cause := .pageFault, detail := trDetail false 0 6 true false false false, addr := va } st
  else match st.accessNow c (.stream gid acc) va .x 6 false with
    | .fault page t st => .fault page t st
    | .prot t st => .trap t st
    | .wait => .hold
    | .ok _ pa st =>
      let (d, st) := st.codeLine (gCore gid) c (c * 2 ^ 52 + lineOf va) (lineOf pa)
      .word (BitVec.ofNat 32 (d / 2 ^ (8 * (va % 128)))) st

/-! One stream's attempt to issue. -/

/-- The issue of the word at a split's PC: a fetch that fails traps or holds the split (R339, R340); a word that no row of the compute map takes is
ILLEGAL_OP (R29). -/
def State.runSplit (st : State) (gid slot : Nat) (g : Group) (s : Split) : Ans :=
  if (st.trapTurn gid g false).isNone then .next st
  else
    let c := st.ctxOf g
    match st.fetch c gid false s.pc with
    | .hold => .next st
    | .trap t st => .next (st.takeTrap gid { trap := t, kind := .precise, slot := slot })
    | .fault page t st =>
      let r := st.pageFault c (.stream gid false) page t.detail (st.wgOf g).serial t.addr
      .next (if r.declined then r.st.takeTrap gid { trap := { t with declined := true }, kind := .precise, slot := slot }
        else r.st.updGroup gid fun g => g.updSplit slot fun s => { s with wait := .paged page t })
    | .word w st =>
      match decodeComp w with
      | none => .next (st.issueAt gid slot g s (w.extractLsb' 31 1) { legal := false } fun st _ _ => .hold st)
      | some i => exec i { st with issuer := { group := gid, slot := slot } }

/-- A root group's store to its queue's memory, of `n` bytes of one line, on the CORE path with release order at SYSTEM scope (R77): what the group did
before it is performed. -/
def State.rootStore (st : State) (gid : Nat) (g : Group) (va n v : Nat) (next : Word) : IEff :=
  let c := st.ctxOf g
  let who := Who.stream gid false
  match st.accessNow c who va .w 0 true with
  | .wait => .hold st
  | .fault page t st => st.pageHold gid g page t
  | .prot t st => .trap t st
  | .ok leaf pa st1 =>
    if !st1.moveFreeAt pa then .hold st else
    match (st1.setDirty c who va).bind fun s => s.storeLine (gDie gid) (gCluster gid) (feUnit gid) c (lineOf pa) (effClass 0 leaf) (some gid) (st1.tracked c leaf)
        (hostPage leaf pa) (streamRank (effClass 0 leaf)) false fun _ => ((2 ^ n - 1) * 2 ^ (pa % 128), v * 2 ^ (8 * (pa % 128))) with
      | none => .hold st
      | some (_, st2) => .done (st2.goto next)

/-- What a root group does next (R76, R77, R110; log entry 13). Its split's PC counts the steps of one entry: 0, the header is read and WAITM issued for
PRODUCE ≠ CONSUME; 4, the entry is read and LAUNCH issued in the list form; 8, STATUS and REASON are written; 12, CONSUME + 1. -/
def State.rootTurn (st : State) (gid slot : Nat) (g : Group) (s : Split) : Ans :=
  let c := st.ctxOf g
  let who := Who.stream gid false
  let st := { st with issuer := { group := gid, slot := slot } }
  let hdr := st.queueHdr c ((st.wgOf g).queueOf g)
  let step := fun (f : State → Group → IEff) => (.next (st.issueAt gid slot g s 0#1 (pcSpec true) fun st g _ => f st g) : Ans)
  let reading := fun (va : Nat) (k : State → Nat → Ans) => match st.readLines c who va 1 with
    | (.wait, _) => .next st
    | (.prot t _, _) => step fun st _ => .trap t st
    | (.fault page t _, _) => step fun st g => st.pageHold gid g page t
    | (.ok _ _ st, v) => k st v
  let entry := (g.getS 4).toNat
  let consume := (g.getS 2).toNat
  if (st.trapTurn gid g false).isNone then .next st
  else match s.pc.toNat / 4 with
    | 0 => reading hdr fun st' h => match queueHeader h with
      | none => step fun st g => .done (st.queueHalt gid g)
      | some (base, n, _, _, used) =>
        exec (.waitm 0#1 49#6 50#6) (st'.updGroup gid fun g =>
          ((g.putS 1 (BitVec.ofNat 64 (hdr + 16))).putS 2 (BitVec.ofNat 64 used)).putS 4 (BitVec.ofNat 64 (base + 128 * (used % 2 ^ n))))
    | 1 => if 2 ^ 52 ≤ entry then step fun st _ => .trap { cause := .pageFault, addr := entry } st
      else reading entry fun st' e => exec (.launch 0#1 53#6 51#6 52#6) ((st'.acquire gid 5).updGroup gid fun g => g.putS 3 (BitVec.ofNat 64 (bits e 63 0)))
    | 2 => step fun st g =>
      let reason := (g.getS 5).toNat / 2 ^ 56
      st.rootStore gid g (entry + 24) 8 (if reason = 0 then 1 else 2 + reason * 2 ^ 32) 12
    | _ => step fun st g => st.rootStore gid g (hdr + 24) 8 ((consume + 1) % 2 ^ 64) 0

/-- The issue of the word at a group's access PC. -/
def State.runAccess (st : State) (gid : Nat) (g : Group) : Ans :=
  if (st.trapTurn gid g true).isNone then .next st
  else
    let c := st.ctxOf g
    match st.fetch c gid true g.apc with
    | .hold => .next st
    | .trap t st => .next (st.takeTrap gid { trap := t, kind := .precise, acc := true, slot := 4 })
    | .fault page t st =>
      let r := st.pageFault c (.stream gid true) page t.detail (st.wgOf g).serial t.addr
      .next (if r.declined then r.st.takeTrap gid { trap := { t with declined := true }, kind := .precise, acc := true, slot := 4 }
        else r.st.updGroup gid fun g => { g with await := .paged page t })
    | .word w st =>
      match decodeAcc w with
      | none => .next (st.issueAccess gid g (w.extractLsb' 31 1) { legal := false } fun st _ => .hold st)
      | some i => exec i { st with issuer := { group := gid, slot := 4 } }

/-- The package runs no more than the management port, the security block and the PTP clock: it is in P3 (R362), or its hub die is lost (log entry 102). -/
def State.inP3 (st : State) : Bool := decide (mgetD st.power 0 0 = 3) || decide ((st.die 0).state ≠ .up)

/-- A group's units have their clocks: its die is up, its device in P0, the device's recorders not stalled, and the package not frozen (R362, R416, R430, R441). -/
def State.clocked (st : State) (gid : Nat) : Bool :=
  let die := gDie gid
  !st.frozen && !st.inP3 && decide ((st.die die).state = .up) && decide (mgetD st.power (dieDev st.mode die) 0 = 0) && !st.stalled (dieDev st.mode die)

/-- A group of the root grid (R75). -/
def State.isRoot (st : State) (g : Group) : Bool := !g.saver && (st.gridOf (st.wgOf g)).root

/-- A stream of a group may issue now: no cut point holds back what it would obey (R439); a root group of a halted queue issues nothing more (R77), and a restored workgroup nothing before the additions that stood at the hub for
it have been applied (R223). -/
def State.mayIssue (st : State) (gid : Nat) (g : Group) (acc : Bool) : Bool :=
  st.clocked gid && (g.outside || !st.cutStream (st.ctxOf g) gid acc (if acc then g.icntA else g.icntC)) && st.runs g && (g.saver || decide ((st.wgOf g).arrivals = [])) && g.entering.isNone && !(st.isRoot g && decide ((st.wgOf g).queueOf g ∈ (st.ctx (st.ctxOf g)).halted))

/-- An answer in which a group's stream has issued, or has stopped for a trap: a decision that the log holds (R423). -/
def State.issued (st : State) (gid : Nat) (g : Group) (r : State) : Bool :=
  decide (r.issueNo ≠ st.issueNo) || (match mget r.groups gid with
    | some h => h.tlevel != g.tlevel || h.entering.isSome || (match h.await, g.await with
      | .vdef _ _, .ready => true
      | _, _ => false)
    | none => true)

/-- An answer in which the attempt has changed the group, its context or the places of those stalled on a table (R86, R87), though nothing issued: a park ended, a page
asked for, a wait begun. -/
def State.acted (st : State) (gid : Nat) (g : Group) (r : State) : Bool :=
  decide (mget r.groups gid ≠ some g) || decide (r.ctx (st.ctxOf g) ≠ st.ctx (st.ctxOf g))
    || r.clusters.any fun k => decide (k.2.postQ ≠ (st.cluster k.1).postQ)

/-- An attempt with its decisions passed through the log (R423): no answer where nothing comes of it, so that the next candidate is tried. What a cut
point's handler issues stands outside the log (R440). -/
def State.attempt (st : State) (gid : Nat) (g : Group) (log : State → Option State) (run : State → Ans) : Option Ans :=
  let c := st.ctxOf g
  let gated := if g.outside then some (st.logOff c true) else log st
  match gated with
  | none => none
  | some st1 =>
    match run st1 with
    | .next r =>
      if st1.issued gid g r then some (.next (if g.outside then r.logOff c false else r))
      else match run st with
        | .next r => if st.acted gid g r then some (.next r) else none
        | q => some q
    | q => some q

/-- One split's attempt: the splits at its PC join it, then it issues (R59); the pipe's choice and the split's are logged (R423). -/
def State.trySplit (st : State) (gid slot : Nat) (run : State → Group → Split → Ans) : Option Ans :=
  match mget st.groups gid with
  | none => none
  | some g0 =>
    let g := if slot < 4 then g0.mergeAt slot else g0
    match g.splitAt slot with
    | none => none
    | some s =>
      if st.mayIssue gid g0 false && s.issues && (g0.parked.all fun p => decide (p = slot)) && (if g.tlevel then decide (slot = 5) else decide (slot < 4) && !g.fetchHeld) then
        let c := st.ctxOf g0
        (st.putGroup gid g).attempt gid g (fun st =>
          match st.sched c (gCluster gid) 0 (gCore gid % 4 * 64 + gid % 128 / 2) (gid % 2) none with
          | none => none
          | some st => if slot = 5 then some st else st.sched c (gCluster gid) 1 (gid % 512) slot none) fun st => run st g s
      else none

/-- One access stream's attempt; the front end's choice is logged (R423). What a root group does is one sequence, which its splits issue. -/
def State.tryAccess (st : State) (gid : Nat) (run : State → Group → Ans) : Option Ans :=
  match mget st.groups gid with
  | none => none
  | some g =>
    if st.mayIssue gid g true && !st.isRoot g && g.await.issues && !g.spilling && !g.aend then
      st.attempt gid g (fun st => st.sched (st.ctxOf g) (gCluster gid) 2 (gCore gid % 4 * 4 + gid % 128 / 32) (gid % 32) none) fun st => run st g
    else none

/-! Order of choice. -/

/-- Lexicographic order of keys. -/
def keyLe (a b : List Nat) : Bool :=
  match a, b with
  | [], _ => true
  | _ :: _, [] => false
  | x :: xs, y :: ys => decide (x < y) || (decide (x = y) && keyLe xs ys)

/-- A candidate put in its place. -/
def keyInsert (e : List Nat × Nat) (l : List (List Nat × Nat)) : List (List Nat × Nat) :=
  match l with
  | [] => [e]
  | x :: r => if keyLe e.1 x.1 then e :: x :: r else x :: keyInsert e r

/-- Candidates in the order of their keys. -/
def inOrder (l : List (List Nat × Nat)) : List Nat := (l.foldr keyInsert []).map (·.2)

/-- A group's rank at an arbiter: trap level, then the elder flag of its context, then the rest (R84, R85). -/
def State.rank (st : State) (gid : Nat) (g : Group) : Nat :=
  if g.tlevel then 0 else if mget (st.core (gCore gid)).elder (st.ctxOf g) = some gid then 1 else 2

/-- The groups of a range of numbers, in the order given by a key. -/
def State.groupOrder (st : State) (gids : List Nat) (key : Group → List Nat) : List Nat :=
  inOrder (gids.filterMap fun gid => (mget st.groups gid).map fun g => (st.rank gid g :: key g ++ [gid], gid))

/-- The splits of a group in the order in which the pipe takes them: the elder one first where its counter has reached 15, else by PC and slot, one that
has just issued YIELD last (R60, R106); at trap level the handler's alone. -/
def Group.splitOrder (g : Group) : List Nat :=
  if g.tlevel then [5]
  else inOrder (g.splits.map fun e =>
    ([if g.elder = 15 ∧ g.elderSlot = some e.1 then 0 else 1, if g.yielded = some e.1 then 1 else 0, e.2.pc.toNat, e.1], e.1))

/-- The candidates of a pipe's choice: its two groups by R85, one that has issued YIELD behind the other at its step 3 (R106), and their splits. -/
def State.pipeOrder (st : State) (core pipe : Nat) : List (Nat × Nat) :=
  let gids := st.groupOrder [gidOf core (2 * pipe), gidOf core (2 * pipe + 1)] fun g => [if g.yielded.isSome then 1 else 0, g.lastC]
  gids.flatMap fun gid => match mget st.groups gid with
    | some g => g.splitOrder.map fun slot => (gid, slot)
    | none => []

/-- The candidates of a front end's choice (R85). -/
def State.frontOrder (st : State) (core quad : Nat) : List Nat :=
  st.groupOrder ((List.range 32).map fun i => gidOf core (32 * quad + i)) fun g => [g.lastA]

/-- A pipe's turn: the first candidate that can issue does. -/
def State.pipeTurn (st : State) (core pipe : Nat) : Ans :=
  (firstSome (fun e => st.trySplit e.1 e.2 fun st g s => if st.isRoot g then st.rootTurn e.1 e.2 g s else st.runSplit e.1 e.2 g s)
    (st.pipeOrder core pipe)).getD (.next st)

/-- A front end's turn. -/
def State.frontTurn (st : State) (core quad : Nat) : Ans :=
  (firstSome (fun gid => st.tryAccess gid fun st g => st.runAccess gid g) (st.frontOrder core quad)).getD (.next st)

/-- One instruction of the kernel in process at a port (R375). -/
noncomputable def State.weirTurn (st : State) (port : Nat) : Ans :=
  let w := mgetD st.weirs port {}
  match w.run with
  | none => .next st
  | some r =>
    match mget w.slots r.slot with
    | none => .next st
    | some s =>
      match s.code[r.pc]? with
      | none => .next st
      | some x => match decodeWeir x with
        | some i => exec i st
        | none => .next st

/-! Machine operations while clocks stand still. -/

/-- What the management port, the security block and the PTP clock do: in every state of the module (R362, R441). -/
def runsInP3 (i : Instr) : Bool :=
  match i with
  | .moduleReset | .fwupdate | .attest | .mgmtRead _ _ _ _ | .mgmtWrite _ _ _ _ | .mgmtBlockRead _ _ _ _ | .ptpMessage _ | .ptpMasterTimeout
  | .powerWake _ | .throttleStart | .throttleEnd | .ctlsemLeaseExpiry => true
  | _ => false

/-- What the hub cores and the control ports do besides, while the package is frozen (R441). -/
def runsFrozen (i : Instr) : Bool :=
  runsInP3 i || match i with
  | .ctlcas _ _ | .reset | .freeze | .thaw | .peerset | .peerclr | .peertmo | .devno | .stop | .replayThaw
  | .reelctlWrite _ _ _ | .rsvctlWrite _ _ _ | .cutWrite _ _ _ _ | .errclsWrite _ _ _ | .watchFilterWrite _ _ _ | .trctlWrite _ _ | .trrpWrite _ _
  | .drconsWrite _ | .ltolWrite _ _ | .registerWrite _ _ _ | .podFreeze => true
  | _ => false

/-- One machine operation: an encoded instruction is none, and a unit whose clock stands still does nothing. -/
def State.eventTurn (st : State) (i : Instr) : Ans :=
  match isetOf i with
  | .event => if (st.frozen && !runsFrozen i) || (st.inP3 && !runsInP3 i) then .next st else exec i st
  | _ => .next st

/-! Time. -/

/-- A count that goes down to 0. -/
def SWait.pass (r : Nat) (w : SWait) : SWait :=
  match w with
  | .sleep k => .sleep (k - r)
  | w => w

/-- A group's counts as r cycles pass in which its core's clock runs: SLEEP, but for a context that is being pre-empted (R105, R352), and the watchdog where
it has a runnable thread, its access stream stalls on a device resource, a conversion among them (R238), or, with no live thread left, runs on alone (R90; log
entry 74). -/
def Group.pass (g : Group) (r : Nat) (sleeps : Bool) : Group :=
  let busy := g.lowRunnable.isSome || (!g.aend && !g.spilling && g.await.stalls && (g.astall || !(decide (g.await = .ready)) || decide (g.live = 0)))
  let k := if sleeps then r else 0
  { g with splits := mmap g.splits fun _ s => { s with wait := s.wait.pass k }
           handler := g.handler.map fun s => { s with wait := s.wait.pass k }
           watchdog := if busy then g.watchdog + r else g.watchdog }

/-- A core's clock runs: its die is up and its device in P0 (R362). -/
def State.dieRuns (st : State) (die : Nat) : Bool :=
  !st.inP3 && decide ((st.die die).state = .up) && decide (mgetD st.power (dieDev st.mode die) 0 = 0)

/-- The idle counts of the census over r cycles: 32 for each of them in which a pipe that holds groups of a counting context has issued nothing, which are those but the
issues noted since the last (R446). Issues are then noted afresh. -/
def State.idleCensus (st : State) (r : Nat) : State :=
  let here := st.groups.filter fun e => st.censusOn (st.ctxOf e.2) st.free && st.dieRuns (gDie e.1) && !st.stalled (dieDev st.mode (gDie e.1))
  let pipes := (here.map fun e => (gCore e.1, e.1 % 128 / 2, st.ctxOf e.2)).eraseDups
  let st := pipes.foldl (fun (st : State) (p : Nat × Nat × Nat) =>
    st.updCore p.1 fun k => { k with census := addCount k.census p.2.2 64 4 (32 * (r - mgetD k.busy p.2.1 0)) }) st
  { st with cores := mmap st.cores fun _ k => if k.busy = [] then k else { k with busy := [] } }

/-- Device time, a 64-bit count, as `dn` nanoseconds of the local clock pass: the servo slews by at most 500 ppm of them, by how much is free (R449, R450). -/
def State.passTai (st : State) (dn : Nat) : State :=
  let room := st.ptpRem + dn
  let k := Config.freeNat st.free % (min st.ptpSlew.natAbs (room / 2000) + 1)
  let st := { st with free := st.free + 1, ptpRem := if st.ptpSlew = 0 then 0 else room % 2000 }
  if st.ptpSlew < 0 then { st with tai := (st.tai + dn - k) % 2 ^ 64, ptpSlew := st.ptpSlew + k }
  else { st with tai := (st.tai + dn + k) % 2 ^ 64, ptpSlew := st.ptpSlew - k }

/-- What counts while the clocks of the compute dies run: r of n core cycles (R90, R105, R119, R134, R446), and the releases that need no event of their
own (R65, R69). A workgroup's cycles do not count while its context is being pre-empted (log entry 74). -/
def State.passCores (st : State) (n r : Nat) : State :=
  let runs := fun (core : Nat) => st.dieRuns (clusterDie (core / 4))
  let counted : Nat → Bool := fun c => match (st.ctx c).state with
    | .running | .resuming => true
    | _ => false
  let groups := mmap st.groups fun gid g => if runs (gCore gid) && st.runs g && !st.stalled (dieDev st.mode (gDie gid)) then g.pass r (g.saver || counted (st.ctxOf g)) else g
  let workgroups := mmap st.workgroups fun _ w => if w.state = .placed ∧ runs w.core ∧ counted w.ctx then { w with tickCyc := w.tickCyc + r } else w
  let dies := ((List.range 9).filter fun d => decide (d ≠ 0) && st.dieRuns d).foldl (fun m d => mset m d { mgetD m d {} with cycles := (mgetD m d {}).cycles + r }) st.dies
  let idle := (List.range (devCount st.mode)).foldl (fun m d => if st.p1Idle d then (if (mget m d).isSome then m else mset m d (st.clock - n)) else merase m d) st.idleFor
  let power := st.power.filter fun e => !(decide (e.2 = 1) && !st.p1Idle e.1)
  (({ st with groups := groups, workgroups := workgroups, dies := dies, idleFor := idle, power := power }).idleCensus r).releaseBarriers.retireFree

/-- A replay's waits do not count frozen cycles (R438, R441). -/
def Replay.shift (r : Replay) (n : Nat) : Replay := { r with wait := mmap r.wait fun _ t => t + n, begun := r.begun + n }

/-- Time passes: n core cycles of real time (log entry 4). -/
def State.tick (st : State) (n : Nat) : State :=
  let ns := st.taiRem + 50 * n
  let st := if st.frozen || st.inP3 then st else st.drainPorts.someEvents
  let st := ({ st with clock := st.clock + n, taiRem := ns % 47 }).passTai (ns / 47)
  if st.frozen then { st with ctxs := mmap st.ctxs fun _ x => { x with replay := x.replay.map fun (r : Replay) => r.shift n } }
  else
    let st := if st.inP3 then st else { st with hubcyc := st.hubcyc + 2 * n }
    let r := if st.throttled then Config.freeNat st.free % (n + 1) else n
    ({ st with free := st.free + 1 }).passCores n r

/-! One turn. -/

/-- What the turn that stands next does. -/
noncomputable def State.turn (st : State) (t : Turn) : Ans :=
  match t with
  | .event i => st.eventTurn i
  | .pipe core pipe => st.pipeTurn core pipe
  | .frontEnd core quad => st.frontTurn core quad
  | .weir port => if st.frozen || st.inP3 then .next st else st.weirTurn port
  | .tick n => .next (st.tick n)

end Sys2Proof.Machine
end

