-- ==== Sys2Proof/Machine/Step.lean ====
section
/-! DEFINITION. The step: the turn that stands first in the agenda is taken; with none, one core cycle passes (log entry 2). -/

namespace Sys2Proof.Machine

/-- The turn that stands next. -/
def State.nextTurn (s : State) : Turn := s.agenda.headD (.tick 1)

/-- The state in which the next turn acts: the agenda without it, and the cursor at it. -/
def State.begin (s : State) : State := { s with agenda := s.agenda.tail, cursor := s.nextTurn }

/-- One step of the package. -/
noncomputable def step (s : State) : Host.Outcome State Fault Refusal := s.begin.turn s.nextTurn

/-- A state in which one group of one thread per lane stands on core 0 with its next word at virtual address 0x20000 and the page tables that map it, A and D set in its leaf (log entry 14). -/
def State.withCode (s : State) (w : Nat) : State :=
  let g : Group := { newGroup (wgKey 0 0) 0 32 0 { cpc := 0x20000, apc := 0x20000 } with wg := wgKey 0 0 }
  let mem := (((s.mem.write (flatHbm s.mode 0 0x10000) 8 0x20001).write (flatHbm s.mode 0 0x20000) 8 0x30001).write (flatHbm s.mode 0 0x30010) 8 0x1030F1).write
    (flatHbm s.mode 0 0x100000) 4 w
  { s with
    mem := mem, tlb := [], cores := merase s.cores 0, frozen := false, power := [], closedTakes := [], dies := merase (merase s.dies 0) 1
    ctxs := mset s.ctxs 0 { troot := 0x10000 }, workgroups := mset s.workgroups (wgKey 0 0) { ctx := 0, grid := 0, slots := [0] }
    grids := merase s.grids (gridKey 0 0), groups := mset (s.groups.filter fun e => decide (32 ≤ e.1)) 0 g }

/-- A state in which the Weir of port 0 is about to run a kernel of one word. -/
def State.withKernel (s : State) (w : Nat) : State :=
  let k : WeirSlot := { domain := 0, egress := false, drops := false, lklog2 := 0, lkbase := 0, flowsz := 0, base := 0, code := [BitVec.ofNat 32 w] }
  { s with frozen := false, power := [], dies := merase s.dies 0, weirs := mset s.weirs 0 { slots := [(0, k)], run := some { slot := 0, port := 0, orig := 0, pkt := { hdr := 0 } } } }

/-- The state with an instruction of the opcode table placed where the next step fetches it, and that step's turn set (log entry 14). -/
noncomputable def State.withFetchWord (s : State) (nbits w : Nat) : State :=
  if nbits = 32 then
    match isetOfWord (BitVec.ofNat 32 w) with
    | .comp => { s.withCode w with agenda := [.pipe 0 0] }
    | .acc => { s.withCode w with agenda := [.frontEnd 0 0] }
    | _ => { s.withKernel w with agenda := [.weir 0] }
  else s

end Sys2Proof.Machine
end

