-- ==== Sys2Proof/WellFormed.lean ====
section
/-! DEFINITION. Well-formed instructions: the operand values a word may carry whatever the state (R29, R33, R34, R373), constructor by constructor. A
compute or access word that is not well formed raises ILLEGAL_OP where it would issue; a Weir word that is not is refused by the loader. Of a machine
operation, the numbers of units it names lie in their ranges (R11, R13, R363). -/

namespace Sys2Proof

open Sys2Proof.Machine

/-- A field number of VSET and VGET (R154). -/
def vField (f : Nat) : Bool := decide (f ≤ 6) || (decide (8 ≤ f) && decide (f < 24))

/-- The register fields of a Weir operation (R386): in scalar form they name X0 to X7; only a vector form takes an X register for its second source. -/
def weirRegs (v x : BitVec 1) (b : BitVec 4) (rs : List (BitVec 4)) : Bool :=
  if v = 1#1 then decide (x = 0#1) && rs.all fun r => decide (r.toNat < 8) else decide (x = 0#1) || decide (b.toNat < 8)

/-- One of the two control ports (R363). -/
def portOk (p : Nat) : Bool := decide (p = 1) || decide (p = 2)

/-- Whether an instruction is well formed. -/
def Instr.wf (i : Instr) : Bool :=
  match i with
  | .nop _ => true
  | .bra _ _ => true
  | .brc _ _ c _ => decide (c.toNat < 6)
  | .brd _ _ _ _ => true
  | .jmpi _ a => isV a || isS a
  | .call _ _ => true
  | .ret _ => true
  | .modei _ _ => true
  | .moder _ a => isS a
  | .bar _ a => isS a
  | .syncs _ a => isS a
  | .gbar _ => true
  | .waitc _ a b => isS a && isSZ b
  | .waitm _ a b => isS a && isSZ b
  | .sleep _ a _ => isSZ a
  | .yield _ => true
  | .launch _ d a b => isS d && isS a && isSZ b
  | .joinc _ a => isSZ a
  | .exit _ => true
  | .trap _ _ => true
  | .tret _ => true
  | .gets _ d i => isS d && decide (i.toNat ≤ 16)
  | .puts _ a i => isS a && decide (i.toNat ≤ 16)
  | .clockCycle _ d => isS d
  | .clockHubcyc _ d => isS d
  | .clockPtpns _ d => isS d
  | .gset _ d a b f => lt8 d && lt8 a && lt8 b && decide (f.toNat ≤ 4) && (decide (f.toNat < 3) || (decide (a = 0#6) && decide (b = 0#6)))
  | .bkpt _ _ => true
  | .add _ d a b => dstOk d && srcOk a && srcOk b
  | .sub _ d a b => dstOk d && srcOk a && srcOk b
  | .mul _ d a b => dstOk d && srcOk a && srcOk b
  | .mulh _ d a b => dstOk d && srcOk a && srcOk b
  | .min _ d a b => dstOk d && srcOk a && srcOk b
  | .max _ d a b => dstOk d && srcOk a && srcOk b
  | .and _ d a b => dstOk d && srcOk a && srcOk b
  | .or _ d a b => dstOk d && srcOk a && srcOk b
  | .xor _ d a b => dstOk d && srcOk a && srcOk b
  | .andn _ d a b => dstOk d && srcOk a && srcOk b
  | .shl _ d a b => dstOk d && srcOk a && srcOk b
  | .shr _ d a b => dstOk d && srcOk a && srcOk b
  | .rot _ d a b => dstOk d && srcOk a && srcOk b
  | .addc _ d a b => dstOk d && srcOk a && srcOk b
  | .subb _ d a b => dstOk d && srcOk a && srcOk b
  | .absd _ d a b => dstOk d && srcOk a && srcOk b
  | .neg _ d a => dstOk d && srcOk a
  | .abs _ d a => dstOk d && srcOk a
  | .not _ d a => dstOk d && srcOk a
  | .clz _ d a => dstOk d && srcOk a
  | .ctz _ d a => dstOk d && srcOk a
  | .popc _ d a => dstOk d && srcOk a
  | .brev _ d a => dstOk d && srcOk a
  | .mad _ d a b c => dstOk d && srcOk a && srcOk b && srcOk c
  | .bfe _ d a b c => dstOk d && srcOk a && srcOk b && srcOk c
  | .bfi _ d a b c => isV d && srcOk a && srcOk b && srcOk c
  | .addi _ d a _ => dstOk d && srcOk a
  | .shi _ d a k _ => dstOk d && srcOk a && decide (k ≠ 3#2)
  | .lit _ d h _ => if h = 0#2 then dstOk d else isV d
  | .cmp _ d a b c => lt8 d && srcOk a && srcOk b && lt8 c
  | .sel _ d a b c => dstOk d && srcOk a && srcOk b && lt8 c
  | .pand _ d a b => lt8 d && lt8 a && lt8 b
  | .por _ d a b => lt8 d && lt8 a && lt8 b
  | .pxor _ d a b => lt8 d && lt8 a && lt8 b
  | .pnot _ d a => lt8 d && lt8 a
  | .pmov _ d a b => lt8 d && lt8 a && lt8 b
  | .pset _ d a => lt8 d && srcOk a
  | .pget _ d a => dstOk d && lt8 a
  | .mov _ d a => dstOk d && srcOk a
  | .bcst _ d a b => dstOk d && srcOk a && decide (b.toNat < 16)
  | .vtos _ d a b => isS d && srcOk a && decide (b.toNat < 32)
  | .stov _ d a b => isV d && isSZ a && decide (b.toNat < 32)
  | .fadd _ d a b => dstOk d && srcOk a && srcOk b
  | .fsub _ d a b => dstOk d && srcOk a && srcOk b
  | .fmul _ d a b => dstOk d && srcOk a && srcOk b
  | .fmin _ d a b => dstOk d && srcOk a && srcOk b
  | .fmax _ d a b => dstOk d && srcOk a && srcOk b
  | .fcpys _ d a b => dstOk d && srcOk a && srcOk b
  | .fabs _ d a => dstOk d && srcOk a
  | .fneg _ d a => dstOk d && srcOk a
  | .frnd _ d a => dstOk d && srcOk a
  | .fclass _ d a => dstOk d && srcOk a
  | .fma _ d a b c => dstOk d && srcOk a && srcOk b && srcOk c
  | .fms _ d a b c => dstOk d && srcOk a && srcOk b && srcOk c
  | .fnma _ d a b c => dstOk d && srcOk a && srcOk b && srcOk c
  | .fnms _ d a b c => dstOk d && srcOk a && srcOk b && srcOk c
  | .frcp _ d a => sfuDst d && srcOk a
  | .frsq _ d a => sfuDst d && srcOk a
  | .fsqrt _ d a => sfuDst d && srcOk a
  | .fexp2 _ d a => sfuDst d && srcOk a
  | .flog2 _ d a => sfuDst d && srcOk a
  | .fsin _ d a => sfuDst d && srcOk a
  | .fcos _ d a => sfuDst d && srcOk a
  | .ftanh _ d a => sfuDst d && srcOk a
  | .fdiv _ d a b => sfuDst d && srcOk a && srcOk b
  | .cvt _ d a => dstOk d && srcOk a
  | .cvts _ d a b => dstOk d && srcOk a && isSZ b
  | .pack _ d a _ => isV d && srcOk a
  | .unpk _ d a _ => dstOk d && srcOk a
  | .qnt _ d a b _ k => qntOk d a b k
  | .dqnt _ d a b _ k => qntOk d a b k
  | .sadd _ d a b => isSZ d && isSZ a && isSZ b
  | .ssub _ d a b => isSZ d && isSZ a && isSZ b
  | .smul _ d a b => isSZ d && isSZ a && isSZ b
  | .smulh _ d a b => isSZ d && isSZ a && isSZ b
  | .smin _ d a b => isSZ d && isSZ a && isSZ b
  | .smax _ d a b => isSZ d && isSZ a && isSZ b
  | .sand _ d a b => isSZ d && isSZ a && isSZ b
  | .sor _ d a b => isSZ d && isSZ a && isSZ b
  | .sxor _ d a b => isSZ d && isSZ a && isSZ b
  | .sandn _ d a b => isSZ d && isSZ a && isSZ b
  | .sshl _ d a b => isSZ d && isSZ a && isSZ b
  | .sshr _ d a b => isSZ d && isSZ a && isSZ b
  | .srot _ d a b => isSZ d && isSZ a && isSZ b
  | .saddi _ d a _ => isSZ d && isSZ a
  | .slit _ d _ _ => isSZ d
  | .xchx _ d a b => dstOk d && srcOk a && isSZ b
  | .xchu _ d a b => dstOk d && srcOk a && isSZ b
  | .xchd _ d a b => dstOk d && srcOk a && isSZ b
  | .xchxk _ d a _ => dstOk d && srcOk a
  | .xchuk _ d a _ => dstOk d && srcOk a
  | .xchdk _ d a _ => dstOk d && srcOk a
  | .xchi _ d a b => dstOk d && srcOk a && srcOk b
  | .xbc _ d a b => dstOk d && srcOk a && isSZ b
  | .voteAny _ d a b => dstOk d && lt8 a && lt8 b
  | .voteAll _ d a b => dstOk d && lt8 a && lt8 b
  | .voteEq _ d a b => dstOk d && lt8 a && lt8 b
  | .voteBallot _ d a b => dstOk d && lt8 a && lt8 b
  | .voteElect _ d => dstOk d
  | .voteMatch _ d a => dstOk d && srcOk a
  | .redu _ d a b f => dstOk d && srcOk a && isSZ b && decide (f.toNat ≤ 8)
  | .scan _ d a b f => dstOk d && srcOk a && isSZ b && decide (f.toNat ≤ 5)
  | .cpt _ d a b => dstOk d && srcOk a && isSZ b
  | .tbind _ _ _ => true
  | .tzero _ _ _ => true
  | .tzeroAll _ _ => true
  | .mma _ _ a b _ k => decide (a.toNat ≤ 24) && decide (b.toNat ≤ 24) && decide (k.toNat < 3)
  | .mmak _ _ a b r k => decide (a.toNat ≤ 24) && decide (b.toNat < 32) && decide (k.toNat < 2) && decide (r.toNat ≤ 14)
  | .mmat _ _ a b r k => decide (a.toNat ≤ 24) && decide (b.toNat < 32) && decide (k.toNat = 3) && decide (r.toNat < 14)
  | .mmas _ _ a b r k => decide (a.toNat ≤ 24) && decide (b.toNat ≤ 24) && decide (k.toNat < 3) && decide (r.toNat ≠ 15)
  | .trdRow _ _ _ _ _ => true
  | .trdCol _ _ _ _ _ => true
  | .twrRow _ _ _ _ _ => true
  | .twrCol _ _ _ _ _ => true
  | .tmove _ _ _ _ => true
  | .tmoveAdd _ _ _ _ => true
  | .tfree _ _ => true
  | .twait _ _ => true
  | .twaitAll _ => true
  | .anop _ => true
  | .abr _ _ => true
  | .abeq _ _ _ _ => true
  | .abne _ _ _ _ => true
  | .ablt _ _ _ _ => true
  | .abge _ _ _ _ => true
  | .abltn _ _ _ _ => true
  | .abgen _ _ _ _ => true
  | .aloop _ a _ => decide (a ≠ 0#5)
  | .ajmpi _ _ => true
  | .aend _ => true
  | .aadd _ _ _ _ => true
  | .asub _ _ _ _ => true
  | .amul _ _ _ _ => true
  | .amulh _ _ _ _ => true
  | .aand _ _ _ _ => true
  | .aor _ _ _ _ => true
  | .axor _ _ _ _ => true
  | .ashl _ _ _ _ => true
  | .ashr _ _ _ _ => true
  | .asra _ _ _ _ => true
  | .amin _ _ _ _ => true
  | .amax _ _ _ _ => true
  | .aminn _ _ _ _ => true
  | .amaxn _ _ _ _ => true
  | .aaddi _ _ _ _ => true
  | .ali _ _ _ => true
  | .alim _ _ _ => true
  | .alit _ _ _ => true
  | .aliq _ _ _ => true
  | .apop _ _ _ => true
  | .apopK _ _ _ => true
  | .apush _ d _ => decide (d.toNat < 4)
  | .rtick _ => true
  | .setd _ d _ _ => decide (d.toNat < 8)
  | .agets _ _ i => decide (i.toNat ≤ 16)
  | .vdefGlob _ _ _ => true
  | .vdefCore _ _ _ => true
  | .vset _ _ _ f => vField f.toNat
  | .vget _ _ _ f => vField f.toNat && decide (f.toNat ≠ 1)
  | .ldt _ q _ _ _ g e _ => decide (q.toNat < 4) && guardOk g e
  | .ldg _ q _ _ _ g e _ => decide (q.toNat < 4) && guardOk g e
  | .lda _ _ _ a _ g e _ => decide (a ≠ 0#5) && guardOk g e
  | .ldp _ q _ _ _ g e _ => decide (q.toNat < 4) && guardOk g e
  | .stt _ _ _ _ g e _ => guardOk g e
  | .stg _ _ _ _ g e _ => guardOk g e
  | .sta _ _ _ _ g e _ => guardOk g e
  | .pref _ _ _ _ g e _ => guardOk g e
  | .atom _ q _ _ o c p => (decide (q.toNat < 4) || decide (q.toNat = 7)) && decide (o.toNat ≤ 4) && scopeOk c.toNat && atomOpOk p.toNat
  | .atoma _ d _ _ p _ c => scopeOk c.toNat && atomOpOk p.toNat && !(decide (p.toNat = 12) && decide (d.toNat = 31))
  | .fence _ c k => scopeOk c.toNat && decide (k.toNat ≤ 3) && !(decide (k.toNat = 3) && decide (c.toNat = 5))
  | .xfence _ f t c => scopeOk c.toNat && decide (f ≠ 0#7) && decide (t ≠ 0#7)
  | .cpy _ _ _ g e => guardOk g e
  | .hand _ _ _ g e => guardOk g e
  | .xfer _ _ _ g e _ _ => guardOk g e
  | .xmc _ _ _ g e _ _ => guardOk g e
  | .ctrset _ _ _ => true
  | .ctrsetT _ _ _ => true
  | .ctradd _ _ _ => true
  | .ctrget _ _ _ => true
  | .ctrgetT _ _ _ => true
  | .awaitc _ _ _ => true
  | .awaitcT _ _ => true
  | .wadd v d a b x => weirRegs v x b [d, a, b]
  | .waddI v d a _ => weirRegs v 0#1 0#4 [d, a]
  | .wsub v d a b x => weirRegs v x b [d, a, b]
  | .wsubI v d a _ => weirRegs v 0#1 0#4 [d, a]
  | .wmul v d a b x => weirRegs v x b [d, a, b]
  | .wmulI v d a _ => weirRegs v 0#1 0#4 [d, a]
  | .wand v d a b x => weirRegs v x b [d, a, b]
  | .wandI v d a _ => weirRegs v 0#1 0#4 [d, a]
  | .wor v d a b x => weirRegs v x b [d, a, b]
  | .worI v d a _ => weirRegs v 0#1 0#4 [d, a]
  | .wxor v d a b x => weirRegs v x b [d, a, b]
  | .wxorI v d a _ => weirRegs v 0#1 0#4 [d, a]
  | .wshl v d a b x => weirRegs v x b [d, a, b]
  | .wshlI v d a _ => weirRegs v 0#1 0#4 [d, a]
  | .wshr v d a b x => weirRegs v x b [d, a, b]
  | .wshrI v d a _ => weirRegs v 0#1 0#4 [d, a]
  | .wmin v d a b x => weirRegs v x b [d, a, b]
  | .wminI v d a _ => weirRegs v 0#1 0#4 [d, a]
  | .wmax v d a b x => weirRegs v x b [d, a, b]
  | .wmaxI v d a _ => weirRegs v 0#1 0#4 [d, a]
  | .wcmp v c d a b x => decide (c.toNat ≤ 5) && weirRegs v x b [d, a, b]
  | .wsel v d a b c => weirRegs v 0#1 0#4 [d, a, b, c]
  | .wmovW _ _ => true
  | .wmovX d a => decide (d.toNat < 8) && decide (a.toNat < 8)
  | .wmovWx _ a => decide (a.toNat < 8)
  | .wmovXl d _ _ => decide (d.toNat < 8)
  | .wmovWl _ a _ => decide (a.toNat < 8)
  | .wli v d _ => decide (v = 0#1) || decide (d.toNat < 8)
  | .wliH v d _ => decide (v = 0#1) || decide (d.toNat < 8)
  | .whdr r f => decide (r.toNat < 8) && decide (f.toNat ≤ 17)
  | .whdrW _ => true
  | .wseth r f => decide (r.toNat < 8) && (decide (f = 0#5) || (decide (11 ≤ f.toNat) && decide (f.toNat ≤ 15)))
  | .wldp _ _ => true
  | .wldpX _ _ _ => true
  | .wstp _ _ => true
  | .wstpX _ _ _ => true
  | .wldf _ _ _ => true
  | .wstf _ _ _ => true
  | .watf p _ _ b _ => decide (p.toNat ≤ 7) && (decide (p ≠ 7#4) || decide (b = 0#3))
  | .whash _ _ _ => true
  | .whashLk _ _ => true
  | .wrep _ _ => true
  | .wbr _ => true
  | .wbrCc c _ _ => decide (1 ≤ c.toNat) && decide (c.toNat ≤ 4)
  | .wdup _ => true
  | .wtrap _ _ => true
  | .wfwd => true
  | .wdrop => true
  | .wend => true
  | .moduleReset => true
  | .create => true
  | .destroy => true
  | .preempt => true
  | .resume => true
  | .oscount => true
  | .ctlcas port _ => portOk port
  | .ctlsemLeaseExpiry => true
  | .reset => true
  | .modeset => true
  | .fwupdate => true
  | .slate _ _ _ => true
  | .freeze => true
  | .thaw => true
  | .attest => true
  | .domset => true
  | .domclr => true
  | .peerset => true
  | .peerclr => true
  | .peertmo => true
  | .devno => true
  | .unitret => true
  | .unitrst _ => true
  | .dierst _ => true
  | .load => true
  | .unload => true
  | .flowrd => true
  | .flowwr => true
  | .checkpoint _ _ _ => true
  | .restore _ _ => true
  | .arm => true
  | .go => true
  | .stop => true
  | .replayThaw => true
  | .reelctlWrite port _ _ => portOk port
  | .rsvctlWrite port _ _ => portOk port
  | .cutWrite port _ i _ => portOk port && decide (i < 16)
  | .errclsWrite port _ _ => portOk port
  | .watchFilterWrite port reg _ => portOk port && decide (reg < 3)
  | .trctlWrite die _ => decide (die < 9)
  | .trrpWrite die _ => decide (die < 9)
  | .drconsWrite _ => true
  | .ltolWrite port _ => portOk port
  | .registerWrite port _ _ => portOk port
  | .mgmtRead _ _ _ _ => true
  | .mgmtWrite _ _ _ _ => true
  | .mgmtBlockRead _ _ _ _ => true
  | .ptpMessage _ => true
  | .ptpMasterTimeout => true
  | .gridAccept _ => true
  | .workgroupPlace _ _ _ => true
  | .placementWaitExpiry _ _ => true
  | .workSteal _ _ _ _ => true
  | .gateOpen _ _ => true
  | .workgroupPark _ _ => true
  | .workgroupUnpark _ _ => true
  | .elderReport _ => true
  | .bufferedAtomicApply _ _ => true
  | .doneAdd _ _ => true
  | .gbarRelease _ _ => true
  | .waitcRelease _ _ => true
  | .awaitcRelease _ => true
  | .waitmRelease _ _ => true
  | .joincRelease _ _ => true
  | .sleepExpiry _ _ => true
  | .watchdogExpiry _ => true
  | .trapEntry _ => true
  | .asyncResultReturn _ _ _ => true
  | .pageFaultResult _ _ => true
  | .loadLinePerform _ _ _ => true
  | .storeLinePerform _ _ _ => true
  | .atomicLinePerform _ _ _ => true
  | .loadDataArrival _ _ => true
  | .spillwayPerform _ _ => true
  | .fenceComplete _ => true
  | .xfenceComplete _ => true
  | .scTicketGrant _ _ => true
  | .directoryGrant _ _ _ _ _ => true
  | .directoryRevoke _ _ _ => true
  | .ptsJump core => decide (core < 2688)
  | .l1AgeingStep core => decide (core < 2688)
  | .l2AgeingStep die => decide (die < 9)
  | .scrubberVisit die => decide (die < 9)
  | .pageMigration _ _ _ => true
  | .biasFlip _ _ _ => true
  | .hostAccess _ _ _ _ _ _ => true
  | .copyLine _ _ _ _ => true
  | .matrixGrant cl slot => decide (cl < 672) && decide (slot < 32)
  | .matrixPassComplete cl (.read slot _) => decide (cl < 672) && decide (slot < 32)
  | .matrixPassComplete cl (.complete slot) => decide (cl < 672) && decide (slot < 32)
  | .fabricPacketSend _ _ _ _ => true
  | .packetArrival _ _ _ => true
  | .arrivalAddition _ _ _ => true
  | .packetAck _ _ _ _ _ _ => true
  | .skipNotice _ => true
  | .deadPeerTimeout _ => true
  | .conversionMatch _ _ => true
  | .conversionComplete _ _ => true
  | .weirPacket _ _ => true
  | .switchWeirRecord _ _ _ _ _ _ _ _ => true
  | .saveHandlerComplete _ _ => true
  | .restoreHandlerComplete _ _ => true
  | .eccEvent _ _ _ _ _ => true
  | .patrolScrub _ => true
  | .dieLoss die => decide (die < 9)
  | .dieQuiesceAck die _ => decide (die < 9)
  | .dieQuiesceTimeout die _ _ => decide (die < 9)
  | .takeAgeExpiry _ _ => true
  | .reelPlace => true
  | .drainCopy => true
  | .cutPointReached _ _ => true
  | .podFreeze => true
  | .replayDivergence _ _ _ => true
  | .replayEndOfLog _ => true
  | .censusFlush _ _ => true
  | .powerStateEntry _ => true
  | .powerWake _ => true
  | .digestClaim _ _ _ _ _ _ => true
  | .shardMirror _ _ _ _ => true
  | .shardFetch _ _ _ _ => true
  | .digestRelease _ _ _ _ _ => true
  | .claimReplyTimeout => true
  | .fabricLinkFailure _ => true
  | .throttleStart => true
  | .throttleEnd => true

end Sys2Proof
end

