-- ==== Sys2Proof/Laws/PerInstr.lean ====
section
/-! SUPPORT. The round trip of every instruction: the decoder of its own set reads its word back, with every operand as it was (R27, R48, R384). -/

namespace Sys2Proof.Laws.RoundTrip

set_option Elab.async false
set_option linter.unusedSimpArgs false

/-- A well-formed instruction of an instruction set has a word, and the set's decoder reads that word as it. -/
def Statement (i : Instr) : Prop := i.wf = true → isetOf i ≠ .event → ∃ w, encode i = some w ∧ decodeIn (isetOf i) w = some i

theorem nop (s : BitVec 1) : Statement (.nop s) := by
  intro _ _; refine ⟨_, rfl, ?_⟩
  have e : fld (s ++ 0x0#31) 24 7 = 0x0#7 := by simp (disch := decide) only [fld, extract_append_low, extract_append_high, extract_whole, Nat.reduceSub, BitVec.reduceExtractLsb']
  show decodeCompAt (fld _ 24 7).toNat _ = _; rw [e]; show decodeComp00 _ = _
  simp (disch := decide) only [decodeComp00, fld, extract_append_low, extract_append_high, extract_whole, Nat.reduceSub, BitVec.reduceExtractLsb', BitVec.reduceEq, and_self, and_true, true_and, false_and, and_false, reduceCtorEq, if_true, if_false]
theorem bra (s : BitVec 1) (o : BitVec 24) : Statement (.bra s o) := by
  intro _ _; refine ⟨_, rfl, ?_⟩
  have e : fld (s ++ 0x1#7 ++ o) 24 7 = 0x1#7 := by simp (disch := decide) only [fld, extract_append_low, extract_append_high, extract_whole, Nat.reduceSub, BitVec.reduceExtractLsb']
  show decodeCompAt (fld _ 24 7).toNat _ = _; rw [e]; show decodeComp01 _ = _
  simp (disch := decide) only [decodeComp01, fld, extract_append_low, extract_append_high, extract_whole, Nat.reduceSub, BitVec.reduceExtractLsb', BitVec.reduceEq, and_self, and_true, true_and, false_and, and_false, reduceCtorEq, if_true, if_false]
theorem brc (s : BitVec 1) (r : BitVec 4) (c : BitVec 3) (o : BitVec 17) : Statement (.brc s r c o) := by
  intro _ _; refine ⟨_, rfl, ?_⟩
  have e : fld (s ++ 0x2#7 ++ r ++ c ++ o) 24 7 = 0x2#7 := by simp (disch := decide) only [fld, extract_append_low, extract_append_high, extract_whole, Nat.reduceSub, BitVec.reduceExtractLsb']
  show decodeCompAt (fld _ 24 7).toNat _ = _; rw [e]; show decodeComp02 _ = _
  simp (disch := decide) only [decodeComp02, fld, extract_append_low, extract_append_high, extract_whole, Nat.reduceSub, BitVec.reduceExtractLsb', BitVec.reduceEq, and_self, and_true, true_and, false_and, and_false, reduceCtorEq, if_true, if_false]
theorem brd (s : BitVec 1) (p : BitVec 3) (n : BitVec 1) (o : BitVec 20) : Statement (.brd s p n o) := by
  intro _ _; refine ⟨_, rfl, ?_⟩
  have e : fld (s ++ 0x3#7 ++ p ++ n ++ o) 24 7 = 0x3#7 := by simp (disch := decide) only [fld, extract_append_low, extract_append_high, extract_whole, Nat.reduceSub, BitVec.reduceExtractLsb']
  show decodeCompAt (fld _ 24 7).toNat _ = _; rw [e]; show decodeComp03 _ = _
  simp (disch := decide) only [decodeComp03, fld, extract_append_low, extract_append_high, extract_whole, Nat.reduceSub, BitVec.reduceExtractLsb', BitVec.reduceEq, and_self, and_true, true_and, false_and, and_false, reduceCtorEq, if_true, if_false]
theorem jmpi (s : BitVec 1) (a : BitVec 6) : Statement (.jmpi s a) := by
  intro _ _; refine ⟨_, rfl, ?_⟩
  have e : fld (s ++ 0x100#13 ++ a ++ 0x0#12) 24 7 = 0x4#7 := by simp (disch := decide) only [fld, extract_append_low, extract_append_high, extract_whole, Nat.reduceSub, BitVec.reduceExtractLsb']
  show decodeCompAt (fld _ 24 7).toNat _ = _; rw [e]; show decodeComp04 _ = _
  simp (disch := decide) only [decodeComp04, fld, extract_append_low, extract_append_high, extract_whole, Nat.reduceSub, BitVec.reduceExtractLsb', BitVec.reduceEq, and_self, and_true, true_and, false_and, and_false, reduceCtorEq, if_true, if_false]
theorem call (s : BitVec 1) (o : BitVec 24) : Statement (.call s o) := by
  intro _ _; refine ⟨_, rfl, ?_⟩
  have e : fld (s ++ 0x5#7 ++ o) 24 7 = 0x5#7 := by simp (disch := decide) only [fld, extract_append_low, extract_append_high, extract_whole, Nat.reduceSub, BitVec.reduceExtractLsb']
  show decodeCompAt (fld _ 24 7).toNat _ = _; rw [e]; show decodeComp05 _ = _
  simp (disch := decide) only [decodeComp05, fld, extract_append_low, extract_append_high, extract_whole, Nat.reduceSub, BitVec.reduceExtractLsb', BitVec.reduceEq, and_self, and_true, true_and, false_and, and_false, reduceCtorEq, if_true, if_false]
theorem ret (s : BitVec 1) : Statement (.ret s) := by
  intro _ _; refine ⟨_, rfl, ?_⟩
  have e : fld (s ++ 0x6000000#31) 24 7 = 0x6#7 := by simp (disch := decide) only [fld, extract_append_low, extract_append_high, extract_whole, Nat.reduceSub, BitVec.reduceExtractLsb']
  show decodeCompAt (fld _ 24 7).toNat _ = _; rw [e]; show decodeComp06 _ = _
  simp (disch := decide) only [decodeComp06, fld, extract_append_low, extract_append_high, extract_whole, Nat.reduceSub, BitVec.reduceExtractLsb', BitVec.reduceEq, and_self, and_true, true_and, false_and, and_false, reduceCtorEq, if_true, if_false]
theorem modei (s : BitVec 1) (i : BitVec 20) : Statement (.modei s i) := by
  intro _ _; refine ⟨_, rfl, ?_⟩
  have e : fld (s ++ 0x70#11 ++ i) 24 7 = 0x7#7 := by simp (disch := decide) only [fld, extract_append_low, extract_append_high, extract_whole, Nat.reduceSub, BitVec.reduceExtractLsb']
  show decodeCompAt (fld _ 24 7).toNat _ = _; rw [e]; show decodeComp07 _ = _
  simp (disch := decide) only [decodeComp07, fld, extract_append_low, extract_append_high, extract_whole, Nat.reduceSub, BitVec.reduceExtractLsb', BitVec.reduceEq, and_self, and_true, true_and, false_and, and_false, reduceCtorEq, if_true, if_false]
theorem moder (s : BitVec 1) (a : BitVec 6) : Statement (.moder s a) := by
  intro _ _; refine ⟨_, rfl, ?_⟩
  have e : fld (s ++ 0x200#13 ++ a ++ 0x0#12) 24 7 = 0x8#7 := by simp (disch := decide) only [fld, extract_append_low, extract_append_high, extract_whole, Nat.reduceSub, BitVec.reduceExtractLsb']
  show decodeCompAt (fld _ 24 7).toNat _ = _; rw [e]; show decodeComp08 _ = _
  simp (disch := decide) only [decodeComp08, fld, extract_append_low, extract_append_high, extract_whole, Nat.reduceSub, BitVec.reduceExtractLsb', BitVec.reduceEq, and_self, and_true, true_and, false_and, and_false, reduceCtorEq, if_true, if_false]
theorem bar (s : BitVec 1) (a : BitVec 6) : Statement (.bar s a) := by
  intro _ _; refine ⟨_, rfl, ?_⟩
  have e : fld (s ++ 0x240#13 ++ a ++ 0x0#12) 24 7 = 0x9#7 := by simp (disch := decide) only [fld, extract_append_low, extract_append_high, extract_whole, Nat.reduceSub, BitVec.reduceExtractLsb']
  show decodeCompAt (fld _ 24 7).toNat _ = _; rw [e]; show decodeComp09 _ = _
  simp (disch := decide) only [decodeComp09, fld, extract_append_low, extract_append_high, extract_whole, Nat.reduceSub, BitVec.reduceExtractLsb', BitVec.reduceEq, and_self, and_true, true_and, false_and, and_false, reduceCtorEq, if_true, if_false]
theorem syncs (s : BitVec 1) (a : BitVec 6) : Statement (.syncs s a) := by
  intro _ _; refine ⟨_, rfl, ?_⟩
  have e : fld (s ++ 0x280#13 ++ a ++ 0x0#12) 24 7 = 0xa#7 := by simp (disch := decide) only [fld, extract_append_low, extract_append_high, extract_whole, Nat.reduceSub, BitVec.reduceExtractLsb']
  show decodeCompAt (fld _ 24 7).toNat _ = _; rw [e]; show decodeComp0A _ = _
  simp (disch := decide) only [decodeComp0A, fld, extract_append_low, extract_append_high, extract_whole, Nat.reduceSub, BitVec.reduceExtractLsb', BitVec.reduceEq, and_self, and_true, true_and, false_and, and_false, reduceCtorEq, if_true, if_false]
theorem gbar (s : BitVec 1) : Statement (.gbar s) := by
  intro _ _; refine ⟨_, rfl, ?_⟩
  have e : fld (s ++ 0xb000000#31) 24 7 = 0xb#7 := by simp (disch := decide) only [fld, extract_append_low, extract_append_high, extract_whole, Nat.reduceSub, BitVec.reduceExtractLsb']
  show decodeCompAt (fld _ 24 7).toNat _ = _; rw [e]; show decodeComp0B _ = _
  simp (disch := decide) only [decodeComp0B, fld, extract_append_low, extract_append_high, extract_whole, Nat.reduceSub, BitVec.reduceExtractLsb', BitVec.reduceEq, and_self, and_true, true_and, false_and, and_false, reduceCtorEq, if_true, if_false]
theorem waitc (s : BitVec 1) (a : BitVec 6) (b : BitVec 6) : Statement (.waitc s a b) := by
  intro _ _; refine ⟨_, rfl, ?_⟩
  have e : fld (s ++ 0x300#13 ++ a ++ b ++ 0x0#6) 24 7 = 0xc#7 := by simp (disch := decide) only [fld, extract_append_low, extract_append_high, extract_whole, Nat.reduceSub, BitVec.reduceExtractLsb']
  show decodeCompAt (fld _ 24 7).toNat _ = _; rw [e]; show decodeComp0C _ = _
  simp (disch := decide) only [decodeComp0C, fld, extract_append_low, extract_append_high, extract_whole, Nat.reduceSub, BitVec.reduceExtractLsb', BitVec.reduceEq, and_self, and_true, true_and, false_and, and_false, reduceCtorEq, if_true, if_false]
theorem waitm (s : BitVec 1) (a : BitVec 6) (b : BitVec 6) : Statement (.waitm s a b) := by
  intro _ _; refine ⟨_, rfl, ?_⟩
  have e : fld (s ++ 0x340#13 ++ a ++ b ++ 0x0#6) 24 7 = 0xd#7 := by simp (disch := decide) only [fld, extract_append_low, extract_append_high, extract_whole, Nat.reduceSub, BitVec.reduceExtractLsb']
  show decodeCompAt (fld _ 24 7).toNat _ = _; rw [e]; show decodeComp0D _ = _
  simp (disch := decide) only [decodeComp0D, fld, extract_append_low, extract_append_high, extract_whole, Nat.reduceSub, BitVec.reduceExtractLsb', BitVec.reduceEq, and_self, and_true, true_and, false_and, and_false, reduceCtorEq, if_true, if_false]
theorem sleep (s : BitVec 1) (a : BitVec 6) (i : BitVec 12) : Statement (.sleep s a i) := by
  intro _ _; refine ⟨_, rfl, ?_⟩
  have e : fld (s ++ 0x380#13 ++ a ++ i) 24 7 = 0xe#7 := by simp (disch := decide) only [fld, extract_append_low, extract_append_high, extract_whole, Nat.reduceSub, BitVec.reduceExtractLsb']
  show decodeCompAt (fld _ 24 7).toNat _ = _; rw [e]; show decodeComp0E _ = _
  simp (disch := decide) only [decodeComp0E, fld, extract_append_low, extract_append_high, extract_whole, Nat.reduceSub, BitVec.reduceExtractLsb', BitVec.reduceEq, and_self, and_true, true_and, false_and, and_false, reduceCtorEq, if_true, if_false]
theorem yield (s : BitVec 1) : Statement (.yield s) := by
  intro _ _; refine ⟨_, rfl, ?_⟩
  have e : fld (s ++ 0xf000000#31) 24 7 = 0xf#7 := by simp (disch := decide) only [fld, extract_append_low, extract_append_high, extract_whole, Nat.reduceSub, BitVec.reduceExtractLsb']
  show decodeCompAt (fld _ 24 7).toNat _ = _; rw [e]; show decodeComp0F _ = _
  simp (disch := decide) only [decodeComp0F, fld, extract_append_low, extract_append_high, extract_whole, Nat.reduceSub, BitVec.reduceExtractLsb', BitVec.reduceEq, and_self, and_true, true_and, false_and, and_false, reduceCtorEq, if_true, if_false]
theorem launch (s : BitVec 1) (d : BitVec 6) (a : BitVec 6) (b : BitVec 6) : Statement (.launch s d a b) := by
  intro _ _; refine ⟨_, rfl, ?_⟩
  have e : fld (s ++ 0x10#7 ++ d ++ a ++ b ++ 0x0#6) 24 7 = 0x10#7 := by simp (disch := decide) only [fld, extract_append_low, extract_append_high, extract_whole, Nat.reduceSub, BitVec.reduceExtractLsb']
  show decodeCompAt (fld _ 24 7).toNat _ = _; rw [e]; show decodeComp10 _ = _
  simp (disch := decide) only [decodeComp10, fld, extract_append_low, extract_append_high, extract_whole, Nat.reduceSub, BitVec.reduceExtractLsb', BitVec.reduceEq, and_self, and_true, true_and, false_and, and_false, reduceCtorEq, if_true, if_false]
theorem joinc (s : BitVec 1) (a : BitVec 6) : Statement (.joinc s a) := by
  intro _ _; refine ⟨_, rfl, ?_⟩
  have e : fld (s ++ 0x440#13 ++ a ++ 0x0#12) 24 7 = 0x11#7 := by simp (disch := decide) only [fld, extract_append_low, extract_append_high, extract_whole, Nat.reduceSub, BitVec.reduceExtractLsb']
  show decodeCompAt (fld _ 24 7).toNat _ = _; rw [e]; show decodeComp11 _ = _
  simp (disch := decide) only [decodeComp11, fld, extract_append_low, extract_append_high, extract_whole, Nat.reduceSub, BitVec.reduceExtractLsb', BitVec.reduceEq, and_self, and_true, true_and, false_and, and_false, reduceCtorEq, if_true, if_false]
theorem exit (s : BitVec 1) : Statement (.exit s) := by
  intro _ _; refine ⟨_, rfl, ?_⟩
  have e : fld (s ++ 0x12000000#31) 24 7 = 0x12#7 := by simp (disch := decide) only [fld, extract_append_low, extract_append_high, extract_whole, Nat.reduceSub, BitVec.reduceExtractLsb']
  show decodeCompAt (fld _ 24 7).toNat _ = _; rw [e]; show decodeComp12 _ = _
  simp (disch := decide) only [decodeComp12, fld, extract_append_low, extract_append_high, extract_whole, Nat.reduceSub, BitVec.reduceExtractLsb', BitVec.reduceEq, and_self, and_true, true_and, false_and, and_false, reduceCtorEq, if_true, if_false]
theorem trap (s : BitVec 1) (i : BitVec 20) : Statement (.trap s i) := by
  intro _ _; refine ⟨_, rfl, ?_⟩
  have e : fld (s ++ 0x130#11 ++ i) 24 7 = 0x13#7 := by simp (disch := decide) only [fld, extract_append_low, extract_append_high, extract_whole, Nat.reduceSub, BitVec.reduceExtractLsb']
  show decodeCompAt (fld _ 24 7).toNat _ = _; rw [e]; show decodeComp13 _ = _
  simp (disch := decide) only [decodeComp13, fld, extract_append_low, extract_append_high, extract_whole, Nat.reduceSub, BitVec.reduceExtractLsb', BitVec.reduceEq, and_self, and_true, true_and, false_and, and_false, reduceCtorEq, if_true, if_false]
theorem tret (s : BitVec 1) : Statement (.tret s) := by
  intro _ _; refine ⟨_, rfl, ?_⟩
  have e : fld (s ++ 0x14000000#31) 24 7 = 0x14#7 := by simp (disch := decide) only [fld, extract_append_low, extract_append_high, extract_whole, Nat.reduceSub, BitVec.reduceExtractLsb']
  show decodeCompAt (fld _ 24 7).toNat _ = _; rw [e]; show decodeComp14 _ = _
  simp (disch := decide) only [decodeComp14, fld, extract_append_low, extract_append_high, extract_whole, Nat.reduceSub, BitVec.reduceExtractLsb', BitVec.reduceEq, and_self, and_true, true_and, false_and, and_false, reduceCtorEq, if_true, if_false]
theorem gets (s : BitVec 1) (d : BitVec 6) (i : BitVec 12) : Statement (.gets s d i) := by
  intro _ _; refine ⟨_, rfl, ?_⟩
  have e : fld (s ++ 0x15#7 ++ d ++ 0x0#6 ++ i) 24 7 = 0x15#7 := by simp (disch := decide) only [fld, extract_append_low, extract_append_high, extract_whole, Nat.reduceSub, BitVec.reduceExtractLsb']
  show decodeCompAt (fld _ 24 7).toNat _ = _; rw [e]; show decodeComp15 _ = _
  simp (disch := decide) only [decodeComp15, fld, extract_append_low, extract_append_high, extract_whole, Nat.reduceSub, BitVec.reduceExtractLsb', BitVec.reduceEq, and_self, and_true, true_and, false_and, and_false, reduceCtorEq, if_true, if_false]
theorem puts (s : BitVec 1) (a : BitVec 6) (i : BitVec 12) : Statement (.puts s a i) := by
  intro _ _; refine ⟨_, rfl, ?_⟩
  have e : fld (s ++ 0x580#13 ++ a ++ i) 24 7 = 0x16#7 := by simp (disch := decide) only [fld, extract_append_low, extract_append_high, extract_whole, Nat.reduceSub, BitVec.reduceExtractLsb']
  show decodeCompAt (fld _ 24 7).toNat _ = _; rw [e]; show decodeComp16 _ = _
  simp (disch := decide) only [decodeComp16, fld, extract_append_low, extract_append_high, extract_whole, Nat.reduceSub, BitVec.reduceExtractLsb', BitVec.reduceEq, and_self, and_true, true_and, false_and, and_false, reduceCtorEq, if_true, if_false]
theorem clockCycle (s : BitVec 1) (d : BitVec 6) : Statement (.clockCycle s d) := by
  intro _ _; refine ⟨_, rfl, ?_⟩
  have e : fld (s ++ 0x17#7 ++ d ++ 0x0#18) 24 7 = 0x17#7 := by simp (disch := decide) only [fld, extract_append_low, extract_append_high, extract_whole, Nat.reduceSub, BitVec.reduceExtractLsb']
  show decodeCompAt (fld _ 24 7).toNat _ = _; rw [e]; show decodeComp17 _ = _
  simp (disch := decide) only [decodeComp17, fld, extract_append_low, extract_append_high, extract_whole, Nat.reduceSub, BitVec.reduceExtractLsb', BitVec.reduceEq, and_self, and_true, true_and, false_and, and_false, reduceCtorEq, if_true, if_false]
theorem clockHubcyc (s : BitVec 1) (d : BitVec 6) : Statement (.clockHubcyc s d) := by
  intro _ _; refine ⟨_, rfl, ?_⟩
  have e : fld (s ++ 0x17#7 ++ d ++ 0x1#18) 24 7 = 0x17#7 := by simp (disch := decide) only [fld, extract_append_low, extract_append_high, extract_whole, Nat.reduceSub, BitVec.reduceExtractLsb']
  show decodeCompAt (fld _ 24 7).toNat _ = _; rw [e]; show decodeComp17 _ = _
  simp (disch := decide) only [decodeComp17, fld, extract_append_low, extract_append_high, extract_whole, Nat.reduceSub, BitVec.reduceExtractLsb', BitVec.reduceEq, and_self, and_true, true_and, false_and, and_false, reduceCtorEq, if_true, if_false]
theorem clockPtpns (s : BitVec 1) (d : BitVec 6) : Statement (.clockPtpns s d) := by
  intro _ _; refine ⟨_, rfl, ?_⟩
  have e : fld (s ++ 0x17#7 ++ d ++ 0x2#18) 24 7 = 0x17#7 := by simp (disch := decide) only [fld, extract_append_low, extract_append_high, extract_whole, Nat.reduceSub, BitVec.reduceExtractLsb']
  show decodeCompAt (fld _ 24 7).toNat _ = _; rw [e]; show decodeComp17 _ = _
  simp (disch := decide) only [decodeComp17, fld, extract_append_low, extract_append_high, extract_whole, Nat.reduceSub, BitVec.reduceExtractLsb', BitVec.reduceEq, and_self, and_true, true_and, false_and, and_false, reduceCtorEq, if_true, if_false]
theorem gset (s : BitVec 1) (d : BitVec 6) (a : BitVec 6) (b : BitVec 6) (f : BitVec 6) : Statement (.gset s d a b f) := by
  intro _ _; refine ⟨_, rfl, ?_⟩
  have e : fld (s ++ 0x18#7 ++ d ++ a ++ b ++ f) 24 7 = 0x18#7 := by simp (disch := decide) only [fld, extract_append_low, extract_append_high, extract_whole, Nat.reduceSub, BitVec.reduceExtractLsb']
  show decodeCompAt (fld _ 24 7).toNat _ = _; rw [e]; show decodeComp18 _ = _
  simp (disch := decide) only [decodeComp18, fld, extract_append_low, extract_append_high, extract_whole, Nat.reduceSub, BitVec.reduceExtractLsb', BitVec.reduceEq, and_self, and_true, true_and, false_and, and_false, reduceCtorEq, if_true, if_false]
theorem bkpt (s : BitVec 1) (i : BitVec 20) : Statement (.bkpt s i) := by
  intro _ _; refine ⟨_, rfl, ?_⟩
  have e : fld (s ++ 0x190#11 ++ i) 24 7 = 0x19#7 := by simp (disch := decide) only [fld, extract_append_low, extract_append_high, extract_whole, Nat.reduceSub, BitVec.reduceExtractLsb']
  show decodeCompAt (fld _ 24 7).toNat _ = _; rw [e]; show decodeComp19 _ = _
  simp (disch := decide) only [decodeComp19, fld, extract_append_low, extract_append_high, extract_whole, Nat.reduceSub, BitVec.reduceExtractLsb', BitVec.reduceEq, and_self, and_true, true_and, false_and, and_false, reduceCtorEq, if_true, if_false]
theorem add (s : BitVec 1) (d : BitVec 6) (a : BitVec 6) (b : BitVec 6) : Statement (.add s d a b) := by
  intro _ _; refine ⟨_, rfl, ?_⟩
  have e : fld (s ++ 0x20#7 ++ d ++ a ++ b ++ 0x0#6) 24 7 = 0x20#7 := by simp (disch := decide) only [fld, extract_append_low, extract_append_high, extract_whole, Nat.reduceSub, BitVec.reduceExtractLsb']
  show decodeCompAt (fld _ 24 7).toNat _ = _; rw [e]; show decodeComp20 _ = _
  simp (disch := decide) only [decodeComp20, fld, extract_append_low, extract_append_high, extract_whole, Nat.reduceSub, BitVec.reduceExtractLsb', BitVec.reduceEq, and_self, and_true, true_and, false_and, and_false, reduceCtorEq, if_true, if_false]
theorem sub (s : BitVec 1) (d : BitVec 6) (a : BitVec 6) (b : BitVec 6) : Statement (.sub s d a b) := by
  intro _ _; refine ⟨_, rfl, ?_⟩
  have e : fld (s ++ 0x20#7 ++ d ++ a ++ b ++ 0x1#6) 24 7 = 0x20#7 := by simp (disch := decide) only [fld, extract_append_low, extract_append_high, extract_whole, Nat.reduceSub, BitVec.reduceExtractLsb']
  show decodeCompAt (fld _ 24 7).toNat _ = _; rw [e]; show decodeComp20 _ = _
  simp (disch := decide) only [decodeComp20, fld, extract_append_low, extract_append_high, extract_whole, Nat.reduceSub, BitVec.reduceExtractLsb', BitVec.reduceEq, and_self, and_true, true_and, false_and, and_false, reduceCtorEq, if_true, if_false]
theorem mul (s : BitVec 1) (d : BitVec 6) (a : BitVec 6) (b : BitVec 6) : Statement (.mul s d a b) := by
  intro _ _; refine ⟨_, rfl, ?_⟩
  have e : fld (s ++ 0x20#7 ++ d ++ a ++ b ++ 0x2#6) 24 7 = 0x20#7 := by simp (disch := decide) only [fld, extract_append_low, extract_append_high, extract_whole, Nat.reduceSub, BitVec.reduceExtractLsb']
  show decodeCompAt (fld _ 24 7).toNat _ = _; rw [e]; show decodeComp20 _ = _
  simp (disch := decide) only [decodeComp20, fld, extract_append_low, extract_append_high, extract_whole, Nat.reduceSub, BitVec.reduceExtractLsb', BitVec.reduceEq, and_self, and_true, true_and, false_and, and_false, reduceCtorEq, if_true, if_false]
theorem mulh (s : BitVec 1) (d : BitVec 6) (a : BitVec 6) (b : BitVec 6) : Statement (.mulh s d a b) := by
  intro _ _; refine ⟨_, rfl, ?_⟩
  have e : fld (s ++ 0x20#7 ++ d ++ a ++ b ++ 0x3#6) 24 7 = 0x20#7 := by simp (disch := decide) only [fld, extract_append_low, extract_append_high, extract_whole, Nat.reduceSub, BitVec.reduceExtractLsb']
  show decodeCompAt (fld _ 24 7).toNat _ = _; rw [e]; show decodeComp20 _ = _
  simp (disch := decide) only [decodeComp20, fld, extract_append_low, extract_append_high, extract_whole, Nat.reduceSub, BitVec.reduceExtractLsb', BitVec.reduceEq, and_self, and_true, true_and, false_and, and_false, reduceCtorEq, if_true, if_false]
theorem min (s : BitVec 1) (d : BitVec 6) (a : BitVec 6) (b : BitVec 6) : Statement (.min s d a b) := by
  intro _ _; refine ⟨_, rfl, ?_⟩
  have e : fld (s ++ 0x20#7 ++ d ++ a ++ b ++ 0x4#6) 24 7 = 0x20#7 := by simp (disch := decide) only [fld, extract_append_low, extract_append_high, extract_whole, Nat.reduceSub, BitVec.reduceExtractLsb']
  show decodeCompAt (fld _ 24 7).toNat _ = _; rw [e]; show decodeComp20 _ = _
  simp (disch := decide) only [decodeComp20, fld, extract_append_low, extract_append_high, extract_whole, Nat.reduceSub, BitVec.reduceExtractLsb', BitVec.reduceEq, and_self, and_true, true_and, false_and, and_false, reduceCtorEq, if_true, if_false]
theorem max (s : BitVec 1) (d : BitVec 6) (a : BitVec 6) (b : BitVec 6) : Statement (.max s d a b) := by
  intro _ _; refine ⟨_, rfl, ?_⟩
  have e : fld (s ++ 0x20#7 ++ d ++ a ++ b ++ 0x5#6) 24 7 = 0x20#7 := by simp (disch := decide) only [fld, extract_append_low, extract_append_high, extract_whole, Nat.reduceSub, BitVec.reduceExtractLsb']
  show decodeCompAt (fld _ 24 7).toNat _ = _; rw [e]; show decodeComp20 _ = _
  simp (disch := decide) only [decodeComp20, fld, extract_append_low, extract_append_high, extract_whole, Nat.reduceSub, BitVec.reduceExtractLsb', BitVec.reduceEq, and_self, and_true, true_and, false_and, and_false, reduceCtorEq, if_true, if_false]
theorem and (s : BitVec 1) (d : BitVec 6) (a : BitVec 6) (b : BitVec 6) : Statement (.and s d a b) := by
  intro _ _; refine ⟨_, rfl, ?_⟩
  have e : fld (s ++ 0x20#7 ++ d ++ a ++ b ++ 0x6#6) 24 7 = 0x20#7 := by simp (disch := decide) only [fld, extract_append_low, extract_append_high, extract_whole, Nat.reduceSub, BitVec.reduceExtractLsb']
  show decodeCompAt (fld _ 24 7).toNat _ = _; rw [e]; show decodeComp20 _ = _
  simp (disch := decide) only [decodeComp20, fld, extract_append_low, extract_append_high, extract_whole, Nat.reduceSub, BitVec.reduceExtractLsb', BitVec.reduceEq, and_self, and_true, true_and, false_and, and_false, reduceCtorEq, if_true, if_false]
theorem or (s : BitVec 1) (d : BitVec 6) (a : BitVec 6) (b : BitVec 6) : Statement (.or s d a b) := by
  intro _ _; refine ⟨_, rfl, ?_⟩
  have e : fld (s ++ 0x20#7 ++ d ++ a ++ b ++ 0x7#6) 24 7 = 0x20#7 := by simp (disch := decide) only [fld, extract_append_low, extract_append_high, extract_whole, Nat.reduceSub, BitVec.reduceExtractLsb']
  show decodeCompAt (fld _ 24 7).toNat _ = _; rw [e]; show decodeComp20 _ = _
  simp (disch := decide) only [decodeComp20, fld, extract_append_low, extract_append_high, extract_whole, Nat.reduceSub, BitVec.reduceExtractLsb', BitVec.reduceEq, and_self, and_true, true_and, false_and, and_false, reduceCtorEq, if_true, if_false]
theorem xor (s : BitVec 1) (d : BitVec 6) (a : BitVec 6) (b : BitVec 6) : Statement (.xor s d a b) := by
  intro _ _; refine ⟨_, rfl, ?_⟩
  have e : fld (s ++ 0x20#7 ++ d ++ a ++ b ++ 0x8#6) 24 7 = 0x20#7 := by simp (disch := decide) only [fld, extract_append_low, extract_append_high, extract_whole, Nat.reduceSub, BitVec.reduceExtractLsb']
  show decodeCompAt (fld _ 24 7).toNat _ = _; rw [e]; show decodeComp20 _ = _
  simp (disch := decide) only [decodeComp20, fld, extract_append_low, extract_append_high, extract_whole, Nat.reduceSub, BitVec.reduceExtractLsb', BitVec.reduceEq, and_self, and_true, true_and, false_and, and_false, reduceCtorEq, if_true, if_false]
theorem andn (s : BitVec 1) (d : BitVec 6) (a : BitVec 6) (b : BitVec 6) : Statement (.andn s d a b) := by
  intro _ _; refine ⟨_, rfl, ?_⟩
  have e : fld (s ++ 0x20#7 ++ d ++ a ++ b ++ 0x9#6) 24 7 = 0x20#7 := by simp (disch := decide) only [fld, extract_append_low, extract_append_high, extract_whole, Nat.reduceSub, BitVec.reduceExtractLsb']
  show decodeCompAt (fld _ 24 7).toNat _ = _; rw [e]; show decodeComp20 _ = _
  simp (disch := decide) only [decodeComp20, fld, extract_append_low, extract_append_high, extract_whole, Nat.reduceSub, BitVec.reduceExtractLsb', BitVec.reduceEq, and_self, and_true, true_and, false_and, and_false, reduceCtorEq, if_true, if_false]
theorem shl (s : BitVec 1) (d : BitVec 6) (a : BitVec 6) (b : BitVec 6) : Statement (.shl s d a b) := by
  intro _ _; refine ⟨_, rfl, ?_⟩
  have e : fld (s ++ 0x20#7 ++ d ++ a ++ b ++ 0xa#6) 24 7 = 0x20#7 := by simp (disch := decide) only [fld, extract_append_low, extract_append_high, extract_whole, Nat.reduceSub, BitVec.reduceExtractLsb']
  show decodeCompAt (fld _ 24 7).toNat _ = _; rw [e]; show decodeComp20 _ = _
  simp (disch := decide) only [decodeComp20, fld, extract_append_low, extract_append_high, extract_whole, Nat.reduceSub, BitVec.reduceExtractLsb', BitVec.reduceEq, and_self, and_true, true_and, false_and, and_false, reduceCtorEq, if_true, if_false]
theorem shr (s : BitVec 1) (d : BitVec 6) (a : BitVec 6) (b : BitVec 6) : Statement (.shr s d a b) := by
  intro _ _; refine ⟨_, rfl, ?_⟩
  have e : fld (s ++ 0x20#7 ++ d ++ a ++ b ++ 0xb#6) 24 7 = 0x20#7 := by simp (disch := decide) only [fld, extract_append_low, extract_append_high, extract_whole, Nat.reduceSub, BitVec.reduceExtractLsb']
  show decodeCompAt (fld _ 24 7).toNat _ = _; rw [e]; show decodeComp20 _ = _
  simp (disch := decide) only [decodeComp20, fld, extract_append_low, extract_append_high, extract_whole, Nat.reduceSub, BitVec.reduceExtractLsb', BitVec.reduceEq, and_self, and_true, true_and, false_and, and_false, reduceCtorEq, if_true, if_false]
theorem rot (s : BitVec 1) (d : BitVec 6) (a : BitVec 6) (b : BitVec 6) : Statement (.rot s d a b) := by
  intro _ _; refine ⟨_, rfl, ?_⟩
  have e : fld (s ++ 0x20#7 ++ d ++ a ++ b ++ 0xc#6) 24 7 = 0x20#7 := by simp (disch := decide) only [fld, extract_append_low, extract_append_high, extract_whole, Nat.reduceSub, BitVec.reduceExtractLsb']
  show decodeCompAt (fld _ 24 7).toNat _ = _; rw [e]; show decodeComp20 _ = _
  simp (disch := decide) only [decodeComp20, fld, extract_append_low, extract_append_high, extract_whole, Nat.reduceSub, BitVec.reduceExtractLsb', BitVec.reduceEq, and_self, and_true, true_and, false_and, and_false, reduceCtorEq, if_true, if_false]
theorem addc (s : BitVec 1) (d : BitVec 6) (a : BitVec 6) (b : BitVec 6) : Statement (.addc s d a b) := by
  intro _ _; refine ⟨_, rfl, ?_⟩
  have e : fld (s ++ 0x20#7 ++ d ++ a ++ b ++ 0xd#6) 24 7 = 0x20#7 := by simp (disch := decide) only [fld, extract_append_low, extract_append_high, extract_whole, Nat.reduceSub, BitVec.reduceExtractLsb']
  show decodeCompAt (fld _ 24 7).toNat _ = _; rw [e]; show decodeComp20 _ = _
  simp (disch := decide) only [decodeComp20, fld, extract_append_low, extract_append_high, extract_whole, Nat.reduceSub, BitVec.reduceExtractLsb', BitVec.reduceEq, and_self, and_true, true_and, false_and, and_false, reduceCtorEq, if_true, if_false]
theorem subb (s : BitVec 1) (d : BitVec 6) (a : BitVec 6) (b : BitVec 6) : Statement (.subb s d a b) := by
  intro _ _; refine ⟨_, rfl, ?_⟩
  have e : fld (s ++ 0x20#7 ++ d ++ a ++ b ++ 0xe#6) 24 7 = 0x20#7 := by simp (disch := decide) only [fld, extract_append_low, extract_append_high, extract_whole, Nat.reduceSub, BitVec.reduceExtractLsb']
  show decodeCompAt (fld _ 24 7).toNat _ = _; rw [e]; show decodeComp20 _ = _
  simp (disch := decide) only [decodeComp20, fld, extract_append_low, extract_append_high, extract_whole, Nat.reduceSub, BitVec.reduceExtractLsb', BitVec.reduceEq, and_self, and_true, true_and, false_and, and_false, reduceCtorEq, if_true, if_false]
theorem absd (s : BitVec 1) (d : BitVec 6) (a : BitVec 6) (b : BitVec 6) : Statement (.absd s d a b) := by
  intro _ _; refine ⟨_, rfl, ?_⟩
  have e : fld (s ++ 0x20#7 ++ d ++ a ++ b ++ 0xf#6) 24 7 = 0x20#7 := by simp (disch := decide) only [fld, extract_append_low, extract_append_high, extract_whole, Nat.reduceSub, BitVec.reduceExtractLsb']
  show decodeCompAt (fld _ 24 7).toNat _ = _; rw [e]; show decodeComp20 _ = _
  simp (disch := decide) only [decodeComp20, fld, extract_append_low, extract_append_high, extract_whole, Nat.reduceSub, BitVec.reduceExtractLsb', BitVec.reduceEq, and_self, and_true, true_and, false_and, and_false, reduceCtorEq, if_true, if_false]
theorem neg (s : BitVec 1) (d : BitVec 6) (a : BitVec 6) : Statement (.neg s d a) := by
  intro _ _; refine ⟨_, rfl, ?_⟩
  have e : fld (s ++ 0x21#7 ++ d ++ a ++ 0x0#12) 24 7 = 0x21#7 := by simp (disch := decide) only [fld, extract_append_low, extract_append_high, extract_whole, Nat.reduceSub, BitVec.reduceExtractLsb']
  show decodeCompAt (fld _ 24 7).toNat _ = _; rw [e]; show decodeComp21 _ = _
  simp (disch := decide) only [decodeComp21, fld, extract_append_low, extract_append_high, extract_whole, Nat.reduceSub, BitVec.reduceExtractLsb', BitVec.reduceEq, and_self, and_true, true_and, false_and, and_false, reduceCtorEq, if_true, if_false]
theorem abs (s : BitVec 1) (d : BitVec 6) (a : BitVec 6) : Statement (.abs s d a) := by
  intro _ _; refine ⟨_, rfl, ?_⟩
  have e : fld (s ++ 0x21#7 ++ d ++ a ++ 0x1#12) 24 7 = 0x21#7 := by simp (disch := decide) only [fld, extract_append_low, extract_append_high, extract_whole, Nat.reduceSub, BitVec.reduceExtractLsb']
  show decodeCompAt (fld _ 24 7).toNat _ = _; rw [e]; show decodeComp21 _ = _
  simp (disch := decide) only [decodeComp21, fld, extract_append_low, extract_append_high, extract_whole, Nat.reduceSub, BitVec.reduceExtractLsb', BitVec.reduceEq, and_self, and_true, true_and, false_and, and_false, reduceCtorEq, if_true, if_false]
theorem not (s : BitVec 1) (d : BitVec 6) (a : BitVec 6) : Statement (.not s d a) := by
  intro _ _; refine ⟨_, rfl, ?_⟩
  have e : fld (s ++ 0x21#7 ++ d ++ a ++ 0x2#12) 24 7 = 0x21#7 := by simp (disch := decide) only [fld, extract_append_low, extract_append_high, extract_whole, Nat.reduceSub, BitVec.reduceExtractLsb']
  show decodeCompAt (fld _ 24 7).toNat _ = _; rw [e]; show decodeComp21 _ = _
  simp (disch := decide) only [decodeComp21, fld, extract_append_low, extract_append_high, extract_whole, Nat.reduceSub, BitVec.reduceExtractLsb', BitVec.reduceEq, and_self, and_true, true_and, false_and, and_false, reduceCtorEq, if_true, if_false]
theorem clz (s : BitVec 1) (d : BitVec 6) (a : BitVec 6) : Statement (.clz s d a) := by
  intro _ _; refine ⟨_, rfl, ?_⟩
  have e : fld (s ++ 0x21#7 ++ d ++ a ++ 0x3#12) 24 7 = 0x21#7 := by simp (disch := decide) only [fld, extract_append_low, extract_append_high, extract_whole, Nat.reduceSub, BitVec.reduceExtractLsb']
  show decodeCompAt (fld _ 24 7).toNat _ = _; rw [e]; show decodeComp21 _ = _
  simp (disch := decide) only [decodeComp21, fld, extract_append_low, extract_append_high, extract_whole, Nat.reduceSub, BitVec.reduceExtractLsb', BitVec.reduceEq, and_self, and_true, true_and, false_and, and_false, reduceCtorEq, if_true, if_false]
theorem ctz (s : BitVec 1) (d : BitVec 6) (a : BitVec 6) : Statement (.ctz s d a) := by
  intro _ _; refine ⟨_, rfl, ?_⟩
  have e : fld (s ++ 0x21#7 ++ d ++ a ++ 0x4#12) 24 7 = 0x21#7 := by simp (disch := decide) only [fld, extract_append_low, extract_append_high, extract_whole, Nat.reduceSub, BitVec.reduceExtractLsb']
  show decodeCompAt (fld _ 24 7).toNat _ = _; rw [e]; show decodeComp21 _ = _
  simp (disch := decide) only [decodeComp21, fld, extract_append_low, extract_append_high, extract_whole, Nat.reduceSub, BitVec.reduceExtractLsb', BitVec.reduceEq, and_self, and_true, true_and, false_and, and_false, reduceCtorEq, if_true, if_false]
theorem popc (s : BitVec 1) (d : BitVec 6) (a : BitVec 6) : Statement (.popc s d a) := by
  intro _ _; refine ⟨_, rfl, ?_⟩
  have e : fld (s ++ 0x21#7 ++ d ++ a ++ 0x5#12) 24 7 = 0x21#7 := by simp (disch := decide) only [fld, extract_append_low, extract_append_high, extract_whole, Nat.reduceSub, BitVec.reduceExtractLsb']
  show decodeCompAt (fld _ 24 7).toNat _ = _; rw [e]; show decodeComp21 _ = _
  simp (disch := decide) only [decodeComp21, fld, extract_append_low, extract_append_high, extract_whole, Nat.reduceSub, BitVec.reduceExtractLsb', BitVec.reduceEq, and_self, and_true, true_and, false_and, and_false, reduceCtorEq, if_true, if_false]
theorem brev (s : BitVec 1) (d : BitVec 6) (a : BitVec 6) : Statement (.brev s d a) := by
  intro _ _; refine ⟨_, rfl, ?_⟩
  have e : fld (s ++ 0x21#7 ++ d ++ a ++ 0x6#12) 24 7 = 0x21#7 := by simp (disch := decide) only [fld, extract_append_low, extract_append_high, extract_whole, Nat.reduceSub, BitVec.reduceExtractLsb']
  show decodeCompAt (fld _ 24 7).toNat _ = _; rw [e]; show decodeComp21 _ = _
  simp (disch := decide) only [decodeComp21, fld, extract_append_low, extract_append_high, extract_whole, Nat.reduceSub, BitVec.reduceExtractLsb', BitVec.reduceEq, and_self, and_true, true_and, false_and, and_false, reduceCtorEq, if_true, if_false]
theorem mad (s : BitVec 1) (d : BitVec 6) (a : BitVec 6) (b : BitVec 6) (c : BitVec 6) : Statement (.mad s d a b c) := by
  intro _ _; refine ⟨_, rfl, ?_⟩
  have e : fld (s ++ 0x22#7 ++ d ++ a ++ b ++ c) 24 7 = 0x22#7 := by simp (disch := decide) only [fld, extract_append_low, extract_append_high, extract_whole, Nat.reduceSub, BitVec.reduceExtractLsb']
  show decodeCompAt (fld _ 24 7).toNat _ = _; rw [e]; show decodeComp22 _ = _
  simp (disch := decide) only [decodeComp22, fld, extract_append_low, extract_append_high, extract_whole, Nat.reduceSub, BitVec.reduceExtractLsb', BitVec.reduceEq, and_self, and_true, true_and, false_and, and_false, reduceCtorEq, if_true, if_false]
theorem bfe (s : BitVec 1) (d : BitVec 6) (a : BitVec 6) (b : BitVec 6) (c : BitVec 6) : Statement (.bfe s d a b c) := by
  intro _ _; refine ⟨_, rfl, ?_⟩
  have e : fld (s ++ 0x23#7 ++ d ++ a ++ b ++ c) 24 7 = 0x23#7 := by simp (disch := decide) only [fld, extract_append_low, extract_append_high, extract_whole, Nat.reduceSub, BitVec.reduceExtractLsb']
  show decodeCompAt (fld _ 24 7).toNat _ = _; rw [e]; show decodeComp23 _ = _
  simp (disch := decide) only [decodeComp23, fld, extract_append_low, extract_append_high, extract_whole, Nat.reduceSub, BitVec.reduceExtractLsb', BitVec.reduceEq, and_self, and_true, true_and, false_and, and_false, reduceCtorEq, if_true, if_false]
theorem bfi (s : BitVec 1) (d : BitVec 6) (a : BitVec 6) (b : BitVec 6) (c : BitVec 6) : Statement (.bfi s d a b c) := by
  intro _ _; refine ⟨_, rfl, ?_⟩
  have e : fld (s ++ 0x24#7 ++ d ++ a ++ b ++ c) 24 7 = 0x24#7 := by simp (disch := decide) only [fld, extract_append_low, extract_append_high, extract_whole, Nat.reduceSub, BitVec.reduceExtractLsb']
  show decodeCompAt (fld _ 24 7).toNat _ = _; rw [e]; show decodeComp24 _ = _
  simp (disch := decide) only [decodeComp24, fld, extract_append_low, extract_append_high, extract_whole, Nat.reduceSub, BitVec.reduceExtractLsb', BitVec.reduceEq, and_self, and_true, true_and, false_and, and_false, reduceCtorEq, if_true, if_false]
theorem addi (s : BitVec 1) (d : BitVec 6) (a : BitVec 6) (i : BitVec 12) : Statement (.addi s d a i) := by
  intro _ _; refine ⟨_, rfl, ?_⟩
  have e : fld (s ++ 0x25#7 ++ d ++ a ++ i) 24 7 = 0x25#7 := by simp (disch := decide) only [fld, extract_append_low, extract_append_high, extract_whole, Nat.reduceSub, BitVec.reduceExtractLsb']
  show decodeCompAt (fld _ 24 7).toNat _ = _; rw [e]; show decodeComp25 _ = _
  simp (disch := decide) only [decodeComp25, fld, extract_append_low, extract_append_high, extract_whole, Nat.reduceSub, BitVec.reduceExtractLsb', BitVec.reduceEq, and_self, and_true, true_and, false_and, and_false, reduceCtorEq, if_true, if_false]
theorem shi (s : BitVec 1) (d : BitVec 6) (a : BitVec 6) (k : BitVec 2) (n : BitVec 6) : Statement (.shi s d a k n) := by
  intro _ _; refine ⟨_, rfl, ?_⟩
  have e : fld (s ++ 0x26#7 ++ d ++ a ++ k ++ 0x0#4 ++ n) 24 7 = 0x26#7 := by simp (disch := decide) only [fld, extract_append_low, extract_append_high, extract_whole, Nat.reduceSub, BitVec.reduceExtractLsb']
  show decodeCompAt (fld _ 24 7).toNat _ = _; rw [e]; show decodeComp26 _ = _
  simp (disch := decide) only [decodeComp26, fld, extract_append_low, extract_append_high, extract_whole, Nat.reduceSub, BitVec.reduceExtractLsb', BitVec.reduceEq, and_self, and_true, true_and, false_and, and_false, reduceCtorEq, if_true, if_false]
theorem lit (s : BitVec 1) (d : BitVec 6) (h : BitVec 2) (i : BitVec 16) : Statement (.lit s d h i) := by
  intro _ _; refine ⟨_, rfl, ?_⟩
  have e : fld (s ++ 0x27#7 ++ d ++ h ++ i) 24 7 = 0x27#7 := by simp (disch := decide) only [fld, extract_append_low, extract_append_high, extract_whole, Nat.reduceSub, BitVec.reduceExtractLsb']
  show decodeCompAt (fld _ 24 7).toNat _ = _; rw [e]; show decodeComp27 _ = _
  simp (disch := decide) only [decodeComp27, fld, extract_append_low, extract_append_high, extract_whole, Nat.reduceSub, BitVec.reduceExtractLsb', BitVec.reduceEq, and_self, and_true, true_and, false_and, and_false, reduceCtorEq, if_true, if_false]
theorem cmp (s : BitVec 1) (d : BitVec 6) (a : BitVec 6) (b : BitVec 6) (c : BitVec 6) : Statement (.cmp s d a b c) := by
  intro _ _; refine ⟨_, rfl, ?_⟩
  have e : fld (s ++ 0x28#7 ++ d ++ a ++ b ++ c) 24 7 = 0x28#7 := by simp (disch := decide) only [fld, extract_append_low, extract_append_high, extract_whole, Nat.reduceSub, BitVec.reduceExtractLsb']
  show decodeCompAt (fld _ 24 7).toNat _ = _; rw [e]; show decodeComp28 _ = _
  simp (disch := decide) only [decodeComp28, fld, extract_append_low, extract_append_high, extract_whole, Nat.reduceSub, BitVec.reduceExtractLsb', BitVec.reduceEq, and_self, and_true, true_and, false_and, and_false, reduceCtorEq, if_true, if_false]
theorem sel (s : BitVec 1) (d : BitVec 6) (a : BitVec 6) (b : BitVec 6) (c : BitVec 6) : Statement (.sel s d a b c) := by
  intro _ _; refine ⟨_, rfl, ?_⟩
  have e : fld (s ++ 0x29#7 ++ d ++ a ++ b ++ c) 24 7 = 0x29#7 := by simp (disch := decide) only [fld, extract_append_low, extract_append_high, extract_whole, Nat.reduceSub, BitVec.reduceExtractLsb']
  show decodeCompAt (fld _ 24 7).toNat _ = _; rw [e]; show decodeComp29 _ = _
  simp (disch := decide) only [decodeComp29, fld, extract_append_low, extract_append_high, extract_whole, Nat.reduceSub, BitVec.reduceExtractLsb', BitVec.reduceEq, and_self, and_true, true_and, false_and, and_false, reduceCtorEq, if_true, if_false]
theorem pand (s : BitVec 1) (d : BitVec 6) (a : BitVec 6) (b : BitVec 6) : Statement (.pand s d a b) := by
  intro _ _; refine ⟨_, rfl, ?_⟩
  have e : fld (s ++ 0x2a#7 ++ d ++ a ++ b ++ 0x0#6) 24 7 = 0x2a#7 := by simp (disch := decide) only [fld, extract_append_low, extract_append_high, extract_whole, Nat.reduceSub, BitVec.reduceExtractLsb']
  show decodeCompAt (fld _ 24 7).toNat _ = _; rw [e]; show decodeComp2A _ = _
  simp (disch := decide) only [decodeComp2A, fld, extract_append_low, extract_append_high, extract_whole, Nat.reduceSub, BitVec.reduceExtractLsb', BitVec.reduceEq, and_self, and_true, true_and, false_and, and_false, reduceCtorEq, if_true, if_false]
theorem por (s : BitVec 1) (d : BitVec 6) (a : BitVec 6) (b : BitVec 6) : Statement (.por s d a b) := by
  intro _ _; refine ⟨_, rfl, ?_⟩
  have e : fld (s ++ 0x2a#7 ++ d ++ a ++ b ++ 0x1#6) 24 7 = 0x2a#7 := by simp (disch := decide) only [fld, extract_append_low, extract_append_high, extract_whole, Nat.reduceSub, BitVec.reduceExtractLsb']
  show decodeCompAt (fld _ 24 7).toNat _ = _; rw [e]; show decodeComp2A _ = _
  simp (disch := decide) only [decodeComp2A, fld, extract_append_low, extract_append_high, extract_whole, Nat.reduceSub, BitVec.reduceExtractLsb', BitVec.reduceEq, and_self, and_true, true_and, false_and, and_false, reduceCtorEq, if_true, if_false]
theorem pxor (s : BitVec 1) (d : BitVec 6) (a : BitVec 6) (b : BitVec 6) : Statement (.pxor s d a b) := by
  intro _ _; refine ⟨_, rfl, ?_⟩
  have e : fld (s ++ 0x2a#7 ++ d ++ a ++ b ++ 0x2#6) 24 7 = 0x2a#7 := by simp (disch := decide) only [fld, extract_append_low, extract_append_high, extract_whole, Nat.reduceSub, BitVec.reduceExtractLsb']
  show decodeCompAt (fld _ 24 7).toNat _ = _; rw [e]; show decodeComp2A _ = _
  simp (disch := decide) only [decodeComp2A, fld, extract_append_low, extract_append_high, extract_whole, Nat.reduceSub, BitVec.reduceExtractLsb', BitVec.reduceEq, and_self, and_true, true_and, false_and, and_false, reduceCtorEq, if_true, if_false]
theorem pnot (s : BitVec 1) (d : BitVec 6) (a : BitVec 6) : Statement (.pnot s d a) := by
  intro _ _; refine ⟨_, rfl, ?_⟩
  have e : fld (s ++ 0x2a#7 ++ d ++ a ++ 0x3#12) 24 7 = 0x2a#7 := by simp (disch := decide) only [fld, extract_append_low, extract_append_high, extract_whole, Nat.reduceSub, BitVec.reduceExtractLsb']
  show decodeCompAt (fld _ 24 7).toNat _ = _; rw [e]; show decodeComp2A _ = _
  simp (disch := decide) only [decodeComp2A, fld, extract_append_low, extract_append_high, extract_whole, Nat.reduceSub, BitVec.reduceExtractLsb', BitVec.reduceEq, and_self, and_true, true_and, false_and, and_false, reduceCtorEq, if_true, if_false]
theorem pmov (s : BitVec 1) (d : BitVec 6) (a : BitVec 6) (b : BitVec 6) : Statement (.pmov s d a b) := by
  intro _ _; refine ⟨_, rfl, ?_⟩
  have e : fld (s ++ 0x2a#7 ++ d ++ a ++ b ++ 0x4#6) 24 7 = 0x2a#7 := by simp (disch := decide) only [fld, extract_append_low, extract_append_high, extract_whole, Nat.reduceSub, BitVec.reduceExtractLsb']
  show decodeCompAt (fld _ 24 7).toNat _ = _; rw [e]; show decodeComp2A _ = _
  simp (disch := decide) only [decodeComp2A, fld, extract_append_low, extract_append_high, extract_whole, Nat.reduceSub, BitVec.reduceExtractLsb', BitVec.reduceEq, and_self, and_true, true_and, false_and, and_false, reduceCtorEq, if_true, if_false]
theorem pset (s : BitVec 1) (d : BitVec 6) (a : BitVec 6) : Statement (.pset s d a) := by
  intro _ _; refine ⟨_, rfl, ?_⟩
  have e : fld (s ++ 0x2a#7 ++ d ++ a ++ 0x5#12) 24 7 = 0x2a#7 := by simp (disch := decide) only [fld, extract_append_low, extract_append_high, extract_whole, Nat.reduceSub, BitVec.reduceExtractLsb']
  show decodeCompAt (fld _ 24 7).toNat _ = _; rw [e]; show decodeComp2A _ = _
  simp (disch := decide) only [decodeComp2A, fld, extract_append_low, extract_append_high, extract_whole, Nat.reduceSub, BitVec.reduceExtractLsb', BitVec.reduceEq, and_self, and_true, true_and, false_and, and_false, reduceCtorEq, if_true, if_false]
theorem pget (s : BitVec 1) (d : BitVec 6) (a : BitVec 6) : Statement (.pget s d a) := by
  intro _ _; refine ⟨_, rfl, ?_⟩
  have e : fld (s ++ 0x2a#7 ++ d ++ a ++ 0x6#12) 24 7 = 0x2a#7 := by simp (disch := decide) only [fld, extract_append_low, extract_append_high, extract_whole, Nat.reduceSub, BitVec.reduceExtractLsb']
  show decodeCompAt (fld _ 24 7).toNat _ = _; rw [e]; show decodeComp2A _ = _
  simp (disch := decide) only [decodeComp2A, fld, extract_append_low, extract_append_high, extract_whole, Nat.reduceSub, BitVec.reduceExtractLsb', BitVec.reduceEq, and_self, and_true, true_and, false_and, and_false, reduceCtorEq, if_true, if_false]
theorem mov (s : BitVec 1) (d : BitVec 6) (a : BitVec 6) : Statement (.mov s d a) := by
  intro _ _; refine ⟨_, rfl, ?_⟩
  have e : fld (s ++ 0x2b#7 ++ d ++ a ++ 0x0#12) 24 7 = 0x2b#7 := by simp (disch := decide) only [fld, extract_append_low, extract_append_high, extract_whole, Nat.reduceSub, BitVec.reduceExtractLsb']
  show decodeCompAt (fld _ 24 7).toNat _ = _; rw [e]; show decodeComp2B _ = _
  simp (disch := decide) only [decodeComp2B, fld, extract_append_low, extract_append_high, extract_whole, Nat.reduceSub, BitVec.reduceExtractLsb', BitVec.reduceEq, and_self, and_true, true_and, false_and, and_false, reduceCtorEq, if_true, if_false]
theorem bcst (s : BitVec 1) (d : BitVec 6) (a : BitVec 6) (b : BitVec 6) : Statement (.bcst s d a b) := by
  intro _ _; refine ⟨_, rfl, ?_⟩
  have e : fld (s ++ 0x2b#7 ++ d ++ a ++ b ++ 0x1#6) 24 7 = 0x2b#7 := by simp (disch := decide) only [fld, extract_append_low, extract_append_high, extract_whole, Nat.reduceSub, BitVec.reduceExtractLsb']
  show decodeCompAt (fld _ 24 7).toNat _ = _; rw [e]; show decodeComp2B _ = _
  simp (disch := decide) only [decodeComp2B, fld, extract_append_low, extract_append_high, extract_whole, Nat.reduceSub, BitVec.reduceExtractLsb', BitVec.reduceEq, and_self, and_true, true_and, false_and, and_false, reduceCtorEq, if_true, if_false]
theorem vtos (s : BitVec 1) (d : BitVec 6) (a : BitVec 6) (b : BitVec 6) : Statement (.vtos s d a b) := by
  intro _ _; refine ⟨_, rfl, ?_⟩
  have e : fld (s ++ 0x2b#7 ++ d ++ a ++ b ++ 0x2#6) 24 7 = 0x2b#7 := by simp (disch := decide) only [fld, extract_append_low, extract_append_high, extract_whole, Nat.reduceSub, BitVec.reduceExtractLsb']
  show decodeCompAt (fld _ 24 7).toNat _ = _; rw [e]; show decodeComp2B _ = _
  simp (disch := decide) only [decodeComp2B, fld, extract_append_low, extract_append_high, extract_whole, Nat.reduceSub, BitVec.reduceExtractLsb', BitVec.reduceEq, and_self, and_true, true_and, false_and, and_false, reduceCtorEq, if_true, if_false]
theorem stov (s : BitVec 1) (d : BitVec 6) (a : BitVec 6) (b : BitVec 6) : Statement (.stov s d a b) := by
  intro _ _; refine ⟨_, rfl, ?_⟩
  have e : fld (s ++ 0x2b#7 ++ d ++ a ++ b ++ 0x3#6) 24 7 = 0x2b#7 := by simp (disch := decide) only [fld, extract_append_low, extract_append_high, extract_whole, Nat.reduceSub, BitVec.reduceExtractLsb']
  show decodeCompAt (fld _ 24 7).toNat _ = _; rw [e]; show decodeComp2B _ = _
  simp (disch := decide) only [decodeComp2B, fld, extract_append_low, extract_append_high, extract_whole, Nat.reduceSub, BitVec.reduceExtractLsb', BitVec.reduceEq, and_self, and_true, true_and, false_and, and_false, reduceCtorEq, if_true, if_false]
theorem fadd (s : BitVec 1) (d : BitVec 6) (a : BitVec 6) (b : BitVec 6) : Statement (.fadd s d a b) := by
  intro _ _; refine ⟨_, rfl, ?_⟩
  have e : fld (s ++ 0x30#7 ++ d ++ a ++ b ++ 0x0#6) 24 7 = 0x30#7 := by simp (disch := decide) only [fld, extract_append_low, extract_append_high, extract_whole, Nat.reduceSub, BitVec.reduceExtractLsb']
  show decodeCompAt (fld _ 24 7).toNat _ = _; rw [e]; show decodeComp30 _ = _
  simp (disch := decide) only [decodeComp30, fld, extract_append_low, extract_append_high, extract_whole, Nat.reduceSub, BitVec.reduceExtractLsb', BitVec.reduceEq, and_self, and_true, true_and, false_and, and_false, reduceCtorEq, if_true, if_false]
theorem fsub (s : BitVec 1) (d : BitVec 6) (a : BitVec 6) (b : BitVec 6) : Statement (.fsub s d a b) := by
  intro _ _; refine ⟨_, rfl, ?_⟩
  have e : fld (s ++ 0x30#7 ++ d ++ a ++ b ++ 0x1#6) 24 7 = 0x30#7 := by simp (disch := decide) only [fld, extract_append_low, extract_append_high, extract_whole, Nat.reduceSub, BitVec.reduceExtractLsb']
  show decodeCompAt (fld _ 24 7).toNat _ = _; rw [e]; show decodeComp30 _ = _
  simp (disch := decide) only [decodeComp30, fld, extract_append_low, extract_append_high, extract_whole, Nat.reduceSub, BitVec.reduceExtractLsb', BitVec.reduceEq, and_self, and_true, true_and, false_and, and_false, reduceCtorEq, if_true, if_false]
theorem fmul (s : BitVec 1) (d : BitVec 6) (a : BitVec 6) (b : BitVec 6) : Statement (.fmul s d a b) := by
  intro _ _; refine ⟨_, rfl, ?_⟩
  have e : fld (s ++ 0x30#7 ++ d ++ a ++ b ++ 0x2#6) 24 7 = 0x30#7 := by simp (disch := decide) only [fld, extract_append_low, extract_append_high, extract_whole, Nat.reduceSub, BitVec.reduceExtractLsb']
  show decodeCompAt (fld _ 24 7).toNat _ = _; rw [e]; show decodeComp30 _ = _
  simp (disch := decide) only [decodeComp30, fld, extract_append_low, extract_append_high, extract_whole, Nat.reduceSub, BitVec.reduceExtractLsb', BitVec.reduceEq, and_self, and_true, true_and, false_and, and_false, reduceCtorEq, if_true, if_false]
theorem fmin (s : BitVec 1) (d : BitVec 6) (a : BitVec 6) (b : BitVec 6) : Statement (.fmin s d a b) := by
  intro _ _; refine ⟨_, rfl, ?_⟩
  have e : fld (s ++ 0x30#7 ++ d ++ a ++ b ++ 0x3#6) 24 7 = 0x30#7 := by simp (disch := decide) only [fld, extract_append_low, extract_append_high, extract_whole, Nat.reduceSub, BitVec.reduceExtractLsb']
  show decodeCompAt (fld _ 24 7).toNat _ = _; rw [e]; show decodeComp30 _ = _
  simp (disch := decide) only [decodeComp30, fld, extract_append_low, extract_append_high, extract_whole, Nat.reduceSub, BitVec.reduceExtractLsb', BitVec.reduceEq, and_self, and_true, true_and, false_and, and_false, reduceCtorEq, if_true, if_false]
theorem fmax (s : BitVec 1) (d : BitVec 6) (a : BitVec 6) (b : BitVec 6) : Statement (.fmax s d a b) := by
  intro _ _; refine ⟨_, rfl, ?_⟩
  have e : fld (s ++ 0x30#7 ++ d ++ a ++ b ++ 0x4#6) 24 7 = 0x30#7 := by simp (disch := decide) only [fld, extract_append_low, extract_append_high, extract_whole, Nat.reduceSub, BitVec.reduceExtractLsb']
  show decodeCompAt (fld _ 24 7).toNat _ = _; rw [e]; show decodeComp30 _ = _
  simp (disch := decide) only [decodeComp30, fld, extract_append_low, extract_append_high, extract_whole, Nat.reduceSub, BitVec.reduceExtractLsb', BitVec.reduceEq, and_self, and_true, true_and, false_and, and_false, reduceCtorEq, if_true, if_false]
theorem fcpys (s : BitVec 1) (d : BitVec 6) (a : BitVec 6) (b : BitVec 6) : Statement (.fcpys s d a b) := by
  intro _ _; refine ⟨_, rfl, ?_⟩
  have e : fld (s ++ 0x30#7 ++ d ++ a ++ b ++ 0x5#6) 24 7 = 0x30#7 := by simp (disch := decide) only [fld, extract_append_low, extract_append_high, extract_whole, Nat.reduceSub, BitVec.reduceExtractLsb']
  show decodeCompAt (fld _ 24 7).toNat _ = _; rw [e]; show decodeComp30 _ = _
  simp (disch := decide) only [decodeComp30, fld, extract_append_low, extract_append_high, extract_whole, Nat.reduceSub, BitVec.reduceExtractLsb', BitVec.reduceEq, and_self, and_true, true_and, false_and, and_false, reduceCtorEq, if_true, if_false]
theorem fabs (s : BitVec 1) (d : BitVec 6) (a : BitVec 6) : Statement (.fabs s d a) := by
  intro _ _; refine ⟨_, rfl, ?_⟩
  have e : fld (s ++ 0x31#7 ++ d ++ a ++ 0x0#12) 24 7 = 0x31#7 := by simp (disch := decide) only [fld, extract_append_low, extract_append_high, extract_whole, Nat.reduceSub, BitVec.reduceExtractLsb']
  show decodeCompAt (fld _ 24 7).toNat _ = _; rw [e]; show decodeComp31 _ = _
  simp (disch := decide) only [decodeComp31, fld, extract_append_low, extract_append_high, extract_whole, Nat.reduceSub, BitVec.reduceExtractLsb', BitVec.reduceEq, and_self, and_true, true_and, false_and, and_false, reduceCtorEq, if_true, if_false]
theorem fneg (s : BitVec 1) (d : BitVec 6) (a : BitVec 6) : Statement (.fneg s d a) := by
  intro _ _; refine ⟨_, rfl, ?_⟩
  have e : fld (s ++ 0x31#7 ++ d ++ a ++ 0x1#12) 24 7 = 0x31#7 := by simp (disch := decide) only [fld, extract_append_low, extract_append_high, extract_whole, Nat.reduceSub, BitVec.reduceExtractLsb']
  show decodeCompAt (fld _ 24 7).toNat _ = _; rw [e]; show decodeComp31 _ = _
  simp (disch := decide) only [decodeComp31, fld, extract_append_low, extract_append_high, extract_whole, Nat.reduceSub, BitVec.reduceExtractLsb', BitVec.reduceEq, and_self, and_true, true_and, false_and, and_false, reduceCtorEq, if_true, if_false]
theorem frnd (s : BitVec 1) (d : BitVec 6) (a : BitVec 6) : Statement (.frnd s d a) := by
  intro _ _; refine ⟨_, rfl, ?_⟩
  have e : fld (s ++ 0x31#7 ++ d ++ a ++ 0x2#12) 24 7 = 0x31#7 := by simp (disch := decide) only [fld, extract_append_low, extract_append_high, extract_whole, Nat.reduceSub, BitVec.reduceExtractLsb']
  show decodeCompAt (fld _ 24 7).toNat _ = _; rw [e]; show decodeComp31 _ = _
  simp (disch := decide) only [decodeComp31, fld, extract_append_low, extract_append_high, extract_whole, Nat.reduceSub, BitVec.reduceExtractLsb', BitVec.reduceEq, and_self, and_true, true_and, false_and, and_false, reduceCtorEq, if_true, if_false]
theorem fclass (s : BitVec 1) (d : BitVec 6) (a : BitVec 6) : Statement (.fclass s d a) := by
  intro _ _; refine ⟨_, rfl, ?_⟩
  have e : fld (s ++ 0x31#7 ++ d ++ a ++ 0x3#12) 24 7 = 0x31#7 := by simp (disch := decide) only [fld, extract_append_low, extract_append_high, extract_whole, Nat.reduceSub, BitVec.reduceExtractLsb']
  show decodeCompAt (fld _ 24 7).toNat _ = _; rw [e]; show decodeComp31 _ = _
  simp (disch := decide) only [decodeComp31, fld, extract_append_low, extract_append_high, extract_whole, Nat.reduceSub, BitVec.reduceExtractLsb', BitVec.reduceEq, and_self, and_true, true_and, false_and, and_false, reduceCtorEq, if_true, if_false]
theorem fma (s : BitVec 1) (d : BitVec 6) (a : BitVec 6) (b : BitVec 6) (c : BitVec 6) : Statement (.fma s d a b c) := by
  intro _ _; refine ⟨_, rfl, ?_⟩
  have e : fld (s ++ 0x32#7 ++ d ++ a ++ b ++ c) 24 7 = 0x32#7 := by simp (disch := decide) only [fld, extract_append_low, extract_append_high, extract_whole, Nat.reduceSub, BitVec.reduceExtractLsb']
  show decodeCompAt (fld _ 24 7).toNat _ = _; rw [e]; show decodeComp32 _ = _
  simp (disch := decide) only [decodeComp32, fld, extract_append_low, extract_append_high, extract_whole, Nat.reduceSub, BitVec.reduceExtractLsb', BitVec.reduceEq, and_self, and_true, true_and, false_and, and_false, reduceCtorEq, if_true, if_false]
theorem fms (s : BitVec 1) (d : BitVec 6) (a : BitVec 6) (b : BitVec 6) (c : BitVec 6) : Statement (.fms s d a b c) := by
  intro _ _; refine ⟨_, rfl, ?_⟩
  have e : fld (s ++ 0x33#7 ++ d ++ a ++ b ++ c) 24 7 = 0x33#7 := by simp (disch := decide) only [fld, extract_append_low, extract_append_high, extract_whole, Nat.reduceSub, BitVec.reduceExtractLsb']
  show decodeCompAt (fld _ 24 7).toNat _ = _; rw [e]; show decodeComp33 _ = _
  simp (disch := decide) only [decodeComp33, fld, extract_append_low, extract_append_high, extract_whole, Nat.reduceSub, BitVec.reduceExtractLsb', BitVec.reduceEq, and_self, and_true, true_and, false_and, and_false, reduceCtorEq, if_true, if_false]
theorem fnma (s : BitVec 1) (d : BitVec 6) (a : BitVec 6) (b : BitVec 6) (c : BitVec 6) : Statement (.fnma s d a b c) := by
  intro _ _; refine ⟨_, rfl, ?_⟩
  have e : fld (s ++ 0x34#7 ++ d ++ a ++ b ++ c) 24 7 = 0x34#7 := by simp (disch := decide) only [fld, extract_append_low, extract_append_high, extract_whole, Nat.reduceSub, BitVec.reduceExtractLsb']
  show decodeCompAt (fld _ 24 7).toNat _ = _; rw [e]; show decodeComp34 _ = _
  simp (disch := decide) only [decodeComp34, fld, extract_append_low, extract_append_high, extract_whole, Nat.reduceSub, BitVec.reduceExtractLsb', BitVec.reduceEq, and_self, and_true, true_and, false_and, and_false, reduceCtorEq, if_true, if_false]
theorem fnms (s : BitVec 1) (d : BitVec 6) (a : BitVec 6) (b : BitVec 6) (c : BitVec 6) : Statement (.fnms s d a b c) := by
  intro _ _; refine ⟨_, rfl, ?_⟩
  have e : fld (s ++ 0x35#7 ++ d ++ a ++ b ++ c) 24 7 = 0x35#7 := by simp (disch := decide) only [fld, extract_append_low, extract_append_high, extract_whole, Nat.reduceSub, BitVec.reduceExtractLsb']
  show decodeCompAt (fld _ 24 7).toNat _ = _; rw [e]; show decodeComp35 _ = _
  simp (disch := decide) only [decodeComp35, fld, extract_append_low, extract_append_high, extract_whole, Nat.reduceSub, BitVec.reduceExtractLsb', BitVec.reduceEq, and_self, and_true, true_and, false_and, and_false, reduceCtorEq, if_true, if_false]
theorem frcp (s : BitVec 1) (d : BitVec 6) (a : BitVec 6) : Statement (.frcp s d a) := by
  intro _ _; refine ⟨_, rfl, ?_⟩
  have e : fld (s ++ 0x36#7 ++ d ++ a ++ 0x0#12) 24 7 = 0x36#7 := by simp (disch := decide) only [fld, extract_append_low, extract_append_high, extract_whole, Nat.reduceSub, BitVec.reduceExtractLsb']
  show decodeCompAt (fld _ 24 7).toNat _ = _; rw [e]; show decodeComp36 _ = _
  simp (disch := decide) only [decodeComp36, fld, extract_append_low, extract_append_high, extract_whole, Nat.reduceSub, BitVec.reduceExtractLsb', BitVec.reduceEq, and_self, and_true, true_and, false_and, and_false, reduceCtorEq, if_true, if_false]
theorem frsq (s : BitVec 1) (d : BitVec 6) (a : BitVec 6) : Statement (.frsq s d a) := by
  intro _ _; refine ⟨_, rfl, ?_⟩
  have e : fld (s ++ 0x36#7 ++ d ++ a ++ 0x1#12) 24 7 = 0x36#7 := by simp (disch := decide) only [fld, extract_append_low, extract_append_high, extract_whole, Nat.reduceSub, BitVec.reduceExtractLsb']
  show decodeCompAt (fld _ 24 7).toNat _ = _; rw [e]; show decodeComp36 _ = _
  simp (disch := decide) only [decodeComp36, fld, extract_append_low, extract_append_high, extract_whole, Nat.reduceSub, BitVec.reduceExtractLsb', BitVec.reduceEq, and_self, and_true, true_and, false_and, and_false, reduceCtorEq, if_true, if_false]
theorem fsqrt (s : BitVec 1) (d : BitVec 6) (a : BitVec 6) : Statement (.fsqrt s d a) := by
  intro _ _; refine ⟨_, rfl, ?_⟩
  have e : fld (s ++ 0x36#7 ++ d ++ a ++ 0x2#12) 24 7 = 0x36#7 := by simp (disch := decide) only [fld, extract_append_low, extract_append_high, extract_whole, Nat.reduceSub, BitVec.reduceExtractLsb']
  show decodeCompAt (fld _ 24 7).toNat _ = _; rw [e]; show decodeComp36 _ = _
  simp (disch := decide) only [decodeComp36, fld, extract_append_low, extract_append_high, extract_whole, Nat.reduceSub, BitVec.reduceExtractLsb', BitVec.reduceEq, and_self, and_true, true_and, false_and, and_false, reduceCtorEq, if_true, if_false]
theorem fexp2 (s : BitVec 1) (d : BitVec 6) (a : BitVec 6) : Statement (.fexp2 s d a) := by
  intro _ _; refine ⟨_, rfl, ?_⟩
  have e : fld (s ++ 0x36#7 ++ d ++ a ++ 0x3#12) 24 7 = 0x36#7 := by simp (disch := decide) only [fld, extract_append_low, extract_append_high, extract_whole, Nat.reduceSub, BitVec.reduceExtractLsb']
  show decodeCompAt (fld _ 24 7).toNat _ = _; rw [e]; show decodeComp36 _ = _
  simp (disch := decide) only [decodeComp36, fld, extract_append_low, extract_append_high, extract_whole, Nat.reduceSub, BitVec.reduceExtractLsb', BitVec.reduceEq, and_self, and_true, true_and, false_and, and_false, reduceCtorEq, if_true, if_false]
theorem flog2 (s : BitVec 1) (d : BitVec 6) (a : BitVec 6) : Statement (.flog2 s d a) := by
  intro _ _; refine ⟨_, rfl, ?_⟩
  have e : fld (s ++ 0x36#7 ++ d ++ a ++ 0x4#12) 24 7 = 0x36#7 := by simp (disch := decide) only [fld, extract_append_low, extract_append_high, extract_whole, Nat.reduceSub, BitVec.reduceExtractLsb']
  show decodeCompAt (fld _ 24 7).toNat _ = _; rw [e]; show decodeComp36 _ = _
  simp (disch := decide) only [decodeComp36, fld, extract_append_low, extract_append_high, extract_whole, Nat.reduceSub, BitVec.reduceExtractLsb', BitVec.reduceEq, and_self, and_true, true_and, false_and, and_false, reduceCtorEq, if_true, if_false]
theorem fsin (s : BitVec 1) (d : BitVec 6) (a : BitVec 6) : Statement (.fsin s d a) := by
  intro _ _; refine ⟨_, rfl, ?_⟩
  have e : fld (s ++ 0x36#7 ++ d ++ a ++ 0x5#12) 24 7 = 0x36#7 := by simp (disch := decide) only [fld, extract_append_low, extract_append_high, extract_whole, Nat.reduceSub, BitVec.reduceExtractLsb']
  show decodeCompAt (fld _ 24 7).toNat _ = _; rw [e]; show decodeComp36 _ = _
  simp (disch := decide) only [decodeComp36, fld, extract_append_low, extract_append_high, extract_whole, Nat.reduceSub, BitVec.reduceExtractLsb', BitVec.reduceEq, and_self, and_true, true_and, false_and, and_false, reduceCtorEq, if_true, if_false]
theorem fcos (s : BitVec 1) (d : BitVec 6) (a : BitVec 6) : Statement (.fcos s d a) := by
  intro _ _; refine ⟨_, rfl, ?_⟩
  have e : fld (s ++ 0x36#7 ++ d ++ a ++ 0x6#12) 24 7 = 0x36#7 := by simp (disch := decide) only [fld, extract_append_low, extract_append_high, extract_whole, Nat.reduceSub, BitVec.reduceExtractLsb']
  show decodeCompAt (fld _ 24 7).toNat _ = _; rw [e]; show decodeComp36 _ = _
  simp (disch := decide) only [decodeComp36, fld, extract_append_low, extract_append_high, extract_whole, Nat.reduceSub, BitVec.reduceExtractLsb', BitVec.reduceEq, and_self, and_true, true_and, false_and, and_false, reduceCtorEq, if_true, if_false]
theorem ftanh (s : BitVec 1) (d : BitVec 6) (a : BitVec 6) : Statement (.ftanh s d a) := by
  intro _ _; refine ⟨_, rfl, ?_⟩
  have e : fld (s ++ 0x36#7 ++ d ++ a ++ 0x7#12) 24 7 = 0x36#7 := by simp (disch := decide) only [fld, extract_append_low, extract_append_high, extract_whole, Nat.reduceSub, BitVec.reduceExtractLsb']
  show decodeCompAt (fld _ 24 7).toNat _ = _; rw [e]; show decodeComp36 _ = _
  simp (disch := decide) only [decodeComp36, fld, extract_append_low, extract_append_high, extract_whole, Nat.reduceSub, BitVec.reduceExtractLsb', BitVec.reduceEq, and_self, and_true, true_and, false_and, and_false, reduceCtorEq, if_true, if_false]
theorem fdiv (s : BitVec 1) (d : BitVec 6) (a : BitVec 6) (b : BitVec 6) : Statement (.fdiv s d a b) := by
  intro _ _; refine ⟨_, rfl, ?_⟩
  have e : fld (s ++ 0x36#7 ++ d ++ a ++ b ++ 0x8#6) 24 7 = 0x36#7 := by simp (disch := decide) only [fld, extract_append_low, extract_append_high, extract_whole, Nat.reduceSub, BitVec.reduceExtractLsb']
  show decodeCompAt (fld _ 24 7).toNat _ = _; rw [e]; show decodeComp36 _ = _
  simp (disch := decide) only [decodeComp36, fld, extract_append_low, extract_append_high, extract_whole, Nat.reduceSub, BitVec.reduceExtractLsb', BitVec.reduceEq, and_self, and_true, true_and, false_and, and_false, reduceCtorEq, if_true, if_false]
theorem cvt (s : BitVec 1) (d : BitVec 6) (a : BitVec 6) : Statement (.cvt s d a) := by
  intro _ _; refine ⟨_, rfl, ?_⟩
  have e : fld (s ++ 0x37#7 ++ d ++ a ++ 0x0#12) 24 7 = 0x37#7 := by simp (disch := decide) only [fld, extract_append_low, extract_append_high, extract_whole, Nat.reduceSub, BitVec.reduceExtractLsb']
  show decodeCompAt (fld _ 24 7).toNat _ = _; rw [e]; show decodeComp37 _ = _
  simp (disch := decide) only [decodeComp37, fld, extract_append_low, extract_append_high, extract_whole, Nat.reduceSub, BitVec.reduceExtractLsb', BitVec.reduceEq, and_self, and_true, true_and, false_and, and_false, reduceCtorEq, if_true, if_false]
theorem cvts (s : BitVec 1) (d : BitVec 6) (a : BitVec 6) (b : BitVec 6) : Statement (.cvts s d a b) := by
  intro _ _; refine ⟨_, rfl, ?_⟩
  have e : fld (s ++ 0x37#7 ++ d ++ a ++ b ++ 0x1#6) 24 7 = 0x37#7 := by simp (disch := decide) only [fld, extract_append_low, extract_append_high, extract_whole, Nat.reduceSub, BitVec.reduceExtractLsb']
  show decodeCompAt (fld _ 24 7).toNat _ = _; rw [e]; show decodeComp37 _ = _
  simp (disch := decide) only [decodeComp37, fld, extract_append_low, extract_append_high, extract_whole, Nat.reduceSub, BitVec.reduceExtractLsb', BitVec.reduceEq, and_self, and_true, true_and, false_and, and_false, reduceCtorEq, if_true, if_false]
theorem pack (s : BitVec 1) (d : BitVec 6) (a : BitVec 6) (b : BitVec 6) : Statement (.pack s d a b) := by
  intro _ _; refine ⟨_, rfl, ?_⟩
  have e : fld (s ++ 0x38#7 ++ d ++ a ++ b ++ 0x0#6) 24 7 = 0x38#7 := by simp (disch := decide) only [fld, extract_append_low, extract_append_high, extract_whole, Nat.reduceSub, BitVec.reduceExtractLsb']
  show decodeCompAt (fld _ 24 7).toNat _ = _; rw [e]; show decodeComp38 _ = _
  simp (disch := decide) only [decodeComp38, fld, extract_append_low, extract_append_high, extract_whole, Nat.reduceSub, BitVec.reduceExtractLsb', BitVec.reduceEq, and_self, and_true, true_and, false_and, and_false, reduceCtorEq, if_true, if_false]
theorem unpk (s : BitVec 1) (d : BitVec 6) (a : BitVec 6) (b : BitVec 6) : Statement (.unpk s d a b) := by
  intro _ _; refine ⟨_, rfl, ?_⟩
  have e : fld (s ++ 0x39#7 ++ d ++ a ++ b ++ 0x0#6) 24 7 = 0x39#7 := by simp (disch := decide) only [fld, extract_append_low, extract_append_high, extract_whole, Nat.reduceSub, BitVec.reduceExtractLsb']
  show decodeCompAt (fld _ 24 7).toNat _ = _; rw [e]; show decodeComp39 _ = _
  simp (disch := decide) only [decodeComp39, fld, extract_append_low, extract_append_high, extract_whole, Nat.reduceSub, BitVec.reduceExtractLsb', BitVec.reduceEq, and_self, and_true, true_and, false_and, and_false, reduceCtorEq, if_true, if_false]
theorem qnt (s : BitVec 1) (d : BitVec 6) (a : BitVec 6) (b : BitVec 6) (q : BitVec 2) (k : BitVec 3) : Statement (.qnt s d a b q k) := by
  intro _ _; refine ⟨_, rfl, ?_⟩
  have e : fld (s ++ 0x3a#7 ++ d ++ a ++ b ++ 0x0#1 ++ q ++ k) 24 7 = 0x3a#7 := by simp (disch := decide) only [fld, extract_append_low, extract_append_high, extract_whole, Nat.reduceSub, BitVec.reduceExtractLsb']
  show decodeCompAt (fld _ 24 7).toNat _ = _; rw [e]; show decodeComp3A _ = _
  simp (disch := decide) only [decodeComp3A, fld, extract_append_low, extract_append_high, extract_whole, Nat.reduceSub, BitVec.reduceExtractLsb', BitVec.reduceEq, and_self, and_true, true_and, false_and, and_false, reduceCtorEq, if_true, if_false]
theorem dqnt (s : BitVec 1) (d : BitVec 6) (a : BitVec 6) (b : BitVec 6) (q : BitVec 2) (k : BitVec 3) : Statement (.dqnt s d a b q k) := by
  intro _ _; refine ⟨_, rfl, ?_⟩
  have e : fld (s ++ 0x3b#7 ++ d ++ a ++ b ++ 0x0#1 ++ q ++ k) 24 7 = 0x3b#7 := by simp (disch := decide) only [fld, extract_append_low, extract_append_high, extract_whole, Nat.reduceSub, BitVec.reduceExtractLsb']
  show decodeCompAt (fld _ 24 7).toNat _ = _; rw [e]; show decodeComp3B _ = _
  simp (disch := decide) only [decodeComp3B, fld, extract_append_low, extract_append_high, extract_whole, Nat.reduceSub, BitVec.reduceExtractLsb', BitVec.reduceEq, and_self, and_true, true_and, false_and, and_false, reduceCtorEq, if_true, if_false]
theorem sadd (s : BitVec 1) (d : BitVec 6) (a : BitVec 6) (b : BitVec 6) : Statement (.sadd s d a b) := by
  intro _ _; refine ⟨_, rfl, ?_⟩
  have e : fld (s ++ 0x40#7 ++ d ++ a ++ b ++ 0x0#6) 24 7 = 0x40#7 := by simp (disch := decide) only [fld, extract_append_low, extract_append_high, extract_whole, Nat.reduceSub, BitVec.reduceExtractLsb']
  show decodeCompAt (fld _ 24 7).toNat _ = _; rw [e]; show decodeComp40 _ = _
  simp (disch := decide) only [decodeComp40, fld, extract_append_low, extract_append_high, extract_whole, Nat.reduceSub, BitVec.reduceExtractLsb', BitVec.reduceEq, and_self, and_true, true_and, false_and, and_false, reduceCtorEq, if_true, if_false]
theorem ssub (s : BitVec 1) (d : BitVec 6) (a : BitVec 6) (b : BitVec 6) : Statement (.ssub s d a b) := by
  intro _ _; refine ⟨_, rfl, ?_⟩
  have e : fld (s ++ 0x40#7 ++ d ++ a ++ b ++ 0x1#6) 24 7 = 0x40#7 := by simp (disch := decide) only [fld, extract_append_low, extract_append_high, extract_whole, Nat.reduceSub, BitVec.reduceExtractLsb']
  show decodeCompAt (fld _ 24 7).toNat _ = _; rw [e]; show decodeComp40 _ = _
  simp (disch := decide) only [decodeComp40, fld, extract_append_low, extract_append_high, extract_whole, Nat.reduceSub, BitVec.reduceExtractLsb', BitVec.reduceEq, and_self, and_true, true_and, false_and, and_false, reduceCtorEq, if_true, if_false]
theorem smul (s : BitVec 1) (d : BitVec 6) (a : BitVec 6) (b : BitVec 6) : Statement (.smul s d a b) := by
  intro _ _; refine ⟨_, rfl, ?_⟩
  have e : fld (s ++ 0x40#7 ++ d ++ a ++ b ++ 0x2#6) 24 7 = 0x40#7 := by simp (disch := decide) only [fld, extract_append_low, extract_append_high, extract_whole, Nat.reduceSub, BitVec.reduceExtractLsb']
  show decodeCompAt (fld _ 24 7).toNat _ = _; rw [e]; show decodeComp40 _ = _
  simp (disch := decide) only [decodeComp40, fld, extract_append_low, extract_append_high, extract_whole, Nat.reduceSub, BitVec.reduceExtractLsb', BitVec.reduceEq, and_self, and_true, true_and, false_and, and_false, reduceCtorEq, if_true, if_false]
theorem smulh (s : BitVec 1) (d : BitVec 6) (a : BitVec 6) (b : BitVec 6) : Statement (.smulh s d a b) := by
  intro _ _; refine ⟨_, rfl, ?_⟩
  have e : fld (s ++ 0x40#7 ++ d ++ a ++ b ++ 0x3#6) 24 7 = 0x40#7 := by simp (disch := decide) only [fld, extract_append_low, extract_append_high, extract_whole, Nat.reduceSub, BitVec.reduceExtractLsb']
  show decodeCompAt (fld _ 24 7).toNat _ = _; rw [e]; show decodeComp40 _ = _
  simp (disch := decide) only [decodeComp40, fld, extract_append_low, extract_append_high, extract_whole, Nat.reduceSub, BitVec.reduceExtractLsb', BitVec.reduceEq, and_self, and_true, true_and, false_and, and_false, reduceCtorEq, if_true, if_false]
theorem smin (s : BitVec 1) (d : BitVec 6) (a : BitVec 6) (b : BitVec 6) : Statement (.smin s d a b) := by
  intro _ _; refine ⟨_, rfl, ?_⟩
  have e : fld (s ++ 0x40#7 ++ d ++ a ++ b ++ 0x4#6) 24 7 = 0x40#7 := by simp (disch := decide) only [fld, extract_append_low, extract_append_high, extract_whole, Nat.reduceSub, BitVec.reduceExtractLsb']
  show decodeCompAt (fld _ 24 7).toNat _ = _; rw [e]; show decodeComp40 _ = _
  simp (disch := decide) only [decodeComp40, fld, extract_append_low, extract_append_high, extract_whole, Nat.reduceSub, BitVec.reduceExtractLsb', BitVec.reduceEq, and_self, and_true, true_and, false_and, and_false, reduceCtorEq, if_true, if_false]
theorem smax (s : BitVec 1) (d : BitVec 6) (a : BitVec 6) (b : BitVec 6) : Statement (.smax s d a b) := by
  intro _ _; refine ⟨_, rfl, ?_⟩
  have e : fld (s ++ 0x40#7 ++ d ++ a ++ b ++ 0x5#6) 24 7 = 0x40#7 := by simp (disch := decide) only [fld, extract_append_low, extract_append_high, extract_whole, Nat.reduceSub, BitVec.reduceExtractLsb']
  show decodeCompAt (fld _ 24 7).toNat _ = _; rw [e]; show decodeComp40 _ = _
  simp (disch := decide) only [decodeComp40, fld, extract_append_low, extract_append_high, extract_whole, Nat.reduceSub, BitVec.reduceExtractLsb', BitVec.reduceEq, and_self, and_true, true_and, false_and, and_false, reduceCtorEq, if_true, if_false]
theorem sand (s : BitVec 1) (d : BitVec 6) (a : BitVec 6) (b : BitVec 6) : Statement (.sand s d a b) := by
  intro _ _; refine ⟨_, rfl, ?_⟩
  have e : fld (s ++ 0x40#7 ++ d ++ a ++ b ++ 0x6#6) 24 7 = 0x40#7 := by simp (disch := decide) only [fld, extract_append_low, extract_append_high, extract_whole, Nat.reduceSub, BitVec.reduceExtractLsb']
  show decodeCompAt (fld _ 24 7).toNat _ = _; rw [e]; show decodeComp40 _ = _
  simp (disch := decide) only [decodeComp40, fld, extract_append_low, extract_append_high, extract_whole, Nat.reduceSub, BitVec.reduceExtractLsb', BitVec.reduceEq, and_self, and_true, true_and, false_and, and_false, reduceCtorEq, if_true, if_false]
theorem sor (s : BitVec 1) (d : BitVec 6) (a : BitVec 6) (b : BitVec 6) : Statement (.sor s d a b) := by
  intro _ _; refine ⟨_, rfl, ?_⟩
  have e : fld (s ++ 0x40#7 ++ d ++ a ++ b ++ 0x7#6) 24 7 = 0x40#7 := by simp (disch := decide) only [fld, extract_append_low, extract_append_high, extract_whole, Nat.reduceSub, BitVec.reduceExtractLsb']
  show decodeCompAt (fld _ 24 7).toNat _ = _; rw [e]; show decodeComp40 _ = _
  simp (disch := decide) only [decodeComp40, fld, extract_append_low, extract_append_high, extract_whole, Nat.reduceSub, BitVec.reduceExtractLsb', BitVec.reduceEq, and_self, and_true, true_and, false_and, and_false, reduceCtorEq, if_true, if_false]
theorem sxor (s : BitVec 1) (d : BitVec 6) (a : BitVec 6) (b : BitVec 6) : Statement (.sxor s d a b) := by
  intro _ _; refine ⟨_, rfl, ?_⟩
  have e : fld (s ++ 0x40#7 ++ d ++ a ++ b ++ 0x8#6) 24 7 = 0x40#7 := by simp (disch := decide) only [fld, extract_append_low, extract_append_high, extract_whole, Nat.reduceSub, BitVec.reduceExtractLsb']
  show decodeCompAt (fld _ 24 7).toNat _ = _; rw [e]; show decodeComp40 _ = _
  simp (disch := decide) only [decodeComp40, fld, extract_append_low, extract_append_high, extract_whole, Nat.reduceSub, BitVec.reduceExtractLsb', BitVec.reduceEq, and_self, and_true, true_and, false_and, and_false, reduceCtorEq, if_true, if_false]
theorem sandn (s : BitVec 1) (d : BitVec 6) (a : BitVec 6) (b : BitVec 6) : Statement (.sandn s d a b) := by
  intro _ _; refine ⟨_, rfl, ?_⟩
  have e : fld (s ++ 0x40#7 ++ d ++ a ++ b ++ 0x9#6) 24 7 = 0x40#7 := by simp (disch := decide) only [fld, extract_append_low, extract_append_high, extract_whole, Nat.reduceSub, BitVec.reduceExtractLsb']
  show decodeCompAt (fld _ 24 7).toNat _ = _; rw [e]; show decodeComp40 _ = _
  simp (disch := decide) only [decodeComp40, fld, extract_append_low, extract_append_high, extract_whole, Nat.reduceSub, BitVec.reduceExtractLsb', BitVec.reduceEq, and_self, and_true, true_and, false_and, and_false, reduceCtorEq, if_true, if_false]
theorem sshl (s : BitVec 1) (d : BitVec 6) (a : BitVec 6) (b : BitVec 6) : Statement (.sshl s d a b) := by
  intro _ _; refine ⟨_, rfl, ?_⟩
  have e : fld (s ++ 0x40#7 ++ d ++ a ++ b ++ 0xa#6) 24 7 = 0x40#7 := by simp (disch := decide) only [fld, extract_append_low, extract_append_high, extract_whole, Nat.reduceSub, BitVec.reduceExtractLsb']
  show decodeCompAt (fld _ 24 7).toNat _ = _; rw [e]; show decodeComp40 _ = _
  simp (disch := decide) only [decodeComp40, fld, extract_append_low, extract_append_high, extract_whole, Nat.reduceSub, BitVec.reduceExtractLsb', BitVec.reduceEq, and_self, and_true, true_and, false_and, and_false, reduceCtorEq, if_true, if_false]
theorem sshr (s : BitVec 1) (d : BitVec 6) (a : BitVec 6) (b : BitVec 6) : Statement (.sshr s d a b) := by
  intro _ _; refine ⟨_, rfl, ?_⟩
  have e : fld (s ++ 0x40#7 ++ d ++ a ++ b ++ 0xb#6) 24 7 = 0x40#7 := by simp (disch := decide) only [fld, extract_append_low, extract_append_high, extract_whole, Nat.reduceSub, BitVec.reduceExtractLsb']
  show decodeCompAt (fld _ 24 7).toNat _ = _; rw [e]; show decodeComp40 _ = _
  simp (disch := decide) only [decodeComp40, fld, extract_append_low, extract_append_high, extract_whole, Nat.reduceSub, BitVec.reduceExtractLsb', BitVec.reduceEq, and_self, and_true, true_and, false_and, and_false, reduceCtorEq, if_true, if_false]
theorem srot (s : BitVec 1) (d : BitVec 6) (a : BitVec 6) (b : BitVec 6) : Statement (.srot s d a b) := by
  intro _ _; refine ⟨_, rfl, ?_⟩
  have e : fld (s ++ 0x40#7 ++ d ++ a ++ b ++ 0xc#6) 24 7 = 0x40#7 := by simp (disch := decide) only [fld, extract_append_low, extract_append_high, extract_whole, Nat.reduceSub, BitVec.reduceExtractLsb']
  show decodeCompAt (fld _ 24 7).toNat _ = _; rw [e]; show decodeComp40 _ = _
  simp (disch := decide) only [decodeComp40, fld, extract_append_low, extract_append_high, extract_whole, Nat.reduceSub, BitVec.reduceExtractLsb', BitVec.reduceEq, and_self, and_true, true_and, false_and, and_false, reduceCtorEq, if_true, if_false]
theorem saddi (s : BitVec 1) (d : BitVec 6) (a : BitVec 6) (i : BitVec 12) : Statement (.saddi s d a i) := by
  intro _ _; refine ⟨_, rfl, ?_⟩
  have e : fld (s ++ 0x41#7 ++ d ++ a ++ i) 24 7 = 0x41#7 := by simp (disch := decide) only [fld, extract_append_low, extract_append_high, extract_whole, Nat.reduceSub, BitVec.reduceExtractLsb']
  show decodeCompAt (fld _ 24 7).toNat _ = _; rw [e]; show decodeComp41 _ = _
  simp (disch := decide) only [decodeComp41, fld, extract_append_low, extract_append_high, extract_whole, Nat.reduceSub, BitVec.reduceExtractLsb', BitVec.reduceEq, and_self, and_true, true_and, false_and, and_false, reduceCtorEq, if_true, if_false]
theorem slit (s : BitVec 1) (d : BitVec 6) (h : BitVec 2) (i : BitVec 16) : Statement (.slit s d h i) := by
  intro _ _; refine ⟨_, rfl, ?_⟩
  have e : fld (s ++ 0x42#7 ++ d ++ h ++ i) 24 7 = 0x42#7 := by simp (disch := decide) only [fld, extract_append_low, extract_append_high, extract_whole, Nat.reduceSub, BitVec.reduceExtractLsb']
  show decodeCompAt (fld _ 24 7).toNat _ = _; rw [e]; show decodeComp42 _ = _
  simp (disch := decide) only [decodeComp42, fld, extract_append_low, extract_append_high, extract_whole, Nat.reduceSub, BitVec.reduceExtractLsb', BitVec.reduceEq, and_self, and_true, true_and, false_and, and_false, reduceCtorEq, if_true, if_false]
theorem xchx (s : BitVec 1) (d : BitVec 6) (a : BitVec 6) (b : BitVec 6) : Statement (.xchx s d a b) := by
  intro _ _; refine ⟨_, rfl, ?_⟩
  have e : fld (s ++ 0x48#7 ++ d ++ a ++ b ++ 0x0#6) 24 7 = 0x48#7 := by simp (disch := decide) only [fld, extract_append_low, extract_append_high, extract_whole, Nat.reduceSub, BitVec.reduceExtractLsb']
  show decodeCompAt (fld _ 24 7).toNat _ = _; rw [e]; show decodeComp48 _ = _
  simp (disch := decide) only [decodeComp48, fld, extract_append_low, extract_append_high, extract_whole, Nat.reduceSub, BitVec.reduceExtractLsb', BitVec.reduceEq, and_self, and_true, true_and, false_and, and_false, reduceCtorEq, if_true, if_false]
theorem xchu (s : BitVec 1) (d : BitVec 6) (a : BitVec 6) (b : BitVec 6) : Statement (.xchu s d a b) := by
  intro _ _; refine ⟨_, rfl, ?_⟩
  have e : fld (s ++ 0x48#7 ++ d ++ a ++ b ++ 0x1#6) 24 7 = 0x48#7 := by simp (disch := decide) only [fld, extract_append_low, extract_append_high, extract_whole, Nat.reduceSub, BitVec.reduceExtractLsb']
  show decodeCompAt (fld _ 24 7).toNat _ = _; rw [e]; show decodeComp48 _ = _
  simp (disch := decide) only [decodeComp48, fld, extract_append_low, extract_append_high, extract_whole, Nat.reduceSub, BitVec.reduceExtractLsb', BitVec.reduceEq, and_self, and_true, true_and, false_and, and_false, reduceCtorEq, if_true, if_false]
theorem xchd (s : BitVec 1) (d : BitVec 6) (a : BitVec 6) (b : BitVec 6) : Statement (.xchd s d a b) := by
  intro _ _; refine ⟨_, rfl, ?_⟩
  have e : fld (s ++ 0x48#7 ++ d ++ a ++ b ++ 0x2#6) 24 7 = 0x48#7 := by simp (disch := decide) only [fld, extract_append_low, extract_append_high, extract_whole, Nat.reduceSub, BitVec.reduceExtractLsb']
  show decodeCompAt (fld _ 24 7).toNat _ = _; rw [e]; show decodeComp48 _ = _
  simp (disch := decide) only [decodeComp48, fld, extract_append_low, extract_append_high, extract_whole, Nat.reduceSub, BitVec.reduceExtractLsb', BitVec.reduceEq, and_self, and_true, true_and, false_and, and_false, reduceCtorEq, if_true, if_false]
theorem xchxk (s : BitVec 1) (d : BitVec 6) (a : BitVec 6) (b : BitVec 6) : Statement (.xchxk s d a b) := by
  intro _ _; refine ⟨_, rfl, ?_⟩
  have e : fld (s ++ 0x49#7 ++ d ++ a ++ b ++ 0x0#6) 24 7 = 0x49#7 := by simp (disch := decide) only [fld, extract_append_low, extract_append_high, extract_whole, Nat.reduceSub, BitVec.reduceExtractLsb']
  show decodeCompAt (fld _ 24 7).toNat _ = _; rw [e]; show decodeComp49 _ = _
  simp (disch := decide) only [decodeComp49, fld, extract_append_low, extract_append_high, extract_whole, Nat.reduceSub, BitVec.reduceExtractLsb', BitVec.reduceEq, and_self, and_true, true_and, false_and, and_false, reduceCtorEq, if_true, if_false]
theorem xchuk (s : BitVec 1) (d : BitVec 6) (a : BitVec 6) (b : BitVec 6) : Statement (.xchuk s d a b) := by
  intro _ _; refine ⟨_, rfl, ?_⟩
  have e : fld (s ++ 0x49#7 ++ d ++ a ++ b ++ 0x1#6) 24 7 = 0x49#7 := by simp (disch := decide) only [fld, extract_append_low, extract_append_high, extract_whole, Nat.reduceSub, BitVec.reduceExtractLsb']
  show decodeCompAt (fld _ 24 7).toNat _ = _; rw [e]; show decodeComp49 _ = _
  simp (disch := decide) only [decodeComp49, fld, extract_append_low, extract_append_high, extract_whole, Nat.reduceSub, BitVec.reduceExtractLsb', BitVec.reduceEq, and_self, and_true, true_and, false_and, and_false, reduceCtorEq, if_true, if_false]
theorem xchdk (s : BitVec 1) (d : BitVec 6) (a : BitVec 6) (b : BitVec 6) : Statement (.xchdk s d a b) := by
  intro _ _; refine ⟨_, rfl, ?_⟩
  have e : fld (s ++ 0x49#7 ++ d ++ a ++ b ++ 0x2#6) 24 7 = 0x49#7 := by simp (disch := decide) only [fld, extract_append_low, extract_append_high, extract_whole, Nat.reduceSub, BitVec.reduceExtractLsb']
  show decodeCompAt (fld _ 24 7).toNat _ = _; rw [e]; show decodeComp49 _ = _
  simp (disch := decide) only [decodeComp49, fld, extract_append_low, extract_append_high, extract_whole, Nat.reduceSub, BitVec.reduceExtractLsb', BitVec.reduceEq, and_self, and_true, true_and, false_and, and_false, reduceCtorEq, if_true, if_false]
theorem xchi (s : BitVec 1) (d : BitVec 6) (a : BitVec 6) (b : BitVec 6) : Statement (.xchi s d a b) := by
  intro _ _; refine ⟨_, rfl, ?_⟩
  have e : fld (s ++ 0x4a#7 ++ d ++ a ++ b ++ 0x0#6) 24 7 = 0x4a#7 := by simp (disch := decide) only [fld, extract_append_low, extract_append_high, extract_whole, Nat.reduceSub, BitVec.reduceExtractLsb']
  show decodeCompAt (fld _ 24 7).toNat _ = _; rw [e]; show decodeComp4A _ = _
  simp (disch := decide) only [decodeComp4A, fld, extract_append_low, extract_append_high, extract_whole, Nat.reduceSub, BitVec.reduceExtractLsb', BitVec.reduceEq, and_self, and_true, true_and, false_and, and_false, reduceCtorEq, if_true, if_false]
theorem xbc (s : BitVec 1) (d : BitVec 6) (a : BitVec 6) (b : BitVec 6) : Statement (.xbc s d a b) := by
  intro _ _; refine ⟨_, rfl, ?_⟩
  have e : fld (s ++ 0x4b#7 ++ d ++ a ++ b ++ 0x0#6) 24 7 = 0x4b#7 := by simp (disch := decide) only [fld, extract_append_low, extract_append_high, extract_whole, Nat.reduceSub, BitVec.reduceExtractLsb']
  show decodeCompAt (fld _ 24 7).toNat _ = _; rw [e]; show decodeComp4B _ = _
  simp (disch := decide) only [decodeComp4B, fld, extract_append_low, extract_append_high, extract_whole, Nat.reduceSub, BitVec.reduceExtractLsb', BitVec.reduceEq, and_self, and_true, true_and, false_and, and_false, reduceCtorEq, if_true, if_false]
theorem voteAny (s : BitVec 1) (d : BitVec 6) (a : BitVec 6) (b : BitVec 6) : Statement (.voteAny s d a b) := by
  intro _ _; refine ⟨_, rfl, ?_⟩
  have e : fld (s ++ 0x4c#7 ++ d ++ a ++ b ++ 0x0#6) 24 7 = 0x4c#7 := by simp (disch := decide) only [fld, extract_append_low, extract_append_high, extract_whole, Nat.reduceSub, BitVec.reduceExtractLsb']
  show decodeCompAt (fld _ 24 7).toNat _ = _; rw [e]; show decodeComp4C _ = _
  simp (disch := decide) only [decodeComp4C, fld, extract_append_low, extract_append_high, extract_whole, Nat.reduceSub, BitVec.reduceExtractLsb', BitVec.reduceEq, and_self, and_true, true_and, false_and, and_false, reduceCtorEq, if_true, if_false]
theorem voteAll (s : BitVec 1) (d : BitVec 6) (a : BitVec 6) (b : BitVec 6) : Statement (.voteAll s d a b) := by
  intro _ _; refine ⟨_, rfl, ?_⟩
  have e : fld (s ++ 0x4c#7 ++ d ++ a ++ b ++ 0x1#6) 24 7 = 0x4c#7 := by simp (disch := decide) only [fld, extract_append_low, extract_append_high, extract_whole, Nat.reduceSub, BitVec.reduceExtractLsb']
  show decodeCompAt (fld _ 24 7).toNat _ = _; rw [e]; show decodeComp4C _ = _
  simp (disch := decide) only [decodeComp4C, fld, extract_append_low, extract_append_high, extract_whole, Nat.reduceSub, BitVec.reduceExtractLsb', BitVec.reduceEq, and_self, and_true, true_and, false_and, and_false, reduceCtorEq, if_true, if_false]
theorem voteEq (s : BitVec 1) (d : BitVec 6) (a : BitVec 6) (b : BitVec 6) : Statement (.voteEq s d a b) := by
  intro _ _; refine ⟨_, rfl, ?_⟩
  have e : fld (s ++ 0x4c#7 ++ d ++ a ++ b ++ 0x2#6) 24 7 = 0x4c#7 := by simp (disch := decide) only [fld, extract_append_low, extract_append_high, extract_whole, Nat.reduceSub, BitVec.reduceExtractLsb']
  show decodeCompAt (fld _ 24 7).toNat _ = _; rw [e]; show decodeComp4C _ = _
  simp (disch := decide) only [decodeComp4C, fld, extract_append_low, extract_append_high, extract_whole, Nat.reduceSub, BitVec.reduceExtractLsb', BitVec.reduceEq, and_self, and_true, true_and, false_and, and_false, reduceCtorEq, if_true, if_false]
theorem voteBallot (s : BitVec 1) (d : BitVec 6) (a : BitVec 6) (b : BitVec 6) : Statement (.voteBallot s d a b) := by
  intro _ _; refine ⟨_, rfl, ?_⟩
  have e : fld (s ++ 0x4c#7 ++ d ++ a ++ b ++ 0x3#6) 24 7 = 0x4c#7 := by simp (disch := decide) only [fld, extract_append_low, extract_append_high, extract_whole, Nat.reduceSub, BitVec.reduceExtractLsb']
  show decodeCompAt (fld _ 24 7).toNat _ = _; rw [e]; show decodeComp4C _ = _
  simp (disch := decide) only [decodeComp4C, fld, extract_append_low, extract_append_high, extract_whole, Nat.reduceSub, BitVec.reduceExtractLsb', BitVec.reduceEq, and_self, and_true, true_and, false_and, and_false, reduceCtorEq, if_true, if_false]
theorem voteElect (s : BitVec 1) (d : BitVec 6) : Statement (.voteElect s d) := by
  intro _ _; refine ⟨_, rfl, ?_⟩
  have e : fld (s ++ 0x4c#7 ++ d ++ 0x4#18) 24 7 = 0x4c#7 := by simp (disch := decide) only [fld, extract_append_low, extract_append_high, extract_whole, Nat.reduceSub, BitVec.reduceExtractLsb']
  show decodeCompAt (fld _ 24 7).toNat _ = _; rw [e]; show decodeComp4C _ = _
  simp (disch := decide) only [decodeComp4C, fld, extract_append_low, extract_append_high, extract_whole, Nat.reduceSub, BitVec.reduceExtractLsb', BitVec.reduceEq, and_self, and_true, true_and, false_and, and_false, reduceCtorEq, if_true, if_false]
theorem voteMatch (s : BitVec 1) (d : BitVec 6) (a : BitVec 6) : Statement (.voteMatch s d a) := by
  intro _ _; refine ⟨_, rfl, ?_⟩
  have e : fld (s ++ 0x4c#7 ++ d ++ a ++ 0x5#12) 24 7 = 0x4c#7 := by simp (disch := decide) only [fld, extract_append_low, extract_append_high, extract_whole, Nat.reduceSub, BitVec.reduceExtractLsb']
  show decodeCompAt (fld _ 24 7).toNat _ = _; rw [e]; show decodeComp4C _ = _
  simp (disch := decide) only [decodeComp4C, fld, extract_append_low, extract_append_high, extract_whole, Nat.reduceSub, BitVec.reduceExtractLsb', BitVec.reduceEq, and_self, and_true, true_and, false_and, and_false, reduceCtorEq, if_true, if_false]
theorem redu (s : BitVec 1) (d : BitVec 6) (a : BitVec 6) (b : BitVec 6) (f : BitVec 6) : Statement (.redu s d a b f) := by
  intro _ _; refine ⟨_, rfl, ?_⟩
  have e : fld (s ++ 0x4d#7 ++ d ++ a ++ b ++ f) 24 7 = 0x4d#7 := by simp (disch := decide) only [fld, extract_append_low, extract_append_high, extract_whole, Nat.reduceSub, BitVec.reduceExtractLsb']
  show decodeCompAt (fld _ 24 7).toNat _ = _; rw [e]; show decodeComp4D _ = _
  simp (disch := decide) only [decodeComp4D, fld, extract_append_low, extract_append_high, extract_whole, Nat.reduceSub, BitVec.reduceExtractLsb', BitVec.reduceEq, and_self, and_true, true_and, false_and, and_false, reduceCtorEq, if_true, if_false]
theorem scan (s : BitVec 1) (d : BitVec 6) (a : BitVec 6) (b : BitVec 6) (f : BitVec 6) : Statement (.scan s d a b f) := by
  intro _ _; refine ⟨_, rfl, ?_⟩
  have e : fld (s ++ 0x4e#7 ++ d ++ a ++ b ++ f) 24 7 = 0x4e#7 := by simp (disch := decide) only [fld, extract_append_low, extract_append_high, extract_whole, Nat.reduceSub, BitVec.reduceExtractLsb']
  show decodeCompAt (fld _ 24 7).toNat _ = _; rw [e]; show decodeComp4E _ = _
  simp (disch := decide) only [decodeComp4E, fld, extract_append_low, extract_append_high, extract_whole, Nat.reduceSub, BitVec.reduceExtractLsb', BitVec.reduceEq, and_self, and_true, true_and, false_and, and_false, reduceCtorEq, if_true, if_false]
theorem cpt (s : BitVec 1) (d : BitVec 6) (a : BitVec 6) (b : BitVec 6) : Statement (.cpt s d a b) := by
  intro _ _; refine ⟨_, rfl, ?_⟩
  have e : fld (s ++ 0x4f#7 ++ d ++ a ++ b ++ 0x0#6) 24 7 = 0x4f#7 := by simp (disch := decide) only [fld, extract_append_low, extract_append_high, extract_whole, Nat.reduceSub, BitVec.reduceExtractLsb']
  show decodeCompAt (fld _ 24 7).toNat _ = _; rw [e]; show decodeComp4F _ = _
  simp (disch := decide) only [decodeComp4F, fld, extract_append_low, extract_append_high, extract_whole, Nat.reduceSub, BitVec.reduceExtractLsb', BitVec.reduceEq, and_self, and_true, true_and, false_and, and_false, reduceCtorEq, if_true, if_false]
theorem tbind (s : BitVec 1) (t : BitVec 3) (r : BitVec 4) : Statement (.tbind s t r) := by
  intro _ _; refine ⟨_, rfl, ?_⟩
  have e : fld (s ++ 0x50#7 ++ t ++ 0x0#1 ++ r ++ 0x0#16) 24 7 = 0x50#7 := by simp (disch := decide) only [fld, extract_append_low, extract_append_high, extract_whole, Nat.reduceSub, BitVec.reduceExtractLsb']
  show decodeCompAt (fld _ 24 7).toNat _ = _; rw [e]; show decodeComp50 _ = _
  simp (disch := decide) only [decodeComp50, fld, extract_append_low, extract_append_high, extract_whole, Nat.reduceSub, BitVec.reduceExtractLsb', BitVec.reduceEq, and_self, and_true, true_and, false_and, and_false, reduceCtorEq, if_true, if_false]
theorem tzero (s : BitVec 1) (t : BitVec 3) (r : BitVec 4) : Statement (.tzero s t r) := by
  intro _ _; refine ⟨_, rfl, ?_⟩
  have e : fld (s ++ 0x51#7 ++ t ++ 0x0#1 ++ r ++ 0x0#16) 24 7 = 0x51#7 := by simp (disch := decide) only [fld, extract_append_low, extract_append_high, extract_whole, Nat.reduceSub, BitVec.reduceExtractLsb']
  show decodeCompAt (fld _ 24 7).toNat _ = _; rw [e]; show decodeComp51 _ = _
  simp (disch := decide) only [decodeComp51, fld, extract_append_low, extract_append_high, extract_whole, Nat.reduceSub, BitVec.reduceExtractLsb', BitVec.reduceEq, and_self, and_true, true_and, false_and, and_false, reduceCtorEq, if_true, if_false]
theorem tzeroAll (s : BitVec 1) (t : BitVec 3) : Statement (.tzeroAll s t) := by
  intro _ _; refine ⟨_, rfl, ?_⟩
  have e : fld (s ++ 0x51#7 ++ t ++ 0x100000#21) 24 7 = 0x51#7 := by simp (disch := decide) only [fld, extract_append_low, extract_append_high, extract_whole, Nat.reduceSub, BitVec.reduceExtractLsb']
  show decodeCompAt (fld _ 24 7).toNat _ = _; rw [e]; show decodeComp51 _ = _
  simp (disch := decide) only [decodeComp51, fld, extract_append_low, extract_append_high, extract_whole, Nat.reduceSub, BitVec.reduceExtractLsb', BitVec.reduceEq, and_self, and_true, true_and, false_and, and_false, reduceCtorEq, if_true, if_false]
theorem mma (s : BitVec 1) (t : BitVec 3) (a : BitVec 6) (b : BitVec 6) (r : BitVec 4) (k : BitVec 5) : Statement (.mma s t a b r k) := by
  intro _ _; refine ⟨_, rfl, ?_⟩
  have e : fld (s ++ 0x52#7 ++ t ++ a ++ b ++ r ++ k) 24 7 = 0x52#7 := by simp (disch := decide) only [fld, extract_append_low, extract_append_high, extract_whole, Nat.reduceSub, BitVec.reduceExtractLsb']
  show decodeCompAt (fld _ 24 7).toNat _ = _; rw [e]; show decodeComp52 _ = _
  simp (disch := decide) only [decodeComp52, fld, extract_append_low, extract_append_high, extract_whole, Nat.reduceSub, BitVec.reduceExtractLsb', BitVec.reduceEq, and_self, and_true, true_and, false_and, and_false, reduceCtorEq, if_true, if_false]
theorem mmak (s : BitVec 1) (t : BitVec 3) (a : BitVec 6) (b : BitVec 6) (r : BitVec 4) (k : BitVec 5) : Statement (.mmak s t a b r k) := by
  intro _ _; refine ⟨_, rfl, ?_⟩
  have e : fld (s ++ 0x53#7 ++ t ++ a ++ b ++ r ++ k) 24 7 = 0x53#7 := by simp (disch := decide) only [fld, extract_append_low, extract_append_high, extract_whole, Nat.reduceSub, BitVec.reduceExtractLsb']
  show decodeCompAt (fld _ 24 7).toNat _ = _; rw [e]; show decodeComp53 _ = _
  simp (disch := decide) only [decodeComp53, fld, extract_append_low, extract_append_high, extract_whole, Nat.reduceSub, BitVec.reduceExtractLsb', BitVec.reduceEq, and_self, and_true, true_and, false_and, and_false, reduceCtorEq, if_true, if_false]
theorem mmat (s : BitVec 1) (t : BitVec 3) (a : BitVec 6) (b : BitVec 6) (r : BitVec 4) (k : BitVec 5) : Statement (.mmat s t a b r k) := by
  intro _ _; refine ⟨_, rfl, ?_⟩
  have e : fld (s ++ 0x54#7 ++ t ++ a ++ b ++ r ++ k) 24 7 = 0x54#7 := by simp (disch := decide) only [fld, extract_append_low, extract_append_high, extract_whole, Nat.reduceSub, BitVec.reduceExtractLsb']
  show decodeCompAt (fld _ 24 7).toNat _ = _; rw [e]; show decodeComp54 _ = _
  simp (disch := decide) only [decodeComp54, fld, extract_append_low, extract_append_high, extract_whole, Nat.reduceSub, BitVec.reduceExtractLsb', BitVec.reduceEq, and_self, and_true, true_and, false_and, and_false, reduceCtorEq, if_true, if_false]
theorem mmas (s : BitVec 1) (t : BitVec 3) (a : BitVec 6) (b : BitVec 6) (r : BitVec 4) (k : BitVec 5) : Statement (.mmas s t a b r k) := by
  intro _ _; refine ⟨_, rfl, ?_⟩
  have e : fld (s ++ 0x55#7 ++ t ++ a ++ b ++ r ++ k) 24 7 = 0x55#7 := by simp (disch := decide) only [fld, extract_append_low, extract_append_high, extract_whole, Nat.reduceSub, BitVec.reduceExtractLsb']
  show decodeCompAt (fld _ 24 7).toNat _ = _; rw [e]; show decodeComp55 _ = _
  simp (disch := decide) only [decodeComp55, fld, extract_append_low, extract_append_high, extract_whole, Nat.reduceSub, BitVec.reduceExtractLsb', BitVec.reduceEq, and_self, and_true, true_and, false_and, and_false, reduceCtorEq, if_true, if_false]
theorem trdRow (s : BitVec 1) (t : BitVec 3) (r : BitVec 4) (i : BitVec 8) (v : BitVec 6) : Statement (.trdRow s t r i v) := by
  intro _ _; refine ⟨_, rfl, ?_⟩
  have e : fld (s ++ 0x56#7 ++ t ++ 0x0#1 ++ r ++ i ++ 0x0#2 ++ v) 24 7 = 0x56#7 := by simp (disch := decide) only [fld, extract_append_low, extract_append_high, extract_whole, Nat.reduceSub, BitVec.reduceExtractLsb']
  show decodeCompAt (fld _ 24 7).toNat _ = _; rw [e]; show decodeComp56 _ = _
  simp (disch := decide) only [decodeComp56, fld, extract_append_low, extract_append_high, extract_whole, Nat.reduceSub, BitVec.reduceExtractLsb', BitVec.reduceEq, and_self, and_true, true_and, false_and, and_false, reduceCtorEq, if_true, if_false]
theorem trdCol (s : BitVec 1) (t : BitVec 3) (r : BitVec 4) (i : BitVec 8) (v : BitVec 6) : Statement (.trdCol s t r i v) := by
  intro _ _; refine ⟨_, rfl, ?_⟩
  have e : fld (s ++ 0x56#7 ++ t ++ 0x1#1 ++ r ++ i ++ 0x0#2 ++ v) 24 7 = 0x56#7 := by simp (disch := decide) only [fld, extract_append_low, extract_append_high, extract_whole, Nat.reduceSub, BitVec.reduceExtractLsb']
  show decodeCompAt (fld _ 24 7).toNat _ = _; rw [e]; show decodeComp56 _ = _
  simp (disch := decide) only [decodeComp56, fld, extract_append_low, extract_append_high, extract_whole, Nat.reduceSub, BitVec.reduceExtractLsb', BitVec.reduceEq, and_self, and_true, true_and, false_and, and_false, reduceCtorEq, if_true, if_false]
theorem twrRow (s : BitVec 1) (t : BitVec 3) (r : BitVec 4) (i : BitVec 8) (v : BitVec 6) : Statement (.twrRow s t r i v) := by
  intro _ _; refine ⟨_, rfl, ?_⟩
  have e : fld (s ++ 0x57#7 ++ t ++ 0x0#1 ++ r ++ i ++ 0x0#2 ++ v) 24 7 = 0x57#7 := by simp (disch := decide) only [fld, extract_append_low, extract_append_high, extract_whole, Nat.reduceSub, BitVec.reduceExtractLsb']
  show decodeCompAt (fld _ 24 7).toNat _ = _; rw [e]; show decodeComp57 _ = _
  simp (disch := decide) only [decodeComp57, fld, extract_append_low, extract_append_high, extract_whole, Nat.reduceSub, BitVec.reduceExtractLsb', BitVec.reduceEq, and_self, and_true, true_and, false_and, and_false, reduceCtorEq, if_true, if_false]
theorem twrCol (s : BitVec 1) (t : BitVec 3) (r : BitVec 4) (i : BitVec 8) (v : BitVec 6) : Statement (.twrCol s t r i v) := by
  intro _ _; refine ⟨_, rfl, ?_⟩
  have e : fld (s ++ 0x57#7 ++ t ++ 0x1#1 ++ r ++ i ++ 0x0#2 ++ v) 24 7 = 0x57#7 := by simp (disch := decide) only [fld, extract_append_low, extract_append_high, extract_whole, Nat.reduceSub, BitVec.reduceExtractLsb']
  show decodeCompAt (fld _ 24 7).toNat _ = _; rw [e]; show decodeComp57 _ = _
  simp (disch := decide) only [decodeComp57, fld, extract_append_low, extract_append_high, extract_whole, Nat.reduceSub, BitVec.reduceExtractLsb', BitVec.reduceEq, and_self, and_true, true_and, false_and, and_false, reduceCtorEq, if_true, if_false]
theorem tmove (s : BitVec 1) (t : BitVec 3) (r : BitVec 4) (u : BitVec 3) : Statement (.tmove s t r u) := by
  intro _ _; refine ⟨_, rfl, ?_⟩
  have e : fld (s ++ 0x58#7 ++ t ++ 0x0#1 ++ r ++ 0x0#5 ++ u ++ 0x0#8) 24 7 = 0x58#7 := by simp (disch := decide) only [fld, extract_append_low, extract_append_high, extract_whole, Nat.reduceSub, BitVec.reduceExtractLsb']
  show decodeCompAt (fld _ 24 7).toNat _ = _; rw [e]; show decodeComp58 _ = _
  simp (disch := decide) only [decodeComp58, fld, extract_append_low, extract_append_high, extract_whole, Nat.reduceSub, BitVec.reduceExtractLsb', BitVec.reduceEq, and_self, and_true, true_and, false_and, and_false, reduceCtorEq, if_true, if_false]
theorem tmoveAdd (s : BitVec 1) (t : BitVec 3) (r : BitVec 4) (u : BitVec 3) : Statement (.tmoveAdd s t r u) := by
  intro _ _; refine ⟨_, rfl, ?_⟩
  have e : fld (s ++ 0x58#7 ++ t ++ 0x1#1 ++ r ++ 0x0#5 ++ u ++ 0x0#8) 24 7 = 0x58#7 := by simp (disch := decide) only [fld, extract_append_low, extract_append_high, extract_whole, Nat.reduceSub, BitVec.reduceExtractLsb']
  show decodeCompAt (fld _ 24 7).toNat _ = _; rw [e]; show decodeComp58 _ = _
  simp (disch := decide) only [decodeComp58, fld, extract_append_low, extract_append_high, extract_whole, Nat.reduceSub, BitVec.reduceExtractLsb', BitVec.reduceEq, and_self, and_true, true_and, false_and, and_false, reduceCtorEq, if_true, if_false]
theorem tfree (s : BitVec 1) (t : BitVec 3) : Statement (.tfree s t) := by
  intro _ _; refine ⟨_, rfl, ?_⟩
  have e : fld (s ++ 0x59#7 ++ t ++ 0x0#21) 24 7 = 0x59#7 := by simp (disch := decide) only [fld, extract_append_low, extract_append_high, extract_whole, Nat.reduceSub, BitVec.reduceExtractLsb']
  show decodeCompAt (fld _ 24 7).toNat _ = _; rw [e]; show decodeComp59 _ = _
  simp (disch := decide) only [decodeComp59, fld, extract_append_low, extract_append_high, extract_whole, Nat.reduceSub, BitVec.reduceExtractLsb', BitVec.reduceEq, and_self, and_true, true_and, false_and, and_false, reduceCtorEq, if_true, if_false]
theorem twait (s : BitVec 1) (t : BitVec 3) : Statement (.twait s t) := by
  intro _ _; refine ⟨_, rfl, ?_⟩
  have e : fld (s ++ 0x5a#7 ++ t ++ 0x0#21) 24 7 = 0x5a#7 := by simp (disch := decide) only [fld, extract_append_low, extract_append_high, extract_whole, Nat.reduceSub, BitVec.reduceExtractLsb']
  show decodeCompAt (fld _ 24 7).toNat _ = _; rw [e]; show decodeComp5A _ = _
  simp (disch := decide) only [decodeComp5A, fld, extract_append_low, extract_append_high, extract_whole, Nat.reduceSub, BitVec.reduceExtractLsb', BitVec.reduceEq, and_self, and_true, true_and, false_and, and_false, reduceCtorEq, if_true, if_false]
theorem twaitAll (s : BitVec 1) : Statement (.twaitAll s) := by
  intro _ _; refine ⟨_, rfl, ?_⟩
  have e : fld (s ++ 0x5a100000#31) 24 7 = 0x5a#7 := by simp (disch := decide) only [fld, extract_append_low, extract_append_high, extract_whole, Nat.reduceSub, BitVec.reduceExtractLsb']
  show decodeCompAt (fld _ 24 7).toNat _ = _; rw [e]; show decodeComp5A _ = _
  simp (disch := decide) only [decodeComp5A, fld, extract_append_low, extract_append_high, extract_whole, Nat.reduceSub, BitVec.reduceExtractLsb', BitVec.reduceEq, and_self, and_true, true_and, false_and, and_false, reduceCtorEq, if_true, if_false]
theorem anop (s : BitVec 1) : Statement (.anop s) := by
  intro _ _; refine ⟨_, rfl, ?_⟩
  have e : fld (s ++ 0x0#31) 24 7 = 0x0#7 := by simp (disch := decide) only [fld, extract_append_low, extract_append_high, extract_whole, Nat.reduceSub, BitVec.reduceExtractLsb']
  show decodeAccAt (fld _ 24 7).toNat _ = _; rw [e]; show decodeAcc00 _ = _
  simp (disch := decide) only [decodeAcc00, fld, extract_append_low, extract_append_high, extract_whole, Nat.reduceSub, BitVec.reduceExtractLsb', BitVec.reduceEq, and_self, and_true, true_and, false_and, and_false, reduceCtorEq, if_true, if_false]
theorem abr (s : BitVec 1) (o : BitVec 24) : Statement (.abr s o) := by
  intro _ _; refine ⟨_, rfl, ?_⟩
  have e : fld (s ++ 0x1#7 ++ o) 24 7 = 0x1#7 := by simp (disch := decide) only [fld, extract_append_low, extract_append_high, extract_whole, Nat.reduceSub, BitVec.reduceExtractLsb']
  show decodeAccAt (fld _ 24 7).toNat _ = _; rw [e]; show decodeAcc01 _ = _
  simp (disch := decide) only [decodeAcc01, fld, extract_append_low, extract_append_high, extract_whole, Nat.reduceSub, BitVec.reduceExtractLsb', BitVec.reduceEq, and_self, and_true, true_and, false_and, and_false, reduceCtorEq, if_true, if_false]
theorem abeq (s : BitVec 1) (a : BitVec 5) (b : BitVec 5) (o : BitVec 11) : Statement (.abeq s a b o) := by
  intro _ _; refine ⟨_, rfl, ?_⟩
  have e : fld (s ++ 0x2#7 ++ a ++ b ++ 0x0#3 ++ o) 24 7 = 0x2#7 := by simp (disch := decide) only [fld, extract_append_low, extract_append_high, extract_whole, Nat.reduceSub, BitVec.reduceExtractLsb']
  show decodeAccAt (fld _ 24 7).toNat _ = _; rw [e]; show decodeAcc02 _ = _
  simp (disch := decide) only [decodeAcc02, fld, extract_append_low, extract_append_high, extract_whole, Nat.reduceSub, BitVec.reduceExtractLsb', BitVec.reduceEq, and_self, and_true, true_and, false_and, and_false, reduceCtorEq, if_true, if_false]
theorem abne (s : BitVec 1) (a : BitVec 5) (b : BitVec 5) (o : BitVec 11) : Statement (.abne s a b o) := by
  intro _ _; refine ⟨_, rfl, ?_⟩
  have e : fld (s ++ 0x2#7 ++ a ++ b ++ 0x1#3 ++ o) 24 7 = 0x2#7 := by simp (disch := decide) only [fld, extract_append_low, extract_append_high, extract_whole, Nat.reduceSub, BitVec.reduceExtractLsb']
  show decodeAccAt (fld _ 24 7).toNat _ = _; rw [e]; show decodeAcc02 _ = _
  simp (disch := decide) only [decodeAcc02, fld, extract_append_low, extract_append_high, extract_whole, Nat.reduceSub, BitVec.reduceExtractLsb', BitVec.reduceEq, and_self, and_true, true_and, false_and, and_false, reduceCtorEq, if_true, if_false]
theorem ablt (s : BitVec 1) (a : BitVec 5) (b : BitVec 5) (o : BitVec 11) : Statement (.ablt s a b o) := by
  intro _ _; refine ⟨_, rfl, ?_⟩
  have e : fld (s ++ 0x2#7 ++ a ++ b ++ 0x2#3 ++ o) 24 7 = 0x2#7 := by simp (disch := decide) only [fld, extract_append_low, extract_append_high, extract_whole, Nat.reduceSub, BitVec.reduceExtractLsb']
  show decodeAccAt (fld _ 24 7).toNat _ = _; rw [e]; show decodeAcc02 _ = _
  simp (disch := decide) only [decodeAcc02, fld, extract_append_low, extract_append_high, extract_whole, Nat.reduceSub, BitVec.reduceExtractLsb', BitVec.reduceEq, and_self, and_true, true_and, false_and, and_false, reduceCtorEq, if_true, if_false]
theorem abge (s : BitVec 1) (a : BitVec 5) (b : BitVec 5) (o : BitVec 11) : Statement (.abge s a b o) := by
  intro _ _; refine ⟨_, rfl, ?_⟩
  have e : fld (s ++ 0x2#7 ++ a ++ b ++ 0x3#3 ++ o) 24 7 = 0x2#7 := by simp (disch := decide) only [fld, extract_append_low, extract_append_high, extract_whole, Nat.reduceSub, BitVec.reduceExtractLsb']
  show decodeAccAt (fld _ 24 7).toNat _ = _; rw [e]; show decodeAcc02 _ = _
  simp (disch := decide) only [decodeAcc02, fld, extract_append_low, extract_append_high, extract_whole, Nat.reduceSub, BitVec.reduceExtractLsb', BitVec.reduceEq, and_self, and_true, true_and, false_and, and_false, reduceCtorEq, if_true, if_false]
theorem abltn (s : BitVec 1) (a : BitVec 5) (b : BitVec 5) (o : BitVec 11) : Statement (.abltn s a b o) := by
  intro _ _; refine ⟨_, rfl, ?_⟩
  have e : fld (s ++ 0x2#7 ++ a ++ b ++ 0x4#3 ++ o) 24 7 = 0x2#7 := by simp (disch := decide) only [fld, extract_append_low, extract_append_high, extract_whole, Nat.reduceSub, BitVec.reduceExtractLsb']
  show decodeAccAt (fld _ 24 7).toNat _ = _; rw [e]; show decodeAcc02 _ = _
  simp (disch := decide) only [decodeAcc02, fld, extract_append_low, extract_append_high, extract_whole, Nat.reduceSub, BitVec.reduceExtractLsb', BitVec.reduceEq, and_self, and_true, true_and, false_and, and_false, reduceCtorEq, if_true, if_false]
theorem abgen (s : BitVec 1) (a : BitVec 5) (b : BitVec 5) (o : BitVec 11) : Statement (.abgen s a b o) := by
  intro _ _; refine ⟨_, rfl, ?_⟩
  have e : fld (s ++ 0x2#7 ++ a ++ b ++ 0x5#3 ++ o) 24 7 = 0x2#7 := by simp (disch := decide) only [fld, extract_append_low, extract_append_high, extract_whole, Nat.reduceSub, BitVec.reduceExtractLsb']
  show decodeAccAt (fld _ 24 7).toNat _ = _; rw [e]; show decodeAcc02 _ = _
  simp (disch := decide) only [decodeAcc02, fld, extract_append_low, extract_append_high, extract_whole, Nat.reduceSub, BitVec.reduceExtractLsb', BitVec.reduceEq, and_self, and_true, true_and, false_and, and_false, reduceCtorEq, if_true, if_false]
theorem aloop (s : BitVec 1) (a : BitVec 5) (o : BitVec 19) : Statement (.aloop s a o) := by
  intro _ _; refine ⟨_, rfl, ?_⟩
  have e : fld (s ++ 0x3#7 ++ a ++ o) 24 7 = 0x3#7 := by simp (disch := decide) only [fld, extract_append_low, extract_append_high, extract_whole, Nat.reduceSub, BitVec.reduceExtractLsb']
  show decodeAccAt (fld _ 24 7).toNat _ = _; rw [e]; show decodeAcc03 _ = _
  simp (disch := decide) only [decodeAcc03, fld, extract_append_low, extract_append_high, extract_whole, Nat.reduceSub, BitVec.reduceExtractLsb', BitVec.reduceEq, and_self, and_true, true_and, false_and, and_false, reduceCtorEq, if_true, if_false]
theorem ajmpi (s : BitVec 1) (a : BitVec 5) : Statement (.ajmpi s a) := by
  intro _ _; refine ⟨_, rfl, ?_⟩
  have e : fld (s ++ 0x80#12 ++ a ++ 0x0#14) 24 7 = 0x4#7 := by simp (disch := decide) only [fld, extract_append_low, extract_append_high, extract_whole, Nat.reduceSub, BitVec.reduceExtractLsb']
  show decodeAccAt (fld _ 24 7).toNat _ = _; rw [e]; show decodeAcc04 _ = _
  simp (disch := decide) only [decodeAcc04, fld, extract_append_low, extract_append_high, extract_whole, Nat.reduceSub, BitVec.reduceExtractLsb', BitVec.reduceEq, and_self, and_true, true_and, false_and, and_false, reduceCtorEq, if_true, if_false]
theorem aend (s : BitVec 1) : Statement (.aend s) := by
  intro _ _; refine ⟨_, rfl, ?_⟩
  have e : fld (s ++ 0x5000000#31) 24 7 = 0x5#7 := by simp (disch := decide) only [fld, extract_append_low, extract_append_high, extract_whole, Nat.reduceSub, BitVec.reduceExtractLsb']
  show decodeAccAt (fld _ 24 7).toNat _ = _; rw [e]; show decodeAcc05 _ = _
  simp (disch := decide) only [decodeAcc05, fld, extract_append_low, extract_append_high, extract_whole, Nat.reduceSub, BitVec.reduceExtractLsb', BitVec.reduceEq, and_self, and_true, true_and, false_and, and_false, reduceCtorEq, if_true, if_false]
theorem aadd (s : BitVec 1) (d : BitVec 5) (a : BitVec 5) (b : BitVec 5) : Statement (.aadd s d a b) := by
  intro _ _; refine ⟨_, rfl, ?_⟩
  have e : fld (s ++ 0x6#7 ++ d ++ a ++ b ++ 0x0#9) 24 7 = 0x6#7 := by simp (disch := decide) only [fld, extract_append_low, extract_append_high, extract_whole, Nat.reduceSub, BitVec.reduceExtractLsb']
  show decodeAccAt (fld _ 24 7).toNat _ = _; rw [e]; show decodeAcc06 _ = _
  simp (disch := decide) only [decodeAcc06, fld, extract_append_low, extract_append_high, extract_whole, Nat.reduceSub, BitVec.reduceExtractLsb', BitVec.reduceEq, and_self, and_true, true_and, false_and, and_false, reduceCtorEq, if_true, if_false]
theorem asub (s : BitVec 1) (d : BitVec 5) (a : BitVec 5) (b : BitVec 5) : Statement (.asub s d a b) := by
  intro _ _; refine ⟨_, rfl, ?_⟩
  have e : fld (s ++ 0x6#7 ++ d ++ a ++ b ++ 0x1#9) 24 7 = 0x6#7 := by simp (disch := decide) only [fld, extract_append_low, extract_append_high, extract_whole, Nat.reduceSub, BitVec.reduceExtractLsb']
  show decodeAccAt (fld _ 24 7).toNat _ = _; rw [e]; show decodeAcc06 _ = _
  simp (disch := decide) only [decodeAcc06, fld, extract_append_low, extract_append_high, extract_whole, Nat.reduceSub, BitVec.reduceExtractLsb', BitVec.reduceEq, and_self, and_true, true_and, false_and, and_false, reduceCtorEq, if_true, if_false]
theorem amul (s : BitVec 1) (d : BitVec 5) (a : BitVec 5) (b : BitVec 5) : Statement (.amul s d a b) := by
  intro _ _; refine ⟨_, rfl, ?_⟩
  have e : fld (s ++ 0x6#7 ++ d ++ a ++ b ++ 0x2#9) 24 7 = 0x6#7 := by simp (disch := decide) only [fld, extract_append_low, extract_append_high, extract_whole, Nat.reduceSub, BitVec.reduceExtractLsb']
  show decodeAccAt (fld _ 24 7).toNat _ = _; rw [e]; show decodeAcc06 _ = _
  simp (disch := decide) only [decodeAcc06, fld, extract_append_low, extract_append_high, extract_whole, Nat.reduceSub, BitVec.reduceExtractLsb', BitVec.reduceEq, and_self, and_true, true_and, false_and, and_false, reduceCtorEq, if_true, if_false]
theorem amulh (s : BitVec 1) (d : BitVec 5) (a : BitVec 5) (b : BitVec 5) : Statement (.amulh s d a b) := by
  intro _ _; refine ⟨_, rfl, ?_⟩
  have e : fld (s ++ 0x6#7 ++ d ++ a ++ b ++ 0x3#9) 24 7 = 0x6#7 := by simp (disch := decide) only [fld, extract_append_low, extract_append_high, extract_whole, Nat.reduceSub, BitVec.reduceExtractLsb']
  show decodeAccAt (fld _ 24 7).toNat _ = _; rw [e]; show decodeAcc06 _ = _
  simp (disch := decide) only [decodeAcc06, fld, extract_append_low, extract_append_high, extract_whole, Nat.reduceSub, BitVec.reduceExtractLsb', BitVec.reduceEq, and_self, and_true, true_and, false_and, and_false, reduceCtorEq, if_true, if_false]
theorem aand (s : BitVec 1) (d : BitVec 5) (a : BitVec 5) (b : BitVec 5) : Statement (.aand s d a b) := by
  intro _ _; refine ⟨_, rfl, ?_⟩
  have e : fld (s ++ 0x6#7 ++ d ++ a ++ b ++ 0x4#9) 24 7 = 0x6#7 := by simp (disch := decide) only [fld, extract_append_low, extract_append_high, extract_whole, Nat.reduceSub, BitVec.reduceExtractLsb']
  show decodeAccAt (fld _ 24 7).toNat _ = _; rw [e]; show decodeAcc06 _ = _
  simp (disch := decide) only [decodeAcc06, fld, extract_append_low, extract_append_high, extract_whole, Nat.reduceSub, BitVec.reduceExtractLsb', BitVec.reduceEq, and_self, and_true, true_and, false_and, and_false, reduceCtorEq, if_true, if_false]
theorem aor (s : BitVec 1) (d : BitVec 5) (a : BitVec 5) (b : BitVec 5) : Statement (.aor s d a b) := by
  intro _ _; refine ⟨_, rfl, ?_⟩
  have e : fld (s ++ 0x6#7 ++ d ++ a ++ b ++ 0x5#9) 24 7 = 0x6#7 := by simp (disch := decide) only [fld, extract_append_low, extract_append_high, extract_whole, Nat.reduceSub, BitVec.reduceExtractLsb']
  show decodeAccAt (fld _ 24 7).toNat _ = _; rw [e]; show decodeAcc06 _ = _
  simp (disch := decide) only [decodeAcc06, fld, extract_append_low, extract_append_high, extract_whole, Nat.reduceSub, BitVec.reduceExtractLsb', BitVec.reduceEq, and_self, and_true, true_and, false_and, and_false, reduceCtorEq, if_true, if_false]
theorem axor (s : BitVec 1) (d : BitVec 5) (a : BitVec 5) (b : BitVec 5) : Statement (.axor s d a b) := by
  intro _ _; refine ⟨_, rfl, ?_⟩
  have e : fld (s ++ 0x6#7 ++ d ++ a ++ b ++ 0x6#9) 24 7 = 0x6#7 := by simp (disch := decide) only [fld, extract_append_low, extract_append_high, extract_whole, Nat.reduceSub, BitVec.reduceExtractLsb']
  show decodeAccAt (fld _ 24 7).toNat _ = _; rw [e]; show decodeAcc06 _ = _
  simp (disch := decide) only [decodeAcc06, fld, extract_append_low, extract_append_high, extract_whole, Nat.reduceSub, BitVec.reduceExtractLsb', BitVec.reduceEq, and_self, and_true, true_and, false_and, and_false, reduceCtorEq, if_true, if_false]
theorem ashl (s : BitVec 1) (d : BitVec 5) (a : BitVec 5) (b : BitVec 5) : Statement (.ashl s d a b) := by
  intro _ _; refine ⟨_, rfl, ?_⟩
  have e : fld (s ++ 0x6#7 ++ d ++ a ++ b ++ 0x7#9) 24 7 = 0x6#7 := by simp (disch := decide) only [fld, extract_append_low, extract_append_high, extract_whole, Nat.reduceSub, BitVec.reduceExtractLsb']
  show decodeAccAt (fld _ 24 7).toNat _ = _; rw [e]; show decodeAcc06 _ = _
  simp (disch := decide) only [decodeAcc06, fld, extract_append_low, extract_append_high, extract_whole, Nat.reduceSub, BitVec.reduceExtractLsb', BitVec.reduceEq, and_self, and_true, true_and, false_and, and_false, reduceCtorEq, if_true, if_false]
theorem ashr (s : BitVec 1) (d : BitVec 5) (a : BitVec 5) (b : BitVec 5) : Statement (.ashr s d a b) := by
  intro _ _; refine ⟨_, rfl, ?_⟩
  have e : fld (s ++ 0x6#7 ++ d ++ a ++ b ++ 0x8#9) 24 7 = 0x6#7 := by simp (disch := decide) only [fld, extract_append_low, extract_append_high, extract_whole, Nat.reduceSub, BitVec.reduceExtractLsb']
  show decodeAccAt (fld _ 24 7).toNat _ = _; rw [e]; show decodeAcc06 _ = _
  simp (disch := decide) only [decodeAcc06, fld, extract_append_low, extract_append_high, extract_whole, Nat.reduceSub, BitVec.reduceExtractLsb', BitVec.reduceEq, and_self, and_true, true_and, false_and, and_false, reduceCtorEq, if_true, if_false]
theorem asra (s : BitVec 1) (d : BitVec 5) (a : BitVec 5) (b : BitVec 5) : Statement (.asra s d a b) := by
  intro _ _; refine ⟨_, rfl, ?_⟩
  have e : fld (s ++ 0x6#7 ++ d ++ a ++ b ++ 0x9#9) 24 7 = 0x6#7 := by simp (disch := decide) only [fld, extract_append_low, extract_append_high, extract_whole, Nat.reduceSub, BitVec.reduceExtractLsb']
  show decodeAccAt (fld _ 24 7).toNat _ = _; rw [e]; show decodeAcc06 _ = _
  simp (disch := decide) only [decodeAcc06, fld, extract_append_low, extract_append_high, extract_whole, Nat.reduceSub, BitVec.reduceExtractLsb', BitVec.reduceEq, and_self, and_true, true_and, false_and, and_false, reduceCtorEq, if_true, if_false]
theorem amin (s : BitVec 1) (d : BitVec 5) (a : BitVec 5) (b : BitVec 5) : Statement (.amin s d a b) := by
  intro _ _; refine ⟨_, rfl, ?_⟩
  have e : fld (s ++ 0x6#7 ++ d ++ a ++ b ++ 0xa#9) 24 7 = 0x6#7 := by simp (disch := decide) only [fld, extract_append_low, extract_append_high, extract_whole, Nat.reduceSub, BitVec.reduceExtractLsb']
  show decodeAccAt (fld _ 24 7).toNat _ = _; rw [e]; show decodeAcc06 _ = _
  simp (disch := decide) only [decodeAcc06, fld, extract_append_low, extract_append_high, extract_whole, Nat.reduceSub, BitVec.reduceExtractLsb', BitVec.reduceEq, and_self, and_true, true_and, false_and, and_false, reduceCtorEq, if_true, if_false]
theorem amax (s : BitVec 1) (d : BitVec 5) (a : BitVec 5) (b : BitVec 5) : Statement (.amax s d a b) := by
  intro _ _; refine ⟨_, rfl, ?_⟩
  have e : fld (s ++ 0x6#7 ++ d ++ a ++ b ++ 0xb#9) 24 7 = 0x6#7 := by simp (disch := decide) only [fld, extract_append_low, extract_append_high, extract_whole, Nat.reduceSub, BitVec.reduceExtractLsb']
  show decodeAccAt (fld _ 24 7).toNat _ = _; rw [e]; show decodeAcc06 _ = _
  simp (disch := decide) only [decodeAcc06, fld, extract_append_low, extract_append_high, extract_whole, Nat.reduceSub, BitVec.reduceExtractLsb', BitVec.reduceEq, and_self, and_true, true_and, false_and, and_false, reduceCtorEq, if_true, if_false]
theorem aminn (s : BitVec 1) (d : BitVec 5) (a : BitVec 5) (b : BitVec 5) : Statement (.aminn s d a b) := by
  intro _ _; refine ⟨_, rfl, ?_⟩
  have e : fld (s ++ 0x6#7 ++ d ++ a ++ b ++ 0xc#9) 24 7 = 0x6#7 := by simp (disch := decide) only [fld, extract_append_low, extract_append_high, extract_whole, Nat.reduceSub, BitVec.reduceExtractLsb']
  show decodeAccAt (fld _ 24 7).toNat _ = _; rw [e]; show decodeAcc06 _ = _
  simp (disch := decide) only [decodeAcc06, fld, extract_append_low, extract_append_high, extract_whole, Nat.reduceSub, BitVec.reduceExtractLsb', BitVec.reduceEq, and_self, and_true, true_and, false_and, and_false, reduceCtorEq, if_true, if_false]
theorem amaxn (s : BitVec 1) (d : BitVec 5) (a : BitVec 5) (b : BitVec 5) : Statement (.amaxn s d a b) := by
  intro _ _; refine ⟨_, rfl, ?_⟩
  have e : fld (s ++ 0x6#7 ++ d ++ a ++ b ++ 0xd#9) 24 7 = 0x6#7 := by simp (disch := decide) only [fld, extract_append_low, extract_append_high, extract_whole, Nat.reduceSub, BitVec.reduceExtractLsb']
  show decodeAccAt (fld _ 24 7).toNat _ = _; rw [e]; show decodeAcc06 _ = _
  simp (disch := decide) only [decodeAcc06, fld, extract_append_low, extract_append_high, extract_whole, Nat.reduceSub, BitVec.reduceExtractLsb', BitVec.reduceEq, and_self, and_true, true_and, false_and, and_false, reduceCtorEq, if_true, if_false]
theorem aaddi (s : BitVec 1) (d : BitVec 5) (a : BitVec 5) (i : BitVec 14) : Statement (.aaddi s d a i) := by
  intro _ _; refine ⟨_, rfl, ?_⟩
  have e : fld (s ++ 0x7#7 ++ d ++ a ++ i) 24 7 = 0x7#7 := by simp (disch := decide) only [fld, extract_append_low, extract_append_high, extract_whole, Nat.reduceSub, BitVec.reduceExtractLsb']
  show decodeAccAt (fld _ 24 7).toNat _ = _; rw [e]; show decodeAcc07 _ = _
  simp (disch := decide) only [decodeAcc07, fld, extract_append_low, extract_append_high, extract_whole, Nat.reduceSub, BitVec.reduceExtractLsb', BitVec.reduceEq, and_self, and_true, true_and, false_and, and_false, reduceCtorEq, if_true, if_false]
theorem ali (s : BitVec 1) (d : BitVec 5) (i : BitVec 16) : Statement (.ali s d i) := by
  intro _ _; refine ⟨_, rfl, ?_⟩
  have e : fld (s ++ 0x8#7 ++ d ++ 0x0#3 ++ i) 24 7 = 0x8#7 := by simp (disch := decide) only [fld, extract_append_low, extract_append_high, extract_whole, Nat.reduceSub, BitVec.reduceExtractLsb']
  show decodeAccAt (fld _ 24 7).toNat _ = _; rw [e]; show decodeAcc08 _ = _
  simp (disch := decide) only [decodeAcc08, fld, extract_append_low, extract_append_high, extract_whole, Nat.reduceSub, BitVec.reduceExtractLsb', BitVec.reduceEq, and_self, and_true, true_and, false_and, and_false, reduceCtorEq, if_true, if_false]
theorem alim (s : BitVec 1) (d : BitVec 5) (i : BitVec 16) : Statement (.alim s d i) := by
  intro _ _; refine ⟨_, rfl, ?_⟩
  have e : fld (s ++ 0x8#7 ++ d ++ 0x1#3 ++ i) 24 7 = 0x8#7 := by simp (disch := decide) only [fld, extract_append_low, extract_append_high, extract_whole, Nat.reduceSub, BitVec.reduceExtractLsb']
  show decodeAccAt (fld _ 24 7).toNat _ = _; rw [e]; show decodeAcc08 _ = _
  simp (disch := decide) only [decodeAcc08, fld, extract_append_low, extract_append_high, extract_whole, Nat.reduceSub, BitVec.reduceExtractLsb', BitVec.reduceEq, and_self, and_true, true_and, false_and, and_false, reduceCtorEq, if_true, if_false]
theorem alit (s : BitVec 1) (d : BitVec 5) (i : BitVec 16) : Statement (.alit s d i) := by
  intro _ _; refine ⟨_, rfl, ?_⟩
  have e : fld (s ++ 0x8#7 ++ d ++ 0x2#3 ++ i) 24 7 = 0x8#7 := by simp (disch := decide) only [fld, extract_append_low, extract_append_high, extract_whole, Nat.reduceSub, BitVec.reduceExtractLsb']
  show decodeAccAt (fld _ 24 7).toNat _ = _; rw [e]; show decodeAcc08 _ = _
  simp (disch := decide) only [decodeAcc08, fld, extract_append_low, extract_append_high, extract_whole, Nat.reduceSub, BitVec.reduceExtractLsb', BitVec.reduceEq, and_self, and_true, true_and, false_and, and_false, reduceCtorEq, if_true, if_false]
theorem aliq (s : BitVec 1) (d : BitVec 5) (i : BitVec 16) : Statement (.aliq s d i) := by
  intro _ _; refine ⟨_, rfl, ?_⟩
  have e : fld (s ++ 0x8#7 ++ d ++ 0x3#3 ++ i) 24 7 = 0x8#7 := by simp (disch := decide) only [fld, extract_append_low, extract_append_high, extract_whole, Nat.reduceSub, BitVec.reduceExtractLsb']
  show decodeAccAt (fld _ 24 7).toNat _ = _; rw [e]; show decodeAcc08 _ = _
  simp (disch := decide) only [decodeAcc08, fld, extract_append_low, extract_append_high, extract_whole, Nat.reduceSub, BitVec.reduceExtractLsb', BitVec.reduceEq, and_self, and_true, true_and, false_and, and_false, reduceCtorEq, if_true, if_false]
theorem apop (s : BitVec 1) (d : BitVec 5) (t : BitVec 5) : Statement (.apop s d t) := by
  intro _ _; refine ⟨_, rfl, ?_⟩
  have e : fld (s ++ 0x9#7 ++ d ++ 0x0#14 ++ t) 24 7 = 0x9#7 := by simp (disch := decide) only [fld, extract_append_low, extract_append_high, extract_whole, Nat.reduceSub, BitVec.reduceExtractLsb']
  show decodeAccAt (fld _ 24 7).toNat _ = _; rw [e]; show decodeAcc09 _ = _
  simp (disch := decide) only [decodeAcc09, fld, extract_append_low, extract_append_high, extract_whole, Nat.reduceSub, BitVec.reduceExtractLsb', BitVec.reduceEq, and_self, and_true, true_and, false_and, and_false, reduceCtorEq, if_true, if_false]
theorem apopK (s : BitVec 1) (d : BitVec 5) (t : BitVec 5) : Statement (.apopK s d t) := by
  intro _ _; refine ⟨_, rfl, ?_⟩
  have e : fld (s ++ 0x9#7 ++ d ++ 0x1#14 ++ t) 24 7 = 0x9#7 := by simp (disch := decide) only [fld, extract_append_low, extract_append_high, extract_whole, Nat.reduceSub, BitVec.reduceExtractLsb']
  show decodeAccAt (fld _ 24 7).toNat _ = _; rw [e]; show decodeAcc09 _ = _
  simp (disch := decide) only [decodeAcc09, fld, extract_append_low, extract_append_high, extract_whole, Nat.reduceSub, BitVec.reduceExtractLsb', BitVec.reduceEq, and_self, and_true, true_and, false_and, and_false, reduceCtorEq, if_true, if_false]
theorem apush (s : BitVec 1) (d : BitVec 5) (a : BitVec 5) : Statement (.apush s d a) := by
  intro _ _; refine ⟨_, rfl, ?_⟩
  have e : fld (s ++ 0xa#7 ++ d ++ a ++ 0x0#14) 24 7 = 0xa#7 := by simp (disch := decide) only [fld, extract_append_low, extract_append_high, extract_whole, Nat.reduceSub, BitVec.reduceExtractLsb']
  show decodeAccAt (fld _ 24 7).toNat _ = _; rw [e]; show decodeAcc0A _ = _
  simp (disch := decide) only [decodeAcc0A, fld, extract_append_low, extract_append_high, extract_whole, Nat.reduceSub, BitVec.reduceExtractLsb', BitVec.reduceEq, and_self, and_true, true_and, false_and, and_false, reduceCtorEq, if_true, if_false]
theorem rtick (s : BitVec 1) : Statement (.rtick s) := by
  intro _ _; refine ⟨_, rfl, ?_⟩
  have e : fld (s ++ 0xb000000#31) 24 7 = 0xb#7 := by simp (disch := decide) only [fld, extract_append_low, extract_append_high, extract_whole, Nat.reduceSub, BitVec.reduceExtractLsb']
  show decodeAccAt (fld _ 24 7).toNat _ = _; rw [e]; show decodeAcc0B _ = _
  simp (disch := decide) only [decodeAcc0B, fld, extract_append_low, extract_append_high, extract_whole, Nat.reduceSub, BitVec.reduceExtractLsb', BitVec.reduceEq, and_self, and_true, true_and, false_and, and_false, reduceCtorEq, if_true, if_false]
theorem setd (s : BitVec 1) (d : BitVec 5) (a : BitVec 5) (i : BitVec 14) : Statement (.setd s d a i) := by
  intro _ _; refine ⟨_, rfl, ?_⟩
  have e : fld (s ++ 0xc#7 ++ d ++ a ++ i) 24 7 = 0xc#7 := by simp (disch := decide) only [fld, extract_append_low, extract_append_high, extract_whole, Nat.reduceSub, BitVec.reduceExtractLsb']
  show decodeAccAt (fld _ 24 7).toNat _ = _; rw [e]; show decodeAcc0C _ = _
  simp (disch := decide) only [decodeAcc0C, fld, extract_append_low, extract_append_high, extract_whole, Nat.reduceSub, BitVec.reduceExtractLsb', BitVec.reduceEq, and_self, and_true, true_and, false_and, and_false, reduceCtorEq, if_true, if_false]
theorem agets (s : BitVec 1) (d : BitVec 5) (i : BitVec 14) : Statement (.agets s d i) := by
  intro _ _; refine ⟨_, rfl, ?_⟩
  have e : fld (s ++ 0xd#7 ++ d ++ 0x0#5 ++ i) 24 7 = 0xd#7 := by simp (disch := decide) only [fld, extract_append_low, extract_append_high, extract_whole, Nat.reduceSub, BitVec.reduceExtractLsb']
  show decodeAccAt (fld _ 24 7).toNat _ = _; rw [e]; show decodeAcc0D _ = _
  simp (disch := decide) only [decodeAcc0D, fld, extract_append_low, extract_append_high, extract_whole, Nat.reduceSub, BitVec.reduceExtractLsb', BitVec.reduceEq, and_self, and_true, true_and, false_and, and_false, reduceCtorEq, if_true, if_false]
theorem vdefGlob (s : BitVec 1) (d : BitVec 5) (a : BitVec 5) : Statement (.vdefGlob s d a) := by
  intro _ _; refine ⟨_, rfl, ?_⟩
  have e : fld (s ++ 0x10#7 ++ d ++ a ++ 0x0#14) 24 7 = 0x10#7 := by simp (disch := decide) only [fld, extract_append_low, extract_append_high, extract_whole, Nat.reduceSub, BitVec.reduceExtractLsb']
  show decodeAccAt (fld _ 24 7).toNat _ = _; rw [e]; show decodeAcc10 _ = _
  simp (disch := decide) only [decodeAcc10, fld, extract_append_low, extract_append_high, extract_whole, Nat.reduceSub, BitVec.reduceExtractLsb', BitVec.reduceEq, and_self, and_true, true_and, false_and, and_false, reduceCtorEq, if_true, if_false]
theorem vdefCore (s : BitVec 1) (d : BitVec 5) (a : BitVec 5) : Statement (.vdefCore s d a) := by
  intro _ _; refine ⟨_, rfl, ?_⟩
  have e : fld (s ++ 0x10#7 ++ d ++ a ++ 0x1#14) 24 7 = 0x10#7 := by simp (disch := decide) only [fld, extract_append_low, extract_append_high, extract_whole, Nat.reduceSub, BitVec.reduceExtractLsb']
  show decodeAccAt (fld _ 24 7).toNat _ = _; rw [e]; show decodeAcc10 _ = _
  simp (disch := decide) only [decodeAcc10, fld, extract_append_low, extract_append_high, extract_whole, Nat.reduceSub, BitVec.reduceExtractLsb', BitVec.reduceEq, and_self, and_true, true_and, false_and, and_false, reduceCtorEq, if_true, if_false]
theorem vset (s : BitVec 1) (d : BitVec 5) (a : BitVec 5) (f : BitVec 9) : Statement (.vset s d a f) := by
  intro _ _; refine ⟨_, rfl, ?_⟩
  have e : fld (s ++ 0x11#7 ++ d ++ a ++ 0x0#5 ++ f) 24 7 = 0x11#7 := by simp (disch := decide) only [fld, extract_append_low, extract_append_high, extract_whole, Nat.reduceSub, BitVec.reduceExtractLsb']
  show decodeAccAt (fld _ 24 7).toNat _ = _; rw [e]; show decodeAcc11 _ = _
  simp (disch := decide) only [decodeAcc11, fld, extract_append_low, extract_append_high, extract_whole, Nat.reduceSub, BitVec.reduceExtractLsb', BitVec.reduceEq, and_self, and_true, true_and, false_and, and_false, reduceCtorEq, if_true, if_false]
theorem vget (s : BitVec 1) (d : BitVec 5) (b : BitVec 5) (f : BitVec 9) : Statement (.vget s d b f) := by
  intro _ _; refine ⟨_, rfl, ?_⟩
  have e : fld (s ++ 0x12#7 ++ d ++ 0x0#5 ++ b ++ f) 24 7 = 0x12#7 := by simp (disch := decide) only [fld, extract_append_low, extract_append_high, extract_whole, Nat.reduceSub, BitVec.reduceExtractLsb']
  show decodeAccAt (fld _ 24 7).toNat _ = _; rw [e]; show decodeAcc12 _ = _
  simp (disch := decide) only [decodeAcc12, fld, extract_append_low, extract_append_high, extract_whole, Nat.reduceSub, BitVec.reduceExtractLsb', BitVec.reduceEq, and_self, and_true, true_and, false_and, and_false, reduceCtorEq, if_true, if_false]
theorem ldt (s : BitVec 1) (q : BitVec 3) (v : BitVec 5) (a : BitVec 5) (d : BitVec 3) (g : BitVec 3) (e : BitVec 1) (c : BitVec 2) : Statement (.ldt s q v a d g e c) := by
  intro _ _; refine ⟨_, rfl, ?_⟩
  have e : fld (s ++ 0x18#7 ++ q ++ v ++ a ++ d ++ g ++ e ++ c ++ 0x0#2) 24 7 = 0x18#7 := by simp (disch := decide) only [fld, extract_append_low, extract_append_high, extract_whole, Nat.reduceSub, BitVec.reduceExtractLsb']
  show decodeAccAt (fld _ 24 7).toNat _ = _; rw [e]; show decodeAcc18 _ = _
  simp (disch := decide) only [decodeAcc18, fld, extract_append_low, extract_append_high, extract_whole, Nat.reduceSub, BitVec.reduceExtractLsb', BitVec.reduceEq, and_self, and_true, true_and, false_and, and_false, reduceCtorEq, if_true, if_false]
theorem ldg (s : BitVec 1) (q : BitVec 3) (v : BitVec 5) (a : BitVec 5) (d : BitVec 3) (g : BitVec 3) (e : BitVec 1) (c : BitVec 2) : Statement (.ldg s q v a d g e c) := by
  intro _ _; refine ⟨_, rfl, ?_⟩
  have e : fld (s ++ 0x19#7 ++ q ++ v ++ a ++ d ++ g ++ e ++ c ++ 0x0#2) 24 7 = 0x19#7 := by simp (disch := decide) only [fld, extract_append_low, extract_append_high, extract_whole, Nat.reduceSub, BitVec.reduceExtractLsb']
  show decodeAccAt (fld _ 24 7).toNat _ = _; rw [e]; show decodeAcc19 _ = _
  simp (disch := decide) only [decodeAcc19, fld, extract_append_low, extract_append_high, extract_whole, Nat.reduceSub, BitVec.reduceExtractLsb', BitVec.reduceEq, and_self, and_true, true_and, false_and, and_false, reduceCtorEq, if_true, if_false]
theorem lda (s : BitVec 1) (x : BitVec 1) (v : BitVec 5) (a : BitVec 5) (d : BitVec 3) (g : BitVec 3) (e : BitVec 1) (c : BitVec 2) : Statement (.lda s x v a d g e c) := by
  intro _ _; refine ⟨_, rfl, ?_⟩
  have e : fld (s ++ 0x68#9 ++ x ++ v ++ a ++ d ++ g ++ e ++ c ++ 0x0#2) 24 7 = 0x1a#7 := by simp (disch := decide) only [fld, extract_append_low, extract_append_high, extract_whole, Nat.reduceSub, BitVec.reduceExtractLsb']
  show decodeAccAt (fld _ 24 7).toNat _ = _; rw [e]; show decodeAcc1A _ = _
  simp (disch := decide) only [decodeAcc1A, fld, extract_append_low, extract_append_high, extract_whole, Nat.reduceSub, BitVec.reduceExtractLsb', BitVec.reduceEq, and_self, and_true, true_and, false_and, and_false, reduceCtorEq, if_true, if_false]
theorem ldp (s : BitVec 1) (q : BitVec 3) (v : BitVec 5) (a : BitVec 5) (d : BitVec 3) (g : BitVec 3) (e : BitVec 1) (c : BitVec 2) : Statement (.ldp s q v a d g e c) := by
  intro _ _; refine ⟨_, rfl, ?_⟩
  have e : fld (s ++ 0x1b#7 ++ q ++ v ++ a ++ d ++ g ++ e ++ c ++ 0x0#2) 24 7 = 0x1b#7 := by simp (disch := decide) only [fld, extract_append_low, extract_append_high, extract_whole, Nat.reduceSub, BitVec.reduceExtractLsb']
  show decodeAccAt (fld _ 24 7).toNat _ = _; rw [e]; show decodeAcc1B _ = _
  simp (disch := decide) only [decodeAcc1B, fld, extract_append_low, extract_append_high, extract_whole, Nat.reduceSub, BitVec.reduceExtractLsb', BitVec.reduceEq, and_self, and_true, true_and, false_and, and_false, reduceCtorEq, if_true, if_false]
theorem stt (s : BitVec 1) (v : BitVec 5) (a : BitVec 5) (d : BitVec 3) (g : BitVec 3) (e : BitVec 1) (c : BitVec 2) : Statement (.stt s v a d g e c) := by
  intro _ _; refine ⟨_, rfl, ?_⟩
  have e : fld (s ++ 0xe0#10 ++ v ++ a ++ d ++ g ++ e ++ c ++ 0x0#2) 24 7 = 0x1c#7 := by simp (disch := decide) only [fld, extract_append_low, extract_append_high, extract_whole, Nat.reduceSub, BitVec.reduceExtractLsb']
  show decodeAccAt (fld _ 24 7).toNat _ = _; rw [e]; show decodeAcc1C _ = _
  simp (disch := decide) only [decodeAcc1C, fld, extract_append_low, extract_append_high, extract_whole, Nat.reduceSub, BitVec.reduceExtractLsb', BitVec.reduceEq, and_self, and_true, true_and, false_and, and_false, reduceCtorEq, if_true, if_false]
theorem stg (s : BitVec 1) (v : BitVec 5) (a : BitVec 5) (d : BitVec 3) (g : BitVec 3) (e : BitVec 1) (c : BitVec 2) : Statement (.stg s v a d g e c) := by
  intro _ _; refine ⟨_, rfl, ?_⟩
  have e : fld (s ++ 0xe8#10 ++ v ++ a ++ d ++ g ++ e ++ c ++ 0x0#2) 24 7 = 0x1d#7 := by simp (disch := decide) only [fld, extract_append_low, extract_append_high, extract_whole, Nat.reduceSub, BitVec.reduceExtractLsb']
  show decodeAccAt (fld _ 24 7).toNat _ = _; rw [e]; show decodeAcc1D _ = _
  simp (disch := decide) only [decodeAcc1D, fld, extract_append_low, extract_append_high, extract_whole, Nat.reduceSub, BitVec.reduceExtractLsb', BitVec.reduceEq, and_self, and_true, true_and, false_and, and_false, reduceCtorEq, if_true, if_false]
theorem sta (s : BitVec 1) (v : BitVec 5) (a : BitVec 5) (d : BitVec 3) (g : BitVec 3) (e : BitVec 1) (c : BitVec 2) : Statement (.sta s v a d g e c) := by
  intro _ _; refine ⟨_, rfl, ?_⟩
  have e : fld (s ++ 0xf0#10 ++ v ++ a ++ d ++ g ++ e ++ c ++ 0x0#2) 24 7 = 0x1e#7 := by simp (disch := decide) only [fld, extract_append_low, extract_append_high, extract_whole, Nat.reduceSub, BitVec.reduceExtractLsb']
  show decodeAccAt (fld _ 24 7).toNat _ = _; rw [e]; show decodeAcc1E _ = _
  simp (disch := decide) only [decodeAcc1E, fld, extract_append_low, extract_append_high, extract_whole, Nat.reduceSub, BitVec.reduceExtractLsb', BitVec.reduceEq, and_self, and_true, true_and, false_and, and_false, reduceCtorEq, if_true, if_false]
theorem pref (s : BitVec 1) (v : BitVec 5) (a : BitVec 5) (d : BitVec 3) (g : BitVec 3) (e : BitVec 1) (c : BitVec 2) : Statement (.pref s v a d g e c) := by
  intro _ _; refine ⟨_, rfl, ?_⟩
  have e : fld (s ++ 0xf8#10 ++ v ++ a ++ d ++ g ++ e ++ c ++ 0x0#2) 24 7 = 0x1f#7 := by simp (disch := decide) only [fld, extract_append_low, extract_append_high, extract_whole, Nat.reduceSub, BitVec.reduceExtractLsb']
  show decodeAccAt (fld _ 24 7).toNat _ = _; rw [e]; show decodeAcc1F _ = _
  simp (disch := decide) only [decodeAcc1F, fld, extract_append_low, extract_append_high, extract_whole, Nat.reduceSub, BitVec.reduceExtractLsb', BitVec.reduceEq, and_self, and_true, true_and, false_and, and_false, reduceCtorEq, if_true, if_false]
theorem atom (s : BitVec 1) (q : BitVec 3) (v : BitVec 5) (a : BitVec 5) (o : BitVec 3) (c : BitVec 3) (p : BitVec 5) : Statement (.atom s q v a o c p) := by
  intro _ _; refine ⟨_, rfl, ?_⟩
  have e : fld (s ++ 0x20#7 ++ q ++ v ++ a ++ o ++ c ++ p) 24 7 = 0x20#7 := by simp (disch := decide) only [fld, extract_append_low, extract_append_high, extract_whole, Nat.reduceSub, BitVec.reduceExtractLsb']
  show decodeAccAt (fld _ 24 7).toNat _ = _; rw [e]; show decodeAcc20 _ = _
  simp (disch := decide) only [decodeAcc20, fld, extract_append_low, extract_append_high, extract_whole, Nat.reduceSub, BitVec.reduceExtractLsb', BitVec.reduceEq, and_self, and_true, true_and, false_and, and_false, reduceCtorEq, if_true, if_false]
theorem atoma (s : BitVec 1) (d : BitVec 5) (a : BitVec 5) (b : BitVec 5) (p : BitVec 4) (o : BitVec 2) (c : BitVec 3) : Statement (.atoma s d a b p o c) := by
  intro _ _; refine ⟨_, rfl, ?_⟩
  have e : fld (s ++ 0x21#7 ++ d ++ a ++ b ++ p ++ o ++ c) 24 7 = 0x21#7 := by simp (disch := decide) only [fld, extract_append_low, extract_append_high, extract_whole, Nat.reduceSub, BitVec.reduceExtractLsb']
  show decodeAccAt (fld _ 24 7).toNat _ = _; rw [e]; show decodeAcc21 _ = _
  simp (disch := decide) only [decodeAcc21, fld, extract_append_low, extract_append_high, extract_whole, Nat.reduceSub, BitVec.reduceExtractLsb', BitVec.reduceEq, and_self, and_true, true_and, false_and, and_false, reduceCtorEq, if_true, if_false]
theorem fence (s : BitVec 1) (c : BitVec 3) (k : BitVec 3) : Statement (.fence s c k) := by
  intro _ _; refine ⟨_, rfl, ?_⟩
  have e : fld (s ++ 0x22#7 ++ c ++ k ++ 0x0#18) 24 7 = 0x22#7 := by simp (disch := decide) only [fld, extract_append_low, extract_append_high, extract_whole, Nat.reduceSub, BitVec.reduceExtractLsb']
  show decodeAccAt (fld _ 24 7).toNat _ = _; rw [e]; show decodeAcc22 _ = _
  simp (disch := decide) only [decodeAcc22, fld, extract_append_low, extract_append_high, extract_whole, Nat.reduceSub, BitVec.reduceExtractLsb', BitVec.reduceEq, and_self, and_true, true_and, false_and, and_false, reduceCtorEq, if_true, if_false]
theorem xfence (s : BitVec 1) (f : BitVec 7) (t : BitVec 7) (c : BitVec 3) : Statement (.xfence s f t c) := by
  intro _ _; refine ⟨_, rfl, ?_⟩
  have e : fld (s ++ 0x46#8 ++ f ++ 0x0#1 ++ t ++ c ++ 0x0#5) 24 7 = 0x23#7 := by simp (disch := decide) only [fld, extract_append_low, extract_append_high, extract_whole, Nat.reduceSub, BitVec.reduceExtractLsb']
  show decodeAccAt (fld _ 24 7).toNat _ = _; rw [e]; show decodeAcc23 _ = _
  simp (disch := decide) only [decodeAcc23, fld, extract_append_low, extract_append_high, extract_whole, Nat.reduceSub, BitVec.reduceExtractLsb', BitVec.reduceEq, and_self, and_true, true_and, false_and, and_false, reduceCtorEq, if_true, if_false]
theorem cpy (s : BitVec 1) (d : BitVec 5) (c : BitVec 5) (g : BitVec 3) (e : BitVec 1) : Statement (.cpy s d c g e) := by
  intro _ _; refine ⟨_, rfl, ?_⟩
  have e : fld (s ++ 0x28#7 ++ d ++ c ++ g ++ e ++ 0x0#10) 24 7 = 0x28#7 := by simp (disch := decide) only [fld, extract_append_low, extract_append_high, extract_whole, Nat.reduceSub, BitVec.reduceExtractLsb']
  show decodeAccAt (fld _ 24 7).toNat _ = _; rw [e]; show decodeAcc28 _ = _
  simp (disch := decide) only [decodeAcc28, fld, extract_append_low, extract_append_high, extract_whole, Nat.reduceSub, BitVec.reduceExtractLsb', BitVec.reduceEq, and_self, and_true, true_and, false_and, and_false, reduceCtorEq, if_true, if_false]
theorem hand (s : BitVec 1) (d : BitVec 5) (c : BitVec 5) (g : BitVec 3) (e : BitVec 1) : Statement (.hand s d c g e) := by
  intro _ _; refine ⟨_, rfl, ?_⟩
  have e : fld (s ++ 0x29#7 ++ d ++ c ++ g ++ e ++ 0x0#10) 24 7 = 0x29#7 := by simp (disch := decide) only [fld, extract_append_low, extract_append_high, extract_whole, Nat.reduceSub, BitVec.reduceExtractLsb']
  show decodeAccAt (fld _ 24 7).toNat _ = _; rw [e]; show decodeAcc29 _ = _
  simp (disch := decide) only [decodeAcc29, fld, extract_append_low, extract_append_high, extract_whole, Nat.reduceSub, BitVec.reduceExtractLsb', BitVec.reduceEq, and_self, and_true, true_and, false_and, and_false, reduceCtorEq, if_true, if_false]
theorem xfer (s : BitVec 1) (d : BitVec 5) (c : BitVec 5) (g : BitVec 3) (e : BitVec 1) (h : BitVec 2) (p : BitVec 8) : Statement (.xfer s d c g e h p) := by
  intro _ _; refine ⟨_, rfl, ?_⟩
  have e : fld (s ++ 0x2a#7 ++ d ++ c ++ g ++ e ++ h ++ p) 24 7 = 0x2a#7 := by simp (disch := decide) only [fld, extract_append_low, extract_append_high, extract_whole, Nat.reduceSub, BitVec.reduceExtractLsb']
  show decodeAccAt (fld _ 24 7).toNat _ = _; rw [e]; show decodeAcc2A _ = _
  simp (disch := decide) only [decodeAcc2A, fld, extract_append_low, extract_append_high, extract_whole, Nat.reduceSub, BitVec.reduceExtractLsb', BitVec.reduceEq, and_self, and_true, true_and, false_and, and_false, reduceCtorEq, if_true, if_false]
theorem xmc (s : BitVec 1) (d : BitVec 5) (c : BitVec 5) (g : BitVec 3) (e : BitVec 1) (h : BitVec 2) (p : BitVec 8) : Statement (.xmc s d c g e h p) := by
  intro _ _; refine ⟨_, rfl, ?_⟩
  have e : fld (s ++ 0x2b#7 ++ d ++ c ++ g ++ e ++ h ++ p) 24 7 = 0x2b#7 := by simp (disch := decide) only [fld, extract_append_low, extract_append_high, extract_whole, Nat.reduceSub, BitVec.reduceExtractLsb']
  show decodeAccAt (fld _ 24 7).toNat _ = _; rw [e]; show decodeAcc2B _ = _
  simp (disch := decide) only [decodeAcc2B, fld, extract_append_low, extract_append_high, extract_whole, Nat.reduceSub, BitVec.reduceExtractLsb', BitVec.reduceEq, and_self, and_true, true_and, false_and, and_false, reduceCtorEq, if_true, if_false]
theorem ctrset (s : BitVec 1) (a : BitVec 5) (b : BitVec 5) : Statement (.ctrset s a b) := by
  intro _ _; refine ⟨_, rfl, ?_⟩
  have e : fld (s ++ 0x580#12 ++ a ++ b ++ 0x0#9) 24 7 = 0x2c#7 := by simp (disch := decide) only [fld, extract_append_low, extract_append_high, extract_whole, Nat.reduceSub, BitVec.reduceExtractLsb']
  show decodeAccAt (fld _ 24 7).toNat _ = _; rw [e]; show decodeAcc2C _ = _
  simp (disch := decide) only [decodeAcc2C, fld, extract_append_low, extract_append_high, extract_whole, Nat.reduceSub, BitVec.reduceExtractLsb', BitVec.reduceEq, and_self, and_true, true_and, false_and, and_false, reduceCtorEq, if_true, if_false]
theorem ctrsetT (s : BitVec 1) (a : BitVec 5) (b : BitVec 5) : Statement (.ctrsetT s a b) := by
  intro _ _; refine ⟨_, rfl, ?_⟩
  have e : fld (s ++ 0x580#12 ++ a ++ b ++ 0x1#9) 24 7 = 0x2c#7 := by simp (disch := decide) only [fld, extract_append_low, extract_append_high, extract_whole, Nat.reduceSub, BitVec.reduceExtractLsb']
  show decodeAccAt (fld _ 24 7).toNat _ = _; rw [e]; show decodeAcc2C _ = _
  simp (disch := decide) only [decodeAcc2C, fld, extract_append_low, extract_append_high, extract_whole, Nat.reduceSub, BitVec.reduceExtractLsb', BitVec.reduceEq, and_self, and_true, true_and, false_and, and_false, reduceCtorEq, if_true, if_false]
theorem ctradd (s : BitVec 1) (a : BitVec 5) (b : BitVec 5) : Statement (.ctradd s a b) := by
  intro _ _; refine ⟨_, rfl, ?_⟩
  have e : fld (s ++ 0x5a0#12 ++ a ++ b ++ 0x0#9) 24 7 = 0x2d#7 := by simp (disch := decide) only [fld, extract_append_low, extract_append_high, extract_whole, Nat.reduceSub, BitVec.reduceExtractLsb']
  show decodeAccAt (fld _ 24 7).toNat _ = _; rw [e]; show decodeAcc2D _ = _
  simp (disch := decide) only [decodeAcc2D, fld, extract_append_low, extract_append_high, extract_whole, Nat.reduceSub, BitVec.reduceExtractLsb', BitVec.reduceEq, and_self, and_true, true_and, false_and, and_false, reduceCtorEq, if_true, if_false]
theorem ctrget (s : BitVec 1) (d : BitVec 5) (a : BitVec 5) : Statement (.ctrget s d a) := by
  intro _ _; refine ⟨_, rfl, ?_⟩
  have e : fld (s ++ 0x2e#7 ++ d ++ a ++ 0x0#14) 24 7 = 0x2e#7 := by simp (disch := decide) only [fld, extract_append_low, extract_append_high, extract_whole, Nat.reduceSub, BitVec.reduceExtractLsb']
  show decodeAccAt (fld _ 24 7).toNat _ = _; rw [e]; show decodeAcc2E _ = _
  simp (disch := decide) only [decodeAcc2E, fld, extract_append_low, extract_append_high, extract_whole, Nat.reduceSub, BitVec.reduceExtractLsb', BitVec.reduceEq, and_self, and_true, true_and, false_and, and_false, reduceCtorEq, if_true, if_false]
theorem ctrgetT (s : BitVec 1) (d : BitVec 5) (a : BitVec 5) : Statement (.ctrgetT s d a) := by
  intro _ _; refine ⟨_, rfl, ?_⟩
  have e : fld (s ++ 0x2e#7 ++ d ++ a ++ 0x1#14) 24 7 = 0x2e#7 := by simp (disch := decide) only [fld, extract_append_low, extract_append_high, extract_whole, Nat.reduceSub, BitVec.reduceExtractLsb']
  show decodeAccAt (fld _ 24 7).toNat _ = _; rw [e]; show decodeAcc2E _ = _
  simp (disch := decide) only [decodeAcc2E, fld, extract_append_low, extract_append_high, extract_whole, Nat.reduceSub, BitVec.reduceExtractLsb', BitVec.reduceEq, and_self, and_true, true_and, false_and, and_false, reduceCtorEq, if_true, if_false]
theorem awaitc (s : BitVec 1) (a : BitVec 5) (b : BitVec 5) : Statement (.awaitc s a b) := by
  intro _ _; refine ⟨_, rfl, ?_⟩
  have e : fld (s ++ 0x5e0#12 ++ a ++ b ++ 0x0#9) 24 7 = 0x2f#7 := by simp (disch := decide) only [fld, extract_append_low, extract_append_high, extract_whole, Nat.reduceSub, BitVec.reduceExtractLsb']
  show decodeAccAt (fld _ 24 7).toNat _ = _; rw [e]; show decodeAcc2F _ = _
  simp (disch := decide) only [decodeAcc2F, fld, extract_append_low, extract_append_high, extract_whole, Nat.reduceSub, BitVec.reduceExtractLsb', BitVec.reduceEq, and_self, and_true, true_and, false_and, and_false, reduceCtorEq, if_true, if_false]
theorem awaitcT (s : BitVec 1) (a : BitVec 5) : Statement (.awaitcT s a) := by
  intro _ _; refine ⟨_, rfl, ?_⟩
  have e : fld (s ++ 0x5e0#12 ++ a ++ 0x1#14) 24 7 = 0x2f#7 := by simp (disch := decide) only [fld, extract_append_low, extract_append_high, extract_whole, Nat.reduceSub, BitVec.reduceExtractLsb']
  show decodeAccAt (fld _ 24 7).toNat _ = _; rw [e]; show decodeAcc2F _ = _
  simp (disch := decide) only [decodeAcc2F, fld, extract_append_low, extract_append_high, extract_whole, Nat.reduceSub, BitVec.reduceExtractLsb', BitVec.reduceEq, and_self, and_true, true_and, false_and, and_false, reduceCtorEq, if_true, if_false]
theorem wadd (v : BitVec 1) (d : BitVec 4) (a : BitVec 4) (b : BitVec 4) (x : BitVec 1) : Statement (.wadd v d a b x) := by
  intro _ _; refine ⟨_, rfl, ?_⟩
  have e : fld (0x1#8 ++ v ++ 0x0#1 ++ d ++ a ++ b ++ x ++ 0x0#9) 24 8 = 0x1#8 := by simp (disch := decide) only [fld, extract_append_low, extract_append_high, extract_whole, Nat.reduceSub, BitVec.reduceExtractLsb']
  show decodeWeirAt (fld _ 24 8).toNat _ = _; rw [e]; show decodeWeir01 _ = _
  simp (disch := decide) only [decodeWeir01, fld, extract_append_low, extract_append_high, extract_whole, Nat.reduceSub, BitVec.reduceExtractLsb', BitVec.reduceEq, and_self, and_true, true_and, false_and, and_false, reduceCtorEq, if_true, if_false]
theorem waddI (v : BitVec 1) (d : BitVec 4) (a : BitVec 4) (i : BitVec 14) : Statement (.waddI v d a i) := by
  intro _ _; refine ⟨_, rfl, ?_⟩
  have e : fld (0x1#8 ++ v ++ 0x1#1 ++ d ++ a ++ i) 24 8 = 0x1#8 := by simp (disch := decide) only [fld, extract_append_low, extract_append_high, extract_whole, Nat.reduceSub, BitVec.reduceExtractLsb']
  show decodeWeirAt (fld _ 24 8).toNat _ = _; rw [e]; show decodeWeir01 _ = _
  simp (disch := decide) only [decodeWeir01, fld, extract_append_low, extract_append_high, extract_whole, Nat.reduceSub, BitVec.reduceExtractLsb', BitVec.reduceEq, and_self, and_true, true_and, false_and, and_false, reduceCtorEq, if_true, if_false]
theorem wsub (v : BitVec 1) (d : BitVec 4) (a : BitVec 4) (b : BitVec 4) (x : BitVec 1) : Statement (.wsub v d a b x) := by
  intro _ _; refine ⟨_, rfl, ?_⟩
  have e : fld (0x2#8 ++ v ++ 0x0#1 ++ d ++ a ++ b ++ x ++ 0x0#9) 24 8 = 0x2#8 := by simp (disch := decide) only [fld, extract_append_low, extract_append_high, extract_whole, Nat.reduceSub, BitVec.reduceExtractLsb']
  show decodeWeirAt (fld _ 24 8).toNat _ = _; rw [e]; show decodeWeir02 _ = _
  simp (disch := decide) only [decodeWeir02, fld, extract_append_low, extract_append_high, extract_whole, Nat.reduceSub, BitVec.reduceExtractLsb', BitVec.reduceEq, and_self, and_true, true_and, false_and, and_false, reduceCtorEq, if_true, if_false]
theorem wsubI (v : BitVec 1) (d : BitVec 4) (a : BitVec 4) (i : BitVec 14) : Statement (.wsubI v d a i) := by
  intro _ _; refine ⟨_, rfl, ?_⟩
  have e : fld (0x2#8 ++ v ++ 0x1#1 ++ d ++ a ++ i) 24 8 = 0x2#8 := by simp (disch := decide) only [fld, extract_append_low, extract_append_high, extract_whole, Nat.reduceSub, BitVec.reduceExtractLsb']
  show decodeWeirAt (fld _ 24 8).toNat _ = _; rw [e]; show decodeWeir02 _ = _
  simp (disch := decide) only [decodeWeir02, fld, extract_append_low, extract_append_high, extract_whole, Nat.reduceSub, BitVec.reduceExtractLsb', BitVec.reduceEq, and_self, and_true, true_and, false_and, and_false, reduceCtorEq, if_true, if_false]
theorem wmul (v : BitVec 1) (d : BitVec 4) (a : BitVec 4) (b : BitVec 4) (x : BitVec 1) : Statement (.wmul v d a b x) := by
  intro _ _; refine ⟨_, rfl, ?_⟩
  have e : fld (0x3#8 ++ v ++ 0x0#1 ++ d ++ a ++ b ++ x ++ 0x0#9) 24 8 = 0x3#8 := by simp (disch := decide) only [fld, extract_append_low, extract_append_high, extract_whole, Nat.reduceSub, BitVec.reduceExtractLsb']
  show decodeWeirAt (fld _ 24 8).toNat _ = _; rw [e]; show decodeWeir03 _ = _
  simp (disch := decide) only [decodeWeir03, fld, extract_append_low, extract_append_high, extract_whole, Nat.reduceSub, BitVec.reduceExtractLsb', BitVec.reduceEq, and_self, and_true, true_and, false_and, and_false, reduceCtorEq, if_true, if_false]
theorem wmulI (v : BitVec 1) (d : BitVec 4) (a : BitVec 4) (i : BitVec 14) : Statement (.wmulI v d a i) := by
  intro _ _; refine ⟨_, rfl, ?_⟩
  have e : fld (0x3#8 ++ v ++ 0x1#1 ++ d ++ a ++ i) 24 8 = 0x3#8 := by simp (disch := decide) only [fld, extract_append_low, extract_append_high, extract_whole, Nat.reduceSub, BitVec.reduceExtractLsb']
  show decodeWeirAt (fld _ 24 8).toNat _ = _; rw [e]; show decodeWeir03 _ = _
  simp (disch := decide) only [decodeWeir03, fld, extract_append_low, extract_append_high, extract_whole, Nat.reduceSub, BitVec.reduceExtractLsb', BitVec.reduceEq, and_self, and_true, true_and, false_and, and_false, reduceCtorEq, if_true, if_false]
theorem wand (v : BitVec 1) (d : BitVec 4) (a : BitVec 4) (b : BitVec 4) (x : BitVec 1) : Statement (.wand v d a b x) := by
  intro _ _; refine ⟨_, rfl, ?_⟩
  have e : fld (0x4#8 ++ v ++ 0x0#1 ++ d ++ a ++ b ++ x ++ 0x0#9) 24 8 = 0x4#8 := by simp (disch := decide) only [fld, extract_append_low, extract_append_high, extract_whole, Nat.reduceSub, BitVec.reduceExtractLsb']
  show decodeWeirAt (fld _ 24 8).toNat _ = _; rw [e]; show decodeWeir04 _ = _
  simp (disch := decide) only [decodeWeir04, fld, extract_append_low, extract_append_high, extract_whole, Nat.reduceSub, BitVec.reduceExtractLsb', BitVec.reduceEq, and_self, and_true, true_and, false_and, and_false, reduceCtorEq, if_true, if_false]
theorem wandI (v : BitVec 1) (d : BitVec 4) (a : BitVec 4) (i : BitVec 14) : Statement (.wandI v d a i) := by
  intro _ _; refine ⟨_, rfl, ?_⟩
  have e : fld (0x4#8 ++ v ++ 0x1#1 ++ d ++ a ++ i) 24 8 = 0x4#8 := by simp (disch := decide) only [fld, extract_append_low, extract_append_high, extract_whole, Nat.reduceSub, BitVec.reduceExtractLsb']
  show decodeWeirAt (fld _ 24 8).toNat _ = _; rw [e]; show decodeWeir04 _ = _
  simp (disch := decide) only [decodeWeir04, fld, extract_append_low, extract_append_high, extract_whole, Nat.reduceSub, BitVec.reduceExtractLsb', BitVec.reduceEq, and_self, and_true, true_and, false_and, and_false, reduceCtorEq, if_true, if_false]
theorem wor (v : BitVec 1) (d : BitVec 4) (a : BitVec 4) (b : BitVec 4) (x : BitVec 1) : Statement (.wor v d a b x) := by
  intro _ _; refine ⟨_, rfl, ?_⟩
  have e : fld (0x5#8 ++ v ++ 0x0#1 ++ d ++ a ++ b ++ x ++ 0x0#9) 24 8 = 0x5#8 := by simp (disch := decide) only [fld, extract_append_low, extract_append_high, extract_whole, Nat.reduceSub, BitVec.reduceExtractLsb']
  show decodeWeirAt (fld _ 24 8).toNat _ = _; rw [e]; show decodeWeir05 _ = _
  simp (disch := decide) only [decodeWeir05, fld, extract_append_low, extract_append_high, extract_whole, Nat.reduceSub, BitVec.reduceExtractLsb', BitVec.reduceEq, and_self, and_true, true_and, false_and, and_false, reduceCtorEq, if_true, if_false]
theorem worI (v : BitVec 1) (d : BitVec 4) (a : BitVec 4) (i : BitVec 14) : Statement (.worI v d a i) := by
  intro _ _; refine ⟨_, rfl, ?_⟩
  have e : fld (0x5#8 ++ v ++ 0x1#1 ++ d ++ a ++ i) 24 8 = 0x5#8 := by simp (disch := decide) only [fld, extract_append_low, extract_append_high, extract_whole, Nat.reduceSub, BitVec.reduceExtractLsb']
  show decodeWeirAt (fld _ 24 8).toNat _ = _; rw [e]; show decodeWeir05 _ = _
  simp (disch := decide) only [decodeWeir05, fld, extract_append_low, extract_append_high, extract_whole, Nat.reduceSub, BitVec.reduceExtractLsb', BitVec.reduceEq, and_self, and_true, true_and, false_and, and_false, reduceCtorEq, if_true, if_false]
theorem wxor (v : BitVec 1) (d : BitVec 4) (a : BitVec 4) (b : BitVec 4) (x : BitVec 1) : Statement (.wxor v d a b x) := by
  intro _ _; refine ⟨_, rfl, ?_⟩
  have e : fld (0x6#8 ++ v ++ 0x0#1 ++ d ++ a ++ b ++ x ++ 0x0#9) 24 8 = 0x6#8 := by simp (disch := decide) only [fld, extract_append_low, extract_append_high, extract_whole, Nat.reduceSub, BitVec.reduceExtractLsb']
  show decodeWeirAt (fld _ 24 8).toNat _ = _; rw [e]; show decodeWeir06 _ = _
  simp (disch := decide) only [decodeWeir06, fld, extract_append_low, extract_append_high, extract_whole, Nat.reduceSub, BitVec.reduceExtractLsb', BitVec.reduceEq, and_self, and_true, true_and, false_and, and_false, reduceCtorEq, if_true, if_false]
theorem wxorI (v : BitVec 1) (d : BitVec 4) (a : BitVec 4) (i : BitVec 14) : Statement (.wxorI v d a i) := by
  intro _ _; refine ⟨_, rfl, ?_⟩
  have e : fld (0x6#8 ++ v ++ 0x1#1 ++ d ++ a ++ i) 24 8 = 0x6#8 := by simp (disch := decide) only [fld, extract_append_low, extract_append_high, extract_whole, Nat.reduceSub, BitVec.reduceExtractLsb']
  show decodeWeirAt (fld _ 24 8).toNat _ = _; rw [e]; show decodeWeir06 _ = _
  simp (disch := decide) only [decodeWeir06, fld, extract_append_low, extract_append_high, extract_whole, Nat.reduceSub, BitVec.reduceExtractLsb', BitVec.reduceEq, and_self, and_true, true_and, false_and, and_false, reduceCtorEq, if_true, if_false]
theorem wshl (v : BitVec 1) (d : BitVec 4) (a : BitVec 4) (b : BitVec 4) (x : BitVec 1) : Statement (.wshl v d a b x) := by
  intro _ _; refine ⟨_, rfl, ?_⟩
  have e : fld (0x7#8 ++ v ++ 0x0#1 ++ d ++ a ++ b ++ x ++ 0x0#9) 24 8 = 0x7#8 := by simp (disch := decide) only [fld, extract_append_low, extract_append_high, extract_whole, Nat.reduceSub, BitVec.reduceExtractLsb']
  show decodeWeirAt (fld _ 24 8).toNat _ = _; rw [e]; show decodeWeir07 _ = _
  simp (disch := decide) only [decodeWeir07, fld, extract_append_low, extract_append_high, extract_whole, Nat.reduceSub, BitVec.reduceExtractLsb', BitVec.reduceEq, and_self, and_true, true_and, false_and, and_false, reduceCtorEq, if_true, if_false]
theorem wshlI (v : BitVec 1) (d : BitVec 4) (a : BitVec 4) (i : BitVec 14) : Statement (.wshlI v d a i) := by
  intro _ _; refine ⟨_, rfl, ?_⟩
  have e : fld (0x7#8 ++ v ++ 0x1#1 ++ d ++ a ++ i) 24 8 = 0x7#8 := by simp (disch := decide) only [fld, extract_append_low, extract_append_high, extract_whole, Nat.reduceSub, BitVec.reduceExtractLsb']
  show decodeWeirAt (fld _ 24 8).toNat _ = _; rw [e]; show decodeWeir07 _ = _
  simp (disch := decide) only [decodeWeir07, fld, extract_append_low, extract_append_high, extract_whole, Nat.reduceSub, BitVec.reduceExtractLsb', BitVec.reduceEq, and_self, and_true, true_and, false_and, and_false, reduceCtorEq, if_true, if_false]
theorem wshr (v : BitVec 1) (d : BitVec 4) (a : BitVec 4) (b : BitVec 4) (x : BitVec 1) : Statement (.wshr v d a b x) := by
  intro _ _; refine ⟨_, rfl, ?_⟩
  have e : fld (0x8#8 ++ v ++ 0x0#1 ++ d ++ a ++ b ++ x ++ 0x0#9) 24 8 = 0x8#8 := by simp (disch := decide) only [fld, extract_append_low, extract_append_high, extract_whole, Nat.reduceSub, BitVec.reduceExtractLsb']
  show decodeWeirAt (fld _ 24 8).toNat _ = _; rw [e]; show decodeWeir08 _ = _
  simp (disch := decide) only [decodeWeir08, fld, extract_append_low, extract_append_high, extract_whole, Nat.reduceSub, BitVec.reduceExtractLsb', BitVec.reduceEq, and_self, and_true, true_and, false_and, and_false, reduceCtorEq, if_true, if_false]
theorem wshrI (v : BitVec 1) (d : BitVec 4) (a : BitVec 4) (i : BitVec 14) : Statement (.wshrI v d a i) := by
  intro _ _; refine ⟨_, rfl, ?_⟩
  have e : fld (0x8#8 ++ v ++ 0x1#1 ++ d ++ a ++ i) 24 8 = 0x8#8 := by simp (disch := decide) only [fld, extract_append_low, extract_append_high, extract_whole, Nat.reduceSub, BitVec.reduceExtractLsb']
  show decodeWeirAt (fld _ 24 8).toNat _ = _; rw [e]; show decodeWeir08 _ = _
  simp (disch := decide) only [decodeWeir08, fld, extract_append_low, extract_append_high, extract_whole, Nat.reduceSub, BitVec.reduceExtractLsb', BitVec.reduceEq, and_self, and_true, true_and, false_and, and_false, reduceCtorEq, if_true, if_false]
theorem wmin (v : BitVec 1) (d : BitVec 4) (a : BitVec 4) (b : BitVec 4) (x : BitVec 1) : Statement (.wmin v d a b x) := by
  intro _ _; refine ⟨_, rfl, ?_⟩
  have e : fld (0x9#8 ++ v ++ 0x0#1 ++ d ++ a ++ b ++ x ++ 0x0#9) 24 8 = 0x9#8 := by simp (disch := decide) only [fld, extract_append_low, extract_append_high, extract_whole, Nat.reduceSub, BitVec.reduceExtractLsb']
  show decodeWeirAt (fld _ 24 8).toNat _ = _; rw [e]; show decodeWeir09 _ = _
  simp (disch := decide) only [decodeWeir09, fld, extract_append_low, extract_append_high, extract_whole, Nat.reduceSub, BitVec.reduceExtractLsb', BitVec.reduceEq, and_self, and_true, true_and, false_and, and_false, reduceCtorEq, if_true, if_false]
theorem wminI (v : BitVec 1) (d : BitVec 4) (a : BitVec 4) (i : BitVec 14) : Statement (.wminI v d a i) := by
  intro _ _; refine ⟨_, rfl, ?_⟩
  have e : fld (0x9#8 ++ v ++ 0x1#1 ++ d ++ a ++ i) 24 8 = 0x9#8 := by simp (disch := decide) only [fld, extract_append_low, extract_append_high, extract_whole, Nat.reduceSub, BitVec.reduceExtractLsb']
  show decodeWeirAt (fld _ 24 8).toNat _ = _; rw [e]; show decodeWeir09 _ = _
  simp (disch := decide) only [decodeWeir09, fld, extract_append_low, extract_append_high, extract_whole, Nat.reduceSub, BitVec.reduceExtractLsb', BitVec.reduceEq, and_self, and_true, true_and, false_and, and_false, reduceCtorEq, if_true, if_false]
theorem wmax (v : BitVec 1) (d : BitVec 4) (a : BitVec 4) (b : BitVec 4) (x : BitVec 1) : Statement (.wmax v d a b x) := by
  intro _ _; refine ⟨_, rfl, ?_⟩
  have e : fld (0xa#8 ++ v ++ 0x0#1 ++ d ++ a ++ b ++ x ++ 0x0#9) 24 8 = 0xa#8 := by simp (disch := decide) only [fld, extract_append_low, extract_append_high, extract_whole, Nat.reduceSub, BitVec.reduceExtractLsb']
  show decodeWeirAt (fld _ 24 8).toNat _ = _; rw [e]; show decodeWeir0A _ = _
  simp (disch := decide) only [decodeWeir0A, fld, extract_append_low, extract_append_high, extract_whole, Nat.reduceSub, BitVec.reduceExtractLsb', BitVec.reduceEq, and_self, and_true, true_and, false_and, and_false, reduceCtorEq, if_true, if_false]
theorem wmaxI (v : BitVec 1) (d : BitVec 4) (a : BitVec 4) (i : BitVec 14) : Statement (.wmaxI v d a i) := by
  intro _ _; refine ⟨_, rfl, ?_⟩
  have e : fld (0xa#8 ++ v ++ 0x1#1 ++ d ++ a ++ i) 24 8 = 0xa#8 := by simp (disch := decide) only [fld, extract_append_low, extract_append_high, extract_whole, Nat.reduceSub, BitVec.reduceExtractLsb']
  show decodeWeirAt (fld _ 24 8).toNat _ = _; rw [e]; show decodeWeir0A _ = _
  simp (disch := decide) only [decodeWeir0A, fld, extract_append_low, extract_append_high, extract_whole, Nat.reduceSub, BitVec.reduceExtractLsb', BitVec.reduceEq, and_self, and_true, true_and, false_and, and_false, reduceCtorEq, if_true, if_false]
theorem wcmp (v : BitVec 1) (c : BitVec 3) (d : BitVec 4) (a : BitVec 4) (b : BitVec 4) (x : BitVec 1) : Statement (.wcmp v c d a b x) := by
  intro _ _; refine ⟨_, rfl, ?_⟩
  have e : fld (0xb#8 ++ v ++ c ++ d ++ a ++ b ++ x ++ 0x0#7) 24 8 = 0xb#8 := by simp (disch := decide) only [fld, extract_append_low, extract_append_high, extract_whole, Nat.reduceSub, BitVec.reduceExtractLsb']
  show decodeWeirAt (fld _ 24 8).toNat _ = _; rw [e]; show decodeWeir0B _ = _
  simp (disch := decide) only [decodeWeir0B, fld, extract_append_low, extract_append_high, extract_whole, Nat.reduceSub, BitVec.reduceExtractLsb', BitVec.reduceEq, and_self, and_true, true_and, false_and, and_false, reduceCtorEq, if_true, if_false]
theorem wsel (v : BitVec 1) (d : BitVec 4) (a : BitVec 4) (b : BitVec 4) (c : BitVec 4) : Statement (.wsel v d a b c) := by
  intro _ _; refine ⟨_, rfl, ?_⟩
  have e : fld (0xc#8 ++ v ++ d ++ a ++ b ++ c ++ 0x0#7) 24 8 = 0xc#8 := by simp (disch := decide) only [fld, extract_append_low, extract_append_high, extract_whole, Nat.reduceSub, BitVec.reduceExtractLsb']
  show decodeWeirAt (fld _ 24 8).toNat _ = _; rw [e]; show decodeWeir0C _ = _
  simp (disch := decide) only [decodeWeir0C, fld, extract_append_low, extract_append_high, extract_whole, Nat.reduceSub, BitVec.reduceExtractLsb', BitVec.reduceEq, and_self, and_true, true_and, false_and, and_false, reduceCtorEq, if_true, if_false]
theorem wmovW (d : BitVec 4) (a : BitVec 4) : Statement (.wmovW d a) := by
  intro _ _; refine ⟨_, rfl, ?_⟩
  have e : fld (0x1a#9 ++ d ++ a ++ 0x0#15) 24 8 = 0xd#8 := by simp (disch := decide) only [fld, extract_append_low, extract_append_high, extract_whole, Nat.reduceSub, BitVec.reduceExtractLsb']
  show decodeWeirAt (fld _ 24 8).toNat _ = _; rw [e]; show decodeWeir0D _ = _
  simp (disch := decide) only [decodeWeir0D, fld, extract_append_low, extract_append_high, extract_whole, Nat.reduceSub, BitVec.reduceExtractLsb', BitVec.reduceEq, and_self, and_true, true_and, false_and, and_false, reduceCtorEq, if_true, if_false]
theorem wmovX (d : BitVec 4) (a : BitVec 4) : Statement (.wmovX d a) := by
  intro _ _; refine ⟨_, rfl, ?_⟩
  have e : fld (0x1a#9 ++ d ++ a ++ 0x1000#15) 24 8 = 0xd#8 := by simp (disch := decide) only [fld, extract_append_low, extract_append_high, extract_whole, Nat.reduceSub, BitVec.reduceExtractLsb']
  show decodeWeirAt (fld _ 24 8).toNat _ = _; rw [e]; show decodeWeir0D _ = _
  simp (disch := decide) only [decodeWeir0D, fld, extract_append_low, extract_append_high, extract_whole, Nat.reduceSub, BitVec.reduceExtractLsb', BitVec.reduceEq, and_self, and_true, true_and, false_and, and_false, reduceCtorEq, if_true, if_false]
theorem wmovWx (d : BitVec 4) (a : BitVec 4) : Statement (.wmovWx d a) := by
  intro _ _; refine ⟨_, rfl, ?_⟩
  have e : fld (0x1a#9 ++ d ++ a ++ 0x2000#15) 24 8 = 0xd#8 := by simp (disch := decide) only [fld, extract_append_low, extract_append_high, extract_whole, Nat.reduceSub, BitVec.reduceExtractLsb']
  show decodeWeirAt (fld _ 24 8).toNat _ = _; rw [e]; show decodeWeir0D _ = _
  simp (disch := decide) only [decodeWeir0D, fld, extract_append_low, extract_append_high, extract_whole, Nat.reduceSub, BitVec.reduceExtractLsb', BitVec.reduceEq, and_self, and_true, true_and, false_and, and_false, reduceCtorEq, if_true, if_false]
theorem wmovXl (d : BitVec 4) (a : BitVec 4) (l : BitVec 3) : Statement (.wmovXl d a l) := by
  intro _ _; refine ⟨_, rfl, ?_⟩
  have e : fld (0x1a#9 ++ d ++ a ++ 0x3#3 ++ l ++ 0x0#9) 24 8 = 0xd#8 := by simp (disch := decide) only [fld, extract_append_low, extract_append_high, extract_whole, Nat.reduceSub, BitVec.reduceExtractLsb']
  show decodeWeirAt (fld _ 24 8).toNat _ = _; rw [e]; show decodeWeir0D _ = _
  simp (disch := decide) only [decodeWeir0D, fld, extract_append_low, extract_append_high, extract_whole, Nat.reduceSub, BitVec.reduceExtractLsb', BitVec.reduceEq, and_self, and_true, true_and, false_and, and_false, reduceCtorEq, if_true, if_false]
theorem wmovWl (d : BitVec 4) (a : BitVec 4) (l : BitVec 3) : Statement (.wmovWl d a l) := by
  intro _ _; refine ⟨_, rfl, ?_⟩
  have e : fld (0x1a#9 ++ d ++ a ++ 0x4#3 ++ l ++ 0x0#9) 24 8 = 0xd#8 := by simp (disch := decide) only [fld, extract_append_low, extract_append_high, extract_whole, Nat.reduceSub, BitVec.reduceExtractLsb']
  show decodeWeirAt (fld _ 24 8).toNat _ = _; rw [e]; show decodeWeir0D _ = _
  simp (disch := decide) only [decodeWeir0D, fld, extract_append_low, extract_append_high, extract_whole, Nat.reduceSub, BitVec.reduceExtractLsb', BitVec.reduceEq, and_self, and_true, true_and, false_and, and_false, reduceCtorEq, if_true, if_false]
theorem wli (v : BitVec 1) (d : BitVec 4) (i : BitVec 16) : Statement (.wli v d i) := by
  intro _ _; refine ⟨_, rfl, ?_⟩
  have e : fld (0xe#8 ++ v ++ d ++ 0x0#3 ++ i) 24 8 = 0xe#8 := by simp (disch := decide) only [fld, extract_append_low, extract_append_high, extract_whole, Nat.reduceSub, BitVec.reduceExtractLsb']
  show decodeWeirAt (fld _ 24 8).toNat _ = _; rw [e]; show decodeWeir0E _ = _
  simp (disch := decide) only [decodeWeir0E, fld, extract_append_low, extract_append_high, extract_whole, Nat.reduceSub, BitVec.reduceExtractLsb', BitVec.reduceEq, and_self, and_true, true_and, false_and, and_false, reduceCtorEq, if_true, if_false]
theorem wliH (v : BitVec 1) (d : BitVec 4) (i : BitVec 16) : Statement (.wliH v d i) := by
  intro _ _; refine ⟨_, rfl, ?_⟩
  have e : fld (0xe#8 ++ v ++ d ++ 0x4#3 ++ i) 24 8 = 0xe#8 := by simp (disch := decide) only [fld, extract_append_low, extract_append_high, extract_whole, Nat.reduceSub, BitVec.reduceExtractLsb']
  show decodeWeirAt (fld _ 24 8).toNat _ = _; rw [e]; show decodeWeir0E _ = _
  simp (disch := decide) only [decodeWeir0E, fld, extract_append_low, extract_append_high, extract_whole, Nat.reduceSub, BitVec.reduceExtractLsb', BitVec.reduceEq, and_self, and_true, true_and, false_and, and_false, reduceCtorEq, if_true, if_false]
theorem whdr (r : BitVec 4) (f : BitVec 5) : Statement (.whdr r f) := by
  intro _ _; refine ⟨_, rfl, ?_⟩
  have e : fld (0x20#9 ++ r ++ f ++ 0x0#14) 24 8 = 0x10#8 := by simp (disch := decide) only [fld, extract_append_low, extract_append_high, extract_whole, Nat.reduceSub, BitVec.reduceExtractLsb']
  show decodeWeirAt (fld _ 24 8).toNat _ = _; rw [e]; show decodeWeir10 _ = _
  simp (disch := decide) only [decodeWeir10, fld, extract_append_low, extract_append_high, extract_whole, Nat.reduceSub, BitVec.reduceExtractLsb', BitVec.reduceEq, and_self, and_true, true_and, false_and, and_false, reduceCtorEq, if_true, if_false]
theorem whdrW (r : BitVec 4) : Statement (.whdrW r) := by
  intro _ _; refine ⟨_, rfl, ?_⟩
  have e : fld (0x21#9 ++ r ++ 0x0#19) 24 8 = 0x10#8 := by simp (disch := decide) only [fld, extract_append_low, extract_append_high, extract_whole, Nat.reduceSub, BitVec.reduceExtractLsb']
  show decodeWeirAt (fld _ 24 8).toNat _ = _; rw [e]; show decodeWeir10 _ = _
  simp (disch := decide) only [decodeWeir10, fld, extract_append_low, extract_append_high, extract_whole, Nat.reduceSub, BitVec.reduceExtractLsb', BitVec.reduceEq, and_self, and_true, true_and, false_and, and_false, reduceCtorEq, if_true, if_false]
theorem wseth (r : BitVec 4) (f : BitVec 5) : Statement (.wseth r f) := by
  intro _ _; refine ⟨_, rfl, ?_⟩
  have e : fld (0x22#9 ++ r ++ f ++ 0x0#14) 24 8 = 0x11#8 := by simp (disch := decide) only [fld, extract_append_low, extract_append_high, extract_whole, Nat.reduceSub, BitVec.reduceExtractLsb']
  show decodeWeirAt (fld _ 24 8).toNat _ = _; rw [e]; show decodeWeir11 _ = _
  simp (disch := decide) only [decodeWeir11, fld, extract_append_low, extract_append_high, extract_whole, Nat.reduceSub, BitVec.reduceExtractLsb', BitVec.reduceEq, and_self, and_true, true_and, false_and, and_false, reduceCtorEq, if_true, if_false]
theorem wldp (w : BitVec 4) (c : BitVec 3) : Statement (.wldp w c) := by
  intro _ _; refine ⟨_, rfl, ?_⟩
  have e : fld (0x24#9 ++ w ++ 0x0#16 ++ c) 24 8 = 0x12#8 := by simp (disch := decide) only [fld, extract_append_low, extract_append_high, extract_whole, Nat.reduceSub, BitVec.reduceExtractLsb']
  show decodeWeirAt (fld _ 24 8).toNat _ = _; rw [e]; show decodeWeir12 _ = _
  simp (disch := decide) only [decodeWeir12, fld, extract_append_low, extract_append_high, extract_whole, Nat.reduceSub, BitVec.reduceExtractLsb', BitVec.reduceEq, and_self, and_true, true_and, false_and, and_false, reduceCtorEq, if_true, if_false]
theorem wldpX (w : BitVec 4) (x : BitVec 3) (c : BitVec 3) : Statement (.wldpX w x c) := by
  intro _ _; refine ⟨_, rfl, ?_⟩
  have e : fld (0x25#9 ++ w ++ x ++ 0x0#13 ++ c) 24 8 = 0x12#8 := by simp (disch := decide) only [fld, extract_append_low, extract_append_high, extract_whole, Nat.reduceSub, BitVec.reduceExtractLsb']
  show decodeWeirAt (fld _ 24 8).toNat _ = _; rw [e]; show decodeWeir12 _ = _
  simp (disch := decide) only [decodeWeir12, fld, extract_append_low, extract_append_high, extract_whole, Nat.reduceSub, BitVec.reduceExtractLsb', BitVec.reduceEq, and_self, and_true, true_and, false_and, and_false, reduceCtorEq, if_true, if_false]
theorem wstp (w : BitVec 4) (c : BitVec 3) : Statement (.wstp w c) := by
  intro _ _; refine ⟨_, rfl, ?_⟩
  have e : fld (0x26#9 ++ w ++ 0x0#16 ++ c) 24 8 = 0x13#8 := by simp (disch := decide) only [fld, extract_append_low, extract_append_high, extract_whole, Nat.reduceSub, BitVec.reduceExtractLsb']
  show decodeWeirAt (fld _ 24 8).toNat _ = _; rw [e]; show decodeWeir13 _ = _
  simp (disch := decide) only [decodeWeir13, fld, extract_append_low, extract_append_high, extract_whole, Nat.reduceSub, BitVec.reduceExtractLsb', BitVec.reduceEq, and_self, and_true, true_and, false_and, and_false, reduceCtorEq, if_true, if_false]
theorem wstpX (w : BitVec 4) (x : BitVec 3) (c : BitVec 3) : Statement (.wstpX w x c) := by
  intro _ _; refine ⟨_, rfl, ?_⟩
  have e : fld (0x27#9 ++ w ++ x ++ 0x0#13 ++ c) 24 8 = 0x13#8 := by simp (disch := decide) only [fld, extract_append_low, extract_append_high, extract_whole, Nat.reduceSub, BitVec.reduceExtractLsb']
  show decodeWeirAt (fld _ 24 8).toNat _ = _; rw [e]; show decodeWeir13 _ = _
  simp (disch := decide) only [decodeWeir13, fld, extract_append_low, extract_append_high, extract_whole, Nat.reduceSub, BitVec.reduceExtractLsb', BitVec.reduceEq, and_self, and_true, true_and, false_and, and_false, reduceCtorEq, if_true, if_false]
theorem wldf (w : BitVec 4) (x : BitVec 3) (i : BitVec 16) : Statement (.wldf w x i) := by
  intro _ _; refine ⟨_, rfl, ?_⟩
  have e : fld (0x28#9 ++ w ++ x ++ i) 24 8 = 0x14#8 := by simp (disch := decide) only [fld, extract_append_low, extract_append_high, extract_whole, Nat.reduceSub, BitVec.reduceExtractLsb']
  show decodeWeirAt (fld _ 24 8).toNat _ = _; rw [e]; show decodeWeir14 _ = _
  simp (disch := decide) only [decodeWeir14, fld, extract_append_low, extract_append_high, extract_whole, Nat.reduceSub, BitVec.reduceExtractLsb', BitVec.reduceEq, and_self, and_true, true_and, false_and, and_false, reduceCtorEq, if_true, if_false]
theorem wstf (w : BitVec 4) (x : BitVec 3) (i : BitVec 16) : Statement (.wstf w x i) := by
  intro _ _; refine ⟨_, rfl, ?_⟩
  have e : fld (0x2a#9 ++ w ++ x ++ i) 24 8 = 0x15#8 := by simp (disch := decide) only [fld, extract_append_low, extract_append_high, extract_whole, Nat.reduceSub, BitVec.reduceExtractLsb']
  show decodeWeirAt (fld _ 24 8).toNat _ = _; rw [e]; show decodeWeir15 _ = _
  simp (disch := decide) only [decodeWeir15, fld, extract_append_low, extract_append_high, extract_whole, Nat.reduceSub, BitVec.reduceExtractLsb', BitVec.reduceEq, and_self, and_true, true_and, false_and, and_false, reduceCtorEq, if_true, if_false]
theorem watf (p : BitVec 4) (d : BitVec 3) (a : BitVec 3) (b : BitVec 3) (i : BitVec 11) : Statement (.watf p d a b i) := by
  intro _ _; refine ⟨_, rfl, ?_⟩
  have e : fld (0x16#8 ++ p ++ d ++ a ++ b ++ i) 24 8 = 0x16#8 := by simp (disch := decide) only [fld, extract_append_low, extract_append_high, extract_whole, Nat.reduceSub, BitVec.reduceExtractLsb']
  show decodeWeirAt (fld _ 24 8).toNat _ = _; rw [e]; show decodeWeir16 _ = _
  simp (disch := decide) only [decodeWeir16, fld, extract_append_low, extract_append_high, extract_whole, Nat.reduceSub, BitVec.reduceExtractLsb', BitVec.reduceEq, and_self, and_true, true_and, false_and, and_false, reduceCtorEq, if_true, if_false]
theorem whash (d : BitVec 3) (a : BitVec 4) (n : BitVec 3) : Statement (.whash d a n) := by
  intro _ _; refine ⟨_, rfl, ?_⟩
  have e : fld (0x2e#9 ++ d ++ a ++ n ++ 0x0#13) 24 8 = 0x17#8 := by simp (disch := decide) only [fld, extract_append_low, extract_append_high, extract_whole, Nat.reduceSub, BitVec.reduceExtractLsb']
  show decodeWeirAt (fld _ 24 8).toNat _ = _; rw [e]; show decodeWeir17 _ = _
  simp (disch := decide) only [decodeWeir17, fld, extract_append_low, extract_append_high, extract_whole, Nat.reduceSub, BitVec.reduceExtractLsb', BitVec.reduceEq, and_self, and_true, true_and, false_and, and_false, reduceCtorEq, if_true, if_false]
theorem whashLk (d : BitVec 3) (a : BitVec 4) : Statement (.whashLk d a) := by
  intro _ _; refine ⟨_, rfl, ?_⟩
  have e : fld (0x2f#9 ++ d ++ a ++ 0x0#16) 24 8 = 0x17#8 := by simp (disch := decide) only [fld, extract_append_low, extract_append_high, extract_whole, Nat.reduceSub, BitVec.reduceExtractLsb']
  show decodeWeirAt (fld _ 24 8).toNat _ = _; rw [e]; show decodeWeir17 _ = _
  simp (disch := decide) only [decodeWeir17, fld, extract_append_low, extract_append_high, extract_whole, Nat.reduceSub, BitVec.reduceExtractLsb', BitVec.reduceEq, and_self, and_true, true_and, false_and, and_false, reduceCtorEq, if_true, if_false]
theorem wrep (n : BitVec 4) (l : BitVec 6) : Statement (.wrep n l) := by
  intro _ _; refine ⟨_, rfl, ?_⟩
  have e : fld (0x18#8 ++ n ++ l ++ 0x0#14) 24 8 = 0x18#8 := by simp (disch := decide) only [fld, extract_append_low, extract_append_high, extract_whole, Nat.reduceSub, BitVec.reduceExtractLsb']
  show decodeWeirAt (fld _ 24 8).toNat _ = _; rw [e]; show decodeWeir18 _ = _
  simp (disch := decide) only [decodeWeir18, fld, extract_append_low, extract_append_high, extract_whole, Nat.reduceSub, BitVec.reduceExtractLsb', BitVec.reduceEq, and_self, and_true, true_and, false_and, and_false, reduceCtorEq, if_true, if_false]
theorem wbr (o : BitVec 8) : Statement (.wbr o) := by
  intro _ _; refine ⟨_, rfl, ?_⟩
  have e : fld (0x190000#24 ++ o) 24 8 = 0x19#8 := by simp (disch := decide) only [fld, extract_append_low, extract_append_high, extract_whole, Nat.reduceSub, BitVec.reduceExtractLsb']
  show decodeWeirAt (fld _ 24 8).toNat _ = _; rw [e]; show decodeWeir19 _ = _
  simp (disch := decide) only [decodeWeir19, fld, extract_append_low, extract_append_high, extract_whole, Nat.reduceSub, BitVec.reduceExtractLsb', BitVec.reduceEq, and_self, and_true, true_and, false_and, and_false, reduceCtorEq, if_true, if_false]
theorem wbrCc (c : BitVec 3) (a : BitVec 3) (o : BitVec 8) : Statement (.wbrCc c a o) := by
  intro hw _; refine ⟨_, rfl, ?_⟩
  have e : fld (0x19#8 ++ c ++ a ++ 0x0#10 ++ o) 24 8 = 0x19#8 := by simp (disch := decide) only [fld, extract_append_low, extract_append_high, extract_whole, Nat.reduceSub, BitVec.reduceExtractLsb']
  show decodeWeirAt (fld _ 24 8).toNat _ = _; rw [e]; show decodeWeir19 _ = _
  have hc : ¬ c = 0#3 := by rintro rfl; simp [Instr.wf] at hw
  simp (disch := decide) only [decodeWeir19, fld, extract_append_low, extract_append_high, extract_whole, Nat.reduceSub, BitVec.reduceExtractLsb', BitVec.reduceEq, and_self, and_true, true_and, false_and, and_false, reduceCtorEq, if_true, if_false, hc, false_and, and_false, if_false]
theorem wdup (a : BitVec 3) : Statement (.wdup a) := by
  intro _ _; refine ⟨_, rfl, ?_⟩
  have e : fld (0x1b#8 ++ a ++ 0x0#21) 24 8 = 0x1b#8 := by simp (disch := decide) only [fld, extract_append_low, extract_append_high, extract_whole, Nat.reduceSub, BitVec.reduceExtractLsb']
  show decodeWeirAt (fld _ 24 8).toNat _ = _; rw [e]; show decodeWeir1B _ = _
  simp (disch := decide) only [decodeWeir1B, fld, extract_append_low, extract_append_high, extract_whole, Nat.reduceSub, BitVec.reduceExtractLsb', BitVec.reduceEq, and_self, and_true, true_and, false_and, and_false, reduceCtorEq, if_true, if_false]
theorem wtrap (c : BitVec 12) (a : BitVec 3) : Statement (.wtrap c a) := by
  intro _ _; refine ⟨_, rfl, ?_⟩
  have e : fld (0x1d#8 ++ c ++ a ++ 0x0#9) 24 8 = 0x1d#8 := by simp (disch := decide) only [fld, extract_append_low, extract_append_high, extract_whole, Nat.reduceSub, BitVec.reduceExtractLsb']
  show decodeWeirAt (fld _ 24 8).toNat _ = _; rw [e]; show decodeWeir1D _ = _
  simp (disch := decide) only [decodeWeir1D, fld, extract_append_low, extract_append_high, extract_whole, Nat.reduceSub, BitVec.reduceExtractLsb', BitVec.reduceEq, and_self, and_true, true_and, false_and, and_false, reduceCtorEq, if_true, if_false]
theorem wfwd : Statement (.wfwd) := by
  intro _ _; exact ⟨_, rfl, rfl⟩
theorem wdrop : Statement (.wdrop) := by
  intro _ _; exact ⟨_, rfl, rfl⟩
theorem wend : Statement (.wend) := by
  intro _ _; exact ⟨_, rfl, rfl⟩
theorem moduleReset : Statement (.moduleReset) := by
  intro _ h; exact absurd rfl h
theorem create : Statement (.create) := by
  intro _ h; exact absurd rfl h
theorem destroy : Statement (.destroy) := by
  intro _ h; exact absurd rfl h
theorem preempt : Statement (.preempt) := by
  intro _ h; exact absurd rfl h
theorem resume : Statement (.resume) := by
  intro _ h; exact absurd rfl h
theorem oscount : Statement (.oscount) := by
  intro _ h; exact absurd rfl h
theorem ctlcas (port v : Nat) : Statement (.ctlcas port v) := by
  intro _ h; exact absurd rfl h
theorem ctlsemLeaseExpiry : Statement (.ctlsemLeaseExpiry) := by
  intro _ h; exact absurd rfl h
theorem reset : Statement (.reset) := by
  intro _ h; exact absurd rfl h
theorem modeset : Statement (.modeset) := by
  intro _ h; exact absurd rfl h
theorem fwupdate : Statement (.fwupdate) := by
  intro _ h; exact absurd rfl h
theorem slate (res owner ofs : Nat) : Statement (.slate res owner ofs) := by
  intro _ h; exact absurd rfl h
theorem freeze : Statement (.freeze) := by
  intro _ h; exact absurd rfl h
theorem thaw : Statement (.thaw) := by
  intro _ h; exact absurd rfl h
theorem attest : Statement (.attest) := by
  intro _ h; exact absurd rfl h
theorem domset : Statement (.domset) := by
  intro _ h; exact absurd rfl h
theorem domclr : Statement (.domclr) := by
  intro _ h; exact absurd rfl h
theorem peerset : Statement (.peerset) := by
  intro _ h; exact absurd rfl h
theorem peerclr : Statement (.peerclr) := by
  intro _ h; exact absurd rfl h
theorem peertmo : Statement (.peertmo) := by
  intro _ h; exact absurd rfl h
theorem devno : Statement (.devno) := by
  intro _ h; exact absurd rfl h
theorem unitret : Statement (.unitret) := by
  intro _ h; exact absurd rfl h
theorem unitrst (pass : Bool) : Statement (.unitrst pass) := by
  intro _ h; exact absurd rfl h
theorem dierst (pass : Bool) : Statement (.dierst pass) := by
  intro _ h; exact absurd rfl h
theorem load : Statement (.load) := by
  intro _ h; exact absurd rfl h
theorem unload : Statement (.unload) := by
  intro _ h; exact absurd rfl h
theorem flowrd : Statement (.flowrd) := by
  intro _ h; exact absurd rfl h
theorem flowwr : Statement (.flowwr) := by
  intro _ h; exact absurd rfl h
theorem checkpoint (res owner ofs : Nat) : Statement (.checkpoint res owner ofs) := by
  intro _ h; exact absurd rfl h
theorem restore (man : Nat) (data : List Nat) : Statement (.restore man data) := by
  intro _ h; exact absurd rfl h
theorem arm : Statement (.arm) := by
  intro _ h; exact absurd rfl h
theorem go : Statement (.go) := by
  intro _ h; exact absurd rfl h
theorem stop : Statement (.stop) := by
  intro _ h; exact absurd rfl h
theorem replayThaw : Statement (.replayThaw) := by
  intro _ h; exact absurd rfl h
theorem reelctlWrite (port token v : Nat) : Statement (.reelctlWrite port token v) := by
  intro _ h; exact absurd rfl h
theorem rsvctlWrite (port token v : Nat) : Statement (.rsvctlWrite port token v) := by
  intro _ h; exact absurd rfl h
theorem cutWrite (port token i v : Nat) : Statement (.cutWrite port token i v) := by
  intro _ h; exact absurd rfl h
theorem errclsWrite (port token v : Nat) : Statement (.errclsWrite port token v) := by
  intro _ h; exact absurd rfl h
theorem watchFilterWrite (port reg v : Nat) : Statement (.watchFilterWrite port reg v) := by
  intro _ h; exact absurd rfl h
theorem trctlWrite (die v : Nat) : Statement (.trctlWrite die v) := by
  intro _ h; exact absurd rfl h
theorem trrpWrite (die v : Nat) : Statement (.trrpWrite die v) := by
  intro _ h; exact absurd rfl h
theorem drconsWrite (v : Nat) : Statement (.drconsWrite v) := by
  intro _ h; exact absurd rfl h
theorem ltolWrite (port v : Nat) : Statement (.ltolWrite port v) := by
  intro _ h; exact absurd rfl h
theorem registerWrite (port off v : Nat) : Statement (.registerWrite port off v) := by
  intro _ h; exact absurd rfl h
theorem mgmtRead (src sport len req : Nat) : Statement (.mgmtRead src sport len req) := by
  intro _ h; exact absurd rfl h
theorem mgmtWrite (src sport len req : Nat) : Statement (.mgmtWrite src sport len req) := by
  intro _ h; exact absurd rfl h
theorem mgmtBlockRead (src sport len req : Nat) : Statement (.mgmtBlockRead src sport len req) := by
  intro _ h; exact absurd rfl h
theorem ptpMessage (offset : Int) : Statement (.ptpMessage offset) := by
  intro _ h; exact absurd rfl h
theorem ptpMasterTimeout : Statement (.ptpMasterTimeout) := by
  intro _ h; exact absurd rfl h
theorem gridAccept (i : Nat) : Statement (.gridAccept i) := by
  intro _ h; exact absurd rfl h
theorem workgroupPlace (ctx grid cl : Nat) : Statement (.workgroupPlace ctx grid cl) := by
  intro _ h; exact absurd rfl h
theorem placementWaitExpiry (ctx grid : Nat) : Statement (.placementWaitExpiry ctx grid) := by
  intro _ h; exact absurd rfl h
theorem workSteal (ctx grid thief : Nat) (dies : Bool) : Statement (.workSteal ctx grid thief dies) := by
  intro _ h; exact absurd rfl h
theorem gateOpen (ctx grid : Nat) : Statement (.gateOpen ctx grid) := by
  intro _ h; exact absurd rfl h
theorem workgroupPark (ctx serial : Nat) : Statement (.workgroupPark ctx serial) := by
  intro _ h; exact absurd rfl h
theorem workgroupUnpark (ctx serial : Nat) : Statement (.workgroupUnpark ctx serial) := by
  intro _ h; exact absurd rfl h
theorem elderReport (ctx : Nat) : Statement (.elderReport ctx) := by
  intro _ h; exact absurd rfl h
theorem bufferedAtomicApply (ctx grid : Nat) : Statement (.bufferedAtomicApply ctx grid) := by
  intro _ h; exact absurd rfl h
theorem doneAdd (ctx grid : Nat) : Statement (.doneAdd ctx grid) := by
  intro _ h; exact absurd rfl h
theorem gbarRelease (ctx grid : Nat) : Statement (.gbarRelease ctx grid) := by
  intro _ h; exact absurd rfl h
theorem waitcRelease (gid slot : Nat) : Statement (.waitcRelease gid slot) := by
  intro _ h; exact absurd rfl h
theorem awaitcRelease (gid : Nat) : Statement (.awaitcRelease gid) := by
  intro _ h; exact absurd rfl h
theorem waitmRelease (gid slot : Nat) : Statement (.waitmRelease gid slot) := by
  intro _ h; exact absurd rfl h
theorem joincRelease (gid slot : Nat) : Statement (.joincRelease gid slot) := by
  intro _ h; exact absurd rfl h
theorem sleepExpiry (gid slot : Nat) : Statement (.sleepExpiry gid slot) := by
  intro _ h; exact absurd rfl h
theorem watchdogExpiry (gid : Nat) : Statement (.watchdogExpiry gid) := by
  intro _ h; exact absurd rfl h
theorem trapEntry (gid : Nat) : Statement (.trapEntry gid) := by
  intro _ h; exact absurd rfl h
theorem asyncResultReturn (gid id : Nat) (acc : Bool) : Statement (.asyncResultReturn gid id acc) := by
  intro _ h; exact absurd rfl h
theorem pageFaultResult (c i : Nat) : Statement (.pageFaultResult c i) := by
  intro _ h; exact absurd rfl h
theorem loadLinePerform (gid id va : Nat) : Statement (.loadLinePerform gid id va) := by
  intro _ h; exact absurd rfl h
theorem storeLinePerform (gid id va : Nat) : Statement (.storeLinePerform gid id va) := by
  intro _ h; exact absurd rfl h
theorem atomicLinePerform (gid id va : Nat) : Statement (.atomicLinePerform gid id va) := by
  intro _ h; exact absurd rfl h
theorem loadDataArrival (gid id : Nat) : Statement (.loadDataArrival gid id) := by
  intro _ h; exact absurd rfl h
theorem spillwayPerform (q i : Nat) : Statement (.spillwayPerform q i) := by
  intro _ h; exact absurd rfl h
theorem fenceComplete (gid : Nat) : Statement (.fenceComplete gid) := by
  intro _ h; exact absurd rfl h
theorem xfenceComplete (gid : Nat) : Statement (.xfenceComplete gid) := by
  intro _ h; exact absurd rfl h
theorem scTicketGrant (gid id : Nat) : Statement (.scTicketGrant gid id) := by
  intro _ h; exact absurd rfl h
theorem directoryGrant (holder line half : Nat) (excl : Bool) (c : Nat) : Statement (.directoryGrant holder line half excl c) := by
  intro _ h; exact absurd rfl h
theorem directoryRevoke (holder line half : Nat) : Statement (.directoryRevoke holder line half) := by
  intro _ h; exact absurd rfl h
theorem ptsJump (core : Nat) : Statement (.ptsJump core) := by
  intro _ h; exact absurd rfl h
theorem l1AgeingStep (core : Nat) : Statement (.l1AgeingStep core) := by
  intro _ h; exact absurd rfl h
theorem l2AgeingStep (die : Nat) : Statement (.l2AgeingStep die) := by
  intro _ h; exact absurd rfl h
theorem scrubberVisit (die : Nat) : Statement (.scrubberVisit die) := by
  intro _ h; exact absurd rfl h
theorem pageMigration (c page newPa : Nat) : Statement (.pageMigration c page newPa) := by
  intro _ h; exact absurd rfl h
theorem biasFlip (c page : Nat) (toHost : Bool) : Statement (.biasFlip c page toHost) := by
  intro _ h; exact absurd rfl h
theorem hostAccess (agent dev pa n : Nat) (wr : Bool) (data : Nat) : Statement (.hostAccess agent dev pa n wr data) := by
  intro _ h; exact absurd rfl h
theorem copyLine (gid id line : Nat) (rd : Bool) : Statement (.copyLine gid id line rd) := by
  intro _ h; exact absurd rfl h
theorem matrixGrant (cl slot : Nat) : Statement (.matrixGrant cl slot) := by
  intro _ h; exact absurd rfl h
theorem matrixPassComplete (cl : Nat) (ev : PassStep) : Statement (.matrixPassComplete cl ev) := by
  intro _ h; exact absurd rfl h
theorem fabricPacketSend (gid id line : Nat) (rd : Bool) : Statement (.fabricPacketSend gid id line rd) := by
  intro _ h; exact absurd rfl h
theorem packetArrival (port : Nat) (hdr : BitVec 256) (pay : Nat) : Statement (.packetArrival port hdr pay) := by
  intro _ h; exact absurd rfl h
theorem arrivalAddition (src chan : Nat) (redir : Bool) : Statement (.arrivalAddition src chan redir) := by
  intro _ h; exact absurd rfl h
theorem packetAck (dev chan seq fault addr : Nat) (one : Bool) : Statement (.packetAck dev chan seq fault addr one) := by
  intro _ h; exact absurd rfl h
theorem skipNotice (hdr : BitVec 256) : Statement (.skipNotice hdr) := by
  intro _ h; exact absurd rfl h
theorem deadPeerTimeout (dev : Nat) : Statement (.deadPeerTimeout dev) := by
  intro _ h; exact absurd rfl h
theorem conversionMatch (i : Nat) (subs : List (Nat × BitVec 1024 × Nat × Nat)) : Statement (.conversionMatch i subs) := by
  intro _ h; exact absurd rfl h
theorem conversionComplete (i : Nat) (data : List (Nat × List Nat)) : Statement (.conversionComplete i data) := by
  intro _ h; exact absurd rfl h
theorem weirPacket (port i : Nat) : Statement (.weirPacket port i) := by
  intro _ h; exact absurd rfl h
theorem switchWeirRecord (dom cls port slot code detail time : Nat) (hdr : BitVec 256) : Statement (.switchWeirRecord dom cls port slot code detail time hdr) := by
  intro _ h; exact absurd rfl h
theorem saveHandlerComplete (ctx serial : Nat) : Statement (.saveHandlerComplete ctx serial) := by
  intro _ h; exact absurd rfl h
theorem restoreHandlerComplete (ctx serial : Nat) : Statement (.restoreHandlerComplete ctx serial) := by
  intro _ h; exact absurd rfl h
theorem eccEvent (kind x y z : Nat) (uncorrected : Bool) : Statement (.eccEvent kind x y z uncorrected) := by
  intro _ h; exact absurd rfl h
theorem patrolScrub (line : Nat) : Statement (.patrolScrub line) := by
  intro _ h; exact absurd rfl h
theorem dieLoss (die : Nat) : Statement (.dieLoss die) := by
  intro _ h; exact absurd rfl h
theorem dieQuiesceAck (die : Nat) (lost : List Nat) : Statement (.dieQuiesceAck die lost) := by
  intro _ h; exact absurd rfl h
theorem dieQuiesceTimeout (die : Nat) (lost : List Nat) (refresh : Bool) : Statement (.dieQuiesceTimeout die lost refresh) := by
  intro _ h; exact absurd rfl h
theorem takeAgeExpiry (ctx rid : Nat) : Statement (.takeAgeExpiry ctx rid) := by
  intro _ h; exact absurd rfl h
theorem reelPlace : Statement (.reelPlace) := by
  intro _ h; exact absurd rfl h
theorem drainCopy : Statement (.drainCopy) := by
  intro _ h; exact absurd rfl h
theorem cutPointReached (c rid : Nat) : Statement (.cutPointReached c rid) := by
  intro _ h; exact absurd rfl h
theorem podFreeze : Statement (.podFreeze) := by
  intro _ h; exact absurd rfl h
theorem replayDivergence (c rid i : Nat) : Statement (.replayDivergence c rid i) := by
  intro _ h; exact absurd rfl h
theorem replayEndOfLog (c : Nat) : Statement (.replayEndOfLog c) := by
  intro _ h; exact absurd rfl h
theorem censusFlush (gid slot : Nat) : Statement (.censusFlush gid slot) := by
  intro _ h; exact absurd rfl h
theorem powerStateEntry (dev : Nat) : Statement (.powerStateEntry dev) := by
  intro _ h; exact absurd rfl h
theorem powerWake (dev : Nat) : Statement (.powerWake dev) := by
  intro _ h; exact absurd rfl h
theorem digestClaim (src digest ofs epoch dirpa dirlog2 : Nat) : Statement (.digestClaim src digest ofs epoch dirpa dirlog2) := by
  intro _ h; exact absurd rfl h
theorem shardMirror (src ofs n data : Nat) : Statement (.shardMirror src ofs n data) := by
  intro _ h; exact absurd rfl h
theorem shardFetch (src digest epoch ofs : Nat) : Statement (.shardFetch src digest epoch ofs) := by
  intro _ h; exact absurd rfl h
theorem digestRelease (src digest epoch dirpa dirlog2 : Nat) : Statement (.digestRelease src digest epoch dirpa dirlog2) := by
  intro _ h; exact absurd rfl h
theorem claimReplyTimeout : Statement (.claimReplyTimeout) := by
  intro _ h; exact absurd rfl h
theorem fabricLinkFailure (port : Nat) : Statement (.fabricLinkFailure port) := by
  intro _ h; exact absurd rfl h
theorem throttleStart : Statement (.throttleStart) := by
  intro _ h; exact absurd rfl h
theorem throttleEnd : Statement (.throttleEnd) := by
  intro _ h; exact absurd rfl h

end Sys2Proof.Laws.RoundTrip
end

