-- ==== Sys2Proof/Safety.lean ====
section
/-! DEFINITION. The terms in which claims are stated: the invariant of the machine, and when a stream stands ready to issue an instruction whose own
effect then happens (R29, R30, R35, R408). -/

namespace Sys2Proof.Machine

/-! The invariant. -/

/-- The memory stands in its one canonical form, so that equal contents are equal data (log entry 1). -/
def State.Inv (s : State) : Prop := s.mem.wf = true

/-! A compute-stream instruction that issues. -/

/-- The stream parks for its held results (R30): the word is marked, or the write-back buffer is full and the instruction asynchronous. -/
def mustPark (m : BitVec 1) (g : Group) (s : Split) (sp : IssueSpec) : Bool :=
  decide (m = 1#1) || (decide (8 ≤ g.wbC.length) && sp.async g s)

/-- The group once its park, if any, is over: held results committed where the stream parked (R30). -/
def unparked (m : BitVec 1) (g : Group) (s : Split) (sp : IssueSpec) : Group :=
  (if mustPark m g s sp then (g.commitWith false).1 else g).unpark

/-- The state in which the instruction has its effect: held results committed where the stream parks, and with a marked word the flags that matrix
passes left (R30, R255). -/
def State.atIssue (st : State) (m : BitVec 1) (g : Group) (s : Split) (sp : IssueSpec) : State :=
  let st1 := st.putGroup st.issuer.group (unparked m g s sp)
  if m = 1#1 then st1.takeMflags st.issuer.group else st1

/-- The group in that state. -/
def State.groupAtIssue (st : State) (m : BitVec 1) (g : Group) (s : Split) (sp : IssueSpec) : Group :=
  mgetD (st.atIssue m g s sp).groups st.issuer.group (unparked m g s sp)

/-- Group `g`'s split `s` is the issuer, and a compute word with these checks issues with its effect: no pending cause, results returned and none of them
poisoned where the stream parks, a legal word, the MODE it needs, operands that fit it, no poisoned source, and its queues able to serve it (R29, R30, R34, R35, R41, R408, R414). -/
structure ReadyC (st : State) (m : BitVec 1) (sp : IssueSpec) (g : Group) (s : Split) : Prop where
  group : mget st.groups st.issuer.group = some g
  split : g.splitAt st.issuer.slot = some s
  turn : st.trapTurn st.issuer.group g false = some none
  returned : mustPark m g s sp = true → allReturned g.wbC = true ∧ (g.commitWith false).2 = none
  legal : sp.legal = true
  mode : sp.mode (st.groupAtIssue m g s sp) = true
  fits : sp.fits (st.groupAtIssue m g s sp) = true
  sources : (st.groupAtIssue m g s sp).badSource s sp = false
  queues : (st.groupAtIssue m g s sp).queues sp = .ok

/-- How an issue ends whose own effect left state `st'`: the group's queue entries popped, its PC moved on, its counts raised (R56, R424, R446). -/
def State.endsC (st st' : State) (m : BitVec 1) (g : Group) (s : Split) (sp : IssueSpec) : Ans :=
  .next (st'.retireC st.issuer.group st.issuer.slot (st.groupAtIssue m g s sp) s sp)

/-- The same where the own effect changed the issuing group alone, into `g'`. -/
def State.endsG (st : State) (m : BitVec 1) (g : Group) (s : Split) (sp : IssueSpec) (g' : Group) : Ans :=
  st.endsC ((st.atIssue m g s sp).putGroup st.issuer.group g') m g s sp

/-- In every state in which word `i` stands ready and `ok` holds of the group and split, `exec` answers a next state, in which the issuing group is `f` of
what it was. -/
def State.completes (st : State) (i : Instr) (m : BitVec 1) (sp : IssueSpec) (ok : Group → Split → Bool) (f : Group → Split → Group) : Prop :=
  ∀ g s, ReadyC st m sp g s → ok (st.groupAtIssue m g s sp) s = true →
    exec i st = st.endsG m g s sp (f (st.groupAtIssue m g s sp) s)

/-- A condition that asks nothing. -/
def always (_ : Group) (_ : Split) : Bool := true

/-- The same for an effect on more than the issuing group: under `ok`, `exec` answers a next state, that of the effect `F`. -/
def State.acts (st : State) (i : Instr) (m : BitVec 1) (sp : IssueSpec) (ok : State → Group → Split → Prop) (F : State → Group → Split → State) : Prop :=
  ∀ g s, ReadyC st m sp g s → ok (st.atIssue m g s sp) (st.groupAtIssue m g s sp) s →
    exec i st = st.endsC (F (st.atIssue m g s sp) (st.groupAtIssue m g s sp) s) m g s sp

/-- In every state in which word `i` stands ready and `bad` holds, it raises the precise trap `t`: none of its own effect happens, and the group takes
the trap. -/
def State.traps (st : State) (i : Instr) (m : BitVec 1) (sp : IssueSpec) (bad : State → Group → Split → Prop) (t : Trap) : Prop :=
  ∀ g s, ReadyC st m sp g s → bad (st.atIssue m g s sp) (st.groupAtIssue m g s sp) s →
    exec i st = .next ((st.atIssue m g s sp).takeTrap st.issuer.group { trap := t, kind := .precise, slot := st.issuer.slot })

/-- In every state in which word `i` stands ready and `ok` holds, it is not issued: it waits, with nothing of its effect done. -/
def State.holds (st : State) (i : Instr) (m : BitVec 1) (sp : IssueSpec) (ok : State → Group → Split → Prop) : Prop :=
  ∀ g s, ReadyC st m sp g s → ok (st.atIssue m g s sp) (st.groupAtIssue m g s sp) s → exec i st = .next (st.atIssue m g s sp)

/-- The same for a trap whose instruction has an effect besides: the state `F` has been left when the group takes the trap. -/
def State.trapsWith (st : State) (i : Instr) (m : BitVec 1) (sp : IssueSpec) (bad : State → Group → Split → Prop) (t : Trap)
    (F : State → Group → Split → State) : Prop :=
  ∀ g s, ReadyC st m sp g s → bad (st.atIssue m g s sp) (st.groupAtIssue m g s sp) s →
    exec i st = .next ((F (st.atIssue m g s sp) (st.groupAtIssue m g s sp) s).takeTrap st.issuer.group { trap := t, kind := .precise, slot := st.issuer.slot })

/-- In every state in which word `i` stands ready and `ok` holds, it is held at its issue: what it has begun so far is `F`. -/
def State.heldIn (st : State) (i : Instr) (m : BitVec 1) (sp : IssueSpec) (ok : State → Group → Split → Prop) (F : State → Group → Split → State) : Prop :=
  ∀ g s, ReadyC st m sp g s → ok (st.atIssue m g s sp) (st.groupAtIssue m g s sp) s →
    exec i st = .next (F (st.atIssue m g s sp) (st.groupAtIssue m g s sp) s)

/-- A condition that asks nothing. -/
def anyway (_ : State) (_ : Group) (_ : Split) : Prop := True

/-- Group `g`'s split `s` is the issuer, and its word stands at its issue: no pending cause, and results returned and none of them poisoned where the
stream parks. Whether the word is legal is not asked (R29, R30, R408, R414). -/
structure StandsC (st : State) (m : BitVec 1) (sp : IssueSpec) (g : Group) (s : Split) : Prop where
  group : mget st.groups st.issuer.group = some g
  split : g.splitAt st.issuer.slot = some s
  turn : st.trapTurn st.issuer.group g false = some none
  returned : mustPark m g s sp = true → allReturned g.wbC = true ∧ (g.commitWith false).2 = none

/-- In every state in which word `i` stands at its issue and `bad` holds, it raises the precise trap `t`, with none of its effect done. -/
def State.trapsAtIssue (st : State) (i : Instr) (m : BitVec 1) (sp : IssueSpec) (bad : Group → Prop) (t : Trap) : Prop :=
  ∀ g s, StandsC st m sp g s → bad (st.groupAtIssue m g s sp) →
    exec i st = .next ((st.atIssue m g s sp).takeTrap st.issuer.group { trap := t, kind := .precise, slot := st.issuer.slot })

/-! An access-stream instruction that issues. -/

/-- The access stream parks for its held results (R30). -/
def mustParkA (m : BitVec 1) (g : Group) (sp : AccSpec) : Bool := decide (m = 1#1) || (decide (8 ≤ g.wbA.length) && sp.async)

/-- The group once held results are committed where the access stream parked (R30). -/
def accessParked (m : BitVec 1) (g : Group) (sp : AccSpec) : Group := if mustParkA m g sp then (g.commitWith true).1 else g

/-- Group `g`'s access stream is the issuer, and a word with these checks issues with its effect (R29, R30, R408, R414). -/
structure ReadyA (st : State) (m : BitVec 1) (sp : AccSpec) (g : Group) : Prop where
  group : mget st.groups st.issuer.group = some g
  slot : st.issuer.slot = 4
  turn : st.trapTurn st.issuer.group g true = some none
  returned : mustParkA m g sp = true → allReturned g.wbA = true ∧ (g.commitWith true).2 = none
  legal : sp.legal = true

/-- The state in which an access-stream instruction has its effect: held results committed where the stream parks, and with a marked word the flags that
matrix passes left (R30, R255). -/
def State.atIssueA (st : State) (m : BitVec 1) (g : Group) (sp : AccSpec) : State :=
  let st1 := st.putGroup st.issuer.group (accessParked m g sp)
  if m = 1#1 then st1.takeMflags st.issuer.group else st1

/-- The group in that state. -/
def State.accessAtIssue (st : State) (m : BitVec 1) (g : Group) (sp : AccSpec) : Group :=
  mgetD (st.atIssueA m g sp).groups st.issuer.group (accessParked m g sp)

/-- How an access-stream issue ends whose own effect left state `st'`. -/
def State.endsA (st st' : State) (m : BitVec 1) (g : Group) (sp : AccSpec) : Ans :=
  .next (st'.retireA st.issuer.group sp (st.accessAtIssue m g sp).outside)

/-- In every state in which word `i` of an access stream stands ready and `ok` holds of the group, `exec` answers a next state, in which the issuing group
is `f` of what it was. -/
def State.completesA (st : State) (i : Instr) (m : BitVec 1) (sp : AccSpec) (ok : Group → Bool) (f : Group → Group) : Prop :=
  ∀ g, ReadyA st m sp g → ok (st.accessAtIssue m g sp) = true →
    exec i st = st.endsA ((st.atIssueA m g sp).putGroup st.issuer.group (f (st.accessAtIssue m g sp))) m g sp

/-- The same for an effect on more than the issuing group. -/
def State.actsA (st : State) (i : Instr) (m : BitVec 1) (sp : AccSpec) (ok : State → Group → Prop) (F : State → Group → State) : Prop :=
  ∀ g, ReadyA st m sp g → ok (st.atIssueA m g sp) (st.accessAtIssue m g sp) →
    exec i st = st.endsA (F (st.atIssueA m g sp) (st.accessAtIssue m g sp)) m g sp

/-- In every state in which word `i` of an access stream stands ready and `bad` holds, it raises the precise trap `t`. -/
def State.trapsA (st : State) (i : Instr) (m : BitVec 1) (sp : AccSpec) (bad : State → Group → Prop) (t : Trap) : Prop :=
  ∀ g, ReadyA st m sp g → bad (st.atIssueA m g sp) (st.accessAtIssue m g sp) →
    exec i st = .next ((st.atIssueA m g sp).takeTrap st.issuer.group { trap := t, kind := .precise, acc := true, slot := 4 })

/-- The same for a trap whose instruction has an effect besides. -/
def State.trapsWithA (st : State) (i : Instr) (m : BitVec 1) (sp : AccSpec) (bad : State → Group → Prop) (t : Trap) (F : State → Group → State) : Prop :=
  ∀ g, ReadyA st m sp g → bad (st.atIssueA m g sp) (st.accessAtIssue m g sp) →
    exec i st = .next ((F (st.atIssueA m g sp) (st.accessAtIssue m g sp)).takeTrap st.issuer.group { trap := t, kind := .precise, acc := true, slot := 4 })

/-- In every state in which word `i` of an access stream stands ready and `ok` holds, `exec` answers the next state of the effect `F`; the stream has not
gone on to the next word, and stands stalled at it for the watchdog (R90). -/
def State.startsA (st : State) (i : Instr) (m : BitVec 1) (sp : AccSpec) (ok : State → Group → Prop) (F : State → Group → State) : Prop :=
  ∀ g, ReadyA st m sp g → ok (st.atIssueA m g sp) (st.accessAtIssue m g sp) → exec i st = .next ((F (st.atIssueA m g sp) (st.accessAtIssue m g sp)).stallA st.issuer.group)

/-- A condition that asks nothing. -/
def alwaysA (_ : Group) : Bool := true

/-- A condition that asks nothing. -/
def anywayA (_ : State) (_ : Group) : Prop := True

/-- What issuing a memory access of a group makes of the state (R89, R158, R159): with no guard, an access whose lines all translate, or a prefetch, joins
the memory unit with its translated lines, and a store with missing pages joins it with those lines in the spillway; a guarded one that resolves
false is discarded with its queue entries, and any other waits for its guard in the memory unit. -/
def State.accessIssued (x : State) (gid : Nat) (g : Group) (a : Access) (pops : Group → Group) (wb oob : Bool) (y : State) : Prop :=
  let k := x.checkLines (x.ctxOf g) (.stream gid true) a.esize (kindNeed a.kind).1 (kindNeed a.kind).2.1 (kindNeed a.kind).2.2 a.lines
  match a.guard with
  | none =>
    k.wait = false ∧ (((a.kind = .pref ∨ k.trap = none ∧ k.missing = []) ∧ y = (k.st.joined gid { a with lines := k.good } pops wb).flagOob gid oob) ∨
    (a.kind ≠ .pref ∧ k.trap = none ∧ k.missing ≠ [] ∧ a.returns = false ∧
      y = (k.st.joinedSpilling gid (x.ctxOf g) a pops wb k.good k.missing).flagOob gid oob))
  | some slot =>
    (∃ g', g.pair slot a.id = some (g', some false) ∧ y = (x.putGroup gid { pops g' with nextId := a.id + 1 }).flagOob gid oob) ∨
    (∃ g' r, g.pair slot a.id = some (g', r) ∧ r ≠ some false ∧
      let q := (pops g').enqueue { a with resolved := r.isSome, checked := false }
      y = (x.putGroup gid (if wb then q.reserveA { a with resolved := r.isSome, checked := false } else q)).flagOob gid oob)

/-- What queueing an engine command makes of the state (R88, R89, R170): with no guard it joins its engine's queue; with one that resolves false it is
discarded, and with any other it waits for its resolution in the queue. -/
def State.cmdIssued (x : State) (g : Group) (guard : Option Nat) (oob : Bool) (cmd : EngCmd) (put : EngCmd → Cluster → Cluster) (y : State) : Prop :=
  let gid := x.issuer.group
  match guard with
  | none => y = ((x.putGroup gid { g with nextId := cmd.id + 1 }).updCluster (gCluster gid) (put cmd)).flagOob gid oob
  | some slot =>
    (∃ g', g.pair slot cmd.id = some (g', some false) ∧ y = (x.putGroup gid { g' with nextId := cmd.id + 1 }).flagOob gid oob) ∨
    (∃ g' r, g.pair slot cmd.id = some (g', r) ∧ r ≠ some false ∧
      y = ((x.putGroup gid { g' with nextId := cmd.id + 1 }).updCluster (gCluster gid) (put { cmd with guard := some cmd.id, resolved := r.isSome })).flagOob gid oob)

/-! A kernel instruction of a Weir. -/

/-- The turn is the Weir's of a port: a packet's kernel runs there in a loaded slot, and the instruction's cost leaves it within 256 cycles (R375). -/
structure WeirReady (st : State) (cost port : Nat) (r : WeirRun) (s : WeirSlot) : Prop where
  turn : st.cursor = .weir port
  run : (mgetD st.weirs port {}).run = some r
  slot : mget (mgetD st.weirs port {}).slots r.slot = some s
  cycles : r.cyc + cost ≤ 256

/-- A kernel instruction that changes its run alone goes on to the next word (R375, R393). -/
def State.weirSets (st : State) (i : Instr) (cost : Nat) (f : WeirRun → WeirRun) : Prop :=
  ∀ port r s, WeirReady st cost port r s →
    exec i st = .next (st.updWeir port fun w => { w with run := some (f { r with cyc := r.cyc + cost }).advance })

/-- The same under a condition, for one that also changes the state. -/
def State.weirActs (st : State) (i : Instr) (cost : Nat) (ok : Nat → WeirSlot → WeirRun → Prop) (f : Nat → WeirSlot → WeirRun → State × WeirRun) : Prop :=
  ∀ port r s, WeirReady st cost port r s → ok port s { r with cyc := r.cyc + cost } →
    exec i st = .next ((f port s { r with cyc := r.cyc + cost }).1.updWeir port fun w =>
      { w with run := some (f port s { r with cyc := r.cyc + cost }).2.advance })

/-- A kernel instruction that goes to another word. -/
def State.weirJumps (st : State) (i : Instr) (ok : WeirRun → Prop) (f : WeirRun → WeirRun) : Prop :=
  ∀ port r s, WeirReady st 1 port r s → ok { r with cyc := r.cyc + 1 } →
    exec i st = .next (st.updWeir port fun w => { w with run := some (f { r with cyc := r.cyc + 1 }) })

/-- A kernel instruction that ends its kernel, with the state in which the packet has been disposed of (R375, R376). -/
def State.weirEnds (st : State) (i : Instr) (cost : Nat) (ok : WeirSlot → WeirRun → Prop) (e : WeirSlot → WNext) : Prop :=
  ∀ port r s y, WeirReady st cost port r s → ok s { r with cyc := r.cyc + cost } →
    st.endWeir port s { r with cyc := r.cyc + cost } (e s) = some y → exec i st = .next y

/-! The command queues of the control registers. -/

/-- The head general command is one of operation `op`, and it may run: it is under way, or its port holds CTLSEM with its token (R357, R364). -/
structure CtlHead (st : State) (op : Nat) (c : Cmd) : Prop where
  head : st.ctlQ.head? = some c
  op : c.ctlOp = op
  sem : c.phase ≠ 0 ∨ (st.ctlPort = c.port ∧ st.ctlToken = c.token)

/-- The head context command is one of OP `op` (R351). -/
structure CtxHead (st : State) (op : Nat) (c : Cmd) : Prop where
  head : st.ctxQ.head? = some c
  op : c.op = op

/-- The head replay command is one of OP `op` (R435). -/
structure RepHead (st : State) (op : Nat) (c : Cmd) : Prop where
  head : st.repQ.head? = some c
  op : c.op = op

/-- The head checkpoint command is one of OP `op` (R459). -/
structure CkHead (st : State) (op : Nat) (c : Cmd) : Prop where
  head : st.ckQ.head? = some c
  op : c.op = op

/-- The head Weir command's word is well formed, and its descriptor `d` is one of OPC `op` whose common fields are legal (R372, R373). -/
structure WeirHead (st : State) (op : Nat) (c : Cmd) (d : Nat) : Prop where
  head : st.weirHead = some (c, true, d)
  fields : weirBad1 d = false
  op : bits d 7 0 = op

/-! Frames: what the issue of a register instruction leaves as it was. -/

/-- Outside its own group a register instruction changes nothing but the count of issues, the counts and the noted issues of the census and, with a marked word, the pending
matrix flags (R30, R255, R446): every byte of memory, every other group and all other state stays. -/
structure KeptOutside (x y : State) (gid : Nat) : Prop where
  rest : ∃ gs cl co, y = { x with groups := gs, clusters := cl, cores := co, issueNo := x.issueNo + 1 }
  bytes : ∀ a, y.read a 1 = x.read a 1
  groups : ∀ k, k ≠ gid → mget y.groups k = mget x.groups k
  clusters : ∀ k, { y.cluster k with mflags := [] } = { x.cluster k with mflags := [] }
  cores : ∀ k, { y.core k with census := [], busy := [] } = { x.core k with census := [], busy := [] }

/-- What the issue of a word by split `slot` leaves of its group besides the V, P, S, A and D registers and the flags: MODE, tiles, guards, the other stream,
the trap registers and every other split; a load queue gives up entries only where the word names it (R35, R56). -/
structure KeptInside (x y : Group) (slot : Nat) (qs : List Nat) : Prop where
  mode : y.mode = x.mode
  tiles : y.tiles = x.tiles
  guards : y.guards = x.guards
  threads : y.present = x.present ∧ y.exited = x.exited
  access : y.apc = x.apc ∧ y.aend = x.aend ∧ y.await = x.await ∧ y.memq = x.memq ∧ y.wbA = x.wbA
  trap : y.tcause = x.tcause ∧ y.tpc = x.tpc ∧ y.tinfo = x.tinfo ∧ y.taddr = x.taddr ∧ y.tlevel = x.tlevel ∧ y.frame = x.frame
  pending : y.pend = x.pend ∧ y.entering = x.entering ∧ y.pending = x.pending
  barrier : y.syncsMask = x.syncsMask ∧ y.syncsArrived = x.syncsArrived ∧ y.syncsBroken = x.syncsBroken
  splits : ∀ k, k ≠ slot → y.splitAt k = x.splitAt k
  queues : ∀ n, n ∉ qs → y.getLq n = x.getLq n

/-- Registers of each kind are unchanged but for one of a kind. -/
def keptV (x y : Group) (d : Nat) : Prop := ∀ r, r ≠ d → y.getV r = x.getV r
def keptP (x y : Group) (d : Nat) : Prop := ∀ r, r ≠ d → y.getP r = x.getP r
def keptS (x y : Group) (d : Nat) : Prop := ∀ r, r ≠ d → y.getS r = x.getS r
def keptA (x y : Group) (d : Nat) : Prop := ∀ r, r ≠ d → y.getA r = x.getA r

/-- The frame of a word whose destination is a V register or a queue: the rest of its group's registers, and SQ and XQ where the destination is neither. -/
def State.framesV (st : State) (i : Instr) (m : BitVec 1) (sp : IssueSpec) (d : BitVec 6) : Prop :=
  ∀ g s t, ReadyC st m sp g s → exec i st = .next t → KeptOutside st t st.issuer.group ∧ ∃ g', mget t.groups st.issuer.group = some g' ∧
    KeptInside (st.groupAtIssue m g s sp) g' st.issuer.slot (lqsOf sp.srcs) ∧ keptV (st.groupAtIssue m g s sp) g' d.toNat ∧
    g'.p = (st.groupAtIssue m g s sp).p ∧ g'.s = (st.groupAtIssue m g s sp).s ∧ g'.a = (st.groupAtIssue m g s sp).a ∧ g'.d = (st.groupAtIssue m g s sp).d ∧
    (d.toNat ≠ 36 → g'.sq = (st.groupAtIssue m g s sp).sq) ∧ (d.toNat ≠ 37 → g'.xq = (st.groupAtIssue m g s sp).xq)

/-- The frame of a word whose destination is a P register. -/
def State.framesP (st : State) (i : Instr) (m : BitVec 1) (sp : IssueSpec) (d : BitVec 6) : Prop :=
  ∀ g s t, ReadyC st m sp g s → exec i st = .next t → KeptOutside st t st.issuer.group ∧ ∃ g', mget t.groups st.issuer.group = some g' ∧
    KeptInside (st.groupAtIssue m g s sp) g' st.issuer.slot (lqsOf sp.srcs) ∧ keptP (st.groupAtIssue m g s sp) g' d.toNat ∧
    g'.v = (st.groupAtIssue m g s sp).v ∧ g'.s = (st.groupAtIssue m g s sp).s ∧ g'.a = (st.groupAtIssue m g s sp).a ∧ g'.d = (st.groupAtIssue m g s sp).d ∧
    g'.stat = (st.groupAtIssue m g s sp).stat ∧ g'.sq = (st.groupAtIssue m g s sp).sq ∧ g'.xq = (st.groupAtIssue m g s sp).xq

/-- The frame of a word whose destination is an S register, or ZERO, which discards: no other register, no flag. -/
def State.framesS (st : State) (i : Instr) (m : BitVec 1) (sp : IssueSpec) (d : BitVec 6) : Prop :=
  ∀ g s t, ReadyC st m sp g s → exec i st = .next t → KeptOutside st t st.issuer.group ∧ ∃ g', mget t.groups st.issuer.group = some g' ∧
    KeptInside (st.groupAtIssue m g s sp) g' st.issuer.slot (lqsOf sp.srcs) ∧ keptS (st.groupAtIssue m g s sp) g' (d.toNat - 48) ∧
    (isZ d = true → g'.s = (st.groupAtIssue m g s sp).s) ∧
    g'.v = (st.groupAtIssue m g s sp).v ∧ g'.p = (st.groupAtIssue m g s sp).p ∧ g'.a = (st.groupAtIssue m g s sp).a ∧ g'.d = (st.groupAtIssue m g s sp).d ∧
    g'.stat = (st.groupAtIssue m g s sp).stat ∧ g'.sq = (st.groupAtIssue m g s sp).sq ∧ g'.xq = (st.groupAtIssue m g s sp).xq

/-- The frame of an access-stream word whose destination is an A register: the compute stream's part of its group, and everything outside it. -/
def State.framesA (st : State) (i : Instr) (m : BitVec 1) (sp : AccSpec) (d : Nat) : Prop :=
  ∀ g t, ReadyA st m sp g → exec i st = .next t → (∃ gs cl, t = { st with groups := gs, clusters := cl, issueNo := st.issueNo + 1 }) ∧
    (∀ a, t.read a 1 = st.read a 1) ∧ (∀ k, { t.cluster k with mflags := [] } = { st.cluster k with mflags := [] }) ∧
    (∀ k, k ≠ st.issuer.group → mget t.groups k = mget st.groups k) ∧ ∃ g', mget t.groups st.issuer.group = some g' ∧
    keptA (st.accessAtIssue m g sp) g' d ∧ g'.v = (st.accessAtIssue m g sp).v ∧ g'.p = (st.accessAtIssue m g sp).p ∧ g'.s = (st.accessAtIssue m g sp).s ∧
    g'.d = (st.accessAtIssue m g sp).d ∧ g'.mode = (st.accessAtIssue m g sp).mode ∧ g'.stat = (st.accessAtIssue m g sp).stat ∧
    g'.splits = (st.accessAtIssue m g sp).splits ∧ g'.lq = (st.accessAtIssue m g sp).lq ∧ g'.sq = (st.accessAtIssue m g sp).sq ∧ g'.xq = (st.accessAtIssue m g sp).xq ∧
    g'.tcause = (st.accessAtIssue m g sp).tcause ∧ g'.tpc = (st.accessAtIssue m g sp).tpc ∧ g'.tinfo = (st.accessAtIssue m g sp).tinfo ∧
    g'.taddr = (st.accessAtIssue m g sp).taddr ∧ g'.memq = (st.accessAtIssue m g sp).memq ∧ g'.await = (st.accessAtIssue m g sp).await

/-! Results, sub-element by sub-element. -/

/-- In every state in which word `i` stands ready and `ok` holds of the group, `exec` answers a next state in which sub-element `e` of thread `t` of V
register `d` holds `v` of its position where the thread is active and the sub-element enabled, and what it held before in every other place (R264). -/
def State.elements (st : State) (i : Instr) (m : BitVec 1) (sp : IssueSpec) (d : BitVec 6) (ok : Group → Bool) (v : Group → Nat → Nat) : Prop :=
  ∀ g s, ReadyC st m sp g s → ok (st.groupAtIssue m g s sp) = true → ∃ y g', exec i st = .next y ∧ mget y.groups st.issuer.group = some g' ∧
    ∀ t, t < 32 → ∀ e, e < 64 / (st.groupAtIssue m g s sp).et.width →
      elemAt (g'.getV d.toNat) (st.groupAtIssue m g s sp).et.width (t * (64 / (st.groupAtIssue m g s sp).et.width) + e) =
        if s.mask.getLsbD t && (st.groupAtIssue m g s sp).enabled (st.groupAtIssue m g s sp).et.width t e
        then v (st.groupAtIssue m g s sp) (t * (64 / (st.groupAtIssue m g s sp).et.width) + e)
        else elemAt ((st.groupAtIssue m g s sp).getV d.toNat) (st.groupAtIssue m g s sp).et.width (t * (64 / (st.groupAtIssue m g s sp).et.width) + e)

/-- The sub-element of a source field under MODE.ET (R33). -/
def Group.srcAt (g : Group) (a : BitVec 6) (p : Nat) : Nat := elemAt (g.src g.et.width a) g.et.width p

/-- In every state in which word `i` stands ready, `exec` answers a next state in which no flag of the group's STAT has changed (R43, R255). -/
def State.keepsFlags (st : State) (i : Instr) (m : BitVec 1) (sp : IssueSpec) (ok : Group → Bool) : Prop :=
  ∀ g s, ReadyC st m sp g s → ok (st.groupAtIssue m g s sp) = true → ∃ y g', exec i st = .next y ∧ mget y.groups st.issuer.group = some g' ∧
    g'.stat = (st.groupAtIssue m g s sp).stat

/-! A line of an access. -/

/-- A line of an access stands ready at its unit: the access is of these kinds, its guard resolved and its lines translated, the line's turn has come, and
the access is inside the log (R158, R159, R440). -/
structure LineReady (st : State) (gid id va : Nat) (kinds : AKind → Bool) (g : Group) (a : Access) (l : LineReq) : Prop where
  group : mget st.groups gid = some g
  access : g.accessOf id = some a
  inside : a.icnt ≠ 2 ^ 37
  kind : kinds a.kind = true
  resolved : a.resolved = true
  checked : a.checked = true
  line : a.lines.find? (fun l => decide (l.va = va)) = some l
  turn : st.mayPerform gid g a l = true

/-- The state in which a unit serves line `l` of access `a`: D is set in the leaf of a page that it writes, and a release has brought what it orders to its scope (R183,
R332); none where the directory must wait. -/
def State.atLine (st : State) (gid : Nat) (g : Group) (a : Access) (l : LineReq) : Option State :=
  (st.dirtied (st.ctxOf g) gid a l).map fun s => if releases a.order then s.released gid a.scope a.id else s

/-- The state once a unit has served line `l` of access `a`, which left state `y` and the access `b`: a store whose lines are all done has left the memory unit, an
atomic so done without a result has taken its acquire step and reported the poison it read, the line's place in its page's queue is free, and a
group that has nothing more to do retires (R112, R158, R184, R195, R202, R414). -/
def State.lineServed (st y : State) (gid : Nat) (g : Group) (a b : Access) (l : LineReq) : State :=
  let done := (b.lines.all fun m => m.done) && !b.returns && decide (b.kind ≠ .pref)
  let z := y.updGroup gid fun g => if done then g.dropAccess a.id else g.updAccess a.id fun _ => b
  ((if done then (z.atomDone gid a).atomEcc gid g.wg b else z).moveGone (st.moveOf gid g a l)).settle gid

/-! A step whose turn is a stream's. -/

/-- A word lies where a stream of context `c` fetches it: the page at its PC is mapped and executable, its line is to be had, and `w` is the little-endian
word there in the line as the core's instruction cache gives it; `y` is the state with the translation and the line held (R18, R28, R196, R330). -/
structure WordAt (x : State) (c gid : Nat) (acc : Bool) (pc : Word) (w : BitVec 32) (y : State) : Prop where
  range : pc.toNat < 2 ^ 52
  maps : ∃ leaf pa z d, x.accessNow c (.stream gid acc) pc.toNat .x 6 false = .ok leaf pa z ∧
    z.codeLine (gCore gid) c (c * 2 ^ 52 + lineOf pc.toNat) (lineOf pa) = (d, y) ∧ w = BitVec.ofNat 32 (d / 2 ^ (8 * (pc.toNat % 128)))

/-- Split `slot` of group `gid` may issue in state `b`: it is the group `g` (with the splits at one PC joined) and its split `s` that do; the log lets the
choice pass, which leaves state `x`; and no trap entry is due (R59, R85, R408, R423). -/
structure SplitTurn (b : State) (gid slot : Nat) (g0 g : Group) (s : Split) (x : State) : Prop where
  group : mget b.groups gid = some g0
  merged : g = if slot < 4 then g0.mergeAt slot else g0
  split : g.splitAt slot = some s
  may : b.mayIssue gid g0 false = true ∧ s.issues = true ∧ (∀ p, g0.parked = some p → p = slot) ∧
    (if g.tlevel then decide (slot = 5) else decide (slot < 4) && !g.fetchHeld) = true
  own : x.isRoot g = false
  inside : g.outside = false
  logged : ∃ z, (b.putGroup gid g).sched (b.ctxOf g0) (gCluster gid) 0 (gCore gid % 4 * 64 + gid % 128 / 2) (gid % 2) none = some z ∧
    (if slot = 5 then some z else z.sched (b.ctxOf g0) (gCluster gid) 1 (gid % 512) slot none) = some x
  turn : (x.trapTurn gid g false).isSome = true

/-- Group `gid`'s access stream may issue in state `b`; the log lets the choice pass, which leaves state `x` (R85, R408, R423). -/
structure AccessTurn (b : State) (gid : Nat) (g : Group) (x : State) : Prop where
  group : mget b.groups gid = some g
  may : b.mayIssue gid g true = true ∧ b.isRoot g = false ∧ g.await.issues = true ∧ g.spilling = false ∧ g.aend = false
  inside : g.outside = false
  logged : b.sched (b.ctxOf g) (gCluster gid) 2 (gCore gid % 4 * 4 + gid % 128 / 32) (gid % 32) none = some x
  turn : (x.trapTurn gid g true).isSome = true

end Sys2Proof.Machine
end

