-- ==== Sys2Proof/Certificates/Slice0/Obligations.lean ====
section
/-! DEFINITION. The statements for the provers: what the SZ9's instructions and the machine do, as the numbered rules say it. -/

open Sys2Proof Sys2Proof.Machine

/-- In every state in which ADD, SUB, MUL, MULH, MIN, MAX, AND, OR, XOR, ANDN, SHL, SHR, ROT, ADDC, SUBB or ABSD stands ready to issue (no trap due, held
results returned where it parks, legal operand fields, the MODE it needs, no poisoned source, its queues able to serve it), exec answers a next state
in which the destination holds, in every enabled sub-element of every active thread, the operation of R268 on the two source sub-elements. -/
def Obligations.IntegerTwoSourceCompletes : Prop :=
  ∀ (st : State) (m : BitVec 1) (d a b : BitVec 6),
    st.completes (.add m d a b) m (binSpec d a b intT2Et) always (fun g s => g.writeOut d (elem2 g s g.et.width a b (intBin g.et g.sat (· + ·)))) ∧
    st.completes (.sub m d a b) m (binSpec d a b intT2Et) always (fun g s => g.writeOut d (elem2 g s g.et.width a b (intBin g.et g.sat (· - ·)))) ∧
    st.completes (.mul m d a b) m (binSpec d a b intEt) always (fun g s => g.writeOut d (elem2 g s g.et.width a b (intBin g.et g.sat (· * ·)))) ∧
    st.completes (.mulh m d a b) m (binSpec d a b intEt) always (fun g s => g.writeOut d (elem2 g s g.et.width a b (intExact g.et fun x y => x * y / 2 ^ g.et.width))) ∧
    st.completes (.min m d a b) m (binSpec d a b intT2Et) always (fun g s => g.writeOut d (elem2 g s g.et.width a b (intExact g.et min))) ∧
    st.completes (.max m d a b) m (binSpec d a b intT2Et) always (fun g s => g.writeOut d (elem2 g s g.et.width a b (intExact g.et max))) ∧
    st.completes (.and m d a b) m (binSpec d a b intEt) always (fun g s => g.writeOut d (elem2 g s g.et.width a b (bitBin g.et (· &&& ·)))) ∧
    st.completes (.or m d a b) m (binSpec d a b intEt) always (fun g s => g.writeOut d (elem2 g s g.et.width a b (bitBin g.et (· ||| ·)))) ∧
    st.completes (.xor m d a b) m (binSpec d a b intEt) always (fun g s => g.writeOut d (elem2 g s g.et.width a b (bitBin g.et (· ^^^ ·)))) ∧
    st.completes (.andn m d a b) m (binSpec d a b intEt) always (fun g s => g.writeOut d (elem2 g s g.et.width a b (bitBin g.et fun x y => x ^^^ (x &&& y)))) ∧
    st.completes (.shl m d a b) m (binSpec d a b intEt) always (fun g s => g.writeOut d (elem2 g s g.et.width a b (shlRes g.et g.sat))) ∧
    st.completes (.shr m d a b) m (binSpec d a b intEt) always (fun g s => g.writeOut d (elem2 g s g.et.width a b (shrRes g.et))) ∧
    st.completes (.rot m d a b) m (binSpec d a b intEt) always (fun g s => g.writeOut d (elem2 g s g.et.width a b (rotRes g.et))) ∧
    st.completes (.addc m d a b) m (binSpec d a b intEt) always (fun g s => g.writeOut d (elem2 g s g.et.width a b (bitBin g.et fun x y => (x + y) / 2 ^ g.et.width))) ∧
    st.completes (.subb m d a b) m (binSpec d a b intEt) always (fun g s => g.writeOut d (elem2 g s g.et.width a b (bitBin g.et fun x y => if x < y then 1 else 0))) ∧
    st.completes (.absd m d a b) m (binSpec d a b intEt) always (fun g s => g.writeOut d (elem2 g s g.et.width a b (intBin g.et g.sat fun x y => ((x - y).natAbs : Int))))

/-- In every state in which NEG, ABS, NOT, CLZ, CTZ, POPC, BREV, MAD, BFE, BFI, ADDI, SHI or LIT stands ready to issue, exec answers a next state whose
destination holds the results of R269 to R273. -/
def Obligations.IntegerOneAndThreeSourceComplete : Prop :=
  ∀ (st : State) (m : BitVec 1) (d a b c : BitVec 6) (i : BitVec 12) (k : BitVec 2) (n : BitVec 6) (h : BitVec 2) (l : BitVec 16),
    st.completes (.neg m d a) m (unSpec d a intT2Et) always (fun g s => g.writeOut d (elem1 g s g.et.width a (fun x => intBin g.et g.sat (fun v _ => -v) x 0))) ∧
    st.completes (.abs m d a) m (unSpec d a intT2Et) always (fun g s => g.writeOut d (elem1 g s g.et.width a (fun x => intBin g.et g.sat (fun v _ => (v.natAbs : Int)) x 0))) ∧
    st.completes (.not m d a) m (unSpec d a intEt) always (fun g s => g.writeOut d (elem1 g s g.et.width a (fun x => ⟨2 ^ g.et.width - 1 - x, 0#8⟩))) ∧
    st.completes (.clz m d a) m (unSpec d a intEt) always (fun g s => g.writeOut d (elem1 g s g.et.width a (fun x => ⟨clz g.et.width x % 2 ^ g.et.width, 0#8⟩))) ∧
    st.completes (.ctz m d a) m (unSpec d a intEt) always (fun g s => g.writeOut d (elem1 g s g.et.width a (fun x => ⟨ctz g.et.width x % 2 ^ g.et.width, 0#8⟩))) ∧
    st.completes (.popc m d a) m (unSpec d a intEt) always (fun g s => g.writeOut d (elem1 g s g.et.width a (fun x => ⟨popc g.et.width x % 2 ^ g.et.width, 0#8⟩))) ∧
    st.completes (.brev m d a) m (unSpec d a intEt) always (fun g s => g.writeOut d (elem1 g s g.et.width a (fun x => ⟨brevN g.et.width x, 0#8⟩))) ∧
    st.completes (.mad m d a b c) m { legal := dstOk d && srcOk a && srcOk b && srcOk c, srcs := [a, b, c], dst := some d, mode := intEt } always (fun g s => g.writeOut d (elem3 g s g.et.width a b c fun x y z => storeInt g.et g.sat ((readInt g.et x).1 * (readInt g.et y).1 + (readInt g.et z).1))) ∧
    st.completes (.bfe m d a b c) m { legal := dstOk d && srcOk a && srcOk b && srcOk c, srcs := [a, b, c], dst := some d, mode := fun g => g.et.isWordInt } always (fun g s => g.writeOut d (elem3 g s g.et.width a b c fun x y z =>
      let f := fieldAt g.et.width y z
      ⟨if f.2 = 0 then 0 else if g.et.isN then x / 2 ^ f.1 % 2 ^ f.2 else low g.et.width (sgn f.2 (x / 2 ^ f.1 % 2 ^ f.2)), 0#8⟩)) ∧
    st.completes (.bfi m d a b c) m { legal := isV d && srcOk a && srcOk b && srcOk c, srcs := [d, a, b, c], dst := some d, mode := fun g => g.et.isWordInt } always
      (fun g s => g.writeOut d (outOf g.et.width (lanesOf s.mask (64 / g.et.width) (g.enabled g.et.width) fun t e =>
        let p := t * (64 / g.et.width) + e
        let f := fieldAt g.et.width (elemAt (g.src g.et.width b) g.et.width p) (elemAt (g.src g.et.width c) g.et.width p)
        let o := elemAt (g.src g.et.width d) g.et.width p
        ⟨o - o / 2 ^ f.1 % 2 ^ f.2 * 2 ^ f.1 + elemAt (g.src g.et.width a) g.et.width p % 2 ^ f.2 * 2 ^ f.1, 0#8⟩))) ∧
    st.completes (.addi m d a i) m (unSpec d a intEt) always (fun g s => g.writeOut d (elem1 g s g.et.width a fun x => storeInt g.et g.sat ((readInt g.et x).1 + sgn 12 i.toNat))) ∧
    st.completes (.shi m d a k n) m { unSpec d a intEt with legal := dstOk d && srcOk a && decide (k ≠ 3#2), fits := fun g => decide (n.toNat < g.et.width) } always
      (fun g s => g.writeOut d (elem1 g s g.et.width a fun x =>
        if k = 0#2 then shlRes g.et g.sat x n.toNat else if k = 1#2 then shrRes g.et x n.toNat else rotRes g.et x n.toNat)) ∧
    st.completes (.lit m d h l) m { guarded := false, legal := if h = 0#2 then dstOk d else isV d, srcs := if h = 0#2 then [] else [d], dst := some d } always
      (fun g s => g.writeOut d (outThreads s.mask fun t => litInto (laneAt (g.src 64 d) t).toNat h.toNat l))

/-- In every state in which CMP, SEL, PAND, POR, PXOR, PNOT, PMOV, PSET, PGET, MOV, BCST, VTOS or STOV stands ready to issue, exec answers a next state
whose P, V or S destination holds the results of R274 to R277. -/
def Obligations.CompareSelectMoveComplete : Prop :=
  ∀ (st : State) (m : BitVec 1) (d a b c : BitVec 6),
    st.completes (.cmp m d a b c) m { legal := lt8 d && srcOk a && srcOk b && decide (c.toNat < 8), srcs := [a, b], mode := fun g => if c.toNat < 6 then g.et.isWordInt || g.et.isFp else g.et.isFp } always
      (fun g s => let r := cmpOut g s a b fun x y => if g.et.isFp then cmpF c.toNat (readF (fmtOf g.et) x) (readF (fmtOf g.et) y)
          else (cmpI c.toNat (readInt g.et x).1 (readInt g.et y).1, 0#8)
        (g.putP d.toNat r.1 r.2.1).raise r.2.2) ∧
    st.completes (.sel m d a b c) m { legal := dstOk d && srcOk a && srcOk b && lt8 c, srcs := [a, b], dst := some d, pregs := [c.toNat] } always
      (fun g s => g.writeOut d (outOf g.et.width (lanesOf s.mask (64 / g.et.width) (g.enabled g.et.width) fun t e =>
        ⟨if (g.getP c.toNat).getLsbD (8 * t + e * g.et.width / 8) then elemAt (g.src g.et.width a) g.et.width (t * (64 / g.et.width) + e)
          else elemAt (g.src g.et.width b) g.et.width (t * (64 / g.et.width) + e), 0#8⟩))) ∧
    st.completes (.pand m d a b) m { guarded := false, legal := lt8 d && lt8 a && lt8 b, pregs := [a.toNat, b.toNat] } always
      (fun g s => g.putP d.toNat (g.getP a.toNat &&& g.getP b.toNat) (pMaskOf s.mask)) ∧
    st.completes (.por m d a b) m { guarded := false, legal := lt8 d && lt8 a && lt8 b, pregs := [a.toNat, b.toNat] } always
      (fun g s => g.putP d.toNat (g.getP a.toNat ||| g.getP b.toNat) (pMaskOf s.mask)) ∧
    st.completes (.pxor m d a b) m { guarded := false, legal := lt8 d && lt8 a && lt8 b, pregs := [a.toNat, b.toNat] } always
      (fun g s => g.putP d.toNat (g.getP a.toNat ^^^ g.getP b.toNat) (pMaskOf s.mask)) ∧
    st.completes (.pnot m d a) m { guarded := false, legal := lt8 d && lt8 a, pregs := [a.toNat] } always (fun g s => g.putP d.toNat (~~~(g.getP a.toNat)) (pMaskOf s.mask)) ∧
    st.completes (.pmov m d a b) m { guarded := false, legal := lt8 d && lt8 a && lt8 b, pregs := [a.toNat] } always
      (fun g s => g.putP d.toNat (BitVec.ofNat 256 (packN 8 ((List.range 32).map fun t => if (g.getP a.toNat).getLsbD (8 * t + b.toNat) then 255 else 0))) (pMaskOf s.mask)) ∧
    st.completes (.pset m d a) m { guarded := false, legal := lt8 d && srcOk a, srcs := [a] } always
      (fun g s => g.putP d.toNat (BitVec.ofNat 256 (packN 8 ((List.range 32).map fun t => (laneAt (g.src 64 a) t).toNat % 256))) (pMaskOf s.mask)) ∧
    st.completes (.pget m d a) m { guarded := false, legal := dstOk d && lt8 a, dst := some d, pregs := [a.toNat] } always
      (fun g s => g.writeOut d (outThreads s.mask fun t => ((g.getP a.toNat).extractLsb' (8 * t) 8).toNat)) ∧
    st.completes (.mov m d a) m (unSpec d a fun _ => true) always (fun g s => g.writeOut d (elem1 g s g.et.width a fun x => ⟨x, 0#8⟩)) ∧
    st.completes (.bcst m d a b) m { unSpec d a (fun _ => true) with fits := fun g => decide (b.toNat < 64 / g.et.width) } always
      (fun g s => g.writeOut d (outOf g.et.width (lanesOf s.mask (64 / g.et.width) (g.enabled g.et.width) fun t _ =>
        ⟨elemAt (g.src g.et.width a) g.et.width (t * (64 / g.et.width) + b.toNat), 0#8⟩))) ∧
    st.completes (.vtos m d a b) m { guarded := false, legal := isS d && srcOk a && decide (b.toNat < 32), srcs := [a], lanes := fun g _ _ => g.present &&& 1#32 <<< b.toNat } always
      (fun g _ => g.putS (d.toNat - 48) (if g.present.getLsbD b.toNat then laneAt (g.src g.et.width a) b.toNat else 0)) ∧
    st.completes (.stov m d a b) m { guarded := false, legal := isV d && isSZ a && decide (b.toNat < 32), srcs := [a] } always
      (fun g s => g.writeOut d (outThreads (s.mask &&& (1#32 <<< b.toNat)) fun _ => (g.srcS a).toNat))

/-- In every state in which FADD, FSUB, FMUL, FMIN, FMAX, FCPYS, FABS, FNEG, FRND, FCLASS, FMA, FMS, FNMA or FNMS stands ready to issue, exec answers a
next state whose destination holds the results of R278 to R280, each rounded once by MODE.RM. -/
def Obligations.FloatingPointCompletes : Prop :=
  ∀ (st : State) (m : BitVec 1) (d a b c : BitVec 6),
    st.completes (.fadd m d a b) m (binSpec d a b fpEt) always
      (fun g s => g.writeOut d (elem2 g s g.et.width a b fun x y => addF (fmtOf g.et) g.rm (readF (fmtOf g.et) x) (readF (fmtOf g.et) y))) ∧
    st.completes (.fsub m d a b) m (binSpec d a b fpEt) always
      (fun g s => g.writeOut d (elem2 g s g.et.width a b fun x y => addF (fmtOf g.et) g.rm (readF (fmtOf g.et) x) (readF (fmtOf g.et) y).flip)) ∧
    st.completes (.fmul m d a b) m (binSpec d a b fpEt) always
      (fun g s => g.writeOut d (elem2 g s g.et.width a b fun x y => mulF (fmtOf g.et) g.rm (readF (fmtOf g.et) x) (readF (fmtOf g.et) y))) ∧
    st.completes (.fmin m d a b) m (binSpec d a b fpEt) always
      (fun g s => g.writeOut d (elem2 g s g.et.width a b fun x y => minmaxF (fmtOf g.et) false (readF (fmtOf g.et) x) (readF (fmtOf g.et) y))) ∧
    st.completes (.fmax m d a b) m (binSpec d a b fpEt) always
      (fun g s => g.writeOut d (elem2 g s g.et.width a b fun x y => minmaxF (fmtOf g.et) true (readF (fmtOf g.et) x) (readF (fmtOf g.et) y))) ∧
    st.completes (.fcpys m d a b) m (binSpec d a b fpEt) always
      (fun g s => g.writeOut d (elem2 g s g.et.width a b fun x y => cpysF (fmtOf g.et) x y)) ∧
    st.completes (.fabs m d a) m (unSpec d a fpEt) always
      (fun g s => g.writeOut d (elem1 g s g.et.width a fun x => ⟨encF (fmtOf g.et) (if (readF (fmtOf g.et) x).neg then (readF (fmtOf g.et) x).flip else (readF (fmtOf g.et) x)), ivSig [(readF (fmtOf g.et) x)]⟩)) ∧
    st.completes (.fneg m d a) m (unSpec d a fpEt) always
      (fun g s => g.writeOut d (elem1 g s g.et.width a fun x => ⟨encF (fmtOf g.et) (readF (fmtOf g.et) x).flip, ivSig [(readF (fmtOf g.et) x)]⟩)) ∧
    st.completes (.frnd m d a) m (unSpec d a fpEt) always
      (fun g s => g.writeOut d (elem1 g s g.et.width a fun x => rndF (fmtOf g.et) g.rm (readF (fmtOf g.et) x))) ∧
    st.completes (.fclass m d a) m (unSpec d a fpEt) always
      (fun g s => g.writeOut d (elem1 g s g.et.width a fun x => ⟨classF (fmtOf g.et) (readF (fmtOf g.et) x), 0#8⟩)) ∧
    st.completes (.fma m d a b c) m { legal := dstOk d && srcOk a && srcOk b && srcOk c, srcs := [a, b, c], dst := some d, mode := fpEt } always
      (fun g s => g.writeOut d (elem3 g s g.et.width a b c fun x y z => fmaF (fmtOf g.et) g.rm (readF (fmtOf g.et) x) (readF (fmtOf g.et) y) (readF (fmtOf g.et) z))) ∧
    st.completes (.fms m d a b c) m { legal := dstOk d && srcOk a && srcOk b && srcOk c, srcs := [a, b, c], dst := some d, mode := fpEt } always
      (fun g s => g.writeOut d (elem3 g s g.et.width a b c fun x y z => fmaF (fmtOf g.et) g.rm (readF (fmtOf g.et) x) (readF (fmtOf g.et) y) (readF (fmtOf g.et) z).flip)) ∧
    st.completes (.fnma m d a b c) m { legal := dstOk d && srcOk a && srcOk b && srcOk c, srcs := [a, b, c], dst := some d, mode := fpEt } always
      (fun g s => g.writeOut d (elem3 g s g.et.width a b c fun x y z => fmaF (fmtOf g.et) g.rm (readF (fmtOf g.et) x).flip (readF (fmtOf g.et) y) (readF (fmtOf g.et) z))) ∧
    st.completes (.fnms m d a b c) m { legal := dstOk d && srcOk a && srcOk b && srcOk c, srcs := [a, b, c], dst := some d, mode := fpEt } always
      (fun g s => g.writeOut d (elem3 g s g.et.width a b c fun x y z => fmaF (fmtOf g.et) g.rm (readF (fmtOf g.et) x).flip (readF (fmtOf g.et) y) (readF (fmtOf g.et) z).flip))

/-- In every state in which FRCP, FRSQ, FSQRT, FEXP2, FLOG2, FSIN, FCOS, FTANH or FDIV stands ready to issue, exec answers a next state in which the
write-back buffer holds one more entry, for the destination, with the element results of R281. -/
def Obligations.SfuResultsAreHeld : Prop :=
  ∀ (st : State) (m : BitVec 1) (d a b : BitVec 6),
    st.completes (.frcp m d a) m (sfuSpec d a) always
      (fun g s => g.holdOut d (elem1 g s g.et.width a fun x => divF (fmtOf g.et) g.rm (.fin false 1 0) (readF (fmtOf g.et) x))) ∧
    st.completes (.frsq m d a) m (sfuSpec d a) always
      (fun g s => g.holdOut d (elem1 g s g.et.width a fun x => rsqF (fmtOf g.et) g.rm (readF (fmtOf g.et) x))) ∧
    st.completes (.fsqrt m d a) m (sfuSpec d a) always
      (fun g s => g.holdOut d (elem1 g s g.et.width a fun x => sqrtF (fmtOf g.et) g.rm (readF (fmtOf g.et) x))) ∧
    st.completes (.fexp2 m d a) m (sfuSpec d a) always
      (fun g s => g.holdOut d (elem1 g s g.et.width a fun x => exp2F (fmtOf g.et) g.rm (readF (fmtOf g.et) x))) ∧
    st.completes (.flog2 m d a) m (sfuSpec d a) always
      (fun g s => g.holdOut d (elem1 g s g.et.width a fun x => log2F (fmtOf g.et) g.rm (readF (fmtOf g.et) x))) ∧
    st.completes (.fsin m d a) m (sfuSpec d a) always
      (fun g s => g.holdOut d (elem1 g s g.et.width a fun x => sincosF (fmtOf g.et) g.rm false (readF (fmtOf g.et) x))) ∧
    st.completes (.fcos m d a) m (sfuSpec d a) always
      (fun g s => g.holdOut d (elem1 g s g.et.width a fun x => sincosF (fmtOf g.et) g.rm true (readF (fmtOf g.et) x))) ∧
    st.completes (.ftanh m d a) m (sfuSpec d a) always
      (fun g s => g.holdOut d (elem1 g s g.et.width a fun x => tanhF (fmtOf g.et) g.rm (readF (fmtOf g.et) x))) ∧
    st.completes (.fdiv m d a b) m { sfuSpec d a with legal := sfuDst d && srcOk a && srcOk b, srcs := [a, b] } always
      (fun g s => g.holdOut d (elem2 g s g.et.width a b fun x y => divF (fmtOf g.et) g.rm (readF (fmtOf g.et) x) (readF (fmtOf g.et) y)))

/-- In every state in which CVT, CVTS, PACK, UNPK, QNT or DQNT stands ready to issue, exec answers a next state: CVT, CVTS, PACK and UNPK have written the
converted elements of R282 and R283, and QNT and DQNT the blocks of R284 and R285. -/
def Obligations.ConversionsComplete : Prop :=
  ∀ (st : State) (m : BitVec 1) (d a b : BitVec 6) (q : BitVec 2) (k : BitVec 3),
    st.completes (.cvt m d a) m (unSpec d a fun g => decide (g.et.width = g.et2.width)) always
      (fun g s => g.writeOut d (elem1 g s g.et.width a fun x => convElem g.et g.et2 g.rm g.sat 0 x)) ∧
    st.completes (.cvts m d a b) m { unSpec d a (fun g => decide (g.et.width = g.et2.width) && (g.et.isFloat || g.et2.isFloat)) with
        legal := dstOk d && srcOk a && isSZ b, srcs := [a, b] } always
      (fun g s => g.writeOut d (elem1 g s g.et.width a fun x => convElem g.et g.et2 g.rm g.sat (sgn 12 (g.srcS b).toNat) x)) ∧
    st.completes (.pack m d a b) m { legal := isV d && srcOk a, srcs := [a, d], dst := some d, mode := fun g => decide (g.et2.width < g.et.width), fits := fun g => decide (b.toNat < g.et2.k / g.et.k), gwidth := fun g => g.et2.width } always
      (fun g s => g.writeOut d (outOf g.et2.width (lanesOf s.mask g.et2.k
        (fun t i => decide (b.toNat * g.et.k ≤ i) && decide (i < b.toNat * g.et.k + g.et.k) && g.enabled g.et2.width t i)
        fun t i => convElem g.et g.et2 g.rm g.sat 0 (elemAt (g.src g.et.width a) g.et.width (t * g.et.k + (i - b.toNat * g.et.k)))))) ∧
    st.completes (.unpk m d a b) m { unSpec d a (fun g => decide (g.et.width < g.et2.width)) with
        fits := fun g => decide (b.toNat < g.et.k / g.et2.k), gwidth := fun g => g.et2.width } always
      (fun g s => g.writeOut d (outOf g.et2.width (lanesOf s.mask g.et2.k (g.enabled g.et2.width)
        fun t i => convElem g.et g.et2 g.rm g.sat 0 (elemAt (g.src g.et.width a) g.et.width (t * g.et.k + (b.toNat * g.et2.k + i)))))) ∧
    st.completes (.qnt m d a b q k) m { legal := qntOk d a b k, srcs := [a], more := fun g => b :: blockRegs a (blockLen k / g.et.k), fits := fun g => qntShape d a b (blockLen k) g.et.k g.et2.k, mode := fun g => g.et.isFp && (match g.et2 with
        | .i8 | .f8n | .f8w | .i4 | .t2 => true
        | _ => false) }
      always (qntResult d a b q k) ∧
    st.completes (.dqnt m d a b q k) m { legal := qntOk d a b k, srcs := [a, b], more := fun g => blockRegs a (blockLen k / g.et.k), fits := fun g => qntShape d a b (blockLen k) g.et.k g.et2.k, gwidth := fun g => g.et2.width, mode := fun g => g.et2.isFp && (match g.et with
        | .i8 | .f8n | .f8w | .i4 | .t2 => true
        | _ => false) }
      always (dqntResult d a b q k)

/-- In every state in which SADD, SSUB, SMUL, SMULH, SMIN, SMAX, SAND, SOR, SXOR, SANDN, SSHL, SSHR or SROT stands ready to issue, exec answers a next
state in which Sd holds the 64-bit operation of R286 on Sa and Sb (a ZERO source reads 0, a ZERO destination discards the result), whatever MODE
holds. -/
def Obligations.UniformCompletes : Prop :=
  ∀ (st : State) (m : BitVec 1) (d a b : BitVec 6),
    st.completes (.sadd m d a b) m (sopSpec d a b) always (fun g _ => g.putSZ d (let x := g.srcS a; let y := g.srcS b; x + y)) ∧
    st.completes (.ssub m d a b) m (sopSpec d a b) always (fun g _ => g.putSZ d (let x := g.srcS a; let y := g.srcS b; x - y)) ∧
    st.completes (.smul m d a b) m (sopSpec d a b) always (fun g _ => g.putSZ d (let x := g.srcS a; let y := g.srcS b; x * y)) ∧
    st.completes (.smulh m d a b) m (sopSpec d a b) always (fun g _ => g.putSZ d (let x := g.srcS a; let y := g.srcS b; BitVec.ofInt 64 (x.toInt * y.toInt / 2 ^ 64))) ∧
    st.completes (.smin m d a b) m (sopSpec d a b) always (fun g _ => g.putSZ d (let x := g.srcS a; let y := g.srcS b; if x.toInt ≤ y.toInt then x else y)) ∧
    st.completes (.smax m d a b) m (sopSpec d a b) always (fun g _ => g.putSZ d (let x := g.srcS a; let y := g.srcS b; if x.toInt ≤ y.toInt then y else x)) ∧
    st.completes (.sand m d a b) m (sopSpec d a b) always (fun g _ => g.putSZ d (let x := g.srcS a; let y := g.srcS b; x &&& y)) ∧
    st.completes (.sor m d a b) m (sopSpec d a b) always (fun g _ => g.putSZ d (let x := g.srcS a; let y := g.srcS b; x ||| y)) ∧
    st.completes (.sxor m d a b) m (sopSpec d a b) always (fun g _ => g.putSZ d (let x := g.srcS a; let y := g.srcS b; x ^^^ y)) ∧
    st.completes (.sandn m d a b) m (sopSpec d a b) always (fun g _ => g.putSZ d (let x := g.srcS a; let y := g.srcS b; x &&& ~~~y)) ∧
    st.completes (.sshl m d a b) m (sopSpec d a b) always (fun g _ => g.putSZ d (let x := g.srcS a; let y := g.srcS b; x <<< (y.toNat % 64))) ∧
    st.completes (.sshr m d a b) m (sopSpec d a b) always (fun g _ => g.putSZ d (let x := g.srcS a; let y := g.srcS b; x.sshiftRight (y.toNat % 64))) ∧
    st.completes (.srot m d a b) m (sopSpec d a b) always (fun g _ => g.putSZ d (let x := g.srcS a; let y := g.srcS b; x.rotateLeft (y.toNat % 64)))

/-- In every state in which SADDI or SLIT stands ready to issue, exec answers a next state in which Sd holds Sa plus the sign-extended 12-bit immediate,
or the 16-bit literal placed as R273 places it (position 0 sign-extends it over the register, positions 1 to 3 replace one quarter). -/
def Obligations.UniformLiteralsComplete : Prop :=
  ∀ (st : State) (m : BitVec 1) (d a : BitVec 6) (i : BitVec 12) (h : BitVec 2) (l : BitVec 16),
    st.completes (.saddi m d a i) m (sopSpec d a a) always (fun g _ => g.putSZ d (g.srcS a + i.signExtend 64)) ∧
    st.completes (.slit m d 0 l) m { sopSpec d d d with srcs := [] } always (fun g _ => g.putSZ d (BitVec.ofNat 64 (l.signExtend 64).toNat)) ∧
    (h ≠ 0#2 → st.completes (.slit m d h l) m { sopSpec d d d with srcs := [d] } always (fun g _ => g.putSZ d (BitVec.ofNat 64 (litInto (g.srcS d).toNat h.toNat l))))

/-- In every state in which XCHX, XCHU, XCHD, XCHXK, XCHUK, XCHDK, XCHI or XBC stands ready to issue, exec answers a next state in which every enabled
position of every active thread has taken (read_pos, R289) the value of the position R291 to R293 names, written at once, or held in the write-back
buffer where some thread reads outside its aligned block of four (R30). -/
def Obligations.ExchangesComplete : Prop :=
  ∀ (st : State) (m : BitVec 1) (d a b : BitVec 6),
    st.completes (.xchx m d a b) m (xchSpec (isSZ b) d a [a, b] (fun _ => true) (distAt 0 b)) always (fun g s => xchInto d (xchLanes g s a (distAt 0 b g)) g) ∧
    st.completes (.xchu m d a b) m (xchSpec (isSZ b) d a [a, b] (fun _ => true) (distAt 1 b)) always (fun g s => xchInto d (xchLanes g s a (distAt 1 b g)) g) ∧
    st.completes (.xchd m d a b) m (xchSpec (isSZ b) d a [a, b] (fun _ => true) (distAt 2 b)) always (fun g s => xchInto d (xchLanes g s a (distAt 2 b g)) g) ∧
    st.completes (.xchxk m d a b) m (xchSpec (true) d a [a] (fun _ => true) (atDist 0 b.toNat)) always (fun g s => xchInto d (xchLanes g s a (atDist 0 b.toNat g)) g) ∧
    st.completes (.xchuk m d a b) m (xchSpec (true) d a [a] (fun _ => true) (atDist 1 b.toNat)) always (fun g s => xchInto d (xchLanes g s a (atDist 1 b.toNat g)) g) ∧
    st.completes (.xchdk m d a b) m (xchSpec (true) d a [a] (fun _ => true) (atDist 2 b.toNat)) always (fun g s => xchInto d (xchLanes g s a (atDist 2 b.toNat g)) g) ∧
    st.completes (.xchi m d a b) m (xchSpec (srcOk b) d a [a, b] (fun g => decide (16 ≤ g.et.width)) (ownIndex b)) always (fun g s => xchInto d (xchLanes g s a (ownIndex b g)) g) ∧
    st.completes (.xbc m d a b) m (xchSpec (isSZ b) d a [a, b] (fun _ => true) (oneIndex b)) always (fun g s => xchInto d (xchLanes g s a (oneIndex b g)) g)

/-- In every state in which VOTE.ANY, ALL, EQ, BALLOT, ELECT or MATCH stands ready to issue, exec answers a next state in which every active thread's
destination holds the vote's 64-bit result. -/
def Obligations.VotesComplete : Prop :=
  ∀ (st : State) (m : BitVec 1) (d a b : BitVec 6),
    st.completes (.voteAny m d a b) m (voteSpec d a b) always (fun g s => g.writeOut d (outThreads s.mask fun _ =>
      let v := ballot g s a.toNat b.toNat
      if v = 0 then 0 else 1)) ∧
    st.completes (.voteAll m d a b) m (voteSpec d a b) always (fun g s => g.writeOut d (outThreads s.mask fun _ =>
      let v := ballot g s a.toNat b.toNat
      if v = s.mask.toNat then 1 else 0)) ∧
    st.completes (.voteEq m d a b) m (voteSpec d a b) always (fun g s => g.writeOut d (outThreads s.mask fun _ =>
      let v := ballot g s a.toNat b.toNat
      if v = 0 ∨ v = s.mask.toNat then 1 else 0)) ∧
    st.completes (.voteBallot m d a b) m (voteSpec d a b) always (fun g s => g.writeOut d (outThreads s.mask fun _ =>
      let v := ballot g s a.toNat b.toNat
      v)) ∧
    st.completes (.voteElect m d) m { guarded := false, legal := dstOk d, dst := some d } always (fun g s => g.writeOut d (outThreads s.mask fun t => if lowThread s.mask = some t then 1 else 0)) ∧
    st.completes (.voteMatch m d a) m { guarded := false, legal := dstOk d && srcOk a, srcs := [a], dst := some d } always (fun g s => g.writeOut d (outThreads s.mask fun t =>
      packN 1 ((List.range 32).map fun u => if s.mask.getLsbD u && laneAt (g.src 64 a) u == laneAt (g.src 64 a) t then 1 else 0)))

/-- In every state in which REDU, SCAN or CPT stands ready to issue, exec answers a next state in which every enabled position holds the reduction of
R257, its inclusive or exclusive prefix, or the packed selection, written at once, or held where the participating threads lie in more than one
aligned block of four. -/
def Obligations.ReductionsComplete : Prop :=
  ∀ (st : State) (m : BitVec 1) (d a b f : BitVec 6),
    st.completes (.redu m d a b f) m (redSpec d a b (decide (f.toNat ≤ 8)) (fun g => if f.toNat < 6 then intEt g else g.et.isFp) redAsync) always
      (fun g s => let r := reduce (redOp g f.toNat) (redVals g s g.et.width a b)
        let o := withFlags (outOf g.et.width (lanesOf s.mask (64 / g.et.width) (g.enabled g.et.width) fun _ _ => ⟨r.bits, 0#8⟩)) s.mask r.flags
        if redAsync g s then g.holdOut d o else g.writeOut d o) ∧
    st.completes (.scan m d a b f) m (redSpec d a b (decide (f.toNat ≤ 5)) (fun g => intEt g || g.et.isFp) redAsync) always
      (fun g s => let r := scanAll (scanFn g f.toNat) (redVals g s g.et.width a b)
        let first := scanAlone g ((r.1.getD 0 []).getD 0 0)
        let ident := scanAlone g ((g.srcS b).toNat % 2 ^ g.et.width)
        let v := fun (p : Nat) => if p = 0 then first.bits else (r.1.getD (p / (64 / g.et.width)) []).getD (p % (64 / g.et.width)) 0
        let o := withFlags (outOf g.et.width (lanesOf s.mask (64 / g.et.width) (g.enabled g.et.width) fun t i =>
          let p := t * (64 / g.et.width) + i
          ⟨if f.toNat % 2 = 0 then v p else if p = 0 then ident.bits else v (p - 1), 0#8⟩)) s.mask
            (r.2 ||| first.flags ||| (if f.toNat % 2 = 0 then 0#8 else ident.flags))
        if redAsync g s then g.holdOut d o else g.writeOut d o) ∧
    st.completes (.cpt m d a b) m (redSpec d a b true (fun _ => true) fun g s => cptAsync g s a) always
      (fun g s => let o := outOf g.et.width (lanesOf s.mask (64 / g.et.width) (fun _ _ => true) fun t i =>
          let j := ((cptSlots g s).filter fun p => decide (p < t * (64 / g.et.width) + i)).length
          ⟨((cptVals g s a).map Prod.fst).getD j ((g.srcS b).toNat % 2 ^ g.et.width), 0#8⟩)
        if cptAsync g s a then g.holdOut d o else g.writeOut d o)

/-- In every state in which it stands ready to issue: NOP changes nothing of its own; BRA goes to its target; BRC to its target where its condition holds
of the signed S register, else to the next word; BRD (not in a handler) to its target where every active thread takes it, to the next word where none
does, and else divides the split with the taken side first, where the table and pending list have room; JMPI to an S register's aligned address below
2^52, or, not in a handler, divides by the distinct aligned targets of a V register; CALL writes pc + 4 to V31 of the active threads and goes to its
target; RET goes to the one V31 value of its threads. Every target is below 2^52. -/
def Obligations.BranchesComplete : Prop :=
  ∀ (st : State) (m : BitVec 1) (a : BitVec 6) (r : BitVec 4) (c : BitVec 3) (p : BitVec 3) (n : BitVec 1),
    st.acts (.nop m) m (ctlSpec true) anyway (fun x _ _ => x) ∧
    (∀ o : BitVec 24, st.acts (.bra m o) m (pcSpec true) (fun _ _ s => (s.pc + 4 * o.signExtend 64).toNat < 2 ^ 52) (fun x _ s => x.goto (s.pc + 4 * o.signExtend 64))) ∧
    (∀ o : BitVec 17, st.acts (.brc m r c o) m { pcSpec (decide (c.toNat < 6)) with srcs := [BitVec.ofNat 6 (48 + r.toNat)] }
      (fun _ g s => brcCond c.toNat (g.getS r.toNat).toInt = true → (s.pc + 4 * o.signExtend 64).toNat < 2 ^ 52) (fun x g s => x.goto (if brcCond c.toNat (g.getS r.toNat).toInt then (s.pc + 4 * o.signExtend 64) else s.pc + 4))) ∧
    (∀ o : BitVec 20, st.acts (.brd m p n o) m { pcSpec true with pregs := [p.toNat] } (fun x g s => x.issuer.slot ≠ 5 ∧ (maskOf s.mask fun t => (g.getP p.toNat).getLsbD (8 * t) != (n == 1#1)) = s.mask ∧ s.mask ≠ 0 ∧ (s.pc + 4 * o.signExtend 64).toNat < 2 ^ 52) (fun x _ s => x.goto (s.pc + 4 * o.signExtend 64))) ∧
    (∀ o : BitVec 20, st.acts (.brd m p n o) m { pcSpec true with pregs := [p.toNat] } (fun x g s => x.issuer.slot ≠ 5 ∧ (maskOf s.mask fun t => (g.getP p.toNat).getLsbD (8 * t) != (n == 1#1)) = 0) (fun x _ s => x.goto (s.pc + 4))) ∧
    (∀ o : BitVec 20, ∀ g', st.acts (.brd m p n o) m { pcSpec true with pregs := [p.toNat] }
      (fun x g s => x.issuer.slot ≠ 5 ∧ (maskOf s.mask fun t => (g.getP p.toNat).getLsbD (8 * t) != (n == 1#1)) ≠ s.mask ∧ (maskOf s.mask fun t => (g.getP p.toNat).getLsbD (8 * t) != (n == 1#1)) ≠ 0 ∧ (s.pc + 4 * o.signExtend 64).toNat < 2 ^ 52 ∧
        g.divide x.issuer.slot [((s.pc + 4 * o.signExtend 64), (maskOf s.mask fun t => (g.getP p.toNat).getLsbD (8 * t) != (n == 1#1))), (s.pc + 4, s.mask &&& ~~~(maskOf s.mask fun t => (g.getP p.toNat).getLsbD (8 * t) != (n == 1#1)))] = some g')
      (fun x _ _ => x.putGroup x.issuer.group g')) ∧
    st.acts (.jmpi m a) m { pcSpec (isV a || isS a) with srcs := [a] } (fun _ g _ => isS a = true ∧ (g.srcS a).toNat % 4 = 0 ∧ (g.srcS a).toNat < 2 ^ 52) (fun x g _ => x.goto (g.srcS a)) ∧
    (∀ g', st.acts (.jmpi m a) m { pcSpec (isV a || isS a) with srcs := [a] }
      (fun x g s => isS a = false ∧ x.issuer.slot ≠ 5 ∧ (∀ v ∈ distinct (g.getV a.toNat) s.mask, v % 4 = 0 ∧ v < 2 ^ 52) ∧
        g.divide x.issuer.slot ((distinct (g.getV a.toNat) s.mask).map fun v => (BitVec.ofNat 64 v, maskOf s.mask fun t => decide ((laneAt (g.getV a.toNat) t).toNat = v))) = some g')
      (fun x _ _ => x.putGroup x.issuer.group g')) ∧
    (∀ o : BitVec 24, st.acts (.call m o) m (pcSpec true) (fun _ _ s => (s.pc + 4 * o.signExtend 64).toNat < 2 ^ 52)
      (fun x g s => (x.putGroup x.issuer.group (g.putV 31 (splat (s.pc + 4)) (expandT s.mask))).goto (s.pc + 4 * o.signExtend 64))) ∧
    (∀ v, st.acts (.ret m) m { pcSpec true with srcs := [31#6] } (fun _ g s => distinct (g.getV 31) s.mask = [v] ∧ v % 4 = 0 ∧ v < 2 ^ 52)
      (fun x _ _ => x.goto (BitVec.ofNat 64 v)))

/-- A division with no room in the split table and pending list raises SPLIT_OVERFLOW, by BRD and by JMPI of a V register; BRD, a V-register JMPI and EXIT
in a handler raise ILLEGAL_OP; a branch or call taken to a target at or above 2^52 raises PAGE_FAULT with that address; a jump target of JMPI, in an S
register or in any thread's word of a V register, or of RET that is not a multiple of 4 raises MISALIGN, and where all are aligned one at or above
2^52 raises PAGE_FAULT with that address; RET whose threads' V31 differ raises ILLEGAL_OP with detail 1. None of these has any of its own effect. -/
def Obligations.BranchTraps : Prop :=
  ∀ (st : State) (m : BitVec 1) (a : BitVec 6) (p : BitVec 3) (n : BitVec 1) (o : BitVec 20),
    st.traps (.brd m p n o) m { pcSpec true with pregs := [p.toNat] } (fun x _ _ => x.issuer.slot = 5) { cause := .illegalOp } ∧
    st.traps (.brd m p n o) m { pcSpec true with pregs := [p.toNat] } (fun x g s => x.issuer.slot ≠ 5 ∧ (maskOf s.mask fun t => (g.getP p.toNat).getLsbD (8 * t) != (n == 1#1)) ≠ s.mask ∧ (maskOf s.mask fun t => (g.getP p.toNat).getLsbD (8 * t) != (n == 1#1)) ≠ 0 ∧ (s.pc + 4 * o.signExtend 64).toNat < 2 ^ 52 ∧
        g.divide x.issuer.slot [((s.pc + 4 * o.signExtend 64), (maskOf s.mask fun t => (g.getP p.toNat).getLsbD (8 * t) != (n == 1#1))), (s.pc + 4, s.mask &&& ~~~(maskOf s.mask fun t => (g.getP p.toNat).getLsbD (8 * t) != (n == 1#1)))] = none) { cause := .splitOverflow } ∧
    (∀ (q : BitVec 24) v, st.traps (.bra m q) m (pcSpec true) (fun _ _ s => (s.pc + 4 * q.signExtend 64) = v ∧ 2 ^ 52 ≤ v.toNat) { cause := .pageFault, addr := v.toNat }) ∧
    (∀ (q : BitVec 24) v, st.traps (.call m q) m (pcSpec true) (fun _ _ s => (s.pc + 4 * q.signExtend 64) = v ∧ 2 ^ 52 ≤ v.toNat) { cause := .pageFault, addr := v.toNat }) ∧
    (∀ (r : BitVec 4) (c : BitVec 3) (q : BitVec 17) v, st.traps (.brc m r c q) m { pcSpec (decide (c.toNat < 6)) with srcs := [BitVec.ofNat 6 (48 + r.toNat)] }
      (fun _ g s => brcCond c.toNat (g.getS r.toNat).toInt = true ∧ (s.pc + 4 * q.signExtend 64) = v ∧ 2 ^ 52 ≤ v.toNat) { cause := .pageFault, addr := v.toNat }) ∧
    (∀ v, st.traps (.brd m p n o) m { pcSpec true with pregs := [p.toNat] } (fun x g s => x.issuer.slot ≠ 5 ∧ (maskOf s.mask fun t => (g.getP p.toNat).getLsbD (8 * t) != (n == 1#1)) ≠ 0 ∧ (s.pc + 4 * o.signExtend 64) = v ∧ 2 ^ 52 ≤ v.toNat) { cause := .pageFault, addr := v.toNat }) ∧
    st.traps (.jmpi m a) m { pcSpec (isV a || isS a) with srcs := [a] } (fun x _ _ => isS a = false ∧ x.issuer.slot = 5) { cause := .illegalOp } ∧
    st.traps (.jmpi m a) m { pcSpec (isV a || isS a) with srcs := [a] } (fun _ g _ => isS a = true ∧ (g.srcS a).toNat % 4 ≠ 0) { cause := .misalign } ∧
    (∀ v, st.traps (.jmpi m a) m { pcSpec (isV a || isS a) with srcs := [a] } (fun _ g _ => isS a = true ∧ g.srcS a = v ∧ v.toNat % 4 = 0 ∧ 2 ^ 52 ≤ v.toNat) { cause := .pageFault, addr := v.toNat }) ∧
    st.traps (.exit m) m (pcSpec true) (fun x _ _ => x.issuer.slot = 5) { cause := .illegalOp } ∧
    (∀ v w l, st.traps (.ret m) m { pcSpec true with srcs := [31#6] } (fun _ g s => distinct (g.getV 31) s.mask = v :: w :: l) { cause := .illegalOp, detail := 1 }) ∧
    (∀ l : List Nat, st.traps (.jmpi m a) m { pcSpec (isV a || isS a) with srcs := [a] } (fun x g s => isS a = false ∧ x.issuer.slot ≠ 5 ∧ distinct (g.getV a.toNat) s.mask = l ∧ ∃ v ∈ l, v % 4 ≠ 0) { cause := .misalign }) ∧
    (∀ (l : List Nat) (v : Nat), st.traps (.jmpi m a) m { pcSpec (isV a || isS a) with srcs := [a] } (fun x g s => isS a = false ∧ x.issuer.slot ≠ 5 ∧ distinct (g.getV a.toNat) s.mask = l ∧ (∀ v ∈ l, v % 4 = 0) ∧
        l.find? (fun v => decide (2 ^ 52 ≤ v)) = some v) { cause := .pageFault, addr := v }) ∧
    st.traps (.jmpi m a) m { pcSpec (isV a || isS a) with srcs := [a] } (fun x g s => isS a = false ∧ x.issuer.slot ≠ 5 ∧ (∀ v ∈ distinct (g.getV a.toNat) s.mask, v % 4 = 0 ∧ v < 2 ^ 52) ∧
        g.divide x.issuer.slot ((distinct (g.getV a.toNat) s.mask).map fun v => (BitVec.ofNat 64 v, maskOf s.mask fun t => decide ((laneAt (g.getV a.toNat) t).toNat = v))) = none) { cause := .splitOverflow } ∧
    (∀ (v : Nat), st.traps (.ret m) m { pcSpec true with srcs := [31#6] } (fun _ g s => distinct (g.getV 31) s.mask = [v] ∧ v < 2 ^ 64 ∧ v % 4 ≠ 0) { cause := .misalign }) ∧
    (∀ (v : Nat), st.traps (.ret m) m { pcSpec true with srcs := [31#6] } (fun _ g s => distinct (g.getV 31) s.mask = [v] ∧ v < 2 ^ 64 ∧ v % 4 = 0 ∧ 2 ^ 52 ≤ v) { cause := .pageFault, addr := v })

/-- In every state in which it stands ready to issue, MODEI with a value that sets no reserved bit and whose RM is 0 to 4 leaves MODE equal to its 20
bits, zero above; MODER likewise from bits 31..0 of an S register; any other value raises ILLEGAL_OP and writes nothing. -/
def Obligations.ModeWritesComplete : Prop :=
  ∀ (st : State) (m : BitVec 1) (a : BitVec 6) (i : BitVec 20),
    st.completes (.modei m i) m (ctlSpec true) (fun _ _ => modeOk (i.setWidth 32)) (fun g _ => { g with mode := i.setWidth 32 }) ∧
    st.completes (.moder m a) m { ctlSpec (isS a) with srcs := [a] } (fun g _ => modeOk ((g.srcS a).setWidth 32)) (fun g _ => { g with mode := (g.srcS a).setWidth 32 }) ∧
    st.traps (.modei m i) m (ctlSpec true) (fun _ _ _ => modeOk (i.setWidth 32) = false) { cause := .illegalOp } ∧
    st.traps (.moder m a) m { ctlSpec (isS a) with srcs := [a] } (fun _ g _ => modeOk ((g.srcS a).setWidth 32) = false) { cause := .illegalOp }

/-- In every state in which it stands ready to issue. A BAR by all of its group's live threads, with a mask that names the group and no group at or beyond
G and whose bits above 15 are 0, is a valid arrival: at an idle barrier it opens the episode and records the mask; with the recorded mask, in an
episode that is not broken, it joins; in both cases the split waits and the group counts as arrived. With another mask it breaks the episode: it takes
MASK_MISMATCH, and so does every group that has arrived; in a broken episode every arrival takes MASK_MISMATCH and counts as arrived. The barrier then
completes, or is idle again, if every member has arrived or gone. Any other BAR raises MASK_MISMATCH and leaves the barrier as it was. SYNCS: the same
for the splits of one group, its mask naming every active thread of the arriving split and no absent one; where the masks differ, the splits that wait
are released from the wait with their PCs unchanged. GBAR by all live threads of a group in a COOP grid holds its split and counts the group at the
hub; in a grid whose barrier is broken it waits and takes BARRIER_BROKEN 1 as a waiter; in another grid it raises MASK_MISMATCH 1, and by fewer than
all live threads MASK_MISMATCH 2. -/
def Obligations.BarriersComplete : Prop :=
  ∀ (st : State) (m : BitVec 1) (a : BitVec 6),
    st.acts (.bar m a) m { pcSpec (isS a) with srcs := [a] } (fun x g s => s.mask = g.live ∧ (g.srcS a).toNat < 2 ^ (x.wgOf g).groups ∧ ((g.srcS a).setWidth 16).getLsbD g.gi = true ∧ (x.wgOf g).barMask = none)
      (fun x g _ => ((x.updWg g.wg fun w => { w with barMask := some ((g.srcS a).setWidth 16), barArrived := (BitVec.ofNat 16 (2 ^ g.gi)), barBroken := false }).waitAs .bar).barCheck g.wg) ∧
    st.acts (.bar m a) m { pcSpec (isS a) with srcs := [a] } (fun x g s => s.mask = g.live ∧ (g.srcS a).toNat < 2 ^ (x.wgOf g).groups ∧ ((g.srcS a).setWidth 16).getLsbD g.gi = true ∧ (x.wgOf g).barMask = some ((g.srcS a).setWidth 16) ∧ (x.wgOf g).barBroken = false)
      (fun x g _ => ((x.updWg g.wg fun w => { w with barArrived := w.barArrived ||| (BitVec.ofNat 16 (2 ^ g.gi)) }).waitAs .bar).barCheck g.wg) ∧
    (∀ k, st.trapsWith (.bar m a) m { pcSpec (isS a) with srcs := [a] } (fun x g s => s.mask = g.live ∧ (g.srcS a).toNat < 2 ^ (x.wgOf g).groups ∧ ((g.srcS a).setWidth 16).getLsbD g.gi = true ∧ (x.wgOf g).barMask = some k ∧ (x.wgOf g).barBroken = false ∧ k ≠ (g.srcS a).setWidth 16) { cause := .maskMismatch }
      (fun x g _ => ((x.updWg g.wg fun w => { w with barBroken := true, barArrived := w.barArrived ||| ((BitVec.ofNat 16 (2 ^ g.gi)) &&& k) }).breakBar g.wg).barCheck g.wg)) ∧
    (∀ k, st.trapsWith (.bar m a) m { pcSpec (isS a) with srcs := [a] } (fun x g s => s.mask = g.live ∧ (g.srcS a).toNat < 2 ^ (x.wgOf g).groups ∧ ((g.srcS a).setWidth 16).getLsbD g.gi = true ∧ (x.wgOf g).barMask = some k ∧ (x.wgOf g).barBroken = true) { cause := .maskMismatch }
      (fun x g _ => (x.updWg g.wg fun w => { w with barArrived := w.barArrived ||| (BitVec.ofNat 16 (2 ^ g.gi)) }).barCheck g.wg)) ∧
    st.traps (.bar m a) m { pcSpec (isS a) with srcs := [a] } (fun x g s => ¬ (s.mask = g.live ∧ (g.srcS a).toNat < 2 ^ (x.wgOf g).groups ∧ ((g.srcS a).setWidth 16).getLsbD g.gi = true)) { cause := .maskMismatch } ∧
    st.acts (.syncs m a) m { pcSpec (isS a) with srcs := [a] } (fun _ g s => (g.srcS a).toNat < 2 ^ 32 ∧ s.mask &&& ~~~((g.srcS a).setWidth 32) = 0 ∧ (g.srcS a).setWidth 32 &&& ~~~g.present = 0 ∧ g.syncsMask = none)
      (fun x g s => (x.waitAs .syncs).updGroup x.issuer.group fun g' => ({ g' with syncsMask := some ((g.srcS a).setWidth 32), syncsArrived := s.mask, syncsBroken := false }).syncsCheck) ∧
    st.acts (.syncs m a) m { pcSpec (isS a) with srcs := [a] } (fun _ g s => (g.srcS a).toNat < 2 ^ 32 ∧ s.mask &&& ~~~((g.srcS a).setWidth 32) = 0 ∧ (g.srcS a).setWidth 32 &&& ~~~g.present = 0 ∧ g.syncsMask = some ((g.srcS a).setWidth 32) ∧ g.syncsBroken = false)
      (fun x _ s => (x.waitAs .syncs).updGroup x.issuer.group fun g' => ({ g' with syncsArrived := g'.syncsArrived ||| s.mask }).syncsCheck) ∧
    (∀ k, st.trapsWith (.syncs m a) m { pcSpec (isS a) with srcs := [a] } (fun _ g s => (g.srcS a).toNat < 2 ^ 32 ∧ s.mask &&& ~~~((g.srcS a).setWidth 32) = 0 ∧ (g.srcS a).setWidth 32 &&& ~~~g.present = 0 ∧ g.syncsMask = some k ∧ g.syncsBroken = false ∧ k ≠ (g.srcS a).setWidth 32) { cause := .maskMismatch }
      (fun x _ s => x.updGroup x.issuer.group fun g' => (({ g' with syncsArrived := g'.syncsArrived ||| s.mask, syncsBroken := true }).release .syncs .ready).syncsCheck)) ∧
    (∀ k, st.trapsWith (.syncs m a) m { pcSpec (isS a) with srcs := [a] } (fun _ g s => (g.srcS a).toNat < 2 ^ 32 ∧ s.mask &&& ~~~((g.srcS a).setWidth 32) = 0 ∧ (g.srcS a).setWidth 32 &&& ~~~g.present = 0 ∧ g.syncsMask = some k ∧ g.syncsBroken = true) { cause := .maskMismatch }
      (fun x _ s => x.updGroup x.issuer.group fun g' => ({ g' with syncsArrived := g'.syncsArrived ||| s.mask }).syncsCheck)) ∧
    st.traps (.syncs m a) m { pcSpec (isS a) with srcs := [a] } (fun _ g s => ¬ ((g.srcS a).toNat < 2 ^ 32 ∧ s.mask &&& ~~~((g.srcS a).setWidth 32) = 0 ∧ (g.srcS a).setWidth 32 &&& ~~~g.present = 0)) { cause := .maskMismatch } ∧
    st.acts (.gbar m) m (pcSpec true) (fun x g s => (x.gridOf (x.wgOf g)).desc.flags % 2 = 1 ∧ s.mask = g.live ∧ (x.gridOf (x.wgOf g)).broken = false)
      (fun x g _ => ((x.waitAs .gbar).updGrid (gridKey (x.wgOf g).ctx (x.wgOf g).grid) fun y => { y with gbar := y.gbar ++ [x.issuer.group] }).gbarCheck
        (gridKey (x.wgOf g).ctx (x.wgOf g).grid)) ∧
    st.acts (.gbar m) m (pcSpec true) (fun x g s => (x.gridOf (x.wgOf g)).desc.flags % 2 = 1 ∧ s.mask = g.live ∧ (x.gridOf (x.wgOf g)).broken = true)
      (fun x _ _ => (x.waitAs .gbar).brokenWait 1) ∧
    st.traps (.gbar m) m (pcSpec true) (fun x g _ => (x.gridOf (x.wgOf g)).desc.flags % 2 = 0) { cause := .maskMismatch, detail := 1 } ∧
    st.traps (.gbar m) m (pcSpec true) (fun x g s => (x.gridOf (x.wgOf g)).desc.flags % 2 = 1 ∧ s.mask ≠ g.live) { cause := .maskMismatch, detail := 2 }

/-- In every state in which it stands ready to issue. WAITC on a counter goes to the next word if the counter has reached its target, else the split waits
for it; a reference with a reserved bit set or another SPACE raises VIEW_FAULT, an offset that is not a multiple of 16 MISALIGN, and one outside the
allocation BOUNDS, in this order. WAITM on an 8-byte-aligned address below 2^52 that translates, and whose line has come to the home of the
comparison, goes on if the word differs from the value, else the split waits on the word; while the line has not come it is not issued; a misaligned
address raises MISALIGN, one at or above 2^52 PAGE_FAULT with that address, a page without R permission or a watched byte the trap of that check; at a
missing page the split is held for the service, or takes the page's trap where the service declines at once. SLEEP waits Sa[31:0] + 64 × imm12 cycles.
YIELD issues with no architected effect. JOINC goes on if none of the grids it names is a live child, else the split waits for them, and takes
BARRIER_BROKEN 2 as a waiter if one of them is broken. -/
def Obligations.WaitsComplete : Prop :=
  ∀ (st : State) (m : BitVec 1) (a b : BitVec 6) (i : BitVec 12),
    (∀ q, st.acts (.waitc m a b) m { pcSpec (isS a && isSZ b) with srcs := [a, b] } (fun x g s => x.counterAt x.issuer.group g (g.srcS a) = .inr q ∧ x.reached q (isZ b) (g.srcS b).toNat = true) (fun x _ s => x.goto (s.pc + 4))) ∧
    (∀ q, st.acts (.waitc m a b) m { pcSpec (isS a && isSZ b) with srcs := [a, b] } (fun x g s => x.counterAt x.issuer.group g (g.srcS a) = .inr q ∧ x.reached q (isZ b) (g.srcS b).toNat = false) (fun x g _ => x.waitAs (.waitc q (isZ b) (g.srcS b).toNat))) ∧
    st.traps (.waitc m a b) m { pcSpec (isS a && isSZ b) with srcs := [a, b] } (fun _ g _ => ¬ ((g.srcS a).toNat < 2 ^ 32 ∧ (bits (g.srcS a).toNat 31 29 = 2 ∨ bits (g.srcS a).toNat 31 29 = 3))) { cause := .viewFault } ∧
    st.traps (.waitc m a b) m { pcSpec (isS a && isSZ b) with srcs := [a, b] } (fun _ g _ => ((g.srcS a).toNat < 2 ^ 32 ∧ (bits (g.srcS a).toNat 31 29 = 2 ∨ bits (g.srcS a).toNat 31 29 = 3)) ∧ bits (g.srcS a).toNat 28 0 % 16 ≠ 0) { cause := .misalign } ∧
    st.traps (.waitc m a b) m { pcSpec (isS a && isSZ b) with srcs := [a, b] } (fun x g _ => ((g.srcS a).toNat < 2 ^ 32 ∧ (bits (g.srcS a).toNat 31 29 = 2 ∨ bits (g.srcS a).toNat 31 29 = 3)) ∧ bits (g.srcS a).toNat 28 0 % 16 = 0 ∧
        x.spaceBytes g (bits (g.srcS a).toNat 31 29) < bits (g.srcS a).toNat 28 0 + 16) { cause := .bounds } ∧
    (∀ leaf pa y z, st.acts (.waitm m a b) m { pcSpec (isS a && isSZ b) with srcs := [a, b] } (fun x g _ => (g.srcS a).toNat % 8 = 0 ∧ (g.srcS a).toNat < 2 ^ 52 ∧ x.syncRead x.issuer.group g (g.srcS a).toNat 8 true = .ok leaf pa y ∧ y.syncLine x.issuer.group (y.ctxOf g) leaf pa (1 + pa % 128 / 64) true = some z ∧ z.read pa 8 ≠ (g.srcS b).toNat) (fun _ _ s => z.goto (s.pc + 4))) ∧
    (∀ leaf pa y z, st.acts (.waitm m a b) m { pcSpec (isS a && isSZ b) with srcs := [a, b] } (fun x g _ => (g.srcS a).toNat % 8 = 0 ∧ (g.srcS a).toNat < 2 ^ 52 ∧ x.syncRead x.issuer.group g (g.srcS a).toNat 8 true = .ok leaf pa y ∧ y.syncLine x.issuer.group (y.ctxOf g) leaf pa (1 + pa % 128 / 64) true = some z ∧ z.read pa 8 = (g.srcS b).toNat)
      (fun _ g _ => z.waitAs (.waitm (g.srcS a).toNat pa (g.srcS b).toNat))) ∧
    (∀ leaf pa y, st.heldIn (.waitm m a b) m { pcSpec (isS a && isSZ b) with srcs := [a, b] } (fun x g _ => (g.srcS a).toNat % 8 = 0 ∧ (g.srcS a).toNat < 2 ^ 52 ∧ x.syncRead x.issuer.group g (g.srcS a).toNat 8 true = .ok leaf pa y ∧ y.syncLine x.issuer.group (y.ctxOf g) leaf pa (1 + pa % 128 / 64) true = none) (fun _ _ _ => y)) ∧
    st.holds (.waitm m a b) m { pcSpec (isS a && isSZ b) with srcs := [a, b] } (fun x g _ => (g.srcS a).toNat % 8 = 0 ∧ (g.srcS a).toNat < 2 ^ 52 ∧ x.syncRead x.issuer.group g (g.srcS a).toNat 8 true = .wait) ∧
    st.traps (.waitm m a b) m { pcSpec (isS a && isSZ b) with srcs := [a, b] } (fun _ g _ => (g.srcS a).toNat % 8 ≠ 0) { cause := .misalign } ∧
    (∀ v, st.traps (.waitm m a b) m { pcSpec (isS a && isSZ b) with srcs := [a, b] } (fun _ g _ => g.srcS a = v ∧ v.toNat % 8 = 0 ∧ 2 ^ 52 ≤ v.toNat) { cause := .pageFault, addr := v.toNat }) ∧
    (∀ t y, st.trapsWith (.waitm m a b) m { pcSpec (isS a && isSZ b) with srcs := [a, b] } (fun x g _ => (g.srcS a).toNat % 8 = 0 ∧ (g.srcS a).toNat < 2 ^ 52 ∧ x.syncRead x.issuer.group g (g.srcS a).toNat 8 true = .prot t y) t (fun _ _ _ => y)) ∧
    (∀ page t y r, st.heldIn (.waitm m a b) m { pcSpec (isS a && isSZ b) with srcs := [a, b] } (fun x g _ => (g.srcS a).toNat % 8 = 0 ∧ (g.srcS a).toNat < 2 ^ 52 ∧ x.syncRead x.issuer.group g (g.srcS a).toNat 8 true = .fault page t y ∧
        y.pageFault (y.ctxOf g) (.stream x.issuer.group false) page t.detail (y.wgOf g).serial t.addr = r ∧ r.declined = false) (fun _ _ _ => r.st.waitAs (.paged page t))) ∧
    (∀ page t y r, st.trapsWith (.waitm m a b) m { pcSpec (isS a && isSZ b) with srcs := [a, b] } (fun x g _ => (g.srcS a).toNat % 8 = 0 ∧ (g.srcS a).toNat < 2 ^ 52 ∧ x.syncRead x.issuer.group g (g.srcS a).toNat 8 true = .fault page t y ∧
        y.pageFault (y.ctxOf g) (.stream x.issuer.group false) page t.detail (y.wgOf g).serial t.addr = r ∧ r.declined = true)
      { t with declined := true } (fun _ _ _ => r.st)) ∧
    st.acts (.sleep m a i) m { pcSpec (isSZ a) with srcs := [a] } anyway (fun x g _ => x.waitAs (.sleep ((g.srcS a).toNat % 2 ^ 32 + 64 * i.toNat))) ∧
    st.acts (.yield m) m { ctlSpec true with yields := true } anyway (fun x _ _ => x) ∧
    st.acts (.joinc m a) m { pcSpec (isSZ a) with srcs := [a] } (fun x g _ => isZ a = true ∧ (x.wgOf g).children = []) (fun x _ s => x.goto (s.pc + 4)) ∧
    st.acts (.joinc m a) m { pcSpec (isSZ a) with srcs := [a] } (fun x g _ => isZ a = true ∧ (x.wgOf g).children ≠ [] ∧ ∀ id ∈ (x.wgOf g).children, ∀ y, mget x.grids (gridKey (x.wgOf g).ctx id) = some y → y.broken = false) (fun x _ _ => x.waitAs .joinAll) ∧
    st.acts (.joinc m a) m { pcSpec (isSZ a) with srcs := [a] } (fun x g _ => isZ a = true ∧ ∃ id ∈ (x.wgOf g).children, ∃ y, mget x.grids (gridKey (x.wgOf g).ctx id) = some y ∧ y.broken = true) (fun x _ _ => (x.waitAs .joinAll).brokenWait 2) ∧
    st.acts (.joinc m a) m { pcSpec (isSZ a) with srcs := [a] } (fun x g _ => isZ a = false ∧ (g.srcS a).toNat % 2 ^ 32 ∉ (x.wgOf g).children) (fun x _ s => x.goto (s.pc + 4)) ∧
    st.acts (.joinc m a) m { pcSpec (isSZ a) with srcs := [a] } (fun x g _ => isZ a = false ∧ (g.srcS a).toNat % 2 ^ 32 ∈ (x.wgOf g).children ∧ ∀ y, mget x.grids (gridKey (x.wgOf g).ctx ((g.srcS a).toNat % 2 ^ 32)) = some y → y.broken = false)
      (fun x g _ => x.waitAs (.joinOne ((g.srcS a).toNat % 2 ^ 32))) ∧
    st.acts (.joinc m a) m { pcSpec (isSZ a) with srcs := [a] } (fun x g _ => isZ a = false ∧ (g.srcS a).toNat % 2 ^ 32 ∈ (x.wgOf g).children ∧ ∃ y, mget x.grids (gridKey (x.wgOf g).ctx ((g.srcS a).toNat % 2 ^ 32)) = some y ∧ y.broken = true)
      (fun x g _ => (x.waitAs (.joinOne ((g.srcS a).toNat % 2 ^ 32))).brokenWait 2)

/-- In every state in which it stands ready to issue, LAUNCH by the workgroup's leader at a launch depth below 9, with an aligned descriptor address below
2^52 whose reads succeed, leaves a request with the descriptor, its refusal code and its gates, and holds the split for the answer; the list form of a
root group leaves one too, with code 7 where the address is misaligned or too high. The list form elsewhere raises PROT, LAUNCH by another group
MASK_MISMATCH 3, at depth 9 LAUNCH_DEPTH, and a misaligned descriptor MISALIGN. -/
def Obligations.LaunchCompletes : Prop :=
  ∀ (st : State) (m : BitVec 1) (d a b : BitVec 6),
    (∀ y desc reason gs, st.acts (.launch m d a b) m { pcSpec (isS d && isS a && isSZ b) with srcs := [a, b] }
      (fun x g _ => isS b = false ∧ x.leader g.wg = some x.issuer.group ∧ (x.wgOf g).depth < 9 ∧ (g.srcS a).toNat % 128 = 0 ∧ (g.srcS a).toNat < 2 ^ 52 ∧
        x.readLaunch (x.wgOf g).ctx (.stream x.issuer.group false) (g.srcS a).toNat (x.gatesPass x.issuer.group g) = .ok y desc reason gs)
      (fun x g _ => (y.acquire x.issuer.group 5).request { x.launchBase g d false with desc := desc, reason := reason, gates := y.gatesOf x.issuer.group g gs })) ∧
    st.acts (.launch m d a b) m { pcSpec (isS d && isS a && isSZ b) with srcs := [a, b] }
      (fun x g _ => isS b = true ∧ (x.gridOf (x.wgOf g)).root = true ∧ ((g.srcS a).toNat % 128 ≠ 0 ∨ 2 ^ 52 ≤ (g.srcS a).toNat))
      (fun x g _ => x.request { x.launchBase g d true with reason := 7 }) ∧
    (∀ y desc reason gs z e leaf pa, st.acts (.launch m d a b) m { pcSpec (isS d && isS a && isSZ b) with srcs := [a, b] }
      (fun x g _ => isS b = true ∧ (x.gridOf (x.wgOf g)).root = true ∧ (g.srcS a).toNat % 128 = 0 ∧ (g.srcS a).toNat < 2 ^ 52 ∧
        x.readLaunch (x.wgOf g).ctx (.stream x.issuer.group false) (g.srcS a).toNat (x.gatesPass x.issuer.group g) = .ok y desc reason gs ∧
        (y.acquire x.issuer.group 5).readLines (x.wgOf g).ctx (.stream x.issuer.group false) (g.srcS b).toNat 1 = (.ok leaf pa z, e))
      (fun x g _ => z.request { x.launchBase g d true with desc := desc, reason := reason, gates := y.gatesOf x.issuer.group g gs, tag := bits e 127 64, doneAt := bits e 191 128 })) ∧
    st.traps (.launch m d a b) m { pcSpec (isS d && isS a && isSZ b) with srcs := [a, b] } (fun x g _ => isS b = true ∧ (x.gridOf (x.wgOf g)).root = false) { cause := .prot } ∧
    st.traps (.launch m d a b) m { pcSpec (isS d && isS a && isSZ b) with srcs := [a, b] } (fun x g _ => isS b = false ∧ x.leader g.wg ≠ some x.issuer.group) { cause := .maskMismatch, detail := 3 } ∧
    st.traps (.launch m d a b) m { pcSpec (isS d && isS a && isSZ b) with srcs := [a, b] } (fun x g _ => isS b = false ∧ x.leader g.wg = some x.issuer.group ∧ 9 ≤ (x.wgOf g).depth) { cause := .launchDepth } ∧
    st.traps (.launch m d a b) m { pcSpec (isS d && isS a && isSZ b) with srcs := [a, b] } (fun x g _ => isS b = false ∧ x.leader g.wg = some x.issuer.group ∧ (x.wgOf g).depth < 9 ∧ (g.srcS a).toNat % 128 ≠ 0) { cause := .misalign }

/-- In every state in which it stands ready to issue: EXIT outside a handler frees the split's slot, marks its threads exited, drops their held results,
and lets barriers, the compute stream's end and the group's leaving follow; TRAP takes SW_TRAP and BKPT takes BKPT, each with its immediate as detail;
TRET in a handler whose access part has ended and whose held results have returned gives the frame back, waits while they have not, takes ECC_UNCORR
where a held A register is poisoned (and, in its handler, faults the context), and outside a handler raises ILLEGAL_OP. -/
def Obligations.ExitTrapAndReturnComplete : Prop :=
  ∀ (st : State) (m : BitVec 1) (i : BitVec 20),
    st.acts (.exit m) m (pcSpec true) (fun x _ _ => x.issuer.slot ≠ 5) (fun x g s =>
      let y := x.putGroup x.issuer.group (promote 8 { g.dropThreads s.mask with
        splits := merase g.splits x.issuer.slot, exited := g.exited ||| s.mask }).syncsCheck
      let z := if (mgetD y.groups x.issuer.group g).cend then y.computeEnd x.issuer.group else y
      ((z.barCheck g.wg).gbarCheck (gridKey (x.wgOf g).ctx (x.wgOf g).grid)).settle x.issuer.group) ∧
    st.traps (.trap m i) m (ctlSpec true) anyway { cause := .swTrap, detail := i.toNat } ∧
    st.traps (.bkpt m i) m (ctlSpec true) anyway { cause := .bkpt, detail := i.toNat } ∧
    st.acts (.tret m) m (pcSpec true) (fun x g _ => g.tlevel = true ∧ x.issuer.slot = 5 ∧ g.aend = true ∧ allReturned g.wbC = true ∧ allReturned g.wbA = true ∧ g.wbA.find? (fun e => e.poison) = none)
      (fun x g _ => (x.putGroup x.issuer.group g.leave).settle x.issuer.group) ∧
    st.holds (.tret m) m (pcSpec true) (fun x g _ => g.tlevel = true ∧ x.issuer.slot = 5 ∧ (g.aend = false ∨ allReturned g.wbC = false ∨ allReturned g.wbA = false)) ∧
    (∀ e, st.heldIn (.tret m) m (pcSpec true) (fun x g _ => g.tlevel = true ∧ x.issuer.slot = 5 ∧ g.aend = true ∧ allReturned g.wbC = true ∧ allReturned g.wbA = true ∧ g.wbA.find? (fun e => e.poison) = some e)
      (fun x _ _ => x.takeTrap x.issuer.group { trap := { cause := .eccUncorr, detail := e.unit }, kind := .precise, acc := true, slot := 4 })) ∧
    st.traps (.tret m) m (pcSpec true) (fun x g _ => g.tlevel = false ∨ x.issuer.slot ≠ 5) { cause := .illegalOp }

/-- In every state in which it stands ready to issue: GETS of a state register and CLOCK hold the value read (and logged) for their S register; PUTS
writes STAT anywhere and TCAUSE, TPC (a multiple of 4), TINFO, TADDR and CENSUSCTL in a handler with the low bits of its source, as many as the
register has (the model's choice for a source with higher bits set: log entry 73), and PUTS of another register, outside a handler, or of an unaligned
TPC raises ILLEGAL_OP; GSET resolves the oldest unresolved command of its guard slot, or keeps its resolution where none waits and fewer than 8 are
kept. -/
def Obligations.StateAccessCompletes : Prop :=
  ∀ (st : State) (m : BitVec 1) (d a b f : BitVec 6) (i : BitVec 12),
    (∀ y v, st.acts (.gets m d i) m { ctlSpec (isS d && decide (i.toNat ≤ 16)) with async := fun _ _ => true }
      (fun x g _ => x.sampleReg x.issuer.group g false i.toNat = some (y, v))
      (fun _ _ _ => y.updGroup y.issuer.group fun g => g.holdS (d.toNat - 48) (BitVec.ofNat 64 v))) ∧
    (∀ v, st.acts (.puts m a 4#12) m { pcSpec (isS a && decide (((4#12 : BitVec 12)).toNat ≤ 16)) with srcs := [a] } (fun _ g _ => (g.srcS a).toNat % 2 ^ 8 = v)
      (fun x _ s => (x.updGroup x.issuer.group fun g => g.setStat (BitVec.ofNat 8 v)).goto (s.pc + 4))) ∧
    (∀ v, st.acts (.puts m a 5#12) m { pcSpec (isS a && decide (((5#12 : BitVec 12)).toNat ≤ 16)) with srcs := [a] } (fun _ g _ => (g.srcS a).toNat % 2 ^ 8 = v ∧ g.tlevel = true)
      (fun x _ s => (x.updGroup x.issuer.group fun g => { g with tcause := v }).goto (s.pc + 4))) ∧
    (∀ v, st.acts (.puts m a 6#12) m { pcSpec (isS a && decide (((6#12 : BitVec 12)).toNat ≤ 16)) with srcs := [a] } (fun _ g _ => (g.srcS a).toNat % 2 ^ 52 = v ∧ g.tlevel = true ∧ v % 4 = 0)
      (fun x _ s => (x.updGroup x.issuer.group fun g => { g with tpc := v }).goto (s.pc + 4))) ∧
    (∀ v, st.acts (.puts m a 7#12) m { pcSpec (isS a && decide (((7#12 : BitVec 12)).toNat ≤ 16)) with srcs := [a] } (fun _ g _ => (g.srcS a).toNat % 2 ^ 64 = v ∧ g.tlevel = true)
      (fun x _ s => (x.updGroup x.issuer.group fun g => { g with tinfo := v }).goto (s.pc + 4))) ∧
    (∀ v, st.acts (.puts m a 8#12) m { pcSpec (isS a && decide (((8#12 : BitVec 12)).toNat ≤ 16)) with srcs := [a] } (fun _ g _ => (g.srcS a).toNat % 2 ^ 52 = v ∧ g.tlevel = true)
      (fun x _ s => (x.updGroup x.issuer.group fun g => { g with taddr := v }).goto (s.pc + 4))) ∧
    st.acts (.puts m a 16#12) m { pcSpec (isS a && decide ((16#12).toNat ≤ 16)) with srcs := [a] } (fun _ g _ => g.tlevel = true)
      (fun x g s => let y := x.censusCtl (x.ctxOf g) x.issuer.group ((g.srcS a).toNat % 2 ^ 32)
        if (g.srcS a).toNat % 2 ^ 32 / 4 % 2 = 1 then y.waitAs .flush else y.goto (s.pc + 4)) ∧
    st.traps (.puts m a i) m { pcSpec (isS a && decide (i.toNat ≤ 16)) with srcs := [a] } (fun _ g _ => i.toNat ≠ 4 ∧ (g.tlevel = false ∨ i.toNat ∉ [5, 6, 7, 8, 16])) { cause := .illegalOp } ∧
    st.traps (.puts m a i) m { pcSpec (isS a && decide (i.toNat ≤ 16)) with srcs := [a] } (fun _ g _ => i.toNat = 6 ∧ (g.srcS a).toNat % 4 ≠ 0) { cause := .illegalOp } ∧
    (∀ y v, st.acts (.clockCycle m d) m { ctlSpec (isS d) with async := fun _ _ => true }
      (fun x g _ => x.cdc (x.ctxOf g) x.issuer.group false g.icntC 0 (x.coreCyc (gCore x.issuer.group)) = some (y, v))
      (fun _ _ _ => y.updGroup y.issuer.group fun g => g.holdS (d.toNat - 48) (BitVec.ofNat 64 v))) ∧
    (∀ y v, st.acts (.clockHubcyc m d) m { ctlSpec (isS d) with async := fun _ _ => true }
      (fun x g _ => x.cdc (x.ctxOf g) x.issuer.group false g.icntC 1 (x.hubcyc) = some (y, v))
      (fun _ _ _ => y.updGroup y.issuer.group fun g => g.holdS (d.toNat - 48) (BitVec.ofNat 64 v))) ∧
    (∀ y v, st.acts (.clockPtpns m d) m { ctlSpec (isS d) with async := fun _ _ => true }
      (fun x g _ => x.cdc (x.ctxOf g) x.issuer.group false g.icntC 2 (x.tai) = some (y, v))
      (fun _ _ _ => y.updGroup y.issuer.group fun g => g.holdS (d.toNat - 48) (BitVec.ofNat 64 v))) ∧
    (∀ id rest, st.acts (.gset m d a b f) m { ctlSpec (lt8 d && lt8 a && lt8 b && decide (f.toNat ≤ 4) && (decide (f.toNat < 3) || (decide (a = 0#6) && decide (b = 0#6)))) with
      pregs := if f.toNat < 3 then [a.toNat] else [] } (fun _ g _ => (mgetD g.guards d.toNat {}).cmds = id :: rest)
      (fun x g s => (x.updGroup x.issuer.group fun g' => { g' with guards := mput g'.guards d.toNat { mgetD g.guards d.toNat {} with cmds := rest } {} }).resolve
        x.issuer.group id (gsetValue f.toNat (g.getP a.toNat) s.mask b.toNat))) ∧
    st.acts (.gset m d a b f) m { ctlSpec (lt8 d && lt8 a && lt8 b && decide (f.toNat ≤ 4) && (decide (f.toNat < 3) || (decide (a = 0#6) && decide (b = 0#6)))) with
      pregs := if f.toNat < 3 then [a.toNat] else [] } (fun _ g _ => (mgetD g.guards d.toNat {}).cmds = [] ∧ (mgetD g.guards d.toNat {}).res.length < 8)
      (fun x g s => x.updGroup x.issuer.group fun g' => { g' with guards := mput g'.guards d.toNat { mgetD g.guards d.toNat {} with res := (mgetD g.guards d.toNat {}).res ++ [gsetValue f.toNat (g.getP a.toNat) s.mask b.toNat] } {} })

/-- In every state in which the multiply stands ready to issue, its S words and formats are legal, its handle is bound, its window lies in the region, its
tile and scale views pass their checks, the cell type agrees and the engine's table has room, exec answers a next state in which the engine of the
member that holds the window has one more entry, with the copied A rows of the active threads, the B columns or the B tile, the scales and the
formats, and the group carries OOB if an element read is out of bounds. -/
def Obligations.MatrixMultipliesPost : Prop :=
  ∀ (st : State) (m : BitVec 1) (t : BitVec 3) (a b : BitVec 6) (r : BitVec 4) (k : BitVec 5),
    (∀ tl c ra rb o1 bt o2 y, st.acts (.mma m t a b r k) m { mSpec (baseOk a && baseOk b && decide (k.toNat < 3)) (vRegs a ++ vRegs b ++ sRegs r.toNat 1) with lanes := bLanes b }
      (fun x g s => ((g.getS r.toNat).toNat) % 2 ^ 32 = 0 ∧ mget g.tiles t.toNat = some tl ∧ tl.window ((g.getS r.toNat).toNat / 2 ^ 32) = .inr c ∧
        x.scaleRefs g k.toNat (modeBlock g) s.mask = .inr (ra, rb, o1) ∧ x.btileRef g k.toNat none 0 = .inr (bt, o2) ∧ typesOk k.toNat g.et g.et2 tl.isF32 = true ∧
        x.postHere [(x.engineOf x.issuer.group c.wg, x.mulEntry g s t.toNat k.toNat a (some b) (modeBlock g) tl c ra rb bt)] = some y)
      (fun _ _ _ => y.posted id (o1 || o2))) ∧
    (∀ tl c ra rb o1 bt o2 y, st.acts (.mmak m t a b r k) m (mSpec (baseOk a && decide (b.toNat < 32) && decide (k.toNat < 2) && decide (r.toNat ≤ 14)) (vRegs a ++ sRegs r.toNat 2))
      (fun x g s => ((g.getS r.toNat).toNat) % 2 ^ 32 = 0 ∧ mget g.tiles t.toNat = some tl ∧ tl.window ((g.getS r.toNat).toNat / 2 ^ 32) = .inr c ∧
        x.scaleRefs g k.toNat (modeBlock g) s.mask = .inr (ra, rb, o1) ∧ x.btileRef g k.toNat (some b.toNat) (g.getS (r.toNat + 1)) = .inr (bt, o2) ∧ typesOk k.toNat g.et g.et2 tl.isF32 = true ∧
        x.postHere [(x.engineOf x.issuer.group c.wg, x.mulEntry g s t.toNat k.toNat a none (modeBlock g) tl c ra rb bt)] = some y)
      (fun _ _ _ => y.posted id (o1 || o2))) ∧
    (∀ tl c ra rb o1 bt o2 y, st.acts (.mmat m t a b r k) m (mSpec (baseOk a && decide (b.toNat < 32) && decide (k.toNat = 3) && decide (r.toNat < 14)) (vRegs a ++ sRegs r.toNat 3))
      (fun x g s => blockOk (((g.getS r.toNat).toNat) % 2 ^ 32) ((g.getS (r.toNat + 1)).toNat) = true ∧ mget g.tiles t.toNat = some tl ∧ tl.window ((g.getS r.toNat).toNat / 2 ^ 32) = .inr c ∧
        x.scaleRefs g 3 (blockOf ((g.getS r.toNat).toNat) ((g.getS (r.toNat + 1)).toNat)) s.mask = .inr (ra, rb, o1) ∧ x.btileRef g 3 (some b.toNat) (g.getS (r.toNat + 2)) = .inr (bt, o2) ∧ mmatTypes (blockOf ((g.getS r.toNat).toNat) ((g.getS (r.toNat + 1)).toNat)) tl.isF32 = true ∧
        x.postHere [(x.engineOf x.issuer.group c.wg, x.mulEntry g s t.toNat 3 a none (blockOf ((g.getS r.toNat).toNat) ((g.getS (r.toNat + 1)).toNat)) tl c ra rb bt)] = some y)
      (fun _ _ _ => y.posted id (o1 || o2))) ∧
    (∀ tl c ra rb o1 bt o2 y, st.acts (.mmas m t a b r k) m { mSpec (baseOk a && baseOk b && decide (k.toNat < 3) && decide (r.toNat ≠ 15)) (vRegs a ++ vRegs b ++ sRegs r.toNat 2) with lanes := bLanes b }
      (fun x g s => blockOk (((g.getS r.toNat).toNat) % 2 ^ 32) ((g.getS (r.toNat + 1)).toNat) = true ∧ mget g.tiles t.toNat = some tl ∧ tl.window ((g.getS r.toNat).toNat / 2 ^ 32) = .inr c ∧
        x.scaleRefs g k.toNat (blockOf ((g.getS r.toNat).toNat) ((g.getS (r.toNat + 1)).toNat)) s.mask = .inr (ra, rb, o1) ∧ x.btileRef g k.toNat none 0 = .inr (bt, o2) ∧ mmasTypes k.toNat (blockOf ((g.getS r.toNat).toNat) ((g.getS (r.toNat + 1)).toNat)) tl.isF32 = true ∧
        x.postHere [(x.engineOf x.issuer.group c.wg, x.mulEntry g s t.toNat k.toNat a (some b) (blockOf ((g.getS r.toNat).toNat) ((g.getS (r.toNat + 1)).toNat)) tl c ra rb bt)] = some y)
      (fun _ _ _ => y.posted id (o1 || o2)))

/-- In every state in which it stands ready to issue: TBIND whose word, handle, parts, team and rows pass R303 binds the handle to the word and the team's
members; TFREE unbinds it; TZERO and TZERO.ALL, TRD, TWR, TMOVE and TMOVE.ADD with bound handles, windows or slices in the region and room in the
engine's table post their entries (TRD also holds a place in the write-back buffer); TWAIT goes on where every entry the group posted before it that
names its handle (as the source of a TMOVE, too), or TWAIT.ALL every one, has been performed. -/
def Obligations.TileInstructionsComplete : Prop :=
  ∀ (st : State) (m : BitVec 1) (t u : BitVec 3) (r : BitVec 4) (i : BitVec 8) (v : BitVec 6),
    st.acts (.tbind m t r) m { ctlSpec true with srcs := [BitVec.ofNat 6 (48 + r.toNat)] } (fun x g _ => x.tbindTrap g t.toNat ((g.getS r.toNat).toNat) = none)
      (fun x g _ => x.putGroup x.issuer.group { g with tiles := mset g.tiles t.toNat { word := ((g.getS r.toNat).toNat), members := x.teamKeys g ((g.getS r.toNat).toNat) } }) ∧
    (∀ tr, st.traps (.tbind m t r) m { ctlSpec true with srcs := [BitVec.ofNat 6 (48 + r.toNat)] } (fun x g _ => x.tbindTrap g t.toNat ((g.getS r.toNat).toNat) = some tr) tr) ∧
    st.completes (.tfree m t) m (ctlSpec true) always (fun g _ => { g with tiles := merase g.tiles t.toNat }) ∧
    (∀ tl c y, st.acts (.tzero m t r) m (mSpec true (sRegs r.toNat 1))
      (fun x g s => mget g.tiles t.toNat = some tl ∧ tl.window (((g.getS r.toNat).toNat) / 2 ^ 32) = .inr c ∧
        x.postHere [(x.engineOf x.issuer.group c.wg, { x.entryOf g t.toNat tl .zero s.mask with win := c })] = some y)
      (fun _ _ _ => y.posted id false)) ∧
    (∀ tl y, st.acts (.tzeroAll m t) m (mSpec true [])
      (fun x g s => mget g.tiles t.toNat = some tl ∧ x.postHere (tl.members.map fun w => (x.engineOf x.issuer.group w,
          { x.entryOf g t.toNat tl .zeroAll s.mask with win := { wg := w, row := bits tl.word 7 0, col := 0 }, rows := tl.part, cols := tl.nc })) = some y)
      (fun _ _ _ => y.posted id false)) ∧
    (∀ tl cs y, st.acts (.trdRow m t r i v) m { mSpec (isV v) (sRegs r.toNat 1) with async := fun _ _ => true }
      (fun x g s => mget g.tiles t.toNat = some tl ∧ sliceOf tl false (g.getS r.toNat) i.toNat = .inr cs ∧
        x.postHere [(x.engineOf x.issuer.group ((cs.findSome? id).map (·.wg) |>.getD 0), { x.entryOf g t.toNat tl (.trd false) s.mask with cells := cs, wb := some g.nextId })] = some y)
      (fun _ g s => y.posted (fun q => { q with wbC := q.wbC ++ [{ dest := .v v.toNat, bits := expandT s.mask, id := g.nextId, mask := s.mask }] }) (cs.any fun c => c.isNone))) ∧
    (∀ tl cs y, st.acts (.trdCol m t r i v) m { mSpec (isV v) (sRegs r.toNat 1) with async := fun _ _ => true }
      (fun x g s => mget g.tiles t.toNat = some tl ∧ sliceOf tl true (g.getS r.toNat) i.toNat = .inr cs ∧
        x.postHere [(x.engineOf x.issuer.group ((cs.findSome? id).map (·.wg) |>.getD 0), { x.entryOf g t.toNat tl (.trd true) s.mask with cells := cs, wb := some g.nextId })] = some y)
      (fun _ g s => y.posted (fun q => { q with wbC := q.wbC ++ [{ dest := .v v.toNat, bits := expandT s.mask, id := g.nextId, mask := s.mask }] }) (cs.any fun c => c.isNone))) ∧
    (∀ tl cs y, st.acts (.twrRow m t r i v) m (mSpec (isV v) (v :: sRegs r.toNat 1))
      (fun x g s => mget g.tiles t.toNat = some tl ∧ sliceOf tl false (g.getS r.toNat) i.toNat = .inr cs ∧
        x.postHere [(x.engineOf x.issuer.group ((cs.findSome? id).map (·.wg) |>.getD 0), { x.entryOf g t.toNat tl (.twr false) s.mask with cells := cs, data := g.getV v.toNat })] = some y)
      (fun _ g s => y.posted id (cs.any fun c => c.isNone))) ∧
    (∀ tl cs y, st.acts (.twrCol m t r i v) m (mSpec (isV v) (v :: sRegs r.toNat 1))
      (fun x g s => mget g.tiles t.toNat = some tl ∧ sliceOf tl true (g.getS r.toNat) i.toNat = .inr cs ∧
        x.postHere [(x.engineOf x.issuer.group ((cs.findSome? id).map (·.wg) |>.getD 0), { x.entryOf g t.toNat tl (.twr true) s.mask with cells := cs, data := g.getV v.toNat })] = some y)
      (fun _ g s => y.posted id (cs.any fun c => c.isNone))) ∧
    (∀ td ts cd cs y, st.acts (.tmove m t r u) m (mSpec true (sRegs r.toNat 1))
      (fun x g s => mget g.tiles t.toNat = some td ∧ mget g.tiles u.toNat = some ts ∧ td.window ((g.getS r.toNat).toNat / 2 ^ 32) = .inr cd ∧
        ts.window ((g.getS r.toNat).toNat % 2 ^ 32) = .inr cs ∧ td.isF32 = ts.isF32 ∧
        x.postHere [(x.engineOf x.issuer.group cd.wg, { x.entryOf g t.toNat td (.move false) s.mask with win := cd, swin := cs, stile := some u.toNat })] = some y)
      (fun _ _ _ => y.posted id false)) ∧
    (∀ td ts cd cs y, st.acts (.tmoveAdd m t r u) m (mSpec true (sRegs r.toNat 1))
      (fun x g s => mget g.tiles t.toNat = some td ∧ mget g.tiles u.toNat = some ts ∧ td.window ((g.getS r.toNat).toNat / 2 ^ 32) = .inr cd ∧
        ts.window ((g.getS r.toNat).toNat % 2 ^ 32) = .inr cs ∧ td.isF32 = ts.isF32 ∧
        x.postHere [(x.engineOf x.issuer.group cd.wg, { x.entryOf g t.toNat td (.move true) s.mask with win := cd, swin := cs, stile := some u.toNat })] = some y)
      (fun _ _ _ => y.posted id false)) ∧
    st.acts (.twait m t) m (pcSpec true) (fun x g s => s.wait = .ready ∧ (x.clusters.any fun k => k.2.res.any fun e => decide (e.group = x.issuer.group) && decide (e.wg = g.wg) && decide (e.id < g.nextId) && (decide (e.tile = t.toNat) || decide (e.stile = some t.toNat))) = false) (fun x _ s => (x.waitAs .ready).goto (s.pc + 4)) ∧
    st.acts (.twaitAll m) m (pcSpec true) (fun x g s => s.wait = .ready ∧ (x.clusters.any fun k => k.2.res.any fun e => decide (e.group = x.issuer.group) && decide (e.wg = g.wg) && decide (e.id < g.nextId)) = false) (fun x _ s => (x.waitAs .ready).goto (s.pc + 4))

/-- In every state in which AADD, ASUB, AMUL, AMULH, AAND, AOR, AXOR, ASHL, ASHR, ASRA, AMIN, AMAX, AMINN, AMAXN, AADDI, ALI, ALIM, ALIT or ALIQ stands
ready to issue, exec answers a next state in which Ad holds the 64-bit value of R144's tables, wrapped modulo 2^64 (A0 reads 0 and discards writes). -/
def Obligations.AccessArithmeticCompletes : Prop :=
  ∀ (st : State) (m : BitVec 1) (d a b : BitVec 5) (i : BitVec 14) (l : BitVec 16),
    st.completesA (.aadd m d a b) m { legal := true } alwaysA (fun g => g.putA d.toNat (let x := g.getA a.toNat; let y := g.getA b.toNat; x + y)) ∧
    st.completesA (.asub m d a b) m { legal := true } alwaysA (fun g => g.putA d.toNat (let x := g.getA a.toNat; let y := g.getA b.toNat; x - y)) ∧
    st.completesA (.amul m d a b) m { legal := true } alwaysA (fun g => g.putA d.toNat (let x := g.getA a.toNat; let y := g.getA b.toNat; x * y)) ∧
    st.completesA (.amulh m d a b) m { legal := true } alwaysA (fun g => g.putA d.toNat (let x := g.getA a.toNat; let y := g.getA b.toNat; BitVec.ofInt 64 (x.toInt * y.toInt / 2 ^ 64))) ∧
    st.completesA (.aand m d a b) m { legal := true } alwaysA (fun g => g.putA d.toNat (let x := g.getA a.toNat; let y := g.getA b.toNat; x &&& y)) ∧
    st.completesA (.aor m d a b) m { legal := true } alwaysA (fun g => g.putA d.toNat (let x := g.getA a.toNat; let y := g.getA b.toNat; x ||| y)) ∧
    st.completesA (.axor m d a b) m { legal := true } alwaysA (fun g => g.putA d.toNat (let x := g.getA a.toNat; let y := g.getA b.toNat; x ^^^ y)) ∧
    st.completesA (.ashl m d a b) m { legal := true } alwaysA (fun g => g.putA d.toNat (let x := g.getA a.toNat; let y := g.getA b.toNat; x <<< (y.toNat % 64))) ∧
    st.completesA (.ashr m d a b) m { legal := true } alwaysA (fun g => g.putA d.toNat (let x := g.getA a.toNat; let y := g.getA b.toNat; x >>> (y.toNat % 64))) ∧
    st.completesA (.asra m d a b) m { legal := true } alwaysA (fun g => g.putA d.toNat (let x := g.getA a.toNat; let y := g.getA b.toNat; x.sshiftRight (y.toNat % 64))) ∧
    st.completesA (.amin m d a b) m { legal := true } alwaysA (fun g => g.putA d.toNat (let x := g.getA a.toNat; let y := g.getA b.toNat; if x.toInt ≤ y.toInt then x else y)) ∧
    st.completesA (.amax m d a b) m { legal := true } alwaysA (fun g => g.putA d.toNat (let x := g.getA a.toNat; let y := g.getA b.toNat; if x.toInt ≤ y.toInt then y else x)) ∧
    st.completesA (.aminn m d a b) m { legal := true } alwaysA (fun g => g.putA d.toNat (let x := g.getA a.toNat; let y := g.getA b.toNat; if x.toNat ≤ y.toNat then x else y)) ∧
    st.completesA (.amaxn m d a b) m { legal := true } alwaysA (fun g => g.putA d.toNat (let x := g.getA a.toNat; let y := g.getA b.toNat; if x.toNat ≤ y.toNat then y else x)) ∧
    st.completesA (.aaddi m d a i) m { legal := true } alwaysA (fun g => g.putA d.toNat (g.getA a.toNat + i.signExtend 64)) ∧
    st.completesA (.ali m d l) m { legal := true } alwaysA (fun g => g.putA d.toNat (l.signExtend 64)) ∧
    st.completesA (.alim m d l) m { legal := true } alwaysA (fun g => g.putA d.toNat ((g.getA d.toNat &&& ~~~(0xFFFF#64 <<< (16 : Nat))) ||| (l.setWidth 64 <<< (16 : Nat)))) ∧
    st.completesA (.alit m d l) m { legal := true } alwaysA (fun g => g.putA d.toNat ((g.getA d.toNat &&& ~~~(0xFFFF#64 <<< (32 : Nat))) ||| (l.setWidth 64 <<< (32 : Nat)))) ∧
    st.completesA (.aliq m d l) m { legal := true } alwaysA (fun g => g.putA d.toNat ((g.getA d.toNat &&& ~~~(0xFFFF#64 <<< (48 : Nat))) ||| (l.setWidth 64 <<< (48 : Nat))))

/-- In every state in which it stands ready to issue: ANOP goes on; ABR goes to its target; ABEQ, ABNE, ABLT, ABGE, ABLTN and ABGEN go to it where their
comparison holds and to the next word where not; ALOOP (a not 0) writes Aa - 1 and branches while that is not 0 (every target taken below 2^52, else
PAGE_FAULT with the target, and nothing written); AJMPI goes to an aligned address below 2^52, raises MISALIGN on one that is not a multiple of 4, and
PAGE_FAULT with the address at or above 2^52. -/
def Obligations.AccessBranchesComplete : Prop :=
  ∀ (st : State) (m : BitVec 1) (a b : BitVec 5) (o : BitVec 11) (p : BitVec 24) (q : BitVec 19),
    st.completesA (.anop m) m { legal := true } alwaysA (fun g => g) ∧
    st.completesA (.abr m p) m { legal := true, adv := false } (fun g => decide ((g.apc + 4 * p.signExtend 64).toNat < 2 ^ 52)) (fun g => { g with apc := g.apc + 4 * p.signExtend 64 }) ∧
    st.completesA (.abeq m a b o) m { legal := true, adv := false } (fun g => let x := g.getA a.toNat; let y := g.getA b.toNat; !decide (x = y) || decide ((g.apc + 4 * o.signExtend 64).toNat < 2 ^ 52))
      (fun g => let x := g.getA a.toNat; let y := g.getA b.toNat; { g with apc := if x = y then (g.apc + 4 * o.signExtend 64) else g.apc + 4 }) ∧
    st.completesA (.abne m a b o) m { legal := true, adv := false } (fun g => let x := g.getA a.toNat; let y := g.getA b.toNat; !decide (x ≠ y) || decide ((g.apc + 4 * o.signExtend 64).toNat < 2 ^ 52))
      (fun g => let x := g.getA a.toNat; let y := g.getA b.toNat; { g with apc := if x ≠ y then (g.apc + 4 * o.signExtend 64) else g.apc + 4 }) ∧
    st.completesA (.ablt m a b o) m { legal := true, adv := false } (fun g => let x := g.getA a.toNat; let y := g.getA b.toNat; !decide (x.toInt < y.toInt) || decide ((g.apc + 4 * o.signExtend 64).toNat < 2 ^ 52))
      (fun g => let x := g.getA a.toNat; let y := g.getA b.toNat; { g with apc := if x.toInt < y.toInt then (g.apc + 4 * o.signExtend 64) else g.apc + 4 }) ∧
    st.completesA (.abge m a b o) m { legal := true, adv := false } (fun g => let x := g.getA a.toNat; let y := g.getA b.toNat; !decide (y.toInt ≤ x.toInt) || decide ((g.apc + 4 * o.signExtend 64).toNat < 2 ^ 52))
      (fun g => let x := g.getA a.toNat; let y := g.getA b.toNat; { g with apc := if y.toInt ≤ x.toInt then (g.apc + 4 * o.signExtend 64) else g.apc + 4 }) ∧
    st.completesA (.abltn m a b o) m { legal := true, adv := false } (fun g => let x := g.getA a.toNat; let y := g.getA b.toNat; !decide (x.toNat < y.toNat) || decide ((g.apc + 4 * o.signExtend 64).toNat < 2 ^ 52))
      (fun g => let x := g.getA a.toNat; let y := g.getA b.toNat; { g with apc := if x.toNat < y.toNat then (g.apc + 4 * o.signExtend 64) else g.apc + 4 }) ∧
    st.completesA (.abgen m a b o) m { legal := true, adv := false } (fun g => let x := g.getA a.toNat; let y := g.getA b.toNat; !decide (y.toNat ≤ x.toNat) || decide ((g.apc + 4 * o.signExtend 64).toNat < 2 ^ 52))
      (fun g => let x := g.getA a.toNat; let y := g.getA b.toNat; { g with apc := if y.toNat ≤ x.toNat then (g.apc + 4 * o.signExtend 64) else g.apc + 4 }) ∧
    st.completesA (.aloop m a q) m { legal := decide (a ≠ 0#5), adv := false } (fun g => decide ((g.getA a.toNat) - 1 = 0) || decide ((g.apc + 4 * q.signExtend 64).toNat < 2 ^ 52)) (fun g =>
      { g.putA a.toNat ((g.getA a.toNat) - 1) with apc := if (g.getA a.toNat) - 1 ≠ 0 then g.apc + 4 * q.signExtend 64 else g.apc + 4 }) ∧
    st.completesA (.ajmpi m a) m { legal := true, adv := false } (fun g => decide ((g.getA a.toNat).toNat % 4 = 0) && decide ((g.getA a.toNat).toNat < 2 ^ 52)) (fun g => { g with apc := (g.getA a.toNat) }) ∧
    st.trapsA (.ajmpi m a) m { legal := true, adv := false } (fun _ g => (g.getA a.toNat).toNat % 4 ≠ 0) { cause := .misalign } ∧
    (∀ v : Word, st.trapsA (.ajmpi m a) m { legal := true, adv := false } (fun _ g => (g.getA a.toNat) = v ∧ v.toNat % 4 = 0 ∧ 2 ^ 52 ≤ v.toNat) { cause := .pageFault, addr := v.toNat }) ∧
    (∀ v : Word, st.trapsA (.abr m p) m { legal := true, adv := false } (fun _ g => g.apc + 4 * p.signExtend 64 = v ∧ 2 ^ 52 ≤ v.toNat) { cause := .pageFault, addr := v.toNat }) ∧
    (∀ v : Word, st.trapsA (.abeq m a b o) m { legal := true, adv := false } (fun _ g => (let x := g.getA a.toNat; let y := g.getA b.toNat; x = y) ∧ (g.apc + 4 * o.signExtend 64) = v ∧ 2 ^ 52 ≤ v.toNat) { cause := .pageFault, addr := v.toNat }) ∧
    (∀ v : Word, st.trapsA (.abne m a b o) m { legal := true, adv := false } (fun _ g => (let x := g.getA a.toNat; let y := g.getA b.toNat; x ≠ y) ∧ (g.apc + 4 * o.signExtend 64) = v ∧ 2 ^ 52 ≤ v.toNat) { cause := .pageFault, addr := v.toNat }) ∧
    (∀ v : Word, st.trapsA (.ablt m a b o) m { legal := true, adv := false } (fun _ g => (let x := g.getA a.toNat; let y := g.getA b.toNat; x.toInt < y.toInt) ∧ (g.apc + 4 * o.signExtend 64) = v ∧ 2 ^ 52 ≤ v.toNat) { cause := .pageFault, addr := v.toNat }) ∧
    (∀ v : Word, st.trapsA (.abge m a b o) m { legal := true, adv := false } (fun _ g => (let x := g.getA a.toNat; let y := g.getA b.toNat; y.toInt ≤ x.toInt) ∧ (g.apc + 4 * o.signExtend 64) = v ∧ 2 ^ 52 ≤ v.toNat) { cause := .pageFault, addr := v.toNat }) ∧
    (∀ v : Word, st.trapsA (.abltn m a b o) m { legal := true, adv := false } (fun _ g => (let x := g.getA a.toNat; let y := g.getA b.toNat; x.toNat < y.toNat) ∧ (g.apc + 4 * o.signExtend 64) = v ∧ 2 ^ 52 ≤ v.toNat) { cause := .pageFault, addr := v.toNat }) ∧
    (∀ v : Word, st.trapsA (.abgen m a b o) m { legal := true, adv := false } (fun _ g => (let x := g.getA a.toNat; let y := g.getA b.toNat; y.toNat ≤ x.toNat) ∧ (g.apc + 4 * o.signExtend 64) = v ∧ 2 ^ 52 ≤ v.toNat) { cause := .pageFault, addr := v.toNat }) ∧
    (∀ v : Word, st.trapsA (.aloop m a q) m { legal := decide (a ≠ 0#5), adv := false } (fun _ g => (g.getA a.toNat) - 1 ≠ 0 ∧ g.apc + 4 * q.signExtend 64 = v ∧ 2 ^ 52 ≤ v.toNat) { cause := .pageFault, addr := v.toNat })

/-- In every state in which it stands ready to issue: APOP writes thread t's word of a filled, unpoisoned XQ head to Ad and pops it, APOP.K leaves it;
APUSH to an LQ with room (or at the end of the compute stream, where the entry is discarded) pushes one entry holding Aa in every thread; RTICK
advances the keeper's workgroup clock and TICKP and does nothing in another group; SETD writes the clamped sum; AGETS holds the state register read
for Ad; AEND ends the stream. APOP of an empty XQ after the compute stream's end raises QUEUE_ERROR. -/
def Obligations.AccessQueuesAndStateComplete : Prop :=
  ∀ (st : State) (m : BitVec 1) (d a t : BitVec 5) (i : BitVec 14),
    (∀ e rest, st.actsA (.apop m d t) m { legal := true } (fun _ g => g.xq = e :: rest ∧ e.ready = true ∧ e.poison.getLsbD t.toNat = false)
      (fun x g => x.putGroup x.issuer.group ({ g with xq := rest }.putA d.toNat (laneAt e.data t.toNat)))) ∧
    (∀ e rest, st.actsA (.apopK m d t) m { legal := true } (fun _ g => g.xq = e :: rest ∧ e.ready = true ∧ e.poison.getLsbD t.toNat = false)
      (fun x g => x.putGroup x.issuer.group ({ g with xq := e :: rest }.putA d.toNat (laneAt e.data t.toNat)))) ∧
    st.trapsA (.apop m d t) m { legal := true } (fun _ g => g.xq = [] ∧ g.cend = true) { cause := .queueError } ∧
    st.trapsA (.apopK m d t) m { legal := true } (fun _ g => g.xq = [] ∧ g.cend = true) { cause := .queueError } ∧
    st.actsA (.apush m d a) m { legal := decide (d.toNat < 4) } (fun _ g => g.cend = false ∧ (g.getLq d.toNat).length < 2)
      (fun x g => x.putGroup x.issuer.group (g.putLq d.toNat (g.getLq d.toNat ++ [{ data := splat (g.getA a.toNat), en := BitVec.allOnes 256, resv := g.nextId }]))) ∧
    st.actsA (.apush m d a) m { legal := decide (d.toNat < 4) } (fun _ g => g.cend = true) (fun x _ => x) ∧
    st.actsA (.rtick m) m { legal := true } (fun x g => g.gi = (x.wgOf g).keeper)
      (fun x g => x.updWg g.wg fun w => { w with wrc := (w.wrc + 1) % 2 ^ 32, tickp := tickpNext w.tickp w.tickCyc, tickCyc := 0 }) ∧
    st.actsA (.rtick m) m { legal := true } (fun x g => g.gi ≠ (x.wgOf g).keeper) (fun x _ => x) ∧
    st.completesA (.setd m d a i) m { legal := decide (d.toNat < 8) } alwaysA (fun g => g.putD d.toNat (clampDist (g.getA a.toNat + i.signExtend 64).toInt)) ∧
    (∀ y v, st.actsA (.agets m d i) m { legal := decide (i.toNat ≤ 16), async := true } (fun x g => x.sampleReg x.issuer.group g true i.toNat = some (y, v))
      (fun _ _ => y.updGroup y.issuer.group fun g => g.holdA d.toNat (BitVec.ofNat 64 v))) ∧
    st.actsA (.aend m) m { legal := true, adv := false } anywayA (fun x g => (x.putGroup x.issuer.group { g with aend := true }).settle x.issuer.group)

/-- In every state in which it stands ready to issue and its slot is not converting: VDEF.GLOB with an aligned address below 2^52 whose line translates,
and VDEF.CORE with an aligned offset whose line lies in the allocation, put the read of the descriptor into the memory unit and hold the stream for
it; VSET of a field that leaves the descriptor passing its checks writes it; VGET reads its field into Ad. A misaligned address raises MISALIGN, a
line beyond the allocation PROT, and a descriptor that would fail a check VIEW_FAULT. -/
def Obligations.ViewInstructionsComplete : Prop :=
  ∀ (st : State) (m : BitVec 1) (d a b : BitVec 5) (f : BitVec 9),
    (∀ k l, st.startsA (.vdefGlob m d a) m { legal := true }
      (fun x g => x.slotBusy g d.toNat = false ∧ (g.getA a.toNat).toNat % 128 = 0 ∧ (g.getA a.toNat).toNat < 2 ^ 52 ∧
        x.checkLines (x.ctxOf g) (.stream x.issuer.group true) 128 .r true false
          [{ va := (g.getA a.toNat).toNat, pa := 0, glob := true, elems := [{ off := 0, pos := 0 }] }] = k ∧ k.trap = none ∧ k.missing = [] ∧ k.good = [l])
      (fun x g => k.st.updGroup x.issuer.group fun q =>
        { q.enqueue { id := g.nextId, kind := .vdef, esize := 128, slot := d.toNat, lines := [l], pc := g.apc, icnt := if q.outside then 2 ^ 37 else q.icntA } with
          await := .vdef d.toNat g.nextId })) ∧
    st.startsA (.vdefCore m d a) m { legal := true } (fun x g => x.slotBusy g d.toNat = false ∧ (g.getA a.toNat).toNat % 128 = 0 ∧ (g.getA a.toNat).toNat + 128 ≤ x.spaceBytes g 3)
      (fun x g => x.updGroup x.issuer.group fun q =>
        { q.enqueue { id := g.nextId, kind := .vdef, esize := 128, slot := d.toNat, pc := g.apc, icnt := if q.outside then 2 ^ 37 else q.icntA,
                      lines := [{ va := x.spaceFlat x.issuer.group g 3 0 (g.getA a.toNat).toNat, pa := x.spaceFlat x.issuer.group g 3 0 (g.getA a.toNat).toNat,
                                  glob := false, elems := [{ off := 0, pos := 0 }] }] } with await := .vdef d.toNat g.nextId }) ∧
    st.trapsA (.vdefGlob m d a) m { legal := true } (fun x g => x.slotBusy g d.toNat = false ∧ (g.getA a.toNat).toNat % 128 ≠ 0) { cause := .misalign } ∧
    st.trapsA (.vdefCore m d a) m { legal := true } (fun x g => x.slotBusy g d.toNat = false ∧ (g.getA a.toNat).toNat % 128 = 0 ∧ x.spaceBytes g 3 < (g.getA a.toNat).toNat + 128) { cause := .prot } ∧
    (∀ dv, st.actsA (.vset m d a f) m { legal := vfieldOk f.toNat }
      (fun x g => x.slotBusy g d.toNat = false ∧ vsetField ((x.wgOf g).view d.toNat) f.toNat (g.getA a.toNat) = .inr dv ∧ ((f.toNat = 2 ∧ g.getA a.toNat = 0) ∨ viewCheck dv = 0))
      (fun x g => x.updWg g.wg fun w => { w with views := mput w.views d.toNat dv 0 })) ∧
    (∀ dv, st.trapsA (.vset m d a f) m { legal := vfieldOk f.toNat }
      (fun x g => x.slotBusy g d.toNat = false ∧ vsetField ((x.wgOf g).view d.toNat) f.toNat (g.getA a.toNat) = .inr dv ∧ ¬ (f.toNat = 2 ∧ g.getA a.toNat = 0) ∧ viewCheck dv ≠ 0)
      (viewFault d.toNat (viewCheck dv))) ∧
    st.actsA (.vget m d b f) m { legal := vfieldOk f.toNat && decide (f.toNat ≠ 1) } anywayA
      (fun x g => x.putGroup x.issuer.group (g.putA d.toNat (BitVec.ofNat 64 (vgetField ((x.wgOf g).view b.toNat) f.toNat))))

/-- In every state in which it stands ready to issue, its view passes its checks, its element coordinates are in bounds or dropped as R130 says, its
queues can serve it (an XQ head for LDG, room in the LQ where no guard stands before it) and its lines translate (or it is guarded), exec answers a
next state in which the access stands in the memory unit with its lines, its LQ entry or write-back entry reserved and its XQ entry popped, or has
been discarded where its guard has resolved false. A prefetch needs its view to pass its checks and nothing else: it stands in the memory unit with
the lines of its elements inside the bounds, and STAT.OOB is raised where one lies outside and STRICT is 0. -/
def Obligations.LoadsAndPrefetchIssue : Prop :=
  ∀ (st : State) (m : BitVec 1) (q : BitVec 3) (v a : BitVec 5) (d g : BitVec 3) (e w : BitVec 1) (c : BitVec 2),
    (∀ dv hits oob y, st.actsA (.ldt m q v a d g e c) m { legal := decide (q.toNat < 4) && guardOk g e }
      (fun x gr => (x.wgOf gr).checkedView v.toNat a.toNat = .inr dv ∧ x.reach gr dv (wholeTile dv (gr.coords dv a.toNat)) = .ok hits oob ∧ (e = 1#1 ∨ gr.lqFull (some q.toNat) = false) ∧
        x.accessIssued x.issuer.group gr (mkAccess gr dv (amOf v a d g e c) .load (some q.toNat) 0 (x.viewLines x.issuer.group gr dv (accClass dv (amOf v a d g e c).cls) hits)) id false oob y)
      (fun _ _ => y)) ∧
    (∀ dv y, st.actsA (.pref m v a d g e c) m { legal := guardOk g e }
      (fun x gr => (x.wgOf gr).checkedView v.toNat a.toNat = .inr dv ∧
        x.accessIssued x.issuer.group gr (mkAccess gr dv (amOf v a d g e c) .pref none 0 (x.viewLines x.issuer.group gr dv (accClass dv (amOf v a d g e c).cls) (prefHits dv (wholeTile dv (gr.coords dv a.toNat))))) id false
          (!vStrict dv && (wholeTile dv (gr.coords dv a.toNat)).any fun p => (oobDim dv p.coord).isSome) y)
      (fun _ _ => y)) ∧
    (∀ dv hits oob y, st.actsA (.ldg m q v a d g e c) m { legal := decide (q.toNat < 4) && guardOk g e }
      (fun x gr => (x.wgOf gr).checkedView v.toNat a.toNat = .inr dv ∧ emptyQ gr gr.xq 1 x = none ∧
        x.reach gr dv (gatherParts dv (gr.coords dv a.toNat) (gr.xq.headD {}).data (gr.xq.headD {}).threadOn fun _ => 0) = .ok hits oob ∧ (e = 1#1 ∨ gr.lqFull (some q.toNat) = false) ∧
        x.accessIssued x.issuer.group gr (mkAccess gr dv (amOf v a d g e c) .gather (some q.toNat) 0 (x.viewLines x.issuer.group gr dv (accClass dv (amOf v a d g e c).cls) hits)) (fun q => { q with xq := q.xq.drop 1 }) false oob y)
      (fun _ _ => y)) ∧
    (∀ dv hits oob y, st.actsA (.lda m w v a d g e c) m { legal := decide (a ≠ 0#5) && guardOk g e, async := true }
      (fun x gr => (x.wgOf gr).checkedView v.toNat a.toNat = .inr dv ∧ x.reach gr dv (onePart gr dv a.toNat 0 0) = .ok hits oob ∧
        x.accessIssued x.issuer.group gr (mkAccess gr dv (amOf v a d g e c) (.lda (w == 1#1)) none a.toNat (x.viewLines x.issuer.group gr dv (accClass dv (amOf v a d g e c).cls) hits)) id true oob y)
      (fun _ _ => y))

/-- In every state in which it stands ready to issue, its view passes its checks and is not read-only, its SQ and XQ heads are filled, its elements are in
bounds or dropped, and its lines translate or their pages are missing (or it is guarded), exec answers a next state in which the store stands in the
memory unit with its translated lines, those of missing pages in the spillway, and the queue entries it names are popped; STA takes its element from
A[cb + NDIM]. The store carries the poison of the SQ entry or A register it takes. A read-only view raises PROT with the write bit of the detail and
the lowest byte of its elements. -/
def Obligations.StoresIssue : Prop :=
  ∀ (st : State) (m : BitVec 1) (v a : BitVec 5) (d g : BitVec 3) (e : BitVec 1) (c : BitVec 2),
    (∀ dv hits oob y, st.actsA (.stt m v a d g e c) m { legal := guardOk g e }
      (fun x gr => (x.wgOf gr).checkedView v.toNat a.toNat = .inr dv ∧ vRonly dv = false ∧ emptyQ gr gr.sq 1 x = none ∧
        x.reach gr dv (tileParts dv (gr.coords dv a.toNat) (sqOn (gr.sq.headD {}) (vEsize dv)) (elemAt (gr.sq.headD {}).data (8 * vEsize dv)) fun _ => 0) = .ok hits oob ∧
        x.accessIssued x.issuer.group gr ({ mkAccess gr dv (amOf v a d g e c) .store none 0 (x.viewLines x.issuer.group gr dv (accClass dv (amOf v a d g e c).cls) hits) with bad := (gr.sq.headD {}).poison }) (fun q => { q with sq := q.sq.drop 1 }) false oob y)
      (fun _ _ => y)) ∧
    (∀ dv hits oob y, st.actsA (.stg m v a d g e c) m { legal := guardOk g e }
      (fun x gr => (x.wgOf gr).checkedView v.toNat a.toNat = .inr dv ∧ vRonly dv = false ∧ emptyQ gr gr.xq 1 x = none ∧ emptyQ gr gr.sq 1 x = none ∧
        x.reach gr dv (gatherParts dv (gr.coords dv a.toNat) (gr.xq.headD {}).data (fun t => (gr.xq.headD {}).threadOn t && (gr.sq.headD {}).threadOn t)
          fun t => (laneAt (gr.sq.headD {}).data t).toNat % 2 ^ (8 * vEsize dv)) = .ok hits oob ∧
        x.accessIssued x.issuer.group gr ({ mkAccess gr dv (amOf v a d g e c) .scatter none 0 (x.viewLines x.issuer.group gr dv (accClass dv (amOf v a d g e c).cls) hits) with bad := (gr.sq.headD {}).poison }) (fun q => { q with xq := q.xq.drop 1, sq := q.sq.drop 1 }) false oob y)
      (fun _ _ => y)) ∧
    (∀ dv hits oob y, st.actsA (.sta m v a d g e c) m { legal := guardOk g e }
      (fun x gr => (x.wgOf gr).checkedView v.toNat a.toNat = .inr dv ∧ a.toNat + vNdim dv ≤ 31 ∧ vRonly dv = false ∧
        x.reach gr dv (onePart gr dv a.toNat ((gr.getA (a.toNat + vNdim dv)).toNat % 2 ^ (8 * vEsize dv)) 0) = .ok hits oob ∧
        x.accessIssued x.issuer.group gr ({ mkAccess gr dv (amOf v a d g e c) .sta none 0 (x.viewLines x.issuer.group gr dv (accClass dv (amOf v a d g e c).cls) hits) with bad := gr.badA (a.toNat + vNdim dv) }) id false oob y)
      (fun _ _ => y)) ∧
    (∀ dv n, st.trapsA (.stt m v a d g e c) m { legal := guardOk g e } (fun x gr => (x.wgOf gr).checkedView v.toNat a.toNat = .inr dv ∧ vRonly dv = true ∧
        lowByte dv (tileParts dv (gr.coords dv a.toNat) (sqOn (gr.sq.headD {}) (vEsize dv)) (elemAt (gr.sq.headD {}).data (8 * vEsize dv)) fun _ => 0) = n) { cause := .prot, detail := trDetail false 0 0 false true false false, addr := n }) ∧
    (∀ dv n, st.trapsA (.stg m v a d g e c) m { legal := guardOk g e } (fun x gr => (x.wgOf gr).checkedView v.toNat a.toNat = .inr dv ∧ vRonly dv = true ∧
        lowByte dv (gatherParts dv (gr.coords dv a.toNat) (gr.xq.headD {}).data (fun t => (gr.xq.headD {}).threadOn t && (gr.sq.headD {}).threadOn t)
          fun t => (laneAt (gr.sq.headD {}).data t).toNat % 2 ^ (8 * vEsize dv)) = n) { cause := .prot, detail := trDetail false 0 0 false true false false, addr := n }) ∧
    (∀ dv n, st.trapsA (.sta m v a d g e c) m { legal := guardOk g e } (fun x gr => (x.wgOf gr).checkedView v.toNat a.toNat = .inr dv ∧ vRonly dv = true ∧
        lowByte dv (onePart gr dv a.toNat 0 0) = n ∧ a.toNat + vNdim dv ≤ 31) { cause := .prot, detail := trDetail false 0 0 false true false false, addr := n })

/-- In every state in which it stands ready to issue. Through a view that passes its checks and is not read-only, of an element size that its operation
takes, with its elements in bounds or dropped (and for ATOM its one SQ entry, or two for CAS, filled): an atomic that R166 does not buffer joins the
memory unit with its lines, its operation, order and scope and the poison of its operands (ATOM's SQ entries popped and its LQ entry, in an LQ with
room, reserved; ATOMA's Ad held in the write-back buffer); one that R166 buffers is appended to the workgroup's buffer where there is room, and raises
QUEUE_ERROR 5 where the buffer or the pool has none. ATOM with a result that R166 would buffer raises ILLEGAL_OP 4; a size that the operation does not
take VIEW_FAULT 13; a read-only view PROT with the write bit of the detail and the lowest byte of its elements. ATOM with too few SQ entries raises
QUEUE_ERROR once the compute stream has ended, and stalls before; one whose LQ is full stalls. -/
def Obligations.AtomicsIssue : Prop :=
  ∀ (st : State) (m : BitVec 1) (q : BitVec 3) (v a d : BitVec 5) (o c : BitVec 3) (p : BitVec 5) (p4 : BitVec 4) (o2 : BitVec 2),
    (∀ dv hits oob y, st.actsA (.atom m q v a o c p) m { legal := (decide (q.toNat < 4) || decide (q.toNat = 7)) && decide (o.toNat ≤ 4) && scopeOk c.toNat && atomOpOk p.toNat && !(decide (o.toNat = 4) && decide (c.toNat = 5)) }
      (fun x gr => bufferedOp (x.ctx (x.ctxOf gr)).det p.toNat = false ∧ (x.wgOf gr).checkedView v.toNat a.toNat = .inr dv ∧ atomSizeOk p.toNat (vEsize dv) = true ∧ vRonly dv = false ∧ emptyQ gr gr.sq (if p.toNat = 12 then 2 else 1) x = none ∧
        x.reach gr dv ((tileParts dv (gr.coords dv a.toNat) (fun _ => true) (elemAt (gr.sq.headD {}).data (8 * vEsize dv)) (elemAt (gr.sq.getD 1 {}).data (8 * vEsize dv))).map fun p =>
          { p with on := sqOn (gr.sq.headD {}) (vEsize dv) p.p }) = .ok hits oob ∧ gr.lqFull (if q.toNat < 4 then some q.toNat else none) = false ∧
        x.accessIssued x.issuer.group gr { mkAccess gr dv { slot := v.toNat, cb := a.toNat, dreg := 0, guard := none, cls := 0 } .atom (if q.toNat < 4 then some q.toNat else none) 0 (x.atomLines x.issuer.group gr dv hits) with op := p.toNat, order := o.toNat, scope := c.toNat, bad := (if (if p.toNat = 12 then 2 else 1) = 2 then (gr.sq.headD {}).poison ||| (gr.sq.getD 1 {}).poison else (gr.sq.headD {}).poison) }
          (fun g => { g with sq := g.sq.drop (if p.toNat = 12 then 2 else 1) }) false oob y)
      (fun _ _ => y)) ∧
    (∀ dv hits oob y, st.actsA (.atom m q v a o c p) m { legal := (decide (q.toNat < 4) || decide (q.toNat = 7)) && decide (o.toNat ≤ 4) && scopeOk c.toNat && atomOpOk p.toNat && !(decide (o.toNat = 4) && decide (c.toNat = 5)) }
      (fun x gr => bufferedOp (x.ctx (x.ctxOf gr)).det p.toNat = true ∧ q.toNat = 7 ∧ (x.wgOf gr).checkedView v.toNat a.toNat = .inr dv ∧ atomSizeOk p.toNat (vEsize dv) = true ∧ vRonly dv = false ∧ emptyQ gr gr.sq (if p.toNat = 12 then 2 else 1) x = none ∧
        x.reach gr dv ((tileParts dv (gr.coords dv a.toNat) (fun _ => true) (elemAt (gr.sq.headD {}).data (8 * vEsize dv)) (elemAt (gr.sq.getD 1 {}).data (8 * vEsize dv))).map fun p =>
          { p with on := sqOn (gr.sq.headD {}) (vEsize dv) p.p }) = .ok hits oob ∧
        x.bufferAtoms gr.wg (x.ctxOf gr) (x.atomEntries x.issuer.group gr dv p.toNat (hits.filter fun h => h.part.on) fun i => (if (if p.toNat = 12 then 2 else 1) = 2 then (gr.sq.headD {}).poison ||| (gr.sq.getD 1 {}).poison else (gr.sq.headD {}).poison).getLsbD (vEsize dv * i / 8)) = some y)
      (fun x _ => (y.updGroup x.issuer.group fun g => { g with sq := g.sq.drop (if p.toNat = 12 then 2 else 1) }).flagOob x.issuer.group oob)) ∧
    st.trapsA (.atom m q v a o c p) m { legal := (decide (q.toNat < 4) || decide (q.toNat = 7)) && decide (o.toNat ≤ 4) && scopeOk c.toNat && atomOpOk p.toNat && !(decide (o.toNat = 4) && decide (c.toNat = 5)) } (fun x gr => bufferedOp (x.ctx (x.ctxOf gr)).det p.toNat = true ∧ q.toNat < 4) { cause := .illegalOp, detail := 4 } ∧
    (∀ dv hits oob, st.trapsA (.atom m q v a o c p) m { legal := (decide (q.toNat < 4) || decide (q.toNat = 7)) && decide (o.toNat ≤ 4) && scopeOk c.toNat && atomOpOk p.toNat && !(decide (o.toNat = 4) && decide (c.toNat = 5)) }
      (fun x gr => bufferedOp (x.ctx (x.ctxOf gr)).det p.toNat = true ∧ q.toNat = 7 ∧ (x.wgOf gr).checkedView v.toNat a.toNat = .inr dv ∧ atomSizeOk p.toNat (vEsize dv) = true ∧ vRonly dv = false ∧ emptyQ gr gr.sq (if p.toNat = 12 then 2 else 1) x = none ∧
        x.reach gr dv ((tileParts dv (gr.coords dv a.toNat) (fun _ => true) (elemAt (gr.sq.headD {}).data (8 * vEsize dv)) (elemAt (gr.sq.getD 1 {}).data (8 * vEsize dv))).map fun p =>
          { p with on := sqOn (gr.sq.headD {}) (vEsize dv) p.p }) = .ok hits oob ∧
        x.bufferAtoms gr.wg (x.ctxOf gr) (x.atomEntries x.issuer.group gr dv p.toNat (hits.filter fun h => h.part.on) fun i => (if (if p.toNat = 12 then 2 else 1) = 2 then (gr.sq.headD {}).poison ||| (gr.sq.getD 1 {}).poison else (gr.sq.headD {}).poison).getLsbD (vEsize dv * i / 8)) = none)
      { cause := .queueError, detail := 5 }) ∧
    (∀ dv, st.trapsA (.atom m q v a o c p) m { legal := (decide (q.toNat < 4) || decide (q.toNat = 7)) && decide (o.toNat ≤ 4) && scopeOk c.toNat && atomOpOk p.toNat && !(decide (o.toNat = 4) && decide (c.toNat = 5)) } (fun x gr => (bufferedOp (x.ctx (x.ctxOf gr)).det p.toNat = false ∨ q.toNat = 7) ∧ (x.wgOf gr).checkedView v.toNat a.toNat = .inr dv ∧ atomSizeOk p.toNat (vEsize dv) = false) (viewFault v.toNat 13)) ∧
    (∀ dv n, st.trapsA (.atom m q v a o c p) m { legal := (decide (q.toNat < 4) || decide (q.toNat = 7)) && decide (o.toNat ≤ 4) && scopeOk c.toNat && atomOpOk p.toNat && !(decide (o.toNat = 4) && decide (c.toNat = 5)) } (fun x gr => (bufferedOp (x.ctx (x.ctxOf gr)).det p.toNat = false ∨ q.toNat = 7) ∧ (x.wgOf gr).checkedView v.toNat a.toNat = .inr dv ∧ atomSizeOk p.toNat (vEsize dv) = true ∧ vRonly dv = true ∧
        lowByte dv (wholeTile dv (gr.coords dv a.toNat)) = n) { cause := .prot, detail := trDetail false 0 0 false true false false, addr := n }) ∧
    (∀ dv, st.trapsA (.atom m q v a o c p) m { legal := (decide (q.toNat < 4) || decide (q.toNat = 7)) && decide (o.toNat ≤ 4) && scopeOk c.toNat && atomOpOk p.toNat && !(decide (o.toNat = 4) && decide (c.toNat = 5)) } (fun x gr => (bufferedOp (x.ctx (x.ctxOf gr)).det p.toNat = false ∨ q.toNat = 7) ∧ (x.wgOf gr).checkedView v.toNat a.toNat = .inr dv ∧ atomSizeOk p.toNat (vEsize dv) = true ∧ vRonly dv = false ∧ gr.sq.length < (if p.toNat = 12 then 2 else 1) ∧ gr.cend = true) { cause := .queueError }) ∧
    (∀ dv, st.startsA (.atom m q v a o c p) m { legal := (decide (q.toNat < 4) || decide (q.toNat = 7)) && decide (o.toNat ≤ 4) && scopeOk c.toNat && atomOpOk p.toNat && !(decide (o.toNat = 4) && decide (c.toNat = 5)) } (fun x gr => (bufferedOp (x.ctx (x.ctxOf gr)).det p.toNat = false ∨ q.toNat = 7) ∧ (x.wgOf gr).checkedView v.toNat a.toNat = .inr dv ∧ atomSizeOk p.toNat (vEsize dv) = true ∧ vRonly dv = false ∧ gr.sq.length < (if p.toNat = 12 then 2 else 1) ∧ gr.cend = false) (fun x _ => x)) ∧
    (∀ dv hits oob, st.startsA (.atom m q v a o c p) m { legal := (decide (q.toNat < 4) || decide (q.toNat = 7)) && decide (o.toNat ≤ 4) && scopeOk c.toNat && atomOpOk p.toNat && !(decide (o.toNat = 4) && decide (c.toNat = 5)) } (fun x gr => bufferedOp (x.ctx (x.ctxOf gr)).det p.toNat = false ∧ (x.wgOf gr).checkedView v.toNat a.toNat = .inr dv ∧ atomSizeOk p.toNat (vEsize dv) = true ∧ vRonly dv = false ∧ emptyQ gr gr.sq (if p.toNat = 12 then 2 else 1) x = none ∧
        x.reach gr dv ((tileParts dv (gr.coords dv a.toNat) (fun _ => true) (elemAt (gr.sq.headD {}).data (8 * vEsize dv)) (elemAt (gr.sq.getD 1 {}).data (8 * vEsize dv))).map fun p =>
          { p with on := sqOn (gr.sq.headD {}) (vEsize dv) p.p }) = .ok hits oob ∧ gr.lqFull (if q.toNat < 4 then some q.toNat else none) = true) (fun x _ => x)) ∧
    (∀ dv hits oob y, st.actsA (.atoma m d a v p4 o2 c) m { legal := scopeOk c.toNat && atomOpOk p4.toNat && !(decide (p4.toNat = 12) && decide (d.toNat = 31)), async := true }
      (fun x gr => bufferedOp (x.ctx (x.ctxOf gr)).det p4.toNat = false ∧ (x.wgOf gr).checkedView v.toNat a.toNat = .inr dv ∧ atomSizeOk p4.toNat (vEsize dv) = true ∧ vRonly dv = false ∧ x.reach gr dv (onePart gr dv a.toNat ((gr.getA d.toNat).toNat % 2 ^ (8 * vEsize dv)) ((gr.getA (d.toNat + 1)).toNat % 2 ^ (8 * vEsize dv))) = .ok hits oob ∧
        x.accessIssued x.issuer.group gr { mkAccess gr dv { slot := v.toNat, cb := a.toNat, dreg := 0, guard := none, cls := 0 } .atoma none d.toNat (x.atomLines x.issuer.group gr dv hits) with op := p4.toNat, order := o2.toNat, scope := c.toNat, bad := (gr.badA d.toNat ||| if p4.toNat = 12 then gr.badA (d.toNat + 1) else 0#32) }
          id true oob y)
      (fun _ _ => y)) ∧
    (∀ dv hits oob y, st.actsA (.atoma m d a v p4 o2 c) m { legal := scopeOk c.toNat && atomOpOk p4.toNat && !(decide (p4.toNat = 12) && decide (d.toNat = 31)), async := true }
      (fun x gr => bufferedOp (x.ctx (x.ctxOf gr)).det p4.toNat = true ∧ (x.wgOf gr).checkedView v.toNat a.toNat = .inr dv ∧ atomSizeOk p4.toNat (vEsize dv) = true ∧ vRonly dv = false ∧ x.reach gr dv (onePart gr dv a.toNat ((gr.getA d.toNat).toNat % 2 ^ (8 * vEsize dv)) ((gr.getA (d.toNat + 1)).toNat % 2 ^ (8 * vEsize dv))) = .ok hits oob ∧ x.bufferAtoms gr.wg (x.ctxOf gr) (x.atomEntries x.issuer.group gr dv p4.toNat hits fun _ => (gr.badA d.toNat ||| if p4.toNat = 12 then gr.badA (d.toNat + 1) else 0#32) ≠ 0#32) = some y)
      (fun x _ => y.flagOob x.issuer.group oob)) ∧
    (∀ dv hits oob, st.trapsA (.atoma m d a v p4 o2 c) m { legal := scopeOk c.toNat && atomOpOk p4.toNat && !(decide (p4.toNat = 12) && decide (d.toNat = 31)), async := true }
      (fun x gr => bufferedOp (x.ctx (x.ctxOf gr)).det p4.toNat = true ∧ (x.wgOf gr).checkedView v.toNat a.toNat = .inr dv ∧ atomSizeOk p4.toNat (vEsize dv) = true ∧ vRonly dv = false ∧ x.reach gr dv (onePart gr dv a.toNat ((gr.getA d.toNat).toNat % 2 ^ (8 * vEsize dv)) ((gr.getA (d.toNat + 1)).toNat % 2 ^ (8 * vEsize dv))) = .ok hits oob ∧ x.bufferAtoms gr.wg (x.ctxOf gr) (x.atomEntries x.issuer.group gr dv p4.toNat hits fun _ => (gr.badA d.toNat ||| if p4.toNat = 12 then gr.badA (d.toNat + 1) else 0#32) ≠ 0#32) = none) { cause := .queueError, detail := 5 }) ∧
    (∀ dv, st.trapsA (.atoma m d a v p4 o2 c) m { legal := scopeOk c.toNat && atomOpOk p4.toNat && !(decide (p4.toNat = 12) && decide (d.toNat = 31)), async := true } (fun x gr => (x.wgOf gr).checkedView v.toNat a.toNat = .inr dv ∧ atomSizeOk p4.toNat (vEsize dv) = false) (viewFault v.toNat 13)) ∧
    (∀ dv n, st.trapsA (.atoma m d a v p4 o2 c) m { legal := scopeOk c.toNat && atomOpOk p4.toNat && !(decide (p4.toNat = 12) && decide (d.toNat = 31)), async := true } (fun x gr => (x.wgOf gr).checkedView v.toNat a.toNat = .inr dv ∧ atomSizeOk p4.toNat (vEsize dv) = true ∧ vRonly dv = true ∧ lowByte dv (onePart gr dv a.toNat 0 0) = n) { cause := .prot, detail := trDetail false 0 0 false true false false, addr := n })

/-- In every state in which it stands ready to issue with a counter reference that passes R102: CTRSET writes Ab to the value, CTRSET.T to the target,
CTRADD adds Ab to the value modulo 2^64; CTRGET and CTRGET.T hold the value or target read (and logged) for Ad; AWAITC and AWAITC.T go on where the
value has reached Ab or the target, and hold the stream where not. For each of the seven, a reference with a reserved bit set or a SPACE other than 2
and 3 raises VIEW_FAULT; else an offset that is not a multiple of 16 raises MISALIGN; else an offset whose 16 bytes do not lie in the workgroup's
allocation raises BOUNDS. -/
def Obligations.CounterInstructionsComplete : Prop :=
  ∀ (st : State) (m : BitVec 1) (d a b : BitVec 5),
    (∀ k, st.actsA (.ctrset m a b) m { legal := true } (fun x g => x.counterAt x.issuer.group g (g.getA a.toNat) = .inr k) (fun x g => x.writeAll k 8 (g.getA b.toNat).toNat)) ∧
    (∀ k, st.actsA (.ctrsetT m a b) m { legal := true } (fun x g => x.counterAt x.issuer.group g (g.getA a.toNat) = .inr k) (fun x g => x.writeAll (k + 8) 8 (g.getA b.toNat).toNat)) ∧
    (∀ k, st.actsA (.ctradd m a b) m { legal := true } (fun x g => x.counterAt x.issuer.group g (g.getA a.toNat) = .inr k) (fun x g => x.writeAll k 8 ((x.read k 8 + (g.getA b.toNat).toNat) % 2 ^ 64))) ∧
    (∀ k y v, st.actsA (.ctrget m d a) m { legal := true, async := true }
      (fun x g => x.counterAt x.issuer.group g (g.getA a.toNat) = .inr k ∧ x.cdc (x.ctxOf g) x.issuer.group true g.icntA 5 (x.read (k + 0) 8) = some (y, v))
      (fun _ _ => y.updGroup y.issuer.group fun g => g.holdA d.toNat (BitVec.ofNat 64 v))) ∧
    (∀ k y v, st.actsA (.ctrgetT m d a) m { legal := true, async := true }
      (fun x g => x.counterAt x.issuer.group g (g.getA a.toNat) = .inr k ∧ x.cdc (x.ctxOf g) x.issuer.group true g.icntA 6 (x.read (k + 8) 8) = some (y, v))
      (fun _ _ => y.updGroup y.issuer.group fun g => g.holdA d.toNat (BitVec.ofNat 64 v))) ∧
    (∀ k, st.actsA (.awaitc m a b) m { legal := true, adv := false } (fun x g => x.counterAt x.issuer.group g (g.getA a.toNat) = .inr k ∧ x.reached k false (g.getA b.toNat).toNat = true)
      (fun x g => x.updGroup x.issuer.group fun q => { q with apc := q.apc + 4 })) ∧
    (∀ k, st.actsA (.awaitc m a b) m { legal := true, adv := false } (fun x g => x.counterAt x.issuer.group g (g.getA a.toNat) = .inr k ∧ x.reached k false (g.getA b.toNat).toNat = false)
      (fun x g => x.updGroup x.issuer.group fun q => { q with await := .counter k false (g.getA b.toNat).toNat })) ∧
    (∀ k, st.actsA (.awaitcT m a) m { legal := true, adv := false } (fun x g => x.counterAt x.issuer.group g (g.getA a.toNat) = .inr k ∧ x.reached k true 0 = true)
      (fun x g => x.updGroup x.issuer.group fun q => { q with apc := q.apc + 4 })) ∧
    (∀ k, st.actsA (.awaitcT m a) m { legal := true, adv := false } (fun x g => x.counterAt x.issuer.group g (g.getA a.toNat) = .inr k ∧ x.reached k true 0 = false)
      (fun x g => x.updGroup x.issuer.group fun q => { q with await := .counter k true 0 })) ∧
    st.trapsA (.ctrset m a b) m { legal := true } (fun _ g => ¬ ((g.getA a.toNat).toNat < 2 ^ 32 ∧ (bits (g.getA a.toNat).toNat 31 29 = 2 ∨ bits (g.getA a.toNat).toNat 31 29 = 3))) { cause := .viewFault } ∧
    st.trapsA (.ctrset m a b) m { legal := true } (fun _ g => ((g.getA a.toNat).toNat < 2 ^ 32 ∧ (bits (g.getA a.toNat).toNat 31 29 = 2 ∨ bits (g.getA a.toNat).toNat 31 29 = 3)) ∧ bits (g.getA a.toNat).toNat 28 0 % 16 ≠ 0) { cause := .misalign } ∧
    st.trapsA (.ctrset m a b) m { legal := true } (fun x g => ((g.getA a.toNat).toNat < 2 ^ 32 ∧ (bits (g.getA a.toNat).toNat 31 29 = 2 ∨ bits (g.getA a.toNat).toNat 31 29 = 3)) ∧ bits (g.getA a.toNat).toNat 28 0 % 16 = 0 ∧ x.spaceBytes g (bits (g.getA a.toNat).toNat 31 29) < bits (g.getA a.toNat).toNat 28 0 + 16) { cause := .bounds } ∧
    st.trapsA (.ctrsetT m a b) m { legal := true } (fun _ g => ¬ ((g.getA a.toNat).toNat < 2 ^ 32 ∧ (bits (g.getA a.toNat).toNat 31 29 = 2 ∨ bits (g.getA a.toNat).toNat 31 29 = 3))) { cause := .viewFault } ∧
    st.trapsA (.ctrsetT m a b) m { legal := true } (fun _ g => ((g.getA a.toNat).toNat < 2 ^ 32 ∧ (bits (g.getA a.toNat).toNat 31 29 = 2 ∨ bits (g.getA a.toNat).toNat 31 29 = 3)) ∧ bits (g.getA a.toNat).toNat 28 0 % 16 ≠ 0) { cause := .misalign } ∧
    st.trapsA (.ctrsetT m a b) m { legal := true } (fun x g => ((g.getA a.toNat).toNat < 2 ^ 32 ∧ (bits (g.getA a.toNat).toNat 31 29 = 2 ∨ bits (g.getA a.toNat).toNat 31 29 = 3)) ∧ bits (g.getA a.toNat).toNat 28 0 % 16 = 0 ∧ x.spaceBytes g (bits (g.getA a.toNat).toNat 31 29) < bits (g.getA a.toNat).toNat 28 0 + 16) { cause := .bounds } ∧
    st.trapsA (.ctradd m a b) m { legal := true } (fun _ g => ¬ ((g.getA a.toNat).toNat < 2 ^ 32 ∧ (bits (g.getA a.toNat).toNat 31 29 = 2 ∨ bits (g.getA a.toNat).toNat 31 29 = 3))) { cause := .viewFault } ∧
    st.trapsA (.ctradd m a b) m { legal := true } (fun _ g => ((g.getA a.toNat).toNat < 2 ^ 32 ∧ (bits (g.getA a.toNat).toNat 31 29 = 2 ∨ bits (g.getA a.toNat).toNat 31 29 = 3)) ∧ bits (g.getA a.toNat).toNat 28 0 % 16 ≠ 0) { cause := .misalign } ∧
    st.trapsA (.ctradd m a b) m { legal := true } (fun x g => ((g.getA a.toNat).toNat < 2 ^ 32 ∧ (bits (g.getA a.toNat).toNat 31 29 = 2 ∨ bits (g.getA a.toNat).toNat 31 29 = 3)) ∧ bits (g.getA a.toNat).toNat 28 0 % 16 = 0 ∧ x.spaceBytes g (bits (g.getA a.toNat).toNat 31 29) < bits (g.getA a.toNat).toNat 28 0 + 16) { cause := .bounds } ∧
    st.trapsA (.ctrget m d a) m { legal := true, async := true } (fun _ g => ¬ ((g.getA a.toNat).toNat < 2 ^ 32 ∧ (bits (g.getA a.toNat).toNat 31 29 = 2 ∨ bits (g.getA a.toNat).toNat 31 29 = 3))) { cause := .viewFault } ∧
    st.trapsA (.ctrget m d a) m { legal := true, async := true } (fun _ g => ((g.getA a.toNat).toNat < 2 ^ 32 ∧ (bits (g.getA a.toNat).toNat 31 29 = 2 ∨ bits (g.getA a.toNat).toNat 31 29 = 3)) ∧ bits (g.getA a.toNat).toNat 28 0 % 16 ≠ 0) { cause := .misalign } ∧
    st.trapsA (.ctrget m d a) m { legal := true, async := true } (fun x g => ((g.getA a.toNat).toNat < 2 ^ 32 ∧ (bits (g.getA a.toNat).toNat 31 29 = 2 ∨ bits (g.getA a.toNat).toNat 31 29 = 3)) ∧ bits (g.getA a.toNat).toNat 28 0 % 16 = 0 ∧ x.spaceBytes g (bits (g.getA a.toNat).toNat 31 29) < bits (g.getA a.toNat).toNat 28 0 + 16) { cause := .bounds } ∧
    st.trapsA (.ctrgetT m d a) m { legal := true, async := true } (fun _ g => ¬ ((g.getA a.toNat).toNat < 2 ^ 32 ∧ (bits (g.getA a.toNat).toNat 31 29 = 2 ∨ bits (g.getA a.toNat).toNat 31 29 = 3))) { cause := .viewFault } ∧
    st.trapsA (.ctrgetT m d a) m { legal := true, async := true } (fun _ g => ((g.getA a.toNat).toNat < 2 ^ 32 ∧ (bits (g.getA a.toNat).toNat 31 29 = 2 ∨ bits (g.getA a.toNat).toNat 31 29 = 3)) ∧ bits (g.getA a.toNat).toNat 28 0 % 16 ≠ 0) { cause := .misalign } ∧
    st.trapsA (.ctrgetT m d a) m { legal := true, async := true } (fun x g => ((g.getA a.toNat).toNat < 2 ^ 32 ∧ (bits (g.getA a.toNat).toNat 31 29 = 2 ∨ bits (g.getA a.toNat).toNat 31 29 = 3)) ∧ bits (g.getA a.toNat).toNat 28 0 % 16 = 0 ∧ x.spaceBytes g (bits (g.getA a.toNat).toNat 31 29) < bits (g.getA a.toNat).toNat 28 0 + 16) { cause := .bounds } ∧
    st.trapsA (.awaitc m a b) m { legal := true, adv := false } (fun _ g => ¬ ((g.getA a.toNat).toNat < 2 ^ 32 ∧ (bits (g.getA a.toNat).toNat 31 29 = 2 ∨ bits (g.getA a.toNat).toNat 31 29 = 3))) { cause := .viewFault } ∧
    st.trapsA (.awaitc m a b) m { legal := true, adv := false } (fun _ g => ((g.getA a.toNat).toNat < 2 ^ 32 ∧ (bits (g.getA a.toNat).toNat 31 29 = 2 ∨ bits (g.getA a.toNat).toNat 31 29 = 3)) ∧ bits (g.getA a.toNat).toNat 28 0 % 16 ≠ 0) { cause := .misalign } ∧
    st.trapsA (.awaitc m a b) m { legal := true, adv := false } (fun x g => ((g.getA a.toNat).toNat < 2 ^ 32 ∧ (bits (g.getA a.toNat).toNat 31 29 = 2 ∨ bits (g.getA a.toNat).toNat 31 29 = 3)) ∧ bits (g.getA a.toNat).toNat 28 0 % 16 = 0 ∧ x.spaceBytes g (bits (g.getA a.toNat).toNat 31 29) < bits (g.getA a.toNat).toNat 28 0 + 16) { cause := .bounds } ∧
    st.trapsA (.awaitcT m a) m { legal := true, adv := false } (fun _ g => ¬ ((g.getA a.toNat).toNat < 2 ^ 32 ∧ (bits (g.getA a.toNat).toNat 31 29 = 2 ∨ bits (g.getA a.toNat).toNat 31 29 = 3))) { cause := .viewFault } ∧
    st.trapsA (.awaitcT m a) m { legal := true, adv := false } (fun _ g => ((g.getA a.toNat).toNat < 2 ^ 32 ∧ (bits (g.getA a.toNat).toNat 31 29 = 2 ∨ bits (g.getA a.toNat).toNat 31 29 = 3)) ∧ bits (g.getA a.toNat).toNat 28 0 % 16 ≠ 0) { cause := .misalign } ∧
    st.trapsA (.awaitcT m a) m { legal := true, adv := false } (fun x g => ((g.getA a.toNat).toNat < 2 ^ 32 ∧ (bits (g.getA a.toNat).toNat 31 29 = 2 ∨ bits (g.getA a.toNat).toNat 31 29 = 3)) ∧ bits (g.getA a.toNat).toNat 28 0 % 16 = 0 ∧ x.spaceBytes g (bits (g.getA a.toNat).toNat 31 29) < bits (g.getA a.toNat).toNat 28 0 + 16) { cause := .bounds }

/-- In every state in which it stands ready to issue, a command whose registers, views, permissions, counter reference and bounds pass the checks in their
order joins the copy or fabric engine's queue (with its guard pending, resolved, or discarded where it has resolved false), OOB raised where an
element is out of bounds; a command that fails a check raises that check's trap and queues nothing. -/
def Obligations.EngineCommandsQueue : Prop :=
  ∀ (st : State) (m : BitVec 1) (d c : BitVec 5) (g : BitVec 3) (e : BitVec 1) (h : BitVec 2) (p : BitVec 8),
    (∀ cmd oob y, st.actsA (.cpy m d c g e) m { legal := guardOk g e }
      (fun x gr => x.copyCheck gr false d.toNat c.toNat = .inr (cmd, oob) ∧ x.cmdIssued gr (if e = 1#1 then some g.toNat else none) oob cmd (fun c k => { k with copyQ := k.copyQ ++ [c] }) y) (fun _ _ => y)) ∧
    (∀ cmd oob y, st.actsA (.hand m d c g e) m { legal := guardOk g e }
      (fun x gr => x.copyCheck gr true d.toNat c.toNat = .inr (cmd, oob) ∧ x.cmdIssued gr (if e = 1#1 then some g.toNat else none) oob cmd (fun c k => { k with copyQ := k.copyQ ++ [c] }) y) (fun _ _ => y)) ∧
    (∀ cmd oob y, st.actsA (.xfer m d c g e h p) m { legal := guardOk g e }
      (fun x gr => x.xferCheck gr false d.toNat c.toNat h.toNat p.toNat = .inr (cmd, oob) ∧ x.cmdIssued gr (if e = 1#1 then some g.toNat else none) oob cmd (fun c k => { k with fabQ := k.fabQ ++ [c] }) y) (fun _ _ => y)) ∧
    (∀ cmd oob y, st.actsA (.xmc m d c g e h p) m { legal := guardOk g e }
      (fun x gr => x.xferCheck gr true d.toNat c.toNat h.toNat p.toNat = .inr (cmd, oob) ∧ x.cmdIssued gr (if e = 1#1 then some g.toNat else none) oob cmd (fun c k => { k with fabQ := k.fabQ ++ [c] }) y) (fun _ _ => y)) ∧
    (∀ t, st.trapsA (.cpy m d c g e) m { legal := guardOk g e } (fun x gr => x.copyCheck gr false d.toNat c.toNat = .inl t) t) ∧
    (∀ t, st.trapsA (.hand m d c g e) m { legal := guardOk g e } (fun x gr => x.copyCheck gr true d.toNat c.toNat = .inl t) t) ∧
    (∀ t, st.trapsA (.xfer m d c g e h p) m { legal := guardOk g e } (fun x gr => x.xferCheck gr false d.toNat c.toNat h.toNat p.toNat = .inl t) t) ∧
    (∀ t, st.trapsA (.xmc m d c g e h p) m { legal := guardOk g e } (fun x gr => x.xferCheck gr true d.toNat c.toNat h.toNat p.toNat = .inl t) t)

/-- In every state in which it stands ready to issue: a FENCE or XFENCE with a legal kind, scope and path masks holds the access stream with what it waits
for; LDP through a view that passes its checks, in a context with a domain, loads its tile as LDT does where the required placement equals the view's,
or where its conversion has been made (then through the view as that left it); where one axis needs a local slice it defines the slot with the sliced
view and loads through that; where one axis needs a collective it submits the conversion, once its own stores to the view's bytes are performed, and
holds the stream; outside a domain it raises PROT, and with more than one axis to convert PLACEMENT 2. -/
def Obligations.FencesAndPlacedLoadsIssue : Prop :=
  ∀ (st : State) (m : BitVec 1) (q : BitVec 3) (v a : BitVec 5) (d g : BitVec 3) (e : BitVec 1) (c : BitVec 2) (s k : BitVec 3) (f t : BitVec 7),
    st.actsA (.fence m s k) m { legal := scopeOk s.toNat && decide (k.toNat ≤ 3) && !(decide (k.toNat = 3) && decide (s.toNat = 5)), adv := false } anywayA
      (fun x gr => x.putGroup x.issuer.group { gr with await := .fence k.toNat s.toNat gr.nextId }) ∧
    st.actsA (.xfence m f t s) m { legal := scopeOk s.toNat && decide (f ≠ 0#7) && decide (t ≠ 0#7), adv := false } anywayA
      (fun x gr => x.putGroup x.issuer.group { gr with await := .xfence f.toNat t.toNat s.toNat gr.nextId }) ∧
    (∀ dv dom hits oob y, st.actsA (.ldp m q v a d g e c) m { legal := decide (q.toNat < 4) && guardOk g e }
      (fun x gr => gr.await.made = none ∧ (x.wgOf gr).checkedView v.toNat a.toNat = .inr dv ∧ a.toNat + vNdim dv ≤ 31 ∧ (gr.getA (a.toNat + vNdim dv)).toNat < 2 ^ 44 ∧ vConverting dv = false ∧
        (x.ctx (x.ctxOf gr)).domain = some dom ∧
        ((List.range 4).filter fun i => decide (placeByte (vPlace dv) i ≠ placeByte ((gr.getA (a.toNat + vNdim dv)).toNat % 2 ^ 32) i)) = [] ∧
        x.reach gr dv (wholeTile dv (gr.coords dv a.toNat)) = .ok hits oob ∧
        (e = 1#1 ∨ gr.lqFull (some q.toNat) = false) ∧
        x.accessIssued x.issuer.group gr (mkAccess gr dv (amOf v a d g e c) .load (some q.toNat) 0 (x.viewLines x.issuer.group gr dv (accClass dv (amOf v a d g e c).cls) hits)) id false oob y)
      (fun _ _ => y)) ∧
    (∀ cv dv hits oob y, st.actsA (.ldp m q v a d g e c) m { legal := decide (q.toNat < 4) && guardOk g e }
      (fun x gr => gr.await.made = some cv ∧ checkedDesc cv v.toNat a.toNat = .inr dv ∧
        (x.updGroup x.issuer.group fun g => { g with await := .ready }).reach { gr with await := .ready } dv (wholeTile dv ({ gr with await := .ready }.coords dv a.toNat)) = .ok hits oob ∧
        (e = 1#1 ∨ gr.lqFull (some q.toNat) = false) ∧
        (x.updGroup x.issuer.group fun g => { g with await := .ready }).accessIssued x.issuer.group { gr with await := .ready } (mkAccess { gr with await := .ready } dv (amOf v a d g e c) .load (some q.toNat) 0 ((x.updGroup x.issuer.group fun g => { g with await := .ready }).viewLines x.issuer.group { gr with await := .ready } dv (accClass dv (amOf v a d g e c).cls) hits)) id false oob y)
      (fun _ _ => y)) ∧
    (∀ dv sv dom i ms devs me act hits oob y, st.actsA (.ldp m q v a d g e c) m { legal := decide (q.toNat < 4) && guardOk g e }
      (fun x gr => gr.await.made = none ∧ (x.wgOf gr).checkedView v.toNat a.toNat = .inr dv ∧ a.toNat + vNdim dv ≤ 31 ∧ (gr.getA (a.toNat + vNdim dv)).toNat < 2 ^ 44 ∧ vConverting dv = false ∧
        (x.ctx (x.ctxOf gr)).domain = some dom ∧
        ((List.range 4).filter fun i => decide (placeByte (vPlace dv) i ≠ placeByte ((gr.getA (a.toNat + vNdim dv)).toNat % 2 ^ 32) i)) = [i] ∧ vMesh dv / 256 = 0 ∧ mget (x.domain dom).meshes (vMesh dv) = some ms ∧ axisGroup ms i x.devno = some (devs, me) ∧
        (((if e = 1#1 then some g.toNat else (none : Option Nat)) = none) ∨ (mgetD gr.guards g.toNat {}).res.head? = some true) ∧ rtypeOk act (placeByte (vPlace dv) i / 32 % 2) (bits (gr.getA (a.toNat + vNdim dv)).toNat 35 32) (vEsize dv) = true ∧
        convAct (vNdim dv) (placeByte (vPlace dv) i) (placeByte ((gr.getA (a.toNat + vNdim dv)).toNat % 2 ^ 32) i) = some act ∧ act = .slice ∧ vExt dv (convDim (placeByte (vPlace dv) i) (placeByte ((gr.getA (a.toNat + vNdim dv)).toNat % 2 ^ 32) i)) % devs.length = 0 ∧
        checkedDesc (sliceView dv i (placeByte ((gr.getA (a.toNat + vNdim dv)).toNat % 2 ^ 32) i) me devs.length) v.toNat a.toNat = .inr sv ∧
        ((x.updWg gr.wg fun w => { w with views := mput w.views v.toNat (sliceView dv i (placeByte ((gr.getA (a.toNat + vNdim dv)).toNat % 2 ^ 32) i) me devs.length) 0 }).updGroup x.issuer.group fun g => { g with await := .ready }).reach { gr with await := .ready } sv (wholeTile sv ({ gr with await := .ready }.coords sv a.toNat)) = .ok hits oob ∧
        (e = 1#1 ∨ gr.lqFull (some q.toNat) = false) ∧
        ((x.updWg gr.wg fun w => { w with views := mput w.views v.toNat (sliceView dv i (placeByte ((gr.getA (a.toNat + vNdim dv)).toNat % 2 ^ 32) i) me devs.length) 0 }).updGroup x.issuer.group fun g => { g with await := .ready }).accessIssued x.issuer.group { gr with await := .ready } (mkAccess { gr with await := .ready } sv (amOf v a d g e c) .load (some q.toNat) 0 (((x.updWg gr.wg fun w => { w with views := mput w.views v.toNat (sliceView dv i (placeByte ((gr.getA (a.toNat + vNdim dv)).toNat % 2 ^ 32) i) me devs.length) 0 }).updGroup x.issuer.group fun g => { g with await := .ready }).viewLines x.issuer.group { gr with await := .ready } sv (accClass sv (amOf v a d g e c).cls) hits)) id false oob y)
      (fun _ _ => y)) ∧
    (∀ dv dom i ms devs me act y, st.startsA (.ldp m q v a d g e c) m { legal := decide (q.toNat < 4) && guardOk g e }
      (fun x gr => gr.await.made = none ∧ (x.wgOf gr).checkedView v.toNat a.toNat = .inr dv ∧ a.toNat + vNdim dv ≤ 31 ∧ (gr.getA (a.toNat + vNdim dv)).toNat < 2 ^ 44 ∧ vConverting dv = false ∧
        (x.ctx (x.ctxOf gr)).domain = some dom ∧
        ((List.range 4).filter fun i => decide (placeByte (vPlace dv) i ≠ placeByte ((gr.getA (a.toNat + vNdim dv)).toNat % 2 ^ 32) i)) = [i] ∧ vMesh dv / 256 = 0 ∧ mget (x.domain dom).meshes (vMesh dv) = some ms ∧ axisGroup ms i x.devno = some (devs, me) ∧
        (((if e = 1#1 then some g.toNat else (none : Option Nat)) = none) ∨ (mgetD gr.guards g.toNat {}).res.head? = some true) ∧ rtypeOk act (placeByte (vPlace dv) i / 32 % 2) (bits (gr.getA (a.toNat + vNdim dv)).toNat 35 32) (vEsize dv) = true ∧
        convAct (vNdim dv) (placeByte (vPlace dv) i) (placeByte ((gr.getA (a.toNat + vNdim dv)).toNat % 2 ^ 32) i) = some act ∧ act ≠ .slice ∧ (act = .scatter → vExt dv (convDim (placeByte (vPlace dv) i) (placeByte ((gr.getA (a.toNat + vNdim dv)).toNat % 2 ^ 32) i)) % devs.length = 0) ∧
        (devs.find? fun n => decide (n ≠ x.devno) && x.dead.getLsbD n) = none ∧ x.storesDone x.issuer.group gr dv = true ∧
        x.submitConv x.issuer.group gr { num := 0, dom := dom, ctx := x.ctxOf gr, group := x.issuer.group, wg := gr.wg, slot := v.toNat, mesh := vMesh dv, axis := i, toByte := placeByte ((gr.getA (a.toNat + vNdim dv)).toNat % 2 ^ 32) i, rtype := bits (gr.getA (a.toNat + vNdim dv)).toNat 35 32, step := bits (gr.getA (a.toNat + vNdim dv)).toNat 43 36, devs := devs, me := me, view := dv } = some y)
      (fun _ _ => y)) ∧
    (∀ dv, st.trapsA (.ldp m q v a d g e c) m { legal := decide (q.toNat < 4) && guardOk g e }
      (fun x gr => gr.await.made = none ∧ (x.wgOf gr).checkedView v.toNat a.toNat = .inr dv ∧ a.toNat + vNdim dv ≤ 31 ∧ (gr.getA (a.toNat + vNdim dv)).toNat < 2 ^ 44 ∧ vConverting dv = false ∧
        (x.ctx (x.ctxOf gr)).domain = none) { cause := .prot }) ∧
    (∀ dv dom i j l, st.trapsA (.ldp m q v a d g e c) m { legal := decide (q.toNat < 4) && guardOk g e }
      (fun x gr => gr.await.made = none ∧ (x.wgOf gr).checkedView v.toNat a.toNat = .inr dv ∧ a.toNat + vNdim dv ≤ 31 ∧ (gr.getA (a.toNat + vNdim dv)).toNat < 2 ^ 44 ∧ vConverting dv = false ∧
        (x.ctx (x.ctxOf gr)).domain = some dom ∧
        ((List.range 4).filter fun i => decide (placeByte (vPlace dv) i ≠ placeByte ((gr.getA (a.toNat + vNdim dv)).toNat % 2 ^ 32) i)) = i :: j :: l)
      { cause := .placement, detail := 2 })

/-- In every state in which it is a Weir's turn, a kernel runs in a loaded slot and the instruction's one cycle leaves it within 256, each of the register
instructions answers a next state in which the kernel's W or X destination holds the lane-wise or scalar result of R384 to R388 and the kernel stands
at its next word. -/
def Obligations.WeirRegisterInstructionsComplete : Prop :=
  ∀ (st : State) (v : BitVec 1) (d a b e : BitVec 4) (x : BitVec 1) (i : BitVec 14) (c l : BitVec 3) (k : BitVec 16),
    st.weirSets (.wadd v d a b x) 1 (weirAlu (fun x y => x + y) v d a (weirB v b x)) ∧
    st.weirSets (.waddI v d a i) 1 (weirAlu (fun x y => x + y) v d a (weirI i)) ∧
    st.weirSets (.wsub v d a b x) 1 (weirAlu (fun x y => x - y) v d a (weirB v b x)) ∧
    st.weirSets (.wsubI v d a i) 1 (weirAlu (fun x y => x - y) v d a (weirI i)) ∧
    st.weirSets (.wmul v d a b x) 1 (weirAlu (fun x y => x * y) v d a (weirB v b x)) ∧
    st.weirSets (.wmulI v d a i) 1 (weirAlu (fun x y => x * y) v d a (weirI i)) ∧
    st.weirSets (.wand v d a b x) 1 (weirAlu (fun x y => x &&& y) v d a (weirB v b x)) ∧
    st.weirSets (.wandI v d a i) 1 (weirAlu (fun x y => x &&& y) v d a (weirI i)) ∧
    st.weirSets (.wor v d a b x) 1 (weirAlu (fun x y => x ||| y) v d a (weirB v b x)) ∧
    st.weirSets (.worI v d a i) 1 (weirAlu (fun x y => x ||| y) v d a (weirI i)) ∧
    st.weirSets (.wxor v d a b x) 1 (weirAlu (fun x y => x ^^^ y) v d a (weirB v b x)) ∧
    st.weirSets (.wxorI v d a i) 1 (weirAlu (fun x y => x ^^^ y) v d a (weirI i)) ∧
    st.weirSets (.wshl v d a b x) 1 (weirAlu (fun x y => x <<< (y.toNat % 32)) v d a (weirB v b x)) ∧
    st.weirSets (.wshlI v d a i) 1 (weirAlu (fun x y => x <<< (y.toNat % 32)) v d a (weirI i)) ∧
    st.weirSets (.wshr v d a b x) 1 (weirAlu (fun x y => x >>> (y.toNat % 32)) v d a (weirB v b x)) ∧
    st.weirSets (.wshrI v d a i) 1 (weirAlu (fun x y => x >>> (y.toNat % 32)) v d a (weirI i)) ∧
    st.weirSets (.wmin v d a b x) 1 (weirAlu (fun x y => if x ≤ y then x else y) v d a (weirB v b x)) ∧
    st.weirSets (.wminI v d a i) 1 (weirAlu (fun x y => if x ≤ y then x else y) v d a (weirI i)) ∧
    st.weirSets (.wmax v d a b x) 1 (weirAlu (fun x y => if x ≤ y then y else x) v d a (weirB v b x)) ∧
    st.weirSets (.wmaxI v d a i) 1 (weirAlu (fun x y => if x ≤ y then y else x) v d a (weirI i)) ∧
    st.weirSets (.wcmp v c d a b x) 1 (weirAlu (fun p q => if weirCond c.toNat p q then BitVec.allOnes 32 else 0#32) v d a (weirB v b x)) ∧
    st.weirSets (.wsel v d a b e) 1 (fun r => if v = 1#1 then r.putX d.toNat (if r.getX e.toNat ≠ 0 then r.getX a.toNat else r.getX b.toNat)
      else r.putW d.toNat (wlanes fun i => if wlane (r.getW e.toNat) i ≠ 0 then wlane (r.getW a.toNat) i else wlane (r.getW b.toNat) i)) ∧
    st.weirSets (.wmovW d a) 1 (fun r => r.putW d.toNat (r.getW a.toNat)) ∧
    st.weirSets (.wmovX d a) 1 (fun r => r.putX d.toNat (r.getX a.toNat)) ∧
    st.weirSets (.wmovWx d a) 1 (fun r => r.putW d.toNat (wlanes fun _ => r.getX a.toNat)) ∧
    st.weirSets (.wmovXl d a l) 1 (fun r => r.putX d.toNat (wlane (r.getW a.toNat) l.toNat)) ∧
    st.weirSets (.wmovWl d a l) 1 (fun r => r.putW d.toNat (wlanes fun i => if i = l.toNat then r.getX a.toNat else wlane (r.getW d.toNat) i)) ∧
    st.weirSets (.wli v d k) 1 (fun r => if v = 1#1 then r.putX d.toNat (k.signExtend 32) else r.putW d.toNat (wlanes fun _ => k.signExtend 32)) ∧
    st.weirSets (.wliH v d k) 1 (fun r => if v = 1#1 then r.putX d.toNat (k ++ (r.getX d.toNat).extractLsb' 0 16)
      else r.putW d.toNat (wlanes fun j => k ++ (wlane (r.getW d.toNat) j).extractLsb' 0 16))

/-- In every state in which it is a Weir's turn, a kernel runs in a loaded slot and the instruction's cost leaves it within 256 cycles: WHDR, WLDP, WSTP,
WHASH, WDUP (fewer than three copies) and WTRAP do what R389 to R395 say; WSETH writes a value that fits its field and else ends the kernel with
FIELD; WLDF, WSTF, WATF and WHASH.LK act on the flow state within the slot's partition where it is not poisoned; WREP, WBR and a taken WBR.cc go to
their word; a fourth WDUP, WFWD, WDROP and WEND end the kernel, and the packet is disposed of. -/
def Obligations.WeirPacketInstructionsComplete : Prop :=
  ∀ (st : State) (w : BitVec 4) (d a b x c : BitVec 3) (i : BitVec 16) (j : BitVec 11),
    (∀ f : BitVec 5, st.weirSets (.whdr w f) 1 (fun r => r.putX w.toNat (BitVec.ofNat 32 (weirField st r f.toNat)))) ∧
    st.weirSets (.whdrW w) 1 (fun r => r.putW w.toNat r.pkt.hdr) ∧
    (∀ (f : BitVec 5) lo n m, weirWritable f.toNat = some (lo, n, m) → st.weirActs (.wseth w f) 1 (fun _ _ r => (r.getX w.toNat).toNat < 2 ^ m)
      (fun _ _ r => (st, { r with pkt := { r.pkt with hdr := pSet r.pkt.hdr lo n (r.getX w.toNat).toNat } }))) ∧
    (∀ (f : BitVec 5) lo n m, weirWritable f.toNat = some (lo, n, m) → st.weirEnds (.wseth w f) 1 (fun _ r => 2 ^ m ≤ (r.getX w.toNat).toNat) (fun _ => .err 7 0)) ∧
    st.weirSets (.wldp w c) 1 (fun r => r.putW w.toNat (chunk r.pkt c.toNat)) ∧
    st.weirSets (.wldpX w x c) 1 (fun r => r.putW w.toNat (if c.toNat + (r.getX x.toNat).toNat < 8 then chunk r.pkt (c.toNat + (r.getX x.toNat).toNat) else 0)) ∧
    st.weirSets (.wstp w c) 1 (fun r => { r with pkt := putChunk r.pkt c.toNat (r.getW w.toNat) }) ∧
    st.weirSets (.wstpX w x c) 1 (fun r => if c.toNat + (r.getX x.toNat).toNat < 8 then { r with pkt := putChunk r.pkt (c.toNat + (r.getX x.toNat).toNat) (r.getW w.toNat) } else r) ∧
    st.weirActs (.wldf w x i) 2 (fun port s r => 32 * ((r.getX x.toNat).toNat + i.toNat) + 32 ≤ s.flowsz ∧ st.poisonedAt (flatFlow port (s.base + (32 * ((r.getX x.toNat).toNat + i.toNat)))) 32 = false)
      (fun port s r => (st, r.putW w.toNat (BitVec.ofNat 256 (st.read (flatFlow port (s.base + (32 * ((r.getX x.toNat).toNat + i.toNat)))) 32)))) ∧
    st.weirActs (.wstf w x i) 2 (fun _ s r => 32 * ((r.getX x.toNat).toNat + i.toNat) + 32 ≤ s.flowsz)
      (fun port s r => (st.writeAll (flatFlow port (s.base + (32 * ((r.getX x.toNat).toNat + i.toNat)))) 32 (r.getW w.toNat).toNat, r)) ∧
    st.weirActs (.watf w d a b j) 2 (fun port s r => 4 * ((r.getX a.toNat).toNat + j.toNat) + 4 ≤ s.flowsz ∧ st.poisonedAt (flatFlow port (s.base + (4 * ((r.getX a.toNat).toNat + j.toNat)))) 4 = false)
      (fun port s r => (st.writeAll (flatFlow port (s.base + (4 * ((r.getX a.toNat).toNat + j.toNat)))) 4 (watfNew w.toNat (BitVec.ofNat 32 (st.read (flatFlow port (s.base + (4 * ((r.getX a.toNat).toNat + j.toNat)))) 4)) (r.getX b.toNat) (r.getX d.toNat)).toNat,
        r.putX d.toNat (BitVec.ofNat 32 (st.read (flatFlow port (s.base + (4 * ((r.getX a.toNat).toNat + j.toNat)))) 4)))) ∧
    st.weirSets (.whash d w c) 4 (fun r => r.putX d.toNat (BitVec.ofNat 32 (crc32c (bytesLe (4 * (c.toNat + 1)) (r.getW w.toNat).toNat)))) ∧
    st.weirActs (.whashLk d w) 8 (fun port s r => 32 * (s.lkbase + crc32c (bytesLe 4 (wlane (r.getW w.toNat) 0).toNat) % 2 ^ s.lklog2) + 32 ≤ s.flowsz ∧ st.poisonedAt (flatFlow port (s.base + (32 * (s.lkbase + crc32c (bytesLe 4 (wlane (r.getW w.toNat) 0).toNat) % 2 ^ s.lklog2)))) 32 = false)
      (fun port s r => (st, r.putX d.toNat (BitVec.ofNat 32 (lookup (st.read (flatFlow port (s.base + (32 * (s.lkbase + crc32c (bytesLe 4 (wlane (r.getW w.toNat) 0).toNat) % 2 ^ s.lklog2)))) 32) (wlane (r.getW w.toNat) 0).toNat)))) ∧
    (∀ l : BitVec 6, st.weirJumps (.wrep w l) (fun _ => True) (fun r => { r with pc := r.pc + 1, rep := some (r.pc + 1, r.pc + 1 + l.toNat, w.toNat + 1) })) ∧
    (∀ o : BitVec 8, st.weirJumps (.wbr o) (fun _ => True) (fun r => { r with pc := r.pc + o.toNat })) ∧
    (∀ o : BitVec 8, st.weirJumps (.wbrCc c a o) (fun r => (match c.toNat with
        | 1 => decide ((r.getX a.toNat).toInt = 0)
        | 2 => decide ((r.getX a.toNat).toInt ≠ 0)
        | 3 => decide ((r.getX a.toNat).toInt < 0)
        | _ => decide (0 ≤ (r.getX a.toNat).toInt)) = true) (fun r => { r with pc := r.pc + o.toNat })) ∧
    st.weirActs (.wdup a) 2 (fun _ _ r => r.copies.length < 3) (fun _ _ r => (st, { r with copies := r.copies ++ [((r.getX a.toNat).toNat, r.pkt)] })) ∧
    st.weirEnds (.wdup a) 2 (fun _ r => 3 ≤ r.copies.length) (fun _ => .err 5 0) ∧
    (∀ k : BitVec 12, st.weirActs (.wtrap k a) 2 (fun _ _ _ => True) (fun port _ r => (st.eventRecord (pDom r.pkt.hdr) 1 port r.slot k.toNat (r.getX a.toNat).toNat r.pkt.hdr, r))) ∧
    st.weirEnds .wfwd 1 (fun _ _ => True) (fun _ => .fin true) ∧
    st.weirEnds .wdrop 1 (fun _ _ => True) (fun _ => .fin false) ∧
    st.weirEnds .wend 1 (fun _ _ => True) (fun s => .fin (!s.drops))

/-- In every state in which the head general command is one of RESET, MODESET, FWUPDATE, FREEZE, THAW, ATTEST, DOMSET, DOMCLR, PEERSET, PEERCLR, PEERTMO
or DEVNO that may run, with operands that its checks pass, the command's event answers a next state in which its effect has happened and the command
has ended with code 0 (MODESET with every cache emptied and the reserved regions of the new devices built again, FWUPDATE with the image in the
inactive bank, or with code 4 where a stage's key, signature or version is refused, ATTEST with code 0 once its report, signed with a free salt, has
been written on the HOST path, and with code 2 where it does not fit its buffer); module reset always completes. Where a firmware image holds its
stages, their signatures and versions is not given and left open by the model (log entry 16). -/
def Obligations.ControlOperationsComplete : Prop :=
  ∀ (st : State) (c : Cmd),
    exec .moduleReset st = .next st.moduleReset ∧
    (CtlHead st 1 c → c.arg0 = 0 → c.arg = 0 → exec .reset st = .next st.moduleReset) ∧
    (CtlHead st 2 c → c.arg0 ≤ 2 → c.arg = 0 → st.ctxs = [] → exec .modeset st = .next (({ st with cores := mmap st.cores fun _ k => { k with l1 := [] }, dies := mmap st.dies fun _ d => { d with l2 := [] }, dir := [], l3 := [], tlb := [], mode := c.arg0, pool := if c.arg0 = 0 then 64 else if c.arg0 = 1 then 32 else 8 } : State).rebuilt.ctlDone c 0)) ∧
    (∀ n img, n = 4096 * c.arg0 → img = st.devRead n c.arg.toNat → CtlHead st 3 c → c.arg0 ≠ 0 → c.arg.toNat % 4096 = 0 → c.arg.toNat < 2 ^ 40 →
      exec .fwupdate st = .next (if imageOk st.fwFuse img = true
        then ({ st with fwBanks := mset st.fwBanks (1 - st.fwActive) img, fwPending := true } : State).ctlDone c 0 else st.ctlDone c 4)) ∧
    (CtlHead st 5 c → c.arg0 = 0 → c.arg = 0 → st.captureEn = true → exec .freeze st = .next (st.freeze.ctlDone c 0)) ∧
    (CtlHead st 6 c → c.arg0 = 0 → c.arg = 0 → st.frozen = true → exec .thaw st = .next (st.thaw.ctlDone c 0)) ∧
    (∀ r n x, CtlHead st 7 c → c.arg0 = 0 → c.arg.toNat < 2 ^ 33 → st.report (st.devRead 32 (c.arg.toNat * 128)) = (r, n) →
      (64 + n + 512 ≤ 4096 → st.freeValue.2.hostPut (n + 512) (c.arg.toNat * 128 + 64) (r + identitySign n r st.freeValue.1 * 2 ^ (8 * n)) = some x) →
      exec .attest st = .next (if 4096 < 64 + n + 512 then st.ctlDone c 2 else x.ctlDone c 0)) ∧
    (∀ d x, CtlHead st 8 c → c.arg0 = 0 → c.arg.toNat < 2 ^ 33 → st.domainImage (c.arg.toNat * 128) = some (d, x) →
      exec .domset st = .next (({ st with domains := mset st.domains d x } : State).ctlDone c 0)) ∧
    (CtlHead st 9 c → c.arg0 < 65536 → c.arg = 0 → st.ctxOfDomain c.arg0 = none → (mget st.domains c.arg0).isSome = true →
      exec .domclr st = .next (({ st with domains := merase st.domains c.arg0 } : State).ctlDone c 0)) ∧
    (CtlHead st 10 c → c.arg0 < 4096 → c.arg = 0 → exec .peerset st = .next ((st.setDead c.arg0).ctlDone c 0)) ∧
    (CtlHead st 11 c → c.arg0 < 4096 → c.arg = 0 →
      exec .peerclr st = .next (({ st with dead := st.dead &&& ~~~(BitVec.ofNat 4096 (2 ^ c.arg0)) } : State).ctlDone c 0)) ∧
    (CtlHead st 12 c → c.arg0 = 0 → 100 ≤ c.arg.toNat → c.arg.toNat ≤ 1000000 → exec .peertmo st = .next (({ st with peertmo := c.arg.toNat } : State).ctlDone c 0)) ∧
    (CtlHead st 13 c → c.arg0 < 4096 → c.arg = 0 → st.ctxs = [] → exec .devno st = .next (({ st with devno := c.arg0 } : State).ctlDone c 0))

/-- UNITRET, UNITRST and DIERST at the head of the general command queue that may run, with operands their checks pass, and the events of time (PTP),
power states, throttling, a failed link, ECC errors, patrol scrubbing, the loss of a die and its quiescing, each answer a next state with the effect
their rules give, where the condition of the event holds. -/
def Obligations.UnitsPowerAndTimeComplete : Prop :=
  ∀ (st : State) (c : Cmd) (ofs : Int) (dev : Nat),
    (∀ p, CtlHead st 14 c → c.arg0 = 0 → pipeOfLoc c.arg.toNat = .inr p → p ∉ st.retiredPipes →
      st.pipeBusy p = true →
      exec .unitret st = .next (({ st with retiring := if p ∈ st.retiring then st.retiring else st.retiring ++ [p] } : State).ctlPhase { c with phase := 1 })) ∧
    (∀ p, CtlHead st 14 c → c.arg0 = 0 → pipeOfLoc c.arg.toNat = .inr p → p ∉ st.retiredPipes →
      st.pipeBusy p = false →
      exec .unitret st = .next (({ st with retiring := st.retiring.filter fun q => decide (q ≠ p), retiredPipes := st.retiredPipes ++ [p] } : State).ctlDone c 0)) ∧
    (∀ p, CtlHead st 15 c → c.arg0 = 0 → pipeOfLoc c.arg.toNat = .inr p → p ∈ st.retiredPipes →
      exec (.unitrst true) st = .next (({ st with retiredPipes := st.retiredPipes.filter fun q => decide (q ≠ p) } : State).ctlDone c 0)) ∧
    (CtlHead st 16 c → 1 ≤ c.arg0 → c.arg0 ≤ 8 → c.arg = 0 → (st.die c.arg0).state = .fenced → ∃ x : State,
      x = { st with poisoned := (if 5 ≤ c.arg0 ∧ !(st.die c.arg0).selfRefresh then (stackLines c.arg0).filter fun u => !(decide (u ∈ st.poisoned)) else []) ++ st.poisoned } ∧
      exec (.dierst true) st = .next (((x.scramble (flatDie c.arg0 0) (dieSpace c.arg0)).updDie c.arg0 fun y =>
        { y with state := .up, acked := false, selfRefresh := false, l2 := [] }).ctlDone c 0)) ∧
    (-1000000 ≤ ofs → ofs ≤ 1000000 → exec (.ptpMessage ofs) st = .next { st with ptpLocked := true, ptpSince := st.clock, ptpSlew := -ofs }) ∧
    (ofs < -1000000 ∨ 1000000 < ofs → exec (.ptpMessage ofs) st = .next
      (({ st with ptpLocked := true, ptpSince := st.clock, tai := (((st.tai : Int) - ofs) % 2 ^ 64).toNat, ptpSlew := 0 } : State).trace 0 8 none 0 st.tai)) ∧
    (st.ptpSince + 10 * 940000000 ≤ st.clock → exec .ptpMasterTimeout st = .next { st with ptpLocked := false, ptpSlew := 0 }) ∧
    (dev < devCount st.mode → st.deepest dev = 3 →
      exec (.powerStateEntry dev) st = .next { st with power := (List.range (devCount st.mode)).map fun d => (d, 3) }) ∧
    (dev < devCount st.mode → st.deepest dev ≠ 3 → mgetD st.power dev 0 < st.deepest dev →
      exec (.powerStateEntry dev) st = .next { st with power := mset st.power dev (st.deepest dev) }) ∧
    (mgetD st.power dev 0 = 1 → exec (.powerWake dev) st = .next { st with power := merase st.power dev, idleFor := merase st.idleFor dev }) ∧
    (mgetD st.power dev 0 ≠ 1 → exec (.powerWake dev) st = .next st) ∧
    exec .throttleStart st = .next { st with throttled := true } ∧
    exec .throttleEnd st = .next { st with throttled := false } ∧
    (dev < 36 → dev ∉ st.downPorts → exec (.fabricLinkFailure dev) st = .next { st with downPorts := st.downPorts ++ [dev] }) ∧
    (∀ k x y z e, errAt k x y z = some e → exec (.eccEvent k x y z true) st = .next ((st.spoil e).countError e) ∧ exec (.eccEvent k x y z false) st = .next (st.countError e)) ∧
    exec (.patrolScrub dev) st = .next st ∧
    exec (.dieLoss dev) st = .next (st.loseDie dev) ∧
    (∀ lost, (st.die dev).state = .quiescing →
      exec (.dieQuiesceAck dev lost) st = .next ((st.updDie dev fun d => { d with acked := true, selfRefresh := !isMdie dev }).fence dev lost)) ∧
    (∀ lost refresh, (st.die dev).state = .quiescing → (st.die dev).quietAt + 18800000 ≤ st.hubcyc →
      exec (.dieQuiesceTimeout dev lost refresh) st = .next ((st.updDie dev fun d => { d with selfRefresh := d.selfRefresh || (refresh && !isMdie dev) }).fence dev lost))

/-- In every state in which the head context command is CREATE with an acceptable record, DESTROY, PREEMPT or RESUME of a context in the state the
command's step needs, or OSCOUNT of a context and a die, the command's event answers a next state with that step's effect; parking and unparking a
workgroup and the ends of its save and restore handlers answer a next state with theirs, where their conditions hold. -/
def Obligations.ContextCommandsComplete : Prop :=
  ∀ (st : State) (c : Cmd) (n m : Nat),
    (∀ id x, CtxHead st 1 c → st.create (st.devRead 128 (bits c.word.toNat 32 0 * 128)) = .inr (id, x) → ∃ a b : State,
      a = { st with ctxs := mset st.ctxs id x, tlb := st.tlb.filter fun e => decide (e.ctx ≠ id) } ∧
      b = (List.range 9).foldl (fun s d => s.setOverstated d id 0) a ∧
      exec .create st = .next ((b.enterGrid id (rootDesc b.mode) 0 0 0 none [] true).1.ctxDone c id 0)) ∧
    (∀ x, CtxHead st 2 c → mget st.ctxs c.id = some x → x.state = .running ∨ x.state = .faulted ∨ x.state = .preempted ∧ st.ckBusy c.id = false →
      exec .destroy st = .next ((st.discardQueued c.id).updCtx c.id fun x => { x with state := .destroying })) ∧
    (∀ x, CtxHead st 2 c → mget st.ctxs c.id = some x → x.state = .destroying → st.ctxIdle c.id = true →
      exec .destroy st = .next ((st.eraseCtx c.id).ctxDone c c.id 0)) ∧
    (∀ x, CtxHead st 3 c → mget st.ctxs c.id = some x → c.phase = 0 → x.state = .running →
      exec .preempt st = .next { st.preemptGo c.id with ctxQ := { c with phase := 1 } :: st.ctxQ.tail }) ∧
    (∀ x, CtxHead st 3 c → mget st.ctxs c.id = some x → c.phase ≠ 0 → x.state = .preempting → exec .preempt st = .next (st.preemptGo c.id)) ∧
    (∀ x, CtxHead st 3 c → mget st.ctxs c.id = some x → c.phase ≠ 0 → x.state = .preempted → exec .preempt st = .next (st.ctxDone c c.id 0)) ∧
    (∀ x, CtxHead st 4 c → mget st.ctxs c.id = some x → c.phase = 0 → st.ckBusy c.id = false → x.state = .preempted → x.replay = none →
      exec .resume st = .next { (st.resumeStart c.id).resumeGo c.id with ctxQ := { c with phase := 1 } :: st.ctxQ.tail }) ∧
    (∀ x, CtxHead st 4 c → mget st.ctxs c.id = some x → c.phase ≠ 0 → x.state = .resuming → exec .resume st = .next (st.resumeGo c.id)) ∧
    (∀ x, CtxHead st 4 c → mget st.ctxs c.id = some x → c.phase ≠ 0 → x.state = .running → exec .resume st = .next (st.ctxDone c c.id 0)) ∧
    (∀ x die, CtxHead st 5 c → mget st.ctxs c.id = some x → x.state ≠ .faulted → die = bits c.word.toNat 53 50 → 1 ≤ die → die ≤ 8 →
      exec .oscount st = .next ((st.setOverstated die c.id (bits c.word.toNat 49 34)).ctxDone c c.id 0)) ∧
    (∀ w x y, mget st.workgroups (wgKey n m) = some w → w.state = .placed → w.parked = false → (st.ctx n).state = .running →
      st.grids.any (fun e => decide (e.2.ctx = n) && decide (0 < e.2.depth) && e.2.expired && decide (e.2.ranges ≠ [])) = true →
      st.allJoined (wgKey n m) = true → st.wgQuiet (wgKey n m) = true → st.sched n (w.core / 4) 7 (w.core % 4) 0 (some w.serial) = some x →
      x.saveWg (wgKey n m) 0x81 = some y → exec (.workgroupPark n m) st = .next (y.updWg (wgKey n m) fun w => { w with parked := true })) ∧
    (∀ w y, mget st.workgroups (wgKey n m) = some w → w.state = .saved → w.parked = true → w.children = [] → (st.ctx n).state = .running →
      st.restoreOne (wgKey n m) = some y → exec (.workgroupUnpark n m) st = .next y) ∧
    (∀ w, mget st.workgroups (wgKey n m) = some w → w.state = .saving → st.handlerDone w = true → exec (.saveHandlerComplete n m) st =
      .next (({ st with groups := (match w.handlerSlot with | some gid => merase st.groups gid | none => st.groups) } : State).freeWg (wgKey n m))) ∧
    (∀ w y, mget st.workgroups (wgKey n m) = some w → w.state = .restoring → st.handlerDone w = true →
      ({ st with groups := (match w.handlerSlot with | some gid => merase st.groups gid | none => st.groups) } : State).finishRestore (wgKey n m) = some y →
      exec (.restoreHandlerComplete n m) st = .next (y.retireWg 12 (wgKey n m)))

/-- In every state, a CTLCAS through a control port that is served (in recovery the management port alone, R360), the end of the lease of CTLSEM, a write
of a named register through a port that may write it, and a READ, WRITE or BLOCK READ management message from a permitted source that its checks pass
and that does not repeat the last SEQ of its sender, answer a next state with the effect the register or the message has (a message ends P3 first); a
message that repeats it is answered with the kept reply, and one from another source dropped. -/
def Obligations.RegisterAccessesComplete : Prop :=
  ∀ (st : State) (p t v i src len req : Nat),
    (st.serves p = true → exec (.ctlcas p v) st = .next (st.writeCas p v)) ∧
    (st.ctlPort ≠ 0 → st.ctlLease ≤ st.clock → st.holderBusy = false → exec .ctlsemLeaseExpiry st = .next { st with ctlPort := 0, ctlToken := 0, ctlLease := 0 }) ∧
    (st.serves p = true → st.mayCtl p t = true → exec (.reelctlWrite p t v) st = .next (st.writeReelctl v) ∧ exec (.rsvctlWrite p t v) st = .next (st.writeRsvctl v) ∧
      exec (.cutWrite p t i v) st = .next (st.writeCut i v) ∧ exec (.errclsWrite p t v) st = .next (st.writeErrcls v)) ∧
    (st.serves p = true → i < 3 → exec (.watchFilterWrite p i v) st = .next (st.writeWatch p i v)) ∧
    (i < 9 → exec (.trctlWrite i v) st = .next (st.updDie i fun d => { d with trctl := v % 512 }) ∧
      exec (.trrpWrite i v) st = .next (st.updDie i fun d => { d with trrp := v % 2 ^ 64 })) ∧
    exec (.drconsWrite v) st = .next { st with drCons := v % 2 ^ 64 } ∧
    (st.serves p = true → exec (.ltolWrite p v) st = .next (st.writeLtol p v) ∧ exec (.registerWrite p i v) st = .next (st.regWrite p i v)) ∧
    (bits req 31 24 = 1 → mgmtOk req len 1 = true → src ∈ st.mgmtSources → (∀ e, mget st.mgmtSeen (src * 65536 + p % 65536) = some e → e.1 ≠ bits req 63 32) →
      exec (.mgmtRead src p len req) st = .next (({ st with power := st.power.filter fun e => decide (e.2 < 3) } : State).mgmtApply src p req fun st =>
        ((st.mgmtRead (bits req 191 128) 1).1, (st.mgmtRead (bits req 191 128) 1).2, st))) ∧
    (∀ x, x = ({ st with power := st.power.filter fun e => decide (e.2 < 3) } : State) → bits req 31 24 = 2 → mgmtOk req len 2 = true → src ∈ st.mgmtSources → (∀ e, mget st.mgmtSeen (src * 65536 + p % 65536) = some e → e.1 ≠ bits req 63 32) →
      bits req 191 128 % 8 = 0 → x.named (bits req 191 128) = true → (ctlReg (bits req 191 128) = true → x.mayCtl 2 (bits req 95 64) = true) →
      exec (.mgmtWrite src p len req) st = .next (x.mgmtApply src p req fun _ =>
        (0, [], x.anyWrite 2 (bits req 95 64) (bits req 191 128) (bits req 255 192)))) ∧
    (bits req 31 24 = 3 → mgmtOk req len 3 = true → src ∈ st.mgmtSources → (∀ e, mget st.mgmtSeen (src * 65536 + p % 65536) = some e → e.1 ≠ bits req 63 32) →
      exec (.mgmtBlockRead src p len req) st = .next (({ st with power := st.power.filter fun e => decide (e.2 < 3) } : State).mgmtApply src p req fun st =>
        ((st.mgmtRead (bits req 191 128) (bits req 127 96)).1, (st.mgmtRead (bits req 191 128) (bits req 127 96)).2, st))) ∧
    (∀ r, src ∈ st.mgmtSources → mget st.mgmtSeen (src * 65536 + p % 65536) = some (bits req 63 32, r) →
      (bits req 31 24 = 1 → exec (.mgmtRead src p len req) st = .next (({ st with power := st.power.filter fun e => decide (e.2 < 3) } : State).mgmtSend src p r)) ∧
      (bits req 31 24 = 2 → exec (.mgmtWrite src p len req) st = .next (({ st with power := st.power.filter fun e => decide (e.2 < 3) } : State).mgmtSend src p r)) ∧
      (bits req 31 24 = 3 → exec (.mgmtBlockRead src p len req) st = .next (({ st with power := st.power.filter fun e => decide (e.2 < 3) } : State).mgmtSend src p r))) ∧
    (src ∉ st.mgmtSources → exec (.mgmtRead src p len req) st = .next st ∧ exec (.mgmtWrite src p len req) st = .next st ∧ exec (.mgmtBlockRead src p len req) st = .next st)

/-- In every state in which the head general command is SLATE or the head checkpoint command is CHECKPOINT, each of its steps (begun, stopping the
context, writing a shard, settling claims, opening the epoch or mirroring, and going on) answers the next state of that step; RESTORE of a pre-empted
context from a manifest whose shards all have their digests and whose area image exists answers a next state: where the manifest is valid, the shards
are in memory, the rest of its GLOB space is 0 and the image is installed; where it is not, the command ends with code 8 and nothing is written. -/
def Obligations.SlateCheckpointRestoreComplete : Prop :=
  ∀ (st : State) (c : Cmd) (res own ofs : Nat),
    (∀ d x, CtlHead st 4 c → c.phase = 0 → c.arg0 < 64 → c.arg.toNat < 2 ^ 33 → d = st.devRead 128 (c.arg.toNat * 128) → ckBad d = false → ckPast d = false → mget st.ctxs c.arg0 = some x →
      st.recording c.arg0 = true → x.epoch.any (fun e => decide (bits d 159 128 ≤ e)) = false → x.state = .running ∨ x.state = .preempted → st.ckBusy c.arg0 = false →
      exec (.slate res own ofs) st = .next (st.ctlPhase (c.step 1 (ckOf c.arg0 d st.tai true)))) ∧
    (∀ k, CtlHead st 4 c → c.ck = some k →
      (c.phase = 1 → exec (.slate res own ofs) st = .next ((st.ckStop c k true).1.ctlPhase (st.ckStop c k true).2)) ∧
      (c.phase = 2 → exec (.slate res own ofs) st = .next ((st.ckShard c k res own ofs).1.ctlPhase (st.ckShard c k res own ofs).2)) ∧
      (∀ y m q, c.phase = 3 → st.ckClaims c k res ofs = (y, m) → m.phase = 4 → m.ck = some q → exec (.slate res own ofs) st = .next ((y.openEpoch q).ctlPhase m)) ∧
      (∀ y m, c.phase = 3 → st.ckClaims c k res ofs = (y, m) → m.phase ≠ 4 → exec (.slate res own ofs) st = .next (y.ctlPhase m)) ∧
      (c.phase = 4 → st.slateWaits k.ctx = false → exec (.slate res own ofs) st = .next (st.ctlPhase (c.step 5 k))) ∧
      (∀ y, c.phase = 5 → st.ckResume k = (y, true) → exec (.slate res own ofs) st = .next (y.ctlDone c k.code)) ∧
      (∀ y, c.phase = 5 → st.ckResume k = (y, false) → exec (.slate res own ofs) st = .next y)) ∧
    (∀ d x, CkHead st 1 c → c.phase = 0 → st.ctlPort = c.port → mget st.ctxs c.id = some x → d = st.devRead 128 (bits c.word.toNat 32 0 * 128) →
      x.state = .running ∨ x.state = .preempted → st.ckBusy c.id = false → ckBad d = false → ckPast d = false →
      exec (.checkpoint res own ofs) st = .next (st.ckPut (c.step 1 (ckOf c.id d st.tai (decide (x.state = .running)))))) ∧
    (∀ k, CkHead st 1 c → c.ck = some k →
      (c.phase = 1 → exec (.checkpoint res own ofs) st = .next ((st.ckStop c k false).1.ckPut (st.ckStop c k false).2)) ∧
      (c.phase = 2 → exec (.checkpoint res own ofs) st = .next ((st.ckShard c k res own ofs).1.ckPut (st.ckShard c k res own ofs).2)) ∧
      (c.phase = 3 → exec (.checkpoint res own ofs) st = .next ((st.ckClaims c k res ofs).1.ckPut (st.ckClaims c k res ofs).2)) ∧
      (∀ y m, c.phase = 4 → st.ckMirror c k res = (y, m) → m.phase ≠ 6 → exec (.checkpoint res own ofs) st = .next (y.ckPut m)) ∧
      (∀ y m, c.phase = 4 → st.ckMirror c k res = (y, m) → m.phase = 6 → exec (.checkpoint res own ofs) st = .next (y.ckDone c 0)) ∧
      (∀ y, c.phase = 5 → st.ckResume k = (y, true) → exec (.checkpoint res own ofs) st = .next (y.ckDone c k.code)) ∧
      (∀ y, c.phase = 5 → st.ckResume k = (y, false) → exec (.checkpoint res own ofs) st = .next y)) ∧
    (∀ x man data e a, CkHead st 2 c → mget st.ctxs c.id = some x → x.state = .preempted → st.ckBusy c.id = false →
      (manEntries man).find? (fun e => decide (2 ^ 63 ≤ e.va)) = some e → mget st.images e.digest = some a →
      (∀ p ∈ manShards man data, shardDigest p.2 = p.1.digest) →
      exec (.restore man data) st = .next (if manValid man then
        (((st.putShards c.id (manShards man data)).zeroRest c.id (manShards man data)).install c.id e.digest (bits man 63 32) a).ckDone c 0
        else st.ckDone c 8))

/-- In every state, a claim with a legal directory from a peer that is not dead is probed and answered as won, lost or with no entry; a mirrored shard is
written into the persistence module and acknowledged; a fetched shard is answered with the standing context's bytes where they still have the digest
and with the module's bytes with no manifest; a release sets the entry and is answered; and a claim unanswered for PEERTMO fails its command with code
7. -/
def Obligations.DigestDirectoryComplete : Prop :=
  ∀ (st : State) (src dg ofs ep pa lg n v : Nat),
    (∀ y r, 10 ≤ lg → lg ≤ 24 → pa % 128 = 0 → st.dead.getLsbD src = false → st.claimHere src (dg % 2 ^ 512) ofs (ep % 2 ^ 32) pa lg = (y, r) →
      (r = .won → exec (.digestClaim src dg ofs ep pa lg) st = .next (y.sysSend src 2 1 0 0)) ∧
      (∀ o f, r = .lost o f → exec (.digestClaim src dg ofs ep pa lg) st = .next (y.sysSend src 2 2 10 (o + f * 2 ^ 16))) ∧
      (r = .full → exec (.digestClaim src dg ofs ep pa lg) st = .next (y.sysSend src 2 3 0 0))) ∧
    (ofs + n ≤ 2 ^ 40 → st.dead.getLsbD src = false →
      exec (.shardMirror src ofs n v) st = .next ((st.bpmWrite (2 ^ 40 + ofs) n (v % 2 ^ (8 * n))).sysSend src 6 ofs 0 0)) ∧
    (st.dead.getLsbD src = false → ofs + shardSize ≤ 2 ^ 41 →
      (∀ x, st.standingShard dg ep = some x → exec (.shardFetch src dg ep ofs) st = .next (st.sysBytes (shardSize / 256) src 7 ofs shardSize x)) ∧
      (st.standingShard dg ep = none →
        exec (.shardFetch src dg ep ofs) st = .next (st.sysBytes (shardSize / 256) src 7 ofs shardSize (st.read (flatBpm ofs) shardSize)))) ∧
    (10 ≤ lg → lg ≤ 24 → st.dead.getLsbD src = false →
      exec (.digestRelease src dg ep pa lg) st = .next ((st.releaseHere src (dg % 2 ^ 512) (ep % 2 ^ 32) pa lg).sysSend src 4 0 0 0)) ∧
    (∀ (m : Cmd) q k, st.ckQ = m :: q → m.phase = 2 → m.ck = some k → k.asked = true → k.since + 1000 * st.peertmo ≤ st.tai →
      exec .claimReplyTimeout st = .next (st.ckPut { m with phase := 5, ck := some { k with code := 7 } })) ∧
    (∀ (m : Cmd) q k, st.ckQ = [] → st.ctlQ = m :: q → m.phase = 2 → m.ck = some k → k.asked = true → k.since + 1000 * st.peertmo ≤ st.tai →
      exec .claimReplyTimeout st = .next (st.ctlPhase { m with phase := 5, ck := some { k with code := 7 } }))

/-- In every state whose head Weir command passes the checks of R373 and stands between two packets, LOAD puts the checked kernel into its slot with its
flow state 0, UNLOAD frees the slot, FLOWRD and FLOWWR move flow bytes to and from host memory, each ending the command with code 0; an idle Weir
takes its oldest packet into its kernel, drops it at a halted slot, or lets it pass where its slot is no longer loaded for its domain and attach
point; and a switch Weir's record is written into the domain's event view. -/
def Obligations.WeirCommandsComplete : Prop :=
  ∀ (st : State) (port : Nat),
    (∀ c d ws y, WeirHead st 1 c d → bits d 191 128 % 4 = 0 → mget (mgetD st.weirs (bits d 15 8) {}).slots (bits d 23 16) = none →
      (st.ctxOfDomain (bits d 63 48)).isSome = true → st.weirFor (bits d 63 48) (decide (bits d 31 24 = 1)) = none →
      bits d 95 64 % 4096 = 0 → 4096 ≤ bits d 95 64 → (mgetD st.weirs (bits d 15 8) {}).slots.foldl (fun n e => n + e.2.flowsz) 0 + bits d 95 64 ≤ 262144 →
      bits d 47 40 ≤ 13 → (bits d 47 40 ≠ 0 → 32 * bits d 351 320 + 32 * 2 ^ bits d 47 40 ≤ bits d 95 64) → 1 ≤ bits d 127 96 → bits d 127 96 ≤ 128 →
      ws = (List.range (bits d 127 96)).map (fun i => st.devRead 4 (bits d 191 128 + 4 * i)) → weirCheck ws (bits d 47 40) = (0, 0) →
      (mgetD st.weirs (bits d 15 8) {}).run = none → st.weirGate (bits d 15 8) (bits d 23 16) (bits d 63 48) (recWeir 2 (bits d 23 16) 0 1) = some y →
      exec .load st = .next ((y.weirLoad (bits d 15 8) (bits d 23 16) (weirSlotOf d ws)).weirDone c 0 (weirWcet ws) 0)) ∧
    (∀ c d s y, WeirHead st 2 c d → mget (mgetD st.weirs (bits d 15 8) {}).slots (bits d 23 16) = some s → (mgetD st.weirs (bits d 15 8) {}).run = none →
      st.weirGate (bits d 15 8) (bits d 23 16) s.domain (recWeir 2 (bits d 23 16) 0 2) = some y →
      exec .unload st = .next ((y.updWeir (bits d 15 8) fun w => { w with slots := merase w.slots (bits d 23 16) }).weirDone c 0 0 0)) ∧
    (∀ c d s y z, WeirHead st 3 c d → mget (mgetD st.weirs (bits d 15 8) {}).slots (bits d 23 16) = some s → (mgetD st.weirs (bits d 15 8) {}).run = none →
      st.weirGate (bits d 15 8) (bits d 23 16) s.domain (recWeir 2 (bits d 23 16) 0 3) = some y → bits d 287 256 % 32 = 0 → bits d 319 288 % 32 = 0 → bits d 287 256 + bits d 319 288 ≤ s.flowsz →
      y.hostPut (bits d 319 288) (bits d 255 192) (y.read (flatFlow (bits d 15 8) (s.base + bits d 287 256)) (bits d 319 288)) = some z →
      exec .flowrd st = .next (z.weirDone c 0 0 0)) ∧
    (∀ c d s y z v, WeirHead st 4 c d → mget (mgetD st.weirs (bits d 15 8) {}).slots (bits d 23 16) = some s → (mgetD st.weirs (bits d 15 8) {}).run = none →
      st.weirGate (bits d 15 8) (bits d 23 16) s.domain (recWeir 2 (bits d 23 16) 0 4) = some y → bits d 287 256 % 32 = 0 → bits d 319 288 % 32 = 0 → bits d 287 256 + bits d 319 288 ≤ s.flowsz →
      y.hostGet (bits d 319 288) (bits d 255 192) = some (z, v) →
      exec .flowwr st = .next ((z.writeAll (flatFlow (bits d 15 8) (s.base + bits d 287 256)) (bits d 319 288) v).weirDone c 0 0 0)) ∧
    (∀ slot p q f, (mgetD st.weirs port {}).run = none → (mgetD st.weirs port {}).queue = (slot, f, p) :: q → ∃ x : State,
      x = st.updWeir port (fun w => { w with queue := w.queue.eraseIdx 0 }) ∧
      ((mget (mgetD st.weirs port {}).slots slot).filter (fun s => decide (s.domain = pDom p.hdr) && s.egress == decide (f = 0xFF)) = none → f = 0xFF → exec (.weirPacket port 0) st = .next (x.leave p)) ∧
      (∀ y, (mget (mgetD st.weirs port {}).slots slot).filter (fun s => decide (s.domain = pDom p.hdr) && s.egress == decide (f = 0xFF)) = none → f ≠ 0xFF → x.land p = some y → exec (.weirPacket port 0) st = .next y) ∧
      (∀ s y, (mget (mgetD st.weirs port {}).slots slot).filter (fun s => decide (s.domain = pDom p.hdr) && s.egress == decide (f = 0xFF)) = some s → s.halted = false → x.weirGate port slot s.domain (recWeir 1 slot p.hdr (pSeq p.hdr)) = some y →
        exec (.weirPacket port 0) st = .next (y.updWeir port fun w => { w with run := some { slot := slot, port := f, orig := pDst p.hdr, pkt := p } })) ∧
      (∀ s y, (mget (mgetD st.weirs port {}).slots slot).filter (fun s => decide (s.domain = pDom p.hdr) && s.egress == decide (f = 0xFF)) = some s → s.halted = true → x.weirGate port slot s.domain (recWeir 1 slot p.hdr (pSeq p.hdr)) = some y →
        exec (.weirPacket port 0) st = .next (if s.egress then y.leave (skipNotice p.hdr (pDst p.hdr)) else y.delivered p.hdr false))) ∧
    (∀ dom cls slot code det time hdr, exec (.switchWeirRecord dom cls port slot code det time hdr) st = .next (st.eventRecordAt dom cls port slot code det 674 time hdr))

/-- In every state in which the head replay command is ARM with a slate and readable takes, GO of an armed context, STOP or THAW of a replay that stands,
the command answers a next state with its effect; each reached cut point freezes the device or the pod or posts BKPT as its ACT says, and acts as ACT
0 where its group is not of the context; a divergence, and the end of the log, stop the replay in states 5, 6 and 4, and a log not at its end carries
out the switch it holds; a take closes by age, the oldest closed take of a device is placed in that device's reel, and a take is drained where the
ring has room. Which reel the drain turns to is the model's choice (log entry 7). -/
def Obligations.RecordAndReplayComplete : Prop :=
  ∀ (st : State) (c : Cmd) (n rid i : Nat),
    (∀ x (sl : ReelTake) (slates : List ReelTake), RepHead st 1 c → mget st.ctxs c.id = some x → x.state = .preempted → x.replay.any (fun r => decide (r.state ≤ 3)) = false →
      slates = (st.reelAll x.dev).filter (fun t => decide (t.rid = 0xFFFE) && decide (t.epoch = c.word.toNat % 2 ^ 32)) →
      (slates.find? (fun t => decide (wordsNat ((t.words.drop 3).take 8) = x.image)) = some sl ∨
        slates.find? (fun t => decide (wordsNat ((t.words.drop 3).take 8) = x.image)) = none ∧ slates.head? = some sl) → sl.ok = true →
      armError (takesOf (st.reelAll x.dev) sl.slateCtx) (c.word.toNat % 2 ^ 32) sl.slateCtx = none → ∃ (r : Replay) (y : State),
      r = loadAll (takesOf (st.reelAll x.dev) sl.slateCtx) { epoch := c.word.toNat % 2 ^ 32, src := sl.slateCtx, port := c.port, begun := st.clock } ∧
      y = (((st.closeTakes c.id 0).setTimes c.id sl).loadWeirs c.id).zeroGrants c.id ∧
      exec .arm st = .next (((y.updCtx c.id fun x => { x with replay := some r, acnt := [], det := bits (sl.words.headD 0) 47 40 % 4 }).repDone c 0).repState c.id 1 0 0 0)) ∧
    (∀ x, RepHead st 2 c → mget st.ctxs c.id = some x → c.phase = 0 → x.state = .preempted → x.replay.any (fun r => decide (r.state = 1)) = true → ∃ y : State,
      y = ((((st.updCtx c.id fun x => { x with replay := x.replay.map fun (r : Replay) => { r with begun := st.clock, wait := [] } }).resumeStart c.id).repState c.id 2 0 0 0).resumeGo c.id) ∧
      exec .go st = .next { y with repQ := { c with phase := 1 } :: y.repQ.tail }) ∧
    (∀ x, RepHead st 2 c → mget st.ctxs c.id = some x → c.phase ≠ 0 → x.state = .resuming → x.replay.any (fun r => decide (r.state = 2)) = true → exec .go st = .next (st.resumeGo c.id)) ∧
    (∀ x, RepHead st 2 c → mget st.ctxs c.id = some x → c.phase ≠ 0 → x.state = .running → exec .go st = .next (st.repDone c (st.port c.port).repstat)) ∧
    (∀ t, RepHead st 3 c → (st.ctx c.id).replay.any (fun r => decide (1 ≤ r.state) && decide (r.state ≤ 3)) = true → t = st.repAtTake c.id → exec .stop st = .next
      ((st.repDone c (repWord 7 t.1 t.2 0)).repStop c.id 7 t.1 t.2 0)) ∧
    (∀ t, RepHead st 4 c → (st.ctx c.id).replay.any (fun r => decide (r.state = 3)) = true → t = st.repAtTake c.id → exec .replayThaw st = .next
      (((st.repDone c (repWord 2 t.1 t.2 0)).repState c.id 2 t.1 t.2 0).thaw)) ∧
    exec (.cutPointReached n rid) st = .next ((st.cutReached n rid).foldl (fun s k => (s.beginTake n rid k.2.tidx).cutAct n rid k.1 k.2) st) ∧
    (∀ j k, (k.act = 0 → st.cutAct n rid j k = st.repStop n 3 rid k.tidx 0) ∧ (k.act = 1 → st.cutAct n rid j k = (st.freezePod n).repStop n 3 rid k.tidx 0) ∧
      (∀ g, k.act = 2 → mget st.groups (rid * 512 + k.group) = some g →
        (st.ctxOf g = n → st.cutAct n rid j k = st.postTrap (rid * 512 + k.group) { trap := { cause := .bkpt, detail := 2 ^ 20 + j }, kind := .async }) ∧
        (st.ctxOf g ≠ n → st.cutAct n rid j k = st.repStop n 3 rid k.tidx 0))) ∧
    exec .podFreeze st = .next st.freeze ∧
    (∀ r ti q, (st.ctx n).replay = some r → r.state = 2 → (mgetD r.logs rid [])[i]? = some (ti, q) →
      st.missed rid q = true ∨ (unitHeads rid (mgetD r.logs rid [])).any (fun h => decide (h = (ti, q))) = true ∧
        (max r.begun (mgetD r.wait (recUnit rid q) 0) + 2 ^ 24 ≤ st.clock ∨ st.opcDiffers rid q = true) →
      exec (.replayDivergence n rid i) st = .next (st.repStop n 5 rid ti (q.headD 0 / 2 ^ 60))) ∧
    (∀ r r' ts, (st.ctx n).replay = some r → r.state = 2 → ts = takesOf (st.reelAll (st.ctx n).dev) r.src → r' = loadAll ts r →
      (r'.next ≠ r.next → exec (.replayEndOfLog n) st = .next (st.updCtx n fun x => { x with replay := some r' })) ∧
      (∀ e, r'.next = r.next → nextError ts r = some e → exec (.replayEndOfLog n) st = .next (st.repStop n 6 e.2.1 e.2.2 e.1)) ∧
      (r'.next = r.next → nextError ts r = none → r.logs.all (fun e => decide (e.2 = [])) = true → exec (.replayEndOfLog n) st = .next (st.repStop n 4 0 0 0)) ∧
      (r'.next = r.next → nextError ts r = none → r.logs.all (fun e => decide (e.2 = [])) = false → exec (.replayEndOfLog n) st = .next (st.replaySwitch n))) ∧
    (∀ t, mget (st.ctx n).takes rid = some t → t.cycle + (if hubRecorder rid then 2 ^ 21 else 2 ^ 20) ≤ st.takeCycle rid →
      exec (.takeAgeExpiry n rid) st = .next (st.closeTake n rid 0)) ∧
    exec .reelPlace st = .next ((List.range (devCount st.mode)).foldl State.placeNext st) ∧
    (∀ dev t y, st.nextTake dev = some t → st.putReel dev t.rid t.len t.bytes = (y, true) → st.placeNext dev = { y with closedTakes := y.closedTakes.erase t }) ∧
    (∀ dev a k y, st.drainDev = some dev → st.undrained dev = some (a, k) → st.reelDrain ≠ 0 → st.drSize ≠ 0 → st.drProd + k ≤ st.drSize + st.drCons →
      y = ({ st with free := st.free + 1 } : State).ringWrite dev a st.drProd k →
      exec .drainCopy st = .next ({ y with drProd := y.drProd + k }.updReel dev fun r => { r with dp := r.dp + k }))

/-- In every state in which a held LAUNCH is due its answer, a workgroup of a grid may be placed on a cluster with no higher-ranked grid, no other
context's share or reservation in its way, a cluster or a die without work may take from the fullest other, a grid's gate has opened, a retired grid's
next buffered atomic performs, or an ended grid's DONE is owed (a misaligned one, or one past 2^52, is dropped with a record), the distributor's event
answers a next state with its effect; the end of a placement wait and the elder's report always do. -/
def Obligations.DistributorsComplete : Prop :=
  ∀ (st : State) (n m cl i : Nat),
    (∀ r g s, st.launches[i]? = some r → mget st.groups r.group = some g → g.splitAt r.slot = some s → s.wait = .launch → r.reason ≠ 0 →
      exec (.gridAccept i) st = .next { st.updGroup r.group (fun g => (g.putS r.dreg (BitVec.ofNat 64 (r.reason * 2 ^ 56))).updSplit r.slot fun s => { s with wait := .ready, pc := s.pc + 4 }) with launches := st.launches.eraseIdx i }) ∧
    (∀ r g s y id z w t, st.launches[i]? = some r → mget st.groups r.group = some g → g.splitAt r.slot = some s → s.wait = .launch → r.reason = 0 →
      st.oldest r.ctx (st.ctx r.ctx).serial = 0 ∨ st.oldest r.ctx (st.ctx r.ctx).serial + r.desc.x * r.desc.y * r.desc.z < 2 ^ 38 → st.owesBefore r.group = false →
      st.seqTicket r.ctx 1 (locOf r.group 0) g.icntC = some (y, t) → y.enterGrid r.ctx r.desc r.depth r.tag r.doneAt r.parent r.gates false = (z, id) →
      w = (match r.parent with | some p => z.updWg p (fun w => { w with children := w.children ++ [id] }) | none => z).trace 0 1 (some r.ctx) 0 (r.tag + id * 2 ^ 64 + r.depth * 2 ^ 96) →
      exec (.gridAccept i) st = .next { w.updGroup r.group (fun g => (g.putS r.dreg (BitVec.ofNat 64 id)).updSplit r.slot fun s => { s with wait := .ready, pc := s.pc + 4 }) with launches := w.launches.eraseIdx i }) ∧
    (∀ g y, mget st.grids (gridKey n m) = some g → st.placeable g = true → g.left cl ≠ 0 →
      (∀ e ∈ st.grids, e.2.ctx = n → e.1 ≠ gridKey n m → st.placeable e.2 = true → e.2.before g = true → e.2.left cl ≠ 0 →
        e.2.coop = false ∧ e.2.expired = false ∧ st.findCluster cl e.2.desc = none) → st.ahead n = false → (∀ e ∈ st.grids, st.reserves cl e.2 g = false) →
      (g.coop = true → st.placeCoop g = some y →
        exec (.workgroupPlace n m cl) st = .next ((y.addShare n).updGrid (gridKey n m) fun g => { g with ranges := [], expired := false })) ∧
      (g.coop = false → st.placeOn g ((mgetD g.ranges cl []).headD (0, 0)).1 cl = some y →
        exec (.workgroupPlace n m cl) st = .next ((y.addShare n).updGrid (gridKey n m) fun x =>
          { x with ranges := mput g.ranges cl (runTake 1 (mgetD g.ranges cl [])).2 [], expired := x.expired && decide (mput g.ranges cl (runTake 1 (mgetD g.ranges cl [])).2 [] ≠ []) }))) ∧
    exec (.placementWaitExpiry n m) st = .next (st.updGrid (gridKey n m) fun g =>
      if g.openGate && decide (g.ranges ≠ []) && decide (g.openAt + 65536 ≤ st.clock) then { g with expired := true } else g) ∧
    (∀ g v u k t y, mget st.grids (gridKey n m) = some g → cl ∈ st.eligible (st.ctx n).dev (g.desc.flags / 8 % 4) → g.leftDie cl = 0 →
      stealFrom (((st.eligible (st.ctx n).dev (g.desc.flags / 8 % 4)).filter fun d => decide (d ≠ cl)).map fun d => (d, g.leftDie d)) = some (v, u) →
      runTake (u - u / 2) (g.dieRuns v) = (k, t) → st.sched n 710 5 v cl (some ((g.base + (t.headD (0, 0)).1) % 2 ^ 39)) = some y →
      exec (.workSteal n m cl true) st = .next (y.updGrid (gridKey n m) fun x => { x with ranges := (dealDie cl t).foldl (fun m e => mset m e.1 e.2) (g.keeping v k) })) ∧
    (∀ g v u k t y, mget st.grids (gridKey n m) = some g → clusterDie cl ∈ st.eligible (st.ctx n).dev (g.desc.flags / 8 % 4) → g.left cl = 0 →
      stealFrom ((dieClusters (clusterDie cl)).filterMap fun c => if c = cl then none else some (c, g.left c)) = some (v, u) →
      runTake (u - u / 2) (mgetD g.ranges v []) = (k, t) →
      st.sched n (710 + clusterDie cl) 5 (clusterInDie v) (clusterInDie cl) (some ((g.base + (t.headD (0, 0)).1) % 2 ^ 39)) = some y →
      exec (.workSteal n m cl false) st = .next (y.updGrid (gridKey n m) fun x => { x with ranges := mset (mput g.ranges v k []) cl t })) ∧
    (∀ g y, mget st.grids (gridKey n m) = some g → g.gateHeld = true → g.openGate = false → st.sched n 710 6 0 0 (some g.base) = some y →
      exec (.gateOpen n m) st = .next (y.updGrid (gridKey n m) fun g => { g with openGate := true, openAt := y.clock })) ∧
    (∀ g lin serial a rest more y, mget st.grids (gridKey n m) = some g → g.pendAtoms = (lin, serial, a :: rest) :: more → g.retired = g.total →
      (a.glob = false ∧ st.lostTrap a.addr = none ∧ y = (st.writeAll a.addr a.esize (atomNew a.op a.esize (st.read a.addr a.esize) a.val 0)).soil (a.bad || st.poisonedAt a.addr a.esize) a.addr ∨
        a.glob = true ∧ st.hubAtomic n a.addr a.esize .rw false a.bad (fun old => atomNew a.op a.esize old a.val 0) = .done y) →
      exec (.bufferedAtomicApply n m) st = .next ((y.updGrid (gridKey n m) fun g => { g with pendAtoms := if rest = [] then more else (lin, serial, rest) :: more }).finishGrid (gridKey n m))) ∧
    (∀ g y, mget st.grids (gridKey n m) = some g → g.ended = true → g.doneAt ≠ 0 → g.doneAt % 16 = 0 → g.doneAt < 2 ^ 52 → st.hubAtomic n g.doneAt 8 .w true false (fun v => (v + 1) % 2 ^ 64) = .done y →
      exec (.doneAdd n m) st = .next ((y.updGrid (gridKey n m) fun g => { g with doneAt := 0 }).dropGrid (gridKey n m))) ∧
    (∀ g, mget st.grids (gridKey n m) = some g → g.ended = true → g.doneAt ≠ 0 → (g.doneAt % 16 ≠ 0 ∨ 2 ^ 52 ≤ g.doneAt) →
      exec (.doneAdd n m) st = .next (((st.faultRec 0 n 0 (causeCode (if g.doneAt % 16 ≠ 0 then .misalign else .pageFault)) 0 g.doneAt).updGrid (gridKey n m) fun g => { g with doneAt := 0 }).dropGrid (gridKey n m))) ∧
    (∃ y : State, y = { st with cores := mmap st.cores fun _ k => { k with elder := merase k.elder n } } ∧
      exec (.elderReport n) st = .next (match ((st.groups.filter fun e => decide (st.ctxOf e.2 = n) && !e.2.saver).filterMap fun e => (st.lowGtid e.2).map fun t => (e.1, t)).foldl
          (fun (b : Option (Nat × Nat)) e => match b with | some x => if gtidLt e.2 x.2 then some e else b | none => some e) none with
        | some (gid, _) => y.updCore (gCore gid) fun k => { k with elder := mset k.elder n gid }
        | none => y))

/-- In every state in which a split's or stream's wait has ended, its context is not being pre-empted (or it is a save or restore handler's), and its
recorder lets it go on, its release moves it past the instruction; a wait that has ended by a trap takes it; a watchdog that has run out takes its
trap or, at trap level, faults the context; a group entering a trap enters it once drained; a fault record answered with MAPPED or DECLINED frees or
ends what waited for the page; a census flush lets its split go on; and a grid barrier's release frees every group of its grid. -/
def Obligations.WaitsAndTrapEntryComplete : Prop :=
  ∀ (st : State) (n m : Nat),
    exec (.gbarRelease n m) st = .next (st.releaseAll [2] ((st.groups.filter fun e => decide (gridKey (st.wgOf e.2).ctx (st.wgOf e.2).grid = gridKey n m)).map (·.1))) ∧
    (∀ g s y, mget st.groups n = some g → g.splitAt m = some s → s.wait = .freed 3 → st.wakes g = true → st.releaseGate n m g = some y →
      exec (.waitcRelease n m) st = .next (y.updGroup n fun g => { g.updSplit m (fun s => { s with wait := .ready, pc := s.pc + 4 }) with watchdog := 0 })) ∧
    (∀ g s y, mget st.groups n = some g → g.splitAt m = some s → s.wait = .freed 4 → st.wakes g = true → st.releaseGate n m g = some y →
      exec (.waitmRelease n m) st = .next (y.updGroup n fun g => { g.updSplit m (fun s => { s with wait := .ready, pc := s.pc + 4 }) with watchdog := 0 })) ∧
    (∀ g s y, mget st.groups n = some g → g.splitAt m = some s → s.wait = .freed 5 → st.wakes g = true → st.releaseGate n m g = some y →
      exec (.joincRelease n m) st = .next (y.updGroup n fun g => { g.updSplit m (fun s => { s with wait := .ready, pc := s.pc + 4 }) with watchdog := 0 })) ∧
    (∀ x g s y, x = st.updGroup n (fun g => g.updSplit m fun s => if s.wait = .sleep 0 then { s with wait := .freed 6 } else s) →
      mget x.groups n = some g → g.splitAt m = some s → s.wait = .freed 6 → x.wakes g = true → x.releaseGate n m g = some y →
      exec (.sleepExpiry n m) st = .next (y.updGroup n fun g => { g.updSplit m (fun s => { s with wait := .ready, pc := s.pc + 4 }) with watchdog := 0 })) ∧
    (∀ g y, mget st.groups n = some g → g.await = .freed → st.wakes g = true → st.releaseGate n 4 g = some y → exec (.awaitcRelease n) st = .next (y.updGroup n fun g => { g with await := .ready, apc := g.apc + 4, watchdog := 0 })) ∧
    (∀ g, mget st.groups n = some g → 2 ^ (st.ctx (st.ctxOf g)).wdog ≤ g.watchdog →
      (g.tlevel = true → exec (.watchdogExpiry n) st = .next (st.contextFault n g.handled 17)) ∧
      (g.tlevel = false → exec (.watchdogExpiry n) st = .next (st.postTrap n { trap := { cause := .watchdog }, kind := .async }))) ∧
    (∀ g, mget st.groups n = some g → g.entering.isSome = true → exec (.trapEntry n) st = .next (st.enterTrap n)) ∧
    (∀ g p, mget st.groups n = some g → g.entering = none → st.endedWait n g = some p → exec (.trapEntry n) st = .next (st.takePend n p.acc p.slot p)) ∧
    (∀ f r z y, (st.ctx n).faults[m]? = some f → st.resultRead n f = some (r, z) →
      y = z.updCtx n (fun x => { x with faults := x.faults.filter fun q => decide (q.index ≠ f.index) }) →
      (r = 1 → exec (.pageFaultResult n m) st = .next ((y.pageMapped n f.page).askAgain n)) ∧
      (r = 2 → exec (.pageFaultResult n m) st = .next ((y.pageDeclined n f.page f.detail).askAgain n))) ∧
    (∀ g s y, mget st.groups n = some g → g.splitAt m = some s → s.wait = .flush → st.censusFlush (st.ctxOf g) = some y →
      exec (.censusFlush n m) st = .next (y.updGroup n fun g => g.updSplit m fun s => { s with wait := .ready, pc := s.pc + 4 }))

/-- In every state in which a line of an access stands ready at its unit and the unit serves it, the line's event answers a next state in which it is
served; a load whose lines are all done arrives; a write-back entry with nothing owed returns; the oldest spilled line that translates, and whose turn
it is, performs; a fence or cross-fence whose condition holds completes with its release, acquire or pts step; and an SC fence or atomic that is due
takes the next ticket and releases what it orders. -/
def Obligations.MemoryUnitsComplete : Prop :=
  ∀ (st : State) (n id va : Nat),
    (∀ g a b l x y, LineReady st n id va isLoad g a l → st.atLine n g a l = some x → x.serveLine n g a l = some (y, b) → exec (.loadLinePerform n id va) st = .next (st.lineServed y n g a b l)) ∧
    (∀ g a b l x y, LineReady st n id va isStore g a l → st.atLine n g a l = some x → x.serveLine n g a l = some (y, b) → exec (.storeLinePerform n id va) st = .next (st.lineServed y n g a b l)) ∧
    (∀ g a b l x y, LineReady st n id va isAtom g a l → st.atLine n g a l = some x → x.serveLine n g a l = some (y, b) → exec (.atomicLinePerform n id va) st = .next (st.lineServed y n g a b l)) ∧
    (∀ g a, mget st.groups n = some g → g.accessOf id = some a → a.resolved = true → a.checked = true → a.lines.all (fun m => m.done) = true → (a.kind = .vdef → st.slotBusy g a.slot = false) → exec (.loadDataArrival n id) st = .next (st.arrive n a)) ∧
    (∃ f : Group → Wb → Wb, f = (fun g e => if e.id = id ∧ !(g.memq.any fun a => decide (a.id = id)) ∧ !st.matrixOwes n id then { e with returned := true } else e) ∧
      exec (.asyncResultReturn n id true) st = .next (st.updGroup n fun g => { g with wbA := g.wbA.map (f g) }) ∧
      exec (.asyncResultReturn n id false) st = .next (st.updGroup n fun g => { g with wbC := g.wbC.map (f g) })) ∧
    (∀ e r w x y b l k g a m, st.spillway n = e :: r → (st.ctx e.ctx).state = .running ∨ (st.ctx e.ctx).state = .preempting ∨ (st.ctx e.ctx).state = .resuming →
      st.checkLines e.ctx (.stream e.group true) e.access.esize (kindNeed e.access.kind).1 (kindNeed e.access.kind).2.1 (kindNeed e.access.kind).2.2 [e.line] = k → k.trap = none → k.good = [l] →
      g = mgetD k.st.groups e.group { wg := e.wg } → a = { e.access with lines := [l] } → m = k.st.moveOf e.group g a l →
      k.st.inTurn e.group g a l = true → k.st.placeFree a l = true → k.st.migrating l.pa = false → k.st.moveTurn m = true → k.st.recStalls e.ctx = false →
      k.st.dirtied e.ctx e.group a l = some w → (if releases a.order then w.released e.group a.scope a.id else w).serveLine e.group g a l = some (x, b) →
      y = { x with spillways := mset x.spillways n ((x.spillway n).eraseIdx 0) } →
      exec (.spillwayPerform n 0) st = .next (((((y.atomDone e.group a).atomEcc e.group e.wg b).moveGone m).refill n).settle e.group)) ∧
    (∀ g scope up, mget st.groups n = some g → st.spilledBy n g.wg (fun _ => true) = false →
      (g.await = .fence 0 scope up → acquireReady g up = true → exec (.fenceComplete n) st = .next ((st.acquire n scope).updGroup n fun g => { g with await := .ready, apc := g.apc + 4 })) ∧
      (g.await = .fence 1 scope up → st.releaseDone n g scope up = true → exec (.fenceComplete n) st = .next ((st.released n scope up).updGroup n fun g => { g with await := .ready, apc := g.apc + 4 })) ∧
      (g.await = .fence 2 scope up → st.releaseDone n g scope up = true → acquireReady g up = true →
        exec (.fenceComplete n) st = .next (((st.released n scope up).acquire n scope).updGroup n fun g => { g with await := .ready, apc := g.apc + 4 }))) ∧
    (∀ g f t u up y, mget st.groups n = some g → g.await = .xfence f t u up → st.pathsDone n g f (if t / 2 = 0 then u else 5) up = true → y = (if f % 2 = 1 then st.published n u up else st) →
      exec (.xfenceComplete n) st = .next ((if t % 2 = 1 then y.raisePts (gCore n) (y.die (gDie n)).maxT else y).updGroup n fun g => { g with await := .ready, apc := g.apc + 4 })) ∧
    (∀ g scope up y t, mget st.groups n = some g → g.await = .fence 3 scope up → st.releaseDone n g scope up = true → st.seqTicket (st.ctxOf g) 0 (locOf n 0) g.icntA = some (y, t) →
      exec (.scTicketGrant n id) st = .next ((((y.raisePts (gCore n) g.amark).raisePts (gCore n) (y.die (gDie n)).maxT).released n scope up).updGroup n fun g => { g with await := .fence 2 scope up })) ∧
    (∀ g a y t w z, mget st.groups n = some g → g.await = .ready → (g.accessOf id).or (((st.spillway (quadOf n)).find? fun e => decide (e.group = n) && decide (e.wg = g.wg) && decide (e.access.id = id)).map (·.access)) = some a →
      a.order = 4 → a.ticket = none → st.releaseDone n g a.scope id = true →
      st.seqTicket (st.ctxOf g) 0 (locOf n 0) g.icntA = some (y, t) → w = (y.raisePts (gCore n) g.amark).raisePts (gCore n) (y.die (gDie n)).maxT →
      z = ((w.released n a.scope id).bindSeen n a.scope id).updGroup n (fun g => g.updAccess id fun a => { a with ticket := some st.ticket }) →
      exec (.scTicketGrant n id) st = .next { z with spillways := mupd z.spillways (quadOf n) fun l => l.map fun e => if decide (e.group = n) && decide (e.wg = g.wg) && decide (e.access.id = id) then { e with access := { e.access with ticket := some st.ticket } } else e })

/-- Granting and revoking a line or a half, a pts jump, the ageing steps, a scrubber's visit, a host access that holds its half, each step of a page's
migration and each direction of a bias flip answer a next state with their effect, where the holder may have or give up the line, the page is mapped
and nothing of it is quiescing. -/
def Obligations.DirectoryAndPagesComplete : Prop :=
  ∀ (st : State) (n : Nat),
    (1 ≤ n → n ≤ 8 → ∀ line c excl, exec (.directoryGrant n line 3 excl c) st = .next (st.grantDie n line excl)) ∧
    (n = 9 ∨ n = 10 ∧ st.cxlHost = true → ∀ line half c excl, exec (.directoryGrant n line half excl c) st = .next (st.grantHalf n line half excl)) ∧
    (1 ≤ n → n ≤ 8 → ∀ line y, st.revokeDie n line = some y → exec (.directoryRevoke n line 3) st = .next y) ∧
    (∀ line half y, half < 2 → n = 9 ∨ n = 10 → n = (st.dirOf line).agent half → st.recallHalf line half = some y → exec (.directoryRevoke n line half) st = .next y) ∧
    ((st.coreCtxs n).filter (fun c => (st.ctx c).replay.any fun r => !r.off) = [] → (sLt (st.core n).pts (st.die (clusterDie (n / 4))).floor = true → ∃ y : State,
      y = (st.coreCtxs n).foldl (fun s c => if s.recording c then s.append c (n / 4) (recHome 3 (n % 4 * 4) (st.die (clusterDie (n / 4))).floor (mgetD (s.ctx c).acnt (n / 4 * 32 + n % 4 * 4) 0) 0 0) else s) st ∧
      exec (.ptsJump n) st = .next (y.updCore n fun k => { k with pts := (st.die (clusterDie (n / 4))).floor })) ∧
    (sLt (st.core n).pts (st.die (clusterDie (n / 4))).floor = false → exec (.ptsJump n) st = .next st)) ∧
    (∀ c r, (st.coreCtxs n).filter (fun c => (st.ctx c).replay.any fun r => !r.off) = c :: r → exec (.ptsJump n) st = .next ((c :: r).foldl (fun st c => st.replayJumps n c) st)) ∧
    (∃ y : State, y = st.updCore n (fun k => { k with l1 := mmap k.l1 fun _ (e : L1Copy) =>
        { e with age := e.age + 1, rank := (ageRank 255 e.rank e.steps e.overdue).1, steps := (ageRank 255 e.rank e.steps e.overdue).2.1, overdue := (ageRank 255 e.rank e.steps e.overdue).2.2.1 } }) ∧
      exec (.l1AgeingStep n) st = .next (((st.core n).l1.filter fun e => (ageRank 255 e.2.rank e.2.steps e.2.overdue).2.2.2).foldl (fun s e => s.countOverdue (clusterDie (n / 4)) e.2.tenant) y)) ∧
    (∃ y : State, y = st.updDie n (fun d => { d with l2 := mmap d.l2 fun _ (e : L2Line) => if e.fresh then e else
        { e with rank := (ageRank 31 e.rank e.steps e.overdue).1, steps := (ageRank 31 e.rank e.steps e.overdue).2.1, overdue := (ageRank 31 e.rank e.steps e.overdue).2.2.1 } }) ∧
      exec (.l2AgeingStep n) st = .next (((st.die n).l2.filter fun e => !e.2.fresh && (ageRank 31 e.2.rank e.2.steps e.2.overdue).2.2.2).foldl (fun s e => s.countOverdue n e.2.tenant) y)) ∧
    (∃ (k : Nat) (y : State) (clean : Nat → FMap L1Copy → FMap L1Copy), k = (st.die n).scrub % (l2Sets n / 2) ∧
      y = st.updDie n (fun d => { d with
        l2 := mmap d.l2 fun a (l : L2Line) => if a / 128 % l2Sets n / 2 = k ∧ farBehind l.wts d.floor then { l with wts := d.floor, rts := smax l.rts d.floor } else l
        scrub := (k + 1) % (l2Sets n / 2), passBase := if k + 1 = l2Sets n / 2 then d.maxT else d.passBase }) ∧
      clean = (fun t m => m.filter fun e => !(decide (e.1 / 128 % 256 = k % 256) && farBehind e.2.rts t)) ∧
      exec (.scrubberVisit n) st = .next { y with cores := mmap y.cores fun c (x : Core) => if clusterDie (c / 4) = n then { x with l1 := clean x.pts x.l1 } else x }) ∧
    (∀ page new x e level at_ b z, mget st.ctxs n = some x → st.walk n (page * 2 ^ 16) = .leaf e level at_ b → pteBit e 11 = false → st.leafQuiet n at_ (leafBase level page) (leafSize level / 2 ^ 16) = true →
      z = st.setLeaf at_ (e ||| 0x800#64) →
      exec (.pageMigration n page new) st = .next (match z.translate n (.unit 0) (page * 2 ^ 16) with | .ok _ _ s => s | _ => z)) ∧
    (∀ page newPa x e level at_ b old dst new y z, mget st.ctxs n = some x → st.walk n (page * 2 ^ 16) = .leaf e level at_ b → pteBit e 11 = true → st.leafQuiet n at_ (leafBase level page) (leafSize level / 2 ^ 16) = true →
      new = BitVec.ofNat 64 (newPa / leafSize level * leafSize level + (e &&& 0xF7FF#64).toNat % 2 ^ 16) → old = st.granules x.dev level e → dst = st.granules x.dev level new →
      st.badLeaf new level = false → old.any (fun g => st.quiescing (4096 * g) && !st.migrating (4096 * g)) = false →
      dst.any (fun g => decide (g ∈ old) || st.dir.any fun d => decide (d.1 / 4096 = g)) = false →
      st.revokeGranules old = some y → y.recallGranules old = some z →
      exec (.pageMigration n page newPa) st = .next (((z.moveGranules (old.zip dst)).setLeaf at_ new).patchLines n (leafBase level page) (leafSize level / 2 ^ 16)
        (fun l => { l with pa := movedTo (old.zip dst) l.pa }) (movedTo (old.zip dst)))) ∧
    (∀ page x e level at_ b y, mget st.ctxs n = some x → st.walk n (page * 2 ^ 16) = .leaf e level at_ b → pteBit e 55 = false → pteBit e 11 = false → st.leafQuiet n at_ (leafBase level page) (leafSize level / 2 ^ 16) = true →
      (st.granules x.dev level e).any (fun g => st.quiescing (4096 * g)) = false →
      (pteBit e 10 = false → st.revokeGranules (st.granules x.dev level e) = some y → exec (.biasFlip n page true) st =
        .next ((({ y with l3 := y.l3.map fun l => if l.1 / 4096 ∈ st.granules x.dev level e then (l.1, false) else l } : State).setLeaf at_ (e ||| 0x400#64)).patchLines n (leafBase level page) (leafSize level / 2 ^ 16) (fun l => { l with host := true }) id)) ∧
      (pteBit e 10 = true → st.recallGranules (st.granules x.dev level e) = some y → exec (.biasFlip n page false) st =
        .next ((y.setLeaf at_ (e &&& ~~~0x400#64)).patchLines n (leafBase level page) (leafSize level / 2 ^ 16) (fun l => { l with host := false }) id))) ∧
    (∀ dev pa k d a, n = 9 ∨ n = 10 ∧ st.cxlHost = true → k ≠ 0 → a = st.flatPa dev (pa % 2 ^ 56) → a % 64 + k ≤ 64 → dev < devCount st.mode → st.quiescing a = false →
      st.lostTrap a = none → st.moveFreeAt a = true → exec (.hostAccess n dev pa k false d) st = .next st ∧
      ((if a % 128 < 64 then (st.dirOf (lineOf a)).half0 else (st.dirOf (lineOf a)).half1) = 2 → st.tableQuiet (lineOf a) = true → st.hostHolds a = false →
        exec (.hostAccess n dev pa k true d) st = .next (st.hostStore a k (d % 2 ^ (8 * k))))) ∧
    (∀ pa k d, n = 9 → exec (.hostAccess n 255 pa k false d) st = .next st ∧ (k ≤ 64 → pa + k ≤ 2 ^ 41 →
      exec (.hostAccess n 255 pa k true d) st = .next (st.writeAll (flatBpm pa) k (d % 2 ^ (8 * k)))))

/-- In every state in which a copy or fabric command of a group may be served, each source line it reads, each destination line it writes, its end, and
each packet it sends answers the next state of that step, where its addresses translate; an entry of the reservation table that may be granted and
stands first is granted, and a granted entry completes with its effect in its turn among the entries granted before it that share cells with it, the
flags it raised kept for its group. -/
def Obligations.EnginesAndMatrixComplete : Prop :=
  ∀ (st : State) (n id : Nat),
    (∀ line e s e1 s2 e2, ((st.cluster (gCluster n)).copyQ.find? fun x => decide (x.group = n) && decide (x.id = id)) = some e → st.mayServe (st.cluster (gCluster n)).copyQ e = true → e.finished = false → st.startCmd e false = some (s, e1) → s.snapLines e1 1 16 (copyReads (vEsize e1.src) (s.copyPairs e1) line) = (.done s2, e2) →
      exec (.copyLine n id line true) st = .next (s2.putCmd { e2 with paged := none })) ∧
    (∀ line e s e1, ((st.cluster (gCluster n)).copyQ.find? fun x => decide (x.group = n) && decide (x.id = id)) = some e → st.mayServe (st.cluster (gCluster n)).copyQ e = true → e.finished = false → st.startCmd e false = some (s, e1) → e1.todo (s.copyPairs e1) = [] →
      exec (.copyLine n id line false) st = .next (s.endCopy n e1)) ∧
    (∀ line e s e1 s2 e2 y, ((st.cluster (gCluster n)).copyQ.find? fun x => decide (x.group = n) && decide (x.id = id)) = some e → st.mayServe (st.cluster (gCluster n)).copyQ e = true → e.finished = false → st.startCmd e false = some (s, e1) → line ∈ e1.todo (s.copyPairs e1) →
      s.snapLines e1 1 16 (srcLines (spread (vEsize e1.src) ((copyInto (vEsize e1.dst) (s.copyPairs e1) line).filterMap (·.1)))) = (.done s2, e2) →
      s2.copyWrite e2 line (copyInto (vEsize e1.dst) (s.copyPairs e1) line) = .done y → exec (.copyLine n id line false) st =
      .next (y.copied n { e2 with paged := none } line (copyBytes (vEsize e1.dst) (copyInto (vEsize e1.dst) (s.copyPairs e1) line) line) (decide (e1.todo (s.copyPairs e1) = [line])))) ∧
    (∀ e y, (st.cluster n).res.find? (fun e => decide (e.slot = id)) = some e → (st.cluster n).res.any (fun x => x.granted) = false → st.mayGrant n e = true →
      ((st.ctx e.ctx).replay = none → st.nextGrant n = some e) → st.sched e.ctx n 3 0 id none = some y →
      exec (.matrixGrant n id) st = .next (y.updCluster n fun k => { k with res := k.res.map fun x => if x.slot = id then { x with granted := true, turn := y.grantPlace } else x })) ∧
    (∀ line e e2 y, (st.cluster n).grantedAt id = some e → st.passReads e (e.lines.filter fun l => decide (l = line)) = some (y, e2) →
      exec (.matrixPassComplete n (.read id line)) st = .next (y.updCluster n fun k => { k with res := k.res.map fun x => if x.slot = id then e2 else x })) ∧
    (∀ e e2 y z f, (st.cluster n).grantedAt id = some e → st.inGrantOrder e = true → st.passReads e e.lines = some (y, e2) →
      y.performEntry e2 = (z, f) → ∃ x : State, x = z.updCluster n (fun k => { k with res := k.res.filter fun x => decide (x.slot ≠ e2.slot) }) ∧
      (f = 0 ∨ (mget x.groups e2.group).any (fun g => decide (g.wg = e2.wg)) = false → exec (.matrixPassComplete n (.complete id)) st = .next (x.settleWg e2.group e2.wg)) ∧
      (f ≠ 0 → (mget x.groups e2.group).any (fun g => decide (g.wg = e2.wg)) = true → exec (.matrixPassComplete n (.complete id)) st =
        .next ((x.updCluster (gCluster e2.group) fun k => { k with mflags := k.mflags ++ [{ group := e2.group, flags := f }] }).settleWg e2.group e2.wg))) ∧
    (∀ line e s e1 s2 e2, ((st.cluster (gCluster n)).fabQ.find? fun x => decide (x.group = n) && decide (x.id = id)) = some e → st.mayServe (st.cluster (gCluster n)).fabQ e = true → st.startCmd e true = some (s, e1) →
      s.snapLines e1 3 17 ((srcLines (spread (vEsize e1.src) ((s.fabPairs e1).filterMap (·.1)))).filter fun l => decide (l.1 = line)) = (.done s2, e2) →
      exec (.fabricPacketSend n id line true) st = .next (s2.putCmd ({ e2 with paged := none }.noteRead (srcLines (spread (vEsize e1.src) ((s.fabPairs e1).filterMap fun (x : Option Nat × Nat) => x.1)))))) ∧
    (∀ line e s e1 s2 e2 e3 r rs, ((st.cluster (gCluster n)).fabQ.find? fun x => decide (x.group = n) && decide (x.id = id)) = some e → st.mayServe (st.cluster (gCluster n)).fabQ e = true → st.startCmd e true = some (s, e1) → rs = runsOf (vEsize e1.src) (s.fabPairs e1) → rs[e1.sent % rs.length]? = some r →
      s.snapLines e1 3 17 (srcLines (spread (vEsize e1.src) (r.srcs.filterMap fun x => x))) = (.done s2, e2) →
      e3 = ({ e2 with paged := none, sent := e2.sent + 1 } : EngCmd).noteRead (srcLines (spread (vEsize e1.src) ((s.fabPairs e1).filterMap fun (x : Option Nat × Nat) => x.1))) →
      exec (.fabricPacketSend n id line false) st = .next (if e3.sent = rs.length * e3.dests.length
        then ((s2.sendRun n { e2 with paged := none } r rs.length).dropCmd e3).settleWg n e3.wg else (s2.sendRun n { e2 with paged := none } r rs.length).putCmd e3))

/-- In every state, a packet of another device that arrives on a working port, and is not held for a replay, goes to its domain's ingress Weir, or lands
in memory, line by line, or is counted as dropped where its kind is none; the addition of a packet that is due, and of the oldest redirected one that
may be applied, happens and is acknowledged, and one that its workgroup's pre-emption holds is acknowledged in its stead; an acknowledgement frees
what it covers; a skip notice stands for its packet; a peer past its time is dead; and a conversion matches, is refused with PLACEMENT 3, or reads its
own shard line by line, takes the others' shards, writes the lines of its result and is completed with the last. -/
def Obligations.FabricEventsComplete : Prop :=
  ∀ st : State,
    (∀ port hdr pay slot home, pDst hdr = st.devno → pSrc hdr ≠ st.devno → st.ingressHeld hdr = false → pLen hdr ≤ 256 → port < 36 → port ∉ st.downPorts → st.landing.find? (fun q => decide (q.hdr = hdr)) = none → st.dead.getLsbD (pSrc hdr) = false → pKind hdr ≤ 1 →
      st.weirFor (pDom hdr) false = some (home, slot) →
      exec (.packetArrival port hdr pay) st = .next (st.toWeir home slot port { hdr := hdr, pay := pay % 2 ^ (8 * pLen hdr) })) ∧
    (∀ port hdr pay y, pDst hdr = st.devno → pSrc hdr ≠ st.devno → st.ingressHeld hdr = false → pLen hdr ≤ 256 → port < 36 → port ∉ st.downPorts → st.landing.find? (fun q => decide (q.hdr = hdr)) = none → st.dead.getLsbD (pSrc hdr) = false → pKind hdr ≤ 1 →
      st.weirFor (pDom hdr) false = none → st.land { hdr := hdr, pay := pay % 2 ^ (8 * pLen hdr) } = some y → exec (.packetArrival port hdr pay) st = .next y) ∧
    (∀ port hdr pay, pDst hdr = st.devno → pSrc hdr ≠ st.devno → st.ingressHeld hdr = false → pLen hdr ≤ 256 → port < 36 → port ∉ st.downPorts → st.landing.find? (fun q => decide (q.hdr = hdr)) = none → st.dead.getLsbD (pSrc hdr) = false → 6 ≤ pKind hdr →
      exec (.packetArrival port hdr pay) st = .next st.dropped) ∧
    (∀ port hdr pay q y, pDst hdr = st.devno → st.ingressHeld hdr = false → pLen hdr ≤ 256 → port < 36 → port ∉ st.downPorts → st.landing.find? (fun q => decide (q.hdr = hdr)) = some q →
      ({ st with landing := st.landing.filter fun x => decide (x.hdr ≠ hdr) } : State).landLine ((st.ctxOfDomain (pDom hdr)).getD 0) q = some y → exec (.packetArrival port hdr pay) st = .next y) ∧
    (∀ src chan a y, (mgetD st.triples (src * 4 + chan) {}).landed.find? (fun a => decide (a.seq = (mgetD st.triples (src * 4 + chan) {}).due)) = some a →
      st.applyArrival a.hdr = some y → exec (.arrivalAddition src chan false) st =
        .next ((y.passed (src * 4 + chan) a).advance ((mgetD st.triples (src * 4 + chan) {}).landed.length + 1) (src * 4 + chan))) ∧
    (∀ src chan a, (mgetD st.triples (src * 4 + chan) {}).landed.find? (fun a => decide (a.seq = (mgetD st.triples (src * 4 + chan) {}).due)) = some a →
      st.applyArrival a.hdr = none → st.holdsAdd a.hdr = true → exec (.arrivalAddition src chan false) st = .next (st.ackHeld (src * 4 + chan))) ∧
    (∀ (src chan : Nat) (p : Arrived) (s y z : State), firstSome (fun (p : Arrived) => (st.applyArrival p.hdr).map fun s => (p, s)) st.redirs = some (p, s) →
      y = { s with redirs := s.redirs.erase p } →
      z = (if pStep p.hdr ≠ 0 ∧ pLast p.hdr = true then y.trace 0 6 (y.ctxOfDomain (pDom p.hdr)) 0 (collPay (pStep p.hdr) (pChan p.hdr) (pKind p.hdr % 2) (pSrc p.hdr) (pLen p.hdr)) else y) →
      exec (.arrivalAddition src chan true) st = .next (if p.acked = true then z else z.ackTo p.hdr (pSeq p.hdr) 0 0)) ∧
    (∀ dev chan seq fault addr one, st.dead.getLsbD dev = false → dev ≠ st.devno → ∃ y : State,
      y = ((mgetD st.unacked (dev * 4 + chan) []).filter fun u => u.covered seq fault one).foldl (fun s u => s.acknowledged dev fault addr u) st ∧
      (fault ≠ 0 → exec (.packetAck dev chan seq fault addr one) st = .next y) ∧
      (fault = 0 → exec (.packetAck dev chan seq fault addr one) st =
        .next { y with unacked := mput y.unacked (dev * 4 + chan) ((mgetD st.unacked (dev * 4 + chan) []).filter fun u => !u.covered seq fault one) [] })) ∧
    (∀ hdr, pDst hdr = st.devno → pKind hdr = 5 → pSrc hdr ≠ st.devno → st.dead.getLsbD (pSrc hdr) = false → st.ingressHeld hdr = false →
      exec (.skipNotice hdr) st = .next ((st.undomained hdr).delivered (pSet hdr 89 1 0) false)) ∧
    (∀ dev, (List.range 4).any (fun ch => (mgetD st.unacked (dev * 4 + ch) []).any fun u => decide (u.sent + 1000 * st.peertmo ≤ st.tai)) = true →
      exec (.deadPeerTimeout dev) st = .next (st.setDead dev)) ∧
    (∀ i v subs, st.convs[i]? = some v → v.matched = false → (st.convs.take i).any (fun u => !u.matched && decide (convKey u.dom u.mesh u.axis = convKey v.dom v.mesh v.axis)) = false →
      v.devs.all (fun n => decide (n = st.devno) || subs.any fun s => decide (s.1 = n)) = true →
      ((subs.filter fun s => decide (s.1 ∈ v.devs) && decide (s.1 ≠ st.devno)).all (convAgrees v) = true → v.step = 0 →
        exec (.conversionMatch i subs) st = .next { st with convs := st.convs.map fun u => if u = v then { u with matched := true } else u }) ∧
      ((subs.filter fun s => decide (s.1 ∈ v.devs) && decide (s.1 ≠ st.devno)).all (convAgrees v) = false → exec (.conversionMatch i subs) st = .next
        (st.abandonConv v .precise (placement 3)))) ∧
    (∀ i v data l y x, st.convs[i]? = some v → v.matched = true → v.result = none → v.toRead[Config.freeNat st.free % v.toRead.length]? = some l → st.hubRead v.ctx l 128 3 = (.done y, x) →
      exec (.conversionComplete i data) st = .next (({ y with free := y.free + 1 } : State).updConv v fun u => { u with snap := mset u.snap l x })) ∧
    (∀ i v data, st.convs[i]? = some v → v.matched = true → v.result = none → v.toRead = [] →
      (List.range v.devs.length).all (fun k => decide (k = v.me) || data.any fun p => decide (p.1 = k)) = true →
      exec (.conversionComplete i data) st = .next (st.updConv v fun u => { u with result := some (v.out (v.shard v.dense data)) })) ∧
    (∀ i v data y out va k, st.convs[i]? = some v → v.matched = true → v.result = some out → v.todo[Config.freeNat st.free % v.todo.length]? = some (va, k) →
      st.hubWrite v.ctx va k (2 ^ k - 1) (packN (8 * vEsize v.view) out / 2 ^ (8 * (va - vCbuf v.view)) % 2 ^ (8 * k)) 3 = .done y →
      exec (.conversionComplete i data) st = .next (if v.todo.length = 1 then ({ y with free := y.free + 1 } : State).converted v
        else ({ y with free := y.free + 1 } : State).updConv v fun u => { u with wrote := va :: u.wrote }))

/-- For every integer and floating-point word of the arithmetic families that is always able to complete once it stands ready: where exec answers a next
state, every byte of memory, every other group and all state outside the issuing group is as before, except the census's counts, the count of issues
and the pending matrix flags a marked word takes; in the group, every V register but the destination, every P, S, A and D register, MODE, tiles,
guards, the access stream, the trap registers, the other splits, the load queues the word does not name, and SQ and XQ where they are not the
destination, are as before. -/
def Obligations.ArithmeticFrames : Prop :=
  ∀ st : State,
    (∀ (m : BitVec 1) (d a b : BitVec 6),
      st.framesV (.add m d a b) m (binSpec d a b intT2Et) d ∧
      st.framesV (.sub m d a b) m (binSpec d a b intT2Et) d ∧
      st.framesV (.mul m d a b) m (binSpec d a b intEt) d ∧
      st.framesV (.mulh m d a b) m (binSpec d a b intEt) d ∧
      st.framesV (.min m d a b) m (binSpec d a b intT2Et) d ∧
      st.framesV (.max m d a b) m (binSpec d a b intT2Et) d ∧
      st.framesV (.and m d a b) m (binSpec d a b intEt) d ∧
      st.framesV (.or m d a b) m (binSpec d a b intEt) d ∧
      st.framesV (.xor m d a b) m (binSpec d a b intEt) d ∧
      st.framesV (.andn m d a b) m (binSpec d a b intEt) d ∧
      st.framesV (.shl m d a b) m (binSpec d a b intEt) d ∧
      st.framesV (.shr m d a b) m (binSpec d a b intEt) d ∧
      st.framesV (.rot m d a b) m (binSpec d a b intEt) d ∧
      st.framesV (.addc m d a b) m (binSpec d a b intEt) d ∧
      st.framesV (.subb m d a b) m (binSpec d a b intEt) d ∧
      st.framesV (.absd m d a b) m (binSpec d a b intEt) d) ∧
    (∀ (m : BitVec 1) (d a b c : BitVec 6) (i : BitVec 12) (k : BitVec 2) (n : BitVec 6) (h : BitVec 2) (l : BitVec 16),
      st.framesV (.neg m d a) m (unSpec d a intT2Et) d ∧
      st.framesV (.abs m d a) m (unSpec d a intT2Et) d ∧
      st.framesV (.not m d a) m (unSpec d a intEt) d ∧
      st.framesV (.clz m d a) m (unSpec d a intEt) d ∧
      st.framesV (.ctz m d a) m (unSpec d a intEt) d ∧
      st.framesV (.popc m d a) m (unSpec d a intEt) d ∧
      st.framesV (.brev m d a) m (unSpec d a intEt) d ∧
      st.framesV (.mad m d a b c) m { legal := dstOk d && srcOk a && srcOk b && srcOk c, srcs := [a, b, c], dst := some d, mode := intEt } d ∧
      st.framesV (.bfe m d a b c) m { legal := dstOk d && srcOk a && srcOk b && srcOk c, srcs := [a, b, c], dst := some d, mode := fun g => g.et.isWordInt } d ∧
      st.framesV (.bfi m d a b c) m { legal := isV d && srcOk a && srcOk b && srcOk c, srcs := [d, a, b, c], dst := some d, mode := fun g => g.et.isWordInt } d ∧
      st.framesV (.addi m d a i) m (unSpec d a intEt) d ∧
      st.framesV (.shi m d a k n) m { unSpec d a intEt with legal := dstOk d && srcOk a && decide (k ≠ 3#2), fits := fun g => decide (n.toNat < g.et.width) } d ∧
      st.framesV (.lit m d h l) m { guarded := false, legal := if h = 0#2 then dstOk d else isV d, srcs := if h = 0#2 then [] else [d], dst := some d } d) ∧
    (∀ (m : BitVec 1) (d a b c : BitVec 6),
      st.framesV (.fadd m d a b) m (binSpec d a b fpEt) d ∧
      st.framesV (.fsub m d a b) m (binSpec d a b fpEt) d ∧
      st.framesV (.fmul m d a b) m (binSpec d a b fpEt) d ∧
      st.framesV (.fmin m d a b) m (binSpec d a b fpEt) d ∧
      st.framesV (.fmax m d a b) m (binSpec d a b fpEt) d ∧
      st.framesV (.fcpys m d a b) m (binSpec d a b fpEt) d ∧
      st.framesV (.fabs m d a) m (unSpec d a fpEt) d ∧
      st.framesV (.fneg m d a) m (unSpec d a fpEt) d ∧
      st.framesV (.frnd m d a) m (unSpec d a fpEt) d ∧
      st.framesV (.fclass m d a) m (unSpec d a fpEt) d ∧
      st.framesV (.fma m d a b c) m { legal := dstOk d && srcOk a && srcOk b && srcOk c, srcs := [a, b, c], dst := some d, mode := fpEt } d ∧
      st.framesV (.fms m d a b c) m { legal := dstOk d && srcOk a && srcOk b && srcOk c, srcs := [a, b, c], dst := some d, mode := fpEt } d ∧
      st.framesV (.fnma m d a b c) m { legal := dstOk d && srcOk a && srcOk b && srcOk c, srcs := [a, b, c], dst := some d, mode := fpEt } d ∧
      st.framesV (.fnms m d a b c) m { legal := dstOk d && srcOk a && srcOk b && srcOk c, srcs := [a, b, c], dst := some d, mode := fpEt } d)

/-- The same frame for the words whose destination is a V register or a queue among selects, moves, conversions and votes; for predicate words, where
every P register but the destination and no flag changes; and for the uniform words, where no S register but the destination and no flag changes, and
none at all where the destination is ZERO. -/
def Obligations.MoveVoteConversionFrames : Prop :=
  ∀ st : State,
    (∀ (m : BitVec 1) (d a b c : BitVec 6),
      st.framesV (.sel m d a b c) m { legal := dstOk d && srcOk a && srcOk b && lt8 c, srcs := [a, b], dst := some d, pregs := [c.toNat] } d ∧
      st.framesP (.pand m d a b) m { guarded := false, legal := lt8 d && lt8 a && lt8 b, pregs := [a.toNat, b.toNat] } d ∧
      st.framesP (.por m d a b) m { guarded := false, legal := lt8 d && lt8 a && lt8 b, pregs := [a.toNat, b.toNat] } d ∧
      st.framesP (.pxor m d a b) m { guarded := false, legal := lt8 d && lt8 a && lt8 b, pregs := [a.toNat, b.toNat] } d ∧
      st.framesP (.pnot m d a) m { guarded := false, legal := lt8 d && lt8 a, pregs := [a.toNat] } d ∧
      st.framesP (.pmov m d a b) m { guarded := false, legal := lt8 d && lt8 a && lt8 b, pregs := [a.toNat] } d ∧
      st.framesP (.pset m d a) m { guarded := false, legal := lt8 d && srcOk a, srcs := [a] } d ∧
      st.framesV (.pget m d a) m { guarded := false, legal := dstOk d && lt8 a, dst := some d, pregs := [a.toNat] } d ∧
      st.framesV (.mov m d a) m (unSpec d a fun _ => true) d ∧
      st.framesV (.bcst m d a b) m { unSpec d a (fun _ => true) with fits := fun g => decide (b.toNat < 64 / g.et.width) } d ∧
      st.framesV (.stov m d a b) m { guarded := false, legal := isV d && isSZ a && decide (b.toNat < 32), srcs := [a] } d) ∧
    (∀ (m : BitVec 1) (d a b : BitVec 6) (q : BitVec 2) (k : BitVec 3),
      st.framesV (.cvt m d a) m (unSpec d a fun g => decide (g.et.width = g.et2.width)) d ∧
      st.framesV (.cvts m d a b) m { unSpec d a (fun g => decide (g.et.width = g.et2.width) && (g.et.isFloat || g.et2.isFloat)) with
        legal := dstOk d && srcOk a && isSZ b, srcs := [a, b] } d ∧
      st.framesV (.pack m d a b) m { legal := isV d && srcOk a, srcs := [a, d], dst := some d, mode := fun g => decide (g.et2.width < g.et.width), fits := fun g => decide (b.toNat < g.et2.k / g.et.k), gwidth := fun g => g.et2.width } d ∧
      st.framesV (.unpk m d a b) m { unSpec d a (fun g => decide (g.et.width < g.et2.width)) with
        fits := fun g => decide (b.toNat < g.et.k / g.et2.k), gwidth := fun g => g.et2.width } d) ∧
    (∀ (m : BitVec 1) (d a b : BitVec 6),
      st.framesV (.voteAny m d a b) m (voteSpec d a b) d ∧
      st.framesV (.voteAll m d a b) m (voteSpec d a b) d ∧
      st.framesV (.voteEq m d a b) m (voteSpec d a b) d ∧
      st.framesV (.voteBallot m d a b) m (voteSpec d a b) d ∧
      st.framesV (.voteElect m d) m { guarded := false, legal := dstOk d, dst := some d } d ∧
      st.framesV (.voteMatch m d a) m { guarded := false, legal := dstOk d && srcOk a, srcs := [a], dst := some d } d) ∧
    (∀ (m : BitVec 1) (d a b : BitVec 6),
      st.framesS (.sadd m d a b) m (sopSpec d a b) d ∧
      st.framesS (.ssub m d a b) m (sopSpec d a b) d ∧
      st.framesS (.smul m d a b) m (sopSpec d a b) d ∧
      st.framesS (.smulh m d a b) m (sopSpec d a b) d ∧
      st.framesS (.smin m d a b) m (sopSpec d a b) d ∧
      st.framesS (.smax m d a b) m (sopSpec d a b) d ∧
      st.framesS (.sand m d a b) m (sopSpec d a b) d ∧
      st.framesS (.sor m d a b) m (sopSpec d a b) d ∧
      st.framesS (.sxor m d a b) m (sopSpec d a b) d ∧
      st.framesS (.sandn m d a b) m (sopSpec d a b) d ∧
      st.framesS (.sshl m d a b) m (sopSpec d a b) d ∧
      st.framesS (.sshr m d a b) m (sopSpec d a b) d ∧
      st.framesS (.srot m d a b) m (sopSpec d a b) d) ∧
    (∀ (m : BitVec 1) (d a : BitVec 6) (i : BitVec 12) (h : BitVec 2) (l : BitVec 16),
      st.framesS (.saddi m d a i) m (sopSpec d a a) d ∧
      st.framesS (.slit m d 0 l) m { sopSpec d d d with srcs := [] } d)

/-- Where exec answers a next state for a word of the access stream's arithmetic that stands ready, every byte of memory, every other group and all state
outside the issuing group is as before but the count of issues and the pending matrix flags a marked word takes; in the group every A register but the
destination, all V, P, S and D registers, MODE, the flags but those taken so, the splits, the queues, the memory unit's accesses and the trap
registers are as before. -/
def Obligations.AccessArithmeticFrames : Prop :=
  ∀ st : State,
    (∀ (m : BitVec 1) (d a b : BitVec 5) (i : BitVec 14) (l : BitVec 16),
      st.framesA (.aadd m d a b) m { legal := true } d.toNat ∧
      st.framesA (.asub m d a b) m { legal := true } d.toNat ∧
      st.framesA (.amul m d a b) m { legal := true } d.toNat ∧
      st.framesA (.amulh m d a b) m { legal := true } d.toNat ∧
      st.framesA (.aand m d a b) m { legal := true } d.toNat ∧
      st.framesA (.aor m d a b) m { legal := true } d.toNat ∧
      st.framesA (.axor m d a b) m { legal := true } d.toNat ∧
      st.framesA (.ashl m d a b) m { legal := true } d.toNat ∧
      st.framesA (.ashr m d a b) m { legal := true } d.toNat ∧
      st.framesA (.asra m d a b) m { legal := true } d.toNat ∧
      st.framesA (.amin m d a b) m { legal := true } d.toNat ∧
      st.framesA (.amax m d a b) m { legal := true } d.toNat ∧
      st.framesA (.aminn m d a b) m { legal := true } d.toNat ∧
      st.framesA (.amaxn m d a b) m { legal := true } d.toNat ∧
      st.framesA (.aaddi m d a i) m { legal := true } d.toNat ∧
      st.framesA (.ali m d l) m { legal := true } d.toNat ∧
      st.framesA (.alim m d l) m { legal := true } d.toNat ∧
      st.framesA (.alit m d l) m { legal := true } d.toNat ∧
      st.framesA (.aliq m d l) m { legal := true } d.toNat)

/-- A step takes the turn that stands first in the agenda (the order of turns is the model's own, log entry 2). A machine operation's turn is exec of that
operation, unless the unit's clocks stand still. A port's Weir turn is exec of the instruction that the word at its kernel's PC decodes to. A pipe's
turn tries its candidates in order; where no earlier one can issue, the next one may and is no root group's, the word at its split's PC decodes to
instruction i, and exec of i issues, the step answers what exec answers, in the state with the choice logged, the translation held and that split as
the issuer. The same holds of a front end and an access stream's PC. -/
def Obligations.StepRunsTheDecodedInstruction : Prop :=
  (∀ (b : State) (i : Instr), b.nextTurn = .event i → isetOf i = .event → (b.frozen = true → runsFrozen i = true) → (b.inP3 = true → runsInP3 i = true) →
      step b = exec i b.begin) ∧
    (∀ (b : State) (port : Nat) (r : WeirRun) (k : WeirSlot) (w : BitVec 32) (i : Instr), b.nextTurn = .weir port → b.frozen = false → b.inP3 = false →
      (mgetD b.weirs port {}).run = some r → mget (mgetD b.weirs port {}).slots r.slot = some k → k.code[r.pc]? = some w → decodeWeir w = some i →
      step b = exec i b.begin) ∧
    (∀ (b : State) (core pipe gid slot : Nat) (l l' : List (Nat × Nat)) (g0 g : Group) (s : Split) (x y t : State) (w : BitVec 32) (i : Instr),
      b.nextTurn = .pipe core pipe → b.begin.pipeOrder core pipe = l ++ (gid, slot) :: l' →
      (∀ e ∈ l, b.begin.trySplit e.1 e.2 (fun st g s => if st.isRoot g then st.rootTurn e.1 e.2 g s else st.runSplit e.1 e.2 g s) = none) → SplitTurn b.begin gid slot g0 g s x →
      WordAt x (x.ctxOf g) gid false s.pc w y → decodeComp w = some i → exec i { y with issuer := { group := gid, slot := slot } } = .next t →
      x.issued gid g t = true → step b = exec i { y with issuer := { group := gid, slot := slot } }) ∧
    ∀ (b : State) (core quad gid : Nat) (l l' : List Nat) (g : Group) (x y t : State) (w : BitVec 32) (i : Instr),
      b.nextTurn = .frontEnd core quad → b.begin.frontOrder core quad = l ++ gid :: l' →
      (∀ e ∈ l, b.begin.tryAccess e (fun st g => st.runAccess e g) = none) → AccessTurn b.begin gid g x →
      WordAt x (x.ctxOf g) gid true g.apc w y → decodeAcc w = some i → exec i { y with issuer := { group := gid, slot := 4 } } = .next t →
      x.issued gid g t = true → step b = exec i { y with issuer := { group := gid, slot := 4 } }

/-- Where one of these words stands ready and its destination is a V register, exec answers a next state in which every sub-element of the destination, of
an active thread and enabled by the guard, holds the stated function of the sub-elements of the sources at the same position (ADD, SUB, MUL and SHL
under SAT = 0 modulo 2^w; AND, OR, XOR, ANDN and NOT bitwise; ADDC the carry and SUBB the borrow; MIN, MAX and SHR for N types; MOV the source; SEL by
the predicate bit of its lowest byte), and every other sub-element of it holds what it held. -/
def Obligations.ElementResults : Prop :=
  ∀ (st : State) (m : BitVec 1) (d a b c : BitVec 6), d.toNat < 32 →
    st.elements (.add m d a b) m (binSpec d a b intT2Et) d (fun g => !g.sat && decide (g.et ≠ .t2)) (fun g p => (g.srcAt a p + g.srcAt b p) % 2 ^ g.et.width) ∧
    st.elements (.sub m d a b) m (binSpec d a b intT2Et) d (fun g => !g.sat && decide (g.et ≠ .t2)) (fun g p => (g.srcAt a p + 2 ^ g.et.width - g.srcAt b p) % 2 ^ g.et.width) ∧
    st.elements (.mul m d a b) m (binSpec d a b intEt) d (fun g => !g.sat && decide (g.et ≠ .t2)) (fun g p => (g.srcAt a p * g.srcAt b p) % 2 ^ g.et.width) ∧
    st.elements (.and m d a b) m (binSpec d a b intEt) d (fun _ => true) (fun g p => g.srcAt a p &&& g.srcAt b p) ∧
    st.elements (.or m d a b) m (binSpec d a b intEt) d (fun _ => true) (fun g p => g.srcAt a p ||| g.srcAt b p) ∧
    st.elements (.xor m d a b) m (binSpec d a b intEt) d (fun _ => true) (fun g p => g.srcAt a p ^^^ g.srcAt b p) ∧
    st.elements (.andn m d a b) m (binSpec d a b intEt) d (fun _ => true) (fun g p => g.srcAt a p &&& (2 ^ g.et.width - 1 - g.srcAt b p)) ∧
    st.elements (.addc m d a b) m (binSpec d a b intEt) d (fun _ => true) (fun g p => if 2 ^ g.et.width ≤ g.srcAt a p + g.srcAt b p then 1 else 0) ∧
    st.elements (.subb m d a b) m (binSpec d a b intEt) d (fun _ => true) (fun g p => if g.srcAt a p < g.srcAt b p then 1 else 0) ∧
    st.elements (.min m d a b) m (binSpec d a b intT2Et) d (fun g => g.et.isN) (fun g p => min (g.srcAt a p) (g.srcAt b p)) ∧
    st.elements (.max m d a b) m (binSpec d a b intT2Et) d (fun g => g.et.isN) (fun g p => max (g.srcAt a p) (g.srcAt b p)) ∧
    st.elements (.shl m d a b) m (binSpec d a b intEt) d (fun g => !g.sat && decide (g.et ≠ .t2)) (fun g p => g.srcAt a p * 2 ^ (g.srcAt b p % g.et.width) % 2 ^ g.et.width) ∧
    st.elements (.shr m d a b) m (binSpec d a b intEt) d (fun g => g.et.isN) (fun g p => g.srcAt a p / 2 ^ (g.srcAt b p % g.et.width)) ∧
    st.elements (.not m d a) m (unSpec d a intEt) d (fun _ => true) (fun g p => 2 ^ g.et.width - 1 - g.srcAt a p) ∧
    st.elements (.mov m d a) m (unSpec d a fun _ => true) d (fun _ => true) (fun g p => g.srcAt a p) ∧
    st.elements (.sel m d a b c) m { legal := dstOk d && srcOk a && srcOk b && lt8 c, srcs := [a, b], dst := some d, pregs := [c.toNat] } d (fun _ => true)
      (fun g p => if (g.getP c.toNat).getLsbD (8 * (p / (64 / g.et.width)) + p % (64 / g.et.width) * g.et.width / 8) then g.srcAt a p else g.srcAt b p)

/-- Where AND, OR, XOR, ANDN, SHR, ROT, ADDC, SUBB, NOT, CLZ, CTZ, POPC, BREV, SEL, MOV or LIT stands ready, or ADD, SUB, MUL, SHL or ABSD under SAT = 0
and a type other than T2, exec answers a next state in which the group's STAT is what it was at the issue, whatever the operands and whatever the
destination (a V register, SQ, XQ or ZERO). -/
def Obligations.FlaglessWordsKeepFlags : Prop :=
  ∀ (st : State) (m : BitVec 1) (d a b c : BitVec 6) (h : BitVec 2) (l : BitVec 16),
    st.keepsFlags (.and m d a b) m (binSpec d a b intEt) (fun _ => true) ∧
    st.keepsFlags (.or m d a b) m (binSpec d a b intEt) (fun _ => true) ∧
    st.keepsFlags (.xor m d a b) m (binSpec d a b intEt) (fun _ => true) ∧
    st.keepsFlags (.andn m d a b) m (binSpec d a b intEt) (fun _ => true) ∧
    st.keepsFlags (.shr m d a b) m (binSpec d a b intEt) (fun _ => true) ∧
    st.keepsFlags (.rot m d a b) m (binSpec d a b intEt) (fun _ => true) ∧
    st.keepsFlags (.addc m d a b) m (binSpec d a b intEt) (fun _ => true) ∧
    st.keepsFlags (.subb m d a b) m (binSpec d a b intEt) (fun _ => true) ∧
    st.keepsFlags (.not m d a) m (unSpec d a intEt) (fun _ => true) ∧
    st.keepsFlags (.clz m d a) m (unSpec d a intEt) (fun _ => true) ∧
    st.keepsFlags (.ctz m d a) m (unSpec d a intEt) (fun _ => true) ∧
    st.keepsFlags (.popc m d a) m (unSpec d a intEt) (fun _ => true) ∧
    st.keepsFlags (.brev m d a) m (unSpec d a intEt) (fun _ => true) ∧
    st.keepsFlags (.add m d a b) m (binSpec d a b intT2Et) (fun g => !g.sat && decide (g.et ≠ .t2)) ∧
    st.keepsFlags (.sub m d a b) m (binSpec d a b intT2Et) (fun g => !g.sat && decide (g.et ≠ .t2)) ∧
    st.keepsFlags (.mul m d a b) m (binSpec d a b intEt) (fun g => !g.sat && decide (g.et ≠ .t2)) ∧
    st.keepsFlags (.shl m d a b) m (binSpec d a b intEt) (fun g => !g.sat && decide (g.et ≠ .t2)) ∧
    st.keepsFlags (.absd m d a b) m (binSpec d a b intEt) (fun g => !g.sat && decide (g.et ≠ .t2)) ∧
    st.keepsFlags (.sel m d a b c) m { legal := dstOk d && srcOk a && srcOk b && lt8 c, srcs := [a, b], dst := some d, pregs := [c.toNat] } (fun _ => true) ∧
    st.keepsFlags (.mov m d a) m (unSpec d a fun _ => true) (fun _ => true) ∧
    st.keepsFlags (.lit m d h l) m { guarded := false, legal := if h = 0#2 then dstOk d else isV d, srcs := if h = 0#2 then [] else [d], dst := some d } (fun _ => true)

/-- The words that the spec's own tables of encodings work out, of every format family of the three instruction sets, decode to the instructions they are
printed beside, with every operand; the word 0 is NOP in the compute stream and ANOP in the access stream; majors that a map leaves unassigned decode
to nothing. -/
def Obligations.DecodeWords : Prop :=
  decodeComp 0x070A050A#32 = some (.modei 0#1 0xA050A#20) ∧
    decodeComp 0x0233FFFB#32 = some (.brc 0#1 3#4 1#3 0x1FFFB#17) ∧
    decodeComp 0x8C034980#32 = some (.waitc 1#1 52#6 38#6) ∧
    decodeComp 0x10D76980#32 = some (.launch 0#1 53#6 54#6 38#6) ∧
    decodeComp 0x18081000#32 = some (.gset 0#1 2#6 1#6 0#6 0#6) ∧
    decodeComp 0x2024284F#32 = some (.absd 0#1 9#6 2#6 33#6) ∧
    decodeComp 0xB20C1083#32 = some (.fma 1#1 3#6 1#6 2#6 3#6) ∧
    decodeComp 0x27113F80#32 = some (.lit 0#1 4#6 1#2 0x3F80#16) ∧
    decodeComp 0x2BD07142#32 = some (.vtos 0#1 52#6 7#6 5#6) ∧
    decodeComp 0x37203C81#32 = some (.cvts 0#1 8#6 3#6 50#6) ∧
    decodeComp 0x41CB2001#32 = some (.saddi 0#1 50#6 50#6 1#12) ∧
    decodeComp 0x4C1C2003#32 = some (.voteBallot 0#1 7#6 2#6 0#6) ∧
    decodeComp 0x52201040#32 = some (.mma 0#1 1#3 0#6 8#6 2#4 0#5) ∧
    decodeComp 0xD6230504#32 = some (.trdRow 1#1 1#3 3#4 5#8 4#6) ∧
    decodeAcc 0x07297F80#32 = some (.aaddi 0#1 5#5 5#5 0x3F80#14) ∧
    decodeAcc 0x033FFFFE#32 = some (.aloop 0#1 7#5 0x7FFFE#19) ∧
    decodeAcc 0x0C180014#32 = some (.setd 0#1 3#5 0#5 0x14#14) ∧
    decodeAcc 0x18252300#32 = some (.ldt 0#1 1#3 5#5 4#5 3#3 0#3 0#1 0#2) ∧
    decodeAcc 0x1C06405C#32 = some (.stt 0#1 6#5 8#5 0#3 2#3 1#1 3#2) ∧
    decodeAcc 0x214A0573#32 = some (.atoma 0#1 9#5 8#5 2#5 11#4 2#2 3#3) ∧
    decodeAcc 0x22600000#32 = some (.fence 0#1 3#3 0#3) ∧
    decodeWeir 0x16065000#32 = some (.watf 0#4 3#3 1#3 2#3 0#11) ∧
    decodeWeir 0x0BC53400#32 = some (.wcmp 1#1 4#3 5#4 3#4 4#4 0#1) ∧
    decodeWeir 0x19540003#32 = some (.wbrCc 2#3 5#3 3#8) ∧
    decodeWeir 0x1D00C200#32 = some (.wtrap 12#12 1#3) ∧
    decodeComp 0#32 = some (.nop 0#1) ∧ decodeAcc 0#32 = some (.anop 0#1) ∧ decodeComp 0x1A000000#32 = none ∧ decodeAcc 0x0E000000#32 = none ∧ decodeWeir 0#32 = none

/-- For every instruction of the compute, access and Weir instruction sets whose operand values are well formed, the encoder gives a word, and the decoder
of that set reads the word as the same instruction with every operand as it was: no operand bit is dropped and no two instructions share a word. -/
def Obligations.DecodeEncode : Prop :=
  ∀ i : Instr, Laws.RoundTrip.Statement i

/-- The state after reset meets the invariant: its memory is in its canonical form. No context, grid, workgroup, group or launch request exists; no
translation, directory entry, cached line, spillway entry, engine command, conversion, packet or control command stands anywhere; the package is one
device in 64-domain pool mode 0 with CTLSEM free, not frozen, in P0, its error filter at 3 events in 1,000; each of these registers holds the value
its rule gives; what an unlisted byte of memory reads as, and values no rule gives, are the model's choice (log entries 1 and 8). -/
def Obligations.ResetMeetsTheInvariant : Prop :=
  
    State.reset.Inv ∧
    State.reset.ctxs = [] ∧ State.reset.grids = [] ∧ State.reset.workgroups = [] ∧ State.reset.groups = [] ∧ State.reset.launches = [] ∧
    State.reset.tlb = [] ∧ State.reset.dir = [] ∧ State.reset.spillways = [] ∧ State.reset.convs = [] ∧ State.reset.outbox = [] ∧ State.reset.redirs = [] ∧
    (∀ d, (State.reset.die d).l2 = []) ∧ (∀ c, (State.reset.core c).l1 = []) ∧ (∀ k, (State.reset.cluster k).copyQ = [] ∧ (State.reset.cluster k).fabQ = []) ∧
    State.reset.ctlQ = [] ∧ State.reset.ctxQ = [] ∧ State.reset.wQ = [] ∧ State.reset.ckQ = [] ∧ State.reset.repQ = [] ∧
    State.reset.ctlPort = 0 ∧ State.reset.frozen = false ∧ State.reset.inP3 = false ∧ (∀ d, mgetD State.reset.power d 0 = 0) ∧
    State.reset.mode = 0 ∧ State.reset.pool = 64 ∧ State.reset.errWindow = 1000 ∧ State.reset.errThresh = 3 ∧ State.reset.peertmo = 2000 ∧
    (∀ d, (State.reset.reel d).takes = []) ∧ State.reset.closedTakes = [] ∧ (∀ a, State.reset.read a 1 = 0)

/-- From every state whose memory lists its addresses strictly rising and no byte that reads as an unlisted one, a step that answers a next state answers
one whose memory has that form: equal contents stay equal data whatever the turn runs, an instruction of either stream, a Weir kernel's, a machine
operation or the passing of time. -/
def Obligations.StepKeepsInv : Prop :=
  ∀ s t : State, s.Inv → step s = .next t → t.Inv

/-- Where ADD, FADD, MOV, CVT, FRCP, GETS or MODER stands at its issue and a field names an operand it may not (a queue popped as a destination, a pushed
queue as a source, a reserved value, an S register as a destination, a state number above 16, another register than S), it takes the precise trap
ILLEGAL_OP with detail 0; where ADD, MUL, FADD or FMAX has legal operands and MODE.ET is none of the types R266 gives it, it takes MODE_INVALID; in
either case the state is that of the issue with the trap taken and nothing else. -/
def Obligations.IllegalWordsTrap : Prop :=
  ∀ (st : State) (m : BitVec 1) (d a b : BitVec 6) (i : BitVec 12),
    ((32 ≤ d.toNat ∧ d.toNat ≠ 36 ∧ d.toNat ≠ 37 ∧ d.toNat ≠ 38 ∨ a.toNat = 36 ∨ a.toNat = 37 ∨ a.toNat = 39 ∨ 43 ≤ a.toNat ∧ a.toNat ≤ 47 ∨ b.toNat = 36 ∨ b.toNat = 37 ∨ b.toNat = 39 ∨ 43 ≤ b.toNat ∧ b.toNat ≤ 47) → st.trapsAtIssue (.add m d a b) m (binSpec d a b intT2Et) (fun _ => True) illegal) ∧
    ((32 ≤ d.toNat ∧ d.toNat ≠ 36 ∧ d.toNat ≠ 37 ∧ d.toNat ≠ 38 ∨ a.toNat = 36 ∨ a.toNat = 37 ∨ a.toNat = 39 ∨ 43 ≤ a.toNat ∧ a.toNat ≤ 47 ∨ b.toNat = 36 ∨ b.toNat = 37 ∨ b.toNat = 39 ∨ 43 ≤ b.toNat ∧ b.toNat ≤ 47) → st.trapsAtIssue (.fadd m d a b) m (binSpec d a b fpEt) (fun _ => True) illegal) ∧
    ((32 ≤ d.toNat ∧ d.toNat ≠ 36 ∧ d.toNat ≠ 37 ∧ d.toNat ≠ 38 ∨ a.toNat = 36 ∨ a.toNat = 37 ∨ a.toNat = 39 ∨ 43 ≤ a.toNat ∧ a.toNat ≤ 47) → st.trapsAtIssue (.mov m d a) m (unSpec d a fun _ => true) (fun _ => True) illegal) ∧
    ((32 ≤ d.toNat ∧ d.toNat ≠ 36 ∧ d.toNat ≠ 37 ∧ d.toNat ≠ 38 ∨ a.toNat = 36 ∨ a.toNat = 37 ∨ a.toNat = 39 ∨ 43 ≤ a.toNat ∧ a.toNat ≤ 47) → st.trapsAtIssue (.cvt m d a) m (unSpec d a fun g => decide (g.et.width = g.et2.width)) (fun _ => True) illegal) ∧
    ((32 ≤ d.toNat ∧ d.toNat ≠ 38 ∨ a.toNat = 36 ∨ a.toNat = 37 ∨ a.toNat = 39 ∨ 43 ≤ a.toNat ∧ a.toNat ≤ 47) → st.trapsAtIssue (.frcp m d a) m (sfuSpec d a) (fun _ => True) illegal) ∧
    ((d.toNat < 48 ∨ 16 < i.toNat) → st.trapsAtIssue (.gets m d i) m ({ ctlSpec (isS d && decide (i.toNat ≤ 16)) with async := fun _ _ => true }) (fun _ => True) illegal) ∧
    ((a.toNat < 48) → st.trapsAtIssue (.moder m a) m ({ ctlSpec (isS a) with srcs := [a] }) (fun _ => True) illegal) ∧
    (dstOk d = true → srcOk a = true → srcOk b = true → st.trapsAtIssue (.add m d a b) m (binSpec d a b intT2Et) (fun g => (g.mode.extractLsb' 0 4).toNat = 8 ∨ (g.mode.extractLsb' 0 4).toNat = 9 ∨ (g.mode.extractLsb' 0 4).toNat = 10 ∨ (g.mode.extractLsb' 0 4).toNat = 11 ∨ (g.mode.extractLsb' 0 4).toNat = 12 ∨ (g.mode.extractLsb' 0 4).toNat = 13) { cause := .modeInvalid }) ∧
    (dstOk d = true → srcOk a = true → srcOk b = true → st.trapsAtIssue (.mul m d a b) m (binSpec d a b intEt) (fun g => 8 ≤ (g.mode.extractLsb' 0 4).toNat ∧ (g.mode.extractLsb' 0 4).toNat ≠ 14) { cause := .modeInvalid }) ∧
    (dstOk d = true → srcOk a = true → srcOk b = true → st.trapsAtIssue (.fadd m d a b) m (binSpec d a b fpEt) (fun g => (g.mode.extractLsb' 0 4).toNat < 8 ∨ 11 < (g.mode.extractLsb' 0 4).toNat) { cause := .modeInvalid }) ∧
    (dstOk d = true → srcOk a = true → srcOk b = true → st.trapsAtIssue (.fmax m d a b) m (binSpec d a b fpEt) (fun g => (g.mode.extractLsb' 0 4).toNat < 8 ∨ 11 < (g.mode.extractLsb' 0 4).toNat) { cause := .modeInvalid })

/-- Where a group that is entering a trap has all its results and loads back, none of them poisoned, and its vector block can be read and obeys R409,
TRAP_ENTRY answers a next state in which the group is at trap level with TCAUSE, TPC, TINFO and TADDR of the cause, watchdog 0 and MODE 0x000A_000A;
its queues are empty; S15 and A31 hold HDATA; the handler split stands at HCPC with every live thread, or every present one where none lives, and the
access part at HAPC; the frame holds the queues, MODE, S15 and A31 with their poison, and the guard pairings as they were; every V, P, D and tile
register, the flags, every other S and A register, every other split and every byte of memory are as before, and of every other group all but what the
acquire binds its unperformed lines to. -/
def Obligations.TrapEntryEntersTheHandler : Prop :=
  ∀ (st : State) (n : Nat) (g k h : Group) (p : Pend) (leaf : Word) (pa blk : Nat) (y : State), mget st.groups n = some g → g.entering = some p → g.drained = true →
      (g.commitWith false).2 = none → (g.commitWith false).1.commitWith true = (k, none) →
      (st.putGroup n k).accessNow (st.ctxOf k) (.stream n false) 0x10000 .r 0 false = .ok leaf pa y → y.tracked (st.ctxOf k) leaf = false →
      mget y.groups n = some h → blk = y.read pa 128 → blk % 4 = 0 → blk / 2 ^ 64 % 4 = 0 → blk / 2 ^ 192 = 0 →
      ∃ t g', exec (.trapEntry n) st = .next t ∧ mget t.groups n = some g' ∧ (∀ j, j ≠ n → mget t.groups j = mget (y.acquire n 5).groups j) ∧
        (∀ j, j ≠ n → (mget t.groups j).map (fun o => { o with memq := [] }) = (mget y.groups j).map fun o => { o with memq := [] }) ∧ (∀ a, t.read a 1 = y.read a 1) ∧
        g'.tlevel = true ∧ g'.tcause = causeCode p.trap.cause ∧ g'.tpc = (if p.acc then h.apc.toNat else ((h.splitAt p.slot).map fun s => s.pc.toNat).getD 0) % 2 ^ 52 ∧
        g'.tinfo = tinfoOf n p.acc p.trap.detail ∧ g'.taddr = p.trap.addr % 2 ^ 52 ∧ g'.watchdog = 0 ∧ g'.entering = none ∧ g'.mode = 0x000A000A#32 ∧
        g'.lq = [] ∧ g'.sq = [] ∧ g'.xq = [] ∧ g'.getS 15 = BitVec.ofNat 64 (blk / 2 ^ 128) ∧ g'.getA 31 = BitVec.ofNat 64 (blk / 2 ^ 128) ∧
        g'.handler = some { pc := BitVec.ofNat 64 blk, mask := if h.live = 0 then h.present else h.live } ∧ g'.apc = BitVec.ofNat 64 (blk / 2 ^ 64) ∧
        (∃ f, g'.frame = some f ∧ f.lq = h.lq ∧ f.sq = h.sq ∧ f.xq = h.xq ∧ f.mode = h.mode ∧ f.s15 = h.getS 15 ∧ f.a31 = h.getA 31 ∧ f.bad = (h.poison.filter fun k => decide (k = pkS 15) || decide (k = pkA 31)) ∧ f.guards = h.guards ∧ f.apc = h.apc) ∧
        g'.v = h.v ∧ g'.p = h.p ∧ g'.d = h.d ∧ g'.tiles = h.tiles ∧ g'.stat = h.stat ∧ (∀ r, r ≠ 15 → g'.getS r = h.getS r) ∧ (∀ r, r ≠ 31 → g'.getA r = h.getA r) ∧
        ∀ j, j ≠ p.slot → j ≠ 5 → g'.splitAt j = h.splitAt j

/-- Where a line of a store, scatter or scalar store stands ready at its unit and the unit serves it, its event answers a next state; where the group has
not ended with it, every byte of memory reads as before but those of the line's elements, each at the line's physical address plus the element's
offset and of the element's size, and, for a line of memory proper, the eight bytes of the page-table entry of its page where that is not dirty yet,
whose dirty bit the store sets first. -/
def Obligations.StoreLineFrame : Prop :=
  ∀ (st : State) (n id va : Nat) (g : Group) (a b : Access) (l : LineReq) (x y : State), LineReady st n id va isStore g a l → st.atLine n g a l = some x → x.serveLine n g a l = some (y, b) →
      exec (.storeLinePerform n id va) st = .next (st.lineServed y n g a b l) ∧ ((mget (st.lineServed y n g a b l).groups n).isSome = true → ∀ addr,
        (∀ e ∈ l.elems, addr < l.pa + e.off ∨ l.pa + e.off + a.esize ≤ addr) →
        (l.glob = true → ∀ te, st.cleanLeaf (st.ctxOf g) (.stream n true) l.va = some te → addr < te ∨ te + 8 ≤ addr) →
        (st.lineServed y n g a b l).read addr 1 = st.read addr 1)
end

