-- ==== Sys2Proof/Laws/Exec.lean ====
section
/-! SUPPORT. The arms of `exec`: what each instruction runs. -/

namespace Sys2Proof.Machine

theorem exec_nop (m : BitVec 1) (st : State) :
    exec (.nop m) st = execNop m st := rfl
theorem exec_bra (m : BitVec 1) (o : BitVec 24) (st : State) :
    exec (.bra m o) st = execBra m o st := rfl
theorem exec_brc (m : BitVec 1) (r : BitVec 4) (c : BitVec 3) (o : BitVec 17) (st : State) :
    exec (.brc m r c o) st = execBrc m r c o st := rfl
theorem exec_brd (m : BitVec 1) (p : BitVec 3) (n : BitVec 1) (o : BitVec 20) (st : State) :
    exec (.brd m p n o) st = execBrd m p n o st := rfl
theorem exec_jmpi (m : BitVec 1) (a : BitVec 6) (st : State) :
    exec (.jmpi m a) st = execJmpi m a st := rfl
theorem exec_call (m : BitVec 1) (o : BitVec 24) (st : State) :
    exec (.call m o) st = execCall m o st := rfl
theorem exec_ret (m : BitVec 1) (st : State) :
    exec (.ret m) st = execRet m st := rfl
theorem exec_modei (m : BitVec 1) (i : BitVec 20) (st : State) :
    exec (.modei m i) st = execModei m i st := rfl
theorem exec_moder (m : BitVec 1) (a : BitVec 6) (st : State) :
    exec (.moder m a) st = execModer m a st := rfl
theorem exec_bar (m : BitVec 1) (a : BitVec 6) (st : State) :
    exec (.bar m a) st = execBar m a st := rfl
theorem exec_syncs (m : BitVec 1) (a : BitVec 6) (st : State) :
    exec (.syncs m a) st = execSyncs m a st := rfl
theorem exec_gbar (m : BitVec 1) (st : State) :
    exec (.gbar m) st = execGbar m st := rfl
theorem exec_waitc (m : BitVec 1) (a : BitVec 6) (b : BitVec 6) (st : State) :
    exec (.waitc m a b) st = execWaitc m a b st := rfl
theorem exec_waitm (m : BitVec 1) (a : BitVec 6) (b : BitVec 6) (st : State) :
    exec (.waitm m a b) st = execWaitm m a b st := rfl
theorem exec_sleep (m : BitVec 1) (a : BitVec 6) (i : BitVec 12) (st : State) :
    exec (.sleep m a i) st = execSleep m a i st := rfl
theorem exec_yield (m : BitVec 1) (st : State) :
    exec (.yield m) st = execYield m st := rfl
theorem exec_launch (m : BitVec 1) (d : BitVec 6) (a : BitVec 6) (b : BitVec 6) (st : State) :
    exec (.launch m d a b) st = execLaunch m d a b st := rfl
theorem exec_joinc (m : BitVec 1) (a : BitVec 6) (st : State) :
    exec (.joinc m a) st = execJoinc m a st := rfl
theorem exec_exit (m : BitVec 1) (st : State) :
    exec (.exit m) st = execExit m st := rfl
theorem exec_trap (m : BitVec 1) (i : BitVec 20) (st : State) :
    exec (.trap m i) st = execTrap m i st := rfl
theorem exec_tret (m : BitVec 1) (st : State) :
    exec (.tret m) st = execTret m st := rfl
theorem exec_gets (m : BitVec 1) (d : BitVec 6) (i : BitVec 12) (st : State) :
    exec (.gets m d i) st = execGets m d i st := rfl
theorem exec_puts (m : BitVec 1) (a : BitVec 6) (i : BitVec 12) (st : State) :
    exec (.puts m a i) st = execPuts m a i st := rfl
theorem exec_clockCycle (m : BitVec 1) (d : BitVec 6) (st : State) :
    exec (.clockCycle m d) st = execClockCycle m d st := rfl
theorem exec_clockHubcyc (m : BitVec 1) (d : BitVec 6) (st : State) :
    exec (.clockHubcyc m d) st = execClockHubcyc m d st := rfl
theorem exec_clockPtpns (m : BitVec 1) (d : BitVec 6) (st : State) :
    exec (.clockPtpns m d) st = execClockPtpns m d st := rfl
theorem exec_gset (m : BitVec 1) (d : BitVec 6) (a : BitVec 6) (b : BitVec 6) (f : BitVec 6) (st : State) :
    exec (.gset m d a b f) st = execGset m d a b f st := rfl
theorem exec_bkpt (m : BitVec 1) (i : BitVec 20) (st : State) :
    exec (.bkpt m i) st = execBkpt m i st := rfl
theorem exec_add (m : BitVec 1) (d : BitVec 6) (a : BitVec 6) (b : BitVec 6) (st : State) :
    exec (.add m d a b) st = execAdd m d a b st := rfl
theorem exec_sub (m : BitVec 1) (d : BitVec 6) (a : BitVec 6) (b : BitVec 6) (st : State) :
    exec (.sub m d a b) st = execSub m d a b st := rfl
theorem exec_mul (m : BitVec 1) (d : BitVec 6) (a : BitVec 6) (b : BitVec 6) (st : State) :
    exec (.mul m d a b) st = execMul m d a b st := rfl
theorem exec_mulh (m : BitVec 1) (d : BitVec 6) (a : BitVec 6) (b : BitVec 6) (st : State) :
    exec (.mulh m d a b) st = execMulh m d a b st := rfl
theorem exec_min (m : BitVec 1) (d : BitVec 6) (a : BitVec 6) (b : BitVec 6) (st : State) :
    exec (.min m d a b) st = execMin m d a b st := rfl
theorem exec_max (m : BitVec 1) (d : BitVec 6) (a : BitVec 6) (b : BitVec 6) (st : State) :
    exec (.max m d a b) st = execMax m d a b st := rfl
theorem exec_and (m : BitVec 1) (d : BitVec 6) (a : BitVec 6) (b : BitVec 6) (st : State) :
    exec (.and m d a b) st = execAnd m d a b st := rfl
theorem exec_or (m : BitVec 1) (d : BitVec 6) (a : BitVec 6) (b : BitVec 6) (st : State) :
    exec (.or m d a b) st = execOr m d a b st := rfl
theorem exec_xor (m : BitVec 1) (d : BitVec 6) (a : BitVec 6) (b : BitVec 6) (st : State) :
    exec (.xor m d a b) st = execXor m d a b st := rfl
theorem exec_andn (m : BitVec 1) (d : BitVec 6) (a : BitVec 6) (b : BitVec 6) (st : State) :
    exec (.andn m d a b) st = execAndn m d a b st := rfl
theorem exec_shl (m : BitVec 1) (d : BitVec 6) (a : BitVec 6) (b : BitVec 6) (st : State) :
    exec (.shl m d a b) st = execShl m d a b st := rfl
theorem exec_shr (m : BitVec 1) (d : BitVec 6) (a : BitVec 6) (b : BitVec 6) (st : State) :
    exec (.shr m d a b) st = execShr m d a b st := rfl
theorem exec_rot (m : BitVec 1) (d : BitVec 6) (a : BitVec 6) (b : BitVec 6) (st : State) :
    exec (.rot m d a b) st = execRot m d a b st := rfl
theorem exec_addc (m : BitVec 1) (d : BitVec 6) (a : BitVec 6) (b : BitVec 6) (st : State) :
    exec (.addc m d a b) st = execAddc m d a b st := rfl
theorem exec_subb (m : BitVec 1) (d : BitVec 6) (a : BitVec 6) (b : BitVec 6) (st : State) :
    exec (.subb m d a b) st = execSubb m d a b st := rfl
theorem exec_absd (m : BitVec 1) (d : BitVec 6) (a : BitVec 6) (b : BitVec 6) (st : State) :
    exec (.absd m d a b) st = execAbsd m d a b st := rfl
theorem exec_neg (m : BitVec 1) (d : BitVec 6) (a : BitVec 6) (st : State) :
    exec (.neg m d a) st = execNeg m d a st := rfl
theorem exec_abs (m : BitVec 1) (d : BitVec 6) (a : BitVec 6) (st : State) :
    exec (.abs m d a) st = execAbs m d a st := rfl
theorem exec_not (m : BitVec 1) (d : BitVec 6) (a : BitVec 6) (st : State) :
    exec (.not m d a) st = execNot m d a st := rfl
theorem exec_clz (m : BitVec 1) (d : BitVec 6) (a : BitVec 6) (st : State) :
    exec (.clz m d a) st = execClz m d a st := rfl
theorem exec_ctz (m : BitVec 1) (d : BitVec 6) (a : BitVec 6) (st : State) :
    exec (.ctz m d a) st = execCtz m d a st := rfl
theorem exec_popc (m : BitVec 1) (d : BitVec 6) (a : BitVec 6) (st : State) :
    exec (.popc m d a) st = execPopc m d a st := rfl
theorem exec_brev (m : BitVec 1) (d : BitVec 6) (a : BitVec 6) (st : State) :
    exec (.brev m d a) st = execBrev m d a st := rfl
theorem exec_mad (m : BitVec 1) (d : BitVec 6) (a : BitVec 6) (b : BitVec 6) (c : BitVec 6) (st : State) :
    exec (.mad m d a b c) st = execMad m d a b c st := rfl
theorem exec_bfe (m : BitVec 1) (d : BitVec 6) (a : BitVec 6) (b : BitVec 6) (c : BitVec 6) (st : State) :
    exec (.bfe m d a b c) st = execBfe m d a b c st := rfl
theorem exec_bfi (m : BitVec 1) (d : BitVec 6) (a : BitVec 6) (b : BitVec 6) (c : BitVec 6) (st : State) :
    exec (.bfi m d a b c) st = execBfi m d a b c st := rfl
theorem exec_addi (m : BitVec 1) (d : BitVec 6) (a : BitVec 6) (i : BitVec 12) (st : State) :
    exec (.addi m d a i) st = execAddi m d a i st := rfl
theorem exec_shi (m : BitVec 1) (d : BitVec 6) (a : BitVec 6) (k : BitVec 2) (n : BitVec 6) (st : State) :
    exec (.shi m d a k n) st = execShi m d a k n st := rfl
theorem exec_lit (m : BitVec 1) (d : BitVec 6) (h : BitVec 2) (i : BitVec 16) (st : State) :
    exec (.lit m d h i) st = execLit m d h i st := rfl
theorem exec_cmp (m : BitVec 1) (d : BitVec 6) (a : BitVec 6) (b : BitVec 6) (c : BitVec 6) (st : State) :
    exec (.cmp m d a b c) st = execCmp m d a b c st := rfl
theorem exec_sel (m : BitVec 1) (d : BitVec 6) (a : BitVec 6) (b : BitVec 6) (c : BitVec 6) (st : State) :
    exec (.sel m d a b c) st = execSel m d a b c st := rfl
theorem exec_pand (m : BitVec 1) (d : BitVec 6) (a : BitVec 6) (b : BitVec 6) (st : State) :
    exec (.pand m d a b) st = execPand m d a b st := rfl
theorem exec_por (m : BitVec 1) (d : BitVec 6) (a : BitVec 6) (b : BitVec 6) (st : State) :
    exec (.por m d a b) st = execPor m d a b st := rfl
theorem exec_pxor (m : BitVec 1) (d : BitVec 6) (a : BitVec 6) (b : BitVec 6) (st : State) :
    exec (.pxor m d a b) st = execPxor m d a b st := rfl
theorem exec_pnot (m : BitVec 1) (d : BitVec 6) (a : BitVec 6) (st : State) :
    exec (.pnot m d a) st = execPnot m d a st := rfl
theorem exec_pmov (m : BitVec 1) (d : BitVec 6) (a : BitVec 6) (b : BitVec 6) (st : State) :
    exec (.pmov m d a b) st = execPmov m d a b st := rfl
theorem exec_pset (m : BitVec 1) (d : BitVec 6) (a : BitVec 6) (st : State) :
    exec (.pset m d a) st = execPset m d a st := rfl
theorem exec_pget (m : BitVec 1) (d : BitVec 6) (a : BitVec 6) (st : State) :
    exec (.pget m d a) st = execPget m d a st := rfl
theorem exec_mov (m : BitVec 1) (d : BitVec 6) (a : BitVec 6) (st : State) :
    exec (.mov m d a) st = execMov m d a st := rfl
theorem exec_bcst (m : BitVec 1) (d : BitVec 6) (a : BitVec 6) (b : BitVec 6) (st : State) :
    exec (.bcst m d a b) st = execBcst m d a b st := rfl
theorem exec_vtos (m : BitVec 1) (d : BitVec 6) (a : BitVec 6) (b : BitVec 6) (st : State) :
    exec (.vtos m d a b) st = execVtos m d a b st := rfl
theorem exec_stov (m : BitVec 1) (d : BitVec 6) (a : BitVec 6) (b : BitVec 6) (st : State) :
    exec (.stov m d a b) st = execStov m d a b st := rfl
theorem exec_fadd (m : BitVec 1) (d : BitVec 6) (a : BitVec 6) (b : BitVec 6) (st : State) :
    exec (.fadd m d a b) st = execFadd m d a b st := rfl
theorem exec_fsub (m : BitVec 1) (d : BitVec 6) (a : BitVec 6) (b : BitVec 6) (st : State) :
    exec (.fsub m d a b) st = execFsub m d a b st := rfl
theorem exec_fmul (m : BitVec 1) (d : BitVec 6) (a : BitVec 6) (b : BitVec 6) (st : State) :
    exec (.fmul m d a b) st = execFmul m d a b st := rfl
theorem exec_fmin (m : BitVec 1) (d : BitVec 6) (a : BitVec 6) (b : BitVec 6) (st : State) :
    exec (.fmin m d a b) st = execFmin m d a b st := rfl
theorem exec_fmax (m : BitVec 1) (d : BitVec 6) (a : BitVec 6) (b : BitVec 6) (st : State) :
    exec (.fmax m d a b) st = execFmax m d a b st := rfl
theorem exec_fcpys (m : BitVec 1) (d : BitVec 6) (a : BitVec 6) (b : BitVec 6) (st : State) :
    exec (.fcpys m d a b) st = execFcpys m d a b st := rfl
theorem exec_fabs (m : BitVec 1) (d : BitVec 6) (a : BitVec 6) (st : State) :
    exec (.fabs m d a) st = execFabs m d a st := rfl
theorem exec_fneg (m : BitVec 1) (d : BitVec 6) (a : BitVec 6) (st : State) :
    exec (.fneg m d a) st = execFneg m d a st := rfl
theorem exec_frnd (m : BitVec 1) (d : BitVec 6) (a : BitVec 6) (st : State) :
    exec (.frnd m d a) st = execFrnd m d a st := rfl
theorem exec_fclass (m : BitVec 1) (d : BitVec 6) (a : BitVec 6) (st : State) :
    exec (.fclass m d a) st = execFclass m d a st := rfl
theorem exec_fma (m : BitVec 1) (d : BitVec 6) (a : BitVec 6) (b : BitVec 6) (c : BitVec 6) (st : State) :
    exec (.fma m d a b c) st = execFma m d a b c st := rfl
theorem exec_fms (m : BitVec 1) (d : BitVec 6) (a : BitVec 6) (b : BitVec 6) (c : BitVec 6) (st : State) :
    exec (.fms m d a b c) st = execFms m d a b c st := rfl
theorem exec_fnma (m : BitVec 1) (d : BitVec 6) (a : BitVec 6) (b : BitVec 6) (c : BitVec 6) (st : State) :
    exec (.fnma m d a b c) st = execFnma m d a b c st := rfl
theorem exec_fnms (m : BitVec 1) (d : BitVec 6) (a : BitVec 6) (b : BitVec 6) (c : BitVec 6) (st : State) :
    exec (.fnms m d a b c) st = execFnms m d a b c st := rfl
theorem exec_frcp (m : BitVec 1) (d : BitVec 6) (a : BitVec 6) (st : State) :
    exec (.frcp m d a) st = execFrcp m d a st := rfl
theorem exec_frsq (m : BitVec 1) (d : BitVec 6) (a : BitVec 6) (st : State) :
    exec (.frsq m d a) st = execFrsq m d a st := rfl
theorem exec_fsqrt (m : BitVec 1) (d : BitVec 6) (a : BitVec 6) (st : State) :
    exec (.fsqrt m d a) st = execFsqrt m d a st := rfl
theorem exec_fexp2 (m : BitVec 1) (d : BitVec 6) (a : BitVec 6) (st : State) :
    exec (.fexp2 m d a) st = execFexp2 m d a st := rfl
theorem exec_flog2 (m : BitVec 1) (d : BitVec 6) (a : BitVec 6) (st : State) :
    exec (.flog2 m d a) st = execFlog2 m d a st := rfl
theorem exec_fsin (m : BitVec 1) (d : BitVec 6) (a : BitVec 6) (st : State) :
    exec (.fsin m d a) st = execFsin m d a st := rfl
theorem exec_fcos (m : BitVec 1) (d : BitVec 6) (a : BitVec 6) (st : State) :
    exec (.fcos m d a) st = execFcos m d a st := rfl
theorem exec_ftanh (m : BitVec 1) (d : BitVec 6) (a : BitVec 6) (st : State) :
    exec (.ftanh m d a) st = execFtanh m d a st := rfl
theorem exec_fdiv (m : BitVec 1) (d : BitVec 6) (a : BitVec 6) (b : BitVec 6) (st : State) :
    exec (.fdiv m d a b) st = execFdiv m d a b st := rfl
theorem exec_cvt (m : BitVec 1) (d : BitVec 6) (a : BitVec 6) (st : State) :
    exec (.cvt m d a) st = execCvt m d a st := rfl
theorem exec_cvts (m : BitVec 1) (d : BitVec 6) (a : BitVec 6) (b : BitVec 6) (st : State) :
    exec (.cvts m d a b) st = execCvts m d a b st := rfl
theorem exec_pack (m : BitVec 1) (d : BitVec 6) (a : BitVec 6) (b : BitVec 6) (st : State) :
    exec (.pack m d a b) st = execPack m d a b st := rfl
theorem exec_unpk (m : BitVec 1) (d : BitVec 6) (a : BitVec 6) (b : BitVec 6) (st : State) :
    exec (.unpk m d a b) st = execUnpk m d a b st := rfl
theorem exec_qnt (m : BitVec 1) (d : BitVec 6) (a : BitVec 6) (b : BitVec 6) (q : BitVec 2) (k : BitVec 3) (st : State) :
    exec (.qnt m d a b q k) st = execQnt m d a b q k st := rfl
theorem exec_dqnt (m : BitVec 1) (d : BitVec 6) (a : BitVec 6) (b : BitVec 6) (q : BitVec 2) (k : BitVec 3) (st : State) :
    exec (.dqnt m d a b q k) st = execDqnt m d a b q k st := rfl
theorem exec_sadd (m : BitVec 1) (d : BitVec 6) (a : BitVec 6) (b : BitVec 6) (st : State) :
    exec (.sadd m d a b) st = execSadd m d a b st := rfl
theorem exec_ssub (m : BitVec 1) (d : BitVec 6) (a : BitVec 6) (b : BitVec 6) (st : State) :
    exec (.ssub m d a b) st = execSsub m d a b st := rfl
theorem exec_smul (m : BitVec 1) (d : BitVec 6) (a : BitVec 6) (b : BitVec 6) (st : State) :
    exec (.smul m d a b) st = execSmul m d a b st := rfl
theorem exec_smulh (m : BitVec 1) (d : BitVec 6) (a : BitVec 6) (b : BitVec 6) (st : State) :
    exec (.smulh m d a b) st = execSmulh m d a b st := rfl
theorem exec_smin (m : BitVec 1) (d : BitVec 6) (a : BitVec 6) (b : BitVec 6) (st : State) :
    exec (.smin m d a b) st = execSmin m d a b st := rfl
theorem exec_smax (m : BitVec 1) (d : BitVec 6) (a : BitVec 6) (b : BitVec 6) (st : State) :
    exec (.smax m d a b) st = execSmax m d a b st := rfl
theorem exec_sand (m : BitVec 1) (d : BitVec 6) (a : BitVec 6) (b : BitVec 6) (st : State) :
    exec (.sand m d a b) st = execSand m d a b st := rfl
theorem exec_sor (m : BitVec 1) (d : BitVec 6) (a : BitVec 6) (b : BitVec 6) (st : State) :
    exec (.sor m d a b) st = execSor m d a b st := rfl
theorem exec_sxor (m : BitVec 1) (d : BitVec 6) (a : BitVec 6) (b : BitVec 6) (st : State) :
    exec (.sxor m d a b) st = execSxor m d a b st := rfl
theorem exec_sandn (m : BitVec 1) (d : BitVec 6) (a : BitVec 6) (b : BitVec 6) (st : State) :
    exec (.sandn m d a b) st = execSandn m d a b st := rfl
theorem exec_sshl (m : BitVec 1) (d : BitVec 6) (a : BitVec 6) (b : BitVec 6) (st : State) :
    exec (.sshl m d a b) st = execSshl m d a b st := rfl
theorem exec_sshr (m : BitVec 1) (d : BitVec 6) (a : BitVec 6) (b : BitVec 6) (st : State) :
    exec (.sshr m d a b) st = execSshr m d a b st := rfl
theorem exec_srot (m : BitVec 1) (d : BitVec 6) (a : BitVec 6) (b : BitVec 6) (st : State) :
    exec (.srot m d a b) st = execSrot m d a b st := rfl
theorem exec_saddi (m : BitVec 1) (d : BitVec 6) (a : BitVec 6) (i : BitVec 12) (st : State) :
    exec (.saddi m d a i) st = execSaddi m d a i st := rfl
theorem exec_slit (m : BitVec 1) (d : BitVec 6) (h : BitVec 2) (i : BitVec 16) (st : State) :
    exec (.slit m d h i) st = execSlit m d h i st := rfl
theorem exec_xchx (m : BitVec 1) (d : BitVec 6) (a : BitVec 6) (b : BitVec 6) (st : State) :
    exec (.xchx m d a b) st = execXchx m d a b st := rfl
theorem exec_xchu (m : BitVec 1) (d : BitVec 6) (a : BitVec 6) (b : BitVec 6) (st : State) :
    exec (.xchu m d a b) st = execXchu m d a b st := rfl
theorem exec_xchd (m : BitVec 1) (d : BitVec 6) (a : BitVec 6) (b : BitVec 6) (st : State) :
    exec (.xchd m d a b) st = execXchd m d a b st := rfl
theorem exec_xchxk (m : BitVec 1) (d : BitVec 6) (a : BitVec 6) (b : BitVec 6) (st : State) :
    exec (.xchxk m d a b) st = execXchxk m d a b st := rfl
theorem exec_xchuk (m : BitVec 1) (d : BitVec 6) (a : BitVec 6) (b : BitVec 6) (st : State) :
    exec (.xchuk m d a b) st = execXchuk m d a b st := rfl
theorem exec_xchdk (m : BitVec 1) (d : BitVec 6) (a : BitVec 6) (b : BitVec 6) (st : State) :
    exec (.xchdk m d a b) st = execXchdk m d a b st := rfl
theorem exec_xchi (m : BitVec 1) (d : BitVec 6) (a : BitVec 6) (b : BitVec 6) (st : State) :
    exec (.xchi m d a b) st = execXchi m d a b st := rfl
theorem exec_xbc (m : BitVec 1) (d : BitVec 6) (a : BitVec 6) (b : BitVec 6) (st : State) :
    exec (.xbc m d a b) st = execXbc m d a b st := rfl
theorem exec_voteAny (m : BitVec 1) (d : BitVec 6) (a : BitVec 6) (b : BitVec 6) (st : State) :
    exec (.voteAny m d a b) st = execVoteAny m d a b st := rfl
theorem exec_voteAll (m : BitVec 1) (d : BitVec 6) (a : BitVec 6) (b : BitVec 6) (st : State) :
    exec (.voteAll m d a b) st = execVoteAll m d a b st := rfl
theorem exec_voteEq (m : BitVec 1) (d : BitVec 6) (a : BitVec 6) (b : BitVec 6) (st : State) :
    exec (.voteEq m d a b) st = execVoteEq m d a b st := rfl
theorem exec_voteBallot (m : BitVec 1) (d : BitVec 6) (a : BitVec 6) (b : BitVec 6) (st : State) :
    exec (.voteBallot m d a b) st = execVoteBallot m d a b st := rfl
theorem exec_voteElect (m : BitVec 1) (d : BitVec 6) (st : State) :
    exec (.voteElect m d) st = execVoteElect m d st := rfl
theorem exec_voteMatch (m : BitVec 1) (d : BitVec 6) (a : BitVec 6) (st : State) :
    exec (.voteMatch m d a) st = execVoteMatch m d a st := rfl
theorem exec_redu (m : BitVec 1) (d : BitVec 6) (a : BitVec 6) (b : BitVec 6) (f : BitVec 6) (st : State) :
    exec (.redu m d a b f) st = execRedu m d a b f st := rfl
theorem exec_scan (m : BitVec 1) (d : BitVec 6) (a : BitVec 6) (b : BitVec 6) (f : BitVec 6) (st : State) :
    exec (.scan m d a b f) st = execScan m d a b f st := rfl
theorem exec_cpt (m : BitVec 1) (d : BitVec 6) (a : BitVec 6) (b : BitVec 6) (st : State) :
    exec (.cpt m d a b) st = execCpt m d a b st := rfl
theorem exec_tbind (m : BitVec 1) (t : BitVec 3) (r : BitVec 4) (st : State) :
    exec (.tbind m t r) st = execTbind m t r st := rfl
theorem exec_tzero (m : BitVec 1) (t : BitVec 3) (r : BitVec 4) (st : State) :
    exec (.tzero m t r) st = execTzero m t r st := rfl
theorem exec_tzeroAll (m : BitVec 1) (t : BitVec 3) (st : State) :
    exec (.tzeroAll m t) st = execTzeroAll m t st := rfl
theorem exec_mma (m : BitVec 1) (t : BitVec 3) (a : BitVec 6) (b : BitVec 6) (r : BitVec 4) (k : BitVec 5) (st : State) :
    exec (.mma m t a b r k) st = execMma m t a b r k st := rfl
theorem exec_mmak (m : BitVec 1) (t : BitVec 3) (a : BitVec 6) (b : BitVec 6) (r : BitVec 4) (k : BitVec 5) (st : State) :
    exec (.mmak m t a b r k) st = execMmak m t a b r k st := rfl
theorem exec_mmat (m : BitVec 1) (t : BitVec 3) (a : BitVec 6) (b : BitVec 6) (r : BitVec 4) (k : BitVec 5) (st : State) :
    exec (.mmat m t a b r k) st = execMmat m t a b r k st := rfl
theorem exec_mmas (m : BitVec 1) (t : BitVec 3) (a : BitVec 6) (b : BitVec 6) (r : BitVec 4) (k : BitVec 5) (st : State) :
    exec (.mmas m t a b r k) st = execMmas m t a b r k st := rfl
theorem exec_trdRow (m : BitVec 1) (t : BitVec 3) (r : BitVec 4) (i : BitVec 8) (v : BitVec 6) (st : State) :
    exec (.trdRow m t r i v) st = execTrdRow m t r i v st := rfl
theorem exec_trdCol (m : BitVec 1) (t : BitVec 3) (r : BitVec 4) (i : BitVec 8) (v : BitVec 6) (st : State) :
    exec (.trdCol m t r i v) st = execTrdCol m t r i v st := rfl
theorem exec_twrRow (m : BitVec 1) (t : BitVec 3) (r : BitVec 4) (i : BitVec 8) (v : BitVec 6) (st : State) :
    exec (.twrRow m t r i v) st = execTwrRow m t r i v st := rfl
theorem exec_twrCol (m : BitVec 1) (t : BitVec 3) (r : BitVec 4) (i : BitVec 8) (v : BitVec 6) (st : State) :
    exec (.twrCol m t r i v) st = execTwrCol m t r i v st := rfl
theorem exec_tmove (m : BitVec 1) (t : BitVec 3) (r : BitVec 4) (u : BitVec 3) (st : State) :
    exec (.tmove m t r u) st = execTmove m t r u st := rfl
theorem exec_tmoveAdd (m : BitVec 1) (t : BitVec 3) (r : BitVec 4) (u : BitVec 3) (st : State) :
    exec (.tmoveAdd m t r u) st = execTmoveAdd m t r u st := rfl
theorem exec_tfree (m : BitVec 1) (t : BitVec 3) (st : State) :
    exec (.tfree m t) st = execTfree m t st := rfl
theorem exec_twait (m : BitVec 1) (t : BitVec 3) (st : State) :
    exec (.twait m t) st = execTwait m t st := rfl
theorem exec_twaitAll (m : BitVec 1) (st : State) :
    exec (.twaitAll m) st = execTwaitAll m st := rfl
theorem exec_anop (m : BitVec 1) (st : State) :
    exec (.anop m) st = execAnop m st := rfl
theorem exec_abr (m : BitVec 1) (o : BitVec 24) (st : State) :
    exec (.abr m o) st = execAbr m o st := rfl
theorem exec_abeq (m : BitVec 1) (a : BitVec 5) (b : BitVec 5) (o : BitVec 11) (st : State) :
    exec (.abeq m a b o) st = execAbeq m a b o st := rfl
theorem exec_abne (m : BitVec 1) (a : BitVec 5) (b : BitVec 5) (o : BitVec 11) (st : State) :
    exec (.abne m a b o) st = execAbne m a b o st := rfl
theorem exec_ablt (m : BitVec 1) (a : BitVec 5) (b : BitVec 5) (o : BitVec 11) (st : State) :
    exec (.ablt m a b o) st = execAblt m a b o st := rfl
theorem exec_abge (m : BitVec 1) (a : BitVec 5) (b : BitVec 5) (o : BitVec 11) (st : State) :
    exec (.abge m a b o) st = execAbge m a b o st := rfl
theorem exec_abltn (m : BitVec 1) (a : BitVec 5) (b : BitVec 5) (o : BitVec 11) (st : State) :
    exec (.abltn m a b o) st = execAbltn m a b o st := rfl
theorem exec_abgen (m : BitVec 1) (a : BitVec 5) (b : BitVec 5) (o : BitVec 11) (st : State) :
    exec (.abgen m a b o) st = execAbgen m a b o st := rfl
theorem exec_aloop (m : BitVec 1) (a : BitVec 5) (o : BitVec 19) (st : State) :
    exec (.aloop m a o) st = execAloop m a o st := rfl
theorem exec_ajmpi (m : BitVec 1) (a : BitVec 5) (st : State) :
    exec (.ajmpi m a) st = execAjmpi m a st := rfl
theorem exec_aend (m : BitVec 1) (st : State) :
    exec (.aend m) st = execAend m st := rfl
theorem exec_aadd (m : BitVec 1) (d : BitVec 5) (a : BitVec 5) (b : BitVec 5) (st : State) :
    exec (.aadd m d a b) st = execAadd m d a b st := rfl
theorem exec_asub (m : BitVec 1) (d : BitVec 5) (a : BitVec 5) (b : BitVec 5) (st : State) :
    exec (.asub m d a b) st = execAsub m d a b st := rfl
theorem exec_amul (m : BitVec 1) (d : BitVec 5) (a : BitVec 5) (b : BitVec 5) (st : State) :
    exec (.amul m d a b) st = execAmul m d a b st := rfl
theorem exec_amulh (m : BitVec 1) (d : BitVec 5) (a : BitVec 5) (b : BitVec 5) (st : State) :
    exec (.amulh m d a b) st = execAmulh m d a b st := rfl
theorem exec_aand (m : BitVec 1) (d : BitVec 5) (a : BitVec 5) (b : BitVec 5) (st : State) :
    exec (.aand m d a b) st = execAand m d a b st := rfl
theorem exec_aor (m : BitVec 1) (d : BitVec 5) (a : BitVec 5) (b : BitVec 5) (st : State) :
    exec (.aor m d a b) st = execAor m d a b st := rfl
theorem exec_axor (m : BitVec 1) (d : BitVec 5) (a : BitVec 5) (b : BitVec 5) (st : State) :
    exec (.axor m d a b) st = execAxor m d a b st := rfl
theorem exec_ashl (m : BitVec 1) (d : BitVec 5) (a : BitVec 5) (b : BitVec 5) (st : State) :
    exec (.ashl m d a b) st = execAshl m d a b st := rfl
theorem exec_ashr (m : BitVec 1) (d : BitVec 5) (a : BitVec 5) (b : BitVec 5) (st : State) :
    exec (.ashr m d a b) st = execAshr m d a b st := rfl
theorem exec_asra (m : BitVec 1) (d : BitVec 5) (a : BitVec 5) (b : BitVec 5) (st : State) :
    exec (.asra m d a b) st = execAsra m d a b st := rfl
theorem exec_amin (m : BitVec 1) (d : BitVec 5) (a : BitVec 5) (b : BitVec 5) (st : State) :
    exec (.amin m d a b) st = execAmin m d a b st := rfl
theorem exec_amax (m : BitVec 1) (d : BitVec 5) (a : BitVec 5) (b : BitVec 5) (st : State) :
    exec (.amax m d a b) st = execAmax m d a b st := rfl
theorem exec_aminn (m : BitVec 1) (d : BitVec 5) (a : BitVec 5) (b : BitVec 5) (st : State) :
    exec (.aminn m d a b) st = execAminn m d a b st := rfl
theorem exec_amaxn (m : BitVec 1) (d : BitVec 5) (a : BitVec 5) (b : BitVec 5) (st : State) :
    exec (.amaxn m d a b) st = execAmaxn m d a b st := rfl
theorem exec_aaddi (m : BitVec 1) (d : BitVec 5) (a : BitVec 5) (i : BitVec 14) (st : State) :
    exec (.aaddi m d a i) st = execAaddi m d a i st := rfl
theorem exec_ali (m : BitVec 1) (d : BitVec 5) (i : BitVec 16) (st : State) :
    exec (.ali m d i) st = execAli m d i st := rfl
theorem exec_alim (m : BitVec 1) (d : BitVec 5) (i : BitVec 16) (st : State) :
    exec (.alim m d i) st = execAlim m d i st := rfl
theorem exec_alit (m : BitVec 1) (d : BitVec 5) (i : BitVec 16) (st : State) :
    exec (.alit m d i) st = execAlit m d i st := rfl
theorem exec_aliq (m : BitVec 1) (d : BitVec 5) (i : BitVec 16) (st : State) :
    exec (.aliq m d i) st = execAliq m d i st := rfl
theorem exec_apop (m : BitVec 1) (d : BitVec 5) (t : BitVec 5) (st : State) :
    exec (.apop m d t) st = execApop m d t st := rfl
theorem exec_apopK (m : BitVec 1) (d : BitVec 5) (t : BitVec 5) (st : State) :
    exec (.apopK m d t) st = execApopK m d t st := rfl
theorem exec_apush (m : BitVec 1) (d : BitVec 5) (a : BitVec 5) (st : State) :
    exec (.apush m d a) st = execApush m d a st := rfl
theorem exec_rtick (m : BitVec 1) (st : State) :
    exec (.rtick m) st = execRtick m st := rfl
theorem exec_setd (m : BitVec 1) (d : BitVec 5) (a : BitVec 5) (i : BitVec 14) (st : State) :
    exec (.setd m d a i) st = execSetd m d a i st := rfl
theorem exec_agets (m : BitVec 1) (d : BitVec 5) (i : BitVec 14) (st : State) :
    exec (.agets m d i) st = execAgets m d i st := rfl
theorem exec_vdefGlob (m : BitVec 1) (d : BitVec 5) (a : BitVec 5) (st : State) :
    exec (.vdefGlob m d a) st = execVdefGlob m d a st := rfl
theorem exec_vdefCore (m : BitVec 1) (d : BitVec 5) (a : BitVec 5) (st : State) :
    exec (.vdefCore m d a) st = execVdefCore m d a st := rfl
theorem exec_vset (m : BitVec 1) (d : BitVec 5) (a : BitVec 5) (f : BitVec 9) (st : State) :
    exec (.vset m d a f) st = execVset m d a f st := rfl
theorem exec_vget (m : BitVec 1) (d : BitVec 5) (b : BitVec 5) (f : BitVec 9) (st : State) :
    exec (.vget m d b f) st = execVget m d b f st := rfl
theorem exec_ldt (m : BitVec 1) (q : BitVec 3) (v : BitVec 5) (a : BitVec 5) (d : BitVec 3) (g : BitVec 3) (e : BitVec 1) (c : BitVec 2) (st : State) :
    exec (.ldt m q v a d g e c) st = execLdt m q v a d g e c st := rfl
theorem exec_ldg (m : BitVec 1) (q : BitVec 3) (v : BitVec 5) (a : BitVec 5) (d : BitVec 3) (g : BitVec 3) (e : BitVec 1) (c : BitVec 2) (st : State) :
    exec (.ldg m q v a d g e c) st = execLdg m q v a d g e c st := rfl
theorem exec_lda (m : BitVec 1) (x : BitVec 1) (v : BitVec 5) (a : BitVec 5) (d : BitVec 3) (g : BitVec 3) (e : BitVec 1) (c : BitVec 2) (st : State) :
    exec (.lda m x v a d g e c) st = execLda m x v a d g e c st := rfl
theorem exec_ldp (m : BitVec 1) (q : BitVec 3) (v : BitVec 5) (a : BitVec 5) (d : BitVec 3) (g : BitVec 3) (e : BitVec 1) (c : BitVec 2) (st : State) :
    exec (.ldp m q v a d g e c) st = execLdp m q v a d g e c st := rfl
theorem exec_stt (m : BitVec 1) (v : BitVec 5) (a : BitVec 5) (d : BitVec 3) (g : BitVec 3) (e : BitVec 1) (c : BitVec 2) (st : State) :
    exec (.stt m v a d g e c) st = execStt m v a d g e c st := rfl
theorem exec_stg (m : BitVec 1) (v : BitVec 5) (a : BitVec 5) (d : BitVec 3) (g : BitVec 3) (e : BitVec 1) (c : BitVec 2) (st : State) :
    exec (.stg m v a d g e c) st = execStg m v a d g e c st := rfl
theorem exec_sta (m : BitVec 1) (v : BitVec 5) (a : BitVec 5) (d : BitVec 3) (g : BitVec 3) (e : BitVec 1) (c : BitVec 2) (st : State) :
    exec (.sta m v a d g e c) st = execSta m v a d g e c st := rfl
theorem exec_pref (m : BitVec 1) (v : BitVec 5) (a : BitVec 5) (d : BitVec 3) (g : BitVec 3) (e : BitVec 1) (c : BitVec 2) (st : State) :
    exec (.pref m v a d g e c) st = execPref m v a d g e c st := rfl
theorem exec_atom (m : BitVec 1) (q : BitVec 3) (v : BitVec 5) (a : BitVec 5) (o : BitVec 3) (c : BitVec 3) (p : BitVec 5) (st : State) :
    exec (.atom m q v a o c p) st = execAtom m q v a o c p st := rfl
theorem exec_atoma (m : BitVec 1) (d : BitVec 5) (a : BitVec 5) (b : BitVec 5) (p : BitVec 4) (o : BitVec 2) (c : BitVec 3) (st : State) :
    exec (.atoma m d a b p o c) st = execAtoma m d a b p o c st := rfl
theorem exec_fence (m : BitVec 1) (c : BitVec 3) (k : BitVec 3) (st : State) :
    exec (.fence m c k) st = execFence m c k st := rfl
theorem exec_xfence (m : BitVec 1) (f : BitVec 7) (t : BitVec 7) (c : BitVec 3) (st : State) :
    exec (.xfence m f t c) st = execXfence m f t c st := rfl
theorem exec_cpy (m : BitVec 1) (d : BitVec 5) (c : BitVec 5) (g : BitVec 3) (e : BitVec 1) (st : State) :
    exec (.cpy m d c g e) st = execCpy m d c g e st := rfl
theorem exec_hand (m : BitVec 1) (d : BitVec 5) (c : BitVec 5) (g : BitVec 3) (e : BitVec 1) (st : State) :
    exec (.hand m d c g e) st = execHand m d c g e st := rfl
theorem exec_xfer (m : BitVec 1) (d : BitVec 5) (c : BitVec 5) (g : BitVec 3) (e : BitVec 1) (h : BitVec 2) (p : BitVec 8) (st : State) :
    exec (.xfer m d c g e h p) st = execXfer m d c g e h p st := rfl
theorem exec_xmc (m : BitVec 1) (d : BitVec 5) (c : BitVec 5) (g : BitVec 3) (e : BitVec 1) (h : BitVec 2) (p : BitVec 8) (st : State) :
    exec (.xmc m d c g e h p) st = execXmc m d c g e h p st := rfl
theorem exec_ctrset (m : BitVec 1) (a : BitVec 5) (b : BitVec 5) (st : State) :
    exec (.ctrset m a b) st = execCtrset m a b st := rfl
theorem exec_ctrsetT (m : BitVec 1) (a : BitVec 5) (b : BitVec 5) (st : State) :
    exec (.ctrsetT m a b) st = execCtrsetT m a b st := rfl
theorem exec_ctradd (m : BitVec 1) (a : BitVec 5) (b : BitVec 5) (st : State) :
    exec (.ctradd m a b) st = execCtradd m a b st := rfl
theorem exec_ctrget (m : BitVec 1) (d : BitVec 5) (a : BitVec 5) (st : State) :
    exec (.ctrget m d a) st = execCtrget m d a st := rfl
theorem exec_ctrgetT (m : BitVec 1) (d : BitVec 5) (a : BitVec 5) (st : State) :
    exec (.ctrgetT m d a) st = execCtrgetT m d a st := rfl
theorem exec_awaitc (m : BitVec 1) (a : BitVec 5) (b : BitVec 5) (st : State) :
    exec (.awaitc m a b) st = execAwaitc m a b st := rfl
theorem exec_awaitcT (m : BitVec 1) (a : BitVec 5) (st : State) :
    exec (.awaitcT m a) st = execAwaitcT m a st := rfl
theorem exec_wadd (v : BitVec 1) (d : BitVec 4) (a : BitVec 4) (b : BitVec 4) (x : BitVec 1) (st : State) :
    exec (.wadd v d a b x) st = execWadd v d a b x st := rfl
theorem exec_waddI (v : BitVec 1) (d : BitVec 4) (a : BitVec 4) (i : BitVec 14) (st : State) :
    exec (.waddI v d a i) st = execWaddI v d a i st := rfl
theorem exec_wsub (v : BitVec 1) (d : BitVec 4) (a : BitVec 4) (b : BitVec 4) (x : BitVec 1) (st : State) :
    exec (.wsub v d a b x) st = execWsub v d a b x st := rfl
theorem exec_wsubI (v : BitVec 1) (d : BitVec 4) (a : BitVec 4) (i : BitVec 14) (st : State) :
    exec (.wsubI v d a i) st = execWsubI v d a i st := rfl
theorem exec_wmul (v : BitVec 1) (d : BitVec 4) (a : BitVec 4) (b : BitVec 4) (x : BitVec 1) (st : State) :
    exec (.wmul v d a b x) st = execWmul v d a b x st := rfl
theorem exec_wmulI (v : BitVec 1) (d : BitVec 4) (a : BitVec 4) (i : BitVec 14) (st : State) :
    exec (.wmulI v d a i) st = execWmulI v d a i st := rfl
theorem exec_wand (v : BitVec 1) (d : BitVec 4) (a : BitVec 4) (b : BitVec 4) (x : BitVec 1) (st : State) :
    exec (.wand v d a b x) st = execWand v d a b x st := rfl
theorem exec_wandI (v : BitVec 1) (d : BitVec 4) (a : BitVec 4) (i : BitVec 14) (st : State) :
    exec (.wandI v d a i) st = execWandI v d a i st := rfl
theorem exec_wor (v : BitVec 1) (d : BitVec 4) (a : BitVec 4) (b : BitVec 4) (x : BitVec 1) (st : State) :
    exec (.wor v d a b x) st = execWor v d a b x st := rfl
theorem exec_worI (v : BitVec 1) (d : BitVec 4) (a : BitVec 4) (i : BitVec 14) (st : State) :
    exec (.worI v d a i) st = execWorI v d a i st := rfl
theorem exec_wxor (v : BitVec 1) (d : BitVec 4) (a : BitVec 4) (b : BitVec 4) (x : BitVec 1) (st : State) :
    exec (.wxor v d a b x) st = execWxor v d a b x st := rfl
theorem exec_wxorI (v : BitVec 1) (d : BitVec 4) (a : BitVec 4) (i : BitVec 14) (st : State) :
    exec (.wxorI v d a i) st = execWxorI v d a i st := rfl
theorem exec_wshl (v : BitVec 1) (d : BitVec 4) (a : BitVec 4) (b : BitVec 4) (x : BitVec 1) (st : State) :
    exec (.wshl v d a b x) st = execWshl v d a b x st := rfl
theorem exec_wshlI (v : BitVec 1) (d : BitVec 4) (a : BitVec 4) (i : BitVec 14) (st : State) :
    exec (.wshlI v d a i) st = execWshlI v d a i st := rfl
theorem exec_wshr (v : BitVec 1) (d : BitVec 4) (a : BitVec 4) (b : BitVec 4) (x : BitVec 1) (st : State) :
    exec (.wshr v d a b x) st = execWshr v d a b x st := rfl
theorem exec_wshrI (v : BitVec 1) (d : BitVec 4) (a : BitVec 4) (i : BitVec 14) (st : State) :
    exec (.wshrI v d a i) st = execWshrI v d a i st := rfl
theorem exec_wmin (v : BitVec 1) (d : BitVec 4) (a : BitVec 4) (b : BitVec 4) (x : BitVec 1) (st : State) :
    exec (.wmin v d a b x) st = execWmin v d a b x st := rfl
theorem exec_wminI (v : BitVec 1) (d : BitVec 4) (a : BitVec 4) (i : BitVec 14) (st : State) :
    exec (.wminI v d a i) st = execWminI v d a i st := rfl
theorem exec_wmax (v : BitVec 1) (d : BitVec 4) (a : BitVec 4) (b : BitVec 4) (x : BitVec 1) (st : State) :
    exec (.wmax v d a b x) st = execWmax v d a b x st := rfl
theorem exec_wmaxI (v : BitVec 1) (d : BitVec 4) (a : BitVec 4) (i : BitVec 14) (st : State) :
    exec (.wmaxI v d a i) st = execWmaxI v d a i st := rfl
theorem exec_wcmp (v : BitVec 1) (c : BitVec 3) (d : BitVec 4) (a : BitVec 4) (b : BitVec 4) (x : BitVec 1) (st : State) :
    exec (.wcmp v c d a b x) st = execWcmp v c d a b x st := rfl
theorem exec_wsel (v : BitVec 1) (d : BitVec 4) (a : BitVec 4) (b : BitVec 4) (c : BitVec 4) (st : State) :
    exec (.wsel v d a b c) st = execWsel v d a b c st := rfl
theorem exec_wmovW (d : BitVec 4) (a : BitVec 4) (st : State) :
    exec (.wmovW d a) st = execWmovW d a st := rfl
theorem exec_wmovX (d : BitVec 4) (a : BitVec 4) (st : State) :
    exec (.wmovX d a) st = execWmovX d a st := rfl
theorem exec_wmovWx (d : BitVec 4) (a : BitVec 4) (st : State) :
    exec (.wmovWx d a) st = execWmovWx d a st := rfl
theorem exec_wmovXl (d : BitVec 4) (a : BitVec 4) (l : BitVec 3) (st : State) :
    exec (.wmovXl d a l) st = execWmovXl d a l st := rfl
theorem exec_wmovWl (d : BitVec 4) (a : BitVec 4) (l : BitVec 3) (st : State) :
    exec (.wmovWl d a l) st = execWmovWl d a l st := rfl
theorem exec_wli (v : BitVec 1) (d : BitVec 4) (i : BitVec 16) (st : State) :
    exec (.wli v d i) st = execWli v d i st := rfl
theorem exec_wliH (v : BitVec 1) (d : BitVec 4) (i : BitVec 16) (st : State) :
    exec (.wliH v d i) st = execWliH v d i st := rfl
theorem exec_whdr (r : BitVec 4) (f : BitVec 5) (st : State) :
    exec (.whdr r f) st = execWhdr r f st := rfl
theorem exec_whdrW (r : BitVec 4) (st : State) :
    exec (.whdrW r) st = execWhdrW r st := rfl
theorem exec_wseth (r : BitVec 4) (f : BitVec 5) (st : State) :
    exec (.wseth r f) st = execWseth r f st := rfl
theorem exec_wldp (w : BitVec 4) (c : BitVec 3) (st : State) :
    exec (.wldp w c) st = execWldp w c st := rfl
theorem exec_wldpX (w : BitVec 4) (x : BitVec 3) (c : BitVec 3) (st : State) :
    exec (.wldpX w x c) st = execWldpX w x c st := rfl
theorem exec_wstp (w : BitVec 4) (c : BitVec 3) (st : State) :
    exec (.wstp w c) st = execWstp w c st := rfl
theorem exec_wstpX (w : BitVec 4) (x : BitVec 3) (c : BitVec 3) (st : State) :
    exec (.wstpX w x c) st = execWstpX w x c st := rfl
theorem exec_wldf (w : BitVec 4) (x : BitVec 3) (i : BitVec 16) (st : State) :
    exec (.wldf w x i) st = execWldf w x i st := rfl
theorem exec_wstf (w : BitVec 4) (x : BitVec 3) (i : BitVec 16) (st : State) :
    exec (.wstf w x i) st = execWstf w x i st := rfl
theorem exec_watf (p : BitVec 4) (d : BitVec 3) (a : BitVec 3) (b : BitVec 3) (i : BitVec 11) (st : State) :
    exec (.watf p d a b i) st = execWatf p d a b i st := rfl
theorem exec_whash (d : BitVec 3) (a : BitVec 4) (n : BitVec 3) (st : State) :
    exec (.whash d a n) st = execWhash d a n st := rfl
theorem exec_whashLk (d : BitVec 3) (a : BitVec 4) (st : State) :
    exec (.whashLk d a) st = execWhashLk d a st := rfl
theorem exec_wrep (n : BitVec 4) (l : BitVec 6) (st : State) :
    exec (.wrep n l) st = execWrep n l st := rfl
theorem exec_wbr (o : BitVec 8) (st : State) :
    exec (.wbr o) st = execWbr o st := rfl
theorem exec_wbrCc (c : BitVec 3) (a : BitVec 3) (o : BitVec 8) (st : State) :
    exec (.wbrCc c a o) st = execWbrCc c a o st := rfl
theorem exec_wdup (a : BitVec 3) (st : State) :
    exec (.wdup a) st = execWdup a st := rfl
theorem exec_wtrap (c : BitVec 12) (a : BitVec 3) (st : State) :
    exec (.wtrap c a) st = execWtrap c a st := rfl
theorem exec_wfwd (st : State) :
    exec .wfwd st = execWfwd st := rfl
theorem exec_wdrop (st : State) :
    exec .wdrop st = execWdrop st := rfl
theorem exec_wend (st : State) :
    exec .wend st = execWend st := rfl
theorem exec_moduleReset (st : State) :
    exec .moduleReset st = execModuleReset st := rfl
theorem exec_create (st : State) :
    exec .create st = execCreate st := rfl
theorem exec_destroy (st : State) :
    exec .destroy st = execDestroy st := rfl
theorem exec_preempt (st : State) :
    exec .preempt st = execPreempt st := rfl
theorem exec_resume (st : State) :
    exec .resume st = execResume st := rfl
theorem exec_oscount (st : State) :
    exec .oscount st = execOscount st := rfl
theorem exec_ctlcas (port v : Nat) (st : State) :
    exec (.ctlcas port v) st = execCtlcas port v st := rfl
theorem exec_ctlsemLeaseExpiry (st : State) :
    exec .ctlsemLeaseExpiry st = execCtlsemLeaseExpiry st := rfl
theorem exec_reset (st : State) :
    exec .reset st = execReset st := rfl
theorem exec_modeset (st : State) :
    exec .modeset st = execModeset st := rfl
theorem exec_fwupdate (st : State) :
    exec .fwupdate st = execFwupdate st := rfl
theorem exec_slate (res owner ofs : Nat) (st : State) :
    exec (.slate res owner ofs) st = execSlate res owner ofs st := rfl
theorem exec_freeze (st : State) :
    exec .freeze st = execFreeze st := rfl
theorem exec_thaw (st : State) :
    exec .thaw st = execThaw st := rfl
theorem exec_attest (st : State) :
    exec .attest st = execAttest st := rfl
theorem exec_domset (st : State) :
    exec .domset st = execDomset st := rfl
theorem exec_domclr (st : State) :
    exec .domclr st = execDomclr st := rfl
theorem exec_peerset (st : State) :
    exec .peerset st = execPeerset st := rfl
theorem exec_peerclr (st : State) :
    exec .peerclr st = execPeerclr st := rfl
theorem exec_peertmo (st : State) :
    exec .peertmo st = execPeertmo st := rfl
theorem exec_devno (st : State) :
    exec .devno st = execDevno st := rfl
theorem exec_unitret (st : State) :
    exec .unitret st = execUnitret st := rfl
theorem exec_unitrst (pass : Bool) (st : State) :
    exec (.unitrst pass) st = execUnitrst pass st := rfl
theorem exec_dierst (pass : Bool) (st : State) :
    exec (.dierst pass) st = execDierst pass st := rfl
theorem exec_load (st : State) :
    exec .load st = execLoad st := rfl
theorem exec_unload (st : State) :
    exec .unload st = execUnload st := rfl
theorem exec_flowrd (st : State) :
    exec .flowrd st = execFlowrd st := rfl
theorem exec_flowwr (st : State) :
    exec .flowwr st = execFlowwr st := rfl
theorem exec_checkpoint (res owner ofs : Nat) (st : State) :
    exec (.checkpoint res owner ofs) st = execCheckpoint res owner ofs st := rfl
theorem exec_restore (man : Nat) (data : List Nat) (st : State) :
    exec (.restore man data) st = execRestore man data st := rfl
theorem exec_arm (st : State) :
    exec .arm st = execArm st := rfl
theorem exec_go (st : State) :
    exec .go st = execGo st := rfl
theorem exec_stop (st : State) :
    exec .stop st = execStop st := rfl
theorem exec_replayThaw (st : State) :
    exec .replayThaw st = execReplayThaw st := rfl
theorem exec_reelctlWrite (port token v : Nat) (st : State) :
    exec (.reelctlWrite port token v) st = execReelctlWrite port token v st := rfl
theorem exec_rsvctlWrite (port token v : Nat) (st : State) :
    exec (.rsvctlWrite port token v) st = execRsvctlWrite port token v st := rfl
theorem exec_cutWrite (port token i v : Nat) (st : State) :
    exec (.cutWrite port token i v) st = execCutWrite port token i v st := rfl
theorem exec_errclsWrite (port token v : Nat) (st : State) :
    exec (.errclsWrite port token v) st = execErrclsWrite port token v st := rfl
theorem exec_watchFilterWrite (port reg v : Nat) (st : State) :
    exec (.watchFilterWrite port reg v) st = execWatchFilterWrite port reg v st := rfl
theorem exec_trctlWrite (die v : Nat) (st : State) :
    exec (.trctlWrite die v) st = execTrctlWrite die v st := rfl
theorem exec_trrpWrite (die v : Nat) (st : State) :
    exec (.trrpWrite die v) st = execTrrpWrite die v st := rfl
theorem exec_drconsWrite (v : Nat) (st : State) :
    exec (.drconsWrite v) st = execDrconsWrite v st := rfl
theorem exec_ltolWrite (port v : Nat) (st : State) :
    exec (.ltolWrite port v) st = execLtolWrite port v st := rfl
theorem exec_registerWrite (port off v : Nat) (st : State) :
    exec (.registerWrite port off v) st = execRegisterWrite port off v st := rfl
theorem exec_mgmtRead (src sport len req : Nat) (st : State) :
    exec (.mgmtRead src sport len req) st = execMgmtRead src sport len req st := rfl
theorem exec_mgmtWrite (src sport len req : Nat) (st : State) :
    exec (.mgmtWrite src sport len req) st = execMgmtWrite src sport len req st := rfl
theorem exec_mgmtBlockRead (src sport len req : Nat) (st : State) :
    exec (.mgmtBlockRead src sport len req) st = execMgmtBlockRead src sport len req st := rfl
theorem exec_ptpMessage (offset : Int) (st : State) :
    exec (.ptpMessage offset) st = execPtpMessage offset st := rfl
theorem exec_ptpMasterTimeout (st : State) :
    exec .ptpMasterTimeout st = execPtpMasterTimeout st := rfl
theorem exec_gridAccept (i : Nat) (st : State) :
    exec (.gridAccept i) st = execGridAccept i st := rfl
theorem exec_workgroupPlace (ctx grid cl : Nat) (st : State) :
    exec (.workgroupPlace ctx grid cl) st = execWorkgroupPlace ctx grid cl st := rfl
theorem exec_placementWaitExpiry (ctx grid : Nat) (st : State) :
    exec (.placementWaitExpiry ctx grid) st = execPlacementWaitExpiry ctx grid st := rfl
theorem exec_workSteal (ctx grid thief : Nat) (dies : Bool) (st : State) :
    exec (.workSteal ctx grid thief dies) st = execWorkSteal ctx grid thief dies st := rfl
theorem exec_gateOpen (ctx grid : Nat) (st : State) :
    exec (.gateOpen ctx grid) st = execGateOpen ctx grid st := rfl
theorem exec_workgroupPark (ctx serial : Nat) (st : State) :
    exec (.workgroupPark ctx serial) st = execWorkgroupPark ctx serial st := rfl
theorem exec_workgroupUnpark (ctx serial : Nat) (st : State) :
    exec (.workgroupUnpark ctx serial) st = execWorkgroupUnpark ctx serial st := rfl
theorem exec_elderReport (ctx : Nat) (st : State) :
    exec (.elderReport ctx) st = execElderReport ctx st := rfl
theorem exec_bufferedAtomicApply (ctx grid : Nat) (st : State) :
    exec (.bufferedAtomicApply ctx grid) st = execBufferedAtomicApply ctx grid st := rfl
theorem exec_doneAdd (ctx grid : Nat) (st : State) :
    exec (.doneAdd ctx grid) st = execDoneAdd ctx grid st := rfl
theorem exec_gbarRelease (ctx grid : Nat) (st : State) :
    exec (.gbarRelease ctx grid) st = execGbarRelease ctx grid st := rfl
theorem exec_waitcRelease (gid slot : Nat) (st : State) :
    exec (.waitcRelease gid slot) st = execWaitcRelease gid slot st := rfl
theorem exec_awaitcRelease (gid : Nat) (st : State) :
    exec (.awaitcRelease gid) st = execAwaitcRelease gid st := rfl
theorem exec_waitmRelease (gid slot : Nat) (st : State) :
    exec (.waitmRelease gid slot) st = execWaitmRelease gid slot st := rfl
theorem exec_joincRelease (gid slot : Nat) (st : State) :
    exec (.joincRelease gid slot) st = execJoincRelease gid slot st := rfl
theorem exec_sleepExpiry (gid slot : Nat) (st : State) :
    exec (.sleepExpiry gid slot) st = execSleepExpiry gid slot st := rfl
theorem exec_watchdogExpiry (gid : Nat) (st : State) :
    exec (.watchdogExpiry gid) st = execWatchdogExpiry gid st := rfl
theorem exec_trapEntry (gid : Nat) (st : State) :
    exec (.trapEntry gid) st = execTrapEntry gid st := rfl
theorem exec_asyncResultReturn (gid id : Nat) (acc : Bool) (st : State) :
    exec (.asyncResultReturn gid id acc) st = execAsyncResultReturn gid id acc st := rfl
theorem exec_pageFaultResult (c i : Nat) (st : State) :
    exec (.pageFaultResult c i) st = execPageFaultResult c i st := rfl
theorem exec_loadLinePerform (gid id va : Nat) (st : State) :
    exec (.loadLinePerform gid id va) st = execLoadLinePerform gid id va st := rfl
theorem exec_storeLinePerform (gid id va : Nat) (st : State) :
    exec (.storeLinePerform gid id va) st = execStoreLinePerform gid id va st := rfl
theorem exec_atomicLinePerform (gid id va : Nat) (st : State) :
    exec (.atomicLinePerform gid id va) st = execAtomicLinePerform gid id va st := rfl
theorem exec_loadDataArrival (gid id : Nat) (st : State) :
    exec (.loadDataArrival gid id) st = execLoadDataArrival gid id st := rfl
theorem exec_spillwayPerform (q i : Nat) (st : State) :
    exec (.spillwayPerform q i) st = execSpillwayPerform q i st := rfl
theorem exec_fenceComplete (gid : Nat) (st : State) :
    exec (.fenceComplete gid) st = execFenceComplete gid st := rfl
theorem exec_xfenceComplete (gid : Nat) (st : State) :
    exec (.xfenceComplete gid) st = execXfenceComplete gid st := rfl
theorem exec_scTicketGrant (gid id : Nat) (st : State) :
    exec (.scTicketGrant gid id) st = execScTicketGrant gid id st := rfl
theorem exec_directoryGrant (holder line half : Nat) (excl : Bool) (c : Nat) (st : State) :
    exec (.directoryGrant holder line half excl c) st = execDirectoryGrant holder line half excl c st := rfl
theorem exec_directoryRevoke (holder line half : Nat) (st : State) :
    exec (.directoryRevoke holder line half) st = execDirectoryRevoke holder line half st := rfl
theorem exec_ptsJump (core : Nat) (st : State) :
    exec (.ptsJump core) st = execPtsJump core st := rfl
theorem exec_l1AgeingStep (core : Nat) (st : State) :
    exec (.l1AgeingStep core) st = execL1AgeingStep core st := rfl
theorem exec_l2AgeingStep (die : Nat) (st : State) :
    exec (.l2AgeingStep die) st = execL2AgeingStep die st := rfl
theorem exec_scrubberVisit (die : Nat) (st : State) :
    exec (.scrubberVisit die) st = execScrubberVisit die st := rfl
theorem exec_pageMigration (c page newPa : Nat) (st : State) :
    exec (.pageMigration c page newPa) st = execPageMigration c page newPa st := rfl
theorem exec_biasFlip (c page : Nat) (toHost : Bool) (st : State) :
    exec (.biasFlip c page toHost) st = execBiasFlip c page toHost st := rfl
theorem exec_hostAccess (agent dev pa n : Nat) (wr : Bool) (data : Nat) (st : State) :
    exec (.hostAccess agent dev pa n wr data) st = execHostAccess agent dev pa n wr data st := rfl
theorem exec_copyLine (gid id line : Nat) (rd : Bool) (st : State) :
    exec (.copyLine gid id line rd) st = execCopyLine gid id line rd st := rfl
theorem exec_matrixGrant (cl slot : Nat) (st : State) :
    exec (.matrixGrant cl slot) st = execMatrixGrant cl slot st := rfl
theorem exec_matrixPassComplete (cl : Nat) (ev : PassStep) (st : State) :
    exec (.matrixPassComplete cl ev) st = execMatrixPassComplete cl ev st := rfl
theorem exec_fabricPacketSend (gid id line : Nat) (rd : Bool) (st : State) :
    exec (.fabricPacketSend gid id line rd) st = execFabricPacketSend gid id line rd st := rfl
theorem exec_packetArrival (port : Nat) (hdr : BitVec 256) (pay : Nat) (st : State) :
    exec (.packetArrival port hdr pay) st = execPacketArrival port hdr pay st := rfl
theorem exec_arrivalAddition (src chan : Nat) (redir : Bool) (st : State) :
    exec (.arrivalAddition src chan redir) st = execArrivalAddition src chan redir st := rfl
theorem exec_packetAck (dev chan seq fault addr : Nat) (one : Bool) (st : State) :
    exec (.packetAck dev chan seq fault addr one) st = execPacketAck dev chan seq fault addr one st := rfl
theorem exec_skipNotice (hdr : BitVec 256) (st : State) :
    exec (.skipNotice hdr) st = execSkipNotice hdr st := rfl
theorem exec_deadPeerTimeout (dev : Nat) (st : State) :
    exec (.deadPeerTimeout dev) st = execDeadPeerTimeout dev st := rfl
theorem exec_conversionMatch (i : Nat) (subs : List (Nat × BitVec 1024 × Nat × Nat)) (st : State) :
    exec (.conversionMatch i subs) st = execConversionMatch i subs st := rfl
theorem exec_conversionComplete (i : Nat) (data : List (Nat × List Nat)) (st : State) :
    exec (.conversionComplete i data) st = execConversionComplete i data st := rfl
theorem exec_weirPacket (port i : Nat) (st : State) :
    exec (.weirPacket port i) st = execWeirPacket port i st := rfl
theorem exec_switchWeirRecord (dom cls port slot code detail time : Nat) (hdr : BitVec 256) (st : State) :
    exec (.switchWeirRecord dom cls port slot code detail time hdr) st = execSwitchWeirRecord dom cls port slot code detail time hdr st := rfl
theorem exec_saveHandlerComplete (ctx serial : Nat) (st : State) :
    exec (.saveHandlerComplete ctx serial) st = execSaveHandlerComplete ctx serial st := rfl
theorem exec_restoreHandlerComplete (ctx serial : Nat) (st : State) :
    exec (.restoreHandlerComplete ctx serial) st = execRestoreHandlerComplete ctx serial st := rfl
theorem exec_eccEvent (kind x y z : Nat) (uncorrected : Bool) (st : State) :
    exec (.eccEvent kind x y z uncorrected) st = execEccEvent kind x y z uncorrected st := rfl
theorem exec_patrolScrub (line : Nat) (st : State) :
    exec (.patrolScrub line) st = execPatrolScrub line st := rfl
theorem exec_dieLoss (die : Nat) (st : State) :
    exec (.dieLoss die) st = execDieLoss die st := rfl
theorem exec_dieQuiesceAck (die : Nat) (lost : List Nat) (st : State) :
    exec (.dieQuiesceAck die lost) st = execDieQuiesceAck die lost st := rfl
theorem exec_dieQuiesceTimeout (die : Nat) (lost : List Nat) (refresh : Bool) (st : State) :
    exec (.dieQuiesceTimeout die lost refresh) st = execDieQuiesceTimeout die lost refresh st := rfl
theorem exec_takeAgeExpiry (ctx rid : Nat) (st : State) :
    exec (.takeAgeExpiry ctx rid) st = execTakeAgeExpiry ctx rid st := rfl
theorem exec_reelPlace (st : State) :
    exec .reelPlace st = execReelPlace st := rfl
theorem exec_drainCopy (st : State) :
    exec .drainCopy st = execDrainCopy st := rfl
theorem exec_cutPointReached (c rid : Nat) (st : State) :
    exec (.cutPointReached c rid) st = execCutPointReached c rid st := rfl
theorem exec_podFreeze (st : State) :
    exec .podFreeze st = execPodFreeze st := rfl
theorem exec_replayDivergence (c rid i : Nat) (st : State) :
    exec (.replayDivergence c rid i) st = execReplayDivergence c rid i st := rfl
theorem exec_replayEndOfLog (c : Nat) (st : State) :
    exec (.replayEndOfLog c) st = execReplayEndOfLog c st := rfl
theorem exec_censusFlush (gid slot : Nat) (st : State) :
    exec (.censusFlush gid slot) st = execCensusFlush gid slot st := rfl
theorem exec_powerStateEntry (dev : Nat) (st : State) :
    exec (.powerStateEntry dev) st = execPowerStateEntry dev st := rfl
theorem exec_powerWake (dev : Nat) (st : State) :
    exec (.powerWake dev) st = execPowerWake dev st := rfl
theorem exec_digestClaim (src digest ofs epoch dirpa dirlog2 : Nat) (st : State) :
    exec (.digestClaim src digest ofs epoch dirpa dirlog2) st = execDigestClaim src digest ofs epoch dirpa dirlog2 st := rfl
theorem exec_shardMirror (src ofs n data : Nat) (st : State) :
    exec (.shardMirror src ofs n data) st = execShardMirror src ofs n data st := rfl
theorem exec_shardFetch (src digest epoch ofs : Nat) (st : State) :
    exec (.shardFetch src digest epoch ofs) st = execShardFetch src digest epoch ofs st := rfl
theorem exec_digestRelease (src digest epoch dirpa dirlog2 : Nat) (st : State) :
    exec (.digestRelease src digest epoch dirpa dirlog2) st = execDigestRelease src digest epoch dirpa dirlog2 st := rfl
theorem exec_claimReplyTimeout (st : State) :
    exec .claimReplyTimeout st = execClaimReplyTimeout st := rfl
theorem exec_fabricLinkFailure (port : Nat) (st : State) :
    exec (.fabricLinkFailure port) st = execFabricLinkFailure port st := rfl
theorem exec_throttleStart (st : State) :
    exec .throttleStart st = execThrottleStart st := rfl
theorem exec_throttleEnd (st : State) :
    exec .throttleEnd st = execThrottleEnd st := rfl

end Sys2Proof.Machine
end

