-- ==== Sys2Proof/Laws/Issue.lean ====
section
/-! SUPPORT. What the issue of a word can do, said once for every compute word and once for every access word: its effect, a precise trap, a park. -/

namespace Sys2Proof.Machine

/-! The compute stream. -/

/-- A word that stands ready and whose own effect is done: that effect, and what every issue does besides. -/
theorem issueC_done {st st' : State} {m : BitVec 1} {sp : IssueSpec} {g : Group} {s : Split} {body : State → Group → Split → IEff}
    (h : ReadyC st m sp g s) (hb : body (st.atIssue m g s sp) (st.groupAtIssue m g s sp) s = .done st') :
    issueC st m sp body = .next (st'.retireC st.issuer.group st.issuer.slot (st.groupAtIssue m g s sp) s sp) := by
  obtain ⟨hg, hs, ht, hr, hl, hm, hf, hq, hk⟩ := h
  unfold State.groupAtIssue State.atIssue unparked at *
  unfold issueC
  simp only [hg, hs]
  unfold State.issueAt
  simp only [ht, Option.isNone_some, Bool.false_eq_true, if_false, Option.getD_some]
  by_cases hp : mustPark m g s sp = true
  · obtain ⟨h1, h2⟩ := hr hp
    simp only [hp, if_true] at hm hf hq hk hb ⊢
    have hp' : (decide (m = 1#1) || decide (8 ≤ g.wbC.length) && sp.async g s) = true := hp
    simp only [hp', h1, Bool.not_true, Bool.and_false, Bool.false_eq_true, if_false, if_true, h2, hl, hm, hf, hq, hk, hb]
  · simp only [Bool.not_eq_true] at hp
    simp only [hp, Bool.false_eq_true, if_false] at hm hf hq hk hb ⊢
    have hp' : (decide (m = 1#1) || decide (8 ≤ g.wbC.length) && sp.async g s) = false := hp
    simp only [hp', Bool.false_and, Bool.false_eq_true, if_false, Bool.not_true, hl, hm, hf, hq, hk, hb]

/-- A word that stands ready and whose own effect is a precise trap. -/
theorem issueC_trap {st st' : State} {m : BitVec 1} {sp : IssueSpec} {g : Group} {s : Split} {t : Trap} {body : State → Group → Split → IEff}
    (h : ReadyC st m sp g s) (hb : body (st.atIssue m g s sp) (st.groupAtIssue m g s sp) s = .trap t st') :
    issueC st m sp body = .next (st'.takeTrap st.issuer.group { trap := t, kind := .precise, slot := st.issuer.slot }) := by
  obtain ⟨hg, hs, ht, hr, hl, hm, hf, hq, hk⟩ := h
  unfold State.groupAtIssue State.atIssue unparked at *
  unfold issueC
  simp only [hg, hs]
  unfold State.issueAt
  simp only [ht, Option.isNone_some, Bool.false_eq_true, if_false, Option.getD_some]
  by_cases hp : mustPark m g s sp = true
  · obtain ⟨h1, h2⟩ := hr hp
    simp only [hp, if_true] at hm hf hq hk hb ⊢
    have hp' : (decide (m = 1#1) || decide (8 ≤ g.wbC.length) && sp.async g s) = true := hp
    simp only [hp', h1, Bool.not_true, Bool.and_false, Bool.false_eq_true, if_false, if_true, h2, hl, hm, hf, hq, hk, hb]
  · simp only [Bool.not_eq_true] at hp
    simp only [hp, Bool.false_eq_true, if_false] at hm hf hq hk hb ⊢
    have hp' : (decide (m = 1#1) || decide (8 ≤ g.wbC.length) && sp.async g s) = false := hp
    simp only [hp', Bool.false_and, Bool.false_eq_true, if_false, Bool.not_true, hl, hm, hf, hq, hk, hb]

/-- A word that stands ready and is not issued now. -/
theorem issueC_hold {st st' : State} {m : BitVec 1} {sp : IssueSpec} {g : Group} {s : Split} {body : State → Group → Split → IEff}
    (h : ReadyC st m sp g s) (hb : body (st.atIssue m g s sp) (st.groupAtIssue m g s sp) s = .hold st') :
    issueC st m sp body = .next st' := by
  obtain ⟨hg, hs, ht, hr, hl, hm, hf, hq, hk⟩ := h
  unfold State.groupAtIssue State.atIssue unparked at *
  unfold issueC
  simp only [hg, hs]
  unfold State.issueAt
  simp only [ht, Option.isNone_some, Bool.false_eq_true, if_false, Option.getD_some]
  by_cases hp : mustPark m g s sp = true
  · obtain ⟨h1, h2⟩ := hr hp
    simp only [hp, if_true] at hm hf hq hk hb ⊢
    have hp' : (decide (m = 1#1) || decide (8 ≤ g.wbC.length) && sp.async g s) = true := hp
    simp only [hp', h1, Bool.not_true, Bool.and_false, Bool.false_eq_true, if_false, if_true, h2, hl, hm, hf, hq, hk, hb]
  · simp only [Bool.not_eq_true] at hp
    simp only [hp, Bool.false_eq_true, if_false] at hm hf hq hk hb ⊢
    have hp' : (decide (m = 1#1) || decide (8 ≤ g.wbC.length) && sp.async g s) = false := hp
    simp only [hp', Bool.false_and, Bool.false_eq_true, if_false, Bool.not_true, hl, hm, hf, hq, hk, hb]

/-- A word that is not legal raises ILLEGAL_OP, a legal one under a MODE it does not take MODE_INVALID, and one whose operands do not fit that MODE ILLEGAL_OP. -/
theorem issueC_refused {st : State} {m : BitVec 1} {sp : IssueSpec} {g : Group} {s : Split} {body : State → Group → Split → IEff} (h : StandsC st m sp g s) :
    (sp.legal = false → issueC st m sp body = .next ((st.atIssue m g s sp).takeTrap st.issuer.group { trap := illegal, kind := .precise, slot := st.issuer.slot })) ∧
    (sp.legal = true → sp.mode (st.groupAtIssue m g s sp) = false →
      issueC st m sp body = .next ((st.atIssue m g s sp).takeTrap st.issuer.group { trap := { cause := .modeInvalid }, kind := .precise, slot := st.issuer.slot })) ∧
    (sp.legal = true → sp.mode (st.groupAtIssue m g s sp) = true → sp.fits (st.groupAtIssue m g s sp) = false →
      issueC st m sp body = .next ((st.atIssue m g s sp).takeTrap st.issuer.group { trap := illegal, kind := .precise, slot := st.issuer.slot })) := by
  obtain ⟨hg, hs, ht, hr⟩ := h
  unfold State.groupAtIssue State.atIssue unparked at *
  unfold issueC
  simp only [hg, hs]
  unfold State.issueAt
  simp only [ht, Option.isNone_some, Bool.false_eq_true, if_false, Option.getD_some]
  by_cases hp : mustPark m g s sp = true
  · obtain ⟨h1, h2⟩ := hr hp
    have hp' : (decide (m = 1#1) || decide (8 ≤ g.wbC.length) && sp.async g s) = true := hp
    refine ⟨?_, ?_, ?_⟩
    · intro hl
      simp only [hp, if_true, hp', h1, Bool.not_true, Bool.and_false, Bool.false_eq_true, if_false, h2, hl, Bool.not_false]
    · intro hl hm
      simp only [hp, if_true] at hm ⊢
      simp only [if_true, hp', h1, Bool.not_true, Bool.and_false, Bool.false_eq_true, if_false, h2, hl, hm, Bool.not_false]
    · intro hl hm hf
      simp only [hp, if_true] at hm hf ⊢
      simp only [if_true, hp', h1, Bool.not_true, Bool.and_false, Bool.false_eq_true, if_false, h2, hl, hm, hf, Bool.not_false]
  · simp only [Bool.not_eq_true] at hp
    have hp' : (decide (m = 1#1) || decide (8 ≤ g.wbC.length) && sp.async g s) = false := hp
    refine ⟨?_, ?_, ?_⟩
    · intro hl
      simp only [hp, hp', Bool.false_and, Bool.false_eq_true, if_false, hl, Bool.not_false, if_true]
    · intro hl hm
      simp only [hp, Bool.false_eq_true, if_false] at hm ⊢
      simp only [hp', Bool.false_and, Bool.false_eq_true, if_false, hl, hm, Bool.not_true, Bool.not_false, if_true]
    · intro hl hm hf
      simp only [hp, Bool.false_eq_true, if_false] at hm hf ⊢
      simp only [hp', Bool.false_and, Bool.false_eq_true, if_false, hl, hm, hf, Bool.not_true, Bool.not_false, if_true]

/-- A word whose operands are not legal traps at its issue. -/
theorem trapsIllegal_of {st : State} {i : Instr} {m : BitVec 1} {sp : IssueSpec} {body : State → Group → Split → IEff} (he : exec i st = issueC st m sp body)
    (hl : sp.legal = false) : st.trapsAtIssue i m sp (fun _ => True) illegal := fun _ _ h _ => he.trans ((issueC_refused h).1 hl)

/-- A legal word under a MODE it does not take traps at its issue. -/
theorem trapsMode_of {st : State} {i : Instr} {m : BitVec 1} {sp : IssueSpec} {bad : Group → Prop} {body : State → Group → Split → IEff}
    (he : exec i st = issueC st m sp body) (hl : sp.legal = true) (hm : ∀ g, bad g → sp.mode g = false) :
    st.trapsAtIssue i m sp bad { cause := .modeInvalid } := fun _ _ h hb => he.trans ((issueC_refused h).2.1 hl (hm _ hb))

/-- A legal word whose operands do not fit the MODE it takes traps at its issue. -/
theorem trapsFits_of {st : State} {i : Instr} {m : BitVec 1} {sp : IssueSpec} {bad : Group → Prop} {body : State → Group → Split → IEff}
    (he : exec i st = issueC st m sp body) (hl : sp.legal = true) (hm : ∀ g, bad g → sp.mode g = true ∧ sp.fits g = false) :
    st.trapsAtIssue i m sp bad illegal := fun _ _ h hb => he.trans ((issueC_refused h).2.2 hl (hm _ hb).1 (hm _ hb).2)

/-- The flags of matrix passes do not move the issuer. -/
theorem takeMflags_issuer (st : State) (gid : Nat) : (st.takeMflags gid).issuer = st.issuer := by
  unfold State.takeMflags
  dsimp only
  split <;> rfl

/-- Neither does the park. -/
theorem atIssue_issuer (st : State) (m : BitVec 1) (g : Group) (s : Split) (sp : IssueSpec) : (st.atIssue m g s sp).issuer = st.issuer := by
  unfold State.atIssue
  dsimp only
  by_cases hm : m = 1#1
  · rw [if_pos hm, takeMflags_issuer]; rfl
  · rw [if_neg hm]; rfl

/-- A group-level instruction that stands ready and is done. -/
theorem groupOp_done {st : State} {m : BitVec 1} {sp : IssueSpec} {g g' : Group} {s : Split} {f : Group → Split → GEff}
    (h : ReadyC st m sp g s) (hf : f (st.groupAtIssue m g s sp) s = .done g') :
    groupOp st m sp f = .next (((st.atIssue m g s sp).putGroup st.issuer.group g').retireC st.issuer.group st.issuer.slot
      (st.groupAtIssue m g s sp) s sp) := by
  refine issueC_done h ?_
  simp only [hf, atIssue_issuer]

/-- The stream parks while a held result has not returned, and no other split of the group issues until it has (R30, R60). -/
theorem issueC_parks {st : State} {m : BitVec 1} {sp : IssueSpec} {g : Group} {s : Split} {body : State → Group → Split → IEff}
    (hg : mget st.groups st.issuer.group = some g) (hs : g.splitAt st.issuer.slot = some s) (ht : st.trapTurn st.issuer.group g false = some none)
    (hp : mustPark m g s sp = true) (hr : allReturned g.wbC = false) :
    issueC st m sp body = .next (st.updGroup st.issuer.group fun g => { g with parked := some st.issuer.slot }) := by
  unfold issueC
  simp only [hg, hs]
  unfold State.issueAt
  have hp' : (decide (m = 1#1) || decide (8 ≤ g.wbC.length) && sp.async g s) = true := hp
  simp [ht, hp', hr]

/-- A group-level meaning completes where its body is done. -/
theorem completes_of {st : State} {i : Instr} {m : BitVec 1} {sp : IssueSpec} {ok : Group → Split → Bool} {f : Group → Split → Group}
    {F : Group → Split → GEff} (he : exec i st = groupOp st m sp F) (hF : ∀ g s, ok g s = true → F g s = .done (f g s)) :
    st.completes i m sp ok f := fun _ _ h ho => he.trans (groupOp_done h (hF _ _ ho))

/-- A meaning acts where its body is done. -/
theorem acts_of {st : State} {i : Instr} {m : BitVec 1} {sp : IssueSpec} {ok : State → Group → Split → Prop} {F : State → Group → Split → State}
    {body : State → Group → Split → IEff} (he : exec i st = issueC st m sp body)
    (hF : ∀ x g s, x.issuer = st.issuer → ok x g s → body x g s = .done (F x g s)) : st.acts i m sp ok F :=
  fun _ _ h ho => he.trans (issueC_done h (hF _ _ _ (atIssue_issuer ..) ho))

/-- A meaning traps where its body does. -/
theorem traps_of {st : State} {i : Instr} {m : BitVec 1} {sp : IssueSpec} {bad : State → Group → Split → Prop} {t : Trap}
    {body : State → Group → Split → IEff} (he : exec i st = issueC st m sp body)
    (hF : ∀ x g s, x.issuer = st.issuer → bad x g s → body x g s = .trap t x) : st.traps i m sp bad t :=
  fun _ _ h ho => he.trans (issueC_trap h (hF _ _ _ (atIssue_issuer ..) ho))

/-- A meaning traps where its body does, with what the body has done. -/
theorem trapsWith_of {st : State} {i : Instr} {m : BitVec 1} {sp : IssueSpec} {bad : State → Group → Split → Prop} {t : Trap}
    {F : State → Group → Split → State} {body : State → Group → Split → IEff} (he : exec i st = issueC st m sp body)
    (hF : ∀ x g s, x.issuer = st.issuer → bad x g s → body x g s = .trap t (F x g s)) : st.trapsWith i m sp bad t F :=
  fun _ _ h ho => he.trans (issueC_trap h (hF _ _ _ (atIssue_issuer ..) ho))

/-- A meaning is held where its body holds, with what the body has begun. -/
theorem heldIn_of {st : State} {i : Instr} {m : BitVec 1} {sp : IssueSpec} {ok : State → Group → Split → Prop} {F : State → Group → Split → State}
    {body : State → Group → Split → IEff} (he : exec i st = issueC st m sp body)
    (hF : ∀ x g s, x.issuer = st.issuer → ok x g s → body x g s = .hold (F x g s)) : st.heldIn i m sp ok F :=
  fun _ _ h ho => he.trans (issueC_hold h (hF _ _ _ (atIssue_issuer ..) ho))

/-- A meaning waits where its body holds. -/
theorem holds_of {st : State} {i : Instr} {m : BitVec 1} {sp : IssueSpec} {ok : State → Group → Split → Prop}
    {body : State → Group → Split → IEff} (he : exec i st = issueC st m sp body)
    (hF : ∀ x g s, x.issuer = st.issuer → ok x g s → body x g s = .hold x) : st.holds i m sp ok :=
  fun _ _ h ho => he.trans (issueC_hold h (hF _ _ _ (atIssue_issuer ..) ho))

/-! Branches (R28, R94). -/

theorem farTrap_near {x : Word} (h : x.toNat < 2 ^ 52) : farTrap x = none := if_neg (Nat.not_le.mpr h)

theorem farTrap_far {x : Word} (h : 2 ^ 52 ≤ x.toNat) : farTrap x = some { cause := .pageFault, addr := x.toNat } := if_pos h

/-- A branch that is not taken, or whose target lies below 2^52, goes on or to its target. -/
theorem branch_done {st : State} {pc o : Word} {t : Bool} (h : t = true → (pc + 4 * o).toNat < 2 ^ 52) :
    st.branch pc t o = .done (st.goto (if t then pc + 4 * o else pc + 4)) := by
  unfold State.branch branchTrap
  cases t with
  | false => rfl
  | true => rw [if_pos rfl, farTrap_near (h rfl)]; rfl

/-- A branch taken to a target at or above 2^52 raises PAGE_FAULT with that address. -/
theorem branch_trap {st : State} {pc o : Word} (h : 2 ^ 52 ≤ (pc + 4 * o).toNat) :
    st.branch pc true o = .trap { cause := .pageFault, addr := (pc + 4 * o).toNat } st := by
  unfold State.branch branchTrap
  rw [if_pos rfl, farTrap_far h]

/-- A branch of the access stream that is not taken, or whose target lies below 2^52 (R145). -/
theorem abranch_done {g : Group} {t : Bool} {o : Word} (h : t = true → (g.apc + 4 * o).toNat < 2 ^ 52) :
    g.abranch t o = .done { g with apc := if t then g.apc + 4 * o else g.apc + 4 } := by
  unfold Group.abranch branchTrap
  cases t with
  | false => rfl
  | true => rw [if_pos rfl, farTrap_near (h rfl)]; rfl

/-- One taken to a target at or above 2^52. -/
theorem abranch_trap {g : Group} {o : Word} (h : 2 ^ 52 ≤ (g.apc + 4 * o).toNat) :
    g.abranch true o = .trap { cause := .pageFault, addr := (g.apc + 4 * o).toNat } := by
  unfold Group.abranch branchTrap
  rw [if_pos rfl, farTrap_far h]

/-! The access stream. -/

/-- The park of the access stream does not move the issuer. -/
theorem atIssueA_issuer (st : State) (m : BitVec 1) (g : Group) (sp : AccSpec) : (st.atIssueA m g sp).issuer = st.issuer := by
  unfold State.atIssueA
  dsimp only
  by_cases hm : m = 1#1
  · rw [if_pos hm, takeMflags_issuer]; rfl
  · rw [if_neg hm]; rfl

/-- The state in which an access-stream instruction has its effect. -/
theorem issueA_done {st st' : State} {m : BitVec 1} {sp : AccSpec} {g : Group} {body : State → Group → IEff}
    (h : ReadyA st m sp g) (hb : body (st.atIssueA m g sp) (st.accessAtIssue m g sp) = .done st') :
    issueA st m sp body = .next (st'.retireA st.issuer.group sp (st.accessAtIssue m g sp).outside) := by
  obtain ⟨hg, hs, ht, hr, hl⟩ := h
  unfold State.accessAtIssue State.atIssueA accessParked at *
  unfold issueA
  simp only [hg, hs, if_true]
  unfold State.issueAccess
  simp only [ht, Option.isNone_some, Bool.false_eq_true, if_false, Option.getD_some]
  by_cases hp : mustParkA m g sp = true
  · obtain ⟨h1, h2⟩ := hr hp
    simp only [hp, if_true] at hb ⊢
    have hp' : (decide (m = 1#1) || decide (8 ≤ g.wbA.length) && sp.async) = true := hp
    simp only [hp', h1, Bool.not_true, Bool.and_false, Bool.false_eq_true, if_false, if_true, h2, hl, hb]
  · simp only [Bool.not_eq_true] at hp
    simp only [hp, Bool.false_eq_true, if_false] at hb ⊢
    have hp' : (decide (m = 1#1) || decide (8 ≤ g.wbA.length) && sp.async) = false := hp
    simp only [hp', Bool.false_and, Bool.false_eq_true, if_false, Bool.not_true, hl, hb]

/-- An access-stream word whose own effect is a precise trap. -/
theorem issueA_trap {st st' : State} {m : BitVec 1} {sp : AccSpec} {g : Group} {t : Trap} {body : State → Group → IEff}
    (h : ReadyA st m sp g) (hb : body (st.atIssueA m g sp) (st.accessAtIssue m g sp) = .trap t st') :
    issueA st m sp body = .next (st'.takeTrap st.issuer.group { trap := t, kind := .precise, acc := true, slot := 4 }) := by
  obtain ⟨hg, hs, ht, hr, hl⟩ := h
  unfold State.accessAtIssue State.atIssueA accessParked at *
  unfold issueA
  simp only [hg, hs, if_true]
  unfold State.issueAccess
  simp only [ht, Option.isNone_some, Bool.false_eq_true, if_false]
  by_cases hp : mustParkA m g sp = true
  · obtain ⟨h1, h2⟩ := hr hp
    simp only [hp, if_true] at hb ⊢
    have hp' : (decide (m = 1#1) || decide (8 ≤ g.wbA.length) && sp.async) = true := hp
    simp only [hp', h1, Bool.not_true, Bool.and_false, Bool.false_eq_true, if_false, if_true, h2, hl, hb]
  · simp only [Bool.not_eq_true] at hp
    simp only [hp, Bool.false_eq_true, if_false] at hb ⊢
    have hp' : (decide (m = 1#1) || decide (8 ≤ g.wbA.length) && sp.async) = false := hp
    simp only [hp', Bool.false_and, Bool.false_eq_true, if_false, Bool.not_true, hl, hb]

/-- An access-stream word whose body holds: what it has begun, and the stream where it was. -/
theorem issueA_hold {st st' : State} {m : BitVec 1} {sp : AccSpec} {g : Group} {body : State → Group → IEff}
    (h : ReadyA st m sp g) (hb : body (st.atIssueA m g sp) (st.accessAtIssue m g sp) = .hold st') :
    issueA st m sp body = .next (st'.stallA st.issuer.group) := by
  obtain ⟨hg, hs, ht, hr, hl⟩ := h
  unfold State.accessAtIssue State.atIssueA accessParked at *
  unfold issueA
  simp only [hg, hs, if_true]
  unfold State.issueAccess
  simp only [ht, Option.isNone_some, Bool.false_eq_true, if_false, Option.getD_some]
  by_cases hp : mustParkA m g sp = true
  · obtain ⟨h1, h2⟩ := hr hp
    simp only [hp, if_true] at hb ⊢
    have hp' : (decide (m = 1#1) || decide (8 ≤ g.wbA.length) && sp.async) = true := hp
    simp only [hp', h1, Bool.not_true, Bool.and_false, Bool.false_eq_true, if_false, if_true, h2, hl, hb]
  · simp only [Bool.not_eq_true] at hp
    simp only [hp, Bool.false_eq_true, if_false] at hb ⊢
    have hp' : (decide (m = 1#1) || decide (8 ≤ g.wbA.length) && sp.async) = false := hp
    simp only [hp', Bool.false_and, Bool.false_eq_true, if_false, Bool.not_true, hl, hb]

/-- An access-stream instruction on the group alone. -/
theorem accessOp_done {st : State} {m : BitVec 1} {sp : AccSpec} {g g' : Group} {f : Group → GEff}
    (h : ReadyA st m sp g) (hf : f (st.accessAtIssue m g sp) = .done g') :
    accessOp st m sp f = .next (((st.atIssueA m g sp).putGroup st.issuer.group g').retireA st.issuer.group sp
      (st.accessAtIssue m g sp).outside) := by
  refine issueA_done h ?_
  simp only [hf, atIssueA_issuer]

/-- A group-level access-stream meaning completes where its body is done. -/
theorem completesA_of {st : State} {i : Instr} {m : BitVec 1} {sp : AccSpec} {ok : Group → Bool} {f : Group → Group} {F : Group → GEff}
    (he : exec i st = accessOp st m sp F) (hF : ∀ g, ok g = true → F g = .done (f g)) : st.completesA i m sp ok f :=
  fun _ h ho => he.trans (accessOp_done h (hF _ ho))

/-- An access-stream meaning acts where its body is done. -/
theorem actsA_of {st : State} {i : Instr} {m : BitVec 1} {sp : AccSpec} {ok : State → Group → Prop} {F : State → Group → State}
    {body : State → Group → IEff} (he : exec i st = issueA st m sp body)
    (hF : ∀ x g, x.issuer = st.issuer → ok x g → body x g = .done (F x g)) : st.actsA i m sp ok F :=
  fun _ h ho => he.trans (issueA_done h (hF _ _ (atIssueA_issuer ..) ho))

/-- An access-stream meaning begins what its body holds. -/
theorem startsA_of {st : State} {i : Instr} {m : BitVec 1} {sp : AccSpec} {ok : State → Group → Prop} {F : State → Group → State}
    {body : State → Group → IEff} (he : exec i st = issueA st m sp body)
    (hF : ∀ x g, x.issuer = st.issuer → ok x g → body x g = .hold (F x g)) : st.startsA i m sp ok F :=
  fun _ h ho => he.trans (issueA_hold h (hF _ _ (atIssueA_issuer ..) ho))

/-- An access-stream meaning traps where its body does. -/
theorem trapsA_of {st : State} {i : Instr} {m : BitVec 1} {sp : AccSpec} {bad : State → Group → Prop} {t : Trap}
    {body : State → Group → IEff} (he : exec i st = issueA st m sp body)
    (hF : ∀ x g, x.issuer = st.issuer → bad x g → body x g = .trap t x) : st.trapsA i m sp bad t :=
  fun _ h ho => he.trans (issueA_trap h (hF _ _ (atIssueA_issuer ..) ho))

/-- An access-stream meaning traps where its body does, with what the body has done. -/
theorem trapsWithA_of {st : State} {i : Instr} {m : BitVec 1} {sp : AccSpec} {bad : State → Group → Prop} {t : Trap} {F : State → Group → State}
    {body : State → Group → IEff} (he : exec i st = issueA st m sp body)
    (hF : ∀ x g, x.issuer = st.issuer → bad x g → body x g = .trap t (F x g)) : st.trapsWithA i m sp bad t F :=
  fun _ h ho => he.trans (issueA_trap h (hF _ _ (atIssueA_issuer ..) ho))

end Sys2Proof.Machine
end

