-- ==== Sys2Proof/Laws/Access.lean ====
section
/-! SUPPORT. What issuing a memory access or an engine command can do, said once. -/

namespace Sys2Proof.Machine

/-- An access that issues: as `State.accessIssued` says. -/
theorem issueMem_done {x y : State} {gid : Nat} {g : Group} {a : Access} {pops : Group → Group} {wb oob : Bool}
    (h : x.accessIssued gid g a pops wb oob y) : x.issueMem gid g a pops wb oob = .done y := by
  unfold State.accessIssued at h
  unfold State.issueMem State.issueLines
  cases hg : a.guard with
  | none =>
    simp only [hg] at h ⊢
    obtain ⟨hw, h⟩ := h
    simp only [hw, Bool.false_eq_true, if_false]
    rcases h with ⟨h1, rfl⟩ | ⟨h1, h2, h3, h4, rfl⟩
    · rcases h1 with h1 | ⟨h1, h2⟩
      · rw [if_pos h1]
      · by_cases hp : a.kind = .pref
        · rw [if_pos hp]
        · simp only [if_neg hp, h1, h2]
    · obtain ⟨p, l, hm⟩ := List.exists_cons_of_ne_nil h3
      simp only [if_neg h1, h2, hm, h4, Bool.false_eq_true, if_false]
  | some slot =>
    simp only [hg] at h ⊢
    rcases h with ⟨g', h1, rfl⟩ | ⟨g', r, h1, h2, rfl⟩
    · simp only [h1]
    · simp only [h1]

/-- A command that is queued: as `State.cmdIssued` says. -/
theorem queueCmd_done {x y : State} {g : Group} {guard : Option Nat} {oob : Bool} {cmd : EngCmd} {put : EngCmd → Cluster → Cluster}
    (h : x.cmdIssued g guard oob cmd put y) : x.queueCmd g guard oob cmd put = .done y := by
  unfold State.cmdIssued at h
  unfold State.queueCmd
  cases guard with
  | none => simp only at h ⊢; rw [h]
  | some slot =>
    simp only at h ⊢
    rcases h with ⟨g', h1, rfl⟩ | ⟨g', r, h1, h2, rfl⟩
    · simp only [h1]
    · simp only [h1]

end Sys2Proof.Machine
end

