-- ==== Sys2Proof/Laws/Memory.lean ====
section
/-! SUPPORT. The laws of the two containers: reading a map after a change of one key, and the byte memory: read after write, bytes left alone, and the
canonical form, which every memory operation keeps. -/

namespace Sys2Proof.Machine

section Maps
variable {α : Type}

theorem mget_merase_same (m : FMap α) (k : Nat) : mget (merase m k) k = none := by
  induction m with
  | nil => rfl
  | cons e r ih =>
    obtain ⟨j, a⟩ := e
    by_cases h : j = k
    · simp [merase, h, ih]
    · simp [merase, mget, h, ih]

theorem mget_merase_other (m : FMap α) (k j : Nat) (h : j ≠ k) : mget (merase m k) j = mget m j := by
  induction m with
  | nil => rfl
  | cons e r ih =>
    obtain ⟨i, a⟩ := e
    by_cases hk : i = k
    · subst hk; simp [merase, mget, ih, Ne.symm h]
    · by_cases hj : i = j
      · subst hj; simp [merase, mget, hk]
      · simp [merase, mget, hk, hj, ih]

theorem mget_minsert_same (m : FMap α) (k : Nat) (v : α) (h : mget m k = none) : mget (minsert m k v) k = some v := by
  induction m with
  | nil => simp [minsert, mget]
  | cons e r ih =>
    obtain ⟨j, a⟩ := e
    by_cases hj : j = k
    · simp [mget, hj] at h
    · simp only [mget, hj, if_false] at h
      by_cases hk : k < j
      · simp [minsert, hk, mget]
      · simp [minsert, hk, mget, hj, ih h]

theorem mget_minsert_other (m : FMap α) (k j : Nat) (v : α) (h : j ≠ k) : mget (minsert m k v) j = mget m j := by
  induction m with
  | nil => simp [minsert, mget, Ne.symm h]
  | cons e r ih =>
    obtain ⟨i, a⟩ := e
    by_cases hk : k < i
    · simp [minsert, hk, mget, Ne.symm h]
    · by_cases hj : i = j
      · subst hj; simp [minsert, hk, mget]
      · simp [minsert, hk, mget, hj, ih]

/-- Reading the key just set. -/
@[simp] theorem mget_mset_same (m : FMap α) (k : Nat) (v : α) : mget (mset m k v) k = some v :=
  mget_minsert_same _ _ _ (mget_merase_same m k)

/-- Reading another key. -/
theorem mget_mset_other (m : FMap α) (k j : Nat) (v : α) (h : j ≠ k) : mget (mset m k v) j = mget m j := by
  rw [mset, mget_minsert_other _ _ _ _ h, mget_merase_other _ _ _ h]

@[simp] theorem mgetD_mset_same (m : FMap α) (k : Nat) (v d : α) : mgetD (mset m k v) k d = v := by simp [mgetD]

theorem mgetD_mset_other (m : FMap α) (k j : Nat) (v d : α) (h : j ≠ k) : mgetD (mset m k v) j d = mgetD m j d := by
  simp [mgetD, mget_mset_other m k j v h]

/-- A key's change read back. -/
theorem mget_mupd_same (m : FMap α) (k : Nat) (f : α → α) : mget (mupd m k f) k = (mget m k).map f := by
  unfold mupd
  cases h : mget m k <;> simp [h]

theorem mget_mupd_other (m : FMap α) (k j : Nat) (f : α → α) (h : j ≠ k) : mget (mupd m k f) j = mget m j := by
  unfold mupd
  cases mget m k with
  | none => rfl
  | some a => exact mget_mset_other m k j _ h

/-- A change at every key read back. -/
theorem mget_mmap (m : FMap α) (f : Nat → α → α) (k : Nat) : mget (mmap m f) k = (mget m k).map (f k) := by
  induction m with
  | nil => rfl
  | cons e r ih =>
    obtain ⟨j, a⟩ := e
    show mget ((j, f j a) :: mmap r f) k = _
    by_cases h : j = k
    · subst h; simp [mget]
    · simp only [mget, if_neg h]; exact ih

/-- A default-dropping store read back. -/
theorem mgetD_mput_same [DecidableEq α] (m : FMap α) (k : Nat) (v d : α) : mgetD (mput m k v d) k d = v := by
  unfold mput
  by_cases h : v = d
  · simp [h, mgetD, mget_merase_same]
  · simp [h]

theorem mgetD_mput_other [DecidableEq α] (m : FMap α) (k j : Nat) (v d : α) (h : j ≠ k) : mgetD (mput m k v d) j d = mgetD m j d := by
  unfold mput
  by_cases hv : v = d
  · simp [hv, mgetD, mget_merase_other m k j h]
  · simp [hv, mgetD_mset_other m k j v d h]

theorem mrising_weaken (m : FMap α) (a b : Nat) (h : a ≤ b) (hm : mrising b m = true) : mrising a m = true := by
  cases m with
  | nil => rfl
  | cons e r =>
    obtain ⟨j, x⟩ := e
    simp only [mrising, Bool.and_eq_true, decide_eq_true_eq] at hm ⊢
    exact ⟨by omega, hm.2⟩

theorem mrising_merase (m : FMap α) (k lo : Nat) (h : mrising lo m = true) : mrising lo (merase m k) = true := by
  induction m generalizing lo with
  | nil => rfl
  | cons e r ih =>
    obtain ⟨j, a⟩ := e
    simp only [mrising, Bool.and_eq_true, decide_eq_true_eq] at h
    by_cases hk : j = k
    · simp only [merase, hk, if_true]
      exact ih lo (mrising_weaken r lo (j + 1) (by omega) h.2)
    · simp only [merase, hk, if_false, mrising, Bool.and_eq_true, decide_eq_true_eq]
      exact ⟨h.1, ih (j + 1) h.2⟩

theorem mrising_minsert (m : FMap α) (k lo : Nat) (v : α) (hk : lo ≤ k) (hn : mget m k = none) (h : mrising lo m = true) :
    mrising lo (minsert m k v) = true := by
  induction m generalizing lo with
  | nil => simp [minsert, mrising, hk]
  | cons e r ih =>
    obtain ⟨j, a⟩ := e
    simp only [mrising, Bool.and_eq_true, decide_eq_true_eq] at h
    by_cases hj : j = k
    · simp [mget, hj] at hn
    · simp only [mget, hj, if_false] at hn
      by_cases hlt : k < j
      · simp only [minsert, hlt, if_true, mrising, Bool.and_eq_true, decide_eq_true_eq]
        exact ⟨hk, by omega, h.2⟩
      · simp only [minsert, hlt, if_false, mrising, Bool.and_eq_true, decide_eq_true_eq]
        exact ⟨h.1, ih (j + 1) (by omega) hn h.2⟩

theorem mrising_mset (m : FMap α) (k : Nat) (v : α) (h : mrising 0 m = true) : mrising 0 (mset m k v) = true :=
  mrising_minsert _ _ _ _ (Nat.zero_le k) (mget_merase_same m k) (mrising_merase m k 0 h)

end Maps

/-! The byte memory. -/

/-- A byte just stored. -/
@[simp] theorem Memory.get_set_same (m : Memory) (a : Nat) (b : Byte) : (m.set a b).get a = b := mgetD_mput_same m a b 0#8

/-- Any other byte. -/
theorem Memory.get_set_other (m : Memory) (a c : Nat) (b : Byte) (h : c ≠ a) : (m.set a b).get c = m.get c := mgetD_mput_other m a c b 0#8 h

theorem all_merase (m : Memory) (k : Nat) (p : Host.Cell → Bool) (h : m.all p = true) : (merase m k).all p = true := by
  induction m with
  | nil => rfl
  | cons e r ih =>
    obtain ⟨j, a⟩ := e
    simp only [List.all_cons, Bool.and_eq_true] at h
    by_cases hk : j = k
    · simp [merase, hk, ih h.2]
    · simp [merase, hk, h.1, ih h.2]

theorem all_minsert (m : Memory) (k : Nat) (v : Byte) (p : Host.Cell → Bool) (hv : p (k, v) = true) (h : m.all p = true) :
    (minsert m k v).all p = true := by
  induction m with
  | nil => simp [minsert, hv]
  | cons e r ih =>
    obtain ⟨j, a⟩ := e
    simp only [List.all_cons, Bool.and_eq_true] at h
    by_cases hk : k < j
    · simp [minsert, hk, hv, h.1, h.2]
    · simp [minsert, hk, h.1, ih h.2]

/-- Storing a byte keeps the canonical form. -/
theorem Memory.wf_set (m : Memory) (a : Nat) (b : Byte) (h : m.wf = true) : (m.set a b).wf = true := by
  simp only [Memory.wf, Bool.and_eq_true] at h ⊢
  unfold Memory.set mput
  by_cases hb : b = 0#8
  · simp only [hb, if_true]
    exact ⟨mrising_merase m a 0 h.1, all_merase m a _ h.2⟩
  · simp only [hb, if_false]
    exact ⟨mrising_mset m a b h.1, all_minsert _ _ _ _ (by simpa using hb) (all_merase m a _ h.2)⟩

/-- A masked store keeps the canonical form. -/
theorem Memory.wf_writeMask (m : Memory) (a n mask v : Nat) (h : m.wf = true) : (m.writeMask a n mask v).wf = true := by
  induction n generalizing m a mask v with
  | zero => exact h
  | succ n ih =>
    unfold Memory.writeMask
    apply ih
    split
    · exact Memory.wf_set m a _ h
    · exact h

/-- A store keeps the canonical form. -/
theorem Memory.wf_write (m : Memory) (a n v : Nat) (h : m.wf = true) : (m.write a n v).wf = true := Memory.wf_writeMask m a n _ v h

theorem mrising_filter {α : Type} (m : FMap α) (p : Nat × α → Bool) (lo : Nat) (h : mrising lo m = true) : mrising lo (m.filter p) = true := by
  induction m generalizing lo with
  | nil => rfl
  | cons e r ih =>
    obtain ⟨j, a⟩ := e
    simp only [mrising, Bool.and_eq_true, decide_eq_true_eq] at h
    cases hp : p (j, a)
    · simp only [List.filter_cons, hp, Bool.false_eq_true, if_false]
      exact ih lo (mrising_weaken r lo (j + 1) (by omega) h.2)
    · simp only [List.filter_cons, hp, if_true, mrising, Bool.and_eq_true, decide_eq_true_eq]
      exact ⟨h.1, ih (j + 1) h.2⟩

/-- Memory with bytes left out keeps the canonical form. -/
theorem Memory.wf_filter (m : Memory) (p : Host.Cell → Bool) (h : m.wf = true) : Memory.wf (m.filter p) = true := by
  simp only [Memory.wf, Bool.and_eq_true] at h ⊢
  refine ⟨mrising_filter m p 0 h.1, ?_⟩
  rw [List.all_eq_true] at h ⊢
  intro c hc
  exact h.2 c (List.mem_of_mem_filter hc)

/-- Emptying a range keeps the canonical form. -/
theorem Memory.wf_clear (m : Memory) (a n : Nat) (h : m.wf = true) : (m.clear a n).wf = true := Memory.wf_filter m _ h

/-- A masked store leaves every byte outside its range as it was. -/
theorem Memory.get_writeMask_outside (m : Memory) (a n mask v c : Nat) (h : c < a ∨ a + n ≤ c) : (m.writeMask a n mask v).get c = m.get c := by
  induction n generalizing m a mask v with
  | zero => rfl
  | succ n ih =>
    unfold Memory.writeMask
    rw [ih _ (a + 1) _ _ (by omega)]
    split
    · exact Memory.get_set_other m a c _ (by omega)
    · rfl

/-- A store leaves every byte outside its range as it was. -/
theorem Memory.get_write_outside (m : Memory) (a n v c : Nat) (h : c < a ∨ a + n ≤ c) : (m.write a n v).get c = m.get c :=
  Memory.get_writeMask_outside m a n _ v c h

/-- Byte i of a store of n bytes (R6). -/
theorem Memory.get_write_inside (m : Memory) (a n v i : Nat) (h : i < n) : (m.write a n v).get (a + i) = BitVec.ofNat 8 (v / 256 ^ i) := by
  unfold Memory.write
  have key : ∀ (n i : Nat) (m : Memory) (a v : Nat), i < n → (m.writeMask a n (2 ^ n - 1) v).get (a + i) = BitVec.ofNat 8 (v / 256 ^ i) := by
    intro n
    induction n with
    | zero => intro i _ _ _ h; omega
    | succ n ih =>
      intro i m a v h
      have hp : 2 ^ (n + 1) = 2 * 2 ^ n := by rw [Nat.pow_succ]; omega
      have hpos : 0 < 2 ^ n := Nat.two_pow_pos n
      have hodd : (2 ^ (n + 1) - 1) % 2 = 1 := by omega
      have hhalf : (2 ^ (n + 1) - 1) / 2 = 2 ^ n - 1 := by omega
      unfold Memory.writeMask
      simp only [hodd, if_true, hhalf]
      cases i with
      | zero =>
        rw [Memory.get_writeMask_outside _ _ _ _ _ _ (by omega)]
        simp
      | succ i =>
        have := ih i (m.set a (BitVec.ofNat 8 v)) (a + 1) (v / 256) (by omega)
        rw [show a + (i + 1) = a + 1 + i by omega, this, Nat.div_div_eq_div_mul, Nat.pow_succ, Nat.mul_comm]
  exact key n i m a v h

/-- Reading back what a store of n bytes left. -/
theorem Memory.read_write_same (m : Memory) (a n v : Nat) : (m.write a n v).read a n = v % 256 ^ n := by
  have key : ∀ (k j : Nat), j + k ≤ n → (m.write a n v).read (a + j) k = v / 256 ^ j % 256 ^ k := by
    intro k
    induction k with
    | zero => intro j _; simp [Memory.read, Nat.mod_one]
    | succ k ih =>
      intro j h
      unfold Memory.read
      rw [Memory.get_write_inside m a n v j (by omega), show a + j + 1 = a + (j + 1) by omega, ih (j + 1) (by omega)]
      simp only [BitVec.toNat_ofNat]
      rw [Nat.pow_succ 256 j, ← Nat.div_div_eq_div_mul, Nat.pow_succ 256 k, Nat.mul_comm (256 ^ k) 256, Nat.mod_mul]
  simpa using key n 0 (by omega)

end Sys2Proof.Machine
end

