-- ==== Sys2Proof/Laws/Registers.lean ====
section
/-! SUPPORT. What writing one register of a group leaves as it was, field by field, and the register read back (R16, R43). -/

namespace Sys2Proof.Machine

variable (g : Group)

/-! putV. -/
@[simp] theorem Group.putV_wg (r : Nat) (x b : Row) : (g.putV r x b).wg = g.wg := rfl
@[simp] theorem Group.putV_gi (r : Nat) (x b : Row) : (g.putV r x b).gi = g.gi := rfl
@[simp] theorem Group.putV_present (r : Nat) (x b : Row) : (g.putV r x b).present = g.present := rfl
@[simp] theorem Group.putV_exited (r : Nat) (x b : Row) : (g.putV r x b).exited = g.exited := rfl
@[simp] theorem Group.putV_p (r : Nat) (x b : Row) : (g.putV r x b).p = g.p := rfl
@[simp] theorem Group.putV_s (r : Nat) (x b : Row) : (g.putV r x b).s = g.s := rfl
@[simp] theorem Group.putV_a (r : Nat) (x b : Row) : (g.putV r x b).a = g.a := rfl
@[simp] theorem Group.putV_d (r : Nat) (x b : Row) : (g.putV r x b).d = g.d := rfl
@[simp] theorem Group.putV_mode (r : Nat) (x b : Row) : (g.putV r x b).mode = g.mode := rfl
@[simp] theorem Group.putV_stat (r : Nat) (x b : Row) : (g.putV r x b).stat = g.stat := rfl
@[simp] theorem Group.putV_guards (r : Nat) (x b : Row) : (g.putV r x b).guards = g.guards := rfl
@[simp] theorem Group.putV_tiles (r : Nat) (x b : Row) : (g.putV r x b).tiles = g.tiles := rfl
@[simp] theorem Group.putV_lq (r : Nat) (x b : Row) : (g.putV r x b).lq = g.lq := rfl
@[simp] theorem Group.putV_sq (r : Nat) (x b : Row) : (g.putV r x b).sq = g.sq := rfl
@[simp] theorem Group.putV_xq (r : Nat) (x b : Row) : (g.putV r x b).xq = g.xq := rfl
@[simp] theorem Group.putV_wbA (r : Nat) (x b : Row) : (g.putV r x b).wbA = g.wbA := rfl
@[simp] theorem Group.putV_splits (r : Nat) (x b : Row) : (g.putV r x b).splits = g.splits := rfl
@[simp] theorem Group.putV_pending (r : Nat) (x b : Row) : (g.putV r x b).pending = g.pending := rfl
@[simp] theorem Group.putV_elder (r : Nat) (x b : Row) : (g.putV r x b).elder = g.elder := rfl
@[simp] theorem Group.putV_parked (r : Nat) (x b : Row) : (g.putV r x b).parked = g.parked := rfl
@[simp] theorem Group.putV_apc (r : Nat) (x b : Row) : (g.putV r x b).apc = g.apc := rfl
@[simp] theorem Group.putV_aend (r : Nat) (x b : Row) : (g.putV r x b).aend = g.aend := rfl
@[simp] theorem Group.putV_await (r : Nat) (x b : Row) : (g.putV r x b).await = g.await := rfl
@[simp] theorem Group.putV_spilling (r : Nat) (x b : Row) : (g.putV r x b).spilling = g.spilling := rfl
@[simp] theorem Group.putV_astall (r : Nat) (x b : Row) : (g.putV r x b).astall = g.astall := rfl
@[simp] theorem Group.putV_memq (r : Nat) (x b : Row) : (g.putV r x b).memq = g.memq := rfl
@[simp] theorem Group.putV_tcause (r : Nat) (x b : Row) : (g.putV r x b).tcause = g.tcause := rfl
@[simp] theorem Group.putV_tpc (r : Nat) (x b : Row) : (g.putV r x b).tpc = g.tpc := rfl
@[simp] theorem Group.putV_tinfo (r : Nat) (x b : Row) : (g.putV r x b).tinfo = g.tinfo := rfl
@[simp] theorem Group.putV_taddr (r : Nat) (x b : Row) : (g.putV r x b).taddr = g.taddr := rfl
@[simp] theorem Group.putV_tlevel (r : Nat) (x b : Row) : (g.putV r x b).tlevel = g.tlevel := rfl
@[simp] theorem Group.putV_handler (r : Nat) (x b : Row) : (g.putV r x b).handler = g.handler := rfl
@[simp] theorem Group.putV_frame (r : Nat) (x b : Row) : (g.putV r x b).frame = g.frame := rfl
@[simp] theorem Group.putV_entering (r : Nat) (x b : Row) : (g.putV r x b).entering = g.entering := rfl
@[simp] theorem Group.putV_saver (r : Nat) (x b : Row) : (g.putV r x b).saver = g.saver := rfl
@[simp] theorem Group.putV_pend (r : Nat) (x b : Row) : (g.putV r x b).pend = g.pend := rfl
@[simp] theorem Group.putV_syncsMask (r : Nat) (x b : Row) : (g.putV r x b).syncsMask = g.syncsMask := rfl
@[simp] theorem Group.putV_syncsArrived (r : Nat) (x b : Row) : (g.putV r x b).syncsArrived = g.syncsArrived := rfl
@[simp] theorem Group.putV_syncsBroken (r : Nat) (x b : Row) : (g.putV r x b).syncsBroken = g.syncsBroken := rfl
@[simp] theorem Group.putV_watchdog (r : Nat) (x b : Row) : (g.putV r x b).watchdog = g.watchdog := rfl
@[simp] theorem Group.putV_yielded (r : Nat) (x b : Row) : (g.putV r x b).yielded = g.yielded := rfl
@[simp] theorem Group.putV_icntC (r : Nat) (x b : Row) : (g.putV r x b).icntC = g.icntC := rfl
@[simp] theorem Group.putV_icntA (r : Nat) (x b : Row) : (g.putV r x b).icntA = g.icntA := rfl
@[simp] theorem Group.putV_lastC (r : Nat) (x b : Row) : (g.putV r x b).lastC = g.lastC := rfl
@[simp] theorem Group.putV_lastA (r : Nat) (x b : Row) : (g.putV r x b).lastA = g.lastA := rfl
@[simp] theorem Group.putV_nextId (r : Nat) (x b : Row) : (g.putV r x b).nextId = g.nextId := rfl
@[simp] theorem Group.putV_cycles (r : Nat) (x b : Row) : (g.putV r x b).cycles = g.cycles := rfl
@[simp] theorem Group.putV_amark (r : Nat) (x b : Row) : (g.putV r x b).amark = g.amark := rfl
/-! putP. -/
@[simp] theorem Group.putP_wg (r : Nat) (x b : ByteMask) : (g.putP r x b).wg = g.wg := rfl
@[simp] theorem Group.putP_gi (r : Nat) (x b : ByteMask) : (g.putP r x b).gi = g.gi := rfl
@[simp] theorem Group.putP_present (r : Nat) (x b : ByteMask) : (g.putP r x b).present = g.present := rfl
@[simp] theorem Group.putP_exited (r : Nat) (x b : ByteMask) : (g.putP r x b).exited = g.exited := rfl
@[simp] theorem Group.putP_v (r : Nat) (x b : ByteMask) : (g.putP r x b).v = g.v := rfl
@[simp] theorem Group.putP_s (r : Nat) (x b : ByteMask) : (g.putP r x b).s = g.s := rfl
@[simp] theorem Group.putP_a (r : Nat) (x b : ByteMask) : (g.putP r x b).a = g.a := rfl
@[simp] theorem Group.putP_d (r : Nat) (x b : ByteMask) : (g.putP r x b).d = g.d := rfl
@[simp] theorem Group.putP_mode (r : Nat) (x b : ByteMask) : (g.putP r x b).mode = g.mode := rfl
@[simp] theorem Group.putP_stat (r : Nat) (x b : ByteMask) : (g.putP r x b).stat = g.stat := rfl
@[simp] theorem Group.putP_guards (r : Nat) (x b : ByteMask) : (g.putP r x b).guards = g.guards := rfl
@[simp] theorem Group.putP_tiles (r : Nat) (x b : ByteMask) : (g.putP r x b).tiles = g.tiles := rfl
@[simp] theorem Group.putP_lq (r : Nat) (x b : ByteMask) : (g.putP r x b).lq = g.lq := rfl
@[simp] theorem Group.putP_sq (r : Nat) (x b : ByteMask) : (g.putP r x b).sq = g.sq := rfl
@[simp] theorem Group.putP_xq (r : Nat) (x b : ByteMask) : (g.putP r x b).xq = g.xq := rfl
@[simp] theorem Group.putP_wbC (r : Nat) (x b : ByteMask) : (g.putP r x b).wbC = g.wbC := rfl
@[simp] theorem Group.putP_wbA (r : Nat) (x b : ByteMask) : (g.putP r x b).wbA = g.wbA := rfl
@[simp] theorem Group.putP_splits (r : Nat) (x b : ByteMask) : (g.putP r x b).splits = g.splits := rfl
@[simp] theorem Group.putP_pending (r : Nat) (x b : ByteMask) : (g.putP r x b).pending = g.pending := rfl
@[simp] theorem Group.putP_elder (r : Nat) (x b : ByteMask) : (g.putP r x b).elder = g.elder := rfl
@[simp] theorem Group.putP_parked (r : Nat) (x b : ByteMask) : (g.putP r x b).parked = g.parked := rfl
@[simp] theorem Group.putP_apc (r : Nat) (x b : ByteMask) : (g.putP r x b).apc = g.apc := rfl
@[simp] theorem Group.putP_aend (r : Nat) (x b : ByteMask) : (g.putP r x b).aend = g.aend := rfl
@[simp] theorem Group.putP_await (r : Nat) (x b : ByteMask) : (g.putP r x b).await = g.await := rfl
@[simp] theorem Group.putP_spilling (r : Nat) (x b : ByteMask) : (g.putP r x b).spilling = g.spilling := rfl
@[simp] theorem Group.putP_astall (r : Nat) (x b : ByteMask) : (g.putP r x b).astall = g.astall := rfl
@[simp] theorem Group.putP_memq (r : Nat) (x b : ByteMask) : (g.putP r x b).memq = g.memq := rfl
@[simp] theorem Group.putP_tcause (r : Nat) (x b : ByteMask) : (g.putP r x b).tcause = g.tcause := rfl
@[simp] theorem Group.putP_tpc (r : Nat) (x b : ByteMask) : (g.putP r x b).tpc = g.tpc := rfl
@[simp] theorem Group.putP_tinfo (r : Nat) (x b : ByteMask) : (g.putP r x b).tinfo = g.tinfo := rfl
@[simp] theorem Group.putP_taddr (r : Nat) (x b : ByteMask) : (g.putP r x b).taddr = g.taddr := rfl
@[simp] theorem Group.putP_tlevel (r : Nat) (x b : ByteMask) : (g.putP r x b).tlevel = g.tlevel := rfl
@[simp] theorem Group.putP_handler (r : Nat) (x b : ByteMask) : (g.putP r x b).handler = g.handler := rfl
@[simp] theorem Group.putP_frame (r : Nat) (x b : ByteMask) : (g.putP r x b).frame = g.frame := rfl
@[simp] theorem Group.putP_entering (r : Nat) (x b : ByteMask) : (g.putP r x b).entering = g.entering := rfl
@[simp] theorem Group.putP_saver (r : Nat) (x b : ByteMask) : (g.putP r x b).saver = g.saver := rfl
@[simp] theorem Group.putP_pend (r : Nat) (x b : ByteMask) : (g.putP r x b).pend = g.pend := rfl
@[simp] theorem Group.putP_syncsMask (r : Nat) (x b : ByteMask) : (g.putP r x b).syncsMask = g.syncsMask := rfl
@[simp] theorem Group.putP_syncsArrived (r : Nat) (x b : ByteMask) : (g.putP r x b).syncsArrived = g.syncsArrived := rfl
@[simp] theorem Group.putP_syncsBroken (r : Nat) (x b : ByteMask) : (g.putP r x b).syncsBroken = g.syncsBroken := rfl
@[simp] theorem Group.putP_watchdog (r : Nat) (x b : ByteMask) : (g.putP r x b).watchdog = g.watchdog := rfl
@[simp] theorem Group.putP_yielded (r : Nat) (x b : ByteMask) : (g.putP r x b).yielded = g.yielded := rfl
@[simp] theorem Group.putP_icntC (r : Nat) (x b : ByteMask) : (g.putP r x b).icntC = g.icntC := rfl
@[simp] theorem Group.putP_icntA (r : Nat) (x b : ByteMask) : (g.putP r x b).icntA = g.icntA := rfl
@[simp] theorem Group.putP_lastC (r : Nat) (x b : ByteMask) : (g.putP r x b).lastC = g.lastC := rfl
@[simp] theorem Group.putP_lastA (r : Nat) (x b : ByteMask) : (g.putP r x b).lastA = g.lastA := rfl
@[simp] theorem Group.putP_nextId (r : Nat) (x b : ByteMask) : (g.putP r x b).nextId = g.nextId := rfl
@[simp] theorem Group.putP_cycles (r : Nat) (x b : ByteMask) : (g.putP r x b).cycles = g.cycles := rfl
@[simp] theorem Group.putP_amark (r : Nat) (x b : ByteMask) : (g.putP r x b).amark = g.amark := rfl
/-! putS. -/
@[simp] theorem Group.putS_wg (r : Nat) (x : Word) : (g.putS r x).wg = g.wg := rfl
@[simp] theorem Group.putS_gi (r : Nat) (x : Word) : (g.putS r x).gi = g.gi := rfl
@[simp] theorem Group.putS_present (r : Nat) (x : Word) : (g.putS r x).present = g.present := rfl
@[simp] theorem Group.putS_exited (r : Nat) (x : Word) : (g.putS r x).exited = g.exited := rfl
@[simp] theorem Group.putS_v (r : Nat) (x : Word) : (g.putS r x).v = g.v := rfl
@[simp] theorem Group.putS_p (r : Nat) (x : Word) : (g.putS r x).p = g.p := rfl
@[simp] theorem Group.putS_a (r : Nat) (x : Word) : (g.putS r x).a = g.a := rfl
@[simp] theorem Group.putS_d (r : Nat) (x : Word) : (g.putS r x).d = g.d := rfl
@[simp] theorem Group.putS_mode (r : Nat) (x : Word) : (g.putS r x).mode = g.mode := rfl
@[simp] theorem Group.putS_stat (r : Nat) (x : Word) : (g.putS r x).stat = g.stat := rfl
@[simp] theorem Group.putS_guards (r : Nat) (x : Word) : (g.putS r x).guards = g.guards := rfl
@[simp] theorem Group.putS_tiles (r : Nat) (x : Word) : (g.putS r x).tiles = g.tiles := rfl
@[simp] theorem Group.putS_lq (r : Nat) (x : Word) : (g.putS r x).lq = g.lq := rfl
@[simp] theorem Group.putS_sq (r : Nat) (x : Word) : (g.putS r x).sq = g.sq := rfl
@[simp] theorem Group.putS_xq (r : Nat) (x : Word) : (g.putS r x).xq = g.xq := rfl
@[simp] theorem Group.putS_wbA (r : Nat) (x : Word) : (g.putS r x).wbA = g.wbA := rfl
@[simp] theorem Group.putS_splits (r : Nat) (x : Word) : (g.putS r x).splits = g.splits := rfl
@[simp] theorem Group.putS_pending (r : Nat) (x : Word) : (g.putS r x).pending = g.pending := rfl
@[simp] theorem Group.putS_elder (r : Nat) (x : Word) : (g.putS r x).elder = g.elder := rfl
@[simp] theorem Group.putS_parked (r : Nat) (x : Word) : (g.putS r x).parked = g.parked := rfl
@[simp] theorem Group.putS_apc (r : Nat) (x : Word) : (g.putS r x).apc = g.apc := rfl
@[simp] theorem Group.putS_aend (r : Nat) (x : Word) : (g.putS r x).aend = g.aend := rfl
@[simp] theorem Group.putS_await (r : Nat) (x : Word) : (g.putS r x).await = g.await := rfl
@[simp] theorem Group.putS_spilling (r : Nat) (x : Word) : (g.putS r x).spilling = g.spilling := rfl
@[simp] theorem Group.putS_astall (r : Nat) (x : Word) : (g.putS r x).astall = g.astall := rfl
@[simp] theorem Group.putS_memq (r : Nat) (x : Word) : (g.putS r x).memq = g.memq := rfl
@[simp] theorem Group.putS_tcause (r : Nat) (x : Word) : (g.putS r x).tcause = g.tcause := rfl
@[simp] theorem Group.putS_tpc (r : Nat) (x : Word) : (g.putS r x).tpc = g.tpc := rfl
@[simp] theorem Group.putS_tinfo (r : Nat) (x : Word) : (g.putS r x).tinfo = g.tinfo := rfl
@[simp] theorem Group.putS_taddr (r : Nat) (x : Word) : (g.putS r x).taddr = g.taddr := rfl
@[simp] theorem Group.putS_tlevel (r : Nat) (x : Word) : (g.putS r x).tlevel = g.tlevel := rfl
@[simp] theorem Group.putS_handler (r : Nat) (x : Word) : (g.putS r x).handler = g.handler := rfl
@[simp] theorem Group.putS_frame (r : Nat) (x : Word) : (g.putS r x).frame = g.frame := rfl
@[simp] theorem Group.putS_entering (r : Nat) (x : Word) : (g.putS r x).entering = g.entering := rfl
@[simp] theorem Group.putS_saver (r : Nat) (x : Word) : (g.putS r x).saver = g.saver := rfl
@[simp] theorem Group.putS_pend (r : Nat) (x : Word) : (g.putS r x).pend = g.pend := rfl
@[simp] theorem Group.putS_syncsMask (r : Nat) (x : Word) : (g.putS r x).syncsMask = g.syncsMask := rfl
@[simp] theorem Group.putS_syncsArrived (r : Nat) (x : Word) : (g.putS r x).syncsArrived = g.syncsArrived := rfl
@[simp] theorem Group.putS_syncsBroken (r : Nat) (x : Word) : (g.putS r x).syncsBroken = g.syncsBroken := rfl
@[simp] theorem Group.putS_watchdog (r : Nat) (x : Word) : (g.putS r x).watchdog = g.watchdog := rfl
@[simp] theorem Group.putS_yielded (r : Nat) (x : Word) : (g.putS r x).yielded = g.yielded := rfl
@[simp] theorem Group.putS_icntC (r : Nat) (x : Word) : (g.putS r x).icntC = g.icntC := rfl
@[simp] theorem Group.putS_icntA (r : Nat) (x : Word) : (g.putS r x).icntA = g.icntA := rfl
@[simp] theorem Group.putS_lastC (r : Nat) (x : Word) : (g.putS r x).lastC = g.lastC := rfl
@[simp] theorem Group.putS_lastA (r : Nat) (x : Word) : (g.putS r x).lastA = g.lastA := rfl
@[simp] theorem Group.putS_nextId (r : Nat) (x : Word) : (g.putS r x).nextId = g.nextId := rfl
@[simp] theorem Group.putS_cycles (r : Nat) (x : Word) : (g.putS r x).cycles = g.cycles := rfl
@[simp] theorem Group.putS_amark (r : Nat) (x : Word) : (g.putS r x).amark = g.amark := rfl
/-! putA. -/
@[simp] theorem Group.putA_wg (r : Nat) (x : Word) : (g.putA r x).wg = g.wg := by unfold Group.putA; split <;> rfl
@[simp] theorem Group.putA_gi (r : Nat) (x : Word) : (g.putA r x).gi = g.gi := by unfold Group.putA; split <;> rfl
@[simp] theorem Group.putA_present (r : Nat) (x : Word) : (g.putA r x).present = g.present := by unfold Group.putA; split <;> rfl
@[simp] theorem Group.putA_exited (r : Nat) (x : Word) : (g.putA r x).exited = g.exited := by unfold Group.putA; split <;> rfl
@[simp] theorem Group.putA_v (r : Nat) (x : Word) : (g.putA r x).v = g.v := by unfold Group.putA; split <;> rfl
@[simp] theorem Group.putA_p (r : Nat) (x : Word) : (g.putA r x).p = g.p := by unfold Group.putA; split <;> rfl
@[simp] theorem Group.putA_s (r : Nat) (x : Word) : (g.putA r x).s = g.s := by unfold Group.putA; split <;> rfl
@[simp] theorem Group.putA_d (r : Nat) (x : Word) : (g.putA r x).d = g.d := by unfold Group.putA; split <;> rfl
@[simp] theorem Group.putA_mode (r : Nat) (x : Word) : (g.putA r x).mode = g.mode := by unfold Group.putA; split <;> rfl
@[simp] theorem Group.putA_stat (r : Nat) (x : Word) : (g.putA r x).stat = g.stat := by unfold Group.putA; split <;> rfl
@[simp] theorem Group.putA_guards (r : Nat) (x : Word) : (g.putA r x).guards = g.guards := by unfold Group.putA; split <;> rfl
@[simp] theorem Group.putA_tiles (r : Nat) (x : Word) : (g.putA r x).tiles = g.tiles := by unfold Group.putA; split <;> rfl
@[simp] theorem Group.putA_lq (r : Nat) (x : Word) : (g.putA r x).lq = g.lq := by unfold Group.putA; split <;> rfl
@[simp] theorem Group.putA_sq (r : Nat) (x : Word) : (g.putA r x).sq = g.sq := by unfold Group.putA; split <;> rfl
@[simp] theorem Group.putA_xq (r : Nat) (x : Word) : (g.putA r x).xq = g.xq := by unfold Group.putA; split <;> rfl
@[simp] theorem Group.putA_wbC (r : Nat) (x : Word) : (g.putA r x).wbC = g.wbC := by unfold Group.putA; split <;> rfl
@[simp] theorem Group.putA_splits (r : Nat) (x : Word) : (g.putA r x).splits = g.splits := by unfold Group.putA; split <;> rfl
@[simp] theorem Group.putA_pending (r : Nat) (x : Word) : (g.putA r x).pending = g.pending := by unfold Group.putA; split <;> rfl
@[simp] theorem Group.putA_elder (r : Nat) (x : Word) : (g.putA r x).elder = g.elder := by unfold Group.putA; split <;> rfl
@[simp] theorem Group.putA_parked (r : Nat) (x : Word) : (g.putA r x).parked = g.parked := by unfold Group.putA; split <;> rfl
@[simp] theorem Group.putA_apc (r : Nat) (x : Word) : (g.putA r x).apc = g.apc := by unfold Group.putA; split <;> rfl
@[simp] theorem Group.putA_aend (r : Nat) (x : Word) : (g.putA r x).aend = g.aend := by unfold Group.putA; split <;> rfl
@[simp] theorem Group.putA_await (r : Nat) (x : Word) : (g.putA r x).await = g.await := by unfold Group.putA; split <;> rfl
@[simp] theorem Group.putA_spilling (r : Nat) (x : Word) : (g.putA r x).spilling = g.spilling := by unfold Group.putA; split <;> rfl
@[simp] theorem Group.putA_astall (r : Nat) (x : Word) : (g.putA r x).astall = g.astall := by unfold Group.putA; split <;> rfl
@[simp] theorem Group.putA_memq (r : Nat) (x : Word) : (g.putA r x).memq = g.memq := by unfold Group.putA; split <;> rfl
@[simp] theorem Group.putA_tcause (r : Nat) (x : Word) : (g.putA r x).tcause = g.tcause := by unfold Group.putA; split <;> rfl
@[simp] theorem Group.putA_tpc (r : Nat) (x : Word) : (g.putA r x).tpc = g.tpc := by unfold Group.putA; split <;> rfl
@[simp] theorem Group.putA_tinfo (r : Nat) (x : Word) : (g.putA r x).tinfo = g.tinfo := by unfold Group.putA; split <;> rfl
@[simp] theorem Group.putA_taddr (r : Nat) (x : Word) : (g.putA r x).taddr = g.taddr := by unfold Group.putA; split <;> rfl
@[simp] theorem Group.putA_tlevel (r : Nat) (x : Word) : (g.putA r x).tlevel = g.tlevel := by unfold Group.putA; split <;> rfl
@[simp] theorem Group.putA_handler (r : Nat) (x : Word) : (g.putA r x).handler = g.handler := by unfold Group.putA; split <;> rfl
@[simp] theorem Group.putA_frame (r : Nat) (x : Word) : (g.putA r x).frame = g.frame := by unfold Group.putA; split <;> rfl
@[simp] theorem Group.putA_entering (r : Nat) (x : Word) : (g.putA r x).entering = g.entering := by unfold Group.putA; split <;> rfl
@[simp] theorem Group.putA_saver (r : Nat) (x : Word) : (g.putA r x).saver = g.saver := by unfold Group.putA; split <;> rfl
@[simp] theorem Group.putA_pend (r : Nat) (x : Word) : (g.putA r x).pend = g.pend := by unfold Group.putA; split <;> rfl
@[simp] theorem Group.putA_syncsMask (r : Nat) (x : Word) : (g.putA r x).syncsMask = g.syncsMask := by unfold Group.putA; split <;> rfl
@[simp] theorem Group.putA_syncsArrived (r : Nat) (x : Word) : (g.putA r x).syncsArrived = g.syncsArrived := by unfold Group.putA; split <;> rfl
@[simp] theorem Group.putA_syncsBroken (r : Nat) (x : Word) : (g.putA r x).syncsBroken = g.syncsBroken := by unfold Group.putA; split <;> rfl
@[simp] theorem Group.putA_watchdog (r : Nat) (x : Word) : (g.putA r x).watchdog = g.watchdog := by unfold Group.putA; split <;> rfl
@[simp] theorem Group.putA_yielded (r : Nat) (x : Word) : (g.putA r x).yielded = g.yielded := by unfold Group.putA; split <;> rfl
@[simp] theorem Group.putA_icntC (r : Nat) (x : Word) : (g.putA r x).icntC = g.icntC := by unfold Group.putA; split <;> rfl
@[simp] theorem Group.putA_icntA (r : Nat) (x : Word) : (g.putA r x).icntA = g.icntA := by unfold Group.putA; split <;> rfl
@[simp] theorem Group.putA_lastC (r : Nat) (x : Word) : (g.putA r x).lastC = g.lastC := by unfold Group.putA; split <;> rfl
@[simp] theorem Group.putA_lastA (r : Nat) (x : Word) : (g.putA r x).lastA = g.lastA := by unfold Group.putA; split <;> rfl
@[simp] theorem Group.putA_nextId (r : Nat) (x : Word) : (g.putA r x).nextId = g.nextId := by unfold Group.putA; split <;> rfl
@[simp] theorem Group.putA_cycles (r : Nat) (x : Word) : (g.putA r x).cycles = g.cycles := by unfold Group.putA; split <;> rfl
@[simp] theorem Group.putA_amark (r : Nat) (x : Word) : (g.putA r x).amark = g.amark := by unfold Group.putA; split <;> rfl
/-! putD. -/
@[simp] theorem Group.putD_wg (r : Nat) (x : BitVec 16) : (g.putD r x).wg = g.wg := by unfold Group.putD; split <;> rfl
@[simp] theorem Group.putD_gi (r : Nat) (x : BitVec 16) : (g.putD r x).gi = g.gi := by unfold Group.putD; split <;> rfl
@[simp] theorem Group.putD_present (r : Nat) (x : BitVec 16) : (g.putD r x).present = g.present := by unfold Group.putD; split <;> rfl
@[simp] theorem Group.putD_exited (r : Nat) (x : BitVec 16) : (g.putD r x).exited = g.exited := by unfold Group.putD; split <;> rfl
@[simp] theorem Group.putD_v (r : Nat) (x : BitVec 16) : (g.putD r x).v = g.v := by unfold Group.putD; split <;> rfl
@[simp] theorem Group.putD_p (r : Nat) (x : BitVec 16) : (g.putD r x).p = g.p := by unfold Group.putD; split <;> rfl
@[simp] theorem Group.putD_s (r : Nat) (x : BitVec 16) : (g.putD r x).s = g.s := by unfold Group.putD; split <;> rfl
@[simp] theorem Group.putD_a (r : Nat) (x : BitVec 16) : (g.putD r x).a = g.a := by unfold Group.putD; split <;> rfl
@[simp] theorem Group.putD_mode (r : Nat) (x : BitVec 16) : (g.putD r x).mode = g.mode := by unfold Group.putD; split <;> rfl
@[simp] theorem Group.putD_stat (r : Nat) (x : BitVec 16) : (g.putD r x).stat = g.stat := by unfold Group.putD; split <;> rfl
@[simp] theorem Group.putD_guards (r : Nat) (x : BitVec 16) : (g.putD r x).guards = g.guards := by unfold Group.putD; split <;> rfl
@[simp] theorem Group.putD_tiles (r : Nat) (x : BitVec 16) : (g.putD r x).tiles = g.tiles := by unfold Group.putD; split <;> rfl
@[simp] theorem Group.putD_lq (r : Nat) (x : BitVec 16) : (g.putD r x).lq = g.lq := by unfold Group.putD; split <;> rfl
@[simp] theorem Group.putD_sq (r : Nat) (x : BitVec 16) : (g.putD r x).sq = g.sq := by unfold Group.putD; split <;> rfl
@[simp] theorem Group.putD_xq (r : Nat) (x : BitVec 16) : (g.putD r x).xq = g.xq := by unfold Group.putD; split <;> rfl
@[simp] theorem Group.putD_wbC (r : Nat) (x : BitVec 16) : (g.putD r x).wbC = g.wbC := by unfold Group.putD; split <;> rfl
@[simp] theorem Group.putD_wbA (r : Nat) (x : BitVec 16) : (g.putD r x).wbA = g.wbA := by unfold Group.putD; split <;> rfl
@[simp] theorem Group.putD_splits (r : Nat) (x : BitVec 16) : (g.putD r x).splits = g.splits := by unfold Group.putD; split <;> rfl
@[simp] theorem Group.putD_pending (r : Nat) (x : BitVec 16) : (g.putD r x).pending = g.pending := by unfold Group.putD; split <;> rfl
@[simp] theorem Group.putD_elder (r : Nat) (x : BitVec 16) : (g.putD r x).elder = g.elder := by unfold Group.putD; split <;> rfl
@[simp] theorem Group.putD_parked (r : Nat) (x : BitVec 16) : (g.putD r x).parked = g.parked := by unfold Group.putD; split <;> rfl
@[simp] theorem Group.putD_apc (r : Nat) (x : BitVec 16) : (g.putD r x).apc = g.apc := by unfold Group.putD; split <;> rfl
@[simp] theorem Group.putD_aend (r : Nat) (x : BitVec 16) : (g.putD r x).aend = g.aend := by unfold Group.putD; split <;> rfl
@[simp] theorem Group.putD_await (r : Nat) (x : BitVec 16) : (g.putD r x).await = g.await := by unfold Group.putD; split <;> rfl
@[simp] theorem Group.putD_spilling (r : Nat) (x : BitVec 16) : (g.putD r x).spilling = g.spilling := by unfold Group.putD; split <;> rfl
@[simp] theorem Group.putD_astall (r : Nat) (x : BitVec 16) : (g.putD r x).astall = g.astall := by unfold Group.putD; split <;> rfl
@[simp] theorem Group.putD_memq (r : Nat) (x : BitVec 16) : (g.putD r x).memq = g.memq := by unfold Group.putD; split <;> rfl
@[simp] theorem Group.putD_tcause (r : Nat) (x : BitVec 16) : (g.putD r x).tcause = g.tcause := by unfold Group.putD; split <;> rfl
@[simp] theorem Group.putD_tpc (r : Nat) (x : BitVec 16) : (g.putD r x).tpc = g.tpc := by unfold Group.putD; split <;> rfl
@[simp] theorem Group.putD_tinfo (r : Nat) (x : BitVec 16) : (g.putD r x).tinfo = g.tinfo := by unfold Group.putD; split <;> rfl
@[simp] theorem Group.putD_taddr (r : Nat) (x : BitVec 16) : (g.putD r x).taddr = g.taddr := by unfold Group.putD; split <;> rfl
@[simp] theorem Group.putD_tlevel (r : Nat) (x : BitVec 16) : (g.putD r x).tlevel = g.tlevel := by unfold Group.putD; split <;> rfl
@[simp] theorem Group.putD_handler (r : Nat) (x : BitVec 16) : (g.putD r x).handler = g.handler := by unfold Group.putD; split <;> rfl
@[simp] theorem Group.putD_frame (r : Nat) (x : BitVec 16) : (g.putD r x).frame = g.frame := by unfold Group.putD; split <;> rfl
@[simp] theorem Group.putD_entering (r : Nat) (x : BitVec 16) : (g.putD r x).entering = g.entering := by unfold Group.putD; split <;> rfl
@[simp] theorem Group.putD_saver (r : Nat) (x : BitVec 16) : (g.putD r x).saver = g.saver := by unfold Group.putD; split <;> rfl
@[simp] theorem Group.putD_pend (r : Nat) (x : BitVec 16) : (g.putD r x).pend = g.pend := by unfold Group.putD; split <;> rfl
@[simp] theorem Group.putD_syncsMask (r : Nat) (x : BitVec 16) : (g.putD r x).syncsMask = g.syncsMask := by unfold Group.putD; split <;> rfl
@[simp] theorem Group.putD_syncsArrived (r : Nat) (x : BitVec 16) : (g.putD r x).syncsArrived = g.syncsArrived := by unfold Group.putD; split <;> rfl
@[simp] theorem Group.putD_syncsBroken (r : Nat) (x : BitVec 16) : (g.putD r x).syncsBroken = g.syncsBroken := by unfold Group.putD; split <;> rfl
@[simp] theorem Group.putD_watchdog (r : Nat) (x : BitVec 16) : (g.putD r x).watchdog = g.watchdog := by unfold Group.putD; split <;> rfl
@[simp] theorem Group.putD_yielded (r : Nat) (x : BitVec 16) : (g.putD r x).yielded = g.yielded := by unfold Group.putD; split <;> rfl
@[simp] theorem Group.putD_icntC (r : Nat) (x : BitVec 16) : (g.putD r x).icntC = g.icntC := by unfold Group.putD; split <;> rfl
@[simp] theorem Group.putD_icntA (r : Nat) (x : BitVec 16) : (g.putD r x).icntA = g.icntA := by unfold Group.putD; split <;> rfl
@[simp] theorem Group.putD_lastC (r : Nat) (x : BitVec 16) : (g.putD r x).lastC = g.lastC := by unfold Group.putD; split <;> rfl
@[simp] theorem Group.putD_lastA (r : Nat) (x : BitVec 16) : (g.putD r x).lastA = g.lastA := by unfold Group.putD; split <;> rfl
@[simp] theorem Group.putD_nextId (r : Nat) (x : BitVec 16) : (g.putD r x).nextId = g.nextId := by unfold Group.putD; split <;> rfl
@[simp] theorem Group.putD_cycles (r : Nat) (x : BitVec 16) : (g.putD r x).cycles = g.cycles := by unfold Group.putD; split <;> rfl
@[simp] theorem Group.putD_amark (r : Nat) (x : BitVec 16) : (g.putD r x).amark = g.amark := by unfold Group.putD; split <;> rfl
/-! putLq. -/
@[simp] theorem Group.putLq_wg (n : Nat) (es : List QEntry) : (g.putLq n es).wg = g.wg := rfl
@[simp] theorem Group.putLq_gi (n : Nat) (es : List QEntry) : (g.putLq n es).gi = g.gi := rfl
@[simp] theorem Group.putLq_present (n : Nat) (es : List QEntry) : (g.putLq n es).present = g.present := rfl
@[simp] theorem Group.putLq_exited (n : Nat) (es : List QEntry) : (g.putLq n es).exited = g.exited := rfl
@[simp] theorem Group.putLq_v (n : Nat) (es : List QEntry) : (g.putLq n es).v = g.v := rfl
@[simp] theorem Group.putLq_p (n : Nat) (es : List QEntry) : (g.putLq n es).p = g.p := rfl
@[simp] theorem Group.putLq_s (n : Nat) (es : List QEntry) : (g.putLq n es).s = g.s := rfl
@[simp] theorem Group.putLq_a (n : Nat) (es : List QEntry) : (g.putLq n es).a = g.a := rfl
@[simp] theorem Group.putLq_d (n : Nat) (es : List QEntry) : (g.putLq n es).d = g.d := rfl
@[simp] theorem Group.putLq_mode (n : Nat) (es : List QEntry) : (g.putLq n es).mode = g.mode := rfl
@[simp] theorem Group.putLq_stat (n : Nat) (es : List QEntry) : (g.putLq n es).stat = g.stat := rfl
@[simp] theorem Group.putLq_guards (n : Nat) (es : List QEntry) : (g.putLq n es).guards = g.guards := rfl
@[simp] theorem Group.putLq_tiles (n : Nat) (es : List QEntry) : (g.putLq n es).tiles = g.tiles := rfl
@[simp] theorem Group.putLq_sq (n : Nat) (es : List QEntry) : (g.putLq n es).sq = g.sq := rfl
@[simp] theorem Group.putLq_xq (n : Nat) (es : List QEntry) : (g.putLq n es).xq = g.xq := rfl
@[simp] theorem Group.putLq_wbC (n : Nat) (es : List QEntry) : (g.putLq n es).wbC = g.wbC := rfl
@[simp] theorem Group.putLq_wbA (n : Nat) (es : List QEntry) : (g.putLq n es).wbA = g.wbA := rfl
@[simp] theorem Group.putLq_splits (n : Nat) (es : List QEntry) : (g.putLq n es).splits = g.splits := rfl
@[simp] theorem Group.putLq_pending (n : Nat) (es : List QEntry) : (g.putLq n es).pending = g.pending := rfl
@[simp] theorem Group.putLq_elder (n : Nat) (es : List QEntry) : (g.putLq n es).elder = g.elder := rfl
@[simp] theorem Group.putLq_parked (n : Nat) (es : List QEntry) : (g.putLq n es).parked = g.parked := rfl
@[simp] theorem Group.putLq_apc (n : Nat) (es : List QEntry) : (g.putLq n es).apc = g.apc := rfl
@[simp] theorem Group.putLq_aend (n : Nat) (es : List QEntry) : (g.putLq n es).aend = g.aend := rfl
@[simp] theorem Group.putLq_await (n : Nat) (es : List QEntry) : (g.putLq n es).await = g.await := rfl
@[simp] theorem Group.putLq_spilling (n : Nat) (es : List QEntry) : (g.putLq n es).spilling = g.spilling := rfl
@[simp] theorem Group.putLq_astall (n : Nat) (es : List QEntry) : (g.putLq n es).astall = g.astall := rfl
@[simp] theorem Group.putLq_memq (n : Nat) (es : List QEntry) : (g.putLq n es).memq = g.memq := rfl
@[simp] theorem Group.putLq_tcause (n : Nat) (es : List QEntry) : (g.putLq n es).tcause = g.tcause := rfl
@[simp] theorem Group.putLq_tpc (n : Nat) (es : List QEntry) : (g.putLq n es).tpc = g.tpc := rfl
@[simp] theorem Group.putLq_tinfo (n : Nat) (es : List QEntry) : (g.putLq n es).tinfo = g.tinfo := rfl
@[simp] theorem Group.putLq_taddr (n : Nat) (es : List QEntry) : (g.putLq n es).taddr = g.taddr := rfl
@[simp] theorem Group.putLq_tlevel (n : Nat) (es : List QEntry) : (g.putLq n es).tlevel = g.tlevel := rfl
@[simp] theorem Group.putLq_handler (n : Nat) (es : List QEntry) : (g.putLq n es).handler = g.handler := rfl
@[simp] theorem Group.putLq_frame (n : Nat) (es : List QEntry) : (g.putLq n es).frame = g.frame := rfl
@[simp] theorem Group.putLq_entering (n : Nat) (es : List QEntry) : (g.putLq n es).entering = g.entering := rfl
@[simp] theorem Group.putLq_saver (n : Nat) (es : List QEntry) : (g.putLq n es).saver = g.saver := rfl
@[simp] theorem Group.putLq_pend (n : Nat) (es : List QEntry) : (g.putLq n es).pend = g.pend := rfl
@[simp] theorem Group.putLq_syncsMask (n : Nat) (es : List QEntry) : (g.putLq n es).syncsMask = g.syncsMask := rfl
@[simp] theorem Group.putLq_syncsArrived (n : Nat) (es : List QEntry) : (g.putLq n es).syncsArrived = g.syncsArrived := rfl
@[simp] theorem Group.putLq_syncsBroken (n : Nat) (es : List QEntry) : (g.putLq n es).syncsBroken = g.syncsBroken := rfl
@[simp] theorem Group.putLq_watchdog (n : Nat) (es : List QEntry) : (g.putLq n es).watchdog = g.watchdog := rfl
@[simp] theorem Group.putLq_yielded (n : Nat) (es : List QEntry) : (g.putLq n es).yielded = g.yielded := rfl
@[simp] theorem Group.putLq_icntC (n : Nat) (es : List QEntry) : (g.putLq n es).icntC = g.icntC := rfl
@[simp] theorem Group.putLq_icntA (n : Nat) (es : List QEntry) : (g.putLq n es).icntA = g.icntA := rfl
@[simp] theorem Group.putLq_lastC (n : Nat) (es : List QEntry) : (g.putLq n es).lastC = g.lastC := rfl
@[simp] theorem Group.putLq_lastA (n : Nat) (es : List QEntry) : (g.putLq n es).lastA = g.lastA := rfl
@[simp] theorem Group.putLq_nextId (n : Nat) (es : List QEntry) : (g.putLq n es).nextId = g.nextId := rfl
@[simp] theorem Group.putLq_poison (n : Nat) (es : List QEntry) : (g.putLq n es).poison = g.poison := rfl
@[simp] theorem Group.putLq_cycles (n : Nat) (es : List QEntry) : (g.putLq n es).cycles = g.cycles := rfl
@[simp] theorem Group.putLq_amark (n : Nat) (es : List QEntry) : (g.putLq n es).amark = g.amark := rfl
/-! raise. -/
@[simp] theorem Group.raise_wg (x : Flags) : (g.raise x).wg = g.wg := rfl
@[simp] theorem Group.raise_gi (x : Flags) : (g.raise x).gi = g.gi := rfl
@[simp] theorem Group.raise_present (x : Flags) : (g.raise x).present = g.present := rfl
@[simp] theorem Group.raise_exited (x : Flags) : (g.raise x).exited = g.exited := rfl
@[simp] theorem Group.raise_v (x : Flags) : (g.raise x).v = g.v := rfl
@[simp] theorem Group.raise_p (x : Flags) : (g.raise x).p = g.p := rfl
@[simp] theorem Group.raise_s (x : Flags) : (g.raise x).s = g.s := rfl
@[simp] theorem Group.raise_a (x : Flags) : (g.raise x).a = g.a := rfl
@[simp] theorem Group.raise_d (x : Flags) : (g.raise x).d = g.d := rfl
@[simp] theorem Group.raise_mode (x : Flags) : (g.raise x).mode = g.mode := rfl
@[simp] theorem Group.raise_guards (x : Flags) : (g.raise x).guards = g.guards := rfl
@[simp] theorem Group.raise_tiles (x : Flags) : (g.raise x).tiles = g.tiles := rfl
@[simp] theorem Group.raise_lq (x : Flags) : (g.raise x).lq = g.lq := rfl
@[simp] theorem Group.raise_sq (x : Flags) : (g.raise x).sq = g.sq := rfl
@[simp] theorem Group.raise_xq (x : Flags) : (g.raise x).xq = g.xq := rfl
@[simp] theorem Group.raise_wbC (x : Flags) : (g.raise x).wbC = g.wbC := rfl
@[simp] theorem Group.raise_wbA (x : Flags) : (g.raise x).wbA = g.wbA := rfl
@[simp] theorem Group.raise_splits (x : Flags) : (g.raise x).splits = g.splits := rfl
@[simp] theorem Group.raise_pending (x : Flags) : (g.raise x).pending = g.pending := rfl
@[simp] theorem Group.raise_elder (x : Flags) : (g.raise x).elder = g.elder := rfl
@[simp] theorem Group.raise_parked (x : Flags) : (g.raise x).parked = g.parked := rfl
@[simp] theorem Group.raise_apc (x : Flags) : (g.raise x).apc = g.apc := rfl
@[simp] theorem Group.raise_aend (x : Flags) : (g.raise x).aend = g.aend := rfl
@[simp] theorem Group.raise_await (x : Flags) : (g.raise x).await = g.await := rfl
@[simp] theorem Group.raise_spilling (x : Flags) : (g.raise x).spilling = g.spilling := rfl
@[simp] theorem Group.raise_astall (x : Flags) : (g.raise x).astall = g.astall := rfl
@[simp] theorem Group.raise_memq (x : Flags) : (g.raise x).memq = g.memq := rfl
@[simp] theorem Group.raise_tcause (x : Flags) : (g.raise x).tcause = g.tcause := rfl
@[simp] theorem Group.raise_tpc (x : Flags) : (g.raise x).tpc = g.tpc := rfl
@[simp] theorem Group.raise_tinfo (x : Flags) : (g.raise x).tinfo = g.tinfo := rfl
@[simp] theorem Group.raise_taddr (x : Flags) : (g.raise x).taddr = g.taddr := rfl
@[simp] theorem Group.raise_tlevel (x : Flags) : (g.raise x).tlevel = g.tlevel := rfl
@[simp] theorem Group.raise_handler (x : Flags) : (g.raise x).handler = g.handler := rfl
@[simp] theorem Group.raise_frame (x : Flags) : (g.raise x).frame = g.frame := rfl
@[simp] theorem Group.raise_entering (x : Flags) : (g.raise x).entering = g.entering := rfl
@[simp] theorem Group.raise_saver (x : Flags) : (g.raise x).saver = g.saver := rfl
@[simp] theorem Group.raise_pend (x : Flags) : (g.raise x).pend = g.pend := rfl
@[simp] theorem Group.raise_syncsMask (x : Flags) : (g.raise x).syncsMask = g.syncsMask := rfl
@[simp] theorem Group.raise_syncsArrived (x : Flags) : (g.raise x).syncsArrived = g.syncsArrived := rfl
@[simp] theorem Group.raise_syncsBroken (x : Flags) : (g.raise x).syncsBroken = g.syncsBroken := rfl
@[simp] theorem Group.raise_watchdog (x : Flags) : (g.raise x).watchdog = g.watchdog := rfl
@[simp] theorem Group.raise_yielded (x : Flags) : (g.raise x).yielded = g.yielded := rfl
@[simp] theorem Group.raise_icntC (x : Flags) : (g.raise x).icntC = g.icntC := rfl
@[simp] theorem Group.raise_icntA (x : Flags) : (g.raise x).icntA = g.icntA := rfl
@[simp] theorem Group.raise_lastC (x : Flags) : (g.raise x).lastC = g.lastC := rfl
@[simp] theorem Group.raise_lastA (x : Flags) : (g.raise x).lastA = g.lastA := rfl
@[simp] theorem Group.raise_nextId (x : Flags) : (g.raise x).nextId = g.nextId := rfl
@[simp] theorem Group.raise_poison (x : Flags) : (g.raise x).poison = g.poison := rfl
@[simp] theorem Group.raise_cycles (x : Flags) : (g.raise x).cycles = g.cycles := rfl
@[simp] theorem Group.raise_amark (x : Flags) : (g.raise x).amark = g.amark := rfl

/-! Reading back. -/
@[simp] theorem Group.getS_putS (r : Nat) (x : Word) : (g.putS r x).getS r = x := mgetD_mput_same _ _ _ _
theorem Group.getS_putS_other (r k : Nat) (x : Word) (h : k ≠ r) : (g.putS r x).getS k = g.getS k := mgetD_mput_other _ _ _ _ _ h
@[simp] theorem Group.getA_zero : g.getA 0 = 0 := rfl
theorem Group.getA_putA (r : Nat) (x : Word) (h : r ≠ 0) : (g.putA r x).getA r = x := by
  simp only [Group.getA, Group.putA, h, if_false]
  exact mgetD_mput_same _ _ _ _
theorem Group.getA_putA_other (r k : Nat) (x : Word) (h : k ≠ r) : (g.putA r x).getA k = g.getA k := by
  unfold Group.getA Group.putA
  split
  · rfl
  · split
    · rfl
    · exact mgetD_mput_other _ _ _ _ _ h
@[simp] theorem Group.getV_putV (r : Nat) (x b : Row) : (g.putV r x b).getV r = mergeRow (g.getV r) x b := mgetD_mput_same _ _ _ _
theorem Group.getV_putV_other (r k : Nat) (x b : Row) (h : k ≠ r) : (g.putV r x b).getV k = g.getV k := mgetD_mput_other _ _ _ _ _ h
@[simp] theorem Group.getP_putP (r : Nat) (x b : ByteMask) : (g.putP r x b).getP r = (g.getP r &&& ~~~b) ||| (x &&& b) := mgetD_mput_same _ _ _ _
theorem Group.getP_putP_other (r k : Nat) (x b : ByteMask) (h : k ≠ r) : (g.putP r x b).getP k = g.getP k := mgetD_mput_other _ _ _ _ _ h
theorem Group.getD_putD (r : Nat) (x : BitVec 16) (h : r ≠ 0) : (g.putD r x).getD r = x := by
  simp only [Group.getD, Group.putD, h, if_false]
  exact mgetD_mput_same _ _ _ _
@[simp] theorem Group.getLq_putLq (n : Nat) (es : List QEntry) : (g.putLq n es).getLq n = es := mgetD_mput_same _ _ _ _

end Sys2Proof.Machine
end

