-- ==== Sys2Proof/Laws/State.lean ====
section
/-! SUPPORT. What each update of the state leaves as it was, field by field, and what it puts where it acts: so that no proof unfolds a record update. -/

namespace Sys2Proof.Machine

variable (st : State)

/-! updDie. -/
@[simp] theorem State.updDie_mem (d : Nat) (f : Die → Die) : (st.updDie d f).mem = st.mem := rfl
@[simp] theorem State.updDie_poisoned (d : Nat) (f : Die → Die) : (st.updDie d f).poisoned = st.poisoned := rfl
@[simp] theorem State.updDie_cachePoison (d : Nat) (f : Die → Die) : (st.updDie d f).cachePoison = st.cachePoison := rfl
@[simp] theorem State.updDie_uBytes (d : Nat) (f : Die → Die) : (st.updDie d f).uBytes = st.uBytes := rfl
@[simp] theorem State.updDie_groups (d : Nat) (f : Die → Die) : (st.updDie d f).groups = st.groups := rfl
@[simp] theorem State.updDie_workgroups (d : Nat) (f : Die → Die) : (st.updDie d f).workgroups = st.workgroups := rfl
@[simp] theorem State.updDie_grids (d : Nat) (f : Die → Die) : (st.updDie d f).grids = st.grids := rfl
@[simp] theorem State.updDie_launches (d : Nat) (f : Die → Die) : (st.updDie d f).launches = st.launches := rfl
@[simp] theorem State.updDie_ctxs (d : Nat) (f : Die → Die) : (st.updDie d f).ctxs = st.ctxs := rfl
@[simp] theorem State.updDie_cores (d : Nat) (f : Die → Die) : (st.updDie d f).cores = st.cores := rfl
@[simp] theorem State.updDie_clusters (d : Nat) (f : Die → Die) : (st.updDie d f).clusters = st.clusters := rfl
@[simp] theorem State.updDie_spillways (d : Nat) (f : Die → Die) : (st.updDie d f).spillways = st.spillways := rfl
@[simp] theorem State.updDie_dir (d : Nat) (f : Die → Die) : (st.updDie d f).dir = st.dir := rfl
@[simp] theorem State.updDie_l3 (d : Nat) (f : Die → Die) : (st.updDie d f).l3 = st.l3 := rfl
@[simp] theorem State.updDie_moveQ (d : Nat) (f : Die → Die) : (st.updDie d f).moveQ = st.moveQ := rfl
@[simp] theorem State.updDie_tlb (d : Nat) (f : Die → Die) : (st.updDie d f).tlb = st.tlb := rfl
@[simp] theorem State.updDie_ticket (d : Nat) (f : Die → Die) : (st.updDie d f).ticket = st.ticket := rfl
@[simp] theorem State.updDie_devno (d : Nat) (f : Die → Die) : (st.updDie d f).devno = st.devno := rfl
@[simp] theorem State.updDie_peertmo (d : Nat) (f : Die → Die) : (st.updDie d f).peertmo = st.peertmo := rfl
@[simp] theorem State.updDie_dead (d : Nat) (f : Die → Die) : (st.updDie d f).dead = st.dead := rfl
@[simp] theorem State.updDie_domains (d : Nat) (f : Die → Die) : (st.updDie d f).domains = st.domains := rfl
@[simp] theorem State.updDie_dropcnt (d : Nat) (f : Die → Die) : (st.updDie d f).dropcnt = st.dropcnt := rfl
@[simp] theorem State.updDie_seqOut (d : Nat) (f : Die → Die) : (st.updDie d f).seqOut = st.seqOut := rfl
@[simp] theorem State.updDie_unacked (d : Nat) (f : Die → Die) : (st.updDie d f).unacked = st.unacked := rfl
@[simp] theorem State.updDie_triples (d : Nat) (f : Die → Die) : (st.updDie d f).triples = st.triples := rfl
@[simp] theorem State.updDie_outbox (d : Nat) (f : Die → Die) : (st.updDie d f).outbox = st.outbox := rfl
@[simp] theorem State.updDie_convs (d : Nat) (f : Die → Die) : (st.updDie d f).convs = st.convs := rfl
@[simp] theorem State.updDie_convNum (d : Nat) (f : Die → Die) : (st.updDie d f).convNum = st.convNum := rfl
@[simp] theorem State.updDie_weirs (d : Nat) (f : Die → Die) : (st.updDie d f).weirs = st.weirs := rfl
@[simp] theorem State.updDie_redirs (d : Nat) (f : Die → Die) : (st.updDie d f).redirs = st.redirs := rfl
@[simp] theorem State.updDie_redirHeld (d : Nat) (f : Die → Die) : (st.updDie d f).redirHeld = st.redirHeld := rfl
@[simp] theorem State.updDie_landing (d : Nat) (f : Die → Die) : (st.updDie d f).landing = st.landing := rfl
@[simp] theorem State.updDie_eventQ (d : Nat) (f : Die → Die) : (st.updDie d f).eventQ = st.eventQ := rfl
@[simp] theorem State.updDie_downPorts (d : Nat) (f : Die → Die) : (st.updDie d f).downPorts = st.downPorts := rfl
@[simp] theorem State.updDie_mode (d : Nat) (f : Die → Die) : (st.updDie d f).mode = st.mode := rfl
@[simp] theorem State.updDie_pool (d : Nat) (f : Die → Die) : (st.updDie d f).pool = st.pool := rfl
@[simp] theorem State.updDie_ctlPort (d : Nat) (f : Die → Die) : (st.updDie d f).ctlPort = st.ctlPort := rfl
@[simp] theorem State.updDie_ctlToken (d : Nat) (f : Die → Die) : (st.updDie d f).ctlToken = st.ctlToken := rfl
@[simp] theorem State.updDie_ctlLease (d : Nat) (f : Die → Die) : (st.updDie d f).ctlLease = st.ctlLease := rfl
@[simp] theorem State.updDie_ports (d : Nat) (f : Die → Die) : (st.updDie d f).ports = st.ports := rfl
@[simp] theorem State.updDie_ctlQ (d : Nat) (f : Die → Die) : (st.updDie d f).ctlQ = st.ctlQ := rfl
@[simp] theorem State.updDie_ctxQ (d : Nat) (f : Die → Die) : (st.updDie d f).ctxQ = st.ctxQ := rfl
@[simp] theorem State.updDie_wQ (d : Nat) (f : Die → Die) : (st.updDie d f).wQ = st.wQ := rfl
@[simp] theorem State.updDie_ckQ (d : Nat) (f : Die → Die) : (st.updDie d f).ckQ = st.ckQ := rfl
@[simp] theorem State.updDie_repQ (d : Nat) (f : Die → Die) : (st.updDie d f).repQ = st.repQ := rfl
@[simp] theorem State.updDie_errWindow (d : Nat) (f : Die → Die) : (st.updDie d f).errWindow = st.errWindow := rfl
@[simp] theorem State.updDie_errThresh (d : Nat) (f : Die → Die) : (st.updDie d f).errThresh = st.errThresh := rfl
@[simp] theorem State.updDie_errEvents (d : Nat) (f : Die → Die) : (st.updDie d f).errEvents = st.errEvents := rfl
@[simp] theorem State.updDie_cuts (d : Nat) (f : Die → Die) : (st.updDie d f).cuts = st.cuts := rfl
@[simp] theorem State.updDie_reelSize (d : Nat) (f : Die → Die) : (st.updDie d f).reelSize = st.reelSize := rfl
@[simp] theorem State.updDie_reelDrain (d : Nat) (f : Die → Die) : (st.updDie d f).reelDrain = st.reelDrain := rfl
@[simp] theorem State.updDie_reelMode (d : Nat) (f : Die → Die) : (st.updDie d f).reelMode = st.reelMode := rfl
@[simp] theorem State.updDie_reels (d : Nat) (f : Die → Die) : (st.updDie d f).reels = st.reels := rfl
@[simp] theorem State.updDie_closedTakes (d : Nat) (f : Die → Die) : (st.updDie d f).closedTakes = st.closedTakes := rfl
@[simp] theorem State.updDie_images (d : Nat) (f : Die → Die) : (st.updDie d f).images = st.images := rfl
@[simp] theorem State.updDie_manifests (d : Nat) (f : Die → Die) : (st.updDie d f).manifests = st.manifests := rfl
@[simp] theorem State.updDie_drBase (d : Nat) (f : Die → Die) : (st.updDie d f).drBase = st.drBase := rfl
@[simp] theorem State.updDie_drSize (d : Nat) (f : Die → Die) : (st.updDie d f).drSize = st.drSize := rfl
@[simp] theorem State.updDie_drCons (d : Nat) (f : Die → Die) : (st.updDie d f).drCons = st.drCons := rfl
@[simp] theorem State.updDie_drProd (d : Nat) (f : Die → Die) : (st.updDie d f).drProd = st.drProd := rfl
@[simp] theorem State.updDie_retiredPipes (d : Nat) (f : Die → Die) : (st.updDie d f).retiredPipes = st.retiredPipes := rfl
@[simp] theorem State.updDie_retiring (d : Nat) (f : Die → Die) : (st.updDie d f).retiring = st.retiring := rfl
@[simp] theorem State.updDie_retiredRows (d : Nat) (f : Die → Die) : (st.updDie d f).retiredRows = st.retiredRows := rfl
@[simp] theorem State.updDie_retiredWays (d : Nat) (f : Die → Die) : (st.updDie d f).retiredWays = st.retiredWays := rfl
@[simp] theorem State.updDie_retiredHbm (d : Nat) (f : Die → Die) : (st.updDie d f).retiredHbm = st.retiredHbm := rfl
@[simp] theorem State.updDie_retiredPages (d : Nat) (f : Die → Die) : (st.updDie d f).retiredPages = st.retiredPages := rfl
@[simp] theorem State.updDie_spareRows (d : Nat) (f : Die → Die) : (st.updDie d f).spareRows = st.spareRows := rfl
@[simp] theorem State.updDie_laneDrops (d : Nat) (f : Die → Die) : (st.updDie d f).laneDrops = st.laneDrops := rfl
@[simp] theorem State.updDie_captureEn (d : Nat) (f : Die → Die) : (st.updDie d f).captureEn = st.captureEn := rfl
@[simp] theorem State.updDie_serialNo (d : Nat) (f : Die → Die) : (st.updDie d f).serialNo = st.serialNo := rfl
@[simp] theorem State.updDie_rowsDue (d : Nat) (f : Die → Die) : (st.updDie d f).rowsDue = st.rowsDue := rfl
@[simp] theorem State.updDie_fwStages (d : Nat) (f : Die → Die) : (st.updDie d f).fwStages = st.fwStages := rfl
@[simp] theorem State.updDie_fwBanks (d : Nat) (f : Die → Die) : (st.updDie d f).fwBanks = st.fwBanks := rfl
@[simp] theorem State.updDie_fwActive (d : Nat) (f : Die → Die) : (st.updDie d f).fwActive = st.fwActive := rfl
@[simp] theorem State.updDie_fwPending (d : Nat) (f : Die → Die) : (st.updDie d f).fwPending = st.fwPending := rfl
@[simp] theorem State.updDie_fwFuse (d : Nat) (f : Die → Die) : (st.updDie d f).fwFuse = st.fwFuse := rfl
@[simp] theorem State.updDie_recovery (d : Nat) (f : Die → Die) : (st.updDie d f).recovery = st.recovery := rfl
@[simp] theorem State.updDie_mgmtAddr (d : Nat) (f : Die → Die) : (st.updDie d f).mgmtAddr = st.mgmtAddr := rfl
@[simp] theorem State.updDie_mgmtSources (d : Nat) (f : Die → Die) : (st.updDie d f).mgmtSources = st.mgmtSources := rfl
@[simp] theorem State.updDie_mgmtSeen (d : Nat) (f : Die → Die) : (st.updDie d f).mgmtSeen = st.mgmtSeen := rfl
@[simp] theorem State.updDie_mgmtOut (d : Nat) (f : Die → Die) : (st.updDie d f).mgmtOut = st.mgmtOut := rfl
@[simp] theorem State.updDie_clock (d : Nat) (f : Die → Die) : (st.updDie d f).clock = st.clock := rfl
@[simp] theorem State.updDie_hubcyc (d : Nat) (f : Die → Die) : (st.updDie d f).hubcyc = st.hubcyc := rfl
@[simp] theorem State.updDie_tai (d : Nat) (f : Die → Die) : (st.updDie d f).tai = st.tai := rfl
@[simp] theorem State.updDie_ptpLocked (d : Nat) (f : Die → Die) : (st.updDie d f).ptpLocked = st.ptpLocked := rfl
@[simp] theorem State.updDie_ptpSince (d : Nat) (f : Die → Die) : (st.updDie d f).ptpSince = st.ptpSince := rfl
@[simp] theorem State.updDie_ptpSlew (d : Nat) (f : Die → Die) : (st.updDie d f).ptpSlew = st.ptpSlew := rfl
@[simp] theorem State.updDie_ptpRem (d : Nat) (f : Die → Die) : (st.updDie d f).ptpRem = st.ptpRem := rfl
@[simp] theorem State.updDie_ptpDomain (d : Nat) (f : Die → Die) : (st.updDie d f).ptpDomain = st.ptpDomain := rfl
@[simp] theorem State.updDie_throttled (d : Nat) (f : Die → Die) : (st.updDie d f).throttled = st.throttled := rfl
@[simp] theorem State.updDie_cxlHost (d : Nat) (f : Die → Die) : (st.updDie d f).cxlHost = st.cxlHost := rfl
@[simp] theorem State.updDie_frozen (d : Nat) (f : Die → Die) : (st.updDie d f).frozen = st.frozen := rfl
@[simp] theorem State.updDie_power (d : Nat) (f : Die → Die) : (st.updDie d f).power = st.power := rfl
@[simp] theorem State.updDie_idleFor (d : Nat) (f : Die → Die) : (st.updDie d f).idleFor = st.idleFor := rfl
@[simp] theorem State.updDie_signals (d : Nat) (f : Die → Die) : (st.updDie d f).signals = st.signals := rfl
@[simp] theorem State.updDie_agenda (d : Nat) (f : Die → Die) : (st.updDie d f).agenda = st.agenda := rfl
@[simp] theorem State.updDie_cursor (d : Nat) (f : Die → Die) : (st.updDie d f).cursor = st.cursor := rfl
@[simp] theorem State.updDie_issuer (d : Nat) (f : Die → Die) : (st.updDie d f).issuer = st.issuer := rfl
@[simp] theorem State.updDie_free (d : Nat) (f : Die → Die) : (st.updDie d f).free = st.free := rfl
@[simp] theorem State.updDie_issueNo (d : Nat) (f : Die → Die) : (st.updDie d f).issueNo = st.issueNo := rfl
@[simp] theorem State.updDie_taiRem (d : Nat) (f : Die → Die) : (st.updDie d f).taiRem = st.taiRem := rfl
/-! updCore. -/
@[simp] theorem State.updCore_mem (c : Nat) (f : Core → Core) : (st.updCore c f).mem = st.mem := rfl
@[simp] theorem State.updCore_poisoned (c : Nat) (f : Core → Core) : (st.updCore c f).poisoned = st.poisoned := rfl
@[simp] theorem State.updCore_cachePoison (c : Nat) (f : Core → Core) : (st.updCore c f).cachePoison = st.cachePoison := rfl
@[simp] theorem State.updCore_uBytes (c : Nat) (f : Core → Core) : (st.updCore c f).uBytes = st.uBytes := rfl
@[simp] theorem State.updCore_groups (c : Nat) (f : Core → Core) : (st.updCore c f).groups = st.groups := rfl
@[simp] theorem State.updCore_workgroups (c : Nat) (f : Core → Core) : (st.updCore c f).workgroups = st.workgroups := rfl
@[simp] theorem State.updCore_grids (c : Nat) (f : Core → Core) : (st.updCore c f).grids = st.grids := rfl
@[simp] theorem State.updCore_launches (c : Nat) (f : Core → Core) : (st.updCore c f).launches = st.launches := rfl
@[simp] theorem State.updCore_ctxs (c : Nat) (f : Core → Core) : (st.updCore c f).ctxs = st.ctxs := rfl
@[simp] theorem State.updCore_clusters (c : Nat) (f : Core → Core) : (st.updCore c f).clusters = st.clusters := rfl
@[simp] theorem State.updCore_dies (c : Nat) (f : Core → Core) : (st.updCore c f).dies = st.dies := rfl
@[simp] theorem State.updCore_spillways (c : Nat) (f : Core → Core) : (st.updCore c f).spillways = st.spillways := rfl
@[simp] theorem State.updCore_dir (c : Nat) (f : Core → Core) : (st.updCore c f).dir = st.dir := rfl
@[simp] theorem State.updCore_l3 (c : Nat) (f : Core → Core) : (st.updCore c f).l3 = st.l3 := rfl
@[simp] theorem State.updCore_moveQ (c : Nat) (f : Core → Core) : (st.updCore c f).moveQ = st.moveQ := rfl
@[simp] theorem State.updCore_tlb (c : Nat) (f : Core → Core) : (st.updCore c f).tlb = st.tlb := rfl
@[simp] theorem State.updCore_ticket (c : Nat) (f : Core → Core) : (st.updCore c f).ticket = st.ticket := rfl
@[simp] theorem State.updCore_devno (c : Nat) (f : Core → Core) : (st.updCore c f).devno = st.devno := rfl
@[simp] theorem State.updCore_peertmo (c : Nat) (f : Core → Core) : (st.updCore c f).peertmo = st.peertmo := rfl
@[simp] theorem State.updCore_dead (c : Nat) (f : Core → Core) : (st.updCore c f).dead = st.dead := rfl
@[simp] theorem State.updCore_domains (c : Nat) (f : Core → Core) : (st.updCore c f).domains = st.domains := rfl
@[simp] theorem State.updCore_dropcnt (c : Nat) (f : Core → Core) : (st.updCore c f).dropcnt = st.dropcnt := rfl
@[simp] theorem State.updCore_seqOut (c : Nat) (f : Core → Core) : (st.updCore c f).seqOut = st.seqOut := rfl
@[simp] theorem State.updCore_unacked (c : Nat) (f : Core → Core) : (st.updCore c f).unacked = st.unacked := rfl
@[simp] theorem State.updCore_triples (c : Nat) (f : Core → Core) : (st.updCore c f).triples = st.triples := rfl
@[simp] theorem State.updCore_outbox (c : Nat) (f : Core → Core) : (st.updCore c f).outbox = st.outbox := rfl
@[simp] theorem State.updCore_convs (c : Nat) (f : Core → Core) : (st.updCore c f).convs = st.convs := rfl
@[simp] theorem State.updCore_convNum (c : Nat) (f : Core → Core) : (st.updCore c f).convNum = st.convNum := rfl
@[simp] theorem State.updCore_weirs (c : Nat) (f : Core → Core) : (st.updCore c f).weirs = st.weirs := rfl
@[simp] theorem State.updCore_redirs (c : Nat) (f : Core → Core) : (st.updCore c f).redirs = st.redirs := rfl
@[simp] theorem State.updCore_redirHeld (c : Nat) (f : Core → Core) : (st.updCore c f).redirHeld = st.redirHeld := rfl
@[simp] theorem State.updCore_landing (c : Nat) (f : Core → Core) : (st.updCore c f).landing = st.landing := rfl
@[simp] theorem State.updCore_eventQ (c : Nat) (f : Core → Core) : (st.updCore c f).eventQ = st.eventQ := rfl
@[simp] theorem State.updCore_downPorts (c : Nat) (f : Core → Core) : (st.updCore c f).downPorts = st.downPorts := rfl
@[simp] theorem State.updCore_mode (c : Nat) (f : Core → Core) : (st.updCore c f).mode = st.mode := rfl
@[simp] theorem State.updCore_pool (c : Nat) (f : Core → Core) : (st.updCore c f).pool = st.pool := rfl
@[simp] theorem State.updCore_ctlPort (c : Nat) (f : Core → Core) : (st.updCore c f).ctlPort = st.ctlPort := rfl
@[simp] theorem State.updCore_ctlToken (c : Nat) (f : Core → Core) : (st.updCore c f).ctlToken = st.ctlToken := rfl
@[simp] theorem State.updCore_ctlLease (c : Nat) (f : Core → Core) : (st.updCore c f).ctlLease = st.ctlLease := rfl
@[simp] theorem State.updCore_ports (c : Nat) (f : Core → Core) : (st.updCore c f).ports = st.ports := rfl
@[simp] theorem State.updCore_ctlQ (c : Nat) (f : Core → Core) : (st.updCore c f).ctlQ = st.ctlQ := rfl
@[simp] theorem State.updCore_ctxQ (c : Nat) (f : Core → Core) : (st.updCore c f).ctxQ = st.ctxQ := rfl
@[simp] theorem State.updCore_wQ (c : Nat) (f : Core → Core) : (st.updCore c f).wQ = st.wQ := rfl
@[simp] theorem State.updCore_ckQ (c : Nat) (f : Core → Core) : (st.updCore c f).ckQ = st.ckQ := rfl
@[simp] theorem State.updCore_repQ (c : Nat) (f : Core → Core) : (st.updCore c f).repQ = st.repQ := rfl
@[simp] theorem State.updCore_errWindow (c : Nat) (f : Core → Core) : (st.updCore c f).errWindow = st.errWindow := rfl
@[simp] theorem State.updCore_errThresh (c : Nat) (f : Core → Core) : (st.updCore c f).errThresh = st.errThresh := rfl
@[simp] theorem State.updCore_errEvents (c : Nat) (f : Core → Core) : (st.updCore c f).errEvents = st.errEvents := rfl
@[simp] theorem State.updCore_cuts (c : Nat) (f : Core → Core) : (st.updCore c f).cuts = st.cuts := rfl
@[simp] theorem State.updCore_reelSize (c : Nat) (f : Core → Core) : (st.updCore c f).reelSize = st.reelSize := rfl
@[simp] theorem State.updCore_reelDrain (c : Nat) (f : Core → Core) : (st.updCore c f).reelDrain = st.reelDrain := rfl
@[simp] theorem State.updCore_reelMode (c : Nat) (f : Core → Core) : (st.updCore c f).reelMode = st.reelMode := rfl
@[simp] theorem State.updCore_reels (c : Nat) (f : Core → Core) : (st.updCore c f).reels = st.reels := rfl
@[simp] theorem State.updCore_closedTakes (c : Nat) (f : Core → Core) : (st.updCore c f).closedTakes = st.closedTakes := rfl
@[simp] theorem State.updCore_images (c : Nat) (f : Core → Core) : (st.updCore c f).images = st.images := rfl
@[simp] theorem State.updCore_manifests (c : Nat) (f : Core → Core) : (st.updCore c f).manifests = st.manifests := rfl
@[simp] theorem State.updCore_drBase (c : Nat) (f : Core → Core) : (st.updCore c f).drBase = st.drBase := rfl
@[simp] theorem State.updCore_drSize (c : Nat) (f : Core → Core) : (st.updCore c f).drSize = st.drSize := rfl
@[simp] theorem State.updCore_drCons (c : Nat) (f : Core → Core) : (st.updCore c f).drCons = st.drCons := rfl
@[simp] theorem State.updCore_drProd (c : Nat) (f : Core → Core) : (st.updCore c f).drProd = st.drProd := rfl
@[simp] theorem State.updCore_retiredPipes (c : Nat) (f : Core → Core) : (st.updCore c f).retiredPipes = st.retiredPipes := rfl
@[simp] theorem State.updCore_retiring (c : Nat) (f : Core → Core) : (st.updCore c f).retiring = st.retiring := rfl
@[simp] theorem State.updCore_retiredRows (c : Nat) (f : Core → Core) : (st.updCore c f).retiredRows = st.retiredRows := rfl
@[simp] theorem State.updCore_retiredWays (c : Nat) (f : Core → Core) : (st.updCore c f).retiredWays = st.retiredWays := rfl
@[simp] theorem State.updCore_retiredHbm (c : Nat) (f : Core → Core) : (st.updCore c f).retiredHbm = st.retiredHbm := rfl
@[simp] theorem State.updCore_retiredPages (c : Nat) (f : Core → Core) : (st.updCore c f).retiredPages = st.retiredPages := rfl
@[simp] theorem State.updCore_spareRows (c : Nat) (f : Core → Core) : (st.updCore c f).spareRows = st.spareRows := rfl
@[simp] theorem State.updCore_laneDrops (c : Nat) (f : Core → Core) : (st.updCore c f).laneDrops = st.laneDrops := rfl
@[simp] theorem State.updCore_captureEn (c : Nat) (f : Core → Core) : (st.updCore c f).captureEn = st.captureEn := rfl
@[simp] theorem State.updCore_serialNo (c : Nat) (f : Core → Core) : (st.updCore c f).serialNo = st.serialNo := rfl
@[simp] theorem State.updCore_rowsDue (c : Nat) (f : Core → Core) : (st.updCore c f).rowsDue = st.rowsDue := rfl
@[simp] theorem State.updCore_fwStages (c : Nat) (f : Core → Core) : (st.updCore c f).fwStages = st.fwStages := rfl
@[simp] theorem State.updCore_fwBanks (c : Nat) (f : Core → Core) : (st.updCore c f).fwBanks = st.fwBanks := rfl
@[simp] theorem State.updCore_fwActive (c : Nat) (f : Core → Core) : (st.updCore c f).fwActive = st.fwActive := rfl
@[simp] theorem State.updCore_fwPending (c : Nat) (f : Core → Core) : (st.updCore c f).fwPending = st.fwPending := rfl
@[simp] theorem State.updCore_fwFuse (c : Nat) (f : Core → Core) : (st.updCore c f).fwFuse = st.fwFuse := rfl
@[simp] theorem State.updCore_recovery (c : Nat) (f : Core → Core) : (st.updCore c f).recovery = st.recovery := rfl
@[simp] theorem State.updCore_mgmtAddr (c : Nat) (f : Core → Core) : (st.updCore c f).mgmtAddr = st.mgmtAddr := rfl
@[simp] theorem State.updCore_mgmtSources (c : Nat) (f : Core → Core) : (st.updCore c f).mgmtSources = st.mgmtSources := rfl
@[simp] theorem State.updCore_mgmtSeen (c : Nat) (f : Core → Core) : (st.updCore c f).mgmtSeen = st.mgmtSeen := rfl
@[simp] theorem State.updCore_mgmtOut (c : Nat) (f : Core → Core) : (st.updCore c f).mgmtOut = st.mgmtOut := rfl
@[simp] theorem State.updCore_clock (c : Nat) (f : Core → Core) : (st.updCore c f).clock = st.clock := rfl
@[simp] theorem State.updCore_hubcyc (c : Nat) (f : Core → Core) : (st.updCore c f).hubcyc = st.hubcyc := rfl
@[simp] theorem State.updCore_tai (c : Nat) (f : Core → Core) : (st.updCore c f).tai = st.tai := rfl
@[simp] theorem State.updCore_ptpLocked (c : Nat) (f : Core → Core) : (st.updCore c f).ptpLocked = st.ptpLocked := rfl
@[simp] theorem State.updCore_ptpSince (c : Nat) (f : Core → Core) : (st.updCore c f).ptpSince = st.ptpSince := rfl
@[simp] theorem State.updCore_ptpSlew (c : Nat) (f : Core → Core) : (st.updCore c f).ptpSlew = st.ptpSlew := rfl
@[simp] theorem State.updCore_ptpRem (c : Nat) (f : Core → Core) : (st.updCore c f).ptpRem = st.ptpRem := rfl
@[simp] theorem State.updCore_ptpDomain (c : Nat) (f : Core → Core) : (st.updCore c f).ptpDomain = st.ptpDomain := rfl
@[simp] theorem State.updCore_throttled (c : Nat) (f : Core → Core) : (st.updCore c f).throttled = st.throttled := rfl
@[simp] theorem State.updCore_cxlHost (c : Nat) (f : Core → Core) : (st.updCore c f).cxlHost = st.cxlHost := rfl
@[simp] theorem State.updCore_frozen (c : Nat) (f : Core → Core) : (st.updCore c f).frozen = st.frozen := rfl
@[simp] theorem State.updCore_power (c : Nat) (f : Core → Core) : (st.updCore c f).power = st.power := rfl
@[simp] theorem State.updCore_idleFor (c : Nat) (f : Core → Core) : (st.updCore c f).idleFor = st.idleFor := rfl
@[simp] theorem State.updCore_signals (c : Nat) (f : Core → Core) : (st.updCore c f).signals = st.signals := rfl
@[simp] theorem State.updCore_agenda (c : Nat) (f : Core → Core) : (st.updCore c f).agenda = st.agenda := rfl
@[simp] theorem State.updCore_cursor (c : Nat) (f : Core → Core) : (st.updCore c f).cursor = st.cursor := rfl
@[simp] theorem State.updCore_issuer (c : Nat) (f : Core → Core) : (st.updCore c f).issuer = st.issuer := rfl
@[simp] theorem State.updCore_free (c : Nat) (f : Core → Core) : (st.updCore c f).free = st.free := rfl
@[simp] theorem State.updCore_issueNo (c : Nat) (f : Core → Core) : (st.updCore c f).issueNo = st.issueNo := rfl
@[simp] theorem State.updCore_taiRem (c : Nat) (f : Core → Core) : (st.updCore c f).taiRem = st.taiRem := rfl
/-! updCluster. -/
@[simp] theorem State.updCluster_mem (c : Nat) (f : Cluster → Cluster) : (st.updCluster c f).mem = st.mem := rfl
@[simp] theorem State.updCluster_poisoned (c : Nat) (f : Cluster → Cluster) : (st.updCluster c f).poisoned = st.poisoned := rfl
@[simp] theorem State.updCluster_cachePoison (c : Nat) (f : Cluster → Cluster) : (st.updCluster c f).cachePoison = st.cachePoison := rfl
@[simp] theorem State.updCluster_uBytes (c : Nat) (f : Cluster → Cluster) : (st.updCluster c f).uBytes = st.uBytes := rfl
@[simp] theorem State.updCluster_groups (c : Nat) (f : Cluster → Cluster) : (st.updCluster c f).groups = st.groups := rfl
@[simp] theorem State.updCluster_workgroups (c : Nat) (f : Cluster → Cluster) : (st.updCluster c f).workgroups = st.workgroups := rfl
@[simp] theorem State.updCluster_grids (c : Nat) (f : Cluster → Cluster) : (st.updCluster c f).grids = st.grids := rfl
@[simp] theorem State.updCluster_launches (c : Nat) (f : Cluster → Cluster) : (st.updCluster c f).launches = st.launches := rfl
@[simp] theorem State.updCluster_ctxs (c : Nat) (f : Cluster → Cluster) : (st.updCluster c f).ctxs = st.ctxs := rfl
@[simp] theorem State.updCluster_cores (c : Nat) (f : Cluster → Cluster) : (st.updCluster c f).cores = st.cores := rfl
@[simp] theorem State.updCluster_dies (c : Nat) (f : Cluster → Cluster) : (st.updCluster c f).dies = st.dies := rfl
@[simp] theorem State.updCluster_spillways (c : Nat) (f : Cluster → Cluster) : (st.updCluster c f).spillways = st.spillways := rfl
@[simp] theorem State.updCluster_dir (c : Nat) (f : Cluster → Cluster) : (st.updCluster c f).dir = st.dir := rfl
@[simp] theorem State.updCluster_l3 (c : Nat) (f : Cluster → Cluster) : (st.updCluster c f).l3 = st.l3 := rfl
@[simp] theorem State.updCluster_moveQ (c : Nat) (f : Cluster → Cluster) : (st.updCluster c f).moveQ = st.moveQ := rfl
@[simp] theorem State.updCluster_tlb (c : Nat) (f : Cluster → Cluster) : (st.updCluster c f).tlb = st.tlb := rfl
@[simp] theorem State.updCluster_ticket (c : Nat) (f : Cluster → Cluster) : (st.updCluster c f).ticket = st.ticket := rfl
@[simp] theorem State.updCluster_devno (c : Nat) (f : Cluster → Cluster) : (st.updCluster c f).devno = st.devno := rfl
@[simp] theorem State.updCluster_peertmo (c : Nat) (f : Cluster → Cluster) : (st.updCluster c f).peertmo = st.peertmo := rfl
@[simp] theorem State.updCluster_dead (c : Nat) (f : Cluster → Cluster) : (st.updCluster c f).dead = st.dead := rfl
@[simp] theorem State.updCluster_domains (c : Nat) (f : Cluster → Cluster) : (st.updCluster c f).domains = st.domains := rfl
@[simp] theorem State.updCluster_dropcnt (c : Nat) (f : Cluster → Cluster) : (st.updCluster c f).dropcnt = st.dropcnt := rfl
@[simp] theorem State.updCluster_seqOut (c : Nat) (f : Cluster → Cluster) : (st.updCluster c f).seqOut = st.seqOut := rfl
@[simp] theorem State.updCluster_unacked (c : Nat) (f : Cluster → Cluster) : (st.updCluster c f).unacked = st.unacked := rfl
@[simp] theorem State.updCluster_triples (c : Nat) (f : Cluster → Cluster) : (st.updCluster c f).triples = st.triples := rfl
@[simp] theorem State.updCluster_outbox (c : Nat) (f : Cluster → Cluster) : (st.updCluster c f).outbox = st.outbox := rfl
@[simp] theorem State.updCluster_convs (c : Nat) (f : Cluster → Cluster) : (st.updCluster c f).convs = st.convs := rfl
@[simp] theorem State.updCluster_convNum (c : Nat) (f : Cluster → Cluster) : (st.updCluster c f).convNum = st.convNum := rfl
@[simp] theorem State.updCluster_weirs (c : Nat) (f : Cluster → Cluster) : (st.updCluster c f).weirs = st.weirs := rfl
@[simp] theorem State.updCluster_redirs (c : Nat) (f : Cluster → Cluster) : (st.updCluster c f).redirs = st.redirs := rfl
@[simp] theorem State.updCluster_redirHeld (c : Nat) (f : Cluster → Cluster) : (st.updCluster c f).redirHeld = st.redirHeld := rfl
@[simp] theorem State.updCluster_landing (c : Nat) (f : Cluster → Cluster) : (st.updCluster c f).landing = st.landing := rfl
@[simp] theorem State.updCluster_eventQ (c : Nat) (f : Cluster → Cluster) : (st.updCluster c f).eventQ = st.eventQ := rfl
@[simp] theorem State.updCluster_downPorts (c : Nat) (f : Cluster → Cluster) : (st.updCluster c f).downPorts = st.downPorts := rfl
@[simp] theorem State.updCluster_mode (c : Nat) (f : Cluster → Cluster) : (st.updCluster c f).mode = st.mode := rfl
@[simp] theorem State.updCluster_pool (c : Nat) (f : Cluster → Cluster) : (st.updCluster c f).pool = st.pool := rfl
@[simp] theorem State.updCluster_ctlPort (c : Nat) (f : Cluster → Cluster) : (st.updCluster c f).ctlPort = st.ctlPort := rfl
@[simp] theorem State.updCluster_ctlToken (c : Nat) (f : Cluster → Cluster) : (st.updCluster c f).ctlToken = st.ctlToken := rfl
@[simp] theorem State.updCluster_ctlLease (c : Nat) (f : Cluster → Cluster) : (st.updCluster c f).ctlLease = st.ctlLease := rfl
@[simp] theorem State.updCluster_ports (c : Nat) (f : Cluster → Cluster) : (st.updCluster c f).ports = st.ports := rfl
@[simp] theorem State.updCluster_ctlQ (c : Nat) (f : Cluster → Cluster) : (st.updCluster c f).ctlQ = st.ctlQ := rfl
@[simp] theorem State.updCluster_ctxQ (c : Nat) (f : Cluster → Cluster) : (st.updCluster c f).ctxQ = st.ctxQ := rfl
@[simp] theorem State.updCluster_wQ (c : Nat) (f : Cluster → Cluster) : (st.updCluster c f).wQ = st.wQ := rfl
@[simp] theorem State.updCluster_ckQ (c : Nat) (f : Cluster → Cluster) : (st.updCluster c f).ckQ = st.ckQ := rfl
@[simp] theorem State.updCluster_repQ (c : Nat) (f : Cluster → Cluster) : (st.updCluster c f).repQ = st.repQ := rfl
@[simp] theorem State.updCluster_errWindow (c : Nat) (f : Cluster → Cluster) : (st.updCluster c f).errWindow = st.errWindow := rfl
@[simp] theorem State.updCluster_errThresh (c : Nat) (f : Cluster → Cluster) : (st.updCluster c f).errThresh = st.errThresh := rfl
@[simp] theorem State.updCluster_errEvents (c : Nat) (f : Cluster → Cluster) : (st.updCluster c f).errEvents = st.errEvents := rfl
@[simp] theorem State.updCluster_cuts (c : Nat) (f : Cluster → Cluster) : (st.updCluster c f).cuts = st.cuts := rfl
@[simp] theorem State.updCluster_reelSize (c : Nat) (f : Cluster → Cluster) : (st.updCluster c f).reelSize = st.reelSize := rfl
@[simp] theorem State.updCluster_reelDrain (c : Nat) (f : Cluster → Cluster) : (st.updCluster c f).reelDrain = st.reelDrain := rfl
@[simp] theorem State.updCluster_reelMode (c : Nat) (f : Cluster → Cluster) : (st.updCluster c f).reelMode = st.reelMode := rfl
@[simp] theorem State.updCluster_reels (c : Nat) (f : Cluster → Cluster) : (st.updCluster c f).reels = st.reels := rfl
@[simp] theorem State.updCluster_closedTakes (c : Nat) (f : Cluster → Cluster) : (st.updCluster c f).closedTakes = st.closedTakes := rfl
@[simp] theorem State.updCluster_images (c : Nat) (f : Cluster → Cluster) : (st.updCluster c f).images = st.images := rfl
@[simp] theorem State.updCluster_manifests (c : Nat) (f : Cluster → Cluster) : (st.updCluster c f).manifests = st.manifests := rfl
@[simp] theorem State.updCluster_drBase (c : Nat) (f : Cluster → Cluster) : (st.updCluster c f).drBase = st.drBase := rfl
@[simp] theorem State.updCluster_drSize (c : Nat) (f : Cluster → Cluster) : (st.updCluster c f).drSize = st.drSize := rfl
@[simp] theorem State.updCluster_drCons (c : Nat) (f : Cluster → Cluster) : (st.updCluster c f).drCons = st.drCons := rfl
@[simp] theorem State.updCluster_drProd (c : Nat) (f : Cluster → Cluster) : (st.updCluster c f).drProd = st.drProd := rfl
@[simp] theorem State.updCluster_retiredPipes (c : Nat) (f : Cluster → Cluster) : (st.updCluster c f).retiredPipes = st.retiredPipes := rfl
@[simp] theorem State.updCluster_retiring (c : Nat) (f : Cluster → Cluster) : (st.updCluster c f).retiring = st.retiring := rfl
@[simp] theorem State.updCluster_retiredRows (c : Nat) (f : Cluster → Cluster) : (st.updCluster c f).retiredRows = st.retiredRows := rfl
@[simp] theorem State.updCluster_retiredWays (c : Nat) (f : Cluster → Cluster) : (st.updCluster c f).retiredWays = st.retiredWays := rfl
@[simp] theorem State.updCluster_retiredHbm (c : Nat) (f : Cluster → Cluster) : (st.updCluster c f).retiredHbm = st.retiredHbm := rfl
@[simp] theorem State.updCluster_retiredPages (c : Nat) (f : Cluster → Cluster) : (st.updCluster c f).retiredPages = st.retiredPages := rfl
@[simp] theorem State.updCluster_spareRows (c : Nat) (f : Cluster → Cluster) : (st.updCluster c f).spareRows = st.spareRows := rfl
@[simp] theorem State.updCluster_laneDrops (c : Nat) (f : Cluster → Cluster) : (st.updCluster c f).laneDrops = st.laneDrops := rfl
@[simp] theorem State.updCluster_captureEn (c : Nat) (f : Cluster → Cluster) : (st.updCluster c f).captureEn = st.captureEn := rfl
@[simp] theorem State.updCluster_serialNo (c : Nat) (f : Cluster → Cluster) : (st.updCluster c f).serialNo = st.serialNo := rfl
@[simp] theorem State.updCluster_rowsDue (c : Nat) (f : Cluster → Cluster) : (st.updCluster c f).rowsDue = st.rowsDue := rfl
@[simp] theorem State.updCluster_fwStages (c : Nat) (f : Cluster → Cluster) : (st.updCluster c f).fwStages = st.fwStages := rfl
@[simp] theorem State.updCluster_fwBanks (c : Nat) (f : Cluster → Cluster) : (st.updCluster c f).fwBanks = st.fwBanks := rfl
@[simp] theorem State.updCluster_fwActive (c : Nat) (f : Cluster → Cluster) : (st.updCluster c f).fwActive = st.fwActive := rfl
@[simp] theorem State.updCluster_fwPending (c : Nat) (f : Cluster → Cluster) : (st.updCluster c f).fwPending = st.fwPending := rfl
@[simp] theorem State.updCluster_fwFuse (c : Nat) (f : Cluster → Cluster) : (st.updCluster c f).fwFuse = st.fwFuse := rfl
@[simp] theorem State.updCluster_recovery (c : Nat) (f : Cluster → Cluster) : (st.updCluster c f).recovery = st.recovery := rfl
@[simp] theorem State.updCluster_mgmtAddr (c : Nat) (f : Cluster → Cluster) : (st.updCluster c f).mgmtAddr = st.mgmtAddr := rfl
@[simp] theorem State.updCluster_mgmtSources (c : Nat) (f : Cluster → Cluster) : (st.updCluster c f).mgmtSources = st.mgmtSources := rfl
@[simp] theorem State.updCluster_mgmtSeen (c : Nat) (f : Cluster → Cluster) : (st.updCluster c f).mgmtSeen = st.mgmtSeen := rfl
@[simp] theorem State.updCluster_mgmtOut (c : Nat) (f : Cluster → Cluster) : (st.updCluster c f).mgmtOut = st.mgmtOut := rfl
@[simp] theorem State.updCluster_clock (c : Nat) (f : Cluster → Cluster) : (st.updCluster c f).clock = st.clock := rfl
@[simp] theorem State.updCluster_hubcyc (c : Nat) (f : Cluster → Cluster) : (st.updCluster c f).hubcyc = st.hubcyc := rfl
@[simp] theorem State.updCluster_tai (c : Nat) (f : Cluster → Cluster) : (st.updCluster c f).tai = st.tai := rfl
@[simp] theorem State.updCluster_ptpLocked (c : Nat) (f : Cluster → Cluster) : (st.updCluster c f).ptpLocked = st.ptpLocked := rfl
@[simp] theorem State.updCluster_ptpSince (c : Nat) (f : Cluster → Cluster) : (st.updCluster c f).ptpSince = st.ptpSince := rfl
@[simp] theorem State.updCluster_ptpSlew (c : Nat) (f : Cluster → Cluster) : (st.updCluster c f).ptpSlew = st.ptpSlew := rfl
@[simp] theorem State.updCluster_ptpRem (c : Nat) (f : Cluster → Cluster) : (st.updCluster c f).ptpRem = st.ptpRem := rfl
@[simp] theorem State.updCluster_ptpDomain (c : Nat) (f : Cluster → Cluster) : (st.updCluster c f).ptpDomain = st.ptpDomain := rfl
@[simp] theorem State.updCluster_throttled (c : Nat) (f : Cluster → Cluster) : (st.updCluster c f).throttled = st.throttled := rfl
@[simp] theorem State.updCluster_cxlHost (c : Nat) (f : Cluster → Cluster) : (st.updCluster c f).cxlHost = st.cxlHost := rfl
@[simp] theorem State.updCluster_frozen (c : Nat) (f : Cluster → Cluster) : (st.updCluster c f).frozen = st.frozen := rfl
@[simp] theorem State.updCluster_power (c : Nat) (f : Cluster → Cluster) : (st.updCluster c f).power = st.power := rfl
@[simp] theorem State.updCluster_idleFor (c : Nat) (f : Cluster → Cluster) : (st.updCluster c f).idleFor = st.idleFor := rfl
@[simp] theorem State.updCluster_signals (c : Nat) (f : Cluster → Cluster) : (st.updCluster c f).signals = st.signals := rfl
@[simp] theorem State.updCluster_agenda (c : Nat) (f : Cluster → Cluster) : (st.updCluster c f).agenda = st.agenda := rfl
@[simp] theorem State.updCluster_cursor (c : Nat) (f : Cluster → Cluster) : (st.updCluster c f).cursor = st.cursor := rfl
@[simp] theorem State.updCluster_issuer (c : Nat) (f : Cluster → Cluster) : (st.updCluster c f).issuer = st.issuer := rfl
@[simp] theorem State.updCluster_free (c : Nat) (f : Cluster → Cluster) : (st.updCluster c f).free = st.free := rfl
@[simp] theorem State.updCluster_issueNo (c : Nat) (f : Cluster → Cluster) : (st.updCluster c f).issueNo = st.issueNo := rfl
@[simp] theorem State.updCluster_taiRem (c : Nat) (f : Cluster → Cluster) : (st.updCluster c f).taiRem = st.taiRem := rfl
/-! putGroup. -/
@[simp] theorem State.putGroup_mem (gid : Nat) (g : Group) : (st.putGroup gid g).mem = st.mem := rfl
@[simp] theorem State.putGroup_poisoned (gid : Nat) (g : Group) : (st.putGroup gid g).poisoned = st.poisoned := rfl
@[simp] theorem State.putGroup_cachePoison (gid : Nat) (g : Group) : (st.putGroup gid g).cachePoison = st.cachePoison := rfl
@[simp] theorem State.putGroup_uBytes (gid : Nat) (g : Group) : (st.putGroup gid g).uBytes = st.uBytes := rfl
@[simp] theorem State.putGroup_workgroups (gid : Nat) (g : Group) : (st.putGroup gid g).workgroups = st.workgroups := rfl
@[simp] theorem State.putGroup_grids (gid : Nat) (g : Group) : (st.putGroup gid g).grids = st.grids := rfl
@[simp] theorem State.putGroup_launches (gid : Nat) (g : Group) : (st.putGroup gid g).launches = st.launches := rfl
@[simp] theorem State.putGroup_ctxs (gid : Nat) (g : Group) : (st.putGroup gid g).ctxs = st.ctxs := rfl
@[simp] theorem State.putGroup_cores (gid : Nat) (g : Group) : (st.putGroup gid g).cores = st.cores := rfl
@[simp] theorem State.putGroup_clusters (gid : Nat) (g : Group) : (st.putGroup gid g).clusters = st.clusters := rfl
@[simp] theorem State.putGroup_dies (gid : Nat) (g : Group) : (st.putGroup gid g).dies = st.dies := rfl
@[simp] theorem State.putGroup_spillways (gid : Nat) (g : Group) : (st.putGroup gid g).spillways = st.spillways := rfl
@[simp] theorem State.putGroup_dir (gid : Nat) (g : Group) : (st.putGroup gid g).dir = st.dir := rfl
@[simp] theorem State.putGroup_l3 (gid : Nat) (g : Group) : (st.putGroup gid g).l3 = st.l3 := rfl
@[simp] theorem State.putGroup_moveQ (gid : Nat) (g : Group) : (st.putGroup gid g).moveQ = st.moveQ := rfl
@[simp] theorem State.putGroup_tlb (gid : Nat) (g : Group) : (st.putGroup gid g).tlb = st.tlb := rfl
@[simp] theorem State.putGroup_ticket (gid : Nat) (g : Group) : (st.putGroup gid g).ticket = st.ticket := rfl
@[simp] theorem State.putGroup_devno (gid : Nat) (g : Group) : (st.putGroup gid g).devno = st.devno := rfl
@[simp] theorem State.putGroup_peertmo (gid : Nat) (g : Group) : (st.putGroup gid g).peertmo = st.peertmo := rfl
@[simp] theorem State.putGroup_dead (gid : Nat) (g : Group) : (st.putGroup gid g).dead = st.dead := rfl
@[simp] theorem State.putGroup_domains (gid : Nat) (g : Group) : (st.putGroup gid g).domains = st.domains := rfl
@[simp] theorem State.putGroup_dropcnt (gid : Nat) (g : Group) : (st.putGroup gid g).dropcnt = st.dropcnt := rfl
@[simp] theorem State.putGroup_seqOut (gid : Nat) (g : Group) : (st.putGroup gid g).seqOut = st.seqOut := rfl
@[simp] theorem State.putGroup_unacked (gid : Nat) (g : Group) : (st.putGroup gid g).unacked = st.unacked := rfl
@[simp] theorem State.putGroup_triples (gid : Nat) (g : Group) : (st.putGroup gid g).triples = st.triples := rfl
@[simp] theorem State.putGroup_outbox (gid : Nat) (g : Group) : (st.putGroup gid g).outbox = st.outbox := rfl
@[simp] theorem State.putGroup_convs (gid : Nat) (g : Group) : (st.putGroup gid g).convs = st.convs := rfl
@[simp] theorem State.putGroup_convNum (gid : Nat) (g : Group) : (st.putGroup gid g).convNum = st.convNum := rfl
@[simp] theorem State.putGroup_weirs (gid : Nat) (g : Group) : (st.putGroup gid g).weirs = st.weirs := rfl
@[simp] theorem State.putGroup_redirs (gid : Nat) (g : Group) : (st.putGroup gid g).redirs = st.redirs := rfl
@[simp] theorem State.putGroup_redirHeld (gid : Nat) (g : Group) : (st.putGroup gid g).redirHeld = st.redirHeld := rfl
@[simp] theorem State.putGroup_landing (gid : Nat) (g : Group) : (st.putGroup gid g).landing = st.landing := rfl
@[simp] theorem State.putGroup_eventQ (gid : Nat) (g : Group) : (st.putGroup gid g).eventQ = st.eventQ := rfl
@[simp] theorem State.putGroup_downPorts (gid : Nat) (g : Group) : (st.putGroup gid g).downPorts = st.downPorts := rfl
@[simp] theorem State.putGroup_mode (gid : Nat) (g : Group) : (st.putGroup gid g).mode = st.mode := rfl
@[simp] theorem State.putGroup_pool (gid : Nat) (g : Group) : (st.putGroup gid g).pool = st.pool := rfl
@[simp] theorem State.putGroup_ctlPort (gid : Nat) (g : Group) : (st.putGroup gid g).ctlPort = st.ctlPort := rfl
@[simp] theorem State.putGroup_ctlToken (gid : Nat) (g : Group) : (st.putGroup gid g).ctlToken = st.ctlToken := rfl
@[simp] theorem State.putGroup_ctlLease (gid : Nat) (g : Group) : (st.putGroup gid g).ctlLease = st.ctlLease := rfl
@[simp] theorem State.putGroup_ports (gid : Nat) (g : Group) : (st.putGroup gid g).ports = st.ports := rfl
@[simp] theorem State.putGroup_ctlQ (gid : Nat) (g : Group) : (st.putGroup gid g).ctlQ = st.ctlQ := rfl
@[simp] theorem State.putGroup_ctxQ (gid : Nat) (g : Group) : (st.putGroup gid g).ctxQ = st.ctxQ := rfl
@[simp] theorem State.putGroup_wQ (gid : Nat) (g : Group) : (st.putGroup gid g).wQ = st.wQ := rfl
@[simp] theorem State.putGroup_ckQ (gid : Nat) (g : Group) : (st.putGroup gid g).ckQ = st.ckQ := rfl
@[simp] theorem State.putGroup_repQ (gid : Nat) (g : Group) : (st.putGroup gid g).repQ = st.repQ := rfl
@[simp] theorem State.putGroup_errWindow (gid : Nat) (g : Group) : (st.putGroup gid g).errWindow = st.errWindow := rfl
@[simp] theorem State.putGroup_errThresh (gid : Nat) (g : Group) : (st.putGroup gid g).errThresh = st.errThresh := rfl
@[simp] theorem State.putGroup_errEvents (gid : Nat) (g : Group) : (st.putGroup gid g).errEvents = st.errEvents := rfl
@[simp] theorem State.putGroup_cuts (gid : Nat) (g : Group) : (st.putGroup gid g).cuts = st.cuts := rfl
@[simp] theorem State.putGroup_reelSize (gid : Nat) (g : Group) : (st.putGroup gid g).reelSize = st.reelSize := rfl
@[simp] theorem State.putGroup_reelDrain (gid : Nat) (g : Group) : (st.putGroup gid g).reelDrain = st.reelDrain := rfl
@[simp] theorem State.putGroup_reelMode (gid : Nat) (g : Group) : (st.putGroup gid g).reelMode = st.reelMode := rfl
@[simp] theorem State.putGroup_reels (gid : Nat) (g : Group) : (st.putGroup gid g).reels = st.reels := rfl
@[simp] theorem State.putGroup_closedTakes (gid : Nat) (g : Group) : (st.putGroup gid g).closedTakes = st.closedTakes := rfl
@[simp] theorem State.putGroup_images (gid : Nat) (g : Group) : (st.putGroup gid g).images = st.images := rfl
@[simp] theorem State.putGroup_manifests (gid : Nat) (g : Group) : (st.putGroup gid g).manifests = st.manifests := rfl
@[simp] theorem State.putGroup_drBase (gid : Nat) (g : Group) : (st.putGroup gid g).drBase = st.drBase := rfl
@[simp] theorem State.putGroup_drSize (gid : Nat) (g : Group) : (st.putGroup gid g).drSize = st.drSize := rfl
@[simp] theorem State.putGroup_drCons (gid : Nat) (g : Group) : (st.putGroup gid g).drCons = st.drCons := rfl
@[simp] theorem State.putGroup_drProd (gid : Nat) (g : Group) : (st.putGroup gid g).drProd = st.drProd := rfl
@[simp] theorem State.putGroup_retiredPipes (gid : Nat) (g : Group) : (st.putGroup gid g).retiredPipes = st.retiredPipes := rfl
@[simp] theorem State.putGroup_retiring (gid : Nat) (g : Group) : (st.putGroup gid g).retiring = st.retiring := rfl
@[simp] theorem State.putGroup_retiredRows (gid : Nat) (g : Group) : (st.putGroup gid g).retiredRows = st.retiredRows := rfl
@[simp] theorem State.putGroup_retiredWays (gid : Nat) (g : Group) : (st.putGroup gid g).retiredWays = st.retiredWays := rfl
@[simp] theorem State.putGroup_retiredHbm (gid : Nat) (g : Group) : (st.putGroup gid g).retiredHbm = st.retiredHbm := rfl
@[simp] theorem State.putGroup_retiredPages (gid : Nat) (g : Group) : (st.putGroup gid g).retiredPages = st.retiredPages := rfl
@[simp] theorem State.putGroup_spareRows (gid : Nat) (g : Group) : (st.putGroup gid g).spareRows = st.spareRows := rfl
@[simp] theorem State.putGroup_laneDrops (gid : Nat) (g : Group) : (st.putGroup gid g).laneDrops = st.laneDrops := rfl
@[simp] theorem State.putGroup_captureEn (gid : Nat) (g : Group) : (st.putGroup gid g).captureEn = st.captureEn := rfl
@[simp] theorem State.putGroup_serialNo (gid : Nat) (g : Group) : (st.putGroup gid g).serialNo = st.serialNo := rfl
@[simp] theorem State.putGroup_rowsDue (gid : Nat) (g : Group) : (st.putGroup gid g).rowsDue = st.rowsDue := rfl
@[simp] theorem State.putGroup_fwStages (gid : Nat) (g : Group) : (st.putGroup gid g).fwStages = st.fwStages := rfl
@[simp] theorem State.putGroup_fwBanks (gid : Nat) (g : Group) : (st.putGroup gid g).fwBanks = st.fwBanks := rfl
@[simp] theorem State.putGroup_fwActive (gid : Nat) (g : Group) : (st.putGroup gid g).fwActive = st.fwActive := rfl
@[simp] theorem State.putGroup_fwPending (gid : Nat) (g : Group) : (st.putGroup gid g).fwPending = st.fwPending := rfl
@[simp] theorem State.putGroup_fwFuse (gid : Nat) (g : Group) : (st.putGroup gid g).fwFuse = st.fwFuse := rfl
@[simp] theorem State.putGroup_recovery (gid : Nat) (g : Group) : (st.putGroup gid g).recovery = st.recovery := rfl
@[simp] theorem State.putGroup_mgmtAddr (gid : Nat) (g : Group) : (st.putGroup gid g).mgmtAddr = st.mgmtAddr := rfl
@[simp] theorem State.putGroup_mgmtSources (gid : Nat) (g : Group) : (st.putGroup gid g).mgmtSources = st.mgmtSources := rfl
@[simp] theorem State.putGroup_mgmtSeen (gid : Nat) (g : Group) : (st.putGroup gid g).mgmtSeen = st.mgmtSeen := rfl
@[simp] theorem State.putGroup_mgmtOut (gid : Nat) (g : Group) : (st.putGroup gid g).mgmtOut = st.mgmtOut := rfl
@[simp] theorem State.putGroup_clock (gid : Nat) (g : Group) : (st.putGroup gid g).clock = st.clock := rfl
@[simp] theorem State.putGroup_hubcyc (gid : Nat) (g : Group) : (st.putGroup gid g).hubcyc = st.hubcyc := rfl
@[simp] theorem State.putGroup_tai (gid : Nat) (g : Group) : (st.putGroup gid g).tai = st.tai := rfl
@[simp] theorem State.putGroup_ptpLocked (gid : Nat) (g : Group) : (st.putGroup gid g).ptpLocked = st.ptpLocked := rfl
@[simp] theorem State.putGroup_ptpSince (gid : Nat) (g : Group) : (st.putGroup gid g).ptpSince = st.ptpSince := rfl
@[simp] theorem State.putGroup_ptpSlew (gid : Nat) (g : Group) : (st.putGroup gid g).ptpSlew = st.ptpSlew := rfl
@[simp] theorem State.putGroup_ptpRem (gid : Nat) (g : Group) : (st.putGroup gid g).ptpRem = st.ptpRem := rfl
@[simp] theorem State.putGroup_ptpDomain (gid : Nat) (g : Group) : (st.putGroup gid g).ptpDomain = st.ptpDomain := rfl
@[simp] theorem State.putGroup_throttled (gid : Nat) (g : Group) : (st.putGroup gid g).throttled = st.throttled := rfl
@[simp] theorem State.putGroup_cxlHost (gid : Nat) (g : Group) : (st.putGroup gid g).cxlHost = st.cxlHost := rfl
@[simp] theorem State.putGroup_frozen (gid : Nat) (g : Group) : (st.putGroup gid g).frozen = st.frozen := rfl
@[simp] theorem State.putGroup_power (gid : Nat) (g : Group) : (st.putGroup gid g).power = st.power := rfl
@[simp] theorem State.putGroup_idleFor (gid : Nat) (g : Group) : (st.putGroup gid g).idleFor = st.idleFor := rfl
@[simp] theorem State.putGroup_signals (gid : Nat) (g : Group) : (st.putGroup gid g).signals = st.signals := rfl
@[simp] theorem State.putGroup_agenda (gid : Nat) (g : Group) : (st.putGroup gid g).agenda = st.agenda := rfl
@[simp] theorem State.putGroup_cursor (gid : Nat) (g : Group) : (st.putGroup gid g).cursor = st.cursor := rfl
@[simp] theorem State.putGroup_issuer (gid : Nat) (g : Group) : (st.putGroup gid g).issuer = st.issuer := rfl
@[simp] theorem State.putGroup_free (gid : Nat) (g : Group) : (st.putGroup gid g).free = st.free := rfl
@[simp] theorem State.putGroup_issueNo (gid : Nat) (g : Group) : (st.putGroup gid g).issueNo = st.issueNo := rfl
@[simp] theorem State.putGroup_taiRem (gid : Nat) (g : Group) : (st.putGroup gid g).taiRem = st.taiRem := rfl
/-! updGroup. -/
@[simp] theorem State.updGroup_mem (gid : Nat) (f : Group → Group) : (st.updGroup gid f).mem = st.mem := rfl
@[simp] theorem State.updGroup_poisoned (gid : Nat) (f : Group → Group) : (st.updGroup gid f).poisoned = st.poisoned := rfl
@[simp] theorem State.updGroup_cachePoison (gid : Nat) (f : Group → Group) : (st.updGroup gid f).cachePoison = st.cachePoison := rfl
@[simp] theorem State.updGroup_uBytes (gid : Nat) (f : Group → Group) : (st.updGroup gid f).uBytes = st.uBytes := rfl
@[simp] theorem State.updGroup_workgroups (gid : Nat) (f : Group → Group) : (st.updGroup gid f).workgroups = st.workgroups := rfl
@[simp] theorem State.updGroup_grids (gid : Nat) (f : Group → Group) : (st.updGroup gid f).grids = st.grids := rfl
@[simp] theorem State.updGroup_launches (gid : Nat) (f : Group → Group) : (st.updGroup gid f).launches = st.launches := rfl
@[simp] theorem State.updGroup_ctxs (gid : Nat) (f : Group → Group) : (st.updGroup gid f).ctxs = st.ctxs := rfl
@[simp] theorem State.updGroup_cores (gid : Nat) (f : Group → Group) : (st.updGroup gid f).cores = st.cores := rfl
@[simp] theorem State.updGroup_clusters (gid : Nat) (f : Group → Group) : (st.updGroup gid f).clusters = st.clusters := rfl
@[simp] theorem State.updGroup_dies (gid : Nat) (f : Group → Group) : (st.updGroup gid f).dies = st.dies := rfl
@[simp] theorem State.updGroup_spillways (gid : Nat) (f : Group → Group) : (st.updGroup gid f).spillways = st.spillways := rfl
@[simp] theorem State.updGroup_dir (gid : Nat) (f : Group → Group) : (st.updGroup gid f).dir = st.dir := rfl
@[simp] theorem State.updGroup_l3 (gid : Nat) (f : Group → Group) : (st.updGroup gid f).l3 = st.l3 := rfl
@[simp] theorem State.updGroup_moveQ (gid : Nat) (f : Group → Group) : (st.updGroup gid f).moveQ = st.moveQ := rfl
@[simp] theorem State.updGroup_tlb (gid : Nat) (f : Group → Group) : (st.updGroup gid f).tlb = st.tlb := rfl
@[simp] theorem State.updGroup_ticket (gid : Nat) (f : Group → Group) : (st.updGroup gid f).ticket = st.ticket := rfl
@[simp] theorem State.updGroup_devno (gid : Nat) (f : Group → Group) : (st.updGroup gid f).devno = st.devno := rfl
@[simp] theorem State.updGroup_peertmo (gid : Nat) (f : Group → Group) : (st.updGroup gid f).peertmo = st.peertmo := rfl
@[simp] theorem State.updGroup_dead (gid : Nat) (f : Group → Group) : (st.updGroup gid f).dead = st.dead := rfl
@[simp] theorem State.updGroup_domains (gid : Nat) (f : Group → Group) : (st.updGroup gid f).domains = st.domains := rfl
@[simp] theorem State.updGroup_dropcnt (gid : Nat) (f : Group → Group) : (st.updGroup gid f).dropcnt = st.dropcnt := rfl
@[simp] theorem State.updGroup_seqOut (gid : Nat) (f : Group → Group) : (st.updGroup gid f).seqOut = st.seqOut := rfl
@[simp] theorem State.updGroup_unacked (gid : Nat) (f : Group → Group) : (st.updGroup gid f).unacked = st.unacked := rfl
@[simp] theorem State.updGroup_triples (gid : Nat) (f : Group → Group) : (st.updGroup gid f).triples = st.triples := rfl
@[simp] theorem State.updGroup_outbox (gid : Nat) (f : Group → Group) : (st.updGroup gid f).outbox = st.outbox := rfl
@[simp] theorem State.updGroup_convs (gid : Nat) (f : Group → Group) : (st.updGroup gid f).convs = st.convs := rfl
@[simp] theorem State.updGroup_convNum (gid : Nat) (f : Group → Group) : (st.updGroup gid f).convNum = st.convNum := rfl
@[simp] theorem State.updGroup_weirs (gid : Nat) (f : Group → Group) : (st.updGroup gid f).weirs = st.weirs := rfl
@[simp] theorem State.updGroup_redirs (gid : Nat) (f : Group → Group) : (st.updGroup gid f).redirs = st.redirs := rfl
@[simp] theorem State.updGroup_redirHeld (gid : Nat) (f : Group → Group) : (st.updGroup gid f).redirHeld = st.redirHeld := rfl
@[simp] theorem State.updGroup_landing (gid : Nat) (f : Group → Group) : (st.updGroup gid f).landing = st.landing := rfl
@[simp] theorem State.updGroup_eventQ (gid : Nat) (f : Group → Group) : (st.updGroup gid f).eventQ = st.eventQ := rfl
@[simp] theorem State.updGroup_downPorts (gid : Nat) (f : Group → Group) : (st.updGroup gid f).downPorts = st.downPorts := rfl
@[simp] theorem State.updGroup_mode (gid : Nat) (f : Group → Group) : (st.updGroup gid f).mode = st.mode := rfl
@[simp] theorem State.updGroup_pool (gid : Nat) (f : Group → Group) : (st.updGroup gid f).pool = st.pool := rfl
@[simp] theorem State.updGroup_ctlPort (gid : Nat) (f : Group → Group) : (st.updGroup gid f).ctlPort = st.ctlPort := rfl
@[simp] theorem State.updGroup_ctlToken (gid : Nat) (f : Group → Group) : (st.updGroup gid f).ctlToken = st.ctlToken := rfl
@[simp] theorem State.updGroup_ctlLease (gid : Nat) (f : Group → Group) : (st.updGroup gid f).ctlLease = st.ctlLease := rfl
@[simp] theorem State.updGroup_ports (gid : Nat) (f : Group → Group) : (st.updGroup gid f).ports = st.ports := rfl
@[simp] theorem State.updGroup_ctlQ (gid : Nat) (f : Group → Group) : (st.updGroup gid f).ctlQ = st.ctlQ := rfl
@[simp] theorem State.updGroup_ctxQ (gid : Nat) (f : Group → Group) : (st.updGroup gid f).ctxQ = st.ctxQ := rfl
@[simp] theorem State.updGroup_wQ (gid : Nat) (f : Group → Group) : (st.updGroup gid f).wQ = st.wQ := rfl
@[simp] theorem State.updGroup_ckQ (gid : Nat) (f : Group → Group) : (st.updGroup gid f).ckQ = st.ckQ := rfl
@[simp] theorem State.updGroup_repQ (gid : Nat) (f : Group → Group) : (st.updGroup gid f).repQ = st.repQ := rfl
@[simp] theorem State.updGroup_errWindow (gid : Nat) (f : Group → Group) : (st.updGroup gid f).errWindow = st.errWindow := rfl
@[simp] theorem State.updGroup_errThresh (gid : Nat) (f : Group → Group) : (st.updGroup gid f).errThresh = st.errThresh := rfl
@[simp] theorem State.updGroup_errEvents (gid : Nat) (f : Group → Group) : (st.updGroup gid f).errEvents = st.errEvents := rfl
@[simp] theorem State.updGroup_cuts (gid : Nat) (f : Group → Group) : (st.updGroup gid f).cuts = st.cuts := rfl
@[simp] theorem State.updGroup_reelSize (gid : Nat) (f : Group → Group) : (st.updGroup gid f).reelSize = st.reelSize := rfl
@[simp] theorem State.updGroup_reelDrain (gid : Nat) (f : Group → Group) : (st.updGroup gid f).reelDrain = st.reelDrain := rfl
@[simp] theorem State.updGroup_reelMode (gid : Nat) (f : Group → Group) : (st.updGroup gid f).reelMode = st.reelMode := rfl
@[simp] theorem State.updGroup_reels (gid : Nat) (f : Group → Group) : (st.updGroup gid f).reels = st.reels := rfl
@[simp] theorem State.updGroup_closedTakes (gid : Nat) (f : Group → Group) : (st.updGroup gid f).closedTakes = st.closedTakes := rfl
@[simp] theorem State.updGroup_images (gid : Nat) (f : Group → Group) : (st.updGroup gid f).images = st.images := rfl
@[simp] theorem State.updGroup_manifests (gid : Nat) (f : Group → Group) : (st.updGroup gid f).manifests = st.manifests := rfl
@[simp] theorem State.updGroup_drBase (gid : Nat) (f : Group → Group) : (st.updGroup gid f).drBase = st.drBase := rfl
@[simp] theorem State.updGroup_drSize (gid : Nat) (f : Group → Group) : (st.updGroup gid f).drSize = st.drSize := rfl
@[simp] theorem State.updGroup_drCons (gid : Nat) (f : Group → Group) : (st.updGroup gid f).drCons = st.drCons := rfl
@[simp] theorem State.updGroup_drProd (gid : Nat) (f : Group → Group) : (st.updGroup gid f).drProd = st.drProd := rfl
@[simp] theorem State.updGroup_retiredPipes (gid : Nat) (f : Group → Group) : (st.updGroup gid f).retiredPipes = st.retiredPipes := rfl
@[simp] theorem State.updGroup_retiring (gid : Nat) (f : Group → Group) : (st.updGroup gid f).retiring = st.retiring := rfl
@[simp] theorem State.updGroup_retiredRows (gid : Nat) (f : Group → Group) : (st.updGroup gid f).retiredRows = st.retiredRows := rfl
@[simp] theorem State.updGroup_retiredWays (gid : Nat) (f : Group → Group) : (st.updGroup gid f).retiredWays = st.retiredWays := rfl
@[simp] theorem State.updGroup_retiredHbm (gid : Nat) (f : Group → Group) : (st.updGroup gid f).retiredHbm = st.retiredHbm := rfl
@[simp] theorem State.updGroup_retiredPages (gid : Nat) (f : Group → Group) : (st.updGroup gid f).retiredPages = st.retiredPages := rfl
@[simp] theorem State.updGroup_spareRows (gid : Nat) (f : Group → Group) : (st.updGroup gid f).spareRows = st.spareRows := rfl
@[simp] theorem State.updGroup_laneDrops (gid : Nat) (f : Group → Group) : (st.updGroup gid f).laneDrops = st.laneDrops := rfl
@[simp] theorem State.updGroup_captureEn (gid : Nat) (f : Group → Group) : (st.updGroup gid f).captureEn = st.captureEn := rfl
@[simp] theorem State.updGroup_serialNo (gid : Nat) (f : Group → Group) : (st.updGroup gid f).serialNo = st.serialNo := rfl
@[simp] theorem State.updGroup_rowsDue (gid : Nat) (f : Group → Group) : (st.updGroup gid f).rowsDue = st.rowsDue := rfl
@[simp] theorem State.updGroup_fwStages (gid : Nat) (f : Group → Group) : (st.updGroup gid f).fwStages = st.fwStages := rfl
@[simp] theorem State.updGroup_fwBanks (gid : Nat) (f : Group → Group) : (st.updGroup gid f).fwBanks = st.fwBanks := rfl
@[simp] theorem State.updGroup_fwActive (gid : Nat) (f : Group → Group) : (st.updGroup gid f).fwActive = st.fwActive := rfl
@[simp] theorem State.updGroup_fwPending (gid : Nat) (f : Group → Group) : (st.updGroup gid f).fwPending = st.fwPending := rfl
@[simp] theorem State.updGroup_fwFuse (gid : Nat) (f : Group → Group) : (st.updGroup gid f).fwFuse = st.fwFuse := rfl
@[simp] theorem State.updGroup_recovery (gid : Nat) (f : Group → Group) : (st.updGroup gid f).recovery = st.recovery := rfl
@[simp] theorem State.updGroup_mgmtAddr (gid : Nat) (f : Group → Group) : (st.updGroup gid f).mgmtAddr = st.mgmtAddr := rfl
@[simp] theorem State.updGroup_mgmtSources (gid : Nat) (f : Group → Group) : (st.updGroup gid f).mgmtSources = st.mgmtSources := rfl
@[simp] theorem State.updGroup_mgmtSeen (gid : Nat) (f : Group → Group) : (st.updGroup gid f).mgmtSeen = st.mgmtSeen := rfl
@[simp] theorem State.updGroup_mgmtOut (gid : Nat) (f : Group → Group) : (st.updGroup gid f).mgmtOut = st.mgmtOut := rfl
@[simp] theorem State.updGroup_clock (gid : Nat) (f : Group → Group) : (st.updGroup gid f).clock = st.clock := rfl
@[simp] theorem State.updGroup_hubcyc (gid : Nat) (f : Group → Group) : (st.updGroup gid f).hubcyc = st.hubcyc := rfl
@[simp] theorem State.updGroup_tai (gid : Nat) (f : Group → Group) : (st.updGroup gid f).tai = st.tai := rfl
@[simp] theorem State.updGroup_ptpLocked (gid : Nat) (f : Group → Group) : (st.updGroup gid f).ptpLocked = st.ptpLocked := rfl
@[simp] theorem State.updGroup_ptpSince (gid : Nat) (f : Group → Group) : (st.updGroup gid f).ptpSince = st.ptpSince := rfl
@[simp] theorem State.updGroup_ptpSlew (gid : Nat) (f : Group → Group) : (st.updGroup gid f).ptpSlew = st.ptpSlew := rfl
@[simp] theorem State.updGroup_ptpRem (gid : Nat) (f : Group → Group) : (st.updGroup gid f).ptpRem = st.ptpRem := rfl
@[simp] theorem State.updGroup_ptpDomain (gid : Nat) (f : Group → Group) : (st.updGroup gid f).ptpDomain = st.ptpDomain := rfl
@[simp] theorem State.updGroup_throttled (gid : Nat) (f : Group → Group) : (st.updGroup gid f).throttled = st.throttled := rfl
@[simp] theorem State.updGroup_cxlHost (gid : Nat) (f : Group → Group) : (st.updGroup gid f).cxlHost = st.cxlHost := rfl
@[simp] theorem State.updGroup_frozen (gid : Nat) (f : Group → Group) : (st.updGroup gid f).frozen = st.frozen := rfl
@[simp] theorem State.updGroup_power (gid : Nat) (f : Group → Group) : (st.updGroup gid f).power = st.power := rfl
@[simp] theorem State.updGroup_idleFor (gid : Nat) (f : Group → Group) : (st.updGroup gid f).idleFor = st.idleFor := rfl
@[simp] theorem State.updGroup_signals (gid : Nat) (f : Group → Group) : (st.updGroup gid f).signals = st.signals := rfl
@[simp] theorem State.updGroup_agenda (gid : Nat) (f : Group → Group) : (st.updGroup gid f).agenda = st.agenda := rfl
@[simp] theorem State.updGroup_cursor (gid : Nat) (f : Group → Group) : (st.updGroup gid f).cursor = st.cursor := rfl
@[simp] theorem State.updGroup_issuer (gid : Nat) (f : Group → Group) : (st.updGroup gid f).issuer = st.issuer := rfl
@[simp] theorem State.updGroup_free (gid : Nat) (f : Group → Group) : (st.updGroup gid f).free = st.free := rfl
@[simp] theorem State.updGroup_issueNo (gid : Nat) (f : Group → Group) : (st.updGroup gid f).issueNo = st.issueNo := rfl
@[simp] theorem State.updGroup_taiRem (gid : Nat) (f : Group → Group) : (st.updGroup gid f).taiRem = st.taiRem := rfl
/-! updWg. -/
@[simp] theorem State.updWg_mem (w : Nat) (f : Workgroup → Workgroup) : (st.updWg w f).mem = st.mem := rfl
@[simp] theorem State.updWg_poisoned (w : Nat) (f : Workgroup → Workgroup) : (st.updWg w f).poisoned = st.poisoned := rfl
@[simp] theorem State.updWg_cachePoison (w : Nat) (f : Workgroup → Workgroup) : (st.updWg w f).cachePoison = st.cachePoison := rfl
@[simp] theorem State.updWg_uBytes (w : Nat) (f : Workgroup → Workgroup) : (st.updWg w f).uBytes = st.uBytes := rfl
@[simp] theorem State.updWg_groups (w : Nat) (f : Workgroup → Workgroup) : (st.updWg w f).groups = st.groups := rfl
@[simp] theorem State.updWg_grids (w : Nat) (f : Workgroup → Workgroup) : (st.updWg w f).grids = st.grids := rfl
@[simp] theorem State.updWg_launches (w : Nat) (f : Workgroup → Workgroup) : (st.updWg w f).launches = st.launches := rfl
@[simp] theorem State.updWg_ctxs (w : Nat) (f : Workgroup → Workgroup) : (st.updWg w f).ctxs = st.ctxs := rfl
@[simp] theorem State.updWg_cores (w : Nat) (f : Workgroup → Workgroup) : (st.updWg w f).cores = st.cores := rfl
@[simp] theorem State.updWg_clusters (w : Nat) (f : Workgroup → Workgroup) : (st.updWg w f).clusters = st.clusters := rfl
@[simp] theorem State.updWg_dies (w : Nat) (f : Workgroup → Workgroup) : (st.updWg w f).dies = st.dies := rfl
@[simp] theorem State.updWg_spillways (w : Nat) (f : Workgroup → Workgroup) : (st.updWg w f).spillways = st.spillways := rfl
@[simp] theorem State.updWg_dir (w : Nat) (f : Workgroup → Workgroup) : (st.updWg w f).dir = st.dir := rfl
@[simp] theorem State.updWg_l3 (w : Nat) (f : Workgroup → Workgroup) : (st.updWg w f).l3 = st.l3 := rfl
@[simp] theorem State.updWg_moveQ (w : Nat) (f : Workgroup → Workgroup) : (st.updWg w f).moveQ = st.moveQ := rfl
@[simp] theorem State.updWg_tlb (w : Nat) (f : Workgroup → Workgroup) : (st.updWg w f).tlb = st.tlb := rfl
@[simp] theorem State.updWg_ticket (w : Nat) (f : Workgroup → Workgroup) : (st.updWg w f).ticket = st.ticket := rfl
@[simp] theorem State.updWg_devno (w : Nat) (f : Workgroup → Workgroup) : (st.updWg w f).devno = st.devno := rfl
@[simp] theorem State.updWg_peertmo (w : Nat) (f : Workgroup → Workgroup) : (st.updWg w f).peertmo = st.peertmo := rfl
@[simp] theorem State.updWg_dead (w : Nat) (f : Workgroup → Workgroup) : (st.updWg w f).dead = st.dead := rfl
@[simp] theorem State.updWg_domains (w : Nat) (f : Workgroup → Workgroup) : (st.updWg w f).domains = st.domains := rfl
@[simp] theorem State.updWg_dropcnt (w : Nat) (f : Workgroup → Workgroup) : (st.updWg w f).dropcnt = st.dropcnt := rfl
@[simp] theorem State.updWg_seqOut (w : Nat) (f : Workgroup → Workgroup) : (st.updWg w f).seqOut = st.seqOut := rfl
@[simp] theorem State.updWg_unacked (w : Nat) (f : Workgroup → Workgroup) : (st.updWg w f).unacked = st.unacked := rfl
@[simp] theorem State.updWg_triples (w : Nat) (f : Workgroup → Workgroup) : (st.updWg w f).triples = st.triples := rfl
@[simp] theorem State.updWg_outbox (w : Nat) (f : Workgroup → Workgroup) : (st.updWg w f).outbox = st.outbox := rfl
@[simp] theorem State.updWg_convs (w : Nat) (f : Workgroup → Workgroup) : (st.updWg w f).convs = st.convs := rfl
@[simp] theorem State.updWg_convNum (w : Nat) (f : Workgroup → Workgroup) : (st.updWg w f).convNum = st.convNum := rfl
@[simp] theorem State.updWg_weirs (w : Nat) (f : Workgroup → Workgroup) : (st.updWg w f).weirs = st.weirs := rfl
@[simp] theorem State.updWg_redirs (w : Nat) (f : Workgroup → Workgroup) : (st.updWg w f).redirs = st.redirs := rfl
@[simp] theorem State.updWg_redirHeld (w : Nat) (f : Workgroup → Workgroup) : (st.updWg w f).redirHeld = st.redirHeld := rfl
@[simp] theorem State.updWg_landing (w : Nat) (f : Workgroup → Workgroup) : (st.updWg w f).landing = st.landing := rfl
@[simp] theorem State.updWg_eventQ (w : Nat) (f : Workgroup → Workgroup) : (st.updWg w f).eventQ = st.eventQ := rfl
@[simp] theorem State.updWg_downPorts (w : Nat) (f : Workgroup → Workgroup) : (st.updWg w f).downPorts = st.downPorts := rfl
@[simp] theorem State.updWg_mode (w : Nat) (f : Workgroup → Workgroup) : (st.updWg w f).mode = st.mode := rfl
@[simp] theorem State.updWg_pool (w : Nat) (f : Workgroup → Workgroup) : (st.updWg w f).pool = st.pool := rfl
@[simp] theorem State.updWg_ctlPort (w : Nat) (f : Workgroup → Workgroup) : (st.updWg w f).ctlPort = st.ctlPort := rfl
@[simp] theorem State.updWg_ctlToken (w : Nat) (f : Workgroup → Workgroup) : (st.updWg w f).ctlToken = st.ctlToken := rfl
@[simp] theorem State.updWg_ctlLease (w : Nat) (f : Workgroup → Workgroup) : (st.updWg w f).ctlLease = st.ctlLease := rfl
@[simp] theorem State.updWg_ports (w : Nat) (f : Workgroup → Workgroup) : (st.updWg w f).ports = st.ports := rfl
@[simp] theorem State.updWg_ctlQ (w : Nat) (f : Workgroup → Workgroup) : (st.updWg w f).ctlQ = st.ctlQ := rfl
@[simp] theorem State.updWg_ctxQ (w : Nat) (f : Workgroup → Workgroup) : (st.updWg w f).ctxQ = st.ctxQ := rfl
@[simp] theorem State.updWg_wQ (w : Nat) (f : Workgroup → Workgroup) : (st.updWg w f).wQ = st.wQ := rfl
@[simp] theorem State.updWg_ckQ (w : Nat) (f : Workgroup → Workgroup) : (st.updWg w f).ckQ = st.ckQ := rfl
@[simp] theorem State.updWg_repQ (w : Nat) (f : Workgroup → Workgroup) : (st.updWg w f).repQ = st.repQ := rfl
@[simp] theorem State.updWg_errWindow (w : Nat) (f : Workgroup → Workgroup) : (st.updWg w f).errWindow = st.errWindow := rfl
@[simp] theorem State.updWg_errThresh (w : Nat) (f : Workgroup → Workgroup) : (st.updWg w f).errThresh = st.errThresh := rfl
@[simp] theorem State.updWg_errEvents (w : Nat) (f : Workgroup → Workgroup) : (st.updWg w f).errEvents = st.errEvents := rfl
@[simp] theorem State.updWg_cuts (w : Nat) (f : Workgroup → Workgroup) : (st.updWg w f).cuts = st.cuts := rfl
@[simp] theorem State.updWg_reelSize (w : Nat) (f : Workgroup → Workgroup) : (st.updWg w f).reelSize = st.reelSize := rfl
@[simp] theorem State.updWg_reelDrain (w : Nat) (f : Workgroup → Workgroup) : (st.updWg w f).reelDrain = st.reelDrain := rfl
@[simp] theorem State.updWg_reelMode (w : Nat) (f : Workgroup → Workgroup) : (st.updWg w f).reelMode = st.reelMode := rfl
@[simp] theorem State.updWg_reels (w : Nat) (f : Workgroup → Workgroup) : (st.updWg w f).reels = st.reels := rfl
@[simp] theorem State.updWg_closedTakes (w : Nat) (f : Workgroup → Workgroup) : (st.updWg w f).closedTakes = st.closedTakes := rfl
@[simp] theorem State.updWg_images (w : Nat) (f : Workgroup → Workgroup) : (st.updWg w f).images = st.images := rfl
@[simp] theorem State.updWg_manifests (w : Nat) (f : Workgroup → Workgroup) : (st.updWg w f).manifests = st.manifests := rfl
@[simp] theorem State.updWg_drBase (w : Nat) (f : Workgroup → Workgroup) : (st.updWg w f).drBase = st.drBase := rfl
@[simp] theorem State.updWg_drSize (w : Nat) (f : Workgroup → Workgroup) : (st.updWg w f).drSize = st.drSize := rfl
@[simp] theorem State.updWg_drCons (w : Nat) (f : Workgroup → Workgroup) : (st.updWg w f).drCons = st.drCons := rfl
@[simp] theorem State.updWg_drProd (w : Nat) (f : Workgroup → Workgroup) : (st.updWg w f).drProd = st.drProd := rfl
@[simp] theorem State.updWg_retiredPipes (w : Nat) (f : Workgroup → Workgroup) : (st.updWg w f).retiredPipes = st.retiredPipes := rfl
@[simp] theorem State.updWg_retiring (w : Nat) (f : Workgroup → Workgroup) : (st.updWg w f).retiring = st.retiring := rfl
@[simp] theorem State.updWg_retiredRows (w : Nat) (f : Workgroup → Workgroup) : (st.updWg w f).retiredRows = st.retiredRows := rfl
@[simp] theorem State.updWg_retiredWays (w : Nat) (f : Workgroup → Workgroup) : (st.updWg w f).retiredWays = st.retiredWays := rfl
@[simp] theorem State.updWg_retiredHbm (w : Nat) (f : Workgroup → Workgroup) : (st.updWg w f).retiredHbm = st.retiredHbm := rfl
@[simp] theorem State.updWg_retiredPages (w : Nat) (f : Workgroup → Workgroup) : (st.updWg w f).retiredPages = st.retiredPages := rfl
@[simp] theorem State.updWg_spareRows (w : Nat) (f : Workgroup → Workgroup) : (st.updWg w f).spareRows = st.spareRows := rfl
@[simp] theorem State.updWg_laneDrops (w : Nat) (f : Workgroup → Workgroup) : (st.updWg w f).laneDrops = st.laneDrops := rfl
@[simp] theorem State.updWg_captureEn (w : Nat) (f : Workgroup → Workgroup) : (st.updWg w f).captureEn = st.captureEn := rfl
@[simp] theorem State.updWg_serialNo (w : Nat) (f : Workgroup → Workgroup) : (st.updWg w f).serialNo = st.serialNo := rfl
@[simp] theorem State.updWg_rowsDue (w : Nat) (f : Workgroup → Workgroup) : (st.updWg w f).rowsDue = st.rowsDue := rfl
@[simp] theorem State.updWg_fwStages (w : Nat) (f : Workgroup → Workgroup) : (st.updWg w f).fwStages = st.fwStages := rfl
@[simp] theorem State.updWg_fwBanks (w : Nat) (f : Workgroup → Workgroup) : (st.updWg w f).fwBanks = st.fwBanks := rfl
@[simp] theorem State.updWg_fwActive (w : Nat) (f : Workgroup → Workgroup) : (st.updWg w f).fwActive = st.fwActive := rfl
@[simp] theorem State.updWg_fwPending (w : Nat) (f : Workgroup → Workgroup) : (st.updWg w f).fwPending = st.fwPending := rfl
@[simp] theorem State.updWg_fwFuse (w : Nat) (f : Workgroup → Workgroup) : (st.updWg w f).fwFuse = st.fwFuse := rfl
@[simp] theorem State.updWg_recovery (w : Nat) (f : Workgroup → Workgroup) : (st.updWg w f).recovery = st.recovery := rfl
@[simp] theorem State.updWg_mgmtAddr (w : Nat) (f : Workgroup → Workgroup) : (st.updWg w f).mgmtAddr = st.mgmtAddr := rfl
@[simp] theorem State.updWg_mgmtSources (w : Nat) (f : Workgroup → Workgroup) : (st.updWg w f).mgmtSources = st.mgmtSources := rfl
@[simp] theorem State.updWg_mgmtSeen (w : Nat) (f : Workgroup → Workgroup) : (st.updWg w f).mgmtSeen = st.mgmtSeen := rfl
@[simp] theorem State.updWg_mgmtOut (w : Nat) (f : Workgroup → Workgroup) : (st.updWg w f).mgmtOut = st.mgmtOut := rfl
@[simp] theorem State.updWg_clock (w : Nat) (f : Workgroup → Workgroup) : (st.updWg w f).clock = st.clock := rfl
@[simp] theorem State.updWg_hubcyc (w : Nat) (f : Workgroup → Workgroup) : (st.updWg w f).hubcyc = st.hubcyc := rfl
@[simp] theorem State.updWg_tai (w : Nat) (f : Workgroup → Workgroup) : (st.updWg w f).tai = st.tai := rfl
@[simp] theorem State.updWg_ptpLocked (w : Nat) (f : Workgroup → Workgroup) : (st.updWg w f).ptpLocked = st.ptpLocked := rfl
@[simp] theorem State.updWg_ptpSince (w : Nat) (f : Workgroup → Workgroup) : (st.updWg w f).ptpSince = st.ptpSince := rfl
@[simp] theorem State.updWg_ptpSlew (w : Nat) (f : Workgroup → Workgroup) : (st.updWg w f).ptpSlew = st.ptpSlew := rfl
@[simp] theorem State.updWg_ptpRem (w : Nat) (f : Workgroup → Workgroup) : (st.updWg w f).ptpRem = st.ptpRem := rfl
@[simp] theorem State.updWg_ptpDomain (w : Nat) (f : Workgroup → Workgroup) : (st.updWg w f).ptpDomain = st.ptpDomain := rfl
@[simp] theorem State.updWg_throttled (w : Nat) (f : Workgroup → Workgroup) : (st.updWg w f).throttled = st.throttled := rfl
@[simp] theorem State.updWg_cxlHost (w : Nat) (f : Workgroup → Workgroup) : (st.updWg w f).cxlHost = st.cxlHost := rfl
@[simp] theorem State.updWg_frozen (w : Nat) (f : Workgroup → Workgroup) : (st.updWg w f).frozen = st.frozen := rfl
@[simp] theorem State.updWg_power (w : Nat) (f : Workgroup → Workgroup) : (st.updWg w f).power = st.power := rfl
@[simp] theorem State.updWg_idleFor (w : Nat) (f : Workgroup → Workgroup) : (st.updWg w f).idleFor = st.idleFor := rfl
@[simp] theorem State.updWg_signals (w : Nat) (f : Workgroup → Workgroup) : (st.updWg w f).signals = st.signals := rfl
@[simp] theorem State.updWg_agenda (w : Nat) (f : Workgroup → Workgroup) : (st.updWg w f).agenda = st.agenda := rfl
@[simp] theorem State.updWg_cursor (w : Nat) (f : Workgroup → Workgroup) : (st.updWg w f).cursor = st.cursor := rfl
@[simp] theorem State.updWg_issuer (w : Nat) (f : Workgroup → Workgroup) : (st.updWg w f).issuer = st.issuer := rfl
@[simp] theorem State.updWg_free (w : Nat) (f : Workgroup → Workgroup) : (st.updWg w f).free = st.free := rfl
@[simp] theorem State.updWg_issueNo (w : Nat) (f : Workgroup → Workgroup) : (st.updWg w f).issueNo = st.issueNo := rfl
@[simp] theorem State.updWg_taiRem (w : Nat) (f : Workgroup → Workgroup) : (st.updWg w f).taiRem = st.taiRem := rfl
/-! updCtx. -/
@[simp] theorem State.updCtx_mem (c : Nat) (f : Ctx → Ctx) : (st.updCtx c f).mem = st.mem := rfl
@[simp] theorem State.updCtx_poisoned (c : Nat) (f : Ctx → Ctx) : (st.updCtx c f).poisoned = st.poisoned := rfl
@[simp] theorem State.updCtx_cachePoison (c : Nat) (f : Ctx → Ctx) : (st.updCtx c f).cachePoison = st.cachePoison := rfl
@[simp] theorem State.updCtx_uBytes (c : Nat) (f : Ctx → Ctx) : (st.updCtx c f).uBytes = st.uBytes := rfl
@[simp] theorem State.updCtx_groups (c : Nat) (f : Ctx → Ctx) : (st.updCtx c f).groups = st.groups := rfl
@[simp] theorem State.updCtx_workgroups (c : Nat) (f : Ctx → Ctx) : (st.updCtx c f).workgroups = st.workgroups := rfl
@[simp] theorem State.updCtx_grids (c : Nat) (f : Ctx → Ctx) : (st.updCtx c f).grids = st.grids := rfl
@[simp] theorem State.updCtx_launches (c : Nat) (f : Ctx → Ctx) : (st.updCtx c f).launches = st.launches := rfl
@[simp] theorem State.updCtx_cores (c : Nat) (f : Ctx → Ctx) : (st.updCtx c f).cores = st.cores := rfl
@[simp] theorem State.updCtx_clusters (c : Nat) (f : Ctx → Ctx) : (st.updCtx c f).clusters = st.clusters := rfl
@[simp] theorem State.updCtx_dies (c : Nat) (f : Ctx → Ctx) : (st.updCtx c f).dies = st.dies := rfl
@[simp] theorem State.updCtx_spillways (c : Nat) (f : Ctx → Ctx) : (st.updCtx c f).spillways = st.spillways := rfl
@[simp] theorem State.updCtx_dir (c : Nat) (f : Ctx → Ctx) : (st.updCtx c f).dir = st.dir := rfl
@[simp] theorem State.updCtx_l3 (c : Nat) (f : Ctx → Ctx) : (st.updCtx c f).l3 = st.l3 := rfl
@[simp] theorem State.updCtx_moveQ (c : Nat) (f : Ctx → Ctx) : (st.updCtx c f).moveQ = st.moveQ := rfl
@[simp] theorem State.updCtx_tlb (c : Nat) (f : Ctx → Ctx) : (st.updCtx c f).tlb = st.tlb := rfl
@[simp] theorem State.updCtx_ticket (c : Nat) (f : Ctx → Ctx) : (st.updCtx c f).ticket = st.ticket := rfl
@[simp] theorem State.updCtx_devno (c : Nat) (f : Ctx → Ctx) : (st.updCtx c f).devno = st.devno := rfl
@[simp] theorem State.updCtx_peertmo (c : Nat) (f : Ctx → Ctx) : (st.updCtx c f).peertmo = st.peertmo := rfl
@[simp] theorem State.updCtx_dead (c : Nat) (f : Ctx → Ctx) : (st.updCtx c f).dead = st.dead := rfl
@[simp] theorem State.updCtx_domains (c : Nat) (f : Ctx → Ctx) : (st.updCtx c f).domains = st.domains := rfl
@[simp] theorem State.updCtx_dropcnt (c : Nat) (f : Ctx → Ctx) : (st.updCtx c f).dropcnt = st.dropcnt := rfl
@[simp] theorem State.updCtx_seqOut (c : Nat) (f : Ctx → Ctx) : (st.updCtx c f).seqOut = st.seqOut := rfl
@[simp] theorem State.updCtx_unacked (c : Nat) (f : Ctx → Ctx) : (st.updCtx c f).unacked = st.unacked := rfl
@[simp] theorem State.updCtx_triples (c : Nat) (f : Ctx → Ctx) : (st.updCtx c f).triples = st.triples := rfl
@[simp] theorem State.updCtx_outbox (c : Nat) (f : Ctx → Ctx) : (st.updCtx c f).outbox = st.outbox := rfl
@[simp] theorem State.updCtx_convs (c : Nat) (f : Ctx → Ctx) : (st.updCtx c f).convs = st.convs := rfl
@[simp] theorem State.updCtx_convNum (c : Nat) (f : Ctx → Ctx) : (st.updCtx c f).convNum = st.convNum := rfl
@[simp] theorem State.updCtx_weirs (c : Nat) (f : Ctx → Ctx) : (st.updCtx c f).weirs = st.weirs := rfl
@[simp] theorem State.updCtx_redirs (c : Nat) (f : Ctx → Ctx) : (st.updCtx c f).redirs = st.redirs := rfl
@[simp] theorem State.updCtx_redirHeld (c : Nat) (f : Ctx → Ctx) : (st.updCtx c f).redirHeld = st.redirHeld := rfl
@[simp] theorem State.updCtx_landing (c : Nat) (f : Ctx → Ctx) : (st.updCtx c f).landing = st.landing := rfl
@[simp] theorem State.updCtx_eventQ (c : Nat) (f : Ctx → Ctx) : (st.updCtx c f).eventQ = st.eventQ := rfl
@[simp] theorem State.updCtx_downPorts (c : Nat) (f : Ctx → Ctx) : (st.updCtx c f).downPorts = st.downPorts := rfl
@[simp] theorem State.updCtx_mode (c : Nat) (f : Ctx → Ctx) : (st.updCtx c f).mode = st.mode := rfl
@[simp] theorem State.updCtx_pool (c : Nat) (f : Ctx → Ctx) : (st.updCtx c f).pool = st.pool := rfl
@[simp] theorem State.updCtx_ctlPort (c : Nat) (f : Ctx → Ctx) : (st.updCtx c f).ctlPort = st.ctlPort := rfl
@[simp] theorem State.updCtx_ctlToken (c : Nat) (f : Ctx → Ctx) : (st.updCtx c f).ctlToken = st.ctlToken := rfl
@[simp] theorem State.updCtx_ctlLease (c : Nat) (f : Ctx → Ctx) : (st.updCtx c f).ctlLease = st.ctlLease := rfl
@[simp] theorem State.updCtx_ports (c : Nat) (f : Ctx → Ctx) : (st.updCtx c f).ports = st.ports := rfl
@[simp] theorem State.updCtx_ctlQ (c : Nat) (f : Ctx → Ctx) : (st.updCtx c f).ctlQ = st.ctlQ := rfl
@[simp] theorem State.updCtx_ctxQ (c : Nat) (f : Ctx → Ctx) : (st.updCtx c f).ctxQ = st.ctxQ := rfl
@[simp] theorem State.updCtx_wQ (c : Nat) (f : Ctx → Ctx) : (st.updCtx c f).wQ = st.wQ := rfl
@[simp] theorem State.updCtx_ckQ (c : Nat) (f : Ctx → Ctx) : (st.updCtx c f).ckQ = st.ckQ := rfl
@[simp] theorem State.updCtx_repQ (c : Nat) (f : Ctx → Ctx) : (st.updCtx c f).repQ = st.repQ := rfl
@[simp] theorem State.updCtx_errWindow (c : Nat) (f : Ctx → Ctx) : (st.updCtx c f).errWindow = st.errWindow := rfl
@[simp] theorem State.updCtx_errThresh (c : Nat) (f : Ctx → Ctx) : (st.updCtx c f).errThresh = st.errThresh := rfl
@[simp] theorem State.updCtx_errEvents (c : Nat) (f : Ctx → Ctx) : (st.updCtx c f).errEvents = st.errEvents := rfl
@[simp] theorem State.updCtx_cuts (c : Nat) (f : Ctx → Ctx) : (st.updCtx c f).cuts = st.cuts := rfl
@[simp] theorem State.updCtx_reelSize (c : Nat) (f : Ctx → Ctx) : (st.updCtx c f).reelSize = st.reelSize := rfl
@[simp] theorem State.updCtx_reelDrain (c : Nat) (f : Ctx → Ctx) : (st.updCtx c f).reelDrain = st.reelDrain := rfl
@[simp] theorem State.updCtx_reelMode (c : Nat) (f : Ctx → Ctx) : (st.updCtx c f).reelMode = st.reelMode := rfl
@[simp] theorem State.updCtx_reels (c : Nat) (f : Ctx → Ctx) : (st.updCtx c f).reels = st.reels := rfl
@[simp] theorem State.updCtx_closedTakes (c : Nat) (f : Ctx → Ctx) : (st.updCtx c f).closedTakes = st.closedTakes := rfl
@[simp] theorem State.updCtx_images (c : Nat) (f : Ctx → Ctx) : (st.updCtx c f).images = st.images := rfl
@[simp] theorem State.updCtx_manifests (c : Nat) (f : Ctx → Ctx) : (st.updCtx c f).manifests = st.manifests := rfl
@[simp] theorem State.updCtx_drBase (c : Nat) (f : Ctx → Ctx) : (st.updCtx c f).drBase = st.drBase := rfl
@[simp] theorem State.updCtx_drSize (c : Nat) (f : Ctx → Ctx) : (st.updCtx c f).drSize = st.drSize := rfl
@[simp] theorem State.updCtx_drCons (c : Nat) (f : Ctx → Ctx) : (st.updCtx c f).drCons = st.drCons := rfl
@[simp] theorem State.updCtx_drProd (c : Nat) (f : Ctx → Ctx) : (st.updCtx c f).drProd = st.drProd := rfl
@[simp] theorem State.updCtx_retiredPipes (c : Nat) (f : Ctx → Ctx) : (st.updCtx c f).retiredPipes = st.retiredPipes := rfl
@[simp] theorem State.updCtx_retiring (c : Nat) (f : Ctx → Ctx) : (st.updCtx c f).retiring = st.retiring := rfl
@[simp] theorem State.updCtx_retiredRows (c : Nat) (f : Ctx → Ctx) : (st.updCtx c f).retiredRows = st.retiredRows := rfl
@[simp] theorem State.updCtx_retiredWays (c : Nat) (f : Ctx → Ctx) : (st.updCtx c f).retiredWays = st.retiredWays := rfl
@[simp] theorem State.updCtx_retiredHbm (c : Nat) (f : Ctx → Ctx) : (st.updCtx c f).retiredHbm = st.retiredHbm := rfl
@[simp] theorem State.updCtx_retiredPages (c : Nat) (f : Ctx → Ctx) : (st.updCtx c f).retiredPages = st.retiredPages := rfl
@[simp] theorem State.updCtx_spareRows (c : Nat) (f : Ctx → Ctx) : (st.updCtx c f).spareRows = st.spareRows := rfl
@[simp] theorem State.updCtx_laneDrops (c : Nat) (f : Ctx → Ctx) : (st.updCtx c f).laneDrops = st.laneDrops := rfl
@[simp] theorem State.updCtx_captureEn (c : Nat) (f : Ctx → Ctx) : (st.updCtx c f).captureEn = st.captureEn := rfl
@[simp] theorem State.updCtx_serialNo (c : Nat) (f : Ctx → Ctx) : (st.updCtx c f).serialNo = st.serialNo := rfl
@[simp] theorem State.updCtx_rowsDue (c : Nat) (f : Ctx → Ctx) : (st.updCtx c f).rowsDue = st.rowsDue := rfl
@[simp] theorem State.updCtx_fwStages (c : Nat) (f : Ctx → Ctx) : (st.updCtx c f).fwStages = st.fwStages := rfl
@[simp] theorem State.updCtx_fwBanks (c : Nat) (f : Ctx → Ctx) : (st.updCtx c f).fwBanks = st.fwBanks := rfl
@[simp] theorem State.updCtx_fwActive (c : Nat) (f : Ctx → Ctx) : (st.updCtx c f).fwActive = st.fwActive := rfl
@[simp] theorem State.updCtx_fwPending (c : Nat) (f : Ctx → Ctx) : (st.updCtx c f).fwPending = st.fwPending := rfl
@[simp] theorem State.updCtx_fwFuse (c : Nat) (f : Ctx → Ctx) : (st.updCtx c f).fwFuse = st.fwFuse := rfl
@[simp] theorem State.updCtx_recovery (c : Nat) (f : Ctx → Ctx) : (st.updCtx c f).recovery = st.recovery := rfl
@[simp] theorem State.updCtx_mgmtAddr (c : Nat) (f : Ctx → Ctx) : (st.updCtx c f).mgmtAddr = st.mgmtAddr := rfl
@[simp] theorem State.updCtx_mgmtSources (c : Nat) (f : Ctx → Ctx) : (st.updCtx c f).mgmtSources = st.mgmtSources := rfl
@[simp] theorem State.updCtx_mgmtSeen (c : Nat) (f : Ctx → Ctx) : (st.updCtx c f).mgmtSeen = st.mgmtSeen := rfl
@[simp] theorem State.updCtx_mgmtOut (c : Nat) (f : Ctx → Ctx) : (st.updCtx c f).mgmtOut = st.mgmtOut := rfl
@[simp] theorem State.updCtx_clock (c : Nat) (f : Ctx → Ctx) : (st.updCtx c f).clock = st.clock := rfl
@[simp] theorem State.updCtx_hubcyc (c : Nat) (f : Ctx → Ctx) : (st.updCtx c f).hubcyc = st.hubcyc := rfl
@[simp] theorem State.updCtx_tai (c : Nat) (f : Ctx → Ctx) : (st.updCtx c f).tai = st.tai := rfl
@[simp] theorem State.updCtx_ptpLocked (c : Nat) (f : Ctx → Ctx) : (st.updCtx c f).ptpLocked = st.ptpLocked := rfl
@[simp] theorem State.updCtx_ptpSince (c : Nat) (f : Ctx → Ctx) : (st.updCtx c f).ptpSince = st.ptpSince := rfl
@[simp] theorem State.updCtx_ptpSlew (c : Nat) (f : Ctx → Ctx) : (st.updCtx c f).ptpSlew = st.ptpSlew := rfl
@[simp] theorem State.updCtx_ptpRem (c : Nat) (f : Ctx → Ctx) : (st.updCtx c f).ptpRem = st.ptpRem := rfl
@[simp] theorem State.updCtx_ptpDomain (c : Nat) (f : Ctx → Ctx) : (st.updCtx c f).ptpDomain = st.ptpDomain := rfl
@[simp] theorem State.updCtx_throttled (c : Nat) (f : Ctx → Ctx) : (st.updCtx c f).throttled = st.throttled := rfl
@[simp] theorem State.updCtx_cxlHost (c : Nat) (f : Ctx → Ctx) : (st.updCtx c f).cxlHost = st.cxlHost := rfl
@[simp] theorem State.updCtx_frozen (c : Nat) (f : Ctx → Ctx) : (st.updCtx c f).frozen = st.frozen := rfl
@[simp] theorem State.updCtx_power (c : Nat) (f : Ctx → Ctx) : (st.updCtx c f).power = st.power := rfl
@[simp] theorem State.updCtx_idleFor (c : Nat) (f : Ctx → Ctx) : (st.updCtx c f).idleFor = st.idleFor := rfl
@[simp] theorem State.updCtx_signals (c : Nat) (f : Ctx → Ctx) : (st.updCtx c f).signals = st.signals := rfl
@[simp] theorem State.updCtx_agenda (c : Nat) (f : Ctx → Ctx) : (st.updCtx c f).agenda = st.agenda := rfl
@[simp] theorem State.updCtx_cursor (c : Nat) (f : Ctx → Ctx) : (st.updCtx c f).cursor = st.cursor := rfl
@[simp] theorem State.updCtx_issuer (c : Nat) (f : Ctx → Ctx) : (st.updCtx c f).issuer = st.issuer := rfl
@[simp] theorem State.updCtx_free (c : Nat) (f : Ctx → Ctx) : (st.updCtx c f).free = st.free := rfl
@[simp] theorem State.updCtx_issueNo (c : Nat) (f : Ctx → Ctx) : (st.updCtx c f).issueNo = st.issueNo := rfl
@[simp] theorem State.updCtx_taiRem (c : Nat) (f : Ctx → Ctx) : (st.updCtx c f).taiRem = st.taiRem := rfl
/-! updGrid. -/
@[simp] theorem State.updGrid_mem (k : Nat) (f : Grid → Grid) : (st.updGrid k f).mem = st.mem := rfl
@[simp] theorem State.updGrid_poisoned (k : Nat) (f : Grid → Grid) : (st.updGrid k f).poisoned = st.poisoned := rfl
@[simp] theorem State.updGrid_cachePoison (k : Nat) (f : Grid → Grid) : (st.updGrid k f).cachePoison = st.cachePoison := rfl
@[simp] theorem State.updGrid_uBytes (k : Nat) (f : Grid → Grid) : (st.updGrid k f).uBytes = st.uBytes := rfl
@[simp] theorem State.updGrid_groups (k : Nat) (f : Grid → Grid) : (st.updGrid k f).groups = st.groups := rfl
@[simp] theorem State.updGrid_workgroups (k : Nat) (f : Grid → Grid) : (st.updGrid k f).workgroups = st.workgroups := rfl
@[simp] theorem State.updGrid_launches (k : Nat) (f : Grid → Grid) : (st.updGrid k f).launches = st.launches := rfl
@[simp] theorem State.updGrid_ctxs (k : Nat) (f : Grid → Grid) : (st.updGrid k f).ctxs = st.ctxs := rfl
@[simp] theorem State.updGrid_cores (k : Nat) (f : Grid → Grid) : (st.updGrid k f).cores = st.cores := rfl
@[simp] theorem State.updGrid_clusters (k : Nat) (f : Grid → Grid) : (st.updGrid k f).clusters = st.clusters := rfl
@[simp] theorem State.updGrid_dies (k : Nat) (f : Grid → Grid) : (st.updGrid k f).dies = st.dies := rfl
@[simp] theorem State.updGrid_spillways (k : Nat) (f : Grid → Grid) : (st.updGrid k f).spillways = st.spillways := rfl
@[simp] theorem State.updGrid_dir (k : Nat) (f : Grid → Grid) : (st.updGrid k f).dir = st.dir := rfl
@[simp] theorem State.updGrid_l3 (k : Nat) (f : Grid → Grid) : (st.updGrid k f).l3 = st.l3 := rfl
@[simp] theorem State.updGrid_moveQ (k : Nat) (f : Grid → Grid) : (st.updGrid k f).moveQ = st.moveQ := rfl
@[simp] theorem State.updGrid_tlb (k : Nat) (f : Grid → Grid) : (st.updGrid k f).tlb = st.tlb := rfl
@[simp] theorem State.updGrid_ticket (k : Nat) (f : Grid → Grid) : (st.updGrid k f).ticket = st.ticket := rfl
@[simp] theorem State.updGrid_devno (k : Nat) (f : Grid → Grid) : (st.updGrid k f).devno = st.devno := rfl
@[simp] theorem State.updGrid_peertmo (k : Nat) (f : Grid → Grid) : (st.updGrid k f).peertmo = st.peertmo := rfl
@[simp] theorem State.updGrid_dead (k : Nat) (f : Grid → Grid) : (st.updGrid k f).dead = st.dead := rfl
@[simp] theorem State.updGrid_domains (k : Nat) (f : Grid → Grid) : (st.updGrid k f).domains = st.domains := rfl
@[simp] theorem State.updGrid_dropcnt (k : Nat) (f : Grid → Grid) : (st.updGrid k f).dropcnt = st.dropcnt := rfl
@[simp] theorem State.updGrid_seqOut (k : Nat) (f : Grid → Grid) : (st.updGrid k f).seqOut = st.seqOut := rfl
@[simp] theorem State.updGrid_unacked (k : Nat) (f : Grid → Grid) : (st.updGrid k f).unacked = st.unacked := rfl
@[simp] theorem State.updGrid_triples (k : Nat) (f : Grid → Grid) : (st.updGrid k f).triples = st.triples := rfl
@[simp] theorem State.updGrid_outbox (k : Nat) (f : Grid → Grid) : (st.updGrid k f).outbox = st.outbox := rfl
@[simp] theorem State.updGrid_convs (k : Nat) (f : Grid → Grid) : (st.updGrid k f).convs = st.convs := rfl
@[simp] theorem State.updGrid_convNum (k : Nat) (f : Grid → Grid) : (st.updGrid k f).convNum = st.convNum := rfl
@[simp] theorem State.updGrid_weirs (k : Nat) (f : Grid → Grid) : (st.updGrid k f).weirs = st.weirs := rfl
@[simp] theorem State.updGrid_redirs (k : Nat) (f : Grid → Grid) : (st.updGrid k f).redirs = st.redirs := rfl
@[simp] theorem State.updGrid_redirHeld (k : Nat) (f : Grid → Grid) : (st.updGrid k f).redirHeld = st.redirHeld := rfl
@[simp] theorem State.updGrid_landing (k : Nat) (f : Grid → Grid) : (st.updGrid k f).landing = st.landing := rfl
@[simp] theorem State.updGrid_eventQ (k : Nat) (f : Grid → Grid) : (st.updGrid k f).eventQ = st.eventQ := rfl
@[simp] theorem State.updGrid_downPorts (k : Nat) (f : Grid → Grid) : (st.updGrid k f).downPorts = st.downPorts := rfl
@[simp] theorem State.updGrid_mode (k : Nat) (f : Grid → Grid) : (st.updGrid k f).mode = st.mode := rfl
@[simp] theorem State.updGrid_pool (k : Nat) (f : Grid → Grid) : (st.updGrid k f).pool = st.pool := rfl
@[simp] theorem State.updGrid_ctlPort (k : Nat) (f : Grid → Grid) : (st.updGrid k f).ctlPort = st.ctlPort := rfl
@[simp] theorem State.updGrid_ctlToken (k : Nat) (f : Grid → Grid) : (st.updGrid k f).ctlToken = st.ctlToken := rfl
@[simp] theorem State.updGrid_ctlLease (k : Nat) (f : Grid → Grid) : (st.updGrid k f).ctlLease = st.ctlLease := rfl
@[simp] theorem State.updGrid_ports (k : Nat) (f : Grid → Grid) : (st.updGrid k f).ports = st.ports := rfl
@[simp] theorem State.updGrid_ctlQ (k : Nat) (f : Grid → Grid) : (st.updGrid k f).ctlQ = st.ctlQ := rfl
@[simp] theorem State.updGrid_ctxQ (k : Nat) (f : Grid → Grid) : (st.updGrid k f).ctxQ = st.ctxQ := rfl
@[simp] theorem State.updGrid_wQ (k : Nat) (f : Grid → Grid) : (st.updGrid k f).wQ = st.wQ := rfl
@[simp] theorem State.updGrid_ckQ (k : Nat) (f : Grid → Grid) : (st.updGrid k f).ckQ = st.ckQ := rfl
@[simp] theorem State.updGrid_repQ (k : Nat) (f : Grid → Grid) : (st.updGrid k f).repQ = st.repQ := rfl
@[simp] theorem State.updGrid_errWindow (k : Nat) (f : Grid → Grid) : (st.updGrid k f).errWindow = st.errWindow := rfl
@[simp] theorem State.updGrid_errThresh (k : Nat) (f : Grid → Grid) : (st.updGrid k f).errThresh = st.errThresh := rfl
@[simp] theorem State.updGrid_errEvents (k : Nat) (f : Grid → Grid) : (st.updGrid k f).errEvents = st.errEvents := rfl
@[simp] theorem State.updGrid_cuts (k : Nat) (f : Grid → Grid) : (st.updGrid k f).cuts = st.cuts := rfl
@[simp] theorem State.updGrid_reelSize (k : Nat) (f : Grid → Grid) : (st.updGrid k f).reelSize = st.reelSize := rfl
@[simp] theorem State.updGrid_reelDrain (k : Nat) (f : Grid → Grid) : (st.updGrid k f).reelDrain = st.reelDrain := rfl
@[simp] theorem State.updGrid_reelMode (k : Nat) (f : Grid → Grid) : (st.updGrid k f).reelMode = st.reelMode := rfl
@[simp] theorem State.updGrid_reels (k : Nat) (f : Grid → Grid) : (st.updGrid k f).reels = st.reels := rfl
@[simp] theorem State.updGrid_closedTakes (k : Nat) (f : Grid → Grid) : (st.updGrid k f).closedTakes = st.closedTakes := rfl
@[simp] theorem State.updGrid_images (k : Nat) (f : Grid → Grid) : (st.updGrid k f).images = st.images := rfl
@[simp] theorem State.updGrid_manifests (k : Nat) (f : Grid → Grid) : (st.updGrid k f).manifests = st.manifests := rfl
@[simp] theorem State.updGrid_drBase (k : Nat) (f : Grid → Grid) : (st.updGrid k f).drBase = st.drBase := rfl
@[simp] theorem State.updGrid_drSize (k : Nat) (f : Grid → Grid) : (st.updGrid k f).drSize = st.drSize := rfl
@[simp] theorem State.updGrid_drCons (k : Nat) (f : Grid → Grid) : (st.updGrid k f).drCons = st.drCons := rfl
@[simp] theorem State.updGrid_drProd (k : Nat) (f : Grid → Grid) : (st.updGrid k f).drProd = st.drProd := rfl
@[simp] theorem State.updGrid_retiredPipes (k : Nat) (f : Grid → Grid) : (st.updGrid k f).retiredPipes = st.retiredPipes := rfl
@[simp] theorem State.updGrid_retiring (k : Nat) (f : Grid → Grid) : (st.updGrid k f).retiring = st.retiring := rfl
@[simp] theorem State.updGrid_retiredRows (k : Nat) (f : Grid → Grid) : (st.updGrid k f).retiredRows = st.retiredRows := rfl
@[simp] theorem State.updGrid_retiredWays (k : Nat) (f : Grid → Grid) : (st.updGrid k f).retiredWays = st.retiredWays := rfl
@[simp] theorem State.updGrid_retiredHbm (k : Nat) (f : Grid → Grid) : (st.updGrid k f).retiredHbm = st.retiredHbm := rfl
@[simp] theorem State.updGrid_retiredPages (k : Nat) (f : Grid → Grid) : (st.updGrid k f).retiredPages = st.retiredPages := rfl
@[simp] theorem State.updGrid_spareRows (k : Nat) (f : Grid → Grid) : (st.updGrid k f).spareRows = st.spareRows := rfl
@[simp] theorem State.updGrid_laneDrops (k : Nat) (f : Grid → Grid) : (st.updGrid k f).laneDrops = st.laneDrops := rfl
@[simp] theorem State.updGrid_captureEn (k : Nat) (f : Grid → Grid) : (st.updGrid k f).captureEn = st.captureEn := rfl
@[simp] theorem State.updGrid_serialNo (k : Nat) (f : Grid → Grid) : (st.updGrid k f).serialNo = st.serialNo := rfl
@[simp] theorem State.updGrid_rowsDue (k : Nat) (f : Grid → Grid) : (st.updGrid k f).rowsDue = st.rowsDue := rfl
@[simp] theorem State.updGrid_fwStages (k : Nat) (f : Grid → Grid) : (st.updGrid k f).fwStages = st.fwStages := rfl
@[simp] theorem State.updGrid_fwBanks (k : Nat) (f : Grid → Grid) : (st.updGrid k f).fwBanks = st.fwBanks := rfl
@[simp] theorem State.updGrid_fwActive (k : Nat) (f : Grid → Grid) : (st.updGrid k f).fwActive = st.fwActive := rfl
@[simp] theorem State.updGrid_fwPending (k : Nat) (f : Grid → Grid) : (st.updGrid k f).fwPending = st.fwPending := rfl
@[simp] theorem State.updGrid_fwFuse (k : Nat) (f : Grid → Grid) : (st.updGrid k f).fwFuse = st.fwFuse := rfl
@[simp] theorem State.updGrid_recovery (k : Nat) (f : Grid → Grid) : (st.updGrid k f).recovery = st.recovery := rfl
@[simp] theorem State.updGrid_mgmtAddr (k : Nat) (f : Grid → Grid) : (st.updGrid k f).mgmtAddr = st.mgmtAddr := rfl
@[simp] theorem State.updGrid_mgmtSources (k : Nat) (f : Grid → Grid) : (st.updGrid k f).mgmtSources = st.mgmtSources := rfl
@[simp] theorem State.updGrid_mgmtSeen (k : Nat) (f : Grid → Grid) : (st.updGrid k f).mgmtSeen = st.mgmtSeen := rfl
@[simp] theorem State.updGrid_mgmtOut (k : Nat) (f : Grid → Grid) : (st.updGrid k f).mgmtOut = st.mgmtOut := rfl
@[simp] theorem State.updGrid_clock (k : Nat) (f : Grid → Grid) : (st.updGrid k f).clock = st.clock := rfl
@[simp] theorem State.updGrid_hubcyc (k : Nat) (f : Grid → Grid) : (st.updGrid k f).hubcyc = st.hubcyc := rfl
@[simp] theorem State.updGrid_tai (k : Nat) (f : Grid → Grid) : (st.updGrid k f).tai = st.tai := rfl
@[simp] theorem State.updGrid_ptpLocked (k : Nat) (f : Grid → Grid) : (st.updGrid k f).ptpLocked = st.ptpLocked := rfl
@[simp] theorem State.updGrid_ptpSince (k : Nat) (f : Grid → Grid) : (st.updGrid k f).ptpSince = st.ptpSince := rfl
@[simp] theorem State.updGrid_ptpSlew (k : Nat) (f : Grid → Grid) : (st.updGrid k f).ptpSlew = st.ptpSlew := rfl
@[simp] theorem State.updGrid_ptpRem (k : Nat) (f : Grid → Grid) : (st.updGrid k f).ptpRem = st.ptpRem := rfl
@[simp] theorem State.updGrid_ptpDomain (k : Nat) (f : Grid → Grid) : (st.updGrid k f).ptpDomain = st.ptpDomain := rfl
@[simp] theorem State.updGrid_throttled (k : Nat) (f : Grid → Grid) : (st.updGrid k f).throttled = st.throttled := rfl
@[simp] theorem State.updGrid_cxlHost (k : Nat) (f : Grid → Grid) : (st.updGrid k f).cxlHost = st.cxlHost := rfl
@[simp] theorem State.updGrid_frozen (k : Nat) (f : Grid → Grid) : (st.updGrid k f).frozen = st.frozen := rfl
@[simp] theorem State.updGrid_power (k : Nat) (f : Grid → Grid) : (st.updGrid k f).power = st.power := rfl
@[simp] theorem State.updGrid_idleFor (k : Nat) (f : Grid → Grid) : (st.updGrid k f).idleFor = st.idleFor := rfl
@[simp] theorem State.updGrid_signals (k : Nat) (f : Grid → Grid) : (st.updGrid k f).signals = st.signals := rfl
@[simp] theorem State.updGrid_agenda (k : Nat) (f : Grid → Grid) : (st.updGrid k f).agenda = st.agenda := rfl
@[simp] theorem State.updGrid_cursor (k : Nat) (f : Grid → Grid) : (st.updGrid k f).cursor = st.cursor := rfl
@[simp] theorem State.updGrid_issuer (k : Nat) (f : Grid → Grid) : (st.updGrid k f).issuer = st.issuer := rfl
@[simp] theorem State.updGrid_free (k : Nat) (f : Grid → Grid) : (st.updGrid k f).free = st.free := rfl
@[simp] theorem State.updGrid_issueNo (k : Nat) (f : Grid → Grid) : (st.updGrid k f).issueNo = st.issueNo := rfl
@[simp] theorem State.updGrid_taiRem (k : Nat) (f : Grid → Grid) : (st.updGrid k f).taiRem = st.taiRem := rfl
/-! updPort. -/
@[simp] theorem State.updPort_mem (p : Nat) (f : Port → Port) : (st.updPort p f).mem = st.mem := rfl
@[simp] theorem State.updPort_poisoned (p : Nat) (f : Port → Port) : (st.updPort p f).poisoned = st.poisoned := rfl
@[simp] theorem State.updPort_cachePoison (p : Nat) (f : Port → Port) : (st.updPort p f).cachePoison = st.cachePoison := rfl
@[simp] theorem State.updPort_uBytes (p : Nat) (f : Port → Port) : (st.updPort p f).uBytes = st.uBytes := rfl
@[simp] theorem State.updPort_groups (p : Nat) (f : Port → Port) : (st.updPort p f).groups = st.groups := rfl
@[simp] theorem State.updPort_workgroups (p : Nat) (f : Port → Port) : (st.updPort p f).workgroups = st.workgroups := rfl
@[simp] theorem State.updPort_grids (p : Nat) (f : Port → Port) : (st.updPort p f).grids = st.grids := rfl
@[simp] theorem State.updPort_launches (p : Nat) (f : Port → Port) : (st.updPort p f).launches = st.launches := rfl
@[simp] theorem State.updPort_ctxs (p : Nat) (f : Port → Port) : (st.updPort p f).ctxs = st.ctxs := rfl
@[simp] theorem State.updPort_cores (p : Nat) (f : Port → Port) : (st.updPort p f).cores = st.cores := rfl
@[simp] theorem State.updPort_clusters (p : Nat) (f : Port → Port) : (st.updPort p f).clusters = st.clusters := rfl
@[simp] theorem State.updPort_dies (p : Nat) (f : Port → Port) : (st.updPort p f).dies = st.dies := rfl
@[simp] theorem State.updPort_spillways (p : Nat) (f : Port → Port) : (st.updPort p f).spillways = st.spillways := rfl
@[simp] theorem State.updPort_dir (p : Nat) (f : Port → Port) : (st.updPort p f).dir = st.dir := rfl
@[simp] theorem State.updPort_l3 (p : Nat) (f : Port → Port) : (st.updPort p f).l3 = st.l3 := rfl
@[simp] theorem State.updPort_moveQ (p : Nat) (f : Port → Port) : (st.updPort p f).moveQ = st.moveQ := rfl
@[simp] theorem State.updPort_tlb (p : Nat) (f : Port → Port) : (st.updPort p f).tlb = st.tlb := rfl
@[simp] theorem State.updPort_ticket (p : Nat) (f : Port → Port) : (st.updPort p f).ticket = st.ticket := rfl
@[simp] theorem State.updPort_devno (p : Nat) (f : Port → Port) : (st.updPort p f).devno = st.devno := rfl
@[simp] theorem State.updPort_peertmo (p : Nat) (f : Port → Port) : (st.updPort p f).peertmo = st.peertmo := rfl
@[simp] theorem State.updPort_dead (p : Nat) (f : Port → Port) : (st.updPort p f).dead = st.dead := rfl
@[simp] theorem State.updPort_domains (p : Nat) (f : Port → Port) : (st.updPort p f).domains = st.domains := rfl
@[simp] theorem State.updPort_dropcnt (p : Nat) (f : Port → Port) : (st.updPort p f).dropcnt = st.dropcnt := rfl
@[simp] theorem State.updPort_seqOut (p : Nat) (f : Port → Port) : (st.updPort p f).seqOut = st.seqOut := rfl
@[simp] theorem State.updPort_unacked (p : Nat) (f : Port → Port) : (st.updPort p f).unacked = st.unacked := rfl
@[simp] theorem State.updPort_triples (p : Nat) (f : Port → Port) : (st.updPort p f).triples = st.triples := rfl
@[simp] theorem State.updPort_outbox (p : Nat) (f : Port → Port) : (st.updPort p f).outbox = st.outbox := rfl
@[simp] theorem State.updPort_convs (p : Nat) (f : Port → Port) : (st.updPort p f).convs = st.convs := rfl
@[simp] theorem State.updPort_convNum (p : Nat) (f : Port → Port) : (st.updPort p f).convNum = st.convNum := rfl
@[simp] theorem State.updPort_weirs (p : Nat) (f : Port → Port) : (st.updPort p f).weirs = st.weirs := rfl
@[simp] theorem State.updPort_redirs (p : Nat) (f : Port → Port) : (st.updPort p f).redirs = st.redirs := rfl
@[simp] theorem State.updPort_redirHeld (p : Nat) (f : Port → Port) : (st.updPort p f).redirHeld = st.redirHeld := rfl
@[simp] theorem State.updPort_landing (p : Nat) (f : Port → Port) : (st.updPort p f).landing = st.landing := rfl
@[simp] theorem State.updPort_eventQ (p : Nat) (f : Port → Port) : (st.updPort p f).eventQ = st.eventQ := rfl
@[simp] theorem State.updPort_downPorts (p : Nat) (f : Port → Port) : (st.updPort p f).downPorts = st.downPorts := rfl
@[simp] theorem State.updPort_mode (p : Nat) (f : Port → Port) : (st.updPort p f).mode = st.mode := rfl
@[simp] theorem State.updPort_pool (p : Nat) (f : Port → Port) : (st.updPort p f).pool = st.pool := rfl
@[simp] theorem State.updPort_ctlPort (p : Nat) (f : Port → Port) : (st.updPort p f).ctlPort = st.ctlPort := rfl
@[simp] theorem State.updPort_ctlToken (p : Nat) (f : Port → Port) : (st.updPort p f).ctlToken = st.ctlToken := rfl
@[simp] theorem State.updPort_ctlLease (p : Nat) (f : Port → Port) : (st.updPort p f).ctlLease = st.ctlLease := rfl
@[simp] theorem State.updPort_ctlQ (p : Nat) (f : Port → Port) : (st.updPort p f).ctlQ = st.ctlQ := rfl
@[simp] theorem State.updPort_ctxQ (p : Nat) (f : Port → Port) : (st.updPort p f).ctxQ = st.ctxQ := rfl
@[simp] theorem State.updPort_wQ (p : Nat) (f : Port → Port) : (st.updPort p f).wQ = st.wQ := rfl
@[simp] theorem State.updPort_ckQ (p : Nat) (f : Port → Port) : (st.updPort p f).ckQ = st.ckQ := rfl
@[simp] theorem State.updPort_repQ (p : Nat) (f : Port → Port) : (st.updPort p f).repQ = st.repQ := rfl
@[simp] theorem State.updPort_errWindow (p : Nat) (f : Port → Port) : (st.updPort p f).errWindow = st.errWindow := rfl
@[simp] theorem State.updPort_errThresh (p : Nat) (f : Port → Port) : (st.updPort p f).errThresh = st.errThresh := rfl
@[simp] theorem State.updPort_errEvents (p : Nat) (f : Port → Port) : (st.updPort p f).errEvents = st.errEvents := rfl
@[simp] theorem State.updPort_cuts (p : Nat) (f : Port → Port) : (st.updPort p f).cuts = st.cuts := rfl
@[simp] theorem State.updPort_reelSize (p : Nat) (f : Port → Port) : (st.updPort p f).reelSize = st.reelSize := rfl
@[simp] theorem State.updPort_reelDrain (p : Nat) (f : Port → Port) : (st.updPort p f).reelDrain = st.reelDrain := rfl
@[simp] theorem State.updPort_reelMode (p : Nat) (f : Port → Port) : (st.updPort p f).reelMode = st.reelMode := rfl
@[simp] theorem State.updPort_reels (p : Nat) (f : Port → Port) : (st.updPort p f).reels = st.reels := rfl
@[simp] theorem State.updPort_closedTakes (p : Nat) (f : Port → Port) : (st.updPort p f).closedTakes = st.closedTakes := rfl
@[simp] theorem State.updPort_images (p : Nat) (f : Port → Port) : (st.updPort p f).images = st.images := rfl
@[simp] theorem State.updPort_manifests (p : Nat) (f : Port → Port) : (st.updPort p f).manifests = st.manifests := rfl
@[simp] theorem State.updPort_drBase (p : Nat) (f : Port → Port) : (st.updPort p f).drBase = st.drBase := rfl
@[simp] theorem State.updPort_drSize (p : Nat) (f : Port → Port) : (st.updPort p f).drSize = st.drSize := rfl
@[simp] theorem State.updPort_drCons (p : Nat) (f : Port → Port) : (st.updPort p f).drCons = st.drCons := rfl
@[simp] theorem State.updPort_drProd (p : Nat) (f : Port → Port) : (st.updPort p f).drProd = st.drProd := rfl
@[simp] theorem State.updPort_retiredPipes (p : Nat) (f : Port → Port) : (st.updPort p f).retiredPipes = st.retiredPipes := rfl
@[simp] theorem State.updPort_retiring (p : Nat) (f : Port → Port) : (st.updPort p f).retiring = st.retiring := rfl
@[simp] theorem State.updPort_retiredRows (p : Nat) (f : Port → Port) : (st.updPort p f).retiredRows = st.retiredRows := rfl
@[simp] theorem State.updPort_retiredWays (p : Nat) (f : Port → Port) : (st.updPort p f).retiredWays = st.retiredWays := rfl
@[simp] theorem State.updPort_retiredHbm (p : Nat) (f : Port → Port) : (st.updPort p f).retiredHbm = st.retiredHbm := rfl
@[simp] theorem State.updPort_retiredPages (p : Nat) (f : Port → Port) : (st.updPort p f).retiredPages = st.retiredPages := rfl
@[simp] theorem State.updPort_spareRows (p : Nat) (f : Port → Port) : (st.updPort p f).spareRows = st.spareRows := rfl
@[simp] theorem State.updPort_laneDrops (p : Nat) (f : Port → Port) : (st.updPort p f).laneDrops = st.laneDrops := rfl
@[simp] theorem State.updPort_captureEn (p : Nat) (f : Port → Port) : (st.updPort p f).captureEn = st.captureEn := rfl
@[simp] theorem State.updPort_serialNo (p : Nat) (f : Port → Port) : (st.updPort p f).serialNo = st.serialNo := rfl
@[simp] theorem State.updPort_rowsDue (p : Nat) (f : Port → Port) : (st.updPort p f).rowsDue = st.rowsDue := rfl
@[simp] theorem State.updPort_fwStages (p : Nat) (f : Port → Port) : (st.updPort p f).fwStages = st.fwStages := rfl
@[simp] theorem State.updPort_fwBanks (p : Nat) (f : Port → Port) : (st.updPort p f).fwBanks = st.fwBanks := rfl
@[simp] theorem State.updPort_fwActive (p : Nat) (f : Port → Port) : (st.updPort p f).fwActive = st.fwActive := rfl
@[simp] theorem State.updPort_fwPending (p : Nat) (f : Port → Port) : (st.updPort p f).fwPending = st.fwPending := rfl
@[simp] theorem State.updPort_fwFuse (p : Nat) (f : Port → Port) : (st.updPort p f).fwFuse = st.fwFuse := rfl
@[simp] theorem State.updPort_recovery (p : Nat) (f : Port → Port) : (st.updPort p f).recovery = st.recovery := rfl
@[simp] theorem State.updPort_mgmtAddr (p : Nat) (f : Port → Port) : (st.updPort p f).mgmtAddr = st.mgmtAddr := rfl
@[simp] theorem State.updPort_mgmtSources (p : Nat) (f : Port → Port) : (st.updPort p f).mgmtSources = st.mgmtSources := rfl
@[simp] theorem State.updPort_mgmtSeen (p : Nat) (f : Port → Port) : (st.updPort p f).mgmtSeen = st.mgmtSeen := rfl
@[simp] theorem State.updPort_mgmtOut (p : Nat) (f : Port → Port) : (st.updPort p f).mgmtOut = st.mgmtOut := rfl
@[simp] theorem State.updPort_clock (p : Nat) (f : Port → Port) : (st.updPort p f).clock = st.clock := rfl
@[simp] theorem State.updPort_hubcyc (p : Nat) (f : Port → Port) : (st.updPort p f).hubcyc = st.hubcyc := rfl
@[simp] theorem State.updPort_tai (p : Nat) (f : Port → Port) : (st.updPort p f).tai = st.tai := rfl
@[simp] theorem State.updPort_ptpLocked (p : Nat) (f : Port → Port) : (st.updPort p f).ptpLocked = st.ptpLocked := rfl
@[simp] theorem State.updPort_ptpSince (p : Nat) (f : Port → Port) : (st.updPort p f).ptpSince = st.ptpSince := rfl
@[simp] theorem State.updPort_ptpSlew (p : Nat) (f : Port → Port) : (st.updPort p f).ptpSlew = st.ptpSlew := rfl
@[simp] theorem State.updPort_ptpRem (p : Nat) (f : Port → Port) : (st.updPort p f).ptpRem = st.ptpRem := rfl
@[simp] theorem State.updPort_ptpDomain (p : Nat) (f : Port → Port) : (st.updPort p f).ptpDomain = st.ptpDomain := rfl
@[simp] theorem State.updPort_throttled (p : Nat) (f : Port → Port) : (st.updPort p f).throttled = st.throttled := rfl
@[simp] theorem State.updPort_cxlHost (p : Nat) (f : Port → Port) : (st.updPort p f).cxlHost = st.cxlHost := rfl
@[simp] theorem State.updPort_frozen (p : Nat) (f : Port → Port) : (st.updPort p f).frozen = st.frozen := rfl
@[simp] theorem State.updPort_power (p : Nat) (f : Port → Port) : (st.updPort p f).power = st.power := rfl
@[simp] theorem State.updPort_idleFor (p : Nat) (f : Port → Port) : (st.updPort p f).idleFor = st.idleFor := rfl
@[simp] theorem State.updPort_signals (p : Nat) (f : Port → Port) : (st.updPort p f).signals = st.signals := rfl
@[simp] theorem State.updPort_agenda (p : Nat) (f : Port → Port) : (st.updPort p f).agenda = st.agenda := rfl
@[simp] theorem State.updPort_cursor (p : Nat) (f : Port → Port) : (st.updPort p f).cursor = st.cursor := rfl
@[simp] theorem State.updPort_issuer (p : Nat) (f : Port → Port) : (st.updPort p f).issuer = st.issuer := rfl
@[simp] theorem State.updPort_free (p : Nat) (f : Port → Port) : (st.updPort p f).free = st.free := rfl
@[simp] theorem State.updPort_issueNo (p : Nat) (f : Port → Port) : (st.updPort p f).issueNo = st.issueNo := rfl
@[simp] theorem State.updPort_taiRem (p : Nat) (f : Port → Port) : (st.updPort p f).taiRem = st.taiRem := rfl
/-! updWeir. -/
@[simp] theorem State.updWeir_mem (p : Nat) (f : Weir → Weir) : (st.updWeir p f).mem = st.mem := rfl
@[simp] theorem State.updWeir_poisoned (p : Nat) (f : Weir → Weir) : (st.updWeir p f).poisoned = st.poisoned := rfl
@[simp] theorem State.updWeir_cachePoison (p : Nat) (f : Weir → Weir) : (st.updWeir p f).cachePoison = st.cachePoison := rfl
@[simp] theorem State.updWeir_uBytes (p : Nat) (f : Weir → Weir) : (st.updWeir p f).uBytes = st.uBytes := rfl
@[simp] theorem State.updWeir_groups (p : Nat) (f : Weir → Weir) : (st.updWeir p f).groups = st.groups := rfl
@[simp] theorem State.updWeir_workgroups (p : Nat) (f : Weir → Weir) : (st.updWeir p f).workgroups = st.workgroups := rfl
@[simp] theorem State.updWeir_grids (p : Nat) (f : Weir → Weir) : (st.updWeir p f).grids = st.grids := rfl
@[simp] theorem State.updWeir_launches (p : Nat) (f : Weir → Weir) : (st.updWeir p f).launches = st.launches := rfl
@[simp] theorem State.updWeir_ctxs (p : Nat) (f : Weir → Weir) : (st.updWeir p f).ctxs = st.ctxs := rfl
@[simp] theorem State.updWeir_cores (p : Nat) (f : Weir → Weir) : (st.updWeir p f).cores = st.cores := rfl
@[simp] theorem State.updWeir_clusters (p : Nat) (f : Weir → Weir) : (st.updWeir p f).clusters = st.clusters := rfl
@[simp] theorem State.updWeir_dies (p : Nat) (f : Weir → Weir) : (st.updWeir p f).dies = st.dies := rfl
@[simp] theorem State.updWeir_spillways (p : Nat) (f : Weir → Weir) : (st.updWeir p f).spillways = st.spillways := rfl
@[simp] theorem State.updWeir_dir (p : Nat) (f : Weir → Weir) : (st.updWeir p f).dir = st.dir := rfl
@[simp] theorem State.updWeir_l3 (p : Nat) (f : Weir → Weir) : (st.updWeir p f).l3 = st.l3 := rfl
@[simp] theorem State.updWeir_moveQ (p : Nat) (f : Weir → Weir) : (st.updWeir p f).moveQ = st.moveQ := rfl
@[simp] theorem State.updWeir_tlb (p : Nat) (f : Weir → Weir) : (st.updWeir p f).tlb = st.tlb := rfl
@[simp] theorem State.updWeir_ticket (p : Nat) (f : Weir → Weir) : (st.updWeir p f).ticket = st.ticket := rfl
@[simp] theorem State.updWeir_devno (p : Nat) (f : Weir → Weir) : (st.updWeir p f).devno = st.devno := rfl
@[simp] theorem State.updWeir_peertmo (p : Nat) (f : Weir → Weir) : (st.updWeir p f).peertmo = st.peertmo := rfl
@[simp] theorem State.updWeir_dead (p : Nat) (f : Weir → Weir) : (st.updWeir p f).dead = st.dead := rfl
@[simp] theorem State.updWeir_domains (p : Nat) (f : Weir → Weir) : (st.updWeir p f).domains = st.domains := rfl
@[simp] theorem State.updWeir_dropcnt (p : Nat) (f : Weir → Weir) : (st.updWeir p f).dropcnt = st.dropcnt := rfl
@[simp] theorem State.updWeir_seqOut (p : Nat) (f : Weir → Weir) : (st.updWeir p f).seqOut = st.seqOut := rfl
@[simp] theorem State.updWeir_unacked (p : Nat) (f : Weir → Weir) : (st.updWeir p f).unacked = st.unacked := rfl
@[simp] theorem State.updWeir_triples (p : Nat) (f : Weir → Weir) : (st.updWeir p f).triples = st.triples := rfl
@[simp] theorem State.updWeir_outbox (p : Nat) (f : Weir → Weir) : (st.updWeir p f).outbox = st.outbox := rfl
@[simp] theorem State.updWeir_convs (p : Nat) (f : Weir → Weir) : (st.updWeir p f).convs = st.convs := rfl
@[simp] theorem State.updWeir_convNum (p : Nat) (f : Weir → Weir) : (st.updWeir p f).convNum = st.convNum := rfl
@[simp] theorem State.updWeir_redirs (p : Nat) (f : Weir → Weir) : (st.updWeir p f).redirs = st.redirs := rfl
@[simp] theorem State.updWeir_redirHeld (p : Nat) (f : Weir → Weir) : (st.updWeir p f).redirHeld = st.redirHeld := rfl
@[simp] theorem State.updWeir_landing (p : Nat) (f : Weir → Weir) : (st.updWeir p f).landing = st.landing := rfl
@[simp] theorem State.updWeir_eventQ (p : Nat) (f : Weir → Weir) : (st.updWeir p f).eventQ = st.eventQ := rfl
@[simp] theorem State.updWeir_downPorts (p : Nat) (f : Weir → Weir) : (st.updWeir p f).downPorts = st.downPorts := rfl
@[simp] theorem State.updWeir_mode (p : Nat) (f : Weir → Weir) : (st.updWeir p f).mode = st.mode := rfl
@[simp] theorem State.updWeir_pool (p : Nat) (f : Weir → Weir) : (st.updWeir p f).pool = st.pool := rfl
@[simp] theorem State.updWeir_ctlPort (p : Nat) (f : Weir → Weir) : (st.updWeir p f).ctlPort = st.ctlPort := rfl
@[simp] theorem State.updWeir_ctlToken (p : Nat) (f : Weir → Weir) : (st.updWeir p f).ctlToken = st.ctlToken := rfl
@[simp] theorem State.updWeir_ctlLease (p : Nat) (f : Weir → Weir) : (st.updWeir p f).ctlLease = st.ctlLease := rfl
@[simp] theorem State.updWeir_ports (p : Nat) (f : Weir → Weir) : (st.updWeir p f).ports = st.ports := rfl
@[simp] theorem State.updWeir_ctlQ (p : Nat) (f : Weir → Weir) : (st.updWeir p f).ctlQ = st.ctlQ := rfl
@[simp] theorem State.updWeir_ctxQ (p : Nat) (f : Weir → Weir) : (st.updWeir p f).ctxQ = st.ctxQ := rfl
@[simp] theorem State.updWeir_wQ (p : Nat) (f : Weir → Weir) : (st.updWeir p f).wQ = st.wQ := rfl
@[simp] theorem State.updWeir_ckQ (p : Nat) (f : Weir → Weir) : (st.updWeir p f).ckQ = st.ckQ := rfl
@[simp] theorem State.updWeir_repQ (p : Nat) (f : Weir → Weir) : (st.updWeir p f).repQ = st.repQ := rfl
@[simp] theorem State.updWeir_errWindow (p : Nat) (f : Weir → Weir) : (st.updWeir p f).errWindow = st.errWindow := rfl
@[simp] theorem State.updWeir_errThresh (p : Nat) (f : Weir → Weir) : (st.updWeir p f).errThresh = st.errThresh := rfl
@[simp] theorem State.updWeir_errEvents (p : Nat) (f : Weir → Weir) : (st.updWeir p f).errEvents = st.errEvents := rfl
@[simp] theorem State.updWeir_cuts (p : Nat) (f : Weir → Weir) : (st.updWeir p f).cuts = st.cuts := rfl
@[simp] theorem State.updWeir_reelSize (p : Nat) (f : Weir → Weir) : (st.updWeir p f).reelSize = st.reelSize := rfl
@[simp] theorem State.updWeir_reelDrain (p : Nat) (f : Weir → Weir) : (st.updWeir p f).reelDrain = st.reelDrain := rfl
@[simp] theorem State.updWeir_reelMode (p : Nat) (f : Weir → Weir) : (st.updWeir p f).reelMode = st.reelMode := rfl
@[simp] theorem State.updWeir_reels (p : Nat) (f : Weir → Weir) : (st.updWeir p f).reels = st.reels := rfl
@[simp] theorem State.updWeir_closedTakes (p : Nat) (f : Weir → Weir) : (st.updWeir p f).closedTakes = st.closedTakes := rfl
@[simp] theorem State.updWeir_images (p : Nat) (f : Weir → Weir) : (st.updWeir p f).images = st.images := rfl
@[simp] theorem State.updWeir_manifests (p : Nat) (f : Weir → Weir) : (st.updWeir p f).manifests = st.manifests := rfl
@[simp] theorem State.updWeir_drBase (p : Nat) (f : Weir → Weir) : (st.updWeir p f).drBase = st.drBase := rfl
@[simp] theorem State.updWeir_drSize (p : Nat) (f : Weir → Weir) : (st.updWeir p f).drSize = st.drSize := rfl
@[simp] theorem State.updWeir_drCons (p : Nat) (f : Weir → Weir) : (st.updWeir p f).drCons = st.drCons := rfl
@[simp] theorem State.updWeir_drProd (p : Nat) (f : Weir → Weir) : (st.updWeir p f).drProd = st.drProd := rfl
@[simp] theorem State.updWeir_retiredPipes (p : Nat) (f : Weir → Weir) : (st.updWeir p f).retiredPipes = st.retiredPipes := rfl
@[simp] theorem State.updWeir_retiring (p : Nat) (f : Weir → Weir) : (st.updWeir p f).retiring = st.retiring := rfl
@[simp] theorem State.updWeir_retiredRows (p : Nat) (f : Weir → Weir) : (st.updWeir p f).retiredRows = st.retiredRows := rfl
@[simp] theorem State.updWeir_retiredWays (p : Nat) (f : Weir → Weir) : (st.updWeir p f).retiredWays = st.retiredWays := rfl
@[simp] theorem State.updWeir_retiredHbm (p : Nat) (f : Weir → Weir) : (st.updWeir p f).retiredHbm = st.retiredHbm := rfl
@[simp] theorem State.updWeir_retiredPages (p : Nat) (f : Weir → Weir) : (st.updWeir p f).retiredPages = st.retiredPages := rfl
@[simp] theorem State.updWeir_spareRows (p : Nat) (f : Weir → Weir) : (st.updWeir p f).spareRows = st.spareRows := rfl
@[simp] theorem State.updWeir_laneDrops (p : Nat) (f : Weir → Weir) : (st.updWeir p f).laneDrops = st.laneDrops := rfl
@[simp] theorem State.updWeir_captureEn (p : Nat) (f : Weir → Weir) : (st.updWeir p f).captureEn = st.captureEn := rfl
@[simp] theorem State.updWeir_serialNo (p : Nat) (f : Weir → Weir) : (st.updWeir p f).serialNo = st.serialNo := rfl
@[simp] theorem State.updWeir_rowsDue (p : Nat) (f : Weir → Weir) : (st.updWeir p f).rowsDue = st.rowsDue := rfl
@[simp] theorem State.updWeir_fwStages (p : Nat) (f : Weir → Weir) : (st.updWeir p f).fwStages = st.fwStages := rfl
@[simp] theorem State.updWeir_fwBanks (p : Nat) (f : Weir → Weir) : (st.updWeir p f).fwBanks = st.fwBanks := rfl
@[simp] theorem State.updWeir_fwActive (p : Nat) (f : Weir → Weir) : (st.updWeir p f).fwActive = st.fwActive := rfl
@[simp] theorem State.updWeir_fwPending (p : Nat) (f : Weir → Weir) : (st.updWeir p f).fwPending = st.fwPending := rfl
@[simp] theorem State.updWeir_fwFuse (p : Nat) (f : Weir → Weir) : (st.updWeir p f).fwFuse = st.fwFuse := rfl
@[simp] theorem State.updWeir_recovery (p : Nat) (f : Weir → Weir) : (st.updWeir p f).recovery = st.recovery := rfl
@[simp] theorem State.updWeir_mgmtAddr (p : Nat) (f : Weir → Weir) : (st.updWeir p f).mgmtAddr = st.mgmtAddr := rfl
@[simp] theorem State.updWeir_mgmtSources (p : Nat) (f : Weir → Weir) : (st.updWeir p f).mgmtSources = st.mgmtSources := rfl
@[simp] theorem State.updWeir_mgmtSeen (p : Nat) (f : Weir → Weir) : (st.updWeir p f).mgmtSeen = st.mgmtSeen := rfl
@[simp] theorem State.updWeir_mgmtOut (p : Nat) (f : Weir → Weir) : (st.updWeir p f).mgmtOut = st.mgmtOut := rfl
@[simp] theorem State.updWeir_clock (p : Nat) (f : Weir → Weir) : (st.updWeir p f).clock = st.clock := rfl
@[simp] theorem State.updWeir_hubcyc (p : Nat) (f : Weir → Weir) : (st.updWeir p f).hubcyc = st.hubcyc := rfl
@[simp] theorem State.updWeir_tai (p : Nat) (f : Weir → Weir) : (st.updWeir p f).tai = st.tai := rfl
@[simp] theorem State.updWeir_ptpLocked (p : Nat) (f : Weir → Weir) : (st.updWeir p f).ptpLocked = st.ptpLocked := rfl
@[simp] theorem State.updWeir_ptpSince (p : Nat) (f : Weir → Weir) : (st.updWeir p f).ptpSince = st.ptpSince := rfl
@[simp] theorem State.updWeir_ptpSlew (p : Nat) (f : Weir → Weir) : (st.updWeir p f).ptpSlew = st.ptpSlew := rfl
@[simp] theorem State.updWeir_ptpRem (p : Nat) (f : Weir → Weir) : (st.updWeir p f).ptpRem = st.ptpRem := rfl
@[simp] theorem State.updWeir_ptpDomain (p : Nat) (f : Weir → Weir) : (st.updWeir p f).ptpDomain = st.ptpDomain := rfl
@[simp] theorem State.updWeir_throttled (p : Nat) (f : Weir → Weir) : (st.updWeir p f).throttled = st.throttled := rfl
@[simp] theorem State.updWeir_cxlHost (p : Nat) (f : Weir → Weir) : (st.updWeir p f).cxlHost = st.cxlHost := rfl
@[simp] theorem State.updWeir_frozen (p : Nat) (f : Weir → Weir) : (st.updWeir p f).frozen = st.frozen := rfl
@[simp] theorem State.updWeir_power (p : Nat) (f : Weir → Weir) : (st.updWeir p f).power = st.power := rfl
@[simp] theorem State.updWeir_idleFor (p : Nat) (f : Weir → Weir) : (st.updWeir p f).idleFor = st.idleFor := rfl
@[simp] theorem State.updWeir_signals (p : Nat) (f : Weir → Weir) : (st.updWeir p f).signals = st.signals := rfl
@[simp] theorem State.updWeir_agenda (p : Nat) (f : Weir → Weir) : (st.updWeir p f).agenda = st.agenda := rfl
@[simp] theorem State.updWeir_cursor (p : Nat) (f : Weir → Weir) : (st.updWeir p f).cursor = st.cursor := rfl
@[simp] theorem State.updWeir_issuer (p : Nat) (f : Weir → Weir) : (st.updWeir p f).issuer = st.issuer := rfl
@[simp] theorem State.updWeir_free (p : Nat) (f : Weir → Weir) : (st.updWeir p f).free = st.free := rfl
@[simp] theorem State.updWeir_issueNo (p : Nat) (f : Weir → Weir) : (st.updWeir p f).issueNo = st.issueNo := rfl
@[simp] theorem State.updWeir_taiRem (p : Nat) (f : Weir → Weir) : (st.updWeir p f).taiRem = st.taiRem := rfl
/-! The step's begin. -/
@[simp] theorem State.begin_mem : st.begin.mem = st.mem := rfl
@[simp] theorem State.begin_poisoned : st.begin.poisoned = st.poisoned := rfl
@[simp] theorem State.begin_cachePoison : st.begin.cachePoison = st.cachePoison := rfl
@[simp] theorem State.begin_uBytes : st.begin.uBytes = st.uBytes := rfl
@[simp] theorem State.begin_groups : st.begin.groups = st.groups := rfl
@[simp] theorem State.begin_workgroups : st.begin.workgroups = st.workgroups := rfl
@[simp] theorem State.begin_grids : st.begin.grids = st.grids := rfl
@[simp] theorem State.begin_launches : st.begin.launches = st.launches := rfl
@[simp] theorem State.begin_ctxs : st.begin.ctxs = st.ctxs := rfl
@[simp] theorem State.begin_cores : st.begin.cores = st.cores := rfl
@[simp] theorem State.begin_clusters : st.begin.clusters = st.clusters := rfl
@[simp] theorem State.begin_dies : st.begin.dies = st.dies := rfl
@[simp] theorem State.begin_spillways : st.begin.spillways = st.spillways := rfl
@[simp] theorem State.begin_dir : st.begin.dir = st.dir := rfl
@[simp] theorem State.begin_l3 : st.begin.l3 = st.l3 := rfl
@[simp] theorem State.begin_moveQ : st.begin.moveQ = st.moveQ := rfl
@[simp] theorem State.begin_tlb : st.begin.tlb = st.tlb := rfl
@[simp] theorem State.begin_ticket : st.begin.ticket = st.ticket := rfl
@[simp] theorem State.begin_devno : st.begin.devno = st.devno := rfl
@[simp] theorem State.begin_peertmo : st.begin.peertmo = st.peertmo := rfl
@[simp] theorem State.begin_dead : st.begin.dead = st.dead := rfl
@[simp] theorem State.begin_domains : st.begin.domains = st.domains := rfl
@[simp] theorem State.begin_dropcnt : st.begin.dropcnt = st.dropcnt := rfl
@[simp] theorem State.begin_seqOut : st.begin.seqOut = st.seqOut := rfl
@[simp] theorem State.begin_unacked : st.begin.unacked = st.unacked := rfl
@[simp] theorem State.begin_triples : st.begin.triples = st.triples := rfl
@[simp] theorem State.begin_outbox : st.begin.outbox = st.outbox := rfl
@[simp] theorem State.begin_convs : st.begin.convs = st.convs := rfl
@[simp] theorem State.begin_convNum : st.begin.convNum = st.convNum := rfl
@[simp] theorem State.begin_weirs : st.begin.weirs = st.weirs := rfl
@[simp] theorem State.begin_redirs : st.begin.redirs = st.redirs := rfl
@[simp] theorem State.begin_redirHeld : st.begin.redirHeld = st.redirHeld := rfl
@[simp] theorem State.begin_landing : st.begin.landing = st.landing := rfl
@[simp] theorem State.begin_eventQ : st.begin.eventQ = st.eventQ := rfl
@[simp] theorem State.begin_downPorts : st.begin.downPorts = st.downPorts := rfl
@[simp] theorem State.begin_mode : st.begin.mode = st.mode := rfl
@[simp] theorem State.begin_pool : st.begin.pool = st.pool := rfl
@[simp] theorem State.begin_ctlPort : st.begin.ctlPort = st.ctlPort := rfl
@[simp] theorem State.begin_ctlToken : st.begin.ctlToken = st.ctlToken := rfl
@[simp] theorem State.begin_ctlLease : st.begin.ctlLease = st.ctlLease := rfl
@[simp] theorem State.begin_ports : st.begin.ports = st.ports := rfl
@[simp] theorem State.begin_ctlQ : st.begin.ctlQ = st.ctlQ := rfl
@[simp] theorem State.begin_ctxQ : st.begin.ctxQ = st.ctxQ := rfl
@[simp] theorem State.begin_wQ : st.begin.wQ = st.wQ := rfl
@[simp] theorem State.begin_ckQ : st.begin.ckQ = st.ckQ := rfl
@[simp] theorem State.begin_repQ : st.begin.repQ = st.repQ := rfl
@[simp] theorem State.begin_errWindow : st.begin.errWindow = st.errWindow := rfl
@[simp] theorem State.begin_errThresh : st.begin.errThresh = st.errThresh := rfl
@[simp] theorem State.begin_errEvents : st.begin.errEvents = st.errEvents := rfl
@[simp] theorem State.begin_cuts : st.begin.cuts = st.cuts := rfl
@[simp] theorem State.begin_reelSize : st.begin.reelSize = st.reelSize := rfl
@[simp] theorem State.begin_reelDrain : st.begin.reelDrain = st.reelDrain := rfl
@[simp] theorem State.begin_reelMode : st.begin.reelMode = st.reelMode := rfl
@[simp] theorem State.begin_reels : st.begin.reels = st.reels := rfl
@[simp] theorem State.begin_closedTakes : st.begin.closedTakes = st.closedTakes := rfl
@[simp] theorem State.begin_images : st.begin.images = st.images := rfl
@[simp] theorem State.begin_manifests : st.begin.manifests = st.manifests := rfl
@[simp] theorem State.begin_drBase : st.begin.drBase = st.drBase := rfl
@[simp] theorem State.begin_drSize : st.begin.drSize = st.drSize := rfl
@[simp] theorem State.begin_drCons : st.begin.drCons = st.drCons := rfl
@[simp] theorem State.begin_drProd : st.begin.drProd = st.drProd := rfl
@[simp] theorem State.begin_retiredPipes : st.begin.retiredPipes = st.retiredPipes := rfl
@[simp] theorem State.begin_retiring : st.begin.retiring = st.retiring := rfl
@[simp] theorem State.begin_retiredRows : st.begin.retiredRows = st.retiredRows := rfl
@[simp] theorem State.begin_retiredWays : st.begin.retiredWays = st.retiredWays := rfl
@[simp] theorem State.begin_retiredHbm : st.begin.retiredHbm = st.retiredHbm := rfl
@[simp] theorem State.begin_retiredPages : st.begin.retiredPages = st.retiredPages := rfl
@[simp] theorem State.begin_spareRows : st.begin.spareRows = st.spareRows := rfl
@[simp] theorem State.begin_laneDrops : st.begin.laneDrops = st.laneDrops := rfl
@[simp] theorem State.begin_captureEn : st.begin.captureEn = st.captureEn := rfl
@[simp] theorem State.begin_serialNo : st.begin.serialNo = st.serialNo := rfl
@[simp] theorem State.begin_rowsDue : st.begin.rowsDue = st.rowsDue := rfl
@[simp] theorem State.begin_fwStages : st.begin.fwStages = st.fwStages := rfl
@[simp] theorem State.begin_fwBanks : st.begin.fwBanks = st.fwBanks := rfl
@[simp] theorem State.begin_fwActive : st.begin.fwActive = st.fwActive := rfl
@[simp] theorem State.begin_fwPending : st.begin.fwPending = st.fwPending := rfl
@[simp] theorem State.begin_fwFuse : st.begin.fwFuse = st.fwFuse := rfl
@[simp] theorem State.begin_recovery : st.begin.recovery = st.recovery := rfl
@[simp] theorem State.begin_mgmtAddr : st.begin.mgmtAddr = st.mgmtAddr := rfl
@[simp] theorem State.begin_mgmtSources : st.begin.mgmtSources = st.mgmtSources := rfl
@[simp] theorem State.begin_mgmtSeen : st.begin.mgmtSeen = st.mgmtSeen := rfl
@[simp] theorem State.begin_mgmtOut : st.begin.mgmtOut = st.mgmtOut := rfl
@[simp] theorem State.begin_clock : st.begin.clock = st.clock := rfl
@[simp] theorem State.begin_hubcyc : st.begin.hubcyc = st.hubcyc := rfl
@[simp] theorem State.begin_tai : st.begin.tai = st.tai := rfl
@[simp] theorem State.begin_ptpLocked : st.begin.ptpLocked = st.ptpLocked := rfl
@[simp] theorem State.begin_ptpSince : st.begin.ptpSince = st.ptpSince := rfl
@[simp] theorem State.begin_ptpSlew : st.begin.ptpSlew = st.ptpSlew := rfl
@[simp] theorem State.begin_ptpRem : st.begin.ptpRem = st.ptpRem := rfl
@[simp] theorem State.begin_ptpDomain : st.begin.ptpDomain = st.ptpDomain := rfl
@[simp] theorem State.begin_throttled : st.begin.throttled = st.throttled := rfl
@[simp] theorem State.begin_cxlHost : st.begin.cxlHost = st.cxlHost := rfl
@[simp] theorem State.begin_frozen : st.begin.frozen = st.frozen := rfl
@[simp] theorem State.begin_power : st.begin.power = st.power := rfl
@[simp] theorem State.begin_idleFor : st.begin.idleFor = st.idleFor := rfl
@[simp] theorem State.begin_signals : st.begin.signals = st.signals := rfl
@[simp] theorem State.begin_issuer : st.begin.issuer = st.issuer := rfl
@[simp] theorem State.begin_free : st.begin.free = st.free := rfl
@[simp] theorem State.begin_issueNo : st.begin.issueNo = st.issueNo := rfl
@[simp] theorem State.begin_taiRem : st.begin.taiRem = st.taiRem := rfl
@[simp] theorem State.begin_agenda : st.begin.agenda = st.agenda.tail := rfl
@[simp] theorem State.begin_cursor : st.begin.cursor = st.nextTurn := rfl

/-! What is read back where an update acts. -/
@[simp] theorem State.putGroup_get (gid : Nat) (g : Group) : mget (st.putGroup gid g).groups gid = some g := mget_mset_same _ _ _
theorem State.putGroup_other (gid k : Nat) (g : Group) (h : k ≠ gid) : mget (st.putGroup gid g).groups k = mget st.groups k := mget_mset_other _ _ _ _ h
@[simp] theorem State.updGroup_get (gid : Nat) (f : Group → Group) : mget (st.updGroup gid f).groups gid = (mget st.groups gid).map f := mget_mupd_same _ _ _
theorem State.updGroup_other (gid k : Nat) (f : Group → Group) (h : k ≠ gid) : mget (st.updGroup gid f).groups k = mget st.groups k := mget_mupd_other _ _ _ _ h
@[simp] theorem State.updWg_get (w : Nat) (f : Workgroup → Workgroup) : mget (st.updWg w f).workgroups w = (mget st.workgroups w).map f := mget_mupd_same _ _ _
theorem State.updWg_other (w k : Nat) (f : Workgroup → Workgroup) (h : k ≠ w) : mget (st.updWg w f).workgroups k = mget st.workgroups k := mget_mupd_other _ _ _ _ h
@[simp] theorem State.updCtx_get (c : Nat) (f : Ctx → Ctx) : mget (st.updCtx c f).ctxs c = (mget st.ctxs c).map f := mget_mupd_same _ _ _
theorem State.updCtx_other (c k : Nat) (f : Ctx → Ctx) (h : k ≠ c) : mget (st.updCtx c f).ctxs k = mget st.ctxs k := mget_mupd_other _ _ _ _ h
@[simp] theorem State.updGrid_get (k : Nat) (f : Grid → Grid) : mget (st.updGrid k f).grids k = (mget st.grids k).map f := mget_mupd_same _ _ _
@[simp] theorem State.updDie_die (d : Nat) (f : Die → Die) : (st.updDie d f).die d = f (st.die d) := mgetD_mset_same _ _ _ _
theorem State.updDie_other (d k : Nat) (f : Die → Die) (h : k ≠ d) : (st.updDie d f).die k = st.die k := mgetD_mset_other _ _ _ _ _ h
@[simp] theorem State.updCluster_cluster (c : Nat) (f : Cluster → Cluster) : (st.updCluster c f).cluster c = f (st.cluster c) := mgetD_mset_same _ _ _ _
theorem State.updCluster_other (c k : Nat) (f : Cluster → Cluster) (h : k ≠ c) : (st.updCluster c f).cluster k = st.cluster k := mgetD_mset_other _ _ _ _ _ h
@[simp] theorem State.updPort_port (p : Nat) (f : Port → Port) : (st.updPort p f).port p = f (st.port p) := mgetD_mset_same _ _ _ _
theorem State.updPort_other (p k : Nat) (f : Port → Port) (h : k ≠ p) : (st.updPort p f).port k = st.port k := mgetD_mset_other _ _ _ _ _ h

end Sys2Proof.Machine
end

