-- ==== Sys2Proof/Laws/Frame.lean ====
section
/-! SUPPORT. What the issue of a register instruction leaves as it was, said once for every destination. -/

namespace Sys2Proof.Machine

/-! The parts of an issue. -/

theorem updCore_rest (st : State) (i : Nat) (f : Core → Core) (h : ∀ k, { f k with census := [], busy := [] } = { k with census := [], busy := [] }) :
    (∃ co, st.updCore i f = { st with cores := co }) ∧
    ∀ k, { (st.updCore i f).core k with census := [], busy := [] } = { st.core k with census := [], busy := [] } := by
  refine ⟨⟨_, rfl⟩, fun k => ?_⟩
  unfold State.updCore State.core; dsimp only
  by_cases hk : k = i
  · subst hk; rw [mgetD_mset_same]; exact h _
  · rw [mgetD_mset_other _ _ _ _ _ hk]; rfl

theorem noteIssue_rest (st : State) (gid : Nat) : (∃ co, st.noteIssue gid = { st with cores := co }) ∧
    ∀ k, { (st.noteIssue gid).core k with census := [], busy := [] } = { st.core k with census := [], busy := [] } := by
  unfold State.noteIssue
  split
  · exact updCore_rest _ _ _ fun _ => rfl
  · exact ⟨⟨_, rfl⟩, fun _ => rfl⟩

theorem census_rest (st : State) (gid : Nat) (g : Group) (s : Split) (b : Bool) (w : Nat) : ∃ co, st.census gid g s b w = { st with cores := co } ∧
    ∀ k, { (st.census gid g s b w).core k with census := [], busy := [] } = { st.core k with census := [], busy := [] } := by
  obtain ⟨⟨c1, e1⟩, n2⟩ := noteIssue_rest st gid
  have key : ∀ f : Core → Core, (∀ k, { f k with census := [], busy := [] } = { k with census := [], busy := [] }) →
      ∃ co, (st.noteIssue gid).updCore (gCore gid) f = { st with cores := co } ∧
        ∀ k, { ((st.noteIssue gid).updCore (gCore gid) f).core k with census := [], busy := [] } = { st.core k with census := [], busy := [] } :=
    fun f hf => ⟨((st.noteIssue gid).updCore (gCore gid) f).cores, by rw [e1]; rfl, fun k => ((updCore_rest _ _ f hf).2 k).trans (n2 k)⟩
  unfold State.census
  dsimp only
  split
  · apply key; intro k; rfl
  · exact ⟨c1, e1, n2⟩

/-- The group as an issue leaves it, before its counts. -/
def movedOn (slot : Nat) (sp : IssueSpec) (g : Group) : Group :=
  if sp.adv then (g.popLqs (lqsOf sp.srcs)).updSplit slot fun s => { s with pc := s.pc + 4 } else g.popLqs (lqsOf sp.srcs)

/-- The group as an issue leaves it. -/
def afterIssue (st : State) (slot : Nat) (g0 : Group) (sp : IssueSpec) (g : Group) : Group :=
  { movedOn slot sp g with
    icntC := if g0.outside then (movedOn slot sp g).icntC else ((movedOn slot sp g).icntC + 1) % 2 ^ 37
    elder := if slot = 5 then g0.elder else if g0.elderSlot = some slot then 0 else min 15 (g0.elder + 1)
    lastC := st.issueNo + 1, yielded := if sp.yields then some slot else none }

theorem retireC_rest (st : State) (gid slot : Nat) (g0 : Group) (s0 : Split) (sp : IssueSpec) : ∃ co, st.retireC gid slot g0 s0 sp =
      { st with groups := mupd st.groups gid (afterIssue st slot g0 sp), cores := co, issueNo := st.issueNo + 1 } ∧
    ∀ k, { (st.retireC gid slot g0 s0 sp).core k with census := [], busy := [] } = { st.core k with census := [], busy := [] } := by
  obtain ⟨co, h1, h2⟩ := census_rest ({ st.updGroup gid (afterIssue st slot g0 sp) with issueNo := st.issueNo + 1 }) gid g0 s0 sp.guarded (sp.gwidth g0)
  exact ⟨co, h1, h2⟩

theorem popLqs_kept (ns : List Nat) : ∀ g : Group, (g.popLqs ns).mode = g.mode ∧ (g.popLqs ns).tiles = g.tiles ∧ (g.popLqs ns).guards = g.guards ∧
    (g.popLqs ns) = { g with lq := (g.popLqs ns).lq } ∧ ∀ n, n ∉ ns → (g.popLqs ns).getLq n = g.getLq n := by
  unfold Group.popLqs
  induction ns with
  | nil => intro g; exact ⟨rfl, rfl, rfl, rfl, fun _ _ => rfl⟩
  | cons k r ih =>
    intro g
    obtain ⟨h1, h2, h3, h4, h5⟩ := ih (g.putLq k ((g.getLq k).drop 1))
    refine ⟨h1, h2, h3, ?_, fun n hn => ?_⟩
    · rw [List.foldl_cons]; rw [h4]; rfl
    · rw [List.foldl_cons, h5 n (fun h => hn (List.mem_cons_of_mem _ h))]
      exact mgetD_mput_other _ _ _ _ _ fun h => hn (h ▸ List.mem_cons_self)

theorem updSplit_kept (g : Group) (slot : Nat) (f : Split → Split) :
    (g.updSplit slot f) = { g with splits := (g.updSplit slot f).splits, handler := (g.updSplit slot f).handler } ∧
    ∀ k, k ≠ slot → (g.updSplit slot f).splitAt k = g.splitAt k := by
  unfold Group.updSplit
  cases hs : g.splitAt slot with
  | none => exact ⟨rfl, fun _ _ => rfl⟩
  | some s =>
    dsimp only
    unfold Group.setSplit Group.splitAt
    by_cases h5 : slot = 5
    · subst h5; rw [if_pos rfl]; refine ⟨rfl, fun k hk => ?_⟩; rw [if_neg hk, if_neg hk]
    · rw [if_neg h5]; refine ⟨rfl, fun k hk => ?_⟩
      by_cases hk5 : k = 5
      · subst hk5; rfl
      · rw [if_neg hk5, if_neg hk5]; exact mget_mset_other _ _ _ _ hk

theorem movedOn_kept (slot : Nat) (sp : IssueSpec) (g : Group) :
    movedOn slot sp g = { g with lq := (movedOn slot sp g).lq, splits := (movedOn slot sp g).splits, handler := (movedOn slot sp g).handler } ∧
    (∀ k, k ≠ slot → (movedOn slot sp g).splitAt k = g.splitAt k) ∧ ∀ n, n ∉ lqsOf sp.srcs → (movedOn slot sp g).getLq n = g.getLq n := by
  obtain ⟨-, -, -, e1, e2⟩ := popLqs_kept (lqsOf sp.srcs) g
  have hs : ∀ k, (g.popLqs (lqsOf sp.srcs)).splitAt k = g.splitAt k := by intro k; rw [e1]; rfl
  have e3 := updSplit_kept (g.popLqs (lqsOf sp.srcs)) slot fun s => { s with pc := s.pc + 4 }
  unfold movedOn
  by_cases ha : sp.adv = true
  · rw [if_pos ha]
    generalize (g.popLqs (lqsOf sp.srcs)).updSplit slot (fun s => { s with pc := s.pc + 4 }) = h at e3
    obtain ⟨e3, e4⟩ := e3
    refine ⟨?_, fun k hk => (e4 k hk).trans (hs k), fun n hn => ?_⟩
    · revert e3; generalize h.splits = a; generalize h.handler = b
      intro e3; rw [e3, e1]
    · rw [e3, ← e2 n hn]; rfl
  · rw [if_neg ha]
    refine ⟨?_, fun k _ => hs k, e2⟩
    revert e1; generalize (g.popLqs (lqsOf sp.srcs)).lq = a
    intro e1; rw [e1]

/-- The parts of a group that the bookkeeping of an issue leaves. -/
theorem afterIssue_kept (st : State) (slot : Nat) (g0 : Group) (sp : IssueSpec) (g : Group) : KeptInside g (afterIssue st slot g0 sp g) slot (lqsOf sp.srcs) ∧
    (afterIssue st slot g0 sp g).v = g.v ∧ (afterIssue st slot g0 sp g).p = g.p ∧ (afterIssue st slot g0 sp g).s = g.s ∧ (afterIssue st slot g0 sp g).a = g.a ∧
    (afterIssue st slot g0 sp g).d = g.d ∧ (afterIssue st slot g0 sp g).stat = g.stat ∧ (afterIssue st slot g0 sp g).sq = g.sq ∧
    (afterIssue st slot g0 sp g).xq = g.xq := by
  obtain ⟨e1, e2, e3⟩ := movedOn_kept slot sp g
  unfold afterIssue
  revert e1 e2 e3
  generalize movedOn slot sp g = h
  intro e1 e2 e3
  have e4 : ∀ (k : Nat) (x y z : Nat) (w : Option Nat), ({ h with icntC := x, elder := y, lastC := z, yielded := w } : Group).splitAt k = h.splitAt k := fun _ _ _ _ _ => rfl
  have e5 : ∀ (k : Nat) (x y z : Nat) (w : Option Nat), ({ h with icntC := x, elder := y, lastC := z, yielded := w } : Group).getLq k = h.getLq k := fun _ _ _ _ _ => rfl
  refine ⟨⟨?_, ?_, ?_, ⟨?_, ?_⟩, ⟨?_, ?_, ?_, ?_, ?_⟩, ⟨?_, ?_, ?_, ?_, ?_, ?_⟩, ⟨?_, ?_, ?_⟩, ⟨?_, ?_, ?_⟩, fun k hk => (e4 ..).trans (e2 k hk), fun n hn => (e5 ..).trans (e3 n hn)⟩,
    ?_, ?_, ?_, ?_, ?_, ?_, ?_, ?_⟩ <;> (clear e2 e3 e4 e5; rw [e1])

/-- A group put, and with a marked word its matrix flags taken, differ in the group and the pending matrix flags alone. -/
theorem takeMflags_rest (st : State) (m : BitVec 1) (g1 : Group) :
    let y := if m = 1#1 then (st.putGroup st.issuer.group g1).takeMflags st.issuer.group else st.putGroup st.issuer.group g1
    (∃ gs cl, y = { st with groups := gs, clusters := cl }) ∧ (∀ k, k ≠ st.issuer.group → mget y.groups k = mget st.groups k) ∧
    (∀ k, { y.cluster k with mflags := [] } = { st.cluster k with mflags := [] }) := by
  have hp : ∀ k, k ≠ st.issuer.group → mget (st.putGroup st.issuer.group g1).groups k = mget st.groups k := fun k hk => State.putGroup_other _ _ _ _ hk
  dsimp only
  by_cases hm : m = 1#1
  · rw [if_pos hm]
    unfold State.takeMflags
    dsimp only
    split
    · exact ⟨⟨_, _, rfl⟩, hp, fun _ => rfl⟩
    · refine ⟨⟨_, _, rfl⟩, fun k hk => ?_, fun k => ?_⟩
      · rw [State.updGroup_other _ _ _ _ hk]; exact hp k hk
      · unfold State.updCluster State.updGroup State.cluster State.putGroup; dsimp only
        by_cases hk : k = gCluster st.issuer.group
        · subst hk; rw [mgetD_mset_same]
        · rw [mgetD_mset_other _ _ _ _ _ hk]
  · rw [if_neg hm]; exact ⟨⟨_, _, rfl⟩, hp, fun _ => rfl⟩

/-- The state at the issue differs in the group and the pending matrix flags alone. -/
theorem atIssue_rest (st : State) (m : BitVec 1) (g : Group) (s : Split) (sp : IssueSpec) : (∃ gs cl, st.atIssue m g s sp = { st with groups := gs, clusters := cl }) ∧
    (∀ k, k ≠ st.issuer.group → mget (st.atIssue m g s sp).groups k = mget st.groups k) ∧
    (∀ k, { (st.atIssue m g s sp).cluster k with mflags := [] } = { st.cluster k with mflags := [] }) := by
  unfold State.atIssue
  dsimp only
  exact takeMflags_rest st m _

/-- The whole issue of an instruction that changed its own group alone. -/
theorem endsG_kept {st t : State} {m : BitVec 1} {g : Group} {s : Split} {sp : IssueSpec} {g1 : Group} (h : st.endsG m g s sp g1 = .next t) :
    KeptOutside st t st.issuer.group ∧ mget t.groups st.issuer.group = some (afterIssue (st.atIssue m g s sp) st.issuer.slot (st.groupAtIssue m g s sp) sp g1) := by
  unfold State.endsG State.endsC at h
  obtain rfl := Host.Outcome.next.inj h
  obtain ⟨⟨gs, cl, e1⟩, e2, e3⟩ := atIssue_rest st m g s sp
  obtain ⟨co, e4, e5⟩ := retireC_rest ((st.atIssue m g s sp).putGroup st.issuer.group g1) st.issuer.group st.issuer.slot (st.groupAtIssue m g s sp) s sp
  have hn : (st.atIssue m g s sp).issueNo = st.issueNo := by rw [e1]
  constructor
  · have hr : ∃ gs cl co, ((st.atIssue m g s sp).putGroup st.issuer.group g1).retireC st.issuer.group st.issuer.slot (st.groupAtIssue m g s sp) s sp =
        { st with groups := gs, clusters := cl, cores := co, issueNo := st.issueNo + 1 } := by
      rw [e4]
      generalize mupd ((st.atIssue m g s sp).putGroup st.issuer.group g1).groups _ _ = gs'
      unfold State.putGroup; dsimp only; rw [e1]; exact ⟨_, _, _, rfl⟩
    refine ⟨hr, fun a => ?_, fun k hk => ?_, fun k => ?_, fun k => ?_⟩
    · rw [e4]; unfold State.read; dsimp only; rw [State.putGroup_mem, e1]
    · rw [e4]; dsimp only; rw [mget_mupd_other _ _ _ _ hk, State.putGroup_other _ _ _ _ hk]; exact e2 k hk
    · rw [e4, ← e3 k]; rfl
    · rw [e5]; unfold State.core; rw [State.putGroup_cores, e1]; rfl
  · rw [e4]; dsimp only; rw [mget_mupd_same, State.putGroup_get]; rfl

/-! Destinations. -/

theorem KeptInside.trans {x y z : Group} {slot : Nat} {qs : List Nat} (h : KeptInside x y slot []) (k : KeptInside y z slot qs) : KeptInside x z slot qs := by
  obtain ⟨a1, a2, a3, ⟨a4, a5⟩, ⟨a6, a7, a8, a9, a10⟩, ⟨b1, b2, b3, b4, b5, b6⟩, ⟨c1, c2, c3⟩, ⟨d1, d2, d3⟩, e, f⟩ := h
  obtain ⟨p1, p2, p3, ⟨p4, p5⟩, ⟨p6, p7, p8, p9, p10⟩, ⟨q1, q2, q3, q4, q5, q6⟩, ⟨r1, r2, r3⟩, ⟨s1, s2, s3⟩, u, w⟩ := k
  exact ⟨p1.trans a1, p2.trans a2, p3.trans a3, ⟨p4.trans a4, p5.trans a5⟩, ⟨p6.trans a6, p7.trans a7, p8.trans a8, p9.trans a9, p10.trans a10⟩,
    ⟨q1.trans b1, q2.trans b2, q3.trans b3, q4.trans b4, q5.trans b5, q6.trans b6⟩, ⟨r1.trans c1, r2.trans c2, r3.trans c3⟩, ⟨s1.trans d1, s2.trans d2, s3.trans d3⟩,
    fun k hk => (u k hk).trans (e k hk), fun n hn => (w n hn).trans (f n (by simp))⟩

theorem writeOut_kept (g : Group) (d : BitVec 6) (o : Out) (slot : Nat) : KeptInside g (g.writeOut d o) slot [] ∧ keptV g (g.writeOut d o) d.toNat ∧
    (g.writeOut d o).p = g.p ∧ (g.writeOut d o).s = g.s ∧ (g.writeOut d o).a = g.a ∧ (g.writeOut d o).d = g.d ∧
    (d.toNat ≠ 36 → (g.writeOut d o).sq = g.sq) ∧ (d.toNat ≠ 37 → (g.writeOut d o).xq = g.xq) := by
  have base : ∀ x : Group, x.mode = g.mode → x.tiles = g.tiles → x.guards = g.guards → x.present = g.present → x.exited = g.exited → x.apc = g.apc → x.aend = g.aend →
      x.await = g.await → x.memq = g.memq → x.wbA = g.wbA → x.tcause = g.tcause → x.tpc = g.tpc → x.tinfo = g.tinfo → x.taddr = g.taddr → x.tlevel = g.tlevel →
      x.frame = g.frame → x.pend = g.pend → x.entering = g.entering → x.pending = g.pending → x.syncsMask = g.syncsMask → x.syncsArrived = g.syncsArrived →
      x.syncsBroken = g.syncsBroken → x.splits = g.splits → x.handler = g.handler → x.lq = g.lq → KeptInside g x slot [] := by
    intro x h1 h2 h3 h4 h5 h6 h7 h8 h9 h10 h11 h12 h13 h14 h15 h16 h17 h18 h19 h20 h21 h22 h23 h24 h25
    exact ⟨h1, h2, h3, ⟨h4, h5⟩, ⟨h6, h7, h8, h9, h10⟩, ⟨h11, h12, h13, h14, h15, h16⟩, ⟨h17, h18, h19⟩, ⟨h20, h21, h22⟩,
      fun k _ => by unfold Group.splitAt; rw [h23, h24], fun n _ => by unfold Group.getLq; rw [h25]⟩
  unfold Group.writeOut
  dsimp only
  by_cases h1 : d.toNat < 32
  · rw [if_pos h1]
    exact ⟨base _ rfl rfl rfl rfl rfl rfl rfl rfl rfl rfl rfl rfl rfl rfl rfl rfl rfl rfl rfl rfl rfl rfl rfl rfl rfl,
      fun r hr => mgetD_mput_other _ _ _ _ _ hr, rfl, rfl, rfl, rfl, fun _ => rfl, fun _ => rfl⟩
  · rw [if_neg h1]
    by_cases h2 : d.toNat = 36
    · rw [if_pos h2]
      exact ⟨base _ rfl rfl rfl rfl rfl rfl rfl rfl rfl rfl rfl rfl rfl rfl rfl rfl rfl rfl rfl rfl rfl rfl rfl rfl rfl,
        fun _ _ => rfl, rfl, rfl, rfl, rfl, fun h => absurd h2 h, fun _ => rfl⟩
    · rw [if_neg h2]
      by_cases h3 : d.toNat = 37
      · rw [if_pos h3]
        exact ⟨base _ rfl rfl rfl rfl rfl rfl rfl rfl rfl rfl rfl rfl rfl rfl rfl rfl rfl rfl rfl rfl rfl rfl rfl rfl rfl,
          fun _ _ => rfl, rfl, rfl, rfl, rfl, fun _ => rfl, fun h => absurd h3 h⟩
      · rw [if_neg h3]
        exact ⟨base _ rfl rfl rfl rfl rfl rfl rfl rfl rfl rfl rfl rfl rfl rfl rfl rfl rfl rfl rfl rfl rfl rfl rfl rfl rfl,
          fun _ _ => rfl, rfl, rfl, rfl, rfl, fun _ => rfl, fun _ => rfl⟩

/-- A word whose completion writes its destination has that destination's frame. -/
theorem framesV_of {st : State} {i : Instr} {m : BitVec 1} {sp : IssueSpec} {d : BitVec 6} {F : Group → Split → Out}
    (h : st.completes i m sp always fun g s => g.writeOut d (F g s)) : st.framesV i m sp d := by
  intro g s t hr ht
  rw [h g s hr rfl] at ht
  obtain ⟨h1, h2⟩ := endsG_kept ht
  obtain ⟨k1, k2, k3, k4, k5, k6, k7, k8⟩ := writeOut_kept (st.groupAtIssue m g s sp) d (F (st.groupAtIssue m g s sp) s) st.issuer.slot
  obtain ⟨r1, r2, r3, r4, r5, r6, r7, r8, r9⟩ := afterIssue_kept (st.atIssue m g s sp) st.issuer.slot (st.groupAtIssue m g s sp) sp
    ((st.groupAtIssue m g s sp).writeOut d (F (st.groupAtIssue m g s sp) s))
  refine ⟨h1, _, h2, k1.trans r1, fun r hr => ?_, r3.trans k3, r4.trans k4, r5.trans k5, r6.trans k6, fun h => r8.trans (k7 h), fun h => r9.trans (k8 h)⟩
  rw [← k2 r hr]; unfold Group.getV; rw [r2]

theorem framesP_of {st : State} {i : Instr} {m : BitVec 1} {sp : IssueSpec} {d : BitVec 6} {F G : Group → Split → ByteMask}
    (h : st.completes i m sp always fun g s => g.putP d.toNat (F g s) (G g s)) : st.framesP i m sp d := by
  intro g s t hr ht
  rw [h g s hr rfl] at ht
  obtain ⟨h1, h2⟩ := endsG_kept ht
  obtain ⟨r1, r2, r3, r4, r5, r6, r7, r8, r9⟩ := afterIssue_kept (st.atIssue m g s sp) st.issuer.slot (st.groupAtIssue m g s sp) sp
    ((st.groupAtIssue m g s sp).putP d.toNat (F (st.groupAtIssue m g s sp) s) (G (st.groupAtIssue m g s sp) s))
  have k1 : KeptInside (st.groupAtIssue m g s sp) ((st.groupAtIssue m g s sp).putP d.toNat (F (st.groupAtIssue m g s sp) s) (G (st.groupAtIssue m g s sp) s)) st.issuer.slot [] :=
    ⟨rfl, rfl, rfl, ⟨rfl, rfl⟩, ⟨rfl, rfl, rfl, rfl, rfl⟩, ⟨rfl, rfl, rfl, rfl, rfl, rfl⟩, ⟨rfl, rfl, rfl⟩, ⟨rfl, rfl, rfl⟩, fun _ _ => rfl, fun _ _ => rfl⟩
  refine ⟨h1, _, h2, k1.trans r1, fun r hr => ?_, r2, r4, r5, r6, r7, r8, r9⟩
  unfold Group.getP
  rw [r3]
  exact mgetD_mput_other _ _ _ _ _ hr

theorem framesS_of {st : State} {i : Instr} {m : BitVec 1} {sp : IssueSpec} {d : BitVec 6} {F : Group → Split → Word}
    (h : st.completes i m sp always fun g s => g.putSZ d (F g s)) : st.framesS i m sp d := by
  intro g s t hr ht
  rw [h g s hr rfl] at ht
  obtain ⟨h1, h2⟩ := endsG_kept ht
  obtain ⟨r1, r2, r3, r4, r5, r6, r7, r8, r9⟩ := afterIssue_kept (st.atIssue m g s sp) st.issuer.slot (st.groupAtIssue m g s sp) sp
    ((st.groupAtIssue m g s sp).putSZ d (F (st.groupAtIssue m g s sp) s))
  revert r1 r2 r3 r4 r5 r6 r7 r8 r9 h2
  generalize st.groupAtIssue m g s sp = x
  unfold Group.putSZ
  dsimp only
  by_cases hz : isZ d = true
  · rw [if_pos hz]
    intro h2 r1 r2 r3 r4 r5 r6 r7 r8 r9
    exact ⟨h1, _, h2, r1, fun r _ => by unfold Group.getS; rw [r4], fun _ => r4, r2, r3, r5, r6, r7, r8, r9⟩
  · rw [if_neg hz]
    intro h2 r1 r2 r3 r4 r5 r6 r7 r8 r9
    have k1 : KeptInside x (x.putS (d.toNat - 48) (F x s)) st.issuer.slot [] :=
      ⟨rfl, rfl, rfl, ⟨rfl, rfl⟩, ⟨rfl, rfl, rfl, rfl, rfl⟩, ⟨rfl, rfl, rfl, rfl, rfl, rfl⟩, ⟨rfl, rfl, rfl⟩, ⟨rfl, rfl, rfl⟩, fun _ _ => rfl, fun _ _ => rfl⟩
    refine ⟨h1, _, h2, k1.trans r1, fun r hr => ?_, fun h => absurd h hz, r2, r3, r5, r6, r7, r8, r9⟩
    unfold Group.getS
    rw [r4]
    exact mgetD_mput_other _ _ _ _ _ hr

theorem putA_kept (g : Group) (d : Nat) (x : Word) : keptA g (g.putA d x) d ∧
    (g.putA d x) = { g with a := (g.putA d x).a, wbA := (g.putA d x).wbA, poison := (g.putA d x).poison } := by
  unfold Group.putA
  by_cases h : d = 0
  · rw [if_pos h]; exact ⟨fun _ _ => rfl, rfl⟩
  · rw [if_neg h]
    refine ⟨fun r hr => ?_, rfl⟩
    unfold Group.getA
    by_cases h0 : r = 0
    · rw [if_pos h0, if_pos h0]
    · rw [if_neg h0, if_neg h0]; exact mgetD_mput_other _ _ _ _ _ hr

/-- The state at an access-stream issue differs in the group and the pending matrix flags alone. -/
theorem atIssueA_rest (st : State) (m : BitVec 1) (g : Group) (sp : AccSpec) : (∃ gs cl, st.atIssueA m g sp = { st with groups := gs, clusters := cl }) ∧
    (∀ k, k ≠ st.issuer.group → mget (st.atIssueA m g sp).groups k = mget st.groups k) ∧
    (∀ k, { (st.atIssueA m g sp).cluster k with mflags := [] } = { st.cluster k with mflags := [] }) := by
  unfold State.atIssueA
  dsimp only
  exact takeMflags_rest st m _

theorem framesA_of {st : State} {i : Instr} {m : BitVec 1} {sp : AccSpec} {d : Nat} {F : Group → Word}
    (h : st.completesA i m sp alwaysA fun g => g.putA d (F g)) : st.framesA i m sp d := by
  intro g t hr ht
  rw [h g hr rfl] at ht
  beta_reduce at ht
  unfold State.endsA State.retireA at ht
  obtain rfl := Host.Outcome.next.inj ht
  obtain ⟨k1, k2⟩ := putA_kept (st.accessAtIssue m g sp) d (F (st.accessAtIssue m g sp))
  obtain ⟨⟨gs, cl, e1⟩, e2, e3⟩ := atIssueA_rest st m g sp
  revert k1 k2
  generalize (st.accessAtIssue m g sp).putA d (F (st.accessAtIssue m g sp)) = y
  generalize st.accessAtIssue m g sp = x
  generalize st.atIssueA m g sp = z at e1 e2 e3
  intro k1 k2
  refine ⟨?_, fun a => ?_, fun k => ?_, fun k hk => ?_, ?_⟩
  · subst e1; exact ⟨_, _, rfl⟩
  · subst e1; rfl
  · rw [← e3 k]; rfl
  · dsimp only
    rw [State.updGroup_other _ _ _ _ hk, State.putGroup_other _ _ _ _ hk]; exact e2 k hk
  · dsimp only
    rw [State.updGroup_get, State.putGroup_get]
    refine ⟨_, rfl, fun r hr => ?_, ?_⟩
    · rw [← k1 r hr]; rfl
    · rw [k2]; exact ⟨rfl, rfl, rfl, rfl, rfl, rfl, rfl, rfl, rfl, rfl, rfl, rfl, rfl, rfl, rfl, rfl⟩

end Sys2Proof.Machine
end

