-- ==== Sys2Proof/Laws/Elements.lean ====
section
/-! SUPPORT. What a per-thread result leaves in each sub-element of its destination (R264), said once for every register word. -/

namespace Sys2Proof.Machine

/-! Bits of packed lists. -/

/-- The bits of one value of a packed list. -/
theorem testBit_packN (w : Nat) (l : List Nat) (q i : Nat) (hi : i < w) : (packN w l).testBit (w * q + i) = (l.getD q 0).testBit i := by
  induction l generalizing q with
  | nil => simp [packN]
  | cons x r ih =>
    unfold packN
    cases q with
    | zero =>
      rw [Nat.mul_zero, Nat.zero_add, Nat.add_comm, Nat.testBit_two_pow_mul_add _ (Nat.mod_lt _ (Nat.two_pow_pos w)), if_pos hi, Nat.testBit_mod_two_pow]
      simp [hi]
    | succ q =>
      rw [Nat.add_comm (x % 2 ^ w), Nat.testBit_two_pow_mul_add _ (Nat.mod_lt _ (Nat.two_pow_pos w)), if_neg (by rw [Nat.mul_succ]; omega)]
      have e : w * (q + 1) + i - w = w * q + i := by rw [Nat.mul_succ]; omega
      rw [e, ih]
      rfl

/-- Two rows agree in a sub-element where they agree in its bits. -/
theorem elemAt_eq {x : Row} {w p v : Nat} (hv : v < 2 ^ w) (h : ∀ i, i < w → x.getLsbD (w * p + i) = v.testBit i) : elemAt x w p = v := by
  unfold elemAt
  refine Nat.eq_of_testBit_eq fun i => ?_
  rw [Nat.testBit_mod_two_pow, Nat.testBit_div_two_pow]
  by_cases hi : i < w
  · rw [decide_eq_true hi, Bool.true_and, ← h i hi, Nat.add_comm]; rfl
  · rw [decide_eq_false hi, Bool.false_and, Nat.testBit_lt_two_pow (Nat.lt_of_lt_of_le hv (Nat.pow_le_pow_right (by decide) (Nat.le_of_not_lt hi)))]

theorem testBit_elemAt (x : Row) (w p i : Nat) (hi : i < w) : (elemAt x w p).testBit i = x.getLsbD (w * p + i) := by
  unfold elemAt
  rw [Nat.testBit_mod_two_pow, Nat.testBit_div_two_pow, decide_eq_true hi, Bool.true_and, Nat.add_comm]; rfl

theorem elemAt_lt (x : Row) (w p : Nat) : elemAt x w p < 2 ^ w := Nat.mod_lt _ (Nat.two_pow_pos w)

/-! The rows of a result. -/

/-- The value of one position of a result's lanes. -/
theorem lanes_get (mask : Mask) (k : Nat) (en : Nat → Nat → Bool) (f : Nat → Nat → NumRes) (h : Option NumRes → Nat) (h0 : h none = 0) (t e : Nat) (ht : t < 32)
    (he : e < k) : ((((lanesOf mask k en f).getD t []).map h).getD e 0) = if mask.getLsbD t && en t e then h (some (f t e)) else 0 := by
  unfold lanesOf
  have h1 : ((List.range 32).map fun t => if mask.getLsbD t then (List.range k).map fun s => if en t s then some (f t s) else none else []).getD t [] =
      if mask.getLsbD t then (List.range k).map fun s => if en t s then some (f t s) else none else [] := by
    rw [List.getD_eq_getElem _ _ (by simpa using ht)]; simp
  rw [h1]
  by_cases hm : mask.getLsbD t = true
  · simp only [hm, if_true, Bool.true_and]
    rw [List.getD_eq_getElem _ _ (by simpa using he)]
    by_cases hn : en t e = true <;> simp [hn, h0]
  · simp [hm]

/-- A packed row's bit, thread by thread and sub-element by sub-element. -/
theorem getLsbD_rows (w k : Nat) (hk : w * k = 64) (l : Lanes) (h : Option NumRes → Nat) (t e i : Nat) (ht : t < 32) (he : e < k) (hi : i < w) :
    (BitVec.ofNat 2048 (packN 64 (l.map fun th => packN w (th.map h)))).getLsbD (w * (t * k + e) + i) = (((l.getD t []).map h).getD e 0).testBit i := by
  have h1 : w * (t * k + e) + i = 64 * t + (w * e + i) := by
    rw [Nat.mul_add, Nat.mul_comm t k, ← Nat.mul_assoc, hk]; omega
  have h2 : w * e + i < 64 := by
    have : w * (e + 1) ≤ w * k := Nat.mul_le_mul_left w he
    rw [Nat.mul_succ, hk] at this; omega
  rw [BitVec.getLsbD_ofNat, h1, testBit_packN 64 _ t _ h2, decide_eq_true (by omega), Bool.true_and]
  have h3 : (l.map fun th => packN w (th.map h)).getD t 0 = packN w ((l.getD t []).map h) := by
    rcases Nat.lt_or_ge t l.length with hl | hl
    · rw [List.getD_eq_getElem _ _ (by simpa using hl), List.getD_eq_getElem _ _ hl]; simp
    · rw [List.getD_eq_default _ _ (by simpa using hl), List.getD_eq_default _ _ hl]; rfl
  rw [h3, testBit_packN w _ e i hi]

/-- A V register's sub-element after a result has been written to it: the result where the thread is in the mask and the sub-element enabled, else what it
was. -/
theorem elemAt_putOut (g : Group) (r w k : Nat) (hk : w * k = 64) (mask : Mask) (en : Nat → Nat → Bool) (f : Nat → Nat → NumRes) (t e : Nat) (ht : t < 32)
    (he : e < k) : elemAt ((g.putV r (outOf w (lanesOf mask k en f)).data (outOf w (lanesOf mask k en f)).bits).getV r) w (t * k + e) =
      if mask.getLsbD t && en t e then (f t e).bits % 2 ^ w else elemAt (g.getV r) w (t * k + e) := by
  have hg : (g.putV r (outOf w (lanesOf mask k en f)).data (outOf w (lanesOf mask k en f)).bits).getV r =
      mergeRow (g.getV r) (outOf w (lanesOf mask k en f)).data (outOf w (lanesOf mask k en f)).bits := mgetD_mput_same _ _ _ _
  rw [hg]
  refine elemAt_eq (by split; exact Nat.mod_lt _ (Nat.two_pow_pos w); exact elemAt_lt ..) fun i hi => ?_
  have hb : w * (t * k + e) + i < 2048 := by
    have h1 : w * (t * k + e) + i = 64 * t + (w * e + i) := by rw [Nat.mul_add, Nat.mul_comm t k, ← Nat.mul_assoc, hk]; omega
    have h2 : w * (e + 1) ≤ w * k := Nat.mul_le_mul_left w he
    rw [Nat.mul_succ, hk] at h2; omega
  unfold mergeRow outOf
  simp only [BitVec.getLsbD_or, BitVec.getLsbD_and, BitVec.getLsbD_not, decide_eq_true hb, Bool.true_and]
  rw [getLsbD_rows w k hk _ _ t e i ht he hi, getLsbD_rows w k hk _ _ t e i ht he hi, lanes_get _ _ _ _ _ rfl t e ht he, lanes_get _ _ _ _ _ rfl t e ht he]
  by_cases hc : (mask.getLsbD t && en t e) = true
  · simp only [hc, if_true, Option.isSome_some, Option.map_some, Option.getD_some, Nat.testBit_two_pow_sub_one, hi, decide_true, Bool.not_true, Bool.and_false,
      Bool.false_or, Bool.and_true, Nat.testBit_mod_two_pow, Bool.true_and]
  · simp only [hc, if_false, Nat.zero_testBit, Bool.not_false, Bool.and_true, Bool.and_false, Bool.or_false, testBit_elemAt _ _ _ _ hi, Bool.false_eq_true]

/-- Every element type fills its thread's 64 bits. -/
theorem width_fills (t : ETy) : t.width * (64 / t.width) = 64 := by cases t <;> rfl

/-- A word that writes its lanes' results to V register `d` leaves them there, sub-element by sub-element. -/
theorem elements_of {st : State} {i : Instr} {m : BitVec 1} {sp : IssueSpec} {d : BitVec 6} {ok : Group → Bool} {f : Group → Split → Nat → Nat → NumRes}
    {v : Group → Nat → Nat} {h : Group → Split → Group} (hd : d.toNat < 32) (hc : st.completes i m sp always h)
    (hh : ∀ g s, h g s = g.writeOut d (outOf g.et.width (lanesOf s.mask (64 / g.et.width) (g.enabled g.et.width) (f g s))))
    (hv : ∀ g s t e, ok g = true → e < 64 / g.et.width → (f g s t e).bits % 2 ^ g.et.width = v g (t * (64 / g.et.width) + e)) : st.elements i m sp d ok v := by
  intro g s hr ho
  have hx := (hc g s hr rfl).trans (by rw [hh])
  refine ⟨_, _, hx, (endsG_kept rfl).2, fun t ht e he => ?_⟩
  obtain ⟨-, hvv, -⟩ := afterIssue_kept (st.atIssue m g s sp) st.issuer.slot (st.groupAtIssue m g s sp) sp ((st.groupAtIssue m g s sp).writeOut d
    (outOf (st.groupAtIssue m g s sp).et.width (lanesOf s.mask (64 / (st.groupAtIssue m g s sp).et.width) ((st.groupAtIssue m g s sp).enabled
      (st.groupAtIssue m g s sp).et.width) (f (st.groupAtIssue m g s sp) s))))
  unfold Group.getV at *
  rw [hvv]
  unfold Group.writeOut
  simp only [hd, if_true]
  refine (elemAt_putOut { st.groupAtIssue m g s sp with stat := _ } d.toNat _ _ (width_fills _) _ _ _ t e ht he).trans ?_
  rw [hv _ _ _ _ ho he]
  rfl

/-! Flags. -/

theorem foldl_or_zero {α : Type} (l : List α) (f : α → Flags) (h : ∀ a ∈ l, f a = 0#8) : l.foldl (fun acc a => acc ||| f a) 0#8 = 0#8 := by
  induction l with
  | nil => rfl
  | cons a r ih =>
    rw [List.foldl_cons, h a List.mem_cons_self]
    exact ih fun b hb => h b (List.mem_cons_of_mem _ hb)

/-- A result none of whose sub-elements raises a flag raises none. -/
theorem allFlags_zero (w : Nat) (mask : Mask) (k : Nat) (en : Nat → Nat → Bool) (f : Nat → Nat → NumRes) (h : ∀ t e, (f t e).flags = 0#8) :
    (outOf w (lanesOf mask k en f)).allFlags = 0#8 := by
  unfold Out.allFlags outOf
  refine foldl_or_zero _ _ fun a ha => ?_
  obtain ⟨th, hth, rfl⟩ := List.mem_map.1 ha
  refine foldl_or_zero _ _ fun o ho => ?_
  unfold lanesOf at hth
  obtain ⟨t, -, rfl⟩ := List.mem_map.1 hth
  split at ho
  · obtain ⟨e, -, rfl⟩ := List.mem_map.1 ho
    split
    · exact h _ _
    · rfl
  · cases ho

/-- A word whose lanes raise no flag leaves STAT as it was, whatever its destination. -/
theorem keepsFlags_of {st : State} {i : Instr} {m : BitVec 1} {sp : IssueSpec} {d : BitVec 6} {ok : Group → Bool} {w k : Group → Nat}
    {en : Group → Nat → Nat → Bool} {mask : Split → Mask} {f : Group → Split → Nat → Nat → NumRes} {h : Group → Split → Group} (hc : st.completes i m sp always h)
    (hh : ∀ g s, h g s = g.writeOut d (outOf (w g) (lanesOf (mask s) (k g) (en g) (f g s))))
    (hv : ∀ g s t e, ok g = true → (f g s t e).flags = 0#8) : st.keepsFlags i m sp ok := by
  intro g s hr ho
  have hx := (hc g s hr rfl).trans (by rw [hh])
  refine ⟨_, _, hx, (endsG_kept rfl).2, ?_⟩
  obtain ⟨-, -, -, -, -, -, hs, -⟩ := afterIssue_kept (st.atIssue m g s sp) st.issuer.slot (st.groupAtIssue m g s sp) sp ((st.groupAtIssue m g s sp).writeOut d
    (outOf (w (st.groupAtIssue m g s sp)) (lanesOf (mask s) (k (st.groupAtIssue m g s sp)) (en (st.groupAtIssue m g s sp)) (f (st.groupAtIssue m g s sp) s))))
  rw [hs]
  have hz := allFlags_zero (w (st.groupAtIssue m g s sp)) (mask s) (k (st.groupAtIssue m g s sp)) (en (st.groupAtIssue m g s sp))
    (f (st.groupAtIssue m g s sp) s) fun t e => hv _ _ t e ho
  unfold Group.writeOut
  rw [hz, BitVec.or_zero]
  dsimp only
  split
  · rfl
  · split
    · rfl
    · split <;> rfl

/-! Values. -/

/-- The value read from a sub-element is its bits modulo 2^w (R243). -/
theorem readInt_emod (t : ETy) (ht : t ≠ .t2) (x : Nat) : (readInt t x).1 % ((2 ^ t.width : Nat) : Int) = ((x % 2 ^ t.width : Nat) : Int) := by
  have h : ∀ w : Nat, (((x % 2 ^ w : Nat) : Int)) % ((2 ^ w : Nat) : Int) = ((x % 2 ^ w : Nat) : Int) := fun w => by rw [← Int.natCast_emod, Nat.mod_mod]
  have hs : ∀ w : Nat, sgn w x % ((2 ^ w : Nat) : Int) = ((x % 2 ^ w : Nat) : Int) := by
    intro w
    unfold sgn
    split
    · rw [show ((2 : Int) ^ w) = ((2 ^ w : Nat) : Int) by norm_cast, Int.sub_emod_right, h]
    · exact h w
  unfold readInt
  cases t <;> first | exact absurd rfl ht | (dsimp only; split <;> first | exact h _ | exact hs _)

/-- The low bits of an operation on the values are the operation on the bits. -/
theorem low_of_emod (w : Nat) (a : Int) (n : Nat) (h : a % ((2 ^ w : Nat) : Int) = ((n : Nat) : Int) % ((2 ^ w : Nat) : Int)) : low w a = n % 2 ^ w := by
  unfold low
  rw [show ((2 : Int) ^ w) = ((2 ^ w : Nat) : Int) by norm_cast, h, ← Int.natCast_emod, Int.toNat_natCast]

/-- A store without saturation keeps the low bits (R244). -/
theorem storeInt_wraps (t : ETy) (ht : t ≠ .t2) (r : Int) : (storeInt t false r).bits = low t.width r := by
  cases t <;> first | exact absurd rfl ht | rfl

theorem emod_nat (t : ETy) (ht : t ≠ .t2) (x : Nat) : (readInt t x).1 % ((2 ^ t.width : Nat) : Int) = ((x : Nat) : Int) % ((2 ^ t.width : Nat) : Int) := by
  rw [readInt_emod t ht, Int.natCast_emod]

theorem low_add (t : ETy) (ht : t ≠ .t2) (x y : Nat) : low t.width ((readInt t x).1 + (readInt t y).1) = (x + y) % 2 ^ t.width := by
  refine low_of_emod _ _ _ ?_
  rw [Int.add_emod, emod_nat t ht, emod_nat t ht, ← Int.add_emod, ← Int.natCast_add]

theorem low_mul (t : ETy) (ht : t ≠ .t2) (x y : Nat) : low t.width ((readInt t x).1 * (readInt t y).1) = (x * y) % 2 ^ t.width := by
  refine low_of_emod _ _ _ ?_
  rw [Int.mul_emod, emod_nat t ht, emod_nat t ht, ← Int.mul_emod, ← Int.natCast_mul]

theorem low_sub (t : ETy) (ht : t ≠ .t2) (x y : Nat) (hy : y < 2 ^ t.width) :
    low t.width ((readInt t x).1 - (readInt t y).1) = (x + 2 ^ t.width - y) % 2 ^ t.width := by
  refine low_of_emod _ _ _ ?_
  rw [Int.sub_emod, emod_nat t ht, emod_nat t ht, ← Int.sub_emod]
  rw [Int.natCast_sub (by omega), Int.natCast_add, show ((x : Int) + ((2 ^ t.width : Nat) : Int) - (y : Int)) = (x : Int) - y + ((2 ^ t.width : Nat) : Int) by omega,
    Int.add_emod_right]

/-- An N value is its bits. -/
theorem readInt_N (t : ETy) (h : t.isN = true) (x : Nat) (hx : x < 2 ^ t.width) : (readInt t x).1 = (x : Int) := by
  unfold readInt
  cases t <;> first | exact absurd h (by decide) | (dsimp only; rw [if_pos (by decide), Nat.mod_eq_of_lt hx])

theorem low_nat (w n : Nat) : low w (n : Int) = n % 2 ^ w := low_of_emod _ _ _ rfl

/-- The position of a result's sub-element at every width is below 2^w. -/
theorem srcAt_lt (g : Group) (a : BitVec 6) (p : Nat) : g.srcAt a p < 2 ^ g.et.width := elemAt_lt ..

end Sys2Proof.Machine
end

