-- ==== Sys2Proof/Laws/Heads.lean ====
section
/-! SUPPORT. What a command at the head of its queue does, said once. -/

namespace Sys2Proof.Machine

theorem ctlOpAt_head {st : State} {op : Nat} {sem : Bool} {c : Cmd} {f : Cmd → State} (h : CtlHead st op c) : st.ctlOpAt op sem f = f c := by
  obtain ⟨h1, h2, h3⟩ := h
  unfold State.ctlOpAt
  cases hq : st.ctlQ with
  | nil => simp [hq] at h1
  | cons d t =>
    rw [hq] at h1
    obtain rfl : d = c := by simpa using h1
    have : (sem && decide (d.phase = 0) && !(decide (st.ctlPort = d.port) && decide (st.ctlToken = d.token))) = false := by
      rcases h3 with h | ⟨h, h'⟩
      · simp [h]
      · simp [h, h']
    simp only [h2, ne_eq, not_true_eq_false, if_false, this, Bool.false_eq_true]

theorem repAt_head {st : State} {op : Nat} {c : Cmd} {f : Cmd → State} (h : RepHead st op c) : st.repAt op f = f c := by
  obtain ⟨h1, h2⟩ := h
  unfold State.repAt
  cases hq : st.repQ with
  | nil => simp [hq] at h1
  | cons d t =>
    rw [hq] at h1
    obtain rfl : d = c := by simpa using h1
    simp only [h2, if_true]

/-- A command on a loaded slot between two packets (R374). -/
theorem weirCmd_head {st : State} {op : Nat} {moves : Bool} {f : State → Nat → Nat → WeirSlot → Nat → Option State} {c : Cmd} {d : Nat} {s : WeirSlot} {st1 st2 : State}
    (h : WeirHead st op c d) (hs : mget (mgetD st.weirs (bits d 15 8) {}).slots (bits d 23 16) = some s)
    (hm : moves = true → bits d 287 256 % 32 = 0 ∧ bits d 319 288 % 32 = 0 ∧ bits d 287 256 + bits d 319 288 ≤ s.flowsz)
    (hr : (mgetD st.weirs (bits d 15 8) {}).run = none)
    (hg : st.weirGate (bits d 15 8) (bits d 23 16) s.domain (recWeir 2 (bits d 23 16) 0 op) = some st1)
    (hf : f st1 (bits d 15 8) (bits d 23 16) s d = some st2) : st.weirCmd op moves f = st2.weirDone c 0 0 0 := by
  obtain ⟨h1, h2, h3⟩ := h
  have : (moves && (decide (bits d 287 256 % 32 ≠ 0) || decide (bits d 319 288 % 32 ≠ 0) || decide (s.flowsz < bits d 287 256 + bits d 319 288))) = false := by
    cases moves with
    | false => rfl
    | true =>
      obtain ⟨a, b, e⟩ := hm rfl
      simp [a, b, Nat.not_lt.mpr e]
  unfold State.weirCmd
  simp only [h1, h2, h3, hs, hr, hg, hf, this, Option.map_some, Option.getD_some, Bool.not_true, Bool.false_eq_true, ne_eq, not_true_eq_false, or_self, if_false, Option.isSome_none]

end Sys2Proof.Machine
end

