-- ==== Sys2Proof/Laws/Perform.lean ====
section
/-! SUPPORT. What performing a line does, said once. -/

namespace Sys2Proof.Machine

theorem performLine_ready {st s : State} {gid id va : Nat} {kinds : AKind → Bool} {g : Group} {a b : Access} {l : LineReq} {y : State}
    (h : LineReady st gid id va kinds g a l) (hd : st.atLine gid g a l = some s) (hs : s.serveLine gid g a l = some (y, b)) :
    st.performLine gid id va kinds = st.lineServed y gid g a b l := by
  obtain ⟨h1, h2, h3, h4, h5, h6, h7, h8⟩ := h
  have hid : a.id = id := by simpa using List.find?_some h2
  unfold State.atLine at hd
  cases hq : st.dirtied (st.ctxOf g) gid a l with
  | none => simp [hq] at hd
  | some d =>
    simp only [hq, Option.map_some, Option.some.injEq] at hd
    subst hd
    unfold State.performLine State.lineServed
    subst hid
    simp only [h1, h2, h3, h4, h5, h6, h7, h8, hq, hs, decide_false, Bool.false_eq_true, if_false, Bool.not_true, Bool.or_self, if_true]

end Sys2Proof.Machine
end

