-- ==== Sys2Proof/Laws/Weir.lean ====
section
/-! SUPPORT. What a kernel instruction of a Weir can do, said once. -/

namespace Sys2Proof.Machine

/-- A kernel instruction in its turn: its body's effect, by what follows it. -/
theorem weirOp_ready {st : State} {cost port : Nat} {r : WeirRun} {s : WeirSlot} {body : Nat → WeirSlot → State → WeirRun → WOut}
    (h : WeirReady st cost port r s) :
    weirOp cost st body = (let o := body port s st { r with cyc := r.cyc + cost }
      .next (match o.next with
        | .go => o.st.updWeir port fun w => { w with run := some o.run.advance }
        | .jump pc => o.st.updWeir port fun w => { w with run := some { o.run with pc := pc } }
        | e => (o.st.endWeir port s o.run e).getD st)) := by
  obtain ⟨h1, h2, h3, h4⟩ := h
  have h5 : ¬ 256 < r.cyc + cost := by omega
  simp only [weirOp, h1, h2, h3, if_neg h5]
  all_goals (cases (body port s st { r with cyc := r.cyc + cost }).next <;> rfl)

theorem weirSets_of {st : State} {i : Instr} {cost : Nat} {f : WeirRun → WeirRun} {body : Nat → WeirSlot → State → WeirRun → WOut}
    (he : exec i st = weirOp cost st body) (hb : ∀ port s r, body port s st r = { st := st, run := f r }) : st.weirSets i cost f :=
  fun port r s h => by rw [he, weirOp_ready h]; simp only [hb]

theorem weirActs_of {st : State} {i : Instr} {cost : Nat} {ok : Nat → WeirSlot → WeirRun → Prop} {f : Nat → WeirSlot → WeirRun → State × WeirRun}
    {body : Nat → WeirSlot → State → WeirRun → WOut} (he : exec i st = weirOp cost st body)
    (hb : ∀ port s r, ok port s r → body port s st r = { st := (f port s r).1, run := (f port s r).2 }) : st.weirActs i cost ok f :=
  fun port r s h ho => by rw [he, weirOp_ready h]; simp only [hb _ _ _ ho]

theorem weirJumps_of {st : State} {i : Instr} {ok : WeirRun → Prop} {f : WeirRun → WeirRun} {body : Nat → WeirSlot → State → WeirRun → WOut}
    (he : exec i st = weirOp 1 st body)
    (hb : ∀ port s r, ok r → ∃ q pc, body port s st r = { st := st, run := q, next := .jump pc } ∧ f r = { q with pc := pc }) : st.weirJumps i ok f :=
  fun port r s h ho => by
    obtain ⟨q, pc, h1, h2⟩ := hb port s _ ho
    rw [he, weirOp_ready h, h2]; simp only [h1]

theorem weirEnds_of {st : State} {i : Instr} {cost : Nat} {ok : WeirSlot → WeirRun → Prop} {e : WeirSlot → WNext}
    {body : Nat → WeirSlot → State → WeirRun → WOut} (he : exec i st = weirOp cost st body)
    (hb : ∀ port s r, ok s r → body port s st r = { st := st, run := r, next := e s })
    (hn : ∀ s, e s ≠ .go ∧ ∀ pc, e s ≠ .jump pc) : st.weirEnds i cost ok e :=
  fun port r s y h ho hy => by
    rw [he, weirOp_ready h]
    simp only [hb _ _ _ ho]
    have := hn s
    cases hs : e s with
    | go => exact absurd hs this.1
    | jump pc => exact absurd hs (this.2 pc)
    | fin b => rw [hs] at hy; simp only [hy, Option.getD_some]
    | err a b => rw [hs] at hy; simp only [hy, Option.getD_some]

end Sys2Proof.Machine
end

