-- ==== Sys2Proof/Tests/Slice0.lean ====
section
/-! SUPPORT. Tests of single operations against the spec's worked examples, and a witness for the hypotheses of each statement. -/

namespace Sys2Proof.Tests

open Sys2Proof.Machine

set_option maxRecDepth 100000

/-! Small states: one group of 32 threads at a word at 0x20000, on core 0 of die 1. -/

/-- Its one split. -/
def tSplit : Split := { pc := 0x20000#64, mask := 0xFFFFFFFF#32 }

/-- The group under a MODE. -/
def tGroup (mode : BitVec 32) : Group := { wg := wgKey 0 0, splits := [(0, tSplit)], mode := mode, apc := 0x20000#64 }

/-- A view of 32 I64 elements at offset 0 of CORE (the CTL word of R122's rows for such a view). -/
def tView : BitVec 1024 := BitVec.ofNat 1024 (0x10000A8B3 * 2 ^ 64 + 32 * 2 ^ 256 + 2 ^ 288)

/-- Its workgroup, with 4 KiB of CORE and the view in slot 0. -/
def tWg : Workgroup := { ctx := 0, grid := 0, slots := [0], coreSize := 4096, views := [(0, tView)] }

/-- The translation of page 0x20000, to be read, written and executed, in a cache. -/
def tEntry (p : TlbPlace) : TlbEntry :=
  { place := p, ctx := 0, page := 2, pte := 0x1030F1#64, level := 1, entryAt := flatHbm 0 0 0x30010, lines := [] }

/-- The state in which a group issues: its context runs, its workgroup is placed in slot 0, and page 0x20000 is mapped, to be read, written and executed. -/
def tState (g : Group) (slot : Nat) : State :=
  { mem := (((Memory.write [] (flatHbm 0 0 0x10000) 8 0x20001).write (flatHbm 0 0 0x20000) 8 0x30001).write (flatHbm 0 0 0x30010) 8 0x1030F1)
    tlb := [tEntry (.quad 0), tEntry (.cluster 0), tEntry (.die 1), tEntry .hub]
    ctxs := [(0, { troot := 0x10000 })], workgroups := [(wgKey 0 0, tWg)], groups := [(0, g)], issuer := { group := 0, slot := slot } }

/-- The checks of `ReadyC`. -/
def readyB (st : State) (m : BitVec 1) (sp : IssueSpec) (g : Group) (s : Split) : Bool :=
  decide (mget st.groups st.issuer.group = some g) && decide (g.splitAt st.issuer.slot = some s) &&
  (match st.trapTurn st.issuer.group g false with
    | some none => true
    | _ => false) &&
  (!mustPark m g s sp || allReturned g.wbC && (g.commitWith false).2.isNone) && sp.legal && sp.mode (st.groupAtIssue m g s sp) && sp.fits (st.groupAtIssue m g s sp) &&
  !(st.groupAtIssue m g s sp).badSource s sp && (match (st.groupAtIssue m g s sp).queues sp with
    | .ok => true
    | _ => false)

theorem ready_of {st : State} {m : BitVec 1} {sp : IssueSpec} {g : Group} {s : Split} (h : readyB st m sp g s = true) : ReadyC st m sp g s := by
  unfold readyB at h
  simp only [Bool.and_eq_true, decide_eq_true_eq, Bool.or_eq_true, Bool.not_eq_true', Option.isNone_iff_eq_none] at h
  obtain ⟨⟨⟨⟨⟨⟨⟨⟨h1, h2⟩, h3⟩, h4⟩, h5⟩, h6⟩, h6'⟩, h7⟩, h8⟩ := h
  refine ⟨h1, h2, ?_, fun hp => ?_, h5, h6, h6', h7, ?_⟩
  · revert h3; split <;> simp_all
  · rcases h4 with h4 | h4
    · rw [hp] at h4; cases h4
    · exact h4
  · revert h8; split <;> simp_all

/-- The checks of `ReadyA`. -/
def readyAB (st : State) (m : BitVec 1) (sp : AccSpec) (g : Group) : Bool :=
  decide (mget st.groups st.issuer.group = some g) && decide (st.issuer.slot = 4) &&
  (match st.trapTurn st.issuer.group g true with
    | some none => true
    | _ => false) && (!mustParkA m g sp || allReturned g.wbA && (g.commitWith true).2.isNone) && sp.legal

theorem readyA_of {st : State} {m : BitVec 1} {sp : AccSpec} {g : Group} (h : readyAB st m sp g = true) : ReadyA st m sp g := by
  unfold readyAB at h
  simp only [Bool.and_eq_true, decide_eq_true_eq, Bool.or_eq_true, Bool.not_eq_true', Option.isNone_iff_eq_none] at h
  obtain ⟨⟨⟨⟨h1, h2⟩, h3⟩, h4⟩, h5⟩ := h
  refine ⟨h1, h2, ?_, fun hp => ?_, h5⟩
  · revert h3; split <;> simp_all
  · rcases h4 with h4 | h4
    · rw [hp] at h4; cases h4
    · exact h4

/-! What an answer holds, named from the answer. -/

theorem some_of {α : Type} {o : Option α} (h : o.isSome = true) : o = some (o.get h) := (Option.some_get h).symm

theorem some_any {α : Type} {o : Option α} {p : α → Bool} (h : o.any p = true) : ∃ y, o = some y ∧ p y = true := by
  cases o with
  | none => cases h
  | some y => exact ⟨y, rfl, h⟩

theorem none_of {α : Type} {o : Option α} (h : o.isNone = true) : o = none := Option.isNone_iff_eq_none.1 h

/-- The hits of a reach, and its out-of-bounds flag. -/
def hitsOf (r : Reach) : List Hit :=
  match r with
  | .ok h _ => h
  | .trap _ => []

def oobOf (r : Reach) : Bool :=
  match r with
  | .ok _ o => o
  | .trap _ => false

def reachIs (r : Reach) : Bool :=
  match r with
  | .ok _ _ => true
  | .trap _ => false

theorem reach_of {r : Reach} (h : reachIs r = true) : r = .ok (hitsOf r) (oobOf r) := by cases r <;> first | rfl | cases h

/-- The parts of a translation that succeeds. -/
def accLeaf (a : Acc) : Word :=
  match a with
  | .ok l _ _ => l
  | _ => 0

def accPa (a : Acc) : Nat :=
  match a with
  | .ok _ p _ => p
  | _ => 0

def accSt (a : Acc) : State :=
  match a with
  | .ok _ _ s => s
  | _ => {}

def accIs (a : Acc) : Bool :=
  match a with
  | .ok _ _ _ => true
  | _ => false

theorem acc_of {a : Acc} (h : accIs a = true) : a = .ok (accLeaf a) (accPa a) (accSt a) := by cases a <;> first | rfl | cases h

/-- What a translation that fails tells. -/
def accTrap (a : Acc) : Trap :=
  match a with
  | .prot t _ => t
  | .fault _ t _ => t
  | _ => { cause := .prot }

def accPage (a : Acc) : Nat :=
  match a with
  | .fault p _ _ => p
  | _ => 0

def accEnd (a : Acc) : State :=
  match a with
  | .prot _ s => s
  | .fault _ _ s => s
  | _ => {}

def protIs (a : Acc) : Bool :=
  match a with
  | .prot _ _ => true
  | _ => false

def faultIs (a : Acc) : Bool :=
  match a with
  | .fault _ _ _ => true
  | _ => false

def waitIs (a : Acc) : Bool :=
  match a with
  | .wait => true
  | _ => false

theorem prot_of {a : Acc} (h : protIs a = true) : a = .prot (accTrap a) (accEnd a) := by cases a <;> first | rfl | cases h

theorem fault_of {a : Acc} (h : faultIs a = true) : a = .fault (accPage a) (accTrap a) (accEnd a) := by cases a <;> first | rfl | cases h

theorem wait_of {a : Acc} (h : waitIs a = true) : a = .wait := by cases a <;> first | rfl | cases h

/-- The right side of a check's answer. -/
def rightOf {α β : Type} [Inhabited β] (x : α ⊕ β) : β :=
  match x with
  | .inr b => b
  | .inl _ => default

theorem inr_of {α β : Type} {x : α ⊕ β} (h : x.isRight = true) : x = .inr (x.getRight h) := by cases x <;> first | rfl | cases h

def leftOf {β : Type} (x : Trap ⊕ β) : Trap :=
  match x with
  | .inl t => t
  | .inr _ => { cause := .prot }

theorem inl_of {β : Type} {x : Trap ⊕ β} (h : x.isLeft = true) : x = .inl (leftOf x) := by cases x <;> first | rfl | cases h

theorem one_of {α : Type} {l : List α} (h : l.length = 1) : l = [l.head (by rintro rfl; cases h)] := by
  match l, h with
  | [a], _ => rfl

/-- An unguarded access whose lines all translate issues. -/
theorem issued_of {x : State} {gid : Nat} {g : Group} {a : Access} {pops : Group → Group} {wb oob : Bool} (hg : a.guard = none)
    (h : (!(x.checkLines (x.ctxOf g) (.stream gid true) a.esize (kindNeed a.kind).1 (kindNeed a.kind).2.1 (kindNeed a.kind).2.2 a.lines).wait && (x.checkLines (x.ctxOf g) (.stream gid true) a.esize (kindNeed a.kind).1 (kindNeed a.kind).2.1 (kindNeed a.kind).2.2 a.lines).trap.isNone &&
      (x.checkLines (x.ctxOf g) (.stream gid true) a.esize (kindNeed a.kind).1 (kindNeed a.kind).2.1 (kindNeed a.kind).2.2 a.lines).missing.isEmpty) = true) :
    x.accessIssued gid g a pops wb oob (((x.checkLines (x.ctxOf g) (.stream gid true) a.esize (kindNeed a.kind).1 (kindNeed a.kind).2.1 (kindNeed a.kind).2.2 a.lines).st.joined gid
      { a with lines := (x.checkLines (x.ctxOf g) (.stream gid true) a.esize (kindNeed a.kind).1 (kindNeed a.kind).2.1 (kindNeed a.kind).2.2 a.lines).good } pops wb).flagOob gid oob) := by
  unfold State.accessIssued
  rw [hg]
  simp only [Bool.and_eq_true, Bool.not_eq_true', Option.isNone_iff_eq_none, List.isEmpty_iff] at h
  exact ⟨h.1.1, .inl ⟨.inr ⟨h.1.2, h.2⟩, rfl⟩⟩

/-- The parts of LAUNCH's reads that answer. -/
def lrSt (a : LaunchRead) : State :=
  match a with
  | .ok s _ _ _ => s
  | _ => {}

def lrDesc (a : LaunchRead) : Desc :=
  match a with
  | .ok _ d _ _ => d
  | _ => {}

def lrReason (a : LaunchRead) : Nat :=
  match a with
  | .ok _ _ r _ => r
  | _ => 0

def lrGates (a : LaunchRead) : List (Word × Nat) :=
  match a with
  | .ok _ _ _ g => g
  | _ => []

def lrIs (a : LaunchRead) : Bool :=
  match a with
  | .ok _ _ _ _ => true
  | _ => false

theorem lr_of {a : LaunchRead} (h : lrIs a = true) : a = .ok (lrSt a) (lrDesc a) (lrReason a) (lrGates a) := by cases a <;> first | rfl | cases h

/-- A pair of a check's answer. -/
theorem inr_pair {γ α β : Type} {x : γ ⊕ (α × β)} (h : x.isRight = true) : x = .inr ((x.getRight h).1, (x.getRight h).2) := inr_of h

theorem some_pair {α β : Type} {o : Option (α × β)} (h : o.isSome = true) : o = some ((o.get h).1, (o.get h).2) := some_of h

/-- Empty memory reads as 0. -/
theorem devRead_empty {st : State} (h : st.mem = []) (n a : Nat) : st.devRead n a = 0 := by
  induction n generalizing a with
  | zero => rfl
  | succ n ih =>
    unfold State.devRead
    rw [ih]
    unfold State.read
    rw [h]
    rfl

/-- An image of zeros names domain 0 with no members. -/
theorem domainImage_empty {st : State} (h : st.mem = []) (a : Nat) : st.domainImage a = some (0, {}) := by
  unfold State.domainImage
  simp only [devRead_empty h]
  rfl

theorem pair_of {α : Type} {x : α × Bool} (h : x.2 = true) : x = (x.1, true) := Prod.ext rfl h

/-- The state of an engine's answer that is done. -/
def engSt (e : EngEnd) : State :=
  match e with
  | .done s => s
  | _ => {}

def engIs (e : EngEnd) : Bool :=
  match e with
  | .done _ => true
  | _ => false

theorem done_of {e : EngEnd} (h : engIs e = true) : e = .done (engSt e) := by cases e <;> first | rfl | cases h

theorem done_pair {α : Type} {x : EngEnd × α} (h : engIs x.1 = true) : x = (.done (engSt x.1), x.2) := Prod.ext (done_of h) rfl

/-- Lines read that answer. -/
theorem lines_of {x : Acc × Nat} (h : accIs x.1 = true) : x = (.ok (accLeaf x.1) (accPa x.1) (accSt x.1), x.2) := Prod.ext (acc_of h) rfl

/-- The only piece left is taken, whatever the free value. -/
theorem todo_one {α : Type} {l : List α} {a : α} (h : l = [a]) (i : Nat) : l[i % l.length]? = some a := by
  subst h
  rw [List.length_singleton, Nat.mod_one]
  rfl

/-- The same of a choice among one. -/
theorem only_one {α : Type} {l : List α} {a : α} (h : l = [a]) (i : Nat) : l[i % max 1 l.length]? = some a := by
  subst h
  exact todo_one rfl i

/-- With no directory entry every line is free to the hub at once. -/
theorem takeLine_idle {st : State} (h : st.dir = []) (line : Nat) : st.takeLine line = some st := by
  have hd : st.dirOf line = {} := by unfold State.dirOf; rw [h]; rfl
  have hr : ∀ d, st.revokeDie d line = some st := fun d => by unfold State.revokeDie; rw [hd]; exact if_neg (by simp)
  have hh : ∀ k, st.recallHalf line k = some st := fun k => by unfold State.recallHalf; rw [hd]; exact if_pos (by simp [DirEntry.half])
  unfold State.takeLine
  simp [List.range_succ, hr, hh]

/-- Nor does a write of the hub wait there. -/
theorem hostPut_idle {st : State} (h : st.dir = []) (ht : st.tlb = []) (n pa v : Nat) : st.hostPut n pa v = some (st.hostWrite n pa v) := by
  have hq : ∀ l, st.tableQuiet l = true := fun l => by unfold State.tableQuiet State.tableQuietBut; rw [ht]; rfl
  have hf : ∀ ls : List Nat, ls.foldl (fun (o : Option State) l => o.bind fun s => if s.tableQuiet l then s.takeLine l else none) (some st) = some st := by
    intro ls
    induction ls with
    | nil => rfl
    | cons l ls ih => rw [List.foldl_cons, Option.bind_some, hq, if_pos rfl, takeLine_idle h]; exact ih
  unfold State.hostPut
  rw [hf]
  rfl

/-- Words written from the encodings of NOP, BRA, BRC, BRD, JMPI, CALL, RET, MODEI, MODER, BAR, SYNCS, GBAR, WAITC, WAITM, SLEEP, YIELD (spec/opcode_table.json) decode to them. -/
theorem test_decode_compute_0a :
  (decodeComp 0x80000000#32 = some (.nop 1#1)) ∧
  (decodeComp 0x81F4BE86#32 = some (.bra 1#1 16039558#24)) ∧
  (decodeComp 0x82C3E9C2#32 = some (.brc 1#1 12#4 1#3 125378#17)) ∧
  (decodeComp 0x8333EA0F#32 = some (.brd 1#1 1#3 1#1 256527#20)) ∧
  (decodeComp 0x84027000#32 = some (.jmpi 1#1 39#6)) ∧
  (decodeComp 0x85F4C35C#32 = some (.call 1#1 16040796#24)) ∧
  (decodeComp 0x86000000#32 = some (.ret 1#1)) ∧
  (decodeComp 0x8704C5C7#32 = some (.modei 1#1 312775#20)) ∧
  (decodeComp 0x8803C000#32 = some (.moder 1#1 60#6)) ∧
  (decodeComp 0x89032000#32 = some (.bar 1#1 50#6)) ∧
  (decodeComp 0x8A027000#32 = some (.syncs 1#1 39#6)) ∧
  (decodeComp 0x8B000000#32 = some (.gbar 1#1)) ∧
  (decodeComp 0x8C012F00#32 = some (.waitc 1#1 18#6 60#6)) ∧
  (decodeComp 0x8D0085C0#32 = some (.waitm 1#1 8#6 23#6)) ∧
  (decodeComp 0x8E03D0F2#32 = some (.sleep 1#1 61#6 242#12)) ∧
  (decodeComp 0x8F000000#32 = some (.yield 1#1)) := by
  decide

/-- Words written from the encodings of LAUNCH, JOINC, EXIT, TRAP, TRET, GETS, PUTS, CLOCK_CYCLE, CLOCK_HUBCYC, CLOCK_PTPNS, GSET, BKPT (spec/opcode_table.json) decode to them. -/
theorem test_decode_compute_1a :
  (decodeComp 0x90A27F40#32 = some (.launch 1#1 40#6 39#6 61#6)) ∧
  (decodeComp 0x9101D000#32 = some (.joinc 1#1 29#6)) ∧
  (decodeComp 0x92000000#32 = some (.exit 1#1)) ∧
  (decodeComp 0x9304D448#32 = some (.trap 1#1 316488#20)) ∧
  (decodeComp 0x94000000#32 = some (.tret 1#1)) ∧
  (decodeComp 0x95CC052D#32 = some (.gets 1#1 51#6 1325#12)) ∧
  (decodeComp 0x960295C7#32 = some (.puts 1#1 41#6 1479#12)) ∧
  (decodeComp 0x97780000#32 = some (.clockCycle 1#1 30#6)) ∧
  (decodeComp 0x974C0001#32 = some (.clockHubcyc 1#1 19#6)) ∧
  (decodeComp 0x97240002#32 = some (.clockPtpns 1#1 9#6)) ∧
  (decodeComp 0x98FB20F6#32 = some (.gset 1#1 62#6 50#6 3#6 54#6)) ∧
  (decodeComp 0x9904DDF4#32 = some (.bkpt 1#1 318964#20)) := by
  decide

/-- Words written from the encodings of ADD, SUB, MUL, MULH, MIN, MAX, AND, OR, XOR, ANDN, SHL, SHR, ROT, ADDC, SUBB, ABSD, NEG, ABS, NOT, CLZ, CTZ, POPC, BREV, MAD (spec/opcode_table.json) decode to them. -/
theorem test_decode_compute_2a :
  (decodeComp 0xA0A68740#32 = some (.add 1#1 41#6 40#6 29#6)) ∧
  (decodeComp 0xA07C2AC1#32 = some (.sub 1#1 31#6 2#6 43#6)) ∧
  (decodeComp 0xA051DE02#32 = some (.mul 1#1 20#6 29#6 56#6)) ∧
  (decodeComp 0xA0278143#32 = some (.mulh 1#1 9#6 56#6 5#6)) ∧
  (decodeComp 0xA0FD34C4#32 = some (.min 1#1 63#6 19#6 19#6)) ∧
  (decodeComp 0xA0D2D805#32 = some (.max 1#1 52#6 45#6 32#6)) ∧
  (decodeComp 0xA0A88B86#32 = some (.and 1#1 42#6 8#6 46#6)) ∧
  (decodeComp 0xA07E3EC7#32 = some (.or 1#1 31#6 35#6 59#6)) ∧
  (decodeComp 0xA057E208#32 = some (.xor 1#1 21#6 62#6 8#6)) ∧
  (decodeComp 0xA0298589#32 = some (.andn 1#1 10#6 24#6 22#6)) ∧
  (decodeComp 0xA01738CA#32 = some (.shl 1#1 5#6 51#6 35#6)) ∧
  (decodeComp 0xA0D4EC0B#32 = some (.shr 1#1 53#6 14#6 48#6)) ∧
  (decodeComp 0xA0AA8F8C#32 = some (.rot 1#1 42#6 40#6 62#6)) ∧
  (decodeComp 0xA08032CD#32 = some (.addc 1#1 32#6 3#6 11#6)) ∧
  (decodeComp 0xA055E60E#32 = some (.subb 1#1 21#6 30#6 24#6)) ∧
  (decodeComp 0xA02F998F#32 = some (.absd 1#1 11#6 57#6 38#6)) ∧
  (decodeComp 0xA1153000#32 = some (.neg 1#1 5#6 19#6)) ∧
  (decodeComp 0xA1DAE001#32 = some (.abs 1#1 54#6 46#6)) ∧
  (decodeComp 0xA1AC9002#32 = some (.not 1#1 43#6 9#6)) ∧
  (decodeComp 0xA1823003#32 = some (.clz 1#1 32#6 35#6)) ∧
  (decodeComp 0xA15BE004#32 = some (.ctz 1#1 22#6 62#6)) ∧
  (decodeComp 0xA12D9005#32 = some (.popc 1#1 11#6 25#6)) ∧
  (decodeComp 0xA1074006#32 = some (.brev 1#1 1#6 52#6)) ∧
  (decodeComp 0xA2D8E47D#32 = some (.mad 1#1 54#6 14#6 17#6 61#6)) := by
  decide

/-- Words written from the encodings of BFE, BFI, ADDI, SHI, LIT, CMP, SEL, PAND, POR, PXOR, PNOT, PMOV, PSET, PGET, MOV, BCST, VTOS, STOV (spec/opcode_table.json) decode to them. -/
theorem test_decode_compute_2b :
  (decodeComp 0xA3B297A4#32 = some (.bfe 1#1 44#6 41#6 30#6 36#6)) ∧
  (decodeComp 0xA4844ACA#32 = some (.bfi 1#1 33#6 4#6 43#6 10#6)) ∧
  (decodeComp 0xA55DE979#32 = some (.addi 1#1 23#6 30#6 2425#12)) ∧
  (decodeComp 0xA6339818#32 = some (.shi 1#1 12#6 57#6 2#2 24#6)) ∧
  (decodeComp 0xA705FA13#32 = some (.lit 1#1 1#6 1#2 64019#16)) ∧
  (decodeComp 0xA8DEF865#32 = some (.cmp 1#1 55#6 47#6 33#6 37#6)) ∧
  (decodeComp 0xA9B09B8C#32 = some (.sel 1#1 44#6 9#6 46#6 12#6)) ∧
  (decodeComp 0xAA8A4EC0#32 = some (.pand 1#1 34#6 36#6 59#6)) ∧
  (decodeComp 0xAA5FF241#32 = some (.por 1#1 23#6 63#6 9#6)) ∧
  (decodeComp 0xAA359582#32 = some (.pxor 1#1 13#6 25#6 22#6)) ∧
  (decodeComp 0xAA0B4003#32 = some (.pnot 1#1 2#6 52#6)) ∧
  (decodeComp 0xAADCFC44#32 = some (.pmov 1#1 55#6 15#6 49#6)) ∧
  (decodeComp 0xAAB6A005#32 = some (.pset 1#1 45#6 42#6)) ∧
  (decodeComp 0xAA884006#32 = some (.pget 1#1 34#6 4#6)) ∧
  (decodeComp 0xAB61F000#32 = some (.mov 1#1 24#6 31#6)) ∧
  (decodeComp 0xAB37A981#32 = some (.bcst 1#1 13#6 58#6 38#6)) ∧
  (decodeComp 0xAB0D5D02#32 = some (.vtos 1#1 3#6 21#6 52#6)) ∧
  (decodeComp 0xABE2F043#32 = some (.stov 1#1 56#6 47#6 1#6)) := by
  decide

/-- Words written from the encodings of FADD, FSUB, FMUL, FMIN, FMAX, FCPYS, FABS, FNEG, FRND, FCLASS, FMA, FMS, FNMA, FNMS, FRCP, FRSQ, FSQRT, FEXP2, FLOG2, FSIN, FCOS, FTANH, FDIV, CVT (spec/opcode_table.json) decode to them. -/
theorem test_decode_compute_3a :
  (decodeComp 0xB0B8A380#32 = some (.fadd 1#1 46#6 10#6 14#6)) ∧
  (decodeComp 0xB08E5701#32 = some (.fsub 1#1 35#6 37#6 28#6)) ∧
  (decodeComp 0xB063FA42#32 = some (.fmul 1#1 24#6 63#6 41#6)) ∧
  (decodeComp 0xB039ADC3#32 = some (.fmin 1#1 14#6 26#6 55#6)) ∧
  (decodeComp 0xB00F5104#32 = some (.fmax 1#1 3#6 53#6 4#6)) ∧
  (decodeComp 0xB0E50445#32 = some (.fcpys 1#1 57#6 16#6 17#6)) ∧
  (decodeComp 0xB1BAA000#32 = some (.fabs 1#1 46#6 42#6)) ∧
  (decodeComp 0xB1905001#32 = some (.fneg 1#1 36#6 5#6)) ∧
  (decodeComp 0xB1660002#32 = some (.frnd 1#1 25#6 32#6)) ∧
  (decodeComp 0xB13BA003#32 = some (.fclass 1#1 14#6 58#6)) ∧
  (decodeComp 0xB211551F#32 = some (.fma 1#1 4#6 21#6 20#6 31#6)) ∧
  (decodeComp 0xB3E70845#32 = some (.fms 1#1 57#6 48#6 33#6 5#6)) ∧
  (decodeComp 0xB4BCBBEC#32 = some (.fnma 1#1 47#6 11#6 47#6 44#6)) ∧
  (decodeComp 0xB5925F13#32 = some (.fnms 1#1 36#6 37#6 60#6 19#6)) ∧
  (decodeComp 0xB6685000#32 = some (.frcp 1#1 26#6 5#6)) ∧
  (decodeComp 0xB63DB001#32 = some (.frsq 1#1 15#6 27#6)) ∧
  (decodeComp 0xB6175002#32 = some (.fsqrt 1#1 5#6 53#6)) ∧
  (decodeComp 0xB6E90003#32 = some (.fexp2 1#1 58#6 16#6)) ∧
  (decodeComp 0xB6BEB004#32 = some (.flog2 1#1 47#6 43#6)) ∧
  (decodeComp 0xB6946005#32 = some (.fsin 1#1 37#6 6#6)) ∧
  (decodeComp 0xB66A0006#32 = some (.fcos 1#1 26#6 32#6)) ∧
  (decodeComp 0xB643B007#32 = some (.ftanh 1#1 16#6 59#6)) ∧
  (decodeComp 0xB6156D08#32 = some (.fdiv 1#1 5#6 22#6 52#6)) ∧
  (decodeComp 0xB7EF0000#32 = some (.cvt 1#1 59#6 48#6)) := by
  decide

/-- Words written from the encodings of CVTS, PACK, UNPK, QNT, DQNT (spec/opcode_table.json) decode to them. -/
theorem test_decode_compute_3b :
  (decodeComp 0xB7C0B3C1#32 = some (.cvts 1#1 48#6 11#6 15#6)) ∧
  (decodeComp 0xB8966700#32 = some (.pack 1#1 37#6 38#6 28#6)) ∧
  (decodeComp 0xB96C1A80#32 = some (.unpk 1#1 27#6 1#6 42#6)) ∧
  (decodeComp 0xBA41BDCA#32 = some (.qnt 1#1 16#6 27#6 55#6 1#2 2#3)) ∧
  (decodeComp 0xBB1B615E#32 = some (.dqnt 1#1 6#6 54#6 5#6 3#2 6#3)) := by
  decide

/-- Words written from the encodings of SADD, SSUB, SMUL, SMULH, SMIN, SMAX, SAND, SOR, SXOR, SANDN, SSHL, SSHR, SROT, SADDI, SLIT, XCHX, XCHU, XCHD, XCHXK, XCHUK, XCHDK, XCHI, XBC, VOTE_ANY (spec/opcode_table.json) decode to them. -/
theorem test_decode_compute_4a :
  (decodeComp 0xC0ED1480#32 = some (.sadd 1#1 59#6 17#6 18#6)) ∧
  (decodeComp 0xC0C6C7C1#32 = some (.ssub 1#1 49#6 44#6 31#6)) ∧
  (decodeComp 0xC0986B42#32 = some (.smul 1#1 38#6 6#6 45#6)) ∧
  (decodeComp 0xC0721E83#32 = some (.smulh 1#1 28#6 33#6 58#6)) ∧
  (decodeComp 0xC047C1C4#32 = some (.smin 1#1 17#6 60#6 7#6)) ∧
  (decodeComp 0xC0196545#32 = some (.smax 1#1 6#6 22#6 21#6)) ∧
  (decodeComp 0xC0F31886#32 = some (.sand 1#1 60#6 49#6 34#6)) ∧
  (decodeComp 0xC0C4CBC7#32 = some (.sor 1#1 49#6 12#6 47#6)) ∧
  (decodeComp 0xC09E7F48#32 = some (.sxor 1#1 39#6 39#6 61#6)) ∧
  (decodeComp 0xC0701289#32 = some (.sandn 1#1 28#6 1#6 10#6)) ∧
  (decodeComp 0xC049C5CA#32 = some (.sshl 1#1 18#6 28#6 23#6)) ∧
  (decodeComp 0xC01F794B#32 = some (.sshr 1#1 7#6 55#6 37#6)) ∧
  (decodeComp 0xC0F11C8C#32 = some (.srot 1#1 60#6 17#6 50#6)) ∧
  (decodeComp 0xC1CACB00#32 = some (.saddi 1#1 50#6 44#6 2816#12)) ∧
  (decodeComp 0xC29F0B4D#32 = some (.slit 1#1 39#6 3#2 2893#16)) ∧
  (decodeComp 0xC8762680#32 = some (.xchx 1#1 29#6 34#6 26#6)) ∧
  (decodeComp 0xC84BCA01#32 = some (.xchu 1#1 18#6 60#6 40#6)) ∧
  (decodeComp 0xC8217D42#32 = some (.xchd 1#1 8#6 23#6 53#6)) ∧
  (decodeComp 0xC9F72080#32 = some (.xchxk 1#1 61#6 50#6 2#6)) ∧
  (decodeComp 0xC9CCC401#32 = some (.xchuk 1#1 51#6 12#6 16#6)) ∧
  (decodeComp 0xC9A27742#32 = some (.xchdk 1#1 40#6 39#6 29#6)) ∧
  (decodeComp 0xCA742A80#32 = some (.xchi 1#1 29#6 2#6 42#6)) ∧
  (decodeComp 0xCB4DDE00#32 = some (.xbc 1#1 19#6 29#6 56#6)) ∧
  (decodeComp 0xCC237140#32 = some (.voteAny 1#1 8#6 55#6 5#6)) := by
  decide

/-- Words written from the encodings of VOTE_ALL, VOTE_EQ, VOTE_BALLOT, VOTE_ELECT, VOTE_MATCH, REDU, SCAN, CPT (spec/opcode_table.json) decode to them. -/
theorem test_decode_compute_4b :
  (decodeComp 0xCCF92481#32 = some (.voteAll 1#1 62#6 18#6 18#6)) ∧
  (decodeComp 0xCCCED802#32 = some (.voteEq 1#1 51#6 45#6 32#6)) ∧
  (decodeComp 0xCCA47B43#32 = some (.voteBallot 1#1 41#6 7#6 45#6)) ∧
  (decodeComp 0xCC780004#32 = some (.voteElect 1#1 30#6)) ∧
  (decodeComp 0xCC4FD005#32 = some (.voteMatch 1#1 19#6 61#6)) ∧
  (decodeComp 0xCD25855F#32 = some (.redu 1#1 9#6 24#6 21#6 31#6)) ∧
  (decodeComp 0xCEFB28C6#32 = some (.scan 1#1 62#6 50#6 35#6 6#6)) ∧
  (decodeComp 0xCFD0DC00#32 = some (.cpt 1#1 52#6 13#6 48#6)) := by
  decide

/-- Words written from the encodings of TBIND, TZERO, TZERO_ALL, MMA, MMAK, MMAT, MMAS, TRD_ROW, TRD_COL, TWR_ROW, TWR_COL, TMOVE, TMOVE_ADD, TFREE, TWAIT, TWAIT_ALL (spec/opcode_table.json) decode to them. -/
theorem test_decode_compute_5a :
  (decodeComp 0xD0280000#32 = some (.tbind 1#1 1#3 8#4)) ∧
  (decodeComp 0xD1E30000#32 = some (.tzero 1#1 7#3 3#4)) ∧
  (decodeComp 0xD1900000#32 = some (.tzeroAll 1#1 4#3)) ∧
  (decodeComp 0xD25C4AFE#32 = some (.mma 1#1 2#3 56#6 37#6 7#4 30#5)) ∧
  (decodeComp 0xD3E9E7D1#32 = some (.mmak 1#1 7#3 19#6 51#6 14#4 17#5)) ∧
  (decodeComp 0xD4968AA5#32 = some (.mmat 1#1 4#3 45#6 5#6 5#4 5#5)) ∧
  (decodeComp 0xD5441D78#32 = some (.mmas 1#1 2#3 8#6 14#6 11#4 24#5)) ∧
  (decodeComp 0xD6E3DB22#32 = some (.trdRow 1#1 7#3 3#4 219#8 34#6)) ∧
  (decodeComp 0xD6BE2809#32 = some (.trdCol 1#1 5#3 14#4 40#8 9#6)) ∧
  (decodeComp 0xD748762F#32 = some (.twrRow 1#1 2#3 8#4 118#8 47#6)) ∧
  (decodeComp 0xD7B3C316#32 = some (.twrCol 1#1 5#3 3#4 195#8 22#6)) ∧
  (decodeComp 0xD8AE0500#32 = some (.tmove 1#1 5#3 14#4 5#3)) ∧
  (decodeComp 0xD8580600#32 = some (.tmoveAdd 1#1 2#3 8#4 6#3)) ∧
  (decodeComp 0xD9A00000#32 = some (.tfree 1#1 5#3)) ∧
  (decodeComp 0xDAA00000#32 = some (.twait 1#1 5#3)) ∧
  (decodeComp 0xDA100000#32 = some (.twaitAll 1#1)) := by
  decide

/-- Words written from the encodings of ANOP, ABR, ABEQ, ABNE, ABLT, ABGE, ABLTN, ABGEN, ALOOP, AJMPI, AEND, AADD, ASUB, AMUL, AMULH, AAND, AOR, AXOR, ASHL, ASHR, ASRA, AMIN, AMAX, AMINN (spec/opcode_table.json) decode to them. -/
theorem test_decode_access_0a :
  (decodeAcc 0x80000000#32 = some (.anop 1#1)) ∧
  (decodeAcc 0x81F57036#32 = some (.abr 1#1 16085046#24)) ∧
  (decodeAcc 0x825A462E#32 = some (.abeq 1#1 11#5 9#5 1582#11)) ∧
  (decodeAcc 0x8208CE7B#32 = some (.abne 1#1 1#5 3#5 1659#11)) ∧
  (decodeAcc 0x82B796C9#32 = some (.ablt 1#1 22#5 30#5 1737#11)) ∧
  (decodeAcc 0x825E5F16#32 = some (.abge 1#1 11#5 25#5 1814#11)) ∧
  (decodeAcc 0x820D2763#32 = some (.abltn 1#1 1#5 20#5 1891#11)) ∧
  (decodeAcc 0x82B3AFB1#32 = some (.abgen 1#1 22#5 14#5 1969#11)) ∧
  (decodeAcc 0x83617629#32 = some (.aloop 1#1 12#5 95785#19)) ∧
  (decodeAcc 0x84004000#32 = some (.ajmpi 1#1 1#5)) ∧
  (decodeAcc 0x85000000#32 = some (.aend 1#1)) ∧
  (decodeAcc 0x86664C00#32 = some (.aadd 1#1 12#5 25#5 6#5)) ∧
  (decodeAcc 0x860D2601#32 = some (.asub 1#1 1#5 20#5 19#5)) ∧
  (decodeAcc 0x86BBC202#32 = some (.amul 1#1 23#5 15#5 1#5)) ∧
  (decodeAcc 0x86625C03#32 = some (.amulh 1#1 12#5 9#5 14#5)) ∧
  (decodeAcc 0x86113804#32 = some (.aand 1#1 2#5 4#5 28#5)) ∧
  (decodeAcc 0x86BFD205#32 = some (.aor 1#1 23#5 31#5 9#5)) ∧
  (decodeAcc 0x866EAC06#32 = some (.axor 1#1 13#5 26#5 22#5)) ∧
  (decodeAcc 0x86150807#32 = some (.ashl 1#1 2#5 20#5 4#5)) ∧
  (decodeAcc 0x86C3E208#32 = some (.ashr 1#1 24#5 15#5 17#5)) ∧
  (decodeAcc 0x866ABC09#32 = some (.asra 1#1 13#5 10#5 30#5)) ∧
  (decodeAcc 0x8611180A#32 = some (.amin 1#1 2#5 4#5 12#5)) ∧
  (decodeAcc 0x86C7F20B#32 = some (.amax 1#1 24#5 31#5 25#5)) ∧
  (decodeAcc 0x866E8C0C#32 = some (.aminn 1#1 13#5 26#5 6#5)) := by
  decide

/-- Words written from the encodings of AMAXN, AADDI, ALI, ALIM, ALIT, ALIQ, APOP, APOP_K, APUSH, RTICK, SETD, AGETS (spec/opcode_table.json) decode to them. -/
theorem test_decode_access_0b :
  (decodeAcc 0x861D680D#32 = some (.amaxn 1#1 3#5 21#5 20#5)) ∧
  (decodeAcc 0x87C3DD21#32 = some (.aaddi 1#1 24#5 15#5 7457#14)) ∧
  (decodeAcc 0x8870810A#32 = some (.ali 1#1 14#5 33034#16)) ∧
  (decodeAcc 0x881981A5#32 = some (.alim 1#1 3#5 33189#16)) ∧
  (decodeAcc 0x88C2823F#32 = some (.alit 1#1 24#5 33343#16)) ∧
  (decodeAcc 0x887382DA#32 = some (.aliq 1#1 14#5 33498#16)) ∧
  (decodeAcc 0x89180015#32 = some (.apop 1#1 3#5 21#5)) ∧
  (decodeAcc 0x89C80030#32 = some (.apopK 1#1 25#5 16#5)) ∧
  (decodeAcc 0x8A728000#32 = some (.apush 1#1 14#5 10#5)) ∧
  (decodeAcc 0x8B000000#32 = some (.rtick 1#1)) ∧
  (decodeAcc 0x8CC95FD9#32 = some (.setd 1#1 25#5 5#5 8153#14)) ∧
  (decodeAcc 0x8D78067A#32 = some (.agets 1#1 15#5 1658#14)) := by
  decide

/-- Words written from the encodings of VDEF_GLOB, VDEF_CORE, VSET, VGET, LDT, LDG, LDA, LDP, STT, STG, STA, PREF (spec/opcode_table.json) decode to them. -/
theorem test_decode_access_1a :
  (decodeAcc 0x90254000#32 = some (.vdefGlob 1#1 4#5 21#5)) ∧
  (decodeAcc 0x90CC0001#32 = some (.vdefCore 1#1 25#5 16#5)) ∧
  (decodeAcc 0x917AC10F#32 = some (.vset 1#1 15#5 11#5 271#9)) ∧
  (decodeAcc 0x92200B5C#32 = some (.vget 1#1 4#5 5#5 348#9)) ∧
  (decodeAcc 0x984549F4#32 = some (.ldt 1#1 2#3 5#5 9#5 1#3 7#3 1#1 1#2)) ∧
  (decodeAcc 0x99FBBD54#32 = some (.ldg 1#1 7#3 27#5 23#5 5#3 2#3 1#1 1#2)) ∧
  (decodeAcc 0x9A3527D8#32 = some (.lda 1#1 1#1 21#5 4#5 7#3 6#3 1#1 2#2)) ∧
  (decodeAcc 0x9B50953C#32 = some (.ldp 1#1 2#3 16#5 18#5 5#3 1#3 1#1 3#2)) ∧
  (decodeAcc 0x9C0F5F9C#32 = some (.stt 1#1 15#5 11#5 7#3 4#3 1#1 3#2)) ∧
  (decodeAcc 0x9D053474#32 = some (.stg 1#1 5#5 6#5 4#3 3#3 1#1 1#2)) ∧
  (decodeAcc 0x9E1A2A38#32 = some (.sta 1#1 26#5 5#5 2#3 1#3 1#1 2#2)) ∧
  (decodeAcc 0x9F10DFB4#32 = some (.pref 1#1 16#5 27#5 7#3 5#3 1#1 1#2)) := by
  decide

/-- Words written from the encodings of ATOM, ATOMA, FENCE, XFENCE, CPY, HAND, XFER, XMC, CTRSET, CTRSET_T, CTRADD, CTRGET, CTRGET_T, AWAITC, AWAITC_T (spec/opcode_table.json) decode to them. -/
theorem test_decode_access_2a :
  (decodeAcc 0xA0B6A75A#32 = some (.atom 1#1 5#3 22#5 20#5 7#3 2#3 26#5)) ∧
  (decodeAcc 0xA1DC44AB#32 = some (.atoma 1#1 27#5 17#5 2#5 5#4 1#2 3#3)) ∧
  (decodeAcc 0xA2AC0000#32 = some (.fence 1#1 5#3 3#3)) ∧
  (decodeAcc 0xA3262680#32 = some (.xfence 1#1 38#7 38#7 4#3)) ∧
  (decodeAcc 0xA8D85400#32 = some (.cpy 1#1 27#5 1#5 2#3 1#1)) ∧
  (decodeAcc 0xA986FC00#32 = some (.hand 1#1 16#5 27#5 7#3 1#1)) ∧
  (decodeAcc 0xAA35AE94#32 = some (.xfer 1#1 6#5 22#5 5#3 1#1 2#2 148#8)) ∧
  (decodeAcc 0xABDC559D#32 = some (.xmc 1#1 27#5 17#5 2#3 1#1 1#2 157#8)) ∧
  (decodeAcc 0xAC045800#32 = some (.ctrset 1#1 17#5 12#5)) ∧
  (decodeAcc 0xAC018C01#32 = some (.ctrsetT 1#1 6#5 6#5)) ∧
  (decodeAcc 0xAD070200#32 = some (.ctradd 1#1 28#5 1#5)) ∧
  (decodeAcc 0xAE8F0000#32 = some (.ctrget 1#1 17#5 28#5)) ∧
  (decodeAcc 0xAE358001#32 = some (.ctrgetT 1#1 6#5 22#5)) ∧
  (decodeAcc 0xAF072200#32 = some (.awaitc 1#1 28#5 17#5)) ∧
  (decodeAcc 0xAF044001#32 = some (.awaitcT 1#1 17#5)) := by
  decide

/-- Words written from the encodings of WADD, WADD_I, WSUB, WSUB_I, WMUL, WMUL_I, WAND, WAND_I, WOR, WOR_I, WXOR, WXOR_I, WSHL, WSHL_I, WSHR, WSHR_I, WMIN, WMIN_I, WMAX, WMAX_I, WCMP, WSEL, WMOV_W, WMOV_X (spec/opcode_table.json) decode to them. -/
theorem test_decode_weir_0a :
  (decodeWeir 0x019DF600#32 = some (.wadd 1#1 7#4 7#4 13#4 1#1)) ∧
  (decodeWeir 0x01F068EA#32 = some (.waddI 1#1 12#4 1#4 10474#14)) ∧
  (decodeWeir 0x028B1E00#32 = some (.wsub 1#1 2#4 12#4 7#4 1#1)) ∧
  (decodeWeir 0x02DDE985#32 = some (.wsubI 1#1 7#4 7#4 10629#14)) ∧
  (decodeWeir 0x03B44A00#32 = some (.wmul 1#1 13#4 1#4 2#4 1#1)) ∧
  (decodeWeir 0x03CB2A20#32 = some (.wmulI 1#1 2#4 12#4 10784#14)) ∧
  (decodeWeir 0x049DF600#32 = some (.wand 1#1 7#4 7#4 13#4 1#1)) ∧
  (decodeWeir 0x04F4AABA#32 = some (.wandI 1#1 13#4 2#4 10938#14)) ∧
  (decodeWeir 0x058B2200#32 = some (.wor 1#1 2#4 12#4 8#4 1#1)) ∧
  (decodeWeir 0x05E1EB55#32 = some (.worI 1#1 8#4 7#4 11093#14)) ∧
  (decodeWeir 0x06B48A00#32 = some (.wxor 1#1 13#4 2#4 2#4 1#1)) ∧
  (decodeWeir 0x06CF2BF0#32 = some (.wxorI 1#1 3#4 12#4 11248#14)) ∧
  (decodeWeir 0x07A1F600#32 = some (.wshl 1#1 8#4 7#4 13#4 1#1)) ∧
  (decodeWeir 0x07F4AC8A#32 = some (.wshlI 1#1 13#4 2#4 11402#14)) ∧
  (decodeWeir 0x088F6200#32 = some (.wshr 1#1 3#4 13#4 8#4 1#1)) ∧
  (decodeWeir 0x08E1ED25#32 = some (.wshrI 1#1 8#4 7#4 11557#14)) ∧
  (decodeWeir 0x09B88E00#32 = some (.wmin 1#1 14#4 2#4 3#4 1#1)) ∧
  (decodeWeir 0x09CF6DC0#32 = some (.wminI 1#1 3#4 13#4 11712#14)) ∧
  (decodeWeir 0x0AA63600#32 = some (.wmax 1#1 9#4 8#4 13#4 1#1)) ∧
  (decodeWeir 0x0AF8AE5B#32 = some (.wmaxI 1#1 14#4 2#4 11867#14)) ∧
  (decodeWeir 0x0BCD8980#32 = some (.wcmp 1#1 4#3 13#4 8#4 9#4 1#1)) ∧
  (decodeWeir 0x0CCC2F80#32 = some (.wsel 1#1 9#4 8#4 5#4 15#4)) ∧
  (decodeWeir 0x0D2F0000#32 = some (.wmovW 5#4 14#4)) ∧
  (decodeWeir 0x0D521000#32 = some (.wmovX 10#4 4#4)) := by
  decide

/-- Words written from the encodings of WMOV_WX, WMOV_XL, WMOV_WL, WLI, WLI_H, WHDR, WHDR_W, WSETH, WLDP, WLDP_X, WSTP, WSTP_X, WLDF, WSTF, WATF, WHASH, WHASH_LK, WREP, WBR, WBR_CC, WFWD, WDUP, WDROP, WTRAP (spec/opcode_table.json) decode to them. -/
theorem test_decode_weir_0b :
  (decodeWeir 0x0D2CA000#32 = some (.wmovWx 5#4 9#4)) ∧
  (decodeWeir 0x0D2FB600#32 = some (.wmovXl 5#4 15#4 3#3)) ∧
  (decodeWeir 0x0D5A4A00#32 = some (.wmovWl 11#4 4#4 5#3)) ∧
  (decodeWeir 0x0ED0A7B8#32 = some (.wli 1#1 10#4 42936#16)) ∧
  (decodeWeir 0x0EFCA853#32 = some (.wliH 1#1 15#4 43091#16)) ∧
  (decodeWeir 0x10650000#32 = some (.whdr 12#4 20#5)) ∧
  (decodeWeir 0x10B80000#32 = some (.whdrW 7#4)) ∧
  (decodeWeir 0x110FC000#32 = some (.wseth 1#4 31#5)) ∧
  (decodeWeir 0x12600005#32 = some (.wldp 12#4 5#3)) ∧
  (decodeWeir 0x12BA0005#32 = some (.wldpX 7#4 2#3 5#3)) ∧
  (decodeWeir 0x13100005#32 = some (.wstp 2#4 5#3)) ∧
  (decodeWeir 0x13ED0006#32 = some (.wstpX 13#4 5#3 6#3)) ∧
  (decodeWeir 0x1443AD28#32 = some (.wldf 8#4 3#3 44328#16)) ∧
  (decodeWeir 0x151DADC3#32 = some (.wstf 3#4 5#3 44483#16)) ∧
  (decodeWeir 0x16EBA881#32 = some (.watf 14#4 5#3 6#3 5#3 129#11)) ∧
  (decodeWeir 0x175B2000#32 = some (.whash 5#3 11#4 1#3)) ∧
  (decodeWeir 0x17B50000#32 = some (.whashLk 3#3 5#4)) ∧
  (decodeWeir 0x18ED8000#32 = some (.wrep 14#4 54#6)) ∧
  (decodeWeir 0x19000089#32 = some (.wbr 137#8)) ∧
  (decodeWeir 0x19840063#32 = some (.wbrCc 4#3 1#3 99#8)) ∧
  (decodeWeir 0x1A000000#32 = some (.wfwd)) ∧
  (decodeWeir 0x1B400000#32 = some (.wdup 2#3)) ∧
  (decodeWeir 0x1C000000#32 = some (.wdrop)) ∧
  (decodeWeir 0x1D09FC00#32 = some (.wtrap 159#12 6#3)) := by
  decide

/-- Words written from the encodings of WEND (spec/opcode_table.json) decode to them. -/
theorem test_decode_weir_0c :
  (decodeWeir 0x1E000000#32 = some (.wend)) := by
  decide

/-! Ill-formed instructions: one for each kind of check, which the check refuses (R29, R33, R34, R46, R48, R386, R363). -/

/-- A destination that is no vector register (62), a source in the reserved rows (36), a source where only one kind may stand. -/
theorem test_wf_refuses_operands :
    (Instr.add 0 62 1 2).wf = false ∧ (Instr.add 0 1 36 2).wf = false ∧ (Instr.jmpi 0 38).wf = false ∧ (Instr.moder 0 3).wf = false ∧
    (Instr.bar 0 38).wf = false ∧ (Instr.waitc 0 50 2).wf = false ∧ (Instr.joinc 0 2).wf = false ∧ (Instr.bfi 0 50 1 2 3).wf = false ∧
    (Instr.lit 0 50 1 7).wf = false ∧ (Instr.sadd 0 3 50 50).wf = false ∧ (Instr.slit 0 3 0 1).wf = false ∧ (Instr.cvts 0 3 4 5).wf = false ∧
    (Instr.pack 0 50 1 0).wf = false ∧ (Instr.stov 0 3 4 0).wf = false ∧ (Instr.vtos 0 3 4 0).wf = false ∧ (Instr.frcp 0 40 1).wf = false := by
  decide

/-- Predicate registers are 0 to 7; field values stay in the ranges of their rows. -/
theorem test_wf_refuses_fields :
    (Instr.cmp 0 8 1 2 0).wf = false ∧ (Instr.pand 0 1 8 2).wf = false ∧ (Instr.sel 0 1 2 3 9).wf = false ∧ (Instr.brc 0 0 6 1).wf = false ∧
    (Instr.shi 0 1 2 3 4).wf = false ∧ (Instr.bcst 0 1 2 16).wf = false ∧ (Instr.vtos 0 50 3 32).wf = false ∧ (Instr.redu 0 1 2 38 9).wf = false ∧
    (Instr.scan 0 1 2 38 6).wf = false ∧ (Instr.gset 0 1 2 3 5).wf = false ∧ (Instr.gset 0 1 2 3 3).wf = false ∧ (Instr.gets 0 50 17).wf = false ∧
    (Instr.puts 0 50 17).wf = false ∧ (Instr.voteAny 0 1 8 2).wf = false := by
  decide

/-- The block codes of QNT and DQNT are 1 to 4 and their operands V registers; matrix operands stay in their ranges. -/
theorem test_wf_refuses_matrix :
    (Instr.qnt 0 31 4 5 0 5).wf = false ∧ (Instr.dqnt 0 1 36 5 0 1).wf = false ∧ (Instr.mma 0 0 25 0 0 0).wf = false ∧ (Instr.mma 0 0 0 25 0 0).wf = false ∧ (Instr.mma 0 0 0 8 0 3).wf = false ∧
    (Instr.mmak 0 0 0 32 0 0).wf = false ∧ (Instr.mmak 0 0 0 8 0 2).wf = false ∧ (Instr.mmak 0 0 0 8 15 0).wf = false ∧ (Instr.mmat 0 0 0 8 0 2).wf = false ∧
    (Instr.mmat 0 0 0 8 14 3).wf = false ∧ (Instr.mmas 0 0 0 8 15 0).wf = false := by
  decide

/-- The access stream's queue, data register, view field, guard, order, scope and operation numbers. -/
theorem test_wf_refuses_access :
    (Instr.aloop 0 0 1).wf = false ∧ (Instr.apush 0 4 1).wf = false ∧ (Instr.setd 0 8 1 2).wf = false ∧ (Instr.agets 0 1 17).wf = false ∧
    (Instr.vset 0 1 2 7).wf = false ∧ (Instr.vset 0 1 2 24).wf = false ∧ (Instr.vget 0 1 2 1).wf = false ∧ (Instr.ldt 0 4 1 2 3 0 0 0).wf = false ∧
    (Instr.ldt 0 1 1 2 3 1 0 0).wf = false ∧ (Instr.lda 0 1 2 0 3 0 1 0).wf = false ∧ (Instr.atom 0 4 1 2 0 1 1).wf = false ∧ (Instr.atom 0 1 1 2 5 1 1).wf = false ∧
    (Instr.atoma 0 31 1 2 12 1 1).wf = false ∧ (Instr.fence 0 1 4).wf = false ∧ (Instr.fence 0 5 3).wf = false ∧ (Instr.xfence 0 0 1 1).wf = false ∧
    (Instr.xfence 0 1 0 1).wf = false ∧ (Instr.fence 0 7 0).wf = false ∧ (Instr.atom 0 1 1 2 0 1 15).wf = false := by
  decide

/-- The Weir's scalar forms name X0 to X7, header fields are 0 to 17, and only some may be written. -/
theorem test_wf_refuses_weir :
    (Instr.wadd 1 8 1 2 0).wf = false ∧ (Instr.wadd 1 1 1 2 1).wf = false ∧ (Instr.wadd 0 1 1 8 1).wf = false ∧ (Instr.wcmp 0 6 1 1 2 0).wf = false ∧
    (Instr.wmovX 8 1).wf = false ∧ (Instr.wmovWx 1 8).wf = false ∧ (Instr.wli 1 8 0).wf = false ∧ (Instr.whdr 1 18).wf = false ∧
    (Instr.wseth 1 3).wf = false ∧ (Instr.watf 8 0 0 0 0).wf = false ∧ (Instr.watf 7 0 0 1 0).wf = false ∧ (Instr.wbrCc 5 0 0).wf = false ∧
    (Instr.wbrCc 0 0 0).wf = false := by
  decide

/-- Units of a machine operation: control ports 1 and 2, cut points 0 to 15, dies 0 to 8, cores 0 to 2687, clusters 0 to 671. -/
theorem test_wf_refuses_units :
    (Instr.ctlcas 3 0).wf = false ∧ (Instr.cutWrite 1 0 16 0).wf = false ∧ (Instr.watchFilterWrite 1 3 0).wf = false ∧ (Instr.trctlWrite 9 0).wf = false ∧
    (Instr.ptsJump 2688).wf = false ∧ (Instr.l2AgeingStep 9).wf = false ∧ (Instr.matrixGrant 672 0).wf = false ∧ (Instr.matrixGrant 0 32).wf = false ∧
    (Instr.dieLoss 9).wf = false := by
  decide

/-- Reserved words are refused by the decoder of their stream (R29, R384). -/
theorem test_decode_refuses :
    decodeComp 0x1A000000#32 = none ∧ decodeComp 0x7F000000#32 = none ∧ decodeAcc 0x0E000000#32 = none ∧ decodeAcc 0x7F000000#32 = none ∧
    decodeWeir 0x00000000#32 = none ∧ decodeWeir 0xFF000000#32 = none := by
  decide

/-! Values of the spec's worked examples. -/

/-- The location word of R24's example: thread 5, slot 1 of pipe 9 of quad 2, core 3 of cluster 8 of B-die 0. -/
theorem test_location_word : locOf (gidOf 803 83) 5 = 0x5323A650 := by decide

/-- The stack interleave of R344's example: HALVES, device 1, 0x12_3456_7890 lies on stack 15 at 0x2_468A_C890. -/
theorem test_interleave_halves : flatHbm 1 1 0x1234567890 = 15 * 2 ^ 36 + 0x2468AC890 := by decide

/-- A grid of 1,000 workgroups over dies of 48, 48, 120 and 120 clusters (R81's example). -/
theorem test_grid_shares : shares 1000 [(1, 48), (2, 48), (5, 120), (6, 120)] = [(1, 143), (2, 143), (5, 357), (6, 357)] := by decide

/-- The XOR swizzle of R128's example: F = 4, W = 3, G = 7 take 0x2A0 to 0x2F0. -/
theorem test_swizzle : swizzle (BitVec.ofNat 1024 (2 ^ 80 + (4 + 2 * 32 + 7 * 256) * 2 ^ 160)) 0x2A0 = 0x2F0 := by decide

/-- The ranks of R135's example: 800 cycles per tick and distance 20 give RANK 63, under the penalty 250. -/
theorem test_rank : rankOf 0x32000 false 20 = 63 ∧ rankOf 0x32000 true 20 = 250 := by decide

/-- The three reads of R329's example end at its leaf. -/
theorem test_walk :
    (State.walk { mem := ((Memory.write [] (flatHbm 0 0 0x100090) 8 0x200001).write (flatHbm 0 0 0x201A28) 8 0x300001).write (flatHbm 0 0 0x3033C0) 8 0x4567893071, ctxs := [(0, { troot := 0x100000 })] } 0 0x0123456789AC0 =
        .leaf 0x4567893071 1 (flatHbm 0 0 0x3033C0) [flatHbm 0 0 0x100080, flatHbm 0 0 0x201A00, flatHbm 0 0 0x303380]) ∧
      State.leafPa {} 0 0x4567893071 1 0x0123456789AC0 = flatHbm 0 0 0x4567899AC0 := by decide +kernel

/-- Reads of I4 and T2 codes, and saturation (the example of R245). -/
theorem test_integer_reads :
    readInt .i4 0b1101 = (-3, 0) ∧ readInt .t2 0b11 = (-1, 0) ∧ readInt .t2 0b01 = (1, 0) ∧ readInt .t2 0b10 = (0, fTN) ∧
    storeInt .i8 true 200 = ⟨127, fSQ⟩ ∧ storeInt .i8 false 200 = ⟨0xC8, 0⟩ := by decide

/-- Roundings of R254's table: 2,049 and 70,000 in F16, 2⁻¹²⁷ in BF16 and 3·2⁻²⁵ in F16. -/
theorem test_roundings :
    roundZ (fmtOf .f16) .rne 2049 0 false = ⟨0x6800, fNX⟩ ∧ roundZ (fmtOf .f16) .rup 2049 0 false = ⟨0x6801, fNX⟩ ∧
    roundZ (fmtOf .f16) .rdn (-2049) 0 false = ⟨0xE801, fNX⟩ ∧ roundZ (fmtOf .f16) .rne 70000 0 false = ⟨0x7C00, fOF ||| fNX⟩ ∧
    roundZ (fmtOf .f16) .rtz 70000 0 false = ⟨0x7BFF, fOF ||| fNX⟩ ∧ roundZ (fmtOf .bf16) .rup 1 (-127) false = ⟨0, fUF ||| fNX⟩ ∧
    roundZ (fmtOf .f16) .rne 3 (-25) false = ⟨2, fUF ||| fNX⟩ ∧ roundZ (fmtOf .f16) .rdn 3 (-25) false = ⟨1, fUF ||| fNX⟩ := by decide

/-- Roundings of R254's table: 490 and 500 in F8N, −2.5 in F8N and F8W. -/
theorem test_roundings_f8 :
    roundZ (fmtOf .f8n) .rne 490 0 false = ⟨0x7F, fNX⟩ ∧ roundZ (fmtOf .f8n) .rup 490 0 false = ⟨0x7F, fOF ||| fNX⟩ ∧
    roundZ (fmtOf .f8n) .rne 500 0 false = ⟨0x7F, fOF ||| fNX⟩ ∧ roundZ (fmtOf .f8n) .rtz 500 0 false = ⟨0x7F, fNX⟩ ∧
    roundZ (fmtOf .f8n) .rne (-5) (-1) false = ⟨0xC2, 0⟩ ∧ roundZ (fmtOf .f8w) .rne (-5) (-1) false = ⟨0xC1, 0⟩ := by decide

/-- FRCP of 3.0 and FSQRT of 2.25 (R281's example). -/
theorem test_sfu_values :
    divF (fmtOf .f32) .rne (.fin false 1 0) (readF (fmtOf .f32) 0x40400000) = ⟨0x3EAAAAAB, fNX⟩ ∧
    divF (fmtOf .f32) .rtz (.fin false 1 0) (readF (fmtOf .f32) 0x40400000) = ⟨0x3EAAAAAA, fNX⟩ ∧
    sqrtF (fmtOf .f32) .rne (readF (fmtOf .f32) 0x40100000) = ⟨0x3FC00000, 0⟩ := by decide

/-- REDU.FADD of 2²⁴ and sixty-three 1.0 gives 16,777,278.0 (the example of R257). -/
theorem test_redu_order :
    (reduce (fun x y => addF (fmtOf .f32) .rne (readF (fmtOf .f32) x) (readF (fmtOf .f32) y))
      ([0x4B800000, 0x3F800000] :: (List.range 31).map fun _ => [0x3F800000, 0x3F800000])).bits = 0x4B80001F := by decide

/-- The scale of a block whose largest magnitude is 6.0, target F8N, and its codes (the examples of R261 and R284). -/
theorem test_quant :
    quant ([0x40C00000, 0x3F800000, 0xC0400000, 0].map fun x => readF (fmtOf .f32) x) .f8n .rne =
      (⟨0x3C4D, 0⟩, [⟨0x7F, fNX⟩, ⟨0x6A, fNX⟩, ⟨0xF7, fNX⟩, ⟨0, 0⟩]) := by decide

/-- A one-part dot product whose scale product is below the F32 range (the example of R259). -/
theorem test_scaled_part : cellF ((Sum.add {} (.fin false 0 0)).add (partVal (readSc 0x0080) (readSc 0x2B80)
      (dotOf false ((List.range 32).map fun _ => (elemVal .f8n 0x78).1) ((List.range 32).map fun _ => (elemVal .f8n 0x70).1) (List.range 32)))) = ⟨8, 0⟩ := by decide

/-- The group of an answer. -/
def tAfter (i : Instr) (g : Group) (slot : Nat) : Option Group :=
  match exec i (tState g slot) with
  | .next s => mget s.groups 0
  | _ => none

/-- Thread 0's 64 bits of a row. -/
def tLane (g : Option Group) (r : Nat) : Nat := (mgetD ((g.map (·.v)).getD []) r 0 : BitVec 2048).toNat % 2 ^ 64

/-- A row that holds one value in thread 0. -/
def tRow (x : Nat) : Row := BitVec.ofNat 2048 x

/-- A row from its 32 threads' values. -/
def tRows (f : Nat → Nat) : Row := BitVec.ofNat 2048 ((List.range 32).foldr (fun t n => f t % 2 ^ 64 + 2 ^ 64 * n) 0)

/-- Steps of the Barrett reduction of R273's example (N32): MUL, MULH, MUL and SUB. -/
theorem test_barrett :
    tLane (tAfter (.mul 0 3 1 2) { tGroup 0x00050005 with v := [(1, tRow (12288 + 5000 * 2 ^ 32)), (2, tRow (12288 + 7000 * 2 ^ 32))] } 0) 3 =
      150994944 + 35000000 * 2 ^ 32 ∧
    tLane (tAfter (.mulh 0 4 3 54) { tGroup 0x00050005 with v := [(3, tRow (150994944 + 35000000 * 2 ^ 32))], s := [(6, 0x0005553800055538)] } 0) 4 =
      12286 + 2848 * 2 ^ 32 ∧
    tLane (tAfter (.sub 0 3 3 4) { tGroup 0x00050005 with v := [(3, tRow (150994944 + 35000000 * 2 ^ 32)), (4, tRow (150982654 + 34999072 * 2 ^ 32))] } 0) 3 =
      12290 + 928 * 2 ^ 32 := by decide

/-- CMP.GE writes every bit of the byte positions of its sub-elements (R274's example). -/
theorem test_cmp :
    (tAfter (.cmp 0 1 3 55 5) { tGroup 0x00050005 with v := [(3, tRow (12290 + 928 * 2 ^ 32))], s := [(7, 0x0000300100003001)] } 0).map
      (fun g => (mgetD g.p 1 0 : BitVec 256).toNat % 256) = some 0x0F := by decide

/-- The guarded SUB of R273's example keeps the sub-element that P1 does not enable. -/
theorem test_guarded_sub :
    tLane (tAfter (.sub 0 3 3 55) { tGroup 0x00050305 with v := [(3, tRow (12290 + 928 * 2 ^ 32))], s := [(7, 0x0000300100003001)], p := [(1, 0x0F#256)] } 0) 3 =
      1 + 928 * 2 ^ 32 := by decide

/-- NEG of −128 under I8 with SAT = 1 stores 127 and sets SQ, with SAT = 0 stores −128 and sets nothing; CLZ of 0 stores 8 (R272's example). -/
theorem test_neg_clz :
    tLane (tAfter (.neg 0 3 1) { tGroup 0x00000080 with v := [(1, 0x80#2048)] } 0) 3 = 0x7F ∧
    (tAfter (.neg 0 3 1) { tGroup 0x00000080 with v := [(1, 0x80#2048)] } 0).map (·.stat) = some 0x20 ∧
    tLane (tAfter (.neg 0 3 1) { tGroup 0x00000000 with v := [(1, 0x80#2048)] } 0) 3 = 0x80 ∧
    tLane (tAfter (.clz 0 3 1) (tGroup 0x00000000) 0) 3 = 0x0808080808080808 := by decide

/-- The group of R289's example: a split of threads 0 to 7, V1 holding 100t + s, V2 holding −1, and P0. -/
def tXch : Group :=
  { tGroup 0x00040104 with splits := [(0, { tSplit with mask := 0xFF#32 }), (1, { pc := 0x20040#64, mask := 0xFFFFFF00#32 })], p := [(0, BitVec.ofNat 256 (2 ^ 256 - 1 - 0xF0 * 2 ^ 16 - 0x0F * 2 ^ 24))], v := [(1, tRows fun t => 100 * t + (100 * t + 1) * 2 ^ 32), (2, tRows fun _ => 2 ^ 64 - 1)] }

/-- Threads 2, 3, 6 and 7 after `XCHXK V2, V1, #2` in R289's example. -/
theorem test_xchxk :
    (tAfter (.xchxk 0 2 1 2) tXch 0).map (fun g => [2, 3, 6, 7].map fun t => (mgetD g.v 2 0 : BitVec 2048).toNat / 2 ^ (64 * t) % 2 ^ 64) =
      some [0xFFFFFFFF * 2 ^ 32, 200 * 2 ^ 32 + 0xFFFFFFFF, 701 * 2 ^ 32 + 700, 601 * 2 ^ 32 + 600] := by decide

/-- The padded matrix of R130's example: 100 rows by 60 of 64 columns, tile 8 × 8. -/
def tMatrix : BitVec 1024 := BitVec.ofNat 1024 (0x40000000 + (2 * 2 ^ 4 + 2 * 2 ^ 7 + 3 * 2 ^ 11 + 2 ^ 32) * 2 ^ 64 + 60 * 2 ^ 256 + 2 ^ 288 + 100 * 2 ^ 320 + 64 * 2 ^ 352)

/-- Its tile at (56, 96): row 96 starts 0x60E0 bytes in, element 4 lies at column 60, out of bounds in dimension 0, and element 32 in row 100, out of bounds in 1. -/
theorem test_tile_bounds :
    elemAddr tMatrix [56, 96] = 0x400060E0 ∧ tileOffset tMatrix 4 = (4, 0) ∧ oobDim tMatrix [60, 96] = some 0 ∧ tileOffset tMatrix 32 = (0, 4) ∧
    oobDim tMatrix [56, 100] = some 1 ∧ oobDim tMatrix [59, 99] = none := by decide

/-! Witnesses: for each statement with hypotheses, states and operands that meet them. -/

/-- States and operands that meet the hypotheses of IntegerTwoSourceCompletes, clauses 1, 3 (clauses of one shape share one). -/
theorem witness_IntegerTwoSourceCompletes :
  (∃ (st : State) (m : BitVec 1) (d : BitVec 6) (a : BitVec 6) (b : BitVec 6) (grp : Group) (spl : Split), ReadyC st m (binSpec d a b intT2Et) grp spl) ∧
  (∃ (st : State) (m : BitVec 1) (d : BitVec 6) (a : BitVec 6) (b : BitVec 6) (grp : Group) (spl : Split), ReadyC st m (binSpec d a b intEt) grp spl) :=
  ⟨⟨tState (tGroup 0x000A0004#32) 0, 0#1, 1#6, 2#6, 3#6, (tGroup 0x000A0004#32), tSplit, ready_of (by decide)⟩,
  ⟨tState (tGroup 0x000A0004#32) 0, 0#1, 1#6, 2#6, 3#6, (tGroup 0x000A0004#32), tSplit, ready_of (by decide)⟩⟩

/-- States and operands that meet the hypotheses of IntegerOneAndThreeSourceComplete, clauses 1, 3, 8, 9, 10, 11, 12, 13 (clauses of one shape share one). -/
theorem witness_IntegerOneAndThreeSourceComplete :
  (∃ (st : State) (m : BitVec 1) (d : BitVec 6) (a : BitVec 6) (grp : Group) (spl : Split), ReadyC st m (unSpec d a intT2Et) grp spl) ∧
  (∃ (st : State) (m : BitVec 1) (d : BitVec 6) (a : BitVec 6) (grp : Group) (spl : Split), ReadyC st m (unSpec d a intEt) grp spl) ∧
  (∃ (st : State) (m : BitVec 1) (d : BitVec 6) (a : BitVec 6) (b : BitVec 6) (c : BitVec 6) (grp : Group) (spl : Split), ReadyC st m { legal := dstOk d && srcOk a && srcOk b && srcOk c, srcs := [a, b, c], dst := some d, mode := intEt } grp spl) ∧
  (∃ (st : State) (m : BitVec 1) (d : BitVec 6) (a : BitVec 6) (b : BitVec 6) (c : BitVec 6) (grp : Group) (spl : Split), ReadyC st m { legal := dstOk d && srcOk a && srcOk b && srcOk c, srcs := [a, b, c], dst := some d, mode := fun g => g.et.isWordInt } grp spl) ∧
  (∃ (st : State) (m : BitVec 1) (d : BitVec 6) (a : BitVec 6) (b : BitVec 6) (c : BitVec 6) (grp : Group) (spl : Split), ReadyC st m { legal := isV d && srcOk a && srcOk b && srcOk c, srcs := [d, a, b, c], dst := some d, mode := fun g => g.et.isWordInt } grp spl) ∧
  (∃ (st : State) (m : BitVec 1) (d : BitVec 6) (a : BitVec 6) (i : BitVec 12) (grp : Group) (spl : Split), ReadyC st m (unSpec d a intEt) grp spl) ∧
  (∃ (st : State) (m : BitVec 1) (d : BitVec 6) (a : BitVec 6) (k : BitVec 2) (n : BitVec 6) (grp : Group) (spl : Split), ReadyC st m { unSpec d a intEt with legal := dstOk d && srcOk a && decide (k ≠ 3#2), fits := fun g => decide (n.toNat < g.et.width) } grp spl) ∧
  (∃ (st : State) (m : BitVec 1) (d : BitVec 6) (h : BitVec 2) (l : BitVec 16) (grp : Group) (spl : Split), ReadyC st m { guarded := false, legal := if h = 0#2 then dstOk d else isV d, srcs := if h = 0#2 then [] else [d], dst := some d } grp spl) :=
  ⟨⟨tState (tGroup 0x000A0004#32) 0, 0#1, 1#6, 2#6, (tGroup 0x000A0004#32), tSplit, ready_of (by decide)⟩,
  ⟨tState (tGroup 0x000A0004#32) 0, 0#1, 1#6, 2#6, (tGroup 0x000A0004#32), tSplit, ready_of (by decide)⟩,
  ⟨tState (tGroup 0x000A0004#32) 0, 0#1, 1#6, 2#6, 3#6, 4#6, (tGroup 0x000A0004#32), tSplit, ready_of (by decide)⟩,
  ⟨tState (tGroup 0x000A0004#32) 0, 0#1, 1#6, 2#6, 3#6, 4#6, (tGroup 0x000A0004#32), tSplit, ready_of (by decide)⟩,
  ⟨tState (tGroup 0x000A0004#32) 0, 0#1, 1#6, 2#6, 3#6, 4#6, (tGroup 0x000A0004#32), tSplit, ready_of (by decide)⟩,
  ⟨tState (tGroup 0x000A0004#32) 0, 0#1, 1#6, 2#6, 1#12, (tGroup 0x000A0004#32), tSplit, ready_of (by decide)⟩,
  ⟨tState (tGroup 0x000A0004#32) 0, 0#1, 1#6, 2#6, 1#2, 1#6, (tGroup 0x000A0004#32), tSplit, ready_of (by decide)⟩,
  ⟨tState (tGroup 0x000A0004#32) 0, 0#1, 1#6, 1#2, 1#16, (tGroup 0x000A0004#32), tSplit, ready_of (by decide)⟩⟩

/-- States and operands that meet the hypotheses of CompareSelectMoveComplete, clauses 1, 2, 3, 6, 7, 8, 9, 10 (clauses of one shape share one). -/
theorem witness_CompareSelectMoveComplete_A :
  (∃ (st : State) (m : BitVec 1) (d : BitVec 6) (a : BitVec 6) (b : BitVec 6) (c : BitVec 6) (grp : Group) (spl : Split), ReadyC st m { legal := lt8 d && srcOk a && srcOk b && decide (c.toNat < 8), srcs := [a, b], mode := fun g => if c.toNat < 6 then g.et.isWordInt || g.et.isFp else g.et.isFp } grp spl) ∧
  (∃ (st : State) (m : BitVec 1) (d : BitVec 6) (a : BitVec 6) (b : BitVec 6) (c : BitVec 6) (grp : Group) (spl : Split), ReadyC st m { legal := dstOk d && srcOk a && srcOk b && lt8 c, srcs := [a, b], dst := some d, pregs := [c.toNat] } grp spl) ∧
  (∃ (st : State) (m : BitVec 1) (d : BitVec 6) (a : BitVec 6) (b : BitVec 6) (grp : Group) (spl : Split), ReadyC st m { guarded := false, legal := lt8 d && lt8 a && lt8 b, pregs := [a.toNat, b.toNat] } grp spl) ∧
  (∃ (st : State) (m : BitVec 1) (d : BitVec 6) (a : BitVec 6) (grp : Group) (spl : Split), ReadyC st m { guarded := false, legal := lt8 d && lt8 a, pregs := [a.toNat] } grp spl) ∧
  (∃ (st : State) (m : BitVec 1) (d : BitVec 6) (a : BitVec 6) (b : BitVec 6) (grp : Group) (spl : Split), ReadyC st m { guarded := false, legal := lt8 d && lt8 a && lt8 b, pregs := [a.toNat] } grp spl) ∧
  (∃ (st : State) (m : BitVec 1) (d : BitVec 6) (a : BitVec 6) (grp : Group) (spl : Split), ReadyC st m { guarded := false, legal := lt8 d && srcOk a, srcs := [a] } grp spl) ∧
  (∃ (st : State) (m : BitVec 1) (d : BitVec 6) (a : BitVec 6) (grp : Group) (spl : Split), ReadyC st m { guarded := false, legal := dstOk d && lt8 a, dst := some d, pregs := [a.toNat] } grp spl) ∧
  (∃ (st : State) (m : BitVec 1) (d : BitVec 6) (a : BitVec 6) (grp : Group) (spl : Split), ReadyC st m (unSpec d a fun _ => true) grp spl) :=
  ⟨⟨tState (tGroup 0x000A0004#32) 0, 0#1, 1#6, 2#6, 3#6, 4#6, (tGroup 0x000A0004#32), tSplit, ready_of (by decide)⟩,
  ⟨tState (tGroup 0x000A0004#32) 0, 0#1, 1#6, 2#6, 3#6, 4#6, (tGroup 0x000A0004#32), tSplit, ready_of (by decide)⟩,
  ⟨tState (tGroup 0x000A0004#32) 0, 0#1, 1#6, 2#6, 3#6, (tGroup 0x000A0004#32), tSplit, ready_of (by decide)⟩,
  ⟨tState (tGroup 0x000A0004#32) 0, 0#1, 1#6, 2#6, (tGroup 0x000A0004#32), tSplit, ready_of (by decide)⟩,
  ⟨tState (tGroup 0x000A0004#32) 0, 0#1, 1#6, 2#6, 3#6, (tGroup 0x000A0004#32), tSplit, ready_of (by decide)⟩,
  ⟨tState (tGroup 0x000A0004#32) 0, 0#1, 1#6, 2#6, (tGroup 0x000A0004#32), tSplit, ready_of (by decide)⟩,
  ⟨tState (tGroup 0x000A0004#32) 0, 0#1, 1#6, 2#6, (tGroup 0x000A0004#32), tSplit, ready_of (by decide)⟩,
  ⟨tState (tGroup 0x000A0004#32) 0, 0#1, 1#6, 2#6, (tGroup 0x000A0004#32), tSplit, ready_of (by decide)⟩⟩

/-- States and operands that meet the hypotheses of CompareSelectMoveComplete, clauses 11, 12, 13 (clauses of one shape share one). -/
theorem witness_CompareSelectMoveComplete_B :
  (∃ (st : State) (m : BitVec 1) (d : BitVec 6) (a : BitVec 6) (b : BitVec 6) (grp : Group) (spl : Split), ReadyC st m { unSpec d a (fun _ => true) with fits := fun g => decide (b.toNat < 64 / g.et.width) } grp spl) ∧
  (∃ (st : State) (m : BitVec 1) (d : BitVec 6) (a : BitVec 6) (b : BitVec 6) (grp : Group) (spl : Split), ReadyC st m { guarded := false, legal := isS d && srcOk a && decide (b.toNat < 32), srcs := [a], lanes := fun g _ _ => g.present &&& 1#32 <<< b.toNat } grp spl) ∧
  (∃ (st : State) (m : BitVec 1) (d : BitVec 6) (a : BitVec 6) (b : BitVec 6) (grp : Group) (spl : Split), ReadyC st m { guarded := false, legal := isV d && isSZ a && decide (b.toNat < 32), srcs := [a] } grp spl) :=
  ⟨⟨tState (tGroup 0x000A0004#32) 0, 0#1, 1#6, 2#6, 1#6, (tGroup 0x000A0004#32), tSplit, ready_of (by decide)⟩,
  ⟨tState (tGroup 0x000A0004#32) 0, 0#1, 48#6, 2#6, 3#6, (tGroup 0x000A0004#32), tSplit, ready_of (by decide)⟩,
  ⟨tState (tGroup 0x000A0004#32) 0, 0#1, 1#6, 48#6, 3#6, (tGroup 0x000A0004#32), tSplit, ready_of (by decide)⟩⟩

/-- States and operands that meet the hypotheses of FloatingPointCompletes, clauses 1, 7, 11 (clauses of one shape share one). -/
theorem witness_FloatingPointCompletes :
  (∃ (st : State) (m : BitVec 1) (d : BitVec 6) (a : BitVec 6) (b : BitVec 6) (grp : Group) (spl : Split), ReadyC st m (binSpec d a b fpEt) grp spl) ∧
  (∃ (st : State) (m : BitVec 1) (d : BitVec 6) (a : BitVec 6) (grp : Group) (spl : Split), ReadyC st m (unSpec d a fpEt) grp spl) ∧
  (∃ (st : State) (m : BitVec 1) (d : BitVec 6) (a : BitVec 6) (b : BitVec 6) (c : BitVec 6) (grp : Group) (spl : Split), ReadyC st m { legal := dstOk d && srcOk a && srcOk b && srcOk c, srcs := [a, b, c], dst := some d, mode := fpEt } grp spl) :=
  ⟨⟨tState (tGroup 0x000A000A#32) 0, 0#1, 1#6, 2#6, 3#6, (tGroup 0x000A000A#32), tSplit, ready_of (by decide)⟩,
  ⟨tState (tGroup 0x000A000A#32) 0, 0#1, 1#6, 2#6, (tGroup 0x000A000A#32), tSplit, ready_of (by decide)⟩,
  ⟨tState (tGroup 0x000A000A#32) 0, 0#1, 1#6, 2#6, 3#6, 4#6, (tGroup 0x000A000A#32), tSplit, ready_of (by decide)⟩⟩

/-- States and operands that meet the hypotheses of SfuResultsAreHeld, clauses 1, 9 (clauses of one shape share one). -/
theorem witness_SfuResultsAreHeld :
  (∃ (st : State) (m : BitVec 1) (d : BitVec 6) (a : BitVec 6) (grp : Group) (spl : Split), ReadyC st m (sfuSpec d a) grp spl) ∧
  (∃ (st : State) (m : BitVec 1) (d : BitVec 6) (a : BitVec 6) (b : BitVec 6) (grp : Group) (spl : Split), ReadyC st m { sfuSpec d a with legal := sfuDst d && srcOk a && srcOk b, srcs := [a, b] } grp spl) :=
  ⟨⟨tState (tGroup 0x000A000A#32) 0, 0#1, 1#6, 2#6, (tGroup 0x000A000A#32), tSplit, ready_of (by decide)⟩,
  ⟨tState (tGroup 0x000A000A#32) 0, 0#1, 1#6, 2#6, 3#6, (tGroup 0x000A000A#32), tSplit, ready_of (by decide)⟩⟩

/-- States and operands that meet the hypotheses of ConversionsComplete, clauses 1, 2, 3, 4, 5, 6 (clauses of one shape share one). -/
theorem witness_ConversionsComplete :
  (∃ (st : State) (m : BitVec 1) (d : BitVec 6) (a : BitVec 6) (grp : Group) (spl : Split), ReadyC st m (unSpec d a fun g => decide (g.et.width = g.et2.width)) grp spl) ∧
  (∃ (st : State) (m : BitVec 1) (d : BitVec 6) (a : BitVec 6) (b : BitVec 6) (grp : Group) (spl : Split), ReadyC st m { unSpec d a (fun g => decide (g.et.width = g.et2.width) && (g.et.isFloat || g.et2.isFloat)) with
        legal := dstOk d && srcOk a && isSZ b, srcs := [a, b] } grp spl) ∧
  (∃ (st : State) (m : BitVec 1) (d : BitVec 6) (a : BitVec 6) (b : BitVec 6) (grp : Group) (spl : Split), ReadyC st m { legal := isV d && srcOk a, srcs := [a, d], dst := some d, mode := fun g => decide (g.et2.width < g.et.width), fits := fun g => decide (b.toNat < g.et2.k / g.et.k), gwidth := fun g => g.et2.width } grp spl) ∧
  (∃ (st : State) (m : BitVec 1) (d : BitVec 6) (a : BitVec 6) (b : BitVec 6) (grp : Group) (spl : Split), ReadyC st m { unSpec d a (fun g => decide (g.et.width < g.et2.width)) with
        fits := fun g => decide (b.toNat < g.et.k / g.et2.k), gwidth := fun g => g.et2.width } grp spl) ∧
  (∃ (st : State) (m : BitVec 1) (d : BitVec 6) (a : BitVec 6) (b : BitVec 6) (q : BitVec 2) (k : BitVec 3) (grp : Group) (spl : Split), ReadyC st m { legal := qntOk d a b k, srcs := [a], more := fun g => b :: blockRegs a (blockLen k / g.et.k), fits := fun g => qntShape d a b (blockLen k) g.et.k g.et2.k, mode := fun g => g.et.isFp && (match g.et2 with
        | .i8 | .f8n | .f8w | .i4 | .t2 => true
        | _ => false) } grp spl) ∧
  (∃ (st : State) (m : BitVec 1) (d : BitVec 6) (a : BitVec 6) (b : BitVec 6) (q : BitVec 2) (k : BitVec 3) (grp : Group) (spl : Split), ReadyC st m { legal := qntOk d a b k, srcs := [a, b], more := fun g => blockRegs a (blockLen k / g.et.k), fits := fun g => qntShape d a b (blockLen k) g.et.k g.et2.k, gwidth := fun g => g.et2.width, mode := fun g => g.et2.isFp && (match g.et with
        | .i8 | .f8n | .f8w | .i4 | .t2 => true
        | _ => false) } grp spl) :=
  ⟨⟨tState (tGroup 0x000A000A#32) 0, 0#1, 1#6, 2#6, (tGroup 0x000A000A#32), tSplit, ready_of (by decide)⟩,
  ⟨tState (tGroup 0x000A000A#32) 0, 0#1, 1#6, 2#6, 48#6, (tGroup 0x000A000A#32), tSplit, ready_of (by decide)⟩,
  ⟨tState (tGroup 0x0000000A#32) 0, 0#1, 1#6, 2#6, 3#6, (tGroup 0x0000000A#32), tSplit, ready_of (by decide)⟩,
  ⟨tState (tGroup 0x000A0000#32) 0, 0#1, 1#6, 2#6, 3#6, (tGroup 0x000A0000#32), tSplit, ready_of (by decide)⟩,
  ⟨tState (tGroup 0x0000000A#32) 0, 0#1, 1#6, 2#6, 30#6, 1#2, 1#3, (tGroup 0x0000000A#32), tSplit, ready_of (by decide)⟩,
  ⟨tState (tGroup 0x000A0000#32) 0, 0#1, 8#6, 2#6, 30#6, 1#2, 1#3, (tGroup 0x000A0000#32), tSplit, ready_of (by decide)⟩⟩

/-- States and operands that meet the hypotheses of UniformCompletes, clause 1 (clauses of one shape share one). -/
theorem witness_UniformCompletes : ∃ (st : State) (m : BitVec 1) (d : BitVec 6) (a : BitVec 6) (b : BitVec 6) (grp : Group) (spl : Split), ReadyC st m (sopSpec d a b) grp spl :=
  ⟨tState (tGroup 0x000A0004#32) 0, 0#1, 49#6, 50#6, 38#6, (tGroup 0x000A0004#32), tSplit, ready_of (by decide)⟩

/-- States and operands that meet the hypotheses of UniformLiteralsComplete, clauses 1, 2 (clauses of one shape share one). -/
theorem witness_UniformLiteralsComplete :
  (∃ (st : State) (m : BitVec 1) (d : BitVec 6) (a : BitVec 6) (i : BitVec 12) (grp : Group) (spl : Split), ReadyC st m (sopSpec d a a) grp spl) ∧
  (∃ (st : State) (m : BitVec 1) (d : BitVec 6) (l : BitVec 16) (grp : Group) (spl : Split), ReadyC st m { sopSpec d d d with srcs := [] } grp spl) :=
  ⟨⟨tState (tGroup 0x000A0004#32) 0, 0#1, 49#6, 50#6, 1#12, (tGroup 0x000A0004#32), tSplit, ready_of (by decide)⟩,
  ⟨tState (tGroup 0x000A0004#32) 0, 0#1, 49#6, 1#16, (tGroup 0x000A0004#32), tSplit, ready_of (by decide)⟩⟩

/-- States and operands that meet the hypotheses of ExchangesComplete, clauses 1, 2, 3, 4, 5, 6, 7, 8 (clauses of one shape share one). -/
theorem witness_ExchangesComplete :
  (∃ (st : State) (m : BitVec 1) (d : BitVec 6) (a : BitVec 6) (b : BitVec 6) (grp : Group) (spl : Split), ReadyC st m (xchSpec (isSZ b) d a [a, b] (fun _ => true) (distAt 0 b)) grp spl) ∧
  (∃ (st : State) (m : BitVec 1) (d : BitVec 6) (a : BitVec 6) (b : BitVec 6) (grp : Group) (spl : Split), ReadyC st m (xchSpec (isSZ b) d a [a, b] (fun _ => true) (distAt 1 b)) grp spl) ∧
  (∃ (st : State) (m : BitVec 1) (d : BitVec 6) (a : BitVec 6) (b : BitVec 6) (grp : Group) (spl : Split), ReadyC st m (xchSpec (isSZ b) d a [a, b] (fun _ => true) (distAt 2 b)) grp spl) ∧
  (∃ (st : State) (m : BitVec 1) (d : BitVec 6) (a : BitVec 6) (b : BitVec 6) (grp : Group) (spl : Split), ReadyC st m (xchSpec (true) d a [a] (fun _ => true) (atDist 0 b.toNat)) grp spl) ∧
  (∃ (st : State) (m : BitVec 1) (d : BitVec 6) (a : BitVec 6) (b : BitVec 6) (grp : Group) (spl : Split), ReadyC st m (xchSpec (true) d a [a] (fun _ => true) (atDist 1 b.toNat)) grp spl) ∧
  (∃ (st : State) (m : BitVec 1) (d : BitVec 6) (a : BitVec 6) (b : BitVec 6) (grp : Group) (spl : Split), ReadyC st m (xchSpec (true) d a [a] (fun _ => true) (atDist 2 b.toNat)) grp spl) ∧
  (∃ (st : State) (m : BitVec 1) (d : BitVec 6) (a : BitVec 6) (b : BitVec 6) (grp : Group) (spl : Split), ReadyC st m (xchSpec (srcOk b) d a [a, b] (fun g => decide (16 ≤ g.et.width)) (ownIndex b)) grp spl) ∧
  (∃ (st : State) (m : BitVec 1) (d : BitVec 6) (a : BitVec 6) (b : BitVec 6) (grp : Group) (spl : Split), ReadyC st m (xchSpec (isSZ b) d a [a, b] (fun _ => true) (oneIndex b)) grp spl) :=
  ⟨⟨tState (tGroup 0x000A0004#32) 0, 0#1, 1#6, 2#6, 48#6, (tGroup 0x000A0004#32), tSplit, ready_of (by decide)⟩,
  ⟨tState (tGroup 0x000A0004#32) 0, 0#1, 1#6, 2#6, 48#6, (tGroup 0x000A0004#32), tSplit, ready_of (by decide)⟩,
  ⟨tState (tGroup 0x000A0004#32) 0, 0#1, 1#6, 2#6, 48#6, (tGroup 0x000A0004#32), tSplit, ready_of (by decide)⟩,
  ⟨tState (tGroup 0x000A0004#32) 0, 0#1, 1#6, 2#6, 48#6, (tGroup 0x000A0004#32), tSplit, ready_of (by decide)⟩,
  ⟨tState (tGroup 0x000A0004#32) 0, 0#1, 1#6, 2#6, 48#6, (tGroup 0x000A0004#32), tSplit, ready_of (by decide)⟩,
  ⟨tState (tGroup 0x000A0004#32) 0, 0#1, 1#6, 2#6, 48#6, (tGroup 0x000A0004#32), tSplit, ready_of (by decide)⟩,
  ⟨tState (tGroup 0x000A0004#32) 0, 0#1, 1#6, 2#6, 3#6, (tGroup 0x000A0004#32), tSplit, ready_of (by decide)⟩,
  ⟨tState (tGroup 0x000A0004#32) 0, 0#1, 1#6, 2#6, 48#6, (tGroup 0x000A0004#32), tSplit, ready_of (by decide)⟩⟩

/-- States and operands that meet the hypotheses of VotesComplete, clauses 1, 5, 6 (clauses of one shape share one). -/
theorem witness_VotesComplete :
  (∃ (st : State) (m : BitVec 1) (d : BitVec 6) (a : BitVec 6) (b : BitVec 6) (grp : Group) (spl : Split), ReadyC st m (voteSpec d a b) grp spl) ∧
  (∃ (st : State) (m : BitVec 1) (d : BitVec 6) (grp : Group) (spl : Split), ReadyC st m { guarded := false, legal := dstOk d, dst := some d } grp spl) ∧
  (∃ (st : State) (m : BitVec 1) (d : BitVec 6) (a : BitVec 6) (grp : Group) (spl : Split), ReadyC st m { guarded := false, legal := dstOk d && srcOk a, srcs := [a], dst := some d } grp spl) :=
  ⟨⟨tState (tGroup 0x000A0004#32) 0, 0#1, 1#6, 2#6, 3#6, (tGroup 0x000A0004#32), tSplit, ready_of (by decide)⟩,
  ⟨tState (tGroup 0x000A0004#32) 0, 0#1, 1#6, (tGroup 0x000A0004#32), tSplit, ready_of (by decide)⟩,
  ⟨tState (tGroup 0x000A0004#32) 0, 0#1, 1#6, 2#6, (tGroup 0x000A0004#32), tSplit, ready_of (by decide)⟩⟩

/-- States and operands that meet the hypotheses of ReductionsComplete, clauses 1, 2, 3 (clauses of one shape share one). -/
theorem witness_ReductionsComplete :
  (∃ (st : State) (m : BitVec 1) (d : BitVec 6) (a : BitVec 6) (b : BitVec 6) (f : BitVec 6) (grp : Group) (spl : Split), ReadyC st m (redSpec d a b (decide (f.toNat ≤ 8)) (fun g => if f.toNat < 6 then intEt g else g.et.isFp) redAsync) grp spl) ∧
  (∃ (st : State) (m : BitVec 1) (d : BitVec 6) (a : BitVec 6) (b : BitVec 6) (f : BitVec 6) (grp : Group) (spl : Split), ReadyC st m (redSpec d a b (decide (f.toNat ≤ 5)) (fun g => intEt g || g.et.isFp) redAsync) grp spl) ∧
  (∃ (st : State) (m : BitVec 1) (d : BitVec 6) (a : BitVec 6) (b : BitVec 6) (grp : Group) (spl : Split), ReadyC st m (redSpec d a b true (fun _ => true) fun g s => cptAsync g s a) grp spl) :=
  ⟨⟨tState (tGroup 0x000A0004#32) 0, 0#1, 1#6, 2#6, 38#6, 0#6, (tGroup 0x000A0004#32), tSplit, ready_of (by decide)⟩,
  ⟨tState (tGroup 0x000A0004#32) 0, 0#1, 1#6, 2#6, 38#6, 0#6, (tGroup 0x000A0004#32), tSplit, ready_of (by decide)⟩,
  ⟨tState (tGroup 0x000A0004#32) 0, 0#1, 1#6, 2#6, 38#6, (tGroup 0x000A0004#32), tSplit, ready_of (by decide)⟩⟩

/-- States and operands that meet the hypotheses of BranchesComplete, clauses 1, 2, 3, 4, 5, 6, 7, 8 (clauses of one shape share one). -/
theorem witness_BranchesComplete_A :
  (∃ (st : State) (m : BitVec 1) (grp : Group) (spl : Split), ReadyC st m (ctlSpec true) grp spl) ∧
  (∃ (st : State) (m : BitVec 1) (o : BitVec 24) (grp : Group) (spl : Split), ReadyC st m (pcSpec true) grp spl ∧ (fun _ _ s => (s.pc + 4 * o.signExtend 64).toNat < 2 ^ 52) (st.atIssue m grp spl (pcSpec true)) (st.groupAtIssue m grp spl (pcSpec true)) spl) ∧
  (∃ (st : State) (m : BitVec 1) (r : BitVec 4) (c : BitVec 3) (o : BitVec 17) (grp : Group) (spl : Split), ReadyC st m { pcSpec (decide (c.toNat < 6)) with srcs := [BitVec.ofNat 6 (48 + r.toNat)] } grp spl ∧ (fun _ g s => brcCond c.toNat (g.getS r.toNat).toInt = true → (s.pc + 4 * o.signExtend 64).toNat < 2 ^ 52) (st.atIssue m grp spl { pcSpec (decide (c.toNat < 6)) with srcs := [BitVec.ofNat 6 (48 + r.toNat)] }) (st.groupAtIssue m grp spl { pcSpec (decide (c.toNat < 6)) with srcs := [BitVec.ofNat 6 (48 + r.toNat)] }) spl) ∧
  (∃ (st : State) (m : BitVec 1) (p : BitVec 3) (n : BitVec 1) (o : BitVec 20) (grp : Group) (spl : Split), ReadyC st m { pcSpec true with pregs := [p.toNat] } grp spl ∧ (fun x g s => x.issuer.slot ≠ 5 ∧ (maskOf s.mask fun t => (g.getP p.toNat).getLsbD (8 * t) != (n == 1#1)) = s.mask ∧ s.mask ≠ 0 ∧ (s.pc + 4 * o.signExtend 64).toNat < 2 ^ 52) (st.atIssue m grp spl { pcSpec true with pregs := [p.toNat] }) (st.groupAtIssue m grp spl { pcSpec true with pregs := [p.toNat] }) spl) ∧
  (∃ (st : State) (m : BitVec 1) (p : BitVec 3) (n : BitVec 1) (o : BitVec 20) (grp : Group) (spl : Split), ReadyC st m { pcSpec true with pregs := [p.toNat] } grp spl ∧ (fun x g s => x.issuer.slot ≠ 5 ∧ (maskOf s.mask fun t => (g.getP p.toNat).getLsbD (8 * t) != (n == 1#1)) = 0) (st.atIssue m grp spl { pcSpec true with pregs := [p.toNat] }) (st.groupAtIssue m grp spl { pcSpec true with pregs := [p.toNat] }) spl) ∧
  (∃ (st : State) (m : BitVec 1) (p : BitVec 3) (n : BitVec 1) (o : BitVec 20) (grp : Group) (spl : Split), ∃ g', ReadyC st m { pcSpec true with pregs := [p.toNat] } grp spl ∧ (fun x g s => x.issuer.slot ≠ 5 ∧ (maskOf s.mask fun t => (g.getP p.toNat).getLsbD (8 * t) != (n == 1#1)) ≠ s.mask ∧ (maskOf s.mask fun t => (g.getP p.toNat).getLsbD (8 * t) != (n == 1#1)) ≠ 0 ∧ (s.pc + 4 * o.signExtend 64).toNat < 2 ^ 52 ∧
        g.divide x.issuer.slot [((s.pc + 4 * o.signExtend 64), (maskOf s.mask fun t => (g.getP p.toNat).getLsbD (8 * t) != (n == 1#1))), (s.pc + 4, s.mask &&& ~~~(maskOf s.mask fun t => (g.getP p.toNat).getLsbD (8 * t) != (n == 1#1)))] = some g') (st.atIssue m grp spl { pcSpec true with pregs := [p.toNat] }) (st.groupAtIssue m grp spl { pcSpec true with pregs := [p.toNat] }) spl) ∧
  (∃ (st : State) (m : BitVec 1) (a : BitVec 6) (grp : Group) (spl : Split), ReadyC st m { pcSpec (isV a || isS a) with srcs := [a] } grp spl ∧ (fun _ g _ => isS a = true ∧ (g.srcS a).toNat % 4 = 0 ∧ (g.srcS a).toNat < 2 ^ 52) (st.atIssue m grp spl { pcSpec (isV a || isS a) with srcs := [a] }) (st.groupAtIssue m grp spl { pcSpec (isV a || isS a) with srcs := [a] }) spl) ∧
  (∃ (st : State) (m : BitVec 1) (a : BitVec 6) (grp : Group) (spl : Split), ∃ g', ReadyC st m { pcSpec (isV a || isS a) with srcs := [a] } grp spl ∧ (fun x g s => isS a = false ∧ x.issuer.slot ≠ 5 ∧ (∀ v ∈ distinct (g.getV a.toNat) s.mask, v % 4 = 0 ∧ v < 2 ^ 52) ∧
        g.divide x.issuer.slot ((distinct (g.getV a.toNat) s.mask).map fun v => (BitVec.ofNat 64 v, maskOf s.mask fun t => decide ((laneAt (g.getV a.toNat) t).toNat = v))) = some g') (st.atIssue m grp spl { pcSpec (isV a || isS a) with srcs := [a] }) (st.groupAtIssue m grp spl { pcSpec (isV a || isS a) with srcs := [a] }) spl) :=
  ⟨⟨tState (tGroup 0x000A0004#32) 0, 0#1, (tGroup 0x000A0004#32), tSplit, ready_of (by decide)⟩,
  ⟨tState (tGroup 0x000A0004#32) 0, 0#1, 1#24, (tGroup 0x000A0004#32), tSplit, ready_of (by decide), by decide⟩,
  ⟨tState (tGroup 0x000A0004#32) 0, 0#1, 1#4, 1#3, 1#17, (tGroup 0x000A0004#32), tSplit, ready_of (by decide), by decide⟩,
  ⟨tState (tGroup 0x000A0004#32) 0, 0#1, 1#3, 1#1, 1#20, (tGroup 0x000A0004#32), tSplit, ready_of (by decide), by decide⟩,
  ⟨tState (tGroup 0x000A0004#32) 0, 0#1, 1#3, 0#1, 1#20, (tGroup 0x000A0004#32), tSplit, ready_of (by decide), by decide⟩,
  ⟨tState ({ tGroup 0x000A0004#32 with p := [(1, 1#256)] }) 0, 0#1, 1#3, 0#1, 1#20, { tGroup 0x000A0004#32 with p := [(1, 1#256)] }, tSplit, _, ready_of (by decide), by decide, by decide, by decide, by decide, some_of (by decide)⟩,
  ⟨tState ({ tGroup 0x000A0004#32 with s := [(5, 0x20010#64)] }) 0, 0#1, 53#6, { tGroup 0x000A0004#32 with s := [(5, 0x20010#64)] }, tSplit, ready_of (by decide), by decide⟩,
  ⟨tState (tGroup 0x000A0004#32) 0, 0#1, 1#6, (tGroup 0x000A0004#32), tSplit, _, ready_of (by decide), by decide, by decide, by decide, some_of (by decide)⟩⟩

/-- States and operands that meet the hypotheses of BranchesComplete, clause 10 (clauses of one shape share one). -/
theorem witness_BranchesComplete_B : ∃ (st : State) (m : BitVec 1) (grp : Group) (spl : Split), ∃ v, ReadyC st m { pcSpec true with srcs := [31#6] } grp spl ∧ (fun _ g s => distinct (g.getV 31) s.mask = [v] ∧ v % 4 = 0 ∧ v < 2 ^ 52) (st.atIssue m grp spl { pcSpec true with srcs := [31#6] }) (st.groupAtIssue m grp spl { pcSpec true with srcs := [31#6] }) spl :=
  ⟨tState (tGroup 0x000A0004#32) 0, 0#1, (tGroup 0x000A0004#32), tSplit, 0, ready_of (by decide), by decide⟩

/-- States and operands that meet the hypotheses of BranchTraps, clauses 1, 2, 3, 5, 6, 7, 8, 9 (clauses of one shape share one). -/
theorem witness_BranchTraps_A :
  (∃ (st : State) (m : BitVec 1) (p : BitVec 3) (n : BitVec 1) (o : BitVec 20) (grp : Group) (spl : Split), ReadyC st m { pcSpec true with pregs := [p.toNat] } grp spl ∧ (fun x _ _ => x.issuer.slot = 5) (st.atIssue m grp spl { pcSpec true with pregs := [p.toNat] }) (st.groupAtIssue m grp spl { pcSpec true with pregs := [p.toNat] }) spl) ∧
  (∃ (st : State) (m : BitVec 1) (p : BitVec 3) (n : BitVec 1) (o : BitVec 20) (grp : Group) (spl : Split), ReadyC st m { pcSpec true with pregs := [p.toNat] } grp spl ∧ (fun x g s => x.issuer.slot ≠ 5 ∧ (maskOf s.mask fun t => (g.getP p.toNat).getLsbD (8 * t) != (n == 1#1)) ≠ s.mask ∧ (maskOf s.mask fun t => (g.getP p.toNat).getLsbD (8 * t) != (n == 1#1)) ≠ 0 ∧ (s.pc + 4 * o.signExtend 64).toNat < 2 ^ 52 ∧
        g.divide x.issuer.slot [((s.pc + 4 * o.signExtend 64), (maskOf s.mask fun t => (g.getP p.toNat).getLsbD (8 * t) != (n == 1#1))), (s.pc + 4, s.mask &&& ~~~(maskOf s.mask fun t => (g.getP p.toNat).getLsbD (8 * t) != (n == 1#1)))] = none) (st.atIssue m grp spl { pcSpec true with pregs := [p.toNat] }) (st.groupAtIssue m grp spl { pcSpec true with pregs := [p.toNat] }) spl) ∧
  (∃ (st : State) (m : BitVec 1) (q : BitVec 24) (grp : Group) (spl : Split), ∃ v, ReadyC st m (pcSpec true) grp spl ∧ (fun _ _ s => (s.pc + 4 * q.signExtend 64) = v ∧ 2 ^ 52 ≤ v.toNat) (st.atIssue m grp spl (pcSpec true)) (st.groupAtIssue m grp spl (pcSpec true)) spl) ∧
  (∃ (st : State) (m : BitVec 1) (r : BitVec 4) (c : BitVec 3) (q : BitVec 17) (grp : Group) (spl : Split), ∃ v, ReadyC st m { pcSpec (decide (c.toNat < 6)) with srcs := [BitVec.ofNat 6 (48 + r.toNat)] } grp spl ∧ (fun _ g s => brcCond c.toNat (g.getS r.toNat).toInt = true ∧ (s.pc + 4 * q.signExtend 64) = v ∧ 2 ^ 52 ≤ v.toNat) (st.atIssue m grp spl { pcSpec (decide (c.toNat < 6)) with srcs := [BitVec.ofNat 6 (48 + r.toNat)] }) (st.groupAtIssue m grp spl { pcSpec (decide (c.toNat < 6)) with srcs := [BitVec.ofNat 6 (48 + r.toNat)] }) spl) ∧
  (∃ (st : State) (m : BitVec 1) (p : BitVec 3) (n : BitVec 1) (o : BitVec 20) (grp : Group) (spl : Split), ∃ v, ReadyC st m { pcSpec true with pregs := [p.toNat] } grp spl ∧ (fun x g s => x.issuer.slot ≠ 5 ∧ (maskOf s.mask fun t => (g.getP p.toNat).getLsbD (8 * t) != (n == 1#1)) ≠ 0 ∧ (s.pc + 4 * o.signExtend 64) = v ∧ 2 ^ 52 ≤ v.toNat) (st.atIssue m grp spl { pcSpec true with pregs := [p.toNat] }) (st.groupAtIssue m grp spl { pcSpec true with pregs := [p.toNat] }) spl) ∧
  (∃ (st : State) (m : BitVec 1) (a : BitVec 6) (grp : Group) (spl : Split), ReadyC st m { pcSpec (isV a || isS a) with srcs := [a] } grp spl ∧ (fun x _ _ => isS a = false ∧ x.issuer.slot = 5) (st.atIssue m grp spl { pcSpec (isV a || isS a) with srcs := [a] }) (st.groupAtIssue m grp spl { pcSpec (isV a || isS a) with srcs := [a] }) spl) ∧
  (∃ (st : State) (m : BitVec 1) (a : BitVec 6) (grp : Group) (spl : Split), ReadyC st m { pcSpec (isV a || isS a) with srcs := [a] } grp spl ∧ (fun _ g _ => isS a = true ∧ (g.srcS a).toNat % 4 ≠ 0) (st.atIssue m grp spl { pcSpec (isV a || isS a) with srcs := [a] }) (st.groupAtIssue m grp spl { pcSpec (isV a || isS a) with srcs := [a] }) spl) ∧
  (∃ (st : State) (m : BitVec 1) (a : BitVec 6) (grp : Group) (spl : Split), ∃ v, ReadyC st m { pcSpec (isV a || isS a) with srcs := [a] } grp spl ∧ (fun _ g _ => isS a = true ∧ g.srcS a = v ∧ v.toNat % 4 = 0 ∧ 2 ^ 52 ≤ v.toNat) (st.atIssue m grp spl { pcSpec (isV a || isS a) with srcs := [a] }) (st.groupAtIssue m grp spl { pcSpec (isV a || isS a) with srcs := [a] }) spl) :=
  ⟨⟨tState ({ tGroup 0x000A0004#32 with handler := some tSplit, tlevel := true }) 5, 0#1, 1#3, 1#1, 1#20, { tGroup 0x000A0004#32 with handler := some tSplit, tlevel := true }, tSplit, ready_of (by decide), by decide⟩,
  ⟨tState ({ tGroup 0x000A0004#32 with p := [(1, 1#256)], splits := [(0, tSplit), (1, { tSplit with mask := 0 }), (2, { tSplit with mask := 0 }), (3, { tSplit with mask := 0 })], pending := [(0, 0), (0, 0), (0, 0), (0, 0), (0, 0), (0, 0), (0, 0), (0, 0)] }) 0, 0#1, 1#3, 0#1, 1#20, { tGroup 0x000A0004#32 with p := [(1, 1#256)], splits := [(0, tSplit), (1, { tSplit with mask := 0 }), (2, { tSplit with mask := 0 }), (3, { tSplit with mask := 0 })], pending := [(0, 0), (0, 0), (0, 0), (0, 0), (0, 0), (0, 0), (0, 0), (0, 0)] }, tSplit, ready_of (by decide), by decide⟩,
  ⟨tState ({ tGroup 0x000A0004#32 with splits := [(0, { tSplit with pc := 0xFFFFFFFFFFFFC#64 })] }) 0, 0#1, 1#24, { tGroup 0x000A0004#32 with splits := [(0, { tSplit with pc := 0xFFFFFFFFFFFFC#64 })] }, { tSplit with pc := 0xFFFFFFFFFFFFC#64 }, 0x10000000000000#64, ready_of (by decide), by decide⟩,
  ⟨tState ({ tGroup 0x000A0004#32 with splits := [(0, { tSplit with pc := 0xFFFFFFFFFFFFC#64 })] }) 0, 0#1, 1#4, 0#3, 1#17, { tGroup 0x000A0004#32 with splits := [(0, { tSplit with pc := 0xFFFFFFFFFFFFC#64 })] }, { tSplit with pc := 0xFFFFFFFFFFFFC#64 }, 0x10000000000000#64, ready_of (by decide), by decide⟩,
  ⟨tState ({ tGroup 0x000A0004#32 with splits := [(0, { tSplit with pc := 0xFFFFFFFFFFFFC#64 })] }) 0, 0#1, 1#3, 1#1, 1#20, { tGroup 0x000A0004#32 with splits := [(0, { tSplit with pc := 0xFFFFFFFFFFFFC#64 })] }, { tSplit with pc := 0xFFFFFFFFFFFFC#64 }, 0x10000000000000#64, ready_of (by decide), by decide⟩,
  ⟨tState ({ tGroup 0x000A0004#32 with handler := some tSplit, tlevel := true }) 5, 0#1, 1#6, { tGroup 0x000A0004#32 with handler := some tSplit, tlevel := true }, tSplit, ready_of (by decide), by decide⟩,
  ⟨tState ({ tGroup 0x000A0004#32 with s := [(5, 0x20001#64)] }) 0, 0#1, 53#6, { tGroup 0x000A0004#32 with s := [(5, 0x20001#64)] }, tSplit, ready_of (by decide), by decide⟩,
  ⟨tState ({ tGroup 0x000A0004#32 with s := [(5, 0x10000000000000#64)] }) 0, 0#1, 53#6, { tGroup 0x000A0004#32 with s := [(5, 0x10000000000000#64)] }, tSplit, 0x10000000000000#64, ready_of (by decide), by decide⟩⟩

/-- States and operands that meet the hypotheses of BranchTraps, clauses 10, 11, 12, 13, 14, 15, 16 (clauses of one shape share one). -/
theorem witness_BranchTraps_B :
  (∃ (st : State) (m : BitVec 1) (grp : Group) (spl : Split), ReadyC st m (pcSpec true) grp spl ∧ (fun x _ _ => x.issuer.slot = 5) (st.atIssue m grp spl (pcSpec true)) (st.groupAtIssue m grp spl (pcSpec true)) spl) ∧
  (∃ (st : State) (m : BitVec 1) (grp : Group) (spl : Split), ∃ v w l, ReadyC st m { pcSpec true with srcs := [31#6] } grp spl ∧ (fun _ g s => distinct (g.getV 31) s.mask = v :: w :: l) (st.atIssue m grp spl { pcSpec true with srcs := [31#6] }) (st.groupAtIssue m grp spl { pcSpec true with srcs := [31#6] }) spl) ∧
  (∃ (st : State) (m : BitVec 1) (a : BitVec 6) (l : List Nat) (grp : Group) (spl : Split), ReadyC st m { pcSpec (isV a || isS a) with srcs := [a] } grp spl ∧ (fun x g s => isS a = false ∧ x.issuer.slot ≠ 5 ∧ distinct (g.getV a.toNat) s.mask = l ∧ ∃ v ∈ l, v % 4 ≠ 0) (st.atIssue m grp spl { pcSpec (isV a || isS a) with srcs := [a] }) (st.groupAtIssue m grp spl { pcSpec (isV a || isS a) with srcs := [a] }) spl) ∧
  (∃ (st : State) (m : BitVec 1) (a : BitVec 6) (l : List Nat) (v : Nat) (grp : Group) (spl : Split), ReadyC st m { pcSpec (isV a || isS a) with srcs := [a] } grp spl ∧ (fun x g s => isS a = false ∧ x.issuer.slot ≠ 5 ∧ distinct (g.getV a.toNat) s.mask = l ∧ (∀ v ∈ l, v % 4 = 0) ∧
        l.find? (fun v => decide (2 ^ 52 ≤ v)) = some v) (st.atIssue m grp spl { pcSpec (isV a || isS a) with srcs := [a] }) (st.groupAtIssue m grp spl { pcSpec (isV a || isS a) with srcs := [a] }) spl) ∧
  (∃ (st : State) (m : BitVec 1) (a : BitVec 6) (grp : Group) (spl : Split), ReadyC st m { pcSpec (isV a || isS a) with srcs := [a] } grp spl ∧ (fun x g s => isS a = false ∧ x.issuer.slot ≠ 5 ∧ (∀ v ∈ distinct (g.getV a.toNat) s.mask, v % 4 = 0 ∧ v < 2 ^ 52) ∧
        g.divide x.issuer.slot ((distinct (g.getV a.toNat) s.mask).map fun v => (BitVec.ofNat 64 v, maskOf s.mask fun t => decide ((laneAt (g.getV a.toNat) t).toNat = v))) = none) (st.atIssue m grp spl { pcSpec (isV a || isS a) with srcs := [a] }) (st.groupAtIssue m grp spl { pcSpec (isV a || isS a) with srcs := [a] }) spl) ∧
  (∃ (st : State) (m : BitVec 1) (v : Nat) (grp : Group) (spl : Split), ReadyC st m { pcSpec true with srcs := [31#6] } grp spl ∧ (fun _ g s => distinct (g.getV 31) s.mask = [v] ∧ v < 2 ^ 64 ∧ v % 4 ≠ 0) (st.atIssue m grp spl { pcSpec true with srcs := [31#6] }) (st.groupAtIssue m grp spl { pcSpec true with srcs := [31#6] }) spl) ∧
  (∃ (st : State) (m : BitVec 1) (v : Nat) (grp : Group) (spl : Split), ReadyC st m { pcSpec true with srcs := [31#6] } grp spl ∧ (fun _ g s => distinct (g.getV 31) s.mask = [v] ∧ v < 2 ^ 64 ∧ v % 4 = 0 ∧ 2 ^ 52 ≤ v) (st.atIssue m grp spl { pcSpec true with srcs := [31#6] }) (st.groupAtIssue m grp spl { pcSpec true with srcs := [31#6] }) spl) :=
  ⟨⟨tState ({ tGroup 0x000A0004#32 with handler := some tSplit, tlevel := true }) 5, 0#1, { tGroup 0x000A0004#32 with handler := some tSplit, tlevel := true }, tSplit, ready_of (by decide), by decide⟩,
  ⟨tState ({ tGroup 0x000A0004#32 with v := [(31, 4#2048)] }) 0, 0#1, { tGroup 0x000A0004#32 with v := [(31, 4#2048)] }, tSplit, 0, 4, [], ready_of (by decide), by decide⟩,
  ⟨tState ({ tGroup 0x000A0004#32 with v := [(1, 2#2048)], splits := [(0, { tSplit with mask := 1#32 })] }) 0, 0#1, 1#6, [2], { tGroup 0x000A0004#32 with v := [(1, 2#2048)], splits := [(0, { tSplit with mask := 1#32 })] }, { tSplit with mask := 1#32 }, ready_of (by decide), by decide⟩,
  ⟨tState ({ tGroup 0x000A0004#32 with v := [(1, BitVec.ofNat 2048 (2 ^ 52))], splits := [(0, { tSplit with mask := 1#32 })] }) 0, 0#1, 1#6, [2 ^ 52], 2 ^ 52, { tGroup 0x000A0004#32 with v := [(1, BitVec.ofNat 2048 (2 ^ 52))], splits := [(0, { tSplit with mask := 1#32 })] }, { tSplit with mask := 1#32 }, ready_of (by decide), by decide⟩,
  ⟨tState ({ tGroup 0x000A0004#32 with v := [(1, 4#2048)], splits := [(0, tSplit), (1, { tSplit with mask := 0 }), (2, { tSplit with mask := 0 }), (3, { tSplit with mask := 0 })], pending := [(0, 0), (0, 0), (0, 0), (0, 0), (0, 0), (0, 0), (0, 0), (0, 0)] }) 0, 0#1, 1#6, { tGroup 0x000A0004#32 with v := [(1, 4#2048)], splits := [(0, tSplit), (1, { tSplit with mask := 0 }), (2, { tSplit with mask := 0 }), (3, { tSplit with mask := 0 })], pending := [(0, 0), (0, 0), (0, 0), (0, 0), (0, 0), (0, 0), (0, 0), (0, 0)] }, tSplit, ready_of (by decide), by decide⟩,
  ⟨tState ({ tGroup 0x000A0004#32 with v := [(31, 2#2048)], splits := [(0, { tSplit with mask := 1#32 })] }) 0, 0#1, 2, { tGroup 0x000A0004#32 with v := [(31, 2#2048)], splits := [(0, { tSplit with mask := 1#32 })] }, { tSplit with mask := 1#32 }, ready_of (by decide), by decide⟩,
  ⟨tState ({ tGroup 0x000A0004#32 with v := [(31, BitVec.ofNat 2048 (2 ^ 52))], splits := [(0, { tSplit with mask := 1#32 })] }) 0, 0#1, 2 ^ 52, { tGroup 0x000A0004#32 with v := [(31, BitVec.ofNat 2048 (2 ^ 52))], splits := [(0, { tSplit with mask := 1#32 })] }, { tSplit with mask := 1#32 }, ready_of (by decide), by decide⟩⟩

/-- States and operands that meet the hypotheses of ModeWritesComplete, clauses 1, 2, 3, 4 (clauses of one shape share one). -/
theorem witness_ModeWritesComplete :
  (∃ (st : State) (m : BitVec 1) (i : BitVec 20) (grp : Group) (spl : Split), ReadyC st m (ctlSpec true) grp spl ∧ (fun _ _ => modeOk (i.setWidth 32)) (st.groupAtIssue m grp spl (ctlSpec true)) spl = true) ∧
  (∃ (st : State) (m : BitVec 1) (a : BitVec 6) (grp : Group) (spl : Split), ReadyC st m { ctlSpec (isS a) with srcs := [a] } grp spl ∧ (fun g _ => modeOk ((g.srcS a).setWidth 32)) (st.groupAtIssue m grp spl { ctlSpec (isS a) with srcs := [a] }) spl = true) ∧
  (∃ (st : State) (m : BitVec 1) (i : BitVec 20) (grp : Group) (spl : Split), ReadyC st m (ctlSpec true) grp spl ∧ (fun _ _ _ => modeOk (i.setWidth 32) = false) (st.atIssue m grp spl (ctlSpec true)) (st.groupAtIssue m grp spl (ctlSpec true)) spl) ∧
  (∃ (st : State) (m : BitVec 1) (a : BitVec 6) (grp : Group) (spl : Split), ReadyC st m { ctlSpec (isS a) with srcs := [a] } grp spl ∧ (fun _ g _ => modeOk ((g.srcS a).setWidth 32) = false) (st.atIssue m grp spl { ctlSpec (isS a) with srcs := [a] }) (st.groupAtIssue m grp spl { ctlSpec (isS a) with srcs := [a] }) spl) :=
  ⟨⟨tState (tGroup 0x000A0004#32) 0, 0#1, 1#20, (tGroup 0x000A0004#32), tSplit, ready_of (by decide), by decide⟩,
  ⟨tState ({ tGroup 0x000A0004#32 with s := [(5, 10#64)] }) 0, 0#1, 53#6, { tGroup 0x000A0004#32 with s := [(5, 10#64)] }, tSplit, ready_of (by decide), by decide⟩,
  ⟨tState (tGroup 0x000A0004#32) 0, 0#1, 0x50#20, (tGroup 0x000A0004#32), tSplit, ready_of (by decide), by decide⟩,
  ⟨tState ({ tGroup 0x000A0004#32 with s := [(5, 0x50#64)] }) 0, 0#1, 53#6, { tGroup 0x000A0004#32 with s := [(5, 0x50#64)] }, tSplit, ready_of (by decide), by decide⟩⟩

/-- States and operands that meet the hypotheses of BarriersComplete, clauses 1, 2, 3, 4, 5, 6, 7, 8 (clauses of one shape share one). -/
theorem witness_BarriersComplete_A :
  (∃ (st : State) (m : BitVec 1) (a : BitVec 6) (grp : Group) (spl : Split), ReadyC st m { pcSpec (isS a) with srcs := [a] } grp spl ∧ (fun x g s => s.mask = g.live ∧ (g.srcS a).toNat < 2 ^ (x.wgOf g).groups ∧ ((g.srcS a).setWidth 16).getLsbD g.gi = true ∧ (x.wgOf g).barMask = none) (st.atIssue m grp spl { pcSpec (isS a) with srcs := [a] }) (st.groupAtIssue m grp spl { pcSpec (isS a) with srcs := [a] }) spl) ∧
  (∃ (st : State) (m : BitVec 1) (a : BitVec 6) (grp : Group) (spl : Split), ReadyC st m { pcSpec (isS a) with srcs := [a] } grp spl ∧ (fun x g s => s.mask = g.live ∧ (g.srcS a).toNat < 2 ^ (x.wgOf g).groups ∧ ((g.srcS a).setWidth 16).getLsbD g.gi = true ∧ (x.wgOf g).barMask = some ((g.srcS a).setWidth 16) ∧ (x.wgOf g).barBroken = false) (st.atIssue m grp spl { pcSpec (isS a) with srcs := [a] }) (st.groupAtIssue m grp spl { pcSpec (isS a) with srcs := [a] }) spl) ∧
  (∃ (st : State) (m : BitVec 1) (a : BitVec 6) (grp : Group) (spl : Split), ∃ k, ReadyC st m { pcSpec (isS a) with srcs := [a] } grp spl ∧ (fun x g s => s.mask = g.live ∧ (g.srcS a).toNat < 2 ^ (x.wgOf g).groups ∧ ((g.srcS a).setWidth 16).getLsbD g.gi = true ∧ (x.wgOf g).barMask = some k ∧ (x.wgOf g).barBroken = false ∧ k ≠ (g.srcS a).setWidth 16) (st.atIssue m grp spl { pcSpec (isS a) with srcs := [a] }) (st.groupAtIssue m grp spl { pcSpec (isS a) with srcs := [a] }) spl) ∧
  (∃ (st : State) (m : BitVec 1) (a : BitVec 6) (grp : Group) (spl : Split), ∃ k, ReadyC st m { pcSpec (isS a) with srcs := [a] } grp spl ∧ (fun x g s => s.mask = g.live ∧ (g.srcS a).toNat < 2 ^ (x.wgOf g).groups ∧ ((g.srcS a).setWidth 16).getLsbD g.gi = true ∧ (x.wgOf g).barMask = some k ∧ (x.wgOf g).barBroken = true) (st.atIssue m grp spl { pcSpec (isS a) with srcs := [a] }) (st.groupAtIssue m grp spl { pcSpec (isS a) with srcs := [a] }) spl) ∧
  (∃ (st : State) (m : BitVec 1) (a : BitVec 6) (grp : Group) (spl : Split), ReadyC st m { pcSpec (isS a) with srcs := [a] } grp spl ∧ (fun x g s => ¬ (s.mask = g.live ∧ (g.srcS a).toNat < 2 ^ (x.wgOf g).groups ∧ ((g.srcS a).setWidth 16).getLsbD g.gi = true)) (st.atIssue m grp spl { pcSpec (isS a) with srcs := [a] }) (st.groupAtIssue m grp spl { pcSpec (isS a) with srcs := [a] }) spl) ∧
  (∃ (st : State) (m : BitVec 1) (a : BitVec 6) (grp : Group) (spl : Split), ReadyC st m { pcSpec (isS a) with srcs := [a] } grp spl ∧ (fun _ g s => (g.srcS a).toNat < 2 ^ 32 ∧ s.mask &&& ~~~((g.srcS a).setWidth 32) = 0 ∧ (g.srcS a).setWidth 32 &&& ~~~g.present = 0 ∧ g.syncsMask = none) (st.atIssue m grp spl { pcSpec (isS a) with srcs := [a] }) (st.groupAtIssue m grp spl { pcSpec (isS a) with srcs := [a] }) spl) ∧
  (∃ (st : State) (m : BitVec 1) (a : BitVec 6) (grp : Group) (spl : Split), ReadyC st m { pcSpec (isS a) with srcs := [a] } grp spl ∧ (fun _ g s => (g.srcS a).toNat < 2 ^ 32 ∧ s.mask &&& ~~~((g.srcS a).setWidth 32) = 0 ∧ (g.srcS a).setWidth 32 &&& ~~~g.present = 0 ∧ g.syncsMask = some ((g.srcS a).setWidth 32) ∧ g.syncsBroken = false) (st.atIssue m grp spl { pcSpec (isS a) with srcs := [a] }) (st.groupAtIssue m grp spl { pcSpec (isS a) with srcs := [a] }) spl) ∧
  (∃ (st : State) (m : BitVec 1) (a : BitVec 6) (grp : Group) (spl : Split), ∃ k, ReadyC st m { pcSpec (isS a) with srcs := [a] } grp spl ∧ (fun _ g s => (g.srcS a).toNat < 2 ^ 32 ∧ s.mask &&& ~~~((g.srcS a).setWidth 32) = 0 ∧ (g.srcS a).setWidth 32 &&& ~~~g.present = 0 ∧ g.syncsMask = some k ∧ g.syncsBroken = false ∧ k ≠ (g.srcS a).setWidth 32) (st.atIssue m grp spl { pcSpec (isS a) with srcs := [a] }) (st.groupAtIssue m grp spl { pcSpec (isS a) with srcs := [a] }) spl) :=
  ⟨⟨tState ({ tGroup 0x000A0004#32 with s := [(5, 1#64)] }) 0, 0#1, 53#6, { tGroup 0x000A0004#32 with s := [(5, 1#64)] }, tSplit, ready_of (by decide), by decide⟩,
  ⟨{ tState ({ tGroup 0x000A0004#32 with s := [(5, 1#64)] }) 0 with workgroups := [(wgKey 0 0, { tWg with barMask := some 1#16 })] }, 0#1, 53#6, { tGroup 0x000A0004#32 with s := [(5, 1#64)] }, tSplit, ready_of (by decide), by decide⟩,
  ⟨{ tState ({ tGroup 0x000A0004#32 with s := [(5, 1#64)] }) 0 with workgroups := [(wgKey 0 0, { tWg with barMask := some 2#16 })] }, 0#1, 53#6, { tGroup 0x000A0004#32 with s := [(5, 1#64)] }, tSplit, 2#16, ready_of (by decide), by decide⟩,
  ⟨{ tState ({ tGroup 0x000A0004#32 with s := [(5, 1#64)] }) 0 with workgroups := [(wgKey 0 0, { tWg with barMask := some 2#16, barBroken := true })] }, 0#1, 53#6, { tGroup 0x000A0004#32 with s := [(5, 1#64)] }, tSplit, 2#16, ready_of (by decide), by decide⟩,
  ⟨tState (tGroup 0x000A0004#32) 0, 0#1, 53#6, (tGroup 0x000A0004#32), tSplit, ready_of (by decide), by decide⟩,
  ⟨tState ({ tGroup 0x000A0004#32 with s := [(5, 0xFFFFFFFF#64)] }) 0, 0#1, 53#6, { tGroup 0x000A0004#32 with s := [(5, 0xFFFFFFFF#64)] }, tSplit, ready_of (by decide), by decide⟩,
  ⟨tState ({ tGroup 0x000A0004#32 with s := [(5, 0xFFFFFFFF#64)], syncsMask := some 0xFFFFFFFF#32 }) 0, 0#1, 53#6, { tGroup 0x000A0004#32 with s := [(5, 0xFFFFFFFF#64)], syncsMask := some 0xFFFFFFFF#32 }, tSplit, ready_of (by decide), by decide⟩,
  ⟨tState ({ tGroup 0x000A0004#32 with s := [(5, 0xFFFFFFFF#64)], syncsMask := some 1#32 }) 0, 0#1, 53#6, { tGroup 0x000A0004#32 with s := [(5, 0xFFFFFFFF#64)], syncsMask := some 1#32 }, tSplit, 1#32, ready_of (by decide), by decide⟩⟩

/-- States and operands that meet the hypotheses of BarriersComplete, clauses 9, 10, 11, 12, 13, 14 (clauses of one shape share one). -/
theorem witness_BarriersComplete_B :
  (∃ (st : State) (m : BitVec 1) (a : BitVec 6) (grp : Group) (spl : Split), ∃ k, ReadyC st m { pcSpec (isS a) with srcs := [a] } grp spl ∧ (fun _ g s => (g.srcS a).toNat < 2 ^ 32 ∧ s.mask &&& ~~~((g.srcS a).setWidth 32) = 0 ∧ (g.srcS a).setWidth 32 &&& ~~~g.present = 0 ∧ g.syncsMask = some k ∧ g.syncsBroken = true) (st.atIssue m grp spl { pcSpec (isS a) with srcs := [a] }) (st.groupAtIssue m grp spl { pcSpec (isS a) with srcs := [a] }) spl) ∧
  (∃ (st : State) (m : BitVec 1) (a : BitVec 6) (grp : Group) (spl : Split), ReadyC st m { pcSpec (isS a) with srcs := [a] } grp spl ∧ (fun _ g s => ¬ ((g.srcS a).toNat < 2 ^ 32 ∧ s.mask &&& ~~~((g.srcS a).setWidth 32) = 0 ∧ (g.srcS a).setWidth 32 &&& ~~~g.present = 0)) (st.atIssue m grp spl { pcSpec (isS a) with srcs := [a] }) (st.groupAtIssue m grp spl { pcSpec (isS a) with srcs := [a] }) spl) ∧
  (∃ (st : State) (m : BitVec 1) (grp : Group) (spl : Split), ReadyC st m (pcSpec true) grp spl ∧ (fun x g s => (x.gridOf (x.wgOf g)).desc.flags % 2 = 1 ∧ s.mask = g.live ∧ (x.gridOf (x.wgOf g)).broken = false) (st.atIssue m grp spl (pcSpec true)) (st.groupAtIssue m grp spl (pcSpec true)) spl) ∧
  (∃ (st : State) (m : BitVec 1) (grp : Group) (spl : Split), ReadyC st m (pcSpec true) grp spl ∧ (fun x g s => (x.gridOf (x.wgOf g)).desc.flags % 2 = 1 ∧ s.mask = g.live ∧ (x.gridOf (x.wgOf g)).broken = true) (st.atIssue m grp spl (pcSpec true)) (st.groupAtIssue m grp spl (pcSpec true)) spl) ∧
  (∃ (st : State) (m : BitVec 1) (grp : Group) (spl : Split), ReadyC st m (pcSpec true) grp spl ∧ (fun x g _ => (x.gridOf (x.wgOf g)).desc.flags % 2 = 0) (st.atIssue m grp spl (pcSpec true)) (st.groupAtIssue m grp spl (pcSpec true)) spl) ∧
  (∃ (st : State) (m : BitVec 1) (grp : Group) (spl : Split), ReadyC st m (pcSpec true) grp spl ∧ (fun x g s => (x.gridOf (x.wgOf g)).desc.flags % 2 = 1 ∧ s.mask ≠ g.live) (st.atIssue m grp spl (pcSpec true)) (st.groupAtIssue m grp spl (pcSpec true)) spl) :=
  ⟨⟨tState ({ tGroup 0x000A0004#32 with s := [(5, 0xFFFFFFFF#64)], syncsMask := some 1#32, syncsBroken := true }) 0, 0#1, 53#6, { tGroup 0x000A0004#32 with s := [(5, 0xFFFFFFFF#64)], syncsMask := some 1#32, syncsBroken := true }, tSplit, 1#32, ready_of (by decide), by decide⟩,
  ⟨tState (tGroup 0x000A0004#32) 0, 0#1, 53#6, (tGroup 0x000A0004#32), tSplit, ready_of (by decide), by decide⟩,
  ⟨{ tState (tGroup 0x000A0004#32) 0 with grids := [(gridKey 0 0, { ctx := 0, gid := 0, base := 0, desc := { flags := 1 } })] }, 0#1, (tGroup 0x000A0004#32), tSplit, ready_of (by decide), by decide⟩,
  ⟨{ tState (tGroup 0x000A0004#32) 0 with grids := [(gridKey 0 0, { ctx := 0, gid := 0, base := 0, desc := { flags := 1 }, broken := true })] }, 0#1, (tGroup 0x000A0004#32), tSplit, ready_of (by decide), by decide⟩,
  ⟨tState (tGroup 0x000A0004#32) 0, 0#1, (tGroup 0x000A0004#32), tSplit, ready_of (by decide), by decide⟩,
  ⟨{ tState ({ tGroup 0x000A0004#32 with splits := [(0, { tSplit with mask := 1#32 })] }) 0 with grids := [(gridKey 0 0, { ctx := 0, gid := 0, base := 0, desc := { flags := 1 } })] }, 0#1, { tGroup 0x000A0004#32 with splits := [(0, { tSplit with mask := 1#32 })] }, { tSplit with mask := 1#32 }, ready_of (by decide), by decide⟩⟩

/-- States and operands that meet the hypotheses of WaitsComplete, clauses 1, 2, 3, 4, 5, 6, 7, 8 (clauses of one shape share one). -/
theorem witness_WaitsComplete_A :
  (∃ (st : State) (m : BitVec 1) (a : BitVec 6) (b : BitVec 6) (grp : Group) (spl : Split), ∃ q, ReadyC st m { pcSpec (isS a && isSZ b) with srcs := [a, b] } grp spl ∧ (fun x g s => x.counterAt x.issuer.group g (g.srcS a) = .inr q ∧ x.reached q (isZ b) (g.srcS b).toNat = true) (st.atIssue m grp spl { pcSpec (isS a && isSZ b) with srcs := [a, b] }) (st.groupAtIssue m grp spl { pcSpec (isS a && isSZ b) with srcs := [a, b] }) spl) ∧
  (∃ (st : State) (m : BitVec 1) (a : BitVec 6) (b : BitVec 6) (grp : Group) (spl : Split), ∃ q, ReadyC st m { pcSpec (isS a && isSZ b) with srcs := [a, b] } grp spl ∧ (fun x g s => x.counterAt x.issuer.group g (g.srcS a) = .inr q ∧ x.reached q (isZ b) (g.srcS b).toNat = false) (st.atIssue m grp spl { pcSpec (isS a && isSZ b) with srcs := [a, b] }) (st.groupAtIssue m grp spl { pcSpec (isS a && isSZ b) with srcs := [a, b] }) spl) ∧
  (∃ (st : State) (m : BitVec 1) (a : BitVec 6) (b : BitVec 6) (grp : Group) (spl : Split), ReadyC st m { pcSpec (isS a && isSZ b) with srcs := [a, b] } grp spl ∧ (fun _ g _ => ¬ ((g.srcS a).toNat < 2 ^ 32 ∧ (bits (g.srcS a).toNat 31 29 = 2 ∨ bits (g.srcS a).toNat 31 29 = 3))) (st.atIssue m grp spl { pcSpec (isS a && isSZ b) with srcs := [a, b] }) (st.groupAtIssue m grp spl { pcSpec (isS a && isSZ b) with srcs := [a, b] }) spl) ∧
  (∃ (st : State) (m : BitVec 1) (a : BitVec 6) (b : BitVec 6) (grp : Group) (spl : Split), ReadyC st m { pcSpec (isS a && isSZ b) with srcs := [a, b] } grp spl ∧ (fun _ g _ => ((g.srcS a).toNat < 2 ^ 32 ∧ (bits (g.srcS a).toNat 31 29 = 2 ∨ bits (g.srcS a).toNat 31 29 = 3)) ∧ bits (g.srcS a).toNat 28 0 % 16 ≠ 0) (st.atIssue m grp spl { pcSpec (isS a && isSZ b) with srcs := [a, b] }) (st.groupAtIssue m grp spl { pcSpec (isS a && isSZ b) with srcs := [a, b] }) spl) ∧
  (∃ (st : State) (m : BitVec 1) (a : BitVec 6) (b : BitVec 6) (grp : Group) (spl : Split), ReadyC st m { pcSpec (isS a && isSZ b) with srcs := [a, b] } grp spl ∧ (fun x g _ => ((g.srcS a).toNat < 2 ^ 32 ∧ (bits (g.srcS a).toNat 31 29 = 2 ∨ bits (g.srcS a).toNat 31 29 = 3)) ∧ bits (g.srcS a).toNat 28 0 % 16 = 0 ∧
        x.spaceBytes g (bits (g.srcS a).toNat 31 29) < bits (g.srcS a).toNat 28 0 + 16) (st.atIssue m grp spl { pcSpec (isS a && isSZ b) with srcs := [a, b] }) (st.groupAtIssue m grp spl { pcSpec (isS a && isSZ b) with srcs := [a, b] }) spl) ∧
  (∃ (st : State) (m : BitVec 1) (a : BitVec 6) (b : BitVec 6) (grp : Group) (spl : Split), ∃ leaf pa y z, ReadyC st m { pcSpec (isS a && isSZ b) with srcs := [a, b] } grp spl ∧ (fun x g _ => (g.srcS a).toNat % 8 = 0 ∧ (g.srcS a).toNat < 2 ^ 52 ∧ x.syncRead x.issuer.group g (g.srcS a).toNat 8 true = .ok leaf pa y ∧ y.syncLine x.issuer.group (y.ctxOf g) leaf pa (1 + pa % 128 / 64) true = some z ∧ z.read pa 8 ≠ (g.srcS b).toNat) (st.atIssue m grp spl { pcSpec (isS a && isSZ b) with srcs := [a, b] }) (st.groupAtIssue m grp spl { pcSpec (isS a && isSZ b) with srcs := [a, b] }) spl) ∧
  (∃ (st : State) (m : BitVec 1) (a : BitVec 6) (b : BitVec 6) (grp : Group) (spl : Split), ∃ leaf pa y z, ReadyC st m { pcSpec (isS a && isSZ b) with srcs := [a, b] } grp spl ∧ (fun x g _ => (g.srcS a).toNat % 8 = 0 ∧ (g.srcS a).toNat < 2 ^ 52 ∧ x.syncRead x.issuer.group g (g.srcS a).toNat 8 true = .ok leaf pa y ∧ y.syncLine x.issuer.group (y.ctxOf g) leaf pa (1 + pa % 128 / 64) true = some z ∧ z.read pa 8 = (g.srcS b).toNat) (st.atIssue m grp spl { pcSpec (isS a && isSZ b) with srcs := [a, b] }) (st.groupAtIssue m grp spl { pcSpec (isS a && isSZ b) with srcs := [a, b] }) spl) ∧
  (∃ (st : State) (m : BitVec 1) (a : BitVec 6) (b : BitVec 6) (grp : Group) (spl : Split), ∃ leaf pa y, ReadyC st m { pcSpec (isS a && isSZ b) with srcs := [a, b] } grp spl ∧ (fun x g _ => (g.srcS a).toNat % 8 = 0 ∧ (g.srcS a).toNat < 2 ^ 52 ∧ x.syncRead x.issuer.group g (g.srcS a).toNat 8 true = .ok leaf pa y ∧ y.syncLine x.issuer.group (y.ctxOf g) leaf pa (1 + pa % 128 / 64) true = none) (st.atIssue m grp spl { pcSpec (isS a && isSZ b) with srcs := [a, b] }) (st.groupAtIssue m grp spl { pcSpec (isS a && isSZ b) with srcs := [a, b] }) spl) :=
  ⟨⟨tState ({ tGroup 0x000A0004#32 with s := [(5, 0x60000000#64)] }) 0, 0#1, 53#6, 38#6, { tGroup 0x000A0004#32 with s := [(5, 0x60000000#64)] }, tSplit, _, ready_of (by decide), inr_of (by decide), by decide⟩,
  ⟨tState ({ tGroup 0x000A0004#32 with s := [(5, 0x60000000#64), (6, 5#64)] }) 0, 0#1, 53#6, 54#6, { tGroup 0x000A0004#32 with s := [(5, 0x60000000#64), (6, 5#64)] }, tSplit, _, ready_of (by decide), inr_of (by decide), by decide⟩,
  ⟨tState ({ tGroup 0x000A0004#32 with s := [(5, 536870912#64)] }) 0, 0#1, 53#6, 38#6, { tGroup 0x000A0004#32 with s := [(5, 536870912#64)] }, tSplit, ready_of (by decide), by decide⟩,
  ⟨tState ({ tGroup 0x000A0004#32 with s := [(5, 1610612740#64)] }) 0, 0#1, 53#6, 38#6, { tGroup 0x000A0004#32 with s := [(5, 1610612740#64)] }, tSplit, ready_of (by decide), by decide⟩,
  ⟨tState ({ tGroup 0x000A0004#32 with s := [(5, 1610616832#64)] }) 0, 0#1, 53#6, 38#6, { tGroup 0x000A0004#32 with s := [(5, 1610616832#64)] }, tSplit, ready_of (by decide), by decide⟩,
  ⟨tState ({ tGroup 0x000A0004#32 with s := [(5, 0x20000#64), (6, 7#64)] }) 0, 0#1, 53#6, 54#6, { tGroup 0x000A0004#32 with s := [(5, 0x20000#64), (6, 7#64)] }, tSplit, _, _, _, _, ready_of (by decide), by decide, by decide, acc_of (by decide), some_of (by decide), by decide⟩,
  ⟨tState ({ tGroup 0x000A0004#32 with s := [(5, 0x20000#64), (6, 0#64)] }) 0, 0#1, 53#6, 54#6, { tGroup 0x000A0004#32 with s := [(5, 0x20000#64), (6, 0#64)] }, tSplit, _, _, _, _, ready_of (by decide), by decide, by decide, acc_of (by decide), some_of (by decide), by decide⟩,
  ⟨{ tState ({ tGroup 0x000A0004#32 with s := [(5, 0x20000#64)] }) 0 with dies := [(1, { state := .quiescing })] }, 0#1, 53#6, 54#6, { tGroup 0x000A0004#32 with s := [(5, 0x20000#64)] }, tSplit, _, _, _, ready_of (by decide), by decide, by decide, acc_of (by decide), none_of (by decide)⟩⟩

/-- States and operands that meet the hypotheses of WaitsComplete, clauses 9, 10, 11, 12, 13, 14, 15, 16 (clauses of one shape share one). -/
theorem witness_WaitsComplete_B :
  (∃ (st : State) (m : BitVec 1) (a : BitVec 6) (b : BitVec 6) (grp : Group) (spl : Split), ReadyC st m { pcSpec (isS a && isSZ b) with srcs := [a, b] } grp spl ∧ (fun x g _ => (g.srcS a).toNat % 8 = 0 ∧ (g.srcS a).toNat < 2 ^ 52 ∧ x.syncRead x.issuer.group g (g.srcS a).toNat 8 true = .wait) (st.atIssue m grp spl { pcSpec (isS a && isSZ b) with srcs := [a, b] }) (st.groupAtIssue m grp spl { pcSpec (isS a && isSZ b) with srcs := [a, b] }) spl) ∧
  (∃ (st : State) (m : BitVec 1) (a : BitVec 6) (b : BitVec 6) (grp : Group) (spl : Split), ReadyC st m { pcSpec (isS a && isSZ b) with srcs := [a, b] } grp spl ∧ (fun _ g _ => (g.srcS a).toNat % 8 ≠ 0) (st.atIssue m grp spl { pcSpec (isS a && isSZ b) with srcs := [a, b] }) (st.groupAtIssue m grp spl { pcSpec (isS a && isSZ b) with srcs := [a, b] }) spl) ∧
  (∃ (st : State) (m : BitVec 1) (a : BitVec 6) (b : BitVec 6) (grp : Group) (spl : Split), ∃ v, ReadyC st m { pcSpec (isS a && isSZ b) with srcs := [a, b] } grp spl ∧ (fun _ g _ => g.srcS a = v ∧ v.toNat % 8 = 0 ∧ 2 ^ 52 ≤ v.toNat) (st.atIssue m grp spl { pcSpec (isS a && isSZ b) with srcs := [a, b] }) (st.groupAtIssue m grp spl { pcSpec (isS a && isSZ b) with srcs := [a, b] }) spl) ∧
  (∃ (st : State) (m : BitVec 1) (a : BitVec 6) (b : BitVec 6) (grp : Group) (spl : Split), ∃ t y, ReadyC st m { pcSpec (isS a && isSZ b) with srcs := [a, b] } grp spl ∧ (fun x g _ => (g.srcS a).toNat % 8 = 0 ∧ (g.srcS a).toNat < 2 ^ 52 ∧ x.syncRead x.issuer.group g (g.srcS a).toNat 8 true = .prot t y) (st.atIssue m grp spl { pcSpec (isS a && isSZ b) with srcs := [a, b] }) (st.groupAtIssue m grp spl { pcSpec (isS a && isSZ b) with srcs := [a, b] }) spl) ∧
  (∃ (st : State) (m : BitVec 1) (a : BitVec 6) (b : BitVec 6) (grp : Group) (spl : Split), ∃ page t y r, ReadyC st m { pcSpec (isS a && isSZ b) with srcs := [a, b] } grp spl ∧ (fun x g _ => (g.srcS a).toNat % 8 = 0 ∧ (g.srcS a).toNat < 2 ^ 52 ∧ x.syncRead x.issuer.group g (g.srcS a).toNat 8 true = .fault page t y ∧
        y.pageFault (y.ctxOf g) (.stream x.issuer.group false) page t.detail (y.wgOf g).serial t.addr = r ∧ r.declined = false) (st.atIssue m grp spl { pcSpec (isS a && isSZ b) with srcs := [a, b] }) (st.groupAtIssue m grp spl { pcSpec (isS a && isSZ b) with srcs := [a, b] }) spl) ∧
  (∃ (st : State) (m : BitVec 1) (a : BitVec 6) (b : BitVec 6) (grp : Group) (spl : Split), ∃ page t y r, ReadyC st m { pcSpec (isS a && isSZ b) with srcs := [a, b] } grp spl ∧ (fun x g _ => (g.srcS a).toNat % 8 = 0 ∧ (g.srcS a).toNat < 2 ^ 52 ∧ x.syncRead x.issuer.group g (g.srcS a).toNat 8 true = .fault page t y ∧
        y.pageFault (y.ctxOf g) (.stream x.issuer.group false) page t.detail (y.wgOf g).serial t.addr = r ∧ r.declined = true) (st.atIssue m grp spl { pcSpec (isS a && isSZ b) with srcs := [a, b] }) (st.groupAtIssue m grp spl { pcSpec (isS a && isSZ b) with srcs := [a, b] }) spl) ∧
  (∃ (st : State) (m : BitVec 1) (a : BitVec 6) (i : BitVec 12) (grp : Group) (spl : Split), ReadyC st m { pcSpec (isSZ a) with srcs := [a] } grp spl) ∧
  (∃ (st : State) (m : BitVec 1) (grp : Group) (spl : Split), ReadyC st m { ctlSpec true with yields := true } grp spl) :=
  ⟨⟨{ tState ({ tGroup 0x000A0004#32 with s := [(5, 0x20000#64)] }) 0 with dies := (List.range 9).map fun d => (d, ({ state := .quiescing } : Die)) }, 0#1, 53#6, 54#6, { tGroup 0x000A0004#32 with s := [(5, 0x20000#64)] }, tSplit, ready_of (by decide), by decide, by decide, wait_of (by decide)⟩,
  ⟨tState ({ tGroup 0x000A0004#32 with s := [(5, 0x20001#64)] }) 0, 0#1, 53#6, 54#6, { tGroup 0x000A0004#32 with s := [(5, 0x20001#64)] }, tSplit, ready_of (by decide), by decide⟩,
  ⟨tState ({ tGroup 0x000A0004#32 with s := [(5, 0x10000000000000#64)] }) 0, 0#1, 53#6, 54#6, { tGroup 0x000A0004#32 with s := [(5, 0x10000000000000#64)] }, tSplit, 0x10000000000000#64, ready_of (by decide), by decide⟩,
  ⟨(let u := tState ({ tGroup 0x000A0004#32 with s := [(5, 0x20000#64)] }) 0; { u with tlb := [], mem := u.mem.write (flatHbm 0 0 0x30010) 8 0x103001 }), 0#1, 53#6, 54#6, { tGroup 0x000A0004#32 with s := [(5, 0x20000#64)] }, tSplit, _, _, ready_of (by decide), by decide, by decide, prot_of (by decide)⟩,
  ⟨{ tState ({ tGroup 0x000A0004#32 with s := [(5, 0x50000#64)] }) 0 with ctxs := [(0, { troot := 0x10000, faults := [{ index := 0, page := 5, detail := 0 }] })] }, 0#1, 53#6, 54#6, { tGroup 0x000A0004#32 with s := [(5, 0x50000#64)] }, tSplit, _, _, _, _, ready_of (by decide), by decide, by decide, fault_of (by decide), rfl, by decide⟩,
  ⟨tState ({ tGroup 0x000A0004#32 with s := [(5, 0x50000#64)] }) 0, 0#1, 53#6, 54#6, { tGroup 0x000A0004#32 with s := [(5, 0x50000#64)] }, tSplit, _, _, _, _, ready_of (by decide), by decide, by decide, fault_of (by decide), rfl, by decide⟩,
  ⟨tState (tGroup 0x000A0004#32) 0, 0#1, 38#6, 1#12, (tGroup 0x000A0004#32), tSplit, ready_of (by decide)⟩,
  ⟨tState (tGroup 0x000A0004#32) 0, 0#1, (tGroup 0x000A0004#32), tSplit, ready_of (by decide)⟩⟩

/-- States and operands that meet the hypotheses of WaitsComplete, clauses 17, 18, 19, 20, 21, 22 (clauses of one shape share one). -/
theorem witness_WaitsComplete_C :
  (∃ (st : State) (m : BitVec 1) (a : BitVec 6) (grp : Group) (spl : Split), ReadyC st m { pcSpec (isSZ a) with srcs := [a] } grp spl ∧ (fun x g _ => isZ a = true ∧ (x.wgOf g).children = []) (st.atIssue m grp spl { pcSpec (isSZ a) with srcs := [a] }) (st.groupAtIssue m grp spl { pcSpec (isSZ a) with srcs := [a] }) spl) ∧
  (∃ (st : State) (m : BitVec 1) (a : BitVec 6) (grp : Group) (spl : Split), ReadyC st m { pcSpec (isSZ a) with srcs := [a] } grp spl ∧ (fun x g _ => isZ a = true ∧ (x.wgOf g).children ≠ [] ∧ ∀ id ∈ (x.wgOf g).children, ∀ y, mget x.grids (gridKey (x.wgOf g).ctx id) = some y → y.broken = false) (st.atIssue m grp spl { pcSpec (isSZ a) with srcs := [a] }) (st.groupAtIssue m grp spl { pcSpec (isSZ a) with srcs := [a] }) spl) ∧
  (∃ (st : State) (m : BitVec 1) (a : BitVec 6) (grp : Group) (spl : Split), ReadyC st m { pcSpec (isSZ a) with srcs := [a] } grp spl ∧ (fun x g _ => isZ a = true ∧ ∃ id ∈ (x.wgOf g).children, ∃ y, mget x.grids (gridKey (x.wgOf g).ctx id) = some y ∧ y.broken = true) (st.atIssue m grp spl { pcSpec (isSZ a) with srcs := [a] }) (st.groupAtIssue m grp spl { pcSpec (isSZ a) with srcs := [a] }) spl) ∧
  (∃ (st : State) (m : BitVec 1) (a : BitVec 6) (grp : Group) (spl : Split), ReadyC st m { pcSpec (isSZ a) with srcs := [a] } grp spl ∧ (fun x g _ => isZ a = false ∧ (g.srcS a).toNat % 2 ^ 32 ∉ (x.wgOf g).children) (st.atIssue m grp spl { pcSpec (isSZ a) with srcs := [a] }) (st.groupAtIssue m grp spl { pcSpec (isSZ a) with srcs := [a] }) spl) ∧
  (∃ (st : State) (m : BitVec 1) (a : BitVec 6) (grp : Group) (spl : Split), ReadyC st m { pcSpec (isSZ a) with srcs := [a] } grp spl ∧ (fun x g _ => isZ a = false ∧ (g.srcS a).toNat % 2 ^ 32 ∈ (x.wgOf g).children ∧ ∀ y, mget x.grids (gridKey (x.wgOf g).ctx ((g.srcS a).toNat % 2 ^ 32)) = some y → y.broken = false) (st.atIssue m grp spl { pcSpec (isSZ a) with srcs := [a] }) (st.groupAtIssue m grp spl { pcSpec (isSZ a) with srcs := [a] }) spl) ∧
  (∃ (st : State) (m : BitVec 1) (a : BitVec 6) (grp : Group) (spl : Split), ReadyC st m { pcSpec (isSZ a) with srcs := [a] } grp spl ∧ (fun x g _ => isZ a = false ∧ (g.srcS a).toNat % 2 ^ 32 ∈ (x.wgOf g).children ∧ ∃ y, mget x.grids (gridKey (x.wgOf g).ctx ((g.srcS a).toNat % 2 ^ 32)) = some y ∧ y.broken = true) (st.atIssue m grp spl { pcSpec (isSZ a) with srcs := [a] }) (st.groupAtIssue m grp spl { pcSpec (isSZ a) with srcs := [a] }) spl) :=
  ⟨⟨tState (tGroup 0x000A0004#32) 0, 0#1, 38#6, (tGroup 0x000A0004#32), tSplit, ready_of (by decide), by decide⟩,
  ⟨{ tState (tGroup 0x000A0004#32) 0 with workgroups := [(wgKey 0 0, { tWg with children := [1] })] }, 0#1, 38#6, (tGroup 0x000A0004#32), tSplit, ready_of (by decide), by decide, by decide, fun _ _ _ h => by cases h⟩,
  ⟨{ tState (tGroup 0x000A0004#32) 0 with workgroups := [(wgKey 0 0, { tWg with children := [1] })], grids := [(gridKey 0 1, { ctx := 0, gid := 1, base := 0, desc := {}, broken := true })] }, 0#1, 38#6, (tGroup 0x000A0004#32), tSplit, ready_of (by decide), by decide, 1, by decide, some_any (by decide)⟩,
  ⟨tState (tGroup 0x000A0004#32) 0, 0#1, 53#6, (tGroup 0x000A0004#32), tSplit, ready_of (by decide), by decide⟩,
  ⟨{ tState ({ tGroup 0x000A0004#32 with s := [(5, 1#64)] }) 0 with workgroups := [(wgKey 0 0, { tWg with children := [1] })] }, 0#1, 53#6, { tGroup 0x000A0004#32 with s := [(5, 1#64)] }, tSplit, ready_of (by decide), by decide, by decide, fun _ h => by cases h⟩,
  ⟨{ tState ({ tGroup 0x000A0004#32 with s := [(5, 1#64)] }) 0 with workgroups := [(wgKey 0 0, { tWg with children := [1] })], grids := [(gridKey 0 1, { ctx := 0, gid := 1, base := 0, desc := {}, broken := true })] }, 0#1, 53#6, { tGroup 0x000A0004#32 with s := [(5, 1#64)] }, tSplit, ready_of (by decide), by decide, by decide, some_any (by decide)⟩⟩

/-- States and operands that meet the hypotheses of LaunchCompletes, clauses 1, 2, 3, 4, 5, 6, 7 (clauses of one shape share one). -/
theorem witness_LaunchCompletes :
  (∃ (st : State) (m : BitVec 1) (d : BitVec 6) (a : BitVec 6) (b : BitVec 6) (grp : Group) (spl : Split), ∃ y desc reason gs, ReadyC st m { pcSpec (isS d && isS a && isSZ b) with srcs := [a, b] } grp spl ∧ (fun x g _ => isS b = false ∧ x.leader g.wg = some x.issuer.group ∧ (x.wgOf g).depth < 9 ∧ (g.srcS a).toNat % 128 = 0 ∧ (g.srcS a).toNat < 2 ^ 52 ∧
        x.readLaunch (x.wgOf g).ctx (.stream x.issuer.group false) (g.srcS a).toNat (x.gatesPass x.issuer.group g) = .ok y desc reason gs) (st.atIssue m grp spl { pcSpec (isS d && isS a && isSZ b) with srcs := [a, b] }) (st.groupAtIssue m grp spl { pcSpec (isS d && isS a && isSZ b) with srcs := [a, b] }) spl) ∧
  (∃ (st : State) (m : BitVec 1) (d : BitVec 6) (a : BitVec 6) (b : BitVec 6) (grp : Group) (spl : Split), ReadyC st m { pcSpec (isS d && isS a && isSZ b) with srcs := [a, b] } grp spl ∧ (fun x g _ => isS b = true ∧ (x.gridOf (x.wgOf g)).root = true ∧ ((g.srcS a).toNat % 128 ≠ 0 ∨ 2 ^ 52 ≤ (g.srcS a).toNat)) (st.atIssue m grp spl { pcSpec (isS d && isS a && isSZ b) with srcs := [a, b] }) (st.groupAtIssue m grp spl { pcSpec (isS d && isS a && isSZ b) with srcs := [a, b] }) spl) ∧
  (∃ (st : State) (m : BitVec 1) (d : BitVec 6) (a : BitVec 6) (b : BitVec 6) (grp : Group) (spl : Split), ∃ y desc reason gs z e leaf pa, ReadyC st m { pcSpec (isS d && isS a && isSZ b) with srcs := [a, b] } grp spl ∧ (fun x g _ => isS b = true ∧ (x.gridOf (x.wgOf g)).root = true ∧ (g.srcS a).toNat % 128 = 0 ∧ (g.srcS a).toNat < 2 ^ 52 ∧
        x.readLaunch (x.wgOf g).ctx (.stream x.issuer.group false) (g.srcS a).toNat (x.gatesPass x.issuer.group g) = .ok y desc reason gs ∧
        (y.acquire x.issuer.group 5).readLines (x.wgOf g).ctx (.stream x.issuer.group false) (g.srcS b).toNat 1 = (.ok leaf pa z, e)) (st.atIssue m grp spl { pcSpec (isS d && isS a && isSZ b) with srcs := [a, b] }) (st.groupAtIssue m grp spl { pcSpec (isS d && isS a && isSZ b) with srcs := [a, b] }) spl) ∧
  (∃ (st : State) (m : BitVec 1) (d : BitVec 6) (a : BitVec 6) (b : BitVec 6) (grp : Group) (spl : Split), ReadyC st m { pcSpec (isS d && isS a && isSZ b) with srcs := [a, b] } grp spl ∧ (fun x g _ => isS b = true ∧ (x.gridOf (x.wgOf g)).root = false) (st.atIssue m grp spl { pcSpec (isS d && isS a && isSZ b) with srcs := [a, b] }) (st.groupAtIssue m grp spl { pcSpec (isS d && isS a && isSZ b) with srcs := [a, b] }) spl) ∧
  (∃ (st : State) (m : BitVec 1) (d : BitVec 6) (a : BitVec 6) (b : BitVec 6) (grp : Group) (spl : Split), ReadyC st m { pcSpec (isS d && isS a && isSZ b) with srcs := [a, b] } grp spl ∧ (fun x g _ => isS b = false ∧ x.leader g.wg ≠ some x.issuer.group) (st.atIssue m grp spl { pcSpec (isS d && isS a && isSZ b) with srcs := [a, b] }) (st.groupAtIssue m grp spl { pcSpec (isS d && isS a && isSZ b) with srcs := [a, b] }) spl) ∧
  (∃ (st : State) (m : BitVec 1) (d : BitVec 6) (a : BitVec 6) (b : BitVec 6) (grp : Group) (spl : Split), ReadyC st m { pcSpec (isS d && isS a && isSZ b) with srcs := [a, b] } grp spl ∧ (fun x g _ => isS b = false ∧ x.leader g.wg = some x.issuer.group ∧ 9 ≤ (x.wgOf g).depth) (st.atIssue m grp spl { pcSpec (isS d && isS a && isSZ b) with srcs := [a, b] }) (st.groupAtIssue m grp spl { pcSpec (isS d && isS a && isSZ b) with srcs := [a, b] }) spl) ∧
  (∃ (st : State) (m : BitVec 1) (d : BitVec 6) (a : BitVec 6) (b : BitVec 6) (grp : Group) (spl : Split), ReadyC st m { pcSpec (isS d && isS a && isSZ b) with srcs := [a, b] } grp spl ∧ (fun x g _ => isS b = false ∧ x.leader g.wg = some x.issuer.group ∧ (x.wgOf g).depth < 9 ∧ (g.srcS a).toNat % 128 ≠ 0) (st.atIssue m grp spl { pcSpec (isS d && isS a && isSZ b) with srcs := [a, b] }) (st.groupAtIssue m grp spl { pcSpec (isS d && isS a && isSZ b) with srcs := [a, b] }) spl) :=
  ⟨⟨tState ({ tGroup 0x000A0004#32 with s := [(5, 0x20000#64)] }) 0, 0#1, 49#6, 53#6, 38#6, { tGroup 0x000A0004#32 with s := [(5, 0x20000#64)] }, tSplit, _, _, _, _, ready_of (by decide), by decide, by decide, by decide, by decide, by decide, lr_of (by decide)⟩,
  ⟨{ tState ({ tGroup 0x000A0004#32 with s := [(5, 1#64)] }) 0 with grids := [(gridKey 0 0, { ctx := 0, gid := 0, base := 0, desc := {}, root := true })] }, 0#1, 49#6, 53#6, 54#6, { tGroup 0x000A0004#32 with s := [(5, 1#64)] }, tSplit, ready_of (by decide), by decide⟩,
  ⟨{ tState ({ tGroup 0x000A0004#32 with s := [(5, 0x20000#64), (6, 0x20080#64)] }) 0 with grids := [(gridKey 0 0, { ctx := 0, gid := 0, base := 0, desc := {}, root := true })] }, 0#1, 49#6, 53#6, 54#6, { tGroup 0x000A0004#32 with s := [(5, 0x20000#64), (6, 0x20080#64)] }, tSplit, _, _, _, _, _, _, _, _, ready_of (by decide), by decide, by decide, by decide, by decide, lr_of (by decide), lines_of (by decide)⟩,
  ⟨tState (tGroup 0x000A0004#32) 0, 0#1, 49#6, 53#6, 54#6, (tGroup 0x000A0004#32), tSplit, ready_of (by decide), by decide⟩,
  ⟨{ tState (tGroup 0x000A0004#32) 0 with groups := [(0, tGroup 0x000A0004#32), (1, { tGroup 0x000A0004#32 with gi := 1 })], issuer := { group := 1, slot := 0 } }, 0#1, 49#6, 53#6, 38#6, { tGroup 0x000A0004#32 with gi := 1 }, tSplit, ready_of (by decide), by decide⟩,
  ⟨{ tState (tGroup 0x000A0004#32) 0 with workgroups := [(wgKey 0 0, { tWg with depth := 9 })] }, 0#1, 49#6, 53#6, 38#6, (tGroup 0x000A0004#32), tSplit, ready_of (by decide), by decide⟩,
  ⟨tState ({ tGroup 0x000A0004#32 with s := [(5, 0x20001#64)] }) 0, 0#1, 49#6, 53#6, 38#6, { tGroup 0x000A0004#32 with s := [(5, 0x20001#64)] }, tSplit, ready_of (by decide), by decide⟩⟩

/-- States and operands that meet the hypotheses of ExitTrapAndReturnComplete, clauses 1, 2, 4, 5, 6, 7 (clauses of one shape share one). -/
theorem witness_ExitTrapAndReturnComplete :
  (∃ (st : State) (m : BitVec 1) (grp : Group) (spl : Split), ReadyC st m (pcSpec true) grp spl ∧ (fun x _ _ => x.issuer.slot ≠ 5) (st.atIssue m grp spl (pcSpec true)) (st.groupAtIssue m grp spl (pcSpec true)) spl) ∧
  (∃ (st : State) (m : BitVec 1) (i : BitVec 20) (grp : Group) (spl : Split), ReadyC st m (ctlSpec true) grp spl) ∧
  (∃ (st : State) (m : BitVec 1) (grp : Group) (spl : Split), ReadyC st m (pcSpec true) grp spl ∧ (fun x g _ => g.tlevel = true ∧ x.issuer.slot = 5 ∧ g.aend = true ∧ allReturned g.wbC = true ∧ allReturned g.wbA = true ∧ g.wbA.find? (fun e => e.poison) = none) (st.atIssue m grp spl (pcSpec true)) (st.groupAtIssue m grp spl (pcSpec true)) spl) ∧
  (∃ (st : State) (m : BitVec 1) (grp : Group) (spl : Split), ReadyC st m (pcSpec true) grp spl ∧ (fun x g _ => g.tlevel = true ∧ x.issuer.slot = 5 ∧ (g.aend = false ∨ allReturned g.wbC = false ∨ allReturned g.wbA = false)) (st.atIssue m grp spl (pcSpec true)) (st.groupAtIssue m grp spl (pcSpec true)) spl) ∧
  (∃ (st : State) (m : BitVec 1) (grp : Group) (spl : Split), ∃ e, ReadyC st m (pcSpec true) grp spl ∧ (fun x g _ => g.tlevel = true ∧ x.issuer.slot = 5 ∧ g.aend = true ∧ allReturned g.wbC = true ∧ allReturned g.wbA = true ∧ g.wbA.find? (fun e => e.poison) = some e) (st.atIssue m grp spl (pcSpec true)) (st.groupAtIssue m grp spl (pcSpec true)) spl) ∧
  (∃ (st : State) (m : BitVec 1) (grp : Group) (spl : Split), ReadyC st m (pcSpec true) grp spl ∧ (fun x g _ => g.tlevel = false ∨ x.issuer.slot ≠ 5) (st.atIssue m grp spl (pcSpec true)) (st.groupAtIssue m grp spl (pcSpec true)) spl) :=
  ⟨⟨tState (tGroup 0x000A0004#32) 0, 0#1, (tGroup 0x000A0004#32), tSplit, ready_of (by decide), by decide⟩,
  ⟨tState (tGroup 0x000A0004#32) 0, 0#1, 1#20, (tGroup 0x000A0004#32), tSplit, ready_of (by decide)⟩,
  ⟨tState ({ tGroup 0x000A0004#32 with handler := some tSplit, tlevel := true, aend := true }) 5, 0#1, { tGroup 0x000A0004#32 with handler := some tSplit, tlevel := true, aend := true }, tSplit, ready_of (by decide), by decide⟩,
  ⟨tState ({ tGroup 0x000A0004#32 with handler := some tSplit, tlevel := true }) 5, 0#1, { tGroup 0x000A0004#32 with handler := some tSplit, tlevel := true }, tSplit, ready_of (by decide), by decide⟩,
  ⟨tState ({ tGroup 0x000A0004#32 with handler := some tSplit, tlevel := true, aend := true, wbA := [{ id := 1, dest := WbDest.a 1, returned := true, poison := true }] }) 5, 0#1, { tGroup 0x000A0004#32 with handler := some tSplit, tlevel := true, aend := true, wbA := [{ id := 1, dest := WbDest.a 1, returned := true, poison := true }] }, tSplit, { id := 1, dest := WbDest.a 1, returned := true, poison := true }, ready_of (by decide), by decide⟩,
  ⟨tState (tGroup 0x000A0004#32) 0, 0#1, (tGroup 0x000A0004#32), tSplit, ready_of (by decide), by decide⟩⟩

/-- States and operands that meet the hypotheses of StateAccessCompletes, clauses 1, 2, 3, 4, 5, 6, 7, 8 (clauses of one shape share one). -/
theorem witness_StateAccessCompletes_A :
  (∃ (st : State) (m : BitVec 1) (d : BitVec 6) (i : BitVec 12) (grp : Group) (spl : Split), ∃ y v, ReadyC st m { ctlSpec (isS d && decide (i.toNat ≤ 16)) with async := fun _ _ => true } grp spl ∧ (fun x g _ => x.sampleReg x.issuer.group g false i.toNat = some (y, v)) (st.atIssue m grp spl { ctlSpec (isS d && decide (i.toNat ≤ 16)) with async := fun _ _ => true }) (st.groupAtIssue m grp spl { ctlSpec (isS d && decide (i.toNat ≤ 16)) with async := fun _ _ => true }) spl) ∧
  (∃ (st : State) (m : BitVec 1) (a : BitVec 6) (grp : Group) (spl : Split), ∃ v, ReadyC st m { pcSpec (isS a && decide (((4#12 : BitVec 12)).toNat ≤ 16)) with srcs := [a] } grp spl ∧ (fun _ g _ => (g.srcS a).toNat % 2 ^ 8 = v) (st.atIssue m grp spl { pcSpec (isS a && decide (((4#12 : BitVec 12)).toNat ≤ 16)) with srcs := [a] }) (st.groupAtIssue m grp spl { pcSpec (isS a && decide (((4#12 : BitVec 12)).toNat ≤ 16)) with srcs := [a] }) spl) ∧
  (∃ (st : State) (m : BitVec 1) (a : BitVec 6) (grp : Group) (spl : Split), ∃ v, ReadyC st m { pcSpec (isS a && decide (((5#12 : BitVec 12)).toNat ≤ 16)) with srcs := [a] } grp spl ∧ (fun _ g _ => (g.srcS a).toNat % 2 ^ 8 = v ∧ g.tlevel = true) (st.atIssue m grp spl { pcSpec (isS a && decide (((5#12 : BitVec 12)).toNat ≤ 16)) with srcs := [a] }) (st.groupAtIssue m grp spl { pcSpec (isS a && decide (((5#12 : BitVec 12)).toNat ≤ 16)) with srcs := [a] }) spl) ∧
  (∃ (st : State) (m : BitVec 1) (a : BitVec 6) (grp : Group) (spl : Split), ∃ v, ReadyC st m { pcSpec (isS a && decide (((6#12 : BitVec 12)).toNat ≤ 16)) with srcs := [a] } grp spl ∧ (fun _ g _ => (g.srcS a).toNat % 2 ^ 52 = v ∧ g.tlevel = true ∧ v % 4 = 0) (st.atIssue m grp spl { pcSpec (isS a && decide (((6#12 : BitVec 12)).toNat ≤ 16)) with srcs := [a] }) (st.groupAtIssue m grp spl { pcSpec (isS a && decide (((6#12 : BitVec 12)).toNat ≤ 16)) with srcs := [a] }) spl) ∧
  (∃ (st : State) (m : BitVec 1) (a : BitVec 6) (grp : Group) (spl : Split), ∃ v, ReadyC st m { pcSpec (isS a && decide (((7#12 : BitVec 12)).toNat ≤ 16)) with srcs := [a] } grp spl ∧ (fun _ g _ => (g.srcS a).toNat % 2 ^ 64 = v ∧ g.tlevel = true) (st.atIssue m grp spl { pcSpec (isS a && decide (((7#12 : BitVec 12)).toNat ≤ 16)) with srcs := [a] }) (st.groupAtIssue m grp spl { pcSpec (isS a && decide (((7#12 : BitVec 12)).toNat ≤ 16)) with srcs := [a] }) spl) ∧
  (∃ (st : State) (m : BitVec 1) (a : BitVec 6) (grp : Group) (spl : Split), ∃ v, ReadyC st m { pcSpec (isS a && decide (((8#12 : BitVec 12)).toNat ≤ 16)) with srcs := [a] } grp spl ∧ (fun _ g _ => (g.srcS a).toNat % 2 ^ 52 = v ∧ g.tlevel = true) (st.atIssue m grp spl { pcSpec (isS a && decide (((8#12 : BitVec 12)).toNat ≤ 16)) with srcs := [a] }) (st.groupAtIssue m grp spl { pcSpec (isS a && decide (((8#12 : BitVec 12)).toNat ≤ 16)) with srcs := [a] }) spl) ∧
  (∃ (st : State) (m : BitVec 1) (a : BitVec 6) (grp : Group) (spl : Split), ReadyC st m { pcSpec (isS a && decide ((16#12).toNat ≤ 16)) with srcs := [a] } grp spl ∧ (fun _ g _ => g.tlevel = true) (st.atIssue m grp spl { pcSpec (isS a && decide ((16#12).toNat ≤ 16)) with srcs := [a] }) (st.groupAtIssue m grp spl { pcSpec (isS a && decide ((16#12).toNat ≤ 16)) with srcs := [a] }) spl) ∧
  (∃ (st : State) (m : BitVec 1) (a : BitVec 6) (i : BitVec 12) (grp : Group) (spl : Split), ReadyC st m { pcSpec (isS a && decide (i.toNat ≤ 16)) with srcs := [a] } grp spl ∧ (fun _ g _ => i.toNat ≠ 4 ∧ (g.tlevel = false ∨ i.toNat ∉ [5, 6, 7, 8, 16])) (st.atIssue m grp spl { pcSpec (isS a && decide (i.toNat ≤ 16)) with srcs := [a] }) (st.groupAtIssue m grp spl { pcSpec (isS a && decide (i.toNat ≤ 16)) with srcs := [a] }) spl) :=
  ⟨⟨tState (tGroup 0x000A0004#32) 0, 0#1, 49#6, 0#12, (tGroup 0x000A0004#32), tSplit, _, _, ready_of (by decide), some_pair (by decide)⟩,
  ⟨tState ({ tGroup 0x000A0004#32 with s := [(5, 5#64)] }) 0, 0#1, 53#6, { tGroup 0x000A0004#32 with s := [(5, 5#64)] }, tSplit, 5, ready_of (by decide), by decide⟩,
  ⟨tState ({ tGroup 0x000A0004#32 with handler := some tSplit, tlevel := true, s := [(5, 9#64)] }) 5, 0#1, 53#6, { tGroup 0x000A0004#32 with handler := some tSplit, tlevel := true, s := [(5, 9#64)] }, tSplit, 9, ready_of (by decide), by decide⟩,
  ⟨tState ({ tGroup 0x000A0004#32 with handler := some tSplit, tlevel := true, s := [(5, 131076#64)] }) 5, 0#1, 53#6, { tGroup 0x000A0004#32 with handler := some tSplit, tlevel := true, s := [(5, 131076#64)] }, tSplit, 131076, ready_of (by decide), by decide⟩,
  ⟨tState ({ tGroup 0x000A0004#32 with handler := some tSplit, tlevel := true, s := [(5, 7#64)] }) 5, 0#1, 53#6, { tGroup 0x000A0004#32 with handler := some tSplit, tlevel := true, s := [(5, 7#64)] }, tSplit, 7, ready_of (by decide), by decide⟩,
  ⟨tState ({ tGroup 0x000A0004#32 with handler := some tSplit, tlevel := true, s := [(5, 9#64)] }) 5, 0#1, 53#6, { tGroup 0x000A0004#32 with handler := some tSplit, tlevel := true, s := [(5, 9#64)] }, tSplit, 9, ready_of (by decide), by decide⟩,
  ⟨tState ({ tGroup 0x000A0004#32 with handler := some tSplit, tlevel := true, s := [(5, 1#64)] }) 5, 0#1, 53#6, { tGroup 0x000A0004#32 with handler := some tSplit, tlevel := true, s := [(5, 1#64)] }, tSplit, ready_of (by decide), by decide⟩,
  ⟨tState (tGroup 0x000A0004#32) 0, 0#1, 53#6, 5#12, (tGroup 0x000A0004#32), tSplit, ready_of (by decide), by decide⟩⟩

/-- States and operands that meet the hypotheses of StateAccessCompletes, clauses 9, 10, 11, 12, 13, 14 (clauses of one shape share one). -/
theorem witness_StateAccessCompletes_B :
  (∃ (st : State) (m : BitVec 1) (a : BitVec 6) (i : BitVec 12) (grp : Group) (spl : Split), ReadyC st m { pcSpec (isS a && decide (i.toNat ≤ 16)) with srcs := [a] } grp spl ∧ (fun _ g _ => i.toNat = 6 ∧ (g.srcS a).toNat % 4 ≠ 0) (st.atIssue m grp spl { pcSpec (isS a && decide (i.toNat ≤ 16)) with srcs := [a] }) (st.groupAtIssue m grp spl { pcSpec (isS a && decide (i.toNat ≤ 16)) with srcs := [a] }) spl) ∧
  (∃ (st : State) (m : BitVec 1) (d : BitVec 6) (grp : Group) (spl : Split), ∃ y v, ReadyC st m { ctlSpec (isS d) with async := fun _ _ => true } grp spl ∧ (fun x g _ => x.cdc (x.ctxOf g) x.issuer.group false g.icntC 0 (x.coreCyc (gCore x.issuer.group)) = some (y, v)) (st.atIssue m grp spl { ctlSpec (isS d) with async := fun _ _ => true }) (st.groupAtIssue m grp spl { ctlSpec (isS d) with async := fun _ _ => true }) spl) ∧
  (∃ (st : State) (m : BitVec 1) (d : BitVec 6) (grp : Group) (spl : Split), ∃ y v, ReadyC st m { ctlSpec (isS d) with async := fun _ _ => true } grp spl ∧ (fun x g _ => x.cdc (x.ctxOf g) x.issuer.group false g.icntC 1 (x.hubcyc) = some (y, v)) (st.atIssue m grp spl { ctlSpec (isS d) with async := fun _ _ => true }) (st.groupAtIssue m grp spl { ctlSpec (isS d) with async := fun _ _ => true }) spl) ∧
  (∃ (st : State) (m : BitVec 1) (d : BitVec 6) (grp : Group) (spl : Split), ∃ y v, ReadyC st m { ctlSpec (isS d) with async := fun _ _ => true } grp spl ∧ (fun x g _ => x.cdc (x.ctxOf g) x.issuer.group false g.icntC 2 (x.tai) = some (y, v)) (st.atIssue m grp spl { ctlSpec (isS d) with async := fun _ _ => true }) (st.groupAtIssue m grp spl { ctlSpec (isS d) with async := fun _ _ => true }) spl) ∧
  (∃ (st : State) (m : BitVec 1) (d : BitVec 6) (a : BitVec 6) (b : BitVec 6) (f : BitVec 6) (grp : Group) (spl : Split), ∃ id rest, ReadyC st m { ctlSpec (lt8 d && lt8 a && lt8 b && decide (f.toNat ≤ 4) && (decide (f.toNat < 3) || (decide (a = 0#6) && decide (b = 0#6)))) with
      pregs := if f.toNat < 3 then [a.toNat] else [] } grp spl ∧ (fun _ g _ => (mgetD g.guards d.toNat {}).cmds = id :: rest) (st.atIssue m grp spl { ctlSpec (lt8 d && lt8 a && lt8 b && decide (f.toNat ≤ 4) && (decide (f.toNat < 3) || (decide (a = 0#6) && decide (b = 0#6)))) with
      pregs := if f.toNat < 3 then [a.toNat] else [] }) (st.groupAtIssue m grp spl { ctlSpec (lt8 d && lt8 a && lt8 b && decide (f.toNat ≤ 4) && (decide (f.toNat < 3) || (decide (a = 0#6) && decide (b = 0#6)))) with
      pregs := if f.toNat < 3 then [a.toNat] else [] }) spl) ∧
  (∃ (st : State) (m : BitVec 1) (d : BitVec 6) (a : BitVec 6) (b : BitVec 6) (f : BitVec 6) (grp : Group) (spl : Split), ReadyC st m { ctlSpec (lt8 d && lt8 a && lt8 b && decide (f.toNat ≤ 4) && (decide (f.toNat < 3) || (decide (a = 0#6) && decide (b = 0#6)))) with
      pregs := if f.toNat < 3 then [a.toNat] else [] } grp spl ∧ (fun _ g _ => (mgetD g.guards d.toNat {}).cmds = [] ∧ (mgetD g.guards d.toNat {}).res.length < 8) (st.atIssue m grp spl { ctlSpec (lt8 d && lt8 a && lt8 b && decide (f.toNat ≤ 4) && (decide (f.toNat < 3) || (decide (a = 0#6) && decide (b = 0#6)))) with
      pregs := if f.toNat < 3 then [a.toNat] else [] }) (st.groupAtIssue m grp spl { ctlSpec (lt8 d && lt8 a && lt8 b && decide (f.toNat ≤ 4) && (decide (f.toNat < 3) || (decide (a = 0#6) && decide (b = 0#6)))) with
      pregs := if f.toNat < 3 then [a.toNat] else [] }) spl) :=
  ⟨⟨tState ({ tGroup 0x000A0004#32 with handler := some tSplit, tlevel := true, s := [(5, 1#64)] }) 5, 0#1, 53#6, 6#12, { tGroup 0x000A0004#32 with handler := some tSplit, tlevel := true, s := [(5, 1#64)] }, tSplit, ready_of (by decide), by decide⟩,
  ⟨tState (tGroup 0x000A0004#32) 0, 0#1, 49#6, (tGroup 0x000A0004#32), tSplit, _, _, ready_of (by decide), some_pair (by decide)⟩,
  ⟨tState (tGroup 0x000A0004#32) 0, 0#1, 49#6, (tGroup 0x000A0004#32), tSplit, _, _, ready_of (by decide), some_pair (by decide)⟩,
  ⟨tState (tGroup 0x000A0004#32) 0, 0#1, 49#6, (tGroup 0x000A0004#32), tSplit, _, _, ready_of (by decide), some_pair (by decide)⟩,
  ⟨tState ({ tGroup 0x000A0004#32 with guards := [(1, { cmds := [7] })] }) 0, 0#1, 1#6, 1#6, 1#6, 0#6, { tGroup 0x000A0004#32 with guards := [(1, { cmds := [7] })] }, tSplit, 7, [], ready_of (by decide), by decide⟩,
  ⟨tState (tGroup 0x000A0004#32) 0, 0#1, 1#6, 1#6, 1#6, 0#6, (tGroup 0x000A0004#32), tSplit, ready_of (by decide), by decide⟩⟩

/-- States and operands that meet the hypotheses of MatrixMultipliesPost, clauses 1, 2, 4 (clauses of one shape share one). -/
theorem witness_MatrixMultipliesPost :
  (∃ (st : State) (m : BitVec 1) (t : BitVec 3) (a : BitVec 6) (b : BitVec 6) (r : BitVec 4) (k : BitVec 5) (grp : Group) (spl : Split), ∃ tl c ra rb o1 bt o2 y, ReadyC st m { mSpec (baseOk a && baseOk b && decide (k.toNat < 3)) (vRegs a ++ vRegs b ++ sRegs r.toNat 1) with lanes := bLanes b } grp spl ∧ (fun x g s => ((g.getS r.toNat).toNat) % 2 ^ 32 = 0 ∧ mget g.tiles t.toNat = some tl ∧ tl.window ((g.getS r.toNat).toNat / 2 ^ 32) = .inr c ∧
        x.scaleRefs g k.toNat (modeBlock g) s.mask = .inr (ra, rb, o1) ∧ x.btileRef g k.toNat none 0 = .inr (bt, o2) ∧ typesOk k.toNat g.et g.et2 tl.isF32 = true ∧
        x.postHere [(x.engineOf x.issuer.group c.wg, x.mulEntry g s t.toNat k.toNat a (some b) (modeBlock g) tl c ra rb bt)] = some y) (st.atIssue m grp spl { mSpec (baseOk a && baseOk b && decide (k.toNat < 3)) (vRegs a ++ vRegs b ++ sRegs r.toNat 1) with lanes := bLanes b }) (st.groupAtIssue m grp spl { mSpec (baseOk a && baseOk b && decide (k.toNat < 3)) (vRegs a ++ vRegs b ++ sRegs r.toNat 1) with lanes := bLanes b }) spl) ∧
  (∃ (st : State) (m : BitVec 1) (t : BitVec 3) (a : BitVec 6) (b : BitVec 6) (r : BitVec 4) (k : BitVec 5) (grp : Group) (spl : Split), ∃ tl c ra rb o1 bt o2 y, ReadyC st m (mSpec (baseOk a && decide (b.toNat < 32) && decide (k.toNat < 2) && decide (r.toNat ≤ 14)) (vRegs a ++ sRegs r.toNat 2)) grp spl ∧ (fun x g s => ((g.getS r.toNat).toNat) % 2 ^ 32 = 0 ∧ mget g.tiles t.toNat = some tl ∧ tl.window ((g.getS r.toNat).toNat / 2 ^ 32) = .inr c ∧
        x.scaleRefs g k.toNat (modeBlock g) s.mask = .inr (ra, rb, o1) ∧ x.btileRef g k.toNat (some b.toNat) (g.getS (r.toNat + 1)) = .inr (bt, o2) ∧ typesOk k.toNat g.et g.et2 tl.isF32 = true ∧
        x.postHere [(x.engineOf x.issuer.group c.wg, x.mulEntry g s t.toNat k.toNat a none (modeBlock g) tl c ra rb bt)] = some y) (st.atIssue m grp spl (mSpec (baseOk a && decide (b.toNat < 32) && decide (k.toNat < 2) && decide (r.toNat ≤ 14)) (vRegs a ++ sRegs r.toNat 2))) (st.groupAtIssue m grp spl (mSpec (baseOk a && decide (b.toNat < 32) && decide (k.toNat < 2) && decide (r.toNat ≤ 14)) (vRegs a ++ sRegs r.toNat 2))) spl) ∧
  (∃ (st : State) (m : BitVec 1) (t : BitVec 3) (a : BitVec 6) (b : BitVec 6) (r : BitVec 4) (k : BitVec 5) (grp : Group) (spl : Split), ∃ tl c ra rb o1 bt o2 y, ReadyC st m { mSpec (baseOk a && baseOk b && decide (k.toNat < 3) && decide (r.toNat ≠ 15)) (vRegs a ++ vRegs b ++ sRegs r.toNat 2) with lanes := bLanes b } grp spl ∧ (fun x g s => blockOk (((g.getS r.toNat).toNat) % 2 ^ 32) ((g.getS (r.toNat + 1)).toNat) = true ∧ mget g.tiles t.toNat = some tl ∧ tl.window ((g.getS r.toNat).toNat / 2 ^ 32) = .inr c ∧
        x.scaleRefs g k.toNat (blockOf ((g.getS r.toNat).toNat) ((g.getS (r.toNat + 1)).toNat)) s.mask = .inr (ra, rb, o1) ∧ x.btileRef g k.toNat none 0 = .inr (bt, o2) ∧ mmasTypes k.toNat (blockOf ((g.getS r.toNat).toNat) ((g.getS (r.toNat + 1)).toNat)) tl.isF32 = true ∧
        x.postHere [(x.engineOf x.issuer.group c.wg, x.mulEntry g s t.toNat k.toNat a (some b) (blockOf ((g.getS r.toNat).toNat) ((g.getS (r.toNat + 1)).toNat)) tl c ra rb bt)] = some y) (st.atIssue m grp spl { mSpec (baseOk a && baseOk b && decide (k.toNat < 3) && decide (r.toNat ≠ 15)) (vRegs a ++ vRegs b ++ sRegs r.toNat 2) with lanes := bLanes b }) (st.groupAtIssue m grp spl { mSpec (baseOk a && baseOk b && decide (k.toNat < 3) && decide (r.toNat ≠ 15)) (vRegs a ++ vRegs b ++ sRegs r.toNat 2) with lanes := bLanes b }) spl) :=
  ⟨⟨{ tState ({ tGroup 0x00090009#32 with tiles := [(1, { word := 0x1000, members := [wgKey 0 0] })], s := [] }) 0 with workgroups := [(wgKey 0 0, { tWg with clusSize := 8192, accRows := 64, views := [(0, tView), (1, BitVec.ofNat 1024 (0x100001912 * 2 ^ 64 + 32 * 2 ^ 256 + 2 ^ 288 + 64 * 2 ^ 320 + 32 * 2 ^ 352))] })] }, 0#1, 1#3, 8#6, 16#6, 2#4, 0#5, { tGroup 0x00090009#32 with tiles := [(1, { word := 0x1000, members := [wgKey 0 0] })], s := [] }, tSplit, _, _, _, _, _, _, _, _, ready_of (by decide), by decide, rfl, inr_of (by decide), inr_of (by decide), inr_of (by decide), by decide, some_of (by decide)⟩,
  ⟨{ tState ({ tGroup 0x00090009#32 with tiles := [(1, { word := 0x1000, members := [wgKey 0 0] })], s := [] }) 0 with workgroups := [(wgKey 0 0, { tWg with clusSize := 8192, accRows := 64, views := [(0, tView), (1, BitVec.ofNat 1024 (0x100001912 * 2 ^ 64 + 32 * 2 ^ 256 + 2 ^ 288 + 64 * 2 ^ 320 + 32 * 2 ^ 352))] })] }, 0#1, 1#3, 8#6, 1#6, 2#4, 0#5, { tGroup 0x00090009#32 with tiles := [(1, { word := 0x1000, members := [wgKey 0 0] })], s := [] }, tSplit, _, _, _, _, _, _, _, _, ready_of (by decide), by decide, rfl, inr_of (by decide), inr_of (by decide), inr_of (by decide), by decide, some_of (by decide)⟩,
  ⟨{ tState ({ tGroup 0x00090009#32 with tiles := [(1, { word := 0x1000, members := [wgKey 0 0] })], s := [(2, 0xA099#64)] }) 0 with workgroups := [(wgKey 0 0, { tWg with clusSize := 8192, accRows := 64, views := [(0, tView), (1, BitVec.ofNat 1024 (0x100001912 * 2 ^ 64 + 32 * 2 ^ 256 + 2 ^ 288 + 64 * 2 ^ 320 + 32 * 2 ^ 352))] })] }, 0#1, 1#3, 8#6, 16#6, 2#4, 0#5, { tGroup 0x00090009#32 with tiles := [(1, { word := 0x1000, members := [wgKey 0 0] })], s := [(2, 0xA099#64)] }, tSplit, _, _, _, _, _, _, _, _, ready_of (by decide), by decide, rfl, inr_of (by decide), inr_of (by decide), inr_of (by decide), by decide, some_of (by decide)⟩⟩

theorem witness_MatrixMultipliesPost_2 : ∃ (st : State) (m : BitVec 1) (t : BitVec 3) (a : BitVec 6) (b : BitVec 6) (r : BitVec 4) (k : BitVec 5) (grp : Group) (spl : Split), ∃ tl c ra rb o1 bt o2 y, ReadyC st m (mSpec (baseOk a && decide (b.toNat < 32) && decide (k.toNat = 3) && decide (r.toNat < 14)) (vRegs a ++ sRegs r.toNat 3)) grp spl ∧ (fun x g s => blockOk (((g.getS r.toNat).toNat) % 2 ^ 32) ((g.getS (r.toNat + 1)).toNat) = true ∧ mget g.tiles t.toNat = some tl ∧ tl.window ((g.getS r.toNat).toNat / 2 ^ 32) = .inr c ∧
        x.scaleRefs g 3 (blockOf ((g.getS r.toNat).toNat) ((g.getS (r.toNat + 1)).toNat)) s.mask = .inr (ra, rb, o1) ∧ x.btileRef g 3 (some b.toNat) (g.getS (r.toNat + 2)) = .inr (bt, o2) ∧ mmatTypes (blockOf ((g.getS r.toNat).toNat) ((g.getS (r.toNat + 1)).toNat)) tl.isF32 = true ∧
        x.postHere [(x.engineOf x.issuer.group c.wg, x.mulEntry g s t.toNat 3 a none (blockOf ((g.getS r.toNat).toNat) ((g.getS (r.toNat + 1)).toNat)) tl c ra rb bt)] = some y) (st.atIssue m grp spl (mSpec (baseOk a && decide (b.toNat < 32) && decide (k.toNat = 3) && decide (r.toNat < 14)) (vRegs a ++ sRegs r.toNat 3))) (st.groupAtIssue m grp spl (mSpec (baseOk a && decide (b.toNat < 32) && decide (k.toNat = 3) && decide (r.toNat < 14)) (vRegs a ++ sRegs r.toNat 3))) spl :=
  ⟨{ tState ({ tGroup 0x00090009#32 with tiles := [(1, { word := 0x1000, members := [wgKey 0 0] })], s := [(2, 0xA00F#64)] }) 0 with workgroups := [(wgKey 0 0, { tWg with clusSize := 8192, accRows := 64, views := [(0, tView), (1, BitVec.ofNat 1024 (0x100001902 * 2 ^ 64 + 32 * 2 ^ 256 + 2 ^ 288 + 256 * 2 ^ 320 + 32 * 2 ^ 352))] })] }, 0#1, 1#3, 8#6, 1#6, 2#4, 3#5, { tGroup 0x00090009#32 with tiles := [(1, { word := 0x1000, members := [wgKey 0 0] })], s := [(2, 0xA00F#64)] }, tSplit, _, _, _, _, _, some { desc := BitVec.ofNat 1024 (0x100001902 * 2 ^ 64 + 32 * 2 ^ 256 + 2 ^ 288 + 256 * 2 ^ 320 + 32 * 2 ^ 352), base := flatClus 0 0 }, false, _, ready_of (by decide), by decide, rfl, inr_of (by decide), inr_of (by decide), by decide +kernel, by decide, some_of (by decide)⟩

/-- States and operands that meet the hypotheses of TileInstructionsComplete, clauses 1, 2, 3, 4, 5, 6, 7, 8 (clauses of one shape share one). -/
theorem witness_TileInstructionsComplete_A :
  (∃ (st : State) (m : BitVec 1) (t : BitVec 3) (r : BitVec 4) (grp : Group) (spl : Split), ReadyC st m { ctlSpec true with srcs := [BitVec.ofNat 6 (48 + r.toNat)] } grp spl ∧ (fun x g _ => x.tbindTrap g t.toNat ((g.getS r.toNat).toNat) = none) (st.atIssue m grp spl { ctlSpec true with srcs := [BitVec.ofNat 6 (48 + r.toNat)] }) (st.groupAtIssue m grp spl { ctlSpec true with srcs := [BitVec.ofNat 6 (48 + r.toNat)] }) spl) ∧
  (∃ (st : State) (m : BitVec 1) (t : BitVec 3) (r : BitVec 4) (grp : Group) (spl : Split), ∃ tr, ReadyC st m { ctlSpec true with srcs := [BitVec.ofNat 6 (48 + r.toNat)] } grp spl ∧ (fun x g _ => x.tbindTrap g t.toNat ((g.getS r.toNat).toNat) = some tr) (st.atIssue m grp spl { ctlSpec true with srcs := [BitVec.ofNat 6 (48 + r.toNat)] }) (st.groupAtIssue m grp spl { ctlSpec true with srcs := [BitVec.ofNat 6 (48 + r.toNat)] }) spl) ∧
  (∃ (st : State) (m : BitVec 1) (t : BitVec 3) (grp : Group) (spl : Split), ReadyC st m (ctlSpec true) grp spl) ∧
  (∃ (st : State) (m : BitVec 1) (t : BitVec 3) (r : BitVec 4) (grp : Group) (spl : Split), ∃ tl c y, ReadyC st m (mSpec true (sRegs r.toNat 1)) grp spl ∧ (fun x g s => mget g.tiles t.toNat = some tl ∧ tl.window (((g.getS r.toNat).toNat) / 2 ^ 32) = .inr c ∧
        x.postHere [(x.engineOf x.issuer.group c.wg, { x.entryOf g t.toNat tl .zero s.mask with win := c })] = some y) (st.atIssue m grp spl (mSpec true (sRegs r.toNat 1))) (st.groupAtIssue m grp spl (mSpec true (sRegs r.toNat 1))) spl) ∧
  (∃ (st : State) (m : BitVec 1) (t : BitVec 3) (grp : Group) (spl : Split), ∃ tl y, ReadyC st m (mSpec true []) grp spl ∧ (fun x g s => mget g.tiles t.toNat = some tl ∧ x.postHere (tl.members.map fun w => (x.engineOf x.issuer.group w,
          { x.entryOf g t.toNat tl .zeroAll s.mask with win := { wg := w, row := bits tl.word 7 0, col := 0 }, rows := tl.part, cols := tl.nc })) = some y) (st.atIssue m grp spl (mSpec true [])) (st.groupAtIssue m grp spl (mSpec true [])) spl) ∧
  (∃ (st : State) (m : BitVec 1) (t : BitVec 3) (r : BitVec 4) (i : BitVec 8) (v : BitVec 6) (grp : Group) (spl : Split), ∃ tl cs y, ReadyC st m { mSpec (isV v) (sRegs r.toNat 1) with async := fun _ _ => true } grp spl ∧ (fun x g s => mget g.tiles t.toNat = some tl ∧ sliceOf tl false (g.getS r.toNat) i.toNat = .inr cs ∧
        x.postHere [(x.engineOf x.issuer.group ((cs.findSome? id).map (·.wg) |>.getD 0), { x.entryOf g t.toNat tl (.trd false) s.mask with cells := cs, wb := some g.nextId })] = some y) (st.atIssue m grp spl { mSpec (isV v) (sRegs r.toNat 1) with async := fun _ _ => true }) (st.groupAtIssue m grp spl { mSpec (isV v) (sRegs r.toNat 1) with async := fun _ _ => true }) spl) ∧
  (∃ (st : State) (m : BitVec 1) (t : BitVec 3) (r : BitVec 4) (i : BitVec 8) (v : BitVec 6) (grp : Group) (spl : Split), ∃ tl cs y, ReadyC st m { mSpec (isV v) (sRegs r.toNat 1) with async := fun _ _ => true } grp spl ∧ (fun x g s => mget g.tiles t.toNat = some tl ∧ sliceOf tl true (g.getS r.toNat) i.toNat = .inr cs ∧
        x.postHere [(x.engineOf x.issuer.group ((cs.findSome? id).map (·.wg) |>.getD 0), { x.entryOf g t.toNat tl (.trd true) s.mask with cells := cs, wb := some g.nextId })] = some y) (st.atIssue m grp spl { mSpec (isV v) (sRegs r.toNat 1) with async := fun _ _ => true }) (st.groupAtIssue m grp spl { mSpec (isV v) (sRegs r.toNat 1) with async := fun _ _ => true }) spl) ∧
  (∃ (st : State) (m : BitVec 1) (t : BitVec 3) (r : BitVec 4) (i : BitVec 8) (v : BitVec 6) (grp : Group) (spl : Split), ∃ tl cs y, ReadyC st m (mSpec (isV v) (v :: sRegs r.toNat 1)) grp spl ∧ (fun x g s => mget g.tiles t.toNat = some tl ∧ sliceOf tl false (g.getS r.toNat) i.toNat = .inr cs ∧
        x.postHere [(x.engineOf x.issuer.group ((cs.findSome? id).map (·.wg) |>.getD 0), { x.entryOf g t.toNat tl (.twr false) s.mask with cells := cs, data := g.getV v.toNat })] = some y) (st.atIssue m grp spl (mSpec (isV v) (v :: sRegs r.toNat 1))) (st.groupAtIssue m grp spl (mSpec (isV v) (v :: sRegs r.toNat 1))) spl) :=
  ⟨⟨{ tState ({ tGroup 0x000A0004#32 with s := [(2, 0x1000#64)] }) 0 with grids := [(gridKey 0 0, { ctx := 0, gid := 0, base := 0, desc := { x := 1, y := 1, z := 1, acc := 64 } })] }, 0#1, 1#3, 2#4, { tGroup 0x000A0004#32 with s := [(2, 0x1000#64)] }, tSplit, ready_of (by decide), by decide⟩,
  ⟨tState ({ tGroup 0x000A0004#32 with s := [(2, 0x100000#64)] }) 0, 0#1, 1#3, 2#4, { tGroup 0x000A0004#32 with s := [(2, 0x100000#64)] }, tSplit, _, ready_of (by decide), some_of (by decide)⟩,
  ⟨tState (tGroup 0x000A0004#32) 0, 0#1, 1#3, (tGroup 0x000A0004#32), tSplit, ready_of (by decide)⟩,
  ⟨{ tState ({ tGroup 0x00090009#32 with tiles := [(1, { word := 0x1000, members := [wgKey 0 0] })], s := [] }) 0 with workgroups := [(wgKey 0 0, { tWg with clusSize := 8192, accRows := 64, views := [(0, tView), (1, BitVec.ofNat 1024 (0x100001912 * 2 ^ 64 + 32 * 2 ^ 256 + 2 ^ 288 + 64 * 2 ^ 320 + 32 * 2 ^ 352))] })] }, 0#1, 1#3, 2#4, { tGroup 0x00090009#32 with tiles := [(1, { word := 0x1000, members := [wgKey 0 0] })], s := [] }, tSplit, _, _, _, ready_of (by decide), rfl, inr_of (by decide), some_of (by decide)⟩,
  ⟨{ tState ({ tGroup 0x00090009#32 with tiles := [(1, { word := 0x1000, members := [wgKey 0 0] })], s := [] }) 0 with workgroups := [(wgKey 0 0, { tWg with clusSize := 8192, accRows := 64, views := [(0, tView), (1, BitVec.ofNat 1024 (0x100001912 * 2 ^ 64 + 32 * 2 ^ 256 + 2 ^ 288 + 64 * 2 ^ 320 + 32 * 2 ^ 352))] })] }, 0#1, 1#3, { tGroup 0x00090009#32 with tiles := [(1, { word := 0x1000, members := [wgKey 0 0] })], s := [] }, tSplit, _, _, ready_of (by decide), rfl, some_of (by decide)⟩,
  ⟨{ tState ({ tGroup 0x00090009#32 with tiles := [(1, { word := 0x1000, members := [wgKey 0 0] })], s := [] }) 0 with workgroups := [(wgKey 0 0, { tWg with clusSize := 8192, accRows := 64, views := [(0, tView), (1, BitVec.ofNat 1024 (0x100001912 * 2 ^ 64 + 32 * 2 ^ 256 + 2 ^ 288 + 64 * 2 ^ 320 + 32 * 2 ^ 352))] })] }, 0#1, 1#3, 2#4, 0#8, 5#6, { tGroup 0x00090009#32 with tiles := [(1, { word := 0x1000, members := [wgKey 0 0] })], s := [] }, tSplit, _, _, _, ready_of (by decide), rfl, inr_of (by decide), some_of (by decide)⟩,
  ⟨{ tState ({ tGroup 0x00090009#32 with tiles := [(1, { word := 0x1000, members := [wgKey 0 0] })], s := [] }) 0 with workgroups := [(wgKey 0 0, { tWg with clusSize := 8192, accRows := 64, views := [(0, tView), (1, BitVec.ofNat 1024 (0x100001912 * 2 ^ 64 + 32 * 2 ^ 256 + 2 ^ 288 + 64 * 2 ^ 320 + 32 * 2 ^ 352))] })] }, 0#1, 1#3, 2#4, 0#8, 5#6, { tGroup 0x00090009#32 with tiles := [(1, { word := 0x1000, members := [wgKey 0 0] })], s := [] }, tSplit, _, _, _, ready_of (by decide), rfl, inr_of (by decide), some_of (by decide)⟩,
  ⟨{ tState ({ tGroup 0x00090009#32 with tiles := [(1, { word := 0x1000, members := [wgKey 0 0] })], s := [] }) 0 with workgroups := [(wgKey 0 0, { tWg with clusSize := 8192, accRows := 64, views := [(0, tView), (1, BitVec.ofNat 1024 (0x100001912 * 2 ^ 64 + 32 * 2 ^ 256 + 2 ^ 288 + 64 * 2 ^ 320 + 32 * 2 ^ 352))] })] }, 0#1, 1#3, 2#4, 0#8, 5#6, { tGroup 0x00090009#32 with tiles := [(1, { word := 0x1000, members := [wgKey 0 0] })], s := [] }, tSplit, _, _, _, ready_of (by decide), rfl, inr_of (by decide), some_of (by decide)⟩⟩

/-- States and operands that meet the hypotheses of TileInstructionsComplete, clauses 9, 10, 11, 12, 13 (clauses of one shape share one). -/
theorem witness_TileInstructionsComplete_B :
  (∃ (st : State) (m : BitVec 1) (t : BitVec 3) (r : BitVec 4) (i : BitVec 8) (v : BitVec 6) (grp : Group) (spl : Split), ∃ tl cs y, ReadyC st m (mSpec (isV v) (v :: sRegs r.toNat 1)) grp spl ∧ (fun x g s => mget g.tiles t.toNat = some tl ∧ sliceOf tl true (g.getS r.toNat) i.toNat = .inr cs ∧
        x.postHere [(x.engineOf x.issuer.group ((cs.findSome? id).map (·.wg) |>.getD 0), { x.entryOf g t.toNat tl (.twr true) s.mask with cells := cs, data := g.getV v.toNat })] = some y) (st.atIssue m grp spl (mSpec (isV v) (v :: sRegs r.toNat 1))) (st.groupAtIssue m grp spl (mSpec (isV v) (v :: sRegs r.toNat 1))) spl) ∧
  (∃ (st : State) (m : BitVec 1) (t : BitVec 3) (u : BitVec 3) (r : BitVec 4) (grp : Group) (spl : Split), ∃ td ts cd cs y, ReadyC st m (mSpec true (sRegs r.toNat 1)) grp spl ∧ (fun x g s => mget g.tiles t.toNat = some td ∧ mget g.tiles u.toNat = some ts ∧ td.window ((g.getS r.toNat).toNat / 2 ^ 32) = .inr cd ∧
        ts.window ((g.getS r.toNat).toNat % 2 ^ 32) = .inr cs ∧ td.isF32 = ts.isF32 ∧
        x.postHere [(x.engineOf x.issuer.group cd.wg, { x.entryOf g t.toNat td (.move false) s.mask with win := cd, swin := cs, stile := some u.toNat })] = some y) (st.atIssue m grp spl (mSpec true (sRegs r.toNat 1))) (st.groupAtIssue m grp spl (mSpec true (sRegs r.toNat 1))) spl) ∧
  (∃ (st : State) (m : BitVec 1) (t : BitVec 3) (u : BitVec 3) (r : BitVec 4) (grp : Group) (spl : Split), ∃ td ts cd cs y, ReadyC st m (mSpec true (sRegs r.toNat 1)) grp spl ∧ (fun x g s => mget g.tiles t.toNat = some td ∧ mget g.tiles u.toNat = some ts ∧ td.window ((g.getS r.toNat).toNat / 2 ^ 32) = .inr cd ∧
        ts.window ((g.getS r.toNat).toNat % 2 ^ 32) = .inr cs ∧ td.isF32 = ts.isF32 ∧
        x.postHere [(x.engineOf x.issuer.group cd.wg, { x.entryOf g t.toNat td (.move true) s.mask with win := cd, swin := cs, stile := some u.toNat })] = some y) (st.atIssue m grp spl (mSpec true (sRegs r.toNat 1))) (st.groupAtIssue m grp spl (mSpec true (sRegs r.toNat 1))) spl) ∧
  (∃ (st : State) (m : BitVec 1) (t : BitVec 3) (grp : Group) (spl : Split), ReadyC st m (pcSpec true) grp spl ∧ (fun x g s => s.wait = .ready ∧ (x.clusters.any fun k => k.2.res.any fun e => decide (e.group = x.issuer.group) && decide (e.wg = g.wg) && decide (e.id < g.nextId) && (decide (e.tile = t.toNat) || decide (e.stile = some t.toNat))) = false) (st.atIssue m grp spl (pcSpec true)) (st.groupAtIssue m grp spl (pcSpec true)) spl) ∧
  (∃ (st : State) (m : BitVec 1) (grp : Group) (spl : Split), ReadyC st m (pcSpec true) grp spl ∧ (fun x g s => s.wait = .ready ∧ (x.clusters.any fun k => k.2.res.any fun e => decide (e.group = x.issuer.group) && decide (e.wg = g.wg) && decide (e.id < g.nextId)) = false) (st.atIssue m grp spl (pcSpec true)) (st.groupAtIssue m grp spl (pcSpec true)) spl) :=
  ⟨⟨{ tState ({ tGroup 0x00090009#32 with tiles := [(1, { word := 0x1000, members := [wgKey 0 0] })], s := [] }) 0 with workgroups := [(wgKey 0 0, { tWg with clusSize := 8192, accRows := 64, views := [(0, tView), (1, BitVec.ofNat 1024 (0x100001912 * 2 ^ 64 + 32 * 2 ^ 256 + 2 ^ 288 + 64 * 2 ^ 320 + 32 * 2 ^ 352))] })] }, 0#1, 1#3, 2#4, 0#8, 5#6, { tGroup 0x00090009#32 with tiles := [(1, { word := 0x1000, members := [wgKey 0 0] })], s := [] }, tSplit, _, _, _, ready_of (by decide), rfl, inr_of (by decide), some_of (by decide)⟩,
  ⟨{ tState ({ tGroup 0x00090009#32 with tiles := [(1, { word := 0x1000, members := [wgKey 0 0] })], s := [] }) 0 with workgroups := [(wgKey 0 0, { tWg with clusSize := 8192, accRows := 64, views := [(0, tView), (1, BitVec.ofNat 1024 (0x100001912 * 2 ^ 64 + 32 * 2 ^ 256 + 2 ^ 288 + 64 * 2 ^ 320 + 32 * 2 ^ 352))] })] }, 0#1, 1#3, 1#3, 2#4, { tGroup 0x00090009#32 with tiles := [(1, { word := 0x1000, members := [wgKey 0 0] })], s := [] }, tSplit, _, _, _, _, _, ready_of (by decide), rfl, rfl, inr_of (by decide), inr_of (by decide), by decide, some_of (by decide)⟩,
  ⟨{ tState ({ tGroup 0x00090009#32 with tiles := [(1, { word := 0x1000, members := [wgKey 0 0] })], s := [] }) 0 with workgroups := [(wgKey 0 0, { tWg with clusSize := 8192, accRows := 64, views := [(0, tView), (1, BitVec.ofNat 1024 (0x100001912 * 2 ^ 64 + 32 * 2 ^ 256 + 2 ^ 288 + 64 * 2 ^ 320 + 32 * 2 ^ 352))] })] }, 0#1, 1#3, 1#3, 2#4, { tGroup 0x00090009#32 with tiles := [(1, { word := 0x1000, members := [wgKey 0 0] })], s := [] }, tSplit, _, _, _, _, _, ready_of (by decide), rfl, rfl, inr_of (by decide), inr_of (by decide), by decide, some_of (by decide)⟩,
  ⟨tState (tGroup 0x000A0004#32) 0, 0#1, 1#3, (tGroup 0x000A0004#32), tSplit, ready_of (by decide), by decide⟩,
  ⟨tState (tGroup 0x000A0004#32) 0, 0#1, (tGroup 0x000A0004#32), tSplit, ready_of (by decide), by decide⟩⟩

/-- States and operands that meet the hypotheses of AccessArithmeticCompletes, clauses 1, 15, 16 (clauses of one shape share one). -/
theorem witness_AccessArithmeticCompletes :
  (∃ (st : State) (m : BitVec 1) (d : BitVec 5) (a : BitVec 5) (b : BitVec 5) (grp : Group), ReadyA st m { legal := true } grp) ∧
  (∃ (st : State) (m : BitVec 1) (d : BitVec 5) (a : BitVec 5) (i : BitVec 14) (grp : Group), ReadyA st m { legal := true } grp) ∧
  (∃ (st : State) (m : BitVec 1) (d : BitVec 5) (l : BitVec 16) (grp : Group), ReadyA st m { legal := true } grp) :=
  ⟨⟨tState (tGroup 0x000A0004#32) 4, 0#1, 1#5, 1#5, 1#5, (tGroup 0x000A0004#32), readyA_of (by decide)⟩,
  ⟨tState (tGroup 0x000A0004#32) 4, 0#1, 1#5, 1#5, 1#14, (tGroup 0x000A0004#32), readyA_of (by decide)⟩,
  ⟨tState (tGroup 0x000A0004#32) 4, 0#1, 1#5, 1#16, (tGroup 0x000A0004#32), readyA_of (by decide)⟩⟩

/-- States and operands that meet the hypotheses of AccessBranchesComplete, clauses 1, 2, 3, 4, 5, 6, 7, 8 (clauses of one shape share one). -/
theorem witness_AccessBranchesComplete_A :
  (∃ (st : State) (m : BitVec 1) (grp : Group), ReadyA st m { legal := true } grp) ∧
  (∃ (st : State) (m : BitVec 1) (p : BitVec 24) (grp : Group), ReadyA st m { legal := true, adv := false } grp ∧ (fun g => decide ((g.apc + 4 * p.signExtend 64).toNat < 2 ^ 52)) (st.accessAtIssue m grp { legal := true, adv := false }) = true) ∧
  (∃ (st : State) (m : BitVec 1) (a : BitVec 5) (b : BitVec 5) (o : BitVec 11) (grp : Group), ReadyA st m { legal := true, adv := false } grp ∧ (fun g => let x := g.getA a.toNat; let y := g.getA b.toNat; !decide (x = y) || decide ((g.apc + 4 * o.signExtend 64).toNat < 2 ^ 52)) (st.accessAtIssue m grp { legal := true, adv := false }) = true) ∧
  (∃ (st : State) (m : BitVec 1) (a : BitVec 5) (b : BitVec 5) (o : BitVec 11) (grp : Group), ReadyA st m { legal := true, adv := false } grp ∧ (fun g => let x := g.getA a.toNat; let y := g.getA b.toNat; !decide (x ≠ y) || decide ((g.apc + 4 * o.signExtend 64).toNat < 2 ^ 52)) (st.accessAtIssue m grp { legal := true, adv := false }) = true) ∧
  (∃ (st : State) (m : BitVec 1) (a : BitVec 5) (b : BitVec 5) (o : BitVec 11) (grp : Group), ReadyA st m { legal := true, adv := false } grp ∧ (fun g => let x := g.getA a.toNat; let y := g.getA b.toNat; !decide (x.toInt < y.toInt) || decide ((g.apc + 4 * o.signExtend 64).toNat < 2 ^ 52)) (st.accessAtIssue m grp { legal := true, adv := false }) = true) ∧
  (∃ (st : State) (m : BitVec 1) (a : BitVec 5) (b : BitVec 5) (o : BitVec 11) (grp : Group), ReadyA st m { legal := true, adv := false } grp ∧ (fun g => let x := g.getA a.toNat; let y := g.getA b.toNat; !decide (y.toInt ≤ x.toInt) || decide ((g.apc + 4 * o.signExtend 64).toNat < 2 ^ 52)) (st.accessAtIssue m grp { legal := true, adv := false }) = true) ∧
  (∃ (st : State) (m : BitVec 1) (a : BitVec 5) (b : BitVec 5) (o : BitVec 11) (grp : Group), ReadyA st m { legal := true, adv := false } grp ∧ (fun g => let x := g.getA a.toNat; let y := g.getA b.toNat; !decide (x.toNat < y.toNat) || decide ((g.apc + 4 * o.signExtend 64).toNat < 2 ^ 52)) (st.accessAtIssue m grp { legal := true, adv := false }) = true) ∧
  (∃ (st : State) (m : BitVec 1) (a : BitVec 5) (b : BitVec 5) (o : BitVec 11) (grp : Group), ReadyA st m { legal := true, adv := false } grp ∧ (fun g => let x := g.getA a.toNat; let y := g.getA b.toNat; !decide (y.toNat ≤ x.toNat) || decide ((g.apc + 4 * o.signExtend 64).toNat < 2 ^ 52)) (st.accessAtIssue m grp { legal := true, adv := false }) = true) :=
  ⟨⟨tState (tGroup 0x000A0004#32) 4, 0#1, (tGroup 0x000A0004#32), readyA_of (by decide)⟩,
  ⟨tState (tGroup 0x000A0004#32) 4, 0#1, 1#24, (tGroup 0x000A0004#32), readyA_of (by decide), by decide⟩,
  ⟨tState (tGroup 0x000A0004#32) 4, 0#1, 1#5, 1#5, 1#11, (tGroup 0x000A0004#32), readyA_of (by decide), by decide⟩,
  ⟨tState (tGroup 0x000A0004#32) 4, 0#1, 1#5, 1#5, 1#11, (tGroup 0x000A0004#32), readyA_of (by decide), by decide⟩,
  ⟨tState (tGroup 0x000A0004#32) 4, 0#1, 1#5, 1#5, 1#11, (tGroup 0x000A0004#32), readyA_of (by decide), by decide⟩,
  ⟨tState (tGroup 0x000A0004#32) 4, 0#1, 1#5, 1#5, 1#11, (tGroup 0x000A0004#32), readyA_of (by decide), by decide⟩,
  ⟨tState (tGroup 0x000A0004#32) 4, 0#1, 1#5, 1#5, 1#11, (tGroup 0x000A0004#32), readyA_of (by decide), by decide⟩,
  ⟨tState (tGroup 0x000A0004#32) 4, 0#1, 1#5, 1#5, 1#11, (tGroup 0x000A0004#32), readyA_of (by decide), by decide⟩⟩

/-- States and operands that meet the hypotheses of AccessBranchesComplete, clauses 9, 10, 11, 12, 13, 14, 15, 16 (clauses of one shape share one). -/
theorem witness_AccessBranchesComplete_B :
  (∃ (st : State) (m : BitVec 1) (a : BitVec 5) (q : BitVec 19) (grp : Group), ReadyA st m { legal := decide (a ≠ 0#5), adv := false } grp ∧ (fun g => decide ((g.getA a.toNat) - 1 = 0) || decide ((g.apc + 4 * q.signExtend 64).toNat < 2 ^ 52)) (st.accessAtIssue m grp { legal := decide (a ≠ 0#5), adv := false }) = true) ∧
  (∃ (st : State) (m : BitVec 1) (a : BitVec 5) (grp : Group), ReadyA st m { legal := true, adv := false } grp ∧ (fun g => decide ((g.getA a.toNat).toNat % 4 = 0) && decide ((g.getA a.toNat).toNat < 2 ^ 52)) (st.accessAtIssue m grp { legal := true, adv := false }) = true) ∧
  (∃ (st : State) (m : BitVec 1) (a : BitVec 5) (grp : Group), ReadyA st m { legal := true, adv := false } grp ∧ (fun _ g => (g.getA a.toNat).toNat % 4 ≠ 0) (st.atIssueA m grp { legal := true, adv := false }) (st.accessAtIssue m grp { legal := true, adv := false })) ∧
  (∃ (st : State) (m : BitVec 1) (a : BitVec 5) (v : Word) (grp : Group), ReadyA st m { legal := true, adv := false } grp ∧ (fun _ g => (g.getA a.toNat) = v ∧ v.toNat % 4 = 0 ∧ 2 ^ 52 ≤ v.toNat) (st.atIssueA m grp { legal := true, adv := false }) (st.accessAtIssue m grp { legal := true, adv := false })) ∧
  (∃ (st : State) (m : BitVec 1) (p : BitVec 24) (v : Word) (grp : Group), ReadyA st m { legal := true, adv := false } grp ∧ (fun _ g => g.apc + 4 * p.signExtend 64 = v ∧ 2 ^ 52 ≤ v.toNat) (st.atIssueA m grp { legal := true, adv := false }) (st.accessAtIssue m grp { legal := true, adv := false })) ∧
  (∃ (st : State) (m : BitVec 1) (a : BitVec 5) (b : BitVec 5) (o : BitVec 11) (v : Word) (grp : Group), ReadyA st m { legal := true, adv := false } grp ∧ (fun _ g => (let x := g.getA a.toNat; let y := g.getA b.toNat; x = y) ∧ (g.apc + 4 * o.signExtend 64) = v ∧ 2 ^ 52 ≤ v.toNat) (st.atIssueA m grp { legal := true, adv := false }) (st.accessAtIssue m grp { legal := true, adv := false })) ∧
  (∃ (st : State) (m : BitVec 1) (a : BitVec 5) (b : BitVec 5) (o : BitVec 11) (v : Word) (grp : Group), ReadyA st m { legal := true, adv := false } grp ∧ (fun _ g => (let x := g.getA a.toNat; let y := g.getA b.toNat; x ≠ y) ∧ (g.apc + 4 * o.signExtend 64) = v ∧ 2 ^ 52 ≤ v.toNat) (st.atIssueA m grp { legal := true, adv := false }) (st.accessAtIssue m grp { legal := true, adv := false })) ∧
  (∃ (st : State) (m : BitVec 1) (a : BitVec 5) (b : BitVec 5) (o : BitVec 11) (v : Word) (grp : Group), ReadyA st m { legal := true, adv := false } grp ∧ (fun _ g => (let x := g.getA a.toNat; let y := g.getA b.toNat; x.toInt < y.toInt) ∧ (g.apc + 4 * o.signExtend 64) = v ∧ 2 ^ 52 ≤ v.toNat) (st.atIssueA m grp { legal := true, adv := false }) (st.accessAtIssue m grp { legal := true, adv := false })) :=
  ⟨⟨tState (tGroup 0x000A0004#32) 4, 0#1, 1#5, 1#19, (tGroup 0x000A0004#32), readyA_of (by decide), by decide⟩,
  ⟨tState (tGroup 0x000A0004#32) 4, 0#1, 1#5, (tGroup 0x000A0004#32), readyA_of (by decide), by decide⟩,
  ⟨tState ({ tGroup 0x000A0004#32 with a := [(1, 2#64)] }) 4, 0#1, 1#5, { tGroup 0x000A0004#32 with a := [(1, 2#64)] }, readyA_of (by decide), by decide⟩,
  ⟨tState ({ tGroup 0x000A0004#32 with a := [(1, 0x10000000000000#64)] }) 4, 0#1, 1#5, 0x10000000000000#64, { tGroup 0x000A0004#32 with a := [(1, 0x10000000000000#64)] }, readyA_of (by decide), by decide⟩,
  ⟨tState ({ tGroup 0x000A0004#32 with apc := 0xFFFFFFFFFFFFC#64 }) 4, 0#1, 1#24, 0x10000000000000#64, { tGroup 0x000A0004#32 with apc := 0xFFFFFFFFFFFFC#64 }, readyA_of (by decide), by decide⟩,
  ⟨tState ({ tGroup 0x000A0004#32 with apc := 0xFFFFFFFFFFFFC#64 }) 4, 0#1, 1#5, 2#5, 1#11, 0x10000000000000#64, { tGroup 0x000A0004#32 with apc := 0xFFFFFFFFFFFFC#64 }, readyA_of (by decide), by decide⟩,
  ⟨tState ({ tGroup 0x000A0004#32 with apc := 0xFFFFFFFFFFFFC#64, a := [(1, 2#64)] }) 4, 0#1, 1#5, 2#5, 1#11, 0x10000000000000#64, { tGroup 0x000A0004#32 with apc := 0xFFFFFFFFFFFFC#64, a := [(1, 2#64)] }, readyA_of (by decide), by decide⟩,
  ⟨tState ({ tGroup 0x000A0004#32 with apc := 0xFFFFFFFFFFFFC#64, a := [(2, 2#64)] }) 4, 0#1, 1#5, 2#5, 1#11, 0x10000000000000#64, { tGroup 0x000A0004#32 with apc := 0xFFFFFFFFFFFFC#64, a := [(2, 2#64)] }, readyA_of (by decide), by decide⟩⟩

/-- States and operands that meet the hypotheses of AccessBranchesComplete, clauses 17, 18, 19, 20 (clauses of one shape share one). -/
theorem witness_AccessBranchesComplete_C :
  (∃ (st : State) (m : BitVec 1) (a : BitVec 5) (b : BitVec 5) (o : BitVec 11) (v : Word) (grp : Group), ReadyA st m { legal := true, adv := false } grp ∧ (fun _ g => (let x := g.getA a.toNat; let y := g.getA b.toNat; y.toInt ≤ x.toInt) ∧ (g.apc + 4 * o.signExtend 64) = v ∧ 2 ^ 52 ≤ v.toNat) (st.atIssueA m grp { legal := true, adv := false }) (st.accessAtIssue m grp { legal := true, adv := false })) ∧
  (∃ (st : State) (m : BitVec 1) (a : BitVec 5) (b : BitVec 5) (o : BitVec 11) (v : Word) (grp : Group), ReadyA st m { legal := true, adv := false } grp ∧ (fun _ g => (let x := g.getA a.toNat; let y := g.getA b.toNat; x.toNat < y.toNat) ∧ (g.apc + 4 * o.signExtend 64) = v ∧ 2 ^ 52 ≤ v.toNat) (st.atIssueA m grp { legal := true, adv := false }) (st.accessAtIssue m grp { legal := true, adv := false })) ∧
  (∃ (st : State) (m : BitVec 1) (a : BitVec 5) (b : BitVec 5) (o : BitVec 11) (v : Word) (grp : Group), ReadyA st m { legal := true, adv := false } grp ∧ (fun _ g => (let x := g.getA a.toNat; let y := g.getA b.toNat; y.toNat ≤ x.toNat) ∧ (g.apc + 4 * o.signExtend 64) = v ∧ 2 ^ 52 ≤ v.toNat) (st.atIssueA m grp { legal := true, adv := false }) (st.accessAtIssue m grp { legal := true, adv := false })) ∧
  (∃ (st : State) (m : BitVec 1) (a : BitVec 5) (q : BitVec 19) (v : Word) (grp : Group), ReadyA st m { legal := decide (a ≠ 0#5), adv := false } grp ∧ (fun _ g => (g.getA a.toNat) - 1 ≠ 0 ∧ g.apc + 4 * q.signExtend 64 = v ∧ 2 ^ 52 ≤ v.toNat) (st.atIssueA m grp { legal := decide (a ≠ 0#5), adv := false }) (st.accessAtIssue m grp { legal := decide (a ≠ 0#5), adv := false })) :=
  ⟨⟨tState ({ tGroup 0x000A0004#32 with apc := 0xFFFFFFFFFFFFC#64, a := [(1, 2#64)] }) 4, 0#1, 1#5, 2#5, 1#11, 0x10000000000000#64, { tGroup 0x000A0004#32 with apc := 0xFFFFFFFFFFFFC#64, a := [(1, 2#64)] }, readyA_of (by decide), by decide⟩,
  ⟨tState ({ tGroup 0x000A0004#32 with apc := 0xFFFFFFFFFFFFC#64, a := [(2, 2#64)] }) 4, 0#1, 1#5, 2#5, 1#11, 0x10000000000000#64, { tGroup 0x000A0004#32 with apc := 0xFFFFFFFFFFFFC#64, a := [(2, 2#64)] }, readyA_of (by decide), by decide⟩,
  ⟨tState ({ tGroup 0x000A0004#32 with apc := 0xFFFFFFFFFFFFC#64, a := [(1, 2#64)] }) 4, 0#1, 1#5, 2#5, 1#11, 0x10000000000000#64, { tGroup 0x000A0004#32 with apc := 0xFFFFFFFFFFFFC#64, a := [(1, 2#64)] }, readyA_of (by decide), by decide⟩,
  ⟨tState ({ tGroup 0x000A0004#32 with apc := 0xFFFFFFFFFFFFC#64, a := [(1, 2#64)] }) 4, 0#1, 1#5, 1#19, 0x10000000000000#64, { tGroup 0x000A0004#32 with apc := 0xFFFFFFFFFFFFC#64, a := [(1, 2#64)] }, readyA_of (by decide), by decide⟩⟩

/-- States and operands that meet the hypotheses of AccessQueuesAndStateComplete, clauses 1, 3, 5, 6, 7, 8, 9, 10 (clauses of one shape share one). -/
theorem witness_AccessQueuesAndStateComplete_A :
  (∃ (st : State) (m : BitVec 1) (d : BitVec 5) (t : BitVec 5) (grp : Group), ∃ e rest, ReadyA st m { legal := true } grp ∧ (fun _ g => g.xq = e :: rest ∧ e.ready = true ∧ e.poison.getLsbD t.toNat = false) (st.atIssueA m grp { legal := true }) (st.accessAtIssue m grp { legal := true })) ∧
  (∃ (st : State) (m : BitVec 1) (d : BitVec 5) (t : BitVec 5) (grp : Group), ReadyA st m { legal := true } grp ∧ (fun _ g => g.xq = [] ∧ g.cend = true) (st.atIssueA m grp { legal := true }) (st.accessAtIssue m grp { legal := true })) ∧
  (∃ (st : State) (m : BitVec 1) (d : BitVec 5) (a : BitVec 5) (grp : Group), ReadyA st m { legal := decide (d.toNat < 4) } grp ∧ (fun _ g => g.cend = false ∧ (g.getLq d.toNat).length < 2) (st.atIssueA m grp { legal := decide (d.toNat < 4) }) (st.accessAtIssue m grp { legal := decide (d.toNat < 4) })) ∧
  (∃ (st : State) (m : BitVec 1) (d : BitVec 5) (a : BitVec 5) (grp : Group), ReadyA st m { legal := decide (d.toNat < 4) } grp ∧ (fun _ g => g.cend = true) (st.atIssueA m grp { legal := decide (d.toNat < 4) }) (st.accessAtIssue m grp { legal := decide (d.toNat < 4) })) ∧
  (∃ (st : State) (m : BitVec 1) (grp : Group), ReadyA st m { legal := true } grp ∧ (fun x g => g.gi = (x.wgOf g).keeper) (st.atIssueA m grp { legal := true }) (st.accessAtIssue m grp { legal := true })) ∧
  (∃ (st : State) (m : BitVec 1) (grp : Group), ReadyA st m { legal := true } grp ∧ (fun x g => g.gi ≠ (x.wgOf g).keeper) (st.atIssueA m grp { legal := true }) (st.accessAtIssue m grp { legal := true })) ∧
  (∃ (st : State) (m : BitVec 1) (d : BitVec 5) (a : BitVec 5) (i : BitVec 14) (grp : Group), ReadyA st m { legal := decide (d.toNat < 8) } grp) ∧
  (∃ (st : State) (m : BitVec 1) (d : BitVec 5) (i : BitVec 14) (grp : Group), ∃ y v, ReadyA st m { legal := decide (i.toNat ≤ 16), async := true } grp ∧ (fun x g => x.sampleReg x.issuer.group g true i.toNat = some (y, v)) (st.atIssueA m grp { legal := decide (i.toNat ≤ 16), async := true }) (st.accessAtIssue m grp { legal := decide (i.toNat ≤ 16), async := true })) :=
  ⟨⟨tState ({ tGroup 0x000A0004#32 with xq := [{ data := 7 }] }) 4, 0#1, 1#5, 1#5, { tGroup 0x000A0004#32 with xq := [{ data := 7 }] }, { data := 7 }, [], readyA_of (by decide), by decide⟩,
  ⟨tState ({ tGroup 0x000A0004#32 with splits := [], exited := 0xFFFFFFFF#32 }) 4, 0#1, 1#5, 1#5, { tGroup 0x000A0004#32 with splits := [], exited := 0xFFFFFFFF#32 }, readyA_of (by decide), by decide⟩,
  ⟨tState (tGroup 0x000A0004#32) 4, 0#1, 1#5, 1#5, (tGroup 0x000A0004#32), readyA_of (by decide), by decide⟩,
  ⟨tState ({ tGroup 0x000A0004#32 with splits := [], exited := 0xFFFFFFFF#32 }) 4, 0#1, 1#5, 1#5, { tGroup 0x000A0004#32 with splits := [], exited := 0xFFFFFFFF#32 }, readyA_of (by decide), by decide⟩,
  ⟨tState (tGroup 0x000A0004#32) 4, 0#1, (tGroup 0x000A0004#32), readyA_of (by decide), by decide⟩,
  ⟨tState ({ tGroup 0x000A0004#32 with gi := 1 }) 4, 0#1, { tGroup 0x000A0004#32 with gi := 1 }, readyA_of (by decide), by decide⟩,
  ⟨tState (tGroup 0x000A0004#32) 4, 0#1, 1#5, 1#5, 1#14, (tGroup 0x000A0004#32), readyA_of (by decide)⟩,
  ⟨tState ((tGroup 0x000A0004#32)) 4, 0#1, 1#5, 0#14, (tGroup 0x000A0004#32), _, _, readyA_of (by decide), some_pair (by decide)⟩⟩

/-- States and operands that meet the hypotheses of AccessQueuesAndStateComplete, clause 11 (clauses of one shape share one). -/
theorem witness_AccessQueuesAndStateComplete_B : ∃ (st : State) (m : BitVec 1) (grp : Group), ReadyA st m { legal := true, adv := false } grp :=
  ⟨tState (tGroup 0x000A0004#32) 4, 0#1, (tGroup 0x000A0004#32), readyA_of (by decide)⟩

/-- States and operands that meet the hypotheses of ViewInstructionsComplete, clauses 1, 2, 3, 4, 5, 6, 7 (clauses of one shape share one). -/
theorem witness_ViewInstructionsComplete :
  (∃ (st : State) (m : BitVec 1) (d : BitVec 5) (a : BitVec 5) (grp : Group), ∃ k l, ReadyA st m { legal := true } grp ∧ (fun x g => x.slotBusy g d.toNat = false ∧ (g.getA a.toNat).toNat % 128 = 0 ∧ (g.getA a.toNat).toNat < 2 ^ 52 ∧
        x.checkLines (x.ctxOf g) (.stream x.issuer.group true) 128 .r true false
          [{ va := (g.getA a.toNat).toNat, pa := 0, glob := true, elems := [{ off := 0, pos := 0 }] }] = k ∧ k.trap = none ∧ k.missing = [] ∧ k.good = [l]) (st.atIssueA m grp { legal := true }) (st.accessAtIssue m grp { legal := true })) ∧
  (∃ (st : State) (m : BitVec 1) (d : BitVec 5) (a : BitVec 5) (grp : Group), ReadyA st m { legal := true } grp ∧ (fun x g => x.slotBusy g d.toNat = false ∧ (g.getA a.toNat).toNat % 128 = 0 ∧ (g.getA a.toNat).toNat + 128 ≤ x.spaceBytes g 3) (st.atIssueA m grp { legal := true }) (st.accessAtIssue m grp { legal := true })) ∧
  (∃ (st : State) (m : BitVec 1) (d : BitVec 5) (a : BitVec 5) (grp : Group), ReadyA st m { legal := true } grp ∧ (fun x g => x.slotBusy g d.toNat = false ∧ (g.getA a.toNat).toNat % 128 ≠ 0) (st.atIssueA m grp { legal := true }) (st.accessAtIssue m grp { legal := true })) ∧
  (∃ (st : State) (m : BitVec 1) (d : BitVec 5) (a : BitVec 5) (grp : Group), ReadyA st m { legal := true } grp ∧ (fun x g => x.slotBusy g d.toNat = false ∧ (g.getA a.toNat).toNat % 128 = 0 ∧ x.spaceBytes g 3 < (g.getA a.toNat).toNat + 128) (st.atIssueA m grp { legal := true }) (st.accessAtIssue m grp { legal := true })) ∧
  (∃ (st : State) (m : BitVec 1) (d : BitVec 5) (a : BitVec 5) (f : BitVec 9) (grp : Group), ∃ dv, ReadyA st m { legal := vfieldOk f.toNat } grp ∧ (fun x g => x.slotBusy g d.toNat = false ∧ vsetField ((x.wgOf g).view d.toNat) f.toNat (g.getA a.toNat) = .inr dv ∧ ((f.toNat = 2 ∧ g.getA a.toNat = 0) ∨ viewCheck dv = 0)) (st.atIssueA m grp { legal := vfieldOk f.toNat }) (st.accessAtIssue m grp { legal := vfieldOk f.toNat })) ∧
  (∃ (st : State) (m : BitVec 1) (d : BitVec 5) (a : BitVec 5) (f : BitVec 9) (grp : Group), ∃ dv, ReadyA st m { legal := vfieldOk f.toNat } grp ∧ (fun x g => x.slotBusy g d.toNat = false ∧ vsetField ((x.wgOf g).view d.toNat) f.toNat (g.getA a.toNat) = .inr dv ∧ ¬ (f.toNat = 2 ∧ g.getA a.toNat = 0) ∧ viewCheck dv ≠ 0) (st.atIssueA m grp { legal := vfieldOk f.toNat }) (st.accessAtIssue m grp { legal := vfieldOk f.toNat })) ∧
  (∃ (st : State) (m : BitVec 1) (d : BitVec 5) (b : BitVec 5) (f : BitVec 9) (grp : Group), ReadyA st m { legal := vfieldOk f.toNat && decide (f.toNat ≠ 1) } grp) :=
  ⟨⟨tState ({ tGroup 0x000A0004#32 with a := [(1, 0x20000#64)] }) 4, 0#1, 3#5, 1#5, { tGroup 0x000A0004#32 with a := [(1, 0x20000#64)] }, _, _, readyA_of (by decide), by decide, by decide, by decide, rfl, none_of (by decide), by decide, one_of (by decide)⟩,
  ⟨tState ({ tGroup 0x000A0004#32 with a := [(1, 128#64)] }) 4, 0#1, 3#5, 1#5, { tGroup 0x000A0004#32 with a := [(1, 128#64)] }, readyA_of (by decide), by decide⟩,
  ⟨tState ({ tGroup 0x000A0004#32 with a := [(1, 1#64)] }) 4, 0#1, 3#5, 1#5, { tGroup 0x000A0004#32 with a := [(1, 1#64)] }, readyA_of (by decide), by decide⟩,
  ⟨tState ({ tGroup 0x000A0004#32 with a := [(1, 4096#64)] }) 4, 0#1, 3#5, 1#5, { tGroup 0x000A0004#32 with a := [(1, 4096#64)] }, readyA_of (by decide), by decide⟩,
  ⟨tState ((tGroup 0x000A0004#32)) 4, 0#1, 0#5, 1#5, 0#9, (tGroup 0x000A0004#32), _, readyA_of (by decide), by decide, inr_of (by decide), by decide⟩,
  ⟨tState ({ tGroup 0x000A0004#32 with a := [(1, 1#64)] }) 4, 0#1, 0#5, 1#5, 0#9, { tGroup 0x000A0004#32 with a := [(1, 1#64)] }, _, readyA_of (by decide), by decide, inr_of (by decide), by decide, by decide⟩,
  ⟨tState ((tGroup 0x000A0004#32)) 4, 0#1, 1#5, 1#5, 0#9, (tGroup 0x000A0004#32), readyA_of (by decide)⟩⟩

/-- States and operands that meet the hypotheses of LoadsAndPrefetchIssue, clauses 1, 2, 3, 4 (clauses of one shape share one). -/
theorem witness_LoadsAndPrefetchIssue :
  (∃ (st : State) (m : BitVec 1) (q : BitVec 3) (v : BitVec 5) (a : BitVec 5) (d : BitVec 3) (g : BitVec 3) (e : BitVec 1) (c : BitVec 2) (grp : Group), ∃ dv hits oob y, ReadyA st m { legal := decide (q.toNat < 4) && guardOk g e } grp ∧ (fun x gr => (x.wgOf gr).checkedView v.toNat a.toNat = .inr dv ∧ x.reach gr dv (wholeTile dv (gr.coords dv a.toNat)) = .ok hits oob ∧ (e = 1#1 ∨ gr.lqFull (some q.toNat) = false) ∧
        x.accessIssued x.issuer.group gr (mkAccess gr dv (amOf v a d g e c) .load (some q.toNat) 0 (x.viewLines x.issuer.group gr dv (accClass dv (amOf v a d g e c).cls) hits)) id false oob y) (st.atIssueA m grp { legal := decide (q.toNat < 4) && guardOk g e }) (st.accessAtIssue m grp { legal := decide (q.toNat < 4) && guardOk g e })) ∧
  (∃ (st : State) (m : BitVec 1) (v : BitVec 5) (a : BitVec 5) (d : BitVec 3) (g : BitVec 3) (e : BitVec 1) (c : BitVec 2) (grp : Group), ∃ dv y, ReadyA st m { legal := guardOk g e } grp ∧ (fun x gr => (x.wgOf gr).checkedView v.toNat a.toNat = .inr dv ∧
        x.accessIssued x.issuer.group gr (mkAccess gr dv (amOf v a d g e c) .pref none 0 (x.viewLines x.issuer.group gr dv (accClass dv (amOf v a d g e c).cls) (prefHits dv (wholeTile dv (gr.coords dv a.toNat))))) id false
          (!vStrict dv && (wholeTile dv (gr.coords dv a.toNat)).any fun p => (oobDim dv p.coord).isSome) y) (st.atIssueA m grp { legal := guardOk g e }) (st.accessAtIssue m grp { legal := guardOk g e })) ∧
  (∃ (st : State) (m : BitVec 1) (q : BitVec 3) (v : BitVec 5) (a : BitVec 5) (d : BitVec 3) (g : BitVec 3) (e : BitVec 1) (c : BitVec 2) (grp : Group), ∃ dv hits oob y, ReadyA st m { legal := decide (q.toNat < 4) && guardOk g e } grp ∧ (fun x gr => (x.wgOf gr).checkedView v.toNat a.toNat = .inr dv ∧ emptyQ gr gr.xq 1 x = none ∧
        x.reach gr dv (gatherParts dv (gr.coords dv a.toNat) (gr.xq.headD {}).data (gr.xq.headD {}).threadOn fun _ => 0) = .ok hits oob ∧ (e = 1#1 ∨ gr.lqFull (some q.toNat) = false) ∧
        x.accessIssued x.issuer.group gr (mkAccess gr dv (amOf v a d g e c) .gather (some q.toNat) 0 (x.viewLines x.issuer.group gr dv (accClass dv (amOf v a d g e c).cls) hits)) (fun q => { q with xq := q.xq.drop 1 }) false oob y) (st.atIssueA m grp { legal := decide (q.toNat < 4) && guardOk g e }) (st.accessAtIssue m grp { legal := decide (q.toNat < 4) && guardOk g e })) ∧
  (∃ (st : State) (m : BitVec 1) (v : BitVec 5) (a : BitVec 5) (d : BitVec 3) (g : BitVec 3) (e : BitVec 1) (w : BitVec 1) (c : BitVec 2) (grp : Group), ∃ dv hits oob y, ReadyA st m { legal := decide (a ≠ 0#5) && guardOk g e, async := true } grp ∧ (fun x gr => (x.wgOf gr).checkedView v.toNat a.toNat = .inr dv ∧ x.reach gr dv (onePart gr dv a.toNat 0 0) = .ok hits oob ∧
        x.accessIssued x.issuer.group gr (mkAccess gr dv (amOf v a d g e c) (.lda (w == 1#1)) none a.toNat (x.viewLines x.issuer.group gr dv (accClass dv (amOf v a d g e c).cls) hits)) id true oob y) (st.atIssueA m grp { legal := decide (a ≠ 0#5) && guardOk g e, async := true }) (st.accessAtIssue m grp { legal := decide (a ≠ 0#5) && guardOk g e, async := true })) :=
  ⟨⟨tState ((tGroup 0x000A0004#32)) 4, 0#1, 1#3, 0#5, 1#5, 0#3, 0#3, 0#1, 0#2, (tGroup 0x000A0004#32), _, _, _, _, readyA_of (by decide), inr_of (by decide), reach_of (by decide), by decide, issued_of (by decide) (by decide)⟩,
  ⟨tState ((tGroup 0x000A0004#32)) 4, 0#1, 0#5, 1#5, 0#3, 0#3, 0#1, 0#2, (tGroup 0x000A0004#32), _, _, readyA_of (by decide), inr_of (by decide), issued_of (by decide) (by decide)⟩,
  ⟨tState ({ tGroup 0x000A0004#32 with xq := [{ data := 0, en := BitVec.allOnes 256 }] }) 4, 0#1, 1#3, 0#5, 1#5, 0#3, 0#3, 0#1, 0#2, { tGroup 0x000A0004#32 with xq := [{ data := 0, en := BitVec.allOnes 256 }] }, _, _, _, _, readyA_of (by decide), inr_of (by decide), none_of (by decide), reach_of (by decide), by decide, issued_of (by decide) (by decide)⟩,
  ⟨tState ((tGroup 0x000A0004#32)) 4, 0#1, 0#5, 1#5, 0#3, 0#3, 0#1, 0#1, 0#2, (tGroup 0x000A0004#32), _, _, _, _, readyA_of (by decide), inr_of (by decide), reach_of (by decide), issued_of (by decide) (by decide)⟩⟩

/-- States and operands that meet the hypotheses of StoresIssue, clauses 1, 2, 3, 4, 5, 6 (clauses of one shape share one). -/
theorem witness_StoresIssue :
  (∃ (st : State) (m : BitVec 1) (v : BitVec 5) (a : BitVec 5) (d : BitVec 3) (g : BitVec 3) (e : BitVec 1) (c : BitVec 2) (grp : Group), ∃ dv hits oob y, ReadyA st m { legal := guardOk g e } grp ∧ (fun x gr => (x.wgOf gr).checkedView v.toNat a.toNat = .inr dv ∧ vRonly dv = false ∧ emptyQ gr gr.sq 1 x = none ∧
        x.reach gr dv (tileParts dv (gr.coords dv a.toNat) (sqOn (gr.sq.headD {}) (vEsize dv)) (elemAt (gr.sq.headD {}).data (8 * vEsize dv)) fun _ => 0) = .ok hits oob ∧
        x.accessIssued x.issuer.group gr ({ mkAccess gr dv (amOf v a d g e c) .store none 0 (x.viewLines x.issuer.group gr dv (accClass dv (amOf v a d g e c).cls) hits) with bad := (gr.sq.headD {}).poison }) (fun q => { q with sq := q.sq.drop 1 }) false oob y) (st.atIssueA m grp { legal := guardOk g e }) (st.accessAtIssue m grp { legal := guardOk g e })) ∧
  (∃ (st : State) (m : BitVec 1) (v : BitVec 5) (a : BitVec 5) (d : BitVec 3) (g : BitVec 3) (e : BitVec 1) (c : BitVec 2) (grp : Group), ∃ dv hits oob y, ReadyA st m { legal := guardOk g e } grp ∧ (fun x gr => (x.wgOf gr).checkedView v.toNat a.toNat = .inr dv ∧ vRonly dv = false ∧ emptyQ gr gr.xq 1 x = none ∧ emptyQ gr gr.sq 1 x = none ∧
        x.reach gr dv (gatherParts dv (gr.coords dv a.toNat) (gr.xq.headD {}).data (fun t => (gr.xq.headD {}).threadOn t && (gr.sq.headD {}).threadOn t)
          fun t => (laneAt (gr.sq.headD {}).data t).toNat % 2 ^ (8 * vEsize dv)) = .ok hits oob ∧
        x.accessIssued x.issuer.group gr ({ mkAccess gr dv (amOf v a d g e c) .scatter none 0 (x.viewLines x.issuer.group gr dv (accClass dv (amOf v a d g e c).cls) hits) with bad := (gr.sq.headD {}).poison }) (fun q => { q with xq := q.xq.drop 1, sq := q.sq.drop 1 }) false oob y) (st.atIssueA m grp { legal := guardOk g e }) (st.accessAtIssue m grp { legal := guardOk g e })) ∧
  (∃ (st : State) (m : BitVec 1) (v : BitVec 5) (a : BitVec 5) (d : BitVec 3) (g : BitVec 3) (e : BitVec 1) (c : BitVec 2) (grp : Group), ∃ dv hits oob y, ReadyA st m { legal := guardOk g e } grp ∧ (fun x gr => (x.wgOf gr).checkedView v.toNat a.toNat = .inr dv ∧ a.toNat + vNdim dv ≤ 31 ∧ vRonly dv = false ∧
        x.reach gr dv (onePart gr dv a.toNat ((gr.getA (a.toNat + vNdim dv)).toNat % 2 ^ (8 * vEsize dv)) 0) = .ok hits oob ∧
        x.accessIssued x.issuer.group gr ({ mkAccess gr dv (amOf v a d g e c) .sta none 0 (x.viewLines x.issuer.group gr dv (accClass dv (amOf v a d g e c).cls) hits) with bad := gr.badA (a.toNat + vNdim dv) }) id false oob y) (st.atIssueA m grp { legal := guardOk g e }) (st.accessAtIssue m grp { legal := guardOk g e })) ∧
  (∃ (st : State) (m : BitVec 1) (v : BitVec 5) (a : BitVec 5) (d : BitVec 3) (g : BitVec 3) (e : BitVec 1) (c : BitVec 2) (grp : Group), ∃ dv n, ReadyA st m { legal := guardOk g e } grp ∧ (fun x gr => (x.wgOf gr).checkedView v.toNat a.toNat = .inr dv ∧ vRonly dv = true ∧
        lowByte dv (tileParts dv (gr.coords dv a.toNat) (sqOn (gr.sq.headD {}) (vEsize dv)) (elemAt (gr.sq.headD {}).data (8 * vEsize dv)) fun _ => 0) = n) (st.atIssueA m grp { legal := guardOk g e }) (st.accessAtIssue m grp { legal := guardOk g e })) ∧
  (∃ (st : State) (m : BitVec 1) (v : BitVec 5) (a : BitVec 5) (d : BitVec 3) (g : BitVec 3) (e : BitVec 1) (c : BitVec 2) (grp : Group), ∃ dv n, ReadyA st m { legal := guardOk g e } grp ∧ (fun x gr => (x.wgOf gr).checkedView v.toNat a.toNat = .inr dv ∧ vRonly dv = true ∧
        lowByte dv (gatherParts dv (gr.coords dv a.toNat) (gr.xq.headD {}).data (fun t => (gr.xq.headD {}).threadOn t && (gr.sq.headD {}).threadOn t)
          fun t => (laneAt (gr.sq.headD {}).data t).toNat % 2 ^ (8 * vEsize dv)) = n) (st.atIssueA m grp { legal := guardOk g e }) (st.accessAtIssue m grp { legal := guardOk g e })) ∧
  (∃ (st : State) (m : BitVec 1) (v : BitVec 5) (a : BitVec 5) (d : BitVec 3) (g : BitVec 3) (e : BitVec 1) (c : BitVec 2) (grp : Group), ∃ dv n, ReadyA st m { legal := guardOk g e } grp ∧ (fun x gr => (x.wgOf gr).checkedView v.toNat a.toNat = .inr dv ∧ vRonly dv = true ∧
        lowByte dv (onePart gr dv a.toNat 0 0) = n ∧ a.toNat + vNdim dv ≤ 31) (st.atIssueA m grp { legal := guardOk g e }) (st.accessAtIssue m grp { legal := guardOk g e })) :=
  ⟨⟨tState ({ tGroup 0x000A0004#32 with sq := [{ data := 0, en := BitVec.allOnes 256 }] }) 4, 0#1, 0#5, 1#5, 0#3, 0#3, 0#1, 0#2, { tGroup 0x000A0004#32 with sq := [{ data := 0, en := BitVec.allOnes 256 }] }, _, _, _, _, readyA_of (by decide), inr_of (by decide), by decide, none_of (by decide), reach_of (by decide), issued_of (by decide) (by decide)⟩,
  ⟨tState ({ tGroup 0x000A0004#32 with sq := [{ data := 0, en := BitVec.allOnes 256 }], xq := [{ data := 0, en := BitVec.allOnes 256 }] }) 4, 0#1, 0#5, 1#5, 0#3, 0#3, 0#1, 0#2, { tGroup 0x000A0004#32 with sq := [{ data := 0, en := BitVec.allOnes 256 }], xq := [{ data := 0, en := BitVec.allOnes 256 }] }, _, _, _, _, readyA_of (by decide), inr_of (by decide), by decide, none_of (by decide), none_of (by decide), reach_of (by decide), issued_of (by decide) (by decide)⟩,
  ⟨tState ((tGroup 0x000A0004#32)) 4, 0#1, 0#5, 1#5, 0#3, 0#3, 0#1, 0#2, (tGroup 0x000A0004#32), _, _, _, _, readyA_of (by decide), inr_of (by decide), by decide, by decide, reach_of (by decide), issued_of (by decide) (by decide)⟩,
  ⟨{ tState ({ tGroup 0x000A0004#32 with sq := [{ data := 0, en := BitVec.allOnes 256 }] }) 4 with workgroups := [(wgKey 0 0, { tWg with views := [(0, tView ||| BitVec.ofNat 1024 (2 ^ 98+64*0))] })] }, 0#1, 0#5, 1#5, 0#3, 0#3, 0#1, 0#2, { tGroup 0x000A0004#32 with sq := [{ data := 0, en := BitVec.allOnes 256 }] }, _, _, readyA_of (by decide), inr_of (by decide), by decide, rfl⟩,
  ⟨{ tState ({ tGroup 0x000A0004#32 with sq := [{ data := 0, en := BitVec.allOnes 256 }], xq := [{ data := 0, en := BitVec.allOnes 256 }] }) 4 with workgroups := [(wgKey 0 0, { tWg with views := [(0, tView ||| BitVec.ofNat 1024 (2 ^ 98+64*0))] })] }, 0#1, 0#5, 1#5, 0#3, 0#3, 0#1, 0#2, { tGroup 0x000A0004#32 with sq := [{ data := 0, en := BitVec.allOnes 256 }], xq := [{ data := 0, en := BitVec.allOnes 256 }] }, _, _, readyA_of (by decide), inr_of (by decide), by decide, rfl⟩,
  ⟨{ tState ((tGroup 0x000A0004#32)) 4 with workgroups := [(wgKey 0 0, { tWg with views := [(0, tView ||| BitVec.ofNat 1024 (2 ^ 98+64*0))] })] }, 0#1, 0#5, 1#5, 0#3, 0#3, 0#1, 0#2, (tGroup 0x000A0004#32), _, _, readyA_of (by decide), inr_of (by decide), by decide, rfl, by decide⟩⟩

/-- States and operands that meet the hypotheses of AtomicsIssue, clauses 1, 2, 3, 4, 5, 6, 7, 8 (clauses of one shape share one). -/
theorem witness_AtomicsIssue_A :
  (∃ (st : State) (m : BitVec 1) (q : BitVec 3) (v : BitVec 5) (a : BitVec 5) (o : BitVec 3) (c : BitVec 3) (p : BitVec 5) (grp : Group), ∃ dv hits oob y, ReadyA st m { legal := (decide (q.toNat < 4) || decide (q.toNat = 7)) && decide (o.toNat ≤ 4) && scopeOk c.toNat && atomOpOk p.toNat && !(decide (o.toNat = 4) && decide (c.toNat = 5)) } grp ∧ (fun x gr => bufferedOp (x.ctx (x.ctxOf gr)).det p.toNat = false ∧ (x.wgOf gr).checkedView v.toNat a.toNat = .inr dv ∧ atomSizeOk p.toNat (vEsize dv) = true ∧ vRonly dv = false ∧ emptyQ gr gr.sq (if p.toNat = 12 then 2 else 1) x = none ∧
        x.reach gr dv ((tileParts dv (gr.coords dv a.toNat) (fun _ => true) (elemAt (gr.sq.headD {}).data (8 * vEsize dv)) (elemAt (gr.sq.getD 1 {}).data (8 * vEsize dv))).map fun p =>
          { p with on := sqOn (gr.sq.headD {}) (vEsize dv) p.p }) = .ok hits oob ∧ gr.lqFull (if q.toNat < 4 then some q.toNat else none) = false ∧
        x.accessIssued x.issuer.group gr { mkAccess gr dv { slot := v.toNat, cb := a.toNat, dreg := 0, guard := none, cls := 0 } .atom (if q.toNat < 4 then some q.toNat else none) 0 (x.atomLines x.issuer.group gr dv hits) with op := p.toNat, order := o.toNat, scope := c.toNat, bad := (if (if p.toNat = 12 then 2 else 1) = 2 then (gr.sq.headD {}).poison ||| (gr.sq.getD 1 {}).poison else (gr.sq.headD {}).poison) }
          (fun g => { g with sq := g.sq.drop (if p.toNat = 12 then 2 else 1) }) false oob y) (st.atIssueA m grp { legal := (decide (q.toNat < 4) || decide (q.toNat = 7)) && decide (o.toNat ≤ 4) && scopeOk c.toNat && atomOpOk p.toNat && !(decide (o.toNat = 4) && decide (c.toNat = 5)) }) (st.accessAtIssue m grp { legal := (decide (q.toNat < 4) || decide (q.toNat = 7)) && decide (o.toNat ≤ 4) && scopeOk c.toNat && atomOpOk p.toNat && !(decide (o.toNat = 4) && decide (c.toNat = 5)) })) ∧
  (∃ (st : State) (m : BitVec 1) (q : BitVec 3) (v : BitVec 5) (a : BitVec 5) (o : BitVec 3) (c : BitVec 3) (p : BitVec 5) (grp : Group), ∃ dv hits oob y, ReadyA st m { legal := (decide (q.toNat < 4) || decide (q.toNat = 7)) && decide (o.toNat ≤ 4) && scopeOk c.toNat && atomOpOk p.toNat && !(decide (o.toNat = 4) && decide (c.toNat = 5)) } grp ∧ (fun x gr => bufferedOp (x.ctx (x.ctxOf gr)).det p.toNat = true ∧ q.toNat = 7 ∧ (x.wgOf gr).checkedView v.toNat a.toNat = .inr dv ∧ atomSizeOk p.toNat (vEsize dv) = true ∧ vRonly dv = false ∧ emptyQ gr gr.sq (if p.toNat = 12 then 2 else 1) x = none ∧
        x.reach gr dv ((tileParts dv (gr.coords dv a.toNat) (fun _ => true) (elemAt (gr.sq.headD {}).data (8 * vEsize dv)) (elemAt (gr.sq.getD 1 {}).data (8 * vEsize dv))).map fun p =>
          { p with on := sqOn (gr.sq.headD {}) (vEsize dv) p.p }) = .ok hits oob ∧
        x.bufferAtoms gr.wg (x.ctxOf gr) (x.atomEntries x.issuer.group gr dv p.toNat (hits.filter fun h => h.part.on) fun i => (if (if p.toNat = 12 then 2 else 1) = 2 then (gr.sq.headD {}).poison ||| (gr.sq.getD 1 {}).poison else (gr.sq.headD {}).poison).getLsbD (vEsize dv * i / 8)) = some y) (st.atIssueA m grp { legal := (decide (q.toNat < 4) || decide (q.toNat = 7)) && decide (o.toNat ≤ 4) && scopeOk c.toNat && atomOpOk p.toNat && !(decide (o.toNat = 4) && decide (c.toNat = 5)) }) (st.accessAtIssue m grp { legal := (decide (q.toNat < 4) || decide (q.toNat = 7)) && decide (o.toNat ≤ 4) && scopeOk c.toNat && atomOpOk p.toNat && !(decide (o.toNat = 4) && decide (c.toNat = 5)) })) ∧
  (∃ (st : State) (m : BitVec 1) (q : BitVec 3) (v : BitVec 5) (a : BitVec 5) (o : BitVec 3) (c : BitVec 3) (p : BitVec 5) (grp : Group), ReadyA st m { legal := (decide (q.toNat < 4) || decide (q.toNat = 7)) && decide (o.toNat ≤ 4) && scopeOk c.toNat && atomOpOk p.toNat && !(decide (o.toNat = 4) && decide (c.toNat = 5)) } grp ∧ (fun x gr => bufferedOp (x.ctx (x.ctxOf gr)).det p.toNat = true ∧ q.toNat < 4) (st.atIssueA m grp { legal := (decide (q.toNat < 4) || decide (q.toNat = 7)) && decide (o.toNat ≤ 4) && scopeOk c.toNat && atomOpOk p.toNat && !(decide (o.toNat = 4) && decide (c.toNat = 5)) }) (st.accessAtIssue m grp { legal := (decide (q.toNat < 4) || decide (q.toNat = 7)) && decide (o.toNat ≤ 4) && scopeOk c.toNat && atomOpOk p.toNat && !(decide (o.toNat = 4) && decide (c.toNat = 5)) })) ∧
  (∃ (st : State) (m : BitVec 1) (q : BitVec 3) (v : BitVec 5) (a : BitVec 5) (o : BitVec 3) (c : BitVec 3) (p : BitVec 5) (grp : Group), ∃ dv hits oob, ReadyA st m { legal := (decide (q.toNat < 4) || decide (q.toNat = 7)) && decide (o.toNat ≤ 4) && scopeOk c.toNat && atomOpOk p.toNat && !(decide (o.toNat = 4) && decide (c.toNat = 5)) } grp ∧ (fun x gr => bufferedOp (x.ctx (x.ctxOf gr)).det p.toNat = true ∧ q.toNat = 7 ∧ (x.wgOf gr).checkedView v.toNat a.toNat = .inr dv ∧ atomSizeOk p.toNat (vEsize dv) = true ∧ vRonly dv = false ∧ emptyQ gr gr.sq (if p.toNat = 12 then 2 else 1) x = none ∧
        x.reach gr dv ((tileParts dv (gr.coords dv a.toNat) (fun _ => true) (elemAt (gr.sq.headD {}).data (8 * vEsize dv)) (elemAt (gr.sq.getD 1 {}).data (8 * vEsize dv))).map fun p =>
          { p with on := sqOn (gr.sq.headD {}) (vEsize dv) p.p }) = .ok hits oob ∧
        x.bufferAtoms gr.wg (x.ctxOf gr) (x.atomEntries x.issuer.group gr dv p.toNat (hits.filter fun h => h.part.on) fun i => (if (if p.toNat = 12 then 2 else 1) = 2 then (gr.sq.headD {}).poison ||| (gr.sq.getD 1 {}).poison else (gr.sq.headD {}).poison).getLsbD (vEsize dv * i / 8)) = none) (st.atIssueA m grp { legal := (decide (q.toNat < 4) || decide (q.toNat = 7)) && decide (o.toNat ≤ 4) && scopeOk c.toNat && atomOpOk p.toNat && !(decide (o.toNat = 4) && decide (c.toNat = 5)) }) (st.accessAtIssue m grp { legal := (decide (q.toNat < 4) || decide (q.toNat = 7)) && decide (o.toNat ≤ 4) && scopeOk c.toNat && atomOpOk p.toNat && !(decide (o.toNat = 4) && decide (c.toNat = 5)) })) ∧
  (∃ (st : State) (m : BitVec 1) (q : BitVec 3) (v : BitVec 5) (a : BitVec 5) (o : BitVec 3) (c : BitVec 3) (p : BitVec 5) (grp : Group), ∃ dv, ReadyA st m { legal := (decide (q.toNat < 4) || decide (q.toNat = 7)) && decide (o.toNat ≤ 4) && scopeOk c.toNat && atomOpOk p.toNat && !(decide (o.toNat = 4) && decide (c.toNat = 5)) } grp ∧ (fun x gr => (bufferedOp (x.ctx (x.ctxOf gr)).det p.toNat = false ∨ q.toNat = 7) ∧ (x.wgOf gr).checkedView v.toNat a.toNat = .inr dv ∧ atomSizeOk p.toNat (vEsize dv) = false) (st.atIssueA m grp { legal := (decide (q.toNat < 4) || decide (q.toNat = 7)) && decide (o.toNat ≤ 4) && scopeOk c.toNat && atomOpOk p.toNat && !(decide (o.toNat = 4) && decide (c.toNat = 5)) }) (st.accessAtIssue m grp { legal := (decide (q.toNat < 4) || decide (q.toNat = 7)) && decide (o.toNat ≤ 4) && scopeOk c.toNat && atomOpOk p.toNat && !(decide (o.toNat = 4) && decide (c.toNat = 5)) })) ∧
  (∃ (st : State) (m : BitVec 1) (q : BitVec 3) (v : BitVec 5) (a : BitVec 5) (o : BitVec 3) (c : BitVec 3) (p : BitVec 5) (grp : Group), ∃ dv n, ReadyA st m { legal := (decide (q.toNat < 4) || decide (q.toNat = 7)) && decide (o.toNat ≤ 4) && scopeOk c.toNat && atomOpOk p.toNat && !(decide (o.toNat = 4) && decide (c.toNat = 5)) } grp ∧ (fun x gr => (bufferedOp (x.ctx (x.ctxOf gr)).det p.toNat = false ∨ q.toNat = 7) ∧ (x.wgOf gr).checkedView v.toNat a.toNat = .inr dv ∧ atomSizeOk p.toNat (vEsize dv) = true ∧ vRonly dv = true ∧
        lowByte dv (wholeTile dv (gr.coords dv a.toNat)) = n) (st.atIssueA m grp { legal := (decide (q.toNat < 4) || decide (q.toNat = 7)) && decide (o.toNat ≤ 4) && scopeOk c.toNat && atomOpOk p.toNat && !(decide (o.toNat = 4) && decide (c.toNat = 5)) }) (st.accessAtIssue m grp { legal := (decide (q.toNat < 4) || decide (q.toNat = 7)) && decide (o.toNat ≤ 4) && scopeOk c.toNat && atomOpOk p.toNat && !(decide (o.toNat = 4) && decide (c.toNat = 5)) })) ∧
  (∃ (st : State) (m : BitVec 1) (q : BitVec 3) (v : BitVec 5) (a : BitVec 5) (o : BitVec 3) (c : BitVec 3) (p : BitVec 5) (grp : Group), ∃ dv, ReadyA st m { legal := (decide (q.toNat < 4) || decide (q.toNat = 7)) && decide (o.toNat ≤ 4) && scopeOk c.toNat && atomOpOk p.toNat && !(decide (o.toNat = 4) && decide (c.toNat = 5)) } grp ∧ (fun x gr => (bufferedOp (x.ctx (x.ctxOf gr)).det p.toNat = false ∨ q.toNat = 7) ∧ (x.wgOf gr).checkedView v.toNat a.toNat = .inr dv ∧ atomSizeOk p.toNat (vEsize dv) = true ∧ vRonly dv = false ∧ gr.sq.length < (if p.toNat = 12 then 2 else 1) ∧ gr.cend = true) (st.atIssueA m grp { legal := (decide (q.toNat < 4) || decide (q.toNat = 7)) && decide (o.toNat ≤ 4) && scopeOk c.toNat && atomOpOk p.toNat && !(decide (o.toNat = 4) && decide (c.toNat = 5)) }) (st.accessAtIssue m grp { legal := (decide (q.toNat < 4) || decide (q.toNat = 7)) && decide (o.toNat ≤ 4) && scopeOk c.toNat && atomOpOk p.toNat && !(decide (o.toNat = 4) && decide (c.toNat = 5)) })) ∧
  (∃ (st : State) (m : BitVec 1) (q : BitVec 3) (v : BitVec 5) (a : BitVec 5) (o : BitVec 3) (c : BitVec 3) (p : BitVec 5) (grp : Group), ∃ dv, ReadyA st m { legal := (decide (q.toNat < 4) || decide (q.toNat = 7)) && decide (o.toNat ≤ 4) && scopeOk c.toNat && atomOpOk p.toNat && !(decide (o.toNat = 4) && decide (c.toNat = 5)) } grp ∧ (fun x gr => (bufferedOp (x.ctx (x.ctxOf gr)).det p.toNat = false ∨ q.toNat = 7) ∧ (x.wgOf gr).checkedView v.toNat a.toNat = .inr dv ∧ atomSizeOk p.toNat (vEsize dv) = true ∧ vRonly dv = false ∧ gr.sq.length < (if p.toNat = 12 then 2 else 1) ∧ gr.cend = false) (st.atIssueA m grp { legal := (decide (q.toNat < 4) || decide (q.toNat = 7)) && decide (o.toNat ≤ 4) && scopeOk c.toNat && atomOpOk p.toNat && !(decide (o.toNat = 4) && decide (c.toNat = 5)) }) (st.accessAtIssue m grp { legal := (decide (q.toNat < 4) || decide (q.toNat = 7)) && decide (o.toNat ≤ 4) && scopeOk c.toNat && atomOpOk p.toNat && !(decide (o.toNat = 4) && decide (c.toNat = 5)) })) :=
  ⟨⟨tState ({ tGroup 0x000A0004#32 with sq := [{ data := 0, en := BitVec.allOnes 256 }] }) 4, 0#1, 1#3, 0#5, 1#5, 0#3, 0#3, 0#5, { tGroup 0x000A0004#32 with sq := [{ data := 0, en := BitVec.allOnes 256 }] }, _, _, _, _, readyA_of (by decide), by decide, inr_of (by decide), by decide, by decide, none_of (by decide), reach_of (by decide), by decide, issued_of (by decide) (by decide)⟩,
  ⟨{ tState ({ tGroup 0x000A0004#32 with sq := [{ data := 0, en := BitVec.allOnes 256 }] }) 4 with ctxs := [(0, { troot := 0x10000, det := 1, abuf := 8192 })] }, 0#1, 7#3, 0#5, 1#5, 0#3, 0#3, 1#5, { tGroup 0x000A0004#32 with sq := [{ data := 0, en := BitVec.allOnes 256 }] }, _, _, _, _, readyA_of (by decide), by decide, by decide, inr_of (by decide), by decide, by decide, none_of (by decide), reach_of (by decide), some_of (by decide)⟩,
  ⟨{ tState ((tGroup 0x000A0004#32)) 4 with ctxs := [(0, { troot := 0x10000, det := 1, abuf := 8192 })] }, 0#1, 1#3, 0#5, 1#5, 0#3, 0#3, 1#5, (tGroup 0x000A0004#32), readyA_of (by decide), by decide⟩,
  ⟨{ tState ({ tGroup 0x000A0004#32 with sq := [{ data := 0, en := BitVec.allOnes 256 }] }) 4 with ctxs := [(0, { troot := 0x10000, det := 1, abuf := 0 })] }, 0#1, 7#3, 0#5, 1#5, 0#3, 0#3, 1#5, { tGroup 0x000A0004#32 with sq := [{ data := 0, en := BitVec.allOnes 256 }] }, _, _, _, readyA_of (by decide), by decide, by decide, inr_of (by decide), by decide, by decide, none_of (by decide), reach_of (by decide), none_of (by decide)⟩,
  ⟨{ tState ({ tGroup 0x000A0004#32 with sq := [{ data := 0, en := BitVec.allOnes 256 }] }) 4 with workgroups := [(wgKey 0 0, { tWg with views := [(0, BitVec.ofNat 1024 (0x10000B893 * 2 ^ 64 + 32 * 2 ^ 256 + 2 ^ 288))] })] }, 0#1, 1#3, 0#5, 1#5, 0#3, 0#3, 1#5, { tGroup 0x000A0004#32 with sq := [{ data := 0, en := BitVec.allOnes 256 }] }, _, readyA_of (by decide), Or.inl (by decide), inr_of (by decide), by decide⟩,
  ⟨{ tState ({ tGroup 0x000A0004#32 with sq := [{ data := 0, en := BitVec.allOnes 256 }] }) 4 with workgroups := [(wgKey 0 0, { tWg with views := [(0, tView ||| BitVec.ofNat 1024 (2 ^ 98+64*0))] })] }, 0#1, 1#3, 0#5, 1#5, 0#3, 0#3, 0#5, { tGroup 0x000A0004#32 with sq := [{ data := 0, en := BitVec.allOnes 256 }] }, _, _, readyA_of (by decide), Or.inl (by decide), inr_of (by decide), by decide, by decide, rfl⟩,
  ⟨tState ({ tGroup 0x000A0004#32 with splits := [], exited := 0xFFFFFFFF#32 }) 4, 0#1, 1#3, 0#5, 1#5, 0#3, 0#3, 0#5, { tGroup 0x000A0004#32 with splits := [], exited := 0xFFFFFFFF#32 }, _, readyA_of (by decide), Or.inl (by decide), inr_of (by decide), by decide, by decide, by decide, by decide⟩,
  ⟨tState ((tGroup 0x000A0004#32)) 4, 0#1, 1#3, 0#5, 1#5, 0#3, 0#3, 0#5, (tGroup 0x000A0004#32), _, readyA_of (by decide), Or.inl (by decide), inr_of (by decide), by decide, by decide, by decide, by decide⟩⟩

/-- States and operands that meet the hypotheses of AtomicsIssue, clauses 9, 10, 11, 12, 13, 14 (clauses of one shape share one). -/
theorem witness_AtomicsIssue_B :
  (∃ (st : State) (m : BitVec 1) (q : BitVec 3) (v : BitVec 5) (a : BitVec 5) (o : BitVec 3) (c : BitVec 3) (p : BitVec 5) (grp : Group), ∃ dv hits oob, ReadyA st m { legal := (decide (q.toNat < 4) || decide (q.toNat = 7)) && decide (o.toNat ≤ 4) && scopeOk c.toNat && atomOpOk p.toNat && !(decide (o.toNat = 4) && decide (c.toNat = 5)) } grp ∧ (fun x gr => bufferedOp (x.ctx (x.ctxOf gr)).det p.toNat = false ∧ (x.wgOf gr).checkedView v.toNat a.toNat = .inr dv ∧ atomSizeOk p.toNat (vEsize dv) = true ∧ vRonly dv = false ∧ emptyQ gr gr.sq (if p.toNat = 12 then 2 else 1) x = none ∧
        x.reach gr dv ((tileParts dv (gr.coords dv a.toNat) (fun _ => true) (elemAt (gr.sq.headD {}).data (8 * vEsize dv)) (elemAt (gr.sq.getD 1 {}).data (8 * vEsize dv))).map fun p =>
          { p with on := sqOn (gr.sq.headD {}) (vEsize dv) p.p }) = .ok hits oob ∧ gr.lqFull (if q.toNat < 4 then some q.toNat else none) = true) (st.atIssueA m grp { legal := (decide (q.toNat < 4) || decide (q.toNat = 7)) && decide (o.toNat ≤ 4) && scopeOk c.toNat && atomOpOk p.toNat && !(decide (o.toNat = 4) && decide (c.toNat = 5)) }) (st.accessAtIssue m grp { legal := (decide (q.toNat < 4) || decide (q.toNat = 7)) && decide (o.toNat ≤ 4) && scopeOk c.toNat && atomOpOk p.toNat && !(decide (o.toNat = 4) && decide (c.toNat = 5)) })) ∧
  (∃ (st : State) (m : BitVec 1) (v : BitVec 5) (a : BitVec 5) (d : BitVec 5) (c : BitVec 3) (p4 : BitVec 4) (o2 : BitVec 2) (grp : Group), ∃ dv hits oob y, ReadyA st m { legal := scopeOk c.toNat && atomOpOk p4.toNat && !(decide (p4.toNat = 12) && decide (d.toNat = 31)), async := true } grp ∧ (fun x gr => bufferedOp (x.ctx (x.ctxOf gr)).det p4.toNat = false ∧ (x.wgOf gr).checkedView v.toNat a.toNat = .inr dv ∧ atomSizeOk p4.toNat (vEsize dv) = true ∧ vRonly dv = false ∧ x.reach gr dv (onePart gr dv a.toNat ((gr.getA d.toNat).toNat % 2 ^ (8 * vEsize dv)) ((gr.getA (d.toNat + 1)).toNat % 2 ^ (8 * vEsize dv))) = .ok hits oob ∧
        x.accessIssued x.issuer.group gr { mkAccess gr dv { slot := v.toNat, cb := a.toNat, dreg := 0, guard := none, cls := 0 } .atoma none d.toNat (x.atomLines x.issuer.group gr dv hits) with op := p4.toNat, order := o2.toNat, scope := c.toNat, bad := (gr.badA d.toNat ||| if p4.toNat = 12 then gr.badA (d.toNat + 1) else 0#32) }
          id true oob y) (st.atIssueA m grp { legal := scopeOk c.toNat && atomOpOk p4.toNat && !(decide (p4.toNat = 12) && decide (d.toNat = 31)), async := true }) (st.accessAtIssue m grp { legal := scopeOk c.toNat && atomOpOk p4.toNat && !(decide (p4.toNat = 12) && decide (d.toNat = 31)), async := true })) ∧
  (∃ (st : State) (m : BitVec 1) (v : BitVec 5) (a : BitVec 5) (d : BitVec 5) (c : BitVec 3) (p4 : BitVec 4) (o2 : BitVec 2) (grp : Group), ∃ dv hits oob y, ReadyA st m { legal := scopeOk c.toNat && atomOpOk p4.toNat && !(decide (p4.toNat = 12) && decide (d.toNat = 31)), async := true } grp ∧ (fun x gr => bufferedOp (x.ctx (x.ctxOf gr)).det p4.toNat = true ∧ (x.wgOf gr).checkedView v.toNat a.toNat = .inr dv ∧ atomSizeOk p4.toNat (vEsize dv) = true ∧ vRonly dv = false ∧ x.reach gr dv (onePart gr dv a.toNat ((gr.getA d.toNat).toNat % 2 ^ (8 * vEsize dv)) ((gr.getA (d.toNat + 1)).toNat % 2 ^ (8 * vEsize dv))) = .ok hits oob ∧ x.bufferAtoms gr.wg (x.ctxOf gr) (x.atomEntries x.issuer.group gr dv p4.toNat hits fun _ => (gr.badA d.toNat ||| if p4.toNat = 12 then gr.badA (d.toNat + 1) else 0#32) ≠ 0#32) = some y) (st.atIssueA m grp { legal := scopeOk c.toNat && atomOpOk p4.toNat && !(decide (p4.toNat = 12) && decide (d.toNat = 31)), async := true }) (st.accessAtIssue m grp { legal := scopeOk c.toNat && atomOpOk p4.toNat && !(decide (p4.toNat = 12) && decide (d.toNat = 31)), async := true })) ∧
  (∃ (st : State) (m : BitVec 1) (v : BitVec 5) (a : BitVec 5) (d : BitVec 5) (c : BitVec 3) (p4 : BitVec 4) (o2 : BitVec 2) (grp : Group), ∃ dv hits oob, ReadyA st m { legal := scopeOk c.toNat && atomOpOk p4.toNat && !(decide (p4.toNat = 12) && decide (d.toNat = 31)), async := true } grp ∧ (fun x gr => bufferedOp (x.ctx (x.ctxOf gr)).det p4.toNat = true ∧ (x.wgOf gr).checkedView v.toNat a.toNat = .inr dv ∧ atomSizeOk p4.toNat (vEsize dv) = true ∧ vRonly dv = false ∧ x.reach gr dv (onePart gr dv a.toNat ((gr.getA d.toNat).toNat % 2 ^ (8 * vEsize dv)) ((gr.getA (d.toNat + 1)).toNat % 2 ^ (8 * vEsize dv))) = .ok hits oob ∧ x.bufferAtoms gr.wg (x.ctxOf gr) (x.atomEntries x.issuer.group gr dv p4.toNat hits fun _ => (gr.badA d.toNat ||| if p4.toNat = 12 then gr.badA (d.toNat + 1) else 0#32) ≠ 0#32) = none) (st.atIssueA m grp { legal := scopeOk c.toNat && atomOpOk p4.toNat && !(decide (p4.toNat = 12) && decide (d.toNat = 31)), async := true }) (st.accessAtIssue m grp { legal := scopeOk c.toNat && atomOpOk p4.toNat && !(decide (p4.toNat = 12) && decide (d.toNat = 31)), async := true })) ∧
  (∃ (st : State) (m : BitVec 1) (v : BitVec 5) (a : BitVec 5) (d : BitVec 5) (c : BitVec 3) (p4 : BitVec 4) (o2 : BitVec 2) (grp : Group), ∃ dv, ReadyA st m { legal := scopeOk c.toNat && atomOpOk p4.toNat && !(decide (p4.toNat = 12) && decide (d.toNat = 31)), async := true } grp ∧ (fun x gr => (x.wgOf gr).checkedView v.toNat a.toNat = .inr dv ∧ atomSizeOk p4.toNat (vEsize dv) = false) (st.atIssueA m grp { legal := scopeOk c.toNat && atomOpOk p4.toNat && !(decide (p4.toNat = 12) && decide (d.toNat = 31)), async := true }) (st.accessAtIssue m grp { legal := scopeOk c.toNat && atomOpOk p4.toNat && !(decide (p4.toNat = 12) && decide (d.toNat = 31)), async := true })) ∧
  (∃ (st : State) (m : BitVec 1) (v : BitVec 5) (a : BitVec 5) (d : BitVec 5) (c : BitVec 3) (p4 : BitVec 4) (o2 : BitVec 2) (grp : Group), ∃ dv n, ReadyA st m { legal := scopeOk c.toNat && atomOpOk p4.toNat && !(decide (p4.toNat = 12) && decide (d.toNat = 31)), async := true } grp ∧ (fun x gr => (x.wgOf gr).checkedView v.toNat a.toNat = .inr dv ∧ atomSizeOk p4.toNat (vEsize dv) = true ∧ vRonly dv = true ∧ lowByte dv (onePart gr dv a.toNat 0 0) = n) (st.atIssueA m grp { legal := scopeOk c.toNat && atomOpOk p4.toNat && !(decide (p4.toNat = 12) && decide (d.toNat = 31)), async := true }) (st.accessAtIssue m grp { legal := scopeOk c.toNat && atomOpOk p4.toNat && !(decide (p4.toNat = 12) && decide (d.toNat = 31)), async := true })) :=
  ⟨⟨tState ({ tGroup 0x000A0004#32 with sq := [{ data := 0, en := BitVec.allOnes 256 }], lq := [(1, [{ data := 0 }, { data := 0 }])] }) 4, 0#1, 1#3, 0#5, 1#5, 0#3, 0#3, 0#5, { tGroup 0x000A0004#32 with sq := [{ data := 0, en := BitVec.allOnes 256 }], lq := [(1, [{ data := 0 }, { data := 0 }])] }, _, _, _, readyA_of (by decide), by decide, inr_of (by decide), by decide, by decide, none_of (by decide), reach_of (by decide), by decide⟩,
  ⟨tState ((tGroup 0x000A0004#32)) 4, 0#1, 0#5, 1#5, 3#5, 0#3, 0#4, 0#2, (tGroup 0x000A0004#32), _, _, _, _, readyA_of (by decide), by decide, inr_of (by decide), by decide, by decide, reach_of (by decide), issued_of (by decide) (by decide)⟩,
  ⟨{ tState ((tGroup 0x000A0004#32)) 4 with ctxs := [(0, { troot := 0x10000, det := 1, abuf := 8192 })] }, 0#1, 0#5, 1#5, 3#5, 0#3, 1#4, 0#2, (tGroup 0x000A0004#32), _, _, _, _, readyA_of (by decide), by decide, inr_of (by decide), by decide, by decide, reach_of (by decide), some_of (by decide)⟩,
  ⟨{ tState ((tGroup 0x000A0004#32)) 4 with ctxs := [(0, { troot := 0x10000, det := 1, abuf := 0 })] }, 0#1, 0#5, 1#5, 3#5, 0#3, 1#4, 0#2, (tGroup 0x000A0004#32), _, _, _, readyA_of (by decide), by decide, inr_of (by decide), by decide, by decide, reach_of (by decide), none_of (by decide)⟩,
  ⟨{ tState ((tGroup 0x000A0004#32)) 4 with workgroups := [(wgKey 0 0, { tWg with views := [(0, BitVec.ofNat 1024 (0x10000B893 * 2 ^ 64 + 32 * 2 ^ 256 + 2 ^ 288))] })] }, 0#1, 0#5, 1#5, 3#5, 0#3, 1#4, 0#2, (tGroup 0x000A0004#32), _, readyA_of (by decide), inr_of (by decide), by decide⟩,
  ⟨{ tState ((tGroup 0x000A0004#32)) 4 with workgroups := [(wgKey 0 0, { tWg with views := [(0, tView ||| BitVec.ofNat 1024 (2 ^ 98+64*0))] })] }, 0#1, 0#5, 1#5, 3#5, 0#3, 0#4, 0#2, (tGroup 0x000A0004#32), _, _, readyA_of (by decide), inr_of (by decide), by decide, by decide, rfl⟩⟩

/-- States and operands that meet the hypotheses of CounterInstructionsComplete, clauses 1, 4, 5, 6, 7, 8, 9, 10 (clauses of one shape share one). -/
theorem witness_CounterInstructionsComplete_A :
  (∃ (st : State) (m : BitVec 1) (a : BitVec 5) (b : BitVec 5) (grp : Group), ∃ k, ReadyA st m { legal := true } grp ∧ (fun x g => x.counterAt x.issuer.group g (g.getA a.toNat) = .inr k) (st.atIssueA m grp { legal := true }) (st.accessAtIssue m grp { legal := true })) ∧
  (∃ (st : State) (m : BitVec 1) (d : BitVec 5) (a : BitVec 5) (grp : Group), ∃ k y v, ReadyA st m { legal := true, async := true } grp ∧ (fun x g => x.counterAt x.issuer.group g (g.getA a.toNat) = .inr k ∧ x.cdc (x.ctxOf g) x.issuer.group true g.icntA 5 (x.read (k + 0) 8) = some (y, v)) (st.atIssueA m grp { legal := true, async := true }) (st.accessAtIssue m grp { legal := true, async := true })) ∧
  (∃ (st : State) (m : BitVec 1) (d : BitVec 5) (a : BitVec 5) (grp : Group), ∃ k y v, ReadyA st m { legal := true, async := true } grp ∧ (fun x g => x.counterAt x.issuer.group g (g.getA a.toNat) = .inr k ∧ x.cdc (x.ctxOf g) x.issuer.group true g.icntA 6 (x.read (k + 8) 8) = some (y, v)) (st.atIssueA m grp { legal := true, async := true }) (st.accessAtIssue m grp { legal := true, async := true })) ∧
  (∃ (st : State) (m : BitVec 1) (a : BitVec 5) (b : BitVec 5) (grp : Group), ∃ k, ReadyA st m { legal := true, adv := false } grp ∧ (fun x g => x.counterAt x.issuer.group g (g.getA a.toNat) = .inr k ∧ x.reached k false (g.getA b.toNat).toNat = true) (st.atIssueA m grp { legal := true, adv := false }) (st.accessAtIssue m grp { legal := true, adv := false })) ∧
  (∃ (st : State) (m : BitVec 1) (a : BitVec 5) (b : BitVec 5) (grp : Group), ∃ k, ReadyA st m { legal := true, adv := false } grp ∧ (fun x g => x.counterAt x.issuer.group g (g.getA a.toNat) = .inr k ∧ x.reached k false (g.getA b.toNat).toNat = false) (st.atIssueA m grp { legal := true, adv := false }) (st.accessAtIssue m grp { legal := true, adv := false })) ∧
  (∃ (st : State) (m : BitVec 1) (a : BitVec 5) (grp : Group), ∃ k, ReadyA st m { legal := true, adv := false } grp ∧ (fun x g => x.counterAt x.issuer.group g (g.getA a.toNat) = .inr k ∧ x.reached k true 0 = true) (st.atIssueA m grp { legal := true, adv := false }) (st.accessAtIssue m grp { legal := true, adv := false })) ∧
  (∃ (st : State) (m : BitVec 1) (a : BitVec 5) (grp : Group), ∃ k, ReadyA st m { legal := true, adv := false } grp ∧ (fun x g => x.counterAt x.issuer.group g (g.getA a.toNat) = .inr k ∧ x.reached k true 0 = false) (st.atIssueA m grp { legal := true, adv := false }) (st.accessAtIssue m grp { legal := true, adv := false })) ∧
  (∃ (st : State) (m : BitVec 1) (a : BitVec 5) (b : BitVec 5) (grp : Group), ReadyA st m { legal := true } grp ∧ (fun _ g => ¬ ((g.getA a.toNat).toNat < 2 ^ 32 ∧ (bits (g.getA a.toNat).toNat 31 29 = 2 ∨ bits (g.getA a.toNat).toNat 31 29 = 3))) (st.atIssueA m grp { legal := true }) (st.accessAtIssue m grp { legal := true })) :=
  ⟨⟨tState ({ tGroup 0x000A0004#32 with a := [(1, 0x60000000#64), (2, 1#64)] }) 4, 0#1, 1#5, 2#5, { tGroup 0x000A0004#32 with a := [(1, 0x60000000#64), (2, 1#64)] }, _, readyA_of (by decide), inr_of (by decide)⟩,
  ⟨tState ({ tGroup 0x000A0004#32 with a := [(1, 0x60000000#64), (2, 1#64)] }) 4, 0#1, 3#5, 1#5, { tGroup 0x000A0004#32 with a := [(1, 0x60000000#64), (2, 1#64)] }, _, _, _, readyA_of (by decide), inr_of (by decide), some_pair (by decide)⟩,
  ⟨tState ({ tGroup 0x000A0004#32 with a := [(1, 0x60000000#64), (2, 1#64)] }) 4, 0#1, 3#5, 1#5, { tGroup 0x000A0004#32 with a := [(1, 0x60000000#64), (2, 1#64)] }, _, _, _, readyA_of (by decide), inr_of (by decide), some_pair (by decide)⟩,
  ⟨tState ({ tGroup 0x000A0004#32 with a := [(1, 0x60000000#64), (2, 0#64)] }) 4, 0#1, 1#5, 2#5, { tGroup 0x000A0004#32 with a := [(1, 0x60000000#64), (2, 0#64)] }, _, readyA_of (by decide), inr_of (by decide), by decide⟩,
  ⟨tState ({ tGroup 0x000A0004#32 with a := [(1, 0x60000000#64), (2, 5#64)] }) 4, 0#1, 1#5, 2#5, { tGroup 0x000A0004#32 with a := [(1, 0x60000000#64), (2, 5#64)] }, _, readyA_of (by decide), inr_of (by decide), by decide⟩,
  ⟨tState ({ tGroup 0x000A0004#32 with a := [(1, 0x60000000#64), (2, 0#64)] }) 4, 0#1, 1#5, { tGroup 0x000A0004#32 with a := [(1, 0x60000000#64), (2, 0#64)] }, _, readyA_of (by decide), inr_of (by decide), by decide⟩,
  ⟨(let u := tState ({ tGroup 0x000A0004#32 with a := [(1, 0x60000000#64), (2, 0#64)] }) 4; { u with mem := u.mem.write (rightOf (u.counterAt 0 (tGroup 0x000A0004#32) 0x60000000#64) + 8) 1 5 }), 0#1, 1#5, { tGroup 0x000A0004#32 with a := [(1, 0x60000000#64), (2, 0#64)] }, _, readyA_of (by decide), inr_of (by decide), by decide⟩,
  ⟨tState ({ tGroup 0x000A0004#32 with a := [(1, 536870912#64)] }) 4, 0#1, 1#5, 2#5, { tGroup 0x000A0004#32 with a := [(1, 536870912#64)] }, readyA_of (by decide), by decide⟩⟩

/-- States and operands that meet the hypotheses of CounterInstructionsComplete, clauses 11, 12, 19, 20, 21, 25, 26, 27 (clauses of one shape share one). -/
theorem witness_CounterInstructionsComplete_B :
  (∃ (st : State) (m : BitVec 1) (a : BitVec 5) (b : BitVec 5) (grp : Group), ReadyA st m { legal := true } grp ∧ (fun _ g => ((g.getA a.toNat).toNat < 2 ^ 32 ∧ (bits (g.getA a.toNat).toNat 31 29 = 2 ∨ bits (g.getA a.toNat).toNat 31 29 = 3)) ∧ bits (g.getA a.toNat).toNat 28 0 % 16 ≠ 0) (st.atIssueA m grp { legal := true }) (st.accessAtIssue m grp { legal := true })) ∧
  (∃ (st : State) (m : BitVec 1) (a : BitVec 5) (b : BitVec 5) (grp : Group), ReadyA st m { legal := true } grp ∧ (fun x g => ((g.getA a.toNat).toNat < 2 ^ 32 ∧ (bits (g.getA a.toNat).toNat 31 29 = 2 ∨ bits (g.getA a.toNat).toNat 31 29 = 3)) ∧ bits (g.getA a.toNat).toNat 28 0 % 16 = 0 ∧ x.spaceBytes g (bits (g.getA a.toNat).toNat 31 29) < bits (g.getA a.toNat).toNat 28 0 + 16) (st.atIssueA m grp { legal := true }) (st.accessAtIssue m grp { legal := true })) ∧
  (∃ (st : State) (m : BitVec 1) (d : BitVec 5) (a : BitVec 5) (grp : Group), ReadyA st m { legal := true, async := true } grp ∧ (fun _ g => ¬ ((g.getA a.toNat).toNat < 2 ^ 32 ∧ (bits (g.getA a.toNat).toNat 31 29 = 2 ∨ bits (g.getA a.toNat).toNat 31 29 = 3))) (st.atIssueA m grp { legal := true, async := true }) (st.accessAtIssue m grp { legal := true, async := true })) ∧
  (∃ (st : State) (m : BitVec 1) (d : BitVec 5) (a : BitVec 5) (grp : Group), ReadyA st m { legal := true, async := true } grp ∧ (fun _ g => ((g.getA a.toNat).toNat < 2 ^ 32 ∧ (bits (g.getA a.toNat).toNat 31 29 = 2 ∨ bits (g.getA a.toNat).toNat 31 29 = 3)) ∧ bits (g.getA a.toNat).toNat 28 0 % 16 ≠ 0) (st.atIssueA m grp { legal := true, async := true }) (st.accessAtIssue m grp { legal := true, async := true })) ∧
  (∃ (st : State) (m : BitVec 1) (d : BitVec 5) (a : BitVec 5) (grp : Group), ReadyA st m { legal := true, async := true } grp ∧ (fun x g => ((g.getA a.toNat).toNat < 2 ^ 32 ∧ (bits (g.getA a.toNat).toNat 31 29 = 2 ∨ bits (g.getA a.toNat).toNat 31 29 = 3)) ∧ bits (g.getA a.toNat).toNat 28 0 % 16 = 0 ∧ x.spaceBytes g (bits (g.getA a.toNat).toNat 31 29) < bits (g.getA a.toNat).toNat 28 0 + 16) (st.atIssueA m grp { legal := true, async := true }) (st.accessAtIssue m grp { legal := true, async := true })) ∧
  (∃ (st : State) (m : BitVec 1) (a : BitVec 5) (b : BitVec 5) (grp : Group), ReadyA st m { legal := true, adv := false } grp ∧ (fun _ g => ¬ ((g.getA a.toNat).toNat < 2 ^ 32 ∧ (bits (g.getA a.toNat).toNat 31 29 = 2 ∨ bits (g.getA a.toNat).toNat 31 29 = 3))) (st.atIssueA m grp { legal := true, adv := false }) (st.accessAtIssue m grp { legal := true, adv := false })) ∧
  (∃ (st : State) (m : BitVec 1) (a : BitVec 5) (b : BitVec 5) (grp : Group), ReadyA st m { legal := true, adv := false } grp ∧ (fun _ g => ((g.getA a.toNat).toNat < 2 ^ 32 ∧ (bits (g.getA a.toNat).toNat 31 29 = 2 ∨ bits (g.getA a.toNat).toNat 31 29 = 3)) ∧ bits (g.getA a.toNat).toNat 28 0 % 16 ≠ 0) (st.atIssueA m grp { legal := true, adv := false }) (st.accessAtIssue m grp { legal := true, adv := false })) ∧
  (∃ (st : State) (m : BitVec 1) (a : BitVec 5) (b : BitVec 5) (grp : Group), ReadyA st m { legal := true, adv := false } grp ∧ (fun x g => ((g.getA a.toNat).toNat < 2 ^ 32 ∧ (bits (g.getA a.toNat).toNat 31 29 = 2 ∨ bits (g.getA a.toNat).toNat 31 29 = 3)) ∧ bits (g.getA a.toNat).toNat 28 0 % 16 = 0 ∧ x.spaceBytes g (bits (g.getA a.toNat).toNat 31 29) < bits (g.getA a.toNat).toNat 28 0 + 16) (st.atIssueA m grp { legal := true, adv := false }) (st.accessAtIssue m grp { legal := true, adv := false })) :=
  ⟨⟨tState ({ tGroup 0x000A0004#32 with a := [(1, 1610612740#64)] }) 4, 0#1, 1#5, 2#5, { tGroup 0x000A0004#32 with a := [(1, 1610612740#64)] }, readyA_of (by decide), by decide⟩,
  ⟨tState ({ tGroup 0x000A0004#32 with a := [(1, 1610616832#64)] }) 4, 0#1, 1#5, 2#5, { tGroup 0x000A0004#32 with a := [(1, 1610616832#64)] }, readyA_of (by decide), by decide⟩,
  ⟨tState ({ tGroup 0x000A0004#32 with a := [(1, 536870912#64)] }) 4, 0#1, 3#5, 1#5, { tGroup 0x000A0004#32 with a := [(1, 536870912#64)] }, readyA_of (by decide), by decide⟩,
  ⟨tState ({ tGroup 0x000A0004#32 with a := [(1, 1610612740#64)] }) 4, 0#1, 3#5, 1#5, { tGroup 0x000A0004#32 with a := [(1, 1610612740#64)] }, readyA_of (by decide), by decide⟩,
  ⟨tState ({ tGroup 0x000A0004#32 with a := [(1, 1610616832#64)] }) 4, 0#1, 3#5, 1#5, { tGroup 0x000A0004#32 with a := [(1, 1610616832#64)] }, readyA_of (by decide), by decide⟩,
  ⟨tState ({ tGroup 0x000A0004#32 with a := [(1, 536870912#64)] }) 4, 0#1, 1#5, 2#5, { tGroup 0x000A0004#32 with a := [(1, 536870912#64)] }, readyA_of (by decide), by decide⟩,
  ⟨tState ({ tGroup 0x000A0004#32 with a := [(1, 1610612740#64)] }) 4, 0#1, 1#5, 2#5, { tGroup 0x000A0004#32 with a := [(1, 1610612740#64)] }, readyA_of (by decide), by decide⟩,
  ⟨tState ({ tGroup 0x000A0004#32 with a := [(1, 1610616832#64)] }) 4, 0#1, 1#5, 2#5, { tGroup 0x000A0004#32 with a := [(1, 1610616832#64)] }, readyA_of (by decide), by decide⟩⟩

/-- States and operands that meet the hypotheses of CounterInstructionsComplete, clauses 28, 29, 30 (clauses of one shape share one). -/
theorem witness_CounterInstructionsComplete_C :
  (∃ (st : State) (m : BitVec 1) (a : BitVec 5) (grp : Group), ReadyA st m { legal := true, adv := false } grp ∧ (fun _ g => ¬ ((g.getA a.toNat).toNat < 2 ^ 32 ∧ (bits (g.getA a.toNat).toNat 31 29 = 2 ∨ bits (g.getA a.toNat).toNat 31 29 = 3))) (st.atIssueA m grp { legal := true, adv := false }) (st.accessAtIssue m grp { legal := true, adv := false })) ∧
  (∃ (st : State) (m : BitVec 1) (a : BitVec 5) (grp : Group), ReadyA st m { legal := true, adv := false } grp ∧ (fun _ g => ((g.getA a.toNat).toNat < 2 ^ 32 ∧ (bits (g.getA a.toNat).toNat 31 29 = 2 ∨ bits (g.getA a.toNat).toNat 31 29 = 3)) ∧ bits (g.getA a.toNat).toNat 28 0 % 16 ≠ 0) (st.atIssueA m grp { legal := true, adv := false }) (st.accessAtIssue m grp { legal := true, adv := false })) ∧
  (∃ (st : State) (m : BitVec 1) (a : BitVec 5) (grp : Group), ReadyA st m { legal := true, adv := false } grp ∧ (fun x g => ((g.getA a.toNat).toNat < 2 ^ 32 ∧ (bits (g.getA a.toNat).toNat 31 29 = 2 ∨ bits (g.getA a.toNat).toNat 31 29 = 3)) ∧ bits (g.getA a.toNat).toNat 28 0 % 16 = 0 ∧ x.spaceBytes g (bits (g.getA a.toNat).toNat 31 29) < bits (g.getA a.toNat).toNat 28 0 + 16) (st.atIssueA m grp { legal := true, adv := false }) (st.accessAtIssue m grp { legal := true, adv := false })) :=
  ⟨⟨tState ({ tGroup 0x000A0004#32 with a := [(1, 536870912#64)] }) 4, 0#1, 1#5, { tGroup 0x000A0004#32 with a := [(1, 536870912#64)] }, readyA_of (by decide), by decide⟩,
  ⟨tState ({ tGroup 0x000A0004#32 with a := [(1, 1610612740#64)] }) 4, 0#1, 1#5, { tGroup 0x000A0004#32 with a := [(1, 1610612740#64)] }, readyA_of (by decide), by decide⟩,
  ⟨tState ({ tGroup 0x000A0004#32 with a := [(1, 1610616832#64)] }) 4, 0#1, 1#5, { tGroup 0x000A0004#32 with a := [(1, 1610616832#64)] }, readyA_of (by decide), by decide⟩⟩

/-- States and operands that meet the hypotheses of EngineCommandsQueue, clauses 1, 2, 3, 4, 5, 6, 7, 8 (clauses of one shape share one). -/
theorem witness_EngineCommandsQueue :
  (∃ (st : State) (m : BitVec 1) (d : BitVec 5) (c : BitVec 5) (g : BitVec 3) (e : BitVec 1) (grp : Group), ∃ cmd oob y, ReadyA st m { legal := guardOk g e } grp ∧ (fun x gr => x.copyCheck gr false d.toNat c.toNat = .inr (cmd, oob) ∧ x.cmdIssued gr (if e = 1#1 then some g.toNat else none) oob cmd (fun c k => { k with copyQ := k.copyQ ++ [c] }) y) (st.atIssueA m grp { legal := guardOk g e }) (st.accessAtIssue m grp { legal := guardOk g e })) ∧
  (∃ (st : State) (m : BitVec 1) (d : BitVec 5) (c : BitVec 5) (g : BitVec 3) (e : BitVec 1) (grp : Group), ∃ cmd oob y, ReadyA st m { legal := guardOk g e } grp ∧ (fun x gr => x.copyCheck gr true d.toNat c.toNat = .inr (cmd, oob) ∧ x.cmdIssued gr (if e = 1#1 then some g.toNat else none) oob cmd (fun c k => { k with copyQ := k.copyQ ++ [c] }) y) (st.atIssueA m grp { legal := guardOk g e }) (st.accessAtIssue m grp { legal := guardOk g e })) ∧
  (∃ (st : State) (m : BitVec 1) (d : BitVec 5) (c : BitVec 5) (g : BitVec 3) (e : BitVec 1) (h : BitVec 2) (p : BitVec 8) (grp : Group), ∃ cmd oob y, ReadyA st m { legal := guardOk g e } grp ∧ (fun x gr => x.xferCheck gr false d.toNat c.toNat h.toNat p.toNat = .inr (cmd, oob) ∧ x.cmdIssued gr (if e = 1#1 then some g.toNat else none) oob cmd (fun c k => { k with fabQ := k.fabQ ++ [c] }) y) (st.atIssueA m grp { legal := guardOk g e }) (st.accessAtIssue m grp { legal := guardOk g e })) ∧
  (∃ (st : State) (m : BitVec 1) (d : BitVec 5) (c : BitVec 5) (g : BitVec 3) (e : BitVec 1) (h : BitVec 2) (p : BitVec 8) (grp : Group), ∃ cmd oob y, ReadyA st m { legal := guardOk g e } grp ∧ (fun x gr => x.xferCheck gr true d.toNat c.toNat h.toNat p.toNat = .inr (cmd, oob) ∧ x.cmdIssued gr (if e = 1#1 then some g.toNat else none) oob cmd (fun c k => { k with fabQ := k.fabQ ++ [c] }) y) (st.atIssueA m grp { legal := guardOk g e }) (st.accessAtIssue m grp { legal := guardOk g e })) ∧
  (∃ (st : State) (m : BitVec 1) (d : BitVec 5) (c : BitVec 5) (g : BitVec 3) (e : BitVec 1) (grp : Group), ∃ t, ReadyA st m { legal := guardOk g e } grp ∧ (fun x gr => x.copyCheck gr false d.toNat c.toNat = .inl t) (st.atIssueA m grp { legal := guardOk g e }) (st.accessAtIssue m grp { legal := guardOk g e })) ∧
  (∃ (st : State) (m : BitVec 1) (d : BitVec 5) (c : BitVec 5) (g : BitVec 3) (e : BitVec 1) (grp : Group), ∃ t, ReadyA st m { legal := guardOk g e } grp ∧ (fun x gr => x.copyCheck gr true d.toNat c.toNat = .inl t) (st.atIssueA m grp { legal := guardOk g e }) (st.accessAtIssue m grp { legal := guardOk g e })) ∧
  (∃ (st : State) (m : BitVec 1) (d : BitVec 5) (c : BitVec 5) (g : BitVec 3) (e : BitVec 1) (h : BitVec 2) (p : BitVec 8) (grp : Group), ∃ t, ReadyA st m { legal := guardOk g e } grp ∧ (fun x gr => x.xferCheck gr false d.toNat c.toNat h.toNat p.toNat = .inl t) (st.atIssueA m grp { legal := guardOk g e }) (st.accessAtIssue m grp { legal := guardOk g e })) ∧
  (∃ (st : State) (m : BitVec 1) (d : BitVec 5) (c : BitVec 5) (g : BitVec 3) (e : BitVec 1) (h : BitVec 2) (p : BitVec 8) (grp : Group), ∃ t, ReadyA st m { legal := guardOk g e } grp ∧ (fun x gr => x.xferCheck gr true d.toNat c.toNat h.toNat p.toNat = .inl t) (st.atIssueA m grp { legal := guardOk g e }) (st.accessAtIssue m grp { legal := guardOk g e })) :=
  ⟨⟨{ tState ({ tGroup 0x000A0004#32 with a := [(1, 1056#64), (2, 0#64), (3, 0x0001000100010004#64)] }) 4 with mode := 0, workgroups := [(wgKey 0 0, { tWg with views := [(0, tView), (1, tView)] })], ctxs := [(0, { troot := 0x10000, dieb := 4096 })] }, 0#1, 1#5, 0#5, 0#3, 0#1, { tGroup 0x000A0004#32 with a := [(1, 1056#64), (2, 0#64), (3, 0x0001000100010004#64)] }, _, _, _, readyA_of (by decide), inr_pair (by decide), rfl⟩,
  ⟨{ tState ({ tGroup 0x000A0004#32 with a := [(1, 1056#64), (2, 0#64), (3, 0x0001000100010004#64)] }) 4 with mode := 0, workgroups := [(wgKey 0 0, { tWg with views := [(0, tView), (1, BitVec.ofNat 1024 ((0x10000A8B3 - 2) * 2 ^ 64 + 32 * 2 ^ 256 + 2 ^ 288))] })], ctxs := [(0, { troot := 0x10000, dieb := 4096 })] }, 0#1, 1#5, 0#5, 0#3, 0#1, { tGroup 0x000A0004#32 with a := [(1, 1056#64), (2, 0#64), (3, 0x0001000100010004#64)] }, _, _, _, readyA_of (by decide), inr_pair (by decide), rfl⟩,
  ⟨{ tState ({ tGroup 0x000A0004#32 with a := [(1, 1056#64), (2, 0#64), (3, 0x0001000100010004#64)] }) 4 with mode := 0, workgroups := [(wgKey 0 0, { tWg with views := [(0, tView), (1, BitVec.ofNat 1024 (0x20000 + (0x10000A8B3 - 3) * 2 ^ 64 + 32 * 2 ^ 256 + 2 ^ 288))] })], ctxs := [(0, { troot := 0x10000, domain := some 0 })], domains := [(0, { set := BitVec.allOnes 4096, groups := [(0, 1#4096)] })] }, 0#1, 1#5, 0#5, 0#3, 0#1, 0#2, 0#8, { tGroup 0x000A0004#32 with a := [(1, 1056#64), (2, 0#64), (3, 0x0001000100010004#64)] }, _, _, _, readyA_of (by decide), inr_pair (by decide), rfl⟩,
  ⟨{ tState ({ tGroup 0x000A0004#32 with a := [(1, 1056#64), (2, 0#64), (3, 0x0001000100010004#64)] }) 4 with mode := 0, workgroups := [(wgKey 0 0, { tWg with views := [(0, tView), (1, BitVec.ofNat 1024 (0x20000 + (0x10000A8B3 - 3) * 2 ^ 64 + 32 * 2 ^ 256 + 2 ^ 288))] })], ctxs := [(0, { troot := 0x10000, domain := some 0 })], domains := [(0, { set := BitVec.allOnes 4096, groups := [(0, 1#4096)] })] }, 0#1, 1#5, 0#5, 0#3, 0#1, 0#2, 0#8, { tGroup 0x000A0004#32 with a := [(1, 1056#64), (2, 0#64), (3, 0x0001000100010004#64)] }, _, _, _, readyA_of (by decide), inr_pair (by decide), rfl⟩,
  ⟨tState ((tGroup 0x000A0004#32)) 4, 0#1, 1#5, 0#5, 0#3, 0#1, (tGroup 0x000A0004#32), _, readyA_of (by decide), inl_of (by decide)⟩,
  ⟨tState ((tGroup 0x000A0004#32)) 4, 0#1, 1#5, 0#5, 0#3, 0#1, (tGroup 0x000A0004#32), _, readyA_of (by decide), inl_of (by decide)⟩,
  ⟨tState ((tGroup 0x000A0004#32)) 4, 0#1, 1#5, 0#5, 0#3, 0#1, 0#2, 0#8, (tGroup 0x000A0004#32), _, readyA_of (by decide), inl_of (by decide)⟩,
  ⟨tState ((tGroup 0x000A0004#32)) 4, 0#1, 1#5, 0#5, 0#3, 0#1, 0#2, 0#8, (tGroup 0x000A0004#32), _, readyA_of (by decide), inl_of (by decide)⟩⟩

/-- States and operands that meet the hypotheses of FencesAndPlacedLoadsIssue, clauses 1, 2, 3, 4, 5, 6, 7, 8 (clauses of one shape share one). -/
theorem witness_FencesAndPlacedLoadsIssue :
  (∃ (st : State) (m : BitVec 1) (s : BitVec 3) (k : BitVec 3) (grp : Group), ReadyA st m { legal := scopeOk s.toNat && decide (k.toNat ≤ 3) && !(decide (k.toNat = 3) && decide (s.toNat = 5)), adv := false } grp) ∧
  (∃ (st : State) (m : BitVec 1) (s : BitVec 3) (f : BitVec 7) (t : BitVec 7) (grp : Group), ReadyA st m { legal := scopeOk s.toNat && decide (f ≠ 0#7) && decide (t ≠ 0#7), adv := false } grp) ∧
  (∃ (st : State) (m : BitVec 1) (q : BitVec 3) (v : BitVec 5) (a : BitVec 5) (d : BitVec 3) (g : BitVec 3) (e : BitVec 1) (c : BitVec 2) (grp : Group), ∃ dv dom hits oob y, ReadyA st m { legal := decide (q.toNat < 4) && guardOk g e } grp ∧ (fun x gr => gr.await.made = none ∧ (x.wgOf gr).checkedView v.toNat a.toNat = .inr dv ∧ a.toNat + vNdim dv ≤ 31 ∧ (gr.getA (a.toNat + vNdim dv)).toNat < 2 ^ 44 ∧ vConverting dv = false ∧
        (x.ctx (x.ctxOf gr)).domain = some dom ∧
        ((List.range 4).filter fun i => decide (placeByte (vPlace dv) i ≠ placeByte ((gr.getA (a.toNat + vNdim dv)).toNat % 2 ^ 32) i)) = [] ∧
        x.reach gr dv (wholeTile dv (gr.coords dv a.toNat)) = .ok hits oob ∧
        (e = 1#1 ∨ gr.lqFull (some q.toNat) = false) ∧
        x.accessIssued x.issuer.group gr (mkAccess gr dv (amOf v a d g e c) .load (some q.toNat) 0 (x.viewLines x.issuer.group gr dv (accClass dv (amOf v a d g e c).cls) hits)) id false oob y) (st.atIssueA m grp { legal := decide (q.toNat < 4) && guardOk g e }) (st.accessAtIssue m grp { legal := decide (q.toNat < 4) && guardOk g e })) ∧
  (∃ (st : State) (m : BitVec 1) (q : BitVec 3) (v : BitVec 5) (a : BitVec 5) (d : BitVec 3) (g : BitVec 3) (e : BitVec 1) (c : BitVec 2) (grp : Group), ∃ cv dv hits oob y, ReadyA st m { legal := decide (q.toNat < 4) && guardOk g e } grp ∧ (fun x gr => gr.await.made = some cv ∧ checkedDesc cv v.toNat a.toNat = .inr dv ∧
        (x.updGroup x.issuer.group fun g => { g with await := .ready }).reach { gr with await := .ready } dv (wholeTile dv ({ gr with await := .ready }.coords dv a.toNat)) = .ok hits oob ∧
        (e = 1#1 ∨ gr.lqFull (some q.toNat) = false) ∧
        (x.updGroup x.issuer.group fun g => { g with await := .ready }).accessIssued x.issuer.group { gr with await := .ready } (mkAccess { gr with await := .ready } dv (amOf v a d g e c) .load (some q.toNat) 0 ((x.updGroup x.issuer.group fun g => { g with await := .ready }).viewLines x.issuer.group { gr with await := .ready } dv (accClass dv (amOf v a d g e c).cls) hits)) id false oob y) (st.atIssueA m grp { legal := decide (q.toNat < 4) && guardOk g e }) (st.accessAtIssue m grp { legal := decide (q.toNat < 4) && guardOk g e })) ∧
  (∃ (st : State) (m : BitVec 1) (q : BitVec 3) (v : BitVec 5) (a : BitVec 5) (d : BitVec 3) (g : BitVec 3) (e : BitVec 1) (c : BitVec 2) (grp : Group), ∃ dv sv dom i ms devs me act hits oob y, ReadyA st m { legal := decide (q.toNat < 4) && guardOk g e } grp ∧ (fun x gr => gr.await.made = none ∧ (x.wgOf gr).checkedView v.toNat a.toNat = .inr dv ∧ a.toNat + vNdim dv ≤ 31 ∧ (gr.getA (a.toNat + vNdim dv)).toNat < 2 ^ 44 ∧ vConverting dv = false ∧
        (x.ctx (x.ctxOf gr)).domain = some dom ∧
        ((List.range 4).filter fun i => decide (placeByte (vPlace dv) i ≠ placeByte ((gr.getA (a.toNat + vNdim dv)).toNat % 2 ^ 32) i)) = [i] ∧ vMesh dv / 256 = 0 ∧ mget (x.domain dom).meshes (vMesh dv) = some ms ∧ axisGroup ms i x.devno = some (devs, me) ∧
        (((if e = 1#1 then some g.toNat else (none : Option Nat)) = none) ∨ (mgetD gr.guards g.toNat {}).res.head? = some true) ∧ rtypeOk act (placeByte (vPlace dv) i / 32 % 2) (bits (gr.getA (a.toNat + vNdim dv)).toNat 35 32) (vEsize dv) = true ∧
        convAct (vNdim dv) (placeByte (vPlace dv) i) (placeByte ((gr.getA (a.toNat + vNdim dv)).toNat % 2 ^ 32) i) = some act ∧ act = .slice ∧ vExt dv (convDim (placeByte (vPlace dv) i) (placeByte ((gr.getA (a.toNat + vNdim dv)).toNat % 2 ^ 32) i)) % devs.length = 0 ∧
        checkedDesc (sliceView dv i (placeByte ((gr.getA (a.toNat + vNdim dv)).toNat % 2 ^ 32) i) me devs.length) v.toNat a.toNat = .inr sv ∧
        ((x.updWg gr.wg fun w => { w with views := mput w.views v.toNat (sliceView dv i (placeByte ((gr.getA (a.toNat + vNdim dv)).toNat % 2 ^ 32) i) me devs.length) 0 }).updGroup x.issuer.group fun g => { g with await := .ready }).reach { gr with await := .ready } sv (wholeTile sv ({ gr with await := .ready }.coords sv a.toNat)) = .ok hits oob ∧
        (e = 1#1 ∨ gr.lqFull (some q.toNat) = false) ∧
        ((x.updWg gr.wg fun w => { w with views := mput w.views v.toNat (sliceView dv i (placeByte ((gr.getA (a.toNat + vNdim dv)).toNat % 2 ^ 32) i) me devs.length) 0 }).updGroup x.issuer.group fun g => { g with await := .ready }).accessIssued x.issuer.group { gr with await := .ready } (mkAccess { gr with await := .ready } sv (amOf v a d g e c) .load (some q.toNat) 0 (((x.updWg gr.wg fun w => { w with views := mput w.views v.toNat (sliceView dv i (placeByte ((gr.getA (a.toNat + vNdim dv)).toNat % 2 ^ 32) i) me devs.length) 0 }).updGroup x.issuer.group fun g => { g with await := .ready }).viewLines x.issuer.group { gr with await := .ready } sv (accClass sv (amOf v a d g e c).cls) hits)) id false oob y) (st.atIssueA m grp { legal := decide (q.toNat < 4) && guardOk g e }) (st.accessAtIssue m grp { legal := decide (q.toNat < 4) && guardOk g e })) ∧
  (∃ (st : State) (m : BitVec 1) (q : BitVec 3) (v : BitVec 5) (a : BitVec 5) (d : BitVec 3) (g : BitVec 3) (e : BitVec 1) (c : BitVec 2) (grp : Group), ∃ dv dom i ms devs me act y, ReadyA st m { legal := decide (q.toNat < 4) && guardOk g e } grp ∧ (fun x gr => gr.await.made = none ∧ (x.wgOf gr).checkedView v.toNat a.toNat = .inr dv ∧ a.toNat + vNdim dv ≤ 31 ∧ (gr.getA (a.toNat + vNdim dv)).toNat < 2 ^ 44 ∧ vConverting dv = false ∧
        (x.ctx (x.ctxOf gr)).domain = some dom ∧
        ((List.range 4).filter fun i => decide (placeByte (vPlace dv) i ≠ placeByte ((gr.getA (a.toNat + vNdim dv)).toNat % 2 ^ 32) i)) = [i] ∧ vMesh dv / 256 = 0 ∧ mget (x.domain dom).meshes (vMesh dv) = some ms ∧ axisGroup ms i x.devno = some (devs, me) ∧
        (((if e = 1#1 then some g.toNat else (none : Option Nat)) = none) ∨ (mgetD gr.guards g.toNat {}).res.head? = some true) ∧ rtypeOk act (placeByte (vPlace dv) i / 32 % 2) (bits (gr.getA (a.toNat + vNdim dv)).toNat 35 32) (vEsize dv) = true ∧
        convAct (vNdim dv) (placeByte (vPlace dv) i) (placeByte ((gr.getA (a.toNat + vNdim dv)).toNat % 2 ^ 32) i) = some act ∧ act ≠ .slice ∧ (act = .scatter → vExt dv (convDim (placeByte (vPlace dv) i) (placeByte ((gr.getA (a.toNat + vNdim dv)).toNat % 2 ^ 32) i)) % devs.length = 0) ∧
        (devs.find? fun n => decide (n ≠ x.devno) && x.dead.getLsbD n) = none ∧ x.storesDone x.issuer.group gr dv = true ∧
        x.submitConv x.issuer.group gr { num := 0, dom := dom, ctx := x.ctxOf gr, group := x.issuer.group, wg := gr.wg, slot := v.toNat, mesh := vMesh dv, axis := i, toByte := placeByte ((gr.getA (a.toNat + vNdim dv)).toNat % 2 ^ 32) i, rtype := bits (gr.getA (a.toNat + vNdim dv)).toNat 35 32, step := bits (gr.getA (a.toNat + vNdim dv)).toNat 43 36, devs := devs, me := me, view := dv } = some y) (st.atIssueA m grp { legal := decide (q.toNat < 4) && guardOk g e }) (st.accessAtIssue m grp { legal := decide (q.toNat < 4) && guardOk g e })) ∧
  (∃ (st : State) (m : BitVec 1) (q : BitVec 3) (v : BitVec 5) (a : BitVec 5) (d : BitVec 3) (g : BitVec 3) (e : BitVec 1) (c : BitVec 2) (grp : Group), ∃ dv, ReadyA st m { legal := decide (q.toNat < 4) && guardOk g e } grp ∧ (fun x gr => gr.await.made = none ∧ (x.wgOf gr).checkedView v.toNat a.toNat = .inr dv ∧ a.toNat + vNdim dv ≤ 31 ∧ (gr.getA (a.toNat + vNdim dv)).toNat < 2 ^ 44 ∧ vConverting dv = false ∧
        (x.ctx (x.ctxOf gr)).domain = none) (st.atIssueA m grp { legal := decide (q.toNat < 4) && guardOk g e }) (st.accessAtIssue m grp { legal := decide (q.toNat < 4) && guardOk g e })) ∧
  (∃ (st : State) (m : BitVec 1) (q : BitVec 3) (v : BitVec 5) (a : BitVec 5) (d : BitVec 3) (g : BitVec 3) (e : BitVec 1) (c : BitVec 2) (grp : Group), ∃ dv dom i j l, ReadyA st m { legal := decide (q.toNat < 4) && guardOk g e } grp ∧ (fun x gr => gr.await.made = none ∧ (x.wgOf gr).checkedView v.toNat a.toNat = .inr dv ∧ a.toNat + vNdim dv ≤ 31 ∧ (gr.getA (a.toNat + vNdim dv)).toNat < 2 ^ 44 ∧ vConverting dv = false ∧
        (x.ctx (x.ctxOf gr)).domain = some dom ∧
        ((List.range 4).filter fun i => decide (placeByte (vPlace dv) i ≠ placeByte ((gr.getA (a.toNat + vNdim dv)).toNat % 2 ^ 32) i)) = i :: j :: l) (st.atIssueA m grp { legal := decide (q.toNat < 4) && guardOk g e }) (st.accessAtIssue m grp { legal := decide (q.toNat < 4) && guardOk g e })) :=
  ⟨⟨tState ((tGroup 0x000A0004#32)) 4, 0#1, 1#3, 1#3, (tGroup 0x000A0004#32), readyA_of (by decide)⟩,
  ⟨tState ((tGroup 0x000A0004#32)) 4, 0#1, 1#3, 1#7, 1#7, (tGroup 0x000A0004#32), readyA_of (by decide)⟩,
  ⟨{ tState ((tGroup 0x000A0004#32)) 4 with ctxs := [(0, { troot := 0x10000, domain := some 0 })] }, 0#1, 1#3, 0#5, 1#5, 0#3, 0#3, 0#1, 0#2, (tGroup 0x000A0004#32), _, _, _, _, _, readyA_of (by decide), by decide, inr_of (by decide), by decide, by decide, by decide, some_of (by decide), by decide, reach_of (by decide), by decide, issued_of (by decide) (by decide)⟩,
  ⟨tState ({ tGroup 0x000A0004#32 with await := .ldp tView none }) 4, 0#1, 1#3, 0#5, 1#5, 0#3, 0#3, 0#1, 0#2, { tGroup 0x000A0004#32 with await := .ldp tView none }, tView, _, _, _, _, readyA_of (by decide), by decide, inr_of (by decide), reach_of (by decide), by decide, issued_of (by decide) (by decide)⟩,
  ⟨{ tState ({ tGroup 0x000A0004#32 with a := [(2, 1#64)] }) 4 with workgroups := [(wgKey 0 0, { tWg with views := [(0, BitVec.ofNat 1024 (0x20000 + (0x10000A8B3 - 3) * 2 ^ 64 + 2 * 2 ^ 128 + 32 * 2 ^ 256 + 2 ^ 288))] })], ctxs := [(0, { troot := 0x10000, domain := some 0 })], domains := [(0, { set := BitVec.allOnes 4096, meshes := [(0, ([1], [0]))] })] }, 0#1, 1#3, 0#5, 1#5, 0#3, 0#3, 0#1, 0#2, { tGroup 0x000A0004#32 with a := [(2, 1#64)] }, _, _, 0, 0, ([1], [0]), [0], 0, .slice, _, _, _, readyA_of (by decide), by decide, inr_of (by decide), by decide, by decide, by decide, by decide, by decide, by decide, by decide, by decide, by decide, by decide, by decide, rfl, by decide, inr_of (by decide), reach_of (by decide), by decide, issued_of (by decide) (by decide)⟩,
  ⟨{ tState ({ tGroup 0x000A0004#32 with a := [(2, 2#64)] }) 4 with workgroups := [(wgKey 0 0, { tWg with views := [(0, BitVec.ofNat 1024 (0x20000 + (0x10000A8B3 - 3) * 2 ^ 64 + 1 * 2 ^ 128 + 32 * 2 ^ 256 + 2 ^ 288))] })], ctxs := [(0, { troot := 0x10000, domain := some 0 })], domains := [(0, { set := BitVec.allOnes 4096, meshes := [(0, ([1], [0]))] })] }, 0#1, 1#3, 0#5, 1#5, 0#3, 0#3, 0#1, 0#2, { tGroup 0x000A0004#32 with a := [(2, 2#64)] }, _, 0, 0, ([1], [0]), [0], 0, .gather, _, readyA_of (by decide), by decide, inr_of (by decide), by decide, by decide, by decide, by decide, by decide, by decide, by decide, by decide, by decide, by decide, by decide, by decide, by decide, none_of (by decide), by decide, some_of (by decide)⟩,
  ⟨tState ((tGroup 0x000A0004#32)) 4, 0#1, 1#3, 0#5, 1#5, 0#3, 0#3, 0#1, 0#2, (tGroup 0x000A0004#32), _, readyA_of (by decide), by decide, inr_of (by decide), by decide, by decide, by decide, by decide⟩,
  ⟨{ tState ({ tGroup 0x000A0004#32 with a := [(2, 0x101#64)] }) 4 with ctxs := [(0, { troot := 0x10000, domain := some 0 })] }, 0#1, 1#3, 0#5, 1#5, 0#3, 0#3, 0#1, 0#2, { tGroup 0x000A0004#32 with a := [(2, 0x101#64)] }, _, _, 0, 1, [], readyA_of (by decide), by decide, inr_of (by decide), by decide, by decide, by decide, some_of (by decide), by decide⟩⟩

/-- States and operands that meet the hypotheses of ElementResults, clauses 2, 3, 4, 10, 13, 14, 15, 16 (clauses of one shape share one). -/
theorem witness_ElementResults :
  (∃ (st : State) (m : BitVec 1) (d : BitVec 6) (a : BitVec 6) (b : BitVec 6) (grp : Group) (spl : Split), ReadyC st m (binSpec d a b intT2Et) grp spl ∧ (fun g => !g.sat && decide (g.et ≠ .t2)) (st.groupAtIssue m grp spl (binSpec d a b intT2Et)) = true) ∧
  (∃ (st : State) (m : BitVec 1) (d : BitVec 6) (a : BitVec 6) (b : BitVec 6) (grp : Group) (spl : Split), ReadyC st m (binSpec d a b intEt) grp spl ∧ (fun g => !g.sat && decide (g.et ≠ .t2)) (st.groupAtIssue m grp spl (binSpec d a b intEt)) = true) ∧
  (∃ (st : State) (m : BitVec 1) (d : BitVec 6) (a : BitVec 6) (b : BitVec 6) (grp : Group) (spl : Split), ReadyC st m (binSpec d a b intEt) grp spl ∧ (fun _ => true) (st.groupAtIssue m grp spl (binSpec d a b intEt)) = true) ∧
  (∃ (st : State) (m : BitVec 1) (d : BitVec 6) (a : BitVec 6) (b : BitVec 6) (grp : Group) (spl : Split), ReadyC st m (binSpec d a b intT2Et) grp spl ∧ (fun g => g.et.isN) (st.groupAtIssue m grp spl (binSpec d a b intT2Et)) = true) ∧
  (∃ (st : State) (m : BitVec 1) (d : BitVec 6) (a : BitVec 6) (b : BitVec 6) (grp : Group) (spl : Split), ReadyC st m (binSpec d a b intEt) grp spl ∧ (fun g => g.et.isN) (st.groupAtIssue m grp spl (binSpec d a b intEt)) = true) ∧
  (∃ (st : State) (m : BitVec 1) (d : BitVec 6) (a : BitVec 6) (grp : Group) (spl : Split), ReadyC st m (unSpec d a intEt) grp spl ∧ (fun _ => true) (st.groupAtIssue m grp spl (unSpec d a intEt)) = true) ∧
  (∃ (st : State) (m : BitVec 1) (d : BitVec 6) (a : BitVec 6) (grp : Group) (spl : Split), ReadyC st m (unSpec d a fun _ => true) grp spl ∧ (fun _ => true) (st.groupAtIssue m grp spl (unSpec d a fun _ => true)) = true) ∧
  (∃ (st : State) (m : BitVec 1) (d : BitVec 6) (a : BitVec 6) (b : BitVec 6) (c : BitVec 6) (grp : Group) (spl : Split), ReadyC st m { legal := dstOk d && srcOk a && srcOk b && lt8 c, srcs := [a, b], dst := some d, pregs := [c.toNat] } grp spl ∧ (fun _ => true) (st.groupAtIssue m grp spl { legal := dstOk d && srcOk a && srcOk b && lt8 c, srcs := [a, b], dst := some d, pregs := [c.toNat] }) = true) :=
  ⟨⟨tState (tGroup 0x000A0004#32) 0, 0#1, 1#6, 2#6, 3#6, (tGroup 0x000A0004#32), tSplit, ready_of (by decide), by decide⟩,
  ⟨tState (tGroup 0x000A0004#32) 0, 0#1, 1#6, 2#6, 3#6, (tGroup 0x000A0004#32), tSplit, ready_of (by decide), by decide⟩,
  ⟨tState (tGroup 0x000A0004#32) 0, 0#1, 1#6, 2#6, 3#6, (tGroup 0x000A0004#32), tSplit, ready_of (by decide), by decide⟩,
  ⟨tState (tGroup 0x000A0005#32) 0, 0#1, 1#6, 2#6, 3#6, (tGroup 0x000A0005#32), tSplit, ready_of (by decide), by decide⟩,
  ⟨tState (tGroup 0x000A0005#32) 0, 0#1, 1#6, 2#6, 3#6, (tGroup 0x000A0005#32), tSplit, ready_of (by decide), by decide⟩,
  ⟨tState (tGroup 0x000A0004#32) 0, 0#1, 1#6, 2#6, (tGroup 0x000A0004#32), tSplit, ready_of (by decide), by decide⟩,
  ⟨tState (tGroup 0x000A0004#32) 0, 0#1, 1#6, 2#6, (tGroup 0x000A0004#32), tSplit, ready_of (by decide), by decide⟩,
  ⟨tState (tGroup 0x000A0004#32) 0, 0#1, 1#6, 2#6, 3#6, 4#6, (tGroup 0x000A0004#32), tSplit, ready_of (by decide), by decide⟩⟩

/-- States and operands that meet the hypotheses of FlaglessWordsKeepFlags, clauses 1, 9, 14, 16, 19, 20, 21 (clauses of one shape share one). -/
theorem witness_FlaglessWordsKeepFlags :
  (∃ (st : State) (m : BitVec 1) (d : BitVec 6) (a : BitVec 6) (b : BitVec 6) (grp : Group) (spl : Split), ReadyC st m (binSpec d a b intEt) grp spl ∧ (fun _ => true) (st.groupAtIssue m grp spl (binSpec d a b intEt)) = true) ∧
  (∃ (st : State) (m : BitVec 1) (d : BitVec 6) (a : BitVec 6) (grp : Group) (spl : Split), ReadyC st m (unSpec d a intEt) grp spl ∧ (fun _ => true) (st.groupAtIssue m grp spl (unSpec d a intEt)) = true) ∧
  (∃ (st : State) (m : BitVec 1) (d : BitVec 6) (a : BitVec 6) (b : BitVec 6) (grp : Group) (spl : Split), ReadyC st m (binSpec d a b intT2Et) grp spl ∧ (fun g => !g.sat && decide (g.et ≠ .t2)) (st.groupAtIssue m grp spl (binSpec d a b intT2Et)) = true) ∧
  (∃ (st : State) (m : BitVec 1) (d : BitVec 6) (a : BitVec 6) (b : BitVec 6) (grp : Group) (spl : Split), ReadyC st m (binSpec d a b intEt) grp spl ∧ (fun g => !g.sat && decide (g.et ≠ .t2)) (st.groupAtIssue m grp spl (binSpec d a b intEt)) = true) ∧
  (∃ (st : State) (m : BitVec 1) (d : BitVec 6) (a : BitVec 6) (b : BitVec 6) (c : BitVec 6) (grp : Group) (spl : Split), ReadyC st m { legal := dstOk d && srcOk a && srcOk b && lt8 c, srcs := [a, b], dst := some d, pregs := [c.toNat] } grp spl ∧ (fun _ => true) (st.groupAtIssue m grp spl { legal := dstOk d && srcOk a && srcOk b && lt8 c, srcs := [a, b], dst := some d, pregs := [c.toNat] }) = true) ∧
  (∃ (st : State) (m : BitVec 1) (d : BitVec 6) (a : BitVec 6) (grp : Group) (spl : Split), ReadyC st m (unSpec d a fun _ => true) grp spl ∧ (fun _ => true) (st.groupAtIssue m grp spl (unSpec d a fun _ => true)) = true) ∧
  (∃ (st : State) (m : BitVec 1) (d : BitVec 6) (h : BitVec 2) (l : BitVec 16) (grp : Group) (spl : Split), ReadyC st m { guarded := false, legal := if h = 0#2 then dstOk d else isV d, srcs := if h = 0#2 then [] else [d], dst := some d } grp spl ∧ (fun _ => true) (st.groupAtIssue m grp spl { guarded := false, legal := if h = 0#2 then dstOk d else isV d, srcs := if h = 0#2 then [] else [d], dst := some d }) = true) :=
  ⟨⟨tState (tGroup 0x000A0004#32) 0, 0#1, 1#6, 2#6, 3#6, (tGroup 0x000A0004#32), tSplit, ready_of (by decide), by decide⟩,
  ⟨tState (tGroup 0x000A0004#32) 0, 0#1, 1#6, 2#6, (tGroup 0x000A0004#32), tSplit, ready_of (by decide), by decide⟩,
  ⟨tState (tGroup 0x000A0004#32) 0, 0#1, 1#6, 2#6, 3#6, (tGroup 0x000A0004#32), tSplit, ready_of (by decide), by decide⟩,
  ⟨tState (tGroup 0x000A0004#32) 0, 0#1, 1#6, 2#6, 3#6, (tGroup 0x000A0004#32), tSplit, ready_of (by decide), by decide⟩,
  ⟨tState (tGroup 0x000A0004#32) 0, 0#1, 1#6, 2#6, 3#6, 4#6, (tGroup 0x000A0004#32), tSplit, ready_of (by decide), by decide⟩,
  ⟨tState (tGroup 0x000A0004#32) 0, 0#1, 1#6, 2#6, (tGroup 0x000A0004#32), tSplit, ready_of (by decide), by decide⟩,
  ⟨tState (tGroup 0x000A0004#32) 0, 0#1, 1#6, 1#2, 1#16, (tGroup 0x000A0004#32), tSplit, ready_of (by decide), by decide⟩⟩

/-- States and operands that meet the hypotheses of WeirPacketInstructionsComplete, clauses 3, 4 (clauses of one shape share one). -/
theorem witness_WeirPacketInstructionsComplete :
  (∃ (st : State) (f : BitVec 5), ∃ lo n m, weirWritable f.toNat = some (lo, n, m)) ∧
  (∃ (st : State) (f : BitVec 5), ∃ lo n m, weirWritable f.toNat = some (lo, n, m)) :=
  ⟨⟨{}, 11#5, _, _, _, rfl⟩,
  ⟨{}, 11#5, _, _, _, rfl⟩⟩

/-- States and operands that meet the hypotheses of ControlOperationsComplete, clauses 2, 3, 4, 5, 6, 7, 8, 9 (clauses of one shape share one). -/
theorem witness_ControlOperationsComplete_A :
  (∃ (st : State) (c : Cmd), CtlHead st 1 c ∧ c.arg0 = 0 ∧ c.arg = 0) ∧
  (∃ (st : State) (c : Cmd), CtlHead st 2 c ∧ c.arg0 ≤ 2 ∧ c.arg = 0 ∧ st.ctxs = []) ∧
  (∃ (st : State) (c : Cmd), ∃ n img, n = 4096 * c.arg0 ∧ img = st.devRead n c.arg.toNat ∧ CtlHead st 3 c ∧ c.arg0 ≠ 0 ∧ c.arg.toNat % 4096 = 0 ∧ c.arg.toNat < 2 ^ 40) ∧
  (∃ (st : State) (c : Cmd), CtlHead st 5 c ∧ c.arg0 = 0 ∧ c.arg = 0 ∧ st.captureEn = true) ∧
  (∃ (st : State) (c : Cmd), CtlHead st 6 c ∧ c.arg0 = 0 ∧ c.arg = 0 ∧ st.frozen = true) ∧
  (∃ (st : State) (c : Cmd), ∃ r n x, CtlHead st 7 c ∧ c.arg0 = 0 ∧ c.arg.toNat < 2 ^ 33 ∧ st.report (st.devRead 32 (c.arg.toNat * 128)) = (r, n) ∧ (64 + n + 512 ≤ 4096 → st.freeValue.2.hostPut (n + 512) (c.arg.toNat * 128 + 64) (r + identitySign n r st.freeValue.1 * 2 ^ (8 * n)) = some x)) ∧
  (∃ (st : State) (c : Cmd), ∃ d x, CtlHead st 8 c ∧ c.arg0 = 0 ∧ c.arg.toNat < 2 ^ 33 ∧ st.domainImage (c.arg.toNat * 128) = some (d, x)) ∧
  (∃ (st : State) (c : Cmd), CtlHead st 9 c ∧ c.arg0 < 65536 ∧ c.arg = 0 ∧ st.ctxOfDomain c.arg0 = none ∧ (mget st.domains c.arg0).isSome = true) :=
  ⟨⟨{ ctlPort := 1, ctlQ := [{ port := 1, word := 72057594037927936#64, arg := 0#64 }] }, { port := 1, word := 72057594037927936#64, arg := 0#64 }, ⟨by decide, by decide, by decide⟩, by decide, by decide⟩,
  ⟨{ ctlPort := 1, ctlQ := [{ port := 1, word := 144115188075855873#64, arg := 0#64 }] }, { port := 1, word := 144115188075855873#64, arg := 0#64 }, ⟨by decide, by decide, by decide⟩, by decide, by decide, by decide⟩,
  ⟨{ ctlPort := 1, ctlQ := [{ port := 1, word := 216172782113783809#64, arg := 4096#64 }] }, { port := 1, word := 216172782113783809#64, arg := 4096#64 }, 4096, _, rfl, rfl, ⟨by decide, by decide, by decide⟩, by decide, by decide, by decide⟩,
  ⟨{ ctlPort := 1, ctlQ := [{ port := 1, word := 360287970189639680#64, arg := 0#64 }], captureEn := true }, { port := 1, word := 360287970189639680#64, arg := 0#64 }, ⟨by decide, by decide, by decide⟩, by decide, by decide, by decide⟩,
  ⟨{ ctlPort := 1, ctlQ := [{ port := 1, word := 432345564227567616#64, arg := 0#64 }], frozen := true }, { port := 1, word := 432345564227567616#64, arg := 0#64 }, ⟨by decide, by decide, by decide⟩, by decide, by decide, by decide⟩,
  ⟨{ ctlPort := 1, ctlQ := [{ port := 1, word := 504403158265495552#64, arg := 0#64 }] }, { port := 1, word := 504403158265495552#64, arg := 0#64 }, _, _, _, ⟨by decide, by decide, by decide⟩, by decide, by decide, Prod.mk.eta.symm, fun _ => hostPut_idle rfl rfl _ _ _⟩,
  ⟨{ ctlPort := 1, ctlQ := [{ port := 1, word := 576460752303423488#64, arg := 0#64 }] }, { port := 1, word := 576460752303423488#64, arg := 0#64 }, _, _, ⟨by decide, by decide, by decide⟩, by decide, by decide, domainImage_empty rfl _⟩,
  ⟨{ ctlPort := 1, ctlQ := [{ port := 1, word := 648518346341351424#64, arg := 0#64 }], domains := [(0, {})] }, { port := 1, word := 648518346341351424#64, arg := 0#64 }, ⟨by decide, by decide, by decide⟩, by decide, by decide, by decide, by decide⟩⟩

/-- States and operands that meet the hypotheses of ControlOperationsComplete, clauses 10, 11, 12, 13 (clauses of one shape share one). -/
theorem witness_ControlOperationsComplete_B :
  (∃ (st : State) (c : Cmd), CtlHead st 10 c ∧ c.arg0 < 4096 ∧ c.arg = 0) ∧
  (∃ (st : State) (c : Cmd), CtlHead st 11 c ∧ c.arg0 < 4096 ∧ c.arg = 0) ∧
  (∃ (st : State) (c : Cmd), CtlHead st 12 c ∧ c.arg0 = 0 ∧ 100 ≤ c.arg.toNat ∧ c.arg.toNat ≤ 1000000) ∧
  (∃ (st : State) (c : Cmd), CtlHead st 13 c ∧ c.arg0 < 4096 ∧ c.arg = 0 ∧ st.ctxs = []) :=
  ⟨⟨{ ctlPort := 1, ctlQ := [{ port := 1, word := 720575940379283455#64, arg := 0#64 }] }, { port := 1, word := 720575940379283455#64, arg := 0#64 }, ⟨by decide, by decide, by decide⟩, by decide, by decide⟩,
  ⟨{ ctlPort := 1, ctlQ := [{ port := 1, word := 792633534417211391#64, arg := 0#64 }] }, { port := 1, word := 792633534417211391#64, arg := 0#64 }, ⟨by decide, by decide, by decide⟩, by decide, by decide⟩,
  ⟨{ ctlPort := 1, ctlQ := [{ port := 1, word := 864691128455135232#64, arg := 100#64 }] }, { port := 1, word := 864691128455135232#64, arg := 100#64 }, ⟨by decide, by decide, by decide⟩, by decide, by decide, by decide⟩,
  ⟨{ ctlPort := 1, ctlQ := [{ port := 1, word := 936748722493067263#64, arg := 0#64 }] }, { port := 1, word := 936748722493067263#64, arg := 0#64 }, ⟨by decide, by decide, by decide⟩, by decide, by decide, by decide⟩⟩

/-- States and operands that meet the hypotheses of UnitsPowerAndTimeComplete, clauses 1, 2, 3, 4, 5, 6, 7, 8 (clauses of one shape share one). -/
theorem witness_UnitsPowerAndTimeComplete_A :
  (∃ (st : State) (c : Cmd), ∃ p, CtlHead st 14 c ∧ c.arg0 = 0 ∧ pipeOfLoc c.arg.toNat = .inr p ∧ p ∉ st.retiredPipes ∧ st.pipeBusy p = true) ∧
  (∃ (st : State) (c : Cmd), ∃ p, CtlHead st 14 c ∧ c.arg0 = 0 ∧ pipeOfLoc c.arg.toNat = .inr p ∧ p ∉ st.retiredPipes ∧ st.pipeBusy p = false) ∧
  (∃ (st : State) (c : Cmd), ∃ p, CtlHead st 15 c ∧ c.arg0 = 0 ∧ pipeOfLoc c.arg.toNat = .inr p ∧ p ∈ st.retiredPipes) ∧
  (∃ (st : State) (c : Cmd), CtlHead st 16 c ∧ 1 ≤ c.arg0 ∧ c.arg0 ≤ 8 ∧ c.arg = 0 ∧ (st.die c.arg0).state = .fenced) ∧
  (∃ (st : State) (ofs : Int), -1000000 ≤ ofs ∧ ofs ≤ 1000000) ∧
  (∃ (st : State) (ofs : Int), (ofs < -1000000 ∨ 1000000 < ofs)) ∧
  (∃ (st : State), st.ptpSince + 10 * 940000000 ≤ st.clock) ∧
  (∃ (st : State) (dev : Nat), dev < devCount st.mode ∧ st.deepest dev = 3) :=
  ⟨⟨{ ctlPort := 1, ctlQ := [{ port := 1, word := 1008806316530991104#64, arg := 268435456#64 }], groups := [(0, tGroup 0x000A0004#32)] }, { port := 1, word := 1008806316530991104#64, arg := 268435456#64 }, 0, ⟨by decide, by decide, by decide⟩, by decide, by decide, by decide, by decide⟩,
  ⟨{ ctlPort := 1, ctlQ := [{ port := 1, word := 1008806316530991104#64, arg := 268435456#64 }] }, { port := 1, word := 1008806316530991104#64, arg := 268435456#64 }, 0, ⟨by decide, by decide, by decide⟩, by decide, by decide, by decide, by decide⟩,
  ⟨{ ctlPort := 1, ctlQ := [{ port := 1, word := 1080863910568919040#64, arg := 268435456#64 }], retiredPipes := [0] }, { port := 1, word := 1080863910568919040#64, arg := 268435456#64 }, 0, ⟨by decide, by decide, by decide⟩, by decide, by decide, by decide⟩,
  ⟨{ ctlPort := 1, ctlQ := [{ port := 1, word := 1152921504606846977#64, arg := 0#64 }], dies := [(1, { state := .fenced })] }, { port := 1, word := 1152921504606846977#64, arg := 0#64 }, ⟨by decide, by decide, by decide⟩, by decide, by decide, by decide, by decide⟩,
  ⟨{}, 1000000, by decide, by decide⟩,
  ⟨{}, 1000001, Or.inr (by decide)⟩,
  ⟨{ clock := 9400000000 }, by decide⟩,
  ⟨{ ports := [(1, { ltol := 0xFFFFFFFF }), (2, { ltol := 0xFFFFFFFF })] }, 0, by decide, by decide⟩⟩

/-- States and operands that meet the hypotheses of UnitsPowerAndTimeComplete, clauses 9, 10, 11, 14, 15, 18, 19 (clauses of one shape share one). -/
theorem witness_UnitsPowerAndTimeComplete_B :
  (∃ (st : State) (dev : Nat), dev < devCount st.mode ∧ st.deepest dev ≠ 3 ∧ mgetD st.power dev 0 < st.deepest dev) ∧
  (∃ (st : State) (dev : Nat), mgetD st.power dev 0 = 1) ∧
  (∃ (st : State) (dev : Nat), mgetD st.power dev 0 ≠ 1) ∧
  (∃ (st : State) (dev : Nat), dev < 36 ∧ dev ∉ st.downPorts) ∧
  (∃ (st : State), ∃ k x y z e, errAt k x y z = some e) ∧
  (∃ (st : State) (dev : Nat), (st.die dev).state = .quiescing) ∧
  (∃ (st : State) (dev : Nat), (st.die dev).state = .quiescing ∧ (st.die dev).quietAt + 18800000 ≤ st.hubcyc) :=
  ⟨⟨{ ports := [(1, { ltol := 0xFFFFFFFF }), (2, { ltol := 0xFFFFFFFF })], ctxs := [(0, {})], idleFor := [(0, 0)], clock := 9400 }, 0, by decide, by decide, by decide⟩,
  ⟨{ power := [(0, 1)] }, 0, by decide⟩,
  ⟨{}, 0, by decide⟩,
  ⟨{}, 35, by decide, by decide⟩,
  ⟨{}, 7, 0, 0, 0, _, some_of (by decide)⟩,
  ⟨{ dies := [(1, { state := .quiescing })] }, 1, by decide⟩,
  ⟨{ dies := [(1, { state := .quiescing })], hubcyc := 18800000 }, 1, by decide, by decide⟩⟩

/-- States and operands that meet the hypotheses of ContextCommandsComplete, clauses 1, 2, 3, 4, 5, 6, 7, 8 (clauses of one shape share one). -/
theorem witness_ContextCommandsComplete_A :
  (∃ (st : State) (c : Cmd), ∃ id x, CtxHead st 1 c ∧ st.create (st.devRead 128 (bits c.word.toNat 32 0 * 128)) = .inr (id, x)) ∧
  (∃ (st : State) (c : Cmd), ∃ x, CtxHead st 2 c ∧ mget st.ctxs c.id = some x ∧ (x.state = .running ∨ x.state = .faulted ∨ x.state = .preempted ∧ st.ckBusy c.id = false)) ∧
  (∃ (st : State) (c : Cmd), ∃ x, CtxHead st 2 c ∧ mget st.ctxs c.id = some x ∧ x.state = .destroying ∧ st.ctxIdle c.id = true) ∧
  (∃ (st : State) (c : Cmd), ∃ x, CtxHead st 3 c ∧ mget st.ctxs c.id = some x ∧ c.phase = 0 ∧ x.state = .running) ∧
  (∃ (st : State) (c : Cmd), ∃ x, CtxHead st 3 c ∧ mget st.ctxs c.id = some x ∧ c.phase ≠ 0 ∧ x.state = .preempting) ∧
  (∃ (st : State) (c : Cmd), ∃ x, CtxHead st 3 c ∧ mget st.ctxs c.id = some x ∧ c.phase ≠ 0 ∧ x.state = .preempted) ∧
  (∃ (st : State) (c : Cmd), ∃ x, CtxHead st 4 c ∧ mget st.ctxs c.id = some x ∧ c.phase = 0 ∧ st.ckBusy c.id = false ∧ x.state = .preempted ∧ x.replay = none) ∧
  (∃ (st : State) (c : Cmd), ∃ x, CtxHead st 4 c ∧ mget st.ctxs c.id = some x ∧ c.phase ≠ 0 ∧ x.state = .resuming) :=
  ⟨⟨{ ctxQ := [{ port := 1, word := 18014398509481985#64 }], mem := Memory.write [] (flatHbm 0 0 0x80) 128 97412899909064090043282654998445714769633266132744442509191943603506206803727334392582192587287415516653745324968762854057402512465315319719904398998477821326708074647242027416532185530575267843400557117965007408222565639158497280 }, { port := 1, word := 18014398509481985#64 }, _, _, ⟨by decide, by decide⟩, inr_pair (by decide)⟩,
  ⟨{ ctxQ := [{ port := 1, word := 36028797018963968#64 }], ctxs := [(0, {})] }, { port := 1, word := 36028797018963968#64 }, _, ⟨by decide, by decide⟩, rfl, by decide⟩,
  ⟨{ ctxQ := [{ port := 1, word := 36028797018963968#64 }], ctxs := [(0, { state := .destroying })] }, { port := 1, word := 36028797018963968#64 }, _, ⟨by decide, by decide⟩, rfl, by decide, by decide⟩,
  ⟨{ ctxQ := [{ port := 1, word := 54043195528445952#64 }], ctxs := [(0, {})] }, { port := 1, word := 54043195528445952#64 }, _, ⟨by decide, by decide⟩, rfl, by decide, by decide⟩,
  ⟨{ ctxQ := [{ port := 1, word := 54043195528445952#64, phase := 1 }], ctxs := [(0, { state := .preempting })] }, { port := 1, word := 54043195528445952#64, phase := 1 }, _, ⟨by decide, by decide⟩, rfl, by decide, by decide⟩,
  ⟨{ ctxQ := [{ port := 1, word := 54043195528445952#64, phase := 1 }], ctxs := [(0, { state := .preempted })] }, { port := 1, word := 54043195528445952#64, phase := 1 }, _, ⟨by decide, by decide⟩, rfl, by decide, by decide⟩,
  ⟨{ ctxQ := [{ port := 1, word := 72057594037927936#64 }], ctxs := [(0, { state := .preempted })] }, { port := 1, word := 72057594037927936#64 }, _, ⟨by decide, by decide⟩, rfl, by decide, by decide, by decide, by decide⟩,
  ⟨{ ctxQ := [{ port := 1, word := 72057594037927936#64, phase := 1 }], ctxs := [(0, { state := .resuming })] }, { port := 1, word := 72057594037927936#64, phase := 1 }, _, ⟨by decide, by decide⟩, rfl, by decide, by decide⟩⟩

/-- States and operands that meet the hypotheses of ContextCommandsComplete, clauses 9, 10, 11, 12, 13, 14 (clauses of one shape share one). -/
theorem witness_ContextCommandsComplete_B :
  (∃ (st : State) (c : Cmd), ∃ x, CtxHead st 4 c ∧ mget st.ctxs c.id = some x ∧ c.phase ≠ 0 ∧ x.state = .running) ∧
  (∃ (st : State) (c : Cmd), ∃ x die, CtxHead st 5 c ∧ mget st.ctxs c.id = some x ∧ x.state ≠ .faulted ∧ die = bits c.word.toNat 53 50 ∧ 1 ≤ die ∧ die ≤ 8) ∧
  (∃ (st : State) (n : Nat) (m : Nat), ∃ w x y, mget st.workgroups (wgKey n m) = some w ∧ w.state = .placed ∧ w.parked = false ∧ (st.ctx n).state = .running ∧ st.grids.any (fun e => decide (e.2.ctx = n) && decide (0 < e.2.depth) && e.2.expired && decide (e.2.ranges ≠ [])) = true ∧ st.allJoined (wgKey n m) = true ∧ st.wgQuiet (wgKey n m) = true ∧ st.sched n (w.core / 4) 7 (w.core % 4) 0 (some w.serial) = some x ∧ x.saveWg (wgKey n m) 0x81 = some y) ∧
  (∃ (st : State) (n : Nat) (m : Nat), ∃ w y, mget st.workgroups (wgKey n m) = some w ∧ w.state = .saved ∧ w.parked = true ∧ w.children = [] ∧ (st.ctx n).state = .running ∧ st.restoreOne (wgKey n m) = some y) ∧
  (∃ (st : State) (n : Nat) (m : Nat), ∃ w, mget st.workgroups (wgKey n m) = some w ∧ w.state = .saving ∧ st.handlerDone w = true) ∧
  (∃ (st : State) (n : Nat) (m : Nat), ∃ w y, mget st.workgroups (wgKey n m) = some w ∧ w.state = .restoring ∧ st.handlerDone w = true ∧ ({ st with groups := (match w.handlerSlot with | some gid => merase st.groups gid | none => st.groups) } : State).finishRestore (wgKey n m) = some y) :=
  ⟨⟨{ ctxQ := [{ port := 1, word := 72057594037927936#64, phase := 1 }], ctxs := [(0, {})] }, { port := 1, word := 72057594037927936#64, phase := 1 }, _, ⟨by decide, by decide⟩, rfl, by decide, by decide⟩,
  ⟨{ ctxQ := [{ port := 1, word := 91197892454252544#64 }], ctxs := [(0, {})] }, { port := 1, word := 91197892454252544#64 }, _, _, ⟨by decide, by decide⟩, rfl, by decide, rfl, by decide, by decide⟩,
  ⟨{ tState (tGroup 0x000A0004#32) 0 with workgroups := [(wgKey 0 0, { tWg with children := [1] })], groups := [(0, { tGroup 0x000A0004#32 with splits := [(0, { tSplit with wait := .joinAll })], aend := true })], grids := [(gridKey 0 0, { ctx := 0, gid := 0, base := 0, desc := {} }), (gridKey 0 1, { ctx := 0, gid := 1, base := 1, desc := {}, depth := 1, expired := true, ranges := [(0, [(0, 1)])] })] }, 0, 0, _, _, _, rfl, by decide, by decide, by decide, by decide, by decide, by decide, some_of (by decide), some_of (by decide)⟩,
  ⟨{ tState (tGroup 0x000A0004#32) 0 with groups := [], workgroups := [(wgKey 0 0, { tWg with state := .saved, parked := true, slots := [], saved := [(0, tGroup 0x000A0004#32)] })], grids := [(gridKey 0 0, { ctx := 0, gid := 0, base := 0, desc := {} })] }, 0, 0, _, _, rfl, by decide, by decide, by decide, by decide, some_of (by decide)⟩,
  ⟨{ workgroups := [(wgKey 0 0, { tWg with state := .saving })] }, 0, 0, _, rfl, by decide, by decide⟩,
  ⟨{ workgroups := [(wgKey 0 0, { tWg with state := .restoring })] }, 0, 0, _, _, rfl, by decide, by decide, some_of (by decide)⟩⟩

/-- States and operands that meet the hypotheses of RegisterAccessesComplete, clauses 1, 2, 3, 4, 5, 7, 8, 9 (clauses of one shape share one). -/
theorem witness_RegisterAccessesComplete_A :
  (∃ (st : State) (p : Nat), st.serves p = true) ∧
  (∃ (st : State), st.ctlPort ≠ 0 ∧ st.ctlLease ≤ st.clock ∧ st.holderBusy = false) ∧
  (∃ (st : State) (p : Nat) (t : Nat), st.serves p = true ∧ st.mayCtl p t = true) ∧
  (∃ (st : State) (p : Nat) (i : Nat), st.serves p = true ∧ i < 3) ∧
  (∃ (st : State) (i : Nat), i < 9) ∧
  (∃ (st : State) (p : Nat), st.serves p = true) ∧
  (∃ (st : State) (p : Nat) (src : Nat) (len : Nat) (req : Nat), bits req 31 24 = 1 ∧ mgmtOk req len 1 = true ∧ src ∈ st.mgmtSources ∧ (∀ e, mget st.mgmtSeen (src * 65536 + p % 65536) = some e → e.1 ≠ bits req 63 32)) ∧
  (∃ (st : State) (p : Nat) (src : Nat) (len : Nat) (req : Nat), ∃ x, x = ({ st with power := st.power.filter fun e => decide (e.2 < 3) } : State) ∧ bits req 31 24 = 2 ∧ mgmtOk req len 2 = true ∧ src ∈ st.mgmtSources ∧ (∀ e, mget st.mgmtSeen (src * 65536 + p % 65536) = some e → e.1 ≠ bits req 63 32) ∧ bits req 191 128 % 8 = 0 ∧ x.named (bits req 191 128) = true ∧ (ctlReg (bits req 191 128) = true → x.mayCtl 2 (bits req 95 64) = true)) :=
  ⟨⟨{}, 1, by decide⟩,
  ⟨{ ctlPort := 1 }, by decide, by decide, by decide⟩,
  ⟨{ ctlPort := 1 }, 1, 0, by decide, by decide⟩,
  ⟨{}, 2, 2, by decide, by decide⟩,
  ⟨{}, 8, by decide⟩,
  ⟨{}, 2, by decide⟩,
  ⟨{ mgmtSources := [5] }, 0, 5, 24, 79228162514264337593560810315, by decide, by decide, by decide, by decide⟩,
  ⟨{ mgmtSources := [5] }, 0, 5, 32, 5444517870814243577928258056501868970827, _, rfl, by decide, by decide, by decide, by decide, by decide, by decide, by decide⟩⟩

/-- States and operands that meet the hypotheses of RegisterAccessesComplete, clauses 10, 11, 12 (clauses of one shape share one). -/
theorem witness_RegisterAccessesComplete_B :
  (∃ (st : State) (p : Nat) (src : Nat) (len : Nat) (req : Nat), bits req 31 24 = 3 ∧ mgmtOk req len 3 = true ∧ src ∈ st.mgmtSources ∧ (∀ e, mget st.mgmtSeen (src * 65536 + p % 65536) = some e → e.1 ≠ bits req 63 32)) ∧
  (∃ (st : State) (p : Nat) (src : Nat) (req : Nat), ∃ r, src ∈ st.mgmtSources ∧ mget st.mgmtSeen (src * 65536 + p % 65536) = some (bits req 63 32, r)) ∧
  (∃ (st : State) (src : Nat), src ∉ st.mgmtSources) :=
  ⟨⟨{ mgmtSources := [5] }, 0, 5, 24, 10141204801825835211973676057419, by decide, by decide, by decide, by decide⟩,
  ⟨{ mgmtSources := [5], mgmtSeen := [(5 * 65536, (0, default))] }, 0, 5, 79228162514264337593560810315, _, by decide, rfl⟩,
  ⟨{}, 5, by decide⟩⟩

/-- States and operands that meet the hypotheses of SlateCheckpointRestoreComplete, clauses 1, 2, 3, 4 (clauses of one shape share one). -/
theorem witness_SlateCheckpointRestoreComplete :
  (∃ (st : State) (c : Cmd), ∃ d x, CtlHead st 4 c ∧ c.phase = 0 ∧ c.arg0 < 64 ∧ c.arg.toNat < 2 ^ 33 ∧ d = st.devRead 128 (c.arg.toNat * 128) ∧ ckBad d = false ∧ ckPast d = false ∧ mget st.ctxs c.arg0 = some x ∧ st.recording c.arg0 = true ∧ x.epoch.any (fun e => decide (bits d 159 128 ≤ e)) = false ∧ (x.state = .running ∨ x.state = .preempted) ∧ st.ckBusy c.arg0 = false) ∧
  (∃ (st : State) (c : Cmd), ∃ k, CtlHead st 4 c ∧ c.ck = some k ∧ c.phase = 1) ∧
  (∃ (st : State) (c : Cmd), ∃ d x, CkHead st 1 c ∧ c.phase = 0 ∧ st.ctlPort = c.port ∧ mget st.ctxs c.id = some x ∧ d = st.devRead 128 (bits c.word.toNat 32 0 * 128) ∧ (x.state = .running ∨ x.state = .preempted) ∧ st.ckBusy c.id = false ∧ ckBad d = false ∧ ckPast d = false) ∧
  (∃ (st : State) (c : Cmd), ∃ k, CkHead st 1 c ∧ c.ck = some k ∧ c.phase = 1) :=
  ⟨⟨{ ctlPort := 1, ctlQ := [{ port := 1, word := 288230376151711744#64, arg := 1#64 }], ctxs := [(0, { det := 2 })], mem := Memory.write [] (flatHbm 0 0 0x80) 128 1157920892373161954235709850086879078532699846656405640394575840079131296399360 }, { port := 1, word := 288230376151711744#64, arg := 1#64 }, 1157920892373161954235709850086879078532699846656405640394575840079131296399360, _, ⟨by decide, by decide, by decide⟩, by decide, by decide, by decide, by decide, by decide, by decide, rfl, by decide, by decide, Or.inl rfl, by decide⟩,
  ⟨{ ctlPort := 1, ctlQ := [{ port := 1, word := 288230376151711744#64, arg := 1#64, phase := 1, ck := some { ctx := 0, base := 0, size := 0, epoch := 0, buddy := 0, dirdev := 0, dirpa := 0, dirlog2 := 10 } }] }, { port := 1, word := 288230376151711744#64, arg := 1#64, phase := 1, ck := some { ctx := 0, base := 0, size := 0, epoch := 0, buddy := 0, dirdev := 0, dirpa := 0, dirlog2 := 10 } }, _, ⟨by decide, by decide, by decide⟩, rfl, by decide⟩,
  ⟨{ ctlPort := 1, ckQ := [{ port := 1, word := 18014398509481985#64 }], ctxs := [(0, {})], mem := Memory.write [] (flatHbm 0 0 0x80) 128 1157920892373161954235709850086879078532699846656405640394575840079131296399360 }, { port := 1, word := 18014398509481985#64 }, 1157920892373161954235709850086879078532699846656405640394575840079131296399360, _, ⟨by decide, by decide⟩, by decide, by decide, rfl, by decide, Or.inl rfl, by decide, by decide, by decide⟩,
  ⟨{ ctlPort := 1, ckQ := [{ port := 1, word := 18014398509481985#64, phase := 1, ck := some { ctx := 0, base := 0, size := 0, epoch := 0, buddy := 0, dirdev := 0, dirpa := 0, dirlog2 := 10 } }], ctxs := [(0, {})] }, { port := 1, word := 18014398509481985#64, phase := 1, ck := some { ctx := 0, base := 0, size := 0, epoch := 0, buddy := 0, dirdev := 0, dirpa := 0, dirlog2 := 10 } }, _, ⟨by decide, by decide⟩, rfl, by decide⟩⟩

/-- States and operands that meet the hypotheses of DigestDirectoryComplete, clauses 1, 2, 3, 4, 5, 6 (clauses of one shape share one). -/
theorem witness_DigestDirectoryComplete :
  (∃ (st : State) (src : Nat) (dg : Nat) (ofs : Nat) (ep : Nat) (pa : Nat) (lg : Nat), ∃ y r, 10 ≤ lg ∧ lg ≤ 24 ∧ pa % 128 = 0 ∧ st.dead.getLsbD src = false ∧ st.claimHere src (dg % 2 ^ 512) ofs (ep % 2 ^ 32) pa lg = (y, r)) ∧
  (∃ (st : State) (src : Nat) (ofs : Nat) (n : Nat), ofs + n ≤ 2 ^ 40 ∧ st.dead.getLsbD src = false) ∧
  (∃ (st : State) (src : Nat) (ofs : Nat), st.dead.getLsbD src = false ∧ ofs + shardSize ≤ 2 ^ 41) ∧
  (∃ (st : State) (src : Nat) (lg : Nat), 10 ≤ lg ∧ lg ≤ 24 ∧ st.dead.getLsbD src = false) ∧
  (∃ (st : State) (m : Cmd), ∃ q k, st.ckQ = m :: q ∧ m.phase = 2 ∧ m.ck = some k ∧ k.asked = true ∧ k.since + 1000 * st.peertmo ≤ st.tai) ∧
  (∃ (st : State) (m : Cmd), ∃ q k, st.ckQ = [] ∧ st.ctlQ = m :: q ∧ m.phase = 2 ∧ m.ck = some k ∧ k.asked = true ∧ k.since + 1000 * st.peertmo ≤ st.tai) :=
  ⟨⟨{}, 1, 0, 0, 0, 0, 10, _, _, by decide, by decide, by decide, by decide, Prod.mk.eta.symm⟩,
  ⟨{}, 1, 0, 4, by decide, by decide⟩,
  ⟨{}, 1, 0, by decide, by decide⟩,
  ⟨{}, 1, 24, by decide, by decide, by decide⟩,
  ⟨{ ckQ := [{ port := 1, word := 0, phase := 2, ck := some { ctx := 0, base := 0, size := 0, epoch := 0, buddy := 0, dirdev := 0, dirpa := 0, dirlog2 := 10, asked := true } }], tai := 2000000 }, _, _, _, rfl, by decide, rfl, by decide, by decide⟩,
  ⟨{ ctlQ := [{ port := 1, word := 0, phase := 2, ck := some { ctx := 0, base := 0, size := 0, epoch := 0, buddy := 0, dirdev := 0, dirpa := 0, dirlog2 := 10, asked := true } }], tai := 2000000 }, _, _, _, rfl, rfl, by decide, rfl, by decide, by decide⟩⟩

/-- States and operands that meet the hypotheses of WeirCommandsComplete, clauses 1, 2, 3, 4, 5 (clauses of one shape share one). -/
theorem witness_WeirCommandsComplete :
  (∃ (st : State), ∃ c d ws y, WeirHead st 1 c d ∧ bits d 191 128 % 4 = 0 ∧ mget (mgetD st.weirs (bits d 15 8) {}).slots (bits d 23 16) = none ∧ (st.ctxOfDomain (bits d 63 48)).isSome = true ∧ st.weirFor (bits d 63 48) (decide (bits d 31 24 = 1)) = none ∧ bits d 95 64 % 4096 = 0 ∧ 4096 ≤ bits d 95 64 ∧ (mgetD st.weirs (bits d 15 8) {}).slots.foldl (fun n e => n + e.2.flowsz) 0 + bits d 95 64 ≤ 262144 ∧ bits d 47 40 ≤ 13 ∧ (bits d 47 40 ≠ 0 → 32 * bits d 351 320 + 32 * 2 ^ bits d 47 40 ≤ bits d 95 64) ∧ 1 ≤ bits d 127 96 ∧ bits d 127 96 ≤ 128 ∧ ws = (List.range (bits d 127 96)).map (fun i => st.devRead 4 (bits d 191 128 + 4 * i)) ∧ weirCheck ws (bits d 47 40) = (0, 0) ∧ (mgetD st.weirs (bits d 15 8) {}).run = none ∧ st.weirGate (bits d 15 8) (bits d 23 16) (bits d 63 48) (recWeir 2 (bits d 23 16) 0 1) = some y) ∧
  (∃ (st : State), ∃ c d s y, WeirHead st 2 c d ∧ mget (mgetD st.weirs (bits d 15 8) {}).slots (bits d 23 16) = some s ∧ (mgetD st.weirs (bits d 15 8) {}).run = none ∧ st.weirGate (bits d 15 8) (bits d 23 16) s.domain (recWeir 2 (bits d 23 16) 0 2) = some y) ∧
  (∃ (st : State), ∃ c d s y z, WeirHead st 3 c d ∧ mget (mgetD st.weirs (bits d 15 8) {}).slots (bits d 23 16) = some s ∧ (mgetD st.weirs (bits d 15 8) {}).run = none ∧ st.weirGate (bits d 15 8) (bits d 23 16) s.domain (recWeir 2 (bits d 23 16) 0 3) = some y ∧ bits d 287 256 % 32 = 0 ∧ bits d 319 288 % 32 = 0 ∧ bits d 287 256 + bits d 319 288 ≤ s.flowsz ∧ y.hostPut (bits d 319 288) (bits d 255 192) (y.read (flatFlow (bits d 15 8) (s.base + bits d 287 256)) (bits d 319 288)) = some z) ∧
  (∃ (st : State), ∃ c d s y z v, WeirHead st 4 c d ∧ mget (mgetD st.weirs (bits d 15 8) {}).slots (bits d 23 16) = some s ∧ (mgetD st.weirs (bits d 15 8) {}).run = none ∧ st.weirGate (bits d 15 8) (bits d 23 16) s.domain (recWeir 2 (bits d 23 16) 0 4) = some y ∧ bits d 287 256 % 32 = 0 ∧ bits d 319 288 % 32 = 0 ∧ bits d 287 256 + bits d 319 288 ≤ s.flowsz ∧ y.hostGet (bits d 319 288) (bits d 255 192) = some (z, v)) ∧
  (∃ (st : State) (port : Nat), ∃ slot p q f, (mgetD st.weirs port {}).run = none ∧ (mgetD st.weirs port {}).queue = (slot, f, p) :: q) :=
  ⟨⟨{ wQ := [{ port := 1, word := 0x80 }], ctxs := [(0, { domain := some 0 })], mem := Memory.write (Memory.write [] (flatHbm 0 0 0x80) 128 87112285931839474884696027566040529502209) (flatHbm 0 0 0x100) 4 0x1E000000 }, { port := 1, word := 0x80 }, 87112285931839474884696027566040529502209, _, _, ⟨by decide, by decide, by decide⟩, by decide, by decide, by decide, by decide, by decide, by decide, by decide, by decide, by decide, by decide, by decide, rfl, by decide, by decide, some_of (by decide)⟩,
  ⟨{ wQ := [{ port := 1, word := 0x80 }], ctxs := [(0, { domain := some 0 })], mem := Memory.write [] (flatHbm 0 0 0x80) 128 2, weirs := [(0, { slots := [(0, { domain := 0, egress := false, drops := false, lklog2 := 0, lkbase := 0, flowsz := 4096, base := 0, code := [0x1E000000#32] })] })] }, { port := 1, word := 0x80 }, 2, _, _, ⟨by decide, by decide, by decide⟩, rfl, by decide, some_of (by decide)⟩,
  ⟨{ wQ := [{ port := 1, word := 0x80 }], ctxs := [(0, { domain := some 0 })], mem := Memory.write [] (flatHbm 0 0 0x80) 128 15914343565113172548972231940698266883214596825515126958094847260581103904401068017057795, weirs := [(0, { slots := [(0, { domain := 0, egress := false, drops := false, lklog2 := 0, lkbase := 0, flowsz := 4096, base := 0, code := [0x1E000000#32] })] })] }, { port := 1, word := 0x80 }, 15914343565113172548972231940698266883214596825515126958094847260581103904401068017057795, _, _, _, ⟨by decide, by decide, by decide⟩, rfl, by decide, some_of (by decide), by decide, by decide, by decide, some_of (by decide)⟩,
  ⟨{ wQ := [{ port := 1, word := 0x80 }], ctxs := [(0, { domain := some 0 })], mem := Memory.write [] (flatHbm 0 0 0x80) 128 15914343565113172548972231940698266883214596825515126958094847260581103904401068017057796, weirs := [(0, { slots := [(0, { domain := 0, egress := false, drops := false, lklog2 := 0, lkbase := 0, flowsz := 4096, base := 0, code := [0x1E000000#32] })] })] }, { port := 1, word := 0x80 }, 15914343565113172548972231940698266883214596825515126958094847260581103904401068017057796, _, _, _, _, ⟨by decide, by decide, by decide⟩, rfl, by decide, some_of (by decide), by decide, by decide, by decide, some_pair (by decide)⟩,
  ⟨{ weirs := [(0, { queue := [(0, 0xFF, { hdr := 0 })] })] }, 0, _, _, _, _, by decide, rfl⟩⟩

theorem witness_RecordAndReplayComplete_0 : ∃ (st : State) (c : Cmd) (sl : ReelTake) (slates : List ReelTake), ∃ x, RepHead st 1 c ∧ mget st.ctxs c.id = some x ∧ x.state = .preempted ∧ x.replay.any (fun r => decide (r.state ≤ 3)) = false ∧ slates = (st.reelAll x.dev).filter (fun t => decide (t.rid = 0xFFFE) && decide (t.epoch = c.word.toNat % 2 ^ 32)) ∧ (slates.find? (fun t => decide (wordsNat ((t.words.drop 3).take 8) = x.image)) = some sl ∨   slates.find? (fun t => decide (wordsNat ((t.words.drop 3).take 8) = x.image)) = none ∧ slates.head? = some sl) ∧ sl.ok = true ∧ armError (takesOf (st.reelAll x.dev) sl.slateCtx) (c.word.toNat % 2 ^ 32) sl.slateCtx = none :=
  ⟨{ repQ := [{ port := 1, word := 18014398509481984#64 }], ctxs := [(0, { state := .preempted })], reelSize := 1, mem := Memory.write [] (State.flatPa { reelSize := 1 } 0 (State.reelBase { reelSize := 1 })) 40 (sealTake (takeHead 0xFFFE 40 0 0 0 0 0 0 0 1) 0 8) }, { port := 1, word := 18014398509481984#64 }, { rid := 0xFFFE, len := 40, tidx := 0, epoch := 0, ctx := 0, ok := true, words := [0] }, _, _, ⟨by decide, by decide⟩, rfl, by decide, by decide, rfl, Or.inl (by decide +kernel), by decide, by decide +kernel⟩

/-- States and operands that meet the hypotheses of RecordAndReplayComplete, clauses 2, 3, 4, 5, 6, 10, 11, 12 (clauses of one shape share one). -/
theorem witness_RecordAndReplayComplete_A :
  (∃ (st : State) (c : Cmd), ∃ x, RepHead st 2 c ∧ mget st.ctxs c.id = some x ∧ c.phase = 0 ∧ x.state = .preempted ∧ x.replay.any (fun r => decide (r.state = 1)) = true) ∧
  (∃ (st : State) (c : Cmd), ∃ x, RepHead st 2 c ∧ mget st.ctxs c.id = some x ∧ c.phase ≠ 0 ∧ x.state = .resuming ∧ x.replay.any (fun r => decide (r.state = 2)) = true) ∧
  (∃ (st : State) (c : Cmd), ∃ x, RepHead st 2 c ∧ mget st.ctxs c.id = some x ∧ c.phase ≠ 0 ∧ x.state = .running) ∧
  (∃ (st : State) (c : Cmd), ∃ t, RepHead st 3 c ∧ (st.ctx c.id).replay.any (fun r => decide (1 ≤ r.state) && decide (r.state ≤ 3)) = true ∧ t = st.repAtTake c.id) ∧
  (∃ (st : State) (c : Cmd), ∃ t, RepHead st 4 c ∧ (st.ctx c.id).replay.any (fun r => decide (r.state = 3)) = true ∧ t = st.repAtTake c.id) ∧
  (∃ (st : State) (n : Nat) (rid : Nat) (i : Nat), ∃ r ti q, (st.ctx n).replay = some r ∧ r.state = 2 ∧ (mgetD r.logs rid [])[i]? = some (ti, q) ∧ (st.missed rid q = true ∨ (unitHeads rid (mgetD r.logs rid [])).any (fun h => decide (h = (ti, q))) = true ∧   (max r.begun (mgetD r.wait (recUnit rid q) 0) + 2 ^ 24 ≤ st.clock ∨ st.opcDiffers rid q = true))) ∧
  (∃ (st : State) (n : Nat), ∃ r r' ts, (st.ctx n).replay = some r ∧ r.state = 2 ∧ ts = takesOf (st.reelAll (st.ctx n).dev) r.src ∧ r' = loadAll ts r) ∧
  (∃ (st : State) (n : Nat) (rid : Nat), ∃ t, mget (st.ctx n).takes rid = some t ∧ t.cycle + (if hubRecorder rid then 2 ^ 21 else 2 ^ 20) ≤ st.takeCycle rid) :=
  ⟨⟨{ repQ := [{ port := 1, word := 36028797018963968#64 }], ctxs := [(0, { state := .preempted, replay := some { epoch := 0, state := 1 } })] }, { port := 1, word := 36028797018963968#64 }, _, ⟨by decide, by decide⟩, rfl, by decide, by decide, by decide⟩,
  ⟨{ repQ := [{ port := 1, word := 36028797018963968#64, phase := 1 }], ctxs := [(0, { state := .resuming, replay := some { epoch := 0, state := 2 } })] }, { port := 1, word := 36028797018963968#64, phase := 1 }, _, ⟨by decide, by decide⟩, rfl, by decide, by decide, by decide⟩,
  ⟨{ repQ := [{ port := 1, word := 36028797018963968#64, phase := 1 }], ctxs := [(0, { replay := some { epoch := 0, state := 2 } })] }, { port := 1, word := 36028797018963968#64, phase := 1 }, _, ⟨by decide, by decide⟩, rfl, by decide, by decide⟩,
  ⟨{ repQ := [{ port := 1, word := 54043195528445952#64 }], ctxs := [(0, { replay := some { epoch := 0, state := 3 } })] }, { port := 1, word := 54043195528445952#64 }, _, ⟨by decide, by decide⟩, by decide, rfl⟩,
  ⟨{ repQ := [{ port := 1, word := 72057594037927936#64 }], ctxs := [(0, { replay := some { epoch := 0, state := 3 } })] }, { port := 1, word := 72057594037927936#64 }, _, ⟨by decide, by decide⟩, by decide, rfl⟩,
  ⟨{ ctxs := [(0, { replay := some { epoch := 0, state := 2, logs := [(0, [(0, [0])])] } })], clock := 0x1000000 }, 0, 0, 0, _, _, _, rfl, by decide, rfl, by decide⟩,
  ⟨{ ctxs := [(0, { replay := some { epoch := 0, state := 2, logs := [(0, [(0, [0])])] } })] }, 0, _, _, _, rfl, by decide, rfl, rfl⟩,
  ⟨{ ctxs := [(0, { takes := [(673, { rid := 673, tidx := 0, cycle := 0, ltime := 0, flags := 0, epoch := 0, ctx := 0, die := 0 })] })], hubcyc := 0x200000 }, 0, 673, _, rfl, by decide⟩⟩

/-- States and operands that meet the hypotheses of RecordAndReplayComplete, clauses 14, 15 (clauses of one shape share one). -/
theorem witness_RecordAndReplayComplete_B :
  (∃ (st : State), ∃ dev t y, st.nextTake dev = some t ∧ st.putReel dev t.rid t.len t.bytes = (y, true)) ∧
  (∃ (st : State), ∃ dev a k y, st.drainDev = some dev ∧ st.undrained dev = some (a, k) ∧ st.reelDrain ≠ 0 ∧ st.drSize ≠ 0 ∧ st.drProd + k ≤ st.drSize + st.drCons ∧ y = ({ st with free := st.free + 1 } : State).ringWrite dev a st.drProd k) :=
  ⟨⟨{ closedTakes := [{ rid := 673, tidx := 0, cycle := 0, ltime := 0, flags := 0, epoch := 0, ctx := 0, die := 0 }] }, 0, _, _, rfl, pair_of (by decide)⟩,
  ⟨{ reels := [(0, { takes := [(0, 128, 673)] })], reelDrain := 1, drSize := 65536 }, 0, 0, 128, _, only_one (by decide) _, rfl, by decide, by decide, by decide, rfl⟩⟩

/-- States and operands that meet the hypotheses of DistributorsComplete, clauses 1, 2, 3, 5, 6, 7, 8, 9 (clauses of one shape share one). -/
theorem witness_DistributorsComplete_A :
  (∃ (st : State) (i : Nat), ∃ r g s, st.launches[i]? = some r ∧ mget st.groups r.group = some g ∧ g.splitAt r.slot = some s ∧ s.wait = .launch ∧ r.reason ≠ 0) ∧
  (∃ (st : State) (i : Nat), ∃ r g s y id z w t, st.launches[i]? = some r ∧ mget st.groups r.group = some g ∧ g.splitAt r.slot = some s ∧ s.wait = .launch ∧ r.reason = 0 ∧ (st.oldest r.ctx (st.ctx r.ctx).serial = 0 ∨ st.oldest r.ctx (st.ctx r.ctx).serial + r.desc.x * r.desc.y * r.desc.z < 2 ^ 38) ∧ st.owesBefore r.group = false ∧ st.seqTicket r.ctx 1 (locOf r.group 0) g.icntC = some (y, t) ∧ y.enterGrid r.ctx r.desc r.depth r.tag r.doneAt r.parent r.gates false = (z, id) ∧ w = (match r.parent with | some p => z.updWg p (fun w => { w with children := w.children ++ [id] }) | none => z).trace 0 1 (some r.ctx) 0 (r.tag + id * 2 ^ 64 + r.depth * 2 ^ 96)) ∧
  (∃ (st : State) (n : Nat) (m : Nat) (cl : Nat), ∃ g, mget st.grids (gridKey n m) = some g ∧ st.placeable g = true ∧ g.left cl ≠ 0 ∧ (∀ e ∈ st.grids, e.2.ctx = n → e.1 ≠ gridKey n m → st.placeable e.2 = true → e.2.before g = true → e.2.left cl ≠ 0 →   e.2.coop = false ∧ e.2.expired = false ∧ st.findCluster cl e.2.desc = none) ∧ st.ahead n = false ∧ (∀ e ∈ st.grids, st.reserves cl e.2 g = false)) ∧
  (∃ (st : State) (n : Nat) (m : Nat) (cl : Nat), ∃ g v u k t y, mget st.grids (gridKey n m) = some g ∧ cl ∈ st.eligible (st.ctx n).dev (g.desc.flags / 8 % 4) ∧ g.leftDie cl = 0 ∧ stealFrom (((st.eligible (st.ctx n).dev (g.desc.flags / 8 % 4)).filter fun d => decide (d ≠ cl)).map fun d => (d, g.leftDie d)) = some (v, u) ∧ runTake (u - u / 2) (g.dieRuns v) = (k, t) ∧ st.sched n 710 5 v cl (some ((g.base + (t.headD (0, 0)).1) % 2 ^ 39)) = some y) ∧
  (∃ (st : State) (n : Nat) (m : Nat) (cl : Nat), ∃ g v u k t y, mget st.grids (gridKey n m) = some g ∧ clusterDie cl ∈ st.eligible (st.ctx n).dev (g.desc.flags / 8 % 4) ∧ g.left cl = 0 ∧ stealFrom ((dieClusters (clusterDie cl)).filterMap fun c => if c = cl then none else some (c, g.left c)) = some (v, u) ∧ runTake (u - u / 2) (mgetD g.ranges v []) = (k, t) ∧ st.sched n (710 + clusterDie cl) 5 (clusterInDie v) (clusterInDie cl) (some ((g.base + (t.headD (0, 0)).1) % 2 ^ 39)) = some y) ∧
  (∃ (st : State) (n : Nat) (m : Nat), ∃ g y, mget st.grids (gridKey n m) = some g ∧ g.gateHeld = true ∧ g.openGate = false ∧ st.sched n 710 6 0 0 (some g.base) = some y) ∧
  (∃ (st : State) (n : Nat) (m : Nat), ∃ g lin serial a rest more y, mget st.grids (gridKey n m) = some g ∧ g.pendAtoms = (lin, serial, a :: rest) :: more ∧ g.retired = g.total ∧ (a.glob = false ∧ st.lostTrap a.addr = none ∧ y = (st.writeAll a.addr a.esize (atomNew a.op a.esize (st.read a.addr a.esize) a.val 0)).soil (a.bad || st.poisonedAt a.addr a.esize) a.addr ∨   a.glob = true ∧ st.hubAtomic n a.addr a.esize .rw false a.bad (fun old => atomNew a.op a.esize old a.val 0) = .done y)) ∧
  (∃ (st : State) (n : Nat) (m : Nat), ∃ g y, mget st.grids (gridKey n m) = some g ∧ g.ended = true ∧ g.doneAt ≠ 0 ∧ g.doneAt % 16 = 0 ∧ g.doneAt < 2 ^ 52 ∧ st.hubAtomic n g.doneAt 8 .w true false (fun v => (v + 1) % 2 ^ 64) = .done y) :=
  ⟨⟨{ tState (tGroup 0x000A0004#32) 0 with groups := [(0, { tGroup 0x000A0004#32 with splits := [(0, { tSplit with wait := .launch })] })], launches := [{ group := 0, slot := 0, dreg := 1, ctx := 0, desc := {}, reason := 7 }] }, 0, _, _, _, rfl, rfl, rfl, by decide, by decide⟩,
  ⟨{ tState (tGroup 0x000A0004#32) 0 with workgroups := [], groups := [(0, { tGroup 0x000A0004#32 with splits := [(0, { tSplit with wait := .launch })] })], launches := [{ group := 0, slot := 0, dreg := 1, ctx := 0, desc := {}, reason := 0 }] }, 0, _, _, _, _, _, _, _, _, rfl, rfl, rfl, by decide, by decide, Or.inl (by decide), by decide, some_pair (by decide), Prod.mk.eta.symm, rfl⟩,
  ⟨{ grids := [(gridKey 0 0, { ctx := 0, gid := 0, base := 0, desc := {}, openGate := true, ranges := [(0, [(0, 1)])] })], ctxs := [(0, {})] }, 0, 0, 0, _, rfl, by decide, by decide, by decide, by decide, by decide⟩,
  ⟨{ grids := [(gridKey 0 0, { ctx := 0, gid := 0, base := 0, desc := {}, ranges := [(0, [(0, 4)])] })], ctxs := [(0, {})] }, 0, 0, 2, _, _, _, _, _, _, rfl, by decide, by decide, some_pair (by decide), Prod.mk.eta.symm, some_of (by decide)⟩,
  ⟨{ grids := [(gridKey 0 0, { ctx := 0, gid := 0, base := 0, desc := {}, ranges := [(0, [(0, 4)])] })], ctxs := [(0, {})] }, 0, 0, 1, _, _, _, _, _, _, rfl, by decide, by decide, some_pair (by decide), Prod.mk.eta.symm, some_of (by decide)⟩,
  ⟨{ grids := [(gridKey 0 0, { ctx := 0, gid := 0, base := 0, desc := {}, gateHeld := true })], ctxs := [(0, {})] }, 0, 0, _, _, rfl, by decide, by decide, some_of (by decide)⟩,
  ⟨{ grids := [(gridKey 0 0, { ctx := 0, gid := 0, base := 0, desc := {}, retired := 1, pendAtoms := [(0, 0, [{ wtid := 0, seq := 0, addr := flatCore 0 0, glob := false, early := false, op := 1, esize := 4, val := 0 }])] })], ctxs := [(0, {})] }, 0, 0, _, _, _, _, _, _, _, rfl, rfl, by decide, Or.inl ⟨rfl, by decide, rfl⟩⟩,
  ⟨{ tState (tGroup 0x000A0004#32) 0 with grids := [(gridKey 0 0, { ctx := 0, gid := 0, base := 0, desc := {}, ended := true, doneAt := 0x20000 })] }, 0, 0, _, _, rfl, by decide, by decide, by decide, by decide, done_of (by decide)⟩⟩

/-- States and operands that meet the hypotheses of DistributorsComplete, clause 10 (clauses of one shape share one). -/
theorem witness_DistributorsComplete_B : ∃ (st : State) (n : Nat) (m : Nat), ∃ g, mget st.grids (gridKey n m) = some g ∧ g.ended = true ∧ g.doneAt ≠ 0 ∧ (g.doneAt % 16 ≠ 0 ∨ 2 ^ 52 ≤ g.doneAt) :=
  ⟨{ tState (tGroup 0x000A0004#32) 0 with grids := [(gridKey 0 0, { ctx := 0, gid := 0, base := 0, desc := {}, ended := true, doneAt := 0x20008 })] }, 0, 0, _, rfl, by decide, by decide, Or.inl (by decide)⟩

/-- States and operands that meet the hypotheses of WaitsAndTrapEntryComplete, clauses 2, 3, 4, 5, 6, 7, 8, 9 (clauses of one shape share one). -/
theorem witness_WaitsAndTrapEntryComplete_A :
  (∃ (st : State) (n : Nat) (m : Nat), ∃ g s y, mget st.groups n = some g ∧ g.splitAt m = some s ∧ s.wait = .freed 3 ∧ st.wakes g = true ∧ st.releaseGate n m g = some y) ∧
  (∃ (st : State) (n : Nat) (m : Nat), ∃ g s y, mget st.groups n = some g ∧ g.splitAt m = some s ∧ s.wait = .freed 4 ∧ st.wakes g = true ∧ st.releaseGate n m g = some y) ∧
  (∃ (st : State) (n : Nat) (m : Nat), ∃ g s y, mget st.groups n = some g ∧ g.splitAt m = some s ∧ s.wait = .freed 5 ∧ st.wakes g = true ∧ st.releaseGate n m g = some y) ∧
  (∃ (st : State) (n : Nat) (m : Nat), ∃ x g s y, x = st.updGroup n (fun g => g.updSplit m fun s => if s.wait = .sleep 0 then { s with wait := .freed 6 } else s) ∧ mget x.groups n = some g ∧ g.splitAt m = some s ∧ s.wait = .freed 6 ∧ x.wakes g = true ∧ x.releaseGate n m g = some y) ∧
  (∃ (st : State) (n : Nat), ∃ g y, mget st.groups n = some g ∧ g.await = .freed ∧ st.wakes g = true ∧ st.releaseGate n 4 g = some y) ∧
  (∃ (st : State) (n : Nat), ∃ g, mget st.groups n = some g ∧ 2 ^ (st.ctx (st.ctxOf g)).wdog ≤ g.watchdog) ∧
  (∃ (st : State) (n : Nat), ∃ g, mget st.groups n = some g ∧ g.entering.isSome = true) ∧
  (∃ (st : State) (n : Nat), ∃ g p, mget st.groups n = some g ∧ g.entering = none ∧ st.endedWait n g = some p) :=
  ⟨⟨{ tState (tGroup 0x000A0004#32) 0 with groups := [(0, { tGroup 0x000A0004#32 with splits := [(0, { tSplit with wait := .freed 3 })] })] }, 0, 0, _, _, _, rfl, rfl, by decide, by decide, some_of (by decide)⟩,
  ⟨{ tState (tGroup 0x000A0004#32) 0 with groups := [(0, { tGroup 0x000A0004#32 with splits := [(0, { tSplit with wait := .freed 4 })] })] }, 0, 0, _, _, _, rfl, rfl, by decide, by decide, some_of (by decide)⟩,
  ⟨{ tState (tGroup 0x000A0004#32) 0 with groups := [(0, { tGroup 0x000A0004#32 with splits := [(0, { tSplit with wait := .freed 5 })] })] }, 0, 0, _, _, _, rfl, rfl, by decide, by decide, some_of (by decide)⟩,
  ⟨{ tState (tGroup 0x000A0004#32) 0 with groups := [(0, { tGroup 0x000A0004#32 with splits := [(0, { tSplit with wait := .sleep 0 })] })] }, 0, 0, _, _, _, _, rfl, rfl, rfl, by decide, by decide, some_of (by decide)⟩,
  ⟨{ tState (tGroup 0x000A0004#32) 0 with groups := [(0, { tGroup 0x000A0004#32 with await := .freed })] }, 0, _, _, rfl, by decide, by decide, some_of (by decide)⟩,
  ⟨{ tState (tGroup 0x000A0004#32) 0 with groups := [(0, { tGroup 0x000A0004#32 with watchdog := 0x100000000 })] }, 0, _, rfl, by decide⟩,
  ⟨{ tState (tGroup 0x000A0004#32) 0 with groups := [(0, { tGroup 0x000A0004#32 with entering := some { trap := { cause := .prot }, kind := .precise } })] }, 0, _, rfl, by decide⟩,
  ⟨{ tState (tGroup 0x000A0004#32) 0 with groups := [(0, { tGroup 0x000A0004#32 with pend := [{ trap := { cause := .peerDead }, kind := .waiter }] })] }, 0, _, _, rfl, by decide, some_of (by decide)⟩⟩

/-- States and operands that meet the hypotheses of WaitsAndTrapEntryComplete, clauses 10, 11 (clauses of one shape share one). -/
theorem witness_WaitsAndTrapEntryComplete_B :
  (∃ (st : State) (n : Nat) (m : Nat), ∃ f r z y, (st.ctx n).faults[m]? = some f ∧ st.resultRead n f = some (r, z) ∧ y = z.updCtx n (fun x => { x with faults := x.faults.filter fun q => decide (q.index ≠ f.index) })) ∧
  (∃ (st : State) (n : Nat) (m : Nat), ∃ g s y, mget st.groups n = some g ∧ g.splitAt m = some s ∧ s.wait = .flush ∧ st.censusFlush (st.ctxOf g) = some y) :=
  ⟨⟨(let u := tState (tGroup 0x000A0004#32) 0; { u with mem := u.mem.write (flatHbm 0 0 0x100098) 4 1, ctxs := [(0, { troot := 0x10000, fqhdr := 0x20000, faults := [{ index := 0, entry := 0x20080, page := 2, detail := 0 }] })] }), 0, 0, _, _, _, _, rfl, some_pair (by decide), rfl⟩,
  ⟨{ tState (tGroup 0x000A0004#32) 0 with groups := [(0, { tGroup 0x000A0004#32 with splits := [(0, { tSplit with wait := .flush })] })] }, 0, 0, _, _, _, rfl, rfl, by decide, some_of (by decide)⟩⟩

/-- States and operands that meet the hypotheses of MemoryUnitsComplete, clauses 1, 2, 3, 4, 6, 7, 8, 9 (clauses of one shape share one). -/
theorem witness_MemoryUnitsComplete_A :
  (∃ (st : State) (n : Nat) (id : Nat) (va : Nat), ∃ g a b l x y, LineReady st n id va isLoad g a l ∧ st.atLine n g a l = some x ∧ x.serveLine n g a l = some (y, b)) ∧
  (∃ (st : State) (n : Nat) (id : Nat) (va : Nat), ∃ g a b l x y, LineReady st n id va isStore g a l ∧ st.atLine n g a l = some x ∧ x.serveLine n g a l = some (y, b)) ∧
  (∃ (st : State) (n : Nat) (id : Nat) (va : Nat), ∃ g a b l x y, LineReady st n id va isAtom g a l ∧ st.atLine n g a l = some x ∧ x.serveLine n g a l = some (y, b)) ∧
  (∃ (st : State) (n : Nat) (id : Nat), ∃ g a, mget st.groups n = some g ∧ g.accessOf id = some a ∧ a.resolved = true ∧ a.checked = true ∧ a.lines.all (fun m => m.done) = true ∧ (a.kind = .vdef → st.slotBusy g a.slot = false)) ∧
  (∃ (st : State) (n : Nat), ∃ e r w x y b l k g a m, st.spillway n = e :: r ∧ ((st.ctx e.ctx).state = .running ∨ (st.ctx e.ctx).state = .preempting ∨ (st.ctx e.ctx).state = .resuming) ∧ st.checkLines e.ctx (.stream e.group true) e.access.esize (kindNeed e.access.kind).1 (kindNeed e.access.kind).2.1 (kindNeed e.access.kind).2.2 [e.line] = k ∧ k.trap = none ∧ k.good = [l] ∧ g = mgetD k.st.groups e.group { wg := e.wg } ∧ a = { e.access with lines := [l] } ∧ m = k.st.moveOf e.group g a l ∧ k.st.inTurn e.group g a l = true ∧ k.st.placeFree a l = true ∧ k.st.migrating l.pa = false ∧ k.st.moveTurn m = true ∧ k.st.recStalls e.ctx = false ∧ k.st.dirtied e.ctx e.group a l = some w ∧ (if releases a.order then w.released e.group a.scope a.id else w).serveLine e.group g a l = some (x, b) ∧ y = { x with spillways := mset x.spillways n ((x.spillway n).eraseIdx 0) }) ∧
  (∃ (st : State) (n : Nat), ∃ g scope up, mget st.groups n = some g ∧ st.spilledBy n g.wg (fun _ => true) = false ∧ g.await = .fence 0 scope up ∧ acquireReady g up = true) ∧
  (∃ (st : State) (n : Nat), ∃ g f t u up y, mget st.groups n = some g ∧ g.await = .xfence f t u up ∧ st.pathsDone n g f (if t / 2 = 0 then u else 5) up = true ∧ y = (if f % 2 = 1 then st.published n u up else st)) ∧
  (∃ (st : State) (n : Nat), ∃ g scope up y t, mget st.groups n = some g ∧ g.await = .fence 3 scope up ∧ st.releaseDone n g scope up = true ∧ st.seqTicket (st.ctxOf g) 0 (locOf n 0) g.icntA = some (y, t)) :=
  ⟨⟨{ tState (tGroup 0x000A0004#32) 0 with groups := [(0, { tGroup 0x000A0004#32 with memq := [{ id := 1, kind := .load, esize := 8, slot := 0, lines := [{ va := 0, pa := flatCore 0 0, glob := false, elems := [{ off := 0, pos := 0 }] }] }] })] }, 0, 1, 0, _, _, _, _, _, _, ⟨rfl, rfl, by decide, by decide, by decide, by decide, rfl, by decide⟩, some_of (by decide), some_pair (by decide)⟩,
  ⟨{ tState (tGroup 0x000A0004#32) 0 with groups := [(0, { tGroup 0x000A0004#32 with memq := [{ id := 1, kind := .store, esize := 8, slot := 0, lines := [{ va := 0, pa := flatCore 0 0, glob := false, elems := [{ off := 0, pos := 0 }] }] }] })] }, 0, 1, 0, _, _, _, _, _, _, ⟨rfl, rfl, by decide, by decide, by decide, by decide, rfl, by decide⟩, some_of (by decide), some_pair (by decide)⟩,
  ⟨{ tState (tGroup 0x000A0004#32) 0 with groups := [(0, { tGroup 0x000A0004#32 with memq := [{ id := 1, kind := .atom, esize := 8, slot := 0, lines := [{ va := 0, pa := flatCore 0 0, glob := false, elems := [{ off := 0, pos := 0 }] }] }] })] }, 0, 1, 0, _, _, _, _, _, _, ⟨rfl, rfl, by decide, by decide, by decide, by decide, rfl, by decide⟩, some_of (by decide), some_pair (by decide)⟩,
  ⟨{ tState (tGroup 0x000A0004#32) 0 with groups := [(0, { tGroup 0x000A0004#32 with memq := [{ id := 1, kind := .load, esize := 8, slot := 0, lines := [{ va := 0, pa := flatCore 0 0, glob := false, elems := [{ off := 0, pos := 0 }], done := true }] }] })] }, 0, 1, _, _, rfl, rfl, by decide, by decide, by decide, by decide⟩,
  ⟨{ tState (tGroup 0x000A0004#32) 0 with dies := [(1, { l2 := [(flatHbm 0 0 0x100000, {})] })], dir := [(flatHbm 0 0 0x100000, { dies := 2#9, excl := true })], spillways := [(0, [{ ctx := 0, group := 0, wg := wgKey 0 0, access := { id := 1, kind := .store, esize := 8, slot := 0, lines := [{ va := 0x20000, pa := 0, glob := true, elems := [{ off := 0, pos := 0 }] }] } }])] }, 0, _, _, _, _, _, _, _, _, _, _, _, rfl, Or.inl rfl, rfl, none_of (by decide), one_of (by decide), rfl, rfl, rfl, by decide, by decide, by decide, by decide, by decide, some_of (by decide), some_pair (by decide), rfl⟩,
  ⟨{ tState (tGroup 0x000A0004#32) 0 with groups := [(0, { tGroup 0x000A0004#32 with await := .fence 0 3 1 })] }, 0, _, _, _, rfl, by decide, rfl, by decide⟩,
  ⟨{ tState (tGroup 0x000A0004#32) 0 with groups := [(0, { tGroup 0x000A0004#32 with await := .xfence 1 1 3 1 })] }, 0, _, _, _, _, _, _, rfl, rfl, by decide, rfl⟩,
  ⟨{ tState (tGroup 0x000A0004#32) 0 with groups := [(0, { tGroup 0x000A0004#32 with await := .fence 3 3 1 })] }, 0, _, _, _, _, _, rfl, rfl, by decide, some_pair (by decide)⟩⟩

/-- States and operands that meet the hypotheses of MemoryUnitsComplete, clause 10 (clauses of one shape share one). -/
theorem witness_MemoryUnitsComplete_B : ∃ (st : State) (n : Nat) (id : Nat), ∃ g a y t w z, mget st.groups n = some g ∧ g.await = .ready ∧ (g.accessOf id).or (((st.spillway (quadOf n)).find? fun e => decide (e.group = n) && decide (e.wg = g.wg) && decide (e.access.id = id)).map (·.access)) = some a ∧ a.order = 4 ∧ a.ticket = none ∧ st.releaseDone n g a.scope id = true ∧ st.seqTicket (st.ctxOf g) 0 (locOf n 0) g.icntA = some (y, t) ∧ w = (y.raisePts (gCore n) g.amark).raisePts (gCore n) (y.die (gDie n)).maxT ∧ z = ((w.released n a.scope id).bindSeen n a.scope id).updGroup n (fun g => g.updAccess id fun a => { a with ticket := some st.ticket }) :=
  ⟨{ tState (tGroup 0x000A0004#32) 0 with groups := [(0, { tGroup 0x000A0004#32 with memq := [{ id := 1, kind := .atom, esize := 8, slot := 0, lines := [], order := 4 }] })] }, 0, 1, _, _, _, _, _, _, rfl, by decide, rfl, by decide, by decide, by decide, some_pair (by decide), rfl, rfl⟩

/-- States and operands that meet the hypotheses of DirectoryAndPagesComplete, clauses 1, 2, 3, 4, 5, 6, 10, 11 (clauses of one shape share one). -/
theorem witness_DirectoryAndPagesComplete_A :
  (∃ (st : State) (n : Nat), 1 ≤ n ∧ n ≤ 8) ∧
  (∃ (st : State) (n : Nat), (n = 9 ∨ n = 10 ∧ st.cxlHost = true)) ∧
  (∃ (st : State) (n : Nat), 1 ≤ n ∧ n ≤ 8 ∧ (st.revokeDie n 128).isSome = true) ∧
  (∃ (st : State) (n : Nat), ∃ line half y, half < 2 ∧ (n = 9 ∨ n = 10) ∧ n = (st.dirOf line).agent half ∧ st.recallHalf line half = some y) ∧
  (∃ (st : State) (n : Nat), (st.coreCtxs n).filter (fun c => (st.ctx c).replay.any fun r => !r.off) = []) ∧
  (∃ (st : State) (n : Nat), ∃ c r, (st.coreCtxs n).filter (fun c => (st.ctx c).replay.any fun r => !r.off) = c :: r) ∧
  (∃ (st : State) (n : Nat), ∃ page x e level at_ b z, mget st.ctxs n = some x ∧ st.walk n (page * 2 ^ 16) = .leaf e level at_ b ∧ pteBit e 11 = false ∧ st.leafQuiet n at_ (leafBase level page) (leafSize level / 2 ^ 16) = true ∧ z = st.setLeaf at_ (e ||| 0x800#64)) ∧
  (∃ (st : State) (n : Nat), ∃ page newPa x e level at_ b old dst new y z, mget st.ctxs n = some x ∧ st.walk n (page * 2 ^ 16) = .leaf e level at_ b ∧ pteBit e 11 = true ∧ st.leafQuiet n at_ (leafBase level page) (leafSize level / 2 ^ 16) = true ∧ new = BitVec.ofNat 64 (newPa / leafSize level * leafSize level + (e &&& 0xF7FF#64).toNat % 2 ^ 16) ∧ old = st.granules x.dev level e ∧ dst = st.granules x.dev level new ∧ st.badLeaf new level = false ∧ old.any (fun g => st.quiescing (4096 * g) && !st.migrating (4096 * g)) = false ∧ dst.any (fun g => decide (g ∈ old) || st.dir.any fun d => decide (d.1 / 4096 = g)) = false ∧ st.revokeGranules old = some y ∧ y.recallGranules old = some z) :=
  ⟨⟨{}, 8, by decide, by decide⟩,
  ⟨{}, 9, Or.inl rfl⟩,
  ⟨{}, 8, by decide, by decide, by decide⟩,
  ⟨{ dir := [(0, { half0 := 1, agent0 := 9 })] }, 9, 0, 0, _, by decide, Or.inl rfl, by decide, some_of (by decide)⟩,
  ⟨{}, 0, by decide⟩,
  ⟨{ tState (tGroup 0x000A0004#32) 0 with ctxs := [(0, { replay := some { epoch := 0 } })] }, 0, _, _, rfl⟩,
  ⟨{ tState (tGroup 0x000A0004#32) 0 with tlb := [] }, 0, 2, _, 0x1030F1#64, 1, flatHbm 0 0 0x30010, [lineOf (flatHbm 0 0 0x10000), lineOf (flatHbm 0 0 0x20000), lineOf (flatHbm 0 0 0x30010)], _, rfl, by decide +kernel, by decide, by decide, rfl⟩,
  ⟨(let u := tState (tGroup 0x000A0004#32) 0; { u with mem := u.mem.write (flatHbm 0 0 0x30010) 8 0x1038F1, tlb := [] }), 0, 2, 0x200000, _, 0x1038F1#64, 1, flatHbm 0 0 0x30010, [lineOf (flatHbm 0 0 0x10000), lineOf (flatHbm 0 0 0x20000), lineOf (flatHbm 0 0 0x30010)], _, _, _, _, _, rfl, by decide +kernel, by decide, by decide, rfl, rfl, rfl, by decide, by decide, by decide, some_of (by decide), some_of (by decide)⟩⟩

/-- States and operands that meet the hypotheses of DirectoryAndPagesComplete, clauses 12, 13, 14 (clauses of one shape share one). -/
theorem witness_DirectoryAndPagesComplete_B :
  (∃ (st : State) (n : Nat), ∃ page x e level at_ b, mget st.ctxs n = some x ∧ st.walk n (page * 2 ^ 16) = .leaf e level at_ b ∧ pteBit e 55 = false ∧ pteBit e 11 = false ∧ st.leafQuiet n at_ (leafBase level page) (leafSize level / 2 ^ 16) = true ∧ (st.granules x.dev level e).any (fun g => st.quiescing (4096 * g)) = false) ∧
  (∃ (st : State) (n : Nat), ∃ dev pa k a, (n = 9 ∨ n = 10 ∧ st.cxlHost = true) ∧ k ≠ 0 ∧ a = st.flatPa dev (pa % 2 ^ 56) ∧ a % 64 + k ≤ 64 ∧ dev < devCount st.mode ∧ st.quiescing a = false ∧ st.lostTrap a = none ∧ st.moveFreeAt a = true) ∧
  (∃ (st : State) (n : Nat), n = 9) :=
  ⟨⟨{ tState (tGroup 0x000A0004#32) 0 with tlb := [] }, 0, 2, _, 0x1030F1#64, 1, flatHbm 0 0 0x30010, [lineOf (flatHbm 0 0 0x10000), lineOf (flatHbm 0 0 0x20000), lineOf (flatHbm 0 0 0x30010)], rfl, by decide +kernel, by decide, by decide, by decide, by decide⟩,
  ⟨{}, 9, 0, 0x100000, 8, _, Or.inl rfl, by decide, rfl, by decide, by decide, by decide, by decide, by decide⟩,
  ⟨{}, 9, by decide⟩⟩

/-- States and operands that meet the hypotheses of EnginesAndMatrixComplete, clauses 1, 2, 3, 4, 5, 6, 7, 8 (clauses of one shape share one). -/
theorem witness_EnginesAndMatrixComplete :
  (∃ (st : State) (n : Nat) (id : Nat), ∃ line e s e1 s2 e2, ((st.cluster (gCluster n)).copyQ.find? fun x => decide (x.group = n) && decide (x.id = id)) = some e ∧ st.mayServe (st.cluster (gCluster n)).copyQ e = true ∧ e.finished = false ∧ st.startCmd e false = some (s, e1) ∧ s.snapLines e1 1 16 (copyReads (vEsize e1.src) (s.copyPairs e1) line) = (.done s2, e2)) ∧
  (∃ (st : State) (n : Nat) (id : Nat), ∃ e s e1, ((st.cluster (gCluster n)).copyQ.find? fun x => decide (x.group = n) && decide (x.id = id)) = some e ∧ st.mayServe (st.cluster (gCluster n)).copyQ e = true ∧ e.finished = false ∧ st.startCmd e false = some (s, e1) ∧ e1.todo (s.copyPairs e1) = []) ∧
  (∃ (st : State) (n : Nat) (id : Nat), ∃ line e s e1 s2 e2 y, ((st.cluster (gCluster n)).copyQ.find? fun x => decide (x.group = n) && decide (x.id = id)) = some e ∧ st.mayServe (st.cluster (gCluster n)).copyQ e = true ∧ e.finished = false ∧ st.startCmd e false = some (s, e1) ∧ line ∈ e1.todo (s.copyPairs e1) ∧ s.snapLines e1 1 16 (srcLines (spread (vEsize e1.src) ((copyInto (vEsize e1.dst) (s.copyPairs e1) line).filterMap (·.1)))) = (.done s2, e2) ∧ s2.copyWrite e2 line (copyInto (vEsize e1.dst) (s.copyPairs e1) line) = .done y) ∧
  (∃ (st : State) (n : Nat) (id : Nat), ∃ e y, (st.cluster n).res.find? (fun e => decide (e.slot = id)) = some e ∧ (st.cluster n).res.any (fun x => x.granted) = false ∧ st.mayGrant n e = true ∧ ((st.ctx e.ctx).replay = none → st.nextGrant n = some e) ∧ st.sched e.ctx n 3 0 id none = some y) ∧
  (∃ (st : State) (n : Nat) (id : Nat), ∃ line e e2 y, (st.cluster n).grantedAt id = some e ∧ st.passReads e (e.lines.filter fun l => decide (l = line)) = some (y, e2)) ∧
  (∃ (st : State) (n : Nat) (id : Nat), ∃ e e2 y z f, (st.cluster n).grantedAt id = some e ∧ st.inGrantOrder e = true ∧ st.passReads e e.lines = some (y, e2) ∧ y.performEntry e2 = (z, f)) ∧
  (∃ (st : State) (n : Nat) (id : Nat), ∃ line e s e1 s2 e2, ((st.cluster (gCluster n)).fabQ.find? fun x => decide (x.group = n) && decide (x.id = id)) = some e ∧ st.mayServe (st.cluster (gCluster n)).fabQ e = true ∧ st.startCmd e true = some (s, e1) ∧ s.snapLines e1 3 17 ((srcLines (spread (vEsize e1.src) ((s.fabPairs e1).filterMap (·.1)))).filter fun l => decide (l.1 = line)) = (.done s2, e2)) ∧
  (∃ (st : State) (n : Nat) (id : Nat), ∃ e s e1 s2 e2 e3 r rs, ((st.cluster (gCluster n)).fabQ.find? fun x => decide (x.group = n) && decide (x.id = id)) = some e ∧ st.mayServe (st.cluster (gCluster n)).fabQ e = true ∧ st.startCmd e true = some (s, e1) ∧ rs = runsOf (vEsize e1.src) (s.fabPairs e1) ∧ rs[e1.sent % rs.length]? = some r ∧ s.snapLines e1 3 17 (srcLines (spread (vEsize e1.src) (r.srcs.filterMap fun x => x))) = (.done s2, e2) ∧ e3 = ({ e2 with paged := none, sent := e2.sent + 1 } : EngCmd).noteRead (srcLines (spread (vEsize e1.src) ((s.fabPairs e1).filterMap fun (x : Option Nat × Nat) => x.1)))) :=
  ⟨⟨{ tState (tGroup 0x000A0004#32) 0 with clusters := [(0, { copyQ := [{ id := 1, kind := .cpy, group := 0, wg := wgKey 0 0, ctx := 0, src := tView, dst := tView, so := [0], dor := [0], counts := [4] }] })] }, 0, 1, flatCore 0 0, _, _, _, _, _, rfl, by decide, by decide, some_pair (by decide), done_pair (by decide)⟩,
  ⟨{ tState (tGroup 0x000A0004#32) 0 with clusters := [(0, { copyQ := [{ id := 1, kind := .cpy, group := 0, wg := wgKey 0 0, ctx := 0, src := tView, dst := tView, so := [0], dor := [0], counts := [4], dests := [flatCore 0 0] }] })] }, 0, 1, _, _, _, rfl, by decide, by decide, some_pair (by decide), by decide⟩,
  ⟨{ tState (tGroup 0x000A0004#32) 0 with clusters := [(0, { copyQ := [{ id := 1, kind := .cpy, group := 0, wg := wgKey 0 0, ctx := 0, src := tView, dst := tView, so := [0], dor := [0], counts := [4] }] })] }, 0, 1, flatCore 0 0, _, _, _, _, _, _, rfl, by decide, by decide, some_pair (by decide), by decide, done_pair (by decide), done_of (by decide)⟩,
  ⟨{ tState (tGroup 0x000A0004#32) 0 with clusters := [(0, { res := [{ id := 0, slot := 5, group := 0, wg := wgKey 0 0, ctx := 0, tile := 1, kind := .zero }] })] }, 0, 5, _, _, rfl, by decide, by decide, by decide, some_of (by decide)⟩,
  ⟨{ tState (tGroup 0x000A0004#32) 0 with clusters := [(0, { res := [{ id := 0, slot := 5, group := 0, wg := wgKey 0 0, ctx := 0, tile := 1, kind := .zero, granted := true }] })] }, 0, 5, flatCore 0 0, _, _, _, rfl, some_pair (by decide)⟩,
  ⟨{ tState (tGroup 0x000A0004#32) 0 with clusters := [(0, { res := [{ id := 0, slot := 5, group := 0, wg := wgKey 0 0, ctx := 0, tile := 1, kind := .zero, granted := true }] })] }, 0, 5, _, _, _, _, _, rfl, by decide, some_pair (by decide), Prod.mk.eta.symm⟩,
  ⟨{ tState (tGroup 0x000A0004#32) 0 with clusters := [(0, { fabQ := [{ id := 1, kind := .xfer, group := 0, wg := wgKey 0 0, ctx := 0, src := tView, dst := BitVec.ofNat 1024 (0x20000 + (0x10000A8B3 - 3) * 2 ^ 64 + 0 * 2 ^ 192 + 32 * 2 ^ 256 + 2 ^ 288), so := [0], dor := [0], counts := [4], dests := [1] }] })] }, 0, 1, flatCore 0 0, _, _, _, _, _, rfl, by decide, some_pair (by decide), done_pair (by decide)⟩,
  ⟨{ tState (tGroup 0x000A0004#32) 0 with clusters := [(0, { fabQ := [{ id := 1, kind := .xfer, group := 0, wg := wgKey 0 0, ctx := 0, src := tView, dst := BitVec.ofNat 1024 (0x20000 + (0x10000A8B3 - 3) * 2 ^ 64 + 0 * 2 ^ 192 + 32 * 2 ^ 256 + 2 ^ 288), so := [0], dor := [0], counts := [4], dests := [1] }] })] }, 0, 1, _, _, _, _, _, _, _, _, rfl, by decide, some_pair (by decide), rfl, some_of (by decide), done_pair (by decide), rfl⟩⟩

/-- States and operands that meet the hypotheses of FabricEventsComplete, clauses 1, 2, 3, 4, 5, 6, 7, 8 (clauses of one shape share one). -/
theorem witness_FabricEventsComplete_A :
  (∃ (st : State), ∃ port hdr slot home, pDst hdr = st.devno ∧ pSrc hdr ≠ st.devno ∧ st.ingressHeld hdr = false ∧ pLen hdr ≤ 256 ∧ port < 36 ∧ port ∉ st.downPorts ∧ st.landing.find? (fun q => decide (q.hdr = hdr)) = none ∧ st.dead.getLsbD (pSrc hdr) = false ∧ pKind hdr ≤ 1 ∧ st.weirFor (pDom hdr) false = some (home, slot)) ∧
  (∃ (st : State), ∃ port hdr pay y, pDst hdr = st.devno ∧ pSrc hdr ≠ st.devno ∧ st.ingressHeld hdr = false ∧ pLen hdr ≤ 256 ∧ port < 36 ∧ port ∉ st.downPorts ∧ st.landing.find? (fun q => decide (q.hdr = hdr)) = none ∧ st.dead.getLsbD (pSrc hdr) = false ∧ pKind hdr ≤ 1 ∧ st.weirFor (pDom hdr) false = none ∧ st.land { hdr := hdr, pay := pay % 2 ^ (8 * pLen hdr) } = some y) ∧
  (∃ (st : State), ∃ port hdr, pDst hdr = st.devno ∧ pSrc hdr ≠ st.devno ∧ st.ingressHeld hdr = false ∧ pLen hdr ≤ 256 ∧ port < 36 ∧ port ∉ st.downPorts ∧ st.landing.find? (fun q => decide (q.hdr = hdr)) = none ∧ st.dead.getLsbD (pSrc hdr) = false ∧ 6 ≤ pKind hdr) ∧
  (∃ (st : State), ∃ port hdr q y, pDst hdr = st.devno ∧ st.ingressHeld hdr = false ∧ pLen hdr ≤ 256 ∧ port < 36 ∧ port ∉ st.downPorts ∧ st.landing.find? (fun q => decide (q.hdr = hdr)) = some q ∧ ({ st with landing := st.landing.filter fun x => decide (x.hdr ≠ hdr) } : State).landLine ((st.ctxOfDomain (pDom hdr)).getD 0) q = some y) ∧
  (∃ (st : State), ∃ src chan a y, (mgetD st.triples (src * 4 + chan) {}).landed.find? (fun a => decide (a.seq = (mgetD st.triples (src * 4 + chan) {}).due)) = some a ∧ st.applyArrival a.hdr = some y) ∧
  (∃ (st : State), ∃ src chan a, (mgetD st.triples (src * 4 + chan) {}).landed.find? (fun a => decide (a.seq = (mgetD st.triples (src * 4 + chan) {}).due)) = some a ∧ st.applyArrival a.hdr = none ∧ st.holdsAdd a.hdr = true) ∧
  (∃ (st : State) (p : Arrived) (s : State) (y : State) (z : State), firstSome (fun (p : Arrived) => (st.applyArrival p.hdr).map fun s => (p, s)) st.redirs = some (p, s) ∧ y = { s with redirs := s.redirs.erase p } ∧ z = (if pStep p.hdr ≠ 0 ∧ pLast p.hdr = true then y.trace 0 6 (y.ctxOfDomain (pDom p.hdr)) 0 (collPay (pStep p.hdr) (pChan p.hdr) (pKind p.hdr % 2) (pSrc p.hdr) (pLen p.hdr)) else y)) ∧
  (∃ (st : State), ∃ dev, st.dead.getLsbD dev = false ∧ dev ≠ st.devno) :=
  ⟨⟨{ weirs := [(0, { slots := [(0, { domain := 0, egress := false, drops := false, lklog2 := 0, lkbase := 0, flowsz := 4096, base := 0, code := [0x1E000000#32] })] })] }, 0, 0x10000#256, _, _, by decide, by decide, by decide, by decide, by decide, by decide, by decide, by decide, by decide, some_pair (by decide)⟩,
  ⟨{}, 35, 0x10000#256, 0, _, by decide, by decide, by decide, by decide, by decide, by decide, by decide, by decide, by decide, by decide, some_of (by decide)⟩,
  ⟨{}, 0, 0x16000#256, by decide, by decide, by decide, by decide, by decide, by decide, by decide, by decide, by decide⟩,
  ⟨{ landing := [{ hdr := 0x10000#256 }] }, 35, 0x10000#256, _, _, by decide, by decide, by decide, by decide, by decide, some_of (by decide), some_of (by decide)⟩,
  ⟨{ triples := [(4, { landed := [{ seq := 0, hdr := 0x10000#256, adds := true }] })] }, 1, 0, _, _, rfl, some_of (by decide)⟩,
  ⟨{ ctxs := [(0, { domain := some 0 })], workgroups := [(wgKey 0 0, { tWg with state := .saved })], triples := [(4, { landed := [{ seq := 0, hdr := 6739986666787659948666753771754907668409286105635143120275902627840#256, adds := true }] })] }, 1, 0, _, rfl, none_of (by decide), by decide⟩,
  ⟨{ redirs := [{ seq := 0, hdr := 0x10000#256, adds := true }] }, _, _, _, _, some_pair (by decide), rfl, rfl⟩,
  ⟨{}, 1, by decide, by decide⟩⟩

/-- States and operands that meet the hypotheses of FabricEventsComplete, clauses 9, 10, 11, 12, 13, 14 (clauses of one shape share one). -/
theorem witness_FabricEventsComplete_B :
  (∃ (st : State), ∃ hdr, pDst hdr = st.devno ∧ pKind hdr = 5 ∧ pSrc hdr ≠ st.devno ∧ st.dead.getLsbD (pSrc hdr) = false ∧ st.ingressHeld hdr = false) ∧
  (∃ (st : State), ∃ dev, (List.range 4).any (fun ch => (mgetD st.unacked (dev * 4 + ch) []).any fun u => decide (u.sent + 1000 * st.peertmo ≤ st.tai)) = true) ∧
  (∃ (st : State) (subs : List (Nat × BitVec 1024 × Nat × Nat)), ∃ i v, st.convs[i]? = some v ∧ v.matched = false ∧ (st.convs.take i).any (fun u => !u.matched && decide (convKey u.dom u.mesh u.axis = convKey v.dom v.mesh v.axis)) = false ∧ v.devs.all (fun n => decide (n = st.devno) || subs.any fun s => decide (s.1 = n)) = true) ∧
  (∃ (st : State) (i : Nat) (l : Nat), ∃ v y x, st.convs[i]? = some v ∧ v.matched = true ∧ v.result = none ∧ v.toRead[Config.freeNat st.free % v.toRead.length]? = some l ∧ st.hubRead v.ctx l 128 3 = (.done y, x)) ∧
  (∃ (st : State) (i : Nat) (v : Conv) (data : List (Nat × List Nat)), st.convs[i]? = some v ∧ v.matched = true ∧ v.result = none ∧ v.toRead = [] ∧ (List.range v.devs.length).all (fun k => decide (k = v.me) || data.any fun p => decide (p.1 = k)) = true) ∧
  (∃ (st : State) (i : Nat) (v : Conv) (out : List Nat) (va : Nat) (k : Nat), ∃ y, st.convs[i]? = some v ∧ v.matched = true ∧ v.result = some out ∧ v.todo[Config.freeNat st.free % v.todo.length]? = some (va, k) ∧ st.hubWrite v.ctx va k (2 ^ k - 1) (packN (8 * vEsize v.view) out / 2 ^ (8 * (va - vCbuf v.view)) % 2 ^ (8 * k)) 3 = .done y) :=
  ⟨⟨{}, 0x15000#256, by decide, by decide, by decide, by decide, by decide⟩,
  ⟨{ unacked := [(4, [{ pkt := { hdr := 0 }, sent := 0, group := 0, wg := 0 }])], tai := 2000000 }, 1, by decide⟩,
  ⟨{ tState (tGroup 0x000A0004#32) 0 with convs := [{ num := 0, dom := 0, ctx := 0, group := 0, wg := wgKey 0 0, slot := 0, mesh := 0, axis := 0, toByte := 0, rtype := 0, step := 0, devs := [0], me := 0, view := tView }] }, [], 0, _, rfl, by decide, by decide, by decide⟩,
  ⟨{ tState (tGroup 0x000A0004#32) 0 with convs := [{ num := 0, dom := 0, ctx := 0, group := 0, wg := wgKey 0 0, slot := 0, mesh := 0, axis := 0, toByte := 0, rtype := 0, step := 0, devs := [0], me := 0, view := BitVec.ofNat 1024 (0x20000 + (0x10000A8B3 - 3) * 2 ^ 64 + 0x28000 * 2 ^ 192 + 32 * 2 ^ 256 + 2 ^ 288), matched := true, snap := [(0x20000, 0)] }] }, 0, 0x20080, _, _, _, rfl, by decide, by decide, todo_one (by decide) _, done_pair (by decide)⟩,
  ⟨{ tState (tGroup 0x000A0004#32) 0 with convs := [{ num := 0, dom := 0, ctx := 0, group := 0, wg := wgKey 0 0, slot := 0, mesh := 0, axis := 0, toByte := 0, rtype := 0, step := 0, devs := [0], me := 0, view := BitVec.ofNat 1024 (0x20000 + (0x10000A8B3 - 3) * 2 ^ 64 + 0x28000 * 2 ^ 192 + 32 * 2 ^ 256 + 2 ^ 288), matched := true, snap := [(0x20000, 0), (0x20080, 0)] }] }, 0, _, [], rfl, by decide, by decide, by decide, by decide⟩,
  ⟨{ tState (tGroup 0x000A0004#32) 0 with convs := [{ num := 0, dom := 0, ctx := 0, group := 0, wg := wgKey 0 0, slot := 0, mesh := 0, axis := 0, toByte := 0, rtype := 0, step := 0, devs := [0], me := 0, view := BitVec.ofNat 1024 (0x20000 + (0x10000A8B3 - 3) * 2 ^ 64 + 0x28000 * 2 ^ 192 + 32 * 2 ^ 256 + 2 ^ 288), matched := true, result := some [1], wrote := [0x28080] }] }, 0, _, [1], 0x28000, 128, _, rfl, by decide, by decide, todo_one (by decide) _, done_of (by decide)⟩⟩

/-- The next state of an answer. -/
def nextIs (o : Host.Outcome State Fault Refusal) : Bool :=
  match o with
  | .next _ => true
  | _ => false

def nextSt (o : Host.Outcome State Fault Refusal) : State :=
  match o with
  | .next s => s
  | _ => {}

theorem next_of {o : Host.Outcome State Fault Refusal} (h : nextIs o = true) : o = .next (nextSt o) := by cases o <;> first | rfl | cases h

/-! The literals of an S register that keep its other halves. -/

theorem witness_UniformLiteralsComplete_2 : ∃ (st : State) (m : BitVec 1) (d : BitVec 6) (h : BitVec 2) (g : Group) (s : Split),
    h ≠ 0#2 ∧ ReadyC st m (sopSpec d d d) g s :=
  ⟨tState (tGroup 0x000A0004#32) 0, 0#1, 49#6, 1#2, tGroup 0x000A0004#32, tSplit, by decide, ready_of (by decide)⟩

/-! A word that stands at its issue and is illegal, or whose MODE is. -/

theorem stands_of {st : State} {m : BitVec 1} {sp : IssueSpec} {g : Group} {s : Split}
    (h : (decide (mget st.groups st.issuer.group = some g) && decide (g.splitAt st.issuer.slot = some s) &&
      (match st.trapTurn st.issuer.group g false with
        | some none => true
        | _ => false) && !mustPark m g s sp) = true) : StandsC st m sp g s := by
  simp only [Bool.and_eq_true, decide_eq_true_eq, Bool.not_eq_true'] at h
  obtain ⟨⟨⟨h1, h2⟩, h3⟩, h4⟩ := h
  refine ⟨h1, h2, ?_, fun hp => ?_⟩
  · revert h3; split <;> simp_all
  · rw [hp] at h4; cases h4

theorem witness_IllegalWordsTrap_operand : ∃ (st : State) (m : BitVec 1) (d a b : BitVec 6) (g : Group) (s : Split),
    (32 ≤ d.toNat ∧ d.toNat ≠ 36 ∧ d.toNat ≠ 37 ∧ d.toNat ≠ 38) ∧ StandsC st m (binSpec d a b intT2Et) g s :=
  ⟨tState (tGroup 0x000A0004#32) 0, 0#1, 32#6, 2#6, 3#6, tGroup 0x000A0004#32, tSplit, by decide, stands_of (by decide)⟩

theorem witness_IllegalWordsTrap_register : ∃ (st : State) (m : BitVec 1) (d : BitVec 6) (i : BitVec 12) (g : Group) (s : Split),
    (d.toNat < 48 ∨ 16 < i.toNat) ∧ StandsC st m { ctlSpec (isS d && decide (i.toNat ≤ 16)) with async := fun _ _ => true } g s :=
  ⟨tState (tGroup 0x000A0004#32) 0, 0#1, 49#6, 17#12, tGroup 0x000A0004#32, tSplit, by decide, stands_of (by decide)⟩

theorem witness_IllegalWordsTrap_mode : ∃ (st : State) (m : BitVec 1) (d a b : BitVec 6) (g : Group) (s : Split),
    dstOk d = true ∧ srcOk a = true ∧ srcOk b = true ∧ StandsC st m (binSpec d a b fpEt) g s ∧
    ((st.groupAtIssue m g s (binSpec d a b fpEt)).mode.extractLsb' 0 4).toNat < 8 :=
  ⟨tState (tGroup 0x000A0004#32) 0, 0#1, 1#6, 2#6, 3#6, tGroup 0x000A0004#32, tSplit, by decide, by decide, by decide, stands_of (by decide), by decide⟩

/-- The other specs and bounds of that statement's clauses. -/
theorem witness_IllegalWordsTrap_each :
    (∃ (st : State) (m : BitVec 1) (d a b : BitVec 6) (g : Group) (s : Split), (d = 63#6 ∧ b = 3#6 ∧ 32 ≤ d.toNat ∧ d.toNat ≠ 36 ∧ d.toNat ≠ 37 ∧ d.toNat ≠ 38) ∧ StandsC st m (binSpec d a b fpEt) g s) ∧
    (∃ (st : State) (m : BitVec 1) (d a b : BitVec 6) (g : Group) (s : Split), (d = 31#6 ∧ b = 3#6 ∧ a.toNat = 36) ∧ StandsC st m (unSpec d a fun _ => true) g s) ∧
    (∃ (st : State) (m : BitVec 1) (d a b : BitVec 6) (g : Group) (s : Split), (d = 31#6 ∧ b = 3#6 ∧ a.toNat = 37) ∧ StandsC st m (unSpec d a fun g => decide (g.et.width = g.et2.width)) g s) ∧
    (∃ (st : State) (m : BitVec 1) (d a b : BitVec 6) (g : Group) (s : Split), (d = 36#6 ∧ b = 3#6 ∧ 32 ≤ d.toNat ∧ d.toNat ≠ 38) ∧ StandsC st m (sfuSpec d a) g s) ∧
    (∃ (st : State) (m : BitVec 1) (d a b : BitVec 6) (g : Group) (s : Split), (d = 31#6 ∧ b = 3#6 ∧ a.toNat < 48) ∧ StandsC st m ({ ctlSpec (isS a) with srcs := [a] }) g s) ∧
    (∃ (st : State) (m : BitVec 1) (d a b : BitVec 6) (g : Group) (s : Split), dstOk d = true ∧ srcOk a = true ∧ srcOk b = true ∧ StandsC st m (binSpec d a b intT2Et) g s ∧ ((st.groupAtIssue m g s (binSpec d a b intT2Et)).mode.extractLsb' 0 4).toNat = 8) ∧
    (∃ (st : State) (m : BitVec 1) (d a b : BitVec 6) (g : Group) (s : Split), dstOk d = true ∧ srcOk a = true ∧ srcOk b = true ∧ StandsC st m (binSpec d a b intEt) g s ∧ 8 ≤ ((st.groupAtIssue m g s (binSpec d a b intEt)).mode.extractLsb' 0 4).toNat ∧ ((st.groupAtIssue m g s (binSpec d a b intEt)).mode.extractLsb' 0 4).toNat ≠ 14) ∧
    (∃ (st : State) (m : BitVec 1) (d a b : BitVec 6) (g : Group) (s : Split), dstOk d = true ∧ srcOk a = true ∧ srcOk b = true ∧ StandsC st m (binSpec d a b fpEt) g s ∧ 11 < ((st.groupAtIssue m g s (binSpec d a b fpEt)).mode.extractLsb' 0 4).toNat) :=
  ⟨⟨tState (tGroup 0x000A000A#32) 0, 0#1, 63#6, 2#6, 3#6, tGroup 0x000A000A#32, tSplit, by decide, stands_of (by decide)⟩,
    ⟨tState (tGroup 0x000A0004#32) 0, 0#1, 31#6, 36#6, 3#6, tGroup 0x000A0004#32, tSplit, by decide, stands_of (by decide)⟩,
    ⟨tState (tGroup 0x000A0004#32) 0, 0#1, 31#6, 37#6, 3#6, tGroup 0x000A0004#32, tSplit, by decide, stands_of (by decide)⟩,
    ⟨tState (tGroup 0x000A000A#32) 0, 0#1, 36#6, 2#6, 3#6, tGroup 0x000A000A#32, tSplit, by decide, stands_of (by decide)⟩,
    ⟨tState (tGroup 0x000A0004#32) 0, 0#1, 31#6, 47#6, 3#6, tGroup 0x000A0004#32, tSplit, by decide, stands_of (by decide)⟩,
    ⟨tState (tGroup 0x000A0008#32) 0, 0#1, 31#6, 2#6, 3#6, tGroup 0x000A0008#32, tSplit, by decide, by decide, by decide, stands_of (by decide), by decide⟩,
    ⟨tState (tGroup 0x000A0008#32) 0, 0#1, 31#6, 2#6, 3#6, tGroup 0x000A0008#32, tSplit, by decide, by decide, by decide, stands_of (by decide), by decide⟩,
    ⟨tState (tGroup 0x000A000C#32) 0, 0#1, 31#6, 2#6, 3#6, tGroup 0x000A000C#32, tSplit, by decide, by decide, by decide, stands_of (by decide), by decide⟩⟩

/-! Words whose frame is stated, run. -/

theorem witness_ArithmeticFrames : ∃ (st : State) (m : BitVec 1) (d a b : BitVec 6) (g : Group) (s : Split) (t : State),
    ReadyC st m (binSpec d a b intT2Et) g s ∧ exec (.add m d a b) st = .next t :=
  ⟨tState (tGroup 0x000A0004#32) 0, 0#1, 31#6, 2#6, 3#6, tGroup 0x000A0004#32, tSplit, _, ready_of (by decide), next_of (by decide)⟩

theorem witness_MoveVoteConversionFrames_pand : ∃ (st : State) (m : BitVec 1) (d a b : BitVec 6) (g : Group) (s : Split) (t : State),
    ReadyC st m { guarded := false, legal := lt8 d && lt8 a && lt8 b, pregs := [a.toNat, b.toNat] } g s ∧ exec (.pand m d a b) st = .next t :=
  ⟨tState (tGroup 0x000A0004#32) 0, 0#1, 7#6, 2#6, 3#6, tGroup 0x000A0004#32, tSplit, _, ready_of (by decide), next_of (by decide)⟩

theorem witness_MoveVoteConversionFrames_zero : ∃ (st : State) (m : BitVec 1) (d a b : BitVec 6) (g : Group) (s : Split) (t : State),
    isZ d = true ∧ ReadyC st m (sopSpec d a b) g s ∧ exec (.sadd m d a b) st = .next t :=
  ⟨tState (tGroup 0x000A0004#32) 0, 0#1, 38#6, 50#6, 51#6, tGroup 0x000A0004#32, tSplit, _, by decide, ready_of (by decide), next_of (by decide)⟩

theorem witness_AccessArithmeticFrames : ∃ (st : State) (m : BitVec 1) (d a b : BitVec 5) (g : Group) (t : State),
    ReadyA st m { legal := true } g ∧ exec (.aadd m d a b) st = .next t :=
  ⟨tState (tGroup 0x000A0004#32) 4, 0#1, 31#5, 2#5, 3#5, tGroup 0x000A0004#32, _, readyA_of (by decide), next_of (by decide)⟩

/-! A Weir's kernel at an instruction. -/

/-- A Weir that runs a one-word kernel. -/
def tWeir : State :=
  { cursor := .weir 0, agenda := [.weir 0]
    weirs := [(0, { slots := [(0, { domain := 0, egress := false, drops := false, lklog2 := 0, lkbase := 0, flowsz := 4096, base := 0, code := [0x1E000000#32] })]
                    run := some { slot := 0, port := 0, orig := 0, pkt := { hdr := 0 } } })] }

theorem witness_WeirRegisterInstructionsComplete : ∃ (st : State) (port : Nat) (r : WeirRun) (s : WeirSlot), WeirReady st 1 port r s :=
  ⟨tWeir, 0, _, _, rfl, rfl, rfl, by decide⟩

theorem witness_WeirPacketInstructionsComplete_flow : ∃ (st : State) (port : Nat) (r : WeirRun) (s : WeirSlot) (x : BitVec 3) (i : BitVec 16),
    WeirReady st 2 port r s ∧ 32 * ((r.getX x.toNat).toNat + i.toNat) + 32 ≤ s.flowsz :=
  ⟨tWeir, 0, _, _, 0#3, 127#16, ⟨rfl, rfl, rfl, by decide⟩, by decide⟩

/-! A step whose turn is an event's, a Weir's, a pipe's or a front end's. -/

theorem witness_StepRuns_event : ∃ (b : State) (i : Instr), b.nextTurn = .event i ∧ isetOf i = .event ∧
    (b.frozen = true → runsFrozen i = true) ∧ (b.inP3 = true → runsInP3 i = true) :=
  ⟨{ agenda := [.event .throttleStart] }, .throttleStart, rfl, by decide, by decide, by decide⟩

theorem witness_StepRuns_weir : ∃ (b : State) (port : Nat) (r : WeirRun) (k : WeirSlot) (w : BitVec 32) (i : Instr), b.nextTurn = .weir port ∧
    b.frozen = false ∧ b.inP3 = false ∧ (mgetD b.weirs port {}).run = some r ∧ mget (mgetD b.weirs port {}).slots r.slot = some k ∧
    k.code[r.pc]? = some w ∧ decodeWeir w = some i :=
  ⟨tWeir, 0, _, _, 0x1E000000#32, .wend, rfl, by decide, by decide, rfl, rfl, by decide, by decide⟩

/-- The word 0 at the PC of both streams, the turn one pipe's or one front end's. -/
def tTurn (t : Turn) : State := { tState (tGroup 0x000A0004#32) 0 with agenda := [t] }

theorem witness_StepRuns_pipe : ∃ (b : State) (core pipe gid slot : Nat) (l l' : List (Nat × Nat)) (g0 g : Group) (s : Split) (x y t : State) (w : BitVec 32)
    (i : Instr), b.nextTurn = .pipe core pipe ∧ b.begin.pipeOrder core pipe = l ++ (gid, slot) :: l' ∧
      (∀ e ∈ l, b.begin.trySplit e.1 e.2 (fun st g s => if st.isRoot g then st.rootTurn e.1 e.2 g s else st.runSplit e.1 e.2 g s) = none) ∧ SplitTurn b.begin gid slot g0 g s x ∧
      WordAt x (x.ctxOf g) gid false s.pc w y ∧ decodeComp w = some i ∧ exec i { y with issuer := { group := gid, slot := slot } } = .next t ∧
      x.issued gid g t = true :=
  ⟨tTurn (.pipe 0 0), 0, 0, 0, 0, [], [], _, _, _, _, _, _, 0#32, .nop 0#1, rfl, by decide, by simp,
    by
      refine ⟨rfl, rfl, rfl, ⟨by decide, by decide, ?_, by decide⟩, ?_, by decide, ⟨_, some_of (by decide), some_of (by decide)⟩, by decide⟩
      · intro p h
        cases h
      · decide,
    ⟨by decide, _, _, _, _, acc_of (by decide), Prod.mk.eta.symm, by decide⟩, by decide, next_of (by decide), by decide⟩

theorem witness_StepRuns_frontEnd : ∃ (b : State) (core quad gid : Nat) (l l' : List Nat) (g : Group) (x y t : State) (w : BitVec 32) (i : Instr),
    b.nextTurn = .frontEnd core quad ∧ b.begin.frontOrder core quad = l ++ gid :: l' ∧
      (∀ e ∈ l, b.begin.tryAccess e (fun st g => st.runAccess e g) = none) ∧ AccessTurn b.begin gid g x ∧
      WordAt x (x.ctxOf g) gid true g.apc w y ∧ decodeAcc w = some i ∧ exec i { y with issuer := { group := gid, slot := 4 } } = .next t ∧
      x.issued gid g t = true :=
  ⟨tTurn (.frontEnd 0 0), 0, 0, 0, [], [], _, _, _, _, 0#32, .anop 0#1, rfl, by decide, by simp,
    ⟨rfl, by decide, by decide, some_of (by decide), by decide⟩,
    ⟨by decide, _, _, _, _, acc_of (by decide), Prod.mk.eta.symm, by decide⟩, by decide, next_of (by decide), by decide⟩

/-! A trap whose entry is due, a store's line, a step from reset. -/

theorem witness_TrapEntryEntersTheHandler : ∃ (st : State) (n : Nat) (g k h : Group) (p : Pend) (leaf : Word) (pa blk : Nat) (y : State),
    mget st.groups n = some g ∧ g.entering = some p ∧ g.drained = true ∧ (g.commitWith false).2 = none ∧ (g.commitWith false).1.commitWith true = (k, none) ∧
    (st.putGroup n k).accessNow (st.ctxOf k) (.stream n false) 0x10000 .r 0 false = .ok leaf pa y ∧ y.tracked (st.ctxOf k) leaf = false ∧
    mget y.groups n = some h ∧ blk = y.read pa 128 ∧ blk % 4 = 0 ∧ blk / 2 ^ 64 % 4 = 0 ∧ blk / 2 ^ 192 = 0 :=
  ⟨(let u := tState (tGroup 0x000A0004#32) 0
    { u with mem := u.mem.write (flatHbm 0 0 0x30008) 8 0x2030F1
             groups := [(0, { tGroup 0x000A0004#32 with entering := some { trap := { cause := .prot }, kind := .precise } })] }),
    0, _, _, _, _, _, _, _, _, rfl, rfl, by decide, by decide, rfl, acc_of (by decide), by decide, some_of (by decide), rfl, by decide, by decide, by decide⟩

theorem witness_StoreLineFrame : ∃ (st : State) (n id va : Nat) (g : Group) (a b : Access) (l : LineReq) (x y : State),
    LineReady st n id va isStore g a l ∧ st.atLine n g a l = some x ∧ x.serveLine n g a l = some (y, b) ∧ (mget (st.lineServed y n g a b l).groups n).isSome = true :=
  ⟨{ tState (tGroup 0x000A0004#32) 0 with groups := [(0, { tGroup 0x000A0004#32 with
      memq := [{ id := 1, kind := .store, esize := 8, slot := 0, lines := [{ va := 0, pa := flatCore 0 0, glob := false, elems := [{ off := 0, pos := 0, val := 5 }] }] }] })] },
    0, 1, 0, _, _, _, _, _, _, ⟨rfl, rfl, by decide, by decide, by decide, by decide, rfl, by decide⟩, some_of (by decide), some_pair (by decide), by decide⟩

theorem witness_StepKeepsInv : ∃ s t : State, s.Inv ∧ step s = .next t :=
  ⟨{ mem := Memory.write [] 5 1 7, agenda := [.event .throttleStart] }, _, (by decide : Memory.wf (Memory.write [] 5 1 7) = true), next_of (by decide)⟩

theorem witness_DecodeEncode : ∃ i : Instr, i.wf = true ∧ isetOf i ≠ .event := ⟨.nop 0#1, by decide, by decide⟩

/-! RESTORE: a manifest of one area shard of zeros. -/

theorem foldl_len8 {α : Type} (f : List (BitVec 64) → α → List (BitVec 64)) (hf : ∀ l a, l.length = 8 → (f l a).length = 8) (l : List α) (h : List (BitVec 64))
    (hh : h.length = 8) : (l.foldl f h).length = 8 := by
  induction l generalizing h with
  | nil => exact hh
  | cons a l ih => exact ih _ (hf _ _ hh)

theorem sha_lt (m : List Nat) : Sha.sha512 m < 2 ^ 512 := by
  have byte : ∀ l : List Nat, (∀ b ∈ l, b < 256) → l.foldr (fun b n => b + 256 * n) 0 < 256 ^ l.length := by
    intro l
    induction l with
    | nil => intro; decide
    | cons b l ih =>
      intro hb
      have h1 := hb b (by simp)
      have h2 := ih fun c hc => hb c (by simp [hc])
      simp only [List.foldr_cons, List.length_cons, Nat.pow_succ]
      omega
  have rnd : ∀ (l : List (BitVec 64)) k, l.length = 8 → (Sha.round l k).length = 8 := by
    intro l k h
    match l, h with
    | [_, _, _, _, _, _, _, _], _ => rfl
  have blk : ∀ (l : List (BitVec 64)) b, l.length = 8 → (Sha.block l b).length = 8 := by
    intro l b h
    unfold Sha.block
    simp [h, foldl_len8 (fun (s : List (BitVec 64)) (p : BitVec 64 × BitVec 64) => Sha.round s (p.1 + p.2)) (fun s p => rnd s _)]
  unfold Sha.sha512
  have hl : ∀ bs : List (List Nat), (bs.foldl (fun h b => Sha.block h ((Sha.pieces 16 8 b).map Sha.beWord)) Sha.h0).length = 8 :=
    fun bs => foldl_len8 _ (fun l b => blk l _) bs _ (by unfold Sha.h0; rw [List.length_map]; decide +kernel)
  have key := byte ((List.foldl (fun h b => Sha.block h ((Sha.pieces 16 8 b).map Sha.beWord)) Sha.h0 (Sha.pieces (Sha.pad m).length 128 (Sha.pad m))).flatMap
    fun w => (List.range 8).map fun i => w.toNat / 256 ^ (7 - i) % 256) (by
      intro b hb
      simp only [List.mem_flatMap, List.mem_map] at hb
      obtain ⟨w, -, i, -, rfl⟩ := hb
      exact Nat.mod_lt _ (by decide))
  refine lt_of_lt_of_le key ?_
  have h64 : ∀ l : List (BitVec 64), (l.flatMap fun w => (List.range 8).map fun i => w.toNat / 256 ^ (7 - i) % 256).length = 8 * l.length := by
    intro l
    induction l with
    | nil => rfl
    | cons a l ih => simp [List.flatMap_cons, ih]; omega
  rw [h64, hl]
  decide

/-- The manifest: one entry, at the context area, its digest `d`. -/
def tMan (d : Nat) : Nat := 0x4E414D4B + 2 ^ 96 + (2 ^ 63 + d * 2 ^ 192) * 2 ^ 1024

theorem tMan_entries (d : Nat) (h : d < 2 ^ 512) : manEntries (tMan d) = [{ va := 2 ^ 63, digest := d }] := by
  have e1 : bits (tMan d) 127 96 = 1 := by unfold bits tMan; omega
  have e2 : bits (tMan d) 2047 1024 = 2 ^ 63 + d * 2 ^ 192 := by unfold bits tMan; omega
  unfold manEntries
  rw [e1]
  simp only [List.range_one, List.map_cons, List.map_nil, Nat.zero_add, Nat.mul_one, Nat.reduceAdd, e2]
  have b1 : bits (2 ^ 63 + d * 2 ^ 192) 63 0 = 2 ^ 63 := by unfold bits; omega
  have b2 : bits (2 ^ 63 + d * 2 ^ 192) 79 64 = 0 := by unfold bits; omega
  have b3 : bits (2 ^ 63 + d * 2 ^ 192) 95 80 = 0 := by unfold bits; omega
  have b4 : bits (2 ^ 63 + d * 2 ^ 192) 191 128 = 0 := by unfold bits; omega
  have b5 : bits (2 ^ 63 + d * 2 ^ 192) 703 192 = d := by unfold bits; omega
  rw [b1, b2, b3, b4, b5]

theorem shards_gen (top : Nat) (e : CkEntry) (p : CkEntry × Nat) (hp : p ∈ [e].zipIdx.map fun x => (x.1, [0].getD x.2 0 % top)) : p = (e, 0) := by
  simpa using hp

theorem shards_one (man : Nat) (e : CkEntry) (h : manEntries man = [e]) (p : CkEntry × Nat) (hp : p ∈ manShards man [0]) : p = (e, 0) := by
  unfold manShards at hp
  rw [h] at hp
  exact shards_gen _ e p hp

theorem restore_witness (d : Nat) (hd : shardDigest 0 = d) (hb : d < 2 ^ 512) : ∃ (st : State) (c : Cmd) (x : Ctx) (man : Nat) (data : List Nat) (e : CkEntry)
    (a : AreaImage), CkHead st 2 c ∧ mget st.ctxs c.id = some x ∧ x.state = .preempted ∧ st.ckBusy c.id = false ∧
    (manEntries man).find? (fun e => decide (2 ^ 63 ≤ e.va)) = some e ∧ mget st.images e.digest = some a ∧
    ∀ p ∈ manShards man data, shardDigest p.2 = p.1.digest := by
  refine ⟨{ ckQ := [{ port := 1, word := 0x0080000000000000#64 }], ctxs := [(0, { state := .preempted })], images := [(d, { ctx := {}, wgs := [], grids := [] })] },
    { port := 1, word := 0x0080000000000000#64 }, { state := .preempted }, tMan d, [0], { va := 2 ^ 63, digest := d }, { ctx := {}, wgs := [], grids := [] },
    ⟨rfl, by decide⟩, rfl, rfl, rfl, ?_, ?_, ?_⟩
  · rw [tMan_entries _ hb]; rfl
  · simp only [mget, if_true]
  · intro p hp
    rw [shards_one _ _ (tMan_entries _ hb) p hp]
    exact hd

theorem witness_SlateCheckpointRestoreComplete_4 : ∃ (st : State) (c : Cmd) (x : Ctx) (man : Nat) (data : List Nat) (e : CkEntry) (a : AreaImage),
    CkHead st 2 c ∧ mget st.ctxs c.id = some x ∧ x.state = .preempted ∧ st.ckBusy c.id = false ∧
    (manEntries man).find? (fun e => decide (2 ^ 63 ≤ e.va)) = some e ∧ mget st.images e.digest = some a ∧
    ∀ p ∈ manShards man data, shardDigest p.2 = p.1.digest := restore_witness _ rfl (sha_lt _)

end Sys2Proof.Tests
end

section

namespace Sys2Proof.Machine

/-! Every step keeps the memory's canonical form (O57). The proof follows the model's own definitions: one lemma for each function that answers a state,
named `State.Inv.f` after the function `f`, says that `f` keeps the form when the states it is given have it. Only the few functions that store bytes
(`unpin`, `ringPut`, `writeQuiet`, `weirLoad`, `moduleReset`) touch the memory, each through `write`, `writeMask`, `clear` or `filter`, whose lemmas
stand with the memory. An operation with another kind of answer has its lemma under that kind's name: `AllSome.f` for an optional answer, `IEff.Inv.f`,
`Ans.Inv.f`, `Acc.Inv.f` and so on for the others. The lemmas' names let a proof name the functions alone (`.updGroup (.acquire h)`). -/

/-- Every value that an optional answer can hold satisfies a predicate. -/
def AllSome {α : Type} (p : α → Prop) (o : Option α) : Prop := ∀ a ∈ o, p a

/-- The states of an issue's effect have the canonical memory. -/
def IEff.Inv : IEff → Prop
  | .done st | .trap _ st | .hold st => st.Inv

/-- The state of an answer, if any, has the canonical memory. -/
def Ans.Inv : Ans → Prop
  | .next st => st.Inv
  | _ => True

/-- The state of a translation, if any, has the canonical memory. -/
def Tr.Inv : Tr → Prop
  | .ok _ _ st | .miss _ st | .malf _ st => st.Inv
  | .wait => True

/-- The state of a checked translation, if any, has the canonical memory. -/
def Acc.Inv : Acc → Prop
  | .ok _ _ st | .fault _ _ st | .prot _ st => st.Inv
  | .wait => True

/-- The state of an access of the device's own, if any, has the canonical memory. -/
def Own.Inv : Own → Prop
  | .done _ st => st.Inv
  | _ => True

/-- The state of a read launch, if any, has the canonical memory. -/
def LaunchRead.Inv : LaunchRead → Prop
  | .ok st _ _ _ | .fault _ _ st | .prot _ st => st.Inv
  | .wait => True

/-- The state of an engine's line has the canonical memory. -/
def EngEnd.Inv : EngEnd → Prop
  | .done st | .wait st | .later st | .miss st _ _ | .prot st _ => st.Inv

/-- The state of a fetch, if any, has the canonical memory. -/
def Fetch.Inv : Fetch → Prop
  | .word _ st | .trap _ st | .fault _ _ st => st.Inv
  | .hold => True

section Rules

variable {α β : Type} {p : α → Prop} {q : β → Prop} {s t : State} {c : Prop} {i : Decidable c}

theorem State.Inv.of_mem (h : s.Inv) (e : t.mem = s.mem) : t.Inv := by
  unfold State.Inv
  rw [e]
  exact h

theorem State.Inv.of_fst {r : State × α} {a : α} (e : r = (s, a)) (h : r.1.Inv) : s.Inv := by
  subst e
  exact h

theorem State.Inv.of_snd {r : α × State} {a : α} (e : r = (a, s)) (h : r.2.Inv) : s.Inv := by
  subst e
  exact h

theorem State.Inv.of_some {o : Option State} (e : o = .some s) (h : AllSome State.Inv o) : s.Inv := h s e

theorem State.Inv.of_some_fst {o : Option (State × α)} {a : α} (e : o = .some (s, a)) (h : AllSome (fun r => r.1.Inv) o) :
    s.Inv := h (s, a) e

theorem State.Inv.of_some_snd {o : Option (α × State)} {a : α} (e : o = .some (a, s)) (h : AllSome (fun r => r.2.Inv) o) :
    s.Inv := h (a, s) e

theorem IEff.Inv.of_option {o : Option IEff} {r : IEff} (e : o = .some r) (h : AllSome IEff.Inv o) : r.Inv := h r e

theorem EngEnd.Inv.of_fst {r : EngEnd} {o : EngEnd × α} {a : α} (e : o = (r, a)) (h : o.1.Inv) : r.Inv := by
  subst e
  exact h

theorem Acc.Inv.of_fst {r : Acc} {o : Acc × α} {a : α} (e : o = (r, a)) (h : o.1.Inv) : r.Inv := by
  subst e
  exact h

theorem State.Inv.ite (hs : s.Inv) (ht : t.Inv) : (if c then s else t).Inv := by
  split
  · exact hs
  · exact ht

theorem IEff.Inv.ite {r u : IEff} (hr : r.Inv) (hu : u.Inv) : (if c then r else u).Inv := by
  split
  · exact hr
  · exact hu

theorem Ans.Inv.ite {r u : Ans} (hr : Ans.Inv r) (hu : Ans.Inv u) : Ans.Inv (if c then r else u) := by
  split
  · exact hr
  · exact hu

theorem State.Inv.foldl {l : List α} {f : State → α → State} (h : s.Inv) (hf : ∀ s a, s.Inv → (f s a).Inv) : (l.foldl f s).Inv :=
  List.foldlRecOn l f h fun s hs a _ => hf s a hs

theorem State.Inv.foldl_fst {l : List α} {f : State × β → α → State × β} {r : State × β} (h : r.1.Inv) (hf : ∀ r a, r.1.Inv → (f r a).1.Inv) :
    (l.foldl f r).1.Inv :=
  List.foldlRecOn (motive := fun r => r.1.Inv) l f h fun r hr a _ => hf r a hr

theorem State.Inv.getD {o : Option State} (ho : AllSome State.Inv o) (h : s.Inv) : (o.getD s).Inv := by
  cases o with
  | none => exact h
  | some a => exact ho a rfl

theorem Ans.Inv.getD {o : Option Ans} {r : Ans} (ho : AllSome Ans.Inv o) (hr : Ans.Inv r) : Ans.Inv (o.getD r) := by
  cases o with
  | none => exact hr
  | some a => exact ho a rfl

theorem AllSome.none : AllSome p none := nofun

theorem AllSome.some {a : α} (h : p a) : AllSome p (some a) := by
  rintro b ⟨⟩
  exact h

theorem AllSome.ite {o r : Option α} (ho : AllSome p o) (hr : AllSome p r) : AllSome p (if c then o else r) := by
  split
  · exact ho
  · exact hr

theorem AllSome.or {o r : Option α} (ho : AllSome p o) (hr : AllSome p r) : AllSome p (o.or r) := by
  cases o with
  | none => exact hr
  | some a => exact ho

theorem AllSome.firstSome {l : List α} {f : α → Option β} (hf : ∀ a, AllSome q (f a)) : AllSome q (firstSome f l) := by
  induction l with
  | nil => exact .none
  | cons a l ih =>
    unfold Machine.firstSome
    split
    next e => exact .some (hf a _ e)
    · exact ih

theorem AllSome.map {o : Option α} {f : α → β} (ho : AllSome p o) (hf : ∀ a, p a → q (f a)) : AllSome q (o.map f) := by
  cases o with
  | none => exact .none
  | some a => exact .some (hf a (ho a rfl))

theorem AllSome.map_all {o : Option α} {f : α → β} (hf : ∀ a, q (f a)) : AllSome q (o.map f) := by
  cases o with
  | none => exact .none
  | some a => exact .some (hf a)

theorem AllSome.bind_all {o : Option α} {f : α → Option β} (hf : ∀ a, AllSome q (f a)) : AllSome q (o.bind f) := by
  cases o with
  | none => exact .none
  | some a => exact hf a

theorem AllSome.bind {o : Option α} {f : α → Option β} (ho : AllSome p o) (hf : ∀ a, p a → AllSome q (f a)) : AllSome q (o.bind f) := by
  cases o with
  | none => exact .none
  | some a => exact hf a (ho a rfl)

theorem AllSome.foldl {l : List β} {f : Option α → β → Option α} {o : Option α} (h : AllSome p o) (hf : ∀ o b, AllSome p o → AllSome p (f o b)) :
    AllSome p (l.foldl f o) :=
  List.foldlRecOn l f h fun o ho b _ => hf o b ho

theorem IEff.Inv.of_trap {r : IEff} {x : Trap} (e : r = .trap x t) (h : IEff.Inv r) : t.Inv := by
  subst e
  exact h

theorem IEff.Inv.of_hold {r : IEff} (e : r = .hold t) (h : IEff.Inv r) : t.Inv := by
  subst e
  exact h

theorem Ans.Inv.of_next {r : Ans} (e : r = .next t) (h : Ans.Inv r) : t.Inv := by
  subst e
  exact h

theorem Tr.Inv.of_ok {r : Tr} {x : Word} {y : Nat} (e : r = .ok x y t) (h : Tr.Inv r) : t.Inv := by
  subst e
  exact h

theorem Tr.Inv.of_miss {r : Tr} {x : Nat} (e : r = .miss x t) (h : Tr.Inv r) : t.Inv := by
  subst e
  exact h

theorem Tr.Inv.of_malf {r : Tr} {x : Nat} (e : r = .malf x t) (h : Tr.Inv r) : t.Inv := by
  subst e
  exact h

theorem Acc.Inv.of_ok {r : Acc} {x : Word} {y : Nat} (e : r = .ok x y t) (h : Acc.Inv r) : t.Inv := by
  subst e
  exact h

theorem Acc.Inv.of_fault {r : Acc} {x : Nat} {y : Trap} (e : r = .fault x y t) (h : Acc.Inv r) : t.Inv := by
  subst e
  exact h

theorem Acc.Inv.of_prot {r : Acc} {x : Trap} (e : r = .prot x t) (h : Acc.Inv r) : t.Inv := by
  subst e
  exact h

theorem Own.Inv.of_done {r : Own} {x : Nat} (e : r = .done x t) (h : Own.Inv r) : t.Inv := by
  subst e
  exact h

theorem LaunchRead.Inv.of_ok {r : LaunchRead} {x : Desc} {y : Nat} {z : List (Word × Nat)} (e : r = .ok t x y z) (h : LaunchRead.Inv r) : t.Inv := by
  subst e
  exact h

theorem LaunchRead.Inv.of_fault {r : LaunchRead} {x : Nat} {y : Trap} (e : r = .fault x y t) (h : LaunchRead.Inv r) : t.Inv := by
  subst e
  exact h

theorem LaunchRead.Inv.of_prot {r : LaunchRead} {x : Trap} (e : r = .prot x t) (h : LaunchRead.Inv r) : t.Inv := by
  subst e
  exact h

theorem EngEnd.Inv.of_done {r : EngEnd} (e : r = .done t) (h : EngEnd.Inv r) : t.Inv := by
  subst e
  exact h

theorem EngEnd.Inv.of_miss {r : EngEnd} {x : Nat} {y : Trap} (e : r = .miss t x y) (h : EngEnd.Inv r) : t.Inv := by
  subst e
  exact h

theorem EngEnd.Inv.of_prot {r : EngEnd} {x : Trap} (e : r = .prot t x) (h : EngEnd.Inv r) : t.Inv := by
  subst e
  exact h

theorem Fetch.Inv.of_word {r : Fetch} {x : BitVec 32} (e : r = .word x t) (h : Fetch.Inv r) : t.Inv := by
  subst e
  exact h

theorem Fetch.Inv.of_trap {r : Fetch} {x : Trap} (e : r = .trap x t) (h : Fetch.Inv r) : t.Inv := by
  subst e
  exact h

theorem Fetch.Inv.of_fault {r : Fetch} {x : Nat} {y : Trap} (e : r = .fault x y t) (h : Fetch.Inv r) : t.Inv := by
  subst e
  exact h

end Rules

/-! Where things are. -/

theorem State.Inv.rebuilt {st : State} (h : st.Inv) : st.rebuilt.Inv :=
  h

theorem State.Inv.updReel {st : State} {dev : Nat} {f : Reel → Reel} (h : st.Inv) : (st.updReel dev f).Inv :=
  h

theorem State.Inv.updDie {st : State} {d : Nat} {f : Die → Die} (h : st.Inv) : (st.updDie d f).Inv :=
  h

theorem State.Inv.updCore {st : State} {c : Nat} {f : Core → Core} (h : st.Inv) : (st.updCore c f).Inv :=
  h

theorem State.Inv.updCluster {st : State} {c : Nat} {f : Cluster → Cluster} (h : st.Inv) : (st.updCluster c f).Inv :=
  h

theorem State.Inv.putGroup {st : State} {gid : Nat} {g : Group} (h : st.Inv) : (st.putGroup gid g).Inv :=
  h

theorem State.Inv.updGroup {st : State} {gid : Nat} {f : Group → Group} (h : st.Inv) : (st.updGroup gid f).Inv :=
  h

theorem State.Inv.updWg {st : State} {w : Nat} {f : Workgroup → Workgroup} (h : st.Inv) : (st.updWg w f).Inv :=
  h

theorem State.Inv.updCtx {st : State} {c : Nat} {f : Ctx → Ctx} (h : st.Inv) : (st.updCtx c f).Inv :=
  h

theorem State.Inv.updGrid {st : State} {k : Nat} {f : Grid → Grid} (h : st.Inv) : (st.updGrid k f).Inv :=
  h

/-! Recording and replay as one gate. -/

theorem State.Inv.closeTake {st : State} {c rid flags : Nat} (h : st.Inv) : (st.closeTake c rid flags).Inv := by
  unfold State.closeTake
  split
  · extract_lets st1
    have h1 : st1.Inv := h.updCtx
    exact .ite h1 h1
  · exact h

theorem State.Inv.closeTakes {st : State} {c flags : Nat} (h : st.Inv) : (st.closeTakes c flags).Inv :=
  .foldl h (fun _ _ h1 => h1.closeTake)

theorem State.Inv.openTake {st : State} {c rid : Nat} (h : st.Inv) : (st.openTake c rid).Inv := by
  unfold State.openTake
  split
  · exact h
  · exact h.updCtx

theorem State.Inv.append {st : State} {c rid : Nat} {r : List Nat} (h : st.Inv) : (st.append c rid r).Inv := by
  unfold State.append
  extract_lets st1 st2
  have h1 : st1.Inv := h.openTake
  have h2 : st2.Inv := .openTake h1.closeTake
  split
  · exact h1
  · split
    · exact h1.updCtx
    · exact .ite h2.updCtx h1.updCtx

theorem AllSome.gate {st : State} {c rid : Nat} {sel ok : List Nat → Bool} {mk : List Nat} (h : st.Inv) :
    AllSome (fun r => r.1.Inv) (st.gate c rid sel ok mk) := by
  unfold State.gate
  split
  · exact .some h
  · split
    · refine .ite (.some h) ?_
      extract_lets _
      split
      · exact .none
      · exact .ite (.some h.updCtx) .none
    · exact .ite (.ite .none (.some h.append)) (.some h)

theorem State.Inv.logOff {st : State} {c : Nat} {off : Bool} (h : st.Inv) : (st.logOff c off).Inv :=
  .ite h.updCtx h

theorem AllSome.sched {st : State} {c rid arb unit choice : Nat} {serial : Option Nat} (h : st.Inv) :
    AllSome State.Inv (st.sched c rid arb unit choice serial) :=
  .map (.gate h) (fun _ ha => ha)

theorem AllSome.scratch {st : State} {c rid space port req : Nat} (h : st.Inv) : AllSome State.Inv (st.scratch c rid space port req) :=
  .map (.gate h) (fun _ ha => ha)

theorem AllSome.cdc {st : State} {c gid : Nat} {acc : Bool} {icnt src v : Nat} (h : st.Inv) :
    AllSome (fun r => r.1.Inv) (st.cdc c gid acc icnt src v) :=
  .map (.gate h) (fun _ ha => ha)

theorem AllSome.trapRec {st : State} {c gid : Nat} {acc : Bool} {icnt cause : Nat} (h : st.Inv) :
    AllSome State.Inv (st.trapRec c gid acc icnt cause) :=
  .map (.gate h) (fun _ ha => ha)

theorem AllSome.seqTicket {st : State} {c kind loc icnt : Nat} (h : st.Inv) : AllSome (fun r => r.1.Inv) (st.seqTicket c kind loc icnt) :=
  .map (.gate h) (fun _ ha => ha)

theorem State.Inv.value {st : State} {c gid : Nat} {acc : Bool} {icnt line data : Nat} (h : st.Inv) : (st.value c gid acc icnt line data).1.Inv := by
  unfold State.value
  extract_lets _ _
  split
  · exact h
  · split
    · split
      · exact h
      · split
        next e3 => exact .of_some_fst e3 (.gate h)
        · exact h
    · split
      · exact h.append
      · exact h

/-! Trace rings. -/

theorem State.Inv.unpin {st : State} {die : Nat} (h : st.Inv) : (st.unpin die).Inv := by
  unfold State.unpin
  split
  · exact Memory.wf_write _ _ _ _ h
  · exact h

/-- By induction on the fuel: each slot passed over at most unpins the die's ring. -/
theorem State.Inv.ringSlot {fuel : Nat} {st : State} {die pos : Nat} (h : st.Inv) : (st.ringSlot fuel die pos).1.Inv := by
  induction fuel generalizing st pos with
  | zero => exact h
  | succ n ih =>
    unfold State.ringSlot
    extract_lets here st1
    have h1 : st1.Inv := .ite h.unpin h
    split
    · split
      · exact ih h1
      · exact h1
    · exact h

theorem State.Inv.ringPut {st : State} {die : Nat} {r : TraceRec} (h : st.Inv) : (st.ringPut die r).Inv := by
  unfold State.ringPut
  split
  next s pos e =>
    have hs : s.Inv := .of_fst e h.ringSlot
    exact .updDie (Memory.wf_write _ _ _ _ hs)

theorem State.Inv.trace {st : State} {die cls : Nat} {ctx : Option Nat} {loc pay : Nat} (h : st.Inv) : (st.trace die cls ctx loc pay).Inv :=
  .ite (.ringPut (.ite h (.ringPut h.updDie))) h

theorem State.Inv.faultRec {st : State} {die ctx loc c1 c2 info : Nat} (h : st.Inv) : (st.faultRec die ctx loc c1 c2 info).Inv :=
  h.trace

/-! Bytes at their flat addresses. -/

theorem State.Inv.wake {st : State} {a n : Nat} (h : st.Inv) : (st.wake a n).Inv :=
  h

/-- The one write in which every unit's store ends. -/
theorem State.Inv.writeQuiet {st : State} {a n mask v : Nat} (h : st.Inv) : (st.writeQuiet a n mask v).Inv :=
  .wake (Memory.wf_writeMask _ _ _ _ _ h)

theorem State.Inv.write {st : State} {a n mask v : Nat} (h : st.Inv) : (st.write a n mask v).Inv := by
  unfold State.write
  extract_lets _ _ st1
  have h1 : st1.Inv := h.writeQuiet
  split
  · exact .ite h1 h1

theorem State.Inv.writeAll {st : State} {a n v : Nat} (h : st.Inv) : (st.writeAll a n v).Inv :=
  h.write

theorem State.Inv.poison {st : State} {a : Nat} (h : st.Inv) : (st.poison a).Inv :=
  .ite h h

theorem State.Inv.poisonCached {st : State} {a : Nat} (h : st.Inv) : (st.poisonCached a).Inv :=
  .ite h (.of_mem h.poison rfl)

theorem State.Inv.markU {st : State} {line mask : Nat} {tracked : Bool} (h : st.Inv) : (st.markU line mask tracked).Inv :=
  h

theorem State.Inv.hostStore {st : State} {a n v : Nat} (h : st.Inv) : (st.hostStore a n v).Inv :=
  .ite (.ite (.markU (.markU h.writeAll)) (.markU h.writeAll)) h.writeAll

theorem State.Inv.freeValue {st : State} (h : st.Inv) : st.freeValue.2.Inv :=
  h

/-! Giving a line up. -/

theorem State.Inv.replayJumps {st : State} {core c : Nat} (h : st.Inv) : (st.replayJumps core c).Inv := by
  unfold State.replayJumps
  refine .foldl h (fun _ _ h1 => ?_)
  extract_lets _ _ _ _
  split
  next e => exact .updCore (.of_some_fst e (.gate h1))
  · exact h1

theorem State.Inv.jumpCore {st : State} {core f : Nat} (h : st.Inv) : (st.jumpCore core f).Inv :=
  .ite (.foldl h (fun _ _ h1 => h1.replayJumps)) (.ite (.updCore (.foldl h (fun _ _ h1 => .ite h1.append h1))) h)

theorem State.Inv.jumpDie {st : State} {die f : Nat} (h : st.Inv) : (st.jumpDie die f).Inv :=
  .foldl h (fun _ _ h1 => h1.jumpCore)

theorem State.Inv.giveUp {st : State} {die line : Nat} (h : st.Inv) : (st.giveUp die line).Inv := by
  unfold State.giveUp
  extract_lets _
  split
  · exact h
  · exact .jumpDie h.updDie

theorem State.Inv.updDir {st : State} {line : Nat} {f : DirEntry → DirEntry} (h : st.Inv) : (st.updDir line f).Inv :=
  h

theorem State.Inv.yieldLine {st : State} {die line : Nat} (h : st.Inv) : (st.yieldLine die line).Inv := by
  unfold State.yieldLine
  extract_lets _ st1
  have h1 : st1.Inv := .updDir h.giveUp
  exact .ite h1 h1

theorem AllSome.dirGate {st : State} {kind holder halves nread line : Nat} (h : st.Inv) :
    AllSome State.Inv (st.dirGate kind holder halves nread line) := by
  unfold State.dirGate
  extract_lets cs mk sel ok st1
  have h1 : AllSome State.Inv st1 := .foldl (.some h) fun _ _ ho => .bind ho fun _ hs => .map (.gate hs) fun _ ht => ht
  exact .ite h1 (.map h1 fun _ hs => hs.updDir)

theorem AllSome.revokeDie {st : State} {die line : Nat} (h : st.Inv) : AllSome State.Inv (st.revokeDie die line) :=
  .ite (.map (.dirGate h) (fun _ ha => ha.yieldLine)) (.some h)

theorem AllSome.recallHalf {st : State} {line half : Nat} (h : st.Inv) : AllSome State.Inv (st.recallHalf line half) :=
  .ite (.some h) (.map (.dirGate h) (fun _ ha => ha.updDir))

theorem AllSome.recallOwned {st : State} {line half : Nat} (h : st.Inv) : AllSome State.Inv (st.recallOwned line half) :=
  .ite (.recallHalf h) (.some h)

theorem State.Inv.downgrade {st : State} {line : Nat} (h : st.Inv) : (st.downgrade line).Inv :=
  .ite (.updDir (.foldl h (fun _ _ h1 => .ite h1.updDie h1))) h

theorem AllSome.takeLine {st : State} {line : Nat} (h : st.Inv) : AllSome State.Inv (st.takeLine line) :=
  .bind (.foldl (.some h) (fun _ _ ho => .bind ho (fun _ ha => .revokeDie ha))) (fun _ ha => .bind (.recallHalf ha) (fun _ ha1 => .recallHalf ha1))

theorem AllSome.shareLine {st : State} {line : Nat} (h : st.Inv) : AllSome State.Inv (st.shareLine line) :=
  .bind (.recallOwned h.downgrade) (fun _ ha => .recallOwned ha)

/-! Translation caches (R333, R334). -/

theorem State.Inv.fillCaches {st : State} {ps : List TlbPlace} {e : TlbEntry} (h : st.Inv) : (st.fillCaches ps e).Inv :=
  h

theorem State.Inv.walkValues {st : State} {c : Nat} {who : Who} {lines : List Nat} (h : st.Inv) : (st.walkValues c who lines).Inv := by
  unfold State.walkValues
  split
  · exact .foldl h (fun _ _ h1 => h1.value)
  · exact h

theorem AllSome.orEntry {st : State} {die a bit : Nat} (h : st.Inv) : AllSome State.Inv (st.orEntry die a bit) :=
  .map (.bind (.takeLine h) (fun _ ha => .dirGate ha)) (fun _ ha => ha.writeQuiet)

/-- A translation writes memory only where it sets a bit of the entry it ended at (`orEntry`). -/
theorem Tr.Inv.translate {st : State} {c : Nat} {who : Who} {va : Nat} (h : st.Inv) : (st.translate c who va).Inv := by
  unfold State.translate
  extract_lets _ _ _ _ probed w s read
  have h1 : probed.Inv := h
  have h2 : s.Inv := h1.walkValues
  have h3 : read.Inv := h2
  split
  · exact h.fillCaches
  · split
    · exact .fillCaches h1
    · split
      · exact trivial
      · clear_value w
        split
        · exact h3
        · exact h3
        · extract_lets _ _
          split
          · exact trivial
          next e4 => exact .fillCaches (.of_mem (.of_some e4 (.ite (.some h3) (.orEntry h3))) rfl)

theorem AllSome.setDirty {st : State} {c : Nat} {who : Who} {va : Nat} (h : st.Inv) : AllSome State.Inv (st.setDirty c who va) := by
  unfold State.setDirty
  split
  · exact .some h
  · exact .map (.orEntry h) (fun _ ha => ha)

/-! TINFO of translation traps (R337). -/

theorem Acc.Inv.access {st : State} {c : Nat} {who : Who} {va : Nat} {n : Need} {path : Nat} {wr : Bool} (h : st.Inv) :
    (st.access c who va n path wr).Inv := by
  unfold State.access
  extract_lets _
  split
  next e => exact Tr.Inv.of_miss e (.translate h)
  next e => exact Tr.Inv.of_malf e (.translate h)
  · exact trivial
  next e =>
    have h1 : State.Inv _ := Tr.Inv.of_ok e (.translate h)
    split
    · exact h1
    · exact h1

theorem Acc.Inv.accessNow {st : State} {c : Nat} {who : Who} {va : Nat} {n : Need} {path : Nat} {wr : Bool} (h : st.Inv) :
    (st.accessNow c who va n path wr).Inv := by
  unfold State.accessNow
  split
  next e =>
    have h1 : State.Inv _ := Acc.Inv.of_ok e (.access h)
    split
    · exact trivial
    · split
      · exact h1
      · exact h1
  · exact .access h

theorem AllSome.writeLeaf {st : State} {c : Nat} {who : Who} {va : Nat} {leaf : Word} {pa n mask v : Nat} (h : st.Inv) :
    AllSome State.Inv (st.writeLeaf c who va leaf pa n mask v) :=
  .map (.setDirty h) (fun _ ha => .markU ha.write)

/-! The page-fault service (R338 to R340). -/

theorem Own.Inv.vRead {st : State} {c : Nat} {who : Who} {va n : Nat} (h : st.Inv) : (st.vRead c who va n).Inv := by
  unfold State.vRead
  split
  next e => exact Acc.Inv.of_ok e (.accessNow h)
  · exact trivial
  · exact trivial

theorem Own.Inv.vWrite {st : State} {c : Nat} {who : Who} {va n v : Nat} (h : st.Inv) : (st.vWrite c who va n v).Inv := by
  unfold State.vWrite
  split
  next e =>
    split
    next e1 => exact State.Inv.of_some e1 (.bind (.ite (.takeLine (Acc.Inv.of_ok e (.accessNow h))) .none) (fun _ ha => .writeLeaf ha))
    · exact trivial
  · exact trivial
  · exact trivial

theorem State.Inv.haltFq {st : State} {c : Nat} {who : Who} {addr : Nat} (h : st.Inv) : (st.haltFq c who addr).st.Inv := by
  unfold State.haltFq
  refine .faultRec ?_
  split
  next e => exact Own.Inv.of_done e (.vWrite h)
  · exact h

theorem State.Inv.pageFault {st : State} {c : Nat} {who : Who} {page detail serial addr : Nat} (h : st.Inv) :
    (st.pageFault c who page detail serial addr).st.Inv := by
  unfold State.pageFault
  extract_lets _ _
  split
  · exact h
  · split
    · exact h
    · exact h.haltFq
    next e1 =>
      have h2 : State.Inv _ := Own.Inv.of_done e1 (.vRead h)
      split
      · exact .haltFq h2
      · extract_lets _
        split
        · exact .haltFq h2
        · split
          · exact h2
          · split
            · exact h2
            · exact .haltFq h2
            next e5 =>
              have h3 : State.Inv _ := Own.Inv.of_done e5 (.vWrite h2)
              split
              · exact h2
              · exact .haltFq h3
              next e6 =>
                extract_lets st4
                have h1 : st4.Inv := .updCtx (Own.Inv.of_done e6 (.vWrite h3))
                exact h1

/-! Logical time. -/

theorem State.Inv.raisePts {st : State} {core t : Nat} (h : st.Inv) : (st.raisePts core t).Inv :=
  .updDie h.updCore

theorem State.Inv.bindSeen {st : State} {gid scope from_ : Nat} (h : st.Inv) : (st.bindSeen gid scope from_).Inv :=
  h

theorem State.Inv.acquireFrom {st : State} {gid scope from_ : Nat} (h : st.Inv) : (st.acquireFrom gid scope from_).Inv :=
  .ite (.raisePts (.bindSeen h.raisePts)) (.bindSeen h.raisePts)

theorem State.Inv.acquire {st : State} {gid scope : Nat} (h : st.Inv) : (st.acquire gid scope).Inv :=
  h.acquireFrom

/-! Traps. -/

theorem State.Inv.contextFault {st : State} {gid c1 c2 : Nat} {acc : Bool} {detail : Nat} (h : st.Inv) :
    (st.contextFault gid c1 c2 acc detail).Inv := by
  unfold State.contextFault
  extract_lets _ _ st1 st2 st3
  have h1 : st1.Inv := .getD (.trapRec h) h
  have h2 : st2.Inv := h1.updCtx
  have h3 : st3.Inv := h2
  exact h3.faultRec

theorem State.Inv.enterTrap {st : State} {gid : Nat} (h : st.Inv) : (st.enterTrap gid).Inv := by
  unfold State.enterTrap
  split
  · exact h
  · split
    · exact h
    · refine .ite ?_ h
      split
      · split
        · extract_lets _ _ _
          split
          · exact h
          next e4 =>
            have h2 : State.Inv _ := Acc.Inv.of_ok e4 (.accessNow h.putGroup)
            split
            next st2 _ e5 =>
              have h1 : st2.Inv := by
                refine .of_fst e5 ?_
                split
                · exact .value h2
                · exact h2
              exact .ite (.updGroup h1.acquire) h1.contextFault
          next e4 => exact .contextFault (Acc.Inv.of_fault e4 (.accessNow h.putGroup))
          next e4 => exact .contextFault (Acc.Inv.of_prot e4 (.accessNow h.putGroup))

theorem State.Inv.queueHalt {st : State} {gid : Nat} {g : Group} (h : st.Inv) : (st.queueHalt gid g).Inv := by
  unfold State.queueHalt
  refine .updCtx ?_
  split
  next e => exact Own.Inv.of_done e (.vWrite h)
  · exact h

theorem State.Inv.rootHalt {st : State} {gid : Nat} {g : Group} {t : Trap} (h : st.Inv) : (st.rootHalt gid g t).Inv :=
  .faultRec h.queueHalt

theorem State.Inv.postTrap {st : State} {gid : Nat} {p : Pend} (h : st.Inv) : (st.postTrap gid p).Inv :=
  h.updGroup

theorem State.Inv.takeTrap {st : State} {gid : Nat} {p : Pend} (h : st.Inv) : (st.takeTrap gid p).Inv := by
  unfold State.takeTrap
  split
  · exact h
  · refine .ite h.rootHalt (.ite h.contextFault ?_)
    extract_lets _ go
    have h1 : AllSome State.Inv go := .ite (.some h) (.trapRec h)
    clear_value go
    split
    · exact .ite h.postTrap h
    · exact .enterTrap (.updGroup (.of_some rfl h1))

theorem State.Inv.standingTrap {st : State} {gid : Nat} {p : Pend} (h : st.Inv) : (st.standingTrap gid p).Inv := by
  unfold State.standingTrap
  split
  · exact h
  · exact .ite h.postTrap h.takeTrap

theorem State.Inv.waiterTrap {st : State} {gid : Nat} {acc : Bool} {slot : Nat} {t : Trap} (h : st.Inv) : (st.waiterTrap gid acc slot t).Inv :=
  h.standingTrap

theorem State.Inv.declinedTrap {st : State} {gid : Nat} {acc : Bool} {slot : Nat} {t : Trap} (h : st.Inv) : (st.declinedTrap gid acc slot t).Inv :=
  h.standingTrap

theorem State.Inv.takePend {st : State} {gid : Nat} {acc : Bool} {slot : Nat} {p : Pend} (h : st.Inv) : (st.takePend gid acc slot p).Inv :=
  .takeTrap h.updGroup

/-! The census. -/

theorem State.Inv.noteIssue {st : State} {gid : Nat} (h : st.Inv) : (st.noteIssue gid).Inv :=
  .ite h.updCore h

theorem State.Inv.census {st : State} {gid : Nat} {g : Group} {s : Split} {guarded : Bool} {w : Nat} (h : st.Inv) :
    (st.census gid g s guarded w).Inv :=
  .ite (.updCore h.noteIssue) h.noteIssue

/-! Issue of the compute stream. -/

theorem State.Inv.takeMflags {st : State} {gid : Nat} (h : st.Inv) : (st.takeMflags gid).Inv :=
  .ite h (.updGroup h.updCluster)

theorem State.Inv.retireC {st : State} {gid slot : Nat} {g0 : Group} {s0 : Split} {sp : IssueSpec} (h : st.Inv) :
    (st.retireC gid slot g0 s0 sp).Inv := by
  unfold State.retireC
  extract_lets _ st1
  have h1 : st1.Inv := h.updGroup
  exact .census h1

/-- The issue of a compute-stream instruction keeps the form when what the instruction does keeps it: all else an issue does is to take or post traps
and to retire. -/
theorem State.Inv.issueAt {st : State} {gid slot : Nat} {g : Group} {s : Split} {m : BitVec 1} {sp : IssueSpec} {body : State → Group → Split → IEff}
    (h : st.Inv)
    (hbody : ∀ (t : State) g s, t.Inv → (body t g s).Inv) : (st.issueAt gid slot g s m sp body).Inv := by
  unfold State.issueAt
  extract_lets must turn prec
  refine .ite h ?_
  split
  · exact h.updGroup
  split
  extract_lets g1 st1 st2 g2 run
  have h1 : st1.Inv := h.putGroup
  have h2 : st2.Inv := .ite h1.takeMflags h1
  have hp : ∀ t (s : State), s.Inv → (prec t s).Inv := fun _ _ hs => hs.takeTrap
  have hr : ∀ q : IEff, q.Inv → (run q).Inv := by
    intro q hq
    dsimp only [run]
    cases q with
    | done s =>
      split
      · exact .ite (.retireC hq) h2.takePend
      · exact .retireC hq
    | trap t s =>
      split
      · exact .ite (hp _ _ hq) (hp _ _ hq)
      · exact hp _ _ hq
    | hold s =>
      split
      · exact .ite hq h2.takePend
      · exact hq
  clear_value prec run
  split
  · exact hp _ _ h2
  refine .ite (hp _ _ h2) (.ite (hp _ _ h2) (.ite (hp _ _ h2) (.ite (hp _ _ h2) ?_)))
  split
  · exact hp _ _ h2
  · exact hr _ h2
  · exact hr _ (hbody _ _ _ h2)

theorem Ans.Inv.issueC {st : State} {m : BitVec 1} {sp : IssueSpec} {body : State → Group → Split → IEff} (h : st.Inv)
    (hbody : ∀ (t : State) g s, t.Inv → (body t g s).Inv) : Ans.Inv (issueC st m sp body) := by
  unfold Machine.issueC
  split
  · exact trivial
  · split
    · exact trivial
    · exact h.issueAt hbody

theorem Ans.Inv.groupOp {st : State} {m : BitVec 1} {sp : IssueSpec} {f : Group → Split → GEff} (h : st.Inv) : Ans.Inv (groupOp st m sp f) := by
  unfold Machine.groupOp
  refine .issueC h (fun _ _ _ h1 => ?_)
  split
  · exact h1.putGroup
  · exact h1

/-! Issue of the access stream. -/

theorem State.Inv.retireA {st : State} {gid : Nat} {sp : AccSpec} {out : Bool} (h : st.Inv) : (st.retireA gid sp out).Inv := by
  unfold State.retireA
  extract_lets st1
  have h1 : st1.Inv := h.updGroup
  exact h1

theorem State.Inv.stallA {st : State} {gid : Nat} (h : st.Inv) : (st.stallA gid).Inv :=
  h.updGroup

/-- As `State.Inv.issueAt`, for the access stream. -/
theorem State.Inv.issueAccess {st : State} {gid : Nat} {g : Group} {m : BitVec 1} {sp : AccSpec} {body : State → Group → IEff} (h : st.Inv)
    (hbody : ∀ (t : State) g, t.Inv → (body t g).Inv) : (st.issueAccess gid g m sp body).Inv := by
  unfold State.issueAccess
  extract_lets must turn prec
  refine .ite h (.ite h.stallA ?_)
  split
  extract_lets st1 st2 g1 fin
  have h1 : st1.Inv := h.putGroup
  have h2 : st2.Inv := .ite h1.takeMflags h1
  have hp : ∀ t (s : State), s.Inv → (prec t s).Inv := fun _ _ hs => hs.takeTrap
  have hf : ∀ q : IEff, q.Inv → (fin q).Inv := by
    rintro (s | ⟨t, s⟩ | s) hq
    · exact .retireA hq
    · exact hp t s hq
    · exact .stallA hq
  have hb : (body st2 g1).Inv := hbody _ _ h2
  clear_value prec fin
  split
  · exact hp _ _ h2
  refine .ite (hp _ _ h2) ?_
  split
  next e => exact hp _ _ (IEff.Inv.of_trap e hb)
  · split
    · exact h2.takePend
    · exact hf _ hb

theorem Ans.Inv.issueA {st : State} {m : BitVec 1} {sp : AccSpec} {body : State → Group → IEff} (h : st.Inv)
    (hbody : ∀ (t : State) g, t.Inv → (body t g).Inv) : Ans.Inv (issueA st m sp body) := by
  unfold Machine.issueA
  split
  · exact trivial
  · exact .ite (h.issueAccess hbody) trivial

theorem Ans.Inv.accessOp {st : State} {m : BitVec 1} {sp : AccSpec} {f : Group → GEff} (h : st.Inv) : Ans.Inv (accessOp st m sp f) := by
  unfold Machine.accessOp
  refine .issueA h (fun _ _ h1 => ?_)
  split
  · exact h1.putGroup
  · exact h1

/-! Ranks, ways and victims (R133 to R139). -/

theorem State.Inv.setOverstated {st : State} {die c n : Nat} (h : st.Inv) : (st.setOverstated die c n).Inv :=
  h.updDie

theorem State.Inv.countHit {st : State} {die tenant owner rank lim : Nat} (h : st.Inv) : (st.countHit die tenant owner rank lim).Inv :=
  .ite h.setOverstated h

theorem State.Inv.fillL1 {st : State} {core line : Nat} {cp : L1Copy} (h : st.Inv) : (st.fillL1 core line cp).Inv := by
  unfold State.fillL1
  extract_lets _ _
  split
  · exact h.updCore
  · split
    · exact h.updCore
    · split
      · exact h.updCore
      · exact h

theorem State.Inv.fillL2 {st : State} {die line : Nat} (h : st.Inv) : (st.fillL2 die line).Inv := by
  unfold State.fillL2
  split
  · exact h
  · exact h.updDie

theorem State.Inv.allocL2 {st : State} {die line c : Nat} (h : st.Inv) : (st.allocL2 die line c).Inv := by
  unfold State.allocL2
  extract_lets _ _ _ _ _ _ _ way _ _ _ _
  clear_value way
  split
  · exact h.updDie
  · split
    · exact .updDie h.yieldLine
    · exact h.updDie

theorem State.Inv.meetL2 {st : State} {die line c : Nat} (h : st.Inv) : (st.meetL2 die line c).Inv := by
  unfold State.meetL2
  split
  · exact .ite h.allocL2 h.countHit
  · exact h

theorem State.Inv.touchL2 {st : State} {die line c : Nat} {r : Option Nat} (h : st.Inv) : (st.touchL2 die line c r).Inv :=
  h.updDie

theorem State.Inv.passLine {st : State} {die line : Nat} (h : st.Inv) : (st.passLine die line).Inv :=
  .ite h.yieldLine h

/-! Grants (R206, R208, R213). -/

theorem State.Inv.grantDie {st : State} {die line : Nat} {excl : Bool} (h : st.Inv) : (st.grantDie die line excl).Inv := by
  unfold State.grantDie
  refine .ite h (.ite (.ite h ?_) ?_)
  · split
    · exact h
    next e => exact .updDir (.fillL2 (.of_some e (.bind (.bind (.recallHalf h) (fun _ ha => .recallHalf ha)) (fun _ ha => .dirGate ha))))
  · split
    · exact h
    next e => exact .updDir (.fillL2 (.of_some e (.bind (.shareLine h) (fun _ ha => .dirGate ha))))

/-! HOME records (R422, R425). -/

theorem AllSome.home {st : State} {c cl unit kind ltime prev nread : Nat} {tracked : Bool} (h : st.Inv) :
    AllSome (fun r => r.1.Inv) (st.home c cl unit kind ltime prev nread tracked) :=
  .ite (.map (.gate h) (fun _ ha => .ite ha.updCtx ha)) (.some (.ite h.updCtx h))

theorem AllSome.l3Gate {st : State} {wr tracked : Bool} {die hs line : Nat} (h : st.Inv) : AllSome State.Inv (st.l3Gate wr tracked die hs line) :=
  .ite (.dirGate h) (.some h)

/-! Performing a line. -/

theorem State.Inv.refillL1 {st : State} {core line c : Nat} {rank : Option Nat} {wts : Nat} {cp : L1Copy} (h : st.Inv) :
    (st.refillL1 core line c rank wts cp).Inv :=
  h.fillL1

theorem State.Inv.writeL1 {st : State} {core line c : Nat} {rank : Option Nat} {cp : L1Copy} (h : st.Inv) : (st.writeL1 core line c rank cp).Inv := by
  unfold State.writeL1
  refine .fillL1 ?_
  split
  · exact h.countHit
  · exact h

theorem State.Inv.hitL1 {st : State} {core line c : Nat} {rank : Option Nat} {cp : L1Copy} (h : st.Inv) : (st.hitL1 core line c rank cp).Inv :=
  .fillL1 h.countHit

theorem State.Inv.mark {st : State} {gid t : Nat} (h : st.Inv) : (st.mark gid t).Inv :=
  h.updGroup

theorem State.Inv.markShared {st : State} {gid : Nat} (h : st.Inv) : (st.markShared gid).Inv :=
  h.mark

theorem AllSome.loadLine {st : State} {gid c line cls : Nat} {tracked : Bool} {host rank : Option Nat} (h : st.Inv) :
    AllSome (fun r => r.2.Inv) (st.loadLine gid c line cls tracked host rank) := by
  unfold State.loadLine
  extract_lets _ _ _ st1 _
  have h1 : st1.Inv := h.meetL2
  split
  · exact .ite (.map (.l3Gate h) (fun _ ha => ha.markShared)) .none
  · split
    · exact .some (.mark h.hitL1)
    · refine .ite .none ?_
      split
      · exact .none
      · split
        · exact .none
        next e2 =>
          have h2 : State.Inv _ := State.Inv.of_some_fst e2 (.home h1)
          exact .ite .none (.some (.mark (.passLine (.ite (.refillL1 (.updDie h2)) (.updDie h2)))))

theorem AllSome.prefLine {st : State} {gid c line cls : Nat} {rank : Option Nat} (h : st.Inv) :
    AllSome State.Inv (st.prefLine gid c line cls rank) := by
  unfold State.prefLine
  extract_lets _ _ st1 _
  have h1 : st1.Inv := h.meetL2
  split
  · exact .some h.hitL1
  · exact .ite .none (.map_all (fun _ => .passLine (.ite (.refillL1 h1.updDie) h1.updDie)))

theorem AllSome.syncLine {st : State} {gid c : Nat} {leaf : Word} {pa hs : Nat} {rec : Bool} (h : st.Inv) :
    AllSome State.Inv (st.syncLine gid c leaf pa hs rec) := by
  unfold State.syncLine
  refine .ite (.ite (.map (.l3Gate h) (fun _ ha => .ite ha ha.markShared)) .none) (.ite .none ?_)
  extract_lets st1
  have h1 : st1.Inv := .meetL2 (.ite h h.grantDie)
  split
  · exact .none
  · split
    · exact .none
    next e1 =>
      have h2 : State.Inv _ := State.Inv.of_some_fst e1 (.home h1)
      exact .ite .none (.some (.ite (.passLine (.updDie h2)) (.mark (.passLine (.updDie h2)))))

theorem AllSome.storeLine {st : State} {die cl unit c line cls : Nat} {by_ : Option Nat} {tracked host : Bool} {rank : Option Nat} {atomic : Bool}
    {f : Nat → Nat × Nat} (h : st.Inv) : AllSome (fun r => r.2.Inv) (st.storeLine die cl unit c line cls by_ tracked host rank atomic f) := by
  unfold State.storeLine
  extract_lets _ st1 _
  have h1 : st1.Inv := h.meetL2
  split
  · refine .ite (.ite (.map (.l3Gate h) (fun _ ha => ?_)) .none) ?_
    · extract_lets s done
      have h2 : s.Inv := .markU ha.write
      have h3 : done.Inv := h2
      split
      · exact .ite h3.markShared h3
      · exact h3
    · split
      · exact .none
      · refine .ite .none ?_
        split
        · exact .none
        next e2 =>
          extract_lets st3 _ st4
          have h2 : st3.Inv := .markU (.write (.of_some_fst e2 (.home h1)))
          have h3 : st4.Inv := h2.updDie
          split
          · exact .some h3.passLine
          · exact .ite (.some (.passLine (.writeL1 h3.updCore))) (.some (.passLine (.updCore h3.updCore)))

/-! Branches. -/

theorem Ans.Inv.abranch {st : State} {s : BitVec 1} {o : Word} {t : Group → Bool} (h : st.Inv) : Ans.Inv (abranch st s o t) :=
  .accessOp h

/-! Arithmetic on A registers (R144). -/

theorem Ans.Inv.aop {st : State} {s : BitVec 1} {d a b : BitVec 5} {f : Word → Word → Word} (h : st.Inv) : Ans.Inv (aop st s d a b f) :=
  .accessOp h

/-! Queues (R147, R148). -/

theorem Ans.Inv.apop {st : State} {s : BitVec 1} {d t : BitVec 5} {keep : Bool} (h : st.Inv) : Ans.Inv (apop st s d t keep) := by
  unfold Machine.apop
  refine .issueA h (fun _ _ h1 => ?_)
  split
  · exact .ite h1 h1
  · exact .ite h1 (.ite h1 h1.putGroup)

/-! State registers (R44). -/

theorem AllSome.sampleReg {st : State} {gid : Nat} {g : Group} {acc : Bool} {n : Nat} (h : st.Inv) :
    AllSome (fun r => r.1.Inv) (st.sampleReg gid g acc n) :=
  .ite (.cdc h) (.some h)

theorem Ans.Inv.execAgets {s : BitVec 1} {d : BitVec 5} {i : BitVec 14} {st : State} (h : st.Inv) : Ans.Inv (execAgets s d i st) := by
  unfold Machine.execAgets
  refine .issueA h (fun _ _ h1 => ?_)
  split
  · exact h1
  next e => exact .updGroup (.of_some_fst e (.sampleReg h1))

/-! Lines. -/

theorem State.Inv.checkLine {c : Nat} {who : Who} {esize : Nat} {n : Need} {wr : Bool} {k : Checked} {l : LineReq} (hk : k.st.Inv) :
    (checkLine c who esize n wr k l).st.Inv := by
  unfold Machine.checkLine
  split
  · split
    · exact hk
    · exact hk
  · split
    · exact hk
    next e => exact Acc.Inv.of_fault e (.access hk)
    next e => exact Acc.Inv.of_prot e (.access hk)
    next e =>
      have h : State.Inv _ := Acc.Inv.of_ok e (.access hk)
      extract_lets _ _ _
      split
      · exact h
      · exact h

theorem State.Inv.checkedWatch {k : Checked} {c : Nat} {rd wr : Bool} (hk : k.st.Inv) : (Checked.watch k c rd wr).st.Inv := by
  unfold Checked.watch
  split
  · exact hk
  · exact hk

theorem State.Inv.checkLines {st : State} {c : Nat} {who : Who} {esize : Nat} {n : Need} {rd wr : Bool} {ls : List LineReq} (h : st.Inv) :
    (st.checkLines c who esize n rd wr ls).st.Inv :=
  .checkedWatch (List.foldlRecOn (motive := fun k : Checked => k.st.Inv) ls _ h fun _ hk _ _ => .checkLine hk)

/-! Pages blocked at their home (R195). -/

theorem State.Inv.moveCome {st : State} {m : MoveWait} (h : st.Inv) : (st.moveCome m).Inv :=
  .ite h h

theorem State.Inv.moveGone {st : State} {m : MoveWait} (h : st.Inv) : (st.moveGone m).Inv :=
  .ite h h

/-! The spillway (R160 to R162). -/

theorem State.Inv.defer {st : State} {gid : Nat} {t : Trap} (h : st.Inv) : (st.defer gid t).Inv :=
  h.postTrap

theorem State.Inv.postTo {st : State} {w gi : Nat} {p : Pend} (h : st.Inv) : (st.postTo w gi p).Inv := by
  unfold State.postTo
  split
  · exact .ite h h.updWg
  · split
    · exact h.postTrap
    · exact h

theorem State.Inv.postAt {st : State} {gid w : Nat} {p : Pend} (h : st.Inv) : (st.postAt gid w p).Inv :=
  h.postTo

theorem State.Inv.deferAt {st : State} {gid w : Nat} {t : Trap} (h : st.Inv) : (st.deferAt gid w t).Inv :=
  h.postAt

theorem State.Inv.askPage {st : State} {c gid page : Nat} {t : Trap} (h : st.Inv) : (st.askPage c gid page t).st.Inv :=
  h.pageFault

theorem State.Inv.spillIn {st : State} {c gid : Nat} {a : Access} {l : LineReq} (h : st.Inv) : (st.spillIn c gid a l).1.Inv := by
  unfold State.spillIn
  extract_lets _ _
  split
  · exact h
  · exact h

theorem State.Inv.spillLine {st : State} {c gid : Nat} {a : Access} {l : LineReq} {t : Trap} (h : st.Inv) : (st.spillLine c gid a l t).1.Inv := by
  unfold State.spillLine
  extract_lets r
  have h1 : r.st.Inv := h.askPage
  split
  · exact h1.defer
  · exact h1.spillIn

theorem State.Inv.spillLines {st : State} {c gid : Nat} {a : Access} {ms : List (LineReq × Nat × Trap)} (h : st.Inv) :
    (st.spillLines c gid a ms).1.Inv := by
  unfold State.spillLines
  refine .foldl_fst h (fun _ a h1 => ?_)
  extract_lets _ r1
  have h2 : r1.1.Inv := h1.spillLine
  split
  · exact h1
  · exact h2

/-! Issue. -/

theorem State.Inv.flagOob {st : State} {gid : Nat} {oob : Bool} (h : st.Inv) : (st.flagOob gid oob).Inv :=
  .ite h.updGroup h

theorem State.Inv.joined {st : State} {gid : Nat} {a : Access} {pops : Group → Group} {wb : Bool} (h : st.Inv) : (st.joined gid a pops wb).Inv :=
  h.updGroup

theorem State.Inv.joinedSpilling {st : State} {gid c : Nat} {a : Access} {pops : Group → Group} {wb : Bool} {good : List LineReq}
    {ms : List (LineReq × Nat × Trap)} (h : st.Inv) : (st.joinedSpilling gid c a pops wb good ms).Inv := by
  unfold State.joinedSpilling
  split
  next e => exact .updGroup (.of_fst e (.spillLines h.joined))

theorem IEff.Inv.issueLines {st : State} {gid c : Nat} {a : Access} {pops : Group → Group} {wb : Bool} (h : st.Inv) :
    (st.issueLines gid c a pops wb).Inv := by
  unfold State.issueLines
  split
  · refine .ite h.checkLines (.ite (.joined h.checkLines) ?_)
    split
    · exact h.checkLines
    · split
      · exact .joined h.checkLines
      · exact .ite (.ite (.askPage h.checkLines) (.updGroup (.askPage h.checkLines))) (.joinedSpilling h.checkLines)

theorem IEff.Inv.issueMem {st : State} {gid : Nat} {g : Group} {a : Access} {pops : Group → Group} {wb oob : Bool} (h : st.Inv) :
    (st.issueMem gid g a pops wb oob).Inv := by
  unfold State.issueMem
  extract_lets c flag
  have hf : ∀ q : IEff, q.Inv → (flag q).Inv := by
    rintro (s | ⟨t, s⟩ | s) hq
    · exact State.Inv.flagOob hq
    · exact hq
    · exact hq
  clear_value flag
  split
  · exact hf _ (.issueLines h)
  · split
    · exact h
    · exact hf _ h.putGroup
    · exact hf _ h.putGroup

theorem IEff.Inv.through {st : State} {g : Group} {view : Trap ⊕ BitVec 1024} {after : BitVec 1024 → Option Trap} {parts : BitVec 1024 → List Part}
    {wr : Bool} {k : BitVec 1024 → List Hit → Bool → IEff} (h : st.Inv) (hk : ∀ v hits oob, (k v hits oob).Inv) :
    (st.through g view after parts wr k).Inv := by
  unfold State.through
  split
  · exact h
  · split
    · exact h
    · split
      · exact h
      · exact hk _ _ _

theorem IEff.Inv.viaView {st : State} {g : Group} {slot cb : Nat} {after : BitVec 1024 → Option Trap} {parts : BitVec 1024 → List Part} {wr : Bool}
    {k : BitVec 1024 → List Hit → Bool → IEff} (h : st.Inv) (hk : ∀ v hits oob, (k v hits oob).Inv) : (st.viaView g slot cb after parts wr k).Inv :=
  .through h hk

theorem IEff.Inv.tileLoad {st : State} {gid : Nat} {gr : Group} {m : Am} {q : Nat} {view : Trap ⊕ BitVec 1024} (h : st.Inv) :
    (st.tileLoad gid gr m q view).Inv :=
  .through h (fun _ _ _ => .ite h (.issueMem h))

theorem Ans.Inv.execPref {s : BitVec 1} {v a : BitVec 5} {d g : BitVec 3} {e : BitVec 1} {c : BitVec 2} {st : State} (h : st.Inv) :
    Ans.Inv (execPref s v a d g e c st) := by
  unfold Machine.execPref
  refine .issueA h (fun _ _ h1 => ?_)
  extract_lets _ _
  split
  · exact h1
  · exact .issueMem h1

theorem AllSome.emptyQ {g : Group} {l : List QEntry} {n : Nat} {st : State} (h : st.Inv) : AllSome IEff.Inv (emptyQ g l n st) :=
  .ite (.ite (.some h) (.some h)) (.ite (.some h) .none)

theorem Ans.Inv.execLdg {s : BitVec 1} {q : BitVec 3} {v a : BitVec 5} {d g : BitVec 3} {e : BitVec 1} {c : BitVec 2} {st : State} (h : st.Inv) :
    Ans.Inv (execLdg s q v a d g e c st) := by
  unfold Machine.execLdg
  refine .issueA h (fun _ _ h1 => ?_)
  extract_lets _ _ _ _
  split
  · exact h1
  · split
    next e2 => exact IEff.Inv.of_option e2 (.emptyQ h1)
    · split
      · exact h1
      · exact .ite h1 (.issueMem h1)

theorem Ans.Inv.execStt {s : BitVec 1} {v a : BitVec 5} {d g : BitVec 3} {e : BitVec 1} {c : BitVec 2} {st : State} (h : st.Inv) :
    Ans.Inv (execStt s v a d g e c st) := by
  unfold Machine.execStt
  refine .issueA h (fun _ _ h1 => ?_)
  extract_lets _ _ _
  split
  · exact h1
  · extract_lets _ _
    split
    · exact h1
    · split
      next e3 => exact IEff.Inv.of_option e3 (.emptyQ h1)
      · split
        · exact h1
        · exact .issueMem h1

theorem Ans.Inv.execStg {s : BitVec 1} {v a : BitVec 5} {d g : BitVec 3} {e : BitVec 1} {c : BitVec 2} {st : State} (h : st.Inv) :
    Ans.Inv (execStg s v a d g e c st) := by
  unfold Machine.execStg
  refine .issueA h (fun _ _ h1 => ?_)
  extract_lets _ _ _ _
  split
  · exact h1
  · extract_lets _
    split
    · exact h1
    · split
      next e3 => exact IEff.Inv.of_option e3 (.or (.emptyQ h1) (.emptyQ h1))
      · split
        · exact h1
        · exact .issueMem h1

/-! Atomics. -/

theorem AllSome.bufferAtoms {st : State} {w c : Nat} {es : List AtomEntry} (h : st.Inv) : AllSome State.Inv (st.bufferAtoms w c es) := by
  unfold State.bufferAtoms
  split
  · exact .some h
  · exact .ite .none (.some h.updWg)

theorem Ans.Inv.execAtom {s : BitVec 1} {q : BitVec 3} {v a : BitVec 5} {o c : BitVec 3} {p : BitVec 5} {st : State} (h : st.Inv) :
    Ans.Inv (execAtom s q v a o c p st) := by
  unfold Machine.execAtom
  refine .issueA h (fun _ _ h1 => .ite h1 ?_)
  split
  · exact h1
  · refine .ite h1 ?_
    split
    · exact h1
    · extract_lets _ _ _ _ _ _
      split
      next e3 => exact IEff.Inv.of_option e3 (.emptyQ h1)
      · split
        · exact h1
        · refine .ite ?_ (.ite h1 (.issueMem h1))
          split
          · exact h1
          next e5 => exact .flagOob (.updGroup (.of_some e5 (.bufferAtoms h1)))

theorem Ans.Inv.execAtoma {s : BitVec 1} {d a b : BitVec 5} {p : BitVec 4} {o : BitVec 2} {c : BitVec 3} {st : State} (h : st.Inv) :
    Ans.Inv (execAtoma s d a b p o c st) := by
  unfold Machine.execAtoma
  refine .issueA h (fun _ _ h1 => .viaView h1 (fun _ _ _ => .ite ?_ (.issueMem h1)))
  split
  · exact h1
  next e => exact .flagOob (.of_some e (.bufferAtoms h1))

/-! Defining views (R152 to R154). -/

theorem IEff.Inv.startVdef {st : State} {gid slot id : Nat} {l : LineReq} {pc : Word} (h : st.Inv) : (st.startVdef gid slot id l pc).Inv :=
  h.updGroup

theorem Ans.Inv.execVdefGlob {s : BitVec 1} {d a : BitVec 5} {st : State} (h : st.Inv) : Ans.Inv (execVdefGlob s d a st) := by
  unfold Machine.execVdefGlob
  refine .issueA h (fun _ _ h1 => .ite h1 (.ite h1 (.ite h1 ?_)))
  extract_lets _ _ k
  have h2 : k.st.Inv := h1.checkLines
  split
  · exact h2
  · split
    · exact .ite h2.askPage (.updGroup h2.askPage)
    · exact .startVdef h2
    · exact h2

theorem Ans.Inv.execVset {s : BitVec 1} {d a : BitVec 5} {f : BitVec 9} {st : State} (h : st.Inv) : Ans.Inv (execVset s d a f st) := by
  unfold Machine.execVset
  refine .issueA h (fun _ _ h1 => .ite h1 ?_)
  split
  · exact h1
  · exact .ite h1.updWg h1

/-! Barriers (R69, R70). -/

theorem State.Inv.barCheck {st : State} {w : Nat} (h : st.Inv) : (st.barCheck w).Inv := by
  unfold State.barCheck
  split
  · exact h
  · split
    · exact h
    · extract_lets st1
      have h1 : st1.Inv := h.updWg
      exact .ite (.ite h1 h1) h

theorem State.Inv.gbarCheck {st : State} {gk : Nat} (h : st.Inv) : (st.gbarCheck gk).Inv := by
  unfold State.gbarCheck
  split
  · exact h
  · extract_lets _ _ st1
    have h1 : st1.Inv := h.updGrid
    exact .ite h (.ite h1 h)

/-! Ends. -/

theorem State.Inv.resolve {st : State} {gid id : Nat} {b : Bool} (h : st.Inv) : (st.resolve gid id b).Inv :=
  .updCluster h.updGroup

theorem State.Inv.computeEnd {st : State} {gid : Nat} (h : st.Inv) : (st.computeEnd gid).Inv := by
  unfold State.computeEnd
  split
  · exact h
  · exact .updGroup (.foldl h (fun _ _ h1 => h1.resolve))

theorem State.Inv.soil {st : State} {bad : Bool} {a : Nat} (h : st.Inv) : (st.soil bad a).Inv :=
  .ite h.poison h

theorem State.Inv.applyEarly {st : State} {es : List AtomEntry} (h : st.Inv) : (st.applyEarly es).Inv :=
  .foldl h (fun _ _ h1 => .soil h1.writeAll)

theorem State.Inv.dropGrid {st : State} {gk : Nat} (h : st.Inv) : (st.dropGrid gk).Inv := by
  unfold State.dropGrid
  split
  · exact .ite h h
  · exact h

theorem State.Inv.gridEnd {st : State} {gk : Nat} (h : st.Inv) : (st.gridEnd gk).Inv := by
  unfold State.gridEnd
  split
  · exact h
  · refine .dropGrid ?_
    split
    · exact .updGrid h.trace
    · extract_lets st1 _
      have h1 : st1.Inv := .updWg (.updGrid h.trace)
      exact h1

/-- By induction on the fuel: a grid that ends may let the workgroup that launched it retire. -/
theorem State.Inv.retireWg {fuel : Nat} {st : State} {w : Nat} (h : st.Inv) : (st.retireWg fuel w).Inv := by
  induction fuel generalizing st w with
  | zero => exact h
  | succ n ih =>
    unfold State.retireWg
    split
    · exact h
    · split
      · extract_lets gk st1 late st2 st3 st4
        have h3 : st3.Inv := .updGrid (.of_mem h.applyEarly rfl)
        have h4 : st4.Inv := h3.gridEnd
        split
        · exact h3
        · split
          · split
            · exact ih h4
            · exact h4
          · exact h3
      · exact h

theorem State.Inv.leavePipe {st : State} {gid : Nat} (h : st.Inv) : (st.leavePipe gid).Inv :=
  .updCluster h

theorem State.Inv.settle {st : State} {gid : Nat} (h : st.Inv) : (st.settle gid).Inv := by
  unfold State.settle
  split
  · exact h
  · exact .ite (.retireWg h.leavePipe) h

theorem State.Inv.settleWg {st : State} {gid w : Nat} (h : st.Inv) : (st.settleWg gid w).Inv :=
  .retireWg h.settle

/-! Scopes (R182 to R184). -/

theorem State.Inv.published {st : State} {gid scope upto : Nat} (h : st.Inv) : (st.published gid scope upto).Inv :=
  .ite h h

theorem State.Inv.released {st : State} {gid scope upto : Nat} (h : st.Inv) : (st.released gid scope upto).Inv :=
  .raisePts h.published

/-! Bytes of a line. -/

theorem State.Inv.markScratch {st : State} {gid pa : Nat} (h : st.Inv) : (st.markScratch gid pa).Inv :=
  .ite h.markShared h

theorem AllSome.scratchAt {st : State} {c gid pa : Nat} (h : st.Inv) : AllSome State.Inv (st.scratchAt c gid pa) :=
  .ite (.scratch h) (.ite (.scratch h) (.scratch h))

theorem AllSome.dirtied {st : State} {c gid : Nat} {a : Access} {l : LineReq} (h : st.Inv) : AllSome State.Inv (st.dirtied c gid a l) :=
  .ite (.setDirty h) (.some h)

theorem State.Inv.taint {st old : State} {a : Access} {l : LineReq} (h : st.Inv) : (st.taint old a l).Inv :=
  .ite h (.foldl h (fun _ _ h1 => h1.soil))

theorem AllSome.serveLine {st : State} {gid : Nat} {g : Group} {a : Access} {l : LineReq} (h : st.Inv) :
    AllSome (fun r => r.1.Inv) (st.serveLine gid g a l) := by
  unfold State.serveLine
  extract_lets c n bad mark rank
  cases a.kind with
  | load | gather | lda | vdef =>
    refine .ite (.ite .none ?_) (.map (.scratchAt h) fun _ hs => hs.markScratch)
    split
    · exact .none
    next data s e =>
      have hs : s.Inv := .of_some_snd e (.loadLine h)
      split
      next s1 data1 e1 =>
        have hs1 : s1.Inv := .of_fst e1 (by split <;> [exact hs.value; exact hs])
        exact .some hs1
  | pref => exact .ite (.map (.prefLine h) fun _ hs => hs) (.some h)
  | store | scatter | sta =>
    exact .ite (.map (.storeLine h) fun _ hs => hs.taint) (.map (.scratchAt h) fun _ hs => .taint hs.write)
  | atom | atoma =>
    exact .ite (.map (.storeLine h) fun _ hs => hs.taint) (.map (.scratchAt h) fun _ hs => .markScratch (.taint hs.write))

theorem State.Inv.atomEcc {st : State} {gid w : Nat} {a : Access} (h : st.Inv) : (st.atomEcc gid w a).Inv :=
  .ite h.postAt h

theorem State.Inv.checkAccess {st : State} {gid : Nat} {g : Group} {a : Access} (h : st.Inv) : (st.checkAccess gid g a).Inv := by
  unfold State.checkAccess
  extract_lets _ _ _
  split
  · refine .ite h.checkLines (.ite (.updGroup h.checkLines) ?_)
    split
    · exact .defer (.updGroup h.checkLines)
    · split
      · exact .ite h (.updGroup h.checkLines)
      · refine .ite (.ite (.defer (.updGroup (.askPage h.checkLines))) (.askPage h.checkLines)) ?_
        split
        next e3 => exact .updGroup (.updGroup (.of_fst e3 (.spillLines h.checkLines)))

theorem State.Inv.atomDone {st : State} {gid : Nat} {a : Access} (h : st.Inv) : (st.atomDone gid a).Inv := by
  unfold State.atomDone
  split
  · exact h
  · exact .ite h.acquireFrom h

theorem State.Inv.performLine {st : State} {gid id va : Nat} {kinds : AKind → Bool} (h : st.Inv) : (st.performLine gid id va kinds).Inv := by
  unfold State.performLine
  split
  · exact h
  split
  · exact h
  extract_lets off c back st1
  have hb : ∀ s : State, s.Inv → (back s).Inv := fun _ hs => .ite hs.logOff hs
  have h1 : st1.Inv := .ite h.logOff h
  clear_value back st1
  refine .ite (hb _ h1) (.ite (hb _ (.ite h1.checkAccess h1)) ?_)
  split
  · exact hb _ h1
  refine .ite ?_ (.ite (.moveCome (hb _ h1)) (hb _ h1))
  split
  · exact hb _ h1
  next s e =>
    have hs : s.Inv := .of_some e (.dirtied h1)
    split
    · exact hb _ hs
    next t a' e =>
      have ht : (back t).Inv := hb _ (.of_some_fst e (.serveLine (.ite hs.released hs)))
      exact .settle (.moveGone (.ite (.atomEcc (.atomDone ht.updGroup)) ht.updGroup))

theorem State.Inv.arrive {st : State} {gid : Nat} {a : Access} (h : st.Inv) : (st.arrive gid a).Inv := by
  unfold State.arrive
  extract_lets _ _ _ st1 st2 _ _ st3
  have h1 : st1.Inv := h.updGroup
  have h2 : st2.Inv := .ite h1.acquireFrom h1
  have h3 : st3.Inv := h2.updGroup
  split
  · exact .ite h3 (.ite (.retireA h3.updWg) h3.takeTrap)
  · exact h2.settle

theorem Ans.Inv.execLoadDataArrival {gid id : Nat} {st : State} (h : st.Inv) : Ans.Inv (execLoadDataArrival gid id st) := by
  unfold Machine.execLoadDataArrival
  change State.Inv _
  split
  · exact h
  · split
    · exact h
    · exact .ite h.arrive h

/-! The spillway. -/

theorem State.Inv.refill {st : State} {q : Nat} (h : st.Inv) : (st.refill q).Inv := by
  unfold State.refill
  refine .foldl h (fun _ a h1 => .updGroup (.foldl h1 (fun _ a h2 => .foldl h2 (fun _ a h3 => .ite (.updGroup ?_) h3))))
  split
  next e => exact .spillLine (Acc.Inv.of_fault e (.access h3))
  next e => exact .spillIn (Acc.Inv.of_ok e (.access h3))
  next e => exact .spillIn (Acc.Inv.of_prot e (.access h3))
  · exact h3

theorem State.Inv.discardSpills {st : State} {which : Spill → Bool} {cause : Cause} {detail : Nat} (h : st.Inv) :
    (st.discardSpills which cause detail).Inv :=
  .foldl (.foldl h (fun _ _ h1 => .settle h1.defer)) (fun _ _ h1 => h1.refill)

theorem State.Inv.discardSpill {st : State} {c page : Nat} {cause : Cause} {detail : Nat} (h : st.Inv) : (st.discardSpill c page cause detail).Inv :=
  h.discardSpills

theorem State.Inv.refuseSpill {st : State} {e : Spill} {t : Trap} (h : st.Inv) : (st.refuseSpill e t).Inv :=
  .ite h.discardSpills h.discardSpill

theorem Ans.Inv.execSpillwayPerform {q i : Nat} {st : State} (h : st.Inv) : Ans.Inv (execSpillwayPerform q i st) := by
  unfold Machine.execSpillwayPerform
  change State.Inv _
  split
  · exact h
  · refine .ite h ?_
    split
    · extract_lets k _ _
      have h1 : k.st.Inv := h.checkLines
      split
      · exact h1.refuseSpill
      · refine .ite h1.moveCome ?_
        split
        · exact h
        next e5 =>
          have h2 : State.Inv _ := State.Inv.of_some e5 (.ite (.dirtied h1) .none)
          split
          · exact h2
          next e6 => exact .settle (.refill (.moveGone (.atomEcc (.atomDone (.of_mem (.of_some_fst e6 (.serveLine (.ite (.released h2) h2))) rfl)))))
      · exact h1

/-! Fences (R167, R168, R190, R202). -/

theorem Ans.Inv.execFenceComplete {gid : Nat} {st : State} (h : st.Inv) : Ans.Inv (execFenceComplete gid st) := by
  unfold Machine.execFenceComplete
  change State.Inv _
  split
  · exact h
  · split
    · exact .ite h (.updGroup (.ite (.acquire (.ite h.released h)) (.ite h.released h)))
    · exact h

theorem Ans.Inv.execScTicketGrant {gid id : Nat} {st : State} (h : st.Inv) : Ans.Inv (execScTicketGrant gid id st) := by
  unfold Machine.execScTicketGrant
  split
  · exact h
  extract_lets give q mine
  have hg : ∀ k : State → State, (∀ s, s.Inv → (k s).Inv) → (give k).Inv := by
    intro k hk
    dsimp only [give]
    split
    · exact h
    next s _ e => exact hk _ (.raisePts (.raisePts (.of_some_fst e (.seqTicket h))))
  clear_value give
  split
  · exact State.Inv.ite (hg _ fun _ hs => .updGroup hs.released) h
  · split
    next a _ =>
      refine State.Inv.ite (hg _ fun s hs => ?_) h
      extract_lets s1
      have h1 : s1.Inv := .updGroup (.bindSeen hs.released)
      exact h1
    · exact h

theorem Ans.Inv.execXfenceComplete {gid : Nat} {st : State} (h : st.Inv) : Ans.Inv (execXfenceComplete gid st) := by
  unfold Machine.execXfenceComplete
  change State.Inv _
  split
  · exact h
  · split
    · exact .ite (.updGroup (.ite (.raisePts (.ite h.published h)) (.ite h.published h))) h
    · exact h

/-! Control. -/

theorem State.Inv.goto {st : State} {pc : Word} (h : st.Inv) : (st.goto pc).Inv :=
  h.updGroup

theorem State.Inv.waitAs {st : State} {w : SWait} (h : st.Inv) : (st.waitAs w).Inv :=
  h.updGroup

theorem IEff.Inv.branch {st : State} {pc : Word} {t : Bool} {o : Word} (h : st.Inv) : (st.branch pc t o).Inv := by
  unfold State.branch
  split
  · exact h
  · exact h.goto

theorem IEff.Inv.notInHandler {st : State} {k : IEff} (h : st.Inv) (hk : k.Inv) : (notInHandler st k).Inv :=
  .ite h hk

/-! Branches, jumps and calls (R94 to R97). -/

theorem Ans.Inv.execBrd {s : BitVec 1} {p : BitVec 3} {n : BitVec 1} {o : BitVec 20} {st : State} (h : st.Inv) : Ans.Inv (execBrd s p n o st) := by
  refine .issueC h fun _ _ _ ht => .notInHandler ht ?_
  extract_lets row tk target
  clear_value tk
  refine .ite (.branch ht) ?_
  split
  · exact ht
  · split
    · exact ht.putGroup
    · exact ht

theorem Ans.Inv.execJmpi {s : BitVec 1} {a : BitVec 6} {st : State} (h : st.Inv) : Ans.Inv (execJmpi s a st) := by
  unfold Machine.execJmpi
  refine .issueC h (fun _ _ _ h1 => .ite ?_ (.notInHandler h1 (.ite h1 ?_)))
  · split
    · exact h1
    · exact h1.goto
  · split
    · exact h1
    · split
      · exact h1.putGroup
      · exact h1

theorem Ans.Inv.execCall {s : BitVec 1} {o : BitVec 24} {st : State} (h : st.Inv) : Ans.Inv (execCall s o st) := by
  unfold Machine.execCall
  refine .issueC h (fun _ _ _ h1 => ?_)
  split
  · exact h1
  · exact .goto h1.putGroup

theorem Ans.Inv.execRet {s : BitVec 1} {st : State} (h : st.Inv) : Ans.Inv (execRet s st) := by
  unfold Machine.execRet
  refine .issueC h (fun _ _ _ h1 => ?_)
  split
  · split
    · exact h1
    · exact h1.goto
  · exact h1

/-! Barriers. -/

theorem State.Inv.breakBar {st : State} {w : Nat} (h : st.Inv) : (st.breakBar w).Inv := by
  refine .foldl h fun s e hs => ?_
  extract_lets here s1
  have h1 : s1.Inv := .foldl hs fun _ _ ht => ht.waiterTrap
  exact .ite h1.waiterTrap h1

theorem Ans.Inv.execBar {s : BitVec 1} {a : BitVec 6} {st : State} (h : st.Inv) : Ans.Inv (execBar s a st) := by
  unfold Machine.execBar
  refine .issueC h (fun _ _ _ h1 => .ite h1 ?_)
  extract_lets _
  split
  · exact .barCheck (.waitAs h1.updWg)
  · exact .ite (.barCheck h1.updWg) (.ite (.barCheck (.waitAs h1.updWg)) (.barCheck (.breakBar h1.updWg)))

theorem Ans.Inv.execSyncs {s : BitVec 1} {a : BitVec 6} {st : State} (h : st.Inv) : Ans.Inv (execSyncs s a st) := by
  unfold Machine.execSyncs
  refine .issueC h (fun _ _ _ h1 => .ite h1 ?_)
  split
  · exact .updGroup h1.waitAs
  · exact .ite h1.updGroup (.ite (.updGroup h1.waitAs) h1.updGroup)

theorem State.Inv.brokenWait {st : State} {detail : Nat} (h : st.Inv) : (st.brokenWait detail).Inv :=
  .ite h.takeTrap h.postTrap

/-! Waits. -/

theorem Ans.Inv.execWaitc {s : BitVec 1} {a b : BitVec 6} {st : State} (h : st.Inv) : Ans.Inv (execWaitc s a b st) := by
  unfold Machine.execWaitc
  refine .issueC h (fun _ _ _ h1 => ?_)
  split
  · exact h1
  · exact .ite h1.goto h1.waitAs

theorem Acc.Inv.syncRead {st : State} {gid : Nat} {g : Group} {va n : Nat} {watch : Bool} (h : st.Inv) : (st.syncRead gid g va n watch).Inv := by
  unfold State.syncRead
  split
  next e =>
    have h1 : State.Inv _ := Acc.Inv.of_ok e (.accessNow h)
    split
    · exact h1
    · exact h1
  · exact .accessNow h

theorem IEff.Inv.pageHold {st : State} {gid : Nat} {g : Group} {page : Nat} {t : Trap} (h : st.Inv) : (st.pageHold gid g page t).Inv :=
  .ite h.pageFault (.waitAs h.pageFault)

theorem Ans.Inv.execWaitm {s : BitVec 1} {a b : BitVec 6} {st : State} (h : st.Inv) : Ans.Inv (execWaitm s a b st) := by
  unfold Machine.execWaitm
  refine .issueC h (fun _ _ _ h1 => .ite h1 (.ite h1 ?_))
  split
  · exact h1
  next e => exact Acc.Inv.of_prot e (.syncRead h1)
  next e => exact .pageHold (Acc.Inv.of_fault e (.syncRead h1))
  next e =>
    have h2 : State.Inv _ := Acc.Inv.of_ok e (.syncRead h1)
    split
    · exact h2
    next e1 =>
      have h3 : State.Inv _ := State.Inv.of_some e1 (.syncLine h2)
      extract_lets _
      split
      · exact .waitAs h3
      · exact .goto h3

/-! LAUNCH. -/

/-- By induction on the number of lines: each is read, checked and, where it is tracked, logged. -/
theorem Acc.Inv.readLines {st : State} {c : Nat} {who : Who} {va n : Nat} (h : st.Inv) : (st.readLines c who va n).1.Inv := by
  induction n generalizing st va with
  | zero => exact h
  | succ k ih =>
    unfold State.readLines
    have ha : (st.accessNow c who va .r 0 false).Inv := .accessNow h
    split
    next s1 e =>
      have h1 : s1.Inv := Acc.Inv.of_ok e ha
      split
      · exact trivial
      next s2 e2 =>
        have h2 : s2.Inv := by
          refine .of_some e2 ?_
          split
          · exact .syncLine h1
          · exact .some h1
        extract_lets raw
        split
        next s3 _ e3 =>
          have h3 : s3.Inv := by
            refine .of_fst e3 ?_
            split
            · split
              · exact h2.value
              · exact h2
            · exact h2
          have hr := ih (va := va + 128) h3
          split
          next e4 => exact Acc.Inv.of_fst e4 hr
          · exact hr
    · exact ha

/-- A launch is read in three parts, the descriptor, its parameters and its views, each by `readLines`. -/
theorem LaunchRead.Inv.readLaunch {st : State} {c : Nat} {who : Who} {va : Nat} {gateOk : List (Word × Nat) → Bool} (h : st.Inv) :
    (st.readLaunch c who va gateOk).Inv := by
  have more : ∀ (s : State) (b : Prop) [Decidable b] (va n : Nat), s.Inv → (if b then (Acc.ok 0 0 s, 0) else s.readLines c who va n).1.Inv := by
    intro s b _ va n hs
    split
    · exact hs
    · exact .readLines hs
  have hr : (st.readLines c who va 1).1.Inv := .readLines h
  unfold State.readLaunch
  split
  · exact trivial
  next e => exact Acc.Inv.of_fst e hr
  next e => exact Acc.Inv.of_fst e hr
  next s1 raw e =>
    have h1 : s1.Inv := Acc.Inv.of_fst e hr
    extract_lets gs r d params views p
    have hp : p.1.Inv := more _ _ _ _ h1
    clear_value p
    split
    · exact h1
    · split
      · exact trivial
      · exact hp
      · exact hp
      next s2 pv =>
        have hv := more s2 (views = 0) views 32 hp
        split
        · exact trivial
        next e => exact Acc.Inv.of_fst e hv
        next e => exact Acc.Inv.of_fst e hv
        next e => exact Acc.Inv.of_fst e hv

theorem State.Inv.request {st : State} {r : LaunchReq} (h : st.Inv) : (st.request r).Inv :=
  .waitAs h

theorem Ans.Inv.execLaunch {s : BitVec 1} {d a b : BitVec 6} {st : State} (h : st.Inv) : Ans.Inv (execLaunch s d a b st) := by
  unfold Machine.execLaunch
  refine .issueC h (fun _ _ _ h1 => .ite h1 (.ite h1 (.ite h1 (.ite (.ite h1.request h1) (.ite (.ite h1.request h1) ?_)))))
  extract_lets _
  split
  · exact h1
  next e =>
    have h2 : State.Inv _ := LaunchRead.Inv.of_prot e (.readLaunch h1)
    exact .ite (.request h2) h2
  next e =>
    have h3 : State.Inv _ := LaunchRead.Inv.of_fault e (.readLaunch h1)
    exact .ite (.ite (.request (.pageFault h3)) (.waitAs (.of_mem (.pageFault h3) rfl))) (.pageHold h3)
  next e =>
    have h4 : State.Inv _ := LaunchRead.Inv.of_ok e (.readLaunch h1)
    refine .ite (.request (.acquire h4)) ?_
    split
    · exact h4
    next e1 => exact Acc.Inv.of_fst e1 (.readLines (.acquire h4))
    next e1 => exact .pageHold (Acc.Inv.of_fst e1 (.readLines (.acquire h4)))
    next e2 => exact .request (Acc.Inv.of_fst e2 (.readLines (.acquire h4)))

/-! Exit, traps and state access. -/

theorem Ans.Inv.execTret {s : BitVec 1} {st : State} (h : st.Inv) : Ans.Inv (execTret s st) := by
  unfold Machine.execTret
  refine .issueC h (fun _ _ _ h1 => .ite h1 (.ite h1 ?_))
  split
  · exact h1.takeTrap
  · exact .settle h1.putGroup

theorem Ans.Inv.execGets {s : BitVec 1} {d : BitVec 6} {i : BitVec 12} {st : State} (h : st.Inv) : Ans.Inv (execGets s d i st) := by
  unfold Machine.execGets
  refine .issueC h (fun _ _ _ h1 => ?_)
  split
  · exact h1
  next e => exact .updGroup (.of_some_fst e (.sampleReg h1))

theorem State.Inv.readBins {st : State} {c : Nat} {who : Who} (h : st.Inv) : (st.readBins c who).1.Inv := by
  unfold State.readBins
  split
  next e => exact Acc.Inv.of_ok e (.accessNow h)
  next e => exact Acc.Inv.of_fault e (.accessNow h)
  next e => exact Acc.Inv.of_prot e (.accessNow h)
  · exact h

theorem State.Inv.takeBins {st : State} {c gid : Nat} {b : List (Nat × Nat)} (h : st.Inv) : (st.takeBins c gid b).Inv :=
  .foldl (.raisePts h.updCtx) (fun _ _ h1 => h1.raisePts)

theorem State.Inv.censusCtl {st : State} {c gid v : Nat} (h : st.Inv) : (st.censusCtl c gid v).Inv :=
  .updCtx (.ite (.of_mem (.ite (.takeBins h.readBins) h) rfl) (.ite (.takeBins h.readBins) h))

theorem Ans.Inv.execPuts {s : BitVec 1} {a : BitVec 6} {i : BitVec 12} {st : State} (h : st.Inv) : Ans.Inv (execPuts s a i st) := by
  unfold Machine.execPuts
  refine .issueC h (fun _ _ _ h1 => .ite h1 ?_)
  extract_lets _ st1
  have h2 : st1.Inv := h1.censusCtl
  split
  · exact .goto h1.updGroup
  · exact .goto h1.updGroup
  · exact .goto h1.updGroup
  · exact .goto h1.updGroup
  · exact .goto h1.updGroup
  · exact .ite h2.waitAs h2.goto

theorem Ans.Inv.clockRead {s : BitVec 1} {d : BitVec 6} {src : Nat} {v : State → Nat} {st : State} (h : st.Inv) :
    Ans.Inv (clockRead s d src v st) := by
  unfold Machine.clockRead
  refine .issueC h (fun _ _ _ h1 => ?_)
  split
  · exact h1
  next e => exact .updGroup (.of_some_fst e (.cdc h1))

theorem Ans.Inv.execGset {s : BitVec 1} {d a b f : BitVec 6} {st : State} (h : st.Inv) : Ans.Inv (execGset s d a b f st) := by
  unfold Machine.execGset
  refine .issueC h (fun _ _ _ h1 => ?_)
  extract_lets _ _ _
  split
  · exact .resolve h1.updGroup
  · exact .ite (.ite h1 h1) h1.updGroup

/-! Counters. -/

theorem State.Inv.addCounter {st : State} {a n : Nat} (h : st.Inv) : (st.addCounter a n).Inv :=
  h.writeAll

theorem Ans.Inv.counterOp {st : State} {m : BitVec 1} {sp : AccSpec} {a : BitVec 5} {f : State → Group → Nat → IEff} (h : st.Inv)
    (hf : ∀ (t : State) g a, t.Inv → (f t g a).Inv) : Ans.Inv (counterOp st m sp a f) := by
  unfold Machine.counterOp
  refine .issueA h (fun _ _ h1 => ?_)
  split
  · exact h1
  · exact hf _ _ _ h1

theorem Ans.Inv.counterGet {st : State} {m : BitVec 1} {d a : BitVec 5} {off src : Nat} (h : st.Inv) : Ans.Inv (counterGet st m d a off src) := by
  unfold Machine.counterGet
  refine .counterOp h (fun _ _ _ h1 => ?_)
  split
  · exact h1
  next e => exact .updGroup (.of_some_fst e (.cdc h1))

theorem Ans.Inv.awaitCounter {st : State} {m : BitVec 1} {a : BitVec 5} {useT : Bool} {target : Group → Nat} (h : st.Inv) :
    Ans.Inv (awaitCounter st m a useT target) :=
  .counterOp h (fun _ _ _ h1 => h1.updGroup)

/-! Commands of the engines: reading and checking (R169, R170, R225, R226). -/

theorem IEff.Inv.queueCmd {st : State} {g : Group} {guard : Option Nat} {oob : Bool} {cmd : EngCmd} {put : EngCmd → Cluster → Cluster} (h : st.Inv) :
    (st.queueCmd g guard oob cmd put).Inv := by
  unfold State.queueCmd
  extract_lets _ _ _
  split
  · exact .flagOob (.updCluster h.putGroup)
  · split
    · exact h
    · exact .flagOob h.putGroup
    · exact .flagOob (.updCluster h.putGroup)

/-! CPY and HAND. -/

theorem IEff.Inv.copyIssue {st : State} {g : Group} {hand : Bool} {db ctr : Nat} {guard : Option Nat} (h : st.Inv) :
    (copyIssue st g hand db ctr guard).Inv := by
  unfold Machine.copyIssue
  split
  · exact h
  · exact .queueCmd h

/-! The copy engine. -/

theorem AllSome.scratchEng {st : State} {c gid unit pa : Nat} {handed : Bool} (h : st.Inv) : AllSome State.Inv (st.scratchEng c gid unit pa handed) :=
  .ite (.scratch h) (.ite (.scratch h) (.ite (.scratch h) (.scratch h)))

theorem AllSome.engineRead {st : State} {die cl unit c line cls : Nat} {tracked host : Bool} (h : st.Inv) :
    AllSome (fun r => r.2.Inv) (st.engineRead die cl unit c line cls tracked host) := by
  unfold State.engineRead
  refine .ite (.ite (.map (.l3Gate h) (fun _ ha => ha)) .none) (.ite .none ?_)
  extract_lets st1
  have h1 : st1.Inv := h.meetL2
  split
  · exact .none
  · split
    · exact .none
    next e1 => exact .ite .none (.some (.passLine (.updDie (.of_some_fst e1 (.home h1)))))

theorem AllSome.engWaits {st : State} {e : EngCmd} {va pa : Nat} (h : st.Inv) : AllSome State.Inv (st.engWaits e va pa) :=
  .ite (.some h.moveCome) (.ite (.some h) .none)

theorem State.Inv.putCmd {st : State} {e : EngCmd} (h : st.Inv) : (st.putCmd e).Inv :=
  h.updCluster

theorem State.Inv.dropCmd {st : State} {e : EngCmd} (h : st.Inv) : (st.dropCmd e).Inv :=
  h.updCluster

theorem EngEnd.Inv.snapLine {st : State} {e : EngCmd} {path unit line low : Nat} (h : st.Inv) : (st.snapLine e path unit line low).1.Inv := by
  unfold State.snapLine
  split
  · exact h
  · extract_lets _
    split
    · split
      · exact h
      next e3 => exact Acc.Inv.of_fault e3 (.access h)
      next e3 => exact Acc.Inv.of_prot e3 (.access h)
      next e3 =>
        have h1 : State.Inv _ := Acc.Inv.of_ok e3 (.access h)
        extract_lets _
        split
        next e4 => exact State.Inv.of_some e4 (.engWaits h1)
        · split
          · exact h1
          · split
            · exact h1
            next e6 => exact .moveGone (.of_some_snd e6 (.engineRead h1))
    · split
      · exact h
      next e3 => exact State.Inv.of_some e3 (.scratchEng h)

theorem EngEnd.Inv.snapLines {st : State} {e : EngCmd} {path unit : Nat} {ls : List (Nat × Nat)} (h : st.Inv) :
    (st.snapLines e path unit ls).1.Inv := by
  induction ls generalizing st e with
  | nil => exact h
  | cons l r ih =>
    unfold State.snapLines
    have hl : (st.snapLine e path unit l.1 l.2).1.Inv := .snapLine h
    split
    next e1 => exact ih (EngEnd.Inv.of_fst e1 hl)
    · exact hl

theorem EngEnd.Inv.copyWrite {st : State} {e : EngCmd} {line : Nat} {es : List (Option Nat × Nat)} (h : st.Inv) : (st.copyWrite e line es).Inv := by
  unfold State.copyWrite
  extract_lets _ _ _ _
  split
  · split
    · split
      · exact h
      next e3 => exact Acc.Inv.of_fault e3 (.access h)
      next e3 => exact Acc.Inv.of_prot e3 (.access h)
      next e3 =>
        have h2 : State.Inv _ := Acc.Inv.of_ok e3 (.access h)
        extract_lets _ _ _
        split
        next e4 => exact State.Inv.of_some e4 (.engWaits h2)
        · split
          · exact .defer h2
          · split
            · exact h2
            next e6 =>
              have h3 : State.Inv _ := State.Inv.of_some e6 (.setDirty h2)
              split
              · split
                · exact h3
                · exact h3
              next e7 => exact .moveGone (.foldl (.of_some_snd e7 (.storeLine h3)) (fun _ _ h1 => .ite h1.poison h1))
    · split
      · exact h
      next e3 =>
        have h4 : State.Inv _ := State.Inv.of_some e3 (.scratchEng h)
        split
        · exact h4
        · split
          · exact .defer h4
          · exact .foldl (.write h4) (fun _ _ h1 => .ite h1.poison h1)

theorem State.Inv.payOwed {st : State} {cl : Nat} (h : st.Inv) : (st.payOwed cl).Inv := by
  unfold State.payOwed
  refine .updCluster (.foldl_fst h (fun _ _ h1 => ?_))
  split
  · split
    · exact h1.addCounter
    · exact h1
  · exact h1

theorem State.Inv.failCmd {st : State} {e : EngCmd} {t : Trap} (h : st.Inv) : (st.failCmd e t).Inv :=
  .settleWg (.defer (.payOwed h.dropCmd))

theorem AllSome.startCmd {st : State} {e : EngCmd} {fabric : Bool} (h : st.Inv) : AllSome (fun r => r.1.Inv) (st.startCmd e fabric) :=
  .ite (.some h) (.map (.sched h) (fun _ ha => ha))

theorem State.Inv.endLine {st0 : State} {e : EngCmd} {r : EngEnd} {k : State → EngCmd → State} (hst0 : st0.Inv) (hr : r.Inv)
    (hk : ∀ (t : State) e, t.Inv → (k t e).Inv) : (st0.endLine e r k).Inv := by
  unfold State.endLine
  split
  · exact hk _ _ hr
  · exact hst0
  · exact .putCmd hr
  · exact .failCmd hr
  · exact .ite (.failCmd (.askPage hr)) (.putCmd (.askPage hr))

theorem State.Inv.endCopy {st : State} {gid : Nat} {e : EngCmd} (h : st.Inv) : (st.endCopy gid e).Inv :=
  .settleWg (.payOwed h.putCmd)

theorem State.Inv.copied {st : State} {gid : Nat} {e : EngCmd} {line n : Nat} {last : Bool} (h : st.Inv) : (st.copied gid e line n last).Inv :=
  .ite h.endCopy (.payOwed h.putCmd)

theorem Ans.Inv.execCopyLine {gid id line : Nat} {rd : Bool} {st : State} (h : st.Inv) : Ans.Inv (execCopyLine gid id line rd st) := by
  unfold Machine.execCopyLine
  extract_lets _
  change State.Inv _
  split
  · exact h
  · refine .ite h ?_
    split
    · exact h
    next e3 =>
      have h2 : State.Inv _ := State.Inv.of_some_fst e3 (.startCmd h)
      refine .ite (h.endLine (.snapLines h2) (fun _ _ h1 => h1.putCmd)) (.ite (.endCopy h2) (.ite ?_ h))
      extract_lets _
      split
      next e4 => exact h.endLine (.copyWrite (EngEnd.Inv.of_fst e4 (.snapLines h2))) (fun _ _ h1 => h1.copied)
      next e6 => exact h.endLine (.of_fst e6 (.snapLines h2)) (fun _ _ h1 => h1.putCmd)

/-! Handles and windows (R301 to R304). -/

theorem Ans.Inv.execTbind {s : BitVec 1} {t : BitVec 3} {r : BitVec 4} {st : State} (h : st.Inv) : Ans.Inv (execTbind s t r st) := by
  unfold Machine.execTbind
  refine .issueC h (fun _ _ _ h1 => ?_)
  extract_lets _
  split
  · exact h1
  · exact h1.putGroup

/-! Posting entries (R87). -/

theorem AllSome.post {st : State} {me : Nat × Nat × Word} {es : List (Nat × ResEntry)} (h : st.Inv) : AllSome State.Inv (st.post me es) := by
  induction es generalizing st with
  | nil => exact .some h
  | cons p r ih =>
    unfold State.post
    split
    · exact .none
    · exact .ite (ih h.updCluster) .none

theorem State.Inv.postWaits {st : State} {me : Nat × Nat × Word} {cls : List Nat} {on : Bool} (h : st.Inv) : (st.postWaits me cls on).Inv :=
  .foldl h (fun _ _ h1 => h1.updCluster)

theorem State.Inv.posted {st : State} {f : Group → Group} {oob : Bool} (h : st.Inv) : (st.posted f oob).Inv :=
  h.updGroup

theorem AllSome.postHere {st : State} {es : List (Nat × ResEntry)} (h : st.Inv) : AllSome State.Inv (st.postHere es) :=
  .map (.post h) (fun _ ha => ha.postWaits)

theorem IEff.Inv.postAll {st : State} {es : List (Nat × ResEntry)} {f : Group → Group} {oob : Bool} (h : st.Inv) : (postAll st es f oob).Inv := by
  unfold Machine.postAll
  split
  · exact h.postWaits
  next e => exact .posted (.of_some e (.postHere h))

theorem IEff.Inv.withTile {st : State} {g : Group} {t : Nat} {k : Tile → IEff} (h : st.Inv) (hk : ∀ x, (k x).Inv) : (withTile st g t k).Inv := by
  unfold Machine.withTile
  split
  · exact hk _
  · exact h

theorem IEff.Inv.withWindow {st : State} {tl : Tile} {w : Nat} {k : CellRef → IEff} (h : st.Inv) (hk : ∀ x, (k x).Inv) :
    (withWindow st tl w k).Inv := by
  unfold Machine.withWindow
  split
  · exact h
  · exact hk _

/-! The multiplies (R305 to R312). -/

theorem IEff.Inv.mulIssue {st : State} {g : Group} {sp : Split} {t k : Nat} {a : BitVec 6} {breg : Option (BitVec 6)} {slot : Option Nat} {nk : Word}
    {win : Nat} {blk : FormatBlock} {types : Bool → Bool} (h : st.Inv) : (mulIssue st g sp t k a breg slot nk win blk types).Inv := by
  unfold Machine.mulIssue
  refine .withTile h (fun _ => .withWindow h (fun _ => ?_))
  split
  · exact h
  · split
    · exact h
    · exact .ite h (.postAll h)

/-! Slices and moves (R314, R315). -/

theorem Ans.Inv.trdIssue {st : State} {s : BitVec 1} {t : BitVec 3} {r : BitVec 4} {i : BitVec 8} {v : BitVec 6} {col : Bool} (h : st.Inv) :
    Ans.Inv (trdIssue st s t r i v col) := by
  unfold Machine.trdIssue
  refine .issueC h (fun _ _ _ h1 => .withTile h1 (fun _ => ?_))
  split
  · exact h1
  · exact .postAll h1

theorem Ans.Inv.twrIssue {st : State} {s : BitVec 1} {t : BitVec 3} {r : BitVec 4} {i : BitVec 8} {v : BitVec 6} {col : Bool} (h : st.Inv) :
    Ans.Inv (twrIssue st s t r i v col) := by
  unfold Machine.twrIssue
  refine .issueC h (fun _ _ _ h1 => .withTile h1 (fun _ => ?_))
  split
  · exact h1
  · exact .postAll h1

theorem Ans.Inv.tmoveIssue {st : State} {s : BitVec 1} {t : BitVec 3} {r : BitVec 4} {u : BitVec 3} {add : Bool} (h : st.Inv) :
    Ans.Inv (tmoveIssue st s t r u add) :=
  .issueC h (fun _ _ _ h1 => .withTile h1 (fun _ => .withTile h1 (fun _ => .withWindow h1
    (fun _ => .withWindow h1 (fun _ => .ite h1 (.postAll h1))))))

theorem Ans.Inv.twaitIssue {st : State} {s : BitVec 1} {tile : Option Nat} (h : st.Inv) : Ans.Inv (twaitIssue st s tile) :=
  .issueC h (fun _ _ _ h1 => .ite h1.waitAs (.goto h1.waitAs))

/-! Performing an entry. -/

theorem State.Inv.writeCells {st : State} {cs : List (Nat × Nat)} (h : st.Inv) : (st.writeCells cs).Inv :=
  .foldl h (fun _ _ h1 => .ite (.poison h1.writeAll) h1.writeAll)

theorem State.Inv.performEntry {st : State} {e : ResEntry} (h : st.Inv) : (st.performEntry e).1.Inv := by
  unfold State.performEntry
  extract_lets _ _ _ _ _ _ _ _ _
  split
  · exact h.writeCells
  · exact h.writeCells
  · exact h.writeCells
  · exact h.updGroup
  · exact h.writeCells
  · exact h.writeCells

/-! The arbiter (R87, R317). -/

theorem Ans.Inv.execMatrixGrant {cl slot : Nat} {st : State} (h : st.Inv) : Ans.Inv (execMatrixGrant cl slot st) := by
  unfold Machine.execMatrixGrant
  extract_lets _
  change State.Inv _
  split
  · exact h
  · refine .ite h (.ite h ?_)
    split
    · exact h
    next e2 => exact .updCluster (.of_some e2 (.sched h))

theorem AllSome.passReads {st : State} {e : ResEntry} {ls : List Nat} (h : st.Inv) : AllSome (fun r => r.1.Inv) (st.passReads e ls) :=
  .foldl (.some h) (fun _ _ ho => .bind ho (fun _ ha => .ite (.some ha) (.map (.scratch ha) (fun _ ha1 => ha1))))

theorem State.Inv.completePass {st : State} {cl : Nat} {e : ResEntry} (h : st.Inv) : (st.completePass cl e).Inv := by
  unfold State.completePass
  split
  · exact h
  next e2 =>
    have h1 : State.Inv _ := State.Inv.of_some_fst e2 (.passReads h)
    split
    next e3 =>
      have h2 : State.Inv _ := State.Inv.of_fst e3 (.performEntry h1)
      exact .settleWg (.ite (.updCluster h2) (.updCluster (.updCluster h2)))

theorem Ans.Inv.execMatrixPassComplete {cl : Nat} {ev : PassStep} {st : State} (h : st.Inv) : Ans.Inv (execMatrixPassComplete cl ev st) := by
  unfold Machine.execMatrixPassComplete
  change State.Inv _
  split
  · split
    · exact h
    · split
      · exact h
      next e3 => exact .updCluster (.of_some_fst e3 (.passReads h))
  · split
    · exact h
    · exact .ite h.completePass h

/-! Domains (R216). -/

theorem State.Inv.dropped {st : State} (h : st.Inv) : st.dropped.Inv :=
  h

/-! XFER and XMC at issue (R222, R224 to R226). -/

theorem IEff.Inv.xferIssue {st : State} {g : Group} {xmc : Bool} {db ctr : Nat} {guard : Option Nat} {chan step : Nat} (h : st.Inv) :
    (xferIssue st g xmc db ctr guard chan step).Inv := by
  unfold Machine.xferIssue
  split
  · exact h
  · exact .queueCmd h

/-! Sending (R219, R227, R370). -/

theorem State.Inv.leave {st : State} {p : Packet} (h : st.Inv) : (st.leave p).Inv :=
  h

theorem State.Inv.drainPorts {st : State} (h : st.Inv) : st.drainPorts.Inv :=
  .foldl h (fun _ _ h1 => .ite h1 h1)

theorem State.Inv.toWeir {st : State} {port slot from_ : Nat} {p : Packet} (h : st.Inv) : (st.toWeir port slot from_ p).Inv :=
  h

theorem State.Inv.send {st : State} {p : Packet} (h : st.Inv) : (st.send p).Inv := by
  unfold State.send
  split
  · exact h.toWeir
  · exact h.leave

theorem State.Inv.sendTimed {st : State} {p : Packet} {bytes group wg : Nat} (h : st.Inv) : (st.sendTimed p bytes group wg).Inv :=
  .send (.ite h h)

theorem State.Inv.hubSend {st : State} {p : Packet} (h : st.Inv) : (st.hubSend p).Inv :=
  h.sendTimed

theorem State.Inv.sendRun {st : State} {gid : Nat} {e : EngCmd} {r : RunOf} {n : Nat} (h : st.Inv) : (st.sendRun gid e r n).Inv :=
  .sendTimed (.ite h.trace h)

theorem Ans.Inv.execFabricPacketSend {gid id line : Nat} {rd : Bool} {st : State} (h : st.Inv) :
    Ans.Inv (execFabricPacketSend gid id line rd st) := by
  unfold Machine.execFabricPacketSend
  extract_lets _
  change State.Inv _
  split
  · exact h
  · refine .ite h ?_
    split
    · exact h
    next e3 =>
      have h2 : State.Inv _ := State.Inv.of_some_fst e3 (.startCmd h)
      refine .ite (h.endLine (.snapLines h2) (fun _ _ h1 => h1.putCmd)) ?_
      split
      · exact .settleWg (.dropCmd h2)
      · exact h.endLine (.snapLines h2) (fun _ _ h1 => .ite (.settleWg (.dropCmd h1.sendRun)) (.putCmd h1.sendRun))

/-! The hub's accesses at a destination (R473). -/

theorem EngEnd.Inv.hubWrite {st : State} {c va n mask v path : Nat} (h : st.Inv) : (st.hubWrite c va n mask v path).Inv := by
  unfold State.hubWrite
  split
  · exact h
  next e => exact Acc.Inv.of_fault e (.access h)
  next e => exact Acc.Inv.of_prot e (.access h)
  next e =>
    extract_lets _
    split
    · exact h
    · split
      · exact h
      · split
        · exact h
        next e3 =>
          exact State.Inv.of_some e3 (.bind (.bind (.takeLine (Acc.Inv.of_ok e (.access h))) (fun _ ha => .dirGate ha)) (fun _ ha => .writeLeaf ha))

theorem EngEnd.Inv.hubWrites {st : State} {fuel c va n mask v path : Nat} (h : st.Inv) : (st.hubWrites fuel c va n mask v path).Inv := by
  induction fuel generalizing st va n mask v with
  | zero => exact h
  | succ k ih =>
    unfold State.hubWrites
    extract_lets m
    have hw : (st.hubWrite c va m (mask % 2 ^ m) (v % 2 ^ (8 * m)) path).Inv := .hubWrite h
    split
    · exact h
    · split
      next e => exact ih (EngEnd.Inv.of_done e hw)
      · exact hw

theorem EngEnd.Inv.hubRead {st : State} {c va n path : Nat} (h : st.Inv) : (st.hubRead c va n path).1.Inv := by
  unfold State.hubRead
  split
  · exact h
  next e => exact Acc.Inv.of_fault e (.access h)
  next e => exact Acc.Inv.of_prot e (.access h)
  next e =>
    split
    · exact h
    · split
      · exact h
      · split
        · exact h
        next e3 => exact State.Inv.of_some e3 (.bind (.shareLine (Acc.Inv.of_ok e (.access h))) (fun _ ha => .dirGate ha))

/-! Remote counters (R222, R223). -/

theorem State.Inv.addAt {st : State} {w : Workgroup} {ctr off n : Nat} (h : st.Inv) : (st.addAt w ctr off n).Inv :=
  h.addCounter

theorem State.Inv.remoteAdd {st : State} {key : Nat} {w : Workgroup} {ctr off n : Nat} (h : st.Inv) : (st.remoteAdd key w ctr off n).Inv :=
  .ite h.addAt h.updWg

/-! Event records (R379 to R381). -/

theorem State.Inv.weirEvent {st : State} {c serial gi i : Nat} (h : st.Inv) : (st.weirEvent c serial gi i).Inv :=
  h.postTo

theorem State.Inv.eventTold {st : State} {c flags ctr serial produce : Nat} (h : st.Inv) : (st.eventTold c flags ctr serial produce).Inv := by
  unfold State.eventTold
  refine .ite (.weirEvent (.ite ?_ h)) (.ite ?_ h)
  · split
    · exact h.remoteAdd
    · exact h.dropped
  · split
    · exact h.remoteAdd
    · exact h.dropped

theorem AllSome.engEndEvent {r : EngEnd} {k : State → State} (hr : r.Inv) (hk : ∀ (t : State), t.Inv → (k t).Inv) :
    AllSome State.Inv (EngEnd.event r k) := by
  unfold EngEnd.event
  split
  · exact .some (hk _ hr)
  · exact .none
  · exact .none
  · exact .some (.dropped hr)
  · exact .some (.dropped hr)

theorem AllSome.readHead {st : State} {c ev : Nat} {e : EventRec} (h : st.Inv) : AllSome State.Inv (st.readHead c ev e) := by
  unfold State.readHead
  split
  · exact .none
  next st1 e1 =>
    have h1 : st1.Inv := by
      refine Acc.Inv.of_ok e1 ?_
      split
      · exact h
      · exact .access h
    exact .engEndEvent (.hubRead h1) (fun _ h2 => .ite h2.dropped h2)
  · exact .some h.dropped

theorem AllSome.writeEvent {st : State} {e : EventRec} (h : st.Inv) : AllSome State.Inv (st.writeEvent e) := by
  unfold State.writeEvent
  split
  · exact .some h.dropped
  · extract_lets _
    split
    · exact .readHead h
    · split
      · exact .some h.dropped
      · exact .ite (.engEndEvent (.hubWrites h) (fun _ h1 => h1.eventTold))
          (.ite (.engEndEvent (.hubWrites h) (fun _ h1 => h1)) (.bind (.gate h) (fun _ ha => .engEndEvent (.hubWrites ha) (fun _ h1 => h1))))

/-- By induction on the fuel: each unit of it serves the oldest record's next memory event. -/
theorem State.Inv.drainEvents {fuel : Nat} {st : State} (h : st.Inv) : (st.drainEvents fuel).Inv := by
  induction fuel generalizing st with
  | zero => exact h
  | succ n ih =>
    unfold State.drainEvents
    split
    next m e rest ek _ =>
      cases ek
      split
      next e2 => exact ih (.of_some e2 (.writeEvent (.of_mem h rfl)))
      · exact h
    · exact h

theorem State.Inv.someEvents {st : State} (h : st.Inv) : st.someEvents.Inv :=
  .ite h (.drainEvents h)

theorem State.Inv.eventRecordAt {st : State} {dom cls port slot code detail rid formed : Nat} {h : BitVec 256} (hs : st.Inv) :
    (st.eventRecordAt dom cls port slot code detail rid formed h).Inv :=
  hs

theorem State.Inv.eventRecord {st : State} {dom cls port slot code detail : Nat} {h : BitVec 256} (hs : st.Inv) :
    (st.eventRecord dom cls port slot code detail h).Inv :=
  hs.eventRecordAt

/-! Delivery (R220, R221, R228). -/

theorem State.Inv.ackTo {st : State} {h : BitVec 256} {seq fault addr : Nat} (hs : st.Inv) : (st.ackTo h seq fault addr).Inv :=
  hs.leave

theorem State.Inv.passed {st : State} {key : Nat} {a : Arrived} (h : st.Inv) : (st.passed key a).Inv :=
  .ite (.ite (.trace h) h) (.ackTo (.ite (.trace h) h))

/-- By induction on the fuel: each unit of it passes the packet that is due. -/
theorem State.Inv.advance {fuel : Nat} {st : State} {key : Nat} (h : st.Inv) : (st.advance fuel key).Inv := by
  induction fuel generalizing st with
  | zero => exact h
  | succ k ih =>
    unfold State.advance
    extract_lets t
    split
    · exact .ite h (ih h.passed)
    · exact h

theorem State.Inv.delivered {st : State} {h : BitVec 256} {adds : Bool} (hs : st.Inv) : (st.delivered h adds).Inv :=
  .ite (.ite hs hs.ackTo) (.advance hs)

theorem State.Inv.refuse {st : State} {p : Packet} {f : Trap} (h : st.Inv) : (st.refuse p f).Inv :=
  .delivered (.ackTo (.eventRecord (.ite h h)))

theorem State.Inv.holdPacket {st : State} {p : Packet} (h : st.Inv) : (st.holdPacket p).Inv :=
  .ite h h

theorem EngEnd.Inv.mayLand {st : State} {c : Nat} {ps : List (Nat × Nat)} (h : st.Inv) : (st.mayLand c ps).Inv := by
  induction ps generalizing st with
  | nil => exact h
  | cons q r ih =>
    unfold State.mayLand
    have ha : (st.access c (.unit 0) q.1 .w 3 true).Inv := .access h
    split
    · exact h
    next e => exact Acc.Inv.of_fault e ha
    next e => exact Acc.Inv.of_prot e ha
    next e => exact ih (Acc.Inv.of_ok e ha)

theorem AllSome.landed {c : Nat} {p : Packet} {r : EngEnd} {k : State → Option State} (hr : r.Inv)
    (hk : ∀ (t : State), t.Inv → AllSome State.Inv (k t)) : AllSome State.Inv (State.landed c p r k) := by
  unfold State.landed
  split
  · exact .none
  · exact .none
  · exact .some (.refuse hr)
  · exact .some (.ite (.refuse (.pageFault hr)) (.holdPacket (.pageFault hr)))
  · exact hk _ hr

theorem State.Inv.arrived {st : State} {h : BitVec 256} (hs : st.Inv) : (st.arrived h).Inv := by
  unfold State.arrived
  extract_lets _
  split
  · exact hs.delivered
  · exact .delivered (.ite hs.eventRecord hs)

theorem AllSome.landLine {st : State} {c : Nat} {p : Packet} (h : st.Inv) : AllSome State.Inv (st.landLine c p) := by
  unfold State.landLine
  split
  · exact .some h.arrived
  next va n _ =>
    extract_lets off
    refine .landed (.hubWrite h) fun s hs => ?_
    extract_lets s1
    have h1 : s1.Inv := by
      refine .foldl (.of_mem hs rfl) fun s _ hs => .ite ?_ hs
      split
      next e => exact .poison (Acc.Inv.of_ok e (.access hs))
      · exact hs
    exact .some (.ite h1.arrived h1)

theorem AllSome.land {st : State} {p : Packet} (h : st.Inv) : AllSome State.Inv (st.land p) := by
  unfold State.land
  extract_lets _ _ _ st1 _ _ _
  have h2 : st1.Inv := .ite h h
  split
  · exact .some (.delivered h2.dropped)
  · refine .ite (.some h2.holdPacket) ?_
    split
    · exact .none
    · exact .some h2.delivered
    · refine .landed ?_ (fun _ h3 => .landLine h3)
      split
      · exact h2
      · exact .mayLand h2

theorem State.Inv.retryHeld {st : State} {key : Nat} (h : st.Inv) : (st.retryHeld key).Inv :=
  .foldl h (fun _ _ h1 => .getD (.land h1) h1.holdPacket)

theorem State.Inv.retryRedirs {st : State} (h : st.Inv) : st.retryRedirs.Inv :=
  .foldl h (fun _ _ h1 => .getD (.land h1) h1.holdPacket)

theorem State.Inv.undomained {st : State} {h : BitVec 256} (hs : st.Inv) : (st.undomained h).Inv :=
  .ite hs.dropped hs

theorem Ans.Inv.execPacketArrival {port : Nat} {hdr : BitVec 256} {pay : Nat} {st : State} (h : st.Inv) :
    Ans.Inv (execPacketArrival port hdr pay st) := by
  unfold Machine.execPacketArrival
  refine State.Inv.ite h ?_
  split
  · exact .getD (.landLine h) h
  · refine .ite h (.ite (.ite h h) (.ite (.dropped (.ite h h)) ?_))
    split
    · split
      · exact .toWeir (.ite h h)
      · exact .getD (.land (.ite h h)) h
    · split
      · exact .toWeir (.ite h h)
      · exact .getD (.land (.ite h h)) h
    · exact .delivered (.undomained (.ite h h))
    · exact .delivered (.undomained (.ite h h))
    · exact h

theorem AllSome.applyArrival {st : State} {h : BitVec 256} (hs : st.Inv) : AllSome State.Inv (st.applyArrival h) := by
  unfold State.applyArrival
  split
  · exact .some hs
  · split
    · exact .some hs.eventRecord
    · exact .ite .none (.map (.gate hs) (fun _ ha => .updWg ha.addAt))

theorem State.Inv.ackHeld {st : State} {key : Nat} (h : st.Inv) : (st.ackHeld key).Inv := by
  unfold State.ackHeld
  extract_lets _ _ _
  split
  · exact .ite h (.ackTo h)
  · exact h

theorem State.Inv.ackRedir {st : State} (h : st.Inv) : st.ackRedir.Inv := by
  unfold State.ackRedir
  split
  · exact .ackTo h
  · exact h

theorem Ans.Inv.execArrivalAddition {src chan : Nat} {redir : Bool} {st : State} (h : st.Inv) :
    Ans.Inv (execArrivalAddition src chan redir st) := by
  unfold Machine.execArrivalAddition
  refine State.Inv.ite ?_ ?_
  · split
    · exact h.ackRedir
    next p s e =>
      have hs : s.Inv := .of_some_snd e (.firstSome fun _ => .map (.applyArrival h) fun _ ht => ht)
      extract_lets s1 hdr s2
      have h2 : s2.Inv := .ite (.trace (.of_mem hs rfl)) hs
      exact .ite h2 h2.ackTo
  · extract_lets key t
    split
    · exact h
    · split
      · exact .ite h.ackHeld h
      next e => exact .advance (.passed (.of_some e (.applyArrival h)))

/-! Acknowledgement and dead peers (R221, R228, R231 to R233). -/

theorem State.Inv.relay {st : State} {orig : Nat} {p : Packet} (h : st.Inv) : (st.relay orig p).Inv := by
  unfold State.relay
  extract_lets _
  split
  · exact .ite h h

theorem State.Inv.acknowledged {st : State} {dev fault addr : Nat} {u : Unacked} (h : st.Inv) : (st.acknowledged dev fault addr u).Inv :=
  .ite (.trace (.ite h.deferAt h)) (.ite h.deferAt h)

theorem Ans.Inv.execPacketAck {dev chan seq fault addr : Nat} {one : Bool} {st : State} (h : st.Inv) :
    Ans.Inv (execPacketAck dev chan seq fault addr one st) := by
  unfold Machine.execPacketAck
  extract_lets _ _ _ _ _ st1
  have h1 : st1.Inv := .foldl h (fun _ _ h1 => h1.acknowledged)
  exact State.Inv.ite h (.ite h1 h1)

theorem State.Inv.endConv {st : State} {v : Conv} {d : BitVec 1024} (h : st.Inv) : (st.endConv v d).Inv :=
  .updWg h

theorem State.Inv.freeConv {st : State} {gid : Nat} {w : AWait} (h : st.Inv) : (st.freeConv gid w).Inv :=
  h.updGroup

theorem State.Inv.abandonConv {st : State} {v : Conv} {k : TrapKind} {t : Trap} (h : st.Inv) : (st.abandonConv v k t).Inv :=
  .standingTrap (.freeConv h.endConv)

theorem State.Inv.waitersTrap {st : State} {gid : Nat} {g : Group} {sw : SWait → Bool} {aw : AWait → Bool} {t : Trap} (h : st.Inv) :
    (st.waitersTrap gid g sw aw t).Inv := by
  unfold State.waitersTrap
  extract_lets all here st1 st2
  have h1 : st1.Inv := .foldl h fun _ _ hs => hs.waiterTrap
  have h2 : st2.Inv := .ite h1.waiterTrap h1
  exact .ite h2.waiterTrap h2

theorem State.Inv.spoilCbuf {st : State} {v : Conv} {n : Nat} (h : st.Inv) : (st.spoilCbuf v n).Inv := by
  unfold State.spoilCbuf
  split
  next e => exact EngEnd.Inv.of_done e (.hubWrites h)
  · exact h

theorem State.Inv.setDead {st : State} {n : Nat} (h : st.Inv) : (st.setDead n).Inv := by
  unfold State.setDead
  extract_lets st1 _ st2 _ _ _ _ _ st3
  have h1 : st1.Inv := h
  have h2 : st2.Inv := .foldl h1 (fun _ _ h2 => .abandonConv h2.spoilCbuf)
  have h3 : st3.Inv := h2
  exact .ite h (.foldl h3 (fun _ _ h4 => .ite h4.waitersTrap h4))

/-! LDP (R234 to R238). -/

theorem AllSome.submitConv {st : State} {gid : Nat} {g : Group} {cv : Conv} (h : st.Inv) : AllSome State.Inv (st.submitConv gid g cv) :=
  .map (.seqTicket h) (fun _ ha => .updGroup (.updWg (.foldl ha (fun _ _ h1 => h1.hubSend))))

theorem IEff.Inv.convLoad {st : State} {gid : Nat} {gr : Group} {m : Am} {q : Nat} {dv : BitVec 1024} (h : st.Inv) :
    (st.convLoad gid gr m q dv).Inv := by
  unfold State.convLoad
  extract_lets st1
  have h1 : st1.Inv := h.updGroup
  split
  next e => exact .updGroup (IEff.Inv.of_hold e (.tileLoad h1))
  · exact .tileLoad h1

theorem Ans.Inv.execLdp {s : BitVec 1} {q : BitVec 3} {v a : BitVec 5} {d g : BitVec 3} {e : BitVec 1} {c : BitVec 2} {st : State} (h : st.Inv) :
    Ans.Inv (execLdp s q v a d g e c st) := by
  unfold Machine.execLdp
  refine .issueA h (fun _ _ h1 => ?_)
  extract_lets _ _
  split
  · exact .convLoad h1
  · split
    · exact h1
    · refine .ite h1 (.ite h1 ?_)
      split
      · exact h1
      · split
        · exact .tileLoad h1
        · extract_lets _ _ _ grp _ _
          split
          · exact h1
          · refine .ite h1 (.ite h1 ?_)
            clear_value grp
            split
            · exact h1
            · split
              · exact h1
              · split
                · exact h1
                · exact .tileLoad h1
                · exact .ite (.convLoad h1.updWg) (.ite h1 (.getD (.submitConv h1) h1))
        · exact h1

theorem Ans.Inv.execConversionMatch {i : Nat} {subs : List (Nat × BitVec 1024 × Nat × Nat)} {st : State} (h : st.Inv) :
    Ans.Inv (execConversionMatch i subs st) := by
  unfold Machine.execConversionMatch
  change State.Inv _
  split
  · exact h
  · exact .ite h (.ite (.ite (.trace h) h) h.abandonConv)

theorem State.Inv.converted {st : State} {v : Conv} (h : st.Inv) : (st.converted v).Inv :=
  .ite (.trace (.freeConv (.raisePts h.endConv))) (.freeConv (.raisePts h.endConv))

theorem State.Inv.failConv {st : State} {v : Conv} {page : Nat} {t : Trap} (h : st.Inv) : (st.failConv v page t).Inv :=
  h.abandonConv

theorem State.Inv.convSettle {v : Conv} {st0 : State} {r : EngEnd} {k : State → State} (hst0 : st0.Inv) (hr : r.Inv)
    (hk : ∀ (t : State), t.Inv → (k t).Inv) : (Conv.settle v st0 r k).Inv := by
  unfold Conv.settle
  split
  · exact hk _ hr
  · exact hst0
  · exact hst0
  · exact .failConv hr
  · exact .ite (.failConv (.pageFault hr)) (.pageFault hr)

theorem State.Inv.updConv {st : State} {v : Conv} {f : Conv → Conv} (h : st.Inv) : (st.updConv v f).Inv :=
  h

theorem Ans.Inv.execConversionComplete {i : Nat} {data : List (Nat × List Nat)} {st : State} (h : st.Inv) :
    Ans.Inv (execConversionComplete i data st) := by
  unfold Machine.execConversionComplete
  change State.Inv _
  split
  · exact h
  · refine .ite h ?_
    split
    · split
      · exact h.convSettle (.hubRead h) (fun _ h1 => .updConv h1)
      · exact .ite h.updConv h
    · split
      · exact h.converted
      · exact h.convSettle (.hubWrite h) (fun _ h1 => .ite (.converted h1) (.updConv h1))

/-! A kernel in process (R375). -/

theorem State.Inv.updWeir {st : State} {port : Nat} {f : Weir → Weir} (h : st.Inv) : (st.updWeir port f).Inv :=
  h

theorem State.Inv.sendOn {st : State} {egress : Bool} {orig : Nat} {p : Packet} (h : st.Inv) : (st.sendOn egress orig p).Inv :=
  .ite (.leave h.relay) (.send h.relay)

theorem AllSome.sendCopies {st : State} {port sl : Nat} {egress : Bool} {orig : Nat} {cs : List (Nat × Packet)} (h : st.Inv) :
    AllSome State.Inv (st.sendCopies port sl egress orig cs) := by
  induction cs generalizing st with
  | nil => exact .some h
  | cons c rest ih =>
    unfold State.sendCopies
    extract_lets dom q st'
    have h' : AllSome State.Inv st' := .ite (.some h.eventRecord) (.ite (.land h) (.some h.sendOn))
    clear_value st'
    split
    next s => exact ih (h' s rfl)
    · exact .none

/-- A kernel's end sends the packet on, delivers it or drops it, and then sends its copies. -/
theorem AllSome.endWeir {st : State} {port : Nat} {s : WeirSlot} {r : WeirRun} {e : WNext} (h : st.Inv) :
    AllSome State.Inv (st.endWeir port s r e) := by
  unfold State.endWeir
  extract_lets hdr dom st1 away tooFar
  have h1 : st1.Inv := h.updWeir
  split
  next fwd copies st2 e2 =>
    have h2 : st2.Inv := by
      have : (fwd, copies, st2).2.2.Inv := by
        rw [← e2]
        split
        · split
          · exact h1.eventRecord
          · exact h1
        · exact h1.eventRecord
        · exact h1
      exact this
    extract_lets bad st3 fwd1 own
    have h3 : st3.Inv := .ite h2.eventRecord h2
    have ho : AllSome State.Inv own :=
      .ite (.ite (.some h3.leave) (.ite (.some (.leave h3.sendOn)) (.some h3.leave)))
        (.ite (.some h3.delivered) (.ite (.some (.sendOn h3.delivered)) (.land h3)))
    exact .bind ho fun _ hs => .sendCopies hs

/-- A Weir instruction keeps the form when its body does. -/
theorem Ans.Inv.weirOp {cost : Nat} {st : State} {body : Nat → WeirSlot → State → WeirRun → WOut} (h : st.Inv)
    (hbody : ∀ port slot (t : State) r, t.Inv → (body port slot t r).st.Inv) : Ans.Inv (weirOp cost st body) := by
  unfold Machine.weirOp
  split
  · split
    · exact trivial
    · split
      · exact trivial
      · extract_lets r o _ _
        have h1 : o.st.Inv := hbody _ _ _ _ h
        split
        · exact State.Inv.getD (.endWeir h) h
        · change State.Inv _
          split
          · exact h1.updWeir
          · exact h1.updWeir
          · exact .getD (.endWeir h1) h
  · exact trivial

theorem Ans.Inv.weirReg {st : State} {f : WeirRun → WeirRun} (h : st.Inv) : Ans.Inv (weirReg st f) :=
  .weirOp h (fun _ _ _ _ h1 => h1)

/-! Header and payload (R378, R389, R390). -/

theorem Ans.Inv.execWseth {r : BitVec 4} {f : BitVec 5} {st : State} (h : st.Inv) : Ans.Inv (execWseth r f st) := by
  unfold Machine.execWseth
  refine .weirOp h (fun _ _ _ _ h1 => ?_)
  extract_lets _ _
  split
  · exact h1
  · split
    · exact h1
    · exact h1

/-! Flow state (R391, R392). -/

theorem State.Inv.flowAt {port : Nat} {s : WeirSlot} {st : State} {r : WeirRun} {o n code : Nat} {reads : Bool} {k : Nat → WOut} (h : st.Inv)
    (hk : ∀ x, (k x).st.Inv) : (flowAt port s st r o n code reads k).st.Inv := by
  unfold Machine.flowAt
  extract_lets _
  split
  · exact h
  · split
    · exact h.updWeir
    · exact hk _

/-! Control (R393 to R395). -/

theorem Ans.Inv.execWdup {a : BitVec 3} {st : State} (h : st.Inv) : Ans.Inv (execWdup a st) := by
  unfold Machine.execWdup
  refine .weirOp h (fun _ _ _ _ h1 => ?_)
  split
  · exact h1
  · exact h1

/-! The order in which packets and commands reach a Weir (R371, R398). -/

theorem AllSome.weirGate {st : State} {port slot dom : Nat} {mk : List Nat} (h : st.Inv) : AllSome State.Inv (st.weirGate port slot dom mk) := by
  unfold State.weirGate
  split
  · exact .some h
  · exact .map (.gate h) (fun _ ha => ha)

theorem Ans.Inv.execWeirPacket {port i : Nat} {st : State} (h : st.Inv) : Ans.Inv (execWeirPacket port i st) := by
  unfold Machine.execWeirPacket
  extract_lets _ st1
  have h1 : st1.Inv := h.updWeir
  change State.Inv _
  split
  · refine .ite h ?_
    split
    · exact .ite h1.leave (.getD (.land h1) h)
    · split
      · exact h
      next e3 =>
        have h2 : State.Inv _ := State.Inv.of_some e3 (.weirGate h1)
        exact .ite (.ite (.leave h2) (.delivered h2)) (.updWeir h2)
  · exact h

/-! Weir commands (R372 to R374). -/

theorem State.Inv.hostWrite {st : State} {n pa v dev : Nat} (h : st.Inv) : (st.hostWrite n pa v dev).Inv := by
  induction n generalizing st pa v with
  | zero => exact h
  | succ k ih => exact ih h.hostStore

theorem AllSome.hostPut {st : State} {n pa v : Nat} (h : st.Inv) : AllSome State.Inv (st.hostPut n pa v) :=
  .map (.foldl (.some h) (fun _ _ ho => .bind ho (fun _ ha => .ite (.takeLine ha) .none))) (fun _ ha => ha.hostWrite)

theorem AllSome.hostGet {st : State} {n pa : Nat} (h : st.Inv) : AllSome (fun r => r.1.Inv) (st.hostGet n pa) :=
  .map (.foldl (.some h) (fun _ _ ho => .bind ho (fun _ ha => .shareLine ha))) (fun _ ha => ha)

theorem State.Inv.weirDone {st : State} {c : Cmd} {word wcet code : Nat} (h : st.Inv) : (st.weirDone c word wcet code).Inv :=
  h

theorem State.Inv.weirLoad {st : State} {port sl : Nat} {s : WeirSlot} (h : st.Inv) : (st.weirLoad port sl s).Inv :=
  .updWeir (Memory.wf_clear _ _ _ h)

theorem Ans.Inv.execLoad {st : State} (h : st.Inv) : Ans.Inv (execLoad st) := by
  unfold Machine.execLoad
  change State.Inv _
  split
  · exact h
  · refine .ite h (.ite h.weirDone (.ite h.weirDone (.ite h.weirDone (.ite h.weirDone ?_))))
    extract_lets _
    split
    · refine .ite h ?_
      split
      · exact h
      next e2 => exact .weirDone (.weirLoad (.of_some e2 (.weirGate h)))
    · exact h.weirDone

theorem State.Inv.weirCmd {st : State} {opc : Nat} {moves : Bool} {f : State → Nat → Nat → WeirSlot → Nat → Option State} (h : st.Inv)
    (hf : ∀ (t : State) port sl s v, t.Inv → AllSome State.Inv (f t port sl s v)) : (st.weirCmd opc moves f).Inv := by
  unfold State.weirCmd
  split
  · exact h
  · refine .ite h ?_
    extract_lets _ _ _ _ _
    split
    · exact h.weirDone
    · refine .ite h.weirDone (.ite h ?_)
      split
      · exact h
      next e2 => exact .getD (.map (hf _ _ _ _ _ (.of_some e2 (.weirGate h))) (fun _ ha => ha.weirDone)) h

/-! Releases. -/

theorem AllSome.releaseGate {st : State} {gid choice : Nat} {g : Group} (h : st.Inv) : AllSome State.Inv (st.releaseGate gid choice g) :=
  .sched h

theorem State.Inv.releaseSplit {st : State} {kind gid slot : Nat} (h : st.Inv) : (st.releaseSplit kind gid slot).Inv := by
  unfold State.releaseSplit
  split
  · exact h
  · split
    · refine .ite ?_ h
      split
      next e2 => exact .updGroup (.of_some e2 (.releaseGate h))
      · exact h
    · exact h

theorem State.Inv.releaseAll {st : State} {kinds gids : List Nat} (h : st.Inv) : (st.releaseAll kinds gids).Inv :=
  .foldl h (fun _ _ h1 => .foldl h1 (fun _ _ h2 => .foldl h2 (fun _ _ h3 => h3.releaseSplit)))

theorem State.Inv.releaseBarriers {st : State} (h : st.Inv) : st.releaseBarriers.Inv :=
  h.releaseAll

theorem Ans.Inv.execAwaitcRelease {gid : Nat} {st : State} (h : st.Inv) : Ans.Inv (execAwaitcRelease gid st) := by
  unfold Machine.execAwaitcRelease
  change State.Inv _
  split
  · exact h
  · refine .ite ?_ h
    split
    next e1 => exact .updGroup (.of_some e1 (.releaseGate h))
    · exact h

/-! The watchdog and trap entry. -/

theorem Ans.Inv.execWatchdogExpiry {gid : Nat} {st : State} (h : st.Inv) : Ans.Inv (execWatchdogExpiry gid st) := by
  unfold Machine.execWatchdogExpiry
  change State.Inv _
  split
  · exact h
  · exact .ite h (.ite h.contextFault h.postTrap)

theorem Ans.Inv.execTrapEntry {gid : Nat} {st : State} (h : st.Inv) : Ans.Inv (execTrapEntry gid st) := by
  unfold Machine.execTrapEntry
  change State.Inv _
  split
  · exact h
  · refine .ite h.enterTrap ?_
    split
    · exact h.takePend
    · exact h

/-! The census flush. -/

theorem AllSome.censusAdd {st : State} {a n : Nat} (h : st.Inv) : AllSome State.Inv (st.censusAdd a n) :=
  .map (.takeLine h) (fun _ ha => ha.hostStore)

theorem State.Inv.censusClear {st : State} {c : Nat} (h : st.Inv) : (st.censusClear c).Inv :=
  h

theorem AllSome.censusFlush {st : State} {c : Nat} (h : st.Inv) : AllSome State.Inv (st.censusFlush c) := by
  unfold State.censusFlush
  refine .ite (.some h) ?_
  split
  · exact .none
  next e => exact .some (.censusClear (.faultRec (Acc.Inv.of_fault e (.accessNow h))))
  next e => exact .some (.censusClear (.faultRec (Acc.Inv.of_prot e (.accessNow h))))
  next e =>
    exact .ite .none (.map (.foldl (.setDirty (Acc.Inv.of_ok e (.accessNow h))) (fun _ _ ho => .bind ho (fun _ ha => .censusAdd ha)))
      (fun _ ha => ha.censusClear))

theorem Ans.Inv.execCensusFlush {gid slot : Nat} {st : State} (h : st.Inv) : Ans.Inv (execCensusFlush gid slot st) := by
  unfold Machine.execCensusFlush
  change State.Inv _
  split
  · exact h
  · split
    · exact .ite (.getD (.map (.censusFlush h) (fun _ ha => ha.updGroup)) h) h
    · exact h

/-! The page-fault service's answers (R339, R340). -/

theorem State.Inv.pageMapped {st : State} {c page : Nat} (h : st.Inv) : (st.pageMapped c page).Inv :=
  .retryRedirs (.foldl h (fun _ _ h1 => h1.retryHeld))

theorem State.Inv.dropAtoms {st : State} {c page : Nat} (h : st.Inv) : (st.dropAtoms c page).Inv := by
  unfold State.dropAtoms
  refine .foldl h (fun _ _ h1 => ?_)
  extract_lets _
  split
  · exact .ite (.faultRec h1.updGrid) h1
  · exact h1

/-- What waits for the page is told in turn: splits and streams, engine commands, packets held at the destination, and conversions. -/
theorem State.Inv.pageDeclined {st : State} {c page detail : Nat} (h : st.Inv) : (st.pageDeclined c page detail).Inv := by
  unfold State.pageDeclined
  extract_lets mine st1 st2 held cmds st3 meets low st4 rest st5 cv st6
  have h1 : st1.Inv := by
    refine .foldl h fun s e hs => ?_
    extract_lets gid root here s1 s2 s3
    have hs1 : s1.Inv := .foldl hs fun _ _ ht => .ite (.ite ht.updGroup (.rootHalt ht.updGroup)) ht.declinedTrap
    have hs2 : s2.Inv := by
      unfold s2
      split
      · exact .ite (.rootHalt hs1.updGroup) hs1.declinedTrap
      · exact hs1
    have hs3 : s3.Inv := by
      unfold s3
      split
      · exact hs2.declinedTrap
      · exact hs2
    split
    · exact .ite hs3 (.ite (.defer hs3.updGroup) hs3)
    · exact hs3
  have h3 : st3.Inv := .foldl h1.discardSpill fun s e hs => by split <;> [exact hs.failCmd; exact hs]
  have h4 : st4.Inv := by
    refine .foldl h3 fun s e hs => ?_
    split
    · exact .ite (.retryHeld (.refuse hs)) hs
    · exact hs
  have hrest : rest.Inv := h4
  have h5 : st5.Inv := .retryRedirs (.foldl hrest fun _ _ hs => hs.refuse)
  have h6 : st6.Inv := .foldl h5 fun _ _ hs => hs.failConv
  exact h6.dropAtoms

theorem State.Inv.askAgain {st : State} {c : Nat} (h : st.Inv) : (st.askAgain c).Inv :=
  .retryRedirs (.foldl (.foldl h (fun _ _ h1 => .ite (.pageDeclined h1.pageFault) h1.pageFault)) (fun _ _ h1 => h1.retryHeld))

theorem AllSome.resultRead {st : State} {c : Nat} {f : PageFault} (h : st.Inv) : AllSome (fun r => r.2.Inv) (st.resultRead c f) := by
  unfold State.resultRead
  refine .ite .none ?_
  split
  next e =>
    have h2 : State.Inv _ := Acc.Inv.of_ok e (.accessNow h)
    extract_lets _
    split
    next st2 _ e1 =>
      have h1 : st2.Inv := by
        refine .of_fst e1 ?_
        split
        · extract_lets _
          split
          · exact .value h2
          · exact h2
        · exact h2
      exact .some h1
  · exact .none

theorem Ans.Inv.execPageFaultResult {c i : Nat} {st : State} (h : st.Inv) : Ans.Inv (execPageFaultResult c i st) := by
  unfold Machine.execPageFaultResult
  change State.Inv _
  split
  · exact h.askAgain
  · split
    · exact h
    next e1 =>
      have h1 : State.Inv _ := State.Inv.of_some_snd e1 (.resultRead h)
      exact .ite (.askAgain (.pageMapped (.updCtx h1))) (.ite (.askAgain (.pageDeclined (.updCtx h1))) h.askAgain)

/-! Acceptance. -/

theorem State.Inv.enterGrid {st : State} {c : Nat} {d : Desc} {depth tag doneAt : Nat} {parent : Option Nat} {gates : List (Nat × Nat)} {root : Bool}
    (h : st.Inv) : (st.enterGrid c d depth tag doneAt parent gates root).1.Inv :=
  .updCtx h

theorem Ans.Inv.execGridAccept {i : Nat} {st : State} (h : st.Inv) : Ans.Inv (execGridAccept i st) := by
  unfold Machine.execGridAccept
  split
  · exact h
  split
  · exact h
  extract_lets answer
  have ha : ∀ (s : State) v, s.Inv → (answer s v).Inv := fun _ _ hs => hs
  clear_value answer
  refine State.Inv.ite h (.ite (ha _ _ h) (.ite h ?_))
  split
  · exact h
  next e =>
    split
    next s _ e1 =>
      have hs : s.Inv := .of_fst e1 (.enterGrid (.of_some_fst e (.seqTicket h)))
      refine ha _ _ (.trace ?_)
      split
      · exact hs.updWg
      · exact hs

theorem Ans.Inv.execGateOpen {ctx grid : Nat} {st : State} (h : st.Inv) : Ans.Inv (execGateOpen ctx grid st) := by
  unfold Machine.execGateOpen
  change State.Inv _
  split
  · exact h
  · refine .ite ?_ h
    split
    next e1 => exact .updGrid (.of_some e1 (.sched h))
    · exact h

/-! Stealing (R83). -/

theorem Ans.Inv.execWorkSteal {ctx grid thief : Nat} {dies : Bool} {st : State} (h : st.Inv) : Ans.Inv (execWorkSteal ctx grid thief dies st) := by
  unfold Machine.execWorkSteal
  change State.Inv _
  split
  · exact h
  · refine .ite (.ite h ?_) (.ite h ?_)
    · split
      · exact h
      · split
        · split
          · exact h
          next e3 => exact .updGrid (.of_some e3 (.sched h))
    · split
      · exact h
      · split
        · split
          · exact h
          next e3 => exact .updGrid (.of_some e3 (.sched h))

/-! Placement (R17, R82, R112). -/

theorem State.Inv.scramble {st : State} {a n : Nat} (h : st.Inv) : (st.scramble a n).Inv := by
  unfold State.scramble
  refine .ite h ?_
  split
  next e => exact .writeAll (.of_snd e h.freeValue)

theorem State.Inv.placeAt {st : State} {g : Grid} {lin : Nat} {p : Spot} (h : st.Inv) : (st.placeAt g lin p).Inv := by
  unfold State.placeAt
  extract_lets serial key d w st1 st2 st3 st4
  have h3 : st3.Inv := .scramble (.scramble (.raisePts (.updCore h)))
  have h4 : st4.Inv := .ite h3 h3.writeAll
  exact .foldl h4 fun _ _ hs => .putGroup hs.scramble

theorem AllSome.placeOn {st : State} {g : Grid} {lin cl : Nat} (h : st.Inv) : AllSome State.Inv (st.placeOn g lin cl) :=
  .firstSome fun _ => .bind_all (fun _ => .map (.sched h) (fun _ ha => ha.placeAt))

theorem AllSome.placeCoop {st : State} {g : Grid} (h : st.Inv) : AllSome State.Inv (st.placeCoop g) :=
  .foldl (.some h) (fun _ _ ho => .bind ho (fun _ ha => .placeOn ha))

theorem State.Inv.addShare {st : State} {c : Nat} (h : st.Inv) : (st.addShare c).Inv :=
  h

theorem Ans.Inv.execWorkgroupPlace {ctx grid cl : Nat} {st : State} (h : st.Inv) : Ans.Inv (execWorkgroupPlace ctx grid cl st) := by
  unfold Machine.execWorkgroupPlace
  extract_lets _
  change State.Inv _
  split
  · exact h
  · refine .ite h (.ite h (.ite h (.ite ?_ ?_)))
    · split
      next e1 => exact .updGrid (.addShare (.of_some e1 (.placeCoop h)))
      · exact h
    · extract_lets _ _
      split
      · exact h
      next e1 => exact .updGrid (.addShare (.of_some e1 (.placeOn h)))

/-! The elder flag (R84). -/

theorem Ans.Inv.execElderReport {ctx : Nat} {st : State} (h : st.Inv) : Ans.Inv (execElderReport ctx st) := by
  unfold Machine.execElderReport
  extract_lets _ best st1
  have h1 : st1.Inv := h
  change State.Inv _
  clear_value best
  split
  · exact h1.updCore
  · exact h1

/-! What a grid owes at its end. -/

theorem EngEnd.Inv.hubAtomic {st : State} {c va n : Nat} {need : Need} {logged bad : Bool} {f : Nat → Nat} (h : st.Inv) :
    (st.hubAtomic c va n need logged bad f).Inv := by
  unfold State.hubAtomic
  split
  · exact h
  next e => exact Acc.Inv.of_fault e (.access h)
  next e => exact Acc.Inv.of_prot e (.access h)
  next e =>
    split
    · exact h
    · split
      · exact h
      · split
        · exact h
        next e3 =>
          exact State.Inv.of_some e3 (.bind (.bind (.takeLine (Acc.Inv.of_ok e (.access h))) (fun _ ha => .ite (.dirGate ha) (.some ha)))
            (fun _ ha => .map (.writeLeaf ha) (fun _ ha1 => ha1.soil)))

theorem State.Inv.finishGrid {st : State} {gk : Nat} (h : st.Inv) : (st.finishGrid gk).Inv := by
  unfold State.finishGrid
  split
  · exact h
  · refine .ite ?_ h
    extract_lets st1
    have h1 : st1.Inv := h.gridEnd
    split
    · exact h1.retireWg
    · exact h1

theorem Ans.Inv.execBufferedAtomicApply {ctx grid : Nat} {st : State} (h : st.Inv) : Ans.Inv (execBufferedAtomicApply ctx grid st) := by
  unfold Machine.execBufferedAtomicApply
  extract_lets gk
  split
  · exact h
  · split
    next a rest more _ =>
      extract_lets next f fault
      have hn : ∀ s : State, s.Inv → (next s).Inv := fun _ hs => .finishGrid hs.updGrid
      have hf : ∀ (s : State) t, s.Inv → (fault s t).Inv := fun _ _ hs => hn _ hs.faultRec
      clear_value next fault
      refine State.Inv.ite h (.ite ?_ ?_)
      · split
        · exact hf _ _ h
        · exact hn _ (.soil h.writeAll)
      · have ha : (st.hubAtomic ctx a.addr a.esize .rw false a.bad f).Inv := .hubAtomic h
        split
        next e => exact hn _ (EngEnd.Inv.of_done e ha)
        · exact h
        · exact h
        next e => exact hf _ _ (EngEnd.Inv.of_prot e ha)
        next e =>
          extract_lets r
          have hp : r.st.Inv := .pageFault (EngEnd.Inv.of_miss e ha)
          exact .ite (hf _ _ hp) hp
    · exact State.Inv.finishGrid h.updGrid
    · exact h.finishGrid

theorem Ans.Inv.execDoneAdd {ctx grid : Nat} {st : State} (h : st.Inv) : Ans.Inv (execDoneAdd ctx grid st) := by
  unfold Machine.execDoneAdd
  extract_lets _ _
  change State.Inv _
  split
  · exact h
  · refine .ite h (.ite (.dropGrid (.updGrid h.faultRec)) (.ite (.dropGrid (.updGrid h.faultRec)) ?_))
    split
    next e1 => exact .dropGrid (.updGrid (EngEnd.Inv.of_done e1 (.hubAtomic h)))
    · exact h
    · exact h
    next e1 => exact .dropGrid (.updGrid (.faultRec (EngEnd.Inv.of_prot e1 (.hubAtomic h))))
    next e1 => exact .dropGrid (.updGrid (.faultRec (EngEnd.Inv.of_miss e1 (.hubAtomic h))))

/-! Grants and revokes (R206, R207, R212). -/

theorem State.Inv.grantHalf {st : State} {agent line half : Nat} {excl : Bool} (h : st.Inv) : (st.grantHalf agent line half excl).Inv := by
  unfold State.grantHalf
  refine .ite h ?_
  split
  · exact h
  next e => exact .updDir (.downgrade (.of_some e (.dirGate h)))

theorem Ans.Inv.execDirectoryRevoke {holder line half : Nat} {st : State} (h : st.Inv) : Ans.Inv (execDirectoryRevoke holder line half st) :=
  State.Inv.getD (.ite (.revokeDie h) (.ite (.recallHalf h) .none)) h

/-! Ageing (R136, R138). -/

theorem State.Inv.countOverdue {st : State} {die tenant : Nat} (h : st.Inv) : (st.countOverdue die tenant).Inv :=
  h.setOverstated

/-! The scrubber (R205). -/

theorem Ans.Inv.execScrubberVisit {die : Nat} {st : State} (h : st.Inv) : Ans.Inv (execScrubberVisit die st) := by
  unfold Machine.execScrubberVisit
  extract_lets _ _ _ st1 _ _
  have h1 : st1.Inv := h.updDie
  exact h1

/-! Pages: migration and bias (R195, R214). -/

theorem AllSome.revokeGranules {st : State} {gs : List Nat} (h : st.Inv) : AllSome State.Inv (st.revokeGranules gs) :=
  .foldl (.some h) (fun _ _ ho => .foldl ho (fun _ _ ho1 => .bind ho1 (fun _ ha => .revokeDie ha)))

theorem AllSome.recallGranules {st : State} {gs : List Nat} (h : st.Inv) : AllSome State.Inv (st.recallGranules gs) :=
  .foldl (.some h) (fun _ _ ho => .foldl ho (fun _ _ ho1 => .bind ho1 (fun _ ha => .recallHalf ha)))

theorem State.Inv.setLeaf {st : State} {at_ : Nat} {leaf : Word} (h : st.Inv) : (st.setLeaf at_ leaf).Inv :=
  h.writeAll

theorem State.Inv.patchLines {st : State} {c base n : Nat} {f : LineReq → LineReq} {w : Nat → Nat} (h : st.Inv) : (st.patchLines c base n f w).Inv :=
  h

theorem State.Inv.moveGranule {st : State} {src dst : Nat} (h : st.Inv) : (st.moveGranule src dst).Inv :=
  .foldl (.foldl h.writeAll (fun _ _ h1 => h1.poison)) (fun _ _ h1 => h1)

theorem State.Inv.moveGranules {st : State} {pairs : List (Nat × Nat)} (h : st.Inv) : (st.moveGranules pairs).Inv :=
  .foldl h (fun _ _ h1 => h1.moveGranule)

theorem Ans.Inv.execPageMigration {c page newPa : Nat} {st : State} (h : st.Inv) : Ans.Inv (execPageMigration c page newPa st) := by
  unfold Machine.execPageMigration
  change State.Inv _
  split
  · refine .ite h (.ite ?_ (.ite h (.ite h ?_)))
    · extract_lets st1
      have h1 : st1.Inv := h.setLeaf
      split
      next e3 => exact Tr.Inv.of_ok e3 (.translate h1)
      · exact h1
    · split
      · exact h
      next e3 => exact .patchLines (.setLeaf (.moveGranules (.of_some e3 (.bind (.revokeGranules h) (fun _ ha => .recallGranules ha)))))
  · exact h

theorem Ans.Inv.execBiasFlip {c page : Nat} {toHost : Bool} {st : State} (h : st.Inv) : Ans.Inv (execBiasFlip c page toHost st) := by
  unfold Machine.execBiasFlip
  change State.Inv _
  split
  · refine .ite h ?_
    split
    · exact h
    next e3 =>
      have h1 : State.Inv _ := State.Inv.of_some e3 (.ite (.revokeGranules h) (.recallGranules h))
      exact .patchLines (.setLeaf (.ite (.of_mem h1 rfl) h1))
  · exact h

/-! The commands of CTXCMD (R351). -/

theorem State.Inv.ctxDone {st : State} {c : Cmd} {id code : Nat} (h : st.Inv) : (st.ctxDone c id code).Inv :=
  h

/-! CREATE (R348, R349). -/

theorem Ans.Inv.execCreate {st : State} (h : st.Inv) : Ans.Inv (execCreate st) := by
  unfold Machine.execCreate
  change State.Inv _
  split
  · exact h
  · refine .ite h.ctxDone (.ite h ?_)
    split
    · exact h.ctxDone
    · exact .ctxDone (.enterGrid (.foldl h (fun _ _ h1 => h1.setOverstated)))

/-! Saving (R352 step 3, R175, R319). -/

theorem State.Inv.moveGates {st : State} {f : Nat → Nat} (h : st.Inv) : (st.moveGates f).Inv :=
  h

theorem State.Inv.moveArrivals {st : State} {gk : Nat} {f : Nat → Nat} (h : st.Inv) : (st.moveArrivals gk f).Inv :=
  h.updGrid

theorem State.Inv.withdrawConvs {st : State} {key : Nat} (h : st.Inv) : (st.withdrawConvs key).Inv := by
  unfold State.withdrawConvs
  refine .foldl h (fun _ _ h1 => ?_)
  split
  · exact h1
  · extract_lets _ s
    have h2 : s.Inv := h1.endConv
    exact h2

theorem AllSome.switchRecs {st : State} {c : Nat} {gs : List (Nat × Group)} {cause : Nat} (h : st.Inv) :
    AllSome State.Inv (st.switchRecs c gs cause) :=
  .foldl (.some h) (fun _ _ ho => .bind ho (fun _ ha => .bind (.trapRec ha) (fun _ ha1 => .trapRec ha1)))

theorem State.Inv.startHandler {st : State} {key : Nat} {save : Bool} (h : st.Inv) : (st.startHandler key save).Inv := by
  unfold State.startHandler
  split
  · exact h
  · extract_lets _
    split
    · exact h.updWg
    · exact .updWg h.putGroup

theorem AllSome.saveWg {st : State} {key cause : Nat} (h : st.Inv) : AllSome State.Inv (st.saveWg key cause) := by
  unfold State.saveWg
  split
  · exact .some h
  · extract_lets _ _ _ _ _ _ _
    split
    · exact .none
    next e1 =>
      extract_lets _ _ _ _ st2 st3 st4 st5
      have h1 : st2.Inv := .trace (.withdrawConvs (.of_some e1 (.switchRecs h)))
      have h2 : st3.Inv := h1
      have h3 : st4.Inv := .moveArrivals h2.moveGates
      have h4 : st5.Inv := h3.updWg
      exact .some h4.startHandler

theorem State.Inv.freeWg {st : State} {key : Nat} (h : st.Inv) : (st.freeWg key).Inv :=
  h.updWg

theorem Ans.Inv.execSaveHandlerComplete {ctx serial : Nat} {st : State} (h : st.Inv) : Ans.Inv (execSaveHandlerComplete ctx serial st) := by
  unfold Machine.execSaveHandlerComplete
  extract_lets _
  change State.Inv _
  split
  · exact .ite (.freeWg h) h
  · exact h

theorem State.Inv.preemptGo {st : State} {c : Nat} (h : st.Inv) : (st.preemptGo c).Inv := by
  unfold State.preemptGo
  split
  · exact h.updCtx
  · exact .ite (.ite (.getD (.foldl (.some h) (fun _ _ ho => .bind ho (fun _ ha => .saveWg ha))) h) h)
      (.ite (.getD (.map (.censusFlush h) (fun _ ha => ha.updCtx)) h) h)
  · exact h

theorem Ans.Inv.execPreempt {st : State} (h : st.Inv) : Ans.Inv (execPreempt st) := by
  unfold Machine.execPreempt
  change State.Inv _
  split
  · exact h
  · refine .ite h ?_
    split
    · exact h.ctxDone
    · refine .ite (.ite (.of_mem h.preemptGo rfl) h.ctxDone) ?_
      split
      · exact h.preemptGo
      · exact h.ctxDone
      · exact h.ctxDone

/-! Restore (R354). -/

theorem AllSome.restoreWg {st : State} {key : Nat} {p : Spot} (h : st.Inv) : AllSome State.Inv (st.restoreWg key p) := by
  unfold State.restoreWg
  split
  · exact .some h
  · extract_lets _ _ _ _
    split
    · exact .none
    next e1 =>
      extract_lets st2 st3 st4 st5 s st6 st7 st8
      have h1 : st2.Inv := .scramble (.scramble (.of_some e1 (.bind (.sched h) (fun _ ha => .switchRecs ha))))
      have h2 : st3.Inv := .foldl h1 (fun _ _ h2 => h2.scramble)
      have h3 : st4.Inv := h2.writeAll
      have h4 : st5.Inv := .foldl h3 (fun _ _ h4 => h4.poison)
      have h5 : s.Inv := h4.moveGates
      have h6 : st6.Inv := h5
      have h7 : st7.Inv := .updCore h6.updWg
      have h8 : st8.Inv := h7.trace
      exact .some h8.startHandler

theorem AllSome.rewaitm {st : State} {c gid slot va v : Nat} (h : st.Inv) : AllSome State.Inv (st.rewaitm c gid slot va v) := by
  unfold State.rewaitm
  extract_lets _
  split
  · exact .none
  next e => exact .map (.syncLine (Acc.Inv.of_ok e (.accessNow h))) (fun _ ha => ha.updGroup)
  next e =>
    have h1 : State.Inv _ := Acc.Inv.of_fault e (.accessNow h)
    exact .some (.ite (.declinedTrap (.pageFault h1)) (.updGroup (.pageFault h1)))
  next e => exact .some (.standingTrap (Acc.Inv.of_prot e (.accessNow h)))

theorem AllSome.rewaitms {st : State} {c gid : Nat} (h : st.Inv) : AllSome State.Inv (st.rewaitms c gid) := by
  unfold State.rewaitms
  split
  · exact .some h
  · refine .foldl (.some h) (fun _ _ ho => .bind ho (fun _ ha => ?_))
    split
    · exact .rewaitm ha
    · exact .some ha

/-- A restored workgroup's additions that stood at the hub are applied here; the rest puts saved state back. -/
theorem AllSome.finishRestore {st : State} {key : Nat} (h : st.Inv) : AllSome State.Inv (st.finishRestore key) := by
  unfold State.finishRestore
  split
  · exact .some h
  extract_lets cl m st1 gid st2 st3 name st4 st5 qs st6 st7 st8 st9 st10
  have h2 : st2.Inv := .foldl h.raisePts fun _ _ hs => hs.putGroup
  have h5 : st5.Inv := .updCluster (.moveArrivals h2.updWg)
  have h6 : st6.Inv := .foldl h5 fun _ _ hs => hs
  have h7 : st7.Inv := .foldl h6 fun s e hs => by split <;> [exact hs.remoteAdd; exact hs]
  have h9 : st9.Inv := .foldl h7.updWg fun _ _ hs => hs.updGroup
  have h10 : st10.Inv := .foldl h9 fun _ _ hs => hs.refill
  exact .map (.foldl (.some h10) fun _ _ ho => .bind ho fun _ hs => .rewaitms hs) fun _ hs => hs.gbarCheck

theorem Ans.Inv.execRestoreHandlerComplete {ctx serial : Nat} {st : State} (h : st.Inv) : Ans.Inv (execRestoreHandlerComplete ctx serial st) := by
  unfold Machine.execRestoreHandlerComplete
  extract_lets _
  change State.Inv _
  split
  · exact .ite (.getD (.map (.finishRestore h) (fun _ ha => ha.retireWg)) h) h
  · exact h

theorem AllSome.restoreOne {st : State} {key : Nat} (h : st.Inv) : AllSome State.Inv (st.restoreOne key) := by
  unfold State.restoreOne
  split
  · exact .none
  · exact .firstSome fun _ => .restoreWg h

theorem State.Inv.resumeGo {st : State} {c : Nat} (h : st.Inv) : (st.resumeGo c).Inv := by
  unfold State.resumeGo
  extract_lets todo st1
  have h1 : st1.Inv := .foldl h fun _ _ hs => .ite (.getD (.foldl (.some hs) fun _ _ ho => .bind ho fun _ ht => .restoreOne ht) hs) hs
  exact .ite h1.updCtx h1

theorem State.Inv.resumeStart {st : State} {c : Nat} (h : st.Inv) : (st.resumeStart c).Inv :=
  h.updCtx

theorem Ans.Inv.execResume {st : State} (h : st.Inv) : Ans.Inv (execResume st) := by
  unfold Machine.execResume
  change State.Inv _
  split
  · exact h
  · refine .ite h ?_
    split
    · exact h.ctxDone
    · refine .ite (.ite h (.ite (.of_mem (.resumeGo h.resumeStart) rfl) h.ctxDone)) ?_
      split
      · exact h.resumeGo
      · exact h.ctxDone
      · exact h.ctxDone

/-! Parking (R73). -/

theorem Ans.Inv.execWorkgroupPark {ctx serial : Nat} {st : State} (h : st.Inv) : Ans.Inv (execWorkgroupPark ctx serial st) := by
  unfold Machine.execWorkgroupPark
  extract_lets _ _
  change State.Inv _
  split
  · exact h
  · refine .ite ?_ h
    split
    next e1 => exact .updWg (.of_some e1 (.bind (.sched h) (fun _ ha => .saveWg ha)))
    · exact h

theorem Ans.Inv.execWorkgroupUnpark {ctx serial : Nat} {st : State} (h : st.Inv) : Ans.Inv (execWorkgroupUnpark ctx serial st) := by
  unfold Machine.execWorkgroupUnpark
  extract_lets _
  change State.Inv _
  split
  · exact h
  · exact .ite (.getD (.restoreOne h) h) h

/-! DESTROY (R350). -/

theorem State.Inv.discardQueued {st : State} {c : Nat} (h : st.Inv) : (st.discardQueued c).Inv :=
  h

theorem State.Inv.dropHeld {st : State} {dom : Nat} (h : st.Inv) : (st.dropHeld dom).Inv :=
  .retryRedirs (.foldl (.foldl h (fun _ _ h1 => .delivered h1.dropped)) (fun _ _ h1 => h1.retryHeld))

theorem State.Inv.eraseCtx {st : State} {c : Nat} (h : st.Inv) : (st.eraseCtx c).Inv := by
  unfold State.eraseCtx
  extract_lets _ dom _ st1 st2 st3
  have h1 : st1.Inv := .foldl h (fun _ _ h1 => .updDir h1.giveUp)
  have h2 : st2.Inv := h1.closeTakes
  have h3 : st3.Inv := h2
  clear_value dom
  split
  · exact h3.dropHeld
  · exact h3

theorem Ans.Inv.execDestroy {st : State} (h : st.Inv) : Ans.Inv (execDestroy st) := by
  unfold Machine.execDestroy
  change State.Inv _
  split
  · exact h
  · refine .ite h ?_
    split
    · exact h.ctxDone
    · split
      · exact h
      · exact h
      · exact .ite h (.updCtx h.discardQueued)
      · exact .ite (.ctxDone h.eraseCtx) h
      · exact .updCtx h.discardQueued

theorem Ans.Inv.execOscount {st : State} (h : st.Inv) : Ans.Inv (execOscount st) := by
  unfold Machine.execOscount
  change State.Inv _
  split
  · exact h
  · exact .ite h (.ite h.ctxDone (.ctxDone h.setOverstated))

/-! The control space. -/

theorem State.Inv.updPort {st : State} {p : Nat} {f : Port → Port} (h : st.Inv) : (st.updPort p f).Inv :=
  h

/-! CTLSEM (R357). -/

theorem State.Inv.writeCas {st : State} {p v : Nat} (h : st.Inv) : (st.writeCas p v).Inv :=
  .ite (.ite h h) h

/-! Writes of registers with an effect of their own. -/

theorem State.Inv.writeReelctl {st : State} {v : Nat} (h : st.Inv) : (st.writeReelctl v).Inv := by
  unfold State.writeReelctl
  extract_lets _ _ _ _ st1
  have h1 : st1.Inv := .ite (.rebuilt h) h
  exact h1

theorem State.Inv.writeRsvctl {st : State} {v : Nat} (h : st.Inv) : (st.writeRsvctl v).Inv :=
  .ite h h

theorem State.Inv.writeCut {st : State} {i v : Nat} (h : st.Inv) : (st.writeCut i v).Inv :=
  .ite h h

theorem State.Inv.writeErrcls {st : State} {v : Nat} (h : st.Inv) : (st.writeErrcls v).Inv :=
  h

theorem State.Inv.writeWatch {st : State} {p reg v : Nat} (h : st.Inv) : (st.writeWatch p reg v).Inv := by
  unfold State.writeWatch
  extract_lets _
  split
  · exact h
  · exact .ite h.updCtx h.updCtx

/-! Power states, as LTOL decides them (R362). -/

theorem State.Inv.writeLtol {st : State} {p v : Nat} (h : st.Inv) : (st.writeLtol p v).Inv := by
  unfold State.writeLtol
  extract_lets st1
  have h1 : st1.Inv := h.updPort
  exact h1

theorem State.Inv.wakeAll {st : State} (h : st.Inv) : st.wakeAll.Inv :=
  h

/-! The register map (R363). -/

theorem State.Inv.regWrite {st : State} {p off v : Nat} (h : st.Inv) : (st.regWrite p off v).Inv := by
  unfold State.regWrite
  extract_lets v1 st1
  have h1 : st1.Inv := .ite h.wakeAll h
  exact .ite h1 (.ite h1.updPort (.ite h1 (.ite h1 (.ite h1 (.ite h1 (.ite h1.updPort (.ite (.ite h1 h1) (.ite (.ite h1 h1) h1))))))))

theorem State.Inv.anyWrite {st : State} {p token off v : Nat} (h : st.Inv) : (st.anyWrite p token off v).Inv := by
  unfold State.anyWrite
  refine .ite h (.ite h.writeCas (.ite h.writeLtol (.ite h.writeWatch (.ite h.writeWatch
    (.ite h.writeWatch (.ite h.writeReelctl (.ite h (.ite h.writeErrcls (.ite h.writeRsvctl ?_)))))))))
  split
  · exact h.writeCut
  · split
    · exact .ite h.updDie (.ite h.updDie h)
    · exact h.regWrite

/-! The management port (R368). -/

theorem State.Inv.mgmtSend {st : State} {src sport : Nat} {words : List Nat} (h : st.Inv) : (st.mgmtSend src sport words).Inv :=
  h

theorem State.Inv.mgmtApply {st : State} {src sport req : Nat} {f : State → Nat × List Nat × State} (h : st.Inv)
    (hf : ∀ t : State, t.Inv → (f t).2.2.Inv) :
    (st.mgmtApply src sport req f).Inv :=
  .mgmtSend (.of_mem (hf st h) rfl)

theorem State.Inv.mgmtServe {st : State} {src sport req : Nat} {f : State → Nat × List Nat × State} (h : st.Inv)
    (hf : ∀ (t : State), t.Inv → (f t).2.2.Inv) : (st.mgmtServe src sport req f).Inv := by
  unfold State.mgmtServe
  refine .ite h ?_
  extract_lets st1
  have h1 : st1.Inv := h
  split
  · exact .ite h1.mgmtSend (h1.mgmtApply hf)
  · exact h1.mgmtApply hf

theorem Ans.Inv.execMgmtRead {src sport len req : Nat} {st : State} (h : st.Inv) : Ans.Inv (execMgmtRead src sport len req st) := by
  unfold Machine.execMgmtRead
  refine State.Inv.ite h (h.mgmtServe (fun _ h1 => ?_))
  extract_lets _
  split
  · exact h1
  · exact h1

theorem Ans.Inv.execMgmtWrite {src sport len req : Nat} {st : State} (h : st.Inv) : Ans.Inv (execMgmtWrite src sport len req st) := by
  unfold Machine.execMgmtWrite
  refine State.Inv.ite h (h.mgmtServe (fun _ h1 => ?_))
  extract_lets _ _
  split
  · exact h1
  · split
    · exact h1
    · split
      · exact h1
      · exact h1.anyWrite

theorem Ans.Inv.execMgmtBlockRead {src sport len req : Nat} {st : State} (h : st.Inv) : Ans.Inv (execMgmtBlockRead src sport len req st) := by
  unfold Machine.execMgmtBlockRead
  refine State.Inv.ite h (h.mgmtServe (fun _ h1 => ?_))
  extract_lets _
  split
  · exact h1
  · exact h1

/-! The command queue (R364). -/

theorem State.Inv.ctlDone {st : State} {c : Cmd} {code : Nat} (h : st.Inv) : (st.ctlDone c code).Inv :=
  .updPort h

theorem State.Inv.ctlOpAt {st : State} {op : Nat} {sem : Bool} {f : Cmd → State} (h : st.Inv) (hf : ∀ x, (f x).Inv) : (st.ctlOpAt op sem f).Inv := by
  unfold State.ctlOpAt
  split
  · exact h
  · exact .ite h (.ite h.ctlDone (hf _))

theorem State.Inv.ctlPhase {st : State} {c : Cmd} (h : st.Inv) : (st.ctlPhase c).Inv :=
  h

/-! Reset and modes (R26, R345). -/

theorem State.Inv.boot {st : State} (h : st.Inv) : st.boot.Inv := by
  unfold State.boot
  extract_lets _
  split
  · exact h
  · refine .ite ?_ h
    extract_lets _ st1
    have h1 : st1.Inv := h
    split
    · exact h1
    · exact h1

/-- A module reset keeps the part of memory that outlives it, a filter of the whole. -/
theorem State.Inv.moduleReset {st : State} (h : st.Inv) : st.moduleReset.Inv :=
  .boot (Memory.wf_filter _ _ h)

theorem Ans.Inv.execReset {st : State} (h : st.Inv) : Ans.Inv (execReset st) := by
  unfold Machine.execReset
  change State.Inv _
  split
  · exact h
  · exact .ite h.ctlDone (h.ctlOpAt (fun _ => .ite h.ctlDone h.moduleReset))

/-! Freezing (R441, R443). -/

theorem State.Inv.freeze {st : State} (h : st.Inv) : st.freeze.Inv :=
  .ite (.of_mem (.foldl h (fun _ _ h1 => h1.closeTakes)) rfl) h

theorem State.Inv.repState {st : State} {c state rid tidx code : Nat} (h : st.Inv) : (st.repState c state rid tidx code).Inv := by
  unfold State.repState
  split
  · exact h
  · exact .updPort h.updCtx

theorem State.Inv.thaw {st : State} (h : st.Inv) : st.thaw.Inv :=
  .of_mem (.foldl h (fun _ _ h1 => .ite h1.repState h1)) rfl

/-! ATTEST (R361, R366). -/

theorem Ans.Inv.execAttest {st : State} (h : st.Inv) : Ans.Inv (execAttest st) := by
  unfold Machine.execAttest
  refine h.ctlOpAt (fun _ => .ite h.ctlDone ?_)
  split
  · refine .ite h.ctlDone ?_
    split
    next e1 => exact .getD (.map (.hostPut (.of_snd e1 h.freeValue)) (fun _ ha => ha.ctlDone)) (.of_snd e1 h.freeValue)

/-! Domains and peers (R216, R231, R365, R367). -/

theorem Ans.Inv.execDomset {st : State} (h : st.Inv) : Ans.Inv (execDomset st) := by
  unfold Machine.execDomset
  refine h.ctlOpAt (fun _ => .ite h.ctlDone ?_)
  split
  · exact .ctlDone h
  · exact h.ctlDone

/-! Units (R15, R415, R416). -/

theorem Ans.Inv.execUnitret {st : State} (h : st.Inv) : Ans.Inv (execUnitret st) := by
  unfold Machine.execUnitret
  refine h.ctlOpAt (fun _ => .ite h.ctlDone ?_)
  split
  · exact h.ctlDone
  · exact .ite h.ctlDone (.ite (.ctlPhase h) (.ctlDone h))

theorem Ans.Inv.execUnitrst {pass : Bool} {st : State} (h : st.Inv) : Ans.Inv (execUnitrst pass st) := by
  unfold Machine.execUnitrst
  refine h.ctlOpAt (fun _ => .ite h.ctlDone ?_)
  split
  · exact h.ctlDone
  · exact .ite h.ctlDone (.ite h.ctlDone (.ctlDone h))

/-! A context's fault without a group of its own (R412). -/

theorem State.Inv.faultCtx {st : State} {c die loc c1 c2 info : Nat} (h : st.Inv) : (st.faultCtx c die loc c1 c2 info).Inv := by
  unfold State.faultCtx
  extract_lets st1
  have h1 : st1.Inv := .updCtx h.discardQueued
  exact .faultRec h1

/-! The sequence of a lost die (R416, R417). -/

theorem State.Inv.loseDie {st : State} {die : Nat} (h : st.Inv) : (st.loseDie die).Inv :=
  .ite h.updDie (.ite h.updDie h)

theorem State.Inv.failHeld {st : State} {die : Nat} (h : st.Inv) : (st.failHeld die).Inv :=
  .foldl h (fun _ _ h1 => .foldl h1 (fun _ _ h2 => .defer h2.updGroup))

theorem State.Inv.failWaits {st : State} {die : Nat} (h : st.Inv) : (st.failWaits die).Inv :=
  .foldl h (fun _ _ h1 => .foldl h1 (fun _ _ h2 => h2.waiterTrap))

theorem State.Inv.breakGrid {st : State} {gk die : Nat} (h : st.Inv) : (st.breakGrid gk die).Inv := by
  unfold State.breakGrid
  split
  · exact h
  · refine .ite h ?_
    extract_lets st1 _ _ _ st2 _ _ st3 _
    have h1 : st1.Inv := .faultRec h.updGrid
    have h2 : st2.Inv := .foldl h1 (fun _ _ h2 => .foldl h2 (fun _ _ h3 => h3.waiterTrap))
    have h3 : st3.Inv := .foldl h2 (fun _ _ h3 => h3.updWg)
    split
    · exact h3
    · exact .updWg (.foldl h3 (fun _ _ h4 => .foldl h4 (fun _ _ h5 => h5.waiterTrap)))

theorem State.Inv.loseWgs {st : State} {die : Nat} (h : st.Inv) : (st.loseWgs die).Inv :=
  .foldl (.foldl h (fun _ _ h1 => h1.breakGrid)) (fun _ _ h1 => h1.faultCtx)

theorem State.Inv.fence {st : State} {die : Nat} {lost : List Nat} (h : st.Inv) : (st.fence die lost).Inv := by
  unfold State.fence
  extract_lets dirty st1 held st2 st3 st4
  have h1 : st1.Inv := .foldl h fun _ _ hs => hs.poisonCached
  have h2 : st2.Inv := .foldl h1 fun _ _ hs => hs.updDir
  have h3 : st3.Inv := .updDie h2
  have h4 : st4.Inv := .loseWgs (.failWaits h3.failHeld)
  exact .ite (.foldl h4 fun _ _ hs => hs.faultCtx) h4

/-! Errors (R413 to R415). -/

theorem State.Inv.retire {st : State} {e : ErrAt} (h : st.Inv) : (st.retire e).Inv := by
  unfold State.retire
  split
  · exact .ite h (.ite h h)
  · exact .ite h h
  · exact .ite (.foldl h (fun _ _ h1 => .updDir h1.giveUp)) (.of_mem (.foldl h (fun _ _ h1 => .updDir h1.giveUp)) rfl)
  · exact h
  · exact .ite h h
  · exact .ite h h
  · exact h
  · extract_lets _ st1
    have h1 : st1.Inv := h.updCore
    exact .ite h1 h1
  · extract_lets _ st1
    have h1 : st1.Inv := h.updCore
    exact .ite h1 h1
  · exact h
  · exact h

theorem State.Inv.countError {st : State} {e : ErrAt} (h : st.Inv) : (st.countError e).Inv :=
  .ite (.retire h) h

theorem State.Inv.haltSlot {st : State} {port slot : Nat} (h : st.Inv) : (st.haltSlot port slot).Inv := by
  unfold State.haltSlot
  extract_lets st1
  have h1 : st1.Inv := h.updWeir
  split
  · exact .ite (.getD (.endWeir h1) h1) h1
  · exact h1

theorem State.Inv.spoil {st : State} {e : ErrAt} (h : st.Inv) : (st.spoil e).Inv := by
  unfold State.spoil
  split
  · exact h.poison
  · exact h.poisonCached
  · exact .ite (.foldl h.poison (fun _ _ h1 => h1.haltSlot)) h.poison
  · exact h.updGroup
  · exact h.updGroup
  · exact h.updCore
  · exact h.updCore
  · exact h
  · exact h.loseDie
  · exact h

theorem Ans.Inv.execEccEvent {kind x y z : Nat} {uncorrected : Bool} {st : State} (h : st.Inv) :
    Ans.Inv (execEccEvent kind x y z uncorrected st) := by
  unfold Machine.execEccEvent
  change State.Inv _
  split
  · exact h
  · exact .countError (.ite h.spoil h)

theorem State.Inv.retireFree {st : State} (h : st.Inv) : st.retireFree.Inv :=
  h

/-! Age (R421). -/

theorem Ans.Inv.execTakeAgeExpiry {ctx rid : Nat} {st : State} (h : st.Inv) : Ans.Inv (execTakeAgeExpiry ctx rid st) := by
  unfold Machine.execTakeAgeExpiry
  change State.Inv _
  split
  · exact h
  · exact .ite h.closeTake h

/-! Placing (R429 to R431). -/

theorem AllSome.placeBytes {st : State} {dev rid n len v : Nat} (h : st.Inv) : AllSome State.Inv (st.placeBytes dev rid n len v) :=
  .map_all (fun _ => .updReel h.hostWrite)

theorem State.Inv.padTake {st : State} {n : Nat} (h : st.Inv) : (st.padTake n).1.Inv := by
  unfold State.padTake
  split
  next e => exact .of_snd e h.freeValue

theorem AllSome.padEnd {st : State} {dev n : Nat} (h : st.Inv) : AllSome State.Inv (st.padEnd dev n) :=
  .ite (.placeBytes h.padTake) (.some h)

theorem State.Inv.putReel {st : State} {dev rid len v : Nat} (h : st.Inv) : (st.putReel dev rid len v).1.Inv := by
  unfold State.putReel
  extract_lets _
  split
  · exact h
  next e =>
    have h1 : State.Inv _ := State.Inv.of_some e (.padEnd h)
    split
    · exact h1
    next e1 => exact .of_some e1 (.placeBytes h1)

theorem State.Inv.placeNext {st : State} {dev : Nat} (h : st.Inv) : (st.placeNext dev).Inv := by
  unfold State.placeNext
  split
  · exact h
  · split
    next e1 => exact .of_mem (.of_fst e1 h.putReel) rfl
    next e1 => exact .of_fst e1 h.putReel

/-! The drain (R432). -/

theorem State.Inv.ringWrite {st : State} {dev src k n : Nat} (h : st.Inv) : (st.ringWrite dev src k n).Inv := by
  induction n generalizing st src k with
  | zero => exact h
  | succ m ih => exact ih (.ite h.writeAll h.hostStore)

theorem Ans.Inv.execDrainCopy {st : State} (h : st.Inv) : Ans.Inv (execDrainCopy st) := by
  unfold Machine.execDrainCopy
  change State.Inv _
  split
  · exact h
  · extract_lets st1
    have h1 : st1.Inv := .ringWrite h
    exact .ite h (.updReel h1)

/-! REPSTAT (R435). -/

theorem State.Inv.repDone {st : State} {c : Cmd} {w : Word} (h : st.Inv) : (st.repDone c w).Inv :=
  .updPort h

theorem State.Inv.repCode {st : State} {c : Cmd} {code : Nat} (h : st.Inv) : (st.repCode c code).Inv :=
  h.repDone

theorem State.Inv.repStop {st : State} {c state rid tidx code : Nat} (h : st.Inv) : (st.repStop c state rid tidx code).Inv :=
  .freeze h.repState

theorem State.Inv.repAt {st : State} {op : Nat} {f : Cmd → State} (h : st.Inv) (hf : ∀ x, (f x).Inv) : (st.repAt op f).Inv := by
  unfold State.repAt
  split
  · exact h
  · exact .ite (hf _) h

/-! ARM (R436). -/

theorem State.Inv.loadWeirs {st : State} {c : Nat} (h : st.Inv) : (st.loadWeirs c).Inv := by
  unfold State.loadWeirs
  split
  · exact h
  · exact .foldl h (fun _ _ h1 => .writeAll h1.updWeir)

theorem State.Inv.zeroGrants {st : State} {c : Nat} (h : st.Inv) : (st.zeroGrants c).Inv :=
  h

theorem State.Inv.setTimes {st : State} {c : Nat} {slate : ReelTake} (h : st.Inv) : (st.setTimes c slate).Inv :=
  .foldl h (fun _ _ h1 => h1.updDie)

theorem Ans.Inv.execArm {st : State} (h : st.Inv) : Ans.Inv (execArm st) := by
  unfold Machine.execArm
  change State.Inv _
  split
  · exact h
  · refine .ite h.repCode (h.repAt (fun _ => ?_))
    extract_lets _ _ _
    split
    · exact h.repCode
    · refine .ite h.repCode ?_
      extract_lets _ _ _
      split
      · exact .repStop (.repDone h.updCtx)
      · refine .ite (.repStop (.repDone h.updCtx)) ?_
        extract_lets _ _ _ st1
        have h1 : st1.Inv := .zeroGrants (.loadWeirs (.setTimes h.closeTakes))
        split
        · exact .repStop (.repDone h.updCtx)
        · exact .repState (.repDone h1.updCtx)

/-! GO, STOP and THAW (R435, R436, R441). -/

theorem Ans.Inv.execGo {st : State} (h : st.Inv) : Ans.Inv (execGo st) := by
  unfold Machine.execGo
  refine h.repAt (fun _ => ?_)
  split
  · exact h.repCode
  · exact .ite (.ite (.of_mem (.resumeGo (.repState (.resumeStart h.updCtx))) rfl) h.repCode) (.ite h.resumeGo h.repDone)

/-! Cut points (R439). -/

theorem State.Inv.freezePod {st : State} {c : Nat} (h : st.Inv) : (st.freezePod c).Inv := by
  unfold State.freezePod
  split
  · exact h
  · exact .foldl h (fun _ _ h1 => h1.hubSend)

theorem State.Inv.cutAct {st : State} {c rid i : Nat} {k : Cut} (h : st.Inv) : (st.cutAct c rid i k).Inv :=
  .ite h.postTrap (.repStop (.ite h.freezePod h))

theorem State.Inv.beginTake {st : State} {c rid tidx : Nat} (h : st.Inv) : (st.beginTake c rid tidx).Inv :=
  h.updCtx

/-! Divergence and the log's end (R436, R438). -/

theorem Ans.Inv.execReplayDivergence {c rid i : Nat} {st : State} (h : st.Inv) : Ans.Inv (execReplayDivergence c rid i st) := by
  unfold Machine.execReplayDivergence
  change State.Inv _
  split
  · exact h
  · extract_lets _
    split
    · exact h
    · exact .ite h.repStop h

theorem State.Inv.replaySwitch {st : State} {c : Nat} (h : st.Inv) : (st.replaySwitch c).Inv := by
  unfold State.replaySwitch
  extract_lets _ _
  split
  · exact .ite h.preemptGo h
  · exact h.preemptGo
  · exact .resumeGo h.resumeStart
  · exact h.resumeGo
  · exact h

theorem Ans.Inv.execReplayEndOfLog {c : Nat} {st : State} (h : st.Inv) : Ans.Inv (execReplayEndOfLog c st) := by
  unfold Machine.execReplayEndOfLog
  change State.Inv _
  split
  · exact h
  · refine .ite h (.ite h.updCtx ?_)
    split
    · exact h.repStop
    · exact .ite h.repStop h.replaySwitch

/-! The BPM (R456). -/

theorem State.Inv.bpmWrite {st : State} {off n v : Nat} (h : st.Inv) : (st.bpmWrite off n v).Inv :=
  h.writeAll

/-! The digest directory (R461). -/

theorem State.Inv.entryPut {st : State} {a v : Nat} (h : st.Inv) : (st.entryPut a v).Inv :=
  .getD (.hostPut h) h.hostWrite

theorem State.Inv.probe {fuel : Nat} {st : State} {self digest ofs epoch dirpa dirlog2 i : Nat} (h : st.Inv) :
    (st.probe fuel self digest ofs epoch dirpa dirlog2 i).1.Inv := by
  induction fuel generalizing i with
  | zero => exact h
  | succ f ih =>
    unfold State.probe
    extract_lets a e
    split
    · exact h.entryPut
    · split
      · exact h
      · exact ih

theorem State.Inv.claimHere {st : State} {self digest ofs epoch dirpa dirlog2 : Nat} (h : st.Inv) :
    (st.claimHere self digest ofs epoch dirpa dirlog2).1.Inv :=
  h.probe

theorem State.Inv.releaseHere {st : State} {self digest epoch dirpa dirlog2 : Nat} (h : st.Inv) :
    (st.releaseHere self digest epoch dirpa dirlog2).Inv := by
  unfold State.releaseHere
  split
  · exact .ite h.entryPut h
  · exact h

/-! Hub traffic: SYS packets (KIND 4), whose payload's layout is the model's own (log entry 22). -/

theorem State.Inv.sysSend {st : State} {dst op daddr len pay : Nat} (h : st.Inv) : (st.sysSend dst op daddr len pay).Inv :=
  h.hubSend

theorem State.Inv.sysBytes {fuel : Nat} {st : State} {dst op ofs n v : Nat} (h : st.Inv) : (st.sysBytes fuel dst op ofs n v).Inv := by
  induction fuel generalizing st ofs n v with
  | zero => exact h
  | succ f ih => exact .ite h (ih h.sysSend)

theorem Ans.Inv.execDigestClaim {src digest ofs epoch dirpa dirlog2 : Nat} {st : State} (h : st.Inv) :
    Ans.Inv (execDigestClaim src digest ofs epoch dirpa dirlog2 st) := by
  unfold Machine.execDigestClaim
  refine State.Inv.ite h ?_
  extract_lets r
  have h1 : r.1.Inv := h.claimHere
  split
  · exact h1.sysSend
  · exact h1.sysSend
  · exact h1.sysSend

theorem Ans.Inv.execShardFetch {src digest epoch ofs : Nat} {st : State} (h : st.Inv) : Ans.Inv (execShardFetch src digest epoch ofs st) := by
  unfold Machine.execShardFetch
  refine State.Inv.ite h ?_
  split
  · exact h.sysBytes
  · exact h.sysBytes

/-! A checkpoint's steps (R434, R460, R461). -/

theorem State.Inv.flushLines {st : State} {c : Nat} {drop : Bool} (h : st.Inv) : (st.flushLines c drop).Inv :=
  .ite (.foldl (.foldl h (fun _ _ h1 => .foldl h1 (fun _ _ h2 => .ite h2.giveUp h2))) (fun _ _ h1 => h1.updDir)) h

theorem State.Inv.ckEntries {st : State} {k : Ckpt} (h : st.Inv) : (st.ckEntries k).1.Inv := by
  have key : ∀ n (im : FMap AreaImage), State.Inv { st with free := n, images := im } := fun _ _ => h
  exact key _ _

theorem State.Inv.ckStop {st : State} {m : Cmd} {k : Ckpt} {slate : Bool} (h : st.Inv) : (st.ckStop m k slate).1.Inv := by
  unfold State.ckStop
  split
  · extract_lets st1 r _
    have h1 : st1.Inv := .ite (.flushLines h.closeTakes) h.flushLines
    have h2 : r.1.Inv := h1.ckEntries
    split
    · exact h
    · split
      · exact h1
      · exact h2
  · exact h.preemptGo
  · exact h.preemptGo
  · exact h
  · exact h

theorem State.Inv.ckWrite {st : State} {k : Ckpt} {i v digest : Nat} {won : Bool} (h : st.Inv) : (st.ckWrite k i v digest won).1.Inv := by
  unfold State.ckWrite
  extract_lets st1 _ _
  have h1 : st1.Inv := h.bpmWrite
  split
  · exact h1.releaseHere
  · split
    · exact h1.sysSend
    · exact h1

theorem State.Inv.ckClaimed {st : State} {k : Ckpt} {i v digest : Nat} {r : Claim} (h : st.Inv) : (st.ckClaimed k i v digest r).1.Inv := by
  unfold State.ckClaimed
  split
  · exact h.ckWrite
  · exact h.ckWrite
  · extract_lets _
    split
    · exact h.ckWrite
    · exact h

theorem State.Inv.ckShard {st : State} {m : Cmd} {k : Ckpt} {res owner ofs : Nat} (h : st.Inv) : (st.ckShard m k res owner ofs).1.Inv := by
  unfold State.ckShard
  split
  · exact h
  · extract_lets _ _ _ _ _ r
    have h1 : r.1.Inv := h.claimHere
    split
    · split
      · exact h
      · exact h
    · split
      · exact h
      · split
        · exact h.ckWrite
        · split
          · exact h1.ckClaimed
          · split
            · exact h
            · split
              · exact h.sysSend
              · split
                · exact h.ckClaimed
                · exact h

theorem State.Inv.ckAwait {st : State} {k : Ckpt} {i res ofs : Nat} {e : CkEntry} (h : st.Inv) : (st.ckAwait k i res ofs e).1.Inv := by
  unfold State.ckAwait
  extract_lets _ r _
  have h1 : r.1.Inv := h.ckWrite
  split
  · exact h1
  · split
    · exact h
    · exact h

theorem State.Inv.ckSeal {st : State} {k : Ckpt} (h : st.Inv) : (st.ckSeal k).1.Inv := by
  unfold State.ckSeal
  split
  next e => exact .updCtx (.of_mem (.bpmWrite (.of_snd e h.freeValue)) rfl)

theorem State.Inv.ckClaims {st : State} {m : Cmd} {k : Ckpt} {res ofs : Nat} (h : st.Inv) : (st.ckClaims m k res ofs).1.Inv := by
  unfold State.ckClaims
  extract_lets _ r r1
  have h1 : r.1.Inv := .foldl_fst h (fun _ _ h1 => h1.ckAwait)
  have h2 : r1.1.Inv := h1.ckSeal
  split
  · exact h2
  · exact h1

theorem State.Inv.ckResume {st : State} {k : Ckpt} (h : st.Inv) : (st.ckResume k).1.Inv := by
  unfold State.ckResume
  split
  · exact h
  · split
    · exact .resumeGo h.resumeStart
    · exact h.resumeGo
    · exact h.preemptGo
    · exact h

theorem State.Inv.ckMirror {st : State} {m : Cmd} {k : Ckpt} {res : Nat} (h : st.Inv) : (st.ckMirror m k res).1.Inv := by
  unfold State.ckMirror
  extract_lets r _ st1
  have h1 : r.1.Inv := h.ckResume
  have h2 : st1.Inv := h1
  split
  · exact h2
  · split
    · exact h2
    · split
      · exact h2
      · split
        · exact h2.sysBytes
        · split
          · exact h2
          · exact h2

theorem State.Inv.ckReport {st : State} {m : Cmd} (h : st.Inv) : (st.ckReport m).Inv := by
  unfold State.ckReport
  split
  · exact h
  · exact h.updPort

theorem State.Inv.ckDone {st : State} {m : Cmd} {code : Nat} (h : st.Inv) : (st.ckDone m code).Inv :=
  .updPort h

theorem State.Inv.ckPut {st : State} {m : Cmd} (h : st.Inv) : (st.ckPut m).Inv :=
  .ckReport h

theorem Ans.Inv.execCheckpoint {res owner ofs : Nat} {st : State} (h : st.Inv) : Ans.Inv (execCheckpoint res owner ofs st) := by
  unfold Machine.execCheckpoint
  change State.Inv _
  split
  · exact h
  · refine .ite h.ckDone (.ite h ?_)
    split
    · refine .ite h.ckDone ?_
      split
      · exact h.ckDone
      · exact .ite h (.ite h.ckDone (.ite (.ckDone h.freeValue) (.ite h.ckDone h.ckPut)))
    · exact .ckPut h.ckStop
    · exact .ckPut h.ckShard
    · exact .ckPut h.ckClaims
    · exact .ite (.ckDone h.ckMirror) (.ckPut h.ckMirror)
    · exact .ite (.ckDone h.ckResume) h.ckResume
    · exact h.ckDone

/-! SLATE (R433, R434). -/

theorem State.Inv.openEpoch {st : State} {k : Ckpt} (h : st.Inv) : (st.openEpoch k).Inv :=
  .updCtx (.zeroGrants h)

theorem Ans.Inv.execSlate {res owner ofs : Nat} {st : State} (h : st.Inv) : Ans.Inv (execSlate res owner ofs st) := by
  unfold Machine.execSlate
  refine h.ctlOpAt (fun _ => ?_)
  extract_lets _ _ _
  split
  · refine .ite h.ctlDone (.ite h.ctlDone ?_)
    split
    · exact h.ctlDone
    · exact .ite h.ctlDone (.ite h (.ite h.ctlDone h.ctlPhase))
  · exact .ctlPhase h.ckStop
  · exact .ctlPhase h.ckShard
  · extract_lets r
    have h1 : r.1.Inv := h.ckClaims
    split
    · exact .ctlPhase h1.openEpoch
    · exact h1.ctlPhase
  · exact .ite h h.ctlPhase
  · exact .ite (.ctlDone h.ckResume) h.ckResume
  · exact h.ctlDone

theorem Ans.Inv.execClaimReplyTimeout {st : State} (h : st.Inv) : Ans.Inv (execClaimReplyTimeout st) := by
  unfold Machine.execClaimReplyTimeout
  extract_lets _ _
  change State.Inv _
  split
  · refine .ite h.ckPut ?_
    split
    · exact .ite h.ctlPhase h
    · exact h
  · exact .ite h.ctlPhase h
  · exact h

/-! RESTORE (R464). -/

theorem State.Inv.install {st : State} {c digest epoch : Nat} {a : AreaImage} (h : st.Inv) : (st.install c digest epoch a).Inv :=
  .updCtx h

theorem State.Inv.putPage {st : State} {c page v : Nat} (h : st.Inv) : (st.putPage c page v).Inv := by
  unfold State.putPage
  split
  · exact .foldl h (fun _ _ h1 => h1.writeAll)
  · exact h

theorem State.Inv.putShard {st : State} {c shard v : Nat} (h : st.Inv) : (st.putShard c shard v).Inv :=
  .foldl h (fun _ _ h1 => h1.putPage)

theorem State.Inv.putShards {st : State} {c : Nat} {es : List (CkEntry × Nat)} (h : st.Inv) : (st.putShards c es).Inv :=
  .foldl h (fun _ _ h1 => h1.putShard)

theorem State.Inv.zeroRest {st : State} {c : Nat} {es : List (CkEntry × Nat)} (h : st.Inv) : (st.zeroRest c es).Inv :=
  .foldl h (fun _ _ h1 => h1.putShard)

theorem Ans.Inv.execRestore {man : Nat} {data : List Nat} {st : State} (h : st.Inv) : Ans.Inv (execRestore man data st) := by
  unfold Machine.execRestore
  change State.Inv _
  split
  · exact h
  · refine .ite h ?_
    split
    · exact h.ckDone
    · refine .ite h.ckDone (.ite h.ckDone (.ite (.ckDone h.putShards) ?_))
      split
      · exact .ckDone h.putShards
      · exact .ckDone (.install (.zeroRest h.putShards))

/-! What one instruction or machine operation does. -/

/-- Each instruction and each machine operation keeps the form. Where an operation's definition is one call of a shared operation, its case names that
one. -/
theorem Ans.Inv.exec {i : Instr} {st : State} (h : st.Inv) : Ans.Inv (exec i st) := by
  unfold Machine.exec
  cases i with
  | nop | yield | trap | bkpt => exact .issueC h (fun _ _ _ h1 => h1)
  | bra | brc => exact .issueC h (fun _ _ _ h1 => .branch h1)
  | brd => exact .execBrd h
  | jmpi => exact .execJmpi h
  | call => exact .execCall h
  | ret => exact .execRet h
  | modei | moder | add | sub | mul | mulh | min | max | and | or | xor | andn | shl | shr | rot | addc | subb | absd | neg | abs | not | clz | ctz
    | popc | brev | mad | bfe | bfi | addi | shi | cmp | sel | pand | por | pxor | pnot | pmov | pset | pget | mov | bcst | vtos | stov | fadd | fsub
    | fmul | fmin | fmax | fcpys | fabs | fneg | frnd | fclass | fma | fms | fnma | fnms | frcp | frsq | fsqrt | fexp2 | flog2 | fsin | fcos | ftanh
    | fdiv | cvt | cvts | pack | unpk | qnt | dqnt | sadd | ssub | smul | smulh | smin | smax | sand | sor | sxor | sandn | sshl | sshr | srot
    | saddi | xchx | xchu | xchd | xchxk | xchuk | xchdk | xchi | xbc | voteAny | voteAll | voteEq | voteBallot | voteElect | voteMatch | redu | scan
    | cpt | tfree => exact .groupOp h
  | bar => exact .execBar h
  | syncs => exact .execSyncs h
  | gbar => exact .issueC h (fun _ _ _ h1 => .ite h1 (.ite h1 (.ite (.brokenWait h1.waitAs) (.gbarCheck (.updGrid h1.waitAs)))))
  | waitc => exact .execWaitc h
  | waitm => exact .execWaitm h
  | sleep => exact .issueC h (fun _ _ _ h1 => h1.waitAs)
  | launch => exact .execLaunch h
  | joinc => exact .issueC h (fun _ _ _ h1 => .ite (.ite h1.goto (State.Inv.ite (.brokenWait h1.waitAs) h1.waitAs))
    (.ite (State.Inv.ite (.brokenWait h1.waitAs) h1.waitAs) h1.goto))
  | exit => exact .issueC h (fun _ _ _ h1 => .notInHandler h1 (.settle (.gbarCheck (.barCheck (.ite (.computeEnd h1.putGroup) h1.putGroup)))))
  | tret => exact .execTret h
  | gets => exact .execGets h
  | puts => exact .execPuts h
  | clockCycle | clockHubcyc | clockPtpns => exact .clockRead h
  | gset => exact .execGset h
  | lit | slit => exact .groupOp h
  | tbind => exact .execTbind h
  | tzero => exact .issueC h (fun _ _ _ h1 => .withTile h1 (fun _ => .withWindow h1 (fun _ => .postAll h1)))
  | tzeroAll => exact .issueC h (fun _ _ _ h1 => .withTile h1 (fun _ => .postAll h1))
  | mma | mmak | mmat | mmas => exact .issueC h (fun _ _ _ h1 => .ite h1 (.mulIssue h1))
  | trdRow | trdCol => exact .trdIssue h
  | twrRow | twrCol => exact .twrIssue h
  | tmove | tmoveAdd => exact .tmoveIssue h
  | twait | twaitAll => exact .twaitIssue h
  | anop | aloop | ajmpi | aaddi | ali | alim | alit | aliq | setd => exact .accessOp h
  | abr | abeq | abne | ablt | abge | abltn | abgen => exact .abranch h
  | aend => exact .issueA h (fun _ _ h1 => .settle h1.putGroup)
  | aadd | asub | amul | amulh | aand | aor | axor | ashl | ashr | asra | amin | amax | aminn | amaxn => exact .aop h
  | apop | apopK => exact .apop h
  | apush => exact .issueA h (fun _ _ h1 => .ite h1 (.ite h1 h1.putGroup))
  | rtick => exact .issueA h (fun _ _ h1 => .ite h1.updWg h1)
  | agets => exact .execAgets h
  | vdefGlob => exact .execVdefGlob h
  | vdefCore => exact .issueA h (fun _ _ h1 => .ite h1 (.ite h1 (.ite h1 (.startVdef h1))))
  | vset => exact .execVset h
  | vget | fence | xfence => exact .issueA h (fun _ _ h1 => h1.putGroup)
  | ldt => exact .issueA h (fun _ _ h1 => .tileLoad h1)
  | ldg => exact .execLdg h
  | lda | sta => exact .issueA h (fun _ _ h1 => .viaView h1 (fun _ _ _ => .issueMem h1))
  | ldp => exact .execLdp h
  | stt => exact .execStt h
  | stg => exact .execStg h
  | pref => exact .execPref h
  | atom => exact .execAtom h
  | atoma => exact .execAtoma h
  | cpy | hand => exact .issueA h (fun _ _ h1 => .copyIssue h1)
  | xfer | xmc => exact .issueA h (fun _ _ h1 => .xferIssue h1)
  | ctrset | ctrsetT => exact .counterOp h (fun _ _ _ h1 => h1.writeAll)
  | ctradd => exact .counterOp h (fun _ _ _ h1 => h1.addCounter)
  | ctrget | ctrgetT => exact .counterGet h
  | awaitc | awaitcT => exact .awaitCounter h
  | wadd | waddI | wsub | wsubI | wmul | wmulI | wand | wandI | wor | worI | wxor | wxorI | wshl | wshlI | wshr | wshrI | wmin | wminI | wmax | wmaxI
    | wcmp | wsel | wmovW | wmovX | wmovWx | wmovXl | wmovWl | wli | wliH | whdr | whdrW | wldp | wldpX | wstp | wstpX => exact .weirReg h
  | wseth => exact .execWseth h
  | wldf | whashLk => exact .weirOp h (fun _ _ _ _ h1 => h1.flowAt (fun _ => h1))
  | wstf | watf => exact .weirOp h (fun _ _ _ _ h1 => h1.flowAt (fun _ => h1.writeAll))
  | whash | wrep | wbr | wbrCc | wfwd | wdrop | wend => exact .weirOp h (fun _ _ _ _ h1 => h1)
  | wdup => exact .execWdup h
  | wtrap => exact .weirOp h (fun _ _ _ _ h1 => h1.eventRecord)
  | moduleReset => exact h.moduleReset
  | create => exact .execCreate h
  | destroy => exact .execDestroy h
  | preempt => exact .execPreempt h
  | resume => exact .execResume h
  | oscount => exact .execOscount h
  | ctlcas => exact State.Inv.ite h.writeCas h
  | ctlsemLeaseExpiry | ptpMasterTimeout | powerWake | fabricLinkFailure => exact State.Inv.ite h h
  | reset => exact .execReset h
  | modeset => exact h.ctlOpAt (fun _ => .ite h.ctlDone (.ite h.ctlDone (.ctlDone (.rebuilt h))))
  | fwupdate => exact h.ctlOpAt (fun _ => .ite h.ctlDone (.ite (.ctlDone h) h.ctlDone))
  | slate => exact .execSlate h
  | freeze => exact h.ctlOpAt (fun _ => .ite h.ctlDone (.ite h.ctlDone (.ctlDone h.freeze)))
  | thaw => exact h.ctlOpAt (fun _ => .ite h.ctlDone (.ite h.ctlDone (.ctlDone h.thaw)))
  | attest => exact .execAttest h
  | domset => exact .execDomset h
  | domclr => exact h.ctlOpAt (fun _ => .ite h.ctlDone (.ite h.ctlDone (.ite h.ctlDone (.ctlDone h))))
  | peerset => exact h.ctlOpAt (fun _ => .ite h.ctlDone (.ctlDone h.setDead))
  | peerclr | peertmo => exact h.ctlOpAt (fun _ => .ite h.ctlDone (.ctlDone h))
  | devno => exact h.ctlOpAt (fun _ => .ite h.ctlDone (.ite h.ctlDone (.ctlDone h)))
  | unitret => exact .execUnitret h
  | unitrst => exact .execUnitrst h
  | dierst => exact h.ctlOpAt (fun _ => .ite h.ctlDone (.ite h.ctlDone (.ite h.ctlDone (.ctlDone (.updDie (.scramble h))))))
  | load => exact .execLoad h
  | unload => exact h.weirCmd (fun _ _ _ _ _ h1 => .some h1.updWeir)
  | flowrd => exact h.weirCmd (fun _ _ _ _ _ h1 => .hostPut h1)
  | flowwr => exact h.weirCmd (fun _ _ _ _ _ h1 => .map (.hostGet h1) (fun _ ha => ha.writeAll))
  | checkpoint => exact .execCheckpoint h
  | restore => exact .execRestore h
  | arm => exact .execArm h
  | go => exact .execGo h
  | stop => exact h.repAt (fun _ => .ite (.repStop h.repDone) h.repCode)
  | replayThaw => exact h.repAt (fun _ => .ite (.thaw (.repState h.repDone)) h.repCode)
  | reelctlWrite => exact State.Inv.ite h.writeReelctl h
  | rsvctlWrite => exact State.Inv.ite h.writeRsvctl h
  | cutWrite => exact State.Inv.ite h.writeCut h
  | errclsWrite => exact State.Inv.ite h.writeErrcls h
  | watchFilterWrite => exact State.Inv.ite h.writeWatch h
  | trctlWrite | trrpWrite => exact State.Inv.ite h.updDie h
  | drconsWrite | patrolScrub | throttleStart | throttleEnd => exact h
  | ltolWrite => exact State.Inv.ite h.writeLtol h
  | registerWrite => exact State.Inv.ite h.regWrite h
  | mgmtRead => exact .execMgmtRead h
  | mgmtWrite => exact .execMgmtWrite h
  | mgmtBlockRead => exact .execMgmtBlockRead h
  | ptpMessage => exact State.Inv.ite h (.trace h)
  | gridAccept => exact .execGridAccept h
  | workgroupPlace => exact .execWorkgroupPlace h
  | placementWaitExpiry => exact h.updGrid
  | workSteal => exact .execWorkSteal h
  | gateOpen => exact .execGateOpen h
  | workgroupPark => exact .execWorkgroupPark h
  | workgroupUnpark => exact .execWorkgroupUnpark h
  | elderReport => exact .execElderReport h
  | bufferedAtomicApply => exact .execBufferedAtomicApply h
  | doneAdd => exact .execDoneAdd h
  | gbarRelease => exact h.releaseAll
  | waitcRelease | waitmRelease | joincRelease => exact h.releaseSplit
  | awaitcRelease => exact .execAwaitcRelease h
  | sleepExpiry => exact .releaseSplit h.updGroup
  | watchdogExpiry => exact .execWatchdogExpiry h
  | trapEntry => exact .execTrapEntry h
  | asyncResultReturn => exact h.updGroup
  | pageFaultResult => exact .execPageFaultResult h
  | loadLinePerform | storeLinePerform | atomicLinePerform => exact h.performLine
  | loadDataArrival => exact .execLoadDataArrival h
  | spillwayPerform => exact .execSpillwayPerform h
  | fenceComplete => exact .execFenceComplete h
  | xfenceComplete => exact .execXfenceComplete h
  | scTicketGrant => exact .execScTicketGrant h
  | directoryGrant => exact State.Inv.ite h.grantDie (.ite h.grantHalf h)
  | directoryRevoke => exact .execDirectoryRevoke h
  | ptsJump => exact h.jumpCore
  | l1AgeingStep => exact .foldl h.updCore (fun _ _ h1 => h1.countOverdue)
  | l2AgeingStep => exact .foldl h.updDie (fun _ _ h1 => h1.countOverdue)
  | scrubberVisit => exact .execScrubberVisit h
  | pageMigration => exact .execPageMigration h
  | biasFlip => exact .execBiasFlip h
  | hostAccess => exact State.Inv.ite (.ite h.writeAll h) (.ite h (.ite h (.ite h h.hostStore)))
  | copyLine => exact .execCopyLine h
  | matrixGrant => exact .execMatrixGrant h
  | matrixPassComplete => exact .execMatrixPassComplete h
  | fabricPacketSend => exact .execFabricPacketSend h
  | packetArrival => exact .execPacketArrival h
  | arrivalAddition => exact .execArrivalAddition h
  | packetAck => exact .execPacketAck h
  | skipNotice => exact State.Inv.ite h (.ite h (.delivered (.undomained h)))
  | deadPeerTimeout => exact State.Inv.ite h.setDead h
  | conversionMatch => exact .execConversionMatch h
  | conversionComplete => exact .execConversionComplete h
  | weirPacket => exact .execWeirPacket h
  | switchWeirRecord => exact h.eventRecordAt
  | saveHandlerComplete => exact .execSaveHandlerComplete h
  | restoreHandlerComplete => exact .execRestoreHandlerComplete h
  | eccEvent => exact .execEccEvent h
  | dieLoss => exact h.loseDie
  | dieQuiesceAck | dieQuiesceTimeout => exact State.Inv.ite (.fence h.updDie) h
  | takeAgeExpiry => exact .execTakeAgeExpiry h
  | reelPlace => exact .foldl h (fun _ _ h1 => h1.placeNext)
  | drainCopy => exact .execDrainCopy h
  | cutPointReached => exact .foldl h (fun _ _ h1 => .cutAct h1.beginTake)
  | podFreeze => exact h.freeze
  | replayDivergence => exact .execReplayDivergence h
  | replayEndOfLog => exact .execReplayEndOfLog h
  | censusFlush => exact .execCensusFlush h
  | powerStateEntry => exact State.Inv.ite h (.ite h (.ite h h))
  | digestClaim => exact .execDigestClaim h
  | shardMirror => exact State.Inv.ite h (.sysSend h.bpmWrite)
  | shardFetch => exact .execShardFetch h
  | digestRelease => exact State.Inv.ite h (.sysSend h.releaseHere)
  | claimReplyTimeout => exact .execClaimReplyTimeout h

/-! Fetch. -/

theorem State.Inv.codeFill {st : State} {core c key line : Nat} (h : st.Inv) : (st.codeFill core c key line).2.Inv :=
  .updCore (.ite (.touchL2 h.meetL2) h)

theorem State.Inv.codeLine {st : State} {core c key line : Nat} (h : st.Inv) : (st.codeLine core c key line).2.Inv := by
  unfold State.codeLine
  split
  · split
    · exact h
    · split
      next e3 =>
        split
        · exact .of_snd e3 h.freeValue
        · exact .codeFill (.of_snd e3 h.freeValue)
  · exact h.codeFill

theorem Fetch.Inv.fetch {st : State} {c gid : Nat} {acc : Bool} {pc : Word} (h : st.Inv) : (st.fetch c gid acc pc).Inv := by
  unfold State.fetch
  extract_lets _
  split
  · exact h
  · split
    next e1 => exact Acc.Inv.of_fault e1 (.accessNow h)
    next e1 => exact Acc.Inv.of_prot e1 (.accessNow h)
    · exact trivial
    next e1 =>
      split
      next e2 => exact State.Inv.of_snd e2 (.codeLine (Acc.Inv.of_ok e1 (.accessNow h)))

/-! One stream's attempt to issue. -/

theorem Ans.Inv.runSplit {st : State} {gid slot : Nat} {g : Group} {s : Split} (h : st.Inv) : Ans.Inv (st.runSplit gid slot g s) := by
  unfold State.runSplit
  refine .ite h ?_
  extract_lets _
  split
  · exact h
  next e => exact .takeTrap (Fetch.Inv.of_trap e (.fetch h))
  next e =>
    have h2 : State.Inv _ := Fetch.Inv.of_fault e (.fetch h)
    exact State.Inv.ite (.takeTrap (.pageFault h2)) (.updGroup (.pageFault h2))
  next e =>
    have h3 : State.Inv _ := Fetch.Inv.of_word e (.fetch h)
    split
    · exact .issueAt h3 (fun _ _ _ h1 => h1)
    · exact .exec (.of_mem h3 rfl)

theorem IEff.Inv.rootStore {st : State} {gid : Nat} {g : Group} {va n v : Nat} {next : Word} (h : st.Inv) : (st.rootStore gid g va n v next).Inv := by
  unfold State.rootStore
  extract_lets _ _
  split
  · exact h
  next e => exact .pageHold (Acc.Inv.of_fault e (.accessNow h))
  next e => exact Acc.Inv.of_prot e (.accessNow h)
  next e =>
    refine .ite h ?_
    split
    · exact h
    next e1 => exact .goto (.of_some_snd e1 (.bind (.setDirty (Acc.Inv.of_ok e (.accessNow h))) (fun _ ha => .storeLine ha)))

/-- A root group's split takes its steps by `step` (an issue) and `reading` (a read of the queue), which keep the form when what they go on to does.
-/
theorem Ans.Inv.rootTurn {st : State} {gid slot : Nat} {g : Group} {s : Split} (h : st.Inv) : Ans.Inv (st.rootTurn gid slot g s) := by
  unfold State.rootTurn
  extract_lets c who st1 hdr step reading entry consume
  have h1 : st1.Inv := h
  have hs : ∀ f, (∀ t g, t.Inv → (f t g).Inv) → Ans.Inv (step f) := fun f hf => .issueAt h1 fun t g _ ht => hf t g ht
  have hr : ∀ va k, (∀ t v, t.Inv → Ans.Inv (k t v)) → Ans.Inv (reading va k) := by
    intro va k hk
    unfold reading
    split
    · exact h1
    · exact hs _ fun _ _ ht => ht
    · exact hs _ fun _ _ ht => .pageHold ht
    next e => exact hk _ _ (Acc.Inv.of_ok rfl (Acc.Inv.of_fst e (.readLines h1)))
  clear_value st1 step reading
  refine .ite h1 ?_
  split
  · refine hr _ _ fun t v ht => ?_
    split
    · exact hs _ fun _ _ hu => .queueHalt hu
    · exact .exec ht.updGroup
  · exact .ite (hs _ fun _ _ ht => ht) (hr _ _ fun _ _ ht => .exec (.updGroup ht.acquire))
  · exact hs _ fun _ _ ht => .rootStore ht
  · exact hs _ fun _ _ ht => .rootStore ht

theorem Ans.Inv.runAccess {st : State} {gid : Nat} {g : Group} (h : st.Inv) : Ans.Inv (st.runAccess gid g) := by
  unfold State.runAccess
  refine .ite h ?_
  extract_lets _
  split
  · exact h
  next e => exact .takeTrap (Fetch.Inv.of_trap e (.fetch h))
  next e =>
    have h2 : State.Inv _ := Fetch.Inv.of_fault e (.fetch h)
    exact State.Inv.ite (.takeTrap (.pageFault h2)) (.updGroup (.pageFault h2))
  next e =>
    have h3 : State.Inv _ := Fetch.Inv.of_word e (.fetch h)
    split
    · exact .issueAccess h3 (fun _ _ h1 => h1)
    · exact .exec (.of_mem h3 rfl)

/-- An attempt answers what the run answers, from the state with the decision logged or from the state itself. -/
theorem AllSome.attempt {st : State} {gid : Nat} {g : Group} {log : State → Option State} {run : State → Ans} (h : st.Inv)
    (hlog : ∀ (t : State), t.Inv → AllSome State.Inv (log t)) (hrun : ∀ (t : State), t.Inv → Ans.Inv (run t)) :
    AllSome Ans.Inv (st.attempt gid g log run) := by
  unfold State.attempt
  extract_lets _ gated
  have h1 : AllSome State.Inv gated := .ite (.some h.logOff) (hlog _ h)
  clear_value gated
  split
  · exact .none
  · split
    next e =>
      have h2 : State.Inv _ := Ans.Inv.of_next e (hrun _ (.of_some rfl h1))
      refine .ite (.some (State.Inv.ite (.logOff h2) h2)) ?_
      split
      next e1 => exact .ite (.some (Ans.Inv.of_next e1 (hrun _ h))) .none
      · exact .some (hrun _ h)
    · exact .some (hrun _ (.of_some rfl h1))

theorem AllSome.trySplit {st : State} {gid slot : Nat} {run : State → Group → Split → Ans} (h : st.Inv)
    (hrun : ∀ (t : State) g s, t.Inv → Ans.Inv (run t g s)) : AllSome Ans.Inv (st.trySplit gid slot run) := by
  unfold State.trySplit
  split
  · exact .none
  · extract_lets _ _
    split
    · exact .none
    · refine .ite (.attempt h.putGroup (fun _ h1 => ?_) (fun _ h1 => hrun _ _ _ h1)) .none
      split
      · exact .none
      next e2 =>
        have h2 : State.Inv _ := State.Inv.of_some e2 (.sched h1)
        exact .ite (.some h2) (.sched h2)

theorem AllSome.tryAccess {st : State} {gid : Nat} {run : State → Group → Ans} (h : st.Inv) (hrun : ∀ (t : State) g, t.Inv → Ans.Inv (run t g)) :
    AllSome Ans.Inv (st.tryAccess gid run) := by
  unfold State.tryAccess
  split
  · exact .none
  · exact .ite (.attempt h (fun _ h1 => .sched h1) (fun _ h1 => hrun _ _ h1)) .none

/-! Order of choice. -/

theorem Ans.Inv.pipeTurn {st : State} {core pipe : Nat} (h : st.Inv) : Ans.Inv (st.pipeTurn core pipe) :=
  .getD (.firstSome fun _ => .trySplit h fun _ _ _ h1 => .ite (.rootTurn h1) (.runSplit h1)) h

theorem Ans.Inv.frontTurn {st : State} {core quad : Nat} (h : st.Inv) : Ans.Inv (st.frontTurn core quad) :=
  .getD (.firstSome fun _ => .tryAccess h fun _ _ h1 => .runAccess h1) h

theorem Ans.Inv.weirTurn {st : State} {port : Nat} (h : st.Inv) : Ans.Inv (st.weirTurn port) := by
  unfold State.weirTurn
  extract_lets _
  split
  · exact h
  · split
    · exact h
    · split
      · exact h
      · split
        · exact .exec h
        · exact h

/-! Machine operations while clocks stand still. -/

theorem Ans.Inv.eventTurn {st : State} {i : Instr} (h : st.Inv) : Ans.Inv (st.eventTurn i) := by
  unfold State.eventTurn
  split
  · exact .ite h (.exec h)
  · exact h

/-! Time. -/

theorem State.Inv.idleCensus {st : State} {r : Nat} (h : st.Inv) : (st.idleCensus r).Inv :=
  .of_mem (.foldl h (fun _ _ h1 => h1.updCore)) rfl

theorem State.Inv.passTai {st : State} {dn : Nat} (h : st.Inv) : (st.passTai dn).Inv :=
  .ite h h

theorem State.Inv.passCores {st : State} {n r : Nat} (h : st.Inv) : (st.passCores n r).Inv :=
  .retireFree (.releaseBarriers (.idleCensus h))

theorem State.Inv.tick {st : State} {n : Nat} (h : st.Inv) : (st.tick n).Inv := by
  unfold State.tick
  extract_lets _ st1 st2 st3 _
  have h1 : st1.Inv := .ite h (.someEvents h.drainPorts)
  have h2 : st2.Inv := .passTai h1
  have h3 : st3.Inv := .ite h2 h2
  exact .ite h2 (.passCores h3)

/-! One turn. -/

/-- Whatever the turn: an event, a stream's issue, a Weir kernel's instruction or the passing of time. -/
theorem Ans.Inv.turn {st : State} {t : Turn} (h : st.Inv) : Ans.Inv (st.turn t) := by
  unfold State.turn
  split
  · exact .eventTurn h
  · exact .pipeTurn h
  · exact .frontTurn h
  · exact .ite h (.weirTurn h)
  · exact h.tick

/-! The step. -/

theorem State.Inv.begin {s : State} (h : s.Inv) : s.begin.Inv :=
  h

/-- Settles O57: a step begins with a state of the same memory and then runs the turn that is next, and every operation a turn can call keeps the
canonical form (`Ans.Inv.turn`). -/
theorem stepKeepsInv : Obligations.StepKeepsInv := by
  intro s t hs e
  exact Ans.Inv.of_next e (.turn (.begin hs))

end Sys2Proof.Machine
end

section

namespace Sys2Proof.Machine

/-! The general control commands (O34, and UNITRET, UNITRST and DIERST of O35). The meaning of each is its checks and effect run at the head of the
general queue; `ctlOpAt_head` gives these at a head command that may run, and the operands pass the checks one after another. A command of more than one
outcome has its lemma, whose answer keeps the choice between the outcomes. -/

theorem CtlHead.queue {st : State} {op : Nat} {c : Cmd} (h : CtlHead st op c) : ∃ t, st.ctlQ = c :: t :=
  List.head?_eq_some_iff.mp h.head

/-- RESET (R365): its number is not that of an unknown operation, which the same meaning would refuse. -/
theorem execReset_head {st : State} {c : Cmd} (h : CtlHead st 1 c) (h0 : c.arg0 = 0) (ha : c.arg = 0) : execReset st = .next st.moduleReset := by
  obtain ⟨t, hq⟩ := h.queue
  unfold execReset
  simp only [hq]
  rw [if_neg (by simp [h.op]), ctlOpAt_head h, if_neg (by simp [h0, ha])]

/-- FWUPDATE of a page-aligned image (R360): the image is written to the inactive bank where it verifies, or refused with code 4. -/
theorem execFwupdate_head {st : State} {c : Cmd} (h : CtlHead st 3 c) (h0 : c.arg0 ≠ 0) (ha : c.arg.toNat % 4096 = 0) (hr : c.arg.toNat < 2 ^ 40) :
    execFwupdate st = .next (if imageOk st.fwFuse (st.devRead (4096 * c.arg0) c.arg.toNat) = true
      then ({ st with fwBanks := mset st.fwBanks (1 - st.fwActive) (st.devRead (4096 * c.arg0) c.arg.toNat), fwPending := true } : State).ctlDone c 0
      else st.ctlDone c 4) := by
  rw [execFwupdate, ctlOpAt_head h]
  exact congrArg _ (if_neg (by omega))

/-- ATTEST (R366): the report is refused where it does not fit its buffer, and otherwise written there with its signature, once the HOST path takes it. -/
theorem execAttest_head {st x : State} {c : Cmd} {r n : Nat} (h : CtlHead st 7 c) (h0 : c.arg0 = 0) (ha : c.arg.toNat < 2 ^ 33)
    (hr : st.report (st.devRead 32 (c.arg.toNat * 128)) = (r, n))
    (hx : 64 + n + 512 ≤ 4096 → st.freeValue.2.hostPut (n + 512) (c.arg.toNat * 128 + 64) (r + identitySign n r st.freeValue.1 * 2 ^ (8 * n)) = some x) :
    execAttest st = .next (if 4096 < 64 + n + 512 then st.ctlDone c 2 else x.ctlDone c 0) := by
  rw [execAttest, ctlOpAt_head h]
  dsimp only
  rw [if_neg (by omega), hr]
  split
  · rfl
  next hfit =>
    rw [hx (by omega)]
    rfl

/-- UNITRET of a pipe in service (R15): it waits for the pipe's resident groups, and retires the pipe once they have left. -/
theorem execUnitret_head {st : State} {c : Cmd} {p : Nat} (h : CtlHead st 14 c) (h0 : c.arg0 = 0) (hp : pipeOfLoc c.arg.toNat = .inr p)
    (hr : p ∉ st.retiredPipes) :
    execUnitret st = .next (if st.pipeBusy p = true
      then ({ st with retiring := if p ∈ st.retiring then st.retiring else st.retiring ++ [p] } : State).ctlPhase { c with phase := 1 }
      else ({ st with retiring := st.retiring.filter fun q => decide (q ≠ p), retiredPipes := st.retiredPipes ++ [p] } : State).ctlDone c 0) := by
  rw [execUnitret, ctlOpAt_head h, if_neg (by simp [h0]), hp]
  exact congrArg _ (if_neg hr)

/-- Settles O34: each command's operands pass its checks, which leaves the effect that the meaning gives. -/
theorem controlOperationsComplete : Obligations.ControlOperationsComplete := by
  unfold Obligations.ControlOperationsComplete
  intro st c
  refine ⟨exec_moduleReset st, fun h h0 ha => ?reset, fun h h0 ha hc => ?modeset, ?fwupdate, fun h h0 ha he => ?freeze, fun h h0 ha hf => ?thaw,
    fun r n x h h0 ha hr hx => ?attest, fun d x h h0 ha hi => ?domset, fun h h0 ha hc hd => ?domclr, fun h h0 ha => ?peerset, fun h h0 ha => ?peerclr,
    fun h h0 hl hu => ?peertmo, fun h h0 ha hc => ?devno⟩
  case reset => rw [exec_reset, execReset_head h h0 ha]
  case modeset => rw [exec_modeset, execModeset, ctlOpAt_head h, if_neg (by simp [h0, ha]), if_neg (by simp [hc])]
  case fwupdate =>
    rintro n img rfl rfl h h0 ha hr
    rw [exec_fwupdate, execFwupdate_head h h0 ha hr]
  case freeze => rw [exec_freeze, execFreeze, ctlOpAt_head h, if_neg (by simp [h0, ha]), if_neg (by simp [he])]
  case thaw => rw [exec_thaw, execThaw, ctlOpAt_head h, if_neg (by simp [h0, ha]), if_neg (by simp [hf])]
  case attest => rw [exec_attest, execAttest_head h h0 ha hr hx]
  case domset => rw [exec_domset, execDomset, ctlOpAt_head h, if_neg (by omega), hi]
  case domclr =>
    have hd' : ¬ (mget st.domains c.arg0).isNone = true := by simp [Option.isSome_iff_ne_none.mp hd]
    rw [exec_domclr, execDomclr, ctlOpAt_head h, if_neg (by simp [h0, ha]), if_neg (by simp [hc]), if_neg hd']
  case peerset => rw [exec_peerset, execPeerset, ctlOpAt_head h, if_neg (by simp [h0, ha])]
  case peerclr => rw [exec_peerclr, execPeerclr, ctlOpAt_head h, if_neg (by simp [h0, ha])]
  case peertmo =>
    rw [exec_peertmo, execPeertmo, ctlOpAt_head h]
    exact congrArg _ (if_neg (by omega))
  case devno => rw [exec_devno, execDevno, ctlOpAt_head h, if_neg (by simp [h0, ha]), if_neg (by simp [hc])]

end Sys2Proof.Machine
end

section

namespace Sys2Proof.Machine

/-! Units, power and time (O35). The events have no queue: each changes the state where its condition holds. -/

/-- POWER_STATE_ENTRY of a device the mode has (R362): P3 is entered by the whole package, another state by the device alone and where it is deeper. -/
theorem execPowerStateEntry_of_lt {st : State} {dev : Nat} (h : dev < devCount st.mode) :
    execPowerStateEntry dev st = .next (if st.deepest dev = 3 then { st with power := (List.range (devCount st.mode)).map fun d => (d, 3) }
      else if mgetD st.power dev 0 < st.deepest dev then { st with power := mset st.power dev (st.deepest dev) } else st) := by
  rw [execPowerStateEntry, if_neg (Nat.not_le.mpr h)]

/-- Settles O35: a command's operands pass its checks, and an event's condition chooses its effect. -/
theorem unitsPowerAndTimeComplete : Obligations.UnitsPowerAndTimeComplete := by
  unfold Obligations.UnitsPowerAndTimeComplete
  intro st c ofs dev
  refine ⟨fun p h h0 hp hr hb => ?waits, fun p h h0 hp hr hb => ?retires, fun p h h0 hp hr => ?unitrst, fun h hl hu ha hf => ⟨_, rfl, ?dierst⟩,
    fun hl hu => ?slewed, fun ho => ?stepped, fun ht => ?unlocked, fun hd hp => ?wholeP3, fun hd hp hl => ?deeper, fun hp => ?woken, fun hp => ?awake,
    exec_throttleStart st, exec_throttleEnd st, fun hd hn => ?linkDown, fun k x y z e he => ?ecc, exec_patrolScrub dev st, exec_dieLoss dev st,
    fun lost hq => ?acked, fun lost refresh hq ht => ?forced⟩
  case waits => rw [exec_unitret, execUnitret_head h h0 hp hr, if_pos hb]
  case retires => rw [exec_unitret, execUnitret_head h h0 hp hr, if_neg (by simp [hb])]
  case unitrst =>
    rw [exec_unitrst, execUnitrst, ctlOpAt_head h, if_neg (by simp [h0]), hp]
    exact congrArg _ (if_neg (not_not.mpr hr))
  case dierst =>
    have hargs : ¬ (c.arg0 = 0 ∨ 8 < c.arg0 ∨ c.arg ≠ 0) := by
      rintro (h0 | h8 | hne)
      · omega
      · omega
      · exact hne ha
    rw [exec_dierst, execDierst, ctlOpAt_head h, if_neg hargs]
    exact congrArg _ (if_neg (not_not.mpr hf))
  case slewed => rw [exec_ptpMessage, execPtpMessage, if_pos ⟨hl, hu⟩]
  case stepped => rw [exec_ptpMessage, execPtpMessage, if_neg (by omega)]
  case unlocked => rw [exec_ptpMasterTimeout, execPtpMasterTimeout, if_pos ht]
  case wholeP3 => rw [exec_powerStateEntry, execPowerStateEntry_of_lt hd, if_pos hp]
  case deeper => rw [exec_powerStateEntry, execPowerStateEntry_of_lt hd, if_neg hp, if_pos hl]
  case woken => rw [exec_powerWake, execPowerWake, if_pos hp]
  case awake => rw [exec_powerWake, execPowerWake, if_neg hp]
  case linkDown => rw [exec_fabricLinkFailure, execFabricLinkFailure, if_pos ⟨hd, hn⟩]
  case ecc =>
    rw [exec_eccEvent, exec_eccEvent, execEccEvent, execEccEvent, he]
    exact ⟨rfl, rfl⟩
  case acked => rw [exec_dieQuiesceAck, execDieQuiesceAck, if_pos hq]
  case forced => rw [exec_dieQuiesceTimeout, execDieQuiesceTimeout, if_pos ⟨hq, ht⟩]

end Sys2Proof.Machine
end

section

namespace Sys2Proof.Machine

/-! The state after reset (O56): the fields' own values, with nothing listed in any map, so that a record read by its number is the one of its default. -/

theorem State.reset_inv : State.reset.Inv := rfl
theorem State.reset_die (d : Nat) : State.reset.die d = {} := rfl
theorem State.reset_core (c : Nat) : State.reset.core c = {} := rfl
theorem State.reset_cluster (k : Nat) : State.reset.cluster k = {} := rfl
theorem State.reset_reel (d : Nat) : State.reset.reel d = {} := rfl
theorem State.reset_power (d : Nat) : mgetD State.reset.power d 0 = 0 := rfl
theorem State.reset_inP3 : State.reset.inP3 = false := rfl
theorem State.reset_byte (a : Nat) : State.reset.read a 1 = 0 := rfl

/-- Settles O56: the fields named hold their own values at reset, and the records of dies, cores, clusters and reels are those of their defaults. -/
theorem resetMeetsTheInvariant : Obligations.ResetMeetsTheInvariant := by
  unfold Obligations.ResetMeetsTheInvariant
  simp only [State.reset_inv, State.reset_die, State.reset_core, State.reset_cluster, State.reset_reel, State.reset_power, State.reset_inP3, State.reset_byte,
    implies_true, and_true, true_and]
  simp only [State.reset, and_self]

end Sys2Proof.Machine
end

section

namespace Sys2Proof.Laws.RoundTrip

/-! Words and instructions (O55, O54). An instruction of one of the three sets has the round trip proved for its own constructor; a machine operation
has no word, so that its round trip asks nothing. -/

/-- A machine operation is in none of the instruction sets. -/
theorem statement_of_event {i : Instr} (h : isetOf i = .event) : Statement i := fun _ hn => absurd h hn

/-- The round trip of every instruction, constructor by constructor. -/
theorem statement_all (i : Instr) : Statement i := by
  cases i with
  | nop s => exact nop s
  | bra s o => exact bra s o
  | brc s r c o => exact brc s r c o
  | brd s p n o => exact brd s p n o
  | jmpi s a => exact jmpi s a
  | call s o => exact call s o
  | ret s => exact ret s
  | modei s i => exact modei s i
  | moder s a => exact moder s a
  | bar s a => exact bar s a
  | syncs s a => exact syncs s a
  | gbar s => exact gbar s
  | waitc s a b => exact waitc s a b
  | waitm s a b => exact waitm s a b
  | sleep s a i => exact sleep s a i
  | yield s => exact yield s
  | launch s d a b => exact launch s d a b
  | joinc s a => exact joinc s a
  | exit s => exact exit s
  | trap s i => exact trap s i
  | tret s => exact tret s
  | gets s d i => exact gets s d i
  | puts s a i => exact puts s a i
  | clockCycle s d => exact clockCycle s d
  | clockHubcyc s d => exact clockHubcyc s d
  | clockPtpns s d => exact clockPtpns s d
  | gset s d a b f => exact gset s d a b f
  | bkpt s i => exact bkpt s i
  | add s d a b => exact add s d a b
  | sub s d a b => exact sub s d a b
  | mul s d a b => exact mul s d a b
  | mulh s d a b => exact mulh s d a b
  | min s d a b => exact min s d a b
  | max s d a b => exact max s d a b
  | and s d a b => exact and s d a b
  | or s d a b => exact or s d a b
  | xor s d a b => exact xor s d a b
  | andn s d a b => exact andn s d a b
  | shl s d a b => exact shl s d a b
  | shr s d a b => exact shr s d a b
  | rot s d a b => exact rot s d a b
  | addc s d a b => exact addc s d a b
  | subb s d a b => exact subb s d a b
  | absd s d a b => exact absd s d a b
  | neg s d a => exact neg s d a
  | abs s d a => exact abs s d a
  | not s d a => exact not s d a
  | clz s d a => exact clz s d a
  | ctz s d a => exact ctz s d a
  | popc s d a => exact popc s d a
  | brev s d a => exact brev s d a
  | mad s d a b c => exact mad s d a b c
  | bfe s d a b c => exact bfe s d a b c
  | bfi s d a b c => exact bfi s d a b c
  | addi s d a i => exact addi s d a i
  | shi s d a k n => exact shi s d a k n
  | lit s d h i => exact lit s d h i
  | cmp s d a b c => exact cmp s d a b c
  | sel s d a b c => exact sel s d a b c
  | pand s d a b => exact pand s d a b
  | por s d a b => exact por s d a b
  | pxor s d a b => exact pxor s d a b
  | pnot s d a => exact pnot s d a
  | pmov s d a b => exact pmov s d a b
  | pset s d a => exact pset s d a
  | pget s d a => exact pget s d a
  | mov s d a => exact mov s d a
  | bcst s d a b => exact bcst s d a b
  | vtos s d a b => exact vtos s d a b
  | stov s d a b => exact stov s d a b
  | fadd s d a b => exact fadd s d a b
  | fsub s d a b => exact fsub s d a b
  | fmul s d a b => exact fmul s d a b
  | fmin s d a b => exact fmin s d a b
  | fmax s d a b => exact fmax s d a b
  | fcpys s d a b => exact fcpys s d a b
  | fabs s d a => exact fabs s d a
  | fneg s d a => exact fneg s d a
  | frnd s d a => exact frnd s d a
  | fclass s d a => exact fclass s d a
  | fma s d a b c => exact fma s d a b c
  | fms s d a b c => exact fms s d a b c
  | fnma s d a b c => exact fnma s d a b c
  | fnms s d a b c => exact fnms s d a b c
  | frcp s d a => exact frcp s d a
  | frsq s d a => exact frsq s d a
  | fsqrt s d a => exact fsqrt s d a
  | fexp2 s d a => exact fexp2 s d a
  | flog2 s d a => exact flog2 s d a
  | fsin s d a => exact fsin s d a
  | fcos s d a => exact fcos s d a
  | ftanh s d a => exact ftanh s d a
  | fdiv s d a b => exact fdiv s d a b
  | cvt s d a => exact cvt s d a
  | cvts s d a b => exact cvts s d a b
  | pack s d a b => exact pack s d a b
  | unpk s d a b => exact unpk s d a b
  | qnt s d a b q k => exact qnt s d a b q k
  | dqnt s d a b q k => exact dqnt s d a b q k
  | sadd s d a b => exact sadd s d a b
  | ssub s d a b => exact ssub s d a b
  | smul s d a b => exact smul s d a b
  | smulh s d a b => exact smulh s d a b
  | smin s d a b => exact smin s d a b
  | smax s d a b => exact smax s d a b
  | sand s d a b => exact sand s d a b
  | sor s d a b => exact sor s d a b
  | sxor s d a b => exact sxor s d a b
  | sandn s d a b => exact sandn s d a b
  | sshl s d a b => exact sshl s d a b
  | sshr s d a b => exact sshr s d a b
  | srot s d a b => exact srot s d a b
  | saddi s d a i => exact saddi s d a i
  | slit s d h i => exact slit s d h i
  | xchx s d a b => exact xchx s d a b
  | xchu s d a b => exact xchu s d a b
  | xchd s d a b => exact xchd s d a b
  | xchxk s d a b => exact xchxk s d a b
  | xchuk s d a b => exact xchuk s d a b
  | xchdk s d a b => exact xchdk s d a b
  | xchi s d a b => exact xchi s d a b
  | xbc s d a b => exact xbc s d a b
  | voteAny s d a b => exact voteAny s d a b
  | voteAll s d a b => exact voteAll s d a b
  | voteEq s d a b => exact voteEq s d a b
  | voteBallot s d a b => exact voteBallot s d a b
  | voteElect s d => exact voteElect s d
  | voteMatch s d a => exact voteMatch s d a
  | redu s d a b f => exact redu s d a b f
  | scan s d a b f => exact scan s d a b f
  | cpt s d a b => exact cpt s d a b
  | tbind s t r => exact tbind s t r
  | tzero s t r => exact tzero s t r
  | tzeroAll s t => exact tzeroAll s t
  | mma s t a b r k => exact mma s t a b r k
  | mmak s t a b r k => exact mmak s t a b r k
  | mmat s t a b r k => exact mmat s t a b r k
  | mmas s t a b r k => exact mmas s t a b r k
  | trdRow s t r i v => exact trdRow s t r i v
  | trdCol s t r i v => exact trdCol s t r i v
  | twrRow s t r i v => exact twrRow s t r i v
  | twrCol s t r i v => exact twrCol s t r i v
  | tmove s t r u => exact tmove s t r u
  | tmoveAdd s t r u => exact tmoveAdd s t r u
  | tfree s t => exact tfree s t
  | twait s t => exact twait s t
  | twaitAll s => exact twaitAll s
  | anop s => exact anop s
  | abr s o => exact abr s o
  | abeq s a b o => exact abeq s a b o
  | abne s a b o => exact abne s a b o
  | ablt s a b o => exact ablt s a b o
  | abge s a b o => exact abge s a b o
  | abltn s a b o => exact abltn s a b o
  | abgen s a b o => exact abgen s a b o
  | aloop s a o => exact aloop s a o
  | ajmpi s a => exact ajmpi s a
  | aend s => exact aend s
  | aadd s d a b => exact aadd s d a b
  | asub s d a b => exact asub s d a b
  | amul s d a b => exact amul s d a b
  | amulh s d a b => exact amulh s d a b
  | aand s d a b => exact aand s d a b
  | aor s d a b => exact aor s d a b
  | axor s d a b => exact axor s d a b
  | ashl s d a b => exact ashl s d a b
  | ashr s d a b => exact ashr s d a b
  | asra s d a b => exact asra s d a b
  | amin s d a b => exact amin s d a b
  | amax s d a b => exact amax s d a b
  | aminn s d a b => exact aminn s d a b
  | amaxn s d a b => exact amaxn s d a b
  | aaddi s d a i => exact aaddi s d a i
  | ali s d i => exact ali s d i
  | alim s d i => exact alim s d i
  | alit s d i => exact alit s d i
  | aliq s d i => exact aliq s d i
  | apop s d t => exact apop s d t
  | apopK s d t => exact apopK s d t
  | apush s d a => exact apush s d a
  | rtick s => exact rtick s
  | setd s d a i => exact setd s d a i
  | agets s d i => exact agets s d i
  | vdefGlob s d a => exact vdefGlob s d a
  | vdefCore s d a => exact vdefCore s d a
  | vset s d a f => exact vset s d a f
  | vget s d b f => exact vget s d b f
  | ldt s q v a d g e c => exact ldt s q v a d g e c
  | ldg s q v a d g e c => exact ldg s q v a d g e c
  | lda s x v a d g e c => exact lda s x v a d g e c
  | ldp s q v a d g e c => exact ldp s q v a d g e c
  | stt s v a d g e c => exact stt s v a d g e c
  | stg s v a d g e c => exact stg s v a d g e c
  | sta s v a d g e c => exact sta s v a d g e c
  | pref s v a d g e c => exact pref s v a d g e c
  | atom s q v a o c p => exact atom s q v a o c p
  | atoma s d a b p o c => exact atoma s d a b p o c
  | fence s c k => exact fence s c k
  | xfence s f t c => exact xfence s f t c
  | cpy s d c g e => exact cpy s d c g e
  | hand s d c g e => exact hand s d c g e
  | xfer s d c g e h p => exact xfer s d c g e h p
  | xmc s d c g e h p => exact xmc s d c g e h p
  | ctrset s a b => exact ctrset s a b
  | ctrsetT s a b => exact ctrsetT s a b
  | ctradd s a b => exact ctradd s a b
  | ctrget s d a => exact ctrget s d a
  | ctrgetT s d a => exact ctrgetT s d a
  | awaitc s a b => exact awaitc s a b
  | awaitcT s a => exact awaitcT s a
  | wadd v d a b x => exact wadd v d a b x
  | waddI v d a i => exact waddI v d a i
  | wsub v d a b x => exact wsub v d a b x
  | wsubI v d a i => exact wsubI v d a i
  | wmul v d a b x => exact wmul v d a b x
  | wmulI v d a i => exact wmulI v d a i
  | wand v d a b x => exact wand v d a b x
  | wandI v d a i => exact wandI v d a i
  | wor v d a b x => exact wor v d a b x
  | worI v d a i => exact worI v d a i
  | wxor v d a b x => exact wxor v d a b x
  | wxorI v d a i => exact wxorI v d a i
  | wshl v d a b x => exact wshl v d a b x
  | wshlI v d a i => exact wshlI v d a i
  | wshr v d a b x => exact wshr v d a b x
  | wshrI v d a i => exact wshrI v d a i
  | wmin v d a b x => exact wmin v d a b x
  | wminI v d a i => exact wminI v d a i
  | wmax v d a b x => exact wmax v d a b x
  | wmaxI v d a i => exact wmaxI v d a i
  | wcmp v c d a b x => exact wcmp v c d a b x
  | wsel v d a b c => exact wsel v d a b c
  | wmovW d a => exact wmovW d a
  | wmovX d a => exact wmovX d a
  | wmovWx d a => exact wmovWx d a
  | wmovXl d a l => exact wmovXl d a l
  | wmovWl d a l => exact wmovWl d a l
  | wli v d i => exact wli v d i
  | wliH v d i => exact wliH v d i
  | whdr r f => exact whdr r f
  | whdrW r => exact whdrW r
  | wseth r f => exact wseth r f
  | wldp w c => exact wldp w c
  | wldpX w x c => exact wldpX w x c
  | wstp w c => exact wstp w c
  | wstpX w x c => exact wstpX w x c
  | wldf w x i => exact wldf w x i
  | wstf w x i => exact wstf w x i
  | watf p d a b i => exact watf p d a b i
  | whash d a n => exact whash d a n
  | whashLk d a => exact whashLk d a
  | wrep n l => exact wrep n l
  | wbr o => exact wbr o
  | wbrCc c a o => exact wbrCc c a o
  | wdup a => exact wdup a
  | wtrap c a => exact wtrap c a
  | wfwd => exact wfwd
  | wdrop => exact wdrop
  | wend => exact wend
  | _ => exact statement_of_event rfl

end Sys2Proof.Laws.RoundTrip

namespace Sys2Proof.Machine

/-- Settles O55: the round trip of each instruction of the three sets. -/
theorem decodeEncode : Obligations.DecodeEncode := Laws.RoundTrip.statement_all

/-- Settles O54: each decoder is run on the words. -/
theorem decodeWords : Obligations.DecodeWords := by
  unfold Obligations.DecodeWords
  exact ⟨rfl, rfl, rfl, rfl, rfl, rfl, rfl, rfl, rfl, rfl, rfl, rfl, rfl, rfl, rfl, rfl, rfl, rfl, rfl, rfl, rfl, rfl, rfl, rfl, rfl, rfl, rfl, rfl, rfl, rfl⟩

end Sys2Proof.Machine
end

section

namespace Sys2Proof.Machine

/-! Frames (O48, O49, O50). A word whose body writes its destination, and nothing else of its group, has that destination's frame: the support's
frame lemmas, asked of the arm of `exec` and of the body that it runs. -/

section
variable {st : State} {i : Instr} {m : BitVec 1} {sp : IssueSpec} {F : Group → Split → GEff}

/-- A body that writes a per-thread result has the frame of its destination. -/
theorem framesV_groupOp {d : BitVec 6} {o : Group → Split → Out} (he : exec i st = groupOp st m sp F) (hF : ∀ g s, F g s = .done (g.writeOut d (o g s))) :
    st.framesV i m sp d := framesV_of (completes_of he fun g s _ => hF g s)

/-- A body that writes a P register has that register's frame. -/
theorem framesP_groupOp {d : BitVec 6} {v k : Group → Split → ByteMask} (he : exec i st = groupOp st m sp F)
    (hF : ∀ g s, F g s = .done (g.putP d.toNat (v g s) (k g s))) : st.framesP i m sp d := framesP_of (completes_of he fun g s _ => hF g s)

/-- A body that writes an S register or ZERO has that destination's frame. -/
theorem framesS_groupOp {d : BitVec 6} {v : Group → Split → Word} (he : exec i st = groupOp st m sp F)
    (hF : ∀ g s, F g s = .done (g.putSZ d (v g s))) : st.framesS i m sp d := framesS_of (completes_of he fun g s _ => hF g s)

/-- A body of the access stream that writes an A register has that register's frame. -/
theorem framesA_accessOp {sp : AccSpec} {d : Nat} {F : Group → GEff} {v : Group → Word} (he : exec i st = accessOp st m sp F)
    (hF : ∀ g, F g = .done (g.putA d (v g))) : st.framesA i m sp d := framesA_of (completesA_of he fun g _ => hF g)

end

/-- Settles O48: the body of each integer and floating-point word writes its destination and raises flags. -/
theorem arithmeticFrames : Obligations.ArithmeticFrames := by
  unfold Obligations.ArithmeticFrames
  intro st
  exact ⟨fun _ _ _ _ =>
      ⟨framesV_groupOp (exec_add ..) fun _ _ => rfl,
      framesV_groupOp (exec_sub ..) fun _ _ => rfl,
      framesV_groupOp (exec_mul ..) fun _ _ => rfl,
      framesV_groupOp (exec_mulh ..) fun _ _ => rfl,
      framesV_groupOp (exec_min ..) fun _ _ => rfl,
      framesV_groupOp (exec_max ..) fun _ _ => rfl,
      framesV_groupOp (exec_and ..) fun _ _ => rfl,
      framesV_groupOp (exec_or ..) fun _ _ => rfl,
      framesV_groupOp (exec_xor ..) fun _ _ => rfl,
      framesV_groupOp (exec_andn ..) fun _ _ => rfl,
      framesV_groupOp (exec_shl ..) fun _ _ => rfl,
      framesV_groupOp (exec_shr ..) fun _ _ => rfl,
      framesV_groupOp (exec_rot ..) fun _ _ => rfl,
      framesV_groupOp (exec_addc ..) fun _ _ => rfl,
      framesV_groupOp (exec_subb ..) fun _ _ => rfl,
      framesV_groupOp (exec_absd ..) fun _ _ => rfl⟩,
    fun _ _ _ _ _ _ _ _ _ _ =>
      ⟨framesV_groupOp (exec_neg ..) fun _ _ => rfl,
      framesV_groupOp (exec_abs ..) fun _ _ => rfl,
      framesV_groupOp (exec_not ..) fun _ _ => rfl,
      framesV_groupOp (exec_clz ..) fun _ _ => rfl,
      framesV_groupOp (exec_ctz ..) fun _ _ => rfl,
      framesV_groupOp (exec_popc ..) fun _ _ => rfl,
      framesV_groupOp (exec_brev ..) fun _ _ => rfl,
      framesV_groupOp (exec_mad ..) fun _ _ => rfl,
      framesV_groupOp (exec_bfe ..) fun _ _ => rfl,
      framesV_groupOp (exec_bfi ..) fun _ _ => rfl,
      framesV_groupOp (exec_addi ..) fun _ _ => rfl,
      framesV_groupOp (exec_shi ..) fun _ _ => rfl,
      framesV_groupOp (exec_lit ..) fun _ _ => rfl⟩,
    fun _ _ _ _ _ =>
      ⟨framesV_groupOp (exec_fadd ..) fun _ _ => rfl,
      framesV_groupOp (exec_fsub ..) fun _ _ => rfl,
      framesV_groupOp (exec_fmul ..) fun _ _ => rfl,
      framesV_groupOp (exec_fmin ..) fun _ _ => rfl,
      framesV_groupOp (exec_fmax ..) fun _ _ => rfl,
      framesV_groupOp (exec_fcpys ..) fun _ _ => rfl,
      framesV_groupOp (exec_fabs ..) fun _ _ => rfl,
      framesV_groupOp (exec_fneg ..) fun _ _ => rfl,
      framesV_groupOp (exec_frnd ..) fun _ _ => rfl,
      framesV_groupOp (exec_fclass ..) fun _ _ => rfl,
      framesV_groupOp (exec_fma ..) fun _ _ => rfl,
      framesV_groupOp (exec_fms ..) fun _ _ => rfl,
      framesV_groupOp (exec_fnma ..) fun _ _ => rfl,
      framesV_groupOp (exec_fnms ..) fun _ _ => rfl⟩⟩

/-- Settles O49: the bodies write a V register or queue, a P register, or an S register or ZERO. -/
theorem moveVoteConversionFrames : Obligations.MoveVoteConversionFrames := by
  unfold Obligations.MoveVoteConversionFrames
  intro st
  exact ⟨fun _ _ _ _ _ =>
      ⟨framesV_groupOp (exec_sel ..) fun _ _ => rfl,
      framesP_groupOp (exec_pand ..) fun _ _ => rfl,
      framesP_groupOp (exec_por ..) fun _ _ => rfl,
      framesP_groupOp (exec_pxor ..) fun _ _ => rfl,
      framesP_groupOp (exec_pnot ..) fun _ _ => rfl,
      framesP_groupOp (exec_pmov ..) fun _ _ => rfl,
      framesP_groupOp (exec_pset ..) fun _ _ => rfl,
      framesV_groupOp (exec_pget ..) fun _ _ => rfl,
      framesV_groupOp (exec_mov ..) fun _ _ => rfl,
      framesV_groupOp (exec_bcst ..) fun _ _ => rfl,
      framesV_groupOp (exec_stov ..) fun _ _ => rfl⟩,
    fun _ _ _ _ _ _ =>
      ⟨framesV_groupOp (exec_cvt ..) fun _ _ => rfl,
      framesV_groupOp (exec_cvts ..) fun _ _ => rfl,
      framesV_groupOp (exec_pack ..) fun _ _ => rfl,
      framesV_groupOp (exec_unpk ..) fun _ _ => rfl⟩,
    fun _ _ _ _ =>
      ⟨framesV_groupOp (exec_voteAny ..) fun _ _ => rfl,
      framesV_groupOp (exec_voteAll ..) fun _ _ => rfl,
      framesV_groupOp (exec_voteEq ..) fun _ _ => rfl,
      framesV_groupOp (exec_voteBallot ..) fun _ _ => rfl,
      framesV_groupOp (exec_voteElect ..) fun _ _ => rfl,
      framesV_groupOp (exec_voteMatch ..) fun _ _ => rfl⟩,
    fun _ _ _ _ =>
      ⟨framesS_groupOp (exec_sadd ..) fun _ _ => rfl,
      framesS_groupOp (exec_ssub ..) fun _ _ => rfl,
      framesS_groupOp (exec_smul ..) fun _ _ => rfl,
      framesS_groupOp (exec_smulh ..) fun _ _ => rfl,
      framesS_groupOp (exec_smin ..) fun _ _ => rfl,
      framesS_groupOp (exec_smax ..) fun _ _ => rfl,
      framesS_groupOp (exec_sand ..) fun _ _ => rfl,
      framesS_groupOp (exec_sor ..) fun _ _ => rfl,
      framesS_groupOp (exec_sxor ..) fun _ _ => rfl,
      framesS_groupOp (exec_sandn ..) fun _ _ => rfl,
      framesS_groupOp (exec_sshl ..) fun _ _ => rfl,
      framesS_groupOp (exec_sshr ..) fun _ _ => rfl,
      framesS_groupOp (exec_srot ..) fun _ _ => rfl⟩,
    fun _ _ _ _ _ _ =>
      ⟨framesS_groupOp (exec_saddi ..) fun _ _ => rfl,
      framesS_groupOp (exec_slit ..) fun _ _ => rfl⟩⟩

/-- Settles O50: the body of each word of the access stream's arithmetic writes its A register. -/
theorem accessArithmeticFrames : Obligations.AccessArithmeticFrames := by
  unfold Obligations.AccessArithmeticFrames
  intro st
  exact fun _ _ _ _ _ _ =>
    ⟨framesA_accessOp (exec_aadd ..) fun _ => rfl,
    framesA_accessOp (exec_asub ..) fun _ => rfl,
    framesA_accessOp (exec_amul ..) fun _ => rfl,
    framesA_accessOp (exec_amulh ..) fun _ => rfl,
    framesA_accessOp (exec_aand ..) fun _ => rfl,
    framesA_accessOp (exec_aor ..) fun _ => rfl,
    framesA_accessOp (exec_axor ..) fun _ => rfl,
    framesA_accessOp (exec_ashl ..) fun _ => rfl,
    framesA_accessOp (exec_ashr ..) fun _ => rfl,
    framesA_accessOp (exec_asra ..) fun _ => rfl,
    framesA_accessOp (exec_amin ..) fun _ => rfl,
    framesA_accessOp (exec_amax ..) fun _ => rfl,
    framesA_accessOp (exec_aminn ..) fun _ => rfl,
    framesA_accessOp (exec_amaxn ..) fun _ => rfl,
    framesA_accessOp (exec_aaddi ..) fun _ => rfl,
    framesA_accessOp (exec_ali ..) fun _ => rfl,
    framesA_accessOp (exec_alim ..) fun _ => rfl,
    framesA_accessOp (exec_alit ..) fun _ => rfl,
    framesA_accessOp (exec_aliq ..) fun _ => rfl⟩

end Sys2Proof.Machine
end

section

namespace Sys2Proof.Machine

/-! Element results and flags (O52, O53). A word that applies one function to the sub-elements of its sources leaves that function's values in its
destination, and no flag where the function raises none. What each function gives is a fact about numbers below 2^w. -/

section
variable {st : State} {i : Instr} {m : BitVec 1} {sp : IssueSpec} {d a b : BitVec 6} {ok : Group → Bool}

/-- A one-source word leaves its function's values, sub-element by sub-element. -/
theorem elements_elem1 {f : Group → Nat → NumRes} {v : Group → Nat → Nat} (hd : d.toNat < 32)
    (he : exec i st = groupOp st m sp fun g s => .done (g.writeOut d (elem1 g s g.et.width a (f g))))
    (hv : ∀ g x, ok g = true → x < 2 ^ g.et.width → (f g x).bits % 2 ^ g.et.width = v g x) :
    st.elements i m sp d ok fun g p => v g (g.srcAt a p) :=
  elements_of hd (completes_of he fun _ _ _ => rfl) (fun _ _ => rfl) fun g _ _ _ ho _ => hv g _ ho (srcAt_lt ..)

/-- A two-source word leaves its function's values, sub-element by sub-element. -/
theorem elements_elem2 {f : Group → Nat → Nat → NumRes} {v : Group → Nat → Nat → Nat} (hd : d.toNat < 32)
    (he : exec i st = groupOp st m sp fun g s => .done (g.writeOut d (elem2 g s g.et.width a b (f g))))
    (hv : ∀ g x y, ok g = true → x < 2 ^ g.et.width → y < 2 ^ g.et.width → (f g x y).bits % 2 ^ g.et.width = v g x y) :
    st.elements i m sp d ok fun g p => v g (g.srcAt a p) (g.srcAt b p) :=
  elements_of hd (completes_of he fun _ _ _ => rfl) (fun _ _ => rfl) fun g _ _ _ ho _ => hv g _ _ ho (srcAt_lt ..) (srcAt_lt ..)

/-- A one-source word whose function raises no flag leaves STAT as it was. -/
theorem keepsFlags_elem1 {f : Group → Nat → NumRes} (he : exec i st = groupOp st m sp fun g s => .done (g.writeOut d (elem1 g s g.et.width a (f g))))
    (hv : ∀ g x, ok g = true → (f g x).flags = 0#8) : st.keepsFlags i m sp ok :=
  keepsFlags_of (completes_of he fun _ _ _ => rfl) (fun _ _ => rfl) fun g _ _ _ ho => hv g _ ho

/-- A two-source word whose function raises no flag leaves STAT as it was. -/
theorem keepsFlags_elem2 {f : Group → Nat → Nat → NumRes}
    (he : exec i st = groupOp st m sp fun g s => .done (g.writeOut d (elem2 g s g.et.width a b (f g))))
    (hv : ∀ g x y, ok g = true → (f g x y).flags = 0#8) : st.keepsFlags i m sp ok :=
  keepsFlags_of (completes_of he fun _ _ _ => rfl) (fun _ _ => rfl) fun g _ _ _ ho => hv g _ _ ho

end

/-! Arithmetic that wraps: SAT = 0 and a type other than T2 (R244). -/

/-- The types and modes under which arithmetic wraps. -/
theorem wraps_iff {g : Group} : (!g.sat && decide (g.et ≠ .t2)) = true ↔ g.sat = false ∧ g.et ≠ .t2 := by simp

theorem intBin_bits_of_wraps {g : Group} (h : (!g.sat && decide (g.et ≠ .t2)) = true) (f : Int → Int → Int) (x y : Nat) :
    (intBin g.et g.sat f x y).bits = low g.et.width (f (readInt g.et x).1 (readInt g.et y).1) := by
  obtain ⟨hs, ht⟩ := wraps_iff.1 h
  rw [hs]
  exact storeInt_wraps _ ht _

/-- Only a T2 code raises a flag when it is read (R245). -/
theorem readInt_flags {t : ETy} (ht : t ≠ .t2) (x : Nat) : (readInt t x).2 = 0#8 := by
  unfold readInt
  split
  · exact absurd rfl ht
  · rfl

/-- A store that wraps raises no flag (R244). -/
theorem storeInt_flags_of_wraps {t : ETy} (ht : t ≠ .t2) (r : Int) : (storeInt t false r).flags = 0#8 := by
  unfold storeInt
  dsimp only
  split
  · exact absurd rfl ht
  · rfl

theorem intBin_flags_of_wraps {f : Int → Int → Int} (g : Group) (x y : Nat) (h : (!g.sat && decide (g.et ≠ .t2)) = true) :
    (intBin g.et g.sat f x y).flags = 0#8 := by
  obtain ⟨hs, ht⟩ := wraps_iff.1 h
  simp only [hs, intBin, joinFlags, storeInt_flags_of_wraps ht, readInt_flags ht, BitVec.or_zero]

/-- A left shift that wraps is a product with a power of two, modulo 2^w. -/
theorem low_shl {t : ETy} (ht : t ≠ .t2) (x k : Nat) : low t.width ((readInt t x).1 * 2 ^ k) = x * 2 ^ k % 2 ^ t.width := by
  refine low_of_emod _ _ _ ?_
  rw [Int.mul_emod, emod_nat t ht, ← Int.mul_emod]
  norm_cast

/-! Values below 2^w. -/

/-- Clearing the bits that two numbers share leaves those of the first under the other's complement. -/
theorem xor_and_eq_and_compl {w x y : Nat} (hx : x < 2 ^ w) (hy : y < 2 ^ w) : x ^^^ (x &&& y) = x &&& (2 ^ w - 1 - y) := by
  refine Nat.eq_of_testBit_eq fun i => ?_
  rw [Nat.testBit_xor, Nat.testBit_and, Nat.testBit_and, show 2 ^ w - 1 - y = 2 ^ w - (y + 1) by omega, Nat.testBit_two_pow_sub_succ hy]
  rcases Nat.lt_or_ge i w with hi | hi
  · cases x.testBit i <;> simp [hi]
  · rw [Nat.testBit_lt_two_pow (Nat.lt_of_lt_of_le hx (Nat.pow_le_pow_right (by decide) hi))]
    rfl

/-- The carry of a sum of two numbers below n. -/
theorem carry_eq {n x y : Nat} (hx : x < n) (hy : y < n) : (x + y) / n = if n ≤ x + y then 1 else 0 := by
  split
  next h => exact Nat.div_eq_of_lt_le (by omega) (by omega)
  next h => exact Nat.div_eq_of_lt (by omega)

/-- A carry or borrow fits every width. -/
theorem bit_mod_two_pow (t : ETy) (c : Prop) [Decidable c] : (if c then 1 else 0) % 2 ^ t.width = if c then 1 else 0 := by
  have hw : 1 < 2 ^ t.width := by cases t <;> decide
  split
  · exact Nat.mod_eq_of_lt hw
  · exact Nat.zero_mod _

/-- Settles O52: what each word's function gives on values below 2^w. -/
theorem elementResults : Obligations.ElementResults := by
  unfold Obligations.ElementResults
  intro st m d a b c hd
  refine ⟨elements_elem2 (v := fun g x y => (x + y) % 2 ^ g.et.width) hd (exec_add ..) fun g x y ho _ _ => ?add,
    elements_elem2 (v := fun g x y => (x + 2 ^ g.et.width - y) % 2 ^ g.et.width) hd (exec_sub ..) fun g x y ho _ hy => ?sub,
    elements_elem2 (v := fun g x y => x * y % 2 ^ g.et.width) hd (exec_mul ..) fun g x y ho _ _ => ?mul,
    elements_elem2 (v := fun _ x y => x &&& y) hd (exec_and ..) fun g x y _ _ hy => ?and,
    elements_elem2 (v := fun _ x y => x ||| y) hd (exec_or ..) fun g x y _ hx hy => ?or,
    elements_elem2 (v := fun _ x y => x ^^^ y) hd (exec_xor ..) fun g x y _ hx hy => ?xor,
    elements_elem2 (v := fun g x y => x &&& (2 ^ g.et.width - 1 - y)) hd (exec_andn ..) fun g x y _ hx hy => ?andn,
    elements_elem2 (v := fun g x y => if 2 ^ g.et.width ≤ x + y then 1 else 0) hd (exec_addc ..) fun g x y _ hx hy => ?addc,
    elements_elem2 (v := fun _ x y => if x < y then 1 else 0) hd (exec_subb ..) fun g x y _ _ _ => ?subb,
    elements_elem2 (v := fun _ x y => min x y) hd (exec_min ..) fun g x y ho hx hy => ?min,
    elements_elem2 (v := fun _ x y => max x y) hd (exec_max ..) fun g x y ho hx hy => ?max,
    elements_elem2 (v := fun g x y => x * 2 ^ (y % g.et.width) % 2 ^ g.et.width) hd (exec_shl ..) fun g x y ho _ _ => ?shl,
    elements_elem2 (v := fun g x y => x / 2 ^ (y % g.et.width)) hd (exec_shr ..) fun g x y ho hx _ => ?shr,
    elements_elem1 (v := fun g x => 2 ^ g.et.width - 1 - x) hd (exec_not ..) fun g x _ hx => ?not,
    elements_elem1 (v := fun _ x => x) hd (exec_mov ..) fun g x _ hx => Nat.mod_eq_of_lt hx,
    elements_of hd (completes_of (exec_sel ..) fun _ _ _ => rfl) (fun _ _ => rfl) fun g s t e _ he => ?sel⟩
  case add => simp only [intBin_bits_of_wraps ho, low_add _ (wraps_iff.1 ho).2, Nat.mod_mod]
  case sub => simp only [intBin_bits_of_wraps ho, low_sub _ (wraps_iff.1 ho).2 _ _ hy, Nat.mod_mod]
  case mul => simp only [intBin_bits_of_wraps ho, low_mul _ (wraps_iff.1 ho).2, Nat.mod_mod]
  case shl =>
    obtain ⟨hs, ht⟩ := wraps_iff.1 ho
    simp only [hs, shlRes, storeInt_wraps _ ht, low_shl ht, Nat.mod_mod]
  case and => simp only [bitBin, Nat.mod_eq_of_lt (Nat.and_lt_two_pow x hy)]
  case or => simp only [bitBin, Nat.mod_eq_of_lt (Nat.or_lt_two_pow hx hy)]
  case xor => simp only [bitBin, Nat.mod_eq_of_lt (Nat.xor_lt_two_pow hx hy)]
  case andn => simp only [bitBin, xor_and_eq_and_compl hx hy, Nat.mod_eq_of_lt (Nat.lt_of_le_of_lt Nat.and_le_left hx)]
  case addc => simp only [bitBin, carry_eq hx hy, bit_mod_two_pow]
  case subb => simp only [bitBin, bit_mod_two_pow]
  case min => simp only [intExact, readInt_N _ ho _ hx, readInt_N _ ho _ hy, ← Nat.cast_min, low_nat, Nat.mod_eq_of_lt (min_lt_of_left_lt hx)]
  case max => simp only [intExact, readInt_N _ ho _ hx, readInt_N _ ho _ hy, ← Nat.cast_max, low_nat, Nat.mod_eq_of_lt (max_lt hx hy)]
  case shr =>
    have hlt : x / 2 ^ (y % g.et.width) < 2 ^ g.et.width := Nat.lt_of_le_of_lt (Nat.div_le_self ..) hx
    simp only [shrRes, readInt_N _ ho _ hx]
    rw [show ((x : Int) / 2 ^ (y % g.et.width)) = ((x / 2 ^ (y % g.et.width) : Nat) : Int) by norm_cast, low_nat, Nat.mod_mod, Nat.mod_eq_of_lt hlt]
  case not =>
    have hlt : 2 ^ g.et.width - 1 - x < 2 ^ g.et.width := by
      have := Nat.two_pow_pos g.et.width
      omega
    exact Nat.mod_eq_of_lt hlt
  case sel =>
    have ht : (t * (64 / g.et.width) + e) / (64 / g.et.width) = t := by
      rw [Nat.add_comm, Nat.add_mul_div_right _ _ (Nat.zero_lt_of_lt he), Nat.div_eq_of_lt he, Nat.zero_add]
    have he' : (t * (64 / g.et.width) + e) % (64 / g.et.width) = e := by
      rw [Nat.add_comm, Nat.add_mul_mod_self_right, Nat.mod_eq_of_lt he]
    dsimp only
    rw [ht, he']
    refine Nat.mod_eq_of_lt ?_
    split <;> exact srcAt_lt ..

/-- Settles O53: no function of these words raises a flag. -/
theorem flaglessWordsKeepFlags : Obligations.FlaglessWordsKeepFlags := by
  unfold Obligations.FlaglessWordsKeepFlags
  intro st m d a b c h l
  refine ⟨keepsFlags_elem2 (exec_and ..) fun _ _ _ _ => rfl, keepsFlags_elem2 (exec_or ..) fun _ _ _ _ => rfl,
    keepsFlags_elem2 (exec_xor ..) fun _ _ _ _ => rfl, keepsFlags_elem2 (exec_andn ..) fun _ _ _ _ => rfl,
    keepsFlags_elem2 (exec_shr ..) fun _ _ _ _ => rfl, keepsFlags_elem2 (exec_rot ..) fun _ _ _ _ => rfl,
    keepsFlags_elem2 (exec_addc ..) fun _ _ _ _ => rfl, keepsFlags_elem2 (exec_subb ..) fun _ _ _ _ => rfl,
    keepsFlags_elem1 (exec_not ..) fun _ _ _ => rfl, keepsFlags_elem1 (exec_clz ..) fun _ _ _ => rfl,
    keepsFlags_elem1 (exec_ctz ..) fun _ _ _ => rfl, keepsFlags_elem1 (exec_popc ..) fun _ _ _ => rfl,
    keepsFlags_elem1 (exec_brev ..) fun _ _ _ => rfl, keepsFlags_elem2 (exec_add ..) intBin_flags_of_wraps, keepsFlags_elem2 (exec_sub ..) intBin_flags_of_wraps,
    keepsFlags_elem2 (exec_mul ..) intBin_flags_of_wraps, keepsFlags_elem2 (exec_shl ..) fun g x y ho => ?shl, keepsFlags_elem2 (exec_absd ..) intBin_flags_of_wraps,
    keepsFlags_of (completes_of (exec_sel ..) fun _ _ _ => rfl) (fun _ _ => rfl) fun _ _ _ _ _ => rfl, keepsFlags_elem1 (exec_mov ..) fun _ _ _ => rfl,
    keepsFlags_of (completes_of (exec_lit ..) fun _ _ _ => rfl) (fun _ _ => rfl) fun _ _ _ _ _ => rfl⟩
  case shl =>
    obtain ⟨hs, ht⟩ := wraps_iff.1 ho
    rw [hs, shlRes, storeInt_flags_of_wraps ht]

end Sys2Proof.Machine
end

section

namespace Sys2Proof.Machine

/-! Illegal words (O58). Which operand fields and which codes of MODE.ET the checks at an issue refuse; the order of the checks is log entry 17. -/

theorem dstOk_eq_false_iff {d : BitVec 6} : dstOk d = false ↔ 32 ≤ d.toNat ∧ d.toNat ≠ 36 ∧ d.toNat ≠ 37 ∧ d.toNat ≠ 38 := by
  simp [dstOk, and_assoc]

theorem srcOk_eq_false_iff {a : BitVec 6} : srcOk a = false ↔ a.toNat = 36 ∨ a.toNat = 37 ∨ a.toNat = 39 ∨ 43 ≤ a.toNat ∧ a.toNat ≤ 47 := by
  simp [srcOk]
  omega

theorem sfuDst_eq_false_iff {d : BitVec 6} : sfuDst d = false ↔ 32 ≤ d.toNat ∧ d.toNat ≠ 38 := by
  simp [sfuDst, isV, isZ]

/-- A two-source word is illegal where a field is. -/
theorem binSpec_legal_eq_false_iff {d a b : BitVec 6} {mode : Group → Bool} :
    (binSpec d a b mode).legal = false ↔ dstOk d = false ∨ srcOk a = false ∨ srcOk b = false := by
  simp only [binSpec, Bool.and_eq_false_iff, or_assoc]

/-- A one-source word is illegal where a field is. -/
theorem unSpec_legal_eq_false_iff {d a : BitVec 6} {mode : Group → Bool} :
    (unSpec d a mode).legal = false ↔ dstOk d = false ∨ srcOk a = false := by
  simp only [unSpec, Bool.and_eq_false_iff]

/-- An SFU word is illegal where a field is. -/
theorem sfuSpec_legal_eq_false_iff {d a : BitVec 6} : (sfuSpec d a).legal = false ↔ sfuDst d = false ∨ srcOk a = false := by
  simp only [sfuSpec, Bool.and_eq_false_iff]

/-- A two-source word whose fields are legal is legal. -/
theorem binSpec_legal {d a b : BitVec 6} {mode : Group → Bool} (hd : dstOk d = true) (ha : srcOk a = true) (hb : srcOk b = true) :
    (binSpec d a b mode).legal = true := by
  simp [binSpec, hd, ha, hb]

/-- The codes of MODE.ET that integer words take (R266). -/
theorem intEt_iff (g : Group) : intEt g = true ↔ (g.mode.extractLsb' 0 4).toNat < 8 ∨ (g.mode.extractLsb' 0 4).toNat = 14 := by
  have h : ∀ n : Fin 16, ((etyOf n).isWordInt || decide (etyOf n = .i4)) = true ↔ n.val < 8 ∨ n.val = 14 := by decide
  exact h ⟨_, (g.mode.extractLsb' 0 4).isLt⟩

/-- The code of MODE.ET that names T2 (R266). -/
theorem et_eq_t2_iff (g : Group) : g.et = .t2 ↔ (g.mode.extractLsb' 0 4).toNat = 15 := by
  have h : ∀ n : Fin 16, etyOf n = .t2 ↔ n.val = 15 := by decide
  exact h ⟨_, (g.mode.extractLsb' 0 4).isLt⟩

/-- The codes of MODE.ET that floating-point words take (R266). -/
theorem fpEt_iff (g : Group) : fpEt g = true ↔ 8 ≤ (g.mode.extractLsb' 0 4).toNat ∧ (g.mode.extractLsb' 0 4).toNat ≤ 11 := by
  have h : ∀ n : Fin 16, (etyOf n).isFp = true ↔ 8 ≤ n.val ∧ n.val ≤ 11 := by decide
  exact h ⟨_, (g.mode.extractLsb' 0 4).isLt⟩

/-- The codes of MODE.ET that words of integers and T2 take (R266). -/
theorem intT2Et_iff (g : Group) :
    intT2Et g = true ↔ (g.mode.extractLsb' 0 4).toNat < 8 ∨ (g.mode.extractLsb' 0 4).toNat = 14 ∨ (g.mode.extractLsb' 0 4).toNat = 15 := by
  rw [intT2Et, Bool.or_eq_true, decide_eq_true_eq, intEt_iff, et_eq_t2_iff, or_assoc]

/-- A floating-point word under a code of MODE.ET outside 8 to 11. -/
theorem fpEt_eq_false {g : Group} (h : (g.mode.extractLsb' 0 4).toNat < 8 ∨ 11 < (g.mode.extractLsb' 0 4).toNat) : fpEt g = false := by
  rw [← Bool.not_eq_true, fpEt_iff]
  omega

/-- Settles O58: each word's fields or MODE fail the check that its trap answers. -/
theorem illegalWordsTrap : Obligations.IllegalWordsTrap := by
  unfold Obligations.IllegalWordsTrap
  intro st m d a b i
  refine ⟨fun h => trapsIllegal_of (exec_add ..) ?add, fun h => trapsIllegal_of (exec_fadd ..) ?fadd, fun h => trapsIllegal_of (exec_mov ..) ?mov,
    fun h => trapsIllegal_of (exec_cvt ..) ?cvt, fun h => trapsIllegal_of (exec_frcp ..) ?frcp, fun h => trapsIllegal_of (exec_gets ..) ?gets,
    fun h => trapsIllegal_of (exec_moder ..) ?moder, fun hd ha hb => trapsMode_of (exec_add ..) (binSpec_legal hd ha hb) fun g h => ?addMode,
    fun hd ha hb => trapsMode_of (exec_mul ..) (binSpec_legal hd ha hb) fun g h => ?mulMode,
    fun hd ha hb => trapsMode_of (exec_fadd ..) (binSpec_legal hd ha hb) fun _ => fpEt_eq_false,
    fun hd ha hb => trapsMode_of (exec_fmax ..) (binSpec_legal hd ha hb) fun _ => fpEt_eq_false⟩
  case add | fadd =>
    rw [binSpec_legal_eq_false_iff, dstOk_eq_false_iff, srcOk_eq_false_iff, srcOk_eq_false_iff]
    omega
  case mov | cvt =>
    rw [unSpec_legal_eq_false_iff, dstOk_eq_false_iff, srcOk_eq_false_iff]
    exact h
  case frcp =>
    rw [sfuSpec_legal_eq_false_iff, sfuDst_eq_false_iff, srcOk_eq_false_iff]
    exact h
  case gets => simpa [ctlSpec, isS, imp_iff_not_or] using h
  case moder => simpa [ctlSpec, isS] using h
  case addMode =>
    rw [← Bool.not_eq_true, binSpec, intT2Et_iff]
    omega
  case mulMode =>
    rw [← Bool.not_eq_true, binSpec, intEt_iff]
    omega

end Sys2Proof.Machine
end

section

namespace Sys2Proof.Machine

/-! MODE and the state registers (O14, O19). A value is written where it passes the word's own check, and the word traps where it does not. -/

theorem setMode_of_modeOk {g : Group} {x : BitVec 32} (h : modeOk x = true) : setMode g x = .done { g with mode := x } := if_pos h

theorem setMode_of_not_modeOk {g : Group} {x : BitVec 32} (h : modeOk x = false) : setMode g x = .trap illegal := if_neg (by simp [h])

/-- A group-level meaning traps where its body does. -/
theorem traps_of_groupOp {st : State} {i : Instr} {m : BitVec 1} {sp : IssueSpec} {bad : State → Group → Split → Prop} {t : Trap}
    {F : Group → Split → GEff} (he : exec i st = groupOp st m sp F) (hF : ∀ x g s, bad x g s → F g s = .trap t) : st.traps i m sp bad t :=
  traps_of he fun x g s _ hb => by simp only [hF x g s hb]

/-- Settles O14: MODE takes the value where it is one that MODE may hold. -/
theorem modeWritesComplete : Obligations.ModeWritesComplete := by
  unfold Obligations.ModeWritesComplete
  intro st m a i
  exact ⟨completes_of (exec_modei ..) fun _ _ => setMode_of_modeOk, completes_of (exec_moder ..) fun _ _ => setMode_of_modeOk,
    traps_of_groupOp (exec_modei ..) fun _ _ _ => setMode_of_not_modeOk, traps_of_groupOp (exec_moder ..) fun _ _ _ => setMode_of_not_modeOk⟩

/-! PUTS (R118). -/

/-- The check that PUTS makes before it writes: STAT may be written anywhere, the other registers in a handler, and TPC with a multiple of 4 (R44, R118). -/
def putsRefused (g : Group) (n v : Nat) : Bool :=
  !(decide (n = 4) || ((decide (n = 5) || decide (n = 6) || decide (n = 7) || decide (n = 8) || decide (n = 16)) && g.tlevel)) ||
    (decide (n = 6) && decide (v % 4 ≠ 0))

/-- PUTS makes that check on the value it takes, and traps where it is refused. -/
theorem exec_puts_checks (m : BitVec 1) (a : BitVec 6) (i : BitVec 12) (st : State) : ∃ write : State → Group → Split → IEff,
    exec (.puts m a i) st = issueC st m { pcSpec (isS a && decide (i.toNat ≤ 16)) with srcs := [a] } fun x g s =>
      if putsRefused g i.toNat ((g.srcS a).toNat % 2 ^ putsWidth i.toNat) then .trap illegal x else write x g s :=
  ⟨_, rfl⟩

/-- Outside a handler, and for a register that it does not name, PUTS is refused but for STAT. -/
theorem putsRefused_of_not_writable {g : Group} {n : Nat} (v : Nat) (hn : n ≠ 4) (h : g.tlevel = false ∨ n ∉ [5, 6, 7, 8, 16]) : putsRefused g n v = true := by
  rcases h with h | h
  · simp [putsRefused, hn, h]
  · simp only [List.mem_cons, List.not_mem_nil, or_false, not_or] at h
    simp [putsRefused, hn, h]

/-- A TPC that is no multiple of 4 is refused. -/
theorem putsRefused_of_unaligned {g : Group} {v : Nat} (h : v % 4 ≠ 0) : putsRefused g 6 v = true := by
  simp [putsRefused, h]

/-- In a handler PUTS writes the registers it names, TPC with a multiple of 4. -/
theorem not_putsRefused_of_tlevel {g : Group} {n v : Nat} (hl : g.tlevel = true) (hn : n ∈ [5, 7, 8, 16] ∨ n = 6 ∧ v % 4 = 0) :
    ¬ putsRefused g n v = true := by
  rcases hn with hn | ⟨rfl, hv⟩
  · simp only [List.mem_cons, List.not_mem_nil, or_false] at hn
    rcases hn with rfl | rfl | rfl | rfl <;> simp [putsRefused, hl]
  · simp [putsRefused, hl, hv]

/-- Settles O19: under its clause's condition each word's body is done, or traps. -/
theorem stateAccessCompletes : Obligations.StateAccessCompletes := by
  unfold Obligations.StateAccessCompletes
  intro st m d a b f i
  obtain ⟨write, hputs⟩ := exec_puts_checks m a i st
  refine ⟨fun y v => acts_of (exec_gets ..) fun x g s _ h => ?gets, fun v => acts_of (exec_puts ..) fun x g s _ h => ?stat,
    fun v => acts_of (exec_puts ..) fun x g s _ h => ?tcause, fun v => acts_of (exec_puts ..) fun x g s _ h => ?tpc,
    fun v => acts_of (exec_puts ..) fun x g s _ h => ?tinfo, fun v => acts_of (exec_puts ..) fun x g s _ h => ?taddr,
    acts_of (exec_puts ..) fun x g s _ h => ?census, traps_of hputs fun x g s _ h => ?noReg,
    traps_of hputs fun x g s _ h => ?unaligned, fun y v => acts_of (exec_clockCycle ..) fun x g s _ h => ?cycle,
    fun y v => acts_of (exec_clockHubcyc ..) fun x g s _ h => ?hubcyc, fun y v => acts_of (exec_clockPtpns ..) fun x g s _ h => ?ptpns,
    fun id rest => acts_of (exec_gset ..) fun x g s _ h => ?resolves, acts_of (exec_gset ..) fun x g s _ h => ?keeps⟩
  case gets | cycle | hubcyc | ptpns => simp only [h]
  case stat => subst h; rfl
  case tcause | tinfo | taddr =>
    obtain ⟨rfl, hl⟩ := h
    exact if_neg (not_putsRefused_of_tlevel hl (.inl (by decide)))
  case tpc =>
    obtain ⟨rfl, hl, hv⟩ := h
    exact if_neg (not_putsRefused_of_tlevel hl (.inr ⟨rfl, hv⟩))
  case census => exact (if_neg (not_putsRefused_of_tlevel h (.inl (by decide)))).trans (apply_ite IEff.done ..).symm
  case noReg => exact if_pos (putsRefused_of_not_writable _ h.1 h.2)
  case unaligned =>
    have hv : (g.srcS a).toNat % 2 ^ 52 % 4 ≠ 0 := by omega
    rw [h.1]
    exact if_pos (putsRefused_of_unaligned hv)
  case resolves => simp only [h]
  case keeps => simp only [h.1, if_neg (Nat.not_le.mpr h.2)]

end Sys2Proof.Machine
end

section

namespace Sys2Proof.Machine

/-! A step's turn (O51). Where the first candidate that can issue has its word, the turn is what `exec` answers for that word. -/

/-- The first answer of a list stands at the first element that has one. -/
theorem firstSome_append {α β : Type} {f : α → Option β} {l l' : List α} {a : α} {b : β} (hl : ∀ e ∈ l, f e = none) (ha : f a = some b) :
    firstSome f (l ++ a :: l') = some b := by
  induction l with
  | nil => simp only [List.nil_append, firstSome, ha]
  | cons e l ih =>
    rw [List.cons_append, firstSome, hl e List.mem_cons_self]
    exact ih fun e' he' => hl e' (List.mem_cons_of_mem _ he')

/-- A word that lies where a stream fetches it is what the fetch gives (R28). -/
theorem fetch_of_wordAt {x y : State} {c gid : Nat} {acc : Bool} {pc : Word} {w : BitVec 32} (h : WordAt x c gid acc pc w y) :
    x.fetch c gid acc pc = .word w y := by
  obtain ⟨hr, leaf, pa, z, d, hacc, hline, rfl⟩ := h
  rw [State.fetch]
  simp only [if_neg (Nat.not_le.mpr hr), hacc, hline]

/-- An attempt whose choice the log takes and whose word issues answers what the word does. -/
theorem attempt_of_issued {st st1 r : State} {gid : Nat} {g : Group} {log : State → Option State} {run : State → Ans} (ho : g.outside = false)
    (hl : log st = some st1) (hr : run st1 = .next r) (hi : st1.issued gid g r = true) : st.attempt gid g log run = some (.next r) := by
  simp only [State.attempt, ho, hl, hr, hi, Bool.false_eq_true, if_false, if_true]

/-- The issue of the word at a split's PC is `exec` of the instruction it decodes to (R27, R28). -/
theorem runSplit_of_wordAt {x y : State} {gid slot : Nat} {g : Group} {s : Split} {w : BitVec 32} {i : Instr} (ht : (x.trapTurn gid g false).isSome = true)
    (hw : WordAt x (x.ctxOf g) gid false s.pc w y) (hi : decodeComp w = some i) :
    x.runSplit gid slot g s = exec i { y with issuer := { group := gid, slot := slot } } := by
  rw [State.runSplit, if_neg (by simp [Option.isSome_iff_ne_none.mp ht])]
  simp only [fetch_of_wordAt hw, hi]

/-- The issue of the word at an access PC is `exec` of the instruction it decodes to (R27, R28). -/
theorem runAccess_of_wordAt {x y : State} {gid : Nat} {g : Group} {w : BitVec 32} {i : Instr} (ht : (x.trapTurn gid g true).isSome = true)
    (hw : WordAt x (x.ctxOf g) gid true g.apc w y) (hi : decodeAcc w = some i) :
    x.runAccess gid g = exec i { y with issuer := { group := gid, slot := 4 } } := by
  rw [State.runAccess, if_neg (by simp [Option.isSome_iff_ne_none.mp ht])]
  simp only [fetch_of_wordAt hw, hi]

/-- A split that may issue and whose word issues gives its pipe's attempt (R59). -/
theorem trySplit_of_turn {b x r : State} {gid slot : Nat} {g0 g : Group} {s : Split} {run : State → Group → Split → Ans} (h : SplitTurn b gid slot g0 g s x)
    (hr : run x g s = .next r) (hi : x.issued gid g r = true) : b.trySplit gid slot run = some (.next r) := by
  obtain ⟨hg, hm, hs, ⟨hmay, hiss, hpark, hslot⟩, -, ho, ⟨z, hz, hx⟩, -⟩ := h
  subst hm
  have hpark' : (g0.parked.all fun p => decide (p = slot)) = true := by
    cases hq : g0.parked with
    | none => rfl
    | some p => exact decide_eq_true (hpark p hq)
  simp only [State.trySplit, hg, hs, hmay, hiss, hpark', hslot, Bool.and_self, if_true]
  refine attempt_of_issued ho ?_ hr hi
  simp only [hz]
  exact hx

/-- An access stream that may issue and whose word issues gives its front end's attempt (R85). -/
theorem tryAccess_of_turn {b x r : State} {gid : Nat} {g : Group} {run : State → Group → Ans} (h : AccessTurn b gid g x)
    (hr : run x g = .next r) (hi : x.issued gid g r = true) : b.tryAccess gid run = some (.next r) := by
  obtain ⟨hg, ⟨hmay, hroot, hiss, hspill, hend⟩, ho, hx, -⟩ := h
  simp only [State.tryAccess, hg, hmay, hroot, hiss, hspill, hend, Bool.not_false, Bool.and_self, if_true]
  exact attempt_of_issued ho hx hr hi

/-- The Weir's turn is `exec` of the instruction at its kernel's PC (R375). -/
theorem weirTurn_of_word {st : State} {port : Nat} {r : WeirRun} {k : WeirSlot} {w : BitVec 32} {i : Instr} (hr : (mgetD st.weirs port {}).run = some r)
    (hk : mget (mgetD st.weirs port {}).slots r.slot = some k) (hw : k.code[r.pc]? = some w) (hi : decodeWeir w = some i) : st.weirTurn port = exec i st := by
  simp only [State.weirTurn, hr, hk, hw, hi]

/-- A machine operation's turn is `exec` of it while its unit's clock runs (R362, R441). -/
theorem eventTurn_of_runs {st : State} {i : Instr} (hi : isetOf i = .event) (hf : st.frozen = true → runsFrozen i = true)
    (hp : st.inP3 = true → runsInP3 i = true) : st.eventTurn i = exec i st := by
  have hstill : ¬ ((st.frozen && !runsFrozen i) || (st.inP3 && !runsInP3 i)) = true := by
    simpa using ⟨hf, hp⟩
  simp only [State.eventTurn, hi, if_neg hstill]

/-- Settles O51: the turn of each kind, with the first candidate that can issue. -/
theorem stepRunsTheDecodedInstruction : Obligations.StepRunsTheDecodedInstruction := by
  unfold Obligations.StepRunsTheDecodedInstruction
  refine ⟨fun b i ht hi hf hp => ?event, fun b port r k w i ht hf hp hr hk hw hi => ?weir,
    fun b core pipe gid slot l l' g0 g s x y t w i ht ho hl hs hw hi he hn => ?pipe,
    fun b core quad gid l l' g x y t w i ht ho hl ha hw hi he hn => ?frontEnd⟩
  case event =>
    rw [step, ht]
    exact eventTurn_of_runs hi hf hp
  case weir =>
    have hclock : ¬ (b.begin.frozen || b.begin.inP3) = true := by simp [hf, show b.begin.inP3 = false from hp]
    rw [step, ht, State.turn, if_neg hclock]
    exact weirTurn_of_word hr hk hw hi
  case pipe =>
    have hrun : (if x.isRoot g then x.rootTurn gid slot g s else x.runSplit gid slot g s) = .next t := by
      rw [if_neg (by simp [hs.own]), runSplit_of_wordAt hs.turn hw hi, he]
    have htry : b.begin.trySplit gid slot (fun st g s => if st.isRoot g then st.rootTurn gid slot g s else st.runSplit gid slot g s) = some (.next t) :=
      trySplit_of_turn hs hrun hn
    rw [step, ht, State.turn, State.pipeTurn, ho, firstSome_append hl htry, he]
    rfl
  case frontEnd =>
    have hrun : x.runAccess gid g = .next t := by rw [runAccess_of_wordAt ha.turn hw hi, he]
    rw [step, ht, State.turn, State.frontTurn, ho, firstSome_append hl (tryAccess_of_turn ha hrun hn), he]
    rfl

end Sys2Proof.Machine
end

section

namespace Sys2Proof.Machine

/-! Trap entry (O59). The group's own part is `Group.enter`; what surrounds it reads the vector block and takes an acquire, which of the groups touches only
the other groups' unperformed lines. -/

/-! An acquire (R202). -/

theorem raisePts_groups (st : State) (core t : Nat) : (st.raisePts core t).groups = st.groups := rfl

theorem raisePts_mem (st : State) (core t : Nat) : (st.raisePts core t).mem = st.mem := rfl

theorem acquire_mem (st : State) (gid scope : Nat) : (st.acquire gid scope).mem = st.mem := by
  unfold State.acquire State.acquireFrom
  dsimp only
  split <;> rfl

/-- An acquire leaves the groups as its binding of lines does. -/
theorem acquire_groups (st : State) (gid scope : Nat) :
    (st.acquire gid scope).groups =
      ((st.raisePts (gCore gid) (mgetD st.groups gid { wg := 0 }).amark).bindSeen gid scope (mgetD st.groups gid { wg := 0 }).nextId).groups := by
  unfold State.acquire State.acquireFrom
  dsimp only
  split <;> rfl

/-- The binding of lines leaves the acquiring group as it was. -/
theorem bindSeen_get_same (st : State) (gid scope k : Nat) : mget (st.bindSeen gid scope k).groups gid = mget st.groups gid := by
  unfold State.bindSeen
  dsimp only
  rw [mget_mmap]
  simp

/-- Of another group the binding of lines changes the accesses in the memory unit alone. -/
theorem bindSeen_get_other (st : State) (gid scope k j : Nat) :
    (mget (st.bindSeen gid scope k).groups j).map (fun o => { o with memq := [] }) = (mget st.groups j).map fun o => { o with memq := [] } := by
  unfold State.bindSeen
  dsimp only
  rw [mget_mmap, Option.map_map]
  congr 1
  funext o
  dsimp only [Function.comp_apply]
  split <;> rfl

/-- An acquire leaves the group that takes it as it was. -/
theorem acquire_get_same (st : State) (gid scope : Nat) : mget (st.acquire gid scope).groups gid = mget st.groups gid := by
  rw [acquire_groups, bindSeen_get_same, raisePts_groups]

/-- Of another group an acquire changes the accesses in the memory unit alone. -/
theorem acquire_get_other (st : State) (gid scope j : Nat) :
    (mget (st.acquire gid scope).groups j).map (fun o => { o with memq := [] }) = (mget st.groups j).map fun o => { o with memq := [] } := by
  rw [acquire_groups, bindSeen_get_other, raisePts_groups]

/-! The group that enters its handler. -/

/-- The group whose trapped stream waits for nothing any more, as entry first makes it. -/
def Group.resumed (g : Group) (p : Pend) : Group := if p.acc then g else g.updSplit p.slot fun s => { s with wait := .ready }

/-- That changes its splits alone. -/
theorem resumed_eq (g : Group) (p : Pend) : g.resumed p = { g with splits := (g.resumed p).splits, handler := (g.resumed p).handler } := by
  unfold Group.resumed
  split
  · rfl
  · exact (updSplit_kept ..).1

@[simp] theorem resumed_v (g : Group) (p : Pend) : (g.resumed p).v = g.v := by rw [resumed_eq]
@[simp] theorem resumed_p (g : Group) (p : Pend) : (g.resumed p).p = g.p := by rw [resumed_eq]
@[simp] theorem resumed_s (g : Group) (p : Pend) : (g.resumed p).s = g.s := by rw [resumed_eq]
@[simp] theorem resumed_a (g : Group) (p : Pend) : (g.resumed p).a = g.a := by rw [resumed_eq]
@[simp] theorem resumed_d (g : Group) (p : Pend) : (g.resumed p).d = g.d := by rw [resumed_eq]
@[simp] theorem resumed_tiles (g : Group) (p : Pend) : (g.resumed p).tiles = g.tiles := by rw [resumed_eq]
@[simp] theorem resumed_stat (g : Group) (p : Pend) : (g.resumed p).stat = g.stat := by rw [resumed_eq]
@[simp] theorem resumed_present (g : Group) (p : Pend) : (g.resumed p).present = g.present := by rw [resumed_eq]
@[simp] theorem resumed_live (g : Group) (p : Pend) : (g.resumed p).live = g.live := by rw [resumed_eq]; rfl

/-- A changed split is read back changed. -/
theorem updSplit_splitAt_same (g : Group) (slot : Nat) (f : Split → Split) : (g.updSplit slot f).splitAt slot = (g.splitAt slot).map f := by
  unfold Group.updSplit
  cases hs : g.splitAt slot with
  | none => exact hs
  | some s =>
    dsimp only [Option.map_some]
    unfold Group.setSplit Group.splitAt
    split
    · rfl
    · exact mget_mset_same ..

/-- The splits that the trap is not of stand as they were. -/
theorem resumed_splitAt_other (g : Group) (p : Pend) {j : Nat} (hj : j ≠ p.slot) : (g.resumed p).splitAt j = g.splitAt j := by
  unfold Group.resumed
  split
  · rfl
  · exact (updSplit_kept ..).2 j hj

/-- What entry keeps of the group in its frame (R410). -/
def Group.trapFrame (g : Group) (p : Pend) : Frame :=
  { lq := g.lq, sq := g.sq, xq := g.xq, mode := g.mode, s15 := g.getS 15, a31 := g.getA 31,
    bad := g.poison.filter fun k => decide (k = pkS 15) || decide (k = pkA 31), guards := g.guards, apc := g.apc, aend := g.aend,
    await := if p.acc then .ready else g.await, why := p }

/-- Entry of the group so made: the frame, the emptied queues, the trap registers, the handler split and access part, and HDATA in S15 and A31 (R410). -/
theorem enter_eq (g : Group) (n : Nat) (p : Pend) (blk : Nat) : g.enter n p blk = (({ g.resumed p with
    frame := some (g.trapFrame p), lq := [], sq := [], xq := [], guards := [], mode := 0x000A000A#32, tcause := causeCode p.trap.cause,
    tpc := (g.resumed p).trapPc p % 2 ^ 52, tinfo := tinfoOf n p.acc p.trap.detail, taddr := p.trap.addr % 2 ^ 52, tlevel := true, watchdog := 0,
    parked := none,
    handler := some { pc := BitVec.ofNat 64 blk, mask := if (g.resumed p).live = 0 then (g.resumed p).present else (g.resumed p).live },
    apc := BitVec.ofNat 64 (blk / 2 ^ 64), aend := false, await := .ready, astall := false, entering := none } : Group).putS 15
      (BitVec.ofNat 64 (blk / 2 ^ 128))).putA 31 (BitVec.ofNat 64 (blk / 2 ^ 128)) := rfl

/-- The PC that a trap reports is the stream's own, before and after it stands ready again (R44). -/
theorem trapPc_resumed (g : Group) (p : Pend) :
    (g.resumed p).trapPc p = if p.acc then g.apc.toNat else ((g.splitAt p.slot).map fun s => s.pc.toNat).getD 0 := by
  unfold Group.trapPc Group.resumed
  by_cases ha : p.acc = true
  · rw [if_pos ha, if_pos ha, if_pos ha]
  · rw [if_neg ha, if_neg ha, if_neg ha, updSplit_splitAt_same]
    cases g.splitAt p.slot <;> rfl

/-- The S and A registers but S15 and A31 stand as they were. -/
theorem enter_getS_other (g : Group) (n : Nat) (p : Pend) (blk : Nat) {r : Nat} (hr : r ≠ 15) : (g.enter n p blk).getS r = g.getS r := by
  rw [enter_eq, Group.getS, Group.putA_s, ← Group.getS, Group.getS_putS_other _ _ _ _ hr, Group.getS]
  exact congrArg (mgetD · r 0) (resumed_s g p)

theorem enter_getA_other (g : Group) (n : Nat) (p : Pend) (blk : Nat) {r : Nat} (hr : r ≠ 31) : (g.enter n p blk).getA r = g.getA r := by
  rw [enter_eq, Group.getA_putA_other _ _ _ _ hr, Group.getA, Group.putS_a]
  exact congrArg (fun m => if r = 0 then 0 else mgetD m r 0) (resumed_a g p)

/-- S15 and A31 hold HDATA. -/
theorem enter_getS_15 (g : Group) (n : Nat) (p : Pend) (blk : Nat) : (g.enter n p blk).getS 15 = BitVec.ofNat 64 (blk / 2 ^ 128) := by
  rw [enter_eq, Group.getS, Group.putA_s]
  exact Group.getS_putS ..

theorem enter_getA_31 (g : Group) (n : Nat) (p : Pend) (blk : Nat) : (g.enter n p blk).getA 31 = BitVec.ofNat 64 (blk / 2 ^ 128) := by
  rw [enter_eq]
  exact Group.getA_putA _ _ _ (by decide)

/-- TPC is the trapped stream's own PC (R44, R410). -/
theorem enter_tpc (g : Group) (n : Nat) (p : Pend) (blk : Nat) :
    (g.enter n p blk).tpc = (if p.acc then g.apc.toNat else ((g.splitAt p.slot).map fun s => s.pc.toNat).getD 0) % 2 ^ 52 := by
  rw [enter_eq, Group.putA_tpc, Group.putS_tpc, trapPc_resumed]

/-- The handler split stands at HCPC with the live threads, or with the present ones where none lives (R410). -/
theorem enter_handler (g : Group) (n : Nat) (p : Pend) (blk : Nat) :
    (g.enter n p blk).handler = some { pc := BitVec.ofNat 64 blk, mask := if g.live = 0 then g.present else g.live } := by
  rw [enter_eq, Group.putA_handler, Group.putS_handler, resumed_live, resumed_present]

/-- The other splits stand as they were. -/
theorem enter_splitAt_other (g : Group) (n : Nat) (p : Pend) (blk : Nat) {j : Nat} (hj : j ≠ p.slot) (h5 : j ≠ 5) :
    (g.enter n p blk).splitAt j = g.splitAt j := by
  rw [← resumed_splitAt_other g p hj, enter_eq, Group.splitAt, Group.splitAt, if_neg h5, if_neg h5, Group.putA_splits, Group.putS_splits]

/-! The state that entry leaves. -/

/-- A group with nothing held, nothing poisoned and a legal vector block enters its handler (R409, R410). -/
theorem enterTrap_done {st y : State} {n : Nat} {g k : Group} {p : Pend} {leaf : Word} {pa blk : Nat} (hg : mget st.groups n = some g) (hp : g.entering = some p)
    (hd : g.drained = true) (h1 : (g.commitWith false).2 = none) (h2 : (g.commitWith false).1.commitWith true = (k, none))
    (hr : (st.putGroup n k).accessNow (st.ctxOf k) (.stream n false) 0x10000 .r 0 false = .ok leaf pa y) (ht : y.tracked (st.ctxOf k) leaf = false)
    (hb : blk = y.read pa 128) (hv : vectorOk blk = true) : st.enterTrap n = (y.acquire n 5).updGroup n fun g => g.enter n p blk := by
  rw [hb] at hv ⊢
  unfold State.enterTrap
  simp only [hg, hp, hd, if_true, h1, h2, List.append_nil]
  simp only [hr, ht, hv, Bool.false_eq_true, if_false, if_true]

/-- Settles O59: entry reaches its last steps, whose group is the one that `enter` makes. -/
theorem trapEntryEntersTheHandler : Obligations.TrapEntryEntersTheHandler := by
  unfold Obligations.TrapEntryEntersTheHandler
  intro st n g k h p leaf pa blk y hg hp hd h1 h2 hr ht hh hb hb4 hb64 hb192
  have hv : vectorOk blk = true := by simp only [vectorOk, hb4, hb64, hb192, decide_true, Bool.and_self]
  have hx : exec (.trapEntry n) st = .next ((y.acquire n 5).updGroup n fun g => g.enter n p blk) := by
    rw [exec_trapEntry, execTrapEntry]
    simp only [hg, hp, Option.isSome_some, if_true, enterTrap_done hg hp hd h1 h2 hr ht hb hv]
  have hn : mget ((y.acquire n 5).updGroup n fun g => g.enter n p blk).groups n = some (h.enter n p blk) := by
    rw [State.updGroup_get, acquire_get_same, hh]
    rfl
  refine ⟨_, _, hx, hn, fun j hj => State.updGroup_other _ _ _ _ hj, fun j hj => ?_, fun a => ?_, ?_⟩
  · rw [State.updGroup_other _ _ _ _ hj, acquire_get_other]
  · rw [State.read, State.updGroup_mem, acquire_mem, State.read]
  · exact ⟨rfl, rfl, enter_tpc .., rfl, rfl, rfl, rfl, rfl, rfl, rfl, rfl, enter_getS_15 .., enter_getA_31 .., enter_handler .., rfl,
      ⟨h.trapFrame p, rfl, rfl, rfl, rfl, rfl, rfl, rfl, rfl, rfl, rfl⟩, resumed_v h p, resumed_p h p, resumed_d h p, resumed_tiles h p, resumed_stat h p,
      fun r hr => enter_getS_other _ _ _ _ hr, fun r hr => enter_getA_other _ _ _ _ hr, fun j hj h5 => enter_splitAt_other _ _ _ _ hj h5⟩

end Sys2Proof.Machine
end

section

namespace Sys2Proof.Machine

/-! Barriers (O15). An arrival that passes its word's test meets the episode as it stands: idle, with the arrival's own mask, with another one, or broken
(R67 to R70). -/

/-- BAR's test refuses every arrival but one of all live threads with a mask that names the group, and none at or beyond G (R67, R68). -/
theorem bar_refused_iff {mask live : Mask} {x k : Nat} {named : Bool} :
    (mask ≠ live ∨ 2 ^ k ≤ x ∨ (!named) = true) ↔ ¬ (mask = live ∧ x < 2 ^ k ∧ named = true) := by
  simp only [not_and_or, Nat.not_lt, Bool.not_eq_true, Bool.not_eq_true', ne_eq]

/-- SYNCS's test refuses every mask but one of 32 bits that leaves out no active thread of the split and names no absent one (R67, R68). -/
theorem syncs_refused_iff {x : Nat} {out absent : Mask} : (2 ^ 32 ≤ x ∨ out ≠ 0 ∨ absent ≠ 0) ↔ ¬ (x < 2 ^ 32 ∧ out = 0 ∧ absent = 0) := by
  simp only [not_and_or, Nat.not_lt, ne_eq]

/-- Settles O15: the word's test passes or fails by the clause's condition, and the episode's mask and state choose the arrival's effect. -/
theorem barriersComplete : Obligations.BarriersComplete := by
  unfold Obligations.BarriersComplete
  intro st m a
  refine ⟨acts_of (exec_bar ..) fun x g s _ h => ?barOpens, acts_of (exec_bar ..) fun x g s _ h => ?barJoins,
    fun k => trapsWith_of (exec_bar ..) fun x g s _ h => ?barBreaks, fun k => trapsWith_of (exec_bar ..) fun x g s _ h => ?barBroken,
    traps_of (exec_bar ..) fun x g s _ h => if_pos (bar_refused_iff.mpr h),
    acts_of (exec_syncs ..) fun x g s _ h => ?syncsOpens, acts_of (exec_syncs ..) fun x g s _ h => ?syncsJoins,
    fun k => trapsWith_of (exec_syncs ..) fun x g s _ h => ?syncsBreaks, fun k => trapsWith_of (exec_syncs ..) fun x g s _ h => ?syncsBroken,
    traps_of (exec_syncs ..) fun x g s _ h => if_pos (syncs_refused_iff.mpr h),
    acts_of (exec_gbar ..) fun x g s _ h => ?gbarArrives, acts_of (exec_gbar ..) fun x g s _ h => ?gbarBroken,
    traps_of (exec_gbar ..) fun x g s _ h => if_pos h, traps_of (exec_gbar ..) fun x g s _ h => ?gbarPartial⟩
  case barOpens =>
    obtain ⟨hl, hx, hn, hidle⟩ := h
    exact (if_neg (fun hr => bar_refused_iff.mp hr ⟨hl, hx, hn⟩)).trans (by simp only [hidle])
  case barJoins =>
    obtain ⟨hl, hx, hn, hmask, hwhole⟩ := h
    exact (if_neg (fun hr => bar_refused_iff.mp hr ⟨hl, hx, hn⟩)).trans (by simp only [hmask, hwhole, Bool.false_eq_true, if_false, if_true])
  case barBreaks =>
    obtain ⟨hl, hx, hn, hmask, hwhole, hother⟩ := h
    exact (if_neg (fun hr => bar_refused_iff.mp hr ⟨hl, hx, hn⟩)).trans (by simp only [hmask, hwhole, Bool.false_eq_true, if_false, if_neg hother]; rfl)
  case barBroken =>
    obtain ⟨hl, hx, hn, hmask, hbroken⟩ := h
    exact (if_neg (fun hr => bar_refused_iff.mp hr ⟨hl, hx, hn⟩)).trans (by simp only [hmask, hbroken, if_true]; rfl)
  case syncsOpens =>
    obtain ⟨hx, ho, ha, hidle⟩ := h
    exact (if_neg (fun hr => syncs_refused_iff.mp hr ⟨hx, ho, ha⟩)).trans (by simp only [hidle])
  case syncsJoins =>
    obtain ⟨hx, ho, ha, hmask, hwhole⟩ := h
    exact (if_neg (fun hr => syncs_refused_iff.mp hr ⟨hx, ho, ha⟩)).trans (by simp only [hmask, hwhole, Bool.false_eq_true, if_false, if_true])
  case syncsBreaks =>
    obtain ⟨hx, ho, ha, hmask, hwhole, hother⟩ := h
    exact (if_neg (fun hr => syncs_refused_iff.mp hr ⟨hx, ho, ha⟩)).trans (by simp only [hmask, hwhole, Bool.false_eq_true, if_false, if_neg hother]; rfl)
  case syncsBroken =>
    obtain ⟨hx, ho, ha, hmask, hbroken⟩ := h
    exact (if_neg (fun hr => syncs_refused_iff.mp hr ⟨hx, ho, ha⟩)).trans (by simp only [hmask, hbroken, if_true]; rfl)
  case gbarArrives =>
    obtain ⟨hcoop, hall, hwhole⟩ := h
    simp [hcoop, hall, hwhole]
  case gbarBroken =>
    obtain ⟨hcoop, hall, hbroken⟩ := h
    simp [hcoop, hall, hbroken]
  case gbarPartial =>
    obtain ⟨hcoop, hpart⟩ := h
    simp [hcoop, hpart, mismatch]

/-! LAUNCH (O17). -/

/-- Settles O17: who issues the word, and where its descriptor lies, decide between the request, the refusal with 7 and the traps. -/
theorem launchCompletes : Obligations.LaunchCompletes := by
  unfold Obligations.LaunchCompletes
  intro st m d a b
  refine ⟨fun y desc reason gs => acts_of (exec_launch ..) fun x g s _ h => ?launched, acts_of (exec_launch ..) fun x g s _ h => ?refused,
    fun y desc reason gs z e leaf pa => acts_of (exec_launch ..) fun x g s _ h => ?listed, traps_of (exec_launch ..) fun x g s _ h => ?notRoot,
    traps_of (exec_launch ..) fun x g s _ h => ?notLeader, traps_of (exec_launch ..) fun x g s _ h => ?tooDeep,
    traps_of (exec_launch ..) fun x g s _ h => ?misaligned⟩
  case launched =>
    obtain ⟨hb, hlead, hdepth, halign, hnear, hread⟩ := h
    simp only [hb, hlead, decide_eq_false (Nat.not_le.mpr hdepth), halign, if_neg (Nat.not_le.mpr hnear), hread, Bool.false_and, Bool.and_false, Bool.not_false,
      ne_eq, not_true_eq_false, decide_false, Bool.false_eq_true, if_false, if_true]
  case refused =>
    obtain ⟨hb, hroot, hmis | hfar⟩ := h
    · simp only [hb, hroot, hmis, Bool.not_true, Bool.and_false, Bool.false_and, Bool.false_eq_true, ne_eq, not_false_eq_true, if_false, if_true]
    · simp only [hb, hroot, if_pos hfar, Bool.not_true, Bool.and_false, Bool.false_and, Bool.false_eq_true, if_false, if_true, ite_self]
  case listed =>
    obtain ⟨hb, hroot, halign, hnear, hread, hentry⟩ := h
    simp only [hb, hroot, halign, if_neg (Nat.not_le.mpr hnear), hread, hentry, Bool.not_true, Bool.and_false, Bool.false_and, Bool.false_eq_true, ne_eq,
      not_true_eq_false, if_false]
  case notRoot =>
    obtain ⟨hb, hroot⟩ := h
    simp [hb, hroot]
  case notLeader =>
    obtain ⟨hb, hlead⟩ := h
    simp [hb, hlead, mismatch]
  case tooDeep =>
    obtain ⟨hb, hlead, hdepth⟩ := h
    simp [hb, hlead, hdepth]
  case misaligned =>
    obtain ⟨hb, hlead, hdepth, halign⟩ := h
    simp [hb, hlead, Nat.not_le.mpr hdepth, halign]

end Sys2Proof.Machine
end

section

namespace Sys2Proof.Machine

/-! Waits that end (O43). -/

/-- A split whose wait of one kind has ended, in a context that lets it go on and with its recorder's leave, goes on at the next instruction (R65, R90, R352, R423). -/
theorem releaseSplit_of_freed {st y : State} {kind gid slot : Nat} {g : Group} {s : Split} (hg : mget st.groups gid = some g) (hs : g.splitAt slot = some s)
    (hw : s.wait = .freed kind) (hk : st.wakes g = true) (hy : st.releaseGate gid slot g = some y) :
    st.releaseSplit kind gid slot = y.updGroup gid fun g => { g.updSplit slot (fun s => { s with wait := .ready, pc := s.pc + 4 }) with watchdog := 0 } := by
  simp only [State.releaseSplit, hg, hs, hw, hk, and_self, if_true, hy]

/-- An access stream whose AWAITC has ended goes on likewise (R174). -/
theorem execAwaitcRelease_of_freed {st y : State} {gid : Nat} {g : Group} (hg : mget st.groups gid = some g) (hw : g.await = .freed)
    (hk : st.wakes g = true) (hy : st.releaseGate gid 4 g = some y) :
    execAwaitcRelease gid st = .next (y.updGroup gid fun g => { g with await := .ready, apc := g.apc + 4, watchdog := 0 }) := by
  simp only [execAwaitcRelease, hg, hw, hk, and_self, if_true, hy]

/-- A watchdog that has run out faults the context of a group at trap level, and is a pending trap of any other (R91, R412). -/
theorem execWatchdogExpiry_of_le {st : State} {gid : Nat} {g : Group} (hg : mget st.groups gid = some g) (hw : 2 ^ (st.ctx (st.ctxOf g)).wdog ≤ g.watchdog) :
    execWatchdogExpiry gid st =
      .next (if g.tlevel then st.contextFault gid g.handled 17 else st.postTrap gid { trap := { cause := .watchdog }, kind := .async }) := by
  simp only [execWatchdogExpiry, hg, if_neg (Nat.not_lt.mpr hw)]

/-- The RESULT word of an open fault entry, once read, closes the entry: MAPPED frees what waited for the page, DECLINED ends it, and whatever else is
held asks again (R339, R340). -/
theorem execPageFaultResult_of_read {st z : State} {c i r : Nat} {f : PageFault} (hf : (st.ctx c).faults[i]? = some f) (hr : st.resultRead c f = some (r, z)) :
    execPageFaultResult c i st = .next (
      let y := z.updCtx c fun x => { x with faults := x.faults.filter fun q => decide (q.index ≠ f.index) }
      if r = 1 then (y.pageMapped c f.page).askAgain c else if r = 2 then (y.pageDeclined c f.page f.detail).askAgain c else st.askAgain c) := by
  simp only [execPageFaultResult, hf, hr]

/-- Settles O43: each event finds the wait, the trap or the answer that its clause names. -/
theorem waitsAndTrapEntryComplete : Obligations.WaitsAndTrapEntryComplete := by
  unfold Obligations.WaitsAndTrapEntryComplete
  intro st n m
  refine ⟨exec_gbarRelease n m st, fun g s y hg hs hw hk hy => ?waitc, fun g s y hg hs hw hk hy => ?waitm, fun g s y hg hs hw hk hy => ?joinc,
    fun x g s y hx hg hs hw hk hy => ?sleep, fun g y hg hw hk hy => ?awaitc, fun g hg hw => ⟨fun ht => ?doubleFault, fun ht => ?watchdog⟩,
    fun g hg he => ?enters, fun g p hg he hp => ?takes, fun f r z y hf hr hy => ⟨fun h1 => ?mapped, fun h2 => ?declined⟩, fun g s y hg hs hw hy => ?flushed⟩
  case waitc => rw [exec_waitcRelease, execWaitcRelease, releaseSplit_of_freed hg hs hw hk hy]
  case waitm => rw [exec_waitmRelease, execWaitmRelease, releaseSplit_of_freed hg hs hw hk hy]
  case joinc => rw [exec_joincRelease, execJoincRelease, releaseSplit_of_freed hg hs hw hk hy]
  case sleep =>
    subst hx
    exact congrArg _ (releaseSplit_of_freed hg hs hw hk hy)
  case awaitc => rw [exec_awaitcRelease, execAwaitcRelease_of_freed hg hw hk hy]
  case doubleFault => rw [exec_watchdogExpiry, execWatchdogExpiry_of_le hg hw, if_pos ht]
  case watchdog => rw [exec_watchdogExpiry, execWatchdogExpiry_of_le hg hw, if_neg (by simp [ht])]
  case enters => simp only [exec_trapEntry, execTrapEntry, hg, he, if_true]
  case takes => simp only [exec_trapEntry, execTrapEntry, hg, he, Option.isSome_none, Bool.false_eq_true, if_false, hp]
  case mapped =>
    subst hy
    rw [exec_pageFaultResult, execPageFaultResult_of_read hf hr]
    exact congrArg _ (if_pos h1)
  case declined =>
    subst hy
    rw [exec_pageFaultResult, execPageFaultResult_of_read hf hr]
    exact congrArg _ ((if_neg (by simp [h2])).trans (if_pos h2))
  case flushed => simp only [exec_censusFlush, execCensusFlush, hg, hs, hw, hy, if_true, Option.map_some, Option.getD_some]

end Sys2Proof.Machine
end

section

namespace Sys2Proof.Machine

/-! The distributor (O42). The bound on a block of serials is log entry 66, the shares of contexts and what keeps a placement back log entries 53 and 77. -/

/-- The answer to the launch request `i`, which is `r`: its split takes the value and goes on, and the request is gone (R111). -/
def State.answerLaunch (st : State) (i : Nat) (r : LaunchReq) (v : Nat) : State :=
  { st.updGroup r.group (fun g => (g.putS r.dreg (BitVec.ofNat 64 v)).updSplit r.slot fun s => { s with wait := .ready, pc := s.pc + 4 }) with
      launches := st.launches.eraseIdx i }

/-- A block of serials is not far where no workgroup is live, or it ends less than 2^38 beyond the oldest live one (R51). -/
theorem blockFar_eq_false {st : State} {c n : Nat} (h : st.oldest c (st.ctx c).serial = 0 ∨ st.oldest c (st.ctx c).serial + n < 2 ^ 38) : st.blockFar c n = false := by
  rcases h with h | h
  · simp only [State.blockFar, h, ne_eq, not_true_eq_false, decide_false, Bool.false_and]
  · simp only [State.blockFar, decide_eq_false (Nat.not_le.mpr h), Bool.and_false]

section
variable {st : State} {i : Nat} {r : LaunchReq} {g : Group} {s : Split}

/-- A request that is refused is answered with its reason (R111). -/
theorem execGridAccept_refused (hr : st.launches[i]? = some r) (hg : mget st.groups r.group = some g) (hs : g.splitAt r.slot = some s) (hw : s.wait = .launch)
    (h0 : r.reason ≠ 0) : execGridAccept i st = .next (st.answerLaunch i r (r.reason * 2 ^ 56)) := by
  simp only [execGridAccept, hr, hg, hs, hw, Option.bind_some, Option.map_some, ne_eq, not_true_eq_false, if_false, h0, not_false_eq_true, if_true]
  rfl

/-- A request whose block of serials fits, before which nothing is owed and which has its ticket is answered with the identifier of its grid (R51, R108, R111, R113). -/
theorem execGridAccept_accepted {y z : State} {id t : Nat} (hr : st.launches[i]? = some r) (hg : mget st.groups r.group = some g)
    (hs : g.splitAt r.slot = some s) (hw : s.wait = .launch) (h0 : r.reason = 0) (hfar : st.blockFar r.ctx (r.desc.x * r.desc.y * r.desc.z) = false)
    (howes : st.owesBefore r.group = false) (hseq : st.seqTicket r.ctx 1 (locOf r.group 0) g.icntC = some (y, t))
    (hz : y.enterGrid r.ctx r.desc r.depth r.tag r.doneAt r.parent r.gates false = (z, id)) :
    execGridAccept i st = .next (((match r.parent with | some p => z.updWg p (fun w => { w with children := w.children ++ [id] }) | none => z).trace
      0 1 (some r.ctx) 0 (r.tag + id * 2 ^ 64 + r.depth * 2 ^ 96)).answerLaunch i r id) := by
  simp only [execGridAccept, hr, hg, hs, hw, Option.bind_some, Option.map_some, ne_eq, not_true_eq_false, if_false, h0, hfar, howes, Bool.or_self,
    Bool.false_eq_true, hseq, hz]
  rfl

end

/-- No grid of the context that goes before grid `g` of key `m` fits on the cluster or keeps it for itself (R80, R82). -/
def State.NoneAbove (st : State) (n m cl : Nat) (g : Grid) : Prop :=
  ∀ e ∈ st.grids, e.2.ctx = n → e.1 ≠ gridKey n m → st.placeable e.2 = true → e.2.before g = true → e.2.left cl ≠ 0 →
    e.2.coop = false ∧ e.2.expired = false ∧ st.findCluster cl e.2.desc = none

section
variable {st : State} {n m cl : Nat} {g : Grid}

/-- Then WORKGROUP_PLACE finds none of the grids that go before in its way. -/
theorem noneAbove_any_eq_false (h : st.NoneAbove n m cl g) :
    (((st.grids.filter fun e => decide (e.2.ctx = n) && decide (e.1 ≠ gridKey n m) && st.placeable e.2 && e.2.before g && decide (e.2.left cl ≠ 0)).map (·.2)).any
      fun x => x.coop || x.expired || (st.findCluster cl x.desc).isSome) = false := by
  rw [List.any_eq_false]
  rintro x hx
  obtain ⟨e, he, rfl⟩ := List.mem_map.mp hx
  simp only [List.mem_filter, Bool.and_eq_true, decide_eq_true_eq] at he
  obtain ⟨hmem, ⟨⟨⟨hctx, hkey⟩, hplace⟩, hbefore⟩, hleft⟩ := he
  obtain ⟨hcoop, hexp, hfind⟩ := h e hmem hctx hkey hplace hbefore hleft
  simp [hcoop, hexp, hfind]

/-- The checks of WORKGROUP_PLACE passed, a COOP grid is placed whole and another one by its lowest workgroup (R80, R82). -/
theorem execWorkgroupPlace_of_free (hg : mget st.grids (gridKey n m) = some g) (hp : st.placeable g = true) (hl : g.left cl ≠ 0)
    (habove : st.NoneAbove n m cl g) (hahead : st.ahead n = false) (hres : ∀ e ∈ st.grids, st.reserves cl e.2 g = false) :
    (∀ y, g.coop = true → st.placeCoop g = some y →
      execWorkgroupPlace n m cl st = .next ((y.addShare n).updGrid (gridKey n m) fun g => { g with ranges := [], expired := false })) ∧
    ∀ y, g.coop = false → st.placeOn g ((mgetD g.ranges cl []).headD (0, 0)).1 cl = some y →
      execWorkgroupPlace n m cl st = .next ((y.addShare n).updGrid (gridKey n m) fun x =>
        { x with ranges := mput g.ranges cl (runTake 1 (mgetD g.ranges cl [])).2 []
                 expired := x.expired && decide (mput g.ranges cl (runTake 1 (mgetD g.ranges cl [])).2 [] ≠ []) }) := by
  have hnone : (st.grids.any fun e => st.reserves cl e.2 g) = false := List.any_eq_false.mpr fun e he => by simp [hres e he]
  constructor
  all_goals
    intro y hc hy
    simp only [execWorkgroupPlace, hg, hp, hl, noneAbove_any_eq_false habove, hahead, hnone, hc, hy, Bool.not_true, decide_false, Bool.or_self,
      Bool.false_eq_true, if_false, if_true]

end

/-- The next buffered atomic of a grid whose workgroups have all retired performs at its scratchpad, or at its line's home through the hub (R263). -/
theorem execBufferedAtomicApply_performs {st y : State} {n m : Nat} {g : Grid} {lin serial : Nat} {a : AtomEntry} {rest : List AtomEntry}
    {more : List (Nat × Nat × List AtomEntry)}
    (hg : mget st.grids (gridKey n m) = some g) (hp : g.pendAtoms = (lin, serial, a :: rest) :: more) (hr : g.retired = g.total)
    (hy : a.glob = false ∧ st.lostTrap a.addr = none ∧
        y = (st.writeAll a.addr a.esize (atomNew a.op a.esize (st.read a.addr a.esize) a.val 0)).soil (a.bad || st.poisonedAt a.addr a.esize) a.addr ∨
      a.glob = true ∧ st.hubAtomic n a.addr a.esize .rw false a.bad (fun old => atomNew a.op a.esize old a.val 0) = .done y) :
    execBufferedAtomicApply n m st = .next ((y.updGrid (gridKey n m) fun g =>
      { g with pendAtoms := if rest = [] then more else (lin, serial, rest) :: more }).finishGrid (gridKey n m)) := by
  rcases hy with ⟨hs, hl, rfl⟩ | ⟨hs, hd⟩
  · simp only [execBufferedAtomicApply, hg, hp, hr, ne_eq, not_true_eq_false, if_false, hs, Bool.not_false, if_true, hl]
  · simp only [execBufferedAtomicApply, hg, hp, hr, ne_eq, not_true_eq_false, if_false, hs, Bool.not_true, Bool.false_eq_true, hd]

/-- Settles O42: the conditions of each clause are those that its event asks, and answer its state. -/
theorem distributorsComplete : Obligations.DistributorsComplete := by
  unfold Obligations.DistributorsComplete
  intro st n m cl i
  refine ⟨fun r g s hr hg hs hw h0 => ?refused, fun r g s y id z w t hr hg hs hw h0 hfar howes hseq hz hw' => ?accepted,
    fun g y hg hp hl habove hahead hres => ?placed, exec_placementWaitExpiry n m st, fun g v u k t y hg he hl hv ht hs => ?dieSteals,
    fun g v u k t y hg he hl hv ht hs => ?clusterSteals, fun g y hg hh ho hs => ?gateOpens,
    fun g lin serial a rest more y hg hp hr hy => (exec_bufferedAtomicApply n m st).trans (execBufferedAtomicApply_performs hg hp hr hy),
    fun g y hg he h0 ha hn hd => ?doneAdded, fun g hg he h0 hbad => ?doneDropped, ⟨_, rfl, exec_elderReport n st⟩⟩
  case refused => exact (exec_gridAccept i st).trans (execGridAccept_refused hr hg hs hw h0)
  case accepted =>
    subst hw'
    exact (exec_gridAccept i st).trans (execGridAccept_accepted hr hg hs hw h0 (blockFar_eq_false hfar) howes hseq hz)
  case placed =>
    obtain ⟨hwhole, hone⟩ := execWorkgroupPlace_of_free hg hp hl habove hahead hres
    exact ⟨fun hc hy => (exec_workgroupPlace n m cl st).trans (hwhole y hc hy), fun hc hy => (exec_workgroupPlace n m cl st).trans (hone y hc hy)⟩
  case dieSteals => simp only [exec_workSteal, execWorkSteal, hg, he, hl, not_true_eq_false, ne_eq, or_self, if_true, if_false, hv, ht, hs]
  case clusterSteals =>
    simp only [exec_workSteal, execWorkSteal, hg, he, hl, not_true_eq_false, ne_eq, or_self, Bool.false_eq_true, if_false, hv, ht, hs]
  case gateOpens => simp only [exec_gateOpen, execGateOpen, hg, hh, ho, Bool.not_false, Bool.and_self, if_true, hs]
  case doneAdded =>
    simp only [exec_doneAdd, execDoneAdd, hg, he, h0, Bool.not_true, Bool.false_eq_true, or_self, if_false, ha, ne_eq, not_true_eq_false,
      if_neg (Nat.not_le.mpr hn), hd]
  case doneDropped =>
    by_cases hmis : g.doneAt % 16 = 0
    · have hfar : 2 ^ 52 ≤ g.doneAt := hbad.resolve_left (not_not.mpr hmis)
      simp only [exec_doneAdd, execDoneAdd, hg, he, h0, Bool.not_true, Bool.false_eq_true, or_self, if_false, hmis, ne_eq, not_true_eq_false, if_pos hfar]
    · simp only [exec_doneAdd, execDoneAdd, hg, he, h0, Bool.not_true, Bool.false_eq_true, or_self, if_false, hmis, ne_eq, not_false_eq_true, if_true]

end Sys2Proof.Machine
end

section

namespace Sys2Proof.Machine

/-! The engines (O46). Each event finds its command or entry, and what the event is to do with it can be done. -/

/-- What follows once a line of a command is done (R170, R227). -/
theorem endLine_done (st0 st : State) (e : EngCmd) (k : State → EngCmd → State) : st0.endLine e (.done st) k = k st { e with paged := none } := rfl

/-- Settles O46: the command may be served and its lines can be read and written, or the entry may be granted, read and performed; the flags an entry
raised are dropped where the group has gone (log entry 75). -/
theorem enginesAndMatrixComplete : Obligations.EnginesAndMatrixComplete := by
  unfold Obligations.EnginesAndMatrixComplete
  intro st n id
  refine ⟨fun line e s e1 s2 e2 hq hm hf hs hr => ?copyRead, fun line e s e1 hq hm hf hs ht => ?copyEnd,
    fun line e s e1 s2 e2 y hq hm hf hs hl hr hw => ?copyWrite, fun e y hq hi hg hn hy => ?grant, fun line e e2 y hq hr => ?granule,
    fun e e2 y z f hq ho hr hp => ⟨_, rfl, fun h => ?noFlags, fun h0 hg => ?flags⟩, fun line e s e1 s2 e2 hq hm hs hr => ?fabricRead,
    fun line e s e1 s2 e2 e3 r rs hq hm hs hrs hi hr he => ?packet⟩
  case copyRead =>
    simp only [exec_copyLine, execCopyLine, hq, hm, hf, hs, Bool.not_true, Bool.or_self, Bool.false_eq_true, if_false, if_true, hr, endLine_done]
  case copyEnd =>
    simp only [exec_copyLine, execCopyLine, hq, hm, hf, hs, Bool.not_true, Bool.or_self, Bool.false_eq_true, if_false, if_pos ht]
  case copyWrite =>
    simp only [exec_copyLine, execCopyLine, hq, hm, hf, hs, Bool.not_true, Bool.or_self, Bool.false_eq_true, if_false,
      if_neg (List.ne_nil_of_mem hl), if_pos hl, hr, hw, endLine_done]
  case grant =>
    have hfirst : ((st.ctx e.ctx).replay.isNone && decide (st.nextGrant n ≠ some e)) = false := by simpa using hn
    simp only [exec_matrixGrant, execMatrixGrant, hq, hi, hg, hfirst, Bool.not_true, Bool.or_self, Bool.false_eq_true, if_false, hy]
  case granule => simp only [exec_matrixPassComplete, execMatrixPassComplete, hq, hr]
  case noFlags =>
    simp only [exec_matrixPassComplete, execMatrixPassComplete, hq, ho, if_true, State.completePass, hr, hp]
    rw [if_pos (by simpa using h)]
  case flags =>
    simp only [exec_matrixPassComplete, execMatrixPassComplete, hq, ho, if_true, State.completePass, hr, hp, hg, h0, Bool.not_true, Bool.false_eq_true,
      or_self, if_false]
  case fabricRead => simp only [exec_fabricPacketSend, execFabricPacketSend, hq, hm, hs, Bool.not_true, Bool.false_eq_true, if_false, if_true, hr, endLine_done]
  case packet =>
    subst hrs he
    simp only [exec_fabricPacketSend, execFabricPacketSend, hq, hm, hs, Bool.not_true, Bool.false_eq_true, if_false, hi, hr, endLine_done]

end Sys2Proof.Machine
end

section

namespace Sys2Proof.Machine

/-! What a store's line leaves of memory (O60). Logs, logical times, the caches and the directory stand beside memory: of all that serving a line does, the
dirty bit of its page and its elements' bytes alone are written. -/

section Keeps
variable {α : Type} {st : State} {m : Memory}

theorem foldl_mem {l : List α} {f : State → α → State} (hf : ∀ s a, (f s a).mem = s.mem) : (l.foldl f st).mem = st.mem :=
  List.foldlRecOn (motive := fun s => s.mem = st.mem) l f rfl fun s hs a _ => (hf s a).trans hs

/-! Logs. -/

@[simp] theorem closeTake_mem (st : State) (c rid flags : Nat) : (st.closeTake c rid flags).mem = st.mem := by
  unfold State.closeTake
  split
  · dsimp only
    split <;> rfl
  · rfl

@[simp] theorem openTake_mem (st : State) (c rid : Nat) : (st.openTake c rid).mem = st.mem := by
  unfold State.openTake
  split <;> rfl

@[simp] theorem append_mem (st : State) (c rid : Nat) (r : List Nat) : (st.append c rid r).mem = st.mem := by
  unfold State.append
  dsimp only
  split
  · simp
  · split
    · simp
    · split <;> simp

theorem gate_mem {c rid : Nat} {sel ok : List Nat → Bool} {mk : List Nat} (h : st.mem = m) : AllSome (fun r => r.1.mem = m) (st.gate c rid sel ok mk) := by
  unfold State.gate
  split
  · exact .some h
  · split
    · refine .ite (.some h) ?_
      dsimp only
      split
      · exact .none
      · exact .ite (.some h) .none
    · exact .ite (.ite .none (.some ((append_mem ..).trans h))) (.some h)

theorem scratchAt_mem {c gid pa : Nat} (h : st.mem = m) : AllSome (fun s => s.mem = m) (st.scratchAt c gid pa) :=
  have hscratch {rid space port req} : AllSome (fun s => s.mem = m) (st.scratch c rid space port req) := .map (gate_mem h) fun _ hr => hr
  .ite hscratch (.ite hscratch hscratch)

/-! Giving a line up. -/

@[simp] theorem replayJumps_mem (st : State) (core c : Nat) : (st.replayJumps core c).mem = st.mem := by
  refine foldl_mem fun s q => ?_
  dsimp only
  split
  next e => exact gate_mem rfl _ e
  · rfl

@[simp] theorem jumpCore_mem (st : State) (core f : Nat) : (st.jumpCore core f).mem = st.mem := by
  unfold State.jumpCore
  dsimp only
  split
  · exact foldl_mem fun s c => replayJumps_mem s core c
  · split
    · exact foldl_mem fun s c => by split <;> simp
    · rfl

@[simp] theorem jumpDie_mem (st : State) (die f : Nat) : (st.jumpDie die f).mem = st.mem := foldl_mem fun s c => jumpCore_mem s c f

@[simp] theorem giveUp_mem (st : State) (die line : Nat) : (st.giveUp die line).mem = st.mem := by
  unfold State.giveUp
  dsimp only
  split
  · rfl
  · simp

@[simp] theorem updDir_mem (st : State) (line : Nat) (f : DirEntry → DirEntry) : (st.updDir line f).mem = st.mem := rfl

@[simp] theorem yieldLine_mem (st : State) (die line : Nat) : (st.yieldLine die line).mem = st.mem := by
  unfold State.yieldLine
  dsimp only
  split <;> simp

theorem dirGate_mem {kind holder halves nread line : Nat} (h : st.mem = m) : AllSome (fun s => s.mem = m) (st.dirGate kind holder halves nread line) := by
  unfold State.dirGate
  extract_lets cs mk sel ok o
  have ho : AllSome (fun s => s.mem = m) o := .foldl (.some h) fun _ _ ho => .bind ho fun _ hs => .map (gate_mem hs) fun _ ht => ht
  exact .ite ho (.map ho fun _ hs => hs)

theorem revokeDie_mem {die line : Nat} (h : st.mem = m) : AllSome (fun s => s.mem = m) (st.revokeDie die line) :=
  .ite (.map (dirGate_mem h) fun _ hs => (yieldLine_mem ..).trans hs) (.some h)

theorem recallHalf_mem {line half : Nat} (h : st.mem = m) : AllSome (fun s => s.mem = m) (st.recallHalf line half) :=
  .ite (.some h) (.map (dirGate_mem h) fun _ hs => hs)

theorem takeLine_mem {line : Nat} (h : st.mem = m) : AllSome (fun s => s.mem = m) (st.takeLine line) :=
  .bind (.foldl (.some h) fun _ _ ho => .bind ho fun _ hs => revokeDie_mem hs) fun _ hs => .bind (recallHalf_mem hs) fun _ ht => recallHalf_mem ht

/-! The caches. -/

@[simp] theorem countHit_mem (st : State) (die tenant owner rank lim : Nat) : (st.countHit die tenant owner rank lim).mem = st.mem := by
  unfold State.countHit
  split <;> rfl

@[simp] theorem fillL1_mem (st : State) (core line : Nat) (cp : L1Copy) : (st.fillL1 core line cp).mem = st.mem := by
  unfold State.fillL1
  dsimp only
  split
  · rfl
  · split
    · rfl
    · split <;> rfl

@[simp] theorem writeL1_mem (st : State) (core line c : Nat) (rank : Option Nat) (cp : L1Copy) : (st.writeL1 core line c rank cp).mem = st.mem := by
  unfold State.writeL1
  dsimp only
  split <;> simp

@[simp] theorem allocL2_mem (st : State) (die line c : Nat) : (st.allocL2 die line c).mem = st.mem := by
  unfold State.allocL2
  dsimp only
  split
  · rfl
  · split <;> simp

@[simp] theorem meetL2_mem (st : State) (die line c : Nat) : (st.meetL2 die line c).mem = st.mem := by
  unfold State.meetL2
  split
  · split <;> simp
  · rfl

@[simp] theorem passLine_mem (st : State) (die line : Nat) : (st.passLine die line).mem = st.mem := by
  unfold State.passLine
  split <;> simp

theorem home_mem {c cl unit kind ltime prev nread : Nat} {tracked : Bool} (h : st.mem = m) :
    AllSome (fun r => r.1.mem = m) (st.home c cl unit kind ltime prev nread tracked) := by
  unfold State.home
  extract_lets key k step mk sel ok
  have hstep : ∀ s : State, (step s).mem = s.mem := fun s => by
    unfold step
    split <;> rfl
  exact .ite (.map (gate_mem h) fun r hr => (hstep r.1).trans hr) (.some ((hstep st).trans h))

theorem l3Gate_mem {wr tracked : Bool} {die hs line : Nat} (h : st.mem = m) : AllSome (fun s => s.mem = m) (st.l3Gate wr tracked die hs line) :=
  .ite (dirGate_mem h) (.some h)

/-! Poison, times and releases. -/

@[simp] theorem soil_mem (st : State) (bad : Bool) (a : Nat) : (st.soil bad a).mem = st.mem := by
  unfold State.soil State.poison
  split
  · split <;> rfl
  · rfl

@[simp] theorem taint_mem (st old : State) (a : Access) (l : LineReq) : (st.taint old a l).mem = st.mem := by
  unfold State.taint
  split
  · rfl
  · exact foldl_mem fun s e => soil_mem ..

@[simp] theorem markU_mem (st : State) (line mask : Nat) (tracked : Bool) : (st.markU line mask tracked).mem = st.mem := rfl

@[simp] theorem released_mem (st : State) (gid scope upto : Nat) : (st.released gid scope upto).mem = st.mem := by
  unfold State.released State.published
  split <;> rfl

@[simp] theorem atomDone_mem (st : State) (gid : Nat) (a : Access) : (st.atomDone gid a).mem = st.mem := by
  unfold State.atomDone State.acquireFrom
  dsimp only
  split
  · rfl
  · split
    · split <;> rfl
    · rfl

@[simp] theorem moveGone_mem (st : State) (w : MoveWait) : (st.moveGone w).mem = st.mem := by
  unfold State.moveGone
  split <;> rfl

/-! The bytes written. -/

theorem write_mem (st : State) (a n mask v : Nat) : (st.write a n mask v).mem = st.mem.writeMask a n mask v := by
  unfold State.write
  dsimp only
  split <;> rfl

/-- A store at an L2 or at the L3 writes what its bytes make of the line (R201, R208). -/
theorem storeLine_mem {die cl unit c line cls : Nat} {by_ : Option Nat} {tracked host : Bool} {rank : Option Nat} {atomic : Bool}
    {f : Nat → Nat × Nat} : AllSome (fun r => r.2.mem = st.mem.writeMask line 128 (f (st.read line 128)).1 (f (st.read line 128)).2)
      (st.storeLine die cl unit c line cls by_ tracked host rank atomic f) := by
  unfold State.storeLine
  extract_lets old s1 core
  split
  next mask v hf =>
  rw [hf]
  refine .ite (.ite (.map (l3Gate_mem rfl) fun s hs => ?_) .none) ?_
  · extract_lets done
    have hd : done.mem = st.mem.writeMask line 128 mask v := (write_mem ..).trans (by rw [hs])
    split
    · split <;> exact hd
    · exact hd
  · split
    · exact .none
    next l hl =>
    extract_lets base w
    refine .ite .none ?_
    split
    · exact .none
    next s2 w2 he =>
    have h2 : s2.mem = st.mem := home_mem (meetL2_mem st die line c) _ he
    extract_lets s3 s4
    have h4 : s4.mem = st.mem.writeMask line 128 mask v := (write_mem ..).trans (by rw [h2])
    split
    · exact .some ((passLine_mem ..).trans h4)
    · exact .ite (.some (by simpa using h4)) (.some (by simpa using h4))

end Keeps

/-- A masked store leaves the bytes that its mask does not name. -/
theorem get_writeMask_unmasked {n mask c a : Nat} {m : Memory} {v : Nat} (h : ∀ i, i < n → c = a + i → mask.testBit i = false) :
    (m.writeMask a n mask v).get c = m.get c := by
  induction n generalizing m a mask v with
  | zero => rfl
  | succ n ih =>
    unfold Memory.writeMask
    rw [ih fun i hi hc => by
      rw [Nat.testBit_div_two]
      exact h (i + 1) (by omega) (by omega)]
    split
    next hodd =>
      refine Memory.get_set_other m a c _ fun hc => ?_
      have := h 0 (by omega) hc
      simp [Nat.testBit_zero, hodd] at this
    · rfl

theorem mem_insertBy {α : Type} {r : α → α → Bool} {x y : α} {l : List α} (h : y ∈ insertBy r x l) : y = x ∨ y ∈ l := by
  induction l with
  | nil => simpa [insertBy] using h
  | cons z t ih =>
    unfold insertBy at h
    split at h
    · simpa using h
    · rcases List.mem_cons.mp h with rfl | h
      · simp
      · rcases ih h with rfl | h <;> simp [*]

theorem mem_of_mem_orderBy {α : Type} {r : α → α → Bool} {y : α} {l : List α} (h : y ∈ orderBy l r) : y ∈ l := by
  induction l with
  | nil => exact h
  | cons x t ih =>
    rcases mem_insertBy h with rfl | h
    · simp
    · exact List.mem_cons_of_mem _ (ih h)

/-- A line's mask names bytes of its elements alone (R129). -/
theorem storeBytes_testBit {n i : Nat} {es : List Elem} (h : (storeBytes n es).1.testBit i = true) : ∃ e ∈ es, e.off ≤ i ∧ i < e.off + e.len n := by
  refine List.foldlRecOn (motive := fun acc : Nat × Nat => acc.1.testBit i = true → ∃ e ∈ es, e.off ≤ i ∧ i < e.off + e.len n)
    (orderBy es fun a b => decide (a.pos ≤ b.pos)) _ (by simp) (fun acc hacc e he hi => ?_) h
  simp only [Nat.testBit_or, Bool.or_eq_true, Nat.testBit_mul_two_pow, Nat.testBit_two_pow_sub_one, Bool.and_eq_true, decide_eq_true_eq] at hi
  rcases hi with hi | ⟨h1, h2⟩
  · exact hacc hi
  · exact ⟨e, mem_of_mem_orderBy he, h1, by omega⟩

/-! A line served. -/

/-- The dirty bit of a page is set in the eight bytes of its entry (R332). -/
theorem setDirty_get {st s : State} {c va b : Nat} {who : Who} (h : st.setDirty c who va = some s)
    (hb : ∀ te, st.cleanLeaf c who va = some te → b < te ∨ te + 8 ≤ b) : s.mem.get b = st.mem.get b := by
  unfold State.setDirty at h
  split at h
  · rw [← Option.some.inj h]
  next te hte =>
    have hor : AllSome (fun s => s.mem.get b = st.mem.get b) (st.orEntry (whoDie who) te 0x2000) :=
      .map (.bind (takeLine_mem rfl) fun _ hs => dirGate_mem hs) fun r hr => by
        rw [← hr]
        exact Memory.get_writeMask_outside _ _ _ _ _ _ (hb te hte)
    exact AllSome.map (q := fun s => s.mem.get b = st.mem.get b) hor (fun _ hr => hr) s h

/-- What stands before a unit serves a line: the dirty bit of a page that the line writes has been set. -/
theorem atLine_get {st x : State} {n b : Nat} {g : Group} {a : Access} {l : LineReq} (h : st.atLine n g a l = some x)
    (hb : l.glob = true → ∀ te, st.cleanLeaf (st.ctxOf g) (.stream n true) l.va = some te → b < te ∨ te + 8 ≤ b) : x.mem.get b = st.mem.get b := by
  have hd : AllSome (fun s => s.mem.get b = st.mem.get b) (st.dirtied (st.ctxOf g) n a l) := by
    intro s hs
    unfold State.dirtied at hs
    split at hs
    next hg => exact setDirty_get hs (hb (Bool.and_eq_true_iff.mp hg).1)
    · rw [← Option.some.inj hs]
  refine AllSome.map (q := fun s => s.mem.get b = st.mem.get b) hd (fun s hs => ?_) x h
  split
  · rwa [released_mem]
  · exact hs

/-- Serving a store's line writes its elements' bytes and nothing else (R129, R201). -/
theorem serveLine_store {st : State} {n : Nat} {g : Group} {a : Access} {l : LineReq} (hk : isStore a.kind = true) :
    AllSome (fun r => r.1.mem = st.mem.writeMask l.pa 128 (storeBytes a.esize l.elems).1 (storeBytes a.esize l.elems).2 ∧ r.2.kind = a.kind)
      (st.serveLine n g a l) := by
  cases ha : a.kind <;> rw [ha] at hk
  case store | scatter | sta =>
    simp only [State.serveLine, ha]
    obtain ⟨m, v⟩ := storeBytes a.esize l.elems
    refine .ite (.map (p := fun r : Nat × State => r.2.mem = st.mem.writeMask l.pa 128 m v) (storeLine_mem (f := fun _ => (m, v)))
      fun r hr => ⟨(taint_mem ..).trans hr, rfl⟩)
      (.map (scratchAt_mem rfl) fun s hs => ⟨?_, rfl⟩)
    rw [taint_mem, write_mem, hs]
  all_goals simp [isStore] at hk

/-! The end of a line's event: the group goes on, or ends. -/

section Gone
variable {st : State} {j : Nat}

/-- A group that is not there. -/
def State.Gone (j : Nat) (st : State) : Prop := mget st.groups j = none

theorem State.Gone.of_groups {s : State} (h : st.Gone j) (e : s.groups = st.groups) : s.Gone j := by
  unfold State.Gone
  rw [e]
  exact h

theorem unpin_groups (st : State) (die : Nat) : (st.unpin die).groups = st.groups := by
  unfold State.unpin
  split <;> rfl

theorem ringSlot_groups (fuel : Nat) (st : State) (die pos : Nat) : (st.ringSlot fuel die pos).1.groups = st.groups := by
  induction fuel generalizing st pos with
  | zero => rfl
  | succ n ih =>
    unfold State.ringSlot
    extract_lets here s
    have hs : s.groups = st.groups := by
      unfold s
      split
      · exact unpin_groups ..
      · rfl
    split
    · split
      · exact (ih ..).trans hs
      · exact hs
    · rfl

theorem ringPut_groups (st : State) (die : Nat) (r : TraceRec) : (st.ringPut die r).groups = st.groups := by
  unfold State.ringPut
  split
  next s pos he =>
    have h := ringSlot_groups ((st.die die).ring.length + 1) st die (st.die die).trpos
    rw [he] at h
    exact (State.updDie_groups ..).trans h

theorem trace_groups (st : State) (die cls : Nat) (ctx : Option Nat) (loc pay : Nat) : (st.trace die cls ctx loc pay).groups = st.groups := by
  unfold State.trace
  extract_lets d pin rp r s
  have hs : s.groups = st.groups := by
    unfold s
    split
    · rfl
    · exact ringPut_groups ..
  split
  · exact (ringPut_groups ..).trans hs
  · rfl

theorem State.Gone.wake {a n : Nat} (h : st.Gone j) : (st.wake a n).Gone j := by
  unfold State.Gone State.wake
  rw [mget_mmap, h]
  rfl

theorem State.Gone.write {a n mask v : Nat} (h : st.Gone j) : (st.write a n mask v).Gone j := by
  have hq : (st.writeQuiet a n mask v).Gone j := State.Gone.wake h
  unfold State.write
  dsimp only
  split
  · exact hq
  · exact hq

theorem State.Gone.soil {bad : Bool} {a : Nat} (h : st.Gone j) : (st.soil bad a).Gone j := by
  unfold State.soil State.poison
  split
  · split
    · exact h
    · exact h
  · exact h

theorem State.Gone.applyEarly {es : List AtomEntry} (h : st.Gone j) : (st.applyEarly es).Gone j :=
  List.foldlRecOn (motive := State.Gone j) es _ h fun _ hs _ _ => .soil (.write hs)

theorem State.Gone.dropGrid {gk : Nat} (h : st.Gone j) : (st.dropGrid gk).Gone j := by
  unfold State.dropGrid
  split
  · split
    · exact h
    · exact h
  · exact h

theorem State.Gone.gridEnd {gk : Nat} (h : st.Gone j) : (st.gridEnd gk).Gone j := by
  unfold State.gridEnd
  split
  · exact h
  next g hg =>
    extract_lets s1 s2 s3
    have h1 : s1.Gone j := h.of_groups (trace_groups ..)
    have h2 : s2.Gone j := h1
    have h3 : s3.Gone j := by
      unfold s3
      split
      · exact h2
      · extract_lets s4 left
        have h4 : s4.Gone j := h2
        unfold State.Gone
        rw [mget_mmap, h4]
        rfl
    exact h3.dropGrid

/-- By induction on the fuel: a workgroup that retires, and a grid that ends with it, bring no group back. -/
theorem State.Gone.retireWg {fuel w : Nat} (h : st.Gone j) : (st.retireWg fuel w).Gone j := by
  induction fuel generalizing st w with
  | zero => exact h
  | succ n ih =>
    unfold State.retireWg
    split
    · exact h
    · split
      · extract_lets gk s1 late s2 s3 s4
        have h3 : s3.Gone j := h.applyEarly
        have h4 : s4.Gone j := h3.gridEnd
        split
        · exact h3
        · split
          · split
            · exact ih h4
            · exact h4
          · exact h3
      · exact h

end Gone

/-- A group that its turn's end leaves in its pipe has not moved. -/
theorem settle_eq_self {st : State} {n : Nat} (h : (mget (st.settle n).groups n).isSome = true) : st.settle n = st := by
  unfold State.settle at h ⊢
  split
  · rfl
  next g hg =>
    split
    next hd =>
      have hgone : ((st.leavePipe n).retireWg 12 g.wg).Gone n := State.Gone.retireWg (mget_merase_same ..)
      simp only [hg, if_pos hd] at h
      rw [hgone] at h
      exact absurd h (by decide)
    · rfl

theorem lineServed_mem {st y : State} {n : Nat} {g : Group} {a b : Access} {l : LineReq} (hk : isStore b.kind = true)
    (h : (mget (st.lineServed y n g a b l).groups n).isSome = true) : (st.lineServed y n g a b l).mem = y.mem := by
  have hecc : ∀ s : State, s.atomEcc n g.wg b = s := fun s => if_neg fun hb => by simp [hb.1, isStore] at hk
  unfold State.lineServed at h ⊢
  rw [settle_eq_self h]
  rw [moveGone_mem]
  split
  · rw [hecc]
    exact atomDone_mem ..
  · rfl

/-- Settles O60: the byte is none of the page's entry, so that setting its dirty bit leaves it, and none of the elements', so that the line's mask does not
name it. -/
theorem storeLineFrame : Obligations.StoreLineFrame := by
  unfold Obligations.StoreLineFrame
  intro st n id va g a b l x y hl hx hy
  obtain ⟨hmem, hkind⟩ := serveLine_store hl.kind _ hy
  refine ⟨congrArg _ (performLine_ready hl hx hy), fun hg addr helems hentry => ?_⟩
  have hread : ∀ s : State, s.read addr 1 = (s.mem.get addr).toNat := fun s => Nat.add_zero _
  have hunnamed : ∀ i, i < 128 → addr = l.pa + i → (storeBytes a.esize l.elems).1.testBit i = false := fun i _ hi =>
    Bool.eq_false_iff.mpr fun hbit => by
      obtain ⟨e, he, hlo, hhi⟩ := storeBytes_testBit hbit
      have hlen : e.len a.esize ≤ a.esize := (Nat.min_le_left ..).trans (Nat.sub_le ..)
      have := helems e he
      omega
  rw [hread, hread, lineServed_mem (hkind ▸ hl.kind) hg, hmem, get_writeMask_unmasked hunnamed, atLine_get hx hentry]

end Sys2Proof.Machine
end

section

namespace Sys2Proof.Machine

/-! Counter references (O16, O29). A reference passes R102's checks or fails the first of them, in their order, whichever stream makes it. -/

/-- A word that is laid out as a counter reference: no bit above 31, and a SPACE of 2 or 3 (R101). -/
def IsCounterRef (x : Word) : Prop := x.toNat < 2 ^ 32 ∧ (bits x.toNat 31 29 = 2 ∨ bits x.toNat 31 29 = 3)

/-- The first check of R102 refuses every other word. -/
theorem counterRef_refused_iff {x : Word} :
    (2 ^ 32 ≤ x.toNat ∨ (bits x.toNat 31 29 ≠ 2 ∧ bits x.toNat 31 29 ≠ 3)) ↔ ¬ IsCounterRef x := by
  simp only [IsCounterRef, not_and_or, not_or, Nat.not_lt, ne_eq]

theorem counterAt_of_not_ref {st : State} {gid : Nat} {g : Group} {x : Word} (h : ¬ IsCounterRef x) :
    st.counterAt gid g x = .inl { cause := .viewFault } := if_pos (counterRef_refused_iff.mpr h)

theorem counterAt_of_misaligned {st : State} {gid : Nat} {g : Group} {x : Word} (h : IsCounterRef x) (ho : bits x.toNat 28 0 % 16 ≠ 0) :
    st.counterAt gid g x = .inl { cause := .misalign } := (if_neg fun hr => counterRef_refused_iff.mp hr h).trans (if_pos ho)

theorem counterAt_of_outside {st : State} {gid : Nat} {g : Group} {x : Word} (h : IsCounterRef x) (ho : bits x.toNat 28 0 % 16 = 0)
    (hb : st.spaceBytes g (bits x.toNat 31 29) < bits x.toNat 28 0 + 16) : st.counterAt gid g x = .inl { cause := .bounds } :=
  (if_neg fun hr => counterRef_refused_iff.mp hr h).trans ((if_neg (not_not.mpr ho)).trans (if_pos hb))

section
variable {st : State} {i : Instr} {m : BitVec 1} {sp : AccSpec} {a : BitVec 5} {f : State → Group → Nat → IEff}

/-- A counter word whose reference passes has the word's own effect at that counter. -/
theorem actsA_of_counterOp {ok : State → Group → Prop} {F : State → Group → State} (k : Nat) (he : exec i st = counterOp st m sp a f)
    (hk : ∀ x g, ok x g → x.counterAt x.issuer.group g (g.getA a.toNat) = .inr k) (hF : ∀ x g, ok x g → f x g k = .done (F x g)) :
    st.actsA i m sp ok F :=
  actsA_of he fun x g _ h => by simp only [hk x g h, hF x g h]

/-- A counter word whose reference fails a check has that check's trap, and none of the word's own effect. -/
theorem trapsA_of_counterOp {bad : State → Group → Prop} {t : Trap} (he : exec i st = counterOp st m sp a f)
    (ht : ∀ x g, bad x g → x.counterAt x.issuer.group g (g.getA a.toNat) = .inl t) : st.trapsA i m sp bad t :=
  trapsA_of he fun x g _ h => by simp only [ht x g h]

theorem counterOp_viewFault (he : exec i st = counterOp st m sp a f) :
    st.trapsA i m sp (fun _ g => ¬ IsCounterRef (g.getA a.toNat)) { cause := .viewFault } :=
  trapsA_of_counterOp he fun _ _ => counterAt_of_not_ref

theorem counterOp_misalign (he : exec i st = counterOp st m sp a f) :
    st.trapsA i m sp (fun _ g => IsCounterRef (g.getA a.toNat) ∧ bits (g.getA a.toNat).toNat 28 0 % 16 ≠ 0) { cause := .misalign } :=
  trapsA_of_counterOp he fun _ _ h => counterAt_of_misaligned h.1 h.2

theorem counterOp_bounds (he : exec i st = counterOp st m sp a f) :
    st.trapsA i m sp (fun x g => IsCounterRef (g.getA a.toNat) ∧ bits (g.getA a.toNat).toNat 28 0 % 16 = 0 ∧
      x.spaceBytes g (bits (g.getA a.toNat).toNat 31 29) < bits (g.getA a.toNat).toNat 28 0 + 16) { cause := .bounds } :=
  trapsA_of_counterOp he fun _ _ h => counterAt_of_outside h.1 h.2.1 h.2.2

/-- CTRGET and CTRGET.T hold the word they have read, once the log gives it. -/
theorem counterGet_holds {d : BitVec 5} {off src k v : Nat} {y : State} (he : exec i st = counterGet st m d a off src) :
    st.actsA i m { legal := true, async := true }
      (fun x g => x.counterAt x.issuer.group g (g.getA a.toNat) = .inr k ∧
        x.cdc (x.ctxOf g) x.issuer.group true g.icntA src (x.read (k + off) 8) = some (y, v))
      (fun _ _ => y.updGroup y.issuer.group fun g => g.holdA d.toNat (BitVec.ofNat 64 v)) :=
  actsA_of_counterOp k he (fun _ _ h => h.1) fun _ _ h => by simp only [h.2]

/-- AWAITC goes on where the counter has reached its target. -/
theorem awaitCounter_goesOn {useT : Bool} {target : Group → Nat} {k : Nat} (he : exec i st = awaitCounter st m a useT target) :
    st.actsA i m { legal := true, adv := false }
      (fun x g => x.counterAt x.issuer.group g (g.getA a.toNat) = .inr k ∧ x.reached k useT (target g) = true)
      (fun x _ => x.updGroup x.issuer.group fun q => { q with apc := q.apc + 4 }) :=
  actsA_of_counterOp k he (fun _ _ h => h.1) fun _ _ h => by simp only [h.2, if_true]

/-- And holds the stream where it has not. -/
theorem awaitCounter_waits {useT : Bool} {target : Group → Nat} {k : Nat} (he : exec i st = awaitCounter st m a useT target) :
    st.actsA i m { legal := true, adv := false }
      (fun x g => x.counterAt x.issuer.group g (g.getA a.toNat) = .inr k ∧ x.reached k useT (target g) = false)
      (fun x g => x.updGroup x.issuer.group fun q => { q with await := .counter k useT (target g) }) :=
  actsA_of_counterOp k he (fun _ _ h => h.1) fun _ _ h => by simp only [h.2, Bool.false_eq_true, if_false]

end

/-- Settles O29: each word is a counter operation, whose reference is checked before its effect. -/
theorem counterInstructionsComplete : Obligations.CounterInstructionsComplete := by
  unfold Obligations.CounterInstructionsComplete
  intro st m d a b
  exact ⟨fun k => actsA_of_counterOp k (exec_ctrset ..) (fun _ _ h => h) fun _ _ _ => rfl,
    fun k => actsA_of_counterOp k (exec_ctrsetT ..) (fun _ _ h => h) fun _ _ _ => rfl,
    fun k => actsA_of_counterOp k (exec_ctradd ..) (fun _ _ h => h) fun _ _ _ => rfl,
    fun _ _ _ => counterGet_holds (exec_ctrget ..), fun _ _ _ => counterGet_holds (exec_ctrgetT ..),
    fun _ => awaitCounter_goesOn (exec_awaitc ..), fun _ => awaitCounter_waits (exec_awaitc ..),
    fun _ => awaitCounter_goesOn (exec_awaitcT ..), fun _ => awaitCounter_waits (exec_awaitcT ..),
    counterOp_viewFault (exec_ctrset ..), counterOp_misalign (exec_ctrset ..), counterOp_bounds (exec_ctrset ..),
    counterOp_viewFault (exec_ctrsetT ..), counterOp_misalign (exec_ctrsetT ..), counterOp_bounds (exec_ctrsetT ..),
    counterOp_viewFault (exec_ctradd ..), counterOp_misalign (exec_ctradd ..), counterOp_bounds (exec_ctradd ..),
    counterOp_viewFault (exec_ctrget ..), counterOp_misalign (exec_ctrget ..), counterOp_bounds (exec_ctrget ..),
    counterOp_viewFault (exec_ctrgetT ..), counterOp_misalign (exec_ctrgetT ..), counterOp_bounds (exec_ctrgetT ..),
    counterOp_viewFault (exec_awaitc ..), counterOp_misalign (exec_awaitc ..), counterOp_bounds (exec_awaitc ..),
    counterOp_viewFault (exec_awaitcT ..), counterOp_misalign (exec_awaitcT ..), counterOp_bounds (exec_awaitcT ..)⟩

end Sys2Proof.Machine
end

section

namespace Sys2Proof.Machine

/-! Branches, jumps and calls (O12, O13), and the ends of threads and handlers (O18). -/

theorem notInHandler_of_ne {x : State} {k : IEff} (h : x.issuer.slot ≠ 5) : notInHandler x k = k := if_neg h

theorem notInHandler_of_eq {x : State} {k : IEff} (h : x.issuer.slot = 5) : notInHandler x k = .trap illegal x := if_pos h

theorem jumpTrap_of_misaligned {v : Word} (h : v.toNat % 4 ≠ 0) : jumpTrap v = some { cause := .misalign } := if_pos h

theorem jumpTrap_of_aligned {v : Word} (h : v.toNat % 4 = 0) : jumpTrap v = farTrap v := if_neg (not_not.mpr h)

/-- A split divided, or SPLIT_OVERFLOW where the table and the pending list have no room (R58). -/
def State.divideTo (x : State) (g : Group) (sides : List (Word × Mask)) : IEff :=
  match g.divide x.issuer.slot sides with
  | some g' => .done (x.putGroup x.issuer.group g')
  | none => .trap { cause := .splitOverflow } x

theorem divideTo_of_some {x : State} {g g' : Group} {sides : List (Word × Mask)} (h : g.divide x.issuer.slot sides = some g') :
    x.divideTo g sides = .done (x.putGroup x.issuer.group g') := by
  rw [State.divideTo, h]

theorem divideTo_of_none {x : State} {g : Group} {sides : List (Word × Mask)} (h : g.divide x.issuer.slot sides = none) :
    x.divideTo g sides = .trap { cause := .splitOverflow } x := by
  rw [State.divideTo, h]

/-- BRD in a split whose active threads `tk` take it: all or none move the split as a branch does, and any other set divides it (R95, R58). -/
def State.brdBy (x : State) (g : Group) (s : Split) (tk : Mask) (o : Word) : IEff :=
  if tk = s.mask ∨ tk = 0 then x.branch s.pc (decide (tk ≠ 0)) o
  else if let some t := farTrap (s.pc + 4 * o) then .trap t x
  else x.divideTo g [(s.pc + 4 * o, tk), (s.pc + 4, s.mask &&& ~~~tk)]

theorem exec_brd_eq (m : BitVec 1) (p : BitVec 3) (n : BitVec 1) (o : BitVec 20) (st : State) :
    exec (.brd m p n o) st = issueC st m { pcSpec true with pregs := [p.toNat] } fun x g s => notInHandler x
      (x.brdBy g s (maskOf s.mask fun t => (g.getP p.toNat).getLsbD (8 * t) != (n == 1#1)) (o.signExtend 64)) := rfl

section
variable {x : State} {g : Group} {s : Split} {tk : Mask} {o : Word}

theorem brdBy_of_all (ha : tk = s.mask) (h0 : s.mask ≠ 0) (hn : (s.pc + 4 * o).toNat < 2 ^ 52) : x.brdBy g s tk o = .done (x.goto (s.pc + 4 * o)) := by
  subst ha
  rw [State.brdBy, if_pos (.inl rfl), decide_eq_true h0]
  exact branch_done fun _ => hn

theorem brdBy_of_none (h : tk = 0) : x.brdBy g s tk o = .done (x.goto (s.pc + 4)) := by
  rw [State.brdBy, if_pos (.inr h), decide_eq_false (not_not.mpr h)]
  exact branch_done fun hf => nomatch hf

theorem brdBy_of_far (h0 : tk ≠ 0) (hf : 2 ^ 52 ≤ (s.pc + 4 * o).toNat) :
    x.brdBy g s tk o = .trap { cause := .pageFault, addr := (s.pc + 4 * o).toNat } x := by
  rw [State.brdBy]
  by_cases ha : tk = s.mask
  · rw [if_pos (.inl ha), decide_eq_true h0, branch_trap hf]
  · rw [if_neg (not_or.mpr ⟨ha, h0⟩), farTrap_far hf]

theorem brdBy_of_some (ha : tk ≠ s.mask) (h0 : tk ≠ 0) (hn : (s.pc + 4 * o).toNat < 2 ^ 52) :
    x.brdBy g s tk o = x.divideTo g [(s.pc + 4 * o, tk), (s.pc + 4, s.mask &&& ~~~tk)] := by
  rw [State.brdBy, if_neg (not_or.mpr ⟨ha, h0⟩), farTrap_near hn]

end

/-- A jump to an aligned target below 2^52 moves the split; any other target is its trap (R28). -/
def State.jumpTo (x : State) (v : Word) : IEff :=
  match jumpTrap v with
  | some t => .trap t x
  | none => .done (x.goto v)

section
variable {x : State} {v : Word}

theorem jumpTo_done (ha : v.toNat % 4 = 0) (hn : v.toNat < 2 ^ 52) : x.jumpTo v = .done (x.goto v) := by
  rw [State.jumpTo, jumpTrap_of_aligned ha, farTrap_near hn]

theorem jumpTo_misaligned (h : v.toNat % 4 ≠ 0) : x.jumpTo v = .trap { cause := .misalign } x := by
  rw [State.jumpTo, jumpTrap_of_misaligned h]

theorem jumpTo_far (ha : v.toNat % 4 = 0) (hf : 2 ^ 52 ≤ v.toNat) : x.jumpTo v = .trap { cause := .pageFault, addr := v.toNat } x := by
  rw [State.jumpTo, jumpTrap_of_aligned ha, farTrap_far hf]

end

/-- The sides of a division by the words of a row: one for each distinct target, with the threads that go there (R96). -/
def jumpSides (row : Row) (mask : Mask) : List (Word × Mask) :=
  (distinct row mask).map fun v => (BitVec.ofNat 64 v, maskOf mask fun t => decide ((laneAt row t).toNat = v))

/-- JMPI of a V register: every target is checked, all for alignment first, before the split divides (R96, R28). -/
def State.jumpBy (x : State) (g : Group) (s : Split) (row : Row) : IEff :=
  if (distinct row s.mask).any fun v => decide (v % 4 ≠ 0) then .trap { cause := .misalign } x
  else match (distinct row s.mask).find? fun v => decide (2 ^ 52 ≤ v) with
    | some v => .trap { cause := .pageFault, addr := v } x
    | none => x.divideTo g (jumpSides row s.mask)

theorem exec_jmpi_eq (m : BitVec 1) (a : BitVec 6) (st : State) :
    exec (.jmpi m a) st = issueC st m { pcSpec (isV a || isS a) with srcs := [a] } fun x g s =>
      if isS a then x.jumpTo (g.srcS a) else notInHandler x (x.jumpBy g s (g.getV a.toNat)) := rfl

section
variable {x : State} {g : Group} {s : Split} {row : Row}

theorem jumpBy_of_misaligned (h : ∃ v ∈ distinct row s.mask, v % 4 ≠ 0) : x.jumpBy g s row = .trap { cause := .misalign } x :=
  if_pos (List.any_eq_true.mpr (h.imp fun _ hv => ⟨hv.1, decide_eq_true hv.2⟩))

theorem jumpBy_of_far {v : Nat} (ha : ∀ v ∈ distinct row s.mask, v % 4 = 0) (hf : (distinct row s.mask).find? (fun v => decide (2 ^ 52 ≤ v)) = some v) :
    x.jumpBy g s row = .trap { cause := .pageFault, addr := v } x := by
  rw [State.jumpBy, if_neg (by simpa using ha), hf]

/-- Where a jump may go to every target, the split divides. -/
theorem jumpBy_of_ok (h : ∀ v ∈ distinct row s.mask, v % 4 = 0 ∧ v < 2 ^ 52) : x.jumpBy g s row = x.divideTo g (jumpSides row s.mask) := by
  have haligned : ∀ v ∈ distinct row s.mask, v % 4 = 0 := fun v hv => (h v hv).1
  have hnear : ∀ v ∈ distinct row s.mask, v < 2 ^ 52 := fun v hv => (h v hv).2
  rw [State.jumpBy, if_neg (by simpa using haligned), List.find?_eq_none.mpr (by simpa using hnear)]

end

/-- RET goes to the one V31 value of its threads (R97). -/
theorem exec_ret_eq (m : BitVec 1) (st : State) :
    exec (.ret m) st = issueC st m { pcSpec true with srcs := [31#6] } fun x g s =>
      match distinct (g.getV 31) s.mask with
      | [v] => x.jumpTo (BitVec.ofNat 64 v)
      | _ => .trap (illegal 1) x := rfl

/-- Settles O12: each word's body is done under its clause's condition, a branch or jump by way of its target and a division by its sides. -/
theorem branchesComplete : Obligations.BranchesComplete := by
  unfold Obligations.BranchesComplete
  intro st m a r c p n
  refine ⟨acts_of (exec_nop ..) fun x g s _ _ => rfl, fun o => acts_of (exec_bra ..) fun x g s _ h => branch_done fun _ => h,
    fun o => acts_of (exec_brc ..) fun x g s _ h => branch_done h,
    fun o => acts_of (exec_brd_eq ..) fun x g s _ h => ?brdAll, fun o => acts_of (exec_brd_eq ..) fun x g s _ h => ?brdNone,
    fun o g' => acts_of (exec_brd_eq ..) fun x g s _ h => ?brdDivides, acts_of (exec_jmpi_eq ..) fun x g s _ h => ?jmpiS,
    fun g' => acts_of (exec_jmpi_eq ..) fun x g s _ h => ?jmpiV, fun o => acts_of (exec_call ..) fun x g s _ h => ?call,
    fun v => acts_of (exec_ret_eq ..) fun x g s _ h => ?ret⟩
  case brdAll =>
    obtain ⟨hslot, hall, hany, hnear⟩ := h
    exact (notInHandler_of_ne hslot).trans (brdBy_of_all hall hany hnear)
  case brdNone =>
    obtain ⟨hslot, hnone⟩ := h
    exact (notInHandler_of_ne hslot).trans (brdBy_of_none hnone)
  case brdDivides =>
    obtain ⟨hslot, hall, hany, hnear, hroom⟩ := h
    rw [notInHandler_of_ne hslot, brdBy_of_some hall hany hnear, divideTo_of_some hroom]
  case jmpiS =>
    obtain ⟨hS, halign, hnear⟩ := h
    exact (if_pos hS).trans (jumpTo_done halign hnear)
  case jmpiV =>
    obtain ⟨hV, hslot, hok, hroom⟩ := h
    rw [if_neg (Bool.eq_false_iff.mp hV), notInHandler_of_ne hslot, jumpBy_of_ok hok]
    exact divideTo_of_some hroom
  case call => simp only [farTrap_near h]
  case ret =>
    obtain ⟨hone, halign, hnear⟩ := h
    have hv : (BitVec.ofNat 64 v).toNat = v := Nat.mod_eq_of_lt (by omega)
    simp only [hone]
    exact jumpTo_done (by rwa [hv]) (by rwa [hv])

/-- Settles O13: a target, a division without room, or the handler stops each word, in the order of its checks. The detail 0 of a target's PAGE_FAULT (log
entry 30) and the trap at the branch itself (log entry 27) are the model's choices. -/
theorem branchTraps : Obligations.BranchTraps := by
  unfold Obligations.BranchTraps
  intro st m a p n o
  refine ⟨traps_of (exec_brd_eq ..) fun x g s _ h => notInHandler_of_eq h, traps_of (exec_brd_eq ..) fun x g s _ h => ?brdFull,
    fun q v => traps_of (exec_bra ..) fun x g s _ h => ?bra, fun q v => traps_of (exec_call ..) fun x g s _ h => ?call,
    fun r c q v => traps_of (exec_brc ..) fun x g s _ h => ?brc, fun v => traps_of (exec_brd_eq ..) fun x g s _ h => ?brdFar,
    traps_of (exec_jmpi_eq ..) fun x g s _ h => ?jmpiHandler, traps_of (exec_jmpi_eq ..) fun x g s _ h => ?jmpiSMisaligned,
    fun v => traps_of (exec_jmpi_eq ..) fun x g s _ h => ?jmpiSFar, traps_of (exec_exit ..) fun x g s _ h => notInHandler_of_eq h,
    fun v w l => traps_of (exec_ret_eq ..) fun x g s _ h => ?retDiffers, fun l => traps_of (exec_jmpi_eq ..) fun x g s _ h => ?jmpiVMisaligned,
    fun l v => traps_of (exec_jmpi_eq ..) fun x g s _ h => ?jmpiVFar, traps_of (exec_jmpi_eq ..) fun x g s _ h => ?jmpiFull,
    fun v => traps_of (exec_ret_eq ..) fun x g s _ h => ?retMisaligned, fun v => traps_of (exec_ret_eq ..) fun x g s _ h => ?retFar⟩
  case brdFull =>
    obtain ⟨hslot, hall, hany, hnear, hfull⟩ := h
    rw [notInHandler_of_ne hslot, brdBy_of_some hall hany hnear, divideTo_of_none hfull]
  case bra =>
    obtain ⟨rfl, hfar⟩ := h
    exact branch_trap hfar
  case call =>
    obtain ⟨rfl, hfar⟩ := h
    simp only [farTrap_far hfar]
  case brc =>
    obtain ⟨htaken, rfl, hfar⟩ := h
    rw [htaken]
    exact branch_trap hfar
  case brdFar =>
    obtain ⟨hslot, hany, rfl, hfar⟩ := h
    exact (notInHandler_of_ne hslot).trans (brdBy_of_far hany hfar)
  case jmpiHandler =>
    obtain ⟨hV, hslot⟩ := h
    exact (if_neg (Bool.eq_false_iff.mp hV)).trans (notInHandler_of_eq hslot)
  case jmpiSMisaligned =>
    obtain ⟨hS, hmis⟩ := h
    exact (if_pos hS).trans (jumpTo_misaligned hmis)
  case jmpiSFar =>
    obtain ⟨hS, rfl, halign, hfar⟩ := h
    exact (if_pos hS).trans (jumpTo_far halign hfar)
  case retDiffers => simp only [h, illegal]
  case jmpiVMisaligned =>
    obtain ⟨hV, hslot, rfl, hmis⟩ := h
    rw [if_neg (Bool.eq_false_iff.mp hV), notInHandler_of_ne hslot, jumpBy_of_misaligned hmis]
  case jmpiVFar =>
    obtain ⟨hV, hslot, rfl, halign, hfar⟩ := h
    rw [if_neg (Bool.eq_false_iff.mp hV), notInHandler_of_ne hslot, jumpBy_of_far halign hfar]
  case jmpiFull =>
    obtain ⟨hV, hslot, hok, hfull⟩ := h
    rw [if_neg (Bool.eq_false_iff.mp hV), notInHandler_of_ne hslot, jumpBy_of_ok hok]
    exact divideTo_of_none hfull
  case retMisaligned =>
    obtain ⟨hone, hv, hmis⟩ := h
    have hv : (BitVec.ofNat 64 v).toNat = v := Nat.mod_eq_of_lt hv
    simp only [hone]
    exact jumpTo_misaligned (by rwa [hv])
  case retFar =>
    obtain ⟨hone, hv, halign, hfar⟩ := h
    have hv : (BitVec.ofNat 64 v).toNat = v := Nat.mod_eq_of_lt hv
    simp only [hone]
    exact (jumpTo_far (by rwa [hv]) (by rwa [hv])).trans (by rw [hv])

/-! Exits, software traps and the return from a handler (O18). -/

/-- TRET outside a handler is illegal (R116, R411). -/
theorem tret_illegal_iff {g : Group} {slot : Nat} : (!g.tlevel || decide (slot ≠ 5)) = true ↔ g.tlevel = false ∨ slot ≠ 5 := by
  simp only [Bool.or_eq_true, Bool.not_eq_true', decide_eq_true_eq]

/-- It waits until the handler's access part has ended and both streams' held results have returned (R116). -/
theorem tret_waits_iff {g : Group} : (!g.aend || !allReturned g.wbC || !allReturned g.wbA) = true ↔
    g.aend = false ∨ allReturned g.wbC = false ∨ allReturned g.wbA = false := by
  simp only [Bool.or_eq_true, Bool.not_eq_true', or_assoc]

/-- Settles O18: EXIT, TRAP and BKPT have their effect at once, and TRET where its two tests let it pass. -/
theorem exitTrapAndReturnComplete : Obligations.ExitTrapAndReturnComplete := by
  unfold Obligations.ExitTrapAndReturnComplete
  intro st m i
  refine ⟨acts_of (exec_exit ..) fun x g s _ h => notInHandler_of_ne h, traps_of (exec_trap ..) fun _ _ _ _ _ => rfl,
    traps_of (exec_bkpt ..) fun _ _ _ _ _ => rfl, acts_of (exec_tret ..) fun x g s _ h => ?leaves, holds_of (exec_tret ..) fun x g s _ h => ?waits,
    fun e => heldIn_of (exec_tret ..) fun x g s _ h => ?poisoned, traps_of (exec_tret ..) fun x g s _ h => if_pos (tret_illegal_iff.mpr h)⟩
  case leaves =>
    obtain ⟨hlevel, hslot, hend, hC, hA, hclean⟩ := h
    simp [hlevel, hslot, hend, hC, hA, hclean]
  case waits =>
    obtain ⟨hlevel, hslot, hheld⟩ := h
    exact (if_neg (by simp [hlevel, hslot])).trans (if_pos (tret_waits_iff.mpr hheld))
  case poisoned =>
    obtain ⟨hlevel, hslot, hend, hC, hA, hbad⟩ := h
    simp [hlevel, hslot, hend, hC, hA, hbad]

end Sys2Proof.Machine
end

section

namespace Sys2Proof.Machine

/-! Waits (O16). A wait that is over at its issue lets its split go on, and any other holds it. -/

/-- A missing page holds the split until the service brings it, unless the service declines at once (R339). -/
theorem pageHold_of_taken {y : State} {gid : Nat} {g : Group} {page : Nat} {t : Trap}
    (h : (y.pageFault (y.ctxOf g) (.stream gid false) page t.detail (y.wgOf g).serial t.addr).declined = false) : y.pageHold gid g page t =
      .hold ((y.pageFault (y.ctxOf g) (.stream gid false) page t.detail (y.wgOf g).serial t.addr).st.waitAs (.paged page t)) := if_neg (by simp [h])

theorem pageHold_of_declined {y : State} {gid : Nat} {g : Group} {page : Nat} {t : Trap}
    (h : (y.pageFault (y.ctxOf g) (.stream gid false) page t.detail (y.wgOf g).serial t.addr).declined = true) : y.pageHold gid g page t =
      .trap { t with declined := true } (y.pageFault (y.ctxOf g) (.stream gid false) page t.detail (y.wgOf g).serial t.addr).st := if_pos h

/-- WAITM with the word at an address: what is done once its read (R104) has answered. -/
def State.waitmBy (x : State) (g : Group) (s : Split) (va v : Nat) : IEff :=
  match x.syncRead x.issuer.group g va 8 true with
  | .wait => .hold x
  | .prot t y => .trap t y
  | .fault page t y => y.pageHold x.issuer.group g page t
  | .ok leaf pa y => match y.syncLine x.issuer.group (y.ctxOf g) leaf pa (1 + pa % 128 / 64) true with
    | none => .hold y
    | some z => if z.read pa 8 = v then .done (z.waitAs (.waitm va pa v)) else .done (z.goto (s.pc + 4))

theorem exec_waitm_eq (m : BitVec 1) (a b : BitVec 6) (st : State) :
    exec (.waitm m a b) st = issueC st m { pcSpec (isS a && isSZ b) with srcs := [a, b] } fun x g s =>
      if (g.srcS a).toNat % 8 ≠ 0 then .trap { cause := .misalign } x
      else if 2 ^ 52 ≤ (g.srcS a).toNat then .trap { cause := .pageFault, addr := (g.srcS a).toNat } x
      else x.waitmBy g s (g.srcS a).toNat (g.srcS b).toNat := rfl

/-- A WAITM that passes the checks of its address does what its read answers. -/
theorem waitm_of_checked {x : State} {va : Nat} {k : IEff} (ha : va % 8 = 0) (hn : va < 2 ^ 52) :
    (if va % 8 ≠ 0 then .trap { cause := .misalign } x else if 2 ^ 52 ≤ va then .trap { cause := .pageFault, addr := va } x else k) = k :=
  (if_neg (not_not.mpr ha)).trans (if_neg (Nat.not_le.mpr hn))

/-- A grid that the device still keeps and that is broken (R407). -/
def State.gridBroken (x : State) (key : Nat) : Bool :=
  match mget x.grids key with
  | some y => y.broken
  | none => false

theorem gridBroken_eq_true_iff {x : State} {key : Nat} : x.gridBroken key = true ↔ ∃ y, mget x.grids key = some y ∧ y.broken = true := by
  rw [State.gridBroken]
  cases mget x.grids key with
  | none => simp
  | some y => simp

theorem gridBroken_eq_false_iff {x : State} {key : Nat} : x.gridBroken key = false ↔ ∀ y, mget x.grids key = some y → y.broken = false := by
  rw [State.gridBroken]
  cases mget x.grids key with
  | none => simp
  | some y => simp

/-- A split put into a wait for grids, one of which may be broken (R107, R407). -/
def State.joinAs (x : State) (w : SWait) (broken : Bool) : State := if broken then (x.waitAs w).brokenWait 2 else x.waitAs w

theorem exec_joinc_eq (m : BitVec 1) (a : BitVec 6) (st : State) :
    exec (.joinc m a) st = issueC st m { pcSpec (isSZ a) with srcs := [a] } fun x g s =>
      let w := x.wgOf g
      if isZ a then
        if w.children = [] then .done (x.goto (s.pc + 4))
        else .done (x.joinAs .joinAll (w.children.any fun id => x.gridBroken (gridKey w.ctx id)))
      else if (g.srcS a).toNat % 2 ^ 32 ∈ w.children then
        .done (x.joinAs (.joinOne ((g.srcS a).toNat % 2 ^ 32)) (x.gridBroken (gridKey w.ctx ((g.srcS a).toNat % 2 ^ 32))))
      else .done (x.goto (s.pc + 4)) := rfl

/-- Settles O16: each word's reference, address or grids are checked in their order, and what is waited for decides between going on and the wait. -/
theorem waitsComplete : Obligations.WaitsComplete := by
  unfold Obligations.WaitsComplete
  intro st m a b i
  refine ⟨fun q => acts_of (exec_waitc ..) fun x g s _ h => ?waitcOn, fun q => acts_of (exec_waitc ..) fun x g s _ h => ?waitcWaits,
    traps_of (exec_waitc ..) fun x g s _ h => ?waitcRef, traps_of (exec_waitc ..) fun x g s _ h => ?waitcAlign,
    traps_of (exec_waitc ..) fun x g s _ h => ?waitcBounds, fun leaf pa y z => acts_of (exec_waitm_eq ..) fun x g s _ h => ?waitmOn,
    fun leaf pa y z => acts_of (exec_waitm_eq ..) fun x g s _ h => ?waitmWaits, fun leaf pa y => heldIn_of (exec_waitm_eq ..) fun x g s _ h => ?waitmLine,
    holds_of (exec_waitm_eq ..) fun x g s _ h => ?waitmRead, traps_of (exec_waitm_eq ..) fun x g s _ h => if_pos h,
    fun v => traps_of (exec_waitm_eq ..) fun x g s _ h => ?waitmFar, fun t y => trapsWith_of (exec_waitm_eq ..) fun x g s _ h => ?waitmProt,
    fun page t y r => heldIn_of (exec_waitm_eq ..) fun x g s _ h => ?waitmPaged,
    fun page t y r => trapsWith_of (exec_waitm_eq ..) fun x g s _ h => ?waitmDeclined, acts_of (exec_sleep ..) fun _ _ _ _ _ => rfl,
    acts_of (exec_yield ..) fun _ _ _ _ _ => rfl, acts_of (exec_joinc_eq ..) fun x g s _ h => ?joinNone,
    acts_of (exec_joinc_eq ..) fun x g s _ h => ?joinAll, acts_of (exec_joinc_eq ..) fun x g s _ h => ?joinAllBroken,
    acts_of (exec_joinc_eq ..) fun x g s _ h => ?joinOther, acts_of (exec_joinc_eq ..) fun x g s _ h => ?joinOne,
    acts_of (exec_joinc_eq ..) fun x g s _ h => ?joinOneBroken⟩
  case waitcOn =>
    obtain ⟨href, hreached⟩ := h
    simp only [href, hreached, if_true]
  case waitcWaits =>
    obtain ⟨href, hreached⟩ := h
    simp only [href, hreached, Bool.false_eq_true, if_false]
  case waitcRef => simp only [counterAt_of_not_ref h]
  case waitcAlign => simp only [counterAt_of_misaligned h.1 h.2]
  case waitcBounds => simp only [counterAt_of_outside h.1 h.2.1 h.2.2]
  case waitmOn =>
    obtain ⟨halign, hnear, hread, hline, hdiffers⟩ := h
    exact (waitm_of_checked halign hnear).trans (by simp only [State.waitmBy, hread, hline, if_neg hdiffers])
  case waitmWaits =>
    obtain ⟨halign, hnear, hread, hline, hequal⟩ := h
    exact (waitm_of_checked halign hnear).trans (by simp only [State.waitmBy, hread, hline, if_pos hequal])
  case waitmLine =>
    obtain ⟨halign, hnear, hread, hline⟩ := h
    exact (waitm_of_checked halign hnear).trans (by simp only [State.waitmBy, hread, hline])
  case waitmRead =>
    obtain ⟨halign, hnear, hread⟩ := h
    exact (waitm_of_checked halign hnear).trans (by simp only [State.waitmBy, hread])
  case waitmFar =>
    obtain ⟨rfl, halign, hfar⟩ := h
    exact (if_neg (not_not.mpr halign)).trans (if_pos hfar)
  case waitmProt =>
    obtain ⟨halign, hnear, hread⟩ := h
    exact (waitm_of_checked halign hnear).trans (by simp only [State.waitmBy, hread])
  case waitmPaged =>
    obtain ⟨halign, hnear, hread, rfl, htaken⟩ := h
    exact (waitm_of_checked halign hnear).trans (by simp only [State.waitmBy, hread, pageHold_of_taken htaken])
  case waitmDeclined =>
    obtain ⟨halign, hnear, hread, rfl, hdeclined⟩ := h
    exact (waitm_of_checked halign hnear).trans (by simp only [State.waitmBy, hread, pageHold_of_declined hdeclined])
  case joinNone =>
    obtain ⟨hZ, hnone⟩ := h
    exact (if_pos hZ).trans (if_pos hnone)
  case joinAll =>
    obtain ⟨hZ, hsome, hwhole⟩ := h
    have hwhole : ((x.wgOf g).children.any fun id => x.gridBroken (gridKey (x.wgOf g).ctx id)) = false :=
      List.any_eq_false.mpr fun id hid => Bool.eq_false_iff.mp (gridBroken_eq_false_iff.mpr (hwhole id hid))
    exact (if_pos hZ).trans ((if_neg hsome).trans (by rw [hwhole]; rfl))
  case joinAllBroken =>
    obtain ⟨hZ, id, hid, hgrid⟩ := h
    have hbroken : ((x.wgOf g).children.any fun id => x.gridBroken (gridKey (x.wgOf g).ctx id)) = true :=
      List.any_eq_true.mpr ⟨id, hid, gridBroken_eq_true_iff.mpr hgrid⟩
    exact (if_pos hZ).trans ((if_neg (List.ne_nil_of_mem hid)).trans (by rw [hbroken]; rfl))
  case joinOther =>
    obtain ⟨hS, hother⟩ := h
    exact (if_neg (Bool.eq_false_iff.mp hS)).trans (if_neg hother)
  case joinOne =>
    obtain ⟨hS, hchild, hwhole⟩ := h
    exact (if_neg (Bool.eq_false_iff.mp hS)).trans ((if_pos hchild).trans (by rw [gridBroken_eq_false_iff.mpr hwhole]; rfl))
  case joinOneBroken =>
    obtain ⟨hS, hchild, hbroken⟩ := h
    exact (if_neg (Bool.eq_false_iff.mp hS)).trans ((if_pos hchild).trans (by rw [gridBroken_eq_true_iff.mpr hbroken]; rfl))

end Sys2Proof.Machine
end

section

namespace Sys2Proof.Machine

/-! Queue transfers (O24). A transfer looks at its queue first: at the head it pops, or at the room it pushes into. -/

section
variable {st : State} {i : Instr} {m : BitVec 1} {d t : BitVec 5} {keep : Bool}

/-- A filled, unpoisoned head serves APOP, and stays in the queue of APOP.K (R147). -/
theorem apop_acts {e : QEntry} {rest left : List QEntry} (he : exec i st = apop st m d t keep) (hl : (if keep then e :: rest else rest) = left) :
    st.actsA i m { legal := true } (fun _ g => g.xq = e :: rest ∧ e.ready = true ∧ e.poison.getLsbD t.toNat = false)
      (fun x g => x.putGroup x.issuer.group ({ g with xq := left }.putA d.toNat (laneAt e.data t.toNat))) :=
  actsA_of he fun x g _ h => by
    obtain ⟨hhead, hready, hclean⟩ := h
    simp only [hhead, hready, hclean, Bool.not_true, Bool.false_eq_true, if_false, hl]

/-- An empty XQ that the ended compute stream fills no more is an error of either form (R141). -/
theorem apop_queueError (he : exec i st = apop st m d t keep) :
    st.trapsA i m { legal := true } (fun _ g => g.xq = [] ∧ g.cend = true) { cause := .queueError } :=
  trapsA_of he fun x g _ h => by
    obtain ⟨hempty, hend⟩ := h
    simp only [hempty, hend, if_true]

end

/-- Settles O24: each word's body is done, or is its trap, under its clause's condition. -/
theorem accessQueuesAndStateComplete : Obligations.AccessQueuesAndStateComplete := by
  unfold Obligations.AccessQueuesAndStateComplete
  intro st m d a t i
  refine ⟨fun e rest => apop_acts (exec_apop ..) rfl, fun e rest => apop_acts (exec_apopK ..) rfl, apop_queueError (exec_apop ..), apop_queueError (exec_apopK ..),
    actsA_of (exec_apush ..) fun x g _ h => ?pushed, actsA_of (exec_apush ..) fun x g _ h => if_pos h, actsA_of (exec_rtick ..) fun x g _ h => if_pos h,
    actsA_of (exec_rtick ..) fun x g _ h => if_neg h, completesA_of (exec_setd ..) fun _ _ => rfl,
    fun y v => actsA_of (exec_agets ..) fun x g _ h => ?sampled, actsA_of (exec_aend ..) fun _ _ _ _ => rfl⟩
  case pushed =>
    obtain ⟨hrunning, hroom⟩ := h
    exact (if_neg (Bool.eq_false_iff.mp hrunning)).trans (if_neg (Nat.not_le.mpr hroom))
  case sampled => simp only [h]

/-! View slots (O25). A defining word waits for a slot that is CONVERTING; past that its checks stand in their order. -/

section
variable {x : State} {g : Group} {slot : Nat} {k : IEff}

theorem slotFree_of_not_converting (h : x.slotBusy g slot = false) : (if x.slotBusy g slot then .hold x else k) = k :=
  if_neg (Bool.eq_false_iff.mp h)

/-- An address that passes the check of its alignment. -/
theorem vdef_of_aligned {va : Nat} (hf : x.slotBusy g slot = false) (ha : va % 128 = 0) :
    (if x.slotBusy g slot then .hold x else if va % 128 ≠ 0 then .trap { cause := .misalign } x else k) = k :=
  (slotFree_of_not_converting hf).trans (if_neg (not_not.mpr ha))

/-- One that fails it. -/
theorem vdef_of_misaligned {va : Nat} (hf : x.slotBusy g slot = false) (ha : va % 128 ≠ 0) :
    (if x.slotBusy g slot then .hold x else if va % 128 ≠ 0 then .trap { cause := .misalign } x else k) = .trap { cause := .misalign } x :=
  (slotFree_of_not_converting hf).trans (if_pos ha)

end

/-- Settles O25: the slot is free, and the address or the descriptor passes its checks or fails the one that its clause names. -/
theorem viewInstructionsComplete : Obligations.ViewInstructionsComplete := by
  unfold Obligations.ViewInstructionsComplete
  intro st m d a b f
  refine ⟨fun k l => startsA_of (exec_vdefGlob ..) fun x g _ h => ?globRead, startsA_of (exec_vdefCore ..) fun x g _ h => ?coreRead,
    trapsA_of (exec_vdefGlob ..) fun x g _ h => vdef_of_misaligned h.1 h.2, trapsA_of (exec_vdefCore ..) fun x g _ h => ?coreOutside,
    fun dv => actsA_of (exec_vset ..) fun x g _ h => ?written, fun dv => trapsA_of (exec_vset ..) fun x g _ h => ?refused,
    actsA_of (exec_vget ..) fun _ _ _ _ => rfl⟩
  case globRead =>
    obtain ⟨hfree, halign, hnear, rfl, hclean, hpresent, hline⟩ := h
    refine (vdef_of_aligned hfree halign).trans ((if_neg (Nat.not_le.mpr hnear)).trans ?_)
    simp only [hclean, hpresent, hline, State.startVdef]
  case coreRead =>
    obtain ⟨hfree, halign, hinside⟩ := h
    exact (vdef_of_aligned hfree halign).trans (if_neg (Nat.not_lt.mpr hinside))
  case coreOutside =>
    obtain ⟨hfree, halign, houtside⟩ := h
    exact (vdef_of_aligned hfree halign).trans (if_pos houtside)
  case written =>
    obtain ⟨hfree, hfield, hpasses⟩ := h
    refine (slotFree_of_not_converting hfree).trans ?_
    simp only [hfield, if_pos hpasses]
  case refused =>
    obtain ⟨hfree, hfield, hkept, hfails⟩ := h
    refine (slotFree_of_not_converting hfree).trans ?_
    simp only [hfield, if_neg (not_or.mpr ⟨hkept, hfails⟩)]

/-! Accesses through views (O26, O27). The view is checked, then what the word itself asks of it, then its elements; the rest is the issue of the
access, which `issueMem_done` gives. -/

section
variable {x : State} {gr : Group} {dv : BitVec 1024} {view : Trap ⊕ BitVec 1024} {after : BitVec 1024 → Option Trap} {parts : BitVec 1024 → List Part} {wr : Bool}
  {k : BitVec 1024 → List Hit → Bool → IEff}

/-- An access whose view and elements pass their checks goes on with the elements in bounds (R129, R130). -/
theorem through_of_ok {hits : List Hit} {oob : Bool} (hv : view = .inr dv) (ha : after dv = none) (hr : x.reach gr dv (parts dv) = .ok hits oob) :
    x.through gr view after parts wr k = k dv hits oob := by
  simp only [State.through, hv, ha, hr]

/-- The word's own check of the view comes before its elements' (R155). -/
theorem through_of_after {t : Trap} (hv : view = .inr dv) (ha : after dv = some t) : x.through gr view after parts wr k = .trap t x := by
  simp only [State.through, hv, ha]

end

section
variable {v a : BitVec 5} {d g : BitVec 3} {e : BitVec 1} {c : BitVec 2}

@[simp] theorem amOf_slot : (amOf v a d g e c).slot = v.toNat := rfl

@[simp] theorem amOf_cb : (amOf v a d g e c).cb = a.toNat := rfl

/-- A guarded load takes its LQ entry when its guard resolves; any other needs room at its issue (R89, R141). -/
theorem loadRoom_of {gr : Group} {lq : Option Nat} (h : e = 1#1 ∨ gr.lqFull lq = false) :
    ((amOf v a d g e c).guard.isNone && gr.lqFull lq) = false := by
  obtain rfl | h := h
  · rfl
  · rw [h, Bool.and_false]

end

/-- A tile load whose LQ can take it puts its access into the memory unit. -/
theorem tileLoad_done {x y : State} {gid : Nat} {gr : Group} {m : Am} {q : Nat} {dv : BitVec 1024} {view : Trap ⊕ BitVec 1024} {hits : List Hit} {oob : Bool}
    (hv : view = .inr dv) (hr : x.reach gr dv (wholeTile dv (gr.coords dv m.cb)) = .ok hits oob) (hroom : (m.guard.isNone && gr.lqFull (some q)) = false)
    (hi : x.accessIssued gid gr (mkAccess gr dv m .load (some q) 0 (x.viewLines gid gr dv (accClass dv m.cls) hits)) id false oob y) :
    x.tileLoad gid gr m q view = .done y :=
  (through_of_ok hv rfl hr).trans ((if_neg (Bool.eq_false_iff.mp hroom)).trans (issueMem_done hi))

theorem ronlyAt_of_writable {dv : BitVec 1024} {parts : List Part} (h : vRonly dv = false) : ronlyAt dv parts = none := by
  simp [ronlyAt, ronly, h]

theorem ronlyAt_of_readOnly {dv : BitVec 1024} {parts : List Part} (h : vRonly dv = true) :
    ronlyAt dv parts = some { cause := .prot, detail := trDetail false 0 0 false true false false, addr := lowByte dv parts } := by
  simp [ronlyAt, ronly, h]

/-- Settles O26: the view, the queues and the elements of each word pass their checks, and its access issues. -/
theorem loadsAndPrefetchIssue : Obligations.LoadsAndPrefetchIssue := by
  unfold Obligations.LoadsAndPrefetchIssue
  intro st m q v a d g e w c
  refine ⟨fun dv hits oob y => actsA_of (exec_ldt ..) fun x gr _ h => ?ldt, fun dv y => actsA_of (exec_pref ..) fun x gr _ h => ?pref,
    fun dv hits oob y => actsA_of (exec_ldg ..) fun x gr _ h => ?ldg, fun dv hits oob y => actsA_of (exec_lda ..) fun x gr _ h => ?lda⟩
  case ldt =>
    obtain ⟨hview, hreach, hroom, hissued⟩ := h
    exact tileLoad_done hview hreach (loadRoom_of hroom) hissued
  case pref =>
    obtain ⟨hview, hissued⟩ := h
    simp only [amOf_slot, amOf_cb, hview]
    exact issueMem_done hissued
  case ldg =>
    obtain ⟨hview, hhead, hreach, hroom, hissued⟩ := h
    simp only [amOf_slot, amOf_cb, hview, hhead, hreach, loadRoom_of hroom, Bool.false_eq_true, if_false]
    exact issueMem_done hissued
  case lda =>
    obtain ⟨hview, hreach, hissued⟩ := h
    exact (through_of_ok hview rfl hreach).trans (issueMem_done hissued)

/-- Settles O27: where the view is not read-only, the queues that a store takes are filled and its elements pass, its access issues; a read-only view stops it
before its queues and elements are looked at. The model's choices here are the order of checks (log entry 17), the pop of a discarded guarded store's
queue entries (log entry 28), and the byte offset that TADDR holds of a space other than GLOB (log entry 91). -/
theorem storesIssue : Obligations.StoresIssue := by
  unfold Obligations.StoresIssue
  intro st m v a d g e c
  refine ⟨fun dv hits oob y => actsA_of (exec_stt ..) fun x gr _ h => ?stt, fun dv hits oob y => actsA_of (exec_stg ..) fun x gr _ h => ?stg,
    fun dv hits oob y => actsA_of (exec_sta ..) fun x gr _ h => ?sta, fun dv n => trapsA_of (exec_stt ..) fun x gr _ h => ?sttReadOnly,
    fun dv n => trapsA_of (exec_stg ..) fun x gr _ h => ?stgReadOnly, fun dv n => trapsA_of (exec_sta ..) fun x gr _ h => ?staReadOnly⟩
  case stt =>
    obtain ⟨hview, hwritable, hdata, hreach, hissued⟩ := h
    simp only [amOf_slot, amOf_cb, hview, ronlyAt_of_writable hwritable, hdata, hreach]
    exact issueMem_done hissued
  case stg =>
    obtain ⟨hview, hwritable, hindex, hdata, hreach, hissued⟩ := h
    simp only [amOf_slot, amOf_cb, hview, ronlyAt_of_writable hwritable, hindex, hdata, Option.or_none, hreach]
    exact issueMem_done hissued
  case sta =>
    obtain ⟨hview, hregister, hwritable, hreach, hissued⟩ := h
    refine (through_of_ok hview ?_ hreach).trans (issueMem_done hissued)
    exact (if_neg (Nat.not_lt.mpr hregister)).trans (ronlyAt_of_writable hwritable)
  case sttReadOnly | stgReadOnly =>
    obtain ⟨hview, hreadOnly, rfl⟩ := h
    simp only [amOf_slot, amOf_cb, hview, ronlyAt_of_readOnly hreadOnly]
  case staReadOnly =>
    obtain ⟨hview, hreadOnly, rfl, hregister⟩ := h
    exact through_of_after hview ((if_neg (Nat.not_lt.mpr hregister)).trans (ronlyAt_of_readOnly hreadOnly))

end Sys2Proof.Machine
end

section

namespace Sys2Proof.Machine

/-! The access stream's arithmetic (O22). -/

/-- Settles O22: the body of each word writes its value to Ad. -/
theorem accessArithmeticCompletes : Obligations.AccessArithmeticCompletes := by
  unfold Obligations.AccessArithmeticCompletes
  intro st m d a b i l
  exact
    ⟨completesA_of (exec_aadd ..) fun _ _ => rfl,
    completesA_of (exec_asub ..) fun _ _ => rfl,
    completesA_of (exec_amul ..) fun _ _ => rfl,
    completesA_of (exec_amulh ..) fun _ _ => rfl,
    completesA_of (exec_aand ..) fun _ _ => rfl,
    completesA_of (exec_aor ..) fun _ _ => rfl,
    completesA_of (exec_axor ..) fun _ _ => rfl,
    completesA_of (exec_ashl ..) fun _ _ => rfl,
    completesA_of (exec_ashr ..) fun _ _ => rfl,
    completesA_of (exec_asra ..) fun _ _ => rfl,
    completesA_of (exec_amin ..) fun _ _ => rfl,
    completesA_of (exec_amax ..) fun _ _ => rfl,
    completesA_of (exec_aminn ..) fun _ _ => rfl,
    completesA_of (exec_amaxn ..) fun _ _ => rfl,
    completesA_of (exec_aaddi ..) fun _ _ => rfl,
    completesA_of (exec_ali ..) fun _ _ => rfl,
    completesA_of (exec_alim ..) fun _ _ => rfl,
    completesA_of (exec_alit ..) fun _ _ => rfl,
    completesA_of (exec_aliq ..) fun _ _ => rfl⟩

/-! The access stream's branches (O23). A branch tests its group, and a test that holds takes the branch to its target. -/

section
variable {st : State} {i : Instr} {m : BitVec 1} {sp : AccSpec}

/-- A meaning on the group alone traps where its body does. -/
theorem trapsA_of_accessOp {bad : Group → Prop} {t : Trap} {F : Group → GEff} (he : exec i st = accessOp st m sp F)
    (hF : ∀ g, bad g → F g = .trap t) : st.trapsA i m sp (fun _ g => bad g) t :=
  trapsA_of he fun x g _ hb => by simp only [hF g hb]

end

section
variable {st : State} {i : Instr} {m : BitVec 1} {o : Word} {test : Group → Bool}

theorem abranch_trap_of_taken {g : Group} {t : Bool} {v : Word} (ht : t = true) (hv : g.apc + 4 * o = v) (hf : 2 ^ 52 ≤ v.toNat) :
    g.abranch t o = .trap { cause := .pageFault, addr := v.toNat } := by
  subst ht hv
  exact abranch_trap hf

/-- A conditional branch goes on, or to a target below 2^52 (R28, R145). -/
theorem abranch_completes (taken : Group → Prop) [∀ g, Decidable (taken g)] (he : exec i st = abranch st m o test) (ht : ∀ g, test g = true ↔ taken g) :
    st.completesA i m { legal := true, adv := false } (fun g => !decide (taken g) || decide ((g.apc + 4 * o).toNat < 2 ^ 52))
      (fun g => { g with apc := if taken g then g.apc + 4 * o else g.apc + 4 }) :=
  completesA_of he fun g hok => by
    have hnear : test g = true → (g.apc + 4 * o).toNat < 2 ^ 52 := fun h => by simpa [(ht g).mp h] using hok
    simp only [abranch_done hnear, ht g]

/-- One that is taken to a target at or above 2^52 raises PAGE_FAULT with the target (R28). -/
theorem abranch_faults (taken : Group → Prop) (v : Word) (he : exec i st = abranch st m o test) (ht : ∀ g, test g = true ↔ taken g) :
    st.trapsA i m { legal := true, adv := false } (fun _ g => taken g ∧ g.apc + 4 * o = v ∧ 2 ^ 52 ≤ v.toNat) { cause := .pageFault, addr := v.toNat } :=
  trapsA_of_accessOp he fun g hbad => abranch_trap_of_taken ((ht g).mpr hbad.1) hbad.2.1 hbad.2.2

end

/-- Settles O23: each word's test or target chooses between the next word, the target and the trap. The detail 0 of a target's PAGE_FAULT (log entry 30) and the
trap at the branch itself (log entry 27) are the model's choices. -/
theorem accessBranchesComplete : Obligations.AccessBranchesComplete := by
  unfold Obligations.AccessBranchesComplete
  intro st m a b o p q
  have heq := fun g : Group => beq_iff_eq (a := g.getA a.toNat) (b := g.getA b.toNat)
  have hne := fun g : Group => bne_iff_ne (a := g.getA a.toNat) (b := g.getA b.toNat)
  have hlt := fun g : Group => BitVec.slt_iff_toInt_lt (x := g.getA a.toNat) (y := g.getA b.toNat)
  have hltn := fun g : Group => BitVec.ult_iff_toNat_lt (x := g.getA a.toNat) (y := g.getA b.toNat)
  have hge (g : Group) : (!(g.getA a.toNat).slt (g.getA b.toNat)) = true ↔ (g.getA b.toNat).toInt ≤ (g.getA a.toNat).toInt := by
    rw [← BitVec.sle_eq_not_slt, BitVec.sle_iff_toInt_le]
  have hgen (g : Group) : (!(g.getA a.toNat).ult (g.getA b.toNat)) = true ↔ (g.getA b.toNat).toNat ≤ (g.getA a.toNat).toNat := by
    rw [← BitVec.ule_eq_not_ult, BitVec.ule_iff_toNat_le]
  refine ⟨completesA_of (exec_anop ..) fun _ _ => rfl, completesA_of (exec_abr ..) fun g hok => ?abr, abranch_completes _ (exec_abeq ..) heq,
    abranch_completes _ (exec_abne ..) hne, abranch_completes _ (exec_ablt ..) hlt, abranch_completes _ (exec_abge ..) hge,
    abranch_completes _ (exec_abltn ..) hltn, abranch_completes _ (exec_abgen ..) hgen, completesA_of (exec_aloop ..) fun g hok => ?aloop,
    completesA_of (exec_ajmpi ..) fun g hok => ?ajmpi, trapsA_of_accessOp (exec_ajmpi ..) fun g h => ?misaligned,
    fun v => trapsA_of_accessOp (exec_ajmpi ..) fun g h => ?far, fun v => trapsA_of_accessOp (exec_abr ..) fun g h => ?abrFar,
    fun v => abranch_faults _ v (exec_abeq ..) heq, fun v => abranch_faults _ v (exec_abne ..) hne, fun v => abranch_faults _ v (exec_ablt ..) hlt,
    fun v => abranch_faults _ v (exec_abge ..) hge, fun v => abranch_faults _ v (exec_abltn ..) hltn, fun v => abranch_faults _ v (exec_abgen ..) hgen,
    fun v => trapsA_of_accessOp (exec_aloop ..) fun g h => ?aloopFar⟩
  case abr => exact abranch_done fun _ => of_decide_eq_true hok
  case aloop =>
    have hnear : (g.getA a.toNat - 1 != 0) = true → (g.apc + 4 * q.signExtend 64).toNat < 2 ^ 52 := fun h =>
      of_decide_eq_true ((Bool.or_eq_true_iff.mp hok).resolve_left fun hz => bne_iff_ne.mp h (of_decide_eq_true hz))
    exact (abranch_done (by rwa [Group.putA_apc])).trans (by simp only [bne_iff_ne, Group.putA_apc])
  case ajmpi =>
    obtain ⟨halign, hnear⟩ := Bool.and_eq_true_iff.mp hok
    simp only [jumpTrap_of_aligned (of_decide_eq_true halign), farTrap_near (of_decide_eq_true hnear)]
  case misaligned => simp only [jumpTrap_of_misaligned h]
  case far =>
    obtain ⟨rfl, halign, hfar⟩ := h
    simp only [jumpTrap_of_aligned halign, farTrap_far hfar]
  case abrFar => exact abranch_trap_of_taken rfl h.1 h.2
  case aloopFar =>
    obtain ⟨hgoes, htarget, hfar⟩ := h
    exact abranch_trap_of_taken (bne_iff_ne.mpr hgoes) (by rwa [Group.putA_apc]) hfar

end Sys2Proof.Machine
end

section

namespace Sys2Proof.Machine

/-! Commands of the engines (O30). A command is checked, and one that passes joins its engine's queue. -/

section
variable {x y : State} {g : Group} {db ctr chan step : Nat} {hand xmc : Bool} {guard : Option Nat} {cmd : EngCmd} {oob : Bool} {t : Trap}

theorem copyIssue_done (hc : x.copyCheck g hand db ctr = .inr (cmd, oob))
    (hq : x.cmdIssued g guard oob cmd (fun c k => { k with copyQ := k.copyQ ++ [c] }) y) : copyIssue x g hand db ctr guard = .done y := by
  simp only [copyIssue, hc, queueCmd_done hq]

theorem copyIssue_trap (hc : x.copyCheck g hand db ctr = .inl t) : copyIssue x g hand db ctr guard = .trap t x := by
  simp only [copyIssue, hc]

theorem xferIssue_done (hc : x.xferCheck g xmc db ctr chan step = .inr (cmd, oob))
    (hq : x.cmdIssued g guard oob cmd (fun c k => { k with fabQ := k.fabQ ++ [c] }) y) : xferIssue x g xmc db ctr guard chan step = .done y := by
  simp only [xferIssue, hc, queueCmd_done hq]

theorem xferIssue_trap (hc : x.xferCheck g xmc db ctr chan step = .inl t) : xferIssue x g xmc db ctr guard chan step = .trap t x := by
  simp only [xferIssue, hc]

end

/-- Settles O30: the checks of each command give the command that its engine's queue takes, or their trap. -/
theorem engineCommandsQueue : Obligations.EngineCommandsQueue := by
  unfold Obligations.EngineCommandsQueue
  intro st m d c g e h p
  exact ⟨fun _ _ _ => actsA_of (exec_cpy ..) fun _ _ _ h => copyIssue_done h.1 h.2, fun _ _ _ => actsA_of (exec_hand ..) fun _ _ _ h => copyIssue_done h.1 h.2,
    fun _ _ _ => actsA_of (exec_xfer ..) fun _ _ _ h => xferIssue_done h.1 h.2, fun _ _ _ => actsA_of (exec_xmc ..) fun _ _ _ h => xferIssue_done h.1 h.2,
    fun _ => trapsA_of (exec_cpy ..) fun _ _ _ h => copyIssue_trap h, fun _ => trapsA_of (exec_hand ..) fun _ _ _ h => copyIssue_trap h,
    fun _ => trapsA_of (exec_xfer ..) fun _ _ _ h => xferIssue_trap h, fun _ => trapsA_of (exec_xmc ..) fun _ _ _ h => xferIssue_trap h⟩

/-! Atomics (O28). The view, the queue and the elements are checked; then R166 chooses between the memory unit and the workgroup's buffer. -/

theorem emptyQ_of_ended {g : Group} {l : List QEntry} {n : Nat} {x : State} (hl : l.length < n) (hend : g.cend = true) :
    emptyQ g l n x = some (.trap { cause := .queueError } x) := (if_pos hl).trans (if_pos hend)

theorem emptyQ_of_running {g : Group} {l : List QEntry} {n : Nat} {x : State} (hl : l.length < n) (hrun : g.cend = false) :
    emptyQ g l n x = some (.hold x) := (if_pos hl).trans (if_neg (Bool.eq_false_iff.mp hrun))

/-- An ATOM that returns nothing, or that R166 does not buffer, is not refused for its result. -/
theorem resultTaken_of {buffered : Bool} {q : Nat} (h : buffered = false ∨ q = 7) : (buffered && (if q < 4 then some q else none).isSome) = false := by
  obtain rfl | rfl := h
  · rfl
  · exact Bool.and_false _

/-- What ATOMA asks of its view passes: the element size, and that it may write there (R164, R165). -/
theorem atomaAfter_of {op slot : Nat} {dv : BitVec 1024} {parts : List Part} (hs : atomSizeOk op (vEsize dv) = true) (hw : vRonly dv = false) :
    (if !atomSizeOk op (vEsize dv) then some (viewFault slot 13) else ronlyAt dv parts) = none := by
  simp only [hs, Bool.not_true, Bool.false_eq_true, if_false, ronlyAt_of_writable hw]

/-- Settles O28: the view, the queue and the elements of each word pass their checks or fail the one that its clause names, and R166 says whether the atomic
joins the memory unit or the workgroup's buffer. The model's choices here are the order of the checks (log entry 17) and the byte offset that TADDR holds of a
space other than GLOB (log entry 91). -/
theorem atomicsIssue : Obligations.AtomicsIssue := by
  unfold Obligations.AtomicsIssue
  intro st m q v a d o c p p4 o2
  refine ⟨fun dv hits oob y => actsA_of (exec_atom ..) fun x gr _ h => ?atom, fun dv hits oob y => actsA_of (exec_atom ..) fun x gr _ h => ?atomBuffered,
    trapsA_of (exec_atom ..) fun x gr _ h => ?atomResult, fun dv hits oob => trapsA_of (exec_atom ..) fun x gr _ h => ?atomBufferFull,
    fun dv => trapsA_of (exec_atom ..) fun x gr _ h => ?atomSize, fun dv n => trapsA_of (exec_atom ..) fun x gr _ h => ?atomReadOnly,
    fun dv => trapsA_of (exec_atom ..) fun x gr _ h => ?atomEnded, fun dv => startsA_of (exec_atom ..) fun x gr _ h => ?atomEmpty,
    fun dv hits oob => startsA_of (exec_atom ..) fun x gr _ h => ?atomLqFull, fun dv hits oob y => actsA_of (exec_atoma ..) fun x gr _ h => ?atoma,
    fun dv hits oob y => actsA_of (exec_atoma ..) fun x gr _ h => ?atomaBuffered, fun dv hits oob => trapsA_of (exec_atoma ..) fun x gr _ h => ?atomaBufferFull,
    fun dv => trapsA_of (exec_atoma ..) fun x gr _ h => ?atomaSize, fun dv n => trapsA_of (exec_atoma ..) fun x gr _ h => ?atomaReadOnly⟩
  case atom =>
    obtain ⟨hplain, hview, hsize, hwritable, hfilled, hreach, hroom, hissued⟩ := h
    simp only [hplain, hview, hsize, ronlyAt_of_writable hwritable, hfilled, hreach, hroom, Bool.false_and, Bool.not_true, Bool.false_eq_true, if_false]
    exact issueMem_done hissued
  case atomBuffered | atomBufferFull =>
    obtain ⟨hbuffered, hq, hview, hsize, hwritable, hfilled, hreach, hbuffer⟩ := h
    simp only [resultTaken_of (.inr hq), hbuffered, hview, hsize, ronlyAt_of_writable hwritable, hfilled, hreach, hbuffer, Bool.not_true, Bool.false_eq_true, if_false,
      if_true]
  case atomResult =>
    obtain ⟨hbuffered, hq⟩ := h
    simp only [hbuffered, if_pos hq, Option.isSome_some, Bool.and_self, if_true, illegal]
  case atomSize =>
    obtain ⟨hresult, hview, hsize⟩ := h
    simp only [resultTaken_of hresult, hview, hsize, Bool.not_false, Bool.false_eq_true, if_false, if_true]
  case atomReadOnly =>
    obtain ⟨hresult, hview, hsize, hreadOnly, rfl⟩ := h
    simp only [resultTaken_of hresult, hview, hsize, ronlyAt_of_readOnly hreadOnly, Bool.not_true, Bool.false_eq_true, if_false]
  case atomEnded =>
    obtain ⟨hresult, hview, hsize, hwritable, hshort, hend⟩ := h
    simp only [resultTaken_of hresult, hview, hsize, ronlyAt_of_writable hwritable, emptyQ_of_ended hshort hend, Bool.not_true, Bool.false_eq_true, if_false]
  case atomEmpty =>
    obtain ⟨hresult, hview, hsize, hwritable, hshort, hrun⟩ := h
    simp only [resultTaken_of hresult, hview, hsize, ronlyAt_of_writable hwritable, emptyQ_of_running hshort hrun, Bool.not_true, Bool.false_eq_true, if_false]
  case atomLqFull =>
    obtain ⟨hplain, hview, hsize, hwritable, hfilled, hreach, hfull⟩ := h
    simp only [hplain, hview, hsize, ronlyAt_of_writable hwritable, hfilled, hreach, hfull, Bool.false_and, Bool.not_true, Bool.false_eq_true, if_false, if_true]
  case atoma =>
    obtain ⟨hplain, hview, hsize, hwritable, hreach, hissued⟩ := h
    refine (through_of_ok hview (atomaAfter_of hsize hwritable) hreach).trans ?_
    simp only [hplain, Bool.false_eq_true, if_false]
    exact issueMem_done hissued
  case atomaBuffered | atomaBufferFull =>
    obtain ⟨hbuffered, hview, hsize, hwritable, hreach, hbuffer⟩ := h
    refine (through_of_ok hview (atomaAfter_of hsize hwritable) hreach).trans ?_
    simp only [hbuffered, hbuffer, if_true]
  case atomaSize =>
    obtain ⟨hview, hsize⟩ := h
    exact through_of_after hview (if_pos (by simp [hsize]))
  case atomaReadOnly =>
    obtain ⟨hview, hsize, hreadOnly, rfl⟩ := h
    exact through_of_after hview ((if_neg (by simp [hsize])).trans (ronlyAt_of_readOnly hreadOnly))

end Sys2Proof.Machine
end

section

namespace Sys2Proof.Machine

/-! Fences and placed loads (O31). LDP checks its view and its request. What the placements then ask for is a load at once, a local slice before
it, or a collective. -/

section
variable {x y : State} {gid q slot : Nat} {gr : Group} {m : Am} {dv : BitVec 1024} {k : IEff}

/-- A view that is not converting and a request in its register pass the checks of LDP (R237). -/
theorem ldp_of_checked {r req : Nat} (hr : r ≤ 31) (hq : req < 2 ^ 44) (hc : vConverting dv = false) :
    (if 31 < r ∨ 2 ^ 44 ≤ req then .trap (viewFault slot 12) x else if vConverting dv then .hold x else k) = k :=
  (if_neg (not_or.mpr ⟨Nat.not_lt.mpr hr, Nat.not_le.mpr hq⟩)).trans (if_neg (Bool.eq_false_iff.mp hc))

/-- The load after a conversion is the tile load, with the stream no longer waiting for the conversion (R237). -/
theorem convLoad_of_tileLoad
    (h : (x.updGroup gid fun g => { g with await := .ready }).tileLoad gid { gr with await := .ready } m q (checkedDesc dv m.slot m.cb) = .done y) :
    x.convLoad gid gr m q dv = .done y := by
  simp only [State.convLoad, h]

/-- A collective that splits a dimension splits it evenly, as R237 asks. -/
theorem splitsEvenly_of {act : ConvAct} {n l : Nat} (hc : act ≠ .slice) (hd : act = .scatter → n % l = 0) :
    ¬ ((act = .scatter ∨ act = .slice) ∧ n % l ≠ 0) := fun h => h.2 (hd (h.1.resolve_right hc))

/-- No guard stands before an LDP, or it has resolved true (R89). -/
theorem ldpGuard_of {v a : BitVec 5} {d g : BitVec 3} {e : BitVec 1} {c : BitVec 2}
    (h : (if e = 1#1 then some g.toNat else (none : Option Nat)) = none ∨ (mgetD gr.guards g.toNat {}).res.head? = some true) :
    gr.ldpGuard (amOf v a d g e c).guard = some true := by
  by_cases he : e = 1#1
  · obtain ⟨l, hl⟩ := List.head?_eq_some_iff.mp (h.resolve_left (by simp [he]))
    simp only [amOf, if_pos he, Group.ldpGuard, hl]
  · simp only [amOf, if_neg he, Group.ldpGuard]

end

/-- Settles O31: each fence holds the stream, and the axes on which the placements differ, with the conversion of one that does, choose LDP's effect. That a guarded
LDP's conversion waits for its guard is the model's choice (log entry 48). The request's bounds stay the powers of two that the clauses write. -/
theorem fencesAndPlacedLoadsIssue : Obligations.FencesAndPlacedLoadsIssue := by
  unfold Obligations.FencesAndPlacedLoadsIssue
  intro st m q v a d g e c s k f t
  refine ⟨actsA_of (exec_fence ..) fun _ _ _ _ => rfl, actsA_of (exec_xfence ..) fun _ _ _ _ => rfl,
    fun dv dom hits oob y => actsA_of (exec_ldp ..) fun x gr _ h => ?placed, fun cv dv hits oob y => actsA_of (exec_ldp ..) fun x gr _ h => ?converted,
    fun dv sv dom i ms devs me act hits oob y => actsA_of (exec_ldp ..) fun x gr _ h => ?sliced,
    fun dv dom i ms devs me act y => startsA_of (exec_ldp ..) fun x gr _ h => ?submitted, fun dv => trapsA_of (exec_ldp ..) fun x gr _ h => ?noDomain,
    fun dv dom i j l => trapsA_of (exec_ldp ..) fun x gr _ h => ?severalAxes⟩
  case placed =>
    obtain ⟨hmade, hview, hregister, hrequest, hsteady, hdomain, haxes, hreach, hroom, hissued⟩ := h
    simp only [hmade, -Nat.reducePow]
    rw [amOf_slot, amOf_cb, hview]
    refine (ldp_of_checked hregister hrequest hsteady).trans ?_
    simp only [hdomain, haxes, -Nat.reducePow]
    exact tileLoad_done rfl hreach (loadRoom_of hroom) hissued
  case converted =>
    obtain ⟨hmade, hview, hreach, hroom, hissued⟩ := h
    simp only [hmade]
    exact convLoad_of_tileLoad (tileLoad_done hview hreach (loadRoom_of hroom) hissued)
  case sliced =>
    obtain ⟨hmade, hview, hregister, hrequest, hsteady, hdomain, haxis, hmesh, hmembers, hgroup, hguard, hrtype, hact, rfl, hdivides, hslice, hreach, hroom,
      hissued⟩ := h
    simp only [hmade, -Nat.reducePow]
    rw [amOf_slot, amOf_cb, hview]
    refine (ldp_of_checked hregister hrequest hsteady).trans ?_
    simp only [hdomain, haxis, if_pos hmesh, hmembers, Option.bind_some, hgroup, hact, Option.any_some, hdivides, hrtype, ldpGuard_of hguard, ne_eq,
      not_true_eq_false, decide_false, Bool.not_true, Bool.false_eq_true, and_false, if_false, if_true, -Nat.reducePow]
    exact convLoad_of_tileLoad (tileLoad_done hslice hreach (loadRoom_of hroom) hissued)
  case submitted =>
    obtain ⟨hmade, hview, hregister, hrequest, hsteady, hdomain, haxis, hmesh, hmembers, hgroup, hguard, hrtype, hact, hcollective, hdivides, halive, hstores,
      hsubmit⟩ := h
    simp only [hmade, -Nat.reducePow]
    rw [amOf_slot, amOf_cb, hview]
    refine (ldp_of_checked hregister hrequest hsteady).trans ?_
    simp only [hdomain, haxis, if_pos hmesh, hmembers, Option.bind_some, hgroup, hact, Option.any_some, decide_eq_true_eq, if_neg (splitsEvenly_of hcollective hdivides),
      hrtype, if_neg hcollective, halive, ldpGuard_of hguard, hstores, hsubmit, Option.getD_some, Bool.not_true, Bool.false_eq_true, if_false, -Nat.reducePow]
  case noDomain =>
    obtain ⟨hmade, hview, hregister, hrequest, hsteady, hdomain⟩ := h
    simp only [hmade, -Nat.reducePow]
    rw [amOf_slot, amOf_cb, hview]
    refine (ldp_of_checked hregister hrequest hsteady).trans ?_
    simp only [hdomain]
  case severalAxes =>
    obtain ⟨hmade, hview, hregister, hrequest, hsteady, hdomain, haxes⟩ := h
    simp only [hmade, -Nat.reducePow]
    rw [amOf_slot, amOf_cb, hview]
    refine (ldp_of_checked hregister hrequest hsteady).trans ?_
    simp only [hdomain, haxes, placement, -Nat.reducePow]

end Sys2Proof.Machine
end

section

namespace Sys2Proof.Machine

/-! The memory units (O44). Each event finds what it is to serve, and the conditions of its clause are those that it asks. -/

section
variable {st : State} {n id : Nat} {g : Group}

/-- A load whose lines are all done arrives, a VDEF where the view in its slot does not convert (R126, R141). -/
theorem execLoadDataArrival_of_done {a : Access} (hg : mget st.groups n = some g) (ha : g.accessOf id = some a) (hr : a.resolved = true) (hc : a.checked = true)
    (hd : (a.lines.all fun m => m.done) = true) (hv : a.kind = .vdef → st.slotBusy g a.slot = false) :
    execLoadDataArrival n id st = .next (st.arrive n a) := by
  have hfree : (decide (a.kind = .vdef) && st.slotBusy g a.slot) = false := by
    rw [Bool.and_eq_false_iff, decide_eq_false_iff_not]
    exact not_or_of_imp hv
  simp only [execLoadDataArrival, hg, ha, hr, hc, hd, hfree, Bool.not_false, Bool.and_self, if_true]

/-- A fence of kind 0, 1 or 2 completes once its release and acquire conditions hold and nothing of the group is spilled (R161, R167). -/
theorem execFenceComplete_of_holds {k scope up : Nat} (hg : mget st.groups n = some g) (hs : st.spilledBy n g.wg (fun _ => true) = false)
    (hw : g.await = .fence k scope up) (hk : k ≠ 3) (hrel : k = 1 ∨ k = 2 → st.releaseDone n g scope up = true) (hacq : k = 0 ∨ k = 2 → acquireReady g up = true) :
    execFenceComplete n st = .next (
      let y := if k = 1 ∨ k = 2 then st.released n scope up else st
      (if k = 0 ∨ k = 2 then y.acquire n scope else y).updGroup n fun g => { g with await := .ready, apc := g.apc + 4 }) := by
  have hr : ((decide (k = 1) || decide (k = 2)) && !st.releaseDone n g scope up) = false := by
    simp only [Bool.and_eq_false_iff, Bool.not_eq_false', ← Bool.decide_or, decide_eq_false_iff_not]
    exact not_or_of_imp hrel
  have ha : ((decide (k = 0) || decide (k = 2)) && !acquireReady g up) = false := by
    simp only [Bool.and_eq_false_iff, Bool.not_eq_false', ← Bool.decide_or, decide_eq_false_iff_not]
    exact not_or_of_imp hacq
  simp only [execFenceComplete, hg, hw, hr, ha, hs, decide_eq_false hk, Bool.or_self, Bool.false_eq_true, if_false, Bool.or_eq_true, decide_eq_true_eq]

end

/-- Settles O44: each event finds its line, access, entry or fence ready, and has the effect that its clause names. The model's choices here are the from-paths of an
XFENCE at SYSTEM scope (log entry 96), what becomes of poison that an atomic without a result reads (log entry 92), and that a release raises pts to AMARK (log
entry 95). -/
theorem memoryUnitsComplete : Obligations.MemoryUnitsComplete := by
  unfold Obligations.MemoryUnitsComplete
  intro st n id va
  refine ⟨fun g a b l x y hl hx hy => congrArg _ (performLine_ready hl hx hy), fun g a b l x y hl hx hy => congrArg _ (performLine_ready hl hx hy),
    fun g a b l x y hl hx hy => congrArg _ (performLine_ready hl hx hy),
    fun g a hg ha hr hc hd hv => (exec_loadDataArrival ..).trans (execLoadDataArrival_of_done hg ha hr hc hd hv), ⟨_, rfl, rfl, rfl⟩, ?spillway,
    fun g scope up hg hs => ⟨fun hw ha => ?acquireFence, fun hw hr => ?releaseFence, fun hw hr ha => ?bothFence⟩, ?xfence, ?scFence, ?scAtomic⟩
  case spillway =>
    rintro e r w x y b l k g a m hspillway hruns hk htrap hgood rfl rfl rfl hturn hplace hstill hmove hlog hdirty hserve rfl
    have holdest : (st.spillway n)[0]? = some e := by rw [hspillway]; rfl
    obtain hruns | hruns | hruns := hruns
    all_goals
      simp only [exec_spillwayPerform, execSpillwayPerform, holdest, hruns, List.take_zero, List.any_nil, hk, htrap, hgood, hturn, hplace, hstill, hmove, hlog, hdirty,
        hserve, Bool.or_self, Bool.and_self, Bool.and_false, Bool.not_false, Bool.false_eq_true, if_false, if_true]
  case acquireFence => exact execFenceComplete_of_holds hg hs hw (by decide) (by simp) fun _ => ha
  case releaseFence => exact execFenceComplete_of_holds hg hs hw (by decide) (fun _ => hr) (by simp)
  case bothFence => exact execFenceComplete_of_holds hg hs hw (by decide) (fun _ => hr) fun _ => ha
  case xfence =>
    rintro g f t u up y hg hw hd rfl
    simp only [exec_xfenceComplete, execXfenceComplete, hg, hw, hd, if_true]
  case scFence =>
    intro g scope up y t hg hw hd ht
    simp only [exec_scTicketGrant, execScTicketGrant, hg, hw, hd, ht, if_true]
  case scAtomic =>
    rintro g a y t w z hg hw ha ho hn hd ht rfl rfl
    simp only [exec_scTicketGrant, execScTicketGrant, hg, hw, ha, ho, hn, hd, ht, and_self, if_true]

end Sys2Proof.Machine
end

section

namespace Sys2Proof.Machine

/-! The directory's events and the pages (O45). -/

/-! Grants and revokes (R206, R207, R212). -/

section
variable {st : State} {n line half : Nat}

/-- An agent of the host side is no die. -/
theorem not_die_of_hostAgent (h : n = 9 ∨ n = 10) : ¬ (1 ≤ n ∧ n ≤ 8) := by omega

/-- The hub cores, and the CXL host where there is one, are granted a half of a line (R212). -/
theorem execDirectoryGrant_of_hostSide {excl : Bool} (c : Nat) (h : n = 9 ∨ n = 10 ∧ st.cxlHost = true) :
    execDirectoryGrant n line half excl c st = .next (st.grantHalf n line half excl) :=
  congrArg _ ((if_neg (not_die_of_hostAgent (h.imp_right And.left))).trans (if_pos h))

/-- A die that gives a line up leaves the state of its revocation (R207). -/
theorem execDirectoryRevoke_of_die {y : State} (h1 : 1 ≤ n) (h8 : n ≤ 8) (hy : st.revokeDie n line = some y) : execDirectoryRevoke n line half st = .next y := by
  simp only [execDirectoryRevoke, h1, h8, and_self, if_true, hy, Option.getD_some]

/-- A host-side agent that gives its half up leaves the state of its recall (R212). -/
theorem execDirectoryRevoke_of_hostAgent {y : State} (hhalf : half < 2) (hn : n = 9 ∨ n = 10) (hagent : n = (st.dirOf line).agent half)
    (hy : st.recallHalf line half = some y) : execDirectoryRevoke n line half st = .next y := by
  have hholds : half < 2 ∧ n ≠ 0 ∧ n = (st.dirOf line).agent half := ⟨hhalf, by omega, hagent⟩
  simp only [execDirectoryRevoke, if_neg (not_die_of_hostAgent hn), if_pos hholds, hy, Option.getD_some]

end

/-! The pts jump (R204, R425). -/

section
variable {st : State} {core f : Nat}

/-- A core with replaying contexts on it jumps as their logs say (R425). -/
theorem jumpCore_of_replaying {c : Nat} {r : List Nat} (h : (st.coreCtxs core).filter (fun c => (st.ctx c).replay.any fun r => !r.off) = c :: r) :
    st.jumpCore core f = (c :: r).foldl (fun st c => st.replayJumps core c) st := by
  simp only [State.jumpCore, h, ne_eq, reduceCtorEq, not_false_eq_true, if_true]

/-- Without a replaying context, only a core that lies behind jumps, once each recording context has logged the jump (R204, R424). -/
theorem jumpCore_of_not_replaying (h : (st.coreCtxs core).filter (fun c => (st.ctx c).replay.any fun r => !r.off) = []) :
    st.jumpCore core f = if sLt (st.core core).pts f then
      ((st.coreCtxs core).foldl (fun s c => if s.recording c then
        s.append c (core / 4) (recHome 3 (core % 4 * 4) f (mgetD (s.ctx c).acnt (core / 4 * 32 + core % 4 * 4) 0) 0 0) else s) st).updCore core fun k => { k with pts := f }
      else st := by
  simp only [State.jumpCore, h, ne_eq, not_true_eq_false, if_false]

end

/-! Pages: migration and bias (R195, R214). -/

section
variable {st : State} {n page : Nat} {x : Ctx} {e : Word} {level at_ : Nat} {b : List Nat}
  (hx : mget st.ctxs n = some x) (hw : st.walk n (page * 2 ^ 16) = .leaf e level at_ b)
  (hq : st.leafQuiet n at_ (leafBase level page) (leafSize level / 2 ^ 16) = true)
include hx hw hq

/-- The first event of a migration sets MG in the page's leaf, and the page is translated again (R195). -/
theorem execPageMigration_of_unblocked {newPa : Nat} (hmg : pteBit e 11 = false) :
    execPageMigration n page newPa st =
      .next (match (st.setLeaf at_ (e ||| 0x800#64)).translate n (.unit 0) (page * 2 ^ 16) with | .ok _ _ s => s | _ => st.setLeaf at_ (e ||| 0x800#64)) := by
  simp only [execPageMigration, hx, hw, -Nat.reducePow]
  exact congrArg _ ((if_neg (by rw [hq]; decide)).trans (if_pos (by rw [hmg]; decide)))

/-- The second event of a migration moves every granule, once no die and no agent holds a line of the page, and the leaf names the new place (R195). -/
theorem execPageMigration_of_blocked {newPa : Nat} {new : Word} {old dst : List Nat} {y z : State} (hmg : pteBit e 11 = true)
    (hnew : new = BitVec.ofNat 64 (newPa / leafSize level * leafSize level + (e &&& 0xF7FF#64).toNat % 2 ^ 16))
    (hold : old = st.granules x.dev level e) (hdst : dst = st.granules x.dev level new) (hleaf : st.badLeaf new level = false)
    (hstill : old.any (fun g => st.quiescing (4096 * g) && !st.migrating (4096 * g)) = false)
    (hfree : dst.any (fun g => decide (g ∈ old) || st.dir.any fun d => decide (d.1 / 4096 = g)) = false)
    (hy : st.revokeGranules old = some y) (hz : y.recallGranules old = some z) :
    execPageMigration n page newPa st =
      .next (((z.moveGranules (old.zip dst)).setLeaf at_ new).patchLines n (leafBase level page) (leafSize level / 2 ^ 16)
        (fun l => { l with pa := movedTo (old.zip dst) l.pa }) (movedTo (old.zip dst))) := by
  simp only [execPageMigration, hx, hw, hq, hmg, ← hnew, ← hold, ← hdst, hleaf, hstill, hfree, hy, hz, Option.bind_some, Bool.not_true, Bool.or_self, Bool.false_eq_true,
    if_false, -Nat.reducePow]

/-- A bias flip of a page in the other bias, none of it quiescing, once the revokes or recalls it needs are done (R214). -/
theorem execBiasFlip_of_still {toHost : Bool} {y : State} (hbias : pteBit e 10 = !toHost) (hfixed : pteBit e 55 = false) (hmg : pteBit e 11 = false)
    (hstill : (st.granules x.dev level e).any (fun g => st.quiescing (4096 * g)) = false)
    (hy : (if toHost then st.revokeGranules (st.granules x.dev level e) else st.recallGranules (st.granules x.dev level e)) = some y) :
    execBiasFlip n page toHost st =
      .next (((if toHost then { y with l3 := y.l3.map fun l => if l.1 / 4096 ∈ st.granules x.dev level e then (l.1, false) else l } else y).setLeaf at_
        (if toHost then e ||| 0x400#64 else e &&& ~~~0x400#64)).patchLines n (leafBase level page) (leafSize level / 2 ^ 16) (fun l => { l with host := toHost }) id) := by
  simp only [execBiasFlip, hx, hw, hq, hbias, hfixed, hmg, hstill, hy, Bool.not_beq_self, Bool.not_true, Bool.or_self, Bool.false_eq_true, if_false, -Nat.reducePow]

end

/-! The host path (R191, R212, R213, R456). -/

/-- A host-side agent's access to bytes of one half that are there and that no event holds: a read leaves the state as it is, and a write stores where the agent
holds the half exclusively (R212, R213). -/
theorem execHostAccess_of_reach {st : State} {n dev pa k d a : Nat} {wr : Bool} (hagent : n = 9 ∨ n = 10 ∧ st.cxlHost = true) (hk : k ≠ 0)
    (ha : a = st.flatPa dev (pa % 2 ^ 56)) (hfit : a % 64 + k ≤ 64) (hdev : dev < devCount st.mode) (hstill : st.quiescing a = false) (hthere : st.lostTrap a = none)
    (hfree : st.moveFreeAt a = true) :
    execHostAccess n dev pa k wr d st = .next (if !wr then st
      else if (if a % 128 < 64 then (st.dirOf (lineOf a)).half0 else (st.dirOf (lineOf a)).half1) ≠ 2 ∨ !st.tableQuiet (lineOf a) ∨ st.hostHolds a then st
      else st.hostStore a k (d % 2 ^ (8 * k))) := by
  have hbpm : ¬ (n = 9 ∧ dev = 255) := fun h => absurd (h.2 ▸ hdev) (by unfold devCount; split_ifs <;> decide)
  have hmay : (decide (n = 9) || (decide (n = 10) && st.cxlHost)) = true := by simpa using hagent
  simp only [execHostAccess, ← ha, if_neg hbpm, hmay, decide_eq_false hk, decide_eq_false (Nat.not_lt.mpr hfit), decide_eq_false (Nat.not_le.mpr hdev), hstill, hthere, hfree,
    Option.isSome_none, Bool.not_true, Bool.or_self, Bool.false_eq_true, if_false, -Nat.reducePow]

/-- Settles O45: each event finds its line held, its core behind, its page mapped and still, or its half held, and has the effect that its clause names. The model's
choices here are a migration made in two events (log entry 55) and the BPM as device number 255 of a host access (log entry 99). -/
theorem directoryAndPagesComplete : Obligations.DirectoryAndPagesComplete := by
  unfold Obligations.DirectoryAndPagesComplete
  intro st n
  refine ⟨fun h1 h8 line c excl => congrArg _ (if_pos ⟨h1, h8⟩), fun h line half c excl => execDirectoryGrant_of_hostSide c h,
    fun h1 h8 line y hy => execDirectoryRevoke_of_die h1 h8 hy, fun line half y hhalf hn ha hy => execDirectoryRevoke_of_hostAgent hhalf hn ha hy,
    fun h => ⟨fun hlt => ⟨_, rfl, ?behind⟩, fun hlt => ?level⟩, fun c r h => congrArg _ (jumpCore_of_replaying h), ⟨_, rfl, rfl⟩, ⟨_, rfl, rfl⟩,
    ⟨_, _, _, rfl, rfl, rfl, rfl⟩, ?block,
    fun page newPa x e level at_ b old dst new y z hx hw hmg hq hnew hold hdst hleaf hstill hfree hy hz =>
      execPageMigration_of_blocked hx hw hq hmg hnew hold hdst hleaf hstill hfree hy hz,
    fun page x e level at_ b y hx hw hfixed hmg hq hstill => ⟨fun hbias hy => execBiasFlip_of_still hx hw hq hbias hfixed hmg hstill hy,
      fun hbias hy => execBiasFlip_of_still hx hw hq hbias hfixed hmg hstill hy⟩,
    fun dev pa k d a hagent hk ha hfit hdev hstill hthere hfree => ⟨execHostAccess_of_reach hagent hk ha hfit hdev hstill hthere hfree, fun hhalf hquiet hholds => ?store⟩,
    fun pa k d hn => ⟨?bpmRead, fun hk hpa => ?bpmWrite⟩⟩
  case behind => exact congrArg _ ((jumpCore_of_not_replaying h).trans (if_pos hlt))
  case level => exact congrArg _ ((jumpCore_of_not_replaying h).trans (if_neg (Bool.eq_false_iff.mp hlt)))
  case block =>
    rintro page new x e level at_ b z hx hw hmg hq rfl
    exact execPageMigration_of_unblocked hx hw hq hmg
  case store =>
    refine (execHostAccess_of_reach hagent hk ha hfit hdev hstill hthere hfree).trans ?_
    simp only [hhalf, hquiet, hholds, ne_eq, not_true_eq_false, Bool.not_true, Bool.false_eq_true, or_self, if_false]
  case bpmRead => simp only [exec_hostAccess, execHostAccess, hn, and_self, if_true, Bool.false_eq_true, false_and, if_false]
  case bpmWrite => simp only [exec_hostAccess, execHostAccess, hn, hk, hpa, and_self, if_true, -Nat.reducePow]

end Sys2Proof.Machine
end

section

namespace Sys2Proof.Machine

/-! The fabric's events (O47). -/

/-! Packets of other devices (R216, R217, R220, R370, R377). -/

section
variable {st : State} {port : Nat} {hdr : BitVec 256} {pay : Nat}

/-- A packet for this device, of a length that a packet may have, on a working port and not held for a replay is let in. -/
theorem not_turnedAway_of_workingPort (hdst : pDst hdr = st.devno) (hfree : st.ingressHeld hdr = false) (hlen : pLen hdr ≤ 256) (hport : port < 36)
    (hup : port ∉ st.downPorts) : ¬ (pDst hdr ≠ st.devno ∨ 256 < pLen hdr ∨ 36 ≤ port ∨ port ∈ st.downPorts ∨ st.ingressHeld hdr = true) := by
  simp only [hdst, hfree, hup, Nat.not_lt.mpr hlen, Nat.not_le.mpr hport, ne_eq, not_true_eq_false, Bool.false_eq_true, or_self, not_false_eq_true]

variable (hin : ¬ (pDst hdr ≠ st.devno ∨ 256 < pLen hdr ∨ 36 ≤ port ∨ port ∈ st.downPorts ∨ st.ingressHeld hdr = true))

include hin

/-- The next line of a packet whose first has landed (R220, R473). -/
theorem execPacketArrival_of_landing {q : Packet} {y : State} (hland : (st.landing.find? fun q => decide (q.hdr = hdr)) = some q)
    (hy : ({ st with landing := st.landing.filter fun x => decide (x.hdr ≠ hdr) } : State).landLine ((st.ctxOfDomain (pDom hdr)).getD 0) q = some y) :
    execPacketArrival port hdr pay st = .next y := by
  simp only [execPacketArrival, if_neg hin, hland, hy, Option.getD_some, -Nat.reducePow]

variable (hsrc : pSrc hdr ≠ st.devno) (hnew : (st.landing.find? fun q => decide (q.hdr = hdr)) = none) (halive : st.dead.getLsbD (pSrc hdr) = false)

include hsrc hnew halive

/-- A packet of a reserved KIND is counted as dropped (R216). -/
theorem execPacketArrival_of_reservedKind (hkind : 6 ≤ pKind hdr) : execPacketArrival port hdr pay st = .next st.dropped := by
  simp only [execPacketArrival, if_neg hin, hnew, halive, if_pos hkind, decide_eq_false hsrc, Bool.false_and, Bool.false_eq_true, if_false, -Nat.reducePow]

/-- A packet with a payload goes to its domain's ingress Weir, or to memory where there is none (R370). -/
theorem execPacketArrival_of_payload (hkind : pKind hdr ≤ 1) : execPacketArrival port hdr pay st =
    .next (match st.weirFor (pDom hdr) false with
      | some (home, slot) => st.toWeir home slot port { hdr := hdr, pay := pay % 2 ^ (8 * pLen hdr) }
      | none => (st.land { hdr := hdr, pay := pay % 2 ^ (8 * pLen hdr) }).getD st) := by
  have hnamed : ¬ 6 ≤ pKind hdr := by omega
  obtain hk | hk : pKind hdr = 0 ∨ pKind hdr = 1 := by omega
  all_goals
    simp only [execPacketArrival, if_neg hin, hnew, halive, if_neg hnamed, decide_eq_false hsrc, Bool.false_and, Bool.false_eq_true, if_false, -Nat.reducePow]
    simp only [hk]
    cases st.outbox.find? (fun q => decide (q.hdr = hdr)) <;> rfl

end

/-- A skip notice of another device that lives counts the packet it stands for as delivered (R377). -/
theorem execSkipNotice_of_other {st : State} {hdr : BitVec 256} (hdst : pDst hdr = st.devno) (hkind : pKind hdr = 5) (hsrc : pSrc hdr ≠ st.devno)
    (halive : st.dead.getLsbD (pSrc hdr) = false) (hfree : st.ingressHeld hdr = false) :
    execSkipNotice hdr st = .next ((st.undomained hdr).delivered (pSet hdr 89 1 0) false) := by
  simp only [execSkipNotice, hdst, hkind, halive, hfree, decide_eq_false hsrc, ne_eq, not_true_eq_false, Bool.false_eq_true, or_self, false_and, if_false]

/-! Additions and acknowledgements (R220, R221, R223, R231). -/

section
variable {st : State} {src chan : Nat}

section
variable {a : Arrived} (hdue : ((mgetD st.triples (src * 4 + chan) {}).landed.find? fun a => decide (a.seq = (mgetD st.triples (src * 4 + chan) {}).due)) = some a)

include hdue

/-- The addition that is due in its triple is applied, and the triple moves on past it. -/
theorem execArrivalAddition_of_due {y : State} (hy : st.applyArrival a.hdr = some y) :
    execArrivalAddition src chan false st =
      .next ((y.passed (src * 4 + chan) a).advance ((mgetD st.triples (src * 4 + chan) {}).landed.length + 1) (src * 4 + chan)) := by
  simp only [execArrivalAddition, hdue, hy, Bool.false_eq_true, if_false]

/-- An addition that is due and that its workgroup's pre-emption holds is acknowledged in its stead. -/
theorem execArrivalAddition_of_held (hnone : st.applyArrival a.hdr = none) (hheld : st.holdsAdd a.hdr = true) :
    execArrivalAddition src chan false st = .next (st.ackHeld (src * 4 + chan)) := by
  simp only [execArrivalAddition, hdue, hnone, hheld, Bool.false_eq_true, if_false, if_true]

end

/-- The oldest redirected addition that may be applied is, and is acknowledged unless it was while it stood held (R220). -/
theorem execArrivalAddition_of_redirected {p : Arrived} {s y z : State}
    (hfirst : firstSome (fun (p : Arrived) => (st.applyArrival p.hdr).map fun s => (p, s)) st.redirs = some (p, s)) (hy : y = { s with redirs := s.redirs.erase p })
    (hz : z = (if pStep p.hdr ≠ 0 ∧ pLast p.hdr = true then
      y.trace 0 6 (y.ctxOfDomain (pDom p.hdr)) 0 (collPay (pStep p.hdr) (pChan p.hdr) (pKind p.hdr % 2) (pSrc p.hdr) (pLen p.hdr)) else y)) :
    execArrivalAddition src chan true st = .next (if p.acked = true then z else z.ackTo p.hdr (pSeq p.hdr) 0 0) := by
  subst hy hz
  simp only [execArrivalAddition, hfirst, if_true]

end

/-- An acknowledgement of another device that lives does its work at each packet it covers, and frees them where it reports no fault (R220, R228). -/
theorem execPacketAck_of_other {st : State} {dev chan seq fault addr : Nat} {one : Bool} (halive : st.dead.getLsbD dev = false) (hdev : dev ≠ st.devno) :
    execPacketAck dev chan seq fault addr one st = .next (
      let y := ((mgetD st.unacked (dev * 4 + chan) []).filter fun u => u.covered seq fault one).foldl (fun s u => s.acknowledged dev fault addr u) st
      if fault ≠ 0 then y else
        { y with unacked := mput y.unacked (dev * 4 + chan) ((mgetD st.unacked (dev * 4 + chan) []).filter fun u => !u.covered seq fault one) [] }) := by
  simp only [execPacketAck, halive, hdev, Bool.false_eq_true, false_and, or_self, if_false]

/-! Placement conversions (R235 to R238). -/

/-- The oldest unmatched conversion of its domain, mesh and axis, once the other devices have submitted theirs: it matches where all agree, and is abandoned with
PLACEMENT 3 where one does not (R238). -/
theorem execConversionMatch_of_submitted {st : State} {i : Nat} {v : Conv} {subs : List (Nat × BitVec 1024 × Nat × Nat)} (hv : st.convs[i]? = some v)
    (hopen : v.matched = false)
    (hfirst : ((st.convs.take i).any fun u => !u.matched && decide (convKey u.dom u.mesh u.axis = convKey v.dom v.mesh v.axis)) = false)
    (hall : (v.devs.all fun n => decide (n = st.devno) || subs.any fun s => decide (s.1 = n)) = true) :
    execConversionMatch i subs st = .next (
      if (subs.filter fun s => decide (s.1 ∈ v.devs) && decide (s.1 ≠ st.devno)).all (convAgrees v) then
        let y : State := { st with convs := st.convs.map fun u => if u = v then { u with matched := true } else u }
        if v.step ≠ 0 then y.trace 0 5 (some v.ctx) 0 (collPay v.step 0 2 v.axis (boxSize ((List.range (vNdim v.view)).map (vExt v.view)) * vEsize v.view)) else y
      else st.abandonConv v .precise (placement 3)) := by
  simp only [execConversionMatch, hv, hopen, hfirst, hall, Bool.not_true, Bool.or_self, Bool.false_eq_true, if_false]

section
variable {st : State} {i : Nat} {v : Conv} {data : List (Nat × List Nat)} (hv : st.convs[i]? = some v) (hmatched : v.matched = true)

include hv hmatched

/-- A line of this device's shard that can be read is kept (R177, R194). -/
theorem execConversionComplete_of_read {l x : Nat} {y : State} (hres : v.result = none) (hl : v.toRead[Config.freeNat st.free % v.toRead.length]? = some l)
    (hread : st.hubRead v.ctx l 128 3 = (.done y, x)) :
    execConversionComplete i data st = .next (({ y with free := y.free + 1 } : State).updConv v fun u => { u with snap := mset u.snap l x }) := by
  simp only [execConversionComplete, hv, hmatched, hres, hl, hread, Conv.settle, Bool.not_true, Bool.false_eq_true, if_false]

/-- With its own shard read and the others' there, the result is (R236, R237). -/
theorem execConversionComplete_of_shards (hres : v.result = none) (hdone : v.toRead = [])
    (hall : ((List.range v.devs.length).all fun k => decide (k = v.me) || data.any fun p => decide (p.1 = k)) = true) :
    execConversionComplete i data st = .next (st.updConv v fun u => { u with result := some (v.out (v.shard v.dense data)) }) := by
  simp only [execConversionComplete, hv, hmatched, hres, hdone, hall, List.getElem?_nil, Bool.not_true, Bool.false_eq_true, if_false, if_true]

/-- A piece of the result that can be written is, and the last one completes the conversion (R237). -/
theorem execConversionComplete_of_write {out : List Nat} {va k : Nat} {y : State} (hres : v.result = some out)
    (htodo : v.todo[Config.freeNat st.free % v.todo.length]? = some (va, k))
    (hwrite : st.hubWrite v.ctx va k (2 ^ k - 1) (packN (8 * vEsize v.view) out / 2 ^ (8 * (va - vCbuf v.view)) % 2 ^ (8 * k)) 3 = .done y) :
    execConversionComplete i data st = .next (if v.todo.length = 1 then ({ y with free := y.free + 1 } : State).converted v
      else ({ y with free := y.free + 1 } : State).updConv v fun u => { u with wrote := va :: u.wrote }) := by
  simp only [execConversionComplete, hv, hmatched, hres, htodo, hwrite, Conv.settle, Bool.not_true, Bool.false_eq_true, if_false]

end

/-- Settles O47: each event finds its packet, addition, acknowledgement or conversion ready, and has the effect that its clause names. The model's choices here are
the acknowledgement of what stands behind a held addition (log entry 88), that a refused packet's report comes before its acknowledgement (log entry
50), the LEN that a redirected packet's COLL_END carries (log entry 86), the replaying set at ingress (log entry 60), a line of a conversion read or written in one
step (log entry 51), and device time as the clock of a peer's timeout (log entry 101). -/
theorem fabricEventsComplete : Obligations.FabricEventsComplete := by
  unfold Obligations.FabricEventsComplete
  intro st
  refine ⟨?weir, ?memory,
    fun _ _ _ hdst hsrc hfree hlen hport hup hnew halive hkind =>
      execPacketArrival_of_reservedKind (not_turnedAway_of_workingPort hdst hfree hlen hport hup) hsrc hnew halive hkind,
    fun _ _ _ _ _ hdst hfree hlen hport hup hland hy => execPacketArrival_of_landing (not_turnedAway_of_workingPort hdst hfree hlen hport hup) hland hy,
    fun _ _ _ _ hdue hy => execArrivalAddition_of_due hdue hy, fun _ _ _ hdue hnone hheld => execArrivalAddition_of_held hdue hnone hheld,
    fun _ _ _ _ _ _ hfirst hy hz => execArrivalAddition_of_redirected hfirst hy hz,
    fun _ _ _ _ _ _ halive hdev => ⟨_, rfl, fun hfault => ?refused, fun hfault => ?freed⟩,
    fun _ hdst hkind hsrc halive hfree => execSkipNotice_of_other hdst hkind hsrc halive hfree, fun _ hlate => congrArg _ (if_pos hlate),
    fun _ _ _ hv hopen hfirst hall => ⟨fun hagree hstep => ?agreed, fun hdiffer => ?differ⟩,
    fun _ _ _ _ _ _ hv hmatched hres hl hread => execConversionComplete_of_read hv hmatched hres hl hread,
    fun _ _ _ hv hmatched hres hdone hall => execConversionComplete_of_shards hv hmatched hres hdone hall,
    fun _ _ _ _ _ _ _ hv hmatched hres htodo hwrite => execConversionComplete_of_write hv hmatched hres htodo hwrite⟩
  case weir =>
    intro port hdr pay slot home hdst hsrc hfree hlen hport hup hnew halive hkind hweir
    have hin := not_turnedAway_of_workingPort hdst hfree hlen hport hup
    exact (execPacketArrival_of_payload hin hsrc hnew halive hkind).trans (by rw [hweir])
  case memory =>
    intro port hdr pay y hdst hsrc hfree hlen hport hup hnew halive hkind hweir hy
    have hin := not_turnedAway_of_workingPort hdst hfree hlen hport hup
    exact (execPacketArrival_of_payload hin hsrc hnew halive hkind).trans (by rw [hweir, hy, Option.getD_some])
  case refused => exact (execPacketAck_of_other halive hdev).trans (congrArg _ (if_pos hfault))
  case freed => exact (execPacketAck_of_other halive hdev).trans (congrArg _ (if_neg (not_not.mpr hfault)))
  case agreed => exact (execConversionMatch_of_submitted hv hopen hfirst hall).trans (congrArg _ ((if_pos hagree).trans (if_neg (not_not.mpr hstep))))
  case differ => exact (execConversionMatch_of_submitted hv hopen hfirst hall).trans (congrArg _ (if_neg (Bool.eq_false_iff.mp hdiffer)))

end Sys2Proof.Machine
end

section

namespace Sys2Proof.Machine

/-! Words of the compute part (R264 to R287). The body of each is done in every group, so the word completes with the group that its body leaves: a result
written to its destination, held for it, or put in a P or S register. -/

/-- A word whose body is always done completes with the group that it leaves. -/
theorem completes_groupOp {st : State} {i : Instr} {m : BitVec 1} {sp : IssueSpec} {f : Group → Split → Group}
    (he : exec i st = groupOp st m sp fun g s => .done (f g s)) : st.completes i m sp always f := completes_of he fun _ _ _ => rfl

/-! Integers, compares, selects and moves (O1, O2, O3). -/

/-- Settles O1: each word is a function of two sources under MODE.ET. -/
theorem integerTwoSourceCompletes : Obligations.IntegerTwoSourceCompletes := by
  unfold Obligations.IntegerTwoSourceCompletes
  intro st m d a b
  exact
    ⟨completes_groupOp (exec_add ..),
    completes_groupOp (exec_sub ..),
    completes_groupOp (exec_mul ..),
    completes_groupOp (exec_mulh ..),
    completes_groupOp (exec_min ..),
    completes_groupOp (exec_max ..),
    completes_groupOp (exec_and ..),
    completes_groupOp (exec_or ..),
    completes_groupOp (exec_xor ..),
    completes_groupOp (exec_andn ..),
    completes_groupOp (exec_shl ..),
    completes_groupOp (exec_shr ..),
    completes_groupOp (exec_rot ..),
    completes_groupOp (exec_addc ..),
    completes_groupOp (exec_subb ..),
    completes_groupOp (exec_absd ..)⟩

/-- Settles O2: the one-source words, ADDI and SHI among them, are functions of one source under MODE.ET; MAD, BFE, BFI and LIT have results of their own. -/
theorem integerOneAndThreeSourceComplete : Obligations.IntegerOneAndThreeSourceComplete := by
  unfold Obligations.IntegerOneAndThreeSourceComplete
  intro st m d a b c i k n h l
  exact
    ⟨completes_groupOp (exec_neg ..),
    completes_groupOp (exec_abs ..),
    completes_groupOp (exec_not ..),
    completes_groupOp (exec_clz ..),
    completes_groupOp (exec_ctz ..),
    completes_groupOp (exec_popc ..),
    completes_groupOp (exec_brev ..),
    completes_groupOp (exec_mad ..),
    completes_groupOp (exec_bfe ..),
    completes_groupOp (exec_bfi ..),
    completes_groupOp (exec_addi ..),
    completes_groupOp (exec_shi ..),
    completes_groupOp (exec_lit ..)⟩

/-- Settles O3: the predicate operations write a whole P register and MOV copies one source; each other word has a result of its own. -/
theorem compareSelectMoveComplete : Obligations.CompareSelectMoveComplete := by
  unfold Obligations.CompareSelectMoveComplete
  intro st m d a b c
  exact
    ⟨completes_groupOp (exec_cmp ..),
    completes_groupOp (exec_sel ..),
    completes_groupOp (exec_pand ..),
    completes_groupOp (exec_por ..),
    completes_groupOp (exec_pxor ..),
    completes_groupOp (exec_pnot ..),
    completes_groupOp (exec_pmov ..),
    completes_groupOp (exec_pset ..),
    completes_groupOp (exec_pget ..),
    completes_groupOp (exec_mov ..),
    completes_groupOp (exec_bcst ..),
    completes_groupOp (exec_vtos ..),
    completes_groupOp (exec_stov ..)⟩

/-! Floating point and conversions (O4, O5, O6). -/

/-- Settles O4: FCPYS works on the sources' bits, the FMA family turns signs before it rounds once, and the others are functions of the values read. -/
theorem floatingPointCompletes : Obligations.FloatingPointCompletes := by
  unfold Obligations.FloatingPointCompletes
  intro st m d a b c
  exact
    ⟨completes_groupOp (exec_fadd ..),
    completes_groupOp (exec_fsub ..),
    completes_groupOp (exec_fmul ..),
    completes_groupOp (exec_fmin ..),
    completes_groupOp (exec_fmax ..),
    completes_groupOp (exec_fcpys ..),
    completes_groupOp (exec_fabs ..),
    completes_groupOp (exec_fneg ..),
    completes_groupOp (exec_frnd ..),
    completes_groupOp (exec_fclass ..),
    completes_groupOp (exec_fma ..),
    completes_groupOp (exec_fms ..),
    completes_groupOp (exec_fnma ..),
    completes_groupOp (exec_fnms ..)⟩

/-- Settles O5: each word holds the special function of its source, and FDIV that of two. -/
theorem sfuResultsAreHeld : Obligations.SfuResultsAreHeld := by
  unfold Obligations.SfuResultsAreHeld
  intro st m d a b
  exact
    ⟨completes_groupOp (exec_frcp ..),
    completes_groupOp (exec_frsq ..),
    completes_groupOp (exec_fsqrt ..),
    completes_groupOp (exec_fexp2 ..),
    completes_groupOp (exec_flog2 ..),
    completes_groupOp (exec_fsin ..),
    completes_groupOp (exec_fcos ..),
    completes_groupOp (exec_ftanh ..),
    completes_groupOp (exec_fdiv ..)⟩

/-- Settles O6: each body is done with the converted elements, or with the blocks of its quantisation. -/
theorem conversionsComplete : Obligations.ConversionsComplete := by
  unfold Obligations.ConversionsComplete
  intro st m d a b q k
  exact
    ⟨completes_groupOp (exec_cvt ..),
    completes_groupOp (exec_cvts ..),
    completes_groupOp (exec_pack ..),
    completes_groupOp (exec_unpk ..),
    completes_groupOp (exec_qnt ..),
    completes_groupOp (exec_dqnt ..)⟩

/-! Uniform words (O7, O8). -/

/-- Settles O7: each word is a function of two S registers, or ZERO, and asks nothing of MODE. -/
theorem uniformCompletes : Obligations.UniformCompletes := by
  unfold Obligations.UniformCompletes
  intro st m d a b
  exact
    ⟨completes_groupOp (exec_sadd ..),
    completes_groupOp (exec_ssub ..),
    completes_groupOp (exec_smul ..),
    completes_groupOp (exec_smulh ..),
    completes_groupOp (exec_smin ..),
    completes_groupOp (exec_smax ..),
    completes_groupOp (exec_sand ..),
    completes_groupOp (exec_sor ..),
    completes_groupOp (exec_sxor ..),
    completes_groupOp (exec_sandn ..),
    completes_groupOp (exec_sshl ..),
    completes_groupOp (exec_sshr ..),
    completes_groupOp (exec_srot ..)⟩

/-- A literal of position 0 does not read its destination, and is sign-extended over the register (R273). -/
theorem exec_slit_zero {m : BitVec 1} {d : BitVec 6} {l : BitVec 16} {st : State} :
    exec (.slit m d 0 l) st = groupOp st m { sopSpec d d d with srcs := [] } fun g _ => .done (g.putSZ d (BitVec.ofNat 64 (l.signExtend 64).toNat)) := rfl

/-- A literal of another position reads its destination, and replaces one quarter of it (R273). -/
theorem exec_slit_of_ne {m : BitVec 1} {d : BitVec 6} {h : BitVec 2} {l : BitVec 16} {st : State} (hh : h ≠ 0#2) :
    exec (.slit m d h l) st =
      groupOp st m { sopSpec d d d with srcs := [d] } fun g _ => .done (g.putSZ d (BitVec.ofNat 64 (litInto (g.srcS d).toNat h.toNat l))) := by
  rw [exec_slit, execSlit, if_neg hh]
  rfl

/-- Settles O8: SADDI is a function of one S register, and SLIT one of its literal and, past position 0, of the destination. -/
theorem uniformLiteralsComplete : Obligations.UniformLiteralsComplete := by
  unfold Obligations.UniformLiteralsComplete
  intro st m d a i h l
  exact ⟨completes_groupOp (exec_saddi ..), completes_groupOp exec_slit_zero, fun hh => completes_groupOp (exec_slit_of_ne hh)⟩

end Sys2Proof.Machine
end

section

namespace Sys2Proof.Machine

/-! Words across the threads of a group (R288 to R298). No exchange, vote or reduction can refuse a group that has passed the checks at its issue. -/

/-- Settles O9: XCHX, XCHU and XCHD take their distance from a register, their K forms from the word, XCHI and XBC an index of the position. -/
theorem exchangesComplete : Obligations.ExchangesComplete := by
  unfold Obligations.ExchangesComplete
  intro st m d a b
  exact
    ⟨completes_groupOp (exec_xchx ..),
    completes_groupOp (exec_xchu ..),
    completes_groupOp (exec_xchd ..),
    completes_groupOp (exec_xchxk ..),
    completes_groupOp (exec_xchuk ..),
    completes_groupOp (exec_xchdk ..),
    completes_groupOp (exec_xchi ..),
    completes_groupOp (exec_xbc ..)⟩

/-- Settles O10: ANY, ALL, EQ and BALLOT are functions of the ballot, ELECT of the active threads, MATCH of their sources. -/
theorem votesComplete : Obligations.VotesComplete := by
  unfold Obligations.VotesComplete
  intro st m d a b
  exact
    ⟨completes_groupOp (exec_voteAny ..),
    completes_groupOp (exec_voteAll ..),
    completes_groupOp (exec_voteEq ..),
    completes_groupOp (exec_voteBallot ..),
    completes_groupOp (exec_voteElect ..),
    completes_groupOp (exec_voteMatch ..)⟩

/-- Settles O11: the results stand in the destination, or are held where the threads that take part span blocks of four. -/
theorem reductionsComplete : Obligations.ReductionsComplete := by
  unfold Obligations.ReductionsComplete
  intro st m d a b f
  exact ⟨completes_groupOp (exec_redu ..), completes_groupOp (exec_scan ..), completes_groupOp (exec_cpt ..)⟩

end Sys2Proof.Machine
end

section

namespace Sys2Proof.Machine

/-! Kernel words of a Weir (R384 to R395). A register word changes its run alone; a packet or control word may also change the state, go to another word
or end its kernel. -/

/-- A word whose whole meaning is a change of its run. -/
theorem weirSets_weirReg {st : State} {i : Instr} {f : WeirRun → WeirRun} (he : exec i st = weirReg st f) : st.weirSets i 1 f :=
  weirSets_of he fun _ _ _ => rfl

/-- Settles O32: each word is a function of W and X registers and its literal. -/
theorem weirRegisterInstructionsComplete : Obligations.WeirRegisterInstructionsComplete := by
  unfold Obligations.WeirRegisterInstructionsComplete
  intro st v d a b e x i c l k
  exact
    ⟨weirSets_weirReg (exec_wadd ..),
    weirSets_weirReg (exec_waddI ..),
    weirSets_weirReg (exec_wsub ..),
    weirSets_weirReg (exec_wsubI ..),
    weirSets_weirReg (exec_wmul ..),
    weirSets_weirReg (exec_wmulI ..),
    weirSets_weirReg (exec_wand ..),
    weirSets_weirReg (exec_wandI ..),
    weirSets_weirReg (exec_wor ..),
    weirSets_weirReg (exec_worI ..),
    weirSets_weirReg (exec_wxor ..),
    weirSets_weirReg (exec_wxorI ..),
    weirSets_weirReg (exec_wshl ..),
    weirSets_weirReg (exec_wshlI ..),
    weirSets_weirReg (exec_wshr ..),
    weirSets_weirReg (exec_wshrI ..),
    weirSets_weirReg (exec_wmin ..),
    weirSets_weirReg (exec_wminI ..),
    weirSets_weirReg (exec_wmax ..),
    weirSets_weirReg (exec_wmaxI ..),
    weirSets_weirReg (exec_wcmp ..),
    weirSets_weirReg (exec_wsel ..),
    weirSets_weirReg (exec_wmovW ..),
    weirSets_weirReg (exec_wmovX ..),
    weirSets_weirReg (exec_wmovWx ..),
    weirSets_weirReg (exec_wmovXl ..),
    weirSets_weirReg (exec_wmovWl ..),
    weirSets_weirReg (exec_wli ..),
    weirSets_weirReg (exec_wliH ..)⟩

section
variable {port o n code : Nat} {s : WeirSlot} {st : State} {r : WeirRun} {k : Nat → WOut}

/-- A flow read of bytes that lie in the slot's partition and carry no poison (R391). -/
theorem flowAt_read (hin : o + n ≤ s.flowsz) (hclean : st.poisonedAt (flatFlow port (s.base + o)) n = false) :
    flowAt port s st r o n code true k = k (flatFlow port (s.base + o)) := by
  rw [flowAt, if_neg (Nat.not_lt.mpr hin), hclean]
  rfl

/-- A flow write asks for the partition alone (R391). -/
theorem flowAt_write (hin : o + n ≤ s.flowsz) : flowAt port s st r o n code false k = k (flatFlow port (s.base + o)) :=
  if_neg (Nat.not_lt.mpr hin)

end

/-- Settles O33: what each word asks of its run, its slot and the flow state chooses what it does. -/
theorem weirPacketInstructionsComplete : Obligations.WeirPacketInstructionsComplete := by
  unfold Obligations.WeirPacketInstructionsComplete
  intro st w d a b x c i j
  exact
    ⟨fun f => weirSets_weirReg (exec_whdr ..),
    weirSets_weirReg (exec_whdrW ..),
    fun f lo n m hf => weirActs_of (exec_wseth ..) fun _ _ r hlt => by simp only [hf, if_neg (Nat.not_le.mpr hlt)],
    fun f lo n m hf => weirEnds_of (exec_wseth ..) (fun _ _ r hge => by simp only [hf, if_pos hge]) (by simp),
    weirSets_weirReg (exec_wldp ..),
    weirSets_weirReg (exec_wldpX ..),
    weirSets_weirReg (exec_wstp ..),
    weirSets_weirReg (exec_wstpX ..),
    weirActs_of (exec_wldf ..) fun _ _ _ ⟨hin, hclean⟩ => flowAt_read hin hclean,
    weirActs_of (exec_wstf ..) fun _ _ _ hin => flowAt_write hin,
    weirActs_of (exec_watf ..) fun _ _ _ ⟨hin, hclean⟩ => flowAt_read hin hclean,
    weirSets_of (exec_whash ..) fun _ _ _ => rfl,
    weirActs_of (exec_whashLk ..) fun _ _ _ ⟨hin, hclean⟩ => flowAt_read hin hclean,
    fun l => weirJumps_of (exec_wrep ..) fun _ _ _ _ => ⟨_, _, rfl, rfl⟩,
    fun o => weirJumps_of (exec_wbr ..) fun _ _ _ _ => ⟨_, _, rfl, rfl⟩,
    fun o => weirJumps_of (exec_wbrCc ..) fun _ _ r htaken => ⟨r, r.pc + o.toNat,
      congrArg (fun t => ({ st := st, run := r, next := if t then .jump (r.pc + o.toNat) else .go } : WOut)) htaken, rfl⟩,
    weirActs_of (exec_wdup ..) fun _ _ _ hfew => if_neg (Nat.not_le.mpr hfew),
    weirEnds_of (exec_wdup ..) (fun _ _ _ hfull => if_pos hfull) (by simp),
    fun k => weirActs_of (exec_wtrap ..) fun _ _ _ _ => rfl,
    weirEnds_of (exec_wfwd ..) (fun _ _ _ _ => rfl) (by simp),
    weirEnds_of (exec_wdrop ..) (fun _ _ _ _ => rfl) (by simp),
    weirEnds_of (exec_wend ..) (fun _ _ _ _ => rfl) (by simp)⟩

end Sys2Proof.Machine
end

section

namespace Sys2Proof.Machine

/-! Matrix words of the compute stream (R301 to R316). The checks of a word's handle, window or slice stand in its body one inside another; past them its
entries are posted to their engines. -/

section
variable {x y : State} {g : Group} {t : Nat} {tl : Tile}

theorem withTile_of_some {e : Tile → IEff} (ht : mget g.tiles t = some tl) : withTile x g t e = e tl := by
  rw [withTile, ht]

theorem withWindow_of_inr {w : Nat} {c : CellRef} {e : CellRef → IEff} (hc : tl.window w = .inr c) : withWindow x tl w e = e c := by
  rw [withWindow, hc]

theorem postAll_of_some {es : List (Nat × ResEntry)} {f : Group → Group} {oob : Bool} (hy : x.postHere es = some y) :
    postAll x es f oob = .done (y.posted f oob) := by
  rw [postAll, hy]

/-- A multiply whose handle, window, scales, B tile and types pass posts its entry (R312). -/
theorem mulIssue_posts {s : Split} {k win : Nat} {a : BitVec 6} {breg : Option (BitVec 6)} {slot : Option Nat} {nk : Word} {blk : FormatBlock}
    {types : Bool → Bool} {c : CellRef} {ra rb : TileRef} {bt : Option TileRef} {o1 o2 : Bool} (ht : mget g.tiles t = some tl)
    (hc : tl.window win = .inr c) (hscales : x.scaleRefs g k blk s.mask = .inr (ra, rb, o1)) (hb : x.btileRef g k slot nk = .inr (bt, o2))
    (htypes : types tl.isF32 = true)
    (hy : x.postHere [(x.engineOf x.issuer.group c.wg, x.mulEntry g s t k a breg blk tl c ra rb bt)] = some y) :
    mulIssue x g s t k a breg slot nk win blk types = .done (y.posted id (o1 || o2)) := by
  rw [mulIssue, withTile_of_some ht, withWindow_of_inr hc, hscales]
  dsimp only
  rw [hb]
  dsimp only
  rw [htypes]
  exact postAll_of_some hy

end

/-- Settles O20: MMA and MMAK ask that the low word be 0, MMAT and MMAS that it be a legal format block; the rest is the multiply's own. -/
theorem matrixMultipliesPost : Obligations.MatrixMultipliesPost := by
  unfold Obligations.MatrixMultipliesPost
  intro st m t a b r k
  exact
    ⟨fun tl c ra rb o1 bt o2 y => acts_of (exec_mma ..) fun x g s _ ⟨hlow, ht, hc, hscales, hb, htypes, hy⟩ =>
      (if_neg (not_not.mpr hlow)).trans (mulIssue_posts ht hc hscales hb htypes hy),
    fun tl c ra rb o1 bt o2 y => acts_of (exec_mmak ..) fun x g s _ ⟨hlow, ht, hc, hscales, hb, htypes, hy⟩ =>
      (if_neg (not_not.mpr hlow)).trans (mulIssue_posts ht hc hscales hb htypes hy),
    fun tl c ra rb o1 bt o2 y => acts_of (exec_mmat ..) fun x g s _ ⟨hblock, ht, hc, hscales, hb, htypes, hy⟩ =>
      (if_neg (by simp only [hblock, Bool.not_true, Bool.false_eq_true, not_false_eq_true])).trans (mulIssue_posts ht hc hscales hb htypes hy),
    fun tl c ra rb o1 bt o2 y => acts_of (exec_mmas ..) fun x g s _ ⟨hblock, ht, hc, hscales, hb, htypes, hy⟩ =>
      (if_neg (by simp only [hblock, Bool.not_true, Bool.false_eq_true, not_false_eq_true])).trans (mulIssue_posts ht hc hscales hb htypes hy)⟩

/-- Settles O21: a word's checks pass and its entries have room, or TWAIT finds none of the entries it names open. Which engine takes the entry of a .COL
slice over two members' parts, that of its first cell in range, is the model's choice (log entry 94). -/
theorem tileInstructionsComplete : Obligations.TileInstructionsComplete := by
  unfold Obligations.TileInstructionsComplete
  intro st m t u r i v
  refine
    ⟨acts_of (exec_tbind ..) fun x g s _ hbinds => ?binds, fun tr => traps_of (exec_tbind ..) fun x g s _ htrap => ?bindTraps,
    completes_groupOp (exec_tfree ..),
    fun tl c y => acts_of (exec_tzero ..) fun x g s _ ⟨ht, hc, hy⟩ => (withTile_of_some ht).trans ((withWindow_of_inr hc).trans (postAll_of_some hy)),
    fun tl y => acts_of (exec_tzeroAll ..) fun x g s _ ⟨ht, hy⟩ => (withTile_of_some ht).trans (postAll_of_some hy),
    fun tl cs y => acts_of (exec_trdRow ..) fun x g s _ ⟨ht, hslice, hy⟩ => ?readRow,
    fun tl cs y => acts_of (exec_trdCol ..) fun x g s _ ⟨ht, hslice, hy⟩ => ?readCol,
    fun tl cs y => acts_of (exec_twrRow ..) fun x g s _ ⟨ht, hslice, hy⟩ => ?writeRow,
    fun tl cs y => acts_of (exec_twrCol ..) fun x g s _ ⟨ht, hslice, hy⟩ => ?writeCol,
    fun td ts cd cs y => acts_of (exec_tmove ..) fun x g s _ ⟨htd, hts, hcd, hcs, htypes, hy⟩ => ?move,
    fun td ts cd cs y => acts_of (exec_tmoveAdd ..) fun x g s _ ⟨htd, hts, hcd, hcs, htypes, hy⟩ => ?moveAdd,
    acts_of (exec_twait ..) fun x g s _ ⟨hready, hclosed⟩ => ?waited,
    acts_of (exec_twaitAll ..) fun x g s _ ⟨hready, hclosed⟩ => ?waitedAll⟩
  case binds => simp only [hbinds]
  case bindTraps => simp only [htrap]
  case readRow | readCol | writeRow | writeCol =>
    refine (withTile_of_some ht).trans ?_
    dsimp only
    rw [hslice]
    exact postAll_of_some hy
  case move | moveAdd =>
    exact (withTile_of_some htd).trans ((withTile_of_some hts).trans ((withWindow_of_inr hcd).trans ((withWindow_of_inr hcs).trans
      ((if_neg (not_not.mpr htypes)).trans (postAll_of_some hy)))))
  case waited => simp only [hready, hclosed, Bool.false_eq_true, if_false]
  case waitedAll => simp only [hready, Bool.and_true, hclosed, Bool.false_eq_true, if_false]

end Sys2Proof.Machine
end

section

namespace Sys2Proof.Machine

/-! Contexts (O36). A command at the head of the queue finds its context in a state its step asks for; a workgroup's event finds the workgroup so. -/

section
variable {st y : State} {c : Cmd} {x : Ctx} {w : Workgroup} {n m : Nat}

theorem CtxHead.ctxHead {op : Nat} (h : CtxHead st op c) : st.ctxHead = some c := h.head

/-- CREATE of an acceptable record (R349). -/
theorem execCreate_head {id : Nat} {a b : State} (h : CtxHead st 1 c) (hx : st.create (st.devRead 128 (bits c.word.toNat 32 0 * 128)) = .inr (id, x))
    (ha : a = { st with ctxs := mset st.ctxs id x, tlb := st.tlb.filter fun e => decide (e.ctx ≠ id) })
    (hb : b = (List.range 9).foldl (fun s d => s.setOverstated d id 0) a) :
    execCreate st = .next ((b.enterGrid id (rootDesc b.mode) 0 0 0 none [] true).1.ctxDone c id 0) := by
  rw [execCreate, h.ctxHead]
  dsimp only
  rw [h.op, if_neg (by decide), if_neg (by decide), hx]
  dsimp only
  rw [← ha, ← hb]

/-- DESTROY by the context's state (R350). -/
theorem execDestroy_head (h : CtxHead st 2 c) (hx : mget st.ctxs c.id = some x) :
    execDestroy st = .next (match x.state with
      | .preempting | .resuming => st
      | .preempted => if st.ckBusy c.id then st else (st.discardQueued c.id).updCtx c.id fun x => { x with state := .destroying }
      | .destroying => if st.ctxIdle c.id then (st.eraseCtx c.id).ctxDone c c.id 0 else st
      | _ => (st.discardQueued c.id).updCtx c.id fun x => { x with state := .destroying }) := by
  rw [execDestroy, h.ctxHead]
  dsimp only
  rw [h.op, if_neg (by decide)]
  generalize mget st.ctxs c.id = o at hx ⊢
  subst hx
  rfl

/-- PREEMPT by the command's phase and the context's state (R352). -/
theorem execPreempt_head (h : CtxHead st 3 c) (hx : mget st.ctxs c.id = some x) :
    execPreempt st = .next (if c.phase = 0 then
        if x.state = .running then { st.preemptGo c.id with ctxQ := { c with phase := 1 } :: st.ctxQ.tail } else st.ctxDone c c.id 14
      else match x.state with
        | .preempting => st.preemptGo c.id
        | .preempted => st.ctxDone c c.id 0
        | _ => st.ctxDone c c.id 14) := by
  rw [execPreempt, h.ctxHead]
  dsimp only
  rw [h.op, if_neg (by decide)]
  generalize mget st.ctxs c.id = o at hx ⊢
  subst hx
  rfl

/-- RESUME by the command's phase and the context's state (R354). -/
theorem execResume_head (h : CtxHead st 4 c) (hx : mget st.ctxs c.id = some x) :
    execResume st = .next (if c.phase = 0 then
        if st.ckBusy c.id then st
        else if x.state = .preempted ∧ x.replay.isNone then
          { (st.resumeStart c.id).resumeGo c.id with ctxQ := { c with phase := 1 } :: st.ctxQ.tail }
        else st.ctxDone c c.id 14
      else match x.state with
        | .resuming => st.resumeGo c.id
        | .running => st.ctxDone c c.id 0
        | _ => st.ctxDone c c.id 14) := by
  rw [execResume, h.ctxHead]
  dsimp only
  rw [h.op, if_neg (by decide)]
  generalize mget st.ctxs c.id = o at hx ⊢
  subst hx
  rfl

/-- OSCOUNT of a context that has not faulted, on a compute die (R351). -/
theorem execOscount_head (h : CtxHead st 5 c) (hx : mget st.ctxs c.id = some x) (hs : x.state ≠ .faulted)
    (hlo : 1 ≤ bits c.word.toNat 53 50) (hhi : bits c.word.toNat 53 50 ≤ 8) :
    execOscount st = .next ((st.setOverstated (bits c.word.toNat 53 50) c.id (bits c.word.toNat 49 34)).ctxDone c c.id 0) := by
  have hargs : ((mget st.ctxs c.id).all (fun x => decide (x.state = .faulted)) || decide (bits c.word.toNat 53 50 = 0) ||
      decide (8 < bits c.word.toNat 53 50)) = false := by
    rw [hx, Option.all_some, decide_eq_false hs, decide_eq_false (Nat.ne_of_gt hlo), decide_eq_false (Nat.not_lt.mpr hhi)]
    rfl
  rw [execOscount, h.ctxHead]
  dsimp only
  rw [h.op, if_neg (by decide), hargs]
  rfl

/-- WORKGROUP_PARK of a quiet workgroup that waits in JOINC while a child grid's workgroups wait (R73). -/
theorem execWorkgroupPark_parks {z : State} (hw : mget st.workgroups (wgKey n m) = some w) (hs : w.state = .placed) (hp : w.parked = false)
    (hr : (st.ctx n).state = .running)
    (hwaits : st.grids.any (fun e => decide (e.2.ctx = n) && decide (0 < e.2.depth) && e.2.expired && decide (e.2.ranges ≠ [])) = true)
    (hjoined : st.allJoined (wgKey n m) = true) (hquiet : st.wgQuiet (wgKey n m) = true)
    (hz : st.sched n (w.core / 4) 7 (w.core % 4) 0 (some w.serial) = some z) (hy : z.saveWg (wgKey n m) 0x81 = some y) :
    execWorkgroupPark n m st = .next (y.updWg (wgKey n m) fun w => { w with parked := true }) := by
  rw [execWorkgroupPark, hw]
  dsimp only
  rw [if_pos ⟨hs, by rw [hp]; rfl, hr, hwaits, hjoined, hquiet⟩, hz, Option.bind_some, hy]

/-- WORKGROUP_UNPARK of a parked workgroup whose children have completed, where a core is free (R73). -/
theorem execWorkgroupUnpark_restores (hw : mget st.workgroups (wgKey n m) = some w) (hs : w.state = .saved) (hp : w.parked = true)
    (hc : w.children = []) (hr : (st.ctx n).state = .running) (hy : st.restoreOne (wgKey n m) = some y) : execWorkgroupUnpark n m st = .next y := by
  rw [execWorkgroupUnpark, hw]
  dsimp only
  rw [if_pos ⟨hs, hp, hc, hr⟩, hy]
  rfl

/-- SAVE_HANDLER_COMPLETE of a workgroup whose handler has ended (R353). -/
theorem execSaveHandlerComplete_done (hw : mget st.workgroups (wgKey n m) = some w) (hs : w.state = .saving) (hd : st.handlerDone w = true) :
    execSaveHandlerComplete n m st = .next (({ st with groups := (match w.handlerSlot with
      | some gid => merase st.groups gid
      | none => st.groups) } : State).freeWg (wgKey n m)) := by
  rw [execSaveHandlerComplete, hw]
  exact congrArg _ (if_pos ⟨hs, hd⟩)

/-- RESTORE_HANDLER_COMPLETE of one whose last steps of restore can be made (R354). -/
theorem execRestoreHandlerComplete_done (hw : mget st.workgroups (wgKey n m) = some w) (hs : w.state = .restoring) (hd : st.handlerDone w = true)
    (hy : ({ st with groups := (match w.handlerSlot with
      | some gid => merase st.groups gid
      | none => st.groups) } : State).finishRestore (wgKey n m) = some y) :
    execRestoreHandlerComplete n m st = .next (y.retireWg 12 (wgKey n m)) := by
  rw [execRestoreHandlerComplete, hw]
  exact congrArg _ ((if_pos ⟨hs, hd⟩).trans (congrArg (fun o : Option State => (o.map fun s => s.retireWg 12 (wgKey n m)).getD st) hy))

end

/-- Settles O36: each command's context, and each event's workgroup, stands in the state that its clause names. -/
theorem contextCommandsComplete : Obligations.ContextCommandsComplete := by
  unfold Obligations.ContextCommandsComplete
  intro st c n m
  refine ⟨fun id x h hx => ⟨_, _, rfl, rfl, (exec_create st).trans (execCreate_head h hx rfl rfl)⟩, fun x h hx hs => ?destroyBegins,
    fun x h hx hs hidle => ?destroyEnds, fun x h hx hp hs => ?preemptBegins, fun x h hx hp hs => ?preemptGoes, fun x h hx hp hs => ?preemptEnds,
    fun x h hx hp hb hs hr => ?resumeBegins, fun x h hx hp hs => ?resumeGoes, fun x h hx hp hs => ?resumeEnds, ?oscount,
    fun w x y hw hs hp hr hwaits hjoined hquiet hx hy =>
      (exec_workgroupPark n m st).trans (execWorkgroupPark_parks hw hs hp hr hwaits hjoined hquiet hx hy),
    fun w y hw hs hp hc hr hy => (exec_workgroupUnpark n m st).trans (execWorkgroupUnpark_restores hw hs hp hc hr hy),
    fun w hw hs hd => (exec_saveHandlerComplete n m st).trans (execSaveHandlerComplete_done hw hs hd),
    fun w y hw hs hd hy => (exec_restoreHandlerComplete n m st).trans (execRestoreHandlerComplete_done hw hs hd hy)⟩
  case destroyBegins =>
    rw [exec_destroy, execDestroy_head h hx]
    obtain hs | hs | ⟨hs, hb⟩ := hs
    · rw [hs]
    · rw [hs]
    · rw [hs, hb]
      rfl
  case destroyEnds =>
    rw [exec_destroy, execDestroy_head h hx, hs, hidle]
    rfl
  case preemptBegins => rw [exec_preempt, execPreempt_head h hx, if_pos hp, if_pos hs]
  case preemptGoes | preemptEnds => rw [exec_preempt, execPreempt_head h hx, if_neg hp, hs]
  case resumeBegins =>
    rw [exec_resume, execResume_head h hx, if_pos hp, hb, if_neg Bool.false_ne_true, if_pos ⟨hs, by rw [hr]; rfl⟩]
  case resumeGoes | resumeEnds => rw [exec_resume, execResume_head h hx, if_neg hp, hs]
  case oscount =>
    rintro x die h hx hs rfl hlo hhi
    rw [exec_oscount, execOscount_head h hx hs hlo hhi]

end Sys2Proof.Machine
end

section

namespace Sys2Proof.Machine

/-! Registers and management messages (O37). A register's write has its effect where its port may write it; what becomes of a message lies with its sender
and with that sender's last one (R368), and its own checks choose the reply. -/

section
variable {st : State} {src p req : Nat} {f f' : State → Nat × List Nat × State}

theorem mgmtServe_of_stranger (hsrc : src ∉ st.mgmtSources) : st.mgmtServe src p req f = st := if_pos hsrc

/-- A message that does not repeat its sender's last SEQ is applied, once P3 has ended. -/
theorem mgmtServe_of_new (hsrc : src ∈ st.mgmtSources)
    (hnew : ∀ e, mget st.mgmtSeen (src * 65536 + p % 65536) = some e → e.1 ≠ bits req 63 32) :
    st.mgmtServe src p req f = ({ st with power := st.power.filter fun e => decide (e.2 < 3) } : State).mgmtApply src p req f := by
  rw [State.mgmtServe, if_neg (not_not.mpr hsrc)]
  dsimp only
  cases hseen : mget st.mgmtSeen (src * 65536 + p % 65536) with
  | none => rfl
  | some e => exact if_neg (hnew e hseen)

/-- One that repeats it is answered with the kept reply. -/
theorem mgmtServe_of_repeated {r : List Nat} (hsrc : src ∈ st.mgmtSources)
    (hseen : mget st.mgmtSeen (src * 65536 + p % 65536) = some (bits req 63 32, r)) :
    st.mgmtServe src p req f = ({ st with power := st.power.filter fun e => decide (e.2 < 3) } : State).mgmtSend src p r := by
  rw [State.mgmtServe, if_neg (not_not.mpr hsrc)]
  dsimp only
  rw [hseen]
  exact if_pos rfl

theorem mgmtApply_congr {x : State} (h : f x = f' x) : x.mgmtApply src p req f = x.mgmtApply src p req f' := by
  rw [State.mgmtApply, State.mgmtApply, h]

end

section
variable {st : State} {src p len req : Nat}

/-- A READ that passes its checks reads its register. -/
theorem execMgmtRead_of_new (hop : bits req 31 24 = 1) (hok : mgmtOk req len 1 = true) (hsrc : src ∈ st.mgmtSources)
    (hnew : ∀ e, mget st.mgmtSeen (src * 65536 + p % 65536) = some e → e.1 ≠ bits req 63 32) :
    execMgmtRead src p len req st = .next (({ st with power := st.power.filter fun e => decide (e.2 < 3) } : State).mgmtApply src p req fun st =>
      ((st.mgmtRead (bits req 191 128) 1).1, (st.mgmtRead (bits req 191 128) 1).2, st)) := by
  rw [execMgmtRead, if_neg (by omega), mgmtServe_of_new hsrc hnew]
  exact congrArg _ (mgmtApply_congr (if_pos ⟨hop, hok⟩))

/-- A WRITE that passes its checks writes its register as a write through the management port does. -/
theorem execMgmtWrite_of_new (hop : bits req 31 24 = 2) (hok : mgmtOk req len 2 = true) (hsrc : src ∈ st.mgmtSources)
    (hnew : ∀ e, mget st.mgmtSeen (src * 65536 + p % 65536) = some e → e.1 ≠ bits req 63 32) {x : State}
    (hx : x = ({ st with power := st.power.filter fun e => decide (e.2 < 3) } : State)) (halign : bits req 191 128 % 8 = 0)
    (hnamed : x.named (bits req 191 128) = true) (hctl : ctlReg (bits req 191 128) = true → x.mayCtl 2 (bits req 95 64) = true) :
    execMgmtWrite src p len req st = .next (x.mgmtApply src p req fun _ =>
      (0, [], x.anyWrite 2 (bits req 95 64) (bits req 191 128) (bits req 255 192))) := by
  rw [execMgmtWrite, if_neg (not_not.mpr hop), mgmtServe_of_new hsrc hnew, ← hx]
  have hmap : ¬ (decide (bits req 191 128 % 8 ≠ 0) || !x.named (bits req 191 128)) = true := by simp [halign, hnamed]
  have hmay : ¬ (ctlReg (bits req 191 128) && !x.mayCtl 2 (bits req 95 64)) = true := by
    simp only [Bool.and_eq_true, Bool.not_eq_true', not_and, Bool.not_eq_false]
    exact hctl
  exact congrArg _ (mgmtApply_congr ((if_neg (by simp [hok])).trans ((if_neg hmap).trans (if_neg hmay))))

/-- A BLOCK READ that passes its checks reads its registers. -/
theorem execMgmtBlockRead_of_new (hop : bits req 31 24 = 3) (hok : mgmtOk req len 3 = true) (hsrc : src ∈ st.mgmtSources)
    (hnew : ∀ e, mget st.mgmtSeen (src * 65536 + p % 65536) = some e → e.1 ≠ bits req 63 32) :
    execMgmtBlockRead src p len req st = .next (({ st with power := st.power.filter fun e => decide (e.2 < 3) } : State).mgmtApply src p req fun st =>
      ((st.mgmtRead (bits req 191 128) (bits req 127 96)).1, (st.mgmtRead (bits req 191 128) (bits req 127 96)).2, st)) := by
  rw [execMgmtBlockRead, if_neg (not_not.mpr hop), mgmtServe_of_new hsrc hnew]
  exact congrArg _ (mgmtApply_congr (if_pos hok))

/-- A message from a source that is not permitted is dropped, whatever it asks (R368). -/
theorem execMgmt_of_stranger (hsrc : src ∉ st.mgmtSources) :
    execMgmtRead src p len req st = .next st ∧ execMgmtWrite src p len req st = .next st ∧ execMgmtBlockRead src p len req st = .next st := by
  rw [execMgmtRead, execMgmtWrite, execMgmtBlockRead, mgmtServe_of_stranger hsrc, mgmtServe_of_stranger hsrc, mgmtServe_of_stranger hsrc,
    ite_self, ite_self, ite_self]
  exact ⟨rfl, rfl, rfl⟩

end

/-- Settles O37: a write passes its port's check; a message is dropped, answered again or applied. -/
theorem registerAccessesComplete : Obligations.RegisterAccessesComplete := by
  unfold Obligations.RegisterAccessesComplete
  intro st p t v i src len req
  refine ⟨fun hp => ?cas, fun hheld hlease hidle => ?lease, fun hp hctl => ?control, fun hp hreg => ?watch, fun hdie => ?trace, exec_drconsWrite v st,
    fun hp => ?plain, fun hop hok hsrc hnew => (exec_mgmtRead ..).trans (execMgmtRead_of_new hop hok hsrc hnew),
    fun x hx hop hok hsrc hnew halign hnamed hctl => (exec_mgmtWrite ..).trans (execMgmtWrite_of_new hop hok hsrc hnew hx halign hnamed hctl),
    fun hop hok hsrc hnew => (exec_mgmtBlockRead ..).trans (execMgmtBlockRead_of_new hop hok hsrc hnew), fun r hsrc hseen => ?repeated,
    fun hsrc => ?stranger⟩
  case cas => rw [exec_ctlcas, execCtlcas, if_pos hp]
  case lease => rw [exec_ctlsemLeaseExpiry, execCtlsemLeaseExpiry, if_pos ⟨hheld, hlease, by rw [hidle]; rfl⟩]
  case control =>
    have hmay : (st.serves p && st.mayCtl p t) = true := by rw [hp, hctl]; rfl
    rw [exec_reelctlWrite, exec_rsvctlWrite, exec_cutWrite, exec_errclsWrite, execReelctlWrite, execRsvctlWrite, execCutWrite, execErrclsWrite, hmay]
    exact ⟨rfl, rfl, rfl, rfl⟩
  case watch =>
    rw [exec_watchFilterWrite, execWatchFilterWrite, hp, decide_eq_true hreg]
    rfl
  case trace =>
    rw [exec_trctlWrite, exec_trrpWrite, execTrctlWrite, execTrrpWrite, if_pos hdie, if_pos hdie]
    exact ⟨rfl, rfl⟩
  case plain =>
    rw [exec_ltolWrite, exec_registerWrite, execLtolWrite, execRegisterWrite, if_pos hp, if_pos hp]
    exact ⟨rfl, rfl⟩
  case repeated =>
    refine ⟨fun hop => ?_, fun hop => ?_, fun hop => ?_⟩
    · rw [exec_mgmtRead, execMgmtRead, if_neg (by omega), mgmtServe_of_repeated hsrc hseen]
    · rw [exec_mgmtWrite, execMgmtWrite, if_neg (not_not.mpr hop), mgmtServe_of_repeated hsrc hseen]
    · rw [exec_mgmtBlockRead, execMgmtBlockRead, if_neg (not_not.mpr hop), mgmtServe_of_repeated hsrc hseen]
  case stranger =>
    rw [exec_mgmtRead, exec_mgmtWrite, exec_mgmtBlockRead]
    exact execMgmt_of_stranger hsrc

end Sys2Proof.Machine
end

section

namespace Sys2Proof.Machine

/-! SLATE, CHECKPOINT and RESTORE (O38). A command at the head of its queue takes the step of its phase; the first step also makes the command's checks, in
their order. -/

theorem CkHead.queue {st : State} {op : Nat} {c : Cmd} (h : CkHead st op c) : ∃ t, st.ckQ = c :: t :=
  List.head?_eq_some_iff.mp h.head

/-- A context that runs or is pre-empted is in neither of the two states between, and in none in which a checkpoint is refused. -/
theorem ctxState_settled {s : CtxState} (hs : s = .running ∨ s = .preempted) :
    ¬ (s = .preempting ∨ s = .resuming) ∧ ¬ (s ≠ .running ∧ s ≠ .preempted) := by
  obtain rfl | rfl := hs
  · exact ⟨by decide, by decide⟩
  · exact ⟨by decide, by decide⟩

section
variable {st : State} {c : Cmd} {x : Ctx} {d res own ofs : Nat}

/-- SLATE's first step (R434). -/
theorem execSlate_begins (h : CtlHead st 4 c) (hp : c.phase = 0) (hctx : c.arg0 < 64) (harg : c.arg.toNat < 2 ^ 33)
    (hd : d = st.devRead 128 (c.arg.toNat * 128)) (hbad : ckBad d = false) (hpast : ckPast d = false) (hx : mget st.ctxs c.arg0 = some x)
    (hrec : st.recording c.arg0 = true) (hepoch : x.epoch.any (fun e => decide (bits d 159 128 ≤ e)) = false)
    (hs : x.state = .running ∨ x.state = .preempted) (hfree : st.ckBusy c.arg0 = false) :
    execSlate res own ofs st = .next (st.ctlPhase (c.step 1 (ckOf c.arg0 d st.tai true))) := by
  obtain ⟨hstill, hfit⟩ := ctxState_settled hs
  have hargs : ¬ (64 ≤ c.arg0 ∨ 2 ^ 33 ≤ c.arg.toNat) := by omega
  have hdesc : ¬ (ckBad d || ckPast d) = true := by rw [hbad, hpast]; decide
  have hopen : ¬ (!st.recording c.arg0 || x.epoch.any fun e => decide (bits d 159 128 ≤ e)) = true := by rw [hrec, hepoch]; decide
  have hidle : ¬ (x.state = .preempting ∨ x.state = .resuming ∨ st.ckBusy c.arg0 = true) := by
    rw [hfree, ← or_assoc, or_iff_left Bool.false_ne_true]
    exact hstill
  rw [execSlate, ctlOpAt_head h]
  dsimp only
  rw [hp, ← hd, if_neg hargs, if_neg hdesc, hx]
  dsimp only
  rw [if_neg hopen, if_neg hidle, if_neg hfit]
  rfl

/-- CHECKPOINT's first step (R459, R460). -/
theorem execCheckpoint_begins (h : CkHead st 1 c) (hp : c.phase = 0) (hport : st.ctlPort = c.port) (hx : mget st.ctxs c.id = some x)
    (hd : d = st.devRead 128 (bits c.word.toNat 32 0 * 128)) (hs : x.state = .running ∨ x.state = .preempted) (hfree : st.ckBusy c.id = false)
    (hbad : ckBad d = false) (hpast : ckPast d = false) :
    execCheckpoint res own ofs st = .next (st.ckPut (c.step 1 (ckOf c.id d st.tai (decide (x.state = .running))))) := by
  obtain ⟨t, hq⟩ := h.queue
  obtain ⟨hstill, hfit⟩ := ctxState_settled hs
  have hidle : ¬ (x.state = .preempting ∨ x.state = .resuming ∨ st.ckBusy c.id = true) := by
    rw [hfree, ← or_assoc, or_iff_left Bool.false_ne_true]
    exact hstill
  rw [execCheckpoint, hq]
  dsimp only
  rw [h.op, hp, ← hd, hbad, hpast, hx, if_neg (by decide), if_neg (by decide), if_neg (not_not.mpr hport)]
  dsimp only
  rw [if_neg hidle, if_neg hfit, if_neg Bool.false_ne_true, if_neg Bool.false_ne_true]
  rfl

/-- RESTORE of a manifest whose shards all have their digests and whose area image stands (R464). -/
theorem execRestore_of_shards {man : Nat} {data : List Nat} {e : CkEntry} {a : AreaImage} (h : CkHead st 2 c)
    (hx : mget st.ctxs c.id = some x) (hs : x.state = .preempted) (hfree : st.ckBusy c.id = false)
    (hfirst : (manEntries man).find? (fun e => decide (2 ^ 63 ≤ e.va)) = some e) (himage : mget st.images e.digest = some a)
    (hshards : ∀ p ∈ manShards man data, shardDigest p.2 = p.1.digest) :
    execRestore man data st = .next (if manValid man then
      (((st.putShards c.id (manShards man data)).zeroRest c.id (manShards man data)).install c.id e.digest (bits man 63 32) a).ckDone c 0
      else st.ckDone c 8) := by
  obtain ⟨t, hq⟩ := h.queue
  have hgood : (manShards man data).takeWhile (fun e => decide (shardDigest e.2 = e.1.digest)) = manShards man data :=
    List.takeWhile_eq_self_iff.mpr fun p hp => decide_eq_true (hshards p hp)
  have hstands : ¬ (x.state ≠ .preempted ∨ st.ckBusy c.id = true) := by
    rw [hs, hfree]
    decide
  rw [execRestore, hq]
  dsimp only
  rw [h.op, if_neg (by decide), hx]
  dsimp only
  rw [if_neg hstands, hgood, if_neg (not_not.mpr rfl), hfirst, Option.bind_some, himage]
  cases manValid man with
  | false => simp only [Bool.not_false, if_true, Bool.false_eq_true, if_false]
  | true => simp only [Bool.not_true, Bool.false_eq_true, if_false, if_true, Option.map_some]

end

/-- Settles O38: each step is that of the command's phase, and RESTORE's manifest is valid or not. That a context area is kept as an image, found by the
digest of the area's first shard, is the model's choice (log entry 20); that RESTORE asks for a pre-empted context is deduced (log entry 61). -/
theorem slateCheckpointRestoreComplete : Obligations.SlateCheckpointRestoreComplete := by
  unfold Obligations.SlateCheckpointRestoreComplete
  intro st c res own ofs
  refine
    ⟨fun d x h hp hctx harg hd hbad hpast hx hrec hepoch hs hfree =>
      (exec_slate ..).trans (execSlate_begins h hp hctx harg hd hbad hpast hx hrec hepoch hs hfree),
    fun k h hk => ⟨fun hp => ?slateStops, fun hp => ?slateShard, fun y m q hp hcl hm hq => ?slateOpens,
      fun y m hp hcl hm => ?slateAwaits, fun hp hreel => ?slateReel, fun y hp hy => ?slateEnds, fun y hp hy => ?slateResumes⟩,
    fun d x h hp hport hx hd hs hfree hbad hpast => (exec_checkpoint ..).trans (execCheckpoint_begins h hp hport hx hd hs hfree hbad hpast),
    fun k h hk => ?checkpoint,
    fun x man data e a h hx hs hfree hfirst himage hshards =>
      (exec_restore ..).trans (execRestore_of_shards h hx hs hfree hfirst himage hshards)⟩
  case slateStops | slateShard => simp only [exec_slate, execSlate, ctlOpAt_head h, hp, hk]
  case slateOpens => simp only [exec_slate, execSlate, ctlOpAt_head h, hp, hk, hcl, hm, hq]
  case slateAwaits =>
    simp only [exec_slate, execSlate, ctlOpAt_head h, hp, hk, hcl]
    split
    next hm4 _ => exact absurd hm4 hm
    next => rfl
  case slateReel => simp only [exec_slate, execSlate, ctlOpAt_head h, hp, hk, hreel, Bool.false_eq_true, if_false]
  case slateEnds => simp only [exec_slate, execSlate, ctlOpAt_head h, hp, hk, hy, if_true]
  case slateResumes => simp only [exec_slate, execSlate, ctlOpAt_head h, hp, hk, hy, Bool.false_eq_true, if_false]
  case checkpoint =>
    obtain ⟨t, hq⟩ := h.queue
    rw [exec_checkpoint, execCheckpoint, hq]
    dsimp only
    rw [h.op, hk, if_neg (by decide), if_neg (by decide)]
    refine ⟨fun hp => ?stops, fun hp => ?shard, fun hp => ?claims, fun y m hp hm hne => ?mirrors, fun y m hp hm heq => ?mirrored,
      fun y hp hy => ?ends, fun y hp hy => ?resumes⟩
    case stops | shard | claims => simp only [hp]
    case mirrors => simp only [hp, hm, if_neg hne]
    case mirrored => simp only [hp, hm, if_pos heq]
    case ends => simp only [hp, hy, if_true]
    case resumes => simp only [hp, hy, Bool.false_eq_true, if_false]

end Sys2Proof.Machine
end

section

namespace Sys2Proof.Machine

/-! The digest directory (O39). A message is taken from a peer that is not dead and whose fields are legal; what the hub then finds chooses its answer. -/

section
variable {st y : State} {src dg ofs ep pa lg : Nat}

/-- A legal claim is probed, and answered by how the probe ended (R461). -/
theorem execDigestClaim_of_legal {r : Claim} (hlo : 10 ≤ lg) (hhi : lg ≤ 24) (halign : pa % 128 = 0) (halive : st.dead.getLsbD src = false)
    (hr : st.claimHere src (dg % 2 ^ 512) ofs (ep % 2 ^ 32) pa lg = (y, r)) :
    execDigestClaim src dg ofs ep pa lg st = .next (match r with
      | .won => y.sysSend src 2 1 0 0
      | .lost o f => y.sysSend src 2 2 10 (o + f * 2 ^ 16)
      | .full => y.sysSend src 2 3 0 0) := by
  have hlegal : ¬ (lg < 10 ∨ 24 < lg ∨ pa % 128 ≠ 0 ∨ st.dead.getLsbD src = true) := by
    simp only [halive, Bool.false_eq_true, or_false]
    omega
  rw [execDigestClaim, if_neg hlegal]
  cases r with
  | won => simp only [hr]
  | lost o f => simp only [hr]
  | full => simp only [hr]

end

/-- A command that waits for a claim's reply and has had none within PEERTMO is late (R461). -/
theorem claimLate {m : Cmd} {k : Ckpt} {tmo tai : Nat} (hp : m.phase = 2) (hk : m.ck = some k) (hasked : k.asked = true)
    (hlate : k.since + 1000 * tmo ≤ tai) :
    (decide (m.phase = 2) && m.ck.any fun k => k.asked && decide (k.since + 1000 * tmo ≤ tai)) = true := by
  rw [hk, Option.any_some, hasked, decide_eq_true hp, decide_eq_true hlate]
  rfl

/-- Settles O39: the sender is alive and the fields are legal, and a claim's command has waited too long. The SYS packets' codes and the layouts of their
payloads are the model's choice (log entry 22). -/
theorem digestDirectoryComplete : Obligations.DigestDirectoryComplete := by
  unfold Obligations.DigestDirectoryComplete
  intro st src dg ofs ep pa lg n v
  refine
    ⟨fun y r hlo hhi halign halive hr => ?claim, fun hin halive => ?mirror, fun halive hin => ?fetch, fun hlo hhi halive => ?release,
    fun m q k hq hp hk hasked hlate => ?checkpoint, fun m q k hnone hq hp hk hasked hlate => ?slate⟩
  case claim =>
    rw [exec_digestClaim, execDigestClaim_of_legal hlo hhi halign halive hr]
    refine ⟨?_, ?_, ?_⟩
    · rintro rfl
      rfl
    · rintro o f rfl
      rfl
    · rintro rfl
      rfl
  case mirror =>
    rw [exec_shardMirror, execShardMirror, if_neg (by simp only [halive, Bool.false_eq_true, or_false]; omega)]
  case fetch =>
    rw [exec_shardFetch, execShardFetch, if_neg (by simp only [halive, Bool.false_eq_true, false_or]; omega)]
    refine ⟨fun x hx => ?_, fun hx => ?_⟩
    · rw [hx]
    · rw [hx]
  case release =>
    rw [exec_digestRelease, execDigestRelease, if_neg (by simp only [halive, Bool.false_eq_true, or_false]; omega)]
  case checkpoint =>
    rw [exec_claimReplyTimeout, execClaimReplyTimeout, hq]
    dsimp only
    rw [if_pos (claimLate hp hk hasked hlate), hk, Option.map_some]
  case slate =>
    rw [exec_claimReplyTimeout, execClaimReplyTimeout, hnone, hq]
    dsimp only
    rw [if_pos (claimLate hp hk hasked hlate), hk, Option.map_some]

end Sys2Proof.Machine
end

section

namespace Sys2Proof.Machine

/-! Weir commands and packets (O40). `weirCmd_head` gives a command on a loaded slot; LOAD has checks of its own, and a packet the state of its slot. -/

section
variable {st : State} {c : Cmd} {d port : Nat}

/-- LOAD of a kernel that passes the checks of R373, between two packets. -/
theorem execLoad_head {ws : List Nat} {y : State} (h : WeirHead st 1 c d) (hcode : bits d 191 128 % 4 = 0)
    (hslot : mget (mgetD st.weirs (bits d 15 8) {}).slots (bits d 23 16) = none) (hdom : (st.ctxOfDomain (bits d 63 48)).isSome = true)
    (hfree : st.weirFor (bits d 63 48) (decide (bits d 31 24 = 1)) = none) (hpage : bits d 95 64 % 4096 = 0) (hmin : 4096 ≤ bits d 95 64)
    (hroom : (mgetD st.weirs (bits d 15 8) {}).slots.foldl (fun n e => n + e.2.flowsz) 0 + bits d 95 64 ≤ 262144) (hlk : bits d 47 40 ≤ 13)
    (hlkroom : bits d 47 40 ≠ 0 → 32 * bits d 351 320 + 32 * 2 ^ bits d 47 40 ≤ bits d 95 64) (hn : 1 ≤ bits d 127 96) (hn' : bits d 127 96 ≤ 128)
    (hws : ws = (List.range (bits d 127 96)).map (fun i => st.devRead 4 (bits d 191 128 + 4 * i))) (hok : weirCheck ws (bits d 47 40) = (0, 0))
    (hrun : (mgetD st.weirs (bits d 15 8) {}).run = none)
    (hy : st.weirGate (bits d 15 8) (bits d 23 16) (bits d 63 48) (recWeir 2 (bits d 23 16) 0 1) = some y) :
    execLoad st = .next ((y.weirLoad (bits d 15 8) (bits d 23 16) (weirSlotOf d ws)).weirDone c 0 (weirWcet ws) 0) := by
  obtain ⟨hhead, hfields, hop⟩ := h
  have hload : ¬ (true = true ∧ (!weirBad1 d) = true ∧ bits d 7 0 ≠ 1) := by simp [hop]
  have hword : ¬ ((!true) = true ∨ weirBad1 d = true ∨ bits d 191 128 % 4 ≠ 0 ∨
      (mget (mgetD st.weirs (bits d 15 8) {}).slots (bits d 23 16)).isSome = true) := by
    simp [hfields, hcode, hslot]
  have hdomain : ¬ ((st.ctxOfDomain (bits d 63 48)).isNone = true ∨ (st.weirFor (bits d 63 48) (decide (bits d 31 24 = 1))).isSome = true) := by
    simp [hfree, Option.isSome_iff_ne_none.mp hdom]
  have hsize : ¬ (bits d 95 64 % 4096 ≠ 0 ∨ bits d 95 64 < 4096 ∨ 262144 < bits d 95 64 ∨ 13 < bits d 47 40 ∨
      262144 < (mgetD st.weirs (bits d 15 8) {}).slots.foldl (fun n e => n + e.2.flowsz) 0 + bits d 95 64 ∨
      (bits d 47 40 ≠ 0 ∧ bits d 95 64 < 32 * bits d 351 320 + 32 * 2 ^ bits d 47 40)) := by omega
  have hwords : ¬ (bits d 127 96 = 0 ∨ 128 < bits d 127 96) := by omega
  rw [execLoad, hhead]
  dsimp only
  rw [if_neg hload, if_neg hword, if_neg hdomain, if_neg hsize, if_neg hwords, ← hws, hok, hrun, hy]
  rfl

/-- A slot that is loaded for a packet's domain and attach point takes it into its kernel, or drops it where the slot is halted (R371, R374). -/
theorem execWeirPacket_mine {slot f : Nat} {p : Packet} {q : List (Nat × Nat × Packet)} {s : WeirSlot} {y : State}
    (hrun : (mgetD st.weirs port {}).run = none) (hq : (mgetD st.weirs port {}).queue = (slot, f, p) :: q)
    (hs : (mget (mgetD st.weirs port {}).slots slot).filter (fun s => decide (s.domain = pDom p.hdr) && s.egress == decide (f = 0xFF)) = some s)
    (hy : (st.updWeir port fun w => { w with queue := w.queue.eraseIdx 0 }).weirGate port slot s.domain (recWeir 1 slot p.hdr (pSeq p.hdr)) = some y) :
    execWeirPacket port 0 st = .next (if s.halted then
        (if s.egress then y.leave (skipNotice p.hdr (pDst p.hdr)) else y.delivered p.hdr false)
      else y.updWeir port fun w => { w with run := some { slot := slot, port := f, orig := pDst p.hdr, pkt := p } }) := by
  have hfirst : (mgetD st.weirs port {}).queue[0]? = some (slot, f, p) := by rw [hq]; rfl
  rw [execWeirPacket]
  dsimp only
  rw [hrun, hfirst]
  dsimp only
  rw [List.take_zero, List.all_nil, hs]
  dsimp only
  rw [hy]
  rfl

/-- One that is not lets the packet pass (R370, R374). -/
theorem execWeirPacket_other {slot f : Nat} {p : Packet} {q : List (Nat × Nat × Packet)}
    (hrun : (mgetD st.weirs port {}).run = none) (hq : (mgetD st.weirs port {}).queue = (slot, f, p) :: q)
    (hs : (mget (mgetD st.weirs port {}).slots slot).filter (fun s => decide (s.domain = pDom p.hdr) && s.egress == decide (f = 0xFF)) = none) :
    execWeirPacket port 0 st = .next (if f = 0xFF then (st.updWeir port fun w => { w with queue := w.queue.eraseIdx 0 }).leave p
      else ((st.updWeir port fun w => { w with queue := w.queue.eraseIdx 0 }).land p).getD st) := by
  have hfirst : (mgetD st.weirs port {}).queue[0]? = some (slot, f, p) := by rw [hq]; rfl
  rw [execWeirPacket]
  dsimp only
  rw [hrun, hfirst]
  dsimp only
  rw [List.take_zero, List.all_nil, hs]
  rfl

end

/-- Settles O40: a command passes its checks and its slot's gate, and the first packet's slot chooses its way. That a halted slot's packets are dropped and
that a switch Weir's record is logged at RID 674 is deduced (log entry 52). -/
theorem weirCommandsComplete : Obligations.WeirCommandsComplete := by
  unfold Obligations.WeirCommandsComplete
  intro st port
  refine
    ⟨fun c d ws y h hcode hslot hdom hfree hpage hmin hroom hlk hlkroom hn hn' hws hok hrun hy =>
      (exec_load st).trans (execLoad_head h hcode hslot hdom hfree hpage hmin hroom hlk hlkroom hn hn' hws hok hrun hy),
    fun c d s y h hs hrun hy => ?unload, fun c d s y z h hs hrun hy hofs hlen hin hz => ?flowrd, fun c d s y z v h hs hrun hy hofs hlen hin hz => ?flowwr,
    fun slot p q f hrun hq => ⟨_, rfl, fun hs hf => ?leaves, fun y hs hf hy => ?lands, fun s y hs hhalt hy => ?runs, fun s y hs hhalt hy => ?dropped⟩,
    fun dom cls slot code det time hdr => exec_switchWeirRecord ..⟩
  case unload => rw [exec_unload, execUnload, weirCmd_head h hs (by simp) hrun hy rfl]
  case flowrd => rw [exec_flowrd, execFlowrd, weirCmd_head h hs (fun _ => ⟨hofs, hlen, hin⟩) hrun hy hz]
  case flowwr =>
    rw [exec_flowwr, execFlowwr, weirCmd_head h hs (fun _ => ⟨hofs, hlen, hin⟩) hrun hy (congrArg (Option.map _) hz)]
  case leaves => rw [exec_weirPacket, execWeirPacket_other hrun hq hs, if_pos hf]
  case lands => rw [exec_weirPacket, execWeirPacket_other hrun hq hs, if_neg hf, hy, Option.getD_some]
  case runs => rw [exec_weirPacket, execWeirPacket_mine hrun hq hs hy, hhalt, if_neg Bool.false_ne_true]
  case dropped => rw [exec_weirPacket, execWeirPacket_mine hrun hq hs hy, hhalt, if_pos rfl]

end Sys2Proof.Machine
end

section

namespace Sys2Proof.Machine

/-! Replay and the reel (O41). A command of REPCMD finds its context and replay as its step asks; an event finds the log, the take, the reel or the ring so. -/

theorem RepHead.queue {st : State} {op : Nat} {c : Cmd} (h : RepHead st op c) : ∃ t, st.repQ = c :: t :=
  List.head?_eq_some_iff.mp h.head

/-- The slate that ARM takes: that of the checkpoint the context was restored from, where it stands in the reel, and else the first (R436). -/
theorem slate_of_own_or_first {own first : Option ReelTake} {sl : ReelTake} (h : own = some sl ∨ own = none ∧ first = some sl) :
    (if own.isSome then own else first) = some sl := by
  obtain rfl | ⟨rfl, rfl⟩ := h
  · rfl
  · rfl

section
variable {st y : State} {c : Cmd} {x : Ctx} {n rid : Nat}

/-- ARM of a pre-empted context with a slate and readable takes (R436). -/
theorem execArm_head {sl : ReelTake} {slates : List ReelTake} {r : Replay} (h : RepHead st 1 c) (hx : mget st.ctxs c.id = some x)
    (hs : x.state = .preempted) (hlive : x.replay.any (fun r => decide (r.state ≤ 3)) = false)
    (hslates : slates = (st.reelAll x.dev).filter (fun t => decide (t.rid = 0xFFFE) && decide (t.epoch = c.word.toNat % 2 ^ 32)))
    (hsl : slates.find? (fun t => decide (wordsNat ((t.words.drop 3).take 8) = x.image)) = some sl ∨
      slates.find? (fun t => decide (wordsNat ((t.words.drop 3).take 8) = x.image)) = none ∧ slates.head? = some sl) (hok : sl.ok = true)
    (htakes : armError (takesOf (st.reelAll x.dev) sl.slateCtx) (c.word.toNat % 2 ^ 32) sl.slateCtx = none)
    (hr : r = loadAll (takesOf (st.reelAll x.dev) sl.slateCtx) { epoch := c.word.toNat % 2 ^ 32, src := sl.slateCtx, port := c.port, begun := st.clock })
    (hy : y = (((st.closeTakes c.id 0).setTimes c.id sl).loadWeirs c.id).zeroGrants c.id) :
    execArm st = .next (((y.updCtx c.id fun x => { x with replay := some r, acnt := [], det := bits (sl.words.headD 0) 47 40 % 4 }).repDone c 0).repState
      c.id 1 0 0 0) := by
  obtain ⟨t, hq⟩ := h.queue
  have hstands : ¬ (x.state ≠ .preempted ∨ (x.replay.any fun r => decide (r.state ≤ 3)) = true) := by
    rw [hs, hlive]
    decide
  have hgood : ¬ (!sl.ok) = true := by
    rw [hok]
    decide
  rw [execArm, hq]
  dsimp only
  rw [if_neg (by rw [h.op]; decide), repAt_head h, hx]
  dsimp only
  rw [if_neg hstands, ← hslates, slate_of_own_or_first hsl]
  dsimp only
  rw [if_neg hgood, htakes, ← hr, ← hy]

/-- GO's first step: the armed context begins to resume (R436 step 4). -/
theorem execGo_begins (h : RepHead st 2 c) (hx : mget st.ctxs c.id = some x) (hp : c.phase = 0) (hs : x.state = .preempted)
    (hr : x.replay.any (fun r => decide (r.state = 1)) = true)
    (hy : y = ((((st.updCtx c.id fun x => { x with replay := x.replay.map fun (r : Replay) => { r with begun := st.clock, wait := [] } }).resumeStart
      c.id).repState c.id 2 0 0 0).resumeGo c.id)) :
    execGo st = .next { y with repQ := { c with phase := 1 } :: y.repQ.tail } := by
  rw [execGo, repAt_head h]
  dsimp only
  rw [hx]
  dsimp only
  rw [if_pos hp, if_pos ⟨hr, hs⟩, ← hy]

/-- GO's later steps: the context's placements, and then the end of the command. -/
theorem execGo_goes (h : RepHead st 2 c) (hx : mget st.ctxs c.id = some x) (hp : c.phase ≠ 0) :
    execGo st = .next (if x.state = .resuming ∧ x.replay.any (fun r => decide (r.state = 2)) = true then st.resumeGo c.id
      else st.repDone c (st.port c.port).repstat) := by
  rw [execGo, repAt_head h]
  dsimp only
  rw [hx]
  dsimp only
  rw [if_neg hp]

/-- A divergence: the record has been passed, or is its unit's next and has been waited for or is another Weir command's (R438). -/
theorem execReplayDivergence_stops {r : Replay} {i ti : Nat} {q : List Nat} (hr : (st.ctx n).replay = some r) (hs : r.state = 2)
    (hrec : (mgetD r.logs rid [])[i]? = some (ti, q))
    (hdiverges : st.missed rid q = true ∨ (unitHeads rid (mgetD r.logs rid [])).any (fun h => decide (h = (ti, q))) = true ∧
      (max r.begun (mgetD r.wait (recUnit rid q) 0) + 2 ^ 24 ≤ st.clock ∨ st.opcDiffers rid q = true)) :
    execReplayDivergence n rid i st = .next (st.repStop n 5 rid ti (q.headD 0 / 2 ^ 60)) := by
  have hstops : (decide (r.state = 2) && (((unitHeads rid (mgetD r.logs rid [])).any (fun h => decide (h = (ti, q))) &&
      (decide (max r.begun (mgetD r.wait (recUnit rid q) 0) + 2 ^ 24 ≤ st.clock) || st.opcDiffers rid q)) || st.missed rid q)) = true := by
    rw [decide_eq_true hs, Bool.true_and, Bool.or_eq_true, Bool.and_eq_true, Bool.or_eq_true, decide_eq_true_eq]
    exact hdiverges.symm
  rw [execReplayDivergence, hr]
  dsimp only
  rw [hrec]
  dsimp only
  rw [if_pos hstops]

/-- A running replay looks at its log again (R436 steps 2 and 5, R438): takes streamed in are taken up; else a recorder's next take in error stops it; else
the end of every log does, or the switch that the log holds is carried out. -/
theorem execReplayEndOfLog_running {r r' : Replay} {ts : List ReelTake} (hr : (st.ctx n).replay = some r) (hs : r.state = 2)
    (hts : ts = takesOf (st.reelAll (st.ctx n).dev) r.src) (hr' : r' = loadAll ts r) :
    execReplayEndOfLog n st = .next (if r'.next ≠ r.next then st.updCtx n fun x => { x with replay := some r' }
      else match nextError ts r with
        | some e => st.repStop n 6 e.2.1 e.2.2 e.1
        | none => if r.logs.all fun e => decide (e.2 = []) then st.repStop n 4 0 0 0 else st.replaySwitch n) := by
  subst hts hr'
  rw [execReplayEndOfLog, hr]
  exact congrArg _ (if_neg (not_not.mpr hs))

/-- The drain copies the next take of a device's reel where the ring has room (R432). -/
theorem execDrainCopy_copies {dev a k : Nat} (hdev : st.drainDev = some dev) (htake : st.undrained dev = some (a, k)) (hon : st.reelDrain ≠ 0)
    (hring : st.drSize ≠ 0) (hroom : st.drProd + k ≤ st.drSize + st.drCons)
    (hy : y = ({ st with free := st.free + 1 } : State).ringWrite dev a st.drProd k) :
    execDrainCopy st = .next ({ y with drProd := y.drProd + k }.updReel dev fun r => { r with dp := r.dp + k }) := by
  rw [execDrainCopy, hdev, Option.bind_some, htake, Option.map_some]
  dsimp only
  rw [if_neg (by omega), ← hy]

end

section
variable {st : State} {n rid j : Nat} {k : Cut}

/-- A reached cut point whose ACT is not 2, or whose group is not of the context, freezes the device, and with ACT 1 the pod (R439). -/
theorem cutAct_freezes (h : k.act = 2 → ∀ g, mget st.groups (rid * 512 + k.group) = some g → st.ctxOf g ≠ n) :
    st.cutAct n rid j k = (if k.act = 1 then st.freezePod n else st).repStop n 3 rid k.tidx 0 := by
  refine if_neg fun ⟨hact, hmine⟩ => ?_
  split at hmine
  next g hg => exact h hact g hg (of_decide_eq_true hmine)
  next => exact Bool.false_ne_true hmine

/-- One whose ACT is 2 posts BKPT to its group, where that is of the context (R439). -/
theorem cutAct_traps {g : Group} (hact : k.act = 2) (hg : mget st.groups (rid * 512 + k.group) = some g) (hmine : st.ctxOf g = n) :
    st.cutAct n rid j k = st.postTrap (rid * 512 + k.group) { trap := { cause := .bkpt, detail := 2 ^ 20 + j }, kind := .async } := by
  refine if_pos ⟨hact, ?_⟩
  rw [hg]
  exact decide_eq_true hmine

end

/-- Settles O41: a command, and an event, finds what its clause names. That ARM sets the context's DET to the slate's, and which takes concern its replay,
is deduced (log entry 59); which reel the drain turns to is free (log entry 7). -/
theorem recordAndReplayComplete : Obligations.RecordAndReplayComplete := by
  unfold Obligations.RecordAndReplayComplete
  intro st c n rid i
  refine
    ⟨fun x sl slates h hx hs hlive hslates hsl hok htakes =>
      ⟨_, _, rfl, rfl, (exec_arm st).trans (execArm_head h hx hs hlive hslates hsl hok htakes rfl rfl)⟩,
    fun x h hx hp hs hr => ⟨_, rfl, (exec_go st).trans (execGo_begins h hx hp hs hr rfl)⟩,
    fun x h hx hp hs hr => ?goes, fun x h hx hp hs => ?gone, ?stops, ?thaws, exec_cutPointReached n rid st,
    fun j k => ⟨fun h => ?freezes, fun h => ?freezesPod,
      fun g h hg => ⟨fun hmine => cutAct_traps h hg hmine, fun hother => ?notMine⟩⟩,
    exec_podFreeze st, fun r ti q hr hs hrec hdiverges => (exec_replayDivergence n rid i st).trans (execReplayDivergence_stops hr hs hrec hdiverges),
    fun r r' ts hr hs hts hr' => ?endOfLog, fun t ht hage => ?ages, exec_reelPlace st, fun dev t y ht hy => ?places,
    fun dev a k y hdev htake hon hring hroom hy => (exec_drainCopy st).trans (execDrainCopy_copies hdev htake hon hring hroom hy)⟩
  case goes => rw [exec_go, execGo_goes h hx hp, if_pos ⟨hs, hr⟩]
  case gone => rw [exec_go, execGo_goes h hx hp, if_neg (by simp [hs])]
  case stops =>
    rintro t h hr rfl
    rw [exec_stop, execStop, repAt_head h, if_pos hr]
  case thaws =>
    rintro t h hr rfl
    rw [exec_replayThaw, execReplayThaw, repAt_head h, if_pos hr]
  case freezes => rw [cutAct_freezes (by simp [h]), if_neg (by simp [h])]
  case freezesPod => rw [cutAct_freezes (by simp [h]), if_pos h]
  case notMine =>
    have hnot : k.act = 2 → ∀ g', mget st.groups (rid * 512 + k.group) = some g' → st.ctxOf g' ≠ n := by
      intro _ g' hg'
      obtain rfl : g = g' := Option.some.inj (hg.symm.trans hg')
      exact hother
    rw [cutAct_freezes hnot, if_neg (by simp [h])]
  case endOfLog =>
    rw [exec_replayEndOfLog, execReplayEndOfLog_running hr hs hts hr']
    refine ⟨fun hnew => ?_, fun e hsame he => ?_, fun hsame he hall => ?_, fun hsame he hleft => ?_⟩
    · rw [if_pos hnew]
    · rw [if_neg (not_not.mpr hsame), he]
    · rw [if_neg (not_not.mpr hsame), he, hall, if_pos rfl]
    · rw [if_neg (not_not.mpr hsame), he, hleft, if_neg Bool.false_ne_true]
  case ages =>
    rw [exec_takeAgeExpiry, execTakeAgeExpiry, ht]
    exact congrArg _ (if_pos hage)
  case places =>
    rw [State.placeNext, ht]
    dsimp only
    rw [hy]

end Sys2Proof.Machine
end
